-- ==== Sys2Proof/Word.lean ====
section
/-! DEFINITION. The words of the E9 and the container every sparse piece of state uses. -/

namespace Sys2Proof

/-- A general register, a CSR, a virtual address while it is computed (R55, R101). -/
abbrev Word := BitVec 64

/-- The smallest addressable unit (R5). -/
abbrev Byte := BitVec 8

/-- A vector register, one stream entry, one parcel: 64 bytes, lane i at bits [32i+31:32i] (R5, R11, R55). -/
abbrev Vec := BitVec 512

/-- A lane-slot address: bits [56:2] of a byte address (R53). -/
abbrev Slot := BitVec 55

/-- A finite map from Nat keys, as plain data: key and value pairs, rising by key. What an unlisted key
reads as is given by the accessor (Machine/Map.lean). -/
abbrev SMap (α : Type) := List (Nat × α)

end Sys2Proof
end

