-- ==== Sys2Proof/Syntax.lean ====
section
/-! DEFINITION. The operand types and the ONE inductive of instructions and events: one constructor per row of
spec/opcode_table.json, in the table's order. A field whose encoding has reserved values is a closed type here, so no
term of Instr holds a reserved value of such a field (R176, R179, R181). -/

namespace Sys2Proof

/-- The engines of a context (R53). -/
inductive Eng where | x | a | m
  deriving DecidableEq, Repr, Inhabited

abbrev RegG := BitVec 5
abbrev RegV := BitVec 5
abbrev RegP := BitVec 7
abbrev RegB := BitVec 4
abbrev RegC := BitVec 4
/-- x0 to x31 of a hart. -/
abbrev RegX := BitVec 5
/-- Guard p0 to p15 of an X instruction (R57). -/
abbrev GuardP := BitVec 4
/-- Guard q0 to q3 of an A instruction (R179). -/
abbrev GuardQ := BitVec 2
abbrev StreamNo := BitVec 4
abbrev LoopNo := BitVec 2
abbrev TimelineNo := BitVec 2

/-- Element types (R78); code 0xF is reserved and has no constructor. -/
inductive Ty where
  | i8 | i16 | i32 | i64 | n8 | n16 | n32 | n64 | fp8e4 | fp8e5 | fp16 | bf16 | f32 | f64 | t30
  deriving DecidableEq, Repr, Inhabited

/-- Conditions of cmp, cmpi and a.cmp (R195). -/
inductive Cond where | eq | ne | lt | ge | ltu | geu
  deriving DecidableEq, Repr, Inhabited

/-- Conditions of vcmp (R215). -/
inductive VCond where | eq | ne | lt | le | gt | ge | un
  deriving DecidableEq, Repr, Inhabited

/-- Rounding codes 0 to 5 (R84). -/
inductive Rnd where | rne | rtz | rup | rdn | rna | sat
  deriving DecidableEq, Repr, Inhabited

/-- Reductions of vred (R220). -/
inductive RedOp where | sum | max | min | argmax
  deriving DecidableEq, Repr, Inhabited

/-- Tests of br (R176). -/
inductive BrTest where | t | f | any | all
  deriving DecidableEq, Repr, Inhabited

/-- The six token FIFOs (R72). -/
inductive Fifo where | kxa | kax | kxm | kmx | kam | kma
  deriving DecidableEq, Repr, Inhabited

/-- Order codes 0 to 4 (R128). -/
inductive Ord where | weak | rlx | acq | rel | acqrel
  deriving DecidableEq, Repr, Inhabited

/-- Scope codes 0 to 4 (R127). -/
inductive Scope where | cell | patch | die | pkg | sys
  deriving DecidableEq, Repr, Inhabited

/-- Operations of amo (R235). -/
inductive AmoOp where | add | and | or | xor | min | max | minu | maxu | swap
  deriving DecidableEq, Repr, Inhabited

/-- Fence kinds (R140). -/
inductive FenceKind where | full | acq | rel | st | stream | ctx
  deriving DecidableEq, Repr, Inhabited

/-- The eleven CSRs of R62. -/
inductive Csr where | fmode | xfid | ctx | cycle | time | late | gst | gstk | gtt | gmt | gdim
  deriving DecidableEq, Repr, Inhabited

/-- The ten system registers of R341. -/
inductive SysReg where | kchan | wdlim | lease | dpcnt | cstat | pgate | fbhdr | s1root | plctab | scrtok
  deriving DecidableEq, Repr, Inhabited

/-- The fields of the shadow command set, by number (R251). -/
inductive Shadow where
  | op | aStream | bSet | accBase | shapeM | shapeK | shapeN | patchW | patchH | patchRow | patchCol | tl | doneChan
  | sliceK | outStream | scaleMode | xfid
  deriving DecidableEq, Repr, Inhabited

/-- The two pipes of a matrix unit (R250). -/
inductive Pipe where | l | c
  deriving DecidableEq, Repr, Inhabited

/-- What an access needs of a translation (R369, R372). -/
inductive Need where | fetch | read | write | readWrite
  deriving DecidableEq, Repr, Inhabited

/-- An element of a vector access (R300): its number, how many registers from the access's first its own group begins, its address, and whether
the mask lets it take part. -/
structure VecEl where
  num    : Nat
  reg    : Nat
  va     : Word
  active : Bool
  deriving DecidableEq, Repr, Inhabited

/-- One access of a hart (R148, R300): a fetch, a load (sign-extended or not), a store, an AMO, LR, SC, a fence, or a vector load or store of
some elements, in element order. -/
inductive HartKind where
  | fetch | load (signed : Bool) | store | amo (op : AmoOp) | lr | sc | fence (kind : FenceKind)
  | vload (els : List VecEl) | vstore (els : List VecEl)
  deriving DecidableEq, Repr, Inhabited

/-- A hart's access: virtual address, size in bytes of the access or element, the data stored or the AMO operand, the register that takes the
value (of a vector access its first vector register), and aq and rl. -/
structure HartAcc where
  kind : HartKind
  va   : Word
  size : Nat
  data : Word
  rd   : RegX
  aq   : Bool
  rl   : Bool
  deriving DecidableEq, Repr, Inhabited

/-- A stage-2 segment entry (R374). -/
structure Segment where
  hbase : Nat
  hsize : Nat
  lbase : Nat
  lsize : Nat
  deriving DecidableEq, Repr, Inhabited

/-- What Belvedere fixes when it creates a partition (R354, R356, R374, R376, R406). -/
structure PartCfg where
  gridW  : Nat
  gridH  : Nat
  table  : List (BitVec 32)
  seg    : Segment
  slices : List Nat
  jobs   : List (BitVec 32)
  ring   : Option Word
  kchans : List (BitVec 64)
  deriving DecidableEq, Repr, Inhabited

/-- Where an uncorrectable error strikes (R389). -/
inductive ErrAt where | line (n : Nat) | granule (cell g : Nat)
  deriving DecidableEq, Repr, Inhabited

/-- A line with the number of the bank that is its home (R391). -/
structure HomeLine where
  line : Nat
  home : Nat
  deriving DecidableEq, Repr, Inhabited

/-- An agent's request for a line whose home is a bank (R387, R388): served says that it reaches the home, which performs it, and else its
agent only sends it. -/
structure LineAsk where
  line   : Nat
  home   : Nat
  served : Bool
  deriving DecidableEq, Repr, Inhabited

/-- A request with the bytes that the agent stores into the line once it has it, from an offset on. -/
structure StoreAsk where
  line   : Nat
  home   : Nat
  off    : Nat
  bytes  : List Byte
  served : Bool
  deriving DecidableEq, Repr, Inhabited

/-- A set of a cache bank (R391). -/
structure BankSet where
  bank : Nat
  set  : Nat
  deriving DecidableEq, Repr, Inhabited

/-- A virtual function, or the physical function of a port (R398, R400). -/
inductive HostFn where | vf (n : Nat) | pf (port : Nat)
  deriving DecidableEq, Repr, Inhabited

/-- A window onto a partition's memory (R399, R401): BAR2 of a VF, or the CXL.mem range of a logical device of a port. -/
inductive HostWin where | vf (n : Nat) | cxlMem (port ld : Nat)
  deriving DecidableEq, Repr, Inhabited

/-- A host access through a window (R401). -/
inductive HostAcc where | read (len : Nat) | write (bytes : List Byte)
  deriving DecidableEq, Repr, Inhabited

/-- A request that reaches a host port (R399, R400, R410): a configuration read or write, a BAR0 read of BSTAT, a BAR0 read of a function at
an offset, or another one. ld names an unbound or bound logical device in CXL mode. -/
inductive CfgReq where
  | config (ld : Option Nat) (write : Bool)
  | readBstat
  | readBar0 (fn : HostFn) (off : Nat)
  | other (ld : Option Nat)
  deriving DecidableEq, Repr, Inhabited

/-- A register with no row of its own in the table (R8): the Xenx CSRs of a hart (R297), the registers of a queue
interface (R403), a remap entry (R404) and a PASID entry (R400). -/
inductive DevReg where
  | hartCsr (core num : Nat)
  | queue (fn : HostFn) (qi off : Nat)
  | remap (fn : HostFn) (entry word : Nat)
  | pasid (fn : HostFn) (entry : Nat)
  deriving DecidableEq, Repr, Inhabited

/-- The instructions of the X, A and Matrix engines and of the harts, and the device's own steps. -/
inductive Instr where
  /-- NOP, R188: X no-operation. -/
  | xNop (g : GuardP)
  /-- DONE, R188: Ends X's part of the invocation; later X lanes of the line are not executed. -/
  | xDone (g : GuardP)
  /-- SYS, R189: Retires and raises Sys (0x30) with g[a] as the service request; X waits for the kernel's reply, whose value goes into g[d]; in K mode it is a Belvedere service request. -/
  | xSys (d : RegG) (a : RegG) (g : GuardP)
  /-- EBRK, R190: Retires and raises Break (0x31), delivered as Sys is. -/
  | xEbrk (g : GuardP)
  /-- ADD, R191: g[d] = g[a] + g[b], modulo 2^64. -/
  | xAdd (d : RegG) (a : RegG) (b : RegG) (g : GuardP)
  /-- SUB, R191: g[d] = g[a] - g[b], modulo 2^64. -/
  | xSub (d : RegG) (a : RegG) (b : RegG) (g : GuardP)
  /-- AND, R191: Bitwise AND of g[a] and g[b]. -/
  | xAnd (d : RegG) (a : RegG) (b : RegG) (g : GuardP)
  /-- OR, R191: Bitwise OR of g[a] and g[b]. -/
  | xOr (d : RegG) (a : RegG) (b : RegG) (g : GuardP)
  /-- XOR, R191: Bitwise XOR of g[a] and g[b]. -/
  | xXor (d : RegG) (a : RegG) (b : RegG) (g : GuardP)
  /-- ANDN, R191: g[a] AND NOT g[b]. -/
  | xAndn (d : RegG) (a : RegG) (b : RegG) (g : GuardP)
  /-- SHL, R191: Shifts g[a] left by g[b][5:0]. -/
  | xShl (d : RegG) (a : RegG) (b : RegG) (g : GuardP)
  /-- SHR, R191: Shifts g[a] right by g[b][5:0], filling with zeros. -/
  | xShr (d : RegG) (a : RegG) (b : RegG) (g : GuardP)
  /-- SRA, R191: Arithmetic right shift of g[a] by g[b][5:0]. -/
  | xSra (d : RegG) (a : RegG) (b : RegG) (g : GuardP)
  /-- MIN, R191: Signed minimum of g[a] and g[b]. -/
  | xMin (d : RegG) (a : RegG) (b : RegG) (g : GuardP)
  /-- MAX, R191: Signed maximum of g[a] and g[b]. -/
  | xMax (d : RegG) (a : RegG) (b : RegG) (g : GuardP)
  /-- MINU, R191: Unsigned minimum of g[a] and g[b]. -/
  | xMinu (d : RegG) (a : RegG) (b : RegG) (g : GuardP)
  /-- MAXU, R191: Unsigned maximum of g[a] and g[b]. -/
  | xMaxu (d : RegG) (a : RegG) (b : RegG) (g : GuardP)
  /-- CLZ, R191: Counts the leading zero bits of g[a]. -/
  | xClz (d : RegG) (a : RegG) (g : GuardP)
  /-- CTZ, R191: Counts the trailing zero bits of g[a]. -/
  | xCtz (d : RegG) (a : RegG) (g : GuardP)
  /-- POPC, R191: Counts the one bits of g[a]. -/
  | xPopc (d : RegG) (a : RegG) (g : GuardP)
  /-- MUL, R192: Low 64 bits of g[a] times g[b]. -/
  | xMul (d : RegG) (a : RegG) (b : RegG) (g : GuardP)
  /-- MULH, R192: High 64 bits of the signed 128-bit product. -/
  | xMulh (d : RegG) (a : RegG) (b : RegG) (g : GuardP)
  /-- MULHU, R192: High 64 bits of the unsigned 128-bit product. -/
  | xMulhu (d : RegG) (a : RegG) (b : RegG) (g : GuardP)
  /-- DIV, R192: Signed division that truncates toward zero, with defined results for a zero divisor and for overflow. -/
  | xDiv (d : RegG) (a : RegG) (b : RegG) (g : GuardP)
  /-- DIVU, R192: Unsigned division; a zero divisor gives all ones. -/
  | xDivu (d : RegG) (a : RegG) (b : RegG) (g : GuardP)
  /-- REM, R192: Signed remainder, taking the sign of the dividend. -/
  | xRem (d : RegG) (a : RegG) (b : RegG) (g : GuardP)
  /-- REMU, R192: Unsigned remainder; a zero divisor gives the dividend. -/
  | xRemu (d : RegG) (a : RegG) (b : RegG) (g : GuardP)
  /-- ADDI, R193: Adds the sign-extended imm12 to g[a]. -/
  | xAddi (d : RegG) (a : RegG) (imm : BitVec 12) (g : GuardP)
  /-- ANDI, R193: ANDs g[a] with the zero-extended imm12. -/
  | xAndi (d : RegG) (a : RegG) (imm : BitVec 12) (g : GuardP)
  /-- ORI, R193: ORs g[a] with the zero-extended imm12. -/
  | xOri (d : RegG) (a : RegG) (imm : BitVec 12) (g : GuardP)
  /-- XORI, R193: XORs g[a] with the zero-extended imm12. -/
  | xXori (d : RegG) (a : RegG) (imm : BitVec 12) (g : GuardP)
  /-- SHLI, R194: Shifts g[a] left by a constant. -/
  | xShli (d : RegG) (a : RegG) (sh : BitVec 6) (g : GuardP)
  /-- SHRI, R194: Shifts g[a] right by a constant, filling with zeros. -/
  | xShri (d : RegG) (a : RegG) (sh : BitVec 6) (g : GuardP)
  /-- SRAI, R194: Arithmetic right shift of g[a] by a constant. -/
  | xSrai (d : RegG) (a : RegG) (sh : BitVec 6) (g : GuardP)
  /-- CMP, R195: Compares g[a] with g[b] under the condition in fn and writes 0xFFFF or 0 into p[d]. -/
  | xCmp (cond : Cond) (pd : BitVec 5) (a : RegG) (b : RegG) (g : GuardP)
  /-- CMPI, R195: Compares g[a] with a sign-extended 9-bit immediate and writes p[d]. -/
  | xCmpi (cond : Cond) (pd : BitVec 5) (a : RegG) (imm : BitVec 9) (g : GuardP)
  /-- SEL, R196: Writes g[a] or g[b] into g[d], selected by bit 0 of p[K]. -/
  | xSel (d : RegG) (k : RegP) (a : RegG) (b : RegG) (g : GuardP)
  /-- LIM, R197: Loads a sign-extended 32-bit constant into g[d]. -/
  | xLim (d : RegG) (imm : BitVec 32) (g : GuardP)
  /-- LIMH, R197: Sets the upper 32 bits from C and keeps the low half of g[a]. -/
  | xLimh (d : RegG) (a : RegG) (imm : BitVec 32) (g : GuardP)
  /-- PAND, R198: p[d] = p[a] AND p[b]. -/
  | xPand (pd : RegP) (pa : RegP) (pb : RegP)
  /-- POR, R198: p[d] = p[a] OR p[b]. -/
  | xPor (pd : RegP) (pa : RegP) (pb : RegP)
  /-- PXOR, R198: p[d] = p[a] XOR p[b]. -/
  | xPxor (pd : RegP) (pa : RegP) (pb : RegP)
  /-- PANDN, R198: p[d] = p[a] AND NOT p[b]. -/
  | xPandn (pd : RegP) (pa : RegP) (pb : RegP)
  /-- PMOV, R198: Copies p[a] into p[d]. -/
  | xPmov (pd : RegP) (pa : RegP)
  /-- PANY, R198: Writes all ones into p[d] when p[a] AND p[b] is non-zero, and zero otherwise. -/
  | xPany (pd : RegP) (pa : RegP) (pb : RegP)
  /-- PALL, R198: Writes all ones into p[d] when p[a] covers p[b], and zero otherwise. -/
  | xPall (pd : RegP) (pa : RegP) (pb : RegP)
  /-- PSETI, R199: Writes a 16-bit pattern into p[d]. -/
  | xPseti (pd : RegP) (imm : BitVec 16)
  /-- PFROM, R200: Copies g[ga][15:0] into p[d]. -/
  | xPfrom (pd : RegP) (ga : RegG)
  /-- PTO, R200: Zero-extends p[d] into g[ga]. -/
  | xPto (pd : RegP) (ga : RegG)
  /-- PCNT, R200: Counts the one bits of p[d] into g[ga]. -/
  | xPcnt (pd : RegP) (ga : RegG)
  /-- CSRR, R201: Reads a CSR into g[d]. -/
  | xCsrr (d : RegG) (csr : Csr) (g : GuardP)
  /-- CSRW, R201: Swaps g[a] into a CSR and returns the old value. -/
  | xCsrw (d : RegG) (csr : Csr) (a : RegG) (g : GuardP)
  /-- CSRS, R201: ORs g[a] into a CSR and returns the old value. -/
  | xCsrs (d : RegG) (csr : Csr) (a : RegG) (g : GuardP)
  /-- BR, R203: Branches relative by off17 when the test tm of p[pt] holds; the target is checked under R173. -/
  | xBr (pt : RegP) (tm : BrTest) (off : BitVec 17)
  /-- JMP, R204: Jumps relative by imm32. -/
  | xJmp (imm : BitVec 32) (g : GuardP)
  /-- CALL, R204: Writes the resume-point link into g31 and jumps relative by imm32. -/
  | xCall (imm : BitVec 32) (g : GuardP)
  /-- JMPR, R205: Jumps to g[a], as an exact target or as a resume point. -/
  | xJmpr (a : RegG) (g : GuardP)
  /-- RET, R205: Jumps to g31, as an exact target or as a resume point. -/
  | xRet (g : GuardP)
  /-- LOOP, R206: Sets up counted loop lcK of X with count g[a] and last slot s + imm32. -/
  | xLoop (k : LoopNo) (a : RegG) (imm : BitVec 32) (g : GuardP)
  /-- TKPUT, R208: Appends g[a] to FIFO kxa or kxm, stalling while it is full. -/
  | xTkput (f : Fifo) (a : RegG) (g : GuardP)
  /-- TKGET, R208: Removes the oldest entry of kax or kmx into g[d], stalling while it is empty. -/
  | xTkget (d : RegG) (f : Fifo) (g : GuardP)
  /-- LD, R234: Scalar load under the order and scope of the instruction, after the checks of R231. -/
  | xLd (d : RegG) (a : RegG) (sz : BitVec 2) (sx : Bool) (ord : Ord) (sc : Scope) (imm : BitVec 7)
  /-- ST, R234: Scalar store into the store buffer under the order and scope of the instruction. -/
  | xSt (d : RegG) (a : RegG) (sz : BitVec 2) (ord : Ord) (sc : Scope) (imm : BitVec 7)
  /-- AMO, R236: Atomic read-modify-write of operation fn at the home, returning the old value. -/
  | xAmo (d : RegG) (a : RegG) (b : RegG) (dbl : Bool) (ord : Ord) (sc : Scope) (op : AmoOp)
  /-- CAS, R236: Compare-and-swap at the home, returning the old value. -/
  | xCas (d : RegG) (a : RegG) (b : RegG) (dbl : Bool) (ord : Ord) (sc : Scope)
  /-- FENCE, R237: Orders accesses by kind and scope as R140 gives, and retires when its waits have ended. -/
  | xFence (kind : FenceKind) (sc : Scope) (g : GuardP)
  /-- LDS, R238: Loads 8 bytes from the cell store. -/
  | xLds (d : RegG) (a : RegG) (imm : BitVec 12) (g : GuardP)
  /-- STS, R238: Stores 8 bytes into the cell store. -/
  | xSts (d : RegG) (a : RegG) (imm : BitVec 12) (g : GuardP)
  /-- CPY, R239: Reads and checks a copy parameter block, translates the copy, issues it and returns its ticket. -/
  | xCpy (d : RegG) (a : RegG) (g : GuardP)
  /-- TLWAIT, R240: Stalls until DONE(K) reaches g[a], then retires as an acquire. -/
  | xTlwait (k : TimelineNo) (a : RegG) (g : GuardP)
  /-- TLREAD, R240: Reads DONE(K) into g[d], with no acquire. -/
  | xTlread (d : RegG) (k : TimelineNo) (g : GuardP)
  /-- VADD, R213: Element-wise addition under the guard. -/
  | xVadd (ty : Ty) (d : RegV) (a : RegV) (b : RegV) (g : GuardP)
  /-- VSUB, R213: Element-wise subtraction. -/
  | xVsub (ty : Ty) (d : RegV) (a : RegV) (b : RegV) (g : GuardP)
  /-- VMIN, R213: Element-wise minimum. -/
  | xVmin (ty : Ty) (d : RegV) (a : RegV) (b : RegV) (g : GuardP)
  /-- VMAX, R213: Element-wise maximum. -/
  | xVmax (ty : Ty) (d : RegV) (a : RegV) (b : RegV) (g : GuardP)
  /-- VABS, R213: Element-wise absolute value. -/
  | xVabs (ty : Ty) (d : RegV) (a : RegV) (g : GuardP)
  /-- VNEG, R213: Element-wise negation. -/
  | xVneg (ty : Ty) (d : RegV) (a : RegV) (g : GuardP)
  /-- VMUL, R213: Element-wise multiplication. -/
  | xVmul (ty : Ty) (d : RegV) (a : RegV) (b : RegV) (g : GuardP)
  /-- VMADD, R213: Fused a × b + d. -/
  | xVmadd (ty : Ty) (d : RegV) (a : RegV) (b : RegV) (g : GuardP)
  /-- VMSUB, R213: Fused a × b − d. -/
  | xVmsub (ty : Ty) (d : RegV) (a : RegV) (b : RegV) (g : GuardP)
  /-- VNMADD, R213: Fused d − a × b. -/
  | xVnmadd (ty : Ty) (d : RegV) (a : RegV) (b : RegV) (g : GuardP)
  /-- VAND, R214: Bitwise AND of vectors. -/
  | xVand (ty : Ty) (d : RegV) (a : RegV) (b : RegV) (g : GuardP)
  /-- VOR, R214: Bitwise OR of vectors. -/
  | xVor (ty : Ty) (d : RegV) (a : RegV) (b : RegV) (g : GuardP)
  /-- VXOR, R214: Bitwise XOR of vectors. -/
  | xVxor (ty : Ty) (d : RegV) (a : RegV) (b : RegV) (g : GuardP)
  /-- VSHL, R214: Element-wise left shift. -/
  | xVshl (ty : Ty) (d : RegV) (a : RegV) (b : RegV) (g : GuardP)
  /-- VSHR, R214: Element-wise logical right shift. -/
  | xVshr (ty : Ty) (d : RegV) (a : RegV) (b : RegV) (g : GuardP)
  /-- VSRA, R214: Element-wise arithmetic right shift. -/
  | xVsra (ty : Ty) (d : RegV) (a : RegV) (b : RegV) (g : GuardP)
  /-- VCMP, R215: Compares vectors per lane under condition fn and writes predicate p[d]. -/
  | xVcmp (cond : VCond) (ty : Ty) (pd : BitVec 5) (a : RegV) (b : RegV) (g : GuardP)
  /-- VSEL, R216: Selects each element from va or vb by selector p[K], with no guard. -/
  | xVsel (ty : Ty) (d : RegV) (k : GuardP) (a : RegV) (b : RegV)
  /-- VBCST, R217: Broadcasts g[a] into the enabled elements of vd. -/
  | xVbcst (ty : Ty) (d : RegV) (a : RegG) (g : GuardP)
  /-- VEXT, R217: Extracts one element of va into g[d]. -/
  | xVext (ty : Ty) (d : RegG) (a : RegV) (b : RegG) (g : GuardP)
  /-- VINS, R217: Inserts g[a] into element g[b] of vd. -/
  | xVins (ty : Ty) (d : RegV) (a : RegG) (b : RegG) (g : GuardP)
  /-- VPERM, R217: Permutes the elements of va by the indices in vb. -/
  | xVperm (ty : Ty) (d : RegV) (a : RegV) (b : RegV) (g : GuardP)
  /-- VCVT, R218: Converts elements from the source type to the destination type with rounding code fn. -/
  | xVcvt (src : Ty) (dst : Ty) (rnd : Rnd) (d : RegV) (a : RegV) (g : GuardP)
  /-- VQNT, R219: Quantises f32 values times per-lane scales to int8. -/
  | xVqnt (rnd : Rnd) (d : RegV) (a : RegV) (b : RegV) (g : GuardP)
  /-- VRED, R220: Reduces va (sum, max, min or argmax) in the fixed tree of R91. -/
  | xVred (op : RedOp) (ty : Ty) (d : RegV) (a : RegV) (g : GuardP)
  /-- VRECIP, R221: Correctly rounded reciprocal. -/
  | xVrecip (ty : Ty) (d : RegV) (a : RegV) (g : GuardP)
  /-- VRSQRT, R221: Correctly rounded reciprocal square root. -/
  | xVrsqrt (ty : Ty) (d : RegV) (a : RegV) (g : GuardP)
  /-- VEXP2, R221: Correctly rounded 2^x. -/
  | xVexp2 (ty : Ty) (d : RegV) (a : RegV) (g : GuardP)
  /-- VLOG2, R221: Correctly rounded log2 x. -/
  | xVlog2 (ty : Ty) (d : RegV) (a : RegV) (g : GuardP)
  /-- VPOP, R222: Takes the entry at HEAD of a load stream into vd, and optionally its scale into g[a]. -/
  | xVpop (d : RegV) (st : StreamNo) (a : RegG) (g : GuardP)
  /-- VPUSH, R222: Appends va to a store stream at TAIL. -/
  | xVpush (st : StreamNo) (a : RegV) (g : GuardP)
  /-- VLDS, R223: Loads 64 bytes of the cell store into the enabled lanes of vd. -/
  | xVlds (d : RegV) (a : RegG) (imm : BitVec 12) (g : GuardP)
  /-- VSTS, R223: Stores the enabled lanes of vd into the cell store. -/
  | xVsts (d : RegV) (a : RegG) (imm : BitVec 12) (g : GuardP)
  /-- GLOAD, R226: Reads and checks an automaton block and loads the Trellis registers. -/
  | xGload (d : RegG) (a : RegG) (g : GuardP)
  /-- GSTORE, R226: Writes the Trellis registers back into a block. -/
  | xGstore (a : RegG) (g : GuardP)
  /-- GSTEP, R227: Advances the automaton on one token, pushing or popping the stack, and writes a status. -/
  | xGstep (d : RegG) (a : RegG) (g : GuardP)
  /-- GMASK, R229: Sets the disallowed logits of one segment to minus infinity and returns the allowed count. -/
  | xGmask (d : RegG) (a : RegG) (b : RegG) (g : GuardP)
  /-- GCOUNT, R229: Counts the allowed tokens of the current mask row. -/
  | xGcount (d : RegG) (g : GuardP)
  /-- GFORCE, R229: Returns the single allowed token, or all ones. -/
  | xGforce (d : RegG) (g : GuardP)
  /-- SEND, R272: Blocking parcel send that stalls for an outbound slot. -/
  | xSend (v : RegV) (a : RegG) (g : GuardP)
  /-- SENDNB, R272: Non-blocking parcel send whose status register stays pending until the verdict returns. -/
  | xSendnb (b : RegG) (v : RegV) (a : RegG) (g : GuardP)
  /-- HSET, R274: Writes or clears a handler table entry from a cell-store image. -/
  | xHset (d : RegG) (a : RegG) (b : RegG) (g : GuardP)
  /-- HMASK, R275: Sets the mask bits of the channels named in g[a]. -/
  | xHmask (a : RegG) (g : GuardP)
  /-- HUNMASK, R275: Clears the mask bits of the channels named in g[a]. -/
  | xHunmask (a : RegG) (g : GuardP)
  /-- ABIND, R276: Binds a channel as an actor with a frame, or releases it. -/
  | xAbind (d : RegG) (a : RegG) (b : RegG) (g : GuardP)
  /-- TSPAWN, R277: Sends a task parcel with a placement hint. -/
  | xTspawn (v : RegV) (a : RegG) (g : GuardP)
  /-- TQENQ, R279: Enqueues a parcel on a named task queue or on the local task queue. -/
  | xTqenq (b : RegG) (v : RegV) (a : RegG) (g : GuardP)
  /-- TQDEQ, R280: Dequeues a parcel from a named queue, or takes or steals a local task. -/
  | xTqdeq (b : RegG) (v : RegV) (a : RegG) (g : GuardP)
  /-- DCINIT, R281: Sets the COUNT of a dependency counter; a count of 0 releases the parked parcels. -/
  | xDcinit (d : RegG) (a : RegG) (b : RegG) (g : GuardP)
  /-- DCDEC, R281: Decrements a counter, releasing its parked parcels when it reaches 0. -/
  | xDcdec (d : RegG) (a : RegG) (g : GuardP)
  /-- DCPARK, R281: Parks a parcel on a counter, or releases it at once when COUNT is 0. -/
  | xDcpark (b : RegG) (v : RegV) (a : RegG) (g : GuardP)
  /-- WLPUSH, R282: Pushes a worklist task into a bucket or spills it, after the range check. -/
  | xWlpush (a : RegG) (b : RegG) (g : GuardP)
  /-- WLPOP, R283: Pops an eligible task of lowest key, or reports none eligible and clears the wake flag. -/
  | xWlpop (d : RegG) (b : RegG) (g : GuardP)
  /-- WLBOUND, R284: Sets the partition's Δ and wake channel. -/
  | xWlbound (a : RegG) (b : RegG) (g : GuardP)
  /-- WLTERM, R285: Registers or clears the termination channel. -/
  | xWlterm (a : RegG) (g : GuardP)
  /-- FNEW, R287: Creates a future in a free slot of the home table. -/
  | xFnew (d : RegG) (a : RegG) (g : GuardP)
  /-- FRES, R288: Resolves a future under the transitions of R43. -/
  | xFres (d : RegG) (a : RegG) (b : RegG) (g : GuardP)
  /-- FWAIT, R288: Registers a continuation, or sends it at once when the future has resolved or timed out. -/
  | xFwait (d : RegG) (a : RegG) (b : RegG) (g : GuardP)
  /-- FPOLL, R288: Returns word 0 of a future. -/
  | xFpoll (d : RegG) (a : RegG) (g : GuardP)
  /-- FFREE, R288: Frees a future's slot and advances its GEN. -/
  | xFfree (d : RegG) (a : RegG) (g : GuardP)
  /-- FTMO, R288: Sets or clears a future's deadline. -/
  | xFtmo (d : RegG) (a : RegG) (b : RegG) (g : GuardP)
  /-- FBIND, R288: Binds a future to a token queue after checking the queue header. -/
  | xFbind (d : RegG) (a : RegG) (b : RegG) (g : GuardP)
  /-- BARR, R290: Adds an arrival to a barrier and tests for completion. -/
  | xBarr (d : RegG) (a : RegG) (g : GuardP)
  /-- BEXP, R290: Adds expected arrivals and tests for completion. -/
  | xBexp (d : RegG) (a : RegG) (b : RegG) (g : GuardP)
  /-- BWAIT, R290: Registers a continuation for the end of a phase, or sends it now. -/
  | xBwait (d : RegG) (a : RegG) (b : RegG) (g : GuardP)
  /-- MCLAIM, R291: Claims the cell's Matrix engine, by blocking or by trying. -/
  | xMclaim (d : RegG) (a : RegG) (g : GuardP)
  /-- CLAIM_GRANT, R291: A waiting context is granted the claim in queue order once the claim is free. -/
  | evClaimGrant (cell : Nat)
  /-- MFREE, R292: Gives up the Matrix claim. -/
  | xMfree (g : GuardP)
  /-- SRET, R345: Replies to one engine's outstanding fault with retry, continue, redirect or terminate. -/
  | xSret (d : RegG) (a : RegG) (b : RegG) (g : GuardP)
  /-- WDSET, R342: Sets the cell's watchdog limit, clamped to 1,024 to 2^24. -/
  | xWdset (d : RegG) (a : RegG) (g : GuardP)
  /-- SYSR, R340: Reads a system register. -/
  | xSysr (d : RegG) (sr : SysReg) (g : GuardP)
  /-- SYSW, R340: Writes a system register and returns the old value. -/
  | xSysw (d : RegG) (sr : SysReg) (a : RegG) (g : GuardP)
  /-- TLBINV_ALL, R346: Invalidates the cell's TLBs and its patch L2 TLB. -/
  | xTlbinvAll (g : GuardP)
  /-- TLBINV_VA, R346: Invalidates the translations of one page across the partition. -/
  | xTlbinvVa (a : RegG) (g : GuardP)
  /-- TLBINV_PART, R346: Invalidates every translation of the partition. -/
  | xTlbinvPart (g : GuardP)
  /-- CINV_L1, R347: Invalidates the cell's L1 and its mask segment cache. -/
  | xCinvL1 (g : GuardP)
  /-- CINV_SB, R347: Waits until every store buffered in the cell is performed at its home. -/
  | xCinvSb (g : GuardP)
  /-- CINV_IS, R347: Drains the context's stores and invalidates the instruction store. -/
  | xCinvIs (g : GuardP)
  /-- CTXSAVE, R349: Takes a suspended context, waits for R77, and writes its save area. -/
  | xCtxsave (d : RegG) (a : RegG) (b : RegG) (g : GuardP)
  /-- CTXLOAD, R352: Restores a save area into a free context. -/
  | xCtxload (d : RegG) (a : RegG) (b : RegG) (g : GuardP)
  /-- A_NOP, R241: A no-operation. -/
  | aNop (q : GuardQ)
  /-- A_DONE, R241: Ends A's part of the invocation. -/
  | aDone (q : GuardQ)
  /-- A_ADD, R241: b[d] = b[a] + b[b]. -/
  | aAdd (d : RegB) (a : RegB) (b : RegB) (q : GuardQ)
  /-- A_SUB, R241: b[d] = b[a] − b[b]. -/
  | aSub (d : RegB) (a : RegB) (b : RegB) (q : GuardQ)
  /-- A_AND, R241: b[d] = b[a] AND b[b]. -/
  | aAnd (d : RegB) (a : RegB) (b : RegB) (q : GuardQ)
  /-- A_SHL, R241: Left shift of b[a]. -/
  | aShl (d : RegB) (a : RegB) (b : RegB) (q : GuardQ)
  /-- A_SHR, R241: Logical right shift of b[a]. -/
  | aShr (d : RegB) (a : RegB) (b : RegB) (q : GuardQ)
  /-- A_MUL, R241: Low 64 bits of the product of b[a] and b[b]. -/
  | aMul (d : RegB) (a : RegB) (b : RegB) (q : GuardQ)
  /-- A_MOV, R241: b[d] = b[a]. -/
  | aMov (d : RegB) (a : RegB) (q : GuardQ)
  /-- A_ADDI, R241: Adds a signed imm12 to b[a]. -/
  | aAddi (d : RegB) (a : RegB) (imm : BitVec 12) (q : GuardQ)
  /-- A_LIM, R241: Loads a sign-extended 32-bit constant into b[d]. -/
  | aLim (d : RegB) (imm : BitVec 32) (q : GuardQ)
  /-- A_CMP, R241: Compares b[a] with b[b] and writes q[D]. -/
  | aCmp (cond : Cond) (qd : BitVec 2) (a : RegB) (b : RegB) (q : GuardQ)
  /-- A_BR, R241: Relative branch on q[qt], taken when it is 1 or when it is 0 as tm gives. -/
  | aBr (qt : BitVec 2) (tm : Bool) (off : BitVec 17)
  /-- A_JMP, R241: Relative jump of A. -/
  | aJmp (imm : BitVec 32) (q : GuardQ)
  /-- A_LOOP, R241: Counted loop on A's lcK with count b[a]. -/
  | aLoop (k : LoopNo) (a : RegB) (imm : BitVec 32) (q : GuardQ)
  /-- A_TKPUT, R241: Appends b[a] to FIFO kax or kam. -/
  | aTkput (f : Fifo) (a : RegB) (q : GuardQ)
  /-- A_TKGET, R241: Removes the oldest entry of kxa or kma into b[d]. -/
  | aTkget (d : RegB) (f : Fifo) (q : GuardQ)
  /-- A_SOPEN, R242: Loads and checks a stream descriptor from the cell store and opens the stream. -/
  | aSopen (st : StreamNo) (b : RegB) (imm : BitVec 14) (q : GuardQ)
  /-- A_SCLOSE, R242: Closes a stream, or sets a store stream Closing. -/
  | aSclose (st : StreamNo) (q : GuardQ)
  /-- A_LD, R244: Issues element-group reads of a load stream until b[M] reaches a multiple of n. -/
  | aLd (st : StreamNo) (b : RegB) (n : BitVec 14) (q : GuardQ)
  /-- A_ST, R244: Writes pushed entries of a store stream out, group by group. -/
  | aSt (st : StreamNo) (b : RegB) (n : BitVec 14) (q : GuardQ)
  /-- A_GATH, R245: Gathers elements through an index stream into a load stream. -/
  | aGath (st : StreamNo) (b : RegB) (si : StreamNo) (n : BitVec 10) (q : GuardQ)
  /-- A_SCAT, R245: Scatters the entries of a store stream through an index stream. -/
  | aScat (st : StreamNo) (b : RegB) (si : StreamNo) (n : BitVec 10) (q : GuardQ)
  /-- A_PREF, R246: Prefetches the lines of stream groups into the home caches and the RDC. -/
  | aPref (st : StreamNo) (b : RegB) (n : BitVec 14) (q : GuardQ)
  /-- A_FENCE, R247: Orders A's accesses by kind and scope. -/
  | aFence (kind : FenceKind) (sc : Scope) (q : GuardQ)
  /-- A_LDB, R247: Weak 8-byte load into b[d]. -/
  | aLdb (d : RegB) (a : RegB) (imm : BitVec 12) (q : GuardQ)
  /-- A_CPY, R239: Issues a copy from A and returns its ticket. -/
  | aCpy (d : RegB) (a : RegB) (q : GuardQ)
  /-- M_NOP, R252: Matrix sequencer no-operation. -/
  | mNop
  /-- M_DONE, R249: Ends the sequencer's part of the invocation. -/
  | mDone
  /-- M_SET, R252: Writes a shadow command-set field from c[C] plus imm11. -/
  | mSet (fld : Shadow) (c : RegC) (imm : BitVec 11)
  /-- M_GO, R254: Starts the command named by op after the stall and the checks of R254. -/
  | mGo
  /-- M_WAIT, R253: Waits for both pipes to be idle and for RRC to reach c[A]; raises Poison when a poisoned input was recorded. -/
  | mWait (d : RegC) (a : RegC)
  /-- M_CIMLD, R255: Starts a load of the shadow planes from a stream. -/
  | mCimld
  /-- M_MMA, R256: Starts the multiplication of A rows by the active planes into t30 accumulators. -/
  | mMma
  /-- M_ACLR, R261: Clears accumulator blocks, their bounds and their scales. -/
  | mAclr
  /-- M_CVT, R262: Converts accumulator rows into an output stream. -/
  | mCvt
  /-- M_SLICE, R264: Slices floating-point rows into int8 digit rows with exponent words. -/
  | mSlice
  /-- M_BCAST, R258: Broadcasts A rows to the broadcast ports of the patch row. -/
  | mBcast
  /-- M_RED, R259: Sends partial accumulator rows to their owner in the patch. -/
  | mRed
  /-- M_BR, R252: Branches on c[C] being non-zero or zero. -/
  | mBr (c : RegC) (tm : Bool) (off : BitVec 17)
  /-- M_LOOP, R252: Counted loop on M's lcK with count c[A]. -/
  | mLoop (k : LoopNo) (a : RegC) (imm : BitVec 32)
  /-- M_TKPUT, R252: Appends c[A] to FIFO kmx or kma. -/
  | mTkput (f : Fifo) (a : RegC)
  /-- M_TKGET, R252: Removes the oldest entry of kxm or kam into c[D]. -/
  | mTkget (d : RegC) (f : Fifo)
  /-- M_ADD, R252: c[D] = c[A] + c[B]. -/
  | mAdd (d : RegC) (a : RegC) (b : RegC)
  /-- M_SUB, R252: c[D] = c[A] − c[B]. -/
  | mSub (d : RegC) (a : RegC) (b : RegC)
  /-- M_MOV, R252: c[D] = c[A]. -/
  | mMov (d : RegC) (a : RegC)
  /-- M_ADDI, R252: Adds a signed imm12 to c[A]. -/
  | mAddi (d : RegC) (a : RegC) (imm : BitVec 12)
  /-- M_LIM, R252: Loads a sign-extended 32-bit constant into c[D]. -/
  | mLim (d : RegC) (imm : BitVec 32)
  /-- ENX_SEND, R303: A hart sends a parcel image and waits for the verdict. -/
  | enxSend (rd : RegX) (rs1 : RegX)
  /-- ENX_FRES, R304: A hart resolves a future under a handle. -/
  | enxFres (rd : RegX) (rs1 : RegX) (rs2 : RegX) (rs3 : RegX)
  /-- ENX_FPOLL, R304: A hart reads word 0 of a future. -/
  | enxFpoll (rd : RegX) (rs1 : RegX)
  /-- ENX_FWAIT, R304: A hart registers itself as the waiter of a future and blocks. -/
  | enxFwait (rd : RegX) (rs1 : RegX) (rs2 : RegX)
  /-- ENX_TLREAD, R306: A hart reads DONE of a context's timeline. -/
  | enxTlread (rd : RegX) (rs1 : RegX)
  /-- ENX_CAPSET, R307: The supervisor writes a capability register. -/
  | enxCapset (idx : BitVec 3) (rs1 : RegX) (rs2 : RegX) (rs3 : RegX)
  /-- ENX_CAPCLR, R307: The supervisor clears a capability register. -/
  | enxCapclr (idx : BitVec 3)
  /-- ENX_CAPGET, R307: The supervisor reads one word of a capability register. -/
  | enxCapget (rd : RegX) (rs1 : RegX)
  /-- HART_WAITER_RELEASE, R304: A hart blocked in enx.fwait is released when its future resolves or times out, and the instruction retires. -/
  | evHartWaiterRelease (core : Nat)
  /-- FWAIT_INTERRUPT_WITHDRAW, R305: An interrupt during enx.fwait withdraws the waiter at the home. -/
  | evFwaitInterruptWithdraw (core : Nat)
  /-- HART_MEMORY_ACCESS, R300: A hart's U-mode access passes the capability check before translation. -/
  | evHartMemoryAccess (core : Nat) (acc : HartAcc)
  /-- LINE_FETCH, R53: An engine fetches its next line from the instruction store and checks the header. -/
  | evLineFetch (cell : Nat) (ctx : Nat) (eng : Eng)
  /-- JOIN_RENDEZVOUS, R73: When every engine with lanes in a join line has arrived, its lanes issue together. -/
  | evJoinRendezvous (cell : Nat) (ctx : Nat)
  /-- PARCEL_ARRIVE, R20: A parcel reaches its destination channel and is enqueued, deferred or refused. -/
  | evParcelArrive (n : Nat)
  /-- VERDICT_RETURN, R14: The destination's verdict returns to the sender, freeing the slot, writing the sendnb status or raising a trap. -/
  | evVerdictReturn (n : Nat)
  /-- DEFERRED_PARCEL_RETRY, R16: When a dispatch frees a mailbox entry, the oldest deferred parcel is retried. -/
  | evDeferredParcelRetry (cell : Nat) (chan : Nat)
  /-- CHANNEL_SELECT, R21: With a free context and a Runnable unmasked channel, the cell selects a channel by priority, boost and round robin. -/
  | evChannelSelect (cell : Nat)
  /-- INVOCATION_END, R24: Once every end condition holds, the context's streams and FIFOs empty and the context is freed. -/
  | evInvocationEnd (cell : Nat) (ctx : Nat)
  /-- WATCHDOG_EXPIRY, R25: The watchdog count reaches the limit, stops the engines and raises Watchdog (0x20). -/
  | evWatchdogExpiry (cell : Nat) (ctx : Nat)
  /-- PENDING_TRAP_RETRY, R27: A trap parcel held in the pending-trap slot is offered again when channel 63 has room. -/
  | evPendingTrapRetry (cell : Nat) (ctx : Nat)
  /-- TASK_PARCEL_ARRIVE, R29: A task parcel on its walk reaches a cell, which takes it, passes it on or queues it. -/
  | evTaskParcelArrive (n : Nat)
  /-- TASK_QUEUE_TO_MAILBOX, R31: When a mailbox gains room and a context is free, the oldest queued task moves into it. -/
  | evTaskQueueToMailbox (cell : Nat)
  /-- TASK_BALANCE_INTERVAL, R31: Every 256 cycles a cell advertises its queue depth and pushes tasks to shallower neighbours. -/
  | evTaskBalanceInterval (cell : Nat)
  /-- BALANCE_TRANSFER_ARRIVE, R31: Tasks pushed by balancing arrive at a neighbour. -/
  | evBalanceTransferArrive (n : Nat)
  /-- WORKLIST_BALANCE_INTERVAL, R40: Every 256 cycles a cell exchanges eligible counts and moves its lowest-keyed tasks. -/
  | evWorklistBalanceInterval (cell : Nat)
  /-- WORKLIST_REDUCTION, R35: The periodic reduction updates the cells' view of the floor F and tests for termination. -/
  | evWorklistReduction (part : Nat)
  /-- WAKE_PARCEL, R38: A cell holding an eligible task with a clear wake flag sends a wake parcel and sets the flag. -/
  | evWakeParcel (cell : Nat)
  /-- SPILL_RETURN, R39: Spilled tasks return to the buckets, lowest key first, as room frees. -/
  | evSpillReturn (cell : Nat)
  /-- FUTURE_DEADLINE, R43: A future's deadline passes: the future times out, injects its template and sends its continuation. -/
  | evFutureDeadline (die : Nat) (slot : Nat)
  /-- TOKEN_INJECTION, R46: The future table copies reply or template tokens into the ring while it has room, then sends the continuation. -/
  | evTokenInjection (die : Nat) (slot : Nat)
  /-- LAUNCH_SUBMIT, R49: A launch record is checked and accepted or refused with a status. -/
  | evLaunchSubmit (part : Nat) (addr : Nat) (user : Bool)
  /-- LAUNCH_PROCEED, R50: Once the scrub token exists, an accepted launch writes entries, fmode and launch areas, and dispatches its initial parcels. -/
  | evLaunchProceed (n : Nat)
  /-- COPY_RUN_ARRIVE, R117: A streamer receives a copy or a run of it, reads the source weakly and pushes the bytes. -/
  | evCopyRunArrive (n : Nat) (off : Nat) (len : Nat)
  /-- SLAB_LANDING, R118: Copy bytes land in a cell store, setting the landed bits of the granules. -/
  | evSlabLanding (n : Nat)
  /-- FOLLOW_ON_ACCEPT, R267: A destination streamer reads and checks a follow-on block, and queues or discards it. -/
  | evFollowOnAccept (n : Nat) (cell : Nat)
  /-- FOLLOW_ON_START, R267: A queued follow-on command starts once its bytes have landed, its pipe is free and a claim is held. -/
  | evFollowOnStart (cell : Nat)
  /-- COPY_COMPLETE, R119: A copy completes, frees its slot and advances DONE. -/
  | evCopyComplete (n : Nat)
  /-- STREAM_GROUP_LAND, R68: A stream load group lands and TAIL advances in group order. -/
  | evStreamGroupLand (cell : Nat) (ctx : Nat) (st : StreamNo)
  /-- STORE_GROUP_WRITTEN, R71: A store group is written; the last entry of a closing stream closes it. -/
  | evStoreGroupWritten (cell : Nat) (ctx : Nat) (st : StreamNo)
  /-- COPY_LANDING_GROUP_ISSUE, R68: A kind-5 stream issues a group once its granules have landed and it has buffer room. -/
  | evCopyLandingGroupIssue (cell : Nat) (ctx : Nat) (st : StreamNo)
  /-- STORE_BUFFER_DRAIN, R108: A buffered weak store leaves for its home and is performed within 512 cycles. -/
  | evStoreBufferDrain (cell : Nat) (ctx : Nat) (n : Nat)
  /-- L1_LEASE_EXPIRY, R107: An L1 line's lease ends and it no longer hits. -/
  | evL1LeaseExpiry (cell : Nat) (n : Nat)
  /-- MATRIX_FLIP_START, R250: A C command with flip starts once earlier m.cimld commands complete, and inverts APL. -/
  | evMatrixFlipStart (cell : Nat)
  /-- MATRIX_COMMAND_COMPLETE, R265: A matrix command completes and its ticket counts in DONE. -/
  | evMatrixCommandComplete (cell : Nat) (pipe : Pipe)
  /-- BROADCAST_ROW_ARRIVE, R258: A broadcast A row enters a cell's broadcast port. -/
  | evBroadcastRowArrive (cell : Nat)
  /-- PARTIAL_ROW_ADD, R260: An owner adds an arriving m.red row into its accumulator, raises BND and counts RRC. -/
  | evPartialRowAdd (n : Nat)
  /-- STAGER_CUR_READ, R123: The stager reads CUR and stages, in step order, the entries of the look-ahead window. -/
  | evStagerCurRead (part : Nat)
  /-- STAGER_TILE_READY, R123: The last byte of a tile is written; the slot becomes ready with a release, and STAGED rises. -/
  | evStagerTileReady (part : Nat) (slot : Nat)
  /-- TABLE_WALK, R369: A translation miss walks stage 1 and checks stage 2, installing a TLB entry or faulting. -/
  | evTableWalk (cell : Nat) (va : BitVec 64) (need : Need) (kmode : Bool)
  /-- HELD_FAULT_RERAISE, R383: When HEAD advances, held records are written, oldest first, with FLAGS[1] set. -/
  | evHeldFaultReraise (part : Nat)
  /-- FBHDR_WRITE, R341: A write of fbhdr takes effect for later faults, and held faults are raised into the new buffer. -/
  | evFbhdrWrite (part : Nat) (value : BitVec 64)
  /-- KMODE_TRAP, R361: Belvedere takes a K-mode trap, ends the invocation and records the event. -/
  | evKmodeTrap (n : Nat)
  /-- SERVICE_THRESHOLD, R360: Belvedere sets the partition's balancing threshold. -/
  | evServiceThreshold (n : Nat)
  /-- SERVICE_GRACE, R360: Belvedere sets the grace time. -/
  | evServiceGrace (n : Nat)
  /-- SERVICE_SPILL_AREA, R360: Belvedere registers or removes the worklist spill area. -/
  | evServiceSpillArea (n : Nat)
  /-- SERVICE_SCHEDULE, R360: Belvedere registers or unregisters a layer schedule table with the stager. -/
  | evServiceSchedule (n : Nat)
  /-- SERVICE_LAUNCH, R360: Belvedere submits a launch on behalf of the partition. -/
  | evServiceLaunch (n : Nat)
  /-- SERVICE_YIELD, R360: Belvedere ends the partition's current slice on its shared cells. -/
  | evServiceYield (n : Nat)
  /-- GATEWAY_FORWARD, R359: A parcel at a gateway is matched against the filter table, charged a token and forwarded. -/
  | evGatewayForward (n : Nat)
  /-- FILTER_BUCKET_REFILL, R359: Tokens are added to a filter bucket at RATE per millisecond, up to BURST. -/
  | evFilterBucketRefill (n : Nat)
  /-- SLICE_END, R364: At the end of a slice or a yield, Belvedere pre-empts the outgoing partition on the cell set. -/
  | evSliceEnd (n : Nat)
  /-- SLICE_RESTORE, R364: Belvedere loads the images, writes tags, updates PCELL, clears EVICT and re-enables selection. -/
  | evSliceRestore (n : Nat)
  /-- GRACE_EXPIRY, R365: A context suspended beyond the grace time is saved by Belvedere. -/
  | evGraceExpiry (cell : Nat) (ctx : Nat)
  /-- CELL_ASSIGN, R354: Belvedere writes a cell's tag, LCELL and kchan. -/
  | evCellAssign (cell : Nat) (part : Nat) (lcell : Nat) (kchan : BitVec 64)
  /-- PARTITION_CREATE, R394: Belvedere creates a partition, scrubbing its cells and creating its worklist. -/
  | evPartitionCreate (part : Nat) (cfg : PartCfg)
  /-- PARTITION_DESTROY, R393: A partition is destroyed and its key is retired. -/
  | evPartitionDestroy (part : Nat)
  /-- SCRUB, R394: The scrub engine clears a set of cells. -/
  | evScrub (cells : List Nat) (part : Nat) (kind : Nat)
  /-- BANK_SCRUB, R391: A cache bank is written back, invalidated, and its AV cleared. -/
  | evBankScrub (bank : Nat)
  /-- SEGMENT_UPDATE, R375: Belvedere updates a stage-2 segment entry. -/
  | evSegmentUpdate (vf : Option Nat) (part : Nat) (seg : Segment)
  /-- READ_SHARED, R387: The home serves a read-shared request, snooping any E or M holder. -/
  | evReadShared (agent : Nat) (ask : LineAsk)
  /-- READ_OWN, R387: The home invalidates the other copies and grants E or M. -/
  | evReadOwn (agent : Nat) (ask : LineAsk) (store : Option (Nat × List Byte))
  /-- UPGRADE, R387: The home invalidates the other copies and grants M to an S or O holder. -/
  | evUpgrade (agent : Nat) (ask : StoreAsk)
  /-- WRITEBACK, R387: The home stores the data of an M or O holder. -/
  | evWriteback (agent : Nat) (line : Nat)
  /-- CLEAN_EVICT, R387: The home clears an E or S holder's sharer bit. -/
  | evCleanEvict (agent : Nat) (line : Nat)
  /-- STRONG_STORE_OR_ATOMIC, R387: The home invalidates core and CXL copies and updates RDC copies for a strong store or an atomic. -/
  | evStrongStoreOrAtomic (place : HomeLine) (off : Nat) (bytes : List Byte)
  /-- DIRECTORY_ECC_ERROR, R390: An uncorrectable directory entry invalidates every agent and poisons the line. -/
  | evDirectoryEccError (line : Nat)
  /-- TAG_PARITY_ERROR, R391: A tag parity error discards the set, kills the partitions in AV and scrubs the bank. -/
  | evTagParityError (place : BankSet)
  /-- UNCORRECTABLE_ERROR, R389: Data that the code cannot correct is poisoned. -/
  | evUncorrectableError (where_ : ErrAt)
  /-- CORRECTED_ERROR, R389: A corrected soft error is repaired in place and counted. -/
  | evCorrectedError
  /-- MODULE_RESET, R410: Module reset runs bring-up from power-good to host-port training. -/
  | evModuleReset (strap0 : Bool) (strap1 : Bool) (ok2 : Bool) (ok3 : Bool) (lanes : Nat)
  /-- LD_BIND, R399: The fabric manager binds a CXL logical device to a partition. -/
  | evLdBind (port : Nat) (ld : Nat) (part : Nat)
  /-- NOTIFY_WRITE, R403: A write to a notify page offers a new queue tail, or is ignored and counted in BADN. -/
  | evNotifyWrite (fn : HostFn) (qi : Nat) (value : BitVec 32)
  /-- REQUEST_LAUNCH, R405: A queue request with OP 1 submits a launch. -/
  | evRequestLaunch (fn : HostFn) (qi : Nat) (req : BitVec 512)
  /-- REQUEST_PARCEL, R405: A queue request with OP 2 sends a parcel image. -/
  | evRequestParcel (fn : HostFn) (qi : Nat) (req : BitVec 512)
  /-- REQUEST_RESOLVE, R405: A queue request with OP 3 resolves a future. -/
  | evRequestResolve (fn : HostFn) (qi : Nat) (req : BitVec 512)
  /-- REQUEST_POLL, R405: A queue request with OP 4 returns word 0 of a future. -/
  | evRequestPoll (fn : HostFn) (qi : Nat) (req : BitVec 512)
  /-- REQUEST_RESYNC, R412: A physical-function request with OP 5 makes Belvedere write the re-synchronisation summary. -/
  | evRequestResync (fn : HostFn) (qi : Nat) (req : BitVec 512)
  /-- MSIX_UNMASK, R404: Clearing MASK while PEND is 1 sends one message and clears PEND. -/
  | evMsixUnmask (fn : HostFn) (entry : Nat)
  /-- PASID_REVOKE, R405: Clearing a V entry of the PASID table refuses later requests for that PASID. -/
  | evPasidRevoke (fn : HostFn) (entry : Nat)
  /-- BAR2_ACCESS, R401: A host access through BAR2 or CXL.mem reaches partition memory as a relaxed access at system scope. -/
  | evBar2Access (win : HostWin) (off : Nat) (acc : HostAcc)
  /-- PLIM_WRITE, R409: A write of PLIM sets the clamped module power limit. -/
  | evPlimWrite (value : BitVec 64)
  /-- CLOCK_STEP, R409: Power that would exceed the limit lowers the clock in 100 MHz steps. -/
  | evClockStep
  /-- PGATE_WRITE, R408: Gating a cell-store bank discards its contents. -/
  | evPgateWrite (cell : Nat) (value : BitVec 64)
  /-- BANK_WAKE, R408: An access to a gated bank wakes it; the bank reads as zero and the access proceeds. -/
  | evBankWake (cell : Nat) (bank : Nat)
  /-- UE_DESCRIPTOR_TAKE, R420: The endpoint takes and checks send-ring descriptors after TAIL advances, and sends them. -/
  | evUeDescriptorTake (part : Nat)
  /-- UE_TAGGED_REPLY, R407: A tagged reply is written into its reply buffer and resolves the future, or is discarded. -/
  | evUeTaggedReply (part : Nat) (tag : BitVec 64) (payload : List Byte)
  /-- UE_MESSAGE_RECEIVE, R406: An incoming message is delivered, or dropped when its job belongs to another partition. -/
  | evUeMessageReceive (part : Nat) (job : BitVec 32) (msg : List Byte)
  /-- REGISTER_WRITE, R8: A write to a register that has no row of its own, under its access code. -/
  | evRegisterWrite (reg : DevReg) (value : BitVec 64)
  /-- PREFETCHER_ACCESS, R380: A prefetcher of an L2, an RDC or a home cache makes a speculative access, which on a would-be fault is dropped and counted in dpcnt. -/
  | evPrefetcherAccess (cell : Nat) (va : BitVec 64)
  /-- MESSAGE_FILTER_WRITE, R358: Belvedere writes an entry of the message filter table, and waiting parcels are matched against the new table on retry. -/
  | evMessageFilterWrite (n : Nat) (entry : BitVec 128)
  /-- CORE_ASSIGN, R296: Belvedere assigns an application core to a partition, giving its accesses that partition's tag and memory key. -/
  | evCoreAssign (core : Nat) (part : Nat)
  /-- VF_ASSIGN, R400: Belvedere assigns a virtual function to a partition, at most 16 per partition. -/
  | evVfAssign (vf : Nat) (part : Nat)
  /-- CONFIGURATION_REQUEST, R410: A host configuration request reaches a trained port and is answered, also before step 6, in recovery and on an unbound logical device. -/
  | evConfigurationRequest (port : Nat) (req : CfgReq)
  /-- MALFORMED_REQUEST, R405: A fetched queue request with a malformed OP or non-zero field, a VF request with OP 5, or a physical-function request with OP other than 5 completes with status 1. -/
  | evMalformedRequest (fn : HostFn) (qi : Nat) (req : BitVec 512)
  deriving DecidableEq, Repr, Inhabited

end Sys2Proof
end

