-- ==== Sys2Proof/WellFormed.lean ====
section
/-! DEFINITION. What makes an instruction well formed beyond its operand types: the checks of R174 that no closed type
holds. -/

namespace Sys2Proof

/-- i8 to i64 and n8 to n64 (R211). -/
def Ty.isInt : Ty → Bool
  | .i8 | .i16 | .i32 | .i64 | .n8 | .n16 | .n32 | .n64 => true
  | .fp8e4 | .fp8e5 | .fp16 | .bf16 | .f32 | .f64 | .t30 => false
/-- fp16, bf16, f32 and f64 (R211). -/
def Ty.isFp : Ty → Bool
  | .fp16 | .bf16 | .f32 | .f64 => true
  | .i8 | .i16 | .i32 | .i64 | .n8 | .n16 | .n32 | .n64 | .fp8e4 | .fp8e5 | .t30 => false
/-- fp8e4 and fp8e5 (R211). -/
def Ty.isFp8 : Ty → Bool
  | .fp8e4 | .fp8e5 => true
  | .i8 | .i16 | .i32 | .i64 | .n8 | .n16 | .n32 | .n64 | .fp16 | .bf16 | .f32 | .f64 | .t30 => false
/-- The order codes a load takes (R128). -/
def Ord.loadOk : Ord → Bool
  | .weak | .rlx | .acq => true
  | .rel | .acqrel => false
/-- The order codes a store takes (R128). -/
def Ord.storeOk : Ord → Bool
  | .weak | .rlx | .rel => true
  | .acq | .acqrel => false

/-- What R174 demands of an instruction's fields together: a destination predicate that is not p0 or q0 (R176, R180), an
order its access takes (R128), a FIFO its engine may name (R72), a type its operation takes (R211, R218), a group count that is
not 0 (R244 to R246). -/
def Instr.wf : Instr → Bool
  | .xNop _ => true
  | .xDone _ => true
  | .xSys _ _ _ => true
  | .xEbrk _ => true
  | .xAdd _ _ _ _ => true
  | .xSub _ _ _ _ => true
  | .xAnd _ _ _ _ => true
  | .xOr _ _ _ _ => true
  | .xXor _ _ _ _ => true
  | .xAndn _ _ _ _ => true
  | .xShl _ _ _ _ => true
  | .xShr _ _ _ _ => true
  | .xSra _ _ _ _ => true
  | .xMin _ _ _ _ => true
  | .xMax _ _ _ _ => true
  | .xMinu _ _ _ _ => true
  | .xMaxu _ _ _ _ => true
  | .xClz _ _ _ => true
  | .xCtz _ _ _ => true
  | .xPopc _ _ _ => true
  | .xMul _ _ _ _ => true
  | .xMulh _ _ _ _ => true
  | .xMulhu _ _ _ _ => true
  | .xDiv _ _ _ _ => true
  | .xDivu _ _ _ _ => true
  | .xRem _ _ _ _ => true
  | .xRemu _ _ _ _ => true
  | .xAddi _ _ _ _ => true
  | .xAndi _ _ _ _ => true
  | .xOri _ _ _ _ => true
  | .xXori _ _ _ _ => true
  | .xShli _ _ _ _ => true
  | .xShri _ _ _ _ => true
  | .xSrai _ _ _ _ => true
  | .xCmp _ pd _ _ _ => pd != 0
  | .xCmpi _ pd _ _ _ => pd != 0
  | .xSel _ _ _ _ _ => true
  | .xLim _ _ _ => true
  | .xLimh _ _ _ _ => true
  | .xPand _ _ _ => true
  | .xPor _ _ _ => true
  | .xPxor _ _ _ => true
  | .xPandn _ _ _ => true
  | .xPmov _ _ => true
  | .xPany _ _ _ => true
  | .xPall _ _ _ => true
  | .xPseti _ _ => true
  | .xPfrom _ _ => true
  | .xPto _ _ => true
  | .xPcnt _ _ => true
  | .xCsrr _ _ _ => true
  | .xCsrw _ _ _ _ => true
  | .xCsrs _ _ _ _ => true
  | .xBr _ _ _ => true
  | .xJmp _ _ => true
  | .xCall _ _ => true
  | .xJmpr _ _ => true
  | .xRet _ => true
  | .xLoop _ _ _ _ => true
  | .xTkput f _ _ => f == .kxa || f == .kxm
  | .xTkget _ f _ => f == .kax || f == .kmx
  | .xLd _ _ sz sx ord _ _ => ord.loadOk && !(sx && sz == 3)
  | .xSt _ _ _ ord _ _ => ord.storeOk
  | .xAmo _ _ _ _ _ _ _ => true
  | .xCas _ _ _ _ _ _ => true
  | .xFence _ _ _ => true
  | .xLds _ _ _ _ => true
  | .xSts _ _ _ _ => true
  | .xCpy _ _ _ => true
  | .xTlwait _ _ _ => true
  | .xTlread _ _ _ => true
  | .xVadd ty _ _ _ _ => ty.isInt || ty.isFp || ty == .t30
  | .xVsub ty _ _ _ _ => ty.isInt || ty.isFp || ty == .t30
  | .xVmin ty _ _ _ _ => ty.isInt || ty.isFp
  | .xVmax ty _ _ _ _ => ty.isInt || ty.isFp
  | .xVabs ty _ _ _ => ty.isInt || ty.isFp
  | .xVneg ty _ _ _ => ty.isInt || ty.isFp || ty == .t30
  | .xVmul ty _ _ _ _ => ty.isInt || ty.isFp || ty == .t30
  | .xVmadd ty _ _ _ _ => ty.isInt || ty.isFp || ty == .t30
  | .xVmsub ty _ _ _ _ => ty.isInt || ty.isFp || ty == .t30
  | .xVnmadd ty _ _ _ _ => ty.isInt || ty.isFp || ty == .t30
  | .xVand _ _ _ _ _ => true
  | .xVor _ _ _ _ _ => true
  | .xVxor _ _ _ _ _ => true
  | .xVshl ty _ _ _ _ => ty.isInt
  | .xVshr ty _ _ _ _ => ty.isInt
  | .xVsra ty _ _ _ _ => ty.isInt
  | .xVcmp cond ty pd _ _ _ => pd != 0 && (ty.isFp || (ty.isInt && cond != .un))
  | .xVsel _ _ _ _ _ => true
  | .xVbcst _ _ _ _ => true
  | .xVext _ _ _ _ _ => true
  | .xVins _ _ _ _ _ => true
  | .xVperm _ _ _ _ _ => true
  | .xVcvt src dst _ _ _ _ => src != dst
  | .xVqnt _ _ _ _ _ => true
  | .xVred op ty _ _ _ => ty.isInt || ty.isFp || (if op == .sum then ty == .t30 else ty.isFp8)
  | .xVrecip ty _ _ _ => ty.isFp
  | .xVrsqrt ty _ _ _ => ty.isFp
  | .xVexp2 ty _ _ _ => ty.isFp
  | .xVlog2 ty _ _ _ => ty.isFp
  | .xVpop _ _ _ _ => true
  | .xVpush _ _ _ => true
  | .xVlds _ _ _ _ => true
  | .xVsts _ _ _ _ => true
  | .xGload _ _ _ => true
  | .xGstore _ _ => true
  | .xGstep _ _ _ => true
  | .xGmask _ _ _ _ => true
  | .xGcount _ _ => true
  | .xGforce _ _ => true
  | .xSend _ _ _ => true
  | .xSendnb _ _ _ _ => true
  | .xHset _ _ _ _ => true
  | .xHmask _ _ => true
  | .xHunmask _ _ => true
  | .xAbind _ _ _ _ => true
  | .xTspawn _ _ _ => true
  | .xTqenq _ _ _ _ => true
  | .xTqdeq _ _ _ _ => true
  | .xDcinit _ _ _ _ => true
  | .xDcdec _ _ _ => true
  | .xDcpark _ _ _ _ => true
  | .xWlpush _ _ _ => true
  | .xWlpop _ _ _ => true
  | .xWlbound _ _ _ => true
  | .xWlterm _ _ => true
  | .xFnew _ _ _ => true
  | .xFres _ _ _ _ => true
  | .xFwait _ _ _ _ => true
  | .xFpoll _ _ _ => true
  | .xFfree _ _ _ => true
  | .xFtmo _ _ _ _ => true
  | .xFbind _ _ _ _ => true
  | .xBarr _ _ _ => true
  | .xBexp _ _ _ _ => true
  | .xBwait _ _ _ _ => true
  | .xMclaim _ _ _ => true
  | .evClaimGrant _ => true
  | .xMfree _ => true
  | .xSret _ _ _ _ => true
  | .xWdset _ _ _ => true
  | .xSysr _ _ _ => true
  | .xSysw _ _ _ _ => true
  | .xTlbinvAll _ => true
  | .xTlbinvVa _ _ => true
  | .xTlbinvPart _ => true
  | .xCinvL1 _ => true
  | .xCinvSb _ => true
  | .xCinvIs _ => true
  | .xCtxsave _ _ _ _ => true
  | .xCtxload _ _ _ _ => true
  | .aNop _ => true
  | .aDone _ => true
  | .aAdd _ _ _ _ => true
  | .aSub _ _ _ _ => true
  | .aAnd _ _ _ _ => true
  | .aShl _ _ _ _ => true
  | .aShr _ _ _ _ => true
  | .aMul _ _ _ _ => true
  | .aMov _ _ _ => true
  | .aAddi _ _ _ _ => true
  | .aLim _ _ _ => true
  | .aCmp _ qd _ _ _ => qd != 0
  | .aBr _ _ _ => true
  | .aJmp _ _ => true
  | .aLoop _ _ _ _ => true
  | .aTkput f _ _ => f == .kax || f == .kam
  | .aTkget _ f _ => f == .kxa || f == .kma
  | .aSopen _ _ _ _ => true
  | .aSclose _ _ => true
  | .aLd _ _ n _ => n != 0
  | .aSt _ _ n _ => n != 0
  | .aGath _ _ _ n _ => n != 0
  | .aScat _ _ _ n _ => n != 0
  | .aPref _ _ n _ => n != 0
  | .aFence _ _ _ => true
  | .aLdb _ _ _ _ => true
  | .aCpy _ _ _ => true
  | .mNop => true
  | .mDone => true
  | .mSet _ _ _ => true
  | .mGo => true
  | .mWait _ _ => true
  | .mCimld => true
  | .mMma => true
  | .mAclr => true
  | .mCvt => true
  | .mSlice => true
  | .mBcast => true
  | .mRed => true
  | .mBr _ _ _ => true
  | .mLoop _ _ _ => true
  | .mTkput f _ => f == .kmx || f == .kma
  | .mTkget _ f => f == .kxm || f == .kam
  | .mAdd _ _ _ => true
  | .mSub _ _ _ => true
  | .mMov _ _ => true
  | .mAddi _ _ _ => true
  | .mLim _ _ => true
  | .enxSend _ _ => true
  | .enxFres _ _ _ _ => true
  | .enxFpoll _ _ => true
  | .enxFwait _ _ _ => true
  | .enxTlread _ _ => true
  | .enxCapset _ _ _ _ => true
  | .enxCapclr _ => true
  | .enxCapget _ _ => true
  | .evHartWaiterRelease _ => true
  | .evFwaitInterruptWithdraw _ => true
  | .evHartMemoryAccess _ _ => true
  | .evLineFetch _ _ _ => true
  | .evJoinRendezvous _ _ => true
  | .evParcelArrive _ => true
  | .evVerdictReturn _ => true
  | .evDeferredParcelRetry _ _ => true
  | .evChannelSelect _ => true
  | .evInvocationEnd _ _ => true
  | .evWatchdogExpiry _ _ => true
  | .evPendingTrapRetry _ _ => true
  | .evTaskParcelArrive _ => true
  | .evTaskQueueToMailbox _ => true
  | .evTaskBalanceInterval _ => true
  | .evBalanceTransferArrive _ => true
  | .evWorklistBalanceInterval _ => true
  | .evWorklistReduction _ => true
  | .evWakeParcel _ => true
  | .evSpillReturn _ => true
  | .evFutureDeadline _ _ => true
  | .evTokenInjection _ _ => true
  | .evLaunchSubmit _ _ _ => true
  | .evLaunchProceed _ => true
  | .evCopyRunArrive _ _ _ => true
  | .evSlabLanding _ => true
  | .evFollowOnAccept _ _ => true
  | .evFollowOnStart _ => true
  | .evCopyComplete _ => true
  | .evStreamGroupLand _ _ _ => true
  | .evStoreGroupWritten _ _ _ => true
  | .evCopyLandingGroupIssue _ _ _ => true
  | .evStoreBufferDrain _ _ _ => true
  | .evL1LeaseExpiry _ _ => true
  | .evMatrixFlipStart _ => true
  | .evMatrixCommandComplete _ _ => true
  | .evBroadcastRowArrive _ => true
  | .evPartialRowAdd _ => true
  | .evStagerCurRead _ => true
  | .evStagerTileReady _ _ => true
  | .evTableWalk _ _ _ _ => true
  | .evHeldFaultReraise _ => true
  | .evFbhdrWrite _ _ => true
  | .evKmodeTrap _ => true
  | .evServiceThreshold _ => true
  | .evServiceGrace _ => true
  | .evServiceSpillArea _ => true
  | .evServiceSchedule _ => true
  | .evServiceLaunch _ => true
  | .evServiceYield _ => true
  | .evGatewayForward _ => true
  | .evFilterBucketRefill _ => true
  | .evSliceEnd _ => true
  | .evSliceRestore _ => true
  | .evGraceExpiry _ _ => true
  | .evCellAssign _ _ _ _ => true
  | .evPartitionCreate _ _ => true
  | .evPartitionDestroy _ => true
  | .evScrub _ _ _ => true
  | .evBankScrub _ => true
  | .evSegmentUpdate _ _ _ => true
  | .evReadShared _ _ => true
  | .evReadOwn _ _ _ => true
  | .evUpgrade _ _ => true
  | .evWriteback _ _ => true
  | .evCleanEvict _ _ => true
  | .evStrongStoreOrAtomic _ _ _ => true
  | .evDirectoryEccError _ => true
  | .evTagParityError _ => true
  | .evUncorrectableError _ => true
  | .evCorrectedError => true
  | .evModuleReset _ _ _ _ _ => true
  | .evLdBind _ _ _ => true
  | .evNotifyWrite _ _ _ => true
  | .evRequestLaunch _ _ _ => true
  | .evRequestParcel _ _ _ => true
  | .evRequestResolve _ _ _ => true
  | .evRequestPoll _ _ _ => true
  | .evRequestResync _ _ _ => true
  | .evMsixUnmask _ _ => true
  | .evPasidRevoke _ _ => true
  | .evBar2Access _ _ _ => true
  | .evPlimWrite _ => true
  | .evClockStep => true
  | .evPgateWrite _ _ => true
  | .evBankWake _ _ => true
  | .evUeDescriptorTake _ => true
  | .evUeTaggedReply _ _ _ => true
  | .evUeMessageReceive _ _ _ => true
  | .evRegisterWrite _ _ => true
  | .evPrefetcherAccess _ _ => true
  | .evMessageFilterWrite _ _ => true
  | .evCoreAssign _ _ => true
  | .evVfAssign _ _ => true
  | .evConfigurationRequest _ _ => true
  | .evMalformedRequest _ _ _ => true

end Sys2Proof
end

