-- ==== Sys2Proof/Decode.lean ====
section
/-! DEFINITION. The decoder and the encoder of the X, A and Matrix engines (R166 to R182) and of the Xenx instructions
(R302). Words are natural numbers; a lane is 32 bits. A word that is no instruction is answered by none: the engine
that meets it raises Illegal-instruction (R174). -/

namespace Sys2Proof

/-- Bits lo to lo + n - 1 of w as a number. -/
def nf (lo n w : Nat) : Nat := w / 2 ^ lo % 2 ^ n
/-- Bits lo to lo + n - 1 of w as a bit vector. -/
def fb (n lo w : Nat) : BitVec n := BitVec.ofNat n (w / 2 ^ lo)
/-- Bit lo of w. -/
def fbit (lo w : Nat) : Bool := w / 2 ^ lo % 2 == 1

/-- The encoding of Ty (R78). -/
def Ty.code : Ty → Nat
  | .i8 => 0
  | .i16 => 1
  | .i32 => 2
  | .i64 => 3
  | .n8 => 4
  | .n16 => 5
  | .n32 => 6
  | .n64 => 7
  | .fp8e4 => 8
  | .fp8e5 => 9
  | .fp16 => 10
  | .bf16 => 11
  | .f32 => 12
  | .f64 => 13
  | .t30 => 14
/-- The Ty a code names; none for a reserved code. -/
def Ty.ofCode : Nat → Option Ty
  | 0 => some .i8
  | 1 => some .i16
  | 2 => some .i32
  | 3 => some .i64
  | 4 => some .n8
  | 5 => some .n16
  | 6 => some .n32
  | 7 => some .n64
  | 8 => some .fp8e4
  | 9 => some .fp8e5
  | 10 => some .fp16
  | 11 => some .bf16
  | 12 => some .f32
  | 13 => some .f64
  | 14 => some .t30
  | _ => none

/-- The encoding of Cond (R195). -/
def Cond.code : Cond → Nat
  | .eq => 0
  | .ne => 1
  | .lt => 2
  | .ge => 3
  | .ltu => 4
  | .geu => 5
/-- The Cond a code names; none for a reserved code. -/
def Cond.ofCode : Nat → Option Cond
  | 0 => some .eq
  | 1 => some .ne
  | 2 => some .lt
  | 3 => some .ge
  | 4 => some .ltu
  | 5 => some .geu
  | _ => none

/-- The encoding of VCond (R215). -/
def VCond.code : VCond → Nat
  | .eq => 0
  | .ne => 1
  | .lt => 2
  | .le => 3
  | .gt => 4
  | .ge => 5
  | .un => 6
/-- The VCond a code names; none for a reserved code. -/
def VCond.ofCode : Nat → Option VCond
  | 0 => some .eq
  | 1 => some .ne
  | 2 => some .lt
  | 3 => some .le
  | 4 => some .gt
  | 5 => some .ge
  | 6 => some .un
  | _ => none

/-- The encoding of Rnd (R84, R212). -/
def Rnd.code : Rnd → Nat
  | .rne => 0
  | .rtz => 1
  | .rup => 2
  | .rdn => 3
  | .rna => 4
  | .sat => 5
/-- The Rnd a code names; none for a reserved code. -/
def Rnd.ofCode : Nat → Option Rnd
  | 0 => some .rne
  | 1 => some .rtz
  | 2 => some .rup
  | 3 => some .rdn
  | 4 => some .rna
  | 5 => some .sat
  | _ => none

/-- The encoding of RedOp (R178). -/
def RedOp.code : RedOp → Nat
  | .sum => 0
  | .max => 1
  | .min => 2
  | .argmax => 3
/-- The RedOp a code names; none for a reserved code. -/
def RedOp.ofCode : Nat → Option RedOp
  | 0 => some .sum
  | 1 => some .max
  | 2 => some .min
  | 3 => some .argmax
  | _ => none

/-- The encoding of BrTest (R176). -/
def BrTest.code : BrTest → Nat
  | .t => 0
  | .f => 1
  | .any => 2
  | .all => 3
/-- The BrTest a code names; none for a reserved code. -/
def BrTest.ofCode : Nat → Option BrTest
  | 0 => some .t
  | 1 => some .f
  | 2 => some .any
  | 3 => some .all
  | _ => none

/-- The encoding of Fifo (R72). -/
def Fifo.code : Fifo → Nat
  | .kxa => 0
  | .kax => 1
  | .kxm => 2
  | .kmx => 3
  | .kam => 4
  | .kma => 5
/-- The Fifo a code names; none for a reserved code. -/
def Fifo.ofCode : Nat → Option Fifo
  | 0 => some .kxa
  | 1 => some .kax
  | 2 => some .kxm
  | 3 => some .kmx
  | 4 => some .kam
  | 5 => some .kma
  | _ => none

/-- The encoding of Ord (R128). -/
def Ord.code : Ord → Nat
  | .weak => 0
  | .rlx => 1
  | .acq => 2
  | .rel => 3
  | .acqrel => 4
/-- The Ord a code names; none for a reserved code. -/
def Ord.ofCode : Nat → Option Ord
  | 0 => some .weak
  | 1 => some .rlx
  | 2 => some .acq
  | 3 => some .rel
  | 4 => some .acqrel
  | _ => none

/-- The encoding of Scope (R127). -/
def Scope.code : Scope → Nat
  | .cell => 0
  | .patch => 1
  | .die => 2
  | .pkg => 3
  | .sys => 4
/-- The Scope a code names; none for a reserved code. -/
def Scope.ofCode : Nat → Option Scope
  | 0 => some .cell
  | 1 => some .patch
  | 2 => some .die
  | 3 => some .pkg
  | 4 => some .sys
  | _ => none

/-- The encoding of AmoOp (R235). -/
def AmoOp.code : AmoOp → Nat
  | .add => 0
  | .and => 1
  | .or => 2
  | .xor => 3
  | .min => 4
  | .max => 5
  | .minu => 6
  | .maxu => 7
  | .swap => 8
/-- The AmoOp a code names; none for a reserved code. -/
def AmoOp.ofCode : Nat → Option AmoOp
  | 0 => some .add
  | 1 => some .and
  | 2 => some .or
  | 3 => some .xor
  | 4 => some .min
  | 5 => some .max
  | 6 => some .minu
  | 7 => some .maxu
  | 8 => some .swap
  | _ => none

/-- The encoding of FenceKind (R140). -/
def FenceKind.code : FenceKind → Nat
  | .full => 0
  | .acq => 1
  | .rel => 2
  | .st => 3
  | .stream => 4
  | .ctx => 5
/-- The FenceKind a code names; none for a reserved code. -/
def FenceKind.ofCode : Nat → Option FenceKind
  | 0 => some .full
  | 1 => some .acq
  | 2 => some .rel
  | 3 => some .st
  | 4 => some .stream
  | 5 => some .ctx
  | _ => none

/-- The encoding of Csr (R62). -/
def Csr.code : Csr → Nat
  | .fmode => 0
  | .xfid => 1
  | .ctx => 2
  | .cycle => 3
  | .time => 4
  | .late => 5
  | .gst => 16
  | .gstk => 17
  | .gtt => 18
  | .gmt => 19
  | .gdim => 20
/-- The Csr a code names; none for a reserved code. -/
def Csr.ofCode : Nat → Option Csr
  | 0 => some .fmode
  | 1 => some .xfid
  | 2 => some .ctx
  | 3 => some .cycle
  | 4 => some .time
  | 5 => some .late
  | 16 => some .gst
  | 17 => some .gstk
  | 18 => some .gtt
  | 19 => some .gmt
  | 20 => some .gdim
  | _ => none

/-- The encoding of SysReg (R341). -/
def SysReg.code : SysReg → Nat
  | .kchan => 0
  | .wdlim => 1
  | .lease => 2
  | .dpcnt => 3
  | .cstat => 4
  | .pgate => 5
  | .fbhdr => 256
  | .s1root => 257
  | .plctab => 258
  | .scrtok => 259
/-- The SysReg a code names; none for a reserved code. -/
def SysReg.ofCode : Nat → Option SysReg
  | 0 => some .kchan
  | 1 => some .wdlim
  | 2 => some .lease
  | 3 => some .dpcnt
  | 4 => some .cstat
  | 5 => some .pgate
  | 256 => some .fbhdr
  | 257 => some .s1root
  | 258 => some .plctab
  | 259 => some .scrtok
  | _ => none

/-- The encoding of Shadow (R251). -/
def Shadow.code : Shadow → Nat
  | .op => 0
  | .aStream => 1
  | .bSet => 2
  | .accBase => 3
  | .shapeM => 4
  | .shapeK => 5
  | .shapeN => 6
  | .patchW => 7
  | .patchH => 8
  | .patchRow => 9
  | .patchCol => 10
  | .tl => 11
  | .doneChan => 12
  | .sliceK => 13
  | .outStream => 14
  | .scaleMode => 15
  | .xfid => 16
/-- The Shadow a code names; none for a reserved code. -/
def Shadow.ofCode : Nat → Option Shadow
  | 0 => some .op
  | 1 => some .aStream
  | 2 => some .bSet
  | 3 => some .accBase
  | 4 => some .shapeM
  | 5 => some .shapeK
  | 6 => some .shapeN
  | 7 => some .patchW
  | 8 => some .patchH
  | 9 => some .patchRow
  | 10 => some .patchCol
  | 11 => some .tl
  | 12 => some .doneChan
  | 13 => some .sliceK
  | 14 => some .outStream
  | 15 => some .scaleMode
  | 16 => some .xfid
  | _ => none

/-- Major 0x00 of the X engine: nop, done, sys, ebrk. -/
def decodeX00 (w : Nat) : Option Instr :=
  match nf 4 7 w with
  | 0 => if nf 11 15 w = 0 then some (.xNop (fb 4 0 w)) else none
  | 1 => if nf 11 15 w = 0 then some (.xDone (fb 4 0 w)) else none
  | 2 => if nf 11 5 w = 0 then some (.xSys (fb 5 21 w) (fb 5 16 w) (fb 4 0 w)) else none
  | 3 => if nf 11 15 w = 0 then some (.xEbrk (fb 4 0 w)) else none
  | _ => none

/-- Major 0x01 of the X engine: add, sub, and, or, xor, andn, shl, shr, sra, min, max, minu, maxu, clz, ctz, popc. -/
def decodeX01 (w : Nat) : Option Instr :=
  match nf 4 7 w with
  | 0 => some (.xAdd (fb 5 21 w) (fb 5 16 w) (fb 5 11 w) (fb 4 0 w))
  | 1 => some (.xSub (fb 5 21 w) (fb 5 16 w) (fb 5 11 w) (fb 4 0 w))
  | 2 => some (.xAnd (fb 5 21 w) (fb 5 16 w) (fb 5 11 w) (fb 4 0 w))
  | 3 => some (.xOr (fb 5 21 w) (fb 5 16 w) (fb 5 11 w) (fb 4 0 w))
  | 4 => some (.xXor (fb 5 21 w) (fb 5 16 w) (fb 5 11 w) (fb 4 0 w))
  | 5 => some (.xAndn (fb 5 21 w) (fb 5 16 w) (fb 5 11 w) (fb 4 0 w))
  | 6 => some (.xShl (fb 5 21 w) (fb 5 16 w) (fb 5 11 w) (fb 4 0 w))
  | 7 => some (.xShr (fb 5 21 w) (fb 5 16 w) (fb 5 11 w) (fb 4 0 w))
  | 8 => some (.xSra (fb 5 21 w) (fb 5 16 w) (fb 5 11 w) (fb 4 0 w))
  | 9 => some (.xMin (fb 5 21 w) (fb 5 16 w) (fb 5 11 w) (fb 4 0 w))
  | 10 => some (.xMax (fb 5 21 w) (fb 5 16 w) (fb 5 11 w) (fb 4 0 w))
  | 11 => some (.xMinu (fb 5 21 w) (fb 5 16 w) (fb 5 11 w) (fb 4 0 w))
  | 12 => some (.xMaxu (fb 5 21 w) (fb 5 16 w) (fb 5 11 w) (fb 4 0 w))
  | 13 => if nf 11 5 w = 0 then some (.xClz (fb 5 21 w) (fb 5 16 w) (fb 4 0 w)) else none
  | 14 => if nf 11 5 w = 0 then some (.xCtz (fb 5 21 w) (fb 5 16 w) (fb 4 0 w)) else none
  | 15 => if nf 11 5 w = 0 then some (.xPopc (fb 5 21 w) (fb 5 16 w) (fb 4 0 w)) else none
  | _ => none

/-- Major 0x02 of the X engine: mul, mulh, mulhu, div, divu, rem, remu. -/
def decodeX02 (w : Nat) : Option Instr :=
  match nf 4 7 w with
  | 0 => some (.xMul (fb 5 21 w) (fb 5 16 w) (fb 5 11 w) (fb 4 0 w))
  | 1 => some (.xMulh (fb 5 21 w) (fb 5 16 w) (fb 5 11 w) (fb 4 0 w))
  | 2 => some (.xMulhu (fb 5 21 w) (fb 5 16 w) (fb 5 11 w) (fb 4 0 w))
  | 3 => some (.xDiv (fb 5 21 w) (fb 5 16 w) (fb 5 11 w) (fb 4 0 w))
  | 4 => some (.xDivu (fb 5 21 w) (fb 5 16 w) (fb 5 11 w) (fb 4 0 w))
  | 5 => some (.xRem (fb 5 21 w) (fb 5 16 w) (fb 5 11 w) (fb 4 0 w))
  | 6 => some (.xRemu (fb 5 21 w) (fb 5 16 w) (fb 5 11 w) (fb 4 0 w))
  | _ => none

/-- Major 0x03 of the X engine: addi. -/
def decodeX03 (w : Nat) : Option Instr :=
  some (.xAddi (fb 5 21 w) (fb 5 16 w) (fb 12 4 w) (fb 4 0 w))

/-- Major 0x04 of the X engine: andi. -/
def decodeX04 (w : Nat) : Option Instr :=
  some (.xAndi (fb 5 21 w) (fb 5 16 w) (fb 12 4 w) (fb 4 0 w))

/-- Major 0x05 of the X engine: ori. -/
def decodeX05 (w : Nat) : Option Instr :=
  some (.xOri (fb 5 21 w) (fb 5 16 w) (fb 12 4 w) (fb 4 0 w))

/-- Major 0x06 of the X engine: xori. -/
def decodeX06 (w : Nat) : Option Instr :=
  some (.xXori (fb 5 21 w) (fb 5 16 w) (fb 12 4 w) (fb 4 0 w))

/-- Major 0x07 of the X engine: shli, shri, srai. -/
def decodeX07 (w : Nat) : Option Instr :=
  match nf 14 2 w with
  | 0 => if nf 10 4 w = 0 then some (.xShli (fb 5 21 w) (fb 5 16 w) (fb 6 4 w) (fb 4 0 w)) else none
  | 1 => if nf 10 4 w = 0 then some (.xShri (fb 5 21 w) (fb 5 16 w) (fb 6 4 w) (fb 4 0 w)) else none
  | 2 => if nf 10 4 w = 0 then some (.xSrai (fb 5 21 w) (fb 5 16 w) (fb 6 4 w) (fb 4 0 w)) else none
  | _ => none

/-- Major 0x08 of the X engine: cmp. -/
def decodeX08 (w : Nat) : Option Instr :=
  (Cond.ofCode (nf 4 7 w)).bind fun cond => some (.xCmp cond (fb 5 21 w) (fb 5 16 w) (fb 5 11 w) (fb 4 0 w))

/-- Major 0x09 of the X engine: cmpi. -/
def decodeX09 (w : Nat) : Option Instr :=
  (Cond.ofCode (nf 13 3 w)).bind fun cond => some (.xCmpi cond (fb 5 21 w) (fb 5 16 w) (fb 9 4 w) (fb 4 0 w))

/-- Major 0x0a of the X engine: sel. -/
def decodeX0A (w : Nat) : Option Instr :=
  some (.xSel (fb 5 21 w) (fb 7 4 w) (fb 5 16 w) (fb 5 11 w) (fb 4 0 w))

/-- Major 0x0b of the X engine: lim, limh. -/
def decodeX0B (w : Nat) (e : Nat) : Option Instr :=
  match nf 8 8 w with
  | 0 => if nf 16 5 w = 0 ∧ nf 4 4 w = 0 then some (.xLim (fb 5 21 w) (BitVec.ofNat 32 e) (fb 4 0 w)) else none
  | 1 => if nf 4 4 w = 0 then some (.xLimh (fb 5 21 w) (fb 5 16 w) (BitVec.ofNat 32 e) (fb 4 0 w)) else none
  | _ => none

/-- Major 0x0c of the X engine: pand, por, pxor, pandn, pmov, pany, pall. -/
def decodeX0C (w : Nat) : Option Instr :=
  match nf 1 4 w with
  | 0 => if nf 0 1 w = 0 then some (.xPand (fb 7 19 w) (fb 7 12 w) (fb 7 5 w)) else none
  | 1 => if nf 0 1 w = 0 then some (.xPor (fb 7 19 w) (fb 7 12 w) (fb 7 5 w)) else none
  | 2 => if nf 0 1 w = 0 then some (.xPxor (fb 7 19 w) (fb 7 12 w) (fb 7 5 w)) else none
  | 3 => if nf 0 1 w = 0 then some (.xPandn (fb 7 19 w) (fb 7 12 w) (fb 7 5 w)) else none
  | 4 => if nf 0 1 w = 0 ∧ nf 5 7 w = 0 then some (.xPmov (fb 7 19 w) (fb 7 12 w)) else none
  | 5 => if nf 0 1 w = 0 then some (.xPany (fb 7 19 w) (fb 7 12 w) (fb 7 5 w)) else none
  | 6 => if nf 0 1 w = 0 then some (.xPall (fb 7 19 w) (fb 7 12 w) (fb 7 5 w)) else none
  | _ => none

/-- Major 0x0d of the X engine: pseti. -/
def decodeX0D (w : Nat) : Option Instr :=
  if nf 16 3 w = 0 then some (.xPseti (fb 7 19 w) (fb 16 0 w)) else none

/-- Major 0x0e of the X engine: pfrom, pto, pcnt. -/
def decodeX0E (w : Nat) : Option Instr :=
  match nf 11 3 w with
  | 0 => if nf 0 11 w = 0 then some (.xPfrom (fb 7 19 w) (fb 5 14 w)) else none
  | 1 => if nf 0 11 w = 0 then some (.xPto (fb 7 19 w) (fb 5 14 w)) else none
  | 2 => if nf 0 11 w = 0 then some (.xPcnt (fb 7 19 w) (fb 5 14 w)) else none
  | _ => none

/-- Major 0x0f of the X engine: csrr, csrw, csrs. -/
def decodeX0F (w : Nat) : Option Instr :=
  match nf 14 2 w with
  | 0 => if nf 16 5 w = 0 then (Csr.ofCode (nf 4 10 w)).bind fun csr => some (.xCsrr (fb 5 21 w) csr (fb 4 0 w)) else none
  | 1 => (Csr.ofCode (nf 4 10 w)).bind fun csr => some (.xCsrw (fb 5 21 w) csr (fb 5 16 w) (fb 4 0 w))
  | 2 => (Csr.ofCode (nf 4 10 w)).bind fun csr => some (.xCsrs (fb 5 21 w) csr (fb 5 16 w) (fb 4 0 w))
  | _ => none

/-- Major 0x10 of the X engine: br. -/
def decodeX10 (w : Nat) : Option Instr :=
  (BrTest.ofCode (nf 17 2 w)).bind fun tm => some (.xBr (fb 7 19 w) tm (fb 17 0 w))

/-- Major 0x11 of the X engine: jmp. -/
def decodeX11 (w : Nat) (e : Nat) : Option Instr :=
  if nf 21 5 w = 0 ∧ nf 16 5 w = 0 ∧ nf 4 4 w = 0 ∧ nf 8 8 w = 0 then some (.xJmp (BitVec.ofNat 32 e) (fb 4 0 w)) else none

/-- Major 0x12 of the X engine: call. -/
def decodeX12 (w : Nat) (e : Nat) : Option Instr :=
  if nf 21 5 w = 0 ∧ nf 16 5 w = 0 ∧ nf 4 4 w = 0 ∧ nf 8 8 w = 0 then some (.xCall (BitVec.ofNat 32 e) (fb 4 0 w)) else none

/-- Major 0x13 of the X engine: jmpr, ret. -/
def decodeX13 (w : Nat) : Option Instr :=
  match nf 4 7 w with
  | 0 => if nf 11 5 w = 0 ∧ nf 21 5 w = 0 then some (.xJmpr (fb 5 16 w) (fb 4 0 w)) else none
  | 1 => if nf 11 15 w = 0 then some (.xRet (fb 4 0 w)) else none
  | _ => none

/-- Major 0x14 of the X engine: loop. -/
def decodeX14 (w : Nat) (e : Nat) : Option Instr :=
  if nf 4 4 w = 0 ∧ nf 8 8 w = 0 ∧ nf 21 5 w < 4 then some (.xLoop (fb 2 21 w) (fb 5 16 w) (BitVec.ofNat 32 e) (fb 4 0 w)) else none

/-- Major 0x15 of the X engine: tkput, tkget. -/
def decodeX15 (w : Nat) : Option Instr :=
  match nf 4 7 w with
  | 0 => if nf 21 5 w = 0 then (Fifo.ofCode (nf 11 5 w)).bind fun f => some (.xTkput f (fb 5 16 w) (fb 4 0 w)) else none
  | 1 => if nf 16 5 w = 0 then (Fifo.ofCode (nf 11 5 w)).bind fun f => some (.xTkget (fb 5 21 w) f (fb 4 0 w)) else none
  | _ => none

/-- Major 0x18 of the X engine: ld. -/
def decodeX18 (w : Nat) : Option Instr :=
  (Ord.ofCode (nf 10 3 w)).bind fun ord => (Scope.ofCode (nf 7 3 w)).bind fun sc => some (.xLd (fb 5 21 w) (fb 5 16 w) (fb 2 14 w) (fbit 13 w) ord sc (fb 7 0 w))

/-- Major 0x19 of the X engine: st. -/
def decodeX19 (w : Nat) : Option Instr :=
  if nf 13 1 w = 0 then (Ord.ofCode (nf 10 3 w)).bind fun ord => (Scope.ofCode (nf 7 3 w)).bind fun sc => some (.xSt (fb 5 21 w) (fb 5 16 w) (fb 2 14 w) ord sc (fb 7 0 w)) else none

/-- Major 0x1a of the X engine: amo. -/
def decodeX1A (w : Nat) : Option Instr :=
  (Ord.ofCode (nf 7 3 w)).bind fun ord => (Scope.ofCode (nf 4 3 w)).bind fun sc => (AmoOp.ofCode (nf 0 4 w)).bind fun op => some (.xAmo (fb 5 21 w) (fb 5 16 w) (fb 5 11 w) (fbit 10 w) ord sc op)

/-- Major 0x1b of the X engine: cas. -/
def decodeX1B (w : Nat) : Option Instr :=
  if nf 0 4 w = 0 then (Ord.ofCode (nf 7 3 w)).bind fun ord => (Scope.ofCode (nf 4 3 w)).bind fun sc => some (.xCas (fb 5 21 w) (fb 5 16 w) (fb 5 11 w) (fbit 10 w) ord sc) else none

/-- Major 0x1c of the X engine: fence. -/
def decodeX1C (w : Nat) : Option Instr :=
  if nf 4 16 w = 0 then (FenceKind.ofCode (nf 23 3 w)).bind fun kind => (Scope.ofCode (nf 20 3 w)).bind fun sc => some (.xFence kind sc (fb 4 0 w)) else none

/-- Major 0x1d of the X engine: lds. -/
def decodeX1D (w : Nat) : Option Instr :=
  some (.xLds (fb 5 21 w) (fb 5 16 w) (fb 12 4 w) (fb 4 0 w))

/-- Major 0x1e of the X engine: sts. -/
def decodeX1E (w : Nat) : Option Instr :=
  some (.xSts (fb 5 21 w) (fb 5 16 w) (fb 12 4 w) (fb 4 0 w))

/-- Major 0x1f of the X engine: cpy, tlwait, tlread. -/
def decodeX1F (w : Nat) : Option Instr :=
  match nf 4 7 w with
  | 0 => if nf 11 5 w = 0 then some (.xCpy (fb 5 21 w) (fb 5 16 w) (fb 4 0 w)) else none
  | 1 => if nf 21 5 w = 0 ∧ nf 11 5 w < 4 then some (.xTlwait (fb 2 11 w) (fb 5 16 w) (fb 4 0 w)) else none
  | 2 => if nf 16 5 w = 0 ∧ nf 11 5 w < 4 then some (.xTlread (fb 5 21 w) (fb 2 11 w) (fb 4 0 w)) else none
  | _ => none

/-- Major 0x20 of the X engine: vadd, vsub, vmin, vmax, vabs, vneg, vmul. -/
def decodeX20 (w : Nat) : Option Instr :=
  match nf 4 3 w with
  | 0 => (Ty.ofCode (nf 7 4 w)).bind fun ty => some (.xVadd ty (fb 5 21 w) (fb 5 16 w) (fb 5 11 w) (fb 4 0 w))
  | 1 => (Ty.ofCode (nf 7 4 w)).bind fun ty => some (.xVsub ty (fb 5 21 w) (fb 5 16 w) (fb 5 11 w) (fb 4 0 w))
  | 2 => (Ty.ofCode (nf 7 4 w)).bind fun ty => some (.xVmin ty (fb 5 21 w) (fb 5 16 w) (fb 5 11 w) (fb 4 0 w))
  | 3 => (Ty.ofCode (nf 7 4 w)).bind fun ty => some (.xVmax ty (fb 5 21 w) (fb 5 16 w) (fb 5 11 w) (fb 4 0 w))
  | 4 => if nf 11 5 w = 0 then (Ty.ofCode (nf 7 4 w)).bind fun ty => some (.xVabs ty (fb 5 21 w) (fb 5 16 w) (fb 4 0 w)) else none
  | 5 => if nf 11 5 w = 0 then (Ty.ofCode (nf 7 4 w)).bind fun ty => some (.xVneg ty (fb 5 21 w) (fb 5 16 w) (fb 4 0 w)) else none
  | 6 => (Ty.ofCode (nf 7 4 w)).bind fun ty => some (.xVmul ty (fb 5 21 w) (fb 5 16 w) (fb 5 11 w) (fb 4 0 w))
  | _ => none

/-- Major 0x21 of the X engine: vmadd, vmsub, vnmadd. -/
def decodeX21 (w : Nat) : Option Instr :=
  match nf 4 3 w with
  | 0 => (Ty.ofCode (nf 7 4 w)).bind fun ty => some (.xVmadd ty (fb 5 21 w) (fb 5 16 w) (fb 5 11 w) (fb 4 0 w))
  | 1 => (Ty.ofCode (nf 7 4 w)).bind fun ty => some (.xVmsub ty (fb 5 21 w) (fb 5 16 w) (fb 5 11 w) (fb 4 0 w))
  | 2 => (Ty.ofCode (nf 7 4 w)).bind fun ty => some (.xVnmadd ty (fb 5 21 w) (fb 5 16 w) (fb 5 11 w) (fb 4 0 w))
  | _ => none

/-- Major 0x22 of the X engine: vand, vor, vxor, vshl, vshr, vsra. -/
def decodeX22 (w : Nat) : Option Instr :=
  match nf 4 3 w with
  | 0 => (Ty.ofCode (nf 7 4 w)).bind fun ty => some (.xVand ty (fb 5 21 w) (fb 5 16 w) (fb 5 11 w) (fb 4 0 w))
  | 1 => (Ty.ofCode (nf 7 4 w)).bind fun ty => some (.xVor ty (fb 5 21 w) (fb 5 16 w) (fb 5 11 w) (fb 4 0 w))
  | 2 => (Ty.ofCode (nf 7 4 w)).bind fun ty => some (.xVxor ty (fb 5 21 w) (fb 5 16 w) (fb 5 11 w) (fb 4 0 w))
  | 3 => (Ty.ofCode (nf 7 4 w)).bind fun ty => some (.xVshl ty (fb 5 21 w) (fb 5 16 w) (fb 5 11 w) (fb 4 0 w))
  | 4 => (Ty.ofCode (nf 7 4 w)).bind fun ty => some (.xVshr ty (fb 5 21 w) (fb 5 16 w) (fb 5 11 w) (fb 4 0 w))
  | 5 => (Ty.ofCode (nf 7 4 w)).bind fun ty => some (.xVsra ty (fb 5 21 w) (fb 5 16 w) (fb 5 11 w) (fb 4 0 w))
  | _ => none

/-- Major 0x23 of the X engine: vcmp. -/
def decodeX23 (w : Nat) : Option Instr :=
  (VCond.ofCode (nf 4 3 w)).bind fun cond => (Ty.ofCode (nf 7 4 w)).bind fun ty => some (.xVcmp cond ty (fb 5 21 w) (fb 5 16 w) (fb 5 11 w) (fb 4 0 w))

/-- Major 0x24 of the X engine: vsel. -/
def decodeX24 (w : Nat) : Option Instr :=
  if nf 4 3 w = 0 then (Ty.ofCode (nf 7 4 w)).bind fun ty => some (.xVsel ty (fb 5 21 w) (fb 4 0 w) (fb 5 16 w) (fb 5 11 w)) else none

/-- Major 0x25 of the X engine: vbcst, vext, vins, vperm. -/
def decodeX25 (w : Nat) : Option Instr :=
  match nf 4 3 w with
  | 0 => if nf 11 5 w = 0 then (Ty.ofCode (nf 7 4 w)).bind fun ty => some (.xVbcst ty (fb 5 21 w) (fb 5 16 w) (fb 4 0 w)) else none
  | 1 => (Ty.ofCode (nf 7 4 w)).bind fun ty => some (.xVext ty (fb 5 21 w) (fb 5 16 w) (fb 5 11 w) (fb 4 0 w))
  | 2 => (Ty.ofCode (nf 7 4 w)).bind fun ty => some (.xVins ty (fb 5 21 w) (fb 5 16 w) (fb 5 11 w) (fb 4 0 w))
  | 3 => (Ty.ofCode (nf 7 4 w)).bind fun ty => some (.xVperm ty (fb 5 21 w) (fb 5 16 w) (fb 5 11 w) (fb 4 0 w))
  | _ => none

/-- Major 0x26 of the X engine: vcvt. -/
def decodeX26 (w : Nat) : Option Instr :=
  (Ty.ofCode (nf 7 4 w)).bind fun src => (Ty.ofCode (nf 11 5 w)).bind fun dst => (Rnd.ofCode (nf 4 3 w)).bind fun rnd => some (.xVcvt src dst rnd (fb 5 21 w) (fb 5 16 w) (fb 4 0 w))

/-- Major 0x27 of the X engine: vqnt. -/
def decodeX27 (w : Nat) : Option Instr :=
  if nf 7 4 w = 12 then (Rnd.ofCode (nf 4 3 w)).bind fun rnd => some (.xVqnt rnd (fb 5 21 w) (fb 5 16 w) (fb 5 11 w) (fb 4 0 w)) else none

/-- Major 0x28 of the X engine: vred. -/
def decodeX28 (w : Nat) : Option Instr :=
  if nf 11 5 w = 0 then (RedOp.ofCode (nf 4 3 w)).bind fun op => (Ty.ofCode (nf 7 4 w)).bind fun ty => some (.xVred op ty (fb 5 21 w) (fb 5 16 w) (fb 4 0 w)) else none

/-- Major 0x29 of the X engine: vrecip, vrsqrt, vexp2, vlog2. -/
def decodeX29 (w : Nat) : Option Instr :=
  match nf 4 3 w with
  | 0 => if nf 11 5 w = 0 then (Ty.ofCode (nf 7 4 w)).bind fun ty => some (.xVrecip ty (fb 5 21 w) (fb 5 16 w) (fb 4 0 w)) else none
  | 1 => if nf 11 5 w = 0 then (Ty.ofCode (nf 7 4 w)).bind fun ty => some (.xVrsqrt ty (fb 5 21 w) (fb 5 16 w) (fb 4 0 w)) else none
  | 2 => if nf 11 5 w = 0 then (Ty.ofCode (nf 7 4 w)).bind fun ty => some (.xVexp2 ty (fb 5 21 w) (fb 5 16 w) (fb 4 0 w)) else none
  | 3 => if nf 11 5 w = 0 then (Ty.ofCode (nf 7 4 w)).bind fun ty => some (.xVlog2 ty (fb 5 21 w) (fb 5 16 w) (fb 4 0 w)) else none
  | _ => none

/-- Major 0x2a of the X engine: vpop, vpush. -/
def decodeX2A (w : Nat) : Option Instr :=
  match nf 4 3 w with
  | 0 => if nf 7 4 w = 0 ∧ nf 11 5 w < 16 then some (.xVpop (fb 5 21 w) (fb 4 11 w) (fb 5 16 w) (fb 4 0 w)) else none
  | 1 => if nf 7 4 w = 0 ∧ nf 21 5 w = 0 ∧ nf 11 5 w < 16 then some (.xVpush (fb 4 11 w) (fb 5 16 w) (fb 4 0 w)) else none
  | _ => none

/-- Major 0x2b of the X engine: vlds. -/
def decodeX2B (w : Nat) : Option Instr :=
  some (.xVlds (fb 5 21 w) (fb 5 16 w) (fb 12 4 w) (fb 4 0 w))

/-- Major 0x2c of the X engine: vsts. -/
def decodeX2C (w : Nat) : Option Instr :=
  some (.xVsts (fb 5 21 w) (fb 5 16 w) (fb 12 4 w) (fb 4 0 w))

/-- Major 0x2d of the X engine: gload, gstore, gstep, gmask, gcount, gforce. -/
def decodeX2D (w : Nat) : Option Instr :=
  match nf 4 7 w with
  | 0 => if nf 11 5 w = 0 then some (.xGload (fb 5 21 w) (fb 5 16 w) (fb 4 0 w)) else none
  | 1 => if nf 11 5 w = 0 ∧ nf 21 5 w = 0 then some (.xGstore (fb 5 16 w) (fb 4 0 w)) else none
  | 2 => if nf 11 5 w = 0 then some (.xGstep (fb 5 21 w) (fb 5 16 w) (fb 4 0 w)) else none
  | 3 => some (.xGmask (fb 5 21 w) (fb 5 16 w) (fb 5 11 w) (fb 4 0 w))
  | 4 => if nf 11 10 w = 0 then some (.xGcount (fb 5 21 w) (fb 4 0 w)) else none
  | 5 => if nf 11 10 w = 0 then some (.xGforce (fb 5 21 w) (fb 4 0 w)) else none
  | _ => none

/-- Major 0x30 of the X engine: send, sendnb. -/
def decodeX30 (w : Nat) : Option Instr :=
  match nf 4 7 w with
  | 0 => if nf 11 5 w = 0 then some (.xSend (fb 5 21 w) (fb 5 16 w) (fb 4 0 w)) else none
  | 1 => some (.xSendnb (fb 5 11 w) (fb 5 21 w) (fb 5 16 w) (fb 4 0 w))
  | _ => none

/-- Major 0x31 of the X engine: hset, hmask, hunmask, abind. -/
def decodeX31 (w : Nat) : Option Instr :=
  match nf 4 7 w with
  | 0 => some (.xHset (fb 5 21 w) (fb 5 16 w) (fb 5 11 w) (fb 4 0 w))
  | 1 => if nf 11 5 w = 0 ∧ nf 21 5 w = 0 then some (.xHmask (fb 5 16 w) (fb 4 0 w)) else none
  | 2 => if nf 11 5 w = 0 ∧ nf 21 5 w = 0 then some (.xHunmask (fb 5 16 w) (fb 4 0 w)) else none
  | 3 => some (.xAbind (fb 5 21 w) (fb 5 16 w) (fb 5 11 w) (fb 4 0 w))
  | _ => none

/-- Major 0x32 of the X engine: tspawn, tqenq, tqdeq. -/
def decodeX32 (w : Nat) : Option Instr :=
  match nf 4 7 w with
  | 0 => if nf 11 5 w = 0 then some (.xTspawn (fb 5 21 w) (fb 5 16 w) (fb 4 0 w)) else none
  | 1 => some (.xTqenq (fb 5 11 w) (fb 5 21 w) (fb 5 16 w) (fb 4 0 w))
  | 2 => some (.xTqdeq (fb 5 11 w) (fb 5 21 w) (fb 5 16 w) (fb 4 0 w))
  | _ => none

/-- Major 0x33 of the X engine: dcinit, dcdec, dcpark. -/
def decodeX33 (w : Nat) : Option Instr :=
  match nf 4 7 w with
  | 0 => some (.xDcinit (fb 5 21 w) (fb 5 16 w) (fb 5 11 w) (fb 4 0 w))
  | 1 => if nf 11 5 w = 0 then some (.xDcdec (fb 5 21 w) (fb 5 16 w) (fb 4 0 w)) else none
  | 2 => some (.xDcpark (fb 5 11 w) (fb 5 21 w) (fb 5 16 w) (fb 4 0 w))
  | _ => none

/-- Major 0x34 of the X engine: wlpush, wlpop, wlbound, wlterm. -/
def decodeX34 (w : Nat) : Option Instr :=
  match nf 4 7 w with
  | 0 => if nf 21 5 w = 0 then some (.xWlpush (fb 5 16 w) (fb 5 11 w) (fb 4 0 w)) else none
  | 1 => if nf 16 5 w = 0 then some (.xWlpop (fb 5 21 w) (fb 5 11 w) (fb 4 0 w)) else none
  | 2 => if nf 21 5 w = 0 then some (.xWlbound (fb 5 16 w) (fb 5 11 w) (fb 4 0 w)) else none
  | 3 => if nf 11 5 w = 0 ∧ nf 21 5 w = 0 then some (.xWlterm (fb 5 16 w) (fb 4 0 w)) else none
  | _ => none

/-- Major 0x35 of the X engine: fnew, fres, fwait, fpoll, ffree, ftmo, fbind. -/
def decodeX35 (w : Nat) : Option Instr :=
  match nf 4 7 w with
  | 0 => if nf 11 5 w = 0 then some (.xFnew (fb 5 21 w) (fb 5 16 w) (fb 4 0 w)) else none
  | 1 => some (.xFres (fb 5 21 w) (fb 5 16 w) (fb 5 11 w) (fb 4 0 w))
  | 2 => some (.xFwait (fb 5 21 w) (fb 5 16 w) (fb 5 11 w) (fb 4 0 w))
  | 3 => if nf 11 5 w = 0 then some (.xFpoll (fb 5 21 w) (fb 5 16 w) (fb 4 0 w)) else none
  | 4 => if nf 11 5 w = 0 then some (.xFfree (fb 5 21 w) (fb 5 16 w) (fb 4 0 w)) else none
  | 5 => some (.xFtmo (fb 5 21 w) (fb 5 16 w) (fb 5 11 w) (fb 4 0 w))
  | 6 => some (.xFbind (fb 5 21 w) (fb 5 16 w) (fb 5 11 w) (fb 4 0 w))
  | _ => none

/-- Major 0x36 of the X engine: barr, bexp, bwait. -/
def decodeX36 (w : Nat) : Option Instr :=
  match nf 4 7 w with
  | 0 => if nf 11 5 w = 0 then some (.xBarr (fb 5 21 w) (fb 5 16 w) (fb 4 0 w)) else none
  | 1 => some (.xBexp (fb 5 21 w) (fb 5 16 w) (fb 5 11 w) (fb 4 0 w))
  | 2 => some (.xBwait (fb 5 21 w) (fb 5 16 w) (fb 5 11 w) (fb 4 0 w))
  | _ => none

/-- Major 0x37 of the X engine: mclaim, mfree. -/
def decodeX37 (w : Nat) : Option Instr :=
  match nf 4 7 w with
  | 0 => if nf 11 5 w = 0 then some (.xMclaim (fb 5 21 w) (fb 5 16 w) (fb 4 0 w)) else none
  | 1 => if nf 11 15 w = 0 then some (.xMfree (fb 4 0 w)) else none
  | _ => none

/-- Major 0x38 of the X engine: sret, wdset. -/
def decodeX38 (w : Nat) : Option Instr :=
  match nf 4 7 w with
  | 0 => some (.xSret (fb 5 21 w) (fb 5 16 w) (fb 5 11 w) (fb 4 0 w))
  | 1 => if nf 11 5 w = 0 then some (.xWdset (fb 5 21 w) (fb 5 16 w) (fb 4 0 w)) else none
  | _ => none

/-- Major 0x39 of the X engine: sysr, sysw. -/
def decodeX39 (w : Nat) : Option Instr :=
  match nf 15 1 w with
  | 0 => if nf 16 5 w = 0 then (SysReg.ofCode (nf 4 11 w)).bind fun sr => some (.xSysr (fb 5 21 w) sr (fb 4 0 w)) else none
  | 1 => (SysReg.ofCode (nf 4 11 w)).bind fun sr => some (.xSysw (fb 5 21 w) sr (fb 5 16 w) (fb 4 0 w))
  | _ => none

/-- Major 0x3a of the X engine: tlbinv_all, tlbinv_va, tlbinv_part. -/
def decodeX3A (w : Nat) : Option Instr :=
  match nf 4 7 w with
  | 0 => if nf 11 15 w = 0 then some (.xTlbinvAll (fb 4 0 w)) else none
  | 1 => if nf 11 5 w = 0 ∧ nf 21 5 w = 0 then some (.xTlbinvVa (fb 5 16 w) (fb 4 0 w)) else none
  | 2 => if nf 11 15 w = 0 then some (.xTlbinvPart (fb 4 0 w)) else none
  | _ => none

/-- Major 0x3b of the X engine: cinv_l1, cinv_sb, cinv_is. -/
def decodeX3B (w : Nat) : Option Instr :=
  match nf 4 7 w with
  | 0 => if nf 11 15 w = 0 then some (.xCinvL1 (fb 4 0 w)) else none
  | 1 => if nf 11 15 w = 0 then some (.xCinvSb (fb 4 0 w)) else none
  | 2 => if nf 11 15 w = 0 then some (.xCinvIs (fb 4 0 w)) else none
  | _ => none

/-- Major 0x3c of the X engine: ctxsave, ctxload. -/
def decodeX3C (w : Nat) : Option Instr :=
  match nf 4 7 w with
  | 0 => some (.xCtxsave (fb 5 21 w) (fb 5 16 w) (fb 5 11 w) (fb 4 0 w))
  | 1 => some (.xCtxload (fb 5 21 w) (fb 5 16 w) (fb 5 11 w) (fb 4 0 w))
  | _ => none

/-- the X engine: the instruction of a first lane w, with its extension lane when one follows (R170, R174). -/
def rawX (w : Nat) (ext : Option Nat) : Option Instr :=
  match nf 26 6 w, ext with
  | 0, none => decodeX00 w
  | 1, none => decodeX01 w
  | 2, none => decodeX02 w
  | 3, none => decodeX03 w
  | 4, none => decodeX04 w
  | 5, none => decodeX05 w
  | 6, none => decodeX06 w
  | 7, none => decodeX07 w
  | 8, none => decodeX08 w
  | 9, none => decodeX09 w
  | 10, none => decodeX0A w
  | 11, some e => decodeX0B w e
  | 12, none => decodeX0C w
  | 13, none => decodeX0D w
  | 14, none => decodeX0E w
  | 15, none => decodeX0F w
  | 16, none => decodeX10 w
  | 17, some e => decodeX11 w e
  | 18, some e => decodeX12 w e
  | 19, none => decodeX13 w
  | 20, some e => decodeX14 w e
  | 21, none => decodeX15 w
  | 24, none => decodeX18 w
  | 25, none => decodeX19 w
  | 26, none => decodeX1A w
  | 27, none => decodeX1B w
  | 28, none => decodeX1C w
  | 29, none => decodeX1D w
  | 30, none => decodeX1E w
  | 31, none => decodeX1F w
  | 32, none => decodeX20 w
  | 33, none => decodeX21 w
  | 34, none => decodeX22 w
  | 35, none => decodeX23 w
  | 36, none => decodeX24 w
  | 37, none => decodeX25 w
  | 38, none => decodeX26 w
  | 39, none => decodeX27 w
  | 40, none => decodeX28 w
  | 41, none => decodeX29 w
  | 42, none => decodeX2A w
  | 43, none => decodeX2B w
  | 44, none => decodeX2C w
  | 45, none => decodeX2D w
  | 48, none => decodeX30 w
  | 49, none => decodeX31 w
  | 50, none => decodeX32 w
  | 51, none => decodeX33 w
  | 52, none => decodeX34 w
  | 53, none => decodeX35 w
  | 54, none => decodeX36 w
  | 55, none => decodeX37 w
  | 56, none => decodeX38 w
  | 57, none => decodeX39 w
  | 58, none => decodeX3A w
  | 59, none => decodeX3B w
  | 60, none => decodeX3C w
  | _, _ => none

/-- Major 0x00 of the A engine: a.nop, a.done. -/
def decodeA00 (w : Nat) : Option Instr :=
  match nf 4 7 w with
  | 0 => if nf 2 2 w = 0 ∧ nf 11 15 w = 0 then some (.aNop (fb 2 0 w)) else none
  | 1 => if nf 2 2 w = 0 ∧ nf 11 15 w = 0 then some (.aDone (fb 2 0 w)) else none
  | _ => none

/-- Major 0x01 of the A engine: a.add, a.sub, a.and, a.shl, a.shr, a.mul, a.mov. -/
def decodeA01 (w : Nat) : Option Instr :=
  match nf 4 7 w with
  | 0 => if nf 2 2 w = 0 ∧ nf 21 5 w < 16 ∧ nf 16 5 w < 16 ∧ nf 11 5 w < 16 then some (.aAdd (fb 4 21 w) (fb 4 16 w) (fb 4 11 w) (fb 2 0 w)) else none
  | 1 => if nf 2 2 w = 0 ∧ nf 21 5 w < 16 ∧ nf 16 5 w < 16 ∧ nf 11 5 w < 16 then some (.aSub (fb 4 21 w) (fb 4 16 w) (fb 4 11 w) (fb 2 0 w)) else none
  | 2 => if nf 2 2 w = 0 ∧ nf 21 5 w < 16 ∧ nf 16 5 w < 16 ∧ nf 11 5 w < 16 then some (.aAnd (fb 4 21 w) (fb 4 16 w) (fb 4 11 w) (fb 2 0 w)) else none
  | 3 => if nf 2 2 w = 0 ∧ nf 21 5 w < 16 ∧ nf 16 5 w < 16 ∧ nf 11 5 w < 16 then some (.aShl (fb 4 21 w) (fb 4 16 w) (fb 4 11 w) (fb 2 0 w)) else none
  | 4 => if nf 2 2 w = 0 ∧ nf 21 5 w < 16 ∧ nf 16 5 w < 16 ∧ nf 11 5 w < 16 then some (.aShr (fb 4 21 w) (fb 4 16 w) (fb 4 11 w) (fb 2 0 w)) else none
  | 5 => if nf 2 2 w = 0 ∧ nf 21 5 w < 16 ∧ nf 16 5 w < 16 ∧ nf 11 5 w < 16 then some (.aMul (fb 4 21 w) (fb 4 16 w) (fb 4 11 w) (fb 2 0 w)) else none
  | 6 => if nf 2 2 w = 0 ∧ nf 11 5 w = 0 ∧ nf 21 5 w < 16 ∧ nf 16 5 w < 16 then some (.aMov (fb 4 21 w) (fb 4 16 w) (fb 2 0 w)) else none
  | _ => none

/-- Major 0x02 of the A engine: a.addi. -/
def decodeA02 (w : Nat) : Option Instr :=
  if nf 2 2 w = 0 ∧ nf 21 5 w < 16 ∧ nf 16 5 w < 16 then some (.aAddi (fb 4 21 w) (fb 4 16 w) (fb 12 4 w) (fb 2 0 w)) else none

/-- Major 0x03 of the A engine: a.lim. -/
def decodeA03 (w : Nat) (e : Nat) : Option Instr :=
  if nf 16 5 w = 0 ∧ nf 2 6 w = 0 ∧ nf 8 8 w = 0 ∧ nf 21 5 w < 16 then some (.aLim (fb 4 21 w) (BitVec.ofNat 32 e) (fb 2 0 w)) else none

/-- Major 0x04 of the A engine: a.cmp. -/
def decodeA04 (w : Nat) : Option Instr :=
  if nf 2 2 w = 0 ∧ nf 21 5 w < 4 ∧ nf 16 5 w < 16 ∧ nf 11 5 w < 16 then (Cond.ofCode (nf 4 7 w)).bind fun cond => some (.aCmp cond (fb 2 21 w) (fb 4 16 w) (fb 4 11 w) (fb 2 0 w)) else none

/-- Major 0x08 of the A engine: a.br. -/
def decodeA08 (w : Nat) : Option Instr :=
  if nf 17 6 w = 0 then some (.aBr (fb 2 24 w) (fbit 23 w) (fb 17 0 w)) else none

/-- Major 0x09 of the A engine: a.jmp. -/
def decodeA09 (w : Nat) (e : Nat) : Option Instr :=
  if nf 21 5 w = 0 ∧ nf 16 5 w = 0 ∧ nf 2 6 w = 0 ∧ nf 8 8 w = 0 then some (.aJmp (BitVec.ofNat 32 e) (fb 2 0 w)) else none

/-- Major 0x0a of the A engine: a.loop. -/
def decodeA0A (w : Nat) (e : Nat) : Option Instr :=
  if nf 2 6 w = 0 ∧ nf 8 8 w = 0 ∧ nf 21 5 w < 4 ∧ nf 16 5 w < 16 then some (.aLoop (fb 2 21 w) (fb 4 16 w) (BitVec.ofNat 32 e) (fb 2 0 w)) else none

/-- Major 0x0b of the A engine: a.tkput, a.tkget. -/
def decodeA0B (w : Nat) : Option Instr :=
  match nf 4 7 w with
  | 0 => if nf 2 2 w = 0 ∧ nf 21 5 w = 0 ∧ nf 16 5 w < 16 then (Fifo.ofCode (nf 11 5 w)).bind fun f => some (.aTkput f (fb 4 16 w) (fb 2 0 w)) else none
  | 1 => if nf 2 2 w = 0 ∧ nf 16 5 w = 0 ∧ nf 21 5 w < 16 then (Fifo.ofCode (nf 11 5 w)).bind fun f => some (.aTkget (fb 4 21 w) f (fb 2 0 w)) else none
  | _ => none

/-- Major 0x10 of the A engine: a.sopen. -/
def decodeA10 (w : Nat) : Option Instr :=
  if nf 2 2 w = 0 then some (.aSopen (fb 4 22 w) (fb 4 18 w) (fb 14 4 w) (fb 2 0 w)) else none

/-- Major 0x11 of the A engine: a.sclose. -/
def decodeA11 (w : Nat) : Option Instr :=
  if nf 2 20 w = 0 then some (.aSclose (fb 4 22 w) (fb 2 0 w)) else none

/-- Major 0x12 of the A engine: a.ld. -/
def decodeA12 (w : Nat) : Option Instr :=
  if nf 2 2 w = 0 then some (.aLd (fb 4 22 w) (fb 4 18 w) (fb 14 4 w) (fb 2 0 w)) else none

/-- Major 0x13 of the A engine: a.st. -/
def decodeA13 (w : Nat) : Option Instr :=
  if nf 2 2 w = 0 then some (.aSt (fb 4 22 w) (fb 4 18 w) (fb 14 4 w) (fb 2 0 w)) else none

/-- Major 0x14 of the A engine: a.gath. -/
def decodeA14 (w : Nat) : Option Instr :=
  if nf 2 2 w = 0 then some (.aGath (fb 4 22 w) (fb 4 18 w) (fb 4 4 w) (fb 10 8 w) (fb 2 0 w)) else none

/-- Major 0x15 of the A engine: a.scat. -/
def decodeA15 (w : Nat) : Option Instr :=
  if nf 2 2 w = 0 then some (.aScat (fb 4 22 w) (fb 4 18 w) (fb 4 4 w) (fb 10 8 w) (fb 2 0 w)) else none

/-- Major 0x16 of the A engine: a.pref. -/
def decodeA16 (w : Nat) : Option Instr :=
  if nf 2 2 w = 0 then some (.aPref (fb 4 22 w) (fb 4 18 w) (fb 14 4 w) (fb 2 0 w)) else none

/-- Major 0x17 of the A engine: a.fence. -/
def decodeA17 (w : Nat) : Option Instr :=
  if nf 2 18 w = 0 then (FenceKind.ofCode (nf 23 3 w)).bind fun kind => (Scope.ofCode (nf 20 3 w)).bind fun sc => some (.aFence kind sc (fb 2 0 w)) else none

/-- Major 0x18 of the A engine: a.ldb. -/
def decodeA18 (w : Nat) : Option Instr :=
  if nf 2 2 w = 0 ∧ nf 21 5 w < 16 ∧ nf 16 5 w < 16 then some (.aLdb (fb 4 21 w) (fb 4 16 w) (fb 12 4 w) (fb 2 0 w)) else none

/-- Major 0x19 of the A engine: a.cpy. -/
def decodeA19 (w : Nat) : Option Instr :=
  if nf 2 14 w = 0 ∧ nf 21 5 w < 16 ∧ nf 16 5 w < 16 then some (.aCpy (fb 4 21 w) (fb 4 16 w) (fb 2 0 w)) else none

/-- the A engine: the instruction of a first lane w, with its extension lane when one follows (R170, R174). -/
def rawA (w : Nat) (ext : Option Nat) : Option Instr :=
  match nf 26 6 w, ext with
  | 0, none => decodeA00 w
  | 1, none => decodeA01 w
  | 2, none => decodeA02 w
  | 3, some e => decodeA03 w e
  | 4, none => decodeA04 w
  | 8, none => decodeA08 w
  | 9, some e => decodeA09 w e
  | 10, some e => decodeA0A w e
  | 11, none => decodeA0B w
  | 16, none => decodeA10 w
  | 17, none => decodeA11 w
  | 18, none => decodeA12 w
  | 19, none => decodeA13 w
  | 20, none => decodeA14 w
  | 21, none => decodeA15 w
  | 22, none => decodeA16 w
  | 23, none => decodeA17 w
  | 24, none => decodeA18 w
  | 25, none => decodeA19 w
  | _, _ => none

/-- Major 0x00 of the Matrix engine: m.nop, m.done. -/
def decodeM00 (w : Nat) : Option Instr :=
  match nf 4 7 w with
  | 0 => if nf 0 4 w = 0 ∧ nf 11 15 w = 0 then some (.mNop) else none
  | 1 => if nf 0 4 w = 0 ∧ nf 11 15 w = 0 then some (.mDone) else none
  | _ => none

/-- Major 0x01 of the Matrix engine: m.set. -/
def decodeM01 (w : Nat) : Option Instr :=
  if nf 0 4 w = 0 ∧ nf 15 5 w < 16 then (Shadow.ofCode (nf 20 6 w)).bind fun fld => some (.mSet fld (fb 4 15 w) (fb 11 4 w)) else none

/-- Major 0x02 of the Matrix engine: m.go. -/
def decodeM02 (w : Nat) : Option Instr :=
  if nf 0 26 w = 0 then some (.mGo) else none

/-- Major 0x03 of the Matrix engine: m.wait. -/
def decodeM03 (w : Nat) : Option Instr :=
  if nf 0 16 w = 0 ∧ nf 21 5 w < 16 ∧ nf 16 5 w < 16 then some (.mWait (fb 4 21 w) (fb 4 16 w)) else none

/-- Major 0x04 of the Matrix engine: m.cimld. -/
def decodeM04 (w : Nat) : Option Instr :=
  if nf 0 26 w = 0 then some (.mCimld) else none

/-- Major 0x05 of the Matrix engine: m.mma. -/
def decodeM05 (w : Nat) : Option Instr :=
  if nf 0 26 w = 0 then some (.mMma) else none

/-- Major 0x06 of the Matrix engine: m.aclr. -/
def decodeM06 (w : Nat) : Option Instr :=
  if nf 0 26 w = 0 then some (.mAclr) else none

/-- Major 0x07 of the Matrix engine: m.cvt. -/
def decodeM07 (w : Nat) : Option Instr :=
  if nf 0 26 w = 0 then some (.mCvt) else none

/-- Major 0x08 of the Matrix engine: m.slice. -/
def decodeM08 (w : Nat) : Option Instr :=
  if nf 0 26 w = 0 then some (.mSlice) else none

/-- Major 0x09 of the Matrix engine: m.bcast. -/
def decodeM09 (w : Nat) : Option Instr :=
  if nf 0 26 w = 0 then some (.mBcast) else none

/-- Major 0x0a of the Matrix engine: m.red. -/
def decodeM0A (w : Nat) : Option Instr :=
  if nf 0 26 w = 0 then some (.mRed) else none

/-- Major 0x0b of the Matrix engine: m.br. -/
def decodeM0B (w : Nat) : Option Instr :=
  if nf 17 4 w = 0 then some (.mBr (fb 4 22 w) (fbit 21 w) (fb 17 0 w)) else none

/-- Major 0x0c of the Matrix engine: m.loop. -/
def decodeM0C (w : Nat) (e : Nat) : Option Instr :=
  if nf 0 8 w = 0 ∧ nf 8 8 w = 0 ∧ nf 21 5 w < 4 ∧ nf 16 5 w < 16 then some (.mLoop (fb 2 21 w) (fb 4 16 w) (BitVec.ofNat 32 e)) else none

/-- Major 0x0d of the Matrix engine: m.tkput, m.tkget. -/
def decodeM0D (w : Nat) : Option Instr :=
  match nf 4 7 w with
  | 0 => if nf 0 4 w = 0 ∧ nf 21 5 w = 0 ∧ nf 16 5 w < 16 then (Fifo.ofCode (nf 11 5 w)).bind fun f => some (.mTkput f (fb 4 16 w)) else none
  | 1 => if nf 0 4 w = 0 ∧ nf 16 5 w = 0 ∧ nf 21 5 w < 16 then (Fifo.ofCode (nf 11 5 w)).bind fun f => some (.mTkget (fb 4 21 w) f) else none
  | _ => none

/-- Major 0x0e of the Matrix engine: m.add, m.sub, m.mov. -/
def decodeM0E (w : Nat) : Option Instr :=
  match nf 4 7 w with
  | 0 => if nf 0 4 w = 0 ∧ nf 21 5 w < 16 ∧ nf 16 5 w < 16 ∧ nf 11 5 w < 16 then some (.mAdd (fb 4 21 w) (fb 4 16 w) (fb 4 11 w)) else none
  | 1 => if nf 0 4 w = 0 ∧ nf 21 5 w < 16 ∧ nf 16 5 w < 16 ∧ nf 11 5 w < 16 then some (.mSub (fb 4 21 w) (fb 4 16 w) (fb 4 11 w)) else none
  | 2 => if nf 0 4 w = 0 ∧ nf 11 5 w = 0 ∧ nf 21 5 w < 16 ∧ nf 16 5 w < 16 then some (.mMov (fb 4 21 w) (fb 4 16 w)) else none
  | _ => none

/-- Major 0x0f of the Matrix engine: m.addi. -/
def decodeM0F (w : Nat) : Option Instr :=
  if nf 0 4 w = 0 ∧ nf 21 5 w < 16 ∧ nf 16 5 w < 16 then some (.mAddi (fb 4 21 w) (fb 4 16 w) (fb 12 4 w)) else none

/-- Major 0x10 of the Matrix engine: m.lim. -/
def decodeM10 (w : Nat) (e : Nat) : Option Instr :=
  if nf 16 5 w = 0 ∧ nf 0 8 w = 0 ∧ nf 8 8 w = 0 ∧ nf 21 5 w < 16 then some (.mLim (fb 4 21 w) (BitVec.ofNat 32 e)) else none

/-- the Matrix engine: the instruction of a first lane w, with its extension lane when one follows (R170, R174). -/
def rawM (w : Nat) (ext : Option Nat) : Option Instr :=
  match nf 26 6 w, ext with
  | 0, none => decodeM00 w
  | 1, none => decodeM01 w
  | 2, none => decodeM02 w
  | 3, none => decodeM03 w
  | 4, none => decodeM04 w
  | 5, none => decodeM05 w
  | 6, none => decodeM06 w
  | 7, none => decodeM07 w
  | 8, none => decodeM08 w
  | 9, none => decodeM09 w
  | 10, none => decodeM0A w
  | 11, none => decodeM0B w
  | 12, some e => decodeM0C w e
  | 13, none => decodeM0D w
  | 14, none => decodeM0E w
  | 15, none => decodeM0F w
  | 16, some e => decodeM10 w e
  | _, _ => none

/-- The Xenx instruction of a 32-bit word (R302); every other word is no Xenx instruction. -/
def rawH (w : Nat) : Option Instr :=
  match nf 0 7 w, nf 12 3 w with
  | 11, 0 => if nf 20 12 w = 0 then some (.enxSend (fb 5 7 w) (fb 5 15 w)) else none
  | 11, 1 => if nf 25 2 w = 0 then some (.enxFres (fb 5 7 w) (fb 5 15 w) (fb 5 20 w) (fb 5 27 w)) else none
  | 11, 2 => if nf 20 12 w = 0 then some (.enxFpoll (fb 5 7 w) (fb 5 15 w)) else none
  | 11, 3 => if nf 25 7 w = 0 then some (.enxFwait (fb 5 7 w) (fb 5 15 w) (fb 5 20 w)) else none
  | 11, 4 => if nf 20 12 w = 0 then some (.enxTlread (fb 5 7 w) (fb 5 15 w)) else none
  | 43, 0 => if nf 25 2 w = 0 ∧ nf 7 5 w < 8 then some (.enxCapset (fb 3 7 w) (fb 5 15 w) (fb 5 20 w) (fb 5 27 w)) else none
  | 43, 1 => if nf 15 17 w = 0 ∧ nf 7 5 w < 8 then some (.enxCapclr (fb 3 7 w)) else none
  | 43, 2 => if nf 20 12 w = 0 then some (.enxCapget (fb 5 7 w) (fb 5 15 w)) else none
  | _, _ => none

/-- What X decodes (R174): a well-formed instruction, or none. -/
def decodeX (w : Nat) (ext : Option Nat) : Option Instr := (rawX w ext).filter Instr.wf
/-- What A decodes. -/
def decodeA (w : Nat) (ext : Option Nat) : Option Instr := (rawA w ext).filter Instr.wf
/-- What the Matrix sequencer decodes. -/
def decodeM (w : Nat) (ext : Option Nat) : Option Instr := (rawM w ext).filter Instr.wf
/-- What an engine decodes. -/
def decodeEng (e : Eng) (w : Nat) (ext : Option Nat) : Option Instr :=
  match e with
  | .x => decodeX w ext
  | .a => decodeA w ext
  | .m => decodeM w ext

/-- X majors 0x38 to 0x3C are privileged (R178). -/
def privilegedX (w : Nat) : Bool := 0x38 ≤ nf 26 6 w && nf 26 6 w ≤ 0x3C

/-- Majors whose instructions take two lanes: formats XL, AL and ML (R170). -/
def twoLane (e : Eng) (w : Nat) : Bool :=
  match e with
  | .x => [0x0B, 0x11, 0x12, 0x14].contains (nf 26 6 w)
  | .a => [0x03, 0x09, 0x0A].contains (nf 26 6 w)
  | .m => [0x0C, 0x10].contains (nf 26 6 w)

/-- Who executes an instruction: an engine, a hart, or the device. -/
inductive Exec where | eng (e : Eng) | hart | device
  deriving DecidableEq, Repr

/-- The engine whose instruction i is. -/
def Instr.who : Instr → Exec
  | .xNop _ => .eng .x
  | .xDone _ => .eng .x
  | .xSys _ _ _ => .eng .x
  | .xEbrk _ => .eng .x
  | .xAdd _ _ _ _ => .eng .x
  | .xSub _ _ _ _ => .eng .x
  | .xAnd _ _ _ _ => .eng .x
  | .xOr _ _ _ _ => .eng .x
  | .xXor _ _ _ _ => .eng .x
  | .xAndn _ _ _ _ => .eng .x
  | .xShl _ _ _ _ => .eng .x
  | .xShr _ _ _ _ => .eng .x
  | .xSra _ _ _ _ => .eng .x
  | .xMin _ _ _ _ => .eng .x
  | .xMax _ _ _ _ => .eng .x
  | .xMinu _ _ _ _ => .eng .x
  | .xMaxu _ _ _ _ => .eng .x
  | .xClz _ _ _ => .eng .x
  | .xCtz _ _ _ => .eng .x
  | .xPopc _ _ _ => .eng .x
  | .xMul _ _ _ _ => .eng .x
  | .xMulh _ _ _ _ => .eng .x
  | .xMulhu _ _ _ _ => .eng .x
  | .xDiv _ _ _ _ => .eng .x
  | .xDivu _ _ _ _ => .eng .x
  | .xRem _ _ _ _ => .eng .x
  | .xRemu _ _ _ _ => .eng .x
  | .xAddi _ _ _ _ => .eng .x
  | .xAndi _ _ _ _ => .eng .x
  | .xOri _ _ _ _ => .eng .x
  | .xXori _ _ _ _ => .eng .x
  | .xShli _ _ _ _ => .eng .x
  | .xShri _ _ _ _ => .eng .x
  | .xSrai _ _ _ _ => .eng .x
  | .xCmp _ _ _ _ _ => .eng .x
  | .xCmpi _ _ _ _ _ => .eng .x
  | .xSel _ _ _ _ _ => .eng .x
  | .xLim _ _ _ => .eng .x
  | .xLimh _ _ _ _ => .eng .x
  | .xPand _ _ _ => .eng .x
  | .xPor _ _ _ => .eng .x
  | .xPxor _ _ _ => .eng .x
  | .xPandn _ _ _ => .eng .x
  | .xPmov _ _ => .eng .x
  | .xPany _ _ _ => .eng .x
  | .xPall _ _ _ => .eng .x
  | .xPseti _ _ => .eng .x
  | .xPfrom _ _ => .eng .x
  | .xPto _ _ => .eng .x
  | .xPcnt _ _ => .eng .x
  | .xCsrr _ _ _ => .eng .x
  | .xCsrw _ _ _ _ => .eng .x
  | .xCsrs _ _ _ _ => .eng .x
  | .xBr _ _ _ => .eng .x
  | .xJmp _ _ => .eng .x
  | .xCall _ _ => .eng .x
  | .xJmpr _ _ => .eng .x
  | .xRet _ => .eng .x
  | .xLoop _ _ _ _ => .eng .x
  | .xTkput _ _ _ => .eng .x
  | .xTkget _ _ _ => .eng .x
  | .xLd _ _ _ _ _ _ _ => .eng .x
  | .xSt _ _ _ _ _ _ => .eng .x
  | .xAmo _ _ _ _ _ _ _ => .eng .x
  | .xCas _ _ _ _ _ _ => .eng .x
  | .xFence _ _ _ => .eng .x
  | .xLds _ _ _ _ => .eng .x
  | .xSts _ _ _ _ => .eng .x
  | .xCpy _ _ _ => .eng .x
  | .xTlwait _ _ _ => .eng .x
  | .xTlread _ _ _ => .eng .x
  | .xVadd _ _ _ _ _ => .eng .x
  | .xVsub _ _ _ _ _ => .eng .x
  | .xVmin _ _ _ _ _ => .eng .x
  | .xVmax _ _ _ _ _ => .eng .x
  | .xVabs _ _ _ _ => .eng .x
  | .xVneg _ _ _ _ => .eng .x
  | .xVmul _ _ _ _ _ => .eng .x
  | .xVmadd _ _ _ _ _ => .eng .x
  | .xVmsub _ _ _ _ _ => .eng .x
  | .xVnmadd _ _ _ _ _ => .eng .x
  | .xVand _ _ _ _ _ => .eng .x
  | .xVor _ _ _ _ _ => .eng .x
  | .xVxor _ _ _ _ _ => .eng .x
  | .xVshl _ _ _ _ _ => .eng .x
  | .xVshr _ _ _ _ _ => .eng .x
  | .xVsra _ _ _ _ _ => .eng .x
  | .xVcmp _ _ _ _ _ _ => .eng .x
  | .xVsel _ _ _ _ _ => .eng .x
  | .xVbcst _ _ _ _ => .eng .x
  | .xVext _ _ _ _ _ => .eng .x
  | .xVins _ _ _ _ _ => .eng .x
  | .xVperm _ _ _ _ _ => .eng .x
  | .xVcvt _ _ _ _ _ _ => .eng .x
  | .xVqnt _ _ _ _ _ => .eng .x
  | .xVred _ _ _ _ _ => .eng .x
  | .xVrecip _ _ _ _ => .eng .x
  | .xVrsqrt _ _ _ _ => .eng .x
  | .xVexp2 _ _ _ _ => .eng .x
  | .xVlog2 _ _ _ _ => .eng .x
  | .xVpop _ _ _ _ => .eng .x
  | .xVpush _ _ _ => .eng .x
  | .xVlds _ _ _ _ => .eng .x
  | .xVsts _ _ _ _ => .eng .x
  | .xGload _ _ _ => .eng .x
  | .xGstore _ _ => .eng .x
  | .xGstep _ _ _ => .eng .x
  | .xGmask _ _ _ _ => .eng .x
  | .xGcount _ _ => .eng .x
  | .xGforce _ _ => .eng .x
  | .xSend _ _ _ => .eng .x
  | .xSendnb _ _ _ _ => .eng .x
  | .xHset _ _ _ _ => .eng .x
  | .xHmask _ _ => .eng .x
  | .xHunmask _ _ => .eng .x
  | .xAbind _ _ _ _ => .eng .x
  | .xTspawn _ _ _ => .eng .x
  | .xTqenq _ _ _ _ => .eng .x
  | .xTqdeq _ _ _ _ => .eng .x
  | .xDcinit _ _ _ _ => .eng .x
  | .xDcdec _ _ _ => .eng .x
  | .xDcpark _ _ _ _ => .eng .x
  | .xWlpush _ _ _ => .eng .x
  | .xWlpop _ _ _ => .eng .x
  | .xWlbound _ _ _ => .eng .x
  | .xWlterm _ _ => .eng .x
  | .xFnew _ _ _ => .eng .x
  | .xFres _ _ _ _ => .eng .x
  | .xFwait _ _ _ _ => .eng .x
  | .xFpoll _ _ _ => .eng .x
  | .xFfree _ _ _ => .eng .x
  | .xFtmo _ _ _ _ => .eng .x
  | .xFbind _ _ _ _ => .eng .x
  | .xBarr _ _ _ => .eng .x
  | .xBexp _ _ _ _ => .eng .x
  | .xBwait _ _ _ _ => .eng .x
  | .xMclaim _ _ _ => .eng .x
  | .evClaimGrant _ => .device
  | .xMfree _ => .eng .x
  | .xSret _ _ _ _ => .eng .x
  | .xWdset _ _ _ => .eng .x
  | .xSysr _ _ _ => .eng .x
  | .xSysw _ _ _ _ => .eng .x
  | .xTlbinvAll _ => .eng .x
  | .xTlbinvVa _ _ => .eng .x
  | .xTlbinvPart _ => .eng .x
  | .xCinvL1 _ => .eng .x
  | .xCinvSb _ => .eng .x
  | .xCinvIs _ => .eng .x
  | .xCtxsave _ _ _ _ => .eng .x
  | .xCtxload _ _ _ _ => .eng .x
  | .aNop _ => .eng .a
  | .aDone _ => .eng .a
  | .aAdd _ _ _ _ => .eng .a
  | .aSub _ _ _ _ => .eng .a
  | .aAnd _ _ _ _ => .eng .a
  | .aShl _ _ _ _ => .eng .a
  | .aShr _ _ _ _ => .eng .a
  | .aMul _ _ _ _ => .eng .a
  | .aMov _ _ _ => .eng .a
  | .aAddi _ _ _ _ => .eng .a
  | .aLim _ _ _ => .eng .a
  | .aCmp _ _ _ _ _ => .eng .a
  | .aBr _ _ _ => .eng .a
  | .aJmp _ _ => .eng .a
  | .aLoop _ _ _ _ => .eng .a
  | .aTkput _ _ _ => .eng .a
  | .aTkget _ _ _ => .eng .a
  | .aSopen _ _ _ _ => .eng .a
  | .aSclose _ _ => .eng .a
  | .aLd _ _ _ _ => .eng .a
  | .aSt _ _ _ _ => .eng .a
  | .aGath _ _ _ _ _ => .eng .a
  | .aScat _ _ _ _ _ => .eng .a
  | .aPref _ _ _ _ => .eng .a
  | .aFence _ _ _ => .eng .a
  | .aLdb _ _ _ _ => .eng .a
  | .aCpy _ _ _ => .eng .a
  | .mNop => .eng .m
  | .mDone => .eng .m
  | .mSet _ _ _ => .eng .m
  | .mGo => .eng .m
  | .mWait _ _ => .eng .m
  | .mCimld => .eng .m
  | .mMma => .eng .m
  | .mAclr => .eng .m
  | .mCvt => .eng .m
  | .mSlice => .eng .m
  | .mBcast => .eng .m
  | .mRed => .eng .m
  | .mBr _ _ _ => .eng .m
  | .mLoop _ _ _ => .eng .m
  | .mTkput _ _ => .eng .m
  | .mTkget _ _ => .eng .m
  | .mAdd _ _ _ => .eng .m
  | .mSub _ _ _ => .eng .m
  | .mMov _ _ => .eng .m
  | .mAddi _ _ _ => .eng .m
  | .mLim _ _ => .eng .m
  | .enxSend _ _ => .hart
  | .enxFres _ _ _ _ => .hart
  | .enxFpoll _ _ => .hart
  | .enxFwait _ _ _ => .hart
  | .enxTlread _ _ => .hart
  | .enxCapset _ _ _ _ => .hart
  | .enxCapclr _ => .hart
  | .enxCapget _ _ => .hart
  | .evHartWaiterRelease _ => .device
  | .evFwaitInterruptWithdraw _ => .device
  | .evHartMemoryAccess _ _ => .device
  | .evLineFetch _ _ _ => .device
  | .evJoinRendezvous _ _ => .device
  | .evParcelArrive _ => .device
  | .evVerdictReturn _ => .device
  | .evDeferredParcelRetry _ _ => .device
  | .evChannelSelect _ => .device
  | .evInvocationEnd _ _ => .device
  | .evWatchdogExpiry _ _ => .device
  | .evPendingTrapRetry _ _ => .device
  | .evTaskParcelArrive _ => .device
  | .evTaskQueueToMailbox _ => .device
  | .evTaskBalanceInterval _ => .device
  | .evBalanceTransferArrive _ => .device
  | .evWorklistBalanceInterval _ => .device
  | .evWorklistReduction _ => .device
  | .evWakeParcel _ => .device
  | .evSpillReturn _ => .device
  | .evFutureDeadline _ _ => .device
  | .evTokenInjection _ _ => .device
  | .evLaunchSubmit _ _ _ => .device
  | .evLaunchProceed _ => .device
  | .evCopyRunArrive _ _ _ => .device
  | .evSlabLanding _ => .device
  | .evFollowOnAccept _ _ => .device
  | .evFollowOnStart _ => .device
  | .evCopyComplete _ => .device
  | .evStreamGroupLand _ _ _ => .device
  | .evStoreGroupWritten _ _ _ => .device
  | .evCopyLandingGroupIssue _ _ _ => .device
  | .evStoreBufferDrain _ _ _ => .device
  | .evL1LeaseExpiry _ _ => .device
  | .evMatrixFlipStart _ => .device
  | .evMatrixCommandComplete _ _ => .device
  | .evBroadcastRowArrive _ => .device
  | .evPartialRowAdd _ => .device
  | .evStagerCurRead _ => .device
  | .evStagerTileReady _ _ => .device
  | .evTableWalk _ _ _ _ => .device
  | .evHeldFaultReraise _ => .device
  | .evFbhdrWrite _ _ => .device
  | .evKmodeTrap _ => .device
  | .evServiceThreshold _ => .device
  | .evServiceGrace _ => .device
  | .evServiceSpillArea _ => .device
  | .evServiceSchedule _ => .device
  | .evServiceLaunch _ => .device
  | .evServiceYield _ => .device
  | .evGatewayForward _ => .device
  | .evFilterBucketRefill _ => .device
  | .evSliceEnd _ => .device
  | .evSliceRestore _ => .device
  | .evGraceExpiry _ _ => .device
  | .evCellAssign _ _ _ _ => .device
  | .evPartitionCreate _ _ => .device
  | .evPartitionDestroy _ => .device
  | .evScrub _ _ _ => .device
  | .evBankScrub _ => .device
  | .evSegmentUpdate _ _ _ => .device
  | .evReadShared _ _ => .device
  | .evReadOwn _ _ _ => .device
  | .evUpgrade _ _ => .device
  | .evWriteback _ _ => .device
  | .evCleanEvict _ _ => .device
  | .evStrongStoreOrAtomic _ _ _ => .device
  | .evDirectoryEccError _ => .device
  | .evTagParityError _ => .device
  | .evUncorrectableError _ => .device
  | .evCorrectedError => .device
  | .evModuleReset _ _ _ _ _ => .device
  | .evLdBind _ _ _ => .device
  | .evNotifyWrite _ _ _ => .device
  | .evRequestLaunch _ _ _ => .device
  | .evRequestParcel _ _ _ => .device
  | .evRequestResolve _ _ _ => .device
  | .evRequestPoll _ _ _ => .device
  | .evRequestResync _ _ _ => .device
  | .evMsixUnmask _ _ => .device
  | .evPasidRevoke _ _ => .device
  | .evBar2Access _ _ _ => .device
  | .evPlimWrite _ => .device
  | .evClockStep => .device
  | .evPgateWrite _ _ => .device
  | .evBankWake _ _ => .device
  | .evUeDescriptorTake _ => .device
  | .evUeTaggedReply _ _ _ => .device
  | .evUeMessageReceive _ _ _ => .device
  | .evRegisterWrite _ _ => .device
  | .evPrefetcherAccess _ _ => .device
  | .evMessageFilterWrite _ _ => .device
  | .evCoreAssign _ _ => .device
  | .evVfAssign _ _ => .device
  | .evConfigurationRequest _ _ => .device
  | .evMalformedRequest _ _ _ => .device

/-- The words of an instruction, the first lane first (R175 to R182, R302); a step of the device has none. -/
def encode : Instr → List Nat
  | .xNop g => [0x0 + g.toNat]
  | .xDone g => [0x10 + g.toNat]
  | .xSys d a g => [0x20 + d.toNat * 2097152 + a.toNat * 65536 + g.toNat]
  | .xEbrk g => [0x30 + g.toNat]
  | .xAdd d a b g => [0x4000000 + d.toNat * 2097152 + a.toNat * 65536 + b.toNat * 2048 + g.toNat]
  | .xSub d a b g => [0x4000010 + d.toNat * 2097152 + a.toNat * 65536 + b.toNat * 2048 + g.toNat]
  | .xAnd d a b g => [0x4000020 + d.toNat * 2097152 + a.toNat * 65536 + b.toNat * 2048 + g.toNat]
  | .xOr d a b g => [0x4000030 + d.toNat * 2097152 + a.toNat * 65536 + b.toNat * 2048 + g.toNat]
  | .xXor d a b g => [0x4000040 + d.toNat * 2097152 + a.toNat * 65536 + b.toNat * 2048 + g.toNat]
  | .xAndn d a b g => [0x4000050 + d.toNat * 2097152 + a.toNat * 65536 + b.toNat * 2048 + g.toNat]
  | .xShl d a b g => [0x4000060 + d.toNat * 2097152 + a.toNat * 65536 + b.toNat * 2048 + g.toNat]
  | .xShr d a b g => [0x4000070 + d.toNat * 2097152 + a.toNat * 65536 + b.toNat * 2048 + g.toNat]
  | .xSra d a b g => [0x4000080 + d.toNat * 2097152 + a.toNat * 65536 + b.toNat * 2048 + g.toNat]
  | .xMin d a b g => [0x4000090 + d.toNat * 2097152 + a.toNat * 65536 + b.toNat * 2048 + g.toNat]
  | .xMax d a b g => [0x40000a0 + d.toNat * 2097152 + a.toNat * 65536 + b.toNat * 2048 + g.toNat]
  | .xMinu d a b g => [0x40000b0 + d.toNat * 2097152 + a.toNat * 65536 + b.toNat * 2048 + g.toNat]
  | .xMaxu d a b g => [0x40000c0 + d.toNat * 2097152 + a.toNat * 65536 + b.toNat * 2048 + g.toNat]
  | .xClz d a g => [0x40000d0 + d.toNat * 2097152 + a.toNat * 65536 + g.toNat]
  | .xCtz d a g => [0x40000e0 + d.toNat * 2097152 + a.toNat * 65536 + g.toNat]
  | .xPopc d a g => [0x40000f0 + d.toNat * 2097152 + a.toNat * 65536 + g.toNat]
  | .xMul d a b g => [0x8000000 + d.toNat * 2097152 + a.toNat * 65536 + b.toNat * 2048 + g.toNat]
  | .xMulh d a b g => [0x8000010 + d.toNat * 2097152 + a.toNat * 65536 + b.toNat * 2048 + g.toNat]
  | .xMulhu d a b g => [0x8000020 + d.toNat * 2097152 + a.toNat * 65536 + b.toNat * 2048 + g.toNat]
  | .xDiv d a b g => [0x8000030 + d.toNat * 2097152 + a.toNat * 65536 + b.toNat * 2048 + g.toNat]
  | .xDivu d a b g => [0x8000040 + d.toNat * 2097152 + a.toNat * 65536 + b.toNat * 2048 + g.toNat]
  | .xRem d a b g => [0x8000050 + d.toNat * 2097152 + a.toNat * 65536 + b.toNat * 2048 + g.toNat]
  | .xRemu d a b g => [0x8000060 + d.toNat * 2097152 + a.toNat * 65536 + b.toNat * 2048 + g.toNat]
  | .xAddi d a imm g => [0xc000000 + d.toNat * 2097152 + a.toNat * 65536 + imm.toNat * 16 + g.toNat]
  | .xAndi d a imm g => [0x10000000 + d.toNat * 2097152 + a.toNat * 65536 + imm.toNat * 16 + g.toNat]
  | .xOri d a imm g => [0x14000000 + d.toNat * 2097152 + a.toNat * 65536 + imm.toNat * 16 + g.toNat]
  | .xXori d a imm g => [0x18000000 + d.toNat * 2097152 + a.toNat * 65536 + imm.toNat * 16 + g.toNat]
  | .xShli d a sh g => [0x1c000000 + d.toNat * 2097152 + a.toNat * 65536 + sh.toNat * 16 + g.toNat]
  | .xShri d a sh g => [0x1c004000 + d.toNat * 2097152 + a.toNat * 65536 + sh.toNat * 16 + g.toNat]
  | .xSrai d a sh g => [0x1c008000 + d.toNat * 2097152 + a.toNat * 65536 + sh.toNat * 16 + g.toNat]
  | .xCmp cond pd a b g => [0x20000000 + cond.code * 16 + pd.toNat * 2097152 + a.toNat * 65536 + b.toNat * 2048 + g.toNat]
  | .xCmpi cond pd a imm g => [0x24000000 + cond.code * 8192 + pd.toNat * 2097152 + a.toNat * 65536 + imm.toNat * 16 + g.toNat]
  | .xSel d k a b g => [0x28000000 + d.toNat * 2097152 + k.toNat * 16 + a.toNat * 65536 + b.toNat * 2048 + g.toNat]
  | .xLim d imm g => [0x2c000000 + d.toNat * 2097152 + g.toNat, imm.toNat]
  | .xLimh d a imm g => [0x2c000100 + d.toNat * 2097152 + a.toNat * 65536 + g.toNat, imm.toNat]
  | .xPand pd pa pb => [0x30000000 + pd.toNat * 524288 + pa.toNat * 4096 + pb.toNat * 32]
  | .xPor pd pa pb => [0x30000002 + pd.toNat * 524288 + pa.toNat * 4096 + pb.toNat * 32]
  | .xPxor pd pa pb => [0x30000004 + pd.toNat * 524288 + pa.toNat * 4096 + pb.toNat * 32]
  | .xPandn pd pa pb => [0x30000006 + pd.toNat * 524288 + pa.toNat * 4096 + pb.toNat * 32]
  | .xPmov pd pa => [0x30000008 + pd.toNat * 524288 + pa.toNat * 4096]
  | .xPany pd pa pb => [0x3000000a + pd.toNat * 524288 + pa.toNat * 4096 + pb.toNat * 32]
  | .xPall pd pa pb => [0x3000000c + pd.toNat * 524288 + pa.toNat * 4096 + pb.toNat * 32]
  | .xPseti pd imm => [0x34000000 + pd.toNat * 524288 + imm.toNat]
  | .xPfrom pd ga => [0x38000000 + pd.toNat * 524288 + ga.toNat * 16384]
  | .xPto pd ga => [0x38000800 + pd.toNat * 524288 + ga.toNat * 16384]
  | .xPcnt pd ga => [0x38001000 + pd.toNat * 524288 + ga.toNat * 16384]
  | .xCsrr d csr g => [0x3c000000 + d.toNat * 2097152 + csr.code * 16 + g.toNat]
  | .xCsrw d csr a g => [0x3c004000 + d.toNat * 2097152 + csr.code * 16 + a.toNat * 65536 + g.toNat]
  | .xCsrs d csr a g => [0x3c008000 + d.toNat * 2097152 + csr.code * 16 + a.toNat * 65536 + g.toNat]
  | .xBr pt tm off => [0x40000000 + pt.toNat * 524288 + tm.code * 131072 + off.toNat]
  | .xJmp imm g => [0x44000000 + g.toNat, imm.toNat]
  | .xCall imm g => [0x48000000 + g.toNat, imm.toNat]
  | .xJmpr a g => [0x4c000000 + a.toNat * 65536 + g.toNat]
  | .xRet g => [0x4c000010 + g.toNat]
  | .xLoop k a imm g => [0x50000000 + k.toNat * 2097152 + a.toNat * 65536 + g.toNat, imm.toNat]
  | .xTkput f a g => [0x54000000 + f.code * 2048 + a.toNat * 65536 + g.toNat]
  | .xTkget d f g => [0x54000010 + d.toNat * 2097152 + f.code * 2048 + g.toNat]
  | .xLd d a sz sx ord sc imm => [0x60000000 + d.toNat * 2097152 + a.toNat * 65536 + sz.toNat * 16384 + sx.toNat * 8192 + ord.code * 1024 + sc.code * 128 + imm.toNat]
  | .xSt d a sz ord sc imm => [0x64000000 + d.toNat * 2097152 + a.toNat * 65536 + sz.toNat * 16384 + ord.code * 1024 + sc.code * 128 + imm.toNat]
  | .xAmo d a b dbl ord sc op => [0x68000000 + d.toNat * 2097152 + a.toNat * 65536 + b.toNat * 2048 + dbl.toNat * 1024 + ord.code * 128 + sc.code * 16 + op.code]
  | .xCas d a b dbl ord sc => [0x6c000000 + d.toNat * 2097152 + a.toNat * 65536 + b.toNat * 2048 + dbl.toNat * 1024 + ord.code * 128 + sc.code * 16]
  | .xFence kind sc g => [0x70000000 + kind.code * 8388608 + sc.code * 1048576 + g.toNat]
  | .xLds d a imm g => [0x74000000 + d.toNat * 2097152 + a.toNat * 65536 + imm.toNat * 16 + g.toNat]
  | .xSts d a imm g => [0x78000000 + d.toNat * 2097152 + a.toNat * 65536 + imm.toNat * 16 + g.toNat]
  | .xCpy d a g => [0x7c000000 + d.toNat * 2097152 + a.toNat * 65536 + g.toNat]
  | .xTlwait k a g => [0x7c000010 + k.toNat * 2048 + a.toNat * 65536 + g.toNat]
  | .xTlread d k g => [0x7c000020 + d.toNat * 2097152 + k.toNat * 2048 + g.toNat]
  | .xVadd ty d a b g => [0x80000000 + ty.code * 128 + d.toNat * 2097152 + a.toNat * 65536 + b.toNat * 2048 + g.toNat]
  | .xVsub ty d a b g => [0x80000010 + ty.code * 128 + d.toNat * 2097152 + a.toNat * 65536 + b.toNat * 2048 + g.toNat]
  | .xVmin ty d a b g => [0x80000020 + ty.code * 128 + d.toNat * 2097152 + a.toNat * 65536 + b.toNat * 2048 + g.toNat]
  | .xVmax ty d a b g => [0x80000030 + ty.code * 128 + d.toNat * 2097152 + a.toNat * 65536 + b.toNat * 2048 + g.toNat]
  | .xVabs ty d a g => [0x80000040 + ty.code * 128 + d.toNat * 2097152 + a.toNat * 65536 + g.toNat]
  | .xVneg ty d a g => [0x80000050 + ty.code * 128 + d.toNat * 2097152 + a.toNat * 65536 + g.toNat]
  | .xVmul ty d a b g => [0x80000060 + ty.code * 128 + d.toNat * 2097152 + a.toNat * 65536 + b.toNat * 2048 + g.toNat]
  | .xVmadd ty d a b g => [0x84000000 + ty.code * 128 + d.toNat * 2097152 + a.toNat * 65536 + b.toNat * 2048 + g.toNat]
  | .xVmsub ty d a b g => [0x84000010 + ty.code * 128 + d.toNat * 2097152 + a.toNat * 65536 + b.toNat * 2048 + g.toNat]
  | .xVnmadd ty d a b g => [0x84000020 + ty.code * 128 + d.toNat * 2097152 + a.toNat * 65536 + b.toNat * 2048 + g.toNat]
  | .xVand ty d a b g => [0x88000000 + ty.code * 128 + d.toNat * 2097152 + a.toNat * 65536 + b.toNat * 2048 + g.toNat]
  | .xVor ty d a b g => [0x88000010 + ty.code * 128 + d.toNat * 2097152 + a.toNat * 65536 + b.toNat * 2048 + g.toNat]
  | .xVxor ty d a b g => [0x88000020 + ty.code * 128 + d.toNat * 2097152 + a.toNat * 65536 + b.toNat * 2048 + g.toNat]
  | .xVshl ty d a b g => [0x88000030 + ty.code * 128 + d.toNat * 2097152 + a.toNat * 65536 + b.toNat * 2048 + g.toNat]
  | .xVshr ty d a b g => [0x88000040 + ty.code * 128 + d.toNat * 2097152 + a.toNat * 65536 + b.toNat * 2048 + g.toNat]
  | .xVsra ty d a b g => [0x88000050 + ty.code * 128 + d.toNat * 2097152 + a.toNat * 65536 + b.toNat * 2048 + g.toNat]
  | .xVcmp cond ty pd a b g => [0x8c000000 + cond.code * 16 + ty.code * 128 + pd.toNat * 2097152 + a.toNat * 65536 + b.toNat * 2048 + g.toNat]
  | .xVsel ty d k a b => [0x90000000 + ty.code * 128 + d.toNat * 2097152 + k.toNat + a.toNat * 65536 + b.toNat * 2048]
  | .xVbcst ty d a g => [0x94000000 + ty.code * 128 + d.toNat * 2097152 + a.toNat * 65536 + g.toNat]
  | .xVext ty d a b g => [0x94000010 + ty.code * 128 + d.toNat * 2097152 + a.toNat * 65536 + b.toNat * 2048 + g.toNat]
  | .xVins ty d a b g => [0x94000020 + ty.code * 128 + d.toNat * 2097152 + a.toNat * 65536 + b.toNat * 2048 + g.toNat]
  | .xVperm ty d a b g => [0x94000030 + ty.code * 128 + d.toNat * 2097152 + a.toNat * 65536 + b.toNat * 2048 + g.toNat]
  | .xVcvt src dst rnd d a g => [0x98000000 + src.code * 128 + dst.code * 2048 + rnd.code * 16 + d.toNat * 2097152 + a.toNat * 65536 + g.toNat]
  | .xVqnt rnd d a b g => [0x9c000600 + rnd.code * 16 + d.toNat * 2097152 + a.toNat * 65536 + b.toNat * 2048 + g.toNat]
  | .xVred op ty d a g => [0xa0000000 + op.code * 16 + ty.code * 128 + d.toNat * 2097152 + a.toNat * 65536 + g.toNat]
  | .xVrecip ty d a g => [0xa4000000 + ty.code * 128 + d.toNat * 2097152 + a.toNat * 65536 + g.toNat]
  | .xVrsqrt ty d a g => [0xa4000010 + ty.code * 128 + d.toNat * 2097152 + a.toNat * 65536 + g.toNat]
  | .xVexp2 ty d a g => [0xa4000020 + ty.code * 128 + d.toNat * 2097152 + a.toNat * 65536 + g.toNat]
  | .xVlog2 ty d a g => [0xa4000030 + ty.code * 128 + d.toNat * 2097152 + a.toNat * 65536 + g.toNat]
  | .xVpop d st a g => [0xa8000000 + d.toNat * 2097152 + st.toNat * 2048 + a.toNat * 65536 + g.toNat]
  | .xVpush st a g => [0xa8000010 + st.toNat * 2048 + a.toNat * 65536 + g.toNat]
  | .xVlds d a imm g => [0xac000000 + d.toNat * 2097152 + a.toNat * 65536 + imm.toNat * 16 + g.toNat]
  | .xVsts d a imm g => [0xb0000000 + d.toNat * 2097152 + a.toNat * 65536 + imm.toNat * 16 + g.toNat]
  | .xGload d a g => [0xb4000000 + d.toNat * 2097152 + a.toNat * 65536 + g.toNat]
  | .xGstore a g => [0xb4000010 + a.toNat * 65536 + g.toNat]
  | .xGstep d a g => [0xb4000020 + d.toNat * 2097152 + a.toNat * 65536 + g.toNat]
  | .xGmask d a b g => [0xb4000030 + d.toNat * 2097152 + a.toNat * 65536 + b.toNat * 2048 + g.toNat]
  | .xGcount d g => [0xb4000040 + d.toNat * 2097152 + g.toNat]
  | .xGforce d g => [0xb4000050 + d.toNat * 2097152 + g.toNat]
  | .xSend v a g => [0xc0000000 + v.toNat * 2097152 + a.toNat * 65536 + g.toNat]
  | .xSendnb b v a g => [0xc0000010 + b.toNat * 2048 + v.toNat * 2097152 + a.toNat * 65536 + g.toNat]
  | .xHset d a b g => [0xc4000000 + d.toNat * 2097152 + a.toNat * 65536 + b.toNat * 2048 + g.toNat]
  | .xHmask a g => [0xc4000010 + a.toNat * 65536 + g.toNat]
  | .xHunmask a g => [0xc4000020 + a.toNat * 65536 + g.toNat]
  | .xAbind d a b g => [0xc4000030 + d.toNat * 2097152 + a.toNat * 65536 + b.toNat * 2048 + g.toNat]
  | .xTspawn v a g => [0xc8000000 + v.toNat * 2097152 + a.toNat * 65536 + g.toNat]
  | .xTqenq b v a g => [0xc8000010 + b.toNat * 2048 + v.toNat * 2097152 + a.toNat * 65536 + g.toNat]
  | .xTqdeq b v a g => [0xc8000020 + b.toNat * 2048 + v.toNat * 2097152 + a.toNat * 65536 + g.toNat]
  | .xDcinit d a b g => [0xcc000000 + d.toNat * 2097152 + a.toNat * 65536 + b.toNat * 2048 + g.toNat]
  | .xDcdec d a g => [0xcc000010 + d.toNat * 2097152 + a.toNat * 65536 + g.toNat]
  | .xDcpark b v a g => [0xcc000020 + b.toNat * 2048 + v.toNat * 2097152 + a.toNat * 65536 + g.toNat]
  | .xWlpush a b g => [0xd0000000 + a.toNat * 65536 + b.toNat * 2048 + g.toNat]
  | .xWlpop d b g => [0xd0000010 + d.toNat * 2097152 + b.toNat * 2048 + g.toNat]
  | .xWlbound a b g => [0xd0000020 + a.toNat * 65536 + b.toNat * 2048 + g.toNat]
  | .xWlterm a g => [0xd0000030 + a.toNat * 65536 + g.toNat]
  | .xFnew d a g => [0xd4000000 + d.toNat * 2097152 + a.toNat * 65536 + g.toNat]
  | .xFres d a b g => [0xd4000010 + d.toNat * 2097152 + a.toNat * 65536 + b.toNat * 2048 + g.toNat]
  | .xFwait d a b g => [0xd4000020 + d.toNat * 2097152 + a.toNat * 65536 + b.toNat * 2048 + g.toNat]
  | .xFpoll d a g => [0xd4000030 + d.toNat * 2097152 + a.toNat * 65536 + g.toNat]
  | .xFfree d a g => [0xd4000040 + d.toNat * 2097152 + a.toNat * 65536 + g.toNat]
  | .xFtmo d a b g => [0xd4000050 + d.toNat * 2097152 + a.toNat * 65536 + b.toNat * 2048 + g.toNat]
  | .xFbind d a b g => [0xd4000060 + d.toNat * 2097152 + a.toNat * 65536 + b.toNat * 2048 + g.toNat]
  | .xBarr d a g => [0xd8000000 + d.toNat * 2097152 + a.toNat * 65536 + g.toNat]
  | .xBexp d a b g => [0xd8000010 + d.toNat * 2097152 + a.toNat * 65536 + b.toNat * 2048 + g.toNat]
  | .xBwait d a b g => [0xd8000020 + d.toNat * 2097152 + a.toNat * 65536 + b.toNat * 2048 + g.toNat]
  | .xMclaim d a g => [0xdc000000 + d.toNat * 2097152 + a.toNat * 65536 + g.toNat]
  | .evClaimGrant _ => []
  | .xMfree g => [0xdc000010 + g.toNat]
  | .xSret d a b g => [0xe0000000 + d.toNat * 2097152 + a.toNat * 65536 + b.toNat * 2048 + g.toNat]
  | .xWdset d a g => [0xe0000010 + d.toNat * 2097152 + a.toNat * 65536 + g.toNat]
  | .xSysr d sr g => [0xe4000000 + d.toNat * 2097152 + sr.code * 16 + g.toNat]
  | .xSysw d sr a g => [0xe4008000 + d.toNat * 2097152 + sr.code * 16 + a.toNat * 65536 + g.toNat]
  | .xTlbinvAll g => [0xe8000000 + g.toNat]
  | .xTlbinvVa a g => [0xe8000010 + a.toNat * 65536 + g.toNat]
  | .xTlbinvPart g => [0xe8000020 + g.toNat]
  | .xCinvL1 g => [0xec000000 + g.toNat]
  | .xCinvSb g => [0xec000010 + g.toNat]
  | .xCinvIs g => [0xec000020 + g.toNat]
  | .xCtxsave d a b g => [0xf0000000 + d.toNat * 2097152 + a.toNat * 65536 + b.toNat * 2048 + g.toNat]
  | .xCtxload d a b g => [0xf0000010 + d.toNat * 2097152 + a.toNat * 65536 + b.toNat * 2048 + g.toNat]
  | .aNop q => [0x0 + q.toNat]
  | .aDone q => [0x10 + q.toNat]
  | .aAdd d a b q => [0x4000000 + d.toNat * 2097152 + a.toNat * 65536 + b.toNat * 2048 + q.toNat]
  | .aSub d a b q => [0x4000010 + d.toNat * 2097152 + a.toNat * 65536 + b.toNat * 2048 + q.toNat]
  | .aAnd d a b q => [0x4000020 + d.toNat * 2097152 + a.toNat * 65536 + b.toNat * 2048 + q.toNat]
  | .aShl d a b q => [0x4000030 + d.toNat * 2097152 + a.toNat * 65536 + b.toNat * 2048 + q.toNat]
  | .aShr d a b q => [0x4000040 + d.toNat * 2097152 + a.toNat * 65536 + b.toNat * 2048 + q.toNat]
  | .aMul d a b q => [0x4000050 + d.toNat * 2097152 + a.toNat * 65536 + b.toNat * 2048 + q.toNat]
  | .aMov d a q => [0x4000060 + d.toNat * 2097152 + a.toNat * 65536 + q.toNat]
  | .aAddi d a imm q => [0x8000000 + d.toNat * 2097152 + a.toNat * 65536 + imm.toNat * 16 + q.toNat]
  | .aLim d imm q => [0xc000000 + d.toNat * 2097152 + q.toNat, imm.toNat]
  | .aCmp cond qd a b q => [0x10000000 + cond.code * 16 + qd.toNat * 2097152 + a.toNat * 65536 + b.toNat * 2048 + q.toNat]
  | .aBr qt tm off => [0x20000000 + qt.toNat * 16777216 + tm.toNat * 8388608 + off.toNat]
  | .aJmp imm q => [0x24000000 + q.toNat, imm.toNat]
  | .aLoop k a imm q => [0x28000000 + k.toNat * 2097152 + a.toNat * 65536 + q.toNat, imm.toNat]
  | .aTkput f a q => [0x2c000000 + f.code * 2048 + a.toNat * 65536 + q.toNat]
  | .aTkget d f q => [0x2c000010 + d.toNat * 2097152 + f.code * 2048 + q.toNat]
  | .aSopen st b imm q => [0x40000000 + st.toNat * 4194304 + b.toNat * 262144 + imm.toNat * 16 + q.toNat]
  | .aSclose st q => [0x44000000 + st.toNat * 4194304 + q.toNat]
  | .aLd st b n q => [0x48000000 + st.toNat * 4194304 + b.toNat * 262144 + n.toNat * 16 + q.toNat]
  | .aSt st b n q => [0x4c000000 + st.toNat * 4194304 + b.toNat * 262144 + n.toNat * 16 + q.toNat]
  | .aGath st b si n q => [0x50000000 + st.toNat * 4194304 + b.toNat * 262144 + si.toNat * 16 + n.toNat * 256 + q.toNat]
  | .aScat st b si n q => [0x54000000 + st.toNat * 4194304 + b.toNat * 262144 + si.toNat * 16 + n.toNat * 256 + q.toNat]
  | .aPref st b n q => [0x58000000 + st.toNat * 4194304 + b.toNat * 262144 + n.toNat * 16 + q.toNat]
  | .aFence kind sc q => [0x5c000000 + kind.code * 8388608 + sc.code * 1048576 + q.toNat]
  | .aLdb d a imm q => [0x60000000 + d.toNat * 2097152 + a.toNat * 65536 + imm.toNat * 16 + q.toNat]
  | .aCpy d a q => [0x64000000 + d.toNat * 2097152 + a.toNat * 65536 + q.toNat]
  | .mNop => [0x0]
  | .mDone => [0x10]
  | .mSet fld c imm => [0x4000000 + fld.code * 1048576 + c.toNat * 32768 + imm.toNat * 16]
  | .mGo => [0x8000000]
  | .mWait d a => [0xc000000 + d.toNat * 2097152 + a.toNat * 65536]
  | .mCimld => [0x10000000]
  | .mMma => [0x14000000]
  | .mAclr => [0x18000000]
  | .mCvt => [0x1c000000]
  | .mSlice => [0x20000000]
  | .mBcast => [0x24000000]
  | .mRed => [0x28000000]
  | .mBr c tm off => [0x2c000000 + c.toNat * 4194304 + tm.toNat * 2097152 + off.toNat]
  | .mLoop k a imm => [0x30000000 + k.toNat * 2097152 + a.toNat * 65536, imm.toNat]
  | .mTkput f a => [0x34000000 + f.code * 2048 + a.toNat * 65536]
  | .mTkget d f => [0x34000010 + d.toNat * 2097152 + f.code * 2048]
  | .mAdd d a b => [0x38000000 + d.toNat * 2097152 + a.toNat * 65536 + b.toNat * 2048]
  | .mSub d a b => [0x38000010 + d.toNat * 2097152 + a.toNat * 65536 + b.toNat * 2048]
  | .mMov d a => [0x38000020 + d.toNat * 2097152 + a.toNat * 65536]
  | .mAddi d a imm => [0x3c000000 + d.toNat * 2097152 + a.toNat * 65536 + imm.toNat * 16]
  | .mLim d imm => [0x40000000 + d.toNat * 2097152, imm.toNat]
  | .enxSend rd rs1 => [0xb + rd.toNat * 128 + rs1.toNat * 32768]
  | .enxFres rd rs1 rs2 rs3 => [0x100b + rd.toNat * 128 + rs1.toNat * 32768 + rs2.toNat * 1048576 + rs3.toNat * 134217728]
  | .enxFpoll rd rs1 => [0x200b + rd.toNat * 128 + rs1.toNat * 32768]
  | .enxFwait rd rs1 rs2 => [0x300b + rd.toNat * 128 + rs1.toNat * 32768 + rs2.toNat * 1048576]
  | .enxTlread rd rs1 => [0x400b + rd.toNat * 128 + rs1.toNat * 32768]
  | .enxCapset idx rs1 rs2 rs3 => [0x2b + idx.toNat * 128 + rs1.toNat * 32768 + rs2.toNat * 1048576 + rs3.toNat * 134217728]
  | .enxCapclr idx => [0x102b + idx.toNat * 128]
  | .enxCapget rd rs1 => [0x202b + rd.toNat * 128 + rs1.toNat * 32768]
  | .evHartWaiterRelease _ => []
  | .evFwaitInterruptWithdraw _ => []
  | .evHartMemoryAccess _ _ => []
  | .evLineFetch _ _ _ => []
  | .evJoinRendezvous _ _ => []
  | .evParcelArrive _ => []
  | .evVerdictReturn _ => []
  | .evDeferredParcelRetry _ _ => []
  | .evChannelSelect _ => []
  | .evInvocationEnd _ _ => []
  | .evWatchdogExpiry _ _ => []
  | .evPendingTrapRetry _ _ => []
  | .evTaskParcelArrive _ => []
  | .evTaskQueueToMailbox _ => []
  | .evTaskBalanceInterval _ => []
  | .evBalanceTransferArrive _ => []
  | .evWorklistBalanceInterval _ => []
  | .evWorklistReduction _ => []
  | .evWakeParcel _ => []
  | .evSpillReturn _ => []
  | .evFutureDeadline _ _ => []
  | .evTokenInjection _ _ => []
  | .evLaunchSubmit _ _ _ => []
  | .evLaunchProceed _ => []
  | .evCopyRunArrive _ _ _ => []
  | .evSlabLanding _ => []
  | .evFollowOnAccept _ _ => []
  | .evFollowOnStart _ => []
  | .evCopyComplete _ => []
  | .evStreamGroupLand _ _ _ => []
  | .evStoreGroupWritten _ _ _ => []
  | .evCopyLandingGroupIssue _ _ _ => []
  | .evStoreBufferDrain _ _ _ => []
  | .evL1LeaseExpiry _ _ => []
  | .evMatrixFlipStart _ => []
  | .evMatrixCommandComplete _ _ => []
  | .evBroadcastRowArrive _ => []
  | .evPartialRowAdd _ => []
  | .evStagerCurRead _ => []
  | .evStagerTileReady _ _ => []
  | .evTableWalk _ _ _ _ => []
  | .evHeldFaultReraise _ => []
  | .evFbhdrWrite _ _ => []
  | .evKmodeTrap _ => []
  | .evServiceThreshold _ => []
  | .evServiceGrace _ => []
  | .evServiceSpillArea _ => []
  | .evServiceSchedule _ => []
  | .evServiceLaunch _ => []
  | .evServiceYield _ => []
  | .evGatewayForward _ => []
  | .evFilterBucketRefill _ => []
  | .evSliceEnd _ => []
  | .evSliceRestore _ => []
  | .evGraceExpiry _ _ => []
  | .evCellAssign _ _ _ _ => []
  | .evPartitionCreate _ _ => []
  | .evPartitionDestroy _ => []
  | .evScrub _ _ _ => []
  | .evBankScrub _ => []
  | .evSegmentUpdate _ _ _ => []
  | .evReadShared _ _ => []
  | .evReadOwn _ _ _ => []
  | .evUpgrade _ _ => []
  | .evWriteback _ _ => []
  | .evCleanEvict _ _ => []
  | .evStrongStoreOrAtomic _ _ _ => []
  | .evDirectoryEccError _ => []
  | .evTagParityError _ => []
  | .evUncorrectableError _ => []
  | .evCorrectedError => []
  | .evModuleReset _ _ _ _ _ => []
  | .evLdBind _ _ _ => []
  | .evNotifyWrite _ _ _ => []
  | .evRequestLaunch _ _ _ => []
  | .evRequestParcel _ _ _ => []
  | .evRequestResolve _ _ _ => []
  | .evRequestPoll _ _ _ => []
  | .evRequestResync _ _ _ => []
  | .evMsixUnmask _ _ => []
  | .evPasidRevoke _ _ => []
  | .evBar2Access _ _ _ => []
  | .evPlimWrite _ => []
  | .evClockStep => []
  | .evPgateWrite _ _ => []
  | .evBankWake _ _ => []
  | .evUeDescriptorTake _ => []
  | .evUeTaggedReply _ _ _ => []
  | .evUeMessageReceive _ _ _ => []
  | .evRegisterWrite _ _ => []
  | .evPrefetcherAccess _ _ => []
  | .evMessageFilterWrite _ _ => []
  | .evCoreAssign _ _ => []
  | .evVfAssign _ _ => []
  | .evConfigurationRequest _ _ => []
  | .evMalformedRequest _ _ _ => []

/-- The instruction the decoder reads from an instruction whose bits are w (the first lane is bits 31..0, an extension lane
bits 63..32). The table gives no engine with a word, and the engines share the words: a Xenx word is read first, then X, A
and M in this order (log 10). -/
def decodeTableWord (nbits w : Nat) : Option Instr :=
  let w0 := w % 2 ^ 32
  let e := if nbits ≤ 32 then 0 else w / 2 ^ 32 % 2 ^ 32
  let try_ := fun (en : Eng) => decodeEng en w0 (if twoLane en w0 then some e else none)
  match rawH w0 with
  | some i => some i
  | none => match try_ .x with
    | some i => some i
    | none => match try_ .a with
      | some i => some i
      | none => try_ .m

end Sys2Proof
end

