-- ==== Sys2Proof/Config.lean ====
section
/-! DEFINITION. What the part fixes (R1, R3) and the free values of the model: opaque, so that no proof can
lean on what they are. -/

namespace Sys2Proof.Config

/-- Cells of the module (R3). -/
def cells : Nat := 1536
/-- Hardware contexts of one cell (R3). -/
def contexts : Nat := 4
/-- Bytes of one cell store (R104). -/
def storeBytes : Nat := 0x60000
/-- First offset of the launch area (R51). -/
def launchArea : Nat := 0x5FEE0
/-- Outbound slots of a context (R15). -/
def outSlots : Nat := 8
/-- Outbound slots of a hart (R303). -/
def hartSlots : Nat := 4
/-- Copies a context may have outstanding (R116). -/
def maxCopies : Nat := 8
/-- Line entries of a store buffer (R108). -/
def storeBuffer : Nat := 16
/-- Lines of an L1 data cache: 64 KiB of 64-byte lines (R107). -/
def l1Lines : Nat := 1024
/-- Lines of an instruction store (R54). -/
def istoreLines : Nat := 2048
/-- Segments of the mask segment cache (R230). -/
def maskSegments : Nat := 32
/-- Entries of an instruction TLB, of a data TLB and of a shared L2 TLB (R378). -/
def itlbEntries : Nat := 32
def dtlbEntries : Nat := 64
def l2tlbEntries : Nat := 2048
/-- Slots of one die's future table (R42). -/
def futureSlots : Nat := 16384
/-- Parcels one die's park pool holds (R281). -/
def parkPool : Nat := 4096
/-- Tasks in the buckets of one cell (R39). -/
def bucketTasks : Nat := 256
/-- Tasks in one local task queue (R31). -/
def localTasks : Nat := 64
/-- Entries of one token FIFO (R72). -/
def fifoDepth : Nat := 16
/-- Application cores (R295). -/
def cores : Nat := 128
/-- Partitions (R3, R354). -/
def partitions : Nat := 24
/-- Virtual functions (R3). -/
def vfs : Nat := 384

/-- FREE VALUE (log 3): the n-th value the manual leaves open (which victim a cache takes, which of several
tasks of one key a pop returns, which entry of a contiguous page translates). No body: nothing can evaluate it. -/
opaque freeNat : Nat → Nat

/-- FREE VALUE (log 3): the n-th word the manual leaves unpredictable (R7). -/
opaque freeBits : Nat → BitVec 512

/-- FREE VALUE (log 3): which of the values that R7 allows register r of a context holds at the n-th dispatch, where R22 gives it
none. -/
opaque freeReg : Nat → Nat → Nat

/-- FREE VALUE (log 11): the bank, of 16, of a Lodge die's home cache that holds a line; the manual names no mapping (R391). -/
opaque lodgeBank : Nat → Nat
/-- FREE VALUE (log 11): the bank, of 32, of an RDC that holds a line (R391). -/
opaque rdcBank : Nat → Nat

/-- FREE VALUE (log 8): the placement code (bits 1 to 0) and the placement entry (bits 7 to 2) of a hart's leaf entry, which the manual gives no
place in the entry. -/
opaque hartLeaf : Nat → BitVec 8

/-- FREE VALUE (log 12): SHAKE256 of a byte string, 64 bytes (R395). The manual names the standard and gives no bits. -/
opaque shake256 : List (BitVec 8) → BitVec 512

/-- FREE VALUE (log 12): the Falcon-1024 signature of a message under the device identity key, 1,280 bytes (R395). -/
opaque falconSign : List (BitVec 8) → List (BitVec 8)

/-- FREE VALUE (log 23): what memory key k reads of a line whose bytes key w wrote (R393); arguments: k, w, the line, the bytes written. -/
opaque decrypt : Nat → Nat → Nat → BitVec 512 → BitVec 512

/-- FREE VALUE (log 23): whether a line of a bank lies in one of its sets (R391); arguments: bank, set, line. -/
opaque inSet : Nat → Nat → Nat → Bool

/-- FREE VALUE (log 65): the device's Falcon-1024 public key, the Kornen certificate that signs it, and the measurement of a step of bring-up
(R411); the measurement's arguments: the step and the number of the module reset's free value. -/
opaque publicKey : List (BitVec 8)
opaque kornenCert : List (BitVec 8)
opaque measure : Nat → Nat → BitVec 512

/-- FREE VALUE (log 18): the nearest-rounded significand of a transcendental result whose rounding the bounded interval search
does not settle (R221); arguments: function code, operand bits. -/
opaque transcendental : Nat → BitVec 64 → Word

end Sys2Proof.Config
end

