-- ==== Sys2Proof/Machine/Map.lean ====
section
/-! DEFINITION. Operations on sparse maps: a list of key and value pairs, rising by key. A key that is not listed reads as the
default the caller names. -/

namespace Sys2Proof

/-- The value listed under k. -/
def mfind {α : Type} (m : SMap α) (k : Nat) : Option α :=
  match m with
  | [] => none
  | (j, v) :: t => if j = k then some v else mfind t k

/-- The value under k, d where nothing is listed. -/
def mget {α : Type} (d : α) (m : SMap α) (k : Nat) : α := (mfind m k).getD d

/-- m without k. -/
def mdel {α : Type} (m : SMap α) (k : Nat) : SMap α := m.filter fun e => e.1 != k

/-- m with v listed under k, in its place. -/
def mput {α : Type} (m : SMap α) (k : Nat) (v : α) : SMap α :=
  match m with
  | [] => [(k, v)]
  | (j, w) :: t => if k < j then (k, v) :: (j, w) :: t else if k = j then (k, v) :: t else (j, w) :: mput t k v

/-- m with value v under k, where d is the default: a default value is not listed, so that equal maps are equal lists. -/
def mset {α : Type} [DecidableEq α] (d : α) (m : SMap α) (k : Nat) (v : α) : SMap α :=
  if v = d then mdel m k else mput m k v

/-- The canonical form: keys strictly rising, no value equal to the default. -/
def mwf {α : Type} [DecidableEq α] (d : α) : SMap α → Bool
  | [] => true
  | [(_, v)] => v != d
  | (j, v) :: (k, w) :: t => v != d && j < k && mwf d ((k, w) :: t)

/-- Element n of a list replaced. -/
def lset {α : Type} (l : List α) (n : Nat) (v : α) : List α := l.set n v

/-- A list without element n. -/
def ldel {α : Type} (l : List α) (n : Nat) : List α := l.eraseIdx n

/-- Bits lo to lo + n - 1 of a number. -/
def nbits (lo n w : Nat) : Nat := w / 2 ^ lo % 2 ^ n

/-- Little-endian bytes of a number (R5). -/
def leBytes (n : Nat) (w : Nat) : List Byte :=
  match n with
  | 0 => []
  | k + 1 => BitVec.ofNat 8 w :: leBytes k (w / 256)

/-- The number that little-endian bytes hold (R5). -/
def leNat : List Byte → Nat
  | [] => 0
  | b :: t => b.toNat + 256 * leNat t

/-- n bytes of b from place lo on, zero beyond its end. -/
def bslice (b : List Byte) (lo n : Nat) : List Byte := ((b.drop lo).take n) ++ List.replicate (n - (b.length - lo)) 0

/-- The number in n bytes of b from place lo on. -/
def bnat (b : List Byte) (lo n : Nat) : Nat := leNat ((b.drop lo).take n)

/-- A 64-byte vector of bytes; missing bytes read zero. -/
def vecOf (b : List Byte) : Vec := BitVec.ofNat 512 (leNat (b.take 64))
/-- The 64 bytes of a vector. -/
def vecBytes (v : Vec) : List Byte := leBytes 64 v.toNat

/-- SignExtend(x, n) of R9 as a 64-bit word. -/
def sext {n : Nat} (x : BitVec n) : Word := x.signExtend 64
/-- ZeroExtend(x, n) of R9 as a 64-bit word. -/
def zext {n : Nat} (x : BitVec n) : Word := x.setWidth 64

/-- The first element that satisfies p, with its place. -/
def lfind {α : Type} (p : α → Bool) (l : List α) : Option (Nat × α) :=
  match l with
  | [] => none
  | a :: t => if p a then some (0, a) else (lfind p t).map fun r => (r.1 + 1, r.2)

/-- a put into a list that rises by f, behind equal ones. -/
def insertBy {α : Type} (f : α → Nat) (a : α) : List α → List α
  | [] => [a]
  | b :: t => if f a < f b then a :: b :: t else b :: insertBy f a t
/-- A list sorted by f, equal ones in their order. -/
def sortBy {α : Type} (f : α → Nat) (l : List α) : List α := l.foldl (fun acc a => insertBy f a acc) []

end Sys2Proof
end

