-- ==== Sys2Proof/Machine/State.lean ====
section
/-! DEFINITION. The state of the module as plain data, the reasons a step can stop, and the machine right after reset.
A sparse map (SMap) reads a default where it lists nothing: the register files read their reset value (R55), memory
reads zero (log 2). -/

namespace Sys2Proof.Machine

/-- Why a step stops without a next state. -/
inductive Fault where
  /-- Raised by the directory and error events (R386 to R390) and by nothing else, when the line they name lies in no
  memory range of R102: that line does not exist. Safe. -/
  | noMemory (line : Nat)
  deriving DecidableEq, Repr

/-- Why a step has no meaning. -/
inductive Refusal where
  /-- An instruction whose meaning is not written; raised by exec's arm alone. Safe. -/
  | notModelled (mnemonic : String)
  deriving DecidableEq, Repr

/-- The three ends of a meaning. -/
abbrev Out := Host.Outcome

/-- What an engine of a context is doing (R351 ENG). -/
inductive EngSt where | notStarted | running | faulted | ended
  deriving DecidableEq, Repr, Inhabited

/-- One loop counter (R60): remaining count, and the slots of the loop's first and last instructions. -/
structure LoopC where
  count : Word
  first : Slot
  last  : Slot
  deriving DecidableEq, Repr, Inhabited

/-- A token FIFO (R72, R350): the position of its oldest entry and its entries, oldest first. -/
structure FifoQ where
  headp : BitVec 4
  items : List Word
  deriving DecidableEq, Repr, Inhabited

/-- A scale word (R69, R248): absent, present, or poisoned. -/
inductive ScaleW where | absent | word (w : BitVec 32) | bad
  deriving DecidableEq, Repr, Inhabited

/-- One stream entry: 64 bytes, the lanes a vpush wrote (R222), its row's scale, and whether it carries poison. -/
structure Entry where
  data   : Vec
  lanes  : BitVec 16
  scale  : ScaleW
  poison : Bool
  deriving DecidableEq, Repr, Inhabited

/-- Where a translated access goes (R374, R378): the physical page base, and the home, which is a slice id 96·die + slice for
an HBM-backed line and 1024 + Lodge die for an LPDDR6-backed one. -/
inductive Place where | interleave | hash (n : Nat) (list : List Nat) | slice (id : Nat) | lodge
  deriving DecidableEq, Repr, Inhabited

/-- Bytes of an element group in one place: a physical address with its placement, or a cell-store offset when the group is of a cell
kind; off is their place in the entry. -/
structure Piece where
  addr  : Nat
  len   : Nat
  off   : Nat
  place : Place
  deriving DecidableEq, Repr, Inhabited

/-- An issued element group (R243, R244, R245): its pieces, the place of its row's scale when it reads one, whether it carries its
row's scale, and the step it issued at. -/
structure Group where
  pieces : List Piece
  scale  : Option (Nat × Place)
  carry  : Bool
  stamp  : Nat
  deriving DecidableEq, Repr, Inhabited

/-- A group in flight: whether it is of a cell kind, whether it stores, whether its stream has ACQ = 1, and the group. -/
structure Flying where
  cell  : Bool
  store : Bool
  acq   : Bool
  group : Group
  deriving DecidableEq, Repr

/-- A stream's state (R71). -/
inductive StreamSt where | closed | opened | closing
  deriving DecidableEq, Repr, Inhabited

/-- One stream (R66 to R71): the descriptor, the three counts, the entries between HEAD and TAIL, the load groups in flight
(oldest first) and the store groups issued and not yet written (oldest first). rowScale is the scale the present row carries,
and issued counts the groups a copy-landing stream has issued in all (R68). dropping holds the load groups that were in flight when the
stream closed, which still land and are discarded (R71); waiting says that the scale read of a copy-landing stream has waited on a
pending staging slot (R124). -/
structure Stream where
  desc     : BitVec 256
  st       : StreamSt
  next     : BitVec 16
  head     : BitVec 16
  tail     : BitVec 16
  entries  : List Entry
  loads    : List Group
  stores   : List (Group × Entry)
  rowScale : ScaleW
  issued   : Nat
  dropping : List Flying
  waiting  : Bool
  deriving DecidableEq, Repr, Inhabited

/-- What a device operation records of the instruction that issued it (R425): the physical cell, the context, the
invocation (the model's serial number), its mode and channel, the slots of the issuing X or A instruction, the header of the
parcel that started it, and the partition and logical cell, which find the context again after a pre-emption (R364). -/
structure Issuer where
  cell : Nat
  ctx  : Nat
  inv  : Nat
  kmode : Bool
  chan : Nat
  xpc  : Slot
  apc  : Slot
  phdr : Word
  part : Nat
  lcell : Nat
  deriving DecidableEq, Repr, Inhabited

/-- A pending fault record: the 64 bytes of R382. -/
abbrev Record := Vec

/-- A taken branch whose target's line could not be fetched for the check of R173 (log 15): the target, and what the branch had before it:
its slot, g31 when it was a call, its line, and the join line its engine had met. -/
structure Unchecked where
  target : Slot
  src    : Slot
  link   : Option Word
  line   : Option (Slot × BitVec 256)
  passed : Option Slot
  deriving DecidableEq, Repr, Inhabited

/-- One engine of a context: program counter, what it is doing, its outstanding fault code (0 for none), its pending-fault
register (R383), its acquire horizon (R135), whether it waits at a join line, the join line it was last released from,
the place of the pending staging slot that its present instruction last waited on (R124), the line it has fetched (R53, R347),
whether the instruction it stopped at takes two lanes (R205), and a taken branch whose target is still to be checked (R173). -/
structure EngC where
  pc      : Slot
  st      : EngSt
  code    : BitVec 8
  held    : Option Record
  horizon : Nat
  joining : Bool
  passed  : Option Slot
  waited  : Option Nat
  line    : Option (Slot × BitVec 256)
  two     : Bool
  unchecked : Option Unchecked
  deriving DecidableEq, Repr, Inhabited

/-- A line entry of a store buffer (R108, R139): the line's physical number, its bytes and which of them are written, the order of
the stores in it (weak stores merge in one entry, a strong store has an entry of its own), and the bank of the line's home (R142, R391). -/
structure SbLine where
  line : Nat
  data : Vec
  mask : BitVec 64
  ord  : Ord
  bank : Nat
  deriving DecidableEq, Repr, Inhabited

/-- The registers of a context that a dispatch leaves unpredictable (R22, R55), as they stood at an earlier dispatch. -/
structure Files where
  g      : SMap Word
  v      : SMap Vec
  p      : SMap (BitVec 16)
  b      : SMap Word
  q      : SMap Bool
  c      : SMap Word
  shadow : SMap (BitVec 16)
  loops  : SMap LoopC
  deriving DecidableEq, Repr, Inhabited

/-- A ctxsave that has taken a context (R348, R349): the context that executes it, its invocation, and the translated pieces of the area:
physical address, placement and length. -/
structure Taking where
  ctx    : Nat
  inv    : Nat
  pieces : List (Nat × Place × Nat)
  deriving DecidableEq, Repr, Inhabited

/-- A context's status (R341 cstat.ST). -/
inductive CtxSt where | free | running | suspended | trapPending
  deriving DecidableEq, Repr, Inhabited

/-- One hardware context (R55, R75). taken says which ctxsave has taken it (R349). sysd is the d field of the sys that X last retired
(R189), and past holds the registers as the partition's earlier dispatches on this context found them, since the last scrub (R7;
log 3). -/
structure Ctx where
  st      : CtxSt
  chan    : Nat
  phdr    : Word
  kmode   : Bool
  inv     : Nat
  limit   : Nat
  wdcnt   : Nat
  g       : SMap Word
  v       : SMap Vec
  p       : SMap (BitVec 16)
  b       : SMap Word
  q       : SMap Bool
  c       : SMap Word
  shadow  : SMap (BitVec 16)
  ex      : EngC
  ea      : EngC
  em      : EngC
  loops   : SMap LoopC
  issue   : SMap Word
  done    : SMap Word
  streams : SMap Stream
  fifos   : SMap FifoQ
  fmode   : Bool
  xfid    : BitVec 16
  late    : Word
  gst     : Word
  gstk    : Word
  gtt     : Word
  gmt     : Word
  gdim    : Word
  trap    : Option Vec
  esc     : List Record
  out     : List Nat
  pend    : List (Nat × RegG)
  verdicts : List Nat
  seqs    : SMap (BitVec 8)
  sb      : List SbLine
  popped  : List Nat
  mpoison : Bool
  taken   : Option Taking
  sysd    : RegG
  past    : List Files
  deriving DecidableEq, Repr, Inhabited

/-- A channel's state (R20). -/
inductive ChanSt where | unbound | idle | runnable | running
  deriving DecidableEq, Repr, Inhabited

/-- What the device keeps of a saved invocation beside its save area (R349): its serial number, its watchdog limit (R342), the keys
it popped (R36), the d field of its last sys (R189), its engines X, A and M, and its streams (log 21). -/
structure SavedInv where
  inv     : Nat
  limit   : Nat
  popped  : List Nat
  sysd    : RegG
  ex      : EngC
  ea      : EngC
  em      : EngC
  streams : SMap Stream
  deriving DecidableEq, Repr, Inhabited

/-- The group of a launch's innermost quad or patch level that holds a cell (R127): the launch, the group's indices level by level, and
whether the group lies on one die. -/
structure Placed where
  launch : Nat
  group  : List Nat
  oneDie : Bool
  deriving DecidableEq, Repr, Inhabited

/-- One handler table entry with its mailbox and its selection state (R18 to R21, R349): deferred holds the numbers of the
parcels the channel has deferred, oldest first (R16). mhead is the place in the mailbox region of the oldest parcel (R18, R19; log 48), and
saved the channel's saved mark (R349). placed is the group in which a launch placed the channel's invocations, when a launch bound it (R127), and
waited the pending staging slot that the fetch of its entry line last waited on (R124). -/
structure Chan where
  entry    : BitVec 256
  st       : ChanSt
  skip     : Nat
  boost    : Nat
  mailbox  : List Vec
  mhead    : Nat
  deferred : List Nat
  saved    : Option SavedInv
  placed   : Option Placed
  waited   : Option Nat
  deriving DecidableEq, Repr, Inhabited

/-- A worklist task (R35). -/
structure Task where
  key   : BitVec 32
  value : Word
  deriving DecidableEq, Repr, Inhabited

/-- A line of an L1 data cache, with the partition of R110, the stamp of its fill (R135) and the cycle its lease ends (R107). -/
structure L1Line where
  part : Nat
  line : Nat
  data : Vec
  fill : Nat
  upto : Nat
  deriving DecidableEq, Repr, Inhabited

/-- A line of an instruction store: its first slot, whether a U-mode fetch filled it, and its 256 bits (R54). -/
structure ILine where
  part : Nat
  slot : Slot
  user : Bool
  bits : BitVec 256
  deriving DecidableEq, Repr, Inhabited

/-- A TLB entry (R378). -/
structure TlbE where
  part  : Nat
  vbase : Nat
  size  : Nat
  pbase : Nat
  perm  : BitVec 4
  place : Place
  dirty : Bool
  deriving DecidableEq, Repr, Inhabited

/-- A command of the matrix unit (R251), with what it has still to do. issuer is the claiming context; rows counts rows processed, pop the entries popped of the present row, buf the row being
gathered; hist keeps rows a later part needs (m.slice) and outQ the entries still to push; fmt is the element type of the operand
stream; flipWait marks a flip not yet started, and waitO one that the other pipe holds up (R250). -/
structure Cmd where
  fields   : SMap (BitVec 16)
  issuer   : Issuer
  fmode    : Bool
  ticket   : Word
  fmt      : Nat
  flipWait : Bool
  waitO    : Bool
  rows     : Nat
  buf      : List Entry
  hist     : List (List Entry)
  outQ     : List Entry
  poison   : Bool
  deriving DecidableEq, Repr, Inhabited

/-- A row on its way to, or in, a broadcast port (R258). -/
structure BRow where
  bytes  : List Byte
  scale  : ScaleW
  poison : Bool
  deriving DecidableEq, Repr, Inhabited

/-- A queued follow-on command block (R267): the 32 bytes, and the copy that brought it. -/
structure Follow where
  block : BitVec 256
  copy  : Nat
  deriving DecidableEq, Repr, Inhabited

/-- The matrix unit of a cell (R248). Planes, accumulators and scale words are sparse: key 16384·macro + 8192·plane + 64·k + n for
a plane element, 128·row + column for an accumulator element, 64·(2·macro + plane) + n for a column scale and 128·block + n for the one
of a block; a scale word that is not listed is absent. portBy names the cell whose m.bcast is entering the port. -/
structure Matrix where
  planes  : SMap Byte
  apl     : Bool
  cs      : SMap (BitVec 32)
  pz      : SMap Bool
  acc     : SMap (BitVec 32)
  rs      : SMap (BitVec 32)
  acs     : SMap (BitVec 32)
  bnd     : SMap Nat
  rrc     : Word
  port    : List BRow
  portBy  : Option Nat
  sending : List BRow
  followQ : List Follow
  pipeL   : Option Cmd
  pipeC   : Option Cmd
  deriving DecidableEq, Repr, Inhabited

/-- One cell. heard is the queue depth that each neighbour last advertised to it, by logical number (R31, R362). -/
structure Cell where
  tag     : Nat
  lcell   : BitVec 16
  kchan   : Word
  wdlim   : Nat
  lease   : Nat
  dpcnt   : Word
  pgate   : BitVec 12
  store   : SMap Byte
  landed  : SMap Bool
  cpoison : SMap Bool
  chans   : SMap Chan
  rr      : SMap Nat
  taskq   : List Vec
  heard   : SMap Nat
  buckets : List Task
  spill   : List Task
  wake    : Bool
  fview   : Nat
  dview   : Nat
  wview   : Option Nat
  l1      : List L1Line
  istore  : List ILine
  mseg    : List L1Line
  itlb    : List TlbE
  dtlb    : List TlbE
  select  : Bool
  mu      : Matrix
  claim   : Option Nat
  claimQ  : List Nat
  ctxs    : SMap Ctx
  deriving DecidableEq, Repr, Inhabited

/-- Who sent a parcel (ctx by send, nb by sendnb; parked names its counter's home address too), and what its verdict does (R13, R14, R45, R120, R266, R273, R281, R303, R405). -/
inductive Origin where
  | ctx (i : Issuer)
  | nb (i : Issuer)
  | parked (i : Issuer) (ctr : Nat)
  | copyDone (i : Issuer)
  | cmdDone (i : Issuer)
  | future (addr : Word) (lcell : BitVec 16) (chan : BitVec 8) (die slot : Nat)
  | barrier (addr : Word) (lcell : BitVec 16) (chan : BitVec 8)
  | wake (lcell : BitVec 16) (chan : BitVec 8)
  | term (lcell : BitVec 16) (chan : BitVec 8)
  | status
  | launch
  | hart (core : Nat)
  | host (fn : HostFn) (qi : Nat) (rid : BitVec 16)
  deriving DecidableEq, Repr, Inhabited

/-- Where a parcel in flight stands: on its way; deferred at a channel of a physical cell (R16); held for an evicted cell
(R357); at Belvedere's gateway towards an entry of the logical table (R359); or with its sender in an eviction image (R366). -/
inductive Leg where | way | deferred (cell chan : Nat) | evicted | gateway | image
  deriving DecidableEq, Repr, Inhabited

/-- A parcel in flight. part is the partition whose table resolves its DEST; src and sent are its sender's partition and the header as
it was sent, which a gateway does not change (R359); told marks one whose sender has had verdict 5. -/
structure Flight where
  id     : Nat
  parcel : Vec
  part   : Nat
  from_  : Origin
  leg    : Leg
  src    : Nat
  sent   : Word
  told   : Bool
  deriving DecidableEq, Repr, Inhabited

/-- A verdict on its way back (R14): the flight, its header as sent, and whether verdict 5 went before it. -/
structure Verdict where
  flight : Nat
  sent   : Word
  from_  : Origin
  part   : Nat
  status : Nat
  told   : Bool
  deriving DecidableEq, Repr, Inhabited

/-- A task parcel on its walk (R29, R277): where it stands, the hint, the radius, the ANY flag and the steps taken; waits
marks one whose walk has ended at a full local queue. -/
structure TaskFlight where
  id     : Nat
  parcel : Vec
  part   : Nat
  issuer : Issuer
  at_    : Nat
  hint   : Nat
  rad    : Nat
  any    : Bool
  steps  : Nat
  waits  : Bool
  deriving DecidableEq, Repr, Inhabited

/-- What balancing moves between neighbours (R31, R40), from one physical cell to another; what its destination does not accept comes back,
dst being the cell it left then (R278). -/
structure Transfer where
  part  : Nat
  from_ : Nat
  dst   : Nat
  tasks : List Vec
  work  : List Task
  deriving DecidableEq, Repr, Inhabited

/-- A registered continuation (R43, R45, R288). -/
structure Cont where
  dest : BitVec 16
  chan : BitVec 8
  tag  : BitVec 8
  f8m  : Bool
  deriving DecidableEq, Repr, Inhabited

/-- Who waits on a future: nobody, a continuation, or a hart (R304). -/
inductive Waiter where | none | cont (c : Cont) | hart (core : Nat)
  deriving DecidableEq, Repr, Inhabited

/-- A token injection under way (R46, R289): the tokens' source address (none for the template), the tokens left, those
written so far, and the waiters to release afterwards. One that has ended keeps its count and no waiter (R45). -/
structure Inject where
  queue : Word
  src   : Option Word
  left  : Nat
  done  : Nat
  wait_ : List Waiter
  deriving DecidableEq, Repr, Inhabited

/-- What a live future table slot serves (R42, R47): a future word pair or a barrier waiter. -/
inductive SlotKind where
  | future (addr : Word) (waiter : Waiter) (deadline : Option Nat) (bind_ : Option Word) (reply : Option (Word × Nat)) (inj : Option Inject)
  | barrier (addr : Word) (phase : BitVec 32) (c : Cont)
  deriving DecidableEq, Repr, Inhabited

/-- A live slot with its partition. -/
structure FSlot where
  part : Nat
  pa   : Nat
  kind : SlotKind
  deriving DecidableEq, Repr, Inhabited

/-- A parked parcel (R34, R281), on the counter at a physical address. -/
structure Parked where
  ctr    : Nat
  part   : Nat
  parcel : Vec
  issuer : Issuer
  deriving DecidableEq, Repr, Inhabited

/-- A copy that has left (R116 to R121): its block, ticket, the page translations it was issued with (virtual page number to 4 KiB
base and placement), the byte ranges of the sequence still to read, the cells whose follow-on acceptance is still to come, and the staging slots
its reads have waited on (R124). -/
structure Copy where
  id      : Nat
  issuer  : Issuer
  part    : Nat
  kmode   : Bool
  f8m     : Bool
  tl      : Nat
  ticket  : Word
  block   : Vec
  srcMap  : SMap (Nat × Place)
  dstMap  : SMap (Nat × Place)
  todo    : List (Nat × Nat)
  accept  : List Nat
  discard : Bool
  poison  : Bool
  waited  : List Nat
  deriving DecidableEq, Repr, Inhabited

/-- Slab bytes on their way to a cell store (R117): start is their place in the copy's sequence. -/
structure Landing where
  copy   : Nat
  cell   : Nat
  off    : Nat
  start  : Nat
  bytes  : List Byte
  poison : Bool
  deriving DecidableEq, Repr, Inhabited

/-- A launch that was accepted (R50): its record, the entries its image binds, and the (logical cell, channel) entries to be
written; fresh until its turn has come. -/
structure Launch where
  id    : Nat
  part  : Nat
  rec_  : BitVec 2048
  image : SMap (BitVec 256)
  todo  : List (Nat × Nat)
  fresh : Bool
  deriving DecidableEq, Repr, Inhabited

/-- A row that m.red sends (R259, R260): the owner's physical cell, the sender's, the accumulator row, its elements, the
sender's block bound, and whether this row raises the owner's bound. -/
structure Partial where
  dst    : Nat
  from_  : Nat
  row    : Nat
  elems  : List (BitVec 32)
  bound  : Nat
  raise_ : Bool
  deriving DecidableEq, Repr, Inhabited

/-- A K-mode trap at Belvedere (R339, R360, R361). -/
structure HypFault where
  part : Nat
  cell : Nat
  ctx  : Nat
  inv  : Nat
  eng  : Eng
  code : BitVec 8
  arg  : Word
  reg  : RegG
  deriving DecidableEq, Repr, Inhabited

/-- An entry of Belvedere's hypervisor event queue (R355, R381, R390, R420): what happened, and the data it names. -/
inductive HypEvent where
  | dropped (header : Word) (cell : Nat)
  | ringFault (part : Nat)
  | directory (line : Nat)
  | sendRing (part : Nat)
  deriving DecidableEq, Repr, Inhabited

/-- An entry of the message filter table (R358), the tokens in its bucket (R359), the device time of its last refill, and the part of a
token that was left then, in millionths. -/
structure Filter where
  entry  : BitVec 128
  tokens : Nat
  since  : Nat
  part   : Nat
  deriving DecidableEq, Repr, Inhabited

/-- The state of a staging slot (R123 to R125). -/
inductive StageSt where | pending (src : Nat) (step : Nat) | ready (step : Nat) | failed (step : Nat)
  deriving DecidableEq, Repr, Inhabited

/-- What the stager holds of a partition's layer schedule (R122 to R125): header address, whether the header is bad, the staging
area with its number of slots, the state of each slot in the window, the slot that each physical 4 KiB page of the staging area belongs
to, and the entries, by step and first slot, whose failure FAIL counts already. -/
structure Stager where
  hdr   : Word
  bad   : Bool
  stage : Word
  nslot : Nat
  slots : SMap StageSt
  pages : SMap Nat
  failed : List (Nat × Nat)
  deriving DecidableEq, Repr, Inhabited

/-- A partition's state in the summary (R412). -/
inductive PartSt where | absent | running | preempted | failed
  deriving DecidableEq, Repr, Inhabited

/-- One partition. floor is the view of F that its cells hold since the last reduction (R35). heldDev holds the records of device agents that wait for room in the ring (R45, R383). -/
structure Part where
  st        : PartSt
  gridW     : Nat
  gridH     : Nat
  table     : List (BitVec 32)
  seg       : Segment
  slices    : List Nat
  jobs      : List (BitVec 32)
  ring      : Option Word
  threshold : Nat
  grace     : Nat
  spillBase : Word
  spillN    : Nat
  sched     : Option Stager
  delta     : Nat
  wakeChan  : Option Nat
  term      : Option (BitVec 16 × Nat)
  floor     : Nat
  pushes    : Nat
  pops      : Nat
  quiet     : Option (Nat × Nat)
  epoch     : Bool
  transit   : List Nat
  fbhdr     : Word
  s1root    : Word
  plctab    : Word
  scrtok    : Word
  s1olds    : List Word
  ploldl    : List Word
  netdrop   : Nat
  kevents   : List (BitVec 8)
  tokenSeq  : Nat
  heldDev   : List Record
  deriving DecidableEq, Repr, Inhabited

/-- A directory entry (R386): the owner with its state and data, and the sharers. exclusive is E, modified is M, owned is O. -/
inductive OwnSt where | m | o | e
  deriving DecidableEq, Repr, Inhabited

structure DirE where
  owner   : Option (Nat × OwnSt × Vec)
  sharers : List Nat
  deriving DecidableEq, Repr, Inhabited

/-- The mode of a hart (R295, R299). -/
inductive HartMode where | m | s | u | vs | vu
  deriving DecidableEq, Repr, Inhabited

/-- A capability register (R298). -/
structure Cap where
  base  : Word
  limit : Word
  perm  : BitVec 4
  deriving DecidableEq, Repr, Inhabited

/-- The trap registers and status of S, VS or M mode (R299; log 8): the saved pc, cause, value, vector and scratch word; the interrupt
enable and its saved copy; the mode the trap came from; and the two bits that widen a supervisor's loads. -/
structure SRegs where
  epc   : Word
  cause : Word
  tval  : Word
  tvec  : Word
  scratch : Word
  ie    : Bool
  pie   : Bool
  prev  : HartMode
  sum   : Bool
  mxr   : Bool
  deriving DecidableEq, Repr, Inhabited

/-- One application core (R295 to R307). satp and vsatp root its stage 1 in S and VS mode (log 8); f, v and vstart are its floating-point
and vector registers; csrs holds the standard CSRs that nothing in the model reads. sending names the parcel an enx.send waits on, its rd and the
image's address; wait_ the die and slot of the future an enx.fwait waits on and its rd; woken is the status of a released waiter. stopped
marks a core of a killed partition (R391). -/
structure Hart where
  part   : Option Nat
  mode   : HartMode
  pc     : Word
  x      : SMap Word
  f      : SMap Word
  v      : SMap (BitVec 256)
  vstart : Nat
  satp   : Word
  vsatp  : Word
  csrs   : SMap Word
  enxmode   : Bool
  senxcause : BitVec 8
  capen  : Bool
  caps   : SMap Cap
  sregs  : SRegs
  vsregs : SRegs
  mregs  : SRegs
  stopped : Bool
  out    : List Nat
  seqs   : SMap (BitVec 8)
  sending : Option (Nat × RegX × Word)
  wait_  : Option (Nat × Nat × RegX)
  woken  : Option Nat
  deriving DecidableEq, Repr, Inhabited

/-- One queue interface (R403). busy holds the parcel whose verdict the request in hand waits for (R405). -/
structure QueueI where
  qbase : Word
  qlog  : Nat
  cbase : Word
  qhead : Nat
  tail  : Nat
  ivec  : Nat
  badn  : Nat
  busy  : Option Nat
  deriving DecidableEq, Repr, Inhabited

/-- One interrupt remap entry (R404). -/
structure Remap where
  addr : Word
  data : BitVec 32
  mask : Bool
  pend : Bool
  deriving DecidableEq, Repr, Inhabited

/-- A virtual or physical function (R398, R400); seqs are the sequence counts of the parcels a VF sends (R405). -/
structure Fn where
  part    : Option Nat
  seg     : Segment
  queues  : SMap QueueI
  remaps  : SMap Remap
  pasids  : SMap Word
  revoked : Nat
  seqs    : SMap (BitVec 8)
  deriving DecidableEq, Repr, Inhabited

/-- What the device writes, reads or answers on the host side (R400 to R405, R410, R412): a request is fetched from an address; a read of BAR0
is answered, a read through a window with the mark of a poisoned line; and the directory's actions reach the
host's caches on a port as back-invalidate snoops (R402). -/
inductive HostOut where
  | write (addr : Word) (bytes : List Byte)
  | message (addr : Word) (data : BitVec 32)
  | answered (port : Nat)
  | bstat (port : Nat) (value : BitVec 8)
  | unsupported (port : Nat)
  | fetch (addr : Word)
  | bar0 (fn : HostFn) (off : Nat) (value : Word)
  | readData (win : HostWin) (bytes : List Byte) (poison : Bool)
  | biSnpData (port line : Nat)
  | biSnpInv (port line : Nat)
  deriving DecidableEq, Repr, Inhabited

/-- What the endpoint emits (R406): operation, peer, job, message bytes and the tag. -/
structure UeSent where
  part : Nat
  op   : Nat
  job  : BitVec 32
  peer : BitVec 48
  msg  : List Byte
  tag  : Option Word
  deriving DecidableEq, Repr, Inhabited

/-- What an agent asks the home of a line for (R387), with the bytes it stores into the line once it has it, from an offset on. -/
inductive AskKind where
  | shared
  | own (store : Option (Nat × List Byte))
  | upgrade (off : Nat) (bytes : List Byte)
  deriving DecidableEq, Repr, Inhabited

/-- A request for a line that its agent has sent and its home has not yet performed (R388): home is the bank of the line's home, and conflict
marks one whose agent has answered Conflict to a snoop meanwhile. The home performs a request at the instant it reaches it; only one with
conflict waits there, and the home performs it before any request that reaches it later. -/
structure Ask where
  line     : Nat
  agent    : Nat
  kind     : AskKind
  home     : Nat
  conflict : Bool
  deriving DecidableEq, Repr, Inhabited

/-- The identity page (R411): the device's public key, the Kornen certificate, the measurements of steps 2 to 5 and their signature. -/
structure Identity where
  key  : List Byte
  cert : List Byte
  log  : List Vec
  sign : List Byte
  deriving DecidableEq, Repr, Inhabited

/-- What an eviction image holds of one cell (R366); from_ is the physical cell it was, and poison the marked granules of its bytes. -/
structure Image where
  from_   : Nat
  lcell   : BitVec 16
  kchan   : Word
  chans   : SMap Chan
  rr      : SMap Nat
  frames  : SMap Byte
  area    : SMap Byte
  poison  : SMap Bool
  taskq   : List Vec
  work    : List Task
  spill   : List Task
  wake    : Bool
  fmodes  : SMap Bool
  issues  : SMap (SMap Word)
  dones   : SMap (SMap Word)
  traps   : SMap (Option Vec)
  escs    : SMap (List Record)
  outs    : SMap (List Nat)
  saved   : SMap (Ctx × Bool)
  deriving DecidableEq, Repr, Inhabited

/-- A set of cells shared in time (R364): the partitions in order with their slice lengths in ns, the place of the resident one, the
device time its slice began, whether it has yielded (R360), and the device time at which the present pre-emption stopped selection;
saved holds the contexts that Belvedere has saved (R365), by 4 · cell + context, and empty marks cells without a resident. -/
structure SliceSet where
  cells    : List Nat
  order    : List (Nat × Nat)
  resident : Nat
  since    : Nat
  yielded  : Bool
  stopping : Option Nat
  saved    : SMap (Ctx × Bool)
  empty    : Bool
  images   : SMap (List (Nat × Image))
  deriving DecidableEq, Repr, Inhabited

/-- A completion token (R395): its 2,048 bytes, the partition, and the physical cells it covers. -/
structure Token where
  part  : Nat
  cells : List Nat
  seq   : Nat
  bytes : List Byte
  deriving DecidableEq, Repr, Inhabited

/-- Who moves next. -/
inductive Turn where
  /-- An engine of a context fetches, decodes and runs one instruction. -/
  | engine (cell ctx : Nat) (eng : Eng)
  /-- A hart fetches, decodes and runs one instruction. -/
  | hart (core : Nat)
  /-- A pipe of a matrix unit processes one row of its command (R250). -/
  | pipe (cell : Nat) (p : Pipe)
  /-- Cycles pass. -/
  | clock (cycles : Nat)
  /-- A step of the device. -/
  | event (i : Instr)
  deriving DecidableEq, Repr, Inhabited

/-- FREE VALUE (log 1): whose turn the n-th turn is, when the agenda names nobody. -/
opaque freeTurn : Nat → Turn

/-- Whose instruction runs: the physical cell and context of an engine, or the core of a hart. -/
structure Cur where
  cell : Nat
  ctx  : Nat
  core : Nat
  deriving DecidableEq, Repr, Inhabited

/-- The module. resvs holds the line that each core's last LR reserved (R148); gibs the memory key of the partition that owns a 1 GiB block, and
lineKeys the key that wrote a line last (R393). -/
structure State where
  agenda   : List Turn
  cur      : Cur
  now      : Nat
  free     : Nat
  serial   : Nat
  cycle    : Word
  time     : Word
  timeRem  : Nat
  freq     : Nat
  plim     : Nat
  bstat    : BitVec 8
  bootStep : Nat
  portCxl  : SMap Bool
  mem      : List Host.Cell
  poison   : SMap Bool
  dir      : SMap DirE
  av       : SMap (BitVec 24)
  keys     : SMap Nat
  gibs     : SMap Nat
  lineKeys : SMap Nat
  asks     : List Ask
  cells    : SMap Cell
  l2tlbs   : SMap (List TlbE)
  parts    : SMap Part
  futs     : SMap (SMap FSlot)
  parks    : SMap (List Parked)
  flights  : List Flight
  verdicts : List Verdict
  tasks    : List TaskFlight
  transfers : List Transfer
  launches : List Launch
  statuses : List (Nat × Word × Nat)
  copies   : List Copy
  landings : List Landing
  partials : List Partial
  hypFaults : List HypFault
  hypEvents : List HypEvent
  filters  : SMap Filter
  gwDrops  : Nat
  sets     : SMap SliceSet
  tokens   : List Token
  scrubSeq : Nat
  harts    : SMap Hart
  resvs    : SMap Nat
  vfs      : SMap Fn
  pfs      : SMap Fn
  hostOut  : List HostOut
  lds      : SMap Nat
  identity : Option Identity
  ueSent   : List UeSent
  ueInbox  : List (Nat × BitVec 32 × List Byte)
  ueDropped : Nat
  corrected : Nat
  uncorrected : Nat
  failedLanes : Nat
  sumSeq   : Nat
  deriving DecidableEq, Repr

/-- An engine that has not started. -/
def EngC.reset : EngC := ⟨0, .notStarted, 0, none, 0, false, none, none, none, false, none⟩

/-- A context at reset and after scrub (R55). -/
def Ctx.reset : Ctx where
  st := .free
  chan := 0
  phdr := 0
  kmode := false
  inv := 0
  limit := 0
  wdcnt := 0
  g := []
  v := []
  p := []
  b := []
  q := []
  c := []
  shadow := []
  ex := EngC.reset
  ea := EngC.reset
  em := EngC.reset
  loops := []
  issue := []
  done := []
  streams := []
  fifos := []
  fmode := false
  xfid := 0
  late := 0
  gst := 0
  gstk := 0
  gtt := 0
  gmt := 0
  gdim := 0
  trap := none
  esc := []
  out := []
  pend := []
  verdicts := []
  seqs := []
  sb := []
  popped := []
  mpoison := false
  taken := none
  sysd := 0
  past := []

/-- A channel at reset and after scrub (R18, R21). -/
def Chan.reset : Chan := ⟨0, .unbound, 0, 0, [], 0, [], none, none, none⟩

/-- A matrix unit at reset and after scrub (R248). -/
def Matrix.reset : Matrix where
  planes := []
  apl := false
  cs := []
  pz := []
  acc := []
  rs := []
  acs := []
  bnd := []
  rrc := 0
  port := []
  portBy := none
  sending := []
  followQ := []
  pipeL := none
  pipeC := none

/-- A cell at module reset (R410 step 1, R341, R394). -/
def Cell.reset : Cell where
  tag := 31
  lcell := 0xFFFF
  kchan := 0
  wdlim := 0x1000000
  lease := 1024
  dpcnt := 0
  pgate := 0
  store := []
  landed := []
  cpoison := []
  chans := []
  rr := []
  taskq := []
  heard := []
  buckets := []
  spill := []
  wake := false
  fview := 0
  dview := 0
  wview := none
  l1 := []
  istore := []
  mseg := []
  itlb := []
  dtlb := []
  select := true
  mu := Matrix.reset
  claim := none
  claimQ := []
  ctxs := []

def Segment.none_ : Segment := ⟨0, 0, 0, 0⟩

/-- A partition slot that no partition uses, with the defaults of R31, R41 and R360. -/
def Part.reset : Part where
  st := .absent
  gridW := 0
  gridH := 0
  table := []
  seg := Segment.none_
  slices := []
  jobs := []
  ring := none
  threshold := 4
  grace := 1000000
  spillBase := 0
  spillN := 0
  sched := none
  delta := 0
  wakeChan := none
  term := none
  floor := 0
  pushes := 0
  pops := 0
  quiet := none
  epoch := false
  transit := []
  fbhdr := 0
  s1root := 0
  plctab := 0
  scrtok := 0
  s1olds := []
  ploldl := []
  netdrop := 0
  kevents := []
  tokenSeq := 0
  heldDev := []

/-- Trap registers at reset (log 8). -/
def SRegs.reset (prev : HartMode) : SRegs := ⟨0, 0, 0, 0, 0, false, false, prev, false, false⟩

/-- A CSR whose value has some bits set. -/
def bitsOf (l : List Nat) : Word := BitVec.ofNat 64 (l.foldl (fun n b => n + 2 ^ b) 0)

/-- The delegation registers at reset: cause 24 goes from M to S and from VS or VU mode to VS (R299), and so do the other causes and interrupts that a
supervisor takes (log 8); and vtype names no vector type (log 8). -/
def delegated : SMap Word :=
  [(0x302, bitsOf [0, 1, 2, 3, 4, 5, 6, 7, 8, 10, 12, 13, 15, 20, 21, 22, 23, 24]), (0x303, bitsOf [1, 2, 5, 6, 9, 10, 12, 13]),
   (0x602, bitsOf [0, 1, 2, 3, 4, 5, 6, 7, 8, 12, 13, 15, 24]), (0x603, bitsOf [2, 6, 10]), (0xC21, 0x8000000000000000)]

/-- A hart at reset (R297, R298; log 8). -/
def Hart.reset : Hart where
  part := none
  mode := .m
  pc := 0
  x := []
  f := []
  v := []
  vstart := 0
  satp := 0
  vsatp := 0
  csrs := delegated
  enxmode := false
  senxcause := 0
  capen := false
  caps := []
  sregs := SRegs.reset .u
  vsregs := SRegs.reset .vu
  mregs := SRegs.reset .u
  stopped := false
  out := []
  seqs := []
  sending := none
  wait_ := none
  woken := none

/-- A function at reset (R400, R403). -/
def Fn.reset : Fn := ⟨none, Segment.none_, [], [], [], 0, []⟩
def QueueI.reset : QueueI := ⟨0, 0, 0, 0, 0, 0, 0, none⟩
def Remap.reset : Remap := ⟨0, 0, false, false⟩
def Filter.reset : Filter := ⟨0, 0, 0, 0⟩
def DirE.reset : DirE := ⟨none, []⟩
def Stream.reset : Stream := ⟨0, .closed, 0, 0, 0, [], [], [], .absent, 0, [], false⟩
def LoopC.reset : LoopC := ⟨0, 0, 0⟩
def FifoQ.reset : FifoQ := ⟨0, []⟩
def Cap.reset : Cap := ⟨0, 0, 0⟩
def SliceSet.reset : SliceSet := ⟨[], [], 0, 0, false, none, [], false, []⟩

/-- The module right after reset (R410 step 1): every register at its reset value, every cell tag 31, no partition. -/
def State.reset : State where
  agenda := []
  cur := ⟨0, 0, 0⟩
  now := 0
  free := 0
  serial := 0
  cycle := 0
  time := 0
  timeRem := 0
  freq := 33
  plim := 2400
  bstat := 0
  bootStep := 1
  portCxl := []
  mem := []
  poison := []
  dir := []
  av := []
  keys := []
  gibs := []
  lineKeys := []
  asks := []
  cells := []
  l2tlbs := []
  parts := []
  futs := []
  parks := []
  flights := []
  verdicts := []
  tasks := []
  transfers := []
  launches := []
  statuses := []
  copies := []
  landings := []
  partials := []
  hypFaults := []
  hypEvents := []
  filters := []
  gwDrops := 0
  sets := []
  tokens := []
  scrubSeq := 0
  harts := []
  resvs := []
  vfs := []
  pfs := []
  hostOut := []
  lds := []
  identity := none
  ueSent := []
  ueInbox := []
  ueDropped := 0
  corrected := 0
  uncorrected := 0
  failedLanes := 0
  sumSeq := 0

end Sys2Proof.Machine
end

