-- ==== Sys2Proof/Machine/Access.lean ====
section
/-! DEFINITION. Accessors: where each piece of state is read and written, and the registers with fixed behaviour (R55). -/

namespace Sys2Proof.Machine
open Sys2Proof

/-- The outcome of a meaning. -/
abbrev Res := Host.Outcome State Fault Refusal

/-- Why an engine stops at an instruction: the trap code and what the fault record says of it (R343, R382). -/
structure Why where
  code   : Nat
  acc    : Nat := 6
  level  : Nat := 0xFF
  va     : Word := 0
  detail : Word := 0
  cause  : Nat := 0
  deriving DecidableEq, Repr, Inhabited

/-- The ways an instruction does not retire: it stalls (R209); a read of it, of a stream group or not, waits on the pending staging slot
at a physical address (R124); or it raises a trap; the last two with what the walks before left in the state (R373, R378). -/
inductive Halt where | stall | late (group : Bool) (pa : Nat) (s : State) | trap (w : Why) (s : State)

/-- A computation of an instruction. -/
abbrev Act (α : Type) := Except Halt α

/-- Illegal-instruction. -/
def whyIllegal : Why := ⟨1, 6, 0xFF, 0, 0, 0⟩
/-- A trap that is no translation fault: code, kind of access, address. -/
def whyOf (code acc : Nat) (va : Word) : Why := ⟨code, acc, 0xFF, va, 0, 0⟩

def Cell.ctx (c : Cell) (k : Nat) : Ctx := mget Ctx.reset c.ctxs k
def Cell.setCtx (c : Cell) (k : Nat) (x : Ctx) : Cell := { c with ctxs := mput c.ctxs k x }
def Cell.chan (c : Cell) (k : Nat) : Chan := mget Chan.reset c.chans k
def Cell.setChan (c : Cell) (k : Nat) (x : Chan) : Cell := { c with chans := mput c.chans k x }

def State.cell (s : State) (n : Nat) : Cell := mget Cell.reset s.cells n
def State.setCell (s : State) (n : Nat) (c : Cell) : State := { s with cells := mput s.cells n c }
def State.ctx (s : State) (n k : Nat) : Ctx := (s.cell n).ctx k
def State.setCtx (s : State) (n k : Nat) (x : Ctx) : State := s.setCell n ((s.cell n).setCtx k x)
def State.chan (s : State) (n k : Nat) : Chan := (s.cell n).chan k
def State.setChan (s : State) (n k : Nat) (x : Chan) : State := s.setCell n ((s.cell n).setChan k x)
def State.part (s : State) (p : Nat) : Part := mget Part.reset s.parts p
def State.setPart (s : State) (p : Nat) (x : Part) : State := { s with parts := mput s.parts p x }
def State.hart (s : State) (n : Nat) : Hart := mget Hart.reset s.harts n
def State.setHart (s : State) (n : Nat) (x : Hart) : State := { s with harts := mput s.harts n x }

/-- The cell and the context whose engine runs. -/
def State.cl (s : State) : Cell := s.cell s.cur.cell
def State.cx (s : State) : Ctx := s.ctx s.cur.cell s.cur.ctx
def State.setCl (s : State) (c : Cell) : State := s.setCell s.cur.cell c
def State.setCx (s : State) (x : Ctx) : State := s.setCtx s.cur.cell s.cur.ctx x
/-- The partition tag of the running cell (R64). -/
def State.pid (s : State) : Nat := s.cl.tag

/-- A fresh serial number. -/
def State.bump (s : State) : State := { s with serial := s.serial + 1 }
/-- The next free value is taken (log 3). -/
def State.took (s : State) : State := { s with free := s.free + 1 }
/-- The next n free values are taken. -/
def State.tookMany (s : State) (n : Nat) : State := { s with free := s.free + n }
/-- A free number below n (log 3). -/
def State.pick (s : State) (n : Nat) : Nat := Config.freeNat s.free % n

/-- g0 reads 0 (R55). -/
def Ctx.gr (x : Ctx) (r : RegG) : Word := if r = 0 then 0 else mget 0 x.g r.toNat
/-- A write to g0 is discarded (R55, R186). -/
def Ctx.setG (x : Ctx) (r : RegG) (w : Word) : Ctx := if r = 0 then x else { x with g := mput x.g r.toNat w }
def Ctx.vr (x : Ctx) (r : RegV) : Vec := mget 0 x.v r.toNat
def Ctx.setV (x : Ctx) (r : RegV) (w : Vec) : Ctx := { x with v := mput x.v r.toNat w }
/-- p0 reads all ones (R55). -/
def Ctx.pr (x : Ctx) (r : RegP) : BitVec 16 := if r = 0 then 0xFFFF else mget 0 x.p r.toNat
/-- A write to p0 is discarded (R55). -/
def Ctx.setP (x : Ctx) (r : RegP) (w : BitVec 16) : Ctx := if r = 0 then x else { x with p := mput x.p r.toNat w }
def Ctx.br (x : Ctx) (r : RegB) : Word := mget 0 x.b r.toNat
def Ctx.setB (x : Ctx) (r : RegB) (w : Word) : Ctx := { x with b := mput x.b r.toNat w }
/-- q0 reads 1 (R55). -/
def Ctx.qr (x : Ctx) (r : BitVec 2) : Bool := if r = 0 then true else mget false x.q r.toNat
def Ctx.setQ (x : Ctx) (r : BitVec 2) (w : Bool) : Ctx := if r = 0 then x else { x with q := mput x.q r.toNat w }
/-- c0 reads 0 (R55). -/
def Ctx.cr (x : Ctx) (r : RegC) : Word := if r = 0 then 0 else mget 0 x.c r.toNat
def Ctx.setC (x : Ctx) (r : RegC) (w : Word) : Ctx := if r = 0 then x else { x with c := mput x.c r.toNat w }
/-- Guard(g) (R57). -/
def Ctx.guard (x : Ctx) (g : GuardP) : BitVec 16 := x.pr (g.setWidth 7)

def Ctx.stream (x : Ctx) (n : StreamNo) : Stream := mget Stream.reset x.streams n.toNat
def Ctx.setStream (x : Ctx) (n : StreamNo) (t : Stream) : Ctx := { x with streams := mput x.streams n.toNat t }
def Ctx.fifo (x : Ctx) (n : Nat) : FifoQ := mget FifoQ.reset x.fifos n
def Ctx.setFifo (x : Ctx) (n : Nat) (q : FifoQ) : Ctx := { x with fifos := mput x.fifos n q }
def Ctx.issueOf (x : Ctx) (t : Nat) : Word := mget 0 x.issue t
def Ctx.doneOf (x : Ctx) (t : Nat) : Word := mget 0 x.done t

/-- The engine's number in records and save areas (R345, R382). -/
def engNo : Eng → Nat
  | .x => 0
  | .a => 1
  | .m => 2

def Ctx.eng (x : Ctx) : Eng → EngC
  | .x => x.ex
  | .a => x.ea
  | .m => x.em
def Ctx.setEng (x : Ctx) (e : Eng) (c : EngC) : Ctx :=
  match e with
  | .x => { x with ex := c }
  | .a => { x with ea := c }
  | .m => { x with em := c }
/-- Loop counter k of an engine (R60). -/
def Ctx.loopOf (x : Ctx) (e : Eng) (k : Nat) : LoopC := mget LoopC.reset x.loops (4 * engNo e + k)
def Ctx.setLoop (x : Ctx) (e : Eng) (k : Nat) (l : LoopC) : Ctx := { x with loops := mput x.loops (4 * engNo e + k) l }

/-- The first slot of the line that holds a slot (R172). -/
def lineSlot (p : Slot) : Slot := p &&& ~~~7
/-- The byte address of a slot: the slot times 4, bits [63:57] copied from bit 56 (R172). -/
def slotAddr (p : Slot) : Word := (p ++ (0 : BitVec 2)).signExtend 64

/-- An engine jumps: to an exact target, or to a resume point, which executes the first own lane at or after the slot (R205). A
jump reaches a join line afresh (R171). -/
def EngC.goto (c : EngC) (p : Slot) : EngC := { c with pc := p, passed := none, line := none, unchecked := none }

/-- An engine goes on to a slot in line order: inside a join line it has met it does not wait again (R171, R205). -/
def EngC.goOn (c : EngC) (p : Slot) : EngC :=
  { c with pc := p, passed := if lineSlot p = lineSlot c.pc then c.passed else none, waited := none }

/-- The Pavilion die of a physical cell, numbered by package mesh row and column (R2). -/
def cellX (n : Nat) : Nat := n % 64
def cellY (n : Nat) : Nat := n / 64
def dieOf (n : Nat) : Nat := cellX n / 16 + 4 * (cellY n / 12)
/-- The 4 by 4 group of cells that shares an L2 TLB (R378). -/
def tlbGroup (n : Nat) : Nat := cellX n / 4 + 16 * (cellY n / 4)
/-- The L2 slice beside a cell, the home of a first touch (R111). -/
def sliceNear (n : Nat) : Nat := 96 * dieOf n + (cellY n % 12) * 8 + (cellX n % 16) / 2

/-- The physical cell of a partition's logical cell (R10, R356): the table entry is valid when bit 31 is set. -/
def Part.resolve (p : Part) (l : Nat) : Option (BitVec 32) := p.table[l]?

/-- The KIND of a table entry (R356), whether its cell is evicted, and its physical cell. -/
def entKind (e : BitVec 32) : Nat := nbits 30 2 e.toNat
def entEvict (e : BitVec 32) : Bool := e.getLsbD 29
def entCell (e : BitVec 32) : Nat := nbits 0 11 e.toNat

/-- The cells of a partition, physical. -/
def Part.cellsOf (p : Part) : List Nat :=
  (p.table.filter fun e => nbits 30 2 e.toNat = 1 && nbits 29 1 e.toNat = 0).map fun e => nbits 0 11 e.toNat

/-- The eviction image that holds a logical cell (R366). -/
def State.imageOf (s : State) (pid l : Nat) : Option Image :=
  ((s.sets.flatMap fun st => (mget [] st.2.images pid).filter fun i => i.1 == l).head?).map fun i => i.2

end Sys2Proof.Machine
end

