-- ==== Sys2Proof/Machine/Memory.lean ====
section
/-! DEFINITION. Memory at its homes (R102, R109, R130, R386, R387, R389, R391), the store buffer and the leased L1 of a cell (R107,
R108, R134, R135), and the cell store (R28, R104, R106, R408). -/

namespace Sys2Proof.Machine
open Sys2Proof

/-- The physical ranges that memory occupies (R102). -/
def inMemory (pa : Nat) : Bool := pa ≤ 0x7FFFFFFFFF || (0x20000000000 ≤ pa && pa ≤ 0x3FFFFFFFFFF)

/-- Where a translated byte lies: its physical address and the placement of its page (R111). -/
structure Loc where
  pa    : Nat
  place : Place
  deriving DecidableEq, Repr, Inhabited

/-- The hash of R376. -/
def hashPlace (q : Nat) : Nat := nbits 0 15 q ^^^ nbits 15 15 q ^^^ nbits 30 14 q

/-- The home of a line, as a bank number: L2 slices 0 to 767, the RDC banks 768 to 1023 (never a home), and the home-cache banks of
the Lodge dies from 1024 (R111, R113, R117, R391; log 11). -/
def homeBank (l : Loc) : Nat :=
  match l.place with
  | .interleave => 96 * (l.pa / 2 ^ 36 % 8) + l.pa / 256 % 96
  | .hash n ids => ids.getD (hashPlace (l.pa / 256) % n) 0
  | .slice id => id
  | .lodge => 1024 + 16 * (l.pa / 2 ^ 40 % 2) + Config.lodgeBank (l.pa / 64) % 16

/-- The die of a home: Pavilion dies 0 to 7, Lodge dies 8 and 9. -/
def homeDie (l : Loc) : Nat := if homeBank l < 768 then homeBank l / 96 else 8 + (homeBank l - 1024) / 16

/-- A partition allocates a line in a bank (R391). -/
def State.allocIn (s : State) (bank p : Nat) : State :=
  if p < 24 then { s with av := mset 0 s.av bank (mget 0 s.av bank ||| 1#24 <<< p) } else s

/-! The memory keys (R393; log 23). -/

/-- The key under which a line's block is read and written. -/
def State.lineKey (s : State) (line : Nat) : Nat := mget 0 s.gibs (line / 2 ^ 24)
/-- The key that wrote a line last. -/
def State.wroteKey (s : State) (line : Nat) : Nat := mget 0 s.lineKeys line
/-- A line as its last writer stored it. -/
def State.plainLine (s : State) (line : Nat) : Vec := vecOf ((List.range 64).map fun i => mget 0 s.mem (64 * line + i))

/-- A byte of memory: what the block's key wrote, or the decryption of what another key wrote (R393). -/
def State.memByte (s : State) (pa : Nat) : Byte :=
  let line := pa / 64
  if s.wroteKey line = s.lineKey line then mget 0 s.mem pa
  else (vecBytes (Config.decrypt (s.lineKey line) (s.wroteKey line) line (s.plainLine line))).getD (pa % 64) 0

/-- A line is stored anew under its block's key, as that key reads it: a store of a part of it keeps the rest (R393). -/
def State.rekey (s : State) (line : Nat) : State :=
  if s.wroteKey line = s.lineKey line then s
  else { s with
    mem := (List.range 64).foldl (fun m i => mset 0 m (64 * line + i) (s.memByte (64 * line + i))) s.mem
    lineKeys := mset 0 s.lineKeys line (s.lineKey line) }

/-- One byte written into memory, keeping its canonical form. -/
def State.memSet (s : State) (w : Nat × Byte) : State :=
  let t := s.rekey (w.1 / 64)
  { t with mem := mset 0 t.mem w.1 w.2 }
/-- Bytes written into memory. -/
def State.memPut (s : State) (ws : List (Nat × Byte)) : State := ws.foldl State.memSet s

def State.dirOf (s : State) (line : Nat) : DirE := mget DirE.reset s.dir line
def State.setDir (s : State) (line : Nat) (d : DirE) : State := { s with dir := mset DirE.reset s.dir line d }
def State.poisoned (s : State) (line : Nat) : Bool := mget false s.poison line

/-- The data an M or O holder keeps of a line (R386). -/
def DirE.dirty (d : DirE) : Option Vec :=
  match d.owner with
  | some (_, .m, v) => some v
  | some (_, .o, v) => some v
  | _ => none

/-- The coherence-latest byte of memory (R130): the dirty holder's, or memory's own. -/
def State.latest (s : State) (pa : Nat) : Byte :=
  match (s.dirOf (pa / 64)).dirty with
  | some v => (vecBytes v).getD (pa % 64) 0
  | none => s.memByte pa

/-- Consecutive (address, byte) pairs. -/
def addrBytes (pa : Nat) : List Byte → List (Nat × Byte)
  | [] => []
  | b :: t => (pa, b) :: addrBytes (pa + 1) t

/-- A dirty holder's data is stored at the home. -/
def State.collect (s : State) (line : Nat) : State :=
  match (s.dirOf line).dirty with
  | some v => s.memPut (addrBytes (64 * line) (vecBytes v))
  | none => s

/-- Bring-up has ended (R410): host requests are accepted. -/
def State.hostUp (s : State) : Bool := 6 ≤ s.bootStep && s.bstat = 1
/-- What the device sends to the host side. -/
def State.emit (s : State) (o : HostOut) : State := { s with hostOut := s.hostOut ++ [o] }
/-- A host's cache that holds a line hears of a snoop through its port (R402). -/
def State.tellHost (s : State) (agent : Nat) (o : Nat → HostOut) : State := if agent = 136 ∨ agent = 137 then s.emit (o (agent - 136)) else s
/-- An agent that is snooped while a request of its own for the line is outstanding answers Conflict (R388). -/
def State.conflict (s : State) (line agent : Nat) : State :=
  { s with asks := s.asks.map fun a => if a.line = line ∧ a.agent = agent then { a with conflict := true } else a }
/-- An agent that holds a line is snooped. -/
def State.snooped (s : State) (line agent : Nat) (o : Nat → HostOut) : State := (s.conflict line agent).tellHost agent o

/-- A read at the home snoops an M holder to O, which supplies the data (R387). -/
def State.snoopRead (s : State) (line : Nat) : State :=
  match (s.dirOf line).owner with
  | some (a, .m, v) => (s.setDir line { s.dirOf line with owner := some (a, .o, v) }).snooped line a fun p => .biSnpData p line
  | _ => s

/-- The agents that hold a line: its owner and its sharers. -/
def DirE.agents (d : DirE) : List Nat := (d.owner.map fun o => o.1).toList ++ d.sharers
/-- The agents that hold a line, but one, are told to invalidate it (R387, R388, R402). -/
def State.tellInv (s : State) (line : Nat) (but : Option Nat) : State :=
  (s.dirOf line).agents.foldl (fun s a => if but = some a then s else s.snooped line a fun p => .biSnpInv p line) s

/-- Core and CXL copies are invalidated, dirty data collected first; RDC copies stay and are updated (R387). -/
def State.snoopWrite (s : State) (line : Nat) : State :=
  ((s.tellInv line none).collect line).setDir line ⟨none, (s.dirOf line).sharers.filter fun a => 128 ≤ a && a ≤ 135⟩

/-- Every agent gives up its copy of a line, and dirty data is stored at the home. -/
def State.giveUp (s : State) (line : Nat) : State := ((s.tellInv line none).collect line).setDir line DirE.reset

/-- n bytes read at their homes at one instant, with whether one of their lines is poisoned (R130, R389). -/
def State.homeRead (s : State) (pa n : Nat) : State × List Byte × Bool :=
  (((s.snoopRead (pa / 64)).snoopRead ((pa + n - 1) / 64)),
    (List.range n).map fun i => s.latest (pa + i),
    s.poisoned (pa / 64) || s.poisoned ((pa + n - 1) / 64))

/-- The reservations on a line end (R148). -/
def State.endResv (s : State) (line : Nat) : State := { s with resvs := s.resvs.filter fun e => e.2 != line }

/-- Writes of a line cover all its 64 bytes. -/
def fullLine (ws : List (Nat × Byte)) : Bool := ws.foldl (fun m w => m ||| 1#64 <<< (w.1 % 64)) 0 == BitVec.allOnes 64

/-- Bytes of one line performed at the home at one instant. A write of all 64 bytes clears the poison mark (R389). -/
def State.lineWrite (s : State) (line : Nat) (ws : List (Nat × Byte)) : State :=
  let s := ((s.snoopWrite line).memPut ws).endResv line
  if fullLine ws then { s with poison := mdel s.poison line } else s

/-- The physical pages of the staging slot that a line lies in, when a stager knows it (R123). -/
def State.slotPages (s : State) (line : Nat) : List Nat :=
  s.parts.flatMap fun e => match e.2.sched with
    | none => []
    | some g => if g.bad then [] else match mfind g.pages (line / 64) with
      | none => []
      | some n => (g.pages.filter fun p => p.2 == n).map fun p => p.1

/-- Physical pages hold free values (R7, R124; log 3). -/
def State.spoilPages (s : State) (ps : List Nat) : State :=
  ps.foldl (fun (t : State) p =>
    (t.memPut ((List.range 4096).map fun i => (4096 * p + i, (vecBytes (Config.freeBits (t.free + i / 64))).getD (i % 64) 0))).tookMany 64) s

/-- Bytes of one line performed at the home by any agent but the stager: a write into a staging slot leaves the contents of the slot
unpredictable (R7, R124; log 3). -/
def State.homeWrite (s : State) (line : Nat) (ws : List (Nat × Byte)) : State := (s.lineWrite line ws).spoilPages (s.slotPages line)

/-- Bytes from an address on, line by line; n bounds the lines. -/
def State.homePut (s : State) (n pa : Nat) (bytes : List Byte) : State :=
  match n, bytes with
  | 0, _ => s
  | _, [] => s
  | k + 1, bs =>
    let room := 64 - pa % 64
    (s.homeWrite (pa / 64) (addrBytes pa (bs.take room))).homePut k (pa + room) (bs.drop room)
/-- Bytes performed at their homes. -/
def State.putBytes (s : State) (pa : Nat) (bytes : List Byte) : State := s.homePut (bytes.length / 64 + 2) pa bytes

/-- A line is marked poisoned (R389). -/
def State.markPoison (s : State) (line : Nat) : State := { s with poison := mset false s.poison line true }

/-! The store buffer and the L1. -/

/-- The store-buffer entries of a line, oldest first (R108). -/
def sbOf (sb : List SbLine) (line : Nat) : List SbLine := sb.filter fun e => e.line == line
/-- Bytes of a mask that an entry covers, as writes. -/
def SbLine.writes (e : SbLine) : List (Nat × Byte) :=
  (addrBytes (64 * e.line) (vecBytes e.data)).filter fun w => e.mask.getLsbD (w.1 % 64)
/-- The mask of n bytes from off on. -/
def byteMask (off n : Nat) : BitVec 64 := BitVec.ofNat 64 ((2 ^ n - 1) * 2 ^ off)
/-- The line's bytes with an entry's bytes over them. -/
def SbLine.overlay (e : SbLine) (line : List Byte) : List Byte :=
  (List.range 64).map fun i => if e.mask.getLsbD i then (vecBytes e.data).getD i 0 else line.getD i 0

/-- A line's bytes with the bytes of some entries over them, the youngest on top (R108). -/
def overAll (es : List SbLine) (line : List Byte) : List Byte := es.foldl (fun b e => e.overlay b) line
/-- Every one of n bytes of a line from off on lies in some entry. -/
def sbCovers (es : List SbLine) (off n : Nat) : Bool :=
  es.foldl (fun m e => m ||| e.mask) 0 &&& byteMask off n == byteMask off n

/-- A cell's L1 copies of a line take the bytes a leaving store wrote (R108, R134). -/
def Cell.l1Update (c : Cell) (e : SbLine) : Cell :=
  { c with l1 := c.l1.map fun l => if l.line == e.line && l.part == c.tag then { l with data := vecOf (e.overlay (vecBytes l.data)) } else l }

/-- The copies that a cell's L1 has of a line its own context writes at the home are dropped: no later load of the context may return what was
there before (R133, R134; log 5). -/
def State.dropL1 (s : State) (cell line : Nat) : State :=
  let c := s.cell cell
  s.setCell cell { c with l1 := c.l1.filter fun l => !(l.line == line && l.part == c.tag) }

/-- A buffered entry leaves and is performed at its home (R108, R136, R391). -/
def State.drainEntry (s : State) (cell ctx : Nat) (e : SbLine) : State :=
  let x := s.ctx cell ctx
  let s := s.setCtx cell ctx { x with sb := x.sb.erase e }
  let s := s.setCell cell ((s.cell cell).l1Update e)
  (s.homeWrite e.line e.writes).allocIn e.bank (s.cell cell).tag
/-- Every buffered store of a context is performed, the oldest first. -/
def State.drainCtx (s : State) (cell ctx : Nat) : State :=
  (s.ctx cell ctx).sb.foldl (fun s e => s.drainEntry cell ctx e) s
/-- An older entry must leave before a younger one e: before a release store, before a store of its line (R131), and, of two strong stores, before
one to the same bank, whose thread takes an engine's operations in program order (R142). -/
def SbLine.before (f e : SbLine) : Bool := e.ord == .rel || f.line == e.line || (f.ord != .weak && e.ord != .weak && f.bank == e.bank)

/-- The entries of a buffer, given youngest first, that leave when those which p names do: with each the older ones it must follow; oldest first. -/
def sbNeeded (p : SbLine → Bool) : List SbLine → List SbLine → List SbLine
  | [], acc => acc
  | f :: t, acc => sbNeeded p t (if p f || acc.any f.before then f :: acc else acc)

/-- The buffered stores that p names are performed, and those that must be performed before them. -/
def State.drainFor (s : State) (cell ctx : Nat) (p : SbLine → Bool) : State :=
  (sbNeeded p (s.ctx cell ctx).sb.reverse []).foldl (fun s e => s.drainEntry cell ctx e) s
/-- The buffered stores to one line are performed (R131). -/
def State.drainLine (s : State) (cell ctx line : Nat) : State := s.drainFor cell ctx fun e => e.line == line
/-- The buffered stores that come before a strong access of X to a line of a bank: those of the line (R131), and strong ones of the bank (R142). -/
def State.drainBank (s : State) (cell ctx line bank : Nat) : State :=
  s.drainFor cell ctx fun e => e.line == line || (e.ord != .weak && e.bank == bank)

/-- The n-th entry of a store buffer may leave (R131, R142): no older store that must leave before it waits. -/
def sbMayLeave (sb : List SbLine) (n : Nat) : Bool :=
  match sb[n]? with
  | some e => (sb.take n).all fun f => !f.before e
  | none => false

/-- An entry that takes writes of its line. -/
def SbLine.take (e : SbLine) (ws : List (Nat × Byte)) : SbLine :=
  { e with
    data := vecOf (ws.foldl (fun b w => b.set (w.1 % 64) w.2) (vecBytes e.data))
    mask := ws.foldl (fun m w => m ||| 1#64 <<< (w.1 % 64)) e.mask }

/-- Writes of one line enter a buffer (R108, R139, R232): weak ones merge into the line's youngest entry when that holds weak stores;
else they take a free entry; none when all are taken. -/
def sbPut (sb : List SbLine) (line bank : Nat) (ws : List (Nat × Byte)) (ord : Ord) : Option (List SbLine) :=
  let fresh := if sb.length < Config.storeBuffer then some (sb ++ [(SbLine.mk line 0 0 ord bank).take ws]) else none
  let young := sb.reverse
  match young.find? fun e => e.line == line with
  | some e =>
    if e.ord = .weak ∧ ord = .weak then some (young.set (young.findIdx fun f => f.line == line) (e.take ws)).reverse else fresh
  | none => fresh

/-- A store enters its context's buffer; none when it must stall. -/
def State.bufferStore (s : State) (cell ctx : Nat) (l : Loc) (bs : List Byte) (ord : Ord) : Option State :=
  let x := s.ctx cell ctx
  (sbPut x.sb (l.pa / 64) (homeBank l) (addrBytes l.pa bs) ord).map fun sb => s.setCtx cell ctx { x with sb := sb }

/-- Weak writes of one line enter the buffer, which lets its oldest entry leave when it is full (R108). -/
def State.bufferWrites (s : State) (cell ctx line bank : Nat) (ws : List (Nat × Byte)) : State :=
  let put := fun (s : State) => let x := s.ctx cell ctx
    (sbPut x.sb line bank ws .weak).map fun sb => s.setCtx cell ctx { x with sb := sb }
  match put s with
  | some t => t
  | none => match (s.ctx cell ctx).sb with
    | [] => s
    | e :: _ => (put (s.drainEntry cell ctx e)).getD s

/-- A list of bounded length takes an element: in front, or in the place of a free choice when it is full. -/
def capInsert {α : Type} (cap free : Nat) (l : List α) (a : α) : List α :=
  if l.length < cap then a :: l else l.set (Config.freeNat free % cap) a

/-- The acquire horizon of an engine moves to now (R135). -/
def State.acquire (s : State) (cell ctx : Nat) (e : Eng) : State :=
  let x := s.ctx cell ctx
  s.setCtx cell ctx (x.setEng e { x.eng e with horizon := s.now })

/-- The copies of a line that an L1 may serve to an engine: its partition's, their leases running, filled at or after the horizon (R107,
R110, R135). -/
def Cell.l1Hits (c : Cell) (cycle horizon line : Nat) : List L1Line :=
  c.l1.filter fun l => l.line == line && l.part == c.tag && cycle < l.upto && horizon ≤ l.fill

/-- An E holder of a line is snooped to S (R387, R402). -/
def State.snoopE (s : State) (line : Nat) : State :=
  let d := s.dirOf line
  match d.owner with
  | some (a, .e, _) => (s.setDir line { d with owner := none, sharers := a :: d.sharers }).snooped line a fun p => .biSnpData p line
  | _ => s

/-- A cell reads a line of another die's homes through its RDC, a tracked agent that reads shared (R109, R386, R387). -/
def State.throughRdc (s : State) (cell : Nat) (l : Loc) : State :=
  if homeDie l = dieOf cell then s
  else
    let line := l.pa / 64
    let s := (s.snoopRead line).snoopE line
    let d := s.dirOf line
    let agent := 128 + dieOf cell
    let s := s.setDir line { d with sharers := if d.sharers.contains agent then d.sharers else agent :: d.sharers }
    s.allocIn (768 + 32 * dieOf cell + Config.rdcBank line % 32) (s.cell cell).tag

/-- The copy that a weak load hits, of those an L1 may serve, or a miss: R134 allows each, and a free value says which (log 5). -/
def State.l1Choice (s : State) (hits : List L1Line) : State × Option L1Line :=
  match hits with
  | [] => (s, none)
  | _ => (s.took, hits[s.pick (hits.length + 1)]?)

/-- The bytes of a weak load of one line, and whether a byte read is poisoned (R107, R108, R134): the engine's context's own
buffered bytes over an L1 copy or over the line as its home gives it, which then fills the L1 with a lease. -/
def State.weakRead (s : State) (cell ctx : Nat) (e : Eng) (l : Loc) (n : Nat) : State × List Byte × Bool :=
  let c := s.cell cell
  let x := c.ctx ctx
  let line := l.pa / 64
  let off := l.pa % 64
  let own := sbOf x.sb line
  let onto := fun (bs : List Byte) => bslice (overAll own bs) off n
  match s.l1Choice (c.l1Hits s.cycle.toNat (x.eng e).horizon line) with
  | (s, some h) => (s, onto (vecBytes h.data), false)
  | (s, none) =>
    let r := s.homeRead (64 * line) 64
    let s := (r.1.throughRdc cell l).allocIn (homeBank l) c.tag
    if r.2.2 then (s, onto r.2.1, !sbCovers own off n)
    else
      let fill : L1Line := ⟨c.tag, line, vecOf r.2.1, s.now, s.cycle.toNat + c.lease⟩
      let c := s.cell cell
      ((s.setCell cell { c with l1 := capInsert Config.l1Lines s.free c.l1 fill }).took, onto r.2.1, false)

/-! The cell store. -/

/-- Bits lo to lo + n - 1 of a handler table entry or a stream descriptor. -/
def ebits (e : BitVec 256) (lo n : Nat) : Nat := nbits lo n e.toNat

/-- The fields of a handler table entry (R18). -/
def entBnd (e : BitVec 256) : Bool := ebits e 0 1 = 1
def entMsk (e : BitVec 256) : Bool := ebits e 1 1 = 1
def entPri (e : BitVec 256) : Nat := ebits e 2 3
def entAct (e : BitVec 256) : Bool := ebits e 5 1 = 1
def entType (e : BitVec 256) : Nat := ebits e 8 8
def entMbd (e : BitVec 256) : Nat := ebits e 16 10
def entMbb (e : BitVec 256) : Nat := ebits e 32 13
def entEntry (e : BitVec 256) : Nat := ebits e 64 55
def entAfb (e : BitVec 256) : Nat := ebits e 128 13
def entAfs (e : BitVec 256) : Nat := ebits e 141 10

/-- Two byte ranges meet. -/
def meets (a n b m : Nat) : Bool := a < b + m && b < a + n

/-- What makes an entry with BND = 1 invalid (R19). -/
def entInvalid (e : BitVec 256) : Bool :=
  entBnd e && (entMbd e = 0 || ebits e 64 3 ≠ 0 || (entAct e && entAfb e = 0)
    || Config.storeBytes < 64 * entMbb e + 64 * entMbd e
    || (entAct e && Config.storeBytes < 64 * entAfb e + 64 * (entAfs e + 1))
    || Config.launchArea < 64 * entMbb e + 64 * entMbd e
    || (entAct e && Config.launchArea < 64 * entAfb e + 64 * (entAfs e + 1))
    || ebits e 151 105 ≠ 0 || ebits e 119 9 ≠ 0 || ebits e 45 19 ≠ 0 || ebits e 26 6 ≠ 0 || ebits e 6 2 ≠ 0)

/-- An entry that binds its channel: BND = 1 and valid (R19). -/
def entBound (e : BitVec 256) : Bool := entBnd e && !entInvalid e

/-- The first byte and the length of an actor frame (R18). -/
def entFrame (e : BitVec 256) : Nat × Nat := (64 * entAfb e, 64 * (entAfs e + 1))
/-- An entry that binds an actor (R28). -/
def entActor (e : BitVec 256) : Bool := entBound e && entAct e

/-- Some of the bytes lie in an actor frame of a channel other than c and not in c's own frame: frames may overlap (R28, R276). -/
def Cell.frameHit (k : Cell) (c off n : Nat) : Bool :=
  let own := (k.chan c).entry
  k.chans.any fun e => e.1 != c && entActor e.2.entry
    && (let f := entFrame e.2.entry
        let lo := max off f.1
        let hi := min (off + n) (f.1 + f.2)
        lo < hi && !(entActor own && (entFrame own).1 ≤ lo && hi ≤ (entFrame own).1 + (entFrame own).2))
/-- Some bound channel's mailbox region meets the bytes (R19, R104). -/
def Cell.mailHit (k : Cell) (off n : Nat) : Bool :=
  k.chans.any fun e => entBound e.2.entry && meets off n (64 * entMbb e.2.entry) (64 * entMbd e.2.entry)

/-- The mailbox region of a channel overlaps another region, so that its parcels are free values (R7, R19; log 3). -/
def Cell.mailClash (k : Cell) (chan : Nat) : Bool :=
  let e := (k.chan chan).entry
  let off := 64 * entMbb e
  let n := 64 * entMbd e
  k.chans.any fun c => entBound c.2.entry
    && ((c.1 != chan && meets off n (64 * entMbb c.2.entry) (64 * entMbd c.2.entry))
      || (entAct c.2.entry && meets off n (entFrame c.2.entry).1 (entFrame c.2.entry).2))

/-- The cell-store banks of 32 KiB that an access touches wake (R408). -/
def Cell.wakeFor (k : Cell) (off n : Nat) : Cell :=
  { k with pgate := k.pgate &&& ~~~(BitVec.ofNat 12 (2 ^ (off / 0x8000) ||| 2 ^ ((off + n - 1) / 0x8000))) }

/-- Whether a channel's invocation may touch the bytes: inside the store, and in no other channel's frame (R28, R104). -/
def Cell.storeOk (k : Cell) (c off n : Nat) : Bool := off + n ≤ Config.storeBytes && !k.frameHit c off n

def Cell.rawRead (k : Cell) (off n : Nat) : List Byte := (List.range n).map fun i => mget 0 k.store (off + i)
def Cell.rawWrite (k : Cell) (off : Nat) (bs : List Byte) : Cell :=
  { k with store := (addrBytes off bs).foldl (fun m w => mset 0 m w.1 w.2) k.store }

/-- Granules that n bytes from off on touch. -/
def granules (off n : Nat) : List Nat := (List.range ((off + n - 1) / 64 - off / 64 + 1)).map fun i => off / 64 + i
/-- A granule that the bytes touch carries poison (R389). -/
def Cell.storePoison (k : Cell) (off n : Nat) : Bool := (granules off n).any fun g => mget false k.cpoison g

/-- n bytes of a cell's store (R104): bytes of a mailbox region are free values (R7, R104). -/
def State.storeRead (s : State) (cell off n : Nat) : State × List Byte :=
  let k := (s.cell cell).wakeFor off n
  let s := s.setCell cell k
  if k.mailHit off n then
    (s.took, (List.range n).map fun i =>
      if k.mailHit (off + i) 1 then ((vecBytes (Config.freeBits s.free)).getD (i % 64) 0) else mget 0 k.store (off + i))
  else (s, k.rawRead off n)

/-- A write into a mailbox region leaves that mailbox's parcels unpredictable, and loses none (R7, R19, R117; log 3). -/
def State.spoilMail (s : State) (cell off n : Nat) : State :=
  let k := s.cell cell
  if k.mailHit off n then
    let hit := fun (c : Chan) => entBound c.entry && meets off n (64 * entMbb c.entry) (64 * entMbd c.entry)
    let spoil := fun (c : Chan) => { c with mailbox := c.mailbox.mapIdx fun i _ => Config.freeBits (s.free + i) }
    let k := { k with chans := k.chans.map fun e => (e.1, if hit e.2 then spoil e.2 else e.2) }
    { s.setCell cell k with free := s.free + 1024 }
  else s

/-- Bytes written into a cell's store; a whole granule written clears its poison mark (R389). -/
def State.storeWrite (s : State) (cell off : Nat) (bs : List Byte) : State :=
  let k := ((s.cell cell).wakeFor off bs.length).rawWrite off bs
  let full := (granules off bs.length).filter fun g => off ≤ 64 * g && 64 * g + 64 ≤ off + bs.length
  (s.setCell cell { k with cpoison := full.foldl (fun m g => mdel m g) k.cpoison }).spoilMail cell off bs.length

/-- Bytes of a cell's store become free values (R7; log 3). -/
def State.freeStore (s : State) (cell off n : Nat) : State :=
  let bs := (List.range n).map fun i => (vecBytes (Config.freeBits (s.free + i / 64))).getD (i % 64) 0
  (s.setCell cell ((s.cell cell).rawWrite off bs)).tookMany (n / 64 + 1)

/-- The bytes of the actor frames that a channel's mailbox region overlaps become free values (R19). -/
def State.spoilFrames (s : State) (cell chan : Nat) : State :=
  let e := (s.chan cell chan).entry
  (s.cell cell).chans.foldl
    (fun s c =>
      if entActor c.2.entry then
        let f := entFrame c.2.entry
        let lo := max (64 * entMbb e) f.1
        let hi := min (64 * entMbb e + 64 * entMbd e) (f.1 + f.2)
        if lo < hi then s.freeStore cell lo (hi - lo) else s
      else s)
    s

/-- The parcels of every mailbox whose region overlaps another region are free values, and so are the frame bytes there (R19; log 3). -/
def State.spoilClashes (s : State) (cell : Nat) : State :=
  let k := s.cell cell
  ((k.chans.filter fun c => entBound c.2.entry && k.mailClash c.1)).foldl
    (fun s c =>
      let h := s.chan cell c.1
      let s := (s.setChan cell c.1 { h with mailbox := h.mailbox.mapIdx fun i _ => Config.freeBits (s.free + i) }).tookMany 1024
      s.spoilFrames cell c.1)
    s

end Sys2Proof.Machine
end

