-- ==== Sys2Proof/Machine/Translate.lean ====
section
/-! DEFINITION. Address translation: the five-level walk, stage 2, placement and first touch, and the TLBs (R101, R368 to R380,
R427). -/

namespace Sys2Proof.Machine
open Sys2Proof

/-- Bits [63:57] all equal bit 56 (R101). -/
def canonical (va : Word) : Bool := va == (va.setWidth 57).signExtend 64

/-- Stage 2 (R374): the physical address of an IA, and whether it is LPDDR6-backed. -/
def stage2 (g : Segment) (ia : Nat) : Option (Nat × Bool) :=
  if ia < g.hsize then
    if inMemory (g.hbase + ia) then some (g.hbase + ia, false) else none
  else if 0x20000000000 ≤ ia ∧ ia < 0x20000000000 + g.lsize then
    let pa := g.lbase + (ia - 0x20000000000)
    if inMemory pa then some (pa, true) else none
  else none

/-- A number of n bytes as memory holds it now. -/
def State.latestNat (s : State) (pa n : Nat) : Nat := leNat ((List.range n).map fun i => s.latest (pa + i))

/-- A translation: its result, or why it fails; with what the walk leaves in the state either way (R373, R391). -/
abbrev XRes (α : Type) := Except (Why × State) (α × State)

/-- The home of a line that the device reaches by a physical address of its own. -/
def physLoc (pa : Nat) (lp : Bool) : Loc := ⟨pa, if lp then .lodge else .interleave⟩

/-- A table read at walk level L (R369, R379): the entry's physical address and its value. -/
def State.readTable (s : State) (pid : Nat) (g : Segment) (ia level : Nat) : XRes (Nat × Nat) :=
  match stage2 g ia with
  | none => .error (⟨0x12, 6, level, 0, 0, 0⟩, s)
  | some (pa, lp) =>
    let s := (s.snoopRead (pa / 64)).allocIn (homeBank (physLoc pa lp)) pid
    if s.poisoned (pa / 64) then .error (⟨0x13, 6, 0xFF, 0, 0, 0⟩, s) else .ok ((pa, s.latestNat pa 8), s)

/-- One level of the walk of R369 below the table at t: the leaf with its entry's place, or the next table. -/
def State.walkLevel (s : State) (pid : Nat) (g : Segment) (va t level : Nat) : XRes (Sum (Nat × Nat) Nat) :=
  let i := if level = 4 then nbits 48 9 va else nbits (9 * level + 12) 9 va
  match s.readTable pid g (t + 8 * i) level with
  | .error w => .error w
  | .ok ((pa, e), s) =>
    if nbits 0 1 e = 0 then .error (⟨0x10, 6, level, 0, 0, 0⟩, s)
    else if nbits 1 3 e = 0 then
      if level = 0 ∨ nbits 1 11 e ≠ 0 ∨ nbits 52 12 e ≠ 0 then .error (⟨0x11, 6, level, 0, 0, 3⟩, s)
      else .ok (.inr (nbits 12 40 e * 4096), s)
    else if 3 ≤ level then .error (⟨0x11, 6, level, 0, 0, 3⟩, s)
    else .ok (.inl (pa, e), s)

/-- The walk from a level down (R369): the leaf's level, its entry's physical address, and the entry. -/
def State.walk (s : State) (pid : Nat) (g : Segment) (va : Nat) : Nat → Nat → XRes (Nat × Nat × Nat)
  | 0, t =>
    match s.walkLevel pid g va t 0 with
    | .error w => .error w
    | .ok (.inl r, s) => .ok ((0, r), s)
    | .ok (.inr _, s) => .error (⟨0x11, 6, 0, 0, 0, 3⟩, s)
  | l + 1, t =>
    match s.walkLevel pid g va t (l + 1) with
    | .error w => .error w
    | .ok (.inl r, s) => .ok ((l + 1, r), s)
    | .ok (.inr t', s) => s.walk pid g va l t'

/-- The bytes of a page of a SIZE code, and the level it appears at (R371). -/
def pageBytes : Nat → Option (Nat × Nat)
  | 0 => some (0x1000, 0)
  | 1 => some (0x4000, 0)
  | 2 => some (0x10000, 0)
  | 3 => some (0x200000, 1)
  | 4 => some (0x2000000, 1)
  | 5 => some (0x40000000, 2)
  | 6 => some (0x400000000, 2)
  | _ => none

/-- The level of a leaf of so many bytes. -/
def levelOf (size : Nat) : Nat := if size ≤ 0x10000 then 0 else if size ≤ 0x2000000 then 1 else 2

/-- What R372 grants: R, W, X, U are bits 0 to 3 of perm. -/
def grants (perm : BitVec 4) (need : Need) (kmode : Bool) : Bool :=
  (match need with
   | .fetch => perm.getLsbD 2
   | .read => perm.getLsbD 0
   | .write => perm.getLsbD 1
   | .readWrite => perm.getLsbD 0 && perm.getLsbD 1)
  && (kmode || perm.getLsbD 3)

/-- A need includes write (R373). -/
def needWrites : Need → Bool
  | .fetch | .read => false
  | .write | .readWrite => true

/-- A malformed placement (cause 4 of R382). -/
def whyPlace (level : Nat) : Why := ⟨0x11, 6, level, 0, 0, 4⟩

/-- The register value a translation uses: the new one, or one it replaced that no tlbinv.part has retired since (R368). -/
def State.rootOf (s : State) (new : Word) (olds : List Word) : Nat :=
  ((new :: olds).getD (if olds.isEmpty then 0 else s.pick (olds.length + 1)) new).toNat

/-- A first-touch record (R377): SET, and the bits that are zero. -/
def recSet (r : Nat) : Bool := nbits 15 1 r = 1
def recClean (r : Nat) : Bool := nbits 10 5 r = 0

/-- The record of a page under PLC 11 (R112, R377), at a physical address: the slice id that every access uses. The first
translation that finds 0 writes it, unless the access is speculative; a cas that finds another value uses that value. A value found with
SET = 0 or a reserved bit set is malformed (DEDUCED, log 49). own names the id this access would record. -/
def State.firstTouch (s : State) (spec : Bool) (pa own : Nat) : State × Option Nat :=
  let r := s.latestNat pa 2
  if r = 0 then (if spec then s else s.putBytes pa (leBytes 2 (0x8000 + own)), some own)
  else if recSet r && recClean r then (s, some (nbits 0 10 r))
  else (s, none)

/-- The placement of an HBM-backed leaf of level L (R111, R112, R376, R377): code, parameter, the page's base. A first touch by a cell
whose nearest slice the partition does not hold raises cause 4 and leaves no record (DESIGN CHOICE, log 50). -/
def State.placement (s : State) (pid : Nat) (p : Part) (cell : Option Nat) (spec : Bool) (level code pp vbase : Nat) : XRes Place :=
  if code = 0 then .ok (.interleave, s)
  else
    let bad := fun (s : State) => (.error (whyPlace level, s) : XRes Place)
    let tab := s.rootOf p.plctab p.ploldl
    if tab = 0 then bad s
    else match stage2 p.seg (tab / 4096 % 2 ^ 40 * 4096 + 64 * pp) with
    | none => .error (⟨0x12, 6, 5, 0, 0, 0⟩, s)
    | some (pa, lp) =>
      let s := (s.snoopRead (pa / 64)).allocIn (homeBank (physLoc pa lp)) pid
      if s.poisoned (pa / 64) then .error (⟨0x13, 6, 0xFF, 0, 0, 0⟩, s)
      else
        let b := (List.range 64).map fun i => s.latest (pa + i)
        let kind := bnat b 0 1
        let n := bnat b 1 1
        let ids := (List.range n).map fun i => bnat b (2 + 2 * i) 2
        let okId := fun (i : Nat) => i ≤ 767 && p.slices.contains i
        let restZero := bnat b (2 + 2 * n) (62 - 2 * n) = 0
        if code = 1 ∧ kind = 1 ∧ 1 ≤ n ∧ n ≤ 31 ∧ ids.all okId ∧ restZero then .ok (.hash n ids, s)
        else if code = 2 ∧ kind = 2 ∧ n = 1 ∧ ids.all okId ∧ restZero then .ok (.slice (ids.getD 0 0), s)
        else if code = 3 ∧ kind = 3 ∧ n = 0 ∧ bnat b 2 6 = 0 ∧ bnat b 28 36 = 0 ∧ bnat b 8 8 % 64 = 0
            ∧ bnat b 16 8 % 4096 = 0 ∧ 1 ≤ bnat b 24 4 then
          let ftva := bnat b 16 8
          if vbase < ftva ∨ ftva + 4096 * bnat b 24 4 ≤ vbase then bad s
          else match stage2 p.seg (bnat b 8 8 + 2 * ((vbase - ftva) / 4096)) with
          | none => .error (⟨0x12, 6, 5, 0, 0, 0⟩, s)
          | some (ra, rlp) =>
            let own := (cell.map sliceNear).getD 1023
            let s := s.allocIn (homeBank (physLoc ra rlp)) pid
            if s.poisoned (ra / 64) then .error (⟨0x13, 6, 0xFF, 0, 0, 0⟩, s)
            else if s.latestNat ra 2 = 0 ∧ own ≠ 1023 ∧ !okId own then bad s
            else match s.firstTouch spec ra own with
            | (s, none) => bad s
            | (s, some id) => if id = 1023 then .ok (.interleave, s) else if okId id then .ok (.slice id, s) else bad s
        else bad s

/-- How a walk ends that raises no trap: with a translation, which may be installed when the whole page passes stage 2, or, for a
speculative access, at a leaf with A = 0 (R380). -/
inductive Walked where | entry (e : TlbE) (install : Bool) | stopped
  deriving DecidableEq, Repr

/-- A translation of an address that is not canonical fails before the walk (R101). -/
def whyCanonical (va : Word) : Why := ⟨0x11, 6, 4, va, 0, 1⟩

/-- A walk sets A, and D for a need that writes, in a leaf that grants the access (R373). -/
def State.markLeaf (s : State) (pa e : Nat) (need : Need) : State :=
  let e' := e + (if nbits 5 1 e = 0 then 32 else 0) + (if nbits 6 1 e = 0 ∧ needWrites need then 64 else 0)
  if e' = e then s else s.putBytes pa (leBytes 8 e')

/-- A whole translation (R101, R369 to R377): partition, the cell it runs for, mode, need, and whether it is speculative. -/
def State.translate (s : State) (pid : Nat) (cell : Option Nat) (kmode : Bool) (need : Need) (spec : Bool) (va : Word) : XRes Walked :=
  let p := s.part pid
  if !canonical va then .error (whyCanonical va, s)
  else
    let v := va.toNat
    let root := s.rootOf p.s1root p.s1olds
    let s := if p.s1olds.isEmpty ∧ p.ploldl.isEmpty then s else s.took
    if nbits 12 40 root = 0 then .error (⟨0x10, 6, 4, va, 0, 0⟩, s)
    else match s.walk pid p.seg v 4 (nbits 12 40 root * 4096) with
    | .error (w, s) => .error ({ w with va := va }, s)
    | .ok ((level, pa, e), s) =>
      match pageBytes (nbits 53 3 e) with
      | none => .error (⟨0x11, 6, level, va, 0, 3⟩, s)
      | some (size, lv) =>
        let ia := nbits 12 40 e * 4096
        let perm := BitVec.ofNat 4 (nbits 1 4 e)
        if lv ≠ level ∨ nbits 52 1 e ≠ 0 ∨ nbits 7 5 e ≠ 0 ∨ (nbits 2 1 e = 1 ∧ nbits 1 1 e = 0) ∨ ia % size ≠ 0 then
          .error (⟨0x11, 6, level, va, 0, 3⟩, s)
        else if !grants perm need kmode then .error (⟨0x11, 6, level, va, 0, 2⟩, s)
        else
          let s := if spec then s else s.markLeaf pa e need
          match stage2 p.seg (ia + v % size) with
          | none => .error (⟨0x12, 6, 5, va, 0, 0⟩, s)
          | some (bpa, lp) =>
            if spec ∧ nbits 5 1 e = 0 then .ok (.stopped, s)
            else
              let placed := if lp then .ok (Place.lodge, s)
                else s.placement pid p cell spec level (nbits 56 2 e) (nbits 58 6 e) (v - v % size)
              match placed with
              | .error (w, s) => .error ({ w with va := va }, s)
              | .ok (pl, s) =>
                let dirty := nbits 6 1 e == 1 || needWrites need
                let whole := match stage2 p.seg ia, stage2 p.seg (ia + size - 1) with
                  | some (a, x), some (b, y) => x == y && b == a + size - 1
                  | _, _ => false
                .ok (.entry ⟨pid, v - v % size, size, bpa - v % size, perm, pl, dirty⟩ whole, s)

/-- The place of an address under an entry. -/
def TlbE.loc (e : TlbE) (va : Word) : Loc := ⟨e.pbase + (va.toNat - e.vbase), e.place⟩

/-- An entry translates an address of its partition; one with D = 0 serves no write (R373, R378). -/
def TlbE.serves (e : TlbE) (pid : Nat) (need : Need) (va : Word) : Bool :=
  e.part == pid && e.vbase ≤ va.toNat && va.toNat < e.vbase + e.size && (e.dirty || !needWrites need)

/-- A TLB takes an entry in place of older ones of the same page. -/
def tlbPut (cap free : Nat) (l : List TlbE) (e : TlbE) : List TlbE :=
  capInsert cap free (l.filter fun f => !(f.part == e.part && f.vbase == e.vbase && f.size == e.size)) e

/-- An entry enters a cell's instruction or data TLB (R378). -/
def State.tlbFill (s : State) (cell : Nat) (need : Need) (e : TlbE) : State :=
  let c := s.cell cell
  let c := match need with
    | .fetch => { c with itlb := tlbPut Config.itlbEntries s.free c.itlb e }
    | .read | .write | .readWrite => { c with dtlb := tlbPut Config.dtlbEntries s.free c.dtlb e }
  (s.setCell cell c).took

/-- A translation of a cell in a mode: its TLBs, the L2 TLB of its group, then a walk (R378). touch names the cell whose first touch the
walk records (R112). -/
def State.xlateBy (s : State) (touch : Option Nat) (cell : Nat) (kmode : Bool) (need : Need) (va : Word) : XRes Loc :=
  let c := s.cell cell
  let tlb := match need with
    | .fetch => c.itlb
    | .read | .write | .readWrite => c.dtlb
  let l2 := mget [] s.l2tlbs (tlbGroup cell)
  let use := fun (e : TlbE) (s : State) =>
    if grants e.perm need kmode then (.ok (e.loc va, s) : XRes Loc)
    else .error (⟨0x11, 6, levelOf e.size, va, 0, 2⟩, s)
  if !canonical va then .error (whyCanonical va, s)
  else match tlb.find? fun e => e.serves c.tag need va with
  | some e => use e s
  | none => match l2.find? fun e => e.serves c.tag need va with
    | some e => use e (s.tlbFill cell need e)
    | none => match s.translate c.tag touch kmode need false va with
      | .error w => .error w
      | .ok (.stopped, s) => .error (⟨0x10, 6, 0, va, 0, 0⟩, s)
      | .ok (.entry e whole, s) =>
        if whole then
          let s := s.tlbFill cell need e
          let s := { s with l2tlbs := mput s.l2tlbs (tlbGroup cell) (tlbPut Config.l2tlbEntries s.free (mget [] s.l2tlbs (tlbGroup cell)) e) }
          .ok (e.loc va, s.took)
        else .ok (e.loc va, s)

/-- A translation for an access of a cell. -/
def State.xlate (s : State) (cell : Nat) (kmode : Bool) (need : Need) (va : Word) : XRes Loc := s.xlateBy (some cell) cell kmode need va

/-- A translation for an agent of the device, for a partition (R427). Under placement code 11 an agent that R112 and R377 do not name (the endpoint,
a fault-buffer or host access, the scale read of a copy-landing stream) records interleaving as a copy streamer does (DESIGN CHOICE, log 78). -/
def State.xlateDev (s : State) (pid : Nat) (kmode : Bool) (need : Need) (va : Word) : XRes Loc :=
  match s.translate pid none kmode need false va with
  | .error w => .error w
  | .ok (.stopped, s) => .error (⟨0x10, 6, 0, va, 0, 0⟩, s)
  | .ok (.entry e _, s) => .ok (e.loc va, s)

/-- The pieces of n bytes from va on, cut at 4 KiB boundaries; fuel bounds them. -/
def pageCuts : Nat → Word → Nat → List (Word × Nat)
  | 0, _, _ => []
  | f + 1, va, n =>
    if n = 0 then []
    else
      let room := 4096 - va.toNat % 4096
      if n ≤ room then [(va, n)] else (va, room) :: pageCuts f (va + BitVec.ofNat 64 room) (n - room)

/-- The places of n bytes of an agent of the device, page by page, with their lengths: none when a translation fails (R427). -/
def State.devPlaces (s : State) (pid : Nat) (kmode : Bool) (need : Need) (va : Word) (n : Nat) : State × Option (List (Loc × Nat)) :=
  (pageCuts (n / 4096 + 2) va n).foldl
    (fun acc c => match acc with
      | (s, none) => (s, none)
      | (s, some ls) => match s.xlateDev pid kmode need c.1 with
        | .error (_, s) => (s, none)
        | .ok (l, s) => (s.allocIn (homeBank l) pid, some (ls ++ [(l, c.2)])))
    (s, some [])

/-- The lines that some places touch. -/
def placeLines (ls : List (Loc × Nat)) : List Nat := ls.flatMap fun l => granules l.1.pa l.2
/-- The bytes at some places as their homes give them. -/
def State.placeBytes (s : State) (ls : List (Loc × Nat)) : List Byte := ls.flatMap fun l => (List.range l.2).map fun i => s.latest (l.1.pa + i)

/-- The state of the staging slot that a physical address lies in, when the partition's stager knows it (R123). -/
def State.stageAt (s : State) (pid pa : Nat) : Option StageSt :=
  match (s.part pid).sched with
  | none => none
  | some g => if g.bad then none else (mfind g.pages (pa / 4096)).bind fun n => mfind g.slots n

/-- A place lies in a staging slot in a state that f accepts. -/
def State.placeStaged (s : State) (pid : Nat) (f : StageSt → Bool) (ls : List (Loc × Nat)) : Bool :=
  ls.any fun l => (s.stageAt pid l.1.pa).any f

def StageSt.isPending : StageSt → Bool
  | .pending _ _ => true
  | .ready _ | .failed _ => false
def StageSt.isFailed : StageSt → Bool
  | .failed _ => true
  | .ready _ | .pending _ _ => false

/-- The pending staging slots that some physical addresses lie in (R124). -/
def State.pendingSlots (s : State) (pid : Nat) (pas : List Nat) : List Nat :=
  match (s.part pid).sched with
  | none => []
  | some g =>
    if g.bad then []
    else ((pas.filterMap fun pa => mfind g.pages (pa / 4096)).filter fun n => (mfind g.slots n).any StageSt.isPending).eraseDups

/-- n bytes read for an agent of the device, with whether a line is poisoned or lies in a failed staging slot (R125): none when a
translation fails (R427). -/
def State.devRead (s : State) (pid : Nat) (kmode : Bool) (va : Word) (n : Nat) : State × Option (List Byte × Bool) :=
  match s.devPlaces pid kmode .read va n with
  | (s, none) => (s, none)
  | (s, some ls) =>
    ((placeLines ls).foldl State.snoopRead s,
      some (s.placeBytes ls, (placeLines ls).any s.poisoned || s.placeStaged pid StageSt.isFailed ls))

/-- The pending staging slots that a read of n bytes would wait on (R124). -/
def State.devPending (s : State) (pid : Nat) (va : Word) (n : Nat) : List Nat :=
  ((s.devPlaces pid false .read va n).2.map fun ls => s.pendingSlots pid (ls.map fun l => l.1.pa)).getD []

/-- Bytes written for an agent of the device, and whether they were: when a translation fails nothing is written. -/
def State.devWrite (s : State) (pid : Nat) (kmode : Bool) (va : Word) (bs : List Byte) : State × Bool :=
  match s.devPlaces pid kmode .write va bs.length with
  | (s, none) => (s, false)
  | (s, some ls) =>
    ((ls.foldl (fun (acc : State × List Byte) l => (acc.1.putBytes l.1.pa (acc.2.take l.2), acc.2.drop l.2)) (s, bs)).1, true)

/-! The pages of a staging area (R123, R125, R380). -/

/-- A speculative translation of the stager (R125, R380): it sets no bit; none when it would fault, stops at a leaf with A = 0, or does not
lie in the tier that is asked for. -/
def State.stagePage (s : State) (pid : Nat) (need : Need) (lodge : Bool) (va : Word) : State × Option Loc :=
  match s.translate pid none false need true va with
  | .ok (.entry e _, s) => (s, if (e.place == .lodge) == lodge then some (e.loc va) else none)
  | .ok (.stopped, s) => (s, none)
  | .error (_, s) => (s, none)

/-- The two pages of an 8 KiB tile or slot. -/
def tilePages (va : Word) : List Word := [va, va + 4096]

/-- The address of a staging slot. -/
def Stager.slotVa (g : Stager) (n : Nat) : Word := g.stage + BitVec.ofNat 64 (8192 * n)

/-- The physical pages of every slot of a staging area, as the tables stand (R123). -/
def State.stagePages (s : State) (pid : Nat) (g : Stager) : State × SMap Nat :=
  (List.range g.nslot).foldl (fun r n => (tilePages (g.slotVa n)).foldl (fun (r : State × SMap Nat) v =>
    match r.1.stagePage pid .write false v with
    | (s, some l) => (s, mput r.2 (l.pa / 4096) n)
    | (s, none) => (s, r.2)) r) (s, [])

/-- The translations that a partition's stager holds are dropped and read again (R346, R375). -/
def State.restage (s : State) (pid : Nat) : State :=
  match (s.part pid).sched with
  | none => s
  | some g =>
    if g.bad then s
    else
      let (s, pages) := s.stagePages pid g
      s.setPart pid { s.part pid with sched := some { g with pages := pages } }

end Sys2Proof.Machine
end

