-- ==== Sys2Proof/Machine/Deliver.lean ====
section
/-! DEFINITION. Parcels on their way (R11 to R16, R26, R45, R384), the state of a channel's mailbox (R16, R20), and fault records with
the ring they go to (R381 to R384). -/

namespace Sys2Proof.Machine
open Sys2Proof

/-! The header of a parcel (R11). -/
def hDest (h : Word) : Nat := nbits 0 16 h.toNat
def hChan (h : Word) : Nat := nbits 16 8 h.toNat
def hType (h : Word) : Nat := nbits 24 8 h.toNat
def hSrc (h : Word) : Nat := nbits 32 16 h.toNat
def hPart (h : Word) : Nat := nbits 48 5 h.toNat
def hF8m (h : Word) : Bool := nbits 53 1 h.toNat = 1
def hCmpl (h : Word) : Bool := nbits 55 1 h.toNat = 1
def parcelHdr (p : Vec) : Word := p.setWidth 64
/-- The header with the fields the hardware writes (R11). -/
def mkHdr (seq : Nat) (cmpl trap f8m : Bool) (part src typ chan dest : Nat) : Word :=
  BitVec.ofNat 64 (dest % 65536 + chan % 256 * 2 ^ 16 + typ % 256 * 2 ^ 24 + src % 65536 * 2 ^ 32 + part % 32 * 2 ^ 48
    + f8m.toNat * 2 ^ 53 + trap.toNat * 2 ^ 54 + cmpl.toNat * 2 ^ 55 + seq % 256 * 2 ^ 56)
/-- A parcel of a header and payload bytes 8 to 63; missing bytes are zero. -/
def mkParcel (h : Word) (payload : List Byte) : Vec := vecOf (leBytes 8 h.toNat ++ payload.take 56)
/-- A parcel with another header. -/
def withHdr (p : Vec) (h : Word) : Vec := mkParcel h ((vecBytes p).drop 8)
def zeros (n : Nat) : List Byte := List.replicate n 0

/-- A type tag of the device (R12). -/
def deviceTag (t : Nat) : Bool := 0xF0 ≤ t

/-- A free mailbox entry exists that no deferred parcel waits for (R16). -/
def Chan.room (c : Chan) : Bool := c.mailbox.length < entMbd c.entry && c.deferred.isEmpty

/-- What a channel answers to an arriving parcel (R13, R20): 0 accepted, 2 wrong type, 3 unbound, 5 deferred. -/
def Cell.answer (k : Cell) (chan typ : Nat) : Nat :=
  let c := k.chan chan
  if 63 < chan ∨ !entBound c.entry then 3
  else if typ ≠ entType c.entry then 2
  else if c.room then 0 else 5

/-- A parcel enters a mailbox: Idle becomes Runnable (R20). -/
def Chan.enqueue (c : Chan) (p : Vec) : Chan :=
  { c with mailbox := c.mailbox ++ [p], st := if c.st = .idle then .runnable else c.st }

/-- A parcel enters a mailbox of a cell. Where the mailbox region overlaps another region, the parcels there and the frame bytes are free
values (R19). -/
def State.enqueue (s : State) (cell chan : Nat) (p : Vec) : State :=
  let t := s.setChan cell chan ((s.chan cell chan).enqueue p)
  if (s.cell cell).mailClash chan then t.spoilClashes cell else t

/-- A parcel starts on its way. part is the partition whose table resolves its DEST (R357). -/
def State.launchFlight (s : State) (p : Vec) (part : Nat) (o : Origin) : State :=
  { s.bump with flights := s.flights ++ [⟨s.serial, p, part, o, .way, part, parcelHdr p, false⟩] }

/-- The number the next flight takes. -/
def State.nextFlight (s : State) : Nat := s.serial

/-- A fault record (R382), without its sequence number. -/
def mkRecord (code eng ctx chan lcell acc level : Nat) (va pc detail phdr : Word) (time : Word) (flags cause : Nat) : Record :=
  vecOf (leBytes 1 code ++ leBytes 1 eng ++ leBytes 1 ctx ++ leBytes 1 chan ++ leBytes 2 lcell ++ leBytes 1 acc ++ leBytes 1 level
    ++ leBytes 8 va.toNat ++ leBytes 8 pc.toNat ++ leBytes 8 detail.toNat ++ leBytes 8 phdr.toNat ++ zeros 8 ++ leBytes 8 time.toNat
    ++ leBytes 1 flags ++ leBytes 1 cause)
/-- A record as it enters the ring: its number, and FLAGS[1] when it was held (R383). -/
def stampRecord (r : Record) (seq : Nat) (held : Bool) : List Byte :=
  let b := vecBytes r
  b.take 40 ++ leBytes 8 seq ++ bslice b 48 8 ++ [b.getD 56 0 ||| (if held then 2 else 0)] ++ b.drop 57
/-- TIME of a record. -/
def recTime (r : Record) : Nat := bnat (vecBytes r) 48 8

/-- The fault buffer header (R381): its physical address and fields. -/
structure FbHdr where
  pa    : Nat
  ring  : Word
  logn  : Nat
  kch   : Nat
  kcell : Nat
  stype : Nat
  head  : Nat
  tail  : Nat
  held  : Nat
  ovf   : Nat
  seq   : Nat
  deriving DecidableEq, Repr, Inhabited

/-- An entry of Belvedere's hypervisor event queue. -/
def State.hypEvent (s : State) (e : HypEvent) : State := { s with hypEvents := s.hypEvents ++ [e] }

/-- The partition's fault buffer header, when there is one that is valid (R381). A fault on it is reported to Belvedere. -/
def State.fbHeader (s : State) (pid : Nat) : State × Option FbHdr :=
  let va := (s.part pid).fbhdr &&& ~~~63#64
  if va = 0 then (s, none)
  else match s.xlateDev pid true .readWrite va with
  | .error (_, s) => (s.hypEvent (.ringFault pid), none)
  | .ok (l, s) =>
    if s.poisoned (l.pa / 64) then (s.hypEvent (.ringFault pid), none)
    else
      let b := (List.range 64).map fun i => s.latest (l.pa + i)
      let h : FbHdr := ⟨l.pa, BitVec.ofNat 64 (bnat b 0 8), bnat b 8 1, bnat b 9 1, bnat b 10 2, bnat b 12 1, bnat b 16 4, bnat b 20 4,
        bnat b 24 4, bnat b 28 4, bnat b 32 8⟩
      if bnat b 13 3 ≠ 0 ∨ bnat b 40 24 ≠ 0 ∨ h.logn < 4 ∨ 16 < h.logn ∨ 0xF0 ≤ h.stype ∨ h.ring.toNat % 64 ≠ 0 then (s, none)
      else (s, some h)

/-- A status parcel (R384). -/
def State.statusParcel (s : State) (pid : Nat) (h : FbHdr) : State :=
  s.launchFlight (mkParcel (mkHdr 0 false false false pid 0xFFFF h.stype h.kch h.kcell)
    (leBytes 4 h.tail ++ leBytes 4 h.head ++ leBytes 4 h.held ++ leBytes 4 h.ovf)) pid .status

/-- A record is written into the ring of a header when there is room (R383): the state after, and whether it was. -/
def State.ringPut (s : State) (pid : Nat) (h : FbHdr) (r : Record) (held : Bool) : State × Bool :=
  if 2 ^ h.logn ≤ (h.tail + 2 ^ 32 - h.head) % 2 ^ 32 then (s, false)
  else match s.xlateDev pid true .write (h.ring + BitVec.ofNat 64 (64 * (h.tail % 2 ^ h.logn))) with
  | .error (_, s) => (s.hypEvent (.ringFault pid), false)
  | .ok (l, s) =>
    let s := s.putBytes l.pa (stampRecord r h.seq held)
    let h' := { h with tail := (h.tail + 1) % 2 ^ 32, seq := (h.seq + 1) % 2 ^ 64, held := if held then h.held - 1 else h.held }
    let s := s.putBytes (h.pa + 20) (leBytes 4 h'.tail ++ leBytes 4 h'.held ++ leBytes 4 h'.ovf ++ leBytes 8 h'.seq)
    (if h.tail = h.head then s.statusParcel pid h' else s, true)

/-- A hold is counted in the header, and a status parcel sent (R383). -/
def State.countHold (s : State) (pid : Nat) (h : FbHdr) : State :=
  let h' := { h with held := (h.held + 1) % 2 ^ 32, ovf := (h.ovf + 1) % 2 ^ 32 }
  (s.putBytes (h.pa + 24) (leBytes 4 h'.held ++ leBytes 4 h'.ovf)).statusParcel pid h'

/-- HELD of the header falls or rises by 1 as a held record leaves or returns with its context (R349, R352). -/
def State.adjustHeld (s : State) (pid : Nat) (up : Bool) : State :=
  match s.fbHeader pid with
  | (s, none) => s
  | (s, some h) => s.putBytes (h.pa + 24) (leBytes 4 (if up then h.held + 1 else h.held - 1))

/-- A fault-buffer delivery (R383): the record enters the ring, or hold says who keeps it; a buffer that is there counts the hold. -/
def State.deliver (s : State) (pid : Nat) (r : Record) (hold : State → State) : State :=
  match s.fbHeader pid with
  | (s, none) => hold s
  | (s, some h) => match s.ringPut pid h r false with
    | (s, true) => s
    | (s, false) => hold (s.countHold pid h)

/-- A device agent keeps the record (R45). -/
def State.holdDev (pid : Nat) (r : Record) (s : State) : State :=
  s.setPart pid { s.part pid with heldDev := (s.part pid).heldDev ++ [r] }

/-- An escalated record is held with its context (R383), which takes no dispatch until it is written (R27); one context may hold several
(log 13). -/
def State.holdEsc (cell ctx : Nat) (r : Record) (s : State) : State :=
  let x := s.ctx cell ctx
  s.setCtx cell ctx { x with esc := x.esc ++ [r] }

/-- A refused parcel of the device itself goes to the fault buffer as an escalated record with ENG 3 (R45, R50, R303, R382). -/
def State.escalateDev (s : State) (pid code lcell chan : Nat) (detail : Word) : State :=
  let r := mkRecord code 3 0 chan lcell 6 0xFF 0 0 detail 0 s.time 1 0
  s.deliver pid r (State.holdDev pid r)

end Sys2Proof.Machine
end

