-- ==== Sys2Proof/Machine/StreamOps.lean ====
section
/-! DEFINITION. Streams: descriptors, the addresses of element groups, the landing of loads and the writing of stores
(R66 to R71, R243, R426). -/

namespace Sys2Proof.Machine
open Sys2Proof

/-- The width in bits of an element type (R78). -/
def tyBits : Nat → Nat
  | 0 | 4 | 8 | 9 => 8
  | 1 | 5 | 10 | 11 => 16
  | 2 | 6 | 12 | 14 => 32
  | 3 | 7 | 13 => 64
  | _ => 0

/-! The fields of a stream descriptor (R66). -/
def dBase (d : BitVec 256) : Nat := ebits d 0 64
def dKind (d : BitVec 256) : Nat := ebits d 64 3
def dAcq (d : BitVec 256) : Bool := ebits d 71 1 = 1
def dFmt (d : BitVec 256) : Nat := ebits d 76 4
def dDepth (d : BitVec 256) : Nat := ebits d 96 8
def dRows (d : BitVec 256) : Nat := ebits d 112 16
def dCols (d : BitVec 256) : Nat := ebits d 128 16
def dScStr (d : BitVec 256) : Nat := ebits d 144 16
def dStride (d : BitVec 256) : Int := (BitVec.ofNat 32 (ebits d 160 32)).toInt
def dScBase (d : BitVec 256) : Nat := ebits d 192 64

/-- Bytes of a row, and groups of a row (R243). -/
def dRowBytes (d : BitVec 256) : Nat := dCols d * tyBits (dFmt d) / 8
def dGroups (d : BitVec 256) : Nat := (dRowBytes d + 63) / 64

/-- Kinds of the cell store (R67). -/
def dCellKind (d : BitVec 256) : Bool := dKind d = 3 || dKind d = 4 || dKind d = 5
def dLoadKind (d : BitVec 256) : Bool := dKind d = 1 || dKind d = 3 || dKind d = 5
def dStoreKind (d : BitVec 256) : Bool := dKind d = 2 || dKind d = 4

/-- An invalid descriptor (R67). -/
def dInvalid (d : BitVec 256) : Bool :=
  let last := (dBase d : Int) + dStride d * ((dRows d : Int) - 1)
  ebits d 104 8 ≠ 0 || ebits d 80 16 ≠ 0 || ebits d 75 1 ≠ 0 || ebits d 67 4 ≠ 0
    || dKind d = 0 || 6 ≤ dKind d || 5 ≤ ebits d 72 3 || dFmt d = 15
    || dDepth d = 0 || 8 < dDepth d || dRows d = 0 || dCols d = 0 || dCols d * tyBits (dFmt d) % 8 ≠ 0
    || (dCellKind d && (ebits d 19 45 ≠ 0 || last < 0 || (Config.storeBytes : Int) < last + dRowBytes d
        || Config.storeBytes < dBase d + dRowBytes d))

/-- The row, the piece, the first byte's address modulo 2^64, and the bytes of group i (R243). -/
structure GroupAt where
  row  : Nat
  p    : Nat
  addr : Word
  len  : Nat
  deriving DecidableEq, Repr

def groupAt (d : BitVec 256) (i : Nat) : GroupAt :=
  let g := dGroups d
  let r := i / g
  let p := i % g
  ⟨r, p, BitVec.ofInt 64 ((dBase d : Int) + r * dStride d + 64 * p), min 64 (dRowBytes d - 64 * p)⟩

/-- Counts of a stream wrap at 2^16 (R68): the entries between TAIL and HEAD, and the groups between NEXT and HEAD. -/
def Stream.fill (t : Stream) : Nat := (t.tail - t.head).toNat
def Stream.ahead (t : Stream) : Nat := (t.next - t.head).toNat
def Stream.isLoad (t : Stream) : Bool := t.st == .opened && dLoadKind t.desc
def Stream.isStore (t : Stream) : Bool := t.st == .opened && dStoreKind t.desc

/-- An entry whose 64 bytes are given, all lanes written. -/
def Entry.ofBytes (b : List Byte) (sc : ScaleW) (poison : Bool) : Entry := ⟨vecOf b, 0xFFFF, sc, poison⟩

/-- The parts of n bytes of memory that lie in one line each. -/
def lineCuts (pa n : Nat) : List (Nat × Nat) :=
  if pa % 64 + n ≤ 64 then [(pa, n)] else [(pa, 64 - pa % 64), (pa + (64 - pa % 64), n - (64 - pa % 64))]

/-- A read of A at a place, line by line (R109, R130, R145): strong at the home, weak through the L1; with whether a byte is poisoned. -/
def State.readPlace (s : State) (cell ctx : Nat) (strong : Bool) (pl : Place) (pa n : Nat) : State × List Byte × Bool :=
  (lineCuts pa n).foldl
    (fun acc c =>
      let r := if strong then (acc.1.drainLine cell ctx (c.1 / 64)).homeRead c.1 c.2 else acc.1.weakRead cell ctx .a ⟨c.1, pl⟩ c.2
      (r.1, acc.2.1 ++ r.2.1, acc.2.2 || r.2.2))
    (s, [], false)

/-- The bytes of a group, each piece in its place in the entry, and whether one is poisoned: from the cell store for a cell kind (R104),
else from memory. -/
def State.groupBytes (s : State) (cell ctx : Nat) (cellKind strong : Bool) (g : Group) : State × List Byte × Bool :=
  g.pieces.foldl
    (fun acc p =>
      let r := if cellKind then
          let t := acc.1.storeRead cell p.addr p.len
          (t.1, t.2, (acc.1.cell cell).storePoison p.addr p.len)
        else acc.1.readPlace cell ctx strong p.place p.addr p.len
      (r.1, acc.2.1.take p.off ++ r.2.1 ++ acc.2.1.drop (p.off + p.len), acc.2.2 || r.2.2))
    (s, zeros 64, false)

/-- The scale word at a place, a weak load of A (R69, R243): poisoned when its line is. -/
def State.scaleAt (s : State) (cell ctx : Nat) (l : Loc) : State × ScaleW :=
  let r := s.readPlace cell ctx false l.place l.pa 4
  (r.1, if r.2.2 then .bad else .word (BitVec.ofNat 32 (leNat r.2.1)))

/-- The 4-byte words of an entry that its lane flags say were pushed, within a piece: (address, byte) pairs (R222). -/
def pieceWrites (e : Entry) (p : Piece) : List (Nat × Byte) :=
  let b := vecBytes e.data
  ((List.range p.len).filter fun i => e.lanes.getLsbD ((p.off + i) / 4)).map fun i => (p.addr + i, b.getD (p.off + i) 0)

/-- Writes into the cell store, byte by byte; a granule written whole loses its poison mark (R389). -/
def Cell.scatter (k : Cell) (ws : List (Nat × Byte)) : Cell :=
  let lines := (ws.map fun w => w.1 / 64).eraseDups
  let full := lines.filter fun g => fullLine (ws.filter fun w => w.1 / 64 = g)
  { k with
    store := ws.foldl (fun m w => mset 0 m w.1 w.2) k.store
    cpoison := full.foldl (fun m g => mdel m g) k.cpoison }

/-- Writes performed at their homes, line by line. -/
def State.homeScatter (s : State) (ws : List (Nat × Byte)) : State :=
  ((ws.map fun w => w.1 / 64).eraseDups).foldl (fun s l => s.homeWrite l (ws.filter fun w => w.1 / 64 = l)) s

/-- A cell's L1 copies of the lines that its own context writes at their homes are dropped (R133, R134). -/
def State.dropWritten (s : State) (cell : Nat) (ws : List (Nat × Byte)) : State :=
  ((ws.map fun w => w.1 / 64).eraseDups).foldl (fun s l => s.dropL1 cell l) s

/-- The bank of the home of a line that pieces of a group lie in (R391). -/
def bankOf (ps : List Piece) (line : Nat) : Nat :=
  ((ps.find? fun p => p.addr / 64 ≤ line && line ≤ (p.addr + p.len - 1) / 64).map fun p => homeBank ⟨64 * line, p.place⟩).getD 0

/-- Weak writes enter a context's store buffer, line by line (R108). -/
def State.bufferScatter (s : State) (cell ctx : Nat) (ps : List Piece) (ws : List (Nat × Byte)) : State :=
  ((ws.map fun w => w.1 / 64).eraseDups).foldl (fun s l => s.bufferWrites cell ctx l (bankOf ps l) (ws.filter fun w => w.1 / 64 = l)) s

/-- Mailboxes whose regions the writes touch hold free values (R7, R19; log 3). -/
def State.spoilWritten (s : State) (cell : Nat) (ws : List (Nat × Byte)) : State :=
  ((ws.map fun w => w.1 / 64).eraseDups).foldl (fun s i => s.spoilMail cell (64 * i) 64) s

/-- A store group is written: a release at the homes behind every older store, a weak one into the store buffer, or to the cell store
(R69, R105, R108, R145). Where two elements of a scatter name one address, the higher-numbered one remains (R245). -/
def State.writeGroup (s : State) (cell ctx : Nat) (cellKind rel : Bool) (g : Group) (e : Entry) : State :=
  let ws := g.pieces.flatMap (pieceWrites e)
  if cellKind then
    let k := g.pieces.foldl (fun (k : Cell) p => k.wakeFor p.addr p.len) (s.cell cell)
    (s.setCell cell (k.scatter ws)).spoilWritten cell ws
  else if rel then ((s.drainCtx cell ctx).dropWritten cell ws).homeScatter ws
  else s.bufferScatter cell ctx g.pieces ws

/-- Two groups meet in their bytes. -/
def Group.covers (g : Group) (h : Group) : Bool := g.pieces.any fun p => h.pieces.any fun q => meets p.addr p.len q.addr q.len

/-- The groups of a stream are acquire loads or release stores (R69, R145). -/
def dStrong (d : BitVec 256) : Bool := dAcq d && !dCellKind d

/-- The load groups of a stream in flight, those of an earlier opening first (R71). -/
def Stream.loadsFly (t : Stream) : List Flying := t.dropping ++ t.loads.map fun g => ⟨dCellKind t.desc, false, dStrong t.desc, g⟩
/-- The groups of a stream in flight. -/
def Stream.flying (t : Stream) : List Flying := t.loadsFly ++ t.stores.map fun g => ⟨dCellKind t.desc, true, dStrong t.desc, g.1⟩

/-- The groups of a context in flight. -/
def Ctx.flying (x : Ctx) : List Flying := x.streams.flatMap fun e => e.2.flying

/-- A store stream closes and still has entries to write: what it writes was issued before every group of another stream now in
flight (log 22). -/
def Stream.closingBusy (t : Stream) : Bool := t.st == .closing && (!t.entries.isEmpty || !t.stores.isEmpty)
def Ctx.closingOther (x : Ctx) (st : StreamNo) : Bool := x.streams.any fun e => e.1 != st.toNat && e.2.closingBusy

/-- What a group waits for before it is performed (R131, R145): older acquire loads; older groups of the other sort, and stores older
than a store, at the same bytes; closing streams; and, when it is a release, every older access. -/
def Ctx.mustWait (x : Ctx) (st : StreamNo) (f : Flying) : Bool :=
  x.closingOther st || x.flying.any fun o =>
    o.group.stamp < f.group.stamp
      && ((o.acq && !o.store) || (f.acq && f.store && !o.cell) || (o.cell == f.cell && (o.store || f.store) && o.group.covers f.group))

/-- A load group is performed: its bytes and, with it, its row's scale; ACQ = 1 makes it an acquire of A (R69, R145). -/
def State.performLoad (s : State) (cell ctx : Nat) (f : Flying) : State × List Byte × Bool × Option ScaleW :=
  let r := s.groupBytes cell ctx f.cell f.acq f.group
  let sc := match f.group.scale with
    | some l => let q := r.1.scaleAt cell ctx ⟨l.1, l.2⟩; (q.1, some q.2)
    | none => (r.1, none)
  (if f.acq then sc.1.acquire cell ctx .a else sc.1, r.2.1, r.2.2, sc.2)

/-- The oldest load group in flight of a stream lands: one of a stream closed since is discarded (R71), another becomes an entry and
TAIL advances (R68). A group past the first of its row carries the scale that landed last on the stream (R243; DESIGN CHOICE, log 51). -/
def State.landGroup (s : State) (cell ctx : Nat) (st : StreamNo) : Option State :=
  let x := s.ctx cell ctx
  let t := x.stream st
  match t.loadsFly with
  | [] => none
  | f :: _ =>
    if x.mustWait st f then none
    else
      let (s, bs, poison, scale) := s.performLoad cell ctx f
      let x := s.ctx cell ctx
      match t.dropping with
      | _ :: rest => some (s.setCtx cell ctx (x.setStream st { t with dropping := rest }))
      | [] =>
        let sc := match scale with
          | some w => w
          | none => if f.group.carry then t.rowScale else .absent
        some (s.setCtx cell ctx (x.setStream st { t with
          loads := t.loads.drop 1, entries := t.entries ++ [Entry.ofBytes bs sc poison], tail := t.tail + 1, rowScale := sc }))

/-- The pieces of a group of a memory or cell kind, translated page by page for a write or a read of an engine in the context's
mode (R103, R243): the pieces, or why not. off is the place in the entry. -/
def State.groupPieces (s : State) (cell : Nat) (kmode : Bool) (need : Need) (chan : Nat) (cellKind : Bool) (align : Nat) (va : Word)
    (len : Nat) : XRes (List Piece) :=
  if va.toNat % align ≠ 0 then .error (whyOf 5 4 (if cellKind then 0 else va), s)
  else if cellKind then
    if (s.cell cell).storeOk chan va.toNat len then .ok ([⟨va.toNat, len, 0, .interleave⟩], s)
    else .error (whyOf 0x12 4 0, s)
  else
    (pageCuts 2 va len).foldl
      (fun acc c => match acc with
        | .error w => .error w
        | .ok (ps, s) => match s.xlate cell kmode need c.1 with
          | .error (w, s) => .error ({ w with acc := 4 }, s)
          | .ok (l, s) =>
            .ok (ps ++ [⟨l.pa, c.2, len - (ps.foldl (fun n (p : Piece) => n - p.len) len), l.place⟩], s.allocIn (homeBank l) (s.cell cell).tag))
      (.ok ([], s))

/-- The escalated record of a late store of a closing stream (R426). -/
def State.lateStore (s : State) (cell ctx : Nat) (w : Why) (i : Nat) : State :=
  let x := s.ctx cell ctx
  let pid := (s.cell cell).tag
  let r := mkRecord w.code 1 ctx x.chan (s.cell cell).lcell.toNat 4 w.level w.va (zext x.ea.pc) (BitVec.ofNat 64 i) x.phdr s.time 1 w.cause
  s.deliver pid r (State.holdEsc cell ctx r)

/-- A count that saturates at 2^64 − 1 (R62, R341). -/
def satInc (w : Word) : Word := if w = BitVec.allOnes 64 then w else w + 1

/-- The stager counts a read that waited (R124): LATE of the header, at bytes 48 to 55. -/
def State.countLate (s : State) (pid : Nat) : State :=
  match (s.part pid).sched with
  | none => s
  | some g => match s.xlateDev pid false .readWrite (g.hdr + 48) with
    | .error (_, s) => s
    | .ok (l, s) => s.putBytes l.pa (leBytes 8 (s.latestNat l.pa 8 + 1))

/-- A group's scale read that no instruction makes waits on a pending staging slot: LATE and the context's late count it once (R62, R124). -/
def State.scaleWaits (s : State) (cell ctx : Nat) (st : StreamNo) : State :=
  let x := s.ctx cell ctx
  let t := x.stream st
  if t.waiting then s
  else (s.setCtx cell ctx { x.setStream st { t with waiting := true } with late := satInc x.late }).countLate (s.cell cell).tag

/-- The scale address of a row (R243). -/
def scaleVa (d : BitVec 256) (row : Nat) : Word := BitVec.ofNat 64 (dScBase d + row * dScStr d)

/-- The scale that a closing stream's group reads with the first piece of its row (R243; log 56), checked as a weak load of 4 bytes: why it
fails, or whether it waits on a pending staging slot (R124). -/
def State.closeScale (s : State) (cell ctx : Nat) (d : BitVec 256) (a : GroupAt) : XRes Bool :=
  let va := scaleVa d a.row
  if dScBase d = 0 ∨ a.p ≠ 0 then .ok (false, s)
  else if va.toNat % 4 ≠ 0 then .error (whyOf 5 4 va, s)
  else match s.xlate cell (s.ctx cell ctx).kmode .read va with
  | .error w => .error w
  | .ok (l, s) => match s.stageAt (s.cell cell).tag l.pa with
    | some (.pending _ _) => .ok (true, s)
    | some (.failed _) => .error (whyOf 0x13 4 va, s)
    | some (.ready _) | none =>
      let r := (s.allocIn (homeBank l) (s.cell cell).tag).scaleAt cell ctx l
      if r.2 = .bad then .error (whyOf 0x13 4 va, r.1) else .ok (false, r.1)

/-- The places of a closing stream's group, with the scale of its row read (R243). -/
def State.closePieces (s : State) (cell ctx : Nat) (d : BitVec 256) (a : GroupAt) : XRes (List Piece × Bool) :=
  match s.groupPieces cell (s.ctx cell ctx).kmode .write (s.ctx cell ctx).chan (dCellKind d) (tyBits (dFmt d) / 8) a.addr a.len with
  | .error w => .error w
  | .ok (ps, s) => match s.closeScale cell ctx d a with
    | .error w => .error w
    | .ok (waits, s) => .ok ((ps, waits), s)

/-- The entry at HEAD of a closing store stream is written at its group, numbered NEXT (log 14); a group that faults ends the
stream with the record of R426, also while the invocation still runs (DESIGN CHOICE, log 52). A scale read that meets a pending staging slot
holds the group up, but for the end of an invocation, which waits for nothing (log 56). -/
def State.closeEntry (s : State) (cell ctx : Nat) (st : StreamNo) (ending : Bool) : State :=
  let x := s.ctx cell ctx
  let t := x.stream st
  match t.entries with
  | [] => s
  | e :: rest =>
    let a := groupAt t.desc t.next.toNat
    match s.closePieces cell ctx t.desc a with
    | .error (w, s) =>
      let s := s.setCtx cell ctx ((s.ctx cell ctx).setStream st { t with entries := [] })
      s.lateStore cell ctx { w with va := a.addr } t.next.toNat
    | .ok ((ps, waits), s) =>
      if waits && !ending then s.scaleWaits cell ctx st
      else
      let s := if t.waiting then s.acquire cell ctx .a else s
      let s := s.writeGroup cell ctx (dCellKind t.desc) (dStrong t.desc) ⟨ps, none, false, s.now⟩ e
      s.setCtx cell ctx ((s.ctx cell ctx).setStream st { t with entries := rest, head := t.head + 1, next := t.next + 1, waiting := false })

/-- A stream closes: the load groups that are in flight land and are discarded (R71). -/
def Stream.close (t : Stream) : Stream := { Stream.reset with dropping := t.loadsFly }

/-- A closing stream with nothing left is closed (R71). -/
def Stream.settle (t : Stream) : Stream :=
  if t.st = .closing ∧ t.entries.isEmpty ∧ t.stores.isEmpty then t.close else t

/-- A store group of a stream is written: the oldest issued, or the next entry of a closing stream (R71). -/
def State.storeWritten (s : State) (cell ctx : Nat) (st : StreamNo) : Option State :=
  let x := s.ctx cell ctx
  let t := x.stream st
  match t.stores with
  | (g, e) :: rest =>
    if x.mustWait st ⟨dCellKind t.desc, true, dStrong t.desc, g⟩ then none
    else
      let s := s.writeGroup cell ctx (dCellKind t.desc) (dStrong t.desc) g e
      some (s.setCtx cell ctx ((s.ctx cell ctx).setStream st { t with stores := rest }.settle))
  | [] =>
    if t.st = .closing then
      let s := s.closeEntry cell ctx st false
      some (s.setCtx cell ctx ((s.ctx cell ctx).setStream st ((s.ctx cell ctx).stream st).settle))
    else none

/-- Every group issued to a store stream is written in the order of issue, then what closing streams still hold, and the streams
are closed: the end of an invocation (R24, R71, R131, R426). -/
def State.flushStreams (s : State) (cell ctx : Nat) : State :=
  let x := s.ctx cell ctx
  let all := x.streams.flatMap fun t => t.2.stores.map fun g => (t.2.desc, g)
  let s := (sortBy (fun g => g.2.1.stamp) all).foldl (fun s g => s.writeGroup cell ctx (dCellKind g.1) (dStrong g.1) g.2.1 g.2.2) s
  let s := x.streams.foldl (fun s t =>
    if t.2.st = .closing then t.2.entries.foldl (fun s _ => s.closeEntry cell ctx (BitVec.ofNat 4 t.1) true) s else s) s
  s.setCtx cell ctx { s.ctx cell ctx with streams := [] }

end Sys2Proof.Machine
end

