-- ==== Sys2Proof/Machine/Lines.lean ====
section
/-! DEFINITION. Lines and their fetch (R53, R54, R166 to R173): the header, the lanes of an engine, the instruction store, targets. -/

namespace Sys2Proof.Machine
open Sys2Proof

/-- Lane k of a line (R166). -/
def laneWord (b : BitVec 256) (k : Nat) : Nat := nbits (32 * k) 32 b.toNat
/-- The nibble of lane k, 1 to 7 (R166). -/
def nibble (b : BitVec 256) (k : Nat) : Nat := nbits (4 * (k - 1)) 4 b.toNat
/-- JOIN (R166). -/
def isJoin (b : BitVec 256) : Bool := nbits 28 1 b.toNat = 1
/-- A nibble that R167 does not reserve. -/
def nibbleOk (n : Nat) : Bool := n = 0 || n = 1 || n = 2 || n = 4 || n = 5 || n = 6 || n = 15
/-- A header that passes R168. -/
def headerOk (b : BitVec 256) : Bool :=
  nbits 29 3 b.toNat = 0 && [1, 2, 3, 4, 5, 6, 7].all (fun k => nibbleOk (nibble b k))
    && !(4 ≤ nibble b 1 && nibble b 1 ≤ 6)
    && [2, 3, 4, 5, 6, 7].all fun k => !(4 ≤ nibble b k && nibble b k ≤ 6) || nibble b (k - 1) + 4 = nibble b k
/-- The first lane from k on that holds the first lane of an instruction of an engine (R172). -/
def firstLane (b : BitVec 256) (e : Eng) (k : Nat) : Option Nat :=
  [1, 2, 3, 4, 5, 6, 7].find? fun j => k ≤ j && nibble b j == engNo e
/-- The extension lane's word, when one follows lane k (R170). -/
def extWord (b : BitVec 256) (e : Eng) (k : Nat) : Option Nat :=
  if k < 7 ∧ nibble b (k + 1) = engNo e + 4 then some (laneWord b (k + 1)) else none

/-- A line of the instruction store that serves a fetch (R54, R110). A line that a K-mode fetch filled serves no U-mode fetch. -/
def Cell.istoreHit (c : Cell) (kmode : Bool) (slot : Slot) : Option ILine :=
  c.istore.find? fun l => l.slot == slot && l.part == c.tag && (kmode || l.user)

/-- Why a line cannot be had: its fetch faults, or it lies in a pending staging slot at a physical address (R124). -/
inductive NoLine where | fault (w : Why) | pending (pa : Nat)

/-- The line that holds a slot, through the instruction store (R53, R54): a miss translates and reads it at its home. -/
def State.fetchLine (s : State) (cell : Nat) (kmode : Bool) (slot : Slot) : Except (NoLine × State) (BitVec 256 × State) :=
  let c := s.cell cell
  let ls := lineSlot slot
  match c.istoreHit kmode ls with
  | some l => .ok (l.bits, s)
  | none =>
    match s.xlate cell kmode .fetch (slotAddr ls) with
    | .error (w, s) => .error (.fault { w with acc := 0 }, s)
    | .ok (l, s) =>
      let poison := Except.error (.fault (whyOf 0x13 0 (slotAddr ls)), s)
      match s.stageAt c.tag l.pa with
      | some (.pending _ _) => .error (.pending l.pa, s)
      | some (.failed _) => poison
      | some (.ready _) | none =>
        let r := s.homeRead l.pa 32
        let s := (r.1.throughRdc cell l).allocIn (homeBank l) c.tag
        if r.2.2 then .error (.fault (whyOf 0x13 0 (slotAddr ls)), s)
        else
          let bits := BitVec.ofNat 256 (leNat r.2.1)
          let c := s.cell cell
          let keep := c.istore.filter fun f => !(f.slot == ls && f.part == c.tag)
          .ok (bits, (s.setCell cell { c with istore := capInsert Config.istoreLines s.free keep ⟨c.tag, ls, !kmode, bits⟩ }).took)

/-- A target that R173 accepts: the first lane of an instruction of the engine. -/
def targetOk (b : BitVec 256) (e : Eng) (slot : Slot) : Bool :=
  slot.toNat % 8 ≠ 0 && nibble b (slot.toNat % 8) = engNo e

/-- Illegal-target (R173): the record's VA is the target's byte address (R172, R382). -/
def whyTarget (slot : Slot) : Why := whyOf 3 6 (slotAddr slot)

/-- The instruction at a slot of a line takes two lanes (R170). -/
def twoAt (b : BitVec 256) (e : Eng) (slot : Slot) : Bool := (extWord b e (slot.toNat % 8)).isSome

/-- How the check of a taken branch's target ends (R173): it is legal; its line could not be fetched, so that the engine moves there and stops at
the line, with the check still to come (log 15); it waits on a pending staging slot; or it is illegal. -/
inductive TargetRes where | legal (s : State) | open_ (s : State) | pending (pa : Nat) (s : State) | bad (s : State)

/-- The check of a taken branch's target (R173); its line is fetched for it. A header lane is no target, whatever the line holds; in a line with
an illegal header the nibbles say what the lanes hold (DESIGN CHOICE, log 80), and the engine then stops there (R168). -/
def State.checkTarget (s : State) (cell : Nat) (kmode : Bool) (e : Eng) (slot : Slot) : TargetRes :=
  if slot.toNat % 8 = 0 then .bad s
  else match s.fetchLine cell kmode slot with
  | .error (.fault _, s) => .open_ s
  | .error (.pending pa, s) => .pending pa s
  | .ok (b, s) => if targetOk b e slot then .legal s else .bad s

end Sys2Proof.Machine
end

