-- ==== Sys2Proof/Machine/Invocation.lean ====
section
/-! DEFINITION. Invocations: dispatch (R22, R23), their end (R24, R25, R36, R268, R293), timelines (R61), TAKING A TRAP (R26, R27,
R339, R343, R383) and the reply to a fault (R345). -/

namespace Sys2Proof.Machine
open Sys2Proof

/-- What the device records of the invocation and instruction that issue an operation (R425). -/
def State.issuer (s : State) (cell ctx : Nat) (e : Eng) : Issuer :=
  let x := s.ctx cell ctx
  ⟨cell, ctx, x.inv, x.kmode, x.chan, if e = .x then x.ex.pc else 0, if e = .a then x.ea.pc else 0, x.phdr,
    (s.cell cell).tag, (s.cell cell).lcell.toNat⟩

/-- Where the cell of an issuer stands: its physical cell; none while it is evicted (R367) or is no cell any more. -/
def State.issuerCell (s : State) (i : Issuer) : Option Nat :=
  ((s.part i.part).resolve i.lcell).bind fun e =>
    let c := nbits 0 11 e.toNat
    if nbits 30 2 e.toNat = 1 ∧ nbits 29 1 e.toNat = 0 ∧ (s.cell c).tag = i.part then some c else none

/-- The invocation that issued an operation still runs at a cell. -/
def State.stillRuns (s : State) (cell : Nat) (i : Issuer) : Bool :=
  let x := s.ctx cell i.ctx
  (x.st == .running || x.st == .suspended) && x.inv == i.inv

/-- A ctxsave of a running invocation has taken a context: its engines have stopped, and for other instructions it is suspended no
more (R349). -/
def State.isTaken (s : State) (cell ctx : Nat) : Bool :=
  match (s.ctx cell ctx).taken with
  | some t => let y := s.ctx cell t.ctx; (y.st == .running || y.st == .suspended) && y.inv == t.inv
  | none => false

/-! Timelines (R61): DONE is the last ticket below every outstanding one. -/

/-- A field of a command (R251). -/
def Cmd.fld (c : Cmd) (f : Shadow) : Nat := (mget 0 c.fields f.code).toNat

/-- The tickets of a context's timeline whose operation has not completed. -/
def State.outstanding (s : State) (cell ctx t : Nat) : List Word :=
  let m := (s.cell cell).mu
  let cmds := (m.pipeL.toList ++ m.pipeC.toList).filter fun c => c.issuer.cell == cell && c.issuer.ctx == ctx && c.fld .tl == t + 1
  ((s.copies.filter fun c => c.issuer.cell == cell && c.issuer.ctx == ctx && c.tl == t).map fun c => c.ticket) ++ cmds.map fun c => c.ticket

/-- DONE of one timeline (R61). -/
def doneOfTickets (issue done : Word) (out : List Word) : Word :=
  match out with
  | [] => issue
  | _ => done + BitVec.ofNat 64 (out.foldl (fun n k => min n ((k - done).toNat - 1)) (issue - done).toNat)

/-- DONE of a context's four timelines advances (R61, R119, R265). -/
def State.settleDone (s : State) (cell ctx : Nat) : State :=
  let x := s.ctx cell ctx
  let done := [0, 1, 2, 3].map fun t => (t, doneOfTickets (x.issueOf t) (x.doneOf t) (s.outstanding cell ctx t))
  s.setCtx cell ctx { x with done := done }

/-- The next ticket of a timeline is taken (R61). -/
def State.takeTicket (s : State) (cell ctx t : Nat) : State × Word :=
  let x := s.ctx cell ctx
  let k := x.issueOf t + 1
  (s.setCtx cell ctx { x with issue := mput x.issue t k }, k)

/-! The matrix claim at the end of an invocation (R268). -/

/-- An element tagged invalid (R92). -/
def tagBad (w : BitVec 32) : BitVec 32 := w ||| 0xC0000000

/-- Elements of rows r0 to r0 + n - 1, columns below cols, tagged invalid. -/
def Matrix.spoil (m : Matrix) (r0 n cols : Nat) : Matrix :=
  { m with acc := (List.range n).foldl (fun a r => (List.range cols).foldl
      (fun a k => mset 0 a (128 * (r0 + r) + k) (tagBad (mget 0 a (128 * (r0 + r) + k)))) a) m.acc }

/-- The key of plane p of macro k. -/
def planeKey (k p : Nat) : Nat := 2 * k + p

/-- Every element of plane p of macro k is a free value (R7, R268; log 3). -/
def Matrix.freePlane (m : Matrix) (free k p : Nat) : Matrix :=
  let row := fun (pl : SMap Byte) (r : Nat) =>
    let bs := vecBytes (Config.freeBits (free + 128 * planeKey k p + r))
    (List.range 64).foldl (fun pl n => mset 0 pl (16384 * k + 8192 * p + 64 * r + n) (bs.getD n 0)) pl
  { m with planes := (List.range 128).foldl row m.planes }

/-- An abandoned command (R268): the rows it would have written take tag 11, and a load poisons its shadow planes, whose contents are free
values. A load that waits for a flip to start (R250) loads no plane yet, an m.aclr with no row left writes none, and m.red writes no row when the
owner is the cell itself (R259). -/
def Matrix.abandon (m : Matrix) (free : Nat) (c : Cmd) : Matrix :=
  let base := c.fld .accBase
  let n := c.fld .shapeM
  match c.fld .op with
  | 1 =>
    if c.waitO then m
    else
    let sh := 1 - m.apl.toNat
    let ks := [0, 1].filter fun k => (c.fld .bSet / 2 ^ k) % 2 = 1
    let m := ks.foldl (fun (m : Matrix) k => m.freePlane free k sh) m
    { m with pz := ks.foldl (fun z k => mset false z (planeKey k sh) true) m.pz }
  | 2 => m.spoil (base + c.rows) (n - c.rows) (c.fld .shapeN)
  | 3 => if n ≤ c.rows then m else m.spoil (base / 16 * 16) (if n = 0 then 0 else ((base + n - 1) / 16 - base / 16 + 1) * 16) 128
  | 7 => if c.fld .shapeK % c.fld .patchH = c.fld .patchRow then m else m.spoil base n (c.fld .shapeN)
  | _ => m

/-- The commands that run for a context are abandoned, and the pipes become idle (R268). -/
def State.abandonFor (s : State) (cell ctx : Nat) : State :=
  let k := s.cell cell
  let mine := fun (c : Option Cmd) => match c with
    | some c => c.issuer.ctx == ctx
    | none => false
  let m := k.mu
  let m1 := (m.pipeL.toList ++ m.pipeC.toList).foldl (fun m c => if c.issuer.ctx == ctx then m.abandon s.free c else m) m
  let m2 := { m1 with
    pipeL := if mine m.pipeL then none else m.pipeL
    pipeC := if mine m.pipeC then none else m.pipeC
    sending := if mine m.pipeL then [] else m.sending }
  let s := ((s.setCell cell { k with mu := m2 }).tookMany 512).settleDone cell ctx
  if mine m.pipeL then
    { s with cells := s.cells.map fun e => (e.1, if e.2.mu.portBy = some cell then { e.2 with mu := { e.2.mu with portBy := none } } else e.2) }
  else s

/-- The claim of a context, at the end of its invocation: given up, the commands abandoned when the end is forced; a waiter leaves the
queue (R268, R293). -/
def State.endClaim (s : State) (cell ctx : Nat) (forced : Bool) : State :=
  let s := if forced && (s.cell cell).claim == some ctx then s.abandonFor cell ctx else s
  let k := s.cell cell
  s.setCell cell { k with
    claim := if k.claim = some ctx then none else k.claim
    claimQ := k.claimQ.filter fun c => c != ctx }

/-- A context whose trap parcel or escalated record waits takes no dispatch (R27, R341, R383). -/
def Ctx.rest (x : Ctx) : CtxSt := if x.trap.isSome || !x.esc.isEmpty then .trapPending else .free

/-- A held record whose fault is withdrawn is still written when room frees: the device keeps it (R344, R383; log 16). -/
def State.keepHeld (s : State) (cell ctx : Nat) : State :=
  let x := s.ctx cell ctx
  let pid := (s.cell cell).tag
  let rs := x.ex.held.toList ++ x.ea.held.toList ++ x.em.held.toList
  s.setPart pid { s.part pid with heldDev := (s.part pid).heldDev ++ rs }

/-- An engine at rest keeps nothing but its program counter. -/
def EngC.idle (c : EngC) : EngC := { EngC.reset with pc := c.pc }

/-- The end of an invocation (R24, R36, R71, R344): claim, streams, FIFOs, faults and popped tasks go; the context is free and its
channel Runnable or Idle (R20). Its buffered stores are performed, so that what acquires them later finds them at their homes (R108, R143;
DEDUCED, log 53). -/
def State.endInvocation (s : State) (cell ctx : Nat) (forced : Bool) : State :=
  let s := (((s.endClaim cell ctx forced).flushStreams cell ctx).drainCtx cell ctx).keepHeld cell ctx
  let x := s.ctx cell ctx
  let pid := (s.cell cell).tag
  let s := s.setPart pid { s.part pid with pops := (s.part pid).pops + x.popped.length }
  let c := s.chan cell x.chan
  let s := s.setChan cell x.chan { c with st := if c.mailbox.isEmpty then .idle else .runnable }
  let x' := { x with
    ex := x.ex.idle, ea := x.ea.idle, em := x.em.idle
    fifos := [], pend := [], verdicts := [], popped := [], mpoison := false, wdcnt := 0, taken := none }
  s.setCtx cell ctx { x' with st := x'.rest }

/-! Traps. -/

/-- What a trap of code 0x20 to 0x2F says of an invocation (R26, R425). -/
structure TrapInfo where
  cell  : Nat
  ctx   : Nat
  kmode : Bool
  chan  : Nat
  xpc   : Slot
  apc   : Slot
  phdr  : Word
  deriving DecidableEq, Repr

/-- The running invocation's values; A's program counter reads 0 when A never started (R26). -/
def State.trapInfo (s : State) (cell ctx : Nat) : TrapInfo :=
  let x := s.ctx cell ctx
  ⟨cell, ctx, x.kmode, x.chan, x.ex.pc, if x.ea.st = .notStarted then 0 else x.ea.pc, x.phdr⟩

/-- The values recorded at issue (R425), for the cell where the issuing context stands. -/
def Issuer.trapInfo (i : Issuer) (cell : Nat) : TrapInfo := ⟨cell, i.ctx, i.kmode, i.chan, i.xpc, i.apc, i.phdr⟩

/-- The trap parcel of R26. -/
def State.trapParcel (s : State) (t : TrapInfo) (code : Nat) (detail : Word) : Vec :=
  let k := s.cell t.cell
  let l := k.lcell.toNat
  mkParcel (mkHdr 0 false true (k.ctx t.ctx).fmode k.tag l 0xFE 63 l)
    (leBytes 1 code ++ leBytes 1 t.ctx ++ leBytes 1 t.chan ++ zeros 5 ++ leBytes 8 t.xpc.toNat ++ leBytes 8 t.apc.toNat
      ++ leBytes 8 detail.toNat ++ leBytes 8 t.phdr.toNat)

/-- The record of an escalated trap (R26, R382). -/
def State.escRecord (s : State) (t : TrapInfo) (code : Nat) (detail : Word) : Record :=
  mkRecord code 0 t.ctx t.chan (s.cell t.cell).lcell.toNat 6 0xFF 0 (zext t.xpc) detail t.phdr s.time 1 0

/-- A context at rest shows whether something of it still waits. -/
def State.reRest (s : State) (cell ctx : Nat) : State :=
  let x := s.ctx cell ctx
  if x.st = .free ∨ x.st = .trapPending then s.setCtx cell ctx { x with st := x.rest } else s

/-- A trap escalates to the partition's fault buffer (R26). -/
def State.escalate (s : State) (t : TrapInfo) (code : Nat) (detail : Word) : State :=
  let pid := (s.cell t.cell).tag
  let r := s.escRecord t code detail
  (s.deliver pid r (State.holdEsc t.cell t.ctx r)).reRest t.cell t.ctx

/-- Channel 63 takes trap parcels (R26). -/
def Cell.takesTraps (k : Cell) : Bool := entBound (k.chan 63).entry && entType (k.chan 63).entry = 0xFE

/-- A trap of code 0x20 to 0x27 is sent (R26, R27): to Belvedere for a K-mode invocation (R361); to channel 63; into the
pending-trap slot when its mailbox is full; else it escalates. A second trap of a context whose pending-trap slot is taken escalates
(DESIGN CHOICE, log 54). -/
def State.sendTrap (s : State) (t : TrapInfo) (code : Nat) (detail : Word) : State :=
  let k := s.cell t.cell
  if t.kmode then
    { s with hypFaults := s.hypFaults ++ [⟨k.tag, t.cell, t.ctx, 0, .x, BitVec.ofNat 8 code, detail, 0⟩] }
  else if !k.takesTraps || t.chan = 63 then s.escalate t code detail
  else
    let p := s.trapParcel t code detail
    if (k.chan 63).room then s.enqueue t.cell 63 p
    else if (k.ctx t.ctx).trap.isSome then s.escalate t code detail
    else (s.setCtx t.cell t.ctx { k.ctx t.ctx with trap := some p }).reRest t.cell t.ctx

/-- A running invocation meets a trap of code 0x20 to 0x27: it ends, then the trap is sent (R26). -/
def State.serviceTrap (s : State) (cell ctx code : Nat) (detail : Word) : State :=
  let t := s.trapInfo cell ctx
  (s.endInvocation cell ctx true).sendTrap t code detail

/-- The engines of a context that stopped at the same illegal line, but the one that is named (R168). -/
def Ctx.sharers (x : Ctx) (e : Eng) : List Eng :=
  [Eng.x, .a, .m].filter fun f => f != e && (x.eng f).st == .faulted && (x.eng f).code == 2 && lineSlot (x.eng f).pc == lineSlot (x.eng e).pc

/-- TAKING A TRAP at an engine (R343): the engine stops at its program counter, with its fault outstanding, and the context is
suspended; the record goes to the fault buffer, or waits in the engine's pending-fault register; a K-mode trap goes to Belvedere
(R339); a trap of code 0x20 to 0x27 ends the invocation (R26). An engine that stops at a line whose illegal header is
recorded already shares that record (R168). arg and reg are those of a K-mode sys (R360). -/
def State.raise (s : State) (cell ctx : Nat) (e : Eng) (w : Why) (arg : Word) (reg : RegG) : State :=
  if 0x20 ≤ w.code ∧ w.code ≤ 0x27 then s.serviceTrap cell ctx w.code w.detail
  else
    let x := s.ctx cell ctx
    let c := x.eng e
    let pid := (s.cell cell).tag
    let two := (c.line.map fun l => l.1 == lineSlot c.pc && twoAt l.2 e c.pc).getD false
    let x := { x with st := .suspended }.setEng e
      { c with st := .faulted, code := BitVec.ofNat 8 w.code, joining := false, waited := none, two := two }
    let s := s.setCtx cell ctx x
    if w.code = 2 ∧ !(x.sharers e).isEmpty then s
    else if x.kmode then { s with hypFaults := s.hypFaults ++ [⟨pid, cell, ctx, x.inv, e, BitVec.ofNat 8 w.code, arg, reg⟩] }
    else
      let r := mkRecord w.code (engNo e) ctx x.chan (s.cell cell).lcell.toNat w.acc w.level w.va (zext c.pc) w.detail x.phdr s.time 0 w.cause
      s.deliver pid r fun s =>
        let x := s.ctx cell ctx
        s.setCtx cell ctx (x.setEng e { x.eng e with held := some r })

/-! Held records enter the ring as room frees (R341, R383). -/

/-- Where a held record stands: with an engine of a context, as an escalated record of a context, with a context in an eviction image (of a set, the
image's place among the partition's), or with the device. -/
inductive HeldAt where | eng (cell ctx : Nat) (e : Eng) | esc (cell ctx n : Nat) | image (set i ctx n : Nat) | dev (n : Nat)
  deriving DecidableEq, Repr

/-- The held records of a partition. -/
def State.heldOf (s : State) (pid : Nat) : List (HeldAt × Record) :=
  let p := s.part pid
  let cells := p.cellsOf.flatMap fun c => (s.cell c).ctxs.flatMap fun x =>
    (x.2.ex.held.toList.map fun r => (HeldAt.eng c x.1 .x, r)) ++ (x.2.ea.held.toList.map fun r => (HeldAt.eng c x.1 .a, r))
      ++ (x.2.em.held.toList.map fun r => (HeldAt.eng c x.1 .m, r)) ++ x.2.esc.mapIdx fun i r => (HeldAt.esc c x.1 i, r)
  let images := s.sets.flatMap fun st => ((mget [] st.2.images pid).mapIdx fun i m =>
    m.2.escs.flatMap fun x => x.2.mapIdx fun n r => (HeldAt.image st.1 i x.1 n, r)).flatten
  cells ++ images ++ p.heldDev.mapIdx fun i r => (HeldAt.dev i, r)

/-- A held record that has entered the ring is kept no longer. -/
def State.dropHeld (s : State) (pid : Nat) (h : HeldAt) : State :=
  match h with
  | .eng cell ctx e =>
    let x := s.ctx cell ctx
    s.setCtx cell ctx (x.setEng e { x.eng e with held := none })
  | .esc cell ctx n => (s.setCtx cell ctx { s.ctx cell ctx with esc := (s.ctx cell ctx).esc.eraseIdx n }).reRest cell ctx
  | .image set i ctx n =>
    let st := mget SliceSet.reset s.sets set
    let cut := fun (m : Image) => { m with escs := mput m.escs ctx ((mget [] m.escs ctx).eraseIdx n) }
    { s with sets := mput s.sets set { st with images := mput st.images pid ((mget [] st.images pid).mapIdx fun j m => if j = i then (m.1, cut m.2) else m) } }
  | .dev n => s.setPart pid { s.part pid with heldDev := (s.part pid).heldDev.eraseIdx n }

/-- The oldest held record by TIME (R383). -/
def State.oldestHeld (s : State) (pid : Nat) : Option (HeldAt × Record) :=
  (sortBy (fun h => recTime h.2) (s.heldOf pid)).head?

/-- Held records are written, oldest first, with FLAGS[1] = 1, while there is room (R383); n bounds them. -/
def State.reraise (s : State) (pid : Nat) : Nat → State
  | 0 => s
  | n + 1 => match s.oldestHeld pid with
    | none => s
    | some (h, r) => match s.fbHeader pid with
      | (s, none) => s
      | (s, some hd) => match s.ringPut pid hd r true with
        | (s, true) => (s.dropHeld pid h).reraise pid n
        | (s, false) => s

/-- An atomic on HEAD of the partition's fault buffer header, n bytes at a physical address, has the held records written at once (R383). -/
def State.headMoved (s : State) (pid pa n : Nat) : State :=
  let held := s.heldOf pid
  let va := (s.part pid).fbhdr &&& ~~~63#64
  if held.isEmpty || va == 0 then s
  else match s.xlateDev pid true .readWrite va with
  | .error _ => s
  | .ok (l, _) => if meets pa n (l.pa + 16) 4 then s.reraise pid held.length else s

/-- A context with no outstanding fault runs again (R344). -/
def Ctx.unsuspend (x : Ctx) : Ctx :=
  if x.st = .suspended ∧ x.ex.st ≠ .faulted ∧ x.ea.st ≠ .faulted ∧ x.em.st ≠ .faulted then { x with st := .running } else x

/-- An engine whose fault is answered runs on from a slot, with the reply acquired (R345); inside a join line it has met, it does not
wait again (R171). A check of a target that is still to come (R173) stays with a retry or a continuation, and a redirection ends it (log 15). -/
def EngC.resume (c : EngC) (now : Nat) (p : Slot) : EngC :=
  { c with st := .running, code := 0, pc := p, line := none, horizon := now, unchecked := none }
/-- It issues its stopped instruction again (R345), with the check of a target that is still to come (R173). -/
def EngC.again (c : EngC) (now : Nat) : EngC := { c.resume now c.pc with unchecked := c.unchecked }
/-- The slot at which an engine continues sequentially after the instruction it stopped at (R205); after an illegal line, the next
line (R168). -/
def EngC.after (c : EngC) (line : Bool) : Slot := if line then lineSlot c.pc + 8 else c.pc + if c.two then 2 else 1

/-- THE RETURN FROM A FAULT (R345): the reply to the outstanding fault of engine e of a context, with the value of the action; the state
after and the status. -/
def State.reply (s : State) (cell ctx : Nat) (e : Eng) (action : Nat) (val : Word) : State × Nat :=
  let x := s.ctx cell ctx
  let c := x.eng e
  if s.isTaken cell ctx ∨ x.st ≠ .suspended ∨ c.st ≠ .faulted ∨ c.held.isSome ∨ (c.code = 2 ∧ (x.sharers e).any fun o => (x.eng o).held.isSome) then (s, 1)
  else
    let sys := c.code = 0x30 ∨ c.code = 0x31
    let line := c.code = 2
    let others := if line then x.sharers e else []
    let next := fun (q : EngC) => q.resume s.now (q.after line)
    let again := fun (q : EngC) => q.again s.now
    let apply := fun (f g : EngC → EngC) (s : State) =>
      let x := s.ctx cell ctx
      let x := x.setEng e (f (x.eng e))
      let x := others.foldl (fun (x : Ctx) o => x.setEng o (g (x.eng o))) x
      s.setCtx cell ctx x.unsuspend
    let acted : State × Nat := match if action = 0 ∧ sys then 1 else action with
      | 0 => (apply again again s, 0)
      | 1 => (apply (fun q => { next q with unchecked := q.unchecked }) next (if c.code = 0x30 then s.setCtx cell ctx (x.setG x.sysd val) else s), 0)
      | 2 =>
        let t : Slot := val.setWidth 55
        let go := fun (q : EngC) => (q.resume s.now t).goto t
        if val.getLsbD 63 then (apply go again s, 0)
        else match s.checkTarget cell x.kmode e t with
          | .bad _ => (s, 2)
          | .legal s => (apply go again s, 0)
          | .open_ s => (apply (fun q => { go q with unchecked := some ⟨t, t, none, none, none⟩ }) again s, 0)
          | .pending _ s => (apply (fun q => { go q with unchecked := some ⟨t, t, none, none, none⟩ }) again s, 0)
      | _ => (s.endInvocation cell ctx true, 0)
    acted

/-! Dispatch. -/

/-- The registers that a dispatch leaves unpredictable (R22, R55), as they stand. -/
def Ctx.files (x : Ctx) : Files := ⟨x.g, x.v, x.p, x.b, x.q, x.c, x.shadow, x.loops⟩

/-- The value of register r at the n-th dispatch: one of those it held at this partition's dispatches on the context since the
last scrub, or zero (R7; log 3). -/
def heldValue {α : Type} (n r : Nat) (past : List Files) (zero : α) (get : Files → α) : α :=
  let vs := zero :: past.map get
  vs.getD (Config.freeReg n r % vs.length) zero

/-- The general, vector, predicate, b and c registers, the q bits, the shadow fields and the loop counters of a dispatch, numbered by
the dispatch (R7, R22; log 3). -/
def Ctx.scramble (x : Ctx) (n : Nat) : Ctx :=
  let past := x.files :: x.past
  { x with
    past := past
    g := (List.range 32).map fun r => (r, heldValue n r past 0 fun f => mget 0 f.g r)
    v := (List.range 32).map fun r => (r, heldValue n (32 + r) past 0 fun f => mget 0 f.v r)
    p := (List.range 128).map fun r => (r, heldValue n (64 + r) past 0 fun f => mget 0 f.p r)
    b := (List.range 16).map fun r => (r, heldValue n (192 + r) past 0 fun f => mget 0 f.b r)
    q := (List.range 4).map fun r => (r, heldValue n (208 + r) past false fun f => mget false f.q r)
    c := (List.range 16).map fun r => (r, heldValue n (212 + r) past 0 fun f => mget 0 f.c r)
    shadow := (List.range 17).map fun r => (r, heldValue n (228 + r) past 0 fun f => mget 0 f.shadow r)
    loops := (List.range 12).map fun r => (r, heldValue n (245 + r) past LoopC.reset fun f => mget LoopC.reset f.loops r) }

/-- An engine at the start of an invocation: at its first lane of the entry line, or idle (R22, R249). -/
def startEng (b : Option (BitVec 256)) (e : Eng) (entry : Slot) (now : Nat) : EngC :=
  let idle : EngC := { EngC.reset with pc := entry, horizon := now }
  let at_ := fun (k : Nat) => { idle with pc := entry + BitVec.ofNat 55 k, st := .running }
  match e, b with
  | .x, some b => at_ ((firstLane b .x 1).getD 0)
  | .x, none => at_ 0
  | _, none => idle
  | e, some b => match firstLane b e 1 with
    | some k => at_ k
    | none => idle

/-- The line at ENTRY as a dispatch finds it (R22): none when its fetch faults or its header is illegal. -/
def State.entryLine (s : State) (cell : Nat) (kmode : Bool) (entry : Slot) : State × Option (BitVec 256) :=
  match s.fetchLine cell kmode entry with
  | .error (_, s) => (s, none)
  | .ok (b, s) => (s, if headerOk b then some b else none)

/-- The place of the pending staging slot that the line at ENTRY lies in, for which a dispatch waits (R124; log 55). -/
def State.entryPending (s : State) (cell chan : Nat) : Option Nat :=
  let k := s.cell cell
  match s.fetchLine cell (k.kchan.getLsbD chan) (BitVec.ofNat 55 (entEntry (k.chan chan).entry)) with
  | .error (.pending pa, _) => some pa
  | .error (.fault _, _) | .ok _ => none

/-- Dispatch of a parcel on a context (R22, R23, R62, R337). -/
def State.dispatch (s : State) (cell chan ctx : Nat) (p : Vec) : State :=
  let k := s.cell cell
  let ent := (k.chan chan).entry
  let kmode := k.kchan.getLsbD chan
  let entry := BitVec.ofNat 55 (entEntry ent)
  let (s, line) := s.entryLine cell kmode entry
  let x := (s.ctx cell ctx).scramble s.free
  let h := parcelHdr p
  let x := { x with
    st := .running, chan := chan, phdr := h, kmode := kmode, inv := s.serial, limit := k.wdlim, wdcnt := 0
    ex := startEng line .x entry s.now, ea := startEng line .a entry s.now, em := startEng line .m entry s.now
    streams := [], fifos := [], pend := [], verdicts := [], popped := [], mpoison := false
    xfid := if hCmpl h then (p >>> 64).setWidth 16 else x.xfid }
  let frame : Nat := if entAct ent then 64 * entAfb ent else 0
  let x := (((x.setV 0 p).setG 1 h).setG 2 (BitVec.ofNat 64 frame)).setG 3 (zext k.lcell)
  let s := (s.setCtx cell ctx x).bump.took
  if 0x40 ≤ hType h ∧ hType h ≤ 0x7F ∧ hF8m h ≠ x.fmode then s.serviceTrap cell ctx 0x21 0 else s

end Sys2Proof.Machine
end

