-- ==== Sys2Proof/Machine/Ops.lean ====
section
/-! DEFINITION. What the meanings of the engines' instructions share: guards, retirement with the loops (R57, R186, R206, R207, R209),
jumps (R172, R173, R205), accesses to memory and to the cell store (R104, R105, R231, R232), orders (R128, R131, R135, R140). Taking a trap
is State.raise and the return from one State.reply, both in Machine/Invocation.lean. -/

namespace Sys2Proof.Machine
open Sys2Proof

/-! Retirement. -/

/-- The live counters of an engine whose LAST is a slot, the highest FIRST first, then the lowest number (R207). -/
def Ctx.loopOrder (x : Ctx) (e : Eng) (slot : Slot) : List Nat :=
  sortBy (fun k => 2 ^ 55 - (x.loopOf e k).first.toNat)
    ([0, 1, 2, 3].filter fun k => (x.loopOf e k).count != 0 && (x.loopOf e k).last == slot)

/-- The evaluation of R207: the context after, and where a loop that goes on resumes. -/
def Ctx.loopEval (x : Ctx) (e : Eng) : List Nat → Ctx × Option Slot
  | [] => (x, none)
  | k :: ks =>
    let l := x.loopOf e k
    let x := x.setLoop e k { l with count := l.count - 1 }
    if l.count - 1 ≠ 0 then (x, some l.first) else x.loopEval e ks

/-- The program counter of an engine moves past an instruction of len lanes (R172, R205). -/
def Ctx.advance (x : Ctx) (e : Eng) (len : Nat) : Ctx :=
  x.setEng e { x.eng e with pc := (x.eng e).pc + BitVec.ofNat 55 len, waited := none }

/-- The read that an engine waited for has come, and acquires the tile (R124). -/
def State.tileCame (s : State) (cell ctx : Nat) (e : Eng) : State :=
  if ((s.ctx cell ctx).eng e).waited.isSome then s.acquire cell ctx e else s

/-- An engine jumps to a slot. -/
def Ctx.jump (x : Ctx) (e : Eng) (p : Slot) : Ctx := x.setEng e { (x.eng e).goto p with waited := none }

/-- An instruction retires: loops that end at it are evaluated, and the engine goes on (R172, R207). -/
def Ctx.retire (x : Ctx) (e : Eng) (len : Nat) : Ctx :=
  match x.loopEval e (x.loopOrder e (x.eng e).pc) with
  | (x, some p) => x.jump e p
  | (x, none) => x.advance e len

def State.retire (s : State) (e : Eng) (len : Nat) : State := s.setCx (s.cx.retire e len)

/-- A read of an engine meets the pending staging slot at a physical address (R124): it stalls; LATE of the header counts the read once,
and late of the context a stream group once. -/
def State.noteLate (s : State) (e : Eng) (group : Bool) (pa : Nat) : State :=
  let x := s.cx
  let w := (x.eng e).waited
  if w = some pa then s
  else
    let x := x.setEng e { x.eng e with waited := some pa }
    (s.setCx (if group && w.isNone then { x with late := satInc x.late } else x)).countLate s.pid

/-- The end of an instruction of engine e, given what its effect answers: it retires, stalls as it was, or stops with a trap. -/
def State.finish (s : State) (e : Eng) (len : Nat) : Act State → State
  | .ok t => t.retire e len
  | .error .stall => s
  | .error (.late group pa t) => t.noteLate e group pa
  | .error (.trap w t) => t.raise t.cur.cell t.cur.ctx e w 0 0

/-- The end of an instruction that sets its engine's program counter itself. -/
def State.settle (s : State) (e : Eng) : Act State → State
  | .ok t => t
  | .error .stall => s
  | .error (.late group pa t) => t.noteLate e group pa
  | .error (.trap w t) => t.raise t.cur.cell t.cur.ctx e w 0 0

/-- A trap of the running instruction. -/
def State.trap {α : Type} (s : State) (w : Why) : Act α := .error (.trap w s)
def State.illegal {α : Type} (s : State) : Act α := s.trap whyIllegal

/-- A general register waits for a sendnb's verdict; an instruction that reads or writes it stalls (R14, R270, R272). -/
def Ctx.pending (x : Ctx) (rs : List RegG) : Bool := rs.any fun r => r != 0 && x.pend.any fun e => e.2 == r

/-- A scalar X instruction under guard g that reads or writes the general registers of regs (R57, R174, R209). -/
def State.xRun (s : State) (g : GuardP) (regs : List RegG) (len : Nat) (body : State → Act State) : State :=
  if (s.cx.guard g).getLsbD 0 then
    if s.cx.pending regs then s else s.finish .x len (body s)
  else s.retire .x len

/-- An X instruction without a scalar guard (R187, R210). -/
def State.xAlways (s : State) (regs : List RegG) (len : Nat) (body : State → Act State) : State :=
  if s.cx.pending regs then s else s.finish .x len (body s)

/-- A privileged X instruction: Privilege (0x04) in U mode, before its guard (R174, R337). -/
def State.xPriv (s : State) (g : GuardP) (regs : List RegG) (body : State → Act State) : State :=
  if s.cx.kmode then s.xRun g regs 1 body else s.raise s.cur.cell s.cur.ctx .x ⟨4, 6, 0xFF, 0, 0, 0⟩ 0 0

/-- A scalar A instruction under guard q (R179). -/
def State.aRun (s : State) (q : GuardQ) (len : Nat) (body : State → Act State) : State :=
  if s.cx.qr q then s.finish .a len (body s) else s.retire .a len

/-- An M instruction issues only while its context holds the claim (R249). -/
def State.holdsClaim (s : State) : Bool := s.cl.claim == some s.cur.ctx
def State.mRun (s : State) (len : Nat) (body : State → Act State) : State :=
  if s.holdsClaim then s.finish .m len (body s) else s

/-! Jumps. -/

/-- The link value of a call, when there is one, enters g31 (R204). -/
def Ctx.putLink (x : Ctx) (link : Option Word) : Ctx := link.elim x fun w => x.setG 31 w

/-- A jump of an engine to an exact target (R172, R173), with a call's link value. While the target cannot be checked the engine keeps what
undoes the jump. -/
def State.jumpTo (s : State) (e : Eng) (p : Slot) (link : Option Word) : Act State :=
  match s.checkTarget s.cur.cell s.cx.kmode e p with
  | .bad t => t.trap (whyTarget p)
  | .pending pa t => .error (.late false pa t)
  | .legal t =>
    let t := t.tileCame t.cur.cell t.cur.ctx e
    .ok (t.setCx ((t.cx.putLink link).jump e p))
  | .open_ t =>
    let c := t.cx.eng e
    let x := (t.cx.putLink link).jump e p
    .ok (t.setCx (x.setEng e { x.eng e with unchecked := some ⟨p, c.pc, link.map fun _ => t.cx.gr 31, c.line, c.passed⟩ }))

/-- The present slot of an engine. -/
def State.slotOf (s : State) (e : Eng) : Slot := (s.cx.eng e).pc

/-- A relative target (R172). -/
def relTarget {n : Nat} (p : Slot) (off : BitVec n) : Slot := p + off.signExtend 55

/-- The check of a loop's LAST (R206): whether the instruction there takes two lanes. A fetch that faults stops the engine at its loop
instruction, and in a line with an illegal header the nibbles say what the lanes hold (DESIGN CHOICE, log 80). -/
def State.checkLast (s : State) (e : Eng) (last : Slot) : Act (Bool × State) :=
  if last.toNat % 8 = 0 then s.trap (whyTarget last)
  else match s.fetchLine s.cur.cell s.cx.kmode last with
  | .error (.fault w, t) => t.trap w
  | .error (.pending pa, t) => .error (.late false pa t)
  | .ok (b, t) =>
    let t := t.tileCame t.cur.cell t.cur.ctx e
    if targetOk b e last then .ok (twoAt b e last, t) else t.trap (whyTarget last)

/-- The loop instruction of an engine (R206, R207): counter k, count, LAST. It retires, so that a loop ending at it is evaluated; else the engine
continues in line order, and in a join line it has met does not wait again (R171, R205). -/
def State.loopSet (s : State) (e : Eng) (k : Nat) (count : Word) (last : Slot) : Act State :=
  match s.checkLast e last with
  | .error h => .error h
  | .ok (two, t) =>
    let slot := s.slotOf e
    let x := t.cx.setLoop e k ⟨count, slot + 2, last⟩
    match x.loopEval e (x.loopOrder e slot) with
    | (x, some p) => .ok (t.setCx (x.jump e p))
    | (x, none) => .ok (t.setCx (x.setEng e ((x.eng e).goOn (if count = 0 then last + (if two then 2 else 1) else slot + 2))))

/-- The end of X's, A's or M's part of the invocation (R188, R241, R249). The program counter keeps the slot of the instruction. -/
def State.endEngine (s : State) (e : Eng) : State :=
  let x := s.cx
  s.setCx (x.setEng e { x.eng e with st := .ended, waited := none })

/-- A scalar X instruction that sets the program counter itself (R57, R207). -/
def State.xFlow (s : State) (g : GuardP) (regs : List RegG) (len : Nat) (body : State → Act State) : State :=
  if (s.cx.guard g).getLsbD 0 then
    if s.cx.pending regs then s else s.settle .x (body s)
  else s.retire .x len
/-- The same of A (R179, R241). -/
def State.aFlow (s : State) (q : GuardQ) (len : Nat) (body : State → Act State) : State :=
  if s.cx.qr q then s.settle .a (body s) else s.retire .a len
/-- The same of M (R249, R252). -/
def State.mFlow (s : State) (body : State → Act State) : State :=
  if s.holdsClaim then s.settle .m (body s) else s

/-! Token FIFOs (R72, R133, R208). -/

/-- A put stalls while the FIFO is full. -/
def State.fifoPut (s : State) (f : Fifo) (w : Word) : Act State :=
  let q := s.cx.fifo f.code
  if q.items.length < Config.fifoDepth then .ok (s.setCx (s.cx.setFifo f.code { q with items := q.items ++ [w] }))
  else .error .stall

/-- A get stalls while the FIFO is empty; it acquires what its engine's partner did before the put. -/
def State.fifoGet (s : State) (e : Eng) (f : Fifo) (wr : Ctx → Word → Ctx) : Act State :=
  let q := s.cx.fifo f.code
  match q.items with
  | [] => .error .stall
  | w :: rest =>
    let s := s.acquire s.cur.cell s.cur.ctx e
    .ok (s.setCx (wr (s.cx.setFifo f.code ⟨q.headp + 1, rest⟩) w))

/-! Memory. -/

/-- A need includes read. -/
def needReads : Need → Bool
  | .write => false
  | .fetch | .read | .readWrite => true

/-- The checks of R231: alignment, canonical form, translation, a pending or failed staging slot. The poison check follows with the
data. A read that waited for a tile acquires it (R124). -/
def State.check (s : State) (e : Eng) (acc : Nat) (need : Need) (va : Word) (size : Nat) : Act (Loc × State) :=
  if va.toNat % size ≠ 0 then s.trap (whyOf 5 acc va)
  else match s.xlate s.cur.cell s.cx.kmode need va with
  | .error (w, t) => t.trap { w with acc := acc }
  | .ok (l, t) =>
    if needReads need then
      match t.stageAt t.pid l.pa with
      | some (.pending _ _) => .error (.late false l.pa t)
      | some (.failed _) => t.trap (whyOf 0x13 acc va)
      | some (.ready _) =>
        let t := t.allocIn (homeBank l) t.pid
        .ok (l, t.tileCame t.cur.cell t.cur.ctx e)
      | none => .ok (l, t.allocIn (homeBank l) t.pid)
    else .ok (l, t.allocIn (homeBank l) t.pid)

/-- Acquire and release parts of an order (R128). -/
def ordAcq : Ord → Bool
  | .acq | .acqrel => true
  | .weak | .rlx | .rel => false
def ordRel : Ord → Bool
  | .rel | .acqrel => true
  | .weak | .rlx | .acq => false

/-- The running engine acquires (R135). -/
def State.acq (s : State) (e : Eng) : State := s.acquire s.cur.cell s.cur.ctx e
/-- Every buffered store of the running context is performed at its home (R131, R140). -/
def State.rel (s : State) : State := s.drainCtx s.cur.cell s.cur.ctx
/-- An acqrel operation at package scope, as the objects' are (R33, R34, R43, R47). -/
def State.acqrel (s : State) (e : Eng) : State := s.rel.acq e

/-- The buffered stores that must be performed before a strong access of an engine: those to its line (R131), and X's strong ones to its bank
(R142). Only X makes strong buffered stores. -/
def State.drainTo (s : State) (e : Eng) (l : Loc) : State :=
  if e = .x then s.drainBank s.cur.cell s.cur.ctx (l.pa / 64) (homeBank l) else s.drainLine s.cur.cell s.cur.ctx (l.pa / 64)

/-- Bytes of a checked load (R130, R134, R234): weak through the L1, strong at the home; Poison when a byte read is poisoned. -/
def State.loadAt (s : State) (e : Eng) (acc : Nat) (va : Word) (l : Loc) (n : Nat) (ord : Ord) : Act (List Byte × State) :=
  match ord with
  | .weak =>
    let r := s.weakRead s.cur.cell s.cur.ctx e l n
    if r.2.2 then r.1.trap (whyOf 0x13 acc va) else .ok (r.2.1, r.1)
  | .rlx | .acq | .rel | .acqrel =>
    let t := s.drainTo e l
    let r := t.homeRead l.pa n
    if r.2.2 then r.1.trap (whyOf 0x13 acc va)
    else .ok (r.2.1, if ordAcq ord then r.1.acq e else r.1)

/-- A load of a virtual address with all its checks. -/
def State.load (s : State) (e : Eng) (acc : Nat) (va : Word) (n : Nat) (ord : Ord) : Act (List Byte × State) :=
  match s.check e acc .read va n with
  | .error h => .error h
  | .ok (l, t) => t.loadAt e acc va l n ord

/-- A checked store retires into the store buffer, and stalls while all entries are taken (R108, R232). -/
def State.storeAt (s : State) (l : Loc) (bs : List Byte) (ord : Ord) : Act State :=
  match s.bufferStore s.cur.cell s.cur.ctx l bs ord with
  | some t => .ok t
  | none => .error .stall

/-- A store to a virtual address with all its checks. -/
def State.store (s : State) (e : Eng) (va : Word) (bs : List Byte) (ord : Ord) : Act State :=
  match s.check e 2 .write va bs.length with
  | .error h => .error h
  | .ok (l, t) => t.storeAt l bs ord

/-- An atomic at the home (R130, R141, R236): the old value of n bytes, and the new value that f makes of it, when it makes one. -/
def State.atomic (s : State) (e : Eng) (va : Word) (n : Nat) (ord : Ord) (f : Nat → Option Nat) : Act (Nat × State) :=
  match s.check e 3 .readWrite va n with
  | .error h => .error h
  | .ok (l, t) =>
    let t := if ordRel ord then t.rel else t.drainTo e l
    let r := t.homeRead l.pa n
    if r.2.2 then r.1.trap (whyOf 0x13 3 va)
    else
      let old := leNat r.2.1
      let t := match f old with
        | some v => ((r.1.dropL1 r.1.cur.cell (l.pa / 64)).homeWrite (l.pa / 64) (addrBytes l.pa (leBytes n v))).headMoved r.1.pid l.pa n
        | none => r.1
      .ok (old, if ordAcq ord then t.acq e else t)

/-- The object at a virtual address that an object operation works on (R231, R342): its place after the checks of an atomic, the
engine's earlier stores performed and its horizon moved. -/
def State.object (s : State) (e : Eng) (va : Word) (size : Nat) : Act (Loc × List Byte × State) :=
  match s.check e 3 .readWrite va size with
  | .error h => .error h
  | .ok (l, t) =>
    let t := t.acqrel e
    let r := t.homeRead l.pa size
    if r.2.2 then r.1.trap (whyOf 0x13 3 va) else .ok (l, r.2.1, r.1)

/-! The cell store. -/

/-- An access of n bytes of the own cell store at offset off, aligned to align (R28, R104, R238). -/
def State.storeCheck (s : State) (acc : Nat) (off : Word) (n align : Nat) (reads : Bool) : Act State :=
  if off.toNat % align ≠ 0 then s.trap (whyOf 5 acc 0)
  else if !s.cl.storeOk s.cx.chan off.toNat n then s.trap (whyOf 0x12 acc 0)
  else if reads && s.cl.storePoison off.toNat n then s.trap (whyOf 0x13 acc 0)
  else .ok s

/-- Bytes read from the own cell store. -/
def State.storeLoad (s : State) (off : Word) (n align : Nat) : Act (List Byte × State) :=
  match s.storeCheck 1 off n align true with
  | .error h => .error h
  | .ok s => let r := s.storeRead s.cur.cell off.toNat n; .ok (r.2, r.1)

/-- Bytes written into the own cell store. -/
def State.storeStore (s : State) (off : Word) (bs : List Byte) (align : Nat) : Act State :=
  match s.storeCheck 2 off bs.length align false with
  | .error h => .error h
  | .ok s => .ok (s.storeWrite s.cur.cell off.toNat bs)

end Sys2Proof.Machine
end

