-- ==== Sys2Proof/Machine/Flags.lean ====
section
/-! DEFINITION. Conditions and the predicates they make (R195, R198, R200, R203). -/

namespace Sys2Proof.Machine
open Sys2Proof

/-- A condition of cmp, cmpi and a.cmp on two words (R195). -/
def condHolds (c : Cond) (a b : Word) : Bool :=
  match c with
  | .eq => a == b
  | .ne => a != b
  | .lt => a.slt b
  | .ge => !a.slt b
  | .ltu => a.ult b
  | .geu => !a.ult b

/-- All 16 bits of a predicate set, or none (R195, R198). -/
def allOrNone (b : Bool) : BitVec 16 := if b then 0xFFFF else 0

/-- The test of br on a predicate (R176): bit 0 set, bit 0 clear, some bit set, every bit set. -/
def brTaken (tm : BrTest) (p : BitVec 16) : Bool :=
  match tm with
  | .t => p.getLsbD 0
  | .f => !p.getLsbD 0
  | .any => p != 0
  | .all => p == 0xFFFF

/-- The one bits of a word below bit n. -/
def onesBelow {w : Nat} (n : Nat) (x : BitVec w) : Nat := ((List.range n).filter x.getLsbD).length
/-- Leading zero bits of a 64-bit value, 64 for 0 (R191). -/
def leadingZeros (x : Word) : Nat := ((List.range 64).find? fun i => x.getLsbD (63 - i)).getD 64
/-- Trailing zero bits of a 64-bit value, 64 for 0 (R191). -/
def trailingZeros (x : Word) : Nat := ((List.range 64).find? x.getLsbD).getD 64

end Sys2Proof.Machine
end

