-- ==== Sys2Proof/Machine/Operands.lean ====
section
/-! DEFINITION. The operand forms of the engines' instructions (R177, R179, R181, R193, R201) and the CSRs they reach (R62 to R65). -/

namespace Sys2Proof.Machine
open Sys2Proof

/-- A scalar X result: g[d] takes f of the context (R57, R186). -/
def State.xTo (s : State) (g : GuardP) (regs : List RegG) (len : Nat) (d : RegG) (f : Ctx → Word) : State :=
  s.xRun g (d :: regs) len fun s => .ok (s.setCx (s.cx.setG d (f s.cx)))

/-- g[d] from two registers. -/
def State.xTwo (s : State) (d a b : RegG) (g : GuardP) (f : Word → Word → Word) : State :=
  s.xTo g [a, b] 1 d fun x => f (x.gr a) (x.gr b)
/-- g[d] from one register. -/
def State.xOne (s : State) (d a : RegG) (g : GuardP) (f : Word → Word) : State :=
  s.xTo g [a] 1 d fun x => f (x.gr a)
/-- p[d] from predicates (R198): no guard. -/
def State.xPred (s : State) (pd : RegP) (f : Ctx → BitVec 16) : State :=
  s.xAlways [] 1 fun s => .ok (s.setCx (s.cx.setP pd (f s.cx)))
/-- p[d] under a scalar guard. -/
def State.xToP (s : State) (g : GuardP) (regs : List RegG) (pd : RegP) (f : Ctx → BitVec 16) : State :=
  s.xRun g regs 1 fun s => .ok (s.setCx (s.cx.setP pd (f s.cx)))
/-- b[d] of A. -/
def State.aTo (s : State) (q : GuardQ) (len : Nat) (d : RegB) (f : Ctx → Word) : State :=
  s.aRun q len fun s => .ok (s.setCx (s.cx.setB d (f s.cx)))
/-- c[d] of M. -/
def State.mTo (s : State) (len : Nat) (d : RegC) (f : Ctx → Word) : State :=
  s.mRun len fun s => .ok (s.setCx (s.cx.setC d (f s.cx)))

/-- The ctx CSR (R64). -/
def State.ctxCsr (s : State) : Word :=
  BitVec.ofNat 64 (s.cur.ctx % 4 + s.cl.lcell.toNat * 2 ^ 8 + s.cl.tag % 32 * 2 ^ 24 + s.cx.kmode.toNat * 2 ^ 29)

/-- A CSR as it reads (R62). -/
def State.csr (s : State) (c : Csr) : Word :=
  match c with
  | .fmode => if s.cx.fmode then 1 else 0
  | .xfid => zext s.cx.xfid
  | .ctx => s.ctxCsr
  | .cycle => s.cycle
  | .time => s.time
  | .late => s.cx.late
  | .gst => s.cx.gst
  | .gstk => s.cx.gstk
  | .gtt => s.cx.gtt
  | .gmt => s.cx.gmt
  | .gdim => s.cx.gdim

/-- A CSR written (R62, R63): a read-only one keeps its value, and of fmode bit 0 is written. -/
def Ctx.setCsr (x : Ctx) (c : Csr) (w : Word) : Ctx :=
  match c with
  | .fmode => { x with fmode := w.getLsbD 0 }
  | .late => { x with late := w }
  | .xfid | .ctx | .cycle | .time | .gst | .gstk | .gtt | .gmt | .gdim => x

end Sys2Proof.Machine
end

