-- ==== Sys2Proof/Machine/LoadStore.lean ====
section
/-! DEFINITION. Loads, stores, atomics, fences, cell-store scalars and timelines of X (R140, R231 to R240). -/

namespace Sys2Proof.Machine
open Sys2Proof

/-- The byte offset of an XM form (R177, R234). -/
def memAddr (base : Word) (sz : BitVec 2) (imm : BitVec 7) : Word := base + sext imm * BitVec.ofNat 64 (2 ^ sz.toNat)

/-- A loaded number of n bytes, sign- or zero-extended (R234). -/
def widen (n : Nat) (sx : Bool) (v : Nat) : Word :=
  if sx && 2 ^ (8 * n - 1) ≤ v then BitVec.ofNat 64 (2 ^ 64 + v - 2 ^ (8 * n)) else BitVec.ofNat 64 v

/-- LD (R234): no guard. -/
def execXLd (d a : RegG) (sz : BitVec 2) (sx : Bool) (ord : Ord) (_sc : Scope) (imm : BitVec 7) (s : State) : Res :=
  .next (s.xAlways [d, a] 1 fun s =>
    let n := 2 ^ sz.toNat
    (s.load .x 1 (memAddr (s.cx.gr a) sz imm) n ord).map fun r => r.2.setCx (r.2.cx.setG d (widen n sx (leNat r.1))))

/-- ST (R234): no guard. -/
def execXSt (d a : RegG) (sz : BitVec 2) (ord : Ord) (_sc : Scope) (imm : BitVec 7) (s : State) : Res :=
  .next (s.xAlways [d, a] 1 fun s =>
    s.store .x (memAddr (s.cx.gr a) sz imm) (leBytes (2 ^ sz.toNat) (s.cx.gr d).toNat) ord)

/-- The signed value of a number of n bytes. -/
def signedOf (n v : Nat) : Int := if 2 ^ (8 * n - 1) ≤ v then (v : Int) - 2 ^ (8 * n) else v

/-- The new value of an atomic of n bytes (R236). -/
def amoNew (op : AmoOp) (n old b : Nat) : Nat :=
  match op with
  | .add => (old + b) % 2 ^ (8 * n)
  | .and => old &&& b
  | .or => old ||| b
  | .xor => old ^^^ b
  | .min => if signedOf n b < signedOf n old then b else old
  | .max => if signedOf n old < signedOf n b then b else old
  | .minu => min old b
  | .maxu => max old b
  | .swap => b

/-- The bytes of an XA form (R235). -/
def atomicBytes (dbl : Bool) : Nat := if dbl then 8 else 4

/-- AMO (R236). -/
def execXAmo (d a b : RegG) (dbl : Bool) (ord : Ord) (_sc : Scope) (op : AmoOp) (s : State) : Res :=
  .next (s.xAlways [d, a, b] 1 fun s =>
    let n := atomicBytes dbl
    (s.atomic .x (s.cx.gr a) n ord fun old => some (amoNew op n old ((s.cx.gr b).toNat % 2 ^ (8 * n)))).map
      fun r => r.2.setCx (r.2.cx.setG d (widen n true r.1)))

/-- CAS (R236). -/
def execXCas (d a b : RegG) (dbl : Bool) (ord : Ord) (_sc : Scope) (s : State) : Res :=
  .next (s.xAlways [d, a, b] 1 fun s =>
    let n := atomicBytes dbl
    (s.atomic .x (s.cx.gr a) n ord fun old =>
      if old = (s.cx.gr d).toNat % 2 ^ (8 * n) then some ((s.cx.gr b).toNat % 2 ^ (8 * n)) else none).map
      fun r => r.2.setCx (r.2.cx.setG d (widen n true r.1)))

/-! Fences (R140). -/

/-- The load groups that A has issued and that have not landed. -/
def Ctx.loadsFly (x : Ctx) : Bool := x.streams.any fun t => !t.2.loadsFly.isEmpty
/-- The store groups that A has issued and that are not written, with what closing streams still hold. -/
def Ctx.storesFly (x : Ctx) : Bool := x.streams.any fun t => !t.2.stores.isEmpty || t.2.closingBusy
/-- Entries pushed to a store stream and not written. -/
def Ctx.pushedFly (x : Ctx) : Bool :=
  x.streams.any fun t => dStoreKind t.2.desc && (!t.2.entries.isEmpty || !t.2.stores.isEmpty)

/-- What a fence of X waits for and does (R140). Every engine of the context observes X's buffered stores (R108, R133), so that ctx has
nothing to wait for. -/
def State.fenceX (s : State) (kind : FenceKind) : Act State :=
  match kind with
  | .full => .ok (s.rel.acq .x)
  | .acq => .ok (s.acq .x)
  | .rel => .ok s.rel
  | .st => .ok s.rel
  | .stream => if s.cx.pushedFly then .error .stall else .ok s.rel
  | .ctx => .ok s

/-- What a fence of A waits for and does (R140): its accesses are the groups it has issued. -/
def State.fenceA (s : State) (kind : FenceKind) : Act State :=
  match kind with
  | .full => if s.cx.loadsFly || s.cx.storesFly then .error .stall else .ok (s.rel.acq .a)
  | .acq => if s.cx.loadsFly then .error .stall else .ok (s.acq .a)
  | .rel => if s.cx.loadsFly || s.cx.storesFly then .error .stall else .ok s.rel
  | .st => if s.cx.storesFly then .error .stall else .ok s.rel
  | .stream => if s.cx.loadsFly || s.cx.storesFly then .error .stall else .ok s.rel
  | .ctx => if s.cx.loadsFly || s.cx.storesFly then .error .stall else .ok s

/-- FENCE (R237). -/
def execXFence (kind : FenceKind) (_sc : Scope) (g : GuardP) (s : State) : Res :=
  .next (s.xRun g [] 1 fun s => s.fenceX kind)

/-- The cell-store offset of lds and sts (R238). -/
def cellAddr (base : Word) (imm : BitVec 12) : Word := base + sext imm * 8

/-- LDS (R238). -/
def execXLds (d a : RegG) (imm : BitVec 12) (g : GuardP) (s : State) : Res :=
  .next (s.xRun g [d, a] 1 fun s =>
    (s.storeLoad (cellAddr (s.cx.gr a) imm) 8 8).map fun r => r.2.setCx (r.2.cx.setG d (BitVec.ofNat 64 (leNat r.1))))

/-- STS (R238). -/
def execXSts (d a : RegG) (imm : BitVec 12) (g : GuardP) (s : State) : Res :=
  .next (s.xRun g [d, a] 1 fun s => s.storeStore (cellAddr (s.cx.gr a) imm) (leBytes 8 (s.cx.gr d).toNat) 8)

/-- TLWAIT (R240). -/
def execXTlwait (k : TimelineNo) (a : RegG) (g : GuardP) (s : State) : Res :=
  .next (s.xRun g [a] 1 fun s => if (s.cx.doneOf k.toNat).ult (s.cx.gr a) then .error .stall else .ok (s.acq .x))

/-- TLREAD (R240). -/
def execXTlread (d : RegG) (k : TimelineNo) (g : GuardP) (s : State) : Res :=
  .next (s.xTo g [] 1 d fun x => x.doneOf k.toNat)

end Sys2Proof.Machine
end

