-- ==== Sys2Proof/Machine/Copies.lean ====
section
/-! DEFINITION. Copies (R114 to R121, R239): the block, its issue, the runs of the streamers, slab landings and completion. -/

namespace Sys2Proof.Machine
open Sys2Proof

/-! The fields of a copy parameter block (R114), read from its 64 bytes. -/
def cpX0 (b : List Byte) : Nat := bnat b 16 1
def cpY0 (b : List Byte) : Nat := bnat b 17 1
def cpW (b : List Byte) : Nat := bnat b 18 1
def cpH (b : List Byte) : Nat := bnat b 19 1
def cpSlOff (b : List Byte) : Nat := bnat b 20 4
def cpBlk (b : List Byte) : Nat := bnat b 24 4
def cpLen (b : List Byte) : Nat := bnat b 28 4
def cpRows (b : List Byte) : Nat := bnat b 32 2
def cpTl (b : List Byte) : Nat := nbits 0 2 (bnat b 44 1)
def cpCch (b : List Byte) : Nat := bnat b 45 1
def cpXfid (b : List Byte) : Nat := bnat b 46 2
def cpFollow (b : List Byte) : Nat := bnat b 48 8
def cpDslab (b : List Byte) : Bool := nbits 0 1 (bnat b 56 1) = 1
def cpSslab (b : List Byte) : Bool := nbits 1 1 (bnat b 56 1) = 1
/-- Bytes moved: LEN · ROWS. -/
def cpBytes (b : List Byte) : Nat := cpLen b * cpRows b
/-- The virtual address of byte o of the sequence, on the source or the destination side. -/
def cpAddr (b : List Byte) (dst : Bool) (o : Nat) : Word :=
  let base := BitVec.ofNat 64 (bnat b (if dst then 8 else 0) 8)
  let stride := (BitVec.ofNat 32 (bnat b (if dst then 40 else 36) 4)).signExtend 64
  base + stride * BitVec.ofNat 64 (o / cpLen b) + BitVec.ofNat 64 (o % cpLen b)
/-- The logical cell and the cell-store offset of byte o of a slab (R118). -/
def slabCell (w : Nat) (b : List Byte) (o : Nat) : Nat × Nat :=
  let k := o / cpBlk b
  let n := cpW b * cpH b
  ((cpY0 b + k % n / cpW b) * w + cpX0 b + k % n % cpW b, cpSlOff b + k / n * cpBlk b + o % cpBlk b)

/-- A grid position of KIND 01 (R356), and its physical cell. -/
def Part.cellAt (p : Part) (l : Nat) : Option Nat :=
  match p.resolve l with
  | some e => if nbits 30 2 e.toNat = 1 then some (nbits 0 11 e.toNat) else none
  | none => none

/-- A grid position whose cell is evicted. -/
def Part.awayAt (p : Part) (l : Nat) : Bool :=
  match p.resolve l with
  | some e => entKind e = 1 && entEvict e
  | none => false

/-- Every position of a rectangle is a cell of the partition's grid (R10, R356). -/
def Part.rectOk (p : Part) (x0 y0 w h : Nat) : Bool :=
  w ≠ 0 && h ≠ 0 && x0 + w ≤ p.gridW && y0 + h ≤ p.gridH
    && (List.range h).all fun j => (List.range w).all fun i => (p.cellAt ((y0 + j) * p.gridW + x0 + i)).isSome

/-- Ceil(a / b). -/
def ceilDiv (a b : Nat) : Nat := (a + b - 1) / b

/-- What makes a block invalid (R115). -/
def cpInvalid (p : Part) (b : List Byte) : Bool :=
  let tls := bnat b 44 1
  let slab := cpDslab b || cpSslab b
  bnat b 34 2 ≠ 0 || nbits 5 3 tls ≠ 0 || nbits 2 6 (bnat b 56 1) ≠ 0 || bnat b 57 7 ≠ 0
    || 5 ≤ nbits 2 3 tls || cpLen b = 0 || cpRows b = 0 || (64 ≤ cpCch b && cpCch b ≤ 254)
    || (cpDslab b && cpSslab b) || (cpFollow b ≠ 0 && (!cpDslab b || cpFollow b % 32 ≠ 0))
    || (slab && (!p.rectOk (cpX0 b) (cpY0 b) (cpW b) (cpH b)
        || cpBlk b % 64 ≠ 0 || cpBlk b < 64 || 65536 < cpBlk b || cpSlOff b % 64 ≠ 0 || nbits 19 13 (cpSlOff b) ≠ 0
        || Config.storeBytes < cpSlOff b + ceilDiv (ceilDiv (cpBytes b) (cpBlk b)) (cpW b * cpH b) * cpBlk b))

/-- The pages that one side of a memory copy touches, in address order: page number and the first byte touched (R116). -/
def cpPages (b : List Byte) (dst : Bool) : List (Nat × Word) :=
  let cuts := (List.range (cpRows b)).flatMap fun r => pageCuts (cpLen b / 4096 + 2) (cpAddr b dst (r * cpLen b)) (cpLen b)
  (sortBy (fun c => c.1.toNat) cuts).foldl
    (fun acc c => if acc.any fun d => d.1 == c.1.toNat / 4096 then acc else acc ++ [(c.1.toNat / 4096, c.1)]) []

/-- The translation of every page of one side, each entered with its 4 KiB base; a fault names the page (R116, R382). The access is the
streamer's, so a first touch records interleave (R112, R377). -/
def State.cpTranslate (s : State) (need : Need) (pages : List (Nat × Word)) : Act (SMap (Nat × Place) × State) :=
  pages.foldl
    (fun acc c => match acc with
      | .error h => .error h
      | .ok (m, t) => match t.xlateBy none t.cur.cell t.cx.kmode need c.2 with
        | .error (w, t) => t.trap { w with acc := 5 }
        | .ok (l, t) => .ok (mput m c.1 (l.pa / 4096 * 4096, l.place), t))
    (.ok ([], s))

/-- The copies of a context that have not completed. -/
def State.copiesOf (s : State) (cell ctx : Nat) : Nat :=
  (s.copies.filter fun c => c.issuer.cell == cell && c.issuer.ctx == ctx).length

/-- The destination cells of a slab that receive a byte (R119), physical. -/
def cpTargets (p : Part) (b : List Byte) : List Nat :=
  ((List.range (min (ceilDiv (cpBytes b) (cpBlk b)) (cpW b * cpH b))).filterMap
    fun k => p.cellAt (slabCell p.gridW b (k * cpBlk b)).1).eraseDups

/-- The issue of a copy whose block lies at va, by an engine (R116, R239): the ticket. -/
def State.copyIssue (s : State) (e : Eng) (va : Word) : Act (Word × State) :=
  match s.load e 1 va 64 .weak with
  | .error h => .error h
  | .ok (b, s) =>
    let p := s.part s.pid
    if cpInvalid p b then s.illegal
    else if Config.maxCopies ≤ s.copiesOf s.cur.cell s.cur.ctx then .error .stall
    else match s.cpTranslate .read (if cpSslab b then [] else cpPages b false) with
    | .error h => .error h
    | .ok (src, s) => match s.cpTranslate .write (if cpDslab b then [] else cpPages b true) with
      | .error h => .error h
      | .ok (dst, s) =>
        let i := s.issuer s.cur.cell s.cur.ctx e
        let (s, k) := s.takeTicket s.cur.cell s.cur.ctx (cpTl b)
        let c : Copy := {
          id := s.serial, issuer := i, part := s.pid, kmode := s.cx.kmode, f8m := s.cx.fmode, tl := cpTl b, ticket := k, block := vecOf b
          srcMap := src, dstMap := dst, todo := [(0, cpBytes b)], accept := if cpFollow b = 0 then [] else cpTargets p b
          discard := false, poison := false, waited := [] }
        .ok (k, { s.bump with copies := s.copies ++ [c] })

/-- CPY (R239). -/
def execXCpy (d a : RegG) (g : GuardP) (s : State) : Res :=
  .next (s.xRun g [d, a] 1 fun s => (s.copyIssue .x (s.cx.gr a)).map fun r => r.2.setCx (r.2.cx.setG d r.1))

/-! Streamers. -/

/-- The copy of a number. -/
def State.copy (s : State) (n : Nat) : Option Copy := s.copies.find? fun c => c.id == n
/-- A copy put back. -/
def State.setCopy (s : State) (c : Copy) : State := { s with copies := s.copies.map fun d => if d.id == c.id then c else d }

def Copy.b (c : Copy) : List Byte := vecBytes c.block

/-- A cut before byte o splits no aligned 4-byte word on a side (R117). -/
def cutSide (b : List Byte) (slab dst : Bool) (o : Nat) : Bool :=
  if slab then o % 4 = 0
  else o = 0 || (cpAddr b dst o).toNat % 4 = 0 || cpAddr b dst o ≠ cpAddr b dst (o - 1) + 1
def cutOk (b : List Byte) (o : Nat) : Bool := cutSide b (cpSslab b) false o && cutSide b (cpDslab b) true o

/-- The physical address of a byte of a mapped side, with the placement. -/
def mapped (m : SMap (Nat × Place)) (va : Word) : Loc :=
  let e := mget (0, Place.interleave) m (va.toNat / 4096)
  ⟨e.1 + va.toNat % 4096, e.2⟩

/-- The source bytes from o on, as they stand, each with whether it is poisoned (R117, R121, R125). -/
def State.copySource (s : State) (c : Copy) (o n : Nat) : List (Byte × Bool) :=
  let b := c.b
  if cpSslab b then
    let p := s.part c.part
    (List.range n).map fun i =>
      let (l, off) := slabCell p.gridW b (o + i)
      match p.cellAt l with
      | some cell => (((s.storeRead cell off 1).2.getD 0 0), (s.cell cell).storePoison off 1)
      | none => (0, false)
  else (List.range n).map fun i =>
    let pa := (mapped c.srcMap (cpAddr b false (o + i))).pa
    let failed := match s.stageAt c.part pa with
      | some (.failed _) => true
      | some (.pending _ _) | some (.ready _) | none => false
    (s.latest pa, s.poisoned (pa / 64) || failed)

/-- The pending staging slots that the source bytes of a run lie in (R124). -/
def State.copyWaits (s : State) (c : Copy) (o n : Nat) : List Nat :=
  if cpSslab c.b then []
  else s.pendingSlots c.part ((List.range n).map fun i => (mapped c.srcMap (cpAddr c.b false (o + i))).pa)

/-- A copy waits on pending slots: the stager counts each slot once for a copy (R124; log 62). -/
def State.copyLate (s : State) (c : Copy) (ns : List Nat) : State :=
  let more := ns.filter fun n => !c.waited.contains n
  more.foldl (fun s _ => s.countLate c.part) (s.setCopy { c with waited := c.waited ++ more })

/-- A byte of a run lies in the store of an evicted cell: the run waits (R357, R364). -/
def State.copyAway (s : State) (c : Copy) (o n : Nat) : Bool :=
  let p := s.part c.part
  (cpSslab c.b || cpDslab c.b) && (List.range n).any fun i => p.awayAt (slabCell p.gridW c.b (o + i)).1

/-- The physical pieces of one side of a memory copy. -/
def Copy.pieces (c : Copy) (dst : Bool) : List (Nat × Nat) :=
  (List.range (cpRows c.b)).flatMap fun r =>
    (pageCuts (cpLen c.b / 4096 + 2) (cpAddr c.b dst (r * cpLen c.b)) (cpLen c.b)).map
      fun p => ((mapped (if dst then c.dstMap else c.srcMap) p.1).pa, p.2)
/-- Source and destination of one memory copy overlap (R117). -/
def Copy.overlaps (c : Copy) : Bool :=
  !cpSslab c.b && !cpDslab c.b && (c.pieces false).any fun p => (c.pieces true).any fun q => meets p.1 p.2 q.1 q.2

/-- The sequence range that is left of an interval list when [o, o + n) is taken out of it. -/
def carve (todo : List (Nat × Nat)) (o n : Nat) : List (Nat × Nat) :=
  todo.flatMap fun (a, z) =>
    if a ≤ o ∧ o + n ≤ z then (if a < o then [(a, o)] else []) ++ (if o + n < z then [(o + n, z)] else []) else [(a, z)]

/-- The bytes of a run land at their memory homes; a poisoned byte poisons its line (R117, R121). -/
def State.copyToMemory (s : State) (c : Copy) (o : Nat) (bs : List (Byte × Bool)) : State :=
  let at_ := fun (i : Nat) => mapped c.dstMap (cpAddr c.b true (o + i))
  let ws := bs.mapIdx fun i v => ((at_ i).pa, v.1)
  let bad := ((bs.mapIdx fun i v => ((at_ i).pa / 64, v.2)).filter fun e => e.2).map fun e => e.1
  let s := bs.zipIdx.foldl (fun s v => s.allocIn (homeBank (at_ v.2)) c.part) s
  bad.eraseDups.foldl State.markPoison (s.homeScatter ws)

/-- The bytes of a run leave for the cell stores, granule by granule (R117, R118). -/
def State.copyToCells (s : State) (c : Copy) (o : Nat) (bs : List (Byte × Bool)) : State :=
  let p := s.part c.part
  let parts := (List.range ((o + bs.length - 1) / 64 - o / 64 + 1)).filterMap fun k =>
    let a := max o (64 * (o / 64 + k))
    let z := min (o + bs.length) (64 * (o / 64 + k + 1))
    let (l, off) := slabCell p.gridW c.b a
    let part := (bs.drop (a - o)).take (z - a)
    (p.cellAt l).map fun cell => (⟨c.id, cell, off, a, part.map fun v => v.1, part.any fun v => v.2⟩ : Landing)
  { s with landings := s.landings ++ parts }

/-- The reads of a run at its source: a dirty holder is snooped, and the home allocates the line (R387, R391); a gated bank wakes (R408). -/
def State.copyTouch (s : State) (c : Copy) (o n : Nat) : State :=
  if cpSslab c.b then
    let p := s.part c.part
    (List.range n).foldl (fun s i =>
      let (l, off) := slabCell p.gridW c.b (o + i)
      (p.cellAt l).elim s fun cell => s.setCell cell ((s.cell cell).wakeFor off 1)) s
  else (List.range n).foldl (fun s i =>
    let l := mapped c.srcMap (cpAddr c.b false (o + i))
    (s.snoopRead (l.pa / 64)).allocIn (homeBank l) c.part) s

/-- COPY_RUN_ARRIVE (R117, R121, R124): a run of copy n, len bytes from byte off of its sequence, is read and pushed. It cuts no aligned
4-byte word. A run that meets a pending staging slot waits. -/
def execEvCopyRunArrive (n off len : Nat) (s : State) : Res :=
  .next (match s.copy n with
    | none => s
    | some c =>
      let fits := c.todo.any fun (a, z) => a ≤ off && off + len ≤ z && (a = off || cutOk c.b off) && (off + len = z || cutOk c.b (off + len))
      if len = 0 ∨ !fits ∨ s.copyAway c off len then s
      else if !(s.copyWaits c off len).isEmpty then s.copyLate c (s.copyWaits c off len)
      else
        let bs := s.copySource c off len
        let s := s.copyTouch c off len
        let free := bs.mapIdx fun i v => ((vecBytes (Config.freeBits (s.free + i / 64))).getD (i % 64) 0, v.2)
        let bs := if c.overlaps then free else bs
        let s := { s with free := s.free + len / 64 + 1 }
        let s := s.setCopy { c with todo := carve c.todo off len, poison := c.poison || bs.any fun v => v.2 }
        if cpDslab c.b then s.copyToCells c off bs else s.copyToMemory c off bs)

/-- Every byte that a copy writes into the granule of sequence byte a has landed (R106). -/
def State.granuleLanded (s : State) (c : Copy) (a : Nat) : Bool :=
  let lo := a / 64 * 64
  !(c.todo.any fun (x, z) => meets x (z - x) lo 64) && !(s.landings.any fun l => l.copy == c.id && meets l.start l.bytes.length lo 64)

/-- SLAB_LANDING (R106, R117, R121, R389): the n-th landing reaches its cell store. -/
def execEvSlabLanding (n : Nat) (s : State) : Res :=
  .next (match s.landings[n]? with
    | none => s
    | some l =>
      let s := { s with landings := s.landings.eraseIdx n }
      let s := s.storeWrite l.cell l.off l.bytes
      let g := l.off / 64
      let k := s.cell l.cell
      let k := if l.poison then { k with cpoison := mset false k.cpoison g true } else k
      let whole := match s.copy l.copy with
        | some c => s.granuleLanded c l.start
        | none => true
      s.setCell l.cell (if whole then { k with landed := mset false k.landed g true } else k))

/-- The completion parcel of a copy (R120). -/
def Copy.parcel (c : Copy) (k : Cell) (part : Nat) : Vec :=
  let b := c.b
  let l := k.lcell.toNat
  let status := if c.poison then 1 else if c.discard then 2 else 0
  mkParcel (mkHdr 0 true false c.f8m part 0xFFFF 0xFF (cpCch b) l)
    (leBytes 2 (cpXfid b) ++ leBytes 1 c.tl ++ leBytes 1 status ++ zeros 4 ++ leBytes 8 c.ticket.toNat ++ bslice b 0 8
      ++ (if cpDslab b then leBytes 8 (cpSlOff b) else bslice b 8 8) ++ leBytes 8 (cpBytes b))

/-- COPY_COMPLETE (R119, R120): copy n is done: every byte written or landed, every follow-on block accepted. -/
def execEvCopyComplete (n : Nat) (s : State) : Res :=
  .next (match s.copy n with
    | none => s
    | some c =>
      if !c.todo.isEmpty || !c.accept.isEmpty || s.landings.any fun l => l.copy == n then s
      else
        let s := { s with copies := s.copies.filter fun d => d.id != n }
        let s := s.settleDone c.issuer.cell c.issuer.ctx
        if cpCch c.b = 0xFF then s
        else s.launchFlight (c.parcel (s.cell c.issuer.cell) c.part) c.part (.copyDone c.issuer))

end Sys2Proof.Machine
end

