-- ==== Sys2Proof/Machine/AEngine.lean ====
section
/-! DEFINITION. The A engine (R179, R180, R241 to R247) and the steps of the streams it opens (R68, R71, R426). -/

namespace Sys2Proof.Machine
open Sys2Proof

/-! Scalars (R241). -/

/-- A.NOP. -/
def execANop (q : GuardQ) (s : State) : Res := .next (s.aRun q 1 fun s => .ok s)
/-- A.DONE (R24, R241). -/
def execADone (q : GuardQ) (s : State) : Res := .next (s.aFlow q 1 fun s => .ok (s.endEngine .a))
/-- A.ADD. -/
def execAAdd (d a b : RegB) (q : GuardQ) (s : State) : Res := .next (s.aTo q 1 d fun x => x.br a + x.br b)
/-- A.SUB. -/
def execASub (d a b : RegB) (q : GuardQ) (s : State) : Res := .next (s.aTo q 1 d fun x => x.br a - x.br b)
/-- A.AND. -/
def execAAnd (d a b : RegB) (q : GuardQ) (s : State) : Res := .next (s.aTo q 1 d fun x => x.br a &&& x.br b)
/-- A.SHL. -/
def execAShl (d a b : RegB) (q : GuardQ) (s : State) : Res := .next (s.aTo q 1 d fun x => x.br a <<< ((x.br b).toNat % 64))
/-- A.SHR. -/
def execAShr (d a b : RegB) (q : GuardQ) (s : State) : Res := .next (s.aTo q 1 d fun x => x.br a >>> ((x.br b).toNat % 64))
/-- A.MUL. -/
def execAMul (d a b : RegB) (q : GuardQ) (s : State) : Res := .next (s.aTo q 1 d fun x => x.br a * x.br b)
/-- A.MOV. -/
def execAMov (d a : RegB) (q : GuardQ) (s : State) : Res := .next (s.aTo q 1 d fun x => x.br a)
/-- A.ADDI. -/
def execAAddi (d a : RegB) (imm : BitVec 12) (q : GuardQ) (s : State) : Res := .next (s.aTo q 1 d fun x => x.br a + sext imm)
/-- A.LIM. -/
def execALim (d : RegB) (imm : BitVec 32) (q : GuardQ) (s : State) : Res := .next (s.aTo q 2 d fun _ => sext imm)
/-- A.CMP (R195, R241). -/
def execACmp (cond : Cond) (qd : BitVec 2) (a b : RegB) (q : GuardQ) (s : State) : Res :=
  .next (s.aRun q 1 fun s => .ok (s.setCx (s.cx.setQ qd (condHolds cond (s.cx.br a) (s.cx.br b)))))
/-- A.BR (R179, R241): unguarded. -/
def execABr (qt : BitVec 2) (tm : Bool) (off : BitVec 17) (s : State) : Res :=
  .next (if s.cx.qr qt != tm then s.settle .a (s.jumpTo .a (relTarget (s.slotOf .a) off) none) else s.retire .a 1)
/-- A.JMP. -/
def execAJmp (imm : BitVec 32) (q : GuardQ) (s : State) : Res :=
  .next (s.aFlow q 2 fun s => s.jumpTo .a (relTarget (s.slotOf .a) imm) none)
/-- A.LOOP (R206, R207, R241). -/
def execALoop (k : LoopNo) (a : RegB) (imm : BitVec 32) (q : GuardQ) (s : State) : Res :=
  .next (s.aFlow q 2 fun s => s.loopSet .a k.toNat (s.cx.br a) (relTarget (s.slotOf .a) imm))
/-- A has groups in flight, or entries of a closing stream to write. -/
def Ctx.groupsFly (x : Ctx) : Bool := x.loadsFly || x.storesFly
/-- A.TKPUT: the groups that A has issued are performed before it (R133; DEDUCED, log 53). -/
def execATkput (f : Fifo) (a : RegB) (q : GuardQ) (s : State) : Res :=
  .next (s.aRun q 1 fun s => if s.cx.groupsFly then .error .stall else s.fifoPut f (s.cx.br a))
/-- A.TKGET. -/
def execATkget (d : RegB) (f : Fifo) (q : GuardQ) (s : State) : Res :=
  .next (s.aRun q 1 fun s => s.fifoGet .a f fun x w => x.setB d w)

/-! Opening and closing (R71, R242). -/

/-- A group of a copy-landing descriptor reaches into another channel's actor frame (R242). -/
def State.landingHit (s : State) (d : BitVec 256) : Bool :=
  (List.range (dRows d * dGroups d)).any fun i => let a := groupAt d i; s.cl.frameHit s.cx.chan a.addr.toNat a.len

/-- A stream just opened; groups of an earlier opening may still have to land (R71). -/
def Stream.opening (t : Stream) (d : BitVec 256) : Stream := { Stream.reset with desc := d, st := .opened, dropping := t.dropping }

/-- An acquire load of A is in flight: no later access of A is performed before it (R131). -/
def Ctx.acqFly (x : Ctx) : Bool := x.flying.any fun f => f.acq && !f.store

/-- A.SOPEN (R242). -/
def execASopen (st : StreamNo) (b : RegB) (imm : BitVec 14) (q : GuardQ) (s : State) : Res :=
  .next (s.aRun q 1 fun s =>
    if s.cx.acqFly then .error .stall
    else match s.storeLoad (s.cx.br b + BitVec.ofNat 64 (32 * imm.toNat)) 32 32 with
    | .error h => .error h
    | .ok (bs, s) =>
      let d := BitVec.ofNat 256 (leNat bs)
      let t := s.cx.stream st
      if dInvalid d then s.illegal
      else if dKind d = 5 ∧ s.landingHit d then s.trap ⟨0x12, 4, 0xFF, 0, 0, 0⟩
      else match t.st with
        | .opened => s.illegal
        | .closing => .error .stall
        | .closed => .ok (s.setCx (s.cx.setStream st (t.opening d))))

/-- A.SCLOSE (R71, R242). A store stream closes when no group of another stream of the context is in flight (log 22). -/
def execASclose (st : StreamNo) (q : GuardQ) (s : State) : Res :=
  .next (s.aRun q 1 fun s =>
    let x := s.cx
    let t := x.stream st
    let others := x.closingOther st || x.streams.any fun e => e.1 != st.toNat && !e.2.flying.isEmpty
    if t.st ≠ .opened then .ok s
    else if dLoadKind t.desc then .ok (s.setCx (x.setStream st t.close))
    else if others then .error .stall
    else .ok (s.setCx (x.setStream st { t with st := .closing }.settle)))

/-! Element groups (R243 to R245). -/

/-- A trap at a group: ACC 4, and the group register's value (R382). -/
def groupWhy (w : Why) (b : Word) : Why := { w with acc := 4, detail := b }

/-- The checks of a read that follow translation (R231): a pending or failed staging slot, poison that A's own buffered stores do not
cover. vaOf is the address that a record names for a piece. -/
def State.groupReads (s : State) (cellKind : Bool) (ps : List Piece) (vaOf : Piece → Word) (b : Word) : Act State :=
  let stage := fun (p : Piece) => if cellKind then none else s.stageAt s.pid p.addr
  let pend := fun p => match stage p with
    | some (.pending _ _) => true
    | some (.failed _) | some (.ready _) | none => false
  let fail := fun p => match stage p with
    | some (.failed _) => true
    | some (.pending _ _) | some (.ready _) | none => false
  let bad := fun (p : Piece) =>
    if cellKind then s.cl.storePoison p.addr p.len
    else (lineCuts p.addr p.len).any fun c => s.poisoned (c.1 / 64) && !sbCovers (sbOf s.cx.sb (c.1 / 64)) (c.1 % 64) c.2
  match ps.find? pend with
  | some p => .error (.late true p.addr s)
  | none => match ps.find? fun p => fail p || bad p with
    | some p => s.trap (groupWhy (whyOf 0x13 4 (if cellKind then 0 else vaOf p)) b)
    | none => .ok (if s.cx.ea.waited.isSome then s.acq .a else s)

/-- The place of a row's scale word, checked as a weak load of 4 bytes (R231, R243). -/
def State.scalePlace (s : State) (va b : Word) : Act (Loc × State) :=
  if va.toNat % 4 ≠ 0 then s.trap (groupWhy (whyOf 5 4 va) b)
  else match s.xlate s.cur.cell s.cx.kmode .read va with
  | .error (w, s) => s.trap (groupWhy w b)
  | .ok (l, s) => (s.groupReads false [⟨l.pa, 4, 0, l.place⟩] (fun _ => va) b).map fun s => (l, s.allocIn (homeBank l) s.pid)

/-- A multi-group instruction goes on to its next group, or retires at the end of its run (R244). -/
def State.nextGroup (s : State) (b : RegB) (n : Nat) : State :=
  let i := s.cx.br b + 1
  let x := s.cx.setB b i
  let s := s.setCx (x.setEng .a { x.ea with waited := none })
  if i.toNat % n = 0 then s.retire .a 1 else s

/-- The read of group b[M] is issued (R243, R244). -/
def State.issueLoad (s : State) (st : StreamNo) (b : RegB) (n : Nat) : Act State :=
  let t := s.cx.stream st
  let d := t.desc
  let i := s.cx.br b
  let a := groupAt d i.toNat
  match s.groupPieces s.cur.cell s.cx.kmode .read s.cx.chan (dCellKind d) (tyBits (dFmt d) / 8) a.addr a.len with
  | .error (w, s) => s.trap (groupWhy w i)
  | .ok (ps, s) => match s.groupReads (dCellKind d) ps (fun _ => a.addr) i with
    | .error h => .error h
    | .ok s =>
      let put := fun (s : State) (sc : Option (Nat × Place)) =>
        let t := s.cx.stream st
        let g : Group := ⟨ps, sc, dScBase d != 0 && a.p != 0, s.now⟩
        (s.setCx (s.cx.setStream st { t with loads := t.loads ++ [g], next := t.next + 1 })).nextGroup b n
      if dScBase d ≠ 0 ∧ a.p = 0 then (s.scalePlace (scaleVa d a.row) i).map fun r => put r.2 (some (r.1.pa, r.1.place))
      else .ok (put s none)

/-- A.LD (R244). -/
def execALd (st : StreamNo) (b : RegB) (n : BitVec 14) (q : GuardQ) (s : State) : Res :=
  .next (s.aFlow q 1 fun s =>
    let t := s.cx.stream st
    if n = 0 ∨ t.st ≠ .opened ∨ !(dKind t.desc = 1 || dKind t.desc = 3) then s.illegal
    else if dDepth t.desc ≤ t.ahead then .error .stall
    else s.issueLoad st b n.toNat)

/-- The write of the entry at HEAD over some pieces is issued (R68, R244). -/
def State.issueStore (s : State) (st : StreamNo) (ps : List Piece) : State :=
  let t := s.cx.stream st
  match t.entries with
  | [] => s
  | e :: rest =>
    let g : Group := ⟨ps, none, false, s.now⟩
    s.setCx (s.cx.setStream st { t with entries := rest, stores := t.stores ++ [(g, e)], next := t.next + 1, head := t.head + 1 })

/-- The scale of a row that a store group reads with the row's first piece (R243). Nothing takes its value (DEDUCED, log 56). -/
def State.storeScale (s : State) (d : BitVec 256) (a : GroupAt) (i : Word) : Act State :=
  if dScBase d = 0 ∨ a.p ≠ 0 then .ok s
  else (s.scalePlace (scaleVa d a.row) i).map fun r => (r.2.scaleAt s.cur.cell s.cur.ctx r.1).1

/-- A.ST (R244). -/
def execASt (st : StreamNo) (b : RegB) (n : BitVec 14) (q : GuardQ) (s : State) : Res :=
  .next (s.aFlow q 1 fun s =>
    let t := s.cx.stream st
    let d := t.desc
    let i := s.cx.br b
    let a := groupAt d i.toNat
    if n = 0 ∨ !t.isStore then s.illegal
    else if t.entries.isEmpty then .error .stall
    else match s.groupPieces s.cur.cell s.cx.kmode .write s.cx.chan (dCellKind d) (tyBits (dFmt d) / 8) a.addr a.len with
      | .error (w, s) => s.trap (groupWhy w i)
      | .ok (ps, s) => (s.storeScale d a i).map fun s => (s.issueStore st ps).nextGroup b n.toNat)

/-! Gather and scatter (R245). -/

/-- An index stream of R245. -/
def Stream.indexOk (t : Stream) : Bool :=
  t.st == .opened && (dKind t.desc == 1 || dKind t.desc == 3) && dFmt t.desc == 2 && dCols t.desc == 16
/-- A data stream of R245. -/
def dataOk (d : BitVec 256) : Bool := dCols d * tyBits (dFmt d) ≤ 512 && dScBase d == 0

/-- The address of element e of a group (R245). An element past the 16 lanes of the index entry has index 0 (DESIGN CHOICE, log 69). -/
def elemVa (d : BitVec 256) (idx : Vec) (e : Nat) : Word :=
  BitVec.ofInt 64 ((dBase d : Int) + (BitVec.ofNat 32 (nbits (32 * e) 32 idx.toNat)).toInt * dStride d)

/-- The pieces of a gather or scatter group, each element translated (R245). -/
def State.elemPieces (s : State) (need : Need) (d : BitVec 256) (idx : Vec) (b : Word) : Act (List Piece × State) :=
  let size := tyBits (dFmt d) / 8
  (List.range (dCols d)).foldl
    (fun acc e => match acc with
      | .error h => .error h
      | .ok (ps, s) =>
        let va := elemVa d idx e
        match s.groupPieces s.cur.cell s.cx.kmode need s.cx.chan (dCellKind d) size va size with
          | .error (w, s) => s.trap (groupWhy w b)
          | .ok (qs, s) => .ok (ps ++ qs.map fun p => { p with off := e * size }, s))
    (.ok ([], s))

/-- The index entry of a group, and the pieces it names. -/
def State.indexed (s : State) (need : Need) (st si : StreamNo) (b : RegB) (k : State → Vec → List Piece → Act State) : Act State :=
  let i := s.cx.br b
  match s.cx.stream si |>.entries with
  | [] => .error .stall
  | e :: _ =>
    if e.poison then s.trap (groupWhy (whyOf 0x13 4 0) i)
    else match s.elemPieces need (s.cx.stream st).desc e.data i with
      | .error h => .error h
      | .ok (ps, s) => k s e.data ps

/-- The index entry at HEAD is taken. -/
def State.takeIndex (s : State) (si : StreamNo) : State :=
  let t := s.cx.stream si
  s.setCx (s.cx.setStream si { t with entries := t.entries.drop 1, head := t.head + 1 })

/-- A.GATH (R245). -/
def execAGath (st : StreamNo) (b : RegB) (si : StreamNo) (n : BitVec 10) (q : GuardQ) (s : State) : Res :=
  .next (s.aFlow q 1 fun s =>
    let t := s.cx.stream st
    let ok := t.st == .opened && (dKind t.desc == 1 || dKind t.desc == 3) && dataOk t.desc
    if n = 0 ∨ si = st ∨ !(s.cx.stream si).indexOk ∨ !ok then s.illegal
    else if dDepth t.desc ≤ t.ahead then .error .stall
    else s.indexed .read st si b fun s idx ps =>
      (s.groupReads (dCellKind t.desc) ps (fun p => elemVa t.desc idx (p.off * 8 / tyBits (dFmt t.desc))) (s.cx.br b)).map fun s =>
        let s := s.takeIndex si
        let t := s.cx.stream st
        (s.setCx (s.cx.setStream st { t with loads := t.loads ++ [⟨ps, none, false, s.now⟩], next := t.next + 1 })).nextGroup b n.toNat)

/-- A.SCAT (R245). -/
def execAScat (st : StreamNo) (b : RegB) (si : StreamNo) (n : BitVec 10) (q : GuardQ) (s : State) : Res :=
  .next (s.aFlow q 1 fun s =>
    let t := s.cx.stream st
    if n = 0 ∨ si = st ∨ !(s.cx.stream si).indexOk ∨ !t.isStore ∨ !dataOk t.desc then s.illegal
    else if t.entries.isEmpty then .error .stall
    else s.indexed .write st si b fun s _ ps => .ok (((s.takeIndex si).issueStore st ps).nextGroup b n.toNat))

/-! Prefetch, table loads, fences and copies (R246, R247). -/

/-- A speculative access is dropped and counted (R341, R380). -/
def Cell.dropOne (k : Cell) : Cell := { k with dpcnt := satInc k.dpcnt }

/-- The speculative requests of the lines of n bytes of a page for a cell (R246, R380): their homes, and the RDC of another die, take
them. -/
def State.prefetch (s : State) (cell : Nat) (kmode : Bool) (va : Word) (n : Nat) : State :=
  let k := s.cell cell
  match s.translate k.tag (some cell) kmode .read true va with
  | .ok (.entry e _, s) =>
    let l := e.loc va
    (lineCuts l.pa n).foldl (fun s c =>
      let l : Loc := ⟨c.1, l.place⟩
      ((s.snoopRead (l.pa / 64)).allocIn (homeBank l) k.tag).throughRdc cell l) s
  | .ok (.stopped, s) => s.setCell cell (s.cell cell).dropOne
  | .error (_, s) => s.setCell cell (s.cell cell).dropOne

/-- A.PREF (R246). -/
def execAPref (st : StreamNo) (b : RegB) (n : BitVec 14) (q : GuardQ) (s : State) : Res :=
  .next (s.aRun q 1 fun s =>
    let t := s.cx.stream st
    if n = 0 ∨ t.st ≠ .opened ∨ !(dKind t.desc = 1 || dKind t.desc = 2) then s.illegal
    else
      .ok ((List.range n.toNat).foldl
        (fun s i =>
          let a := groupAt t.desc ((s.cx.br b).toNat + i)
          if a.addr.toNat % (tyBits (dFmt t.desc) / 8) ≠ 0 then s.setCl s.cl.dropOne
          else (pageCuts 2 a.addr a.len).foldl (fun s c => s.prefetch s.cur.cell s.cx.kmode c.1 c.2) s) s))

/-- A.FENCE (R140, R247). -/
def execAFence (kind : FenceKind) (_sc : Scope) (q : GuardQ) (s : State) : Res := .next (s.aRun q 1 fun s => s.fenceA kind)

/-- A memory access of A waits for its older acquire loads and for the stores it must see (R131). -/
def Ctx.aBusy (x : Ctx) : Bool :=
  x.flying.any (fun f => f.store || f.acq) || x.streams.any fun e => e.2.closingBusy

/-- A.LDB (R247). -/
def execALdb (d a : RegB) (imm : BitVec 12) (q : GuardQ) (s : State) : Res :=
  .next (s.aRun q 1 fun s =>
    if s.cx.aBusy then .error .stall
    else (s.load .a 1 (s.cx.br a + sext imm * 8) 8 .weak).map fun r => r.2.setCx (r.2.cx.setB d (BitVec.ofNat 64 (leNat r.1))))

/-- A.CPY (R116, R146, R239): it leaves after A's earlier loads have their values. -/
def execACpy (d a : RegB) (q : GuardQ) (s : State) : Res :=
  .next (s.aRun q 1 fun s =>
    if s.cx.aBusy || s.cx.loadsFly then .error .stall
    else (s.copyIssue .a (s.cx.br a)).map fun r => r.2.setCx (r.2.cx.setB d r.1))

/-! The streams' own steps. -/

/-- STREAM_GROUP_LAND (R68). -/
def execEvStreamGroupLand (cell ctx : Nat) (st : StreamNo) (s : State) : Res := .next ((s.landGroup cell ctx st).getD s)

/-- STORE_GROUP_WRITTEN (R71, R426). -/
def execEvStoreGroupWritten (cell ctx : Nat) (st : StreamNo) (s : State) : Res := .next ((s.storeWritten cell ctx st).getD s)

/-- The scale a copy-landing stream reads for a row (R69, R427): poisoned when the read faults, which counts a drop, or meets poison or
a failed staging slot; none while it waits on a pending one (R124). -/
def State.landingScale (s : State) (cell ctx : Nat) (va : Word) : State × Option ScaleW :=
  let pid := (s.cell cell).tag
  let drop := fun (s : State) => (s.setCell cell (s.cell cell).dropOne, some ScaleW.bad)
  if va.toNat % 4 ≠ 0 then drop s
  else match s.xlateDev pid false .read va with
  | .error (_, s) => drop s
  | .ok (l, s) => match s.stageAt pid l.pa with
    | some (.pending _ _) => (s, none)
    | some (.failed _) => (s, some .bad)
    | some (.ready _) | none => let r := (s.allocIn (homeBank l) pid).scaleAt cell ctx l; (r.1, some r.2)

/-- COPY_LANDING_GROUP_ISSUE (R68, R69): the next group of a copy-landing stream becomes an entry. -/
def execEvCopyLandingGroupIssue (cell ctx : Nat) (st : StreamNo) (s : State) : Res :=
  .next (
    let t := (s.ctx cell ctx).stream st
    let d := t.desc
    let a := groupAt d t.issued
    let gs := granules a.addr.toNat a.len
    if t.st ≠ .opened ∨ dKind d ≠ 5 ∨ dDepth d ≤ t.fill ∨ dRows d * dGroups d ≤ t.issued
      ∨ !gs.all (fun g => mget false (s.cell cell).landed g) then s
    else
      let (s, scale) := if dScBase d = 0 then (s, some ScaleW.absent)
        else if a.p = 0 then s.landingScale cell ctx (scaleVa d a.row)
        else (s, some t.rowScale)
      match scale with
      | none => s.scaleWaits cell ctx st
      | some sc =>
        let s := if t.waiting then s.acquire cell ctx .a else s
        let poison := (s.cell cell).storePoison a.addr.toNat a.len
        let (s, bs) := s.storeRead cell a.addr.toNat a.len
        let t' := { t with
          next := t.next + 1, tail := t.tail + 1, issued := t.issued + 1, rowScale := sc, waiting := false
          entries := t.entries ++ [Entry.ofBytes bs sc poison] }
        s.setCtx cell ctx ((s.ctx cell ctx).setStream st t'))

/-- STORE_BUFFER_DRAIN (R108, R131): the n-th buffered entry of a context is performed at its home, when no older one must go first. -/
def execEvStoreBufferDrain (cell ctx n : Nat) (s : State) : Res :=
  .next (
    let sb := (s.ctx cell ctx).sb
    match sb[n]? with
    | some e => if sbMayLeave sb n then s.drainEntry cell ctx e else s
    | none => s)

/-- L1_LEASE_EXPIRY (R107): the n-th line of an L1 whose lease has ended leaves it. -/
def execEvL1LeaseExpiry (cell n : Nat) (s : State) : Res :=
  .next (
    let k := s.cell cell
    match k.l1[n]? with
    | some l => if l.upto ≤ s.cycle.toNat then s.setCell cell { k with l1 := k.l1.eraseIdx n } else s
    | none => s)

end Sys2Proof.Machine
end

