-- ==== Sys2Proof/Machine/Parcels.lean ====
section
/-! DEFINITION. Sending parcels, the handler table, tasks and named task queues (R11 to R16, R29 to R33, R270 to R280). -/

namespace Sys2Proof.Machine
open Sys2Proof

/-! Sending (R11, R15, R272). -/

/-- The KIND of a logical number's entry (R356): 0 empty, 1 cell, 2 gateway, 3 reserved. -/
def Part.kindOf (p : Part) (l : Nat) : Nat :=
  match p.resolve l with
  | some e => nbits 30 2 e.toNat
  | none => 0
/-- A DEST inside the partition's logical cells (R10, R272, R356). -/
def Part.destOk (p : Part) (l : Nat) : Bool := l ≠ 0xFFFF && (p.kindOf l = 1 || p.kindOf l = 2)

/-- The key of a sequence count: destination cell and channel (R11). -/
def seqKey (dest chan : Nat) : Nat := 256 * dest + chan
/-- The header of a parcel of the running context (R11), from header bits [31:0], with a sequence number. -/
def State.sendHdr (s : State) (h seq : Nat) : Word :=
  mkHdr seq false false s.cx.fmode s.pid s.cl.lcell.toNat (nbits 24 8 h) (nbits 16 8 h) (nbits 0 16 h)
/-- The next sequence number towards a destination. -/
def Ctx.nextSeq (x : Ctx) (dest chan : Nat) : BitVec 8 := mget 0 x.seqs (seqKey dest chan)

/-- The refusal of a sender's own checks (R12, R272, R303): 2 or 4, from header bits [31:0]. -/
def State.refusesFrom (s : State) (pid h : Nat) : Option Nat :=
  if 0xF0 ≤ nbits 24 8 h then some 2
  else if !(s.part pid).destOk (nbits 0 16 h) then some 4
  else none
def State.refuses (s : State) (h : Nat) : Option Nat := s.refusesFrom s.pid h

/-- The trap code of a refusal (R13). -/
def refusalCode (status : Nat) : Nat := if status = 2 then 0x23 else 0x24
/-- The trap of the sender's own checks, with the would-be header as detail (R272). -/
def State.refuse {α : Type} (s : State) (h status : Nat) : Act α :=
  s.trap ⟨refusalCode status, 6, 0xFF, 0, s.sendHdr h (s.cx.nextSeq (nbits 0 16 h) (nbits 16 8 h)).toNat, 0⟩

/-- The payload of lanes 2 to 15 (R272). -/
def payloadOf (v : Vec) : List Byte := (vecBytes v).drop 8

/-- A parcel takes an outbound slot and leaves (R15, R143): the send is a release. mk says who sent it. -/
def State.takeSlot (s : State) (h : Nat) (v : Vec) (mk : Issuer → Origin) : State :=
  let s := s.rel
  let x := s.cx
  let dest := nbits 0 16 h
  let chan := nbits 16 8 h
  let seq := x.nextSeq dest chan
  let p := mkParcel (s.sendHdr h seq.toNat) (payloadOf v)
  let i := s.issuer s.cur.cell s.cur.ctx .x
  let s := s.setCx { x with out := x.out ++ [s.nextFlight], seqs := mput x.seqs (seqKey dest chan) (seq + 1) }
  s.launchFlight p s.pid (mk i)

/-- SEND (R272). -/
def execXSend (v : RegV) (a : RegG) (g : GuardP) (s : State) : Res :=
  .next (s.xRun g [a] 1 fun s =>
    let h := nbits 0 32 (s.cx.gr a).toNat
    match s.refuses h with
    | some k => s.refuse h k
    | none => if Config.outSlots ≤ s.cx.out.length then .error .stall else .ok (s.takeSlot h (s.cx.vr v) .ctx))

/-- SENDNB (R14, R272). -/
def execXSendnb (b : RegG) (v : RegV) (a : RegG) (g : GuardP) (s : State) : Res :=
  .next (s.xRun g [b, a] 1 fun s =>
    let h := nbits 0 32 (s.cx.gr a).toNat
    match s.refuses h with
    | some k => .ok (s.setCx (s.cx.setG b (BitVec.ofNat 64 k)))
    | none =>
      if Config.outSlots ≤ s.cx.out.length then .ok (s.setCx (s.cx.setG b 1))
      else
        let n := s.nextFlight
        let s := s.takeSlot h (s.cx.vr v) .nb
        let x := s.cx
        .ok (s.setCx { x with pend := if b = 0 then x.pend else x.pend ++ [(n, b)], verdicts := x.verdicts ++ [n] }))

/-! The handler table (R18 to R20, R274 to R276, R338). -/

/-- U-mode code names a K-mode channel (R338). -/
def State.guarded (s : State) (c : Nat) : Bool := !s.cx.kmode && s.cl.kchan.getLsbD c
/-- The Privilege trap of R338. -/
def State.privilege {α : Type} (s : State) : Act α := s.trap ⟨4, 6, 0xFF, 0, 0, 0⟩
/-- A status written into a general register. -/
def State.status (s : State) (d : RegG) (n : Nat) : State := s.setCx (s.cx.setG d (BitVec.ofNat 64 n))

/-- An entry enters the table (R20, R274). -/
def Chan.bind (c : Chan) (img : BitVec 256) : Chan :=
  { c with entry := img, skip := 0, boost := 0, st := if entBnd img then .idle else .unbound, placed := none }

/-- An entry takes the place of a channel's (R50, R274). Parcels of mailboxes that it comes to overlap with its own
mailbox or its actor frame are free values, and so is the frame there (R19). -/
def State.bindChan (s : State) (cell chan : Nat) (e : BitVec 256) : State :=
  let t := s.setChan cell chan ((s.chan cell chan).bind e)
  let k := t.cell cell
  if entBound e && (k.mailClash chan || entActor e && k.mailHit (entFrame e).1 (entFrame e).2) then t.spoilClashes cell else t

/-- HSET (R274). -/
def execXHset (d a b : RegG) (g : GuardP) (s : State) : Res :=
  .next (s.xRun g [d, a, b] 1 fun s =>
    let c := (s.cx.gr b).toNat
    if 63 < c then .ok (s.status d 3)
    else if s.guarded c then s.privilege
    else match s.storeLoad (s.cx.gr a) 32 32 with
      | .error h => .error h
      | .ok (bs, s) =>
        let img := BitVec.ofNat 256 (leNat bs)
        let k := s.cl
        let ch := k.chan c
        if ch.st = .runnable ∨ ch.st = .running then .ok (s.status d 1)
        else if entBnd img ∧ (entInvalid img ∨ entAct img) then .ok (s.status d 2)
        else .ok ((s.bindChan s.cur.cell c img).status d 0))

/-- The mask bits of the channels in a set (R275, R338). -/
def State.setMasks (s : State) (set : Word) (on : Bool) : State :=
  s.setCl ((List.range 64).foldl
    (fun k c =>
      if set.getLsbD c && !s.guarded c then
        let ch := k.chan c
        k.setChan c { ch with entry := if on then ch.entry ||| 2 else ch.entry &&& ~~~2#256 }
      else k) s.cl)

/-- HMASK (R275). -/
def execXHmask (a : RegG) (g : GuardP) (s : State) : Res := .next (s.xRun g [a] 1 fun s => .ok (s.setMasks (s.cx.gr a) true))
/-- HUNMASK (R275). -/
def execXHunmask (a : RegG) (g : GuardP) (s : State) : Res := .next (s.xRun g [a] 1 fun s => .ok (s.setMasks (s.cx.gr a) false))

/-- An entry with an actor frame: AFB, AFS (R18). -/
def withFrame (e : BitVec 256) (act : Bool) (afb afs : Nat) : BitVec 256 :=
  let keep := e &&& ~~~(BitVec.ofNat 256 (32 + (2 ^ 13 - 1) * 2 ^ 128 + (2 ^ 10 - 1) * 2 ^ 141))
  keep ||| BitVec.ofNat 256 (32 * act.toNat + afb * 2 ^ 128 + afs * 2 ^ 141)

/-- ABIND (R276). -/
def execXAbind (d a b : RegG) (g : GuardP) (s : State) : Res :=
  .next (s.xRun g [d, a, b] 1 fun s =>
    let c := (s.cx.gr b).toNat
    let k := s.cl
    let ch := k.chan c
    let afb := nbits 0 13 (s.cx.gr a).toNat
    let afs := nbits 16 10 (s.cx.gr a).toNat
    let off := 64 * afb
    let n := 64 * (afs + 1)
    if 63 < c then .ok (s.status d 3)
    else if s.guarded c then s.privilege
    else if !entBound ch.entry then .ok (s.status d 3)
    else if ch.st = .running then .ok (s.status d 1)
    else if afb = 0 then .ok ((s.setCl (k.setChan c { ch with entry := withFrame ch.entry false 0 0 })).status d 0)
    else if Config.storeBytes < off + n ∨ Config.launchArea < off + n ∨ k.mailHit off n then .ok (s.status d 2)
    else .ok ((s.setCl (k.setChan c { ch with entry := withFrame ch.entry true afb afs })).status d 0))

/-! Tasks (R29 to R32, R277 to R280). -/

/-- TSPAWN (R277): the header carries the hint as DEST. Its SEQ and that of a send towards the same cell and channel are one count (DESIGN CHOICE,
log 73): R11 and R30 give each its own rule and do not say whether the counts are one. -/
def execXTspawn (v : RegV) (a : RegG) (g : GuardP) (s : State) : Res :=
  .next (s.xRun g [a] 1 fun s =>
    let w := (s.cx.gr a).toNat
    let p := s.part s.pid
    let hint := nbits 8 8 w * p.gridW + nbits 0 8 w
    let h := hint % 65536 + nbits 24 6 w * 2 ^ 16 + nbits 32 8 w * 2 ^ 24
    if 0xF0 ≤ nbits 32 8 w then s.refuse h 2
    else if p.gridW ≤ nbits 0 8 w ∨ p.gridH ≤ nbits 8 8 w ∨ p.kindOf hint ≠ 1 then s.refuse h 4
    else if Config.outSlots ≤ s.cx.out.length then .error .stall
    else
      let s := s.rel
      let x := s.cx
      let seq := x.nextSeq hint (nbits 24 6 w)
      let t : TaskFlight := {
        id := s.serial, parcel := mkParcel (s.sendHdr h seq.toNat) (payloadOf (x.vr v)), part := s.pid
        issuer := s.issuer s.cur.cell s.cur.ctx .x, at_ := s.cl.lcell.toNat, hint := hint, rad := nbits 16 4 w, any := nbits 23 1 w = 1
        steps := 0, waits := false }
      let s := s.setCx { x with out := x.out ++ [t.id], seqs := mput x.seqs (seqKey hint (nbits 24 6 w)) (seq + 1) }
      .ok { s.bump with tasks := s.tasks ++ [t] })

/-- A cell accepts a task (R278): its channel is bound with the task's TYPE. -/
def Cell.accepts (k : Cell) (p : Vec) : Bool :=
  let h := parcelHdr p
  hChan h ≤ 63 && entBound (k.chan (hChan h)).entry && entType (k.chan (hChan h)).entry == hType h

/-- A task with its taker's logical number in DEST (R30, R280). -/
def withDest (p : Vec) (l : Nat) : Vec := withHdr p ((parcelHdr p) &&& ~~~0xFFFF#64 ||| BitVec.ofNat 64 (l % 65536))

/-- The parcel that tqenq and dcpark build from v[d] alone (R279, R281). -/
def State.ownParcel (s : State) (v : Vec) : Vec := mkParcel (s.sendHdr (nbits 0 32 v.toNat) 0) (payloadOf v)

/-! The header of a named queue (R33). -/
def tqInvalid (b : List Byte) : Bool :=
  bnat b 0 8 % 64 ≠ 0 || bnat b 8 1 = 0 || 20 < bnat b 8 1 || bnat b 9 7 ≠ 0 || bnat b 24 40 ≠ 0
def tqCount (b : List Byte) : Nat := (bnat b 20 4 + 2 ^ 32 - bnat b 16 4) % 2 ^ 32
/-- The address of the ring entry of a count. -/
def tqEntry (b : List Byte) (n : Nat) : Word := BitVec.ofNat 64 (bnat b 0 8 + 64 * (n % 2 ^ bnat b 8 1))

/-- TQENQ (R279). -/
def execXTqenq (b : RegG) (v : RegV) (a : RegG) (g : GuardP) (s : State) : Res :=
  .next (s.xRun g [b, a] 1 fun s =>
    let p := s.ownParcel (s.cx.vr v)
    let typ := hType (parcelHdr p)
    if s.cx.gr a = 0 then
      let k := s.cl
      if 0xF0 ≤ typ ∨ !k.accepts p then .ok (s.status b 2)
      else if Config.localTasks ≤ k.taskq.length then .ok (s.status b 1)
      else
        let s := s.rel
        .ok ((s.setCl { s.cl with taskq := s.cl.taskq ++ [p] }).status b 0)
    else match s.object .x (s.cx.gr a) 64 with
      | .error h => .error h
      | .ok (l, q, s) =>
        if 0xF0 ≤ typ ∨ tqInvalid q then .ok (s.status b 2)
        else if 2 ^ bnat q 8 1 ≤ tqCount q then .ok (s.status b 1)
        else match s.check .x 3 .readWrite (tqEntry q (bnat q 20 4)) 64 with
          | .error h => .error h
          | .ok (e, s) =>
            let s := s.putBytes e.pa (vecBytes p)
            .ok ((s.putBytes (l.pa + 20) (leBytes 4 (bnat q 20 4 + 1))).status b 0))

/-- The physical cells of a cell's logical neighbours at −x, +x, −y, +y (R32), each with its logical number. An evicted one has no
queue here. -/
def State.neighbours (s : State) (pid l : Nat) : List (Nat × Nat) :=
  let p := s.part pid
  let x := l % p.gridW
  let y := l / p.gridW
  let at_ := fun (b : Bool) (n : Nat) =>
    if b then match p.resolve n with
      | some e => if nbits 30 2 e.toNat = 1 ∧ nbits 29 1 e.toNat = 0 then some (n, nbits 0 11 e.toNat) else none
      | none => none
    else none
  [at_ (0 < x) (l - 1), at_ (x + 1 < p.gridW) (l + 1), at_ (0 < y) (l - p.gridW), at_ (y + 1 < p.gridH) (l + p.gridW)].filterMap id

/-- The task a local tqdeq takes (R32): the own oldest, else a neighbour's oldest that this cell accepts; with the cell and the place it
stands at. -/
def State.localTask (s : State) : Option (Nat × Nat × Vec) :=
  let k := s.cl
  match k.taskq with
  | p :: _ => some (s.cur.cell, 0, p)
  | [] => ((s.neighbours s.pid k.lcell.toNat).filterMap fun n =>
      (lfind k.accepts (s.cell n.2).taskq).map fun r => (n.2, r.1, r.2)).head?

/-- A parcel whose FP8 mode the context does not share (R280). -/
def State.modeClash (s : State) (p : Vec) : Bool :=
  let h := parcelHdr p
  0x40 ≤ hType h && hType h ≤ 0x7F && hF8m h != s.cx.fmode

/-- TQDEQ (R280). -/
def execXTqdeq (b : RegG) (v : RegV) (a : RegG) (g : GuardP) (s : State) : Res :=
  .next (s.xRun g [b, a] 1 fun s =>
    if s.cx.gr a = 0 then
      match s.localTask with
      | none => .ok (s.status b 1)
      | some (cell, n, p) =>
        if s.modeClash p then s.trap (whyOf 0x21 6 0)
        else
          let s := s.acq .x
          let s := s.setCell cell { s.cell cell with taskq := (s.cell cell).taskq.eraseIdx n }
          .ok ((s.setCx (s.cx.setV v (withDest p s.cl.lcell.toNat))).status b 0)
    else match s.object .x (s.cx.gr a) 64 with
      | .error h => .error h
      | .ok (l, q, s) =>
        if tqInvalid q then .ok (s.status b 2)
        else if tqCount q = 0 then .ok (s.status b 1)
        else match s.check .x 3 .readWrite (tqEntry q (bnat q 16 4)) 64 with
          | .error h => .error h
          | .ok (e, s) =>
            let r := s.homeRead e.pa 64
            if r.2.2 then r.1.trap (whyOf 0x13 3 (tqEntry q (bnat q 16 4)))
            else
              let p := vecOf r.2.1
              if s.modeClash p then s.trap (whyOf 0x21 6 0)
              else
                let s := r.1.putBytes (l.pa + 16) (leBytes 4 (bnat q 16 4 + 1))
                .ok ((s.setCx (s.cx.setV v p)).status b 0))

end Sys2Proof.Machine
end

