-- ==== Sys2Proof/Machine/Counters.lean ====
section
/-! DEFINITION. Dependency counters and parked parcels (R34, R281). -/

namespace Sys2Proof.Machine
open Sys2Proof

/-- The park pool of a die (R34). -/
def State.pool (s : State) (die : Nat) : List Parked := mget [] s.parks die
/-- Two parked parcels wait on one counter. -/
def Parked.on (q : Parked) (pid pa : Nat) : Bool := q.part == pid && q.ctr == pa

/-- Every parcel parked on a counter leaves, in park order, with its parker's header (R34). -/
def State.releaseParked (s : State) (die pid pa : Nat) : State :=
  let go := (s.pool die).filter fun q => q.on pid pa
  let s := { s with parks := mput s.parks die ((s.pool die).filter fun q => !q.on pid pa) }
  go.foldl (fun s q => s.launchFlight q.parcel q.part (.parked q.issuer pa)) s

/-- A counter written at its home: COUNT, the number parked, and the list head, which is the device's own (R34; log 3). -/
def State.putCounter (s : State) (l : Loc) (count parked : Nat) (touched : Bool) : State :=
  let s := s.putBytes l.pa (leBytes 4 count ++ leBytes 4 parked)
  if touched then (s.putBytes (l.pa + 8) (leBytes 8 (Config.freeBits s.free).toNat)).took else s

/-- COUNT of a counter. -/
def ctrCount (b : List Byte) : Nat := bnat b 0 4
/-- PARKED of a counter. -/
def ctrParked (b : List Byte) : Nat := bnat b 4 4

/-- A counter's COUNT becomes n; 0 releases every parked parcel (R34). -/
def State.setCount (s : State) (l : Loc) (b : List Byte) (n : Nat) : State :=
  if n = 0 then (s.putCounter l 0 0 (ctrParked b ≠ 0)).releaseParked (homeDie l) s.pid l.pa
  else s.putCounter l n (ctrParked b) false

/-- DCINIT (R281). -/
def execXDcinit (d a b : RegG) (g : GuardP) (s : State) : Res :=
  .next (s.xRun g [d, a, b] 1 fun s =>
    (s.object .x (s.cx.gr a) 16).map fun (l, o, s) =>
      (s.setCount l o (nbits 0 32 (s.cx.gr b).toNat)).status d (ctrCount o))

/-- DCDEC (R34, R281). -/
def execXDcdec (d a : RegG) (g : GuardP) (s : State) : Res :=
  .next (s.xRun g [d, a] 1 fun s =>
    (s.object .x (s.cx.gr a) 16).map fun (l, o, s) =>
      let n := ctrCount o
      (if n = 0 then s else s.setCount l o (n - 1)).status d n)

/-- DCPARK (R34, R281). -/
def execXDcpark (b : RegG) (v : RegV) (a : RegG) (g : GuardP) (s : State) : Res :=
  .next (s.xRun g [b, a] 1 fun s =>
    let p := s.ownParcel (s.cx.vr v)
    let h := nbits 0 32 (parcelHdr p).toNat
    match s.object .x (s.cx.gr a) 16 with
    | .error e => .error e
    | .ok (l, o, t) =>
      match s.refuses h with
      | some k => t.trap ⟨refusalCode k, 6, 0xFF, 0, parcelHdr p, 0⟩
      | none =>
        let i := s.issuer s.cur.cell s.cur.ctx .x
        if ctrCount o = 0 then .ok ((t.launchFlight p t.pid (.parked i l.pa)).status b 1)
        else if Config.parkPool ≤ (t.pool (homeDie l)).length then .error .stall
        else
          let t := t.putCounter l (ctrCount o) (ctrParked o + 1) true
          let die := homeDie l
          .ok ({ t with parks := mput t.parks die (t.pool die ++ [(⟨l.pa, t.pid, p, i⟩ : Parked)]) }.status b 0))

end Sys2Proof.Machine
end

