-- ==== Sys2Proof/Machine/Worklist.lean ====
section
/-! DEFINITION. The worklist (R35 to R41, R282 to R285, R363). -/

namespace Sys2Proof.Machine
open Sys2Proof

/-- A spill region of a cell takes n entries when the partition has a spill area (R39, R363). -/
def Part.spillRoom (p : Part) : Nat := p.spillN

/-- A key is eligible at a cell: at most Fv + Δ (R37). -/
def Cell.eligible (k : Cell) (key : BitVec 32) : Bool := key.toNat ≤ k.fview + k.dview

/-- A task enters the buckets, or spills; none when both are full (R39, R282, R363). -/
def Cell.pushTask (k : Cell) (room : Nat) (t : Task) : Option Cell :=
  if k.buckets.length < Config.bucketTasks then some { k with buckets := k.buckets ++ [t] }
  else if k.spill.length < room then some { k with spill := k.spill ++ [t] }
  else none

/-- The device writes an entry of a cell's spill region, at base + 16·N·l (R363): which one, and what, are free values, since the contents
are not architectural (log 3). -/
def State.spillWrite (s : State) (cell : Nat) : State :=
  let k := s.cell cell
  let p := s.part k.tag
  if p.spillN = 0 then s
  else
    let at_ := p.spillBase + BitVec.ofNat 64 (16 * p.spillN * k.lcell.toNat + 16 * s.pick p.spillN)
    (s.devWrite k.tag true at_ (leBytes 16 (Config.freeBits s.free).toNat)).1.took

/-- A cell's tasks after a push or a return from spill; its spill region is written when the spilled tasks change. -/
def State.setWork (s : State) (cell : Nat) (k : Cell) : State :=
  let spilled := (s.cell cell).spill
  let s := s.setCell cell k
  if k.spill = spilled then s else s.spillWrite cell

/-- WLPUSH (R144, R282). -/
def execXWlpush (a b : RegG) (g : GuardP) (s : State) : Res :=
  .next (s.xRun g [a, b] 1 fun s =>
    let key : BitVec 32 := (s.cx.gr a).setWidth 32
    let k := s.cl
    if key.toNat < k.fview ∨ k.fview + 64 ≤ key.toNat then s.trap ⟨0x27, 6, 0xFF, 0, zext key, 0⟩
    else
      let p := s.part s.pid
      match k.pushTask p.spillRoom ⟨key, s.cx.gr b⟩ with
      | none => .error .stall
      | some k =>
        let s := (s.setWork s.cur.cell k).acqrel .x
        .ok (s.setPart s.pid { s.part s.pid with pushes := p.pushes + 1, epoch := true, quiet := none }))

/-- The place of the task wlpop takes: lowest key among the eligible ones of the buckets; among several of one key a free choice
(R37; log 3). -/
def Cell.popPlace (k : Cell) (free : Nat) : Option Nat :=
  let el := (k.buckets.zipIdx).filter fun t => k.eligible t.1.key
  match el with
  | [] => none
  | t :: rest =>
    let low := rest.foldl (fun m u => min m u.1.key.toNat) t.1.key.toNat
    let same := el.filter fun u => u.1.key.toNat = low
    (same[Config.freeNat free % same.length]?).map fun u => u.2

/-- WLPOP (R37, R38, R283). -/
def execXWlpop (d b : RegG) (g : GuardP) (s : State) : Res :=
  .next (s.xRun g [d, b] 1 fun s =>
    let k := s.cl
    match (k.popPlace s.free).bind fun n => (k.buckets[n]?).map fun t => (n, t) with
    | none => .ok ((s.setCl { k with wake := false }).setCx ((s.setCl { k with wake := false }).cx.setG b (BitVec.allOnes 64)))
    | some (n, t) =>
      let s := ((s.setCl { k with buckets := k.buckets.eraseIdx n }).took).acqrel .x
      let x := s.cx
      .ok (s.setCx ({ (x.setG d t.value).setG b (zext t.key) with popped := x.popped ++ [t.key.toNat] })))

/-- A channel with the FP8 mode of the context that registered it (R11), as one number: channel + 64 · F8M. -/
def chanF8 (chan : Nat) (f8 : Bool) : Nat := chan + 64 * f8.toNat

/-- WLBOUND (R284): the partition's values, which its cells adopt at a reduction. -/
def execXWlbound (a b : RegG) (g : GuardP) (s : State) : Res :=
  .next (s.xRun g [a, b] 1 fun s =>
    let p := s.part s.pid
    let w := s.cx.gr b
    .ok (s.setPart s.pid { p with
      delta := nbits 0 6 (s.cx.gr a).toNat, wakeChan := if w.getLsbD 6 then none else some (chanF8 (nbits 0 6 w.toNat) s.cx.fmode) }))

/-- WLTERM (R285). -/
def execXWlterm (a : RegG) (g : GuardP) (s : State) : Res :=
  .next (s.xRun g [a] 1 fun s =>
    let p := s.part s.pid
    let w := s.cx.gr a
    .ok (s.setPart s.pid { p with term := if w.getLsbD 6 then none else some (s.cl.lcell, chanF8 (nbits 0 6 w.toNat) s.cx.fmode) }))

/-! The device's steps. -/

/-- The keys popped by the saved invocations of a handler table (R36, R349). -/
def savedKeys (cs : SMap Chan) : List Nat := cs.flatMap fun c => (c.2.saved.map fun v => v.popped).getD []

/-- The worklist keys that hold a partition's floor: those of its cells, in transit, popped by invocations that run or are saved, and
in eviction images (R35, R36, R364). -/
def State.floorKeys (s : State) (pid : Nat) : List Nat :=
  let p := s.part pid
  let ofTasks := fun (l : List Task) => l.map fun t => t.key.toNat
  let cells := p.cellsOf.flatMap fun c =>
    let k := s.cell c
    ofTasks k.buckets ++ ofTasks k.spill ++ k.ctxs.flatMap (fun x => x.2.popped) ++ savedKeys k.chans
  let moving := (s.transfers.filter fun t => t.part == pid).flatMap fun t => ofTasks t.work
  let held := s.sets.flatMap fun st => (st.2.saved.filter fun x => (s.cell (x.1 / 4)).tag == pid).flatMap fun x => x.2.1.popped
  let images := s.sets.flatMap fun st => (mget [] st.2.images pid).flatMap fun i =>
    ofTasks i.2.work ++ ofTasks i.2.spill ++ savedKeys i.2.chans ++ i.2.saved.flatMap fun x => x.2.1.popped
  cells ++ moving ++ held ++ images

/-- The smallest of a list. -/
def minOf : List Nat → Option Nat
  | [] => none
  | a :: t => some (t.foldl min a)

/-- WORKLIST_REDUCTION (R35, R37, R41): the views of the floor, of Δ and of the wake channel are brought up to date, and termination is
tested: two reductions at least 256 cycles apart that find no task and the same equal counts. With no task held, the views of
the floor stay (R331). -/
def execEvWorklistReduction (part : Nat) (s : State) : Res :=
  .next (
    let p := s.part part
    let keys := s.floorKeys part
    let floor := (minOf keys).getD p.floor
    let p := { p with floor := floor }
    let s := p.cellsOf.foldl (fun s c => s.setCell c { s.cell c with fview := floor, dview := p.delta, wview := p.wakeChan }) s
    if !keys.isEmpty ∨ p.pushes ≠ p.pops then s.setPart part { p with quiet := none }
    else match p.quiet with
      | some (cyc, n) =>
        if n = p.pushes ∧ cyc + 256 ≤ s.cycle.toNat then
          let s := s.setPart part { p with epoch := false, quiet := none }
          match p.term, p.epoch with
          | some (l, c), true =>
            s.launchFlight (mkParcel (mkHdr 0 false false (64 ≤ c) part 0xFFFF 0xFC (c % 64) l.toNat) []) part (.term l (BitVec.ofNat 8 (c % 64)))
          | _, _ => s
        else s.setPart part p
      | none => s.setPart part { p with quiet := some (s.cycle.toNat, p.pushes) })

/-- WAKE_PARCEL (R38). -/
def execEvWakeParcel (cell : Nat) (s : State) : Res :=
  .next (
    let k := s.cell cell
    match k.wview with
    | some c =>
      if !k.wake && k.buckets.any fun t => k.eligible t.key then
        (s.setCell cell { k with wake := true }).launchFlight
          (mkParcel (mkHdr 0 false false (64 ≤ c) k.tag 0xFFFF 0xFD (c % 64) k.lcell.toNat) []) k.tag (.wake k.lcell (BitVec.ofNat 8 (c % 64)))
      else s
    | none => s)

/-- The place of the lowest key of a list of tasks; of several, the first in the list (DESIGN CHOICE, log 59). -/
def lowestAt (l : List Task) : Option (Nat × Task) :=
  match minOf (l.map fun t => t.key.toNat) with
  | none => none
  | some m => lfind (fun t => t.key.toNat == m) l
/-- The place of the highest key; of several, the first in the list (DESIGN CHOICE, log 59). -/
def highestAt (l : List Task) : Option (Nat × Task) :=
  match l.map fun t => t.key.toNat with
  | [] => none
  | a :: r => let m := r.foldl max a; lfind (fun t => t.key.toNat == m) l

/-- SPILL_RETURN (R39): the lowest spilled task returns to the buckets as room frees, or is exchanged when it is eligible and the highest
bucketed one is not. -/
def execEvSpillReturn (cell : Nat) (s : State) : Res :=
  .next (
    let k := s.cell cell
    match lowestAt k.spill with
    | none => s
    | some (n, t) =>
      if k.buckets.length < Config.bucketTasks then
        s.setWork cell { k with spill := k.spill.eraseIdx n, buckets := k.buckets ++ [t] }
      else match highestAt k.buckets with
        | some (m, u) =>
          if k.eligible t.key && !k.eligible u.key then
            s.setWork cell { k with spill := k.spill.eraseIdx n ++ [u], buckets := k.buckets.eraseIdx m ++ [t] }
          else s
        | none => s)

/-- How many of a cell's tasks are eligible (R40). -/
def Cell.eligibleCount (k : Cell) : Nat := (k.buckets.filter fun t => k.eligible t.key).length

/-- n lowest-keyed tasks taken out of a list (R40); of several of one key, the first in the list goes (DESIGN CHOICE, log 59). -/
def takeLowest : Nat → List Task → List Task × List Task
  | 0, l => ([], l)
  | n + 1, l => match lowestAt l with
    | none => ([], l)
    | some (i, t) => let r := takeLowest n (l.eraseIdx i); (t :: r.1, r.2)

/-- WORKLIST_BALANCE_INTERVAL (R40): the lowest-keyed tasks move towards neighbours with fewer eligible ones. -/
def execEvWorklistBalanceInterval (cell : Nat) (s : State) : Res :=
  .next (
    let pid := (s.cell cell).tag
    (s.neighbours pid (s.cell cell).lcell.toNat).foldl (fun s n =>
      let k := s.cell cell
      let mine := k.eligibleCount
      let theirs := (s.cell n.2).eligibleCount
      if theirs + (s.part pid).threshold < mine then
        let r := takeLowest (min 4 ((mine - theirs) / 2)) k.buckets
        { s.setCell cell { k with buckets := r.2 } with transfers := s.transfers ++ [⟨pid, cell, n.2, [], r.1⟩] }
      else s) s)

/-- A cell hears the queue depth of a neighbour, which it names by its logical number (R31). -/
def Cell.hear (k : Cell) (l depth : Nat) : Cell := { k with heard := mset 0 k.heard l depth }

/-- A cell advertises its queue depth to its neighbours; an evicted one hears nothing (R31, R362). -/
def State.advertise (s : State) (cell : Nat) : State :=
  let k := s.cell cell
  (s.neighbours k.tag k.lcell.toNat).foldl (fun s n => s.setCell n.2 ((s.cell n.2).hear k.lcell.toNat k.taskq.length)) s

/-- TASK_BALANCE_INTERVAL (R31, R278, R362): the cell advertises its depth and pushes its newest tasks to neighbours that accept them and
whose last advertisement was shallower. The tasks pushed join the neighbour's queue with the oldest of them first (DESIGN CHOICE, log 60). -/
def execEvTaskBalanceInterval (cell : Nat) (s : State) : Res :=
  .next (
    let k := s.cell cell
    let s := s.advertise cell
    (s.neighbours k.tag k.lcell.toNat).foldl (fun s n =>
      let k := s.cell cell
      let theirs := mget 0 k.heard n.1
      if theirs + (s.part k.tag).threshold < k.taskq.length then
        let want := min 4 ((k.taskq.length - theirs) / 2)
        let ok := (k.taskq.reverse.filter (s.cell n.2).accepts).take want
        let keep := ok.foldl (fun (q : List Vec) p => (q.reverse.erase p).reverse) k.taskq
        if ok.isEmpty then s
        else { s.setCell cell { k with taskq := keep } with transfers := s.transfers ++ [⟨k.tag, cell, n.2, ok.reverse, []⟩] }
      else s) s)

/-- The parcels of a transfer do not pass into a cell of another partition (R355): they are dropped, and the events recorded; worklist tasks, which
are no parcels, stay on their way. -/
def State.ejectTransfer (s : State) (t : Transfer) : State × List Transfer :=
  (t.tasks.foldl (fun s p => s.hypEvent (.dropped (parcelHdr p) t.dst)) s, if t.work.isEmpty then [] else [{ t with tasks := [] }])

/-- A transfer arrives (R31, R40, R278, R355): what fits is taken; what does not is left. A task that the cell accepts no more goes back to the
cell it left, in whose queue it stays. -/
def State.takeTransfer (s : State) (t : Transfer) : State × List Transfer :=
  let k := s.cell t.dst
  if k.tag ≠ t.part then s.ejectTransfer t
  else
  let mine := fun (p : Vec) => t.dst == t.from_ || k.accepts p
  let tasks := t.tasks.filter mine
  let back := t.tasks.filter fun p => !mine p
  let a := Config.localTasks - k.taskq.length
  let b := Config.bucketTasks - k.buckets.length
  let left : Transfer := ⟨t.part, t.from_, t.dst, tasks.drop a, t.work.drop b⟩
  (s.setCell t.dst { k with taskq := k.taskq ++ tasks.take a, buckets := k.buckets ++ t.work.take b },
    (if left.tasks.isEmpty && left.work.isEmpty then [] else [left]) ++ if back.isEmpty then [] else [⟨t.part, t.from_, t.from_, back, []⟩])

/-- BALANCE_TRANSFER_ARRIVE (R31, R40, R278): one to an evicted cell waits for its restore (R366). -/
def execEvBalanceTransferArrive (n : Nat) (s : State) : Res :=
  .next (match s.transfers[n]? with
    | none => s
    | some t =>
      if !(s.part t.part).cellsOf.contains t.dst then s
      else
        let r := s.takeTransfer t
        { r.1 with transfers := s.transfers.take n ++ r.2 ++ s.transfers.drop (n + 1) })

end Sys2Proof.Machine
end

