-- ==== Sys2Proof/Machine/Futures.lean ====
section
/-! DEFINITION. Futures, token queues and barriers (R42 to R47, R286 to R290, R304, R407). -/

namespace Sys2Proof.Machine
open Sys2Proof

/-! The future table of a die. -/

def State.slot (s : State) (die n : Nat) : Option FSlot := mfind (mget [] s.futs die) n
def State.setSlot (s : State) (die n : Nat) (f : FSlot) : State := { s with futs := mput s.futs die (mput (mget [] s.futs die) n f) }
def State.delSlot (s : State) (die n : Nat) : State := { s with futs := mput s.futs die (mdel (mget [] s.futs die) n) }
/-- A free slot of a die's table, a free choice (R287; log 3). -/
def State.freeSlot (s : State) (die : Nat) : Option Nat :=
  let t := mget [] s.futs die
  let start := s.pick Config.futureSlots
  ((List.range Config.futureSlots).map fun i => (start + i) % Config.futureSlots).find? fun n => (mfind t n).isNone

/-! Word 0 (R42). -/
def fSt (w : Nat) : Nat := nbits 0 2 w
def fGen (w : Nat) : Nat := nbits 2 14 w
def fSlot (w : Nat) : Nat := nbits 16 16 w
def mkWord0 (slot gen st : Nat) : Nat := slot % 65536 * 65536 + gen % 16384 * 4 + st % 4

/-- A future at its home: its place, word 0 and word 1. -/
structure Fut where
  loc : Loc
  va  : Word
  w0  : Nat
  w1  : Nat
  deriving DecidableEq, Repr

def Fut.die (f : Fut) : Nat := homeDie f.loc
def Fut.of (l : Loc) (va : Word) (b : List Byte) : Fut := ⟨l, va, bnat b 0 8, bnat b 8 8⟩
/-- The slot of word 0, when it is live for this address (R286). -/
def State.liveSlot (s : State) (pid : Nat) (f : Fut) : Option FSlot :=
  match s.slot f.die (fSlot f.w0) with
  | some x => if x.part == pid && x.pa == f.loc.pa && (match x.kind with | .future .. => true | .barrier .. => false) then some x else none
  | none => none
def State.putW0 (s : State) (pa w : Nat) : State := s.putBytes pa (leBytes 8 w)
def State.putW1 (s : State) (pa w : Nat) : State := s.putBytes (pa + 8) (leBytes 8 w)

/-- A continuation parcel (R45). -/
def State.sendCont (s : State) (pid : Nat) (o : Origin) (c : Cont) (a b w tokens : Nat) : State :=
  s.launchFlight (mkParcel (mkHdr 0 false false c.f8m pid 0xFFFF c.tag.toNat c.chan.toNat c.dest.toNat)
    (leBytes 8 a ++ leBytes 8 b ++ leBytes 8 w ++ leBytes 4 tokens)) pid o

/-- A hart waits on the future of a slot (R304). -/
def Hart.waitsOn (h : Hart) (die slot : Nat) : Bool := h.wait_.any fun w => w.1 == die && w.2.1 == slot

/-- A waiter of a future is released (R45, R304): a continuation parcel, or a hart that waits on it, which takes its status. -/
def State.releaseWaiter (s : State) (pid die slot : Nat) (va : Word) (w0 w1 tokens : Nat) (x : Waiter) : State :=
  match x with
  | .none => s
  | .cont c => s.sendCont pid (.future va c.dest c.chan die slot) c va.toNat w0 w1 tokens
  | .hart core =>
    if (s.hart core).waitsOn die slot then s.setHart core { s.hart core with woken := some (if fSt w0 = 3 then 2 else 1) } else s

/-- The count of a reply buffer (R46, R289): 0 when it cannot be read. -/
def State.replyCount (s : State) (pid : Nat) (buf : Word) : State × Nat :=
  match s.devRead pid false buf 4 with
  | (s, some (b, false)) => (s, leNat b)
  | (s, some (_, true)) | (s, none) => (s, 0)
/-- TCNT of a token queue header (R46): 0 when it cannot be read. -/
def State.templateCount (s : State) (pid : Nat) (queue : Word) : State × Nat :=
  match s.devRead pid false queue 64 with
  | (s, some (b, false)) => (s, bnat b 20 4)
  | (s, some (_, true)) | (s, none) => (s, 0)

/-- A future that has a slot leaves state 00 or 01 (R43): it is resolved with a value (st 2) or timed out (st 3). A bound one starts its
injection, which its waiter awaits; an unbound one releases its waiter at once. -/
def State.settleFut (s : State) (pid die n : Nat) (x : FSlot) (w0 w1 st : Nat) : State :=
  match x.kind with
  | .barrier .. => s
  | .future va waiter _ queue reply _ =>
    let w0' := mkWord0 n (fGen w0) st
    let s := s.putW0 x.pa w0'
    match queue with
    | none => (s.setSlot die n { x with kind := .future va .none none none reply none }).releaseWaiter pid die n va w0' w1 0 waiter
    | some q =>
      let (s, k) := if st = 2 then s.replyCount pid (BitVec.ofNat 64 w1) else s.templateCount pid q
      let inj : Inject := ⟨q, if st = 2 then some (BitVec.ofNat 64 w1) else none, k, 0, [waiter]⟩
      s.setSlot die n { x with kind := .future va .none none (some q) reply (some inj) }

/-- The Future-state trap (R43, R286), with the future's address as detail. -/
def State.futTrap {α : Type} (s : State) (va : Word) : Act α := s.trap ⟨0x22, 6, 0xFF, 0, va, 0⟩

/-- What an operation on an existing future finds (R286): a stale handle, no live slot, or its slot. -/
inductive FutSee where | stale | dead | live (x : FSlot)

def State.see (s : State) (pid : Nat) (f : Fut) (handle : Word) : FutSee :=
  if fGen handle.toNat ≠ fGen f.w0 then .stale
  else match s.liveSlot pid f with
    | none => .dead
    | some x => .live x

/-- An X operation on a future under a handle (R286, R288): checks, then its effect on the live slot. -/
def State.futOp (s : State) (d a : RegG) (f : State → Fut → FSlot → Act State) : Act State :=
  let handle := s.cx.gr d
  let va := s.cx.gr a
  match s.object .x va 16 with
  | .error h => .error h
  | .ok (l, b, s) =>
    let u := Fut.of l va b
    match s.see s.pid u handle with
    | .stale => .ok (s.status d 4)
    | .dead => s.futTrap va
    | .live x => f s u x

/-- FNEW (R287). -/
def execXFnew (d a : RegG) (g : GuardP) (s : State) : Res :=
  .next (s.xRun g [d, a] 1 fun s =>
    let va := s.cx.gr a
    match s.object .x va 16 with
    | .error h => .error h
    | .ok (l, b, t) =>
      let u := Fut.of l va b
      if (t.liveSlot t.pid u).isSome ∨ nbits 32 32 u.w0 ≠ 0 then t.futTrap va
      else match t.freeSlot u.die with
        | none => .error .stall
        | some n =>
          let w := mkWord0 n (fGen u.w0) 0
          let t := (t.putW0 l.pa w).putW1 l.pa 0
          .ok (((t.setSlot u.die n ⟨t.pid, l.pa, .future va .none none none none none⟩).took).status d w))

/-- FRES (R43, R288). -/
def execXFres (d a b : RegG) (g : GuardP) (s : State) : Res :=
  .next (s.xRun g [d, a, b] 1 fun s =>
    s.futOp d a fun s u x =>
      match fSt u.w0 with
      | 2 => s.futTrap u.va
      | 3 => .ok (s.status d 3)
      | _ =>
        let v := (s.cx.gr b).toNat
        .ok (((s.putW1 u.loc.pa v).settleFut s.pid u.die (fSlot u.w0) x u.w0 v 2).status d 0))

/-- A continuation descriptor (R288): DEST, CHAN and TYPE. -/
def contOf (w : Word) (f8 : Bool) : Cont := ⟨w.setWidth 16, (w >>> 16).setWidth 8, (w >>> 24).setWidth 8, f8⟩
/-- The trap of R272 for a descriptor that fails its checks (R288). -/
def State.descBad (s : State) (w : Word) : Option Nat :=
  let c := contOf w false
  if 0xF0 ≤ c.tag.toNat then some 2
  else if 63 < c.chan.toNat then some 3
  else if !(s.part s.pid).destOk c.dest.toNat then some 4
  else none

/-- The trap of fwait and bwait for a descriptor that fails its checks (R45, R272, R288): the detail is the header the continuation would have. -/
def State.refuseWait {α : Type} (s : State) (desc : Word) (status : Nat) : Act α :=
  s.trap ⟨refusalCode status, 6, 0xFF, 0,
    mkHdr 0 false false s.cx.fmode s.pid 0xFFFF (nbits 24 8 desc.toNat) (nbits 16 8 desc.toNat) (nbits 0 16 desc.toNat), 0⟩

/-- An injection that has ended: only its count of tokens is kept, for later continuations (R45). -/
def Inject.ended (i : Inject) : Bool := i.wait_.isEmpty

/-- The waiter registers or is released at once (R43, R289): the state after and the status. -/
def State.awaitFut (s : State) (pid : Nat) (u : Fut) (x : FSlot) (w : Waiter) : State × Nat :=
  match x.kind with
  | .barrier .. => (s, 0)
  | .future va _ dl queue reply inj =>
    let n := fSlot u.w0
    if fSt u.w0 = 0 then
      ((s.putW0 u.loc.pa (mkWord0 n (fGen u.w0) 1)).setSlot u.die n { x with kind := .future va w dl queue reply inj }, 0)
    else
      let st := if fSt u.w0 = 2 then 1 else 2
      match inj with
      | some i =>
        if i.ended then (s.releaseWaiter pid u.die n va u.w0 u.w1 i.done w, st)
        else (s.setSlot u.die n { x with kind := .future va .none dl queue reply (some { i with wait_ := i.wait_ ++ [w] }) }, st)
      | none => (s.releaseWaiter pid u.die n va u.w0 u.w1 0 w, st)

/-- FWAIT (R43, R288). -/
def execXFwait (d a b : RegG) (g : GuardP) (s : State) : Res :=
  .next (s.xRun g [d, a, b] 1 fun s =>
    let desc := s.cx.gr b
    match s.check .x 3 .readWrite (s.cx.gr a) 16 with
    | .error h => .error h
    | .ok (_, t) => match s.descBad desc with
      | some k => t.refuseWait desc k
      | none => s.futOp d a fun s u x =>
        if fSt u.w0 = 1 then s.futTrap u.va
        else
          let r := s.awaitFut s.pid u x (.cont (contOf desc s.cx.fmode))
          .ok (r.1.status d r.2))

/-- FPOLL (R288). -/
def execXFpoll (d a : RegG) (g : GuardP) (s : State) : Res :=
  .next (s.xRun g [d, a] 1 fun s =>
    (s.object .x (s.cx.gr a) 16).map fun (_, b, s) => s.status d (bnat b 0 8))

/-- The waiters of an injection, all of them, are released with the tokens written so far (R289). -/
def State.endInject (s : State) (pid die n : Nat) (va : Word) (w0 w1 : Nat) (i : Inject) : State :=
  i.wait_.foldl (fun s w => s.releaseWaiter pid die n va w0 w1 i.done w) s

/-- FFREE (R43, R288): the slot is freed. An injection under way ends with the tokens it has written (log 20). -/
def execXFfree (d a : RegG) (g : GuardP) (s : State) : Res :=
  .next (s.xRun g [d, a] 1 fun s =>
    s.futOp d a fun s u x =>
      if fSt u.w0 = 1 then s.futTrap u.va
      else
        let n := fSlot u.w0
        let s := match x.kind with
          | .future va _ _ _ _ (some i) => s.endInject s.pid u.die n va u.w0 u.w1 i
          | .future _ _ _ _ _ none | .barrier .. => s
        .ok (((s.putW0 u.loc.pa (mkWord0 0 (fGen u.w0 + 1) 0)).delSlot u.die n).status d 0))

/-- FTMO (R43, R44, R288). -/
def execXFtmo (d a b : RegG) (g : GuardP) (s : State) : Res :=
  .next (s.xRun g [d, a, b] 1 fun s =>
    s.futOp d a fun s u x =>
      if 2 ≤ fSt u.w0 then .ok (s.status d 3)
      else match x.kind with
        | .barrier .. => .ok (s.status d 0)
        | .future va w _ queue reply inj =>
          let t := s.cx.gr b
          let n := fSlot u.w0
          if t ≠ BitVec.allOnes 64 ∧ t.toNat ≤ s.time.toNat then .ok ((s.settleFut s.pid u.die n x u.w0 u.w1 3).status d 0)
          else
            let dl := if t = BitVec.allOnes 64 then none else some t.toNat
            .ok ((s.setSlot u.die n { x with kind := .future va w dl queue reply inj }).status d 0))

/-- A token queue header that R46 refuses. -/
def tokenQueueBad (b : List Byte) : Bool :=
  let cap := bnat b 8 4
  bnat b 56 8 ≠ 0 || cap < 16 || 2 ^ 24 < cap || 2 ^ cap.log2 ≠ cap || 8 < bnat b 20 4 || bnat b 0 8 % 4 ≠ 0

/-- FBIND (R46, R288): the header is read and checked first. -/
def execXFbind (d a b : RegG) (g : GuardP) (s : State) : Res :=
  .next (s.xRun g [d, a, b] 1 fun s =>
    let q := s.cx.gr b
    let perform := fun (s : State) => s.futOp d a fun s u x =>
      if 2 ≤ fSt u.w0 then s.futTrap u.va
      else match x.kind with
        | .barrier .. => .ok (s.status d 0)
        | .future va w dl _ reply inj =>
          .ok ((s.setSlot u.die (fSlot u.w0) { x with kind := .future va w dl (if q = 0 then none else some q) reply inj }).status d 0)
    match s.check .x 3 .readWrite (s.cx.gr a) 16 with
    | .error h => .error h
    | .ok (_, t) =>
      if q = 0 then perform s
      else match t.load .x 3 q 64 .rlx with
        | .error h => .error h
        | .ok (hd, s) => if tokenQueueBad hd then s.futTrap (s.cx.gr a) else perform s)

/-! The table's own steps. -/

/-- Word 0 and word 1 of a slot's future, as memory holds them. -/
def State.words (s : State) (pa : Nat) : Nat × Nat := (s.latestNat pa 8, s.latestNat (pa + 8) 8)

/-- A deadline has passed by 1,000 ns or more, so that the future has timed out by now (R44). -/
def late (deadline : Option Nat) (time : Nat) : Bool :=
  match deadline with
  | some d => d + 1000 ≤ time
  | none => false

/-- The deadline of a slot's future that has none yet resolved times it out once it has passed (R43, R44). -/
def State.expire (s : State) (die slot : Nat) : State :=
  match s.slot die slot with
  | some x => match x.kind with
    | .future _ _ (some t) _ _ _ =>
      let w := s.words x.pa
      if t ≤ s.time.toNat ∧ fSt w.1 < 2 then s.settleFut x.part die slot x w.1 w.2 3 else s
    | .future _ _ none _ _ _ | .barrier .. => s
  | none => s

/-- FUTURE_DEADLINE (R43, R44). -/
def execEvFutureDeadline (die slot : Nat) (s : State) : Res := .next (s.expire die slot)

/-- Every future whose deadline passed 1,000 ns ago or earlier is timed out by now (R44). -/
def State.expireLate (s : State) : State :=
  s.futs.foldl (fun s d => d.2.foldl (fun s x => match x.2.kind with
    | .future _ _ dl _ _ _ => if late dl s.time.toNat then s.expire d.1 x.1 else s
    | .barrier .. => s) s) s

/-- One token id of an injection: of the reply buffer, or of the template (R46). -/
def State.tokenAt (s : State) (pid : Nat) (i : Inject) (hd : List Byte) (k : Nat) : State × Option Nat :=
  match i.src with
  | none => (s, some (bnat hd (24 + 4 * k) 4))
  | some buf => match s.devRead pid false (buf + BitVec.ofNat 64 (4 + 4 * k)) 4 with
    | (s, some (b, false)) => (s, some (leNat b))
    | (s, some (_, true)) | (s, none) => (s, none)

/-- TOKEN_INJECTION (R46, R289): the tokens that the ring has room for are copied, and TAIL advances; after the last one, or at one that
cannot be read or written, the waiters are released with the number written. -/
def execEvTokenInjection (die slot : Nat) (s : State) : Res :=
  .next (match s.slot die slot with
    | some x => match x.kind with
      | .future va w dl q reply (some i) =>
        let ws := s.words x.pa
        let finish := fun (s : State) (i : Inject) =>
          (s.setSlot die slot { x with kind := .future va w dl q reply (some { i with left := 0, wait_ := [] }) }).endInject x.part die slot va ws.1 ws.2 i
        if i.left = 0 then finish s i
        else match s.devRead x.part false i.queue 64 with
          | (s, some (hd, false)) =>
            let cap := bnat hd 8 4
            let tail := bnat hd 16 4
            let room := cap - (tail + 2 ^ 32 - bnat hd 12 4) % 2 ^ 32
            let r := (List.range (min room i.left)).foldl
              (fun (acc : State × Nat × Bool) k =>
                if acc.2.2 then acc
                else match acc.1.tokenAt x.part i hd (i.done + k) with
                  | (s, none) => (s, acc.2.1, true)
                  | (s, some t) =>
                    match s.devWrite x.part false (BitVec.ofNat 64 (bnat hd 0 8 + 4 * ((tail + k) % cap))) (leBytes 4 t) with
                    | (u, true) => (u, acc.2.1 + 1, false)
                    | (u, false) => (u, acc.2.1, true))
              (s, 0, false)
            let i' := { i with left := i.left - r.2.1, done := i.done + r.2.1 }
            let s := (r.1.devWrite x.part false (i.queue + 16) (leBytes 4 (tail + r.2.1))).1
            if r.2.2 || i'.left = 0 then finish s i'
            else s.setSlot die slot { x with kind := .future va w dl q reply (some i') }
          | (s, some (_, true)) | (s, none) => finish s i
      | .future _ _ _ _ _ none | .barrier .. => s
    | none => s)

/-! Barriers (R47, R290). -/

/-- A barrier at its home: EXP, ARR, PHASE. -/
structure Bar where
  exp   : Nat
  arr   : Nat
  phase : Nat
  deriving DecidableEq, Repr
def Bar.of (b : List Byte) : Bar := ⟨bnat b 0 4, bnat b 4 4, bnat b 8 4⟩

/-- The continuation of a barrier (R47). -/
def State.barrierCont (s : State) (pid : Nat) (va : Word) (phase named : Nat) (c : Cont) : State :=
  s.sendCont pid (.barrier va c.dest c.chan) c va.toNat phase named 0

/-- The waiters of a phase are sent their continuations, and their slots are freed (R47, R290). -/
def State.wakePhase (s : State) (pid die pa phase now_ : Nat) : State :=
  (mget [] s.futs die).foldl
    (fun s e => match e.2.kind with
      | .barrier va p c =>
        if e.2.part == pid && e.2.pa == pa && p.toNat == phase then (s.delSlot die e.1).barrierCont pid va now_ phase c else s
      | .future .. => s) s

/-- The completion test after barr or bexp (R47). -/
def State.testPhase (s : State) (l : Loc) (b : Bar) : State :=
  if b.exp ≠ 0 ∧ b.exp ≤ b.arr then
    let next := (b.phase + 1) % 2 ^ 32
    let s := s.putBytes l.pa (leBytes 4 0 ++ leBytes 4 (b.arr - b.exp) ++ leBytes 4 next)
    s.wakePhase s.pid (homeDie l) l.pa b.phase next
  else s.putBytes l.pa (leBytes 4 b.exp ++ leBytes 4 b.arr ++ leBytes 4 b.phase)

/-- BARR (R47, R290). -/
def execXBarr (d a : RegG) (g : GuardP) (s : State) : Res :=
  .next (s.xRun g [d, a] 1 fun s =>
    (s.object .x (s.cx.gr a) 16).map fun (l, o, s) =>
      let b := Bar.of o
      (s.testPhase l { b with arr := (b.arr + 1) % 2 ^ 32 }).status d b.phase)

/-- BEXP (R47, R290). -/
def execXBexp (d a b : RegG) (g : GuardP) (s : State) : Res :=
  .next (s.xRun g [d, a, b] 1 fun s =>
    (s.object .x (s.cx.gr a) 16).map fun (l, o, s) =>
      let n := nbits 0 32 (s.cx.gr b).toNat
      let r := Bar.of o
      (if n = 0 then s else s.testPhase l { r with exp := (r.exp + n) % 2 ^ 32 }).status d r.phase)

/-- BWAIT (R47, R290): the waiter's record is a slot of the home die's future table; WAIT is the device's own (log 3). -/
def execXBwait (d a b : RegG) (g : GuardP) (s : State) : Res :=
  .next (s.xRun g [d, a, b] 1 fun s =>
    let desc := s.cx.gr b
    let p := nbits 0 32 (s.cx.gr d).toNat
    let va := s.cx.gr a
    match s.check .x 3 .readWrite va 16 with
    | .error h => .error h
    | .ok (_, t) => match s.descBad desc with
      | some k => t.refuseWait desc k
      | none => match s.object .x va 16 with
        | .error h => .error h
        | .ok (l, o, s) =>
          let r := Bar.of o
          let c := contOf desc s.cx.fmode
          if r.phase ≠ p then .ok ((s.barrierCont s.pid va r.phase p c).status d 1)
          else match s.freeSlot (homeDie l) with
            | none => .error .stall
            | some n =>
              let s := s.setSlot (homeDie l) n ⟨s.pid, l.pa, .barrier va (BitVec.ofNat 32 p) c⟩
              let s := (s.putBytes (l.pa + 12) (leBytes 4 (Config.freeBits (s.free + 1)).toNat)).took.took
              .ok (s.status d 0))

end Sys2Proof.Machine
end

