-- ==== Sys2Proof/Machine/Hart.lean ====
section
/-! DEFINITION. The application cores (R148, R295 to R301): registers, exceptions, capability checks, translation and accesses, and the fetch of
a hart. The base RV64 machine that the manual names without describing it is read as log 8 says. -/

namespace Sys2Proof.Machine
open Sys2Proof

/-- The core whose instruction runs. -/
def State.hx (s : State) : Hart := s.hart s.cur.core
def State.setHx (s : State) (h : Hart) : State := s.setHart s.cur.core h

/-- x0 reads 0. -/
def Hart.xr (h : Hart) (r : RegX) : Word := if r = 0 then 0 else mget 0 h.x r.toNat
/-- A write to x0 is discarded (R302). -/
def Hart.setX (h : Hart) (r : RegX) (w : Word) : Hart := if r = 0 then h else { h with x := mput h.x r.toNat w }
/-- A capability register (R298). -/
def Hart.cap (h : Hart) (n : Nat) : Cap := mget Cap.reset h.caps n
def Hart.setCap (h : Hart) (n : Nat) (c : Cap) : Hart := { h with caps := mput h.caps n c }

/-- The core's partition tag (R296); 31 for none. -/
def Hart.pid (h : Hart) : Nat := h.part.getD 31
/-- The SRC value of a hart's parcels (R297). -/
def hartSrc (core : Nat) : Nat := 0xFE00 + core

/-- The instruction of a hart ends and the next one follows, len bytes on. -/
def Hart.retire (h : Hart) (len : Word := 4) : Hart := { h with pc := h.pc + len }

/-- An exception of a hart: its cause, its stval and, with cause 24, its Felduta code (R299). -/
structure Exc where
  cause : Nat
  tval  : Word
  code  : Option Nat
  deriving DecidableEq, Repr

/-- A mode below S or VS. -/
def HartMode.user : HartMode → Bool
  | .u | .vu => true
  | .m | .s | .vs => false
/-- A mode under the hypervisor extension. -/
def HartMode.virt : HartMode → Bool
  | .vs | .vu => true
  | .m | .s | .u => false

/-- The handler address of a trap vector: its base (log 8). -/
def tvecBase (w : Word) : Word := w &&& ~~~3#64

/-- The trap registers of a mode; U shares those of S, and VU those of VS. -/
def Hart.regsOf (h : Hart) (mode : HartMode) : SRegs :=
  match mode with
  | .m => h.mregs
  | .s | .u => h.sregs
  | .vs | .vu => h.vsregs
def Hart.setRegsOf (h : Hart) (mode : HartMode) (r : SRegs) : Hart :=
  match mode with
  | .m => { h with mregs := r }
  | .s | .u => { h with sregs := r }
  | .vs | .vu => { h with vsregs := r }

/-- A delegation register names a cause, which is an interrupt's when bit 63 is set. -/
def Hart.delegates (h : Hart) (exc irq cause : Nat) : Bool :=
  (mget 0 h.csrs (if 2 ^ 63 ≤ cause then irq else exc)).getLsbD (cause % 2 ^ 63)

/-- The mode that takes a trap (R299; log 8): M mode its own; else S, and from VS or VU mode VS, as far as medeleg and hedeleg, for an interrupt
mideleg and hideleg, name the cause. -/
def Hart.trapTo (h : Hart) (cause : Nat) : HartMode :=
  if h.mode = .m ∨ !h.delegates 0x302 0x303 cause then .m
  else if h.mode.virt ∧ h.delegates 0x602 0x603 cause then .vs
  else .s

/-- S mode learns whether a trap comes from a virtual mode: SPV, bit 7 of hstatus (log 8). -/
def Hart.noteVirt (h : Hart) (to_ : HartMode) : Hart :=
  if to_ = .s then
    { h with csrs := mset 0 h.csrs 0x600 ((mget 0 h.csrs 0x600 &&& ~~~0x80#64) ||| if h.mode.virt then 0x80 else 0) }
  else h

/-- TAKING AN EXCEPTION (R299): the mode that takes it saves the instruction's address, the cause and the value, and goes on at its handler. -/
def Hart.take (h : Hart) (e : Exc) (epc : Word) : Hart :=
  let to_ := h.trapTo e.cause
  let r := h.regsOf to_
  let r' : SRegs := { r with epc := epc, cause := BitVec.ofNat 64 e.cause, tval := e.tval, prev := h.mode, pie := r.ie, ie := false }
  let h' := { (h.noteVirt to_).setRegsOf to_ r' with mode := to_, pc := tvecBase r.tvec, sending := none, wait_ := none, woken := none }
  match e.code with
  | some c => { h' with senxcause := BitVec.ofNat 8 c }
  | none => h'

/-- How an instruction of a hart does not retire: an exception, with what its walks and earlier elements leave in the state, or a stall. -/
inductive HStop where | exc (e : Exc) (s : State) | stall
/-- A computation of a hart's instruction. -/
abbrev HAct (α : Type) := Except HStop α

/-- The end of an instruction of a hart: the state it makes, a stall, or the exception (R299). -/
def State.hartEnd (s : State) : HAct State → State
  | .ok t => t
  | .error .stall => s
  | .error (.exc e t) => t.setHx (t.hx.take e t.hx.pc)

/-- An exception of a standard cause. -/
def State.exc {α : Type} (s : State) (cause : Nat) (tval : Word) : HAct α := .error (.exc ⟨cause, tval, none⟩ s)
/-- Cause 24 with a Felduta code (R299). -/
def State.exc24 {α : Type} (s : State) (code : Nat) (tval : Word) : HAct α := .error (.exc ⟨24, tval, some code⟩ s)

/-! Access checks. -/

/-- The permissions a need asks of a capability: R, W, X as bits 0 to 2 (R298, R300). -/
def capNeed : Need → BitVec 4
  | .fetch => 4
  | .read => 1
  | .write => 2
  | .readWrite => 3

/-- One capability covers the whole access with every permission (R300). -/
def Cap.covers (c : Cap) (need : Need) (va size : Nat) : Bool :=
  c.perm.getLsbD 3 && c.base.toNat ≤ va && va + size ≤ c.limit.toNat && c.perm &&& capNeed need == capNeed need

/-- The capability check of R300 passes. -/
def Hart.capOk (h : Hart) (need : Need) (va size : Nat) : Bool :=
  !(h.capen && h.mode.user) || (List.range 8).any fun n => (h.cap n).covers need va size

/-- The standard causes of a need: misaligned, access fault, page fault (log 8). -/
def causes : Need → Nat × Nat × Nat
  | .fetch => (0, 1, 12)
  | .read => (4, 5, 13)
  | .write | .readWrite => (6, 7, 15)

/-! Stage 1 (R296): the Sv39, Sv48 and Sv57 walk of the family (log 8). -/

/-- The permissions of a leaf grant a need: R, W, X, U, A, D are bits 1 to 4, 6 and 7. -/
def svGrants (r : SRegs) (user : Bool) (need : Need) (e : Nat) : Bool :=
  let bit := fun (n : Nat) => nbits n 1 e = 1
  let mode := if user then bit 4 else !bit 4 || (r.sum && need != .fetch)
  mode && bit 6 && (match need with
    | .fetch => bit 3
    | .read => bit 1 || (r.mxr && bit 3)
    | .write => bit 2 && bit 7
    | .readWrite => bit 1 && bit 2 && bit 7)

/-- The size of a leaf's page: N = 1 joins sixteen 4 KiB pages. -/
def svSize (level e : Nat) : Nat := if nbits 63 1 e = 1 then 65536 else 2 ^ (12 + 9 * level)
/-- The intermediate address that a leaf of a level gives; none for a leaf the family calls malformed. -/
def svLeaf (level e va : Nat) : Option Nat :=
  let size := svSize level e
  let base := nbits 10 44 e * 4096
  if nbits 63 1 e = 1 then
    if level = 0 ∧ nbits 10 4 e = 8 then some (base / size * size + va % size) else none
  else if base % size = 0 then some (base + va % size) else none

/-- A walk that fails: with a page fault or with an access fault. -/
abbrev SvRes := Except (Bool × State) (Nat × Nat × Nat × State)

/-- The walk from a level down: the intermediate address, the leaf and the size of its page. -/
def State.svWalk (s : State) (pid : Nat) (ok : Nat → Bool) (va : Nat) : Nat → Nat → SvRes
  | 0, t =>
    match s.readTable pid (s.part pid).seg (t + 8 * nbits 12 9 va) 0 with
    | .error (_, s) => .error (false, s)
    | .ok ((_, e), s) =>
      if nbits 0 1 e = 0 ∨ nbits 54 7 e ≠ 0 ∨ nbits 61 2 e = 3 ∨ nbits 1 3 e = 0 ∨ nbits 1 2 e = 2 ∨ !ok e then .error (true, s)
      else match svLeaf 0 e va with
        | some ia => .ok (ia, e, svSize 0 e, s)
        | none => .error (true, s)
  | l + 1, t =>
    match s.readTable pid (s.part pid).seg (t + 8 * nbits (12 + 9 * (l + 1)) 9 va) (l + 1) with
    | .error (_, s) => .error (false, s)
    | .ok ((_, e), s) =>
      if nbits 0 1 e = 0 ∨ nbits 54 7 e ≠ 0 ∨ nbits 61 2 e = 3 ∨ nbits 1 2 e = 2 then .error (true, s)
      else if nbits 1 3 e = 0 then s.svWalk pid ok va l (nbits 10 44 e * 4096)
      else if !ok e then .error (true, s)
      else match svLeaf (l + 1) e va with
        | some ia => .ok (ia, e, svSize (l + 1) e, s)
        | none => .error (true, s)

/-- The levels of a translation mode of satp: Sv39, Sv48, Sv57; none for Bare. -/
def svLevels (mode : Nat) : Option Nat :=
  match mode with
  | 8 => some 3
  | 9 => some 4
  | 10 => some 5
  | _ => none

/-- Stage 1 of a hart: the intermediate address, the leaf's placement code and entry, and the size of its page. M mode and Bare translate nothing. -/
def State.hartStage1 (s : State) (need : Need) (va : Word) : Except (Bool × State) (Nat × Nat × Nat × Nat × State) :=
  let h := s.hx
  let root := (if h.mode.virt then h.vsatp else h.satp).toNat
  match if h.mode = .m then none else svLevels (nbits 60 4 root) with
  | none => .ok (va.toNat, 0, 0, 4096, s)
  | some n =>
    if (va.toInt.bmod (2 ^ (12 + 9 * n))) ≠ va.toInt then .error (true, s)
    else match s.svWalk h.pid (svGrants (h.regsOf h.mode) h.mode.user need) va.toNat (n - 1) (nbits 0 44 root * 4096) with
      | .error e => .error e
      | .ok (ia, e, size, s) => let w := (Config.hartLeaf e).toNat; .ok (ia, nbits 0 2 w, nbits 2 6 w, size, s)

/-- The placement of physical memory that no stage 1 placed. -/
def barePlace (pa : Nat) : Place := if 0x20000000000 ≤ pa then .lodge else .interleave

/-- A hart's translation of an access inside one page: its own stage 1, then the segment of its partition (R112, R296, R374, R376, R377). A core
without a partition reaches physical memory (log 8). -/
def State.hartXlate (s : State) (need : Need) (va : Word) : HAct (Loc × State) :=
  let c := causes need
  match s.hartStage1 need va with
  | .error (page, t) => t.exc (if page then c.2.2 else c.2.1) va
  | .ok (ia, plc, pp, size, t) =>
    let h := t.hx
    if h.part.isNone then
      if inMemory ia then .ok (⟨ia, barePlace ia⟩, t) else t.exc c.2.1 va
    else match stage2 (t.part h.pid).seg ia with
      | none => t.exc c.2.1 va
      | some (pa, true) => .ok (⟨pa, .lodge⟩, t)
      | some (pa, false) =>
        match t.placement h.pid (t.part h.pid) none false 0 plc pp (va.toNat - va.toNat % size) with
        | .error (_, t) => t.exc c.2.1 va
        | .ok (pl, t) => .ok (⟨pa, pl⟩, t)

/-- The places of an access, page by page. -/
def State.hartPlaces (s : State) (need : Need) (va : Word) (size : Nat) : HAct (List (Loc × Nat) × State) :=
  (pageCuts (size / 4096 + 2) va size).foldl
    (fun acc c => match acc with
      | .error h => .error h
      | .ok (ls, t) => match t.hartXlate need c.1 with
        | .error h => .error h
        | .ok (l, t) => .ok (ls ++ [(l, c.2)], t.allocIn (homeBank l) t.hx.pid))
    (.ok ([], s))

/-- The checks of an access of a hart: alignment, capability, translation (R300). Plain loads and stores need no alignment (log 8). -/
def State.hartCheck (s : State) (need : Need) (va : Word) (size align : Nat) : HAct (List (Loc × Nat) × State) :=
  if va.toNat % align ≠ 0 then s.exc (causes need).1 va
  else if !s.hx.capOk need va.toNat size then s.exc24 0x28 va
  else s.hartPlaces need va size

/-- Lines that a core without a partition accesses: it carries Belvedere's key (R393), so that the agents give them up under their own key first, and
their blocks are read and written under Belvedere's for the access. -/
def State.underKey (s : State) (lines : List Nat) : State :=
  if s.hx.part.isSome then s
  else
    let t := lines.foldl State.giveUp s
    { t with gibs := lines.foldl (fun m n => mdel m (n / 2 ^ 24)) t.gibs }

/-- Bytes read by a hart (R148): relaxed at the home; a poisoned byte, or a failed staging slot (R125), raises the load access fault, cause 5
(R389). -/
def State.hartRead (s : State) (need : Need) (va : Word) (size align : Nat) : HAct (List (Loc × Nat) × List Byte × State) :=
  match s.hartCheck need va size align with
  | .error e => .error e
  | .ok (ls, t) =>
    if (placeLines ls).any t.poisoned || t.placeStaged t.hx.pid StageSt.isFailed ls then t.exc 5 va
    else
      let u := t.underKey (placeLines ls)
      .ok (ls, u.placeBytes ls, { (placeLines ls).foldl State.snoopRead u with gibs := t.gibs })

/-- Bytes stored by a hart over checked places. -/
def State.hartPut (s : State) (ls : List (Loc × Nat)) (bs : List Byte) : State :=
  let t := s.underKey (placeLines ls)
  { (ls.foldl (fun (acc : State × List Byte) l => (acc.1.putBytes l.1.pa (acc.2.take l.2), acc.2.drop l.2)) (t, bs)).1 with gibs := s.gibs }

/-- A store of a hart, relaxed at package scope (R148). -/
def State.hartStore (s : State) (va : Word) (bs : List Byte) : HAct State :=
  (s.hartCheck .write va bs.length 1).map fun r => r.2.hartPut r.1 bs

/-- The value an AMO stores (R148): operation op on size bytes. -/
def hartAmo (op : AmoOp) (size old v : Nat) : Nat :=
  let w := 8 * size
  let sgn := fun (n : Nat) => if n < 2 ^ (w - 1) then (n : Int) else (n : Int) - 2 ^ w
  match op with
  | .add => (old + v) % 2 ^ w
  | .and => old &&& v
  | .or => old ||| v
  | .xor => old ^^^ v
  | .min => if sgn v < sgn old then v else old
  | .max => if sgn old < sgn v then v else old
  | .minu => min old v
  | .maxu => max old v
  | .swap => v

/-- A loaded value, sign-extended or zero-extended to 64 bits. -/
def extendTo (signed : Bool) (size n : Nat) : Word :=
  if signed ∧ 2 ^ (8 * size - 1) ≤ n then BitVec.ofNat 64 (n + 2 ^ 64 - 2 ^ (8 * size)) else BitVec.ofNat 64 n

/-- An atomic of a hart (R130, R148): the old value enters rd, sign-extended; f gives the new value, when one is stored. An atomic on HEAD of
the fault buffer header lets held records in (R383). -/
def State.hartAtomic (s : State) (va : Word) (size : Nat) (rd : RegX) (f : Nat → Option Nat) : HAct State :=
  (s.hartRead .readWrite va size size).map fun r =>
    let old := leNat r.2.1
    let t := match f old, r.1 with
      | some v, (l, _) :: _ => (r.2.2.hartPut r.1 (leBytes size v)).headMoved r.2.2.hx.pid l.pa size
      | _, _ => r.2.2
    t.setHx (t.hx.setX rd (extendTo true size old))

/-- LR of a hart (R148): a load that reserves its line. -/
def State.hartLr (s : State) (va : Word) (size : Nat) (rd : RegX) : HAct State :=
  (s.hartRead .read va size size).map fun r =>
    let t := r.2.2.setHx (r.2.2.hx.setX rd (extendTo true size (leNat r.2.1)))
    match r.1 with
    | (l, _) :: _ => { t with resvs := mput t.resvs t.cur.core (l.pa / 64) }
    | [] => t

/-- SC of a hart (R148): it stores, and rd reads 0, while the reservation on its line stands; else rd reads 1. One on HEAD of the fault buffer header
lets held records in (R383). -/
def State.hartSc (s : State) (va : Word) (bs : List Byte) (rd : RegX) : HAct State :=
  (s.hartCheck .write va bs.length bs.length).map fun r =>
    let t := r.2
    let held := r.1.any fun l => mfind t.resvs t.cur.core = some (l.1.pa / 64)
    let t := match held, r.1 with
      | true, (l, _) :: _ => (t.hartPut r.1 bs).headMoved t.hx.pid l.pa bs.length
      | _, _ => t
    let t := { t with resvs := mdel t.resvs t.cur.core }
    t.setHx (t.hx.setX rd (if held then 0 else 1))

/-- Element i of a vector register group: the register and the bit it starts at. -/
def vecElem (vd : RegX) (size i : Nat) : Nat × Nat := ((vd.toNat + i * size / 32) % 32, 8 * (i * size % 32))
/-- A field of a vector register replaced. -/
def putField (w : BitVec 256) (lo n v : Nat) : BitVec 256 :=
  BitVec.ofNat 256 (w.toNat - nbits lo n w.toNat * 2 ^ lo + v % 2 ^ n * 2 ^ lo)

/-- An element of a vector access (R300): loaded into, or stored from, its place in the register group. One that the mask leaves out does nothing. -/
def State.hartElem (s : State) (store : Bool) (vd : RegX) (size : Nat) (e : VecEl) : HAct State :=
  let (n, lo) := vecElem (vd + BitVec.ofNat 5 e.reg) size e.num
  if !e.active then .ok s
  else if store then s.hartStore e.va (leBytes size (nbits lo (8 * size) (mget 0 s.hx.v n).toNat))
  else (s.hartRead .read e.va size 1).map fun r =>
    let t := r.2.2
    t.setHx { t.hx with v := mput t.hx.v n (putField (mget 0 t.hx.v n) lo (8 * size) (leNat r.2.1)) }

/-- The next element of a vector access: when it fails vstart names it. -/
def vecStep (store : Bool) (vd : RegX) (size : Nat) (acc : HAct State) (e : VecEl) : HAct State :=
  match acc with
  | .error h => .error h
  | .ok t => match t.hartElem store vd size e with
    | .error (.exc x u) => .error (.exc x (u.setHx { u.hx with vstart := e.num }))
    | .error .stall => .error .stall
    | .ok u => .ok u

/-- A vector access from vstart on, element by element (R300): at the first element that fails vstart names it, and the earlier ones are
performed; at the end vstart is 0. -/
def State.hartVector (s : State) (store : Bool) (vd : RegX) (size : Nat) (els : List VecEl) : HAct State :=
  ((els.filter fun e => s.hx.vstart ≤ e.num).foldl (vecStep store vd size) (.ok s)).map fun t => t.setHx { t.hx with vstart := 0 }

/-- A size a hart's access may have. -/
def hartSize (n : Nat) : Bool := n = 1 || n = 2 || n = 4 || n = 8

/-- A hart runs: its core exists, it is not stopped, and no enx.send or enx.fwait keeps it. -/
def Hart.moves (h : Hart) : Bool := !h.stopped && h.sending.isNone && h.wait_.isNone

/-- One access of a hart (R148, R300). Every access is performed at its home in program order, so that aq, rl and the fences order nothing
more. -/
def State.hartAccess (s : State) (acc : HartAcc) : HAct State :=
  let bs := leBytes acc.size acc.data.toNat
  match acc.kind with
  | .fetch => (s.hartRead .fetch acc.va acc.size 2).map fun r => r.2.2
  | .load signed => (s.hartRead .read acc.va acc.size 1).map fun r =>
      r.2.2.setHx (r.2.2.hx.setX acc.rd (extendTo signed acc.size (leNat r.2.1)))
  | .store => s.hartStore acc.va bs
  | .amo op =>
    if acc.size < 4 then .ok s
    else s.hartAtomic acc.va acc.size acc.rd fun old => some (hartAmo op acc.size old (acc.data.toNat % 2 ^ (8 * acc.size)))
  | .lr => if acc.size < 4 then .ok s else s.hartLr acc.va acc.size acc.rd
  | .sc => if acc.size < 4 then .ok s else s.hartSc acc.va bs acc.rd
  | .fence _ => .ok s
  | .vload els => s.hartVector false acc.rd acc.size els
  | .vstore els => s.hartVector true acc.rd acc.size els

/-- HART_MEMORY_ACCESS (R148, R300, R389): the access of a base instruction, checked before translation, then performed. The pc stays: the rest
of that instruction is the base machine's (log 8). A hart that an enx.send or enx.fwait keeps makes none. -/
def execEvHartMemoryAccess (core : Nat) (acc : HartAcc) (s : State) : Res :=
  .next (
    let t := { s with cur := ⟨s.cur.cell, s.cur.ctx, core⟩ }
    if Config.cores ≤ core ∨ !hartSize acc.size ∨ !t.hx.moves then s else t.hartEnd (t.hartAccess acc))

/-! The turn of a hart. -/

/-- The instruction word at a hart's program counter: a halfword, and another one when the first begins a 32-bit instruction. -/
def State.hartFetch (s : State) : HAct (BitVec 32 × State) :=
  let pc := s.hx.pc
  match s.hartRead .fetch pc 2 2 with
  | .error e => .error e
  | .ok (_, lo, s) =>
    let a := leNat lo
    if a % 4 ≠ 3 then .ok (BitVec.ofNat 32 a, s)
    else if !s.hx.capOk .fetch pc.toNat 4 then s.exc24 0x28 pc
    else match s.hartRead .fetch (pc + 2) 2 2 with
      | .error e => .error e
      | .ok (_, hi, s) => .ok (BitVec.ofNat 32 (a + 65536 * leNat hi), s)

/-- A word of the custom opcodes of Xenx (R302). -/
def customWord (w : BitVec 32) : Bool := w.toNat % 128 = 0x0B || w.toNat % 128 = 0x2B

end Sys2Proof.Machine
end

