-- ==== Sys2Proof/Machine/RvBase.lean ====
section
/-! DEFINITION. The base machine of a hart as the model has it (R148, R295, R296; log 8): the CSRs with those of Xenx (R297), and the RV64I,
M, A and CSR instructions with the returns from a trap, after the RISC-V family; Machine/RvExt.lean has the other extensions. The manual names
this machine and does not describe it. -/

namespace Sys2Proof.Machine
open Sys2Proof

/-! CSRs. -/

/-- The level of a mode, as the number of a CSR names it: U, VS, S, M. -/
def HartMode.level : HartMode → Nat
  | .u | .vu => 0
  | .vs => 1
  | .s => 2
  | .m => 3

/-- The status word of S or VS mode. -/
def SRegs.status (r : SRegs) : Nat :=
  r.ie.toNat * 2 + r.pie.toNat * 2 ^ 5 + (!r.prev.user).toNat * 2 ^ 8 + r.sum.toNat * 2 ^ 18 + r.mxr.toNat * 2 ^ 19 + 2 ^ 33
/-- The bits that M mode's status word adds. -/
def SRegs.mstatus (r : SRegs) : Nat :=
  r.ie.toNat * 2 ^ 3 + r.pie.toNat * 2 ^ 7 + r.prev.virt.toNat * 2 ^ 39 + (match r.prev with
    | .m => 3
    | .s | .vs => 1
    | .u | .vu => 0) * 2 ^ 11
/-- A status word written; user and super are the two modes that its previous-mode bit names. -/
def SRegs.setStatus (r : SRegs) (user super : HartMode) (w : Word) : SRegs :=
  { r with ie := w.getLsbD 1, pie := w.getLsbD 5, prev := if w.getLsbD 8 then super else user, sum := w.getLsbD 18, mxr := w.getLsbD 19 }
/-- The bits of M mode written. -/
def SRegs.setMstatus (r : SRegs) (w : Word) : SRegs :=
  { r with
    ie := w.getLsbD 3, pie := w.getLsbD 7
    prev := match nbits 11 2 w.toNat with
      | 3 => .m
      | 1 => if w.getLsbD 39 then .vs else .s
      | _ => if w.getLsbD 39 then .vu else .u }

/-- A CSR of S mode that VS mode reaches as its own. -/
def csrOf (mode : HartMode) (num : Nat) : Nat := if mode = .vs ∧ 0x100 ≤ num ∧ num < 0x200 then num + 0x100 else num

/-- The standard CSRs that the model only holds, by first and last number. -/
def plainRanges : List (Nat × Nat) :=
  [(0x003, 0x003), (0x00F, 0x00F), (0x104, 0x104), (0x106, 0x106), (0x10A, 0x10A), (0x10C, 0x10F), (0x144, 0x144), (0x14D, 0x14D), (0x204, 0x204),
    (0x244, 0x244), (0x24D, 0x24D), (0x301, 0x304), (0x306, 0x306), (0x30A, 0x30A), (0x30C, 0x30F), (0x320, 0x320), (0x323, 0x33F), (0x344, 0x344),
    (0x34A, 0x34B), (0x3A0, 0x3EF), (0x600, 0x600), (0x602, 0x607), (0x60A, 0x60A), (0x60C, 0x60F), (0x643, 0x645), (0x64A, 0x64A), (0x680, 0x680),
    (0xB00, 0xB00), (0xB02, 0xB1F), (0xC02, 0xC21), (0xDA0, 0xDA0), (0xE12, 0xE12), (0xF11, 0xF13), (0xF15, 0xF15)]
/-- A standard CSR that the model only holds. -/
def plainCsr (n : Nat) : Bool := plainRanges.any fun r => r.1 ≤ n && n ≤ r.2

/-- A CSR that is a field of another: fflags and frm of fcsr, vxsat and vxrm of vcsr; with its place and width. -/
def subCsr (n : Nat) : Option (Nat × Nat × Nat) :=
  match n with
  | 0x001 => some (0x003, 0, 5)
  | 0x002 => some (0x003, 5, 3)
  | 0x009 => some (0x00F, 0, 1)
  | 0x00A => some (0x00F, 1, 2)
  | _ => none

/-- A trap register of a mode by the low byte of its CSR number. -/
def SRegs.get (r : SRegs) (n : Nat) : Option Word :=
  match n with
  | 0x05 => some r.tvec
  | 0x40 => some r.scratch
  | 0x41 => some r.epc
  | 0x42 => some r.cause
  | 0x43 => some r.tval
  | _ => none
def SRegs.set (r : SRegs) (n : Nat) (w : Word) : SRegs :=
  match n with
  | 0x05 => { r with tvec := w }
  | 0x40 => { r with scratch := w }
  | 0x41 => { r with epc := w }
  | 0x42 => { r with cause := w }
  | 0x43 => { r with tval := w }
  | _ => r

/-- A CSR of a hart as it reads (R297; log 8): none for a number that names no CSR. senxhart is composed of the core number and the SRC
value. -/
def State.hartCsr (s : State) (num : Nat) : Option Word :=
  let h := s.hx
  match num with
  | 0x800 => some (BitVec.ofNat 64 h.enxmode.toNat)
  | 0x5C0 => some (zext h.senxcause)
  | 0x5C1 => some (BitVec.ofNat 64 h.capen.toNat)
  | 0x5C2 => some (BitVec.ofNat 64 (s.cur.core * 65536 + hartSrc s.cur.core))
  | 0x008 => some (BitVec.ofNat 64 h.vstart)
  | 0xC22 => some 32
  | 0xC00 => some s.cycle
  | 0xC01 => some s.time
  | 0xF14 => some (BitVec.ofNat 64 s.cur.core)
  | 0x100 => some (BitVec.ofNat 64 h.sregs.status)
  | 0x200 => some (BitVec.ofNat 64 h.vsregs.status)
  | 0x300 => some (BitVec.ofNat 64 (h.sregs.status + h.mregs.mstatus))
  | 0x180 => some h.satp
  | 0x280 => some h.vsatp
  | n =>
    if plainCsr n then some (mget 0 h.csrs n)
    else match subCsr n with
    | some (m, lo, k) => some (BitVec.ofNat 64 (nbits lo k (mget 0 h.csrs m).toNat))
    | none => match n / 256 with
      | 1 => h.sregs.get (n % 256)
      | 2 => h.vsregs.get (n % 256)
      | 3 => h.mregs.get (n % 256)
      | _ => none

/-- A CSR of a hart written (R8, R297): the read-only senxhart ignores it. -/
def Hart.setCsr (h : Hart) (num : Nat) (w : Word) : Hart :=
  match num with
  | 0x800 => { h with enxmode := w.getLsbD 0 }
  | 0x5C0 => { h with senxcause := w.setWidth 8 }
  | 0x5C1 => { h with capen := w.getLsbD 0 }
  | 0x5C2 => h
  | 0x008 => { h with vstart := w.toNat % 256 }
  | 0x100 => { h with sregs := h.sregs.setStatus .u .s w }
  | 0x200 => { h with vsregs := h.vsregs.setStatus .vu .vs w }
  | 0x300 => { h with sregs := h.sregs.setStatus .u .s w, mregs := h.mregs.setMstatus w }
  | 0x180 => if nbits 60 4 w.toNat = 0 ∨ (svLevels (nbits 60 4 w.toNat)).isSome then { h with satp := w } else h
  | 0x280 => if nbits 60 4 w.toNat = 0 ∨ (svLevels (nbits 60 4 w.toNat)).isSome then { h with vsatp := w } else h
  | n =>
    if plainCsr n then { h with csrs := mset 0 h.csrs n w }
    else match subCsr n with
    | some (m, lo, k) =>
      let old := (mget 0 h.csrs m).toNat
      { h with csrs := mset 0 h.csrs m (BitVec.ofNat 64 (old - nbits lo k old * 2 ^ lo + w.toNat % 2 ^ k * 2 ^ lo)) }
    | none => match n / 256 with
      | 1 => { h with sregs := h.sregs.set (n % 256) w }
      | 2 => { h with vsregs := h.vsregs.set (n % 256) w }
      | 3 => { h with mregs := h.mregs.set (n % 256) w }
      | _ => h

/-- The lowest mode of a CSR (R297): bits 9 and 8 of its number; those of Xenx are S, and U for enxmode. -/
def csrLevel (num : Nat) : Nat := if num = 0x800 then 0 else nbits 8 2 num
/-- An access of a hart in a mode to a CSR number raises an illegal-instruction exception (R297): it names no CSR, lies below its lowest
mode, or writes a number of the family's read-only range. -/
def State.csrIllegal (s : State) (num : Nat) (write : Bool) : Bool :=
  (s.hartCsr num).isNone || s.hx.mode.level < csrLevel num || (write && nbits 10 2 num = 3)

/-- A CSR access of a hart's instruction: the CSR's old value goes to k, with the hart that holds the new one. word is what stval holds
of an illegal instruction (log 8). -/
def State.csrAccess (s : State) (num : Nat) (word : Word) (new : Option (Word → Word)) (k : State → Word → State) : HAct State :=
  let n := csrOf s.hx.mode num
  if s.csrIllegal n new.isSome then s.exc 2 word
  else
    let old := (s.hartCsr n).getD 0
    .ok (k (match new with
      | some f => s.setHx (s.hx.setCsr n (f old))
      | none => s) old)

/-- A write of a hart's CSR by itself (R8, R297): the rest of its instruction is not described, and the word of an illegal one is a free value
(log 8). A hart that an enx.send or enx.fwait keeps makes none. -/
def State.writeHartCsr (s : State) (core num : Nat) (w : Word) : State :=
  let t := { s with cur := ⟨s.cur.cell, s.cur.ctx, core⟩ }
  if Config.cores ≤ core ∨ !t.hx.moves then s
  else (t.hartEnd (t.csrAccess num ((Config.freeBits s.free).setWidth 64) (some fun _ => w) fun u _ => u)).took

/-! Instructions (log 8). -/

/-- The fields of a word: rd, rs1, rs2, funct3, funct7. -/
def rvRd (w : Nat) : RegX := BitVec.ofNat 5 (nbits 7 5 w)
def rvRs1 (w : Nat) : RegX := BitVec.ofNat 5 (nbits 15 5 w)
def rvRs2 (w : Nat) : RegX := BitVec.ofNat 5 (nbits 20 5 w)
def rvF3 (w : Nat) : Nat := nbits 12 3 w
def rvF7 (w : Nat) : Nat := nbits 25 7 w
/-- The immediates, sign-extended. -/
def rvI (w : Nat) : Word := sext (BitVec.ofNat 12 (nbits 20 12 w))
def rvS (w : Nat) : Word := sext (BitVec.ofNat 12 (nbits 7 5 w + 32 * nbits 25 7 w))
def rvB (w : Nat) : Word := sext (BitVec.ofNat 13 (2 * nbits 8 4 w + 32 * nbits 25 6 w + 2048 * nbits 7 1 w + 4096 * nbits 31 1 w))
def rvU (w : Nat) : Word := sext (BitVec.ofNat 32 (nbits 12 20 w * 4096))
def rvJ (w : Nat) : Word :=
  sext (BitVec.ofNat 21 (2 * nbits 21 10 w + 2048 * nbits 20 1 w + 4096 * nbits 12 8 w + 2 ^ 20 * nbits 31 1 w))

/-- The low 32 bits, sign-extended. -/
def rvW (w : Word) : Word := sext (w.setWidth 32)

/-- An operation of OP and OP-IMM; alt is the bit that makes a subtraction or an arithmetic shift. -/
def rvAlu (f3 : Nat) (alt : Bool) (a b : Word) : Word :=
  match f3 with
  | 0 => if alt then a - b else a + b
  | 1 => a <<< (b.toNat % 64)
  | 2 => BitVec.ofNat 64 (a.slt b).toNat
  | 3 => BitVec.ofNat 64 (a.ult b).toNat
  | 4 => a ^^^ b
  | 5 => if alt then a.sshiftRight (b.toNat % 64) else a >>> (b.toNat % 64)
  | 6 => a ||| b
  | _ => a &&& b
/-- The same on words. -/
def rvAluW (f3 : Nat) (alt : Bool) (a b : Word) : Option Word :=
  let n := b.toNat % 32
  match f3 with
  | 0 => some (rvW (if alt then a - b else a + b))
  | 1 => some (rvW (a <<< n))
  | 5 => some (if alt then (rvW a).sshiftRight n else sext ((a.setWidth 32 : BitVec 32) >>> n))
  | _ => none
/-- Multiplication and division. -/
def rvMul (f3 : Nat) (a b : Word) : Word :=
  match f3 with
  | 0 => a * b
  | 1 => BitVec.ofInt 64 (a.toInt * b.toInt / 2 ^ 64)
  | 2 => BitVec.ofInt 64 (a.toInt * b.toNat / 2 ^ 64)
  | 3 => BitVec.ofNat 64 (a.toNat * b.toNat / 2 ^ 64)
  | 4 => if b = 0 then BitVec.allOnes 64 else BitVec.ofInt 64 (a.toInt.tdiv b.toInt)
  | 5 => if b = 0 then BitVec.allOnes 64 else BitVec.ofNat 64 (a.toNat / b.toNat)
  | 6 => if b = 0 then a else BitVec.ofInt 64 (a.toInt.tmod b.toInt)
  | _ => if b = 0 then a else BitVec.ofNat 64 (a.toNat % b.toNat)
/-- The same on words. -/
def rvMulW (f3 : Nat) (a b : Word) : Option Word :=
  let z := fun (w : Word) => w &&& 0xFFFFFFFF
  match f3 with
  | 0 => some (rvW (a * b))
  | 4 => some (rvW (rvMul 4 (rvW a) (rvW b)))
  | 5 => some (rvW (rvMul 5 (z a) (z b)))
  | 6 => some (rvW (rvMul 6 (rvW a) (rvW b)))
  | 7 => some (rvW (rvMul 7 (z a) (z b)))
  | _ => none

/-- The condition of a branch. -/
def rvBranch (f3 : Nat) (a b : Word) : Option Bool :=
  match f3 with
  | 0 => some (a == b)
  | 1 => some (a != b)
  | 4 => some (a.slt b)
  | 5 => some !(a.slt b)
  | 6 => some (a.ult b)
  | 7 => some !(a.ult b)
  | _ => none

/-- A value goes into rd, and the instruction retires. -/
def State.hartGive (s : State) (rd : RegX) (w : Word) (len : Word := 4) : State := s.setHx ((s.hx.setX rd w).retire len)
/-- A hart goes to an address, with a value for rd. -/
def State.hartJump (s : State) (rd : RegX) (w pc : Word) : State := s.setHx { s.hx.setX rd w with pc := pc &&& ~~~1#64 }
/-- An access after which the instruction retires. -/
def State.hartDo (s : State) (a : HartAcc) (len : Word := 4) : HAct State := (s.hartAccess a).map fun t => t.setHx (t.hx.retire len)

/-- The atomic of a word of opcode AMO. -/
def rvAtomic (w : Nat) : Option HartKind :=
  match nbits 27 5 w with
  | 0 => some (.amo .add)
  | 1 => some (.amo .swap)
  | 2 => if rvRs2 w = 0 then some .lr else none
  | 3 => some .sc
  | 4 => some (.amo .xor)
  | 8 => some (.amo .or)
  | 12 => some (.amo .and)
  | 16 => some (.amo .min)
  | 20 => some (.amo .max)
  | 24 => some (.amo .minu)
  | 28 => some (.amo .maxu)
  | _ => none

/-- The mode that an sret of S mode goes to: SPV, bit 7 of hstatus, says whether it is a virtual one. -/
def Hart.sretMode (h : Hart) : HartMode :=
  if (mget 0 h.csrs 0x600).getLsbD 7 then (if h.sregs.prev.user then .vu else .vs) else h.sregs.prev

/-- A return from a trap ends in its registers: the interrupt enable returns, and the previous mode becomes the lowest. -/
def SRegs.leave (r : SRegs) (low : HartMode) : SRegs := { r with ie := r.pie, pie := true, prev := low }

/-- The return from an exception: sret of S and of VS mode. -/
def Hart.sret (h : Hart) : Hart :=
  if h.mode = .vs then { h with mode := h.vsregs.prev, pc := h.vsregs.epc, vsregs := h.vsregs.leave .vu }
  else { h with
    mode := h.sretMode, pc := h.sregs.epc, sregs := h.sregs.leave .u
    csrs := mset 0 h.csrs 0x600 (mget 0 h.csrs 0x600 &&& ~~~0x80#64) }
/-- mret. -/
def Hart.mret (h : Hart) : Hart := { h with mode := h.mregs.prev, pc := h.mregs.epc, mregs := h.mregs.leave .u }

/-- The cause of an ecall. -/
def ecallCause : HartMode → Nat
  | .u | .vu => 8
  | .s => 9
  | .vs => 10
  | .m => 11

/-- An instruction of S mode and M mode ends; in U mode it is illegal, and in VU mode a virtual instruction. -/
def State.rvSuper (s : State) (word : Word) (act : Hart → Hart) : HAct State :=
  if s.hx.mode.user then s.exc (if s.hx.mode.virt then 22 else 2) word else .ok (s.setHx (act s.hx))

/-- A word of opcode SYSTEM. -/
def State.rvSystem (s : State) (len : Word) (w : Nat) : Option (HAct State) :=
  let word := BitVec.ofNat 64 w
  let num := nbits 20 12 w
  let src := if rvF3 w < 4 then s.hx.xr (rvRs1 w) else BitVec.ofNat 64 (nbits 15 5 w)
  let csr := fun (f : Option (Word → Word)) => some (s.csrAccess num word f fun t old => t.hartGive (rvRd w) old len)
  let quiet := nbits 15 5 w = 0
  match rvF3 w % 4 with
  | 0 =>
    if rvF3 w ≠ 0 then none
    else if w = 0x00000073 then some (s.exc (ecallCause s.hx.mode) 0)
    else if w = 0x00100073 then some (s.exc 3 s.hx.pc)
    else if w = 0x10500073 then some (.ok (s.setHx s.hx.retire))
    else if w = 0x10200073 then some (s.rvSuper word Hart.sret)
    else if w = 0x30200073 then some (if s.hx.mode = .m then .ok (s.setHx s.hx.mret) else s.exc 2 word)
    else if rvF7 w = 9 ∧ rvRd w = 0 then some (s.rvSuper word fun h => h.retire)
    else none
  | 1 => csr (some fun _ => src)
  | 2 => csr (if quiet then none else some fun old => old ||| src)
  | _ => csr (if quiet then none else some fun old => old &&& ~~~src)

/-- The effect of a base instruction's word, which took len bytes of the program: none for a word that is no instruction of the base. -/
def State.rvExec (s : State) (len : Word) (w : Nat) : Option (HAct State) :=
  let h := s.hx
  let rd := rvRd w
  let a := h.xr (rvRs1 w)
  let b := h.xr (rvRs2 w)
  let give := fun (v : Word) => some (.ok (s.hartGive rd v len) : HAct State)
  let access := fun (k : HartKind) (va : Word) (size : Nat) => some (s.hartDo ⟨k, va, size, b, rd, nbits 26 1 w = 1, nbits 25 1 w = 1⟩ len)
  match w % 128 with
  | 0x37 => give (rvU w)
  | 0x17 => give (h.pc + rvU w)
  | 0x6F => some (.ok (s.hartJump rd (h.pc + len) (h.pc + rvJ w)))
  | 0x67 => if rvF3 w = 0 then some (.ok (s.hartJump rd (h.pc + len) (a + rvI w))) else none
  | 0x63 => (rvBranch (rvF3 w) a b).map fun t => .ok (if t then s.hartJump 0 0 (h.pc + rvB w) else s.setHx (h.retire len))
  | 0x03 => if rvF3 w = 7 then none else access (.load (rvF3 w < 4)) (a + rvI w) (2 ^ (rvF3 w % 4))
  | 0x23 => if 4 ≤ rvF3 w then none else access .store (a + rvS w) (2 ^ rvF3 w)
  | 0x13 =>
    if rvF3 w = 1 ∧ nbits 26 6 w ≠ 0 ∨ rvF3 w = 5 ∧ nbits 26 6 w ≠ 0 ∧ nbits 26 6 w ≠ 16 then none
    else give (rvAlu (rvF3 w) (rvF3 w = 5 ∧ nbits 26 6 w = 16) a (rvI w))
  | 0x1B =>
    if rvF3 w = 1 ∧ rvF7 w ≠ 0 ∨ rvF3 w = 5 ∧ rvF7 w ≠ 0 ∧ rvF7 w ≠ 32 then none
    else (rvAluW (rvF3 w) (rvF3 w = 5 ∧ rvF7 w = 32) a (rvI w)).bind give
  | 0x33 =>
    if rvF7 w = 1 then give (rvMul (rvF3 w) a b)
    else if rvF7 w = 0 ∨ rvF7 w = 32 ∧ (rvF3 w = 0 ∨ rvF3 w = 5) then give (rvAlu (rvF3 w) (rvF7 w = 32) a b)
    else none
  | 0x3B =>
    if rvF7 w = 1 then (rvMulW (rvF3 w) a b).bind give
    else if rvF7 w = 0 ∨ rvF7 w = 32 ∧ (rvF3 w = 0 ∨ rvF3 w = 5) then (rvAluW (rvF3 w) (rvF7 w = 32) a b).bind give
    else none
  | 0x2F =>
    if rvF3 w = 2 ∨ rvF3 w = 3 then (rvAtomic w).bind fun k => access k a (2 ^ rvF3 w) else none
  | 0x0F => if rvF3 w < 2 then some (.ok (s.setHx h.retire)) else none
  | 0x73 => s.rvSystem len w
  | _ => none

end Sys2Proof.Machine
end

