-- ==== Sys2Proof/Machine/Enx.lean ====
section
/-! DEFINITION. The Xenx instructions of the application cores and the steps of a blocked enx.fwait (R302 to R307). -/

namespace Sys2Proof.Machine
open Sys2Proof

/-- An instruction of a hart: it runs while no enx.send or enx.fwait of the hart is under way. -/
def State.hartRun (s : State) (body : State → HAct State) : State :=
  if s.hx.moves then s.hartEnd (body s) else s

/-- A supervisor form (R302): illegal in U and VU mode; stval holds the word (log 8). -/
def State.superRun (s : State) (i : Instr) (body : State → HAct State) : State :=
  s.hartRun fun s => if s.hx.mode.user then s.exc 2 (BitVec.ofNat 64 ((encode i).headD 0)) else body s

/-- ENX_SEND (R303): the image is read, checked, and leaves; the hart waits for the verdict. -/
def execEnxSend (rd rs1 : RegX) (s : State) : Res :=
  .next (s.hartRun fun s =>
    let va := s.hx.xr rs1
    match s.hartRead .read va 64 64 with
    | .error e => .error e
    | .ok (_, bs, s) =>
      let h := s.hx
      let w := bnat bs 0 4
      match s.refusesFrom h.pid w with
      | some k => s.exc24 (refusalCode k) va
      | none =>
        if Config.hartSlots ≤ h.out.length then .error .stall
        else
          let dest := nbits 0 16 w
          let chan := nbits 16 8 w
          let seq := mget 0 h.seqs (seqKey dest chan)
          let p := mkParcel (mkHdr seq.toNat false false h.enxmode h.pid (hartSrc s.cur.core) (nbits 24 8 w) chan dest) (bs.drop 8)
          let n := s.nextFlight
          let s := s.setHx { h with out := h.out ++ [n], seqs := mput h.seqs (seqKey dest chan) (seq + 1), sending := some (n, rd, va) }
          .ok (s.launchFlight p h.pid (.hart s.cur.core)))

/-- The future word pair at an address, its alignment checked first (R304). -/
def State.hartFuture (s : State) (need : Need) (va : Word) : HAct (Fut × State) :=
  if va.toNat % 16 ≠ 0 then s.exc 6 va
  else match s.hartRead need va 16 16 with
    | .error e => .error e
    | .ok ((l, _) :: _, b, t) => .ok (Fut.of l va b, t)
    | .ok ([], _, t) => t.exc 6 va

/-- ENX_FRES (R304). -/
def execEnxFres (rd rs1 rs2 rs3 : RegX) (s : State) : Res :=
  .next (s.hartRun fun s =>
    let va := s.hx.xr rs1
    let v := (s.hx.xr rs2).toNat
    let handle := s.hx.xr rs3
    match s.hartFuture .readWrite va with
    | .error e => .error e
    | .ok (u, s) =>
      let pid := s.hx.pid
      match s.see pid u handle with
      | .stale => .ok (s.hartGive rd 4)
      | .dead => s.exc24 0x22 va
      | .live x => match fSt u.w0 with
        | 2 => s.exc24 0x22 va
        | 3 => .ok (s.hartGive rd 3)
        | _ => .ok (((s.putW1 u.loc.pa v).settleFut pid u.die (fSlot u.w0) x u.w0 v 2).hartGive rd 0))

/-- ENX_FPOLL (R304). -/
def execEnxFpoll (rd rs1 : RegX) (s : State) : Res :=
  .next (s.hartRun fun s => (s.hartFuture .read (s.hx.xr rs1)).map fun r => r.2.hartGive rd (BitVec.ofNat 64 r.1.w0))

/-- A released enx.fwait retires with its status (R304). -/
def State.hartWake (s : State) (core : Nat) : State :=
  let h := s.hart core
  match h.wait_, h.woken with
  | some (_, _, rd), some n => s.setHart core { (h.setX rd (BitVec.ofNat 64 n)).retire with wait_ := none, woken := none }
  | _, _ => s

/-- ENX_FWAIT (R304): the hart becomes the waiter and blocks; a future that has settled releases it at once, or after its injection. -/
def execEnxFwait (rd rs1 rs2 : RegX) (s : State) : Res :=
  .next (s.hartRun fun s =>
    let va := s.hx.xr rs1
    let handle := s.hx.xr rs2
    match s.hartFuture .readWrite va with
    | .error e => .error e
    | .ok (u, s) =>
      let pid := s.hx.pid
      match s.see pid u handle with
      | .stale => .ok (s.hartGive rd 4)
      | .dead => s.exc24 0x22 va
      | .live x =>
        if fSt u.w0 = 1 then s.exc24 0x22 va
        else
          let s := s.setHx { s.hx with wait_ := some (u.die, fSlot u.w0, rd), woken := none }
          .ok ((s.awaitFut pid u x (.hart s.cur.core)).1.hartWake s.cur.core))

/-- HART_WAITER_RELEASE (R304). -/
def execEvHartWaiterRelease (core : Nat) (s : State) : Res := .next (s.hartWake core)

/-- An interrupt is taken, in the mode its cause is delegated to; the cause is a free value (log 3, log 8). -/
def State.hartInterrupt (s : State) (core : Nat) : State :=
  let h := s.hart core
  (s.setHart core (h.take ⟨2 ^ 63 + s.pick 64, 0, none⟩ h.pc)).took

/-- FWAIT_INTERRUPT_WITHDRAW (R305): an interrupt finds the hart blocked. A waiter that is still registered is withdrawn at the home; a
released one retires first; one whose future has settled waits for its release. -/
def execEvFwaitInterruptWithdraw (core : Nat) (s : State) : Res :=
  .next (
    let h := s.hart core
    match h.wait_, h.woken with
    | some _, some _ => (s.hartWake core).hartInterrupt core
    | some (die, n, _), none => match s.slot die n with
      | some x => match x.kind with
        | .future va w dl q reply inj =>
          let ws := s.words x.pa
          if w = .hart core ∧ fSt ws.1 = 1 then
            let s := s.putW0 x.pa (mkWord0 n (fGen ws.1) 0)
            (s.setSlot die n { x with kind := .future va .none dl q reply inj }).hartInterrupt core
          else s
        | .barrier .. => s
      | none => s
    | none, _ => s)

/-- DONE of a timeline of a logical cell's context, its eviction image included (R306, R366). -/
def State.doneAt (s : State) (pid l ctx t : Nat) : Option Word :=
  (((s.part pid).resolve l).filter fun e => nbits 30 2 e.toNat = 1).map fun e =>
    if entEvict e then ((s.imageOf pid l).map fun i => mget 0 (mget [] i.dones ctx) t).getD 0
    else (s.ctx (nbits 0 11 e.toNat) ctx).doneOf t

/-- ENX_TLREAD (R306). -/
def execEnxTlread (rd rs1 : RegX) (s : State) : Res :=
  .next (s.hartRun fun s =>
    let w := (s.hx.xr rs1).toNat
    .ok (s.hartGive rd ((s.doneAt s.hx.pid (nbits 0 16 w) (nbits 16 2 w) (nbits 18 2 w)).getD (BitVec.allOnes 64))))

/-- ENX_CAPSET (R307). -/
def execEnxCapset (idx : BitVec 3) (rs1 rs2 rs3 : RegX) (s : State) : Res :=
  .next (s.superRun (.enxCapset idx rs1 rs2 rs3) fun s =>
    let h := s.hx
    let perm := (h.xr rs3).setWidth 4
    let c : Cap := ⟨h.xr rs1, h.xr rs2, if canonical (h.xr rs1) then perm else perm &&& 7⟩
    .ok (s.setHx (h.setCap idx.toNat c).retire))

/-- ENX_CAPCLR (R307). -/
def execEnxCapclr (idx : BitVec 3) (s : State) : Res :=
  .next (s.superRun (.enxCapclr idx) fun s => .ok (s.setHx (s.hx.setCap idx.toNat Cap.reset).retire))

/-- ENX_CAPGET (R307). -/
def execEnxCapget (rd rs1 : RegX) (s : State) : Res :=
  .next (s.superRun (.enxCapget rd rs1) fun s =>
    let w := (s.hx.xr rs1).toNat
    let c := s.hx.cap (nbits 0 3 w)
    .ok (s.hartGive rd (match nbits 3 2 w with
      | 0 => c.base
      | 1 => c.limit
      | 2 => zext c.perm
      | _ => 0)))

end Sys2Proof.Machine
end

