-- ==== Sys2Proof/Machine/HostQ.lean ====
section
/-! DEFINITION. The queue interfaces of a host function: registers, interrupts and completions (R400, R403 to R405). -/

namespace Sys2Proof.Machine
open Sys2Proof

/-- A function of a host port (R398). -/
def State.fn (s : State) : HostFn → Fn
  | .vf n => mget Fn.reset s.vfs n
  | .pf p => mget Fn.reset s.pfs p
def State.setFn (s : State) (f : HostFn) (x : Fn) : State :=
  match f with
  | .vf n => { s with vfs := mput s.vfs n x }
  | .pf p => { s with pfs := mput s.pfs p x }
/-- The function exists: 384 VFs and one physical function per port. -/
def fnOk : HostFn → Bool
  | .vf n => n < Config.vfs
  | .pf p => p < 2

def Fn.queue (f : Fn) (q : Nat) : QueueI := mget QueueI.reset f.queues q
def Fn.setQueue (f : Fn) (q : Nat) (x : QueueI) : Fn := { f with queues := mput f.queues q x }
def Fn.remap (f : Fn) (e : Nat) : Remap := mget Remap.reset f.remaps e
def Fn.setRemap (f : Fn) (e : Nat) (x : Remap) : Fn := { f with remaps := mput f.remaps e x }

/-- A queue that QLOG enables (R403). -/
def QueueI.on (q : QueueI) : Bool := 4 ≤ q.qlog && q.qlog ≤ 16
/-- The port of a function (R398): 192 VFs each (DESIGN CHOICE which, log 64). -/
def fnPort : HostFn → Nat
  | .vf n => n / 192
  | .pf p => p
/-- A host may reach a function (R398, R399, R410): bring-up has ended, and on a port in CXL mode a VF shows only through the logical device
that is bound to its partition. -/
def State.fnUp (s : State) (f : HostFn) : Bool :=
  s.hostUp && fnOk f && match f with
    | .pf _ => true
    | .vf n => !mget false s.portCxl (n / 192)
      || s.lds.any fun e => e.1 / 16 == n / 192 && (mget Fn.reset s.vfs n).part == some e.2

/-- A vector of a function is raised (R404): a message, or PEND while it is masked; 16 to 31 give none (R403). -/
def State.raiseVec (s : State) (f : HostFn) (v : Nat) : State :=
  if 16 ≤ v then s
  else
    let x := s.fn f
    let r := x.remap v
    if r.mask then s.setFn f (x.setRemap v { r with pend := true }) else s.emit (.message r.addr r.data)

/-- The completion of the request at QHEAD (R405): 16 bytes on the completion ring, QHEAD + 1, then the interrupt. -/
def State.complete (s : State) (f : HostFn) (qi : Nat) (rid status result : Nat) : State :=
  let x := s.fn f
  let q := x.queue qi
  let at_ := q.cbase + BitVec.ofNat 64 (16 * (q.qhead % 2 ^ q.qlog))
  let s := s.emit (.write at_ (leBytes 2 rid ++ leBytes 1 status ++ zeros 5 ++ leBytes 8 result))
  let s := s.setFn f (x.setQueue qi { q with qhead := (q.qhead + 1) % 65536, busy := none })
  s.raiseVec f q.ivec

end Sys2Proof.Machine
end

