-- ==== Sys2Proof/Machine/Delivery.lean ====
section
/-! DEFINITION. Delivery: parcels on their way, verdicts, deferred parcels and gateways (R13 to R16, R20, R273, R303, R355 to R359), channel
selection (R21), the end of an invocation (R24, R25, R27) and task parcels (R29 to R31, R278). -/

namespace Sys2Proof.Machine
open Sys2Proof

/-! Flights. -/

/-- The sender of R16, when a parcel falls under its order: a context by its partition, logical cell and number, a
hart, or a VF (R405). -/
def Origin.sender : Origin → Option (Nat × Nat × Nat)
  | .ctx i | .nb i | .parked i _ => some (i.part, i.lcell, i.ctx)
  | .hart core => some (24, hartSrc core, 0)
  | .host (.vf n) _ _ => some (24, 0xF800 + n, 0)
  | .copyDone _ | .cmdDone _ | .future .. | .barrier .. | .wake .. | .term .. | .status | .launch | .host (.pf _) _ _ => none

/-- The partition and home of the counter that released a parked parcel (R34). -/
def Origin.counter : Origin → Option (Nat × Nat)
  | .parked i ctr => some (i.part, ctr)
  | .ctx _ | .nb _ | .copyDone _ | .cmdDone _ | .future .. | .barrier .. | .wake .. | .term .. | .status | .launch | .hart _ | .host .. => none

/-- Two parcels of one sender (R16), or released by one counter (R34), towards one destination cell and channel. -/
def Flight.sameLane (f g : Flight) : Bool :=
  ((f.from_.sender.isSome && f.from_.sender == g.from_.sender) || (f.from_.counter.isSome && f.from_.counter == g.from_.counter))
    && hDest f.sent == hDest g.sent && hChan f.sent == hChan g.sent

/-- Where a parcel that holds back a later one waits until it moves on (R16): every place but a mailbox's deferrals and an evicted
cell's, behind which the later one is deferred in its turn. -/
def Leg.blocks : Leg → Bool
  | .way | .gateway | .image => true
  | .deferred .. | .evicted => false

/-- The earlier parcels of the n-th flight's sender towards its destination (R16). -/
def State.laneBefore (s : State) (n : Nat) (f : Flight) : List Flight := (s.flights.take n).filter f.sameLane

/-- An earlier parcel holds back the n-th flight (R16). -/
def State.heldBack (s : State) (n : Nat) (f : Flight) : Bool := (s.laneBefore n f).any fun g => g.leg.blocks

/-- An origin that hears the first verdict of an accepted or deferred parcel. -/
def Origin.hears : Origin → Bool
  | .ctx _ | .nb _ | .hart _ | .host .. => true
  | .parked .. | .copyDone _ | .cmdDone _ | .future .. | .barrier .. | .wake .. | .term .. | .status | .launch => false
/-- A parcel of software (R355): its sender is told of a drop. -/
def Origin.software : Origin → Bool
  | .ctx _ | .nb _ | .hart _ | .host .. | .parked .. => true
  | .copyDone _ | .cmdDone _ | .future .. | .barrier .. | .wake .. | .term .. | .status | .launch => false

/-- A verdict leaves for the sender (R13). -/
def State.answerFlight (s : State) (f : Flight) (status : Nat) : State :=
  if (status = 0 ∨ status = 5) ∧ !f.from_.hears then s
  else { s with verdicts := s.verdicts ++ [⟨f.id, f.sent, f.from_, f.src, status, f.told⟩] }

/-- A flight ends with a verdict. -/
def State.endFlight (s : State) (f : Flight) (status : Nat) : State :=
  ({ s with flights := s.flights.filter fun g => g.id != f.id }).answerFlight f status

/-- A flight is put back in its place. -/
def State.setFlight (s : State) (f : Flight) : State := { s with flights := s.flights.map fun g => if g.id == f.id then f else g }

/-- A flight is deferred, with verdict 5 to a sender that has not had it (R13, R16). -/
def State.deferFlight (s : State) (f : Flight) (leg : Leg) : State :=
  let t := s.setFlight { f with leg := leg, told := true }
  if f.told then t else t.answerFlight f 5

/-- A parcel that fails the check at ejection is dropped and recorded (R355). -/
def State.dropFlight (s : State) (f : Flight) (cell : Nat) : State :=
  let t := s.hypEvent (.dropped (parcelHdr f.parcel) cell)
  if f.from_.software then t.endFlight f 4 else { t with flights := t.flights.filter fun g => g.id != f.id }

/-- A parcel reaches its physical cell (R20, R355). One behind a deferred parcel of its sender is deferred too (R16). -/
def State.eject (s : State) (f : Flight) (cell : Nat) (behind : Bool) : State :=
  let k := s.cell cell
  let h := parcelHdr f.parcel
  if hPart h ≠ k.tag then s.dropFlight f cell
  else match if behind then 5 else k.answer (hChan h) (hType h) with
    | 0 => (s.enqueue cell (hChan h) f.parcel).endFlight f 0
    | 5 =>
      let c := k.chan (hChan h)
      (s.setChan cell (hChan h) { c with deferred := c.deferred ++ [f.id] }).deferFlight f (.deferred cell (hChan h))
    | n => s.endFlight f n

/-- PARCEL_ARRIVE (R16, R20, R355, R357): the n-th flight, unless an earlier one of its sender holds it back. -/
def execEvParcelArrive (n : Nat) (s : State) : Res :=
  .next (match s.flights[n]? with
    | none => s
    | some f =>
      if f.leg ≠ .way ∨ s.heldBack n f then s
      else
        let lane := s.laneBefore n f
        match (s.part f.part).resolve (hDest (parcelHdr f.parcel)) with
        | none => if lane.isEmpty then s.endFlight f 4 else s
        | some e => match entKind e with
          | 1 =>
            if entEvict e then s.deferFlight f .evicted
            else if lane.all fun g => g.leg == .deferred (entCell e) (hChan (parcelHdr f.parcel)) then s.eject f (entCell e) (!lane.isEmpty)
            else s
          | 2 => if lane.isEmpty then s.setFlight { f with leg := .gateway } else s
          | _ => if lane.isEmpty then s.endFlight f 4 else s)

/-- DEFERRED_PARCEL_RETRY (R16, R273): the channel's oldest deferred parcel. -/
def execEvDeferredParcelRetry (cell chan : Nat) (s : State) : Res :=
  .next (
    let c := s.chan cell chan
    match c.deferred with
    | [] => s
    | id :: rest =>
      let t := s.setChan cell chan { c with deferred := rest }
      match s.flights.find? fun f => f.id == id && f.leg == .deferred cell chan with
      | none => t
      | some f =>
        if !entBound c.entry then t.endFlight f 3
        else if hType (parcelHdr f.parcel) ≠ entType c.entry then t.endFlight f 2
        else if c.mailbox.length < entMbd c.entry then (t.enqueue cell chan f.parcel).endFlight f 0
        else s)

/-! Gateways (R358, R359). -/

/-- An entry of the filter table that may match (R358). -/
def filterOk (e : BitVec 128) : Bool :=
  e.getLsbD 7 && nbits 5 2 e.toNat = 0 && nbits 13 3 e.toNat = 0 && nbits 96 32 e.toNat = 0 && nbits 16 8 e.toNat ≤ nbits 24 8 e.toNat
/-- An entry matches a parcel from a partition to another on a channel. -/
def filterHit (e : BitVec 128) (sp dp chan : Nat) : Bool :=
  filterOk e && nbits 0 5 e.toNat = sp && nbits 8 5 e.toNat = dp && nbits 16 8 e.toNat ≤ chan && chan ≤ nbits 24 8 e.toNat

/-- The header of a forwarded parcel (R359). -/
def forwardHdr (h : Word) (dp dlcell rsrc : Nat) : Word :=
  h &&& ~~~0x001FFFFF0000FFFF#64 ||| BitVec.ofNat 64 (dlcell % 65536 + rsrc % 65536 * 2 ^ 32 + dp % 32 * 2 ^ 48)

/-- A bucket as the device time finds it (R358, R359): RATE tokens per millisecond since its last refill, up to BURST. -/
def Filter.refill (e : Filter) (time : Nat) : Filter :=
  let n := nbits 64 32 e.entry.toNat * (time - e.since) + e.part
  let full := nbits 48 16 e.entry.toNat
  if full ≤ e.tokens + n / 1000000 then { e with tokens := full, since := time, part := 0 }
  else { e with tokens := e.tokens + n / 1000000, since := time, part := n % 1000000 }

/-- GATEWAY_FORWARD (R359). -/
def execEvGatewayForward (n : Nat) (s : State) : Res :=
  .next (match s.flights[n]? with
    | none => s
    | some f =>
      if f.leg ≠ .gateway then s
      else
        let h := parcelHdr f.parcel
        match ((s.part f.part).resolve (hDest h)).filter fun e => nbits 30 2 e.toNat = 2 with
        | none => s.setFlight { f with leg := .way }
        | some g =>
          let dp := nbits 16 5 g.toNat
          match s.filters.find? fun e => filterHit e.2.entry f.part dp (hChan h) with
          | none => { s with gwDrops := s.gwDrops + 1 }.endFlight f 4
          | some (i, e) =>
            let e := e.refill s.time.toNat
            if e.tokens < 1 then ({ s with filters := mput s.filters i e }).deferFlight f .gateway
            else
              let s := { s with filters := mput s.filters i { e with tokens := e.tokens - 1 } }
              s.setFlight { f with
                parcel := withHdr f.parcel (forwardHdr h dp (nbits 0 16 g.toNat) (nbits 32 16 e.entry.toNat)), part := dp, leg := .way })

/-- FILTER_BUCKET_REFILL (R358, R359). -/
def execEvFilterBucketRefill (n : Nat) (s : State) : Res :=
  .next (match mfind s.filters n with
    | none => s
    | some e => { s with filters := mput s.filters n (e.refill s.time.toNat) })

/-- MESSAGE_FILTER_WRITE (R358, R359): the bucket starts full. -/
def execEvMessageFilterWrite (n : Nat) (entry : BitVec 128) (s : State) : Res :=
  .next (if 256 ≤ n then s else { s with filters := mput s.filters n ⟨entry, nbits 48 16 entry.toNat, s.time.toNat, 0⟩ })

/-! Verdicts. -/

/-- An outbound slot of a context frees (R15). -/
def State.freeSlotOf (s : State) (i : Issuer) (id : Nat) : State :=
  match s.issuerCell i with
  | some cell =>
    let x := s.ctx cell i.ctx
    s.setCtx cell i.ctx { x with out := x.out.filter fun n => n != id }
  | none => s

/-- A late refusal traps (R14, R26, R425): it ends the invocation that issued the parcel when that still runs. -/
def State.refusalTrap (s : State) (i : Issuer) (status : Nat) (hdr : Word) : State :=
  match s.issuerCell i with
  | some cell =>
    if s.stillRuns cell i then s.serviceTrap cell i.ctx (refusalCode status) hdr
    else s.sendTrap (i.trapInfo cell) (refusalCode status) hdr
  | none => s

/-- The partition's cell is evicted: what concerns it waits (R367). -/
def State.issuerAway (s : State) (i : Issuer) : Bool :=
  match (s.part i.part).resolve i.lcell with
  | some e => nbits 29 3 e.toNat = 3
  | none => false

/-- The context of an origin, if it is one's. -/
def Origin.issuer? : Origin → Option Issuer
  | .ctx i | .nb i | .parked i _ | .copyDone i | .cmdDone i => some i
  | .future .. | .barrier .. | .wake .. | .term .. | .status | .launch | .hart _ | .host .. => none

/-- The first verdict of a sendnb: its register and its place among the pending verdicts (R14). -/
def State.nbVerdict (s : State) (i : Issuer) (id status : Nat) : State :=
  match s.issuerCell i with
  | some cell =>
    if s.stillRuns cell i then
      let x := s.ctx cell i.ctx
      let x' := match x.pend.find? fun e => e.1 == id with
        | some (_, r) => x.setG r (BitVec.ofNat 64 status)
        | none => x
      s.setCtx cell i.ctx { x' with pend := x.pend.filter (fun e => e.1 != id), verdicts := x.verdicts.filter fun n => n != id }
    else s
  | none => s

/-- The verdict of an enx.send (R303). -/
def State.hartVerdict (s : State) (core : Nat) (v : Verdict) : State :=
  let h := s.hart core
  let free : Hart := { h with out := h.out.filter fun n => n != v.flight }
  if v.told then
    let s := if v.status = 5 then s else s.setHart core free
    if v.status = 0 ∨ v.status = 5 then s
    else s.escalateDev v.part (refusalCode v.status) (hartSrc core) (hChan v.sent) v.sent
  else match h.sending with
    | some (id, rd, va) =>
      if id ≠ v.flight then s
      else if v.status = 5 then s.setHart core ({ h with sending := none }.setX rd 5).retire
      else if v.status = 0 then s.setHart core ({ free with sending := none }.setX rd 0).retire
      else s.setHart core (free.take ⟨24, va, some (refusalCode v.status)⟩ h.pc)
    | none => s

/-- The verdict's effect on its sender (R13, R14, R15, R45, R50, R120, R273, R281, R303, R405). -/
def State.applyVerdict (s : State) (v : Verdict) : State :=
  let bad := v.status ≠ 0 ∧ v.status ≠ 5
  let code := refusalCode v.status
  match v.from_ with
  | .ctx i =>
    let s := if v.status = 5 then s else s.freeSlotOf i v.flight
    if bad then s.refusalTrap i v.status v.sent else s
  | .nb i =>
    let s := if v.status = 5 then s else s.freeSlotOf i v.flight
    if v.told then (if bad then s.refusalTrap i v.status v.sent else s) else s.nbVerdict i v.flight v.status
  | .parked i _ | .copyDone i | .cmdDone i => if bad then s.refusalTrap i v.status v.sent else s
  | .future addr lcell chan _ _ => if bad then s.escalateDev v.part code lcell.toNat chan.toNat addr else s
  | .barrier addr lcell chan => if bad then s.escalateDev v.part code lcell.toNat chan.toNat addr else s
  | .wake lcell chan | .term lcell chan => if bad then s.escalateDev v.part code lcell.toNat chan.toNat v.sent else s
  | .launch => if bad then s.escalateDev v.part code (hDest v.sent) (hChan v.sent) v.sent else s
  | .status => s
  | .hart core => s.hartVerdict core v
  | .host fn qi rid =>
    if v.told then (if bad then s.escalateDev v.part code (hSrc v.sent) (hChan v.sent) v.sent else s)
    else s.complete fn qi rid.toNat (32 + v.status) 0

/-- VERDICT_RETURN (R14): the n-th verdict reaches its sender; one for an evicted cell waits (R367). -/
def execEvVerdictReturn (n : Nat) (s : State) : Res :=
  .next (match s.verdicts[n]? with
    | none => s
    | some v =>
      if (v.from_.issuer?.map fun i => s.issuerAway i) = some true then s
      else { s with verdicts := s.verdicts.eraseIdx n }.applyVerdict v)

/-! Selection and the end of invocations. -/

/-- A context takes a dispatch (R21, R27). -/
def Ctx.isFree (x : Ctx) : Bool := x.st == .free && x.trap.isNone && x.esc.isEmpty
/-- The lowest-numbered free context (R21). -/
def Cell.freeCtx (k : Cell) : Option Nat := [0, 1, 2, 3].find? fun c => (k.ctx c).isFree

/-- The channels that may be selected (R21). -/
def Cell.candidates (k : Cell) : List Nat :=
  (List.range 64).filter fun c => (k.chan c).st == .runnable && !entMsk (k.chan c).entry
/-- The level of a channel (R21). -/
def Chan.level (c : Chan) : Nat := min 7 (entPri c.entry + c.boost)
/-- The first candidate at the highest level, from rr on (R21). -/
def Cell.choose (k : Cell) : Option (Nat × Nat) :=
  let cand := k.candidates
  let top := (cand.map fun c => (k.chan c).level).foldl max 0
  let start := mget 63 k.rr top
  (((List.range 64).map fun i => (start + 1 + i) % 64).find? fun c => cand.contains c && (k.chan c).level == top).map fun c => (c, top)

/-- A candidate that was not chosen (R21). -/
def Chan.skipped (c : Chan) : Chan :=
  if c.skip + 1 = 64 then { c with skip := 0, boost := min 7 (c.boost + 1) } else { c with skip := c.skip + 1 }

/-- The oldest parcel leaves a mailbox, which is a ring (log 48). -/
def Chan.dequeue (c : Chan) : Chan := { c with mailbox := c.mailbox.drop 1, mhead := (c.mhead + 1) % entMbd c.entry }

/-- A dispatch waits on a pending staging slot for its entry line: LATE counts the read once (R124). -/
def State.entryWaits (s : State) (cell chan pa : Nat) : State :=
  if (s.chan cell chan).waited = some pa then s
  else (s.setChan cell chan { s.chan cell chan with waited := some pa }).countLate (s.cell cell).tag

/-- CHANNEL_SELECT (R21, R22). A dispatch whose entry line lies in a pending staging slot waits (log 55). -/
def execEvChannelSelect (cell : Nat) (s : State) : Res :=
  .next (
    let k := s.cell cell
    match k.freeCtx, k.choose with
    | some ctx, some (c, top) => match (k.chan c).mailbox with
      | [] => s
      | p :: _ =>
        if !k.select then s
        else match s.entryPending cell c with
        | some pa => s.entryWaits cell c pa
        | none =>
          let k' := k.candidates.foldl (fun k d => if d = c then k else k.setChan d (k.chan d).skipped) k
          let k' := k'.setChan c { (k'.chan c).dequeue with st := .running, skip := 0, boost := 0, waited := none }
          (s.setCell cell { k' with rr := mput k'.rr top c }).dispatch cell c ctx p
    | _, _ => s)

/-- Every end condition of an invocation holds (R24, R293). -/
def State.mayEnd (s : State) (cell ctx : Nat) : Bool :=
  let k := s.cell cell
  let x := k.ctx ctx
  x.st == .running && x.ex.st == .ended && (x.ea.st == .ended || x.ea.st == .notStarted) && x.verdicts.isEmpty
    && (k.claim != some ctx || ((x.em.st == .ended || x.em.st == .notStarted) && k.mu.pipeL.isNone && k.mu.pipeC.isNone))

/-- INVOCATION_END (R24). -/
def execEvInvocationEnd (cell ctx : Nat) (s : State) : Res :=
  .next (if s.mayEnd cell ctx then s.endInvocation cell ctx false else s)

/-- WATCHDOG_EXPIRY (R25, R26). -/
def execEvWatchdogExpiry (cell ctx : Nat) (s : State) : Res :=
  .next (
    let x := s.ctx cell ctx
    if x.st = .running ∧ x.limit ≤ x.wdcnt then s.serviceTrap cell ctx 0x20 0 else s)

/-- What a waiting trap parcel says (R26, R27). -/
def trapOf (cell : Nat) (p : Vec) : TrapInfo × Nat × Word :=
  let b := vecBytes p
  (⟨cell, bnat b 9 1, false, bnat b 10 1, BitVec.ofNat 55 (bnat b 16 8), BitVec.ofNat 55 (bnat b 24 8), BitVec.ofNat 64 (bnat b 40 8)⟩,
    bnat b 8 1, BitVec.ofNat 64 (bnat b 32 8))

/-- PENDING_TRAP_RETRY (R27). -/
def execEvPendingTrapRetry (cell ctx : Nat) (s : State) : Res :=
  .next (
    let k := s.cell cell
    let x := k.ctx ctx
    match x.trap with
    | none => s
    | some p =>
      let t := (s.setCtx cell ctx { x with trap := none }).reRest cell ctx
      if !k.takesTraps then let i := trapOf cell p; t.escalate i.1 i.2.1 i.2.2
      else if (k.chan 63).room then t.enqueue cell 63 p
      else s)

/-! Task parcels. -/

/-- A task leaves its sender's slot (R15). -/
def State.dropTask (s : State) (t : TaskFlight) : State :=
  ({ s with tasks := s.tasks.filter fun u => u.id != t.id }).freeSlotOf t.issuer t.id
def State.setTask (s : State) (t : TaskFlight) : State := { s with tasks := s.tasks.map fun u => if u.id == t.id then t else u }

/-- The task is refused (R278). -/
def State.refuseTask (s : State) (t : TaskFlight) (status : Nat) : State :=
  (s.dropTask t).refusalTrap t.issuer status (parcelHdr t.parcel)

/-- A cell takes a task now (R29, R278): a free context, and mailbox room on the task's channel. -/
def Cell.takesTask (k : Cell) (p : Vec) : Bool := k.freeCtx.isSome && k.accepts p && (k.chan (hChan (parcelHdr p))).room

/-- Why a cell refuses a task: 3 unbound, 2 another type (R278). -/
def Cell.refusesTask (k : Cell) (p : Vec) : Nat :=
  if 63 < hChan (parcelHdr p) ∨ !entBound (k.chan (hChan (parcelHdr p))).entry then 3 else 2

/-- A position of the grid that a task walk may stand on (R357): KIND 01, with its cell unless it is evicted. -/
def Part.walkAt (p : Part) (l : Nat) : Option (Option Nat) :=
  ((p.resolve l).filter fun e => nbits 30 2 e.toNat = 1).map fun e => if e.getLsbD 29 then none else some (nbits 0 11 e.toNat)

/-- The next position of a walk towards a hint, first along x, then along y; other positions than cells are passed over (R29, R357);
fuel bounds the way. -/
def Part.stepTo (p : Part) (hint : Nat) : Nat → Nat → Nat
  | 0, _ => hint
  | f + 1, l =>
    let x := l % p.gridW
    let y := l / p.gridW
    let hx := hint % p.gridW
    let hy := hint / p.gridW
    let n := if x < hx then l + 1 else if hx < x then l - 1 else if y < hy then l + p.gridW else if hy < y then l - p.gridW else l
    if n = l ∨ (p.walkAt n).isSome then n else p.stepTo hint f n

/-- What a position of the grid has heard from its neighbours (R29, R31): an evicted one, nothing (log 24). -/
def State.heardAt (s : State) (pid l : Nat) : SMap Nat :=
  match (s.part pid).walkAt l with
  | some (some c) => (s.cell c).heard
  | _ => []

/-- The neighbour that an ANY walk moves to: the shallowest advertised queue, ties to the lower logical number (R29). -/
def State.shallowest (s : State) (pid l : Nat) : Option Nat :=
  let p := s.part pid
  let x := l % p.gridW
  let near := (if 0 < l / p.gridW then [l - p.gridW] else []) ++ (if 0 < x then [l - 1] else [])
    ++ (if x + 1 < p.gridW then [l + 1] else []) ++ if l / p.gridW + 1 < p.gridH then [l + p.gridW] else []
  match (near.filter fun n => (p.walkAt n).isSome).map fun n => (mget 0 (s.heardAt pid l) n, n) with
  | [] => none
  | d :: ds => some (ds.foldl (fun a b => if b.1 < a.1 then b else a) d).2

/-- The walk has ended where the task stands (R29). -/
def TaskFlight.atEnd (t : TaskFlight) (p : Part) : Bool := t.waits || if t.any then 2 * (p.gridW + p.gridH) ≤ t.steps else t.at_ = t.hint

/-- The distance condition of a walk without ANY (R29). -/
def TaskFlight.near (t : TaskFlight) (w : Nat) : Bool :=
  let d := fun (a b : Nat) => max a b - min a b
  t.any || max (d (t.at_ % w) (t.hint % w)) (d (t.at_ / w) (t.hint / w)) ≤ t.rad

/-- The task at the cell where its walk ends: refused, queued, or waiting in its slot (R29, R31, R278). -/
def State.queueTask (s : State) (t : TaskFlight) (cell : Nat) : State :=
  let k := s.cell cell
  if !k.accepts t.parcel then s.refuseTask t (k.refusesTask t.parcel)
  else if Config.localTasks ≤ k.taskq.length then s.setTask { t with waits := true }
  else (s.setCell cell { k with taskq := k.taskq ++ [t.parcel] }).dropTask t

/-- The task moves on by one step. -/
def State.walkOn (s : State) (t : TaskFlight) : State :=
  let p := s.part t.part
  let next := if t.any then (s.shallowest t.part t.at_).getD t.at_ else p.stepTo t.hint (p.gridW + p.gridH) t.at_
  s.setTask { t with at_ := next, steps := t.steps + 1 }

/-- TASK_PARCEL_ARRIVE (R29, R30, R278, R355, R357): the n-th task where it stands is taken, walks on, or ends its walk. -/
def execEvTaskParcelArrive (n : Nat) (s : State) : Res :=
  .next (match s.tasks[n]? with
    | none => s
    | some t =>
      let p := s.part t.part
      if s.issuerAway t.issuer then s
      else match p.walkAt t.at_ with
        | none => if t.atEnd p then s.refuseTask t 4 else s.walkOn t
        | some none => if t.atEnd p then s.setTask { t with waits := true } else s.walkOn t
        | some (some cell) =>
          let k := s.cell cell
          if k.tag ≠ t.part then (s.hypEvent (.dropped (parcelHdr t.parcel) cell)).refuseTask t 4
          else if !t.waits && t.near p.gridW && k.takesTask t.parcel then
            (s.enqueue cell (hChan (parcelHdr t.parcel)) (withDest t.parcel t.at_)).dropTask t
          else if t.atEnd p then s.queueTask t cell
          else s.walkOn t)

/-- TASK_QUEUE_TO_MAILBOX (R30, R31, R278): the oldest queued task whose mailbox has room, while a context is free. -/
def execEvTaskQueueToMailbox (cell : Nat) (s : State) : Res :=
  .next (
    let k := s.cell cell
    match lfind k.takesTask k.taskq with
    | none => s
    | some (n, p) =>
      (s.setCell cell { k with taskq := k.taskq.eraseIdx n }).enqueue cell (hChan (parcelHdr p)) (withDest p k.lcell.toNat))

end Sys2Proof.Machine
end

