-- ==== Sys2Proof/Machine/Launch.lean ====
section
/-! DEFINITION. Launches (R48 to R51). -/

namespace Sys2Proof.Machine
open Sys2Proof

/-! The launch record (R48), from its 256 bytes. -/

def lrNlev (r : List Byte) : Nat := bnat r 2 1
def lrFlags (r : List Byte) : Nat := bnat r 3 1
def lrToken (r : List Byte) : Bool := nbits 0 1 (lrFlags r) = 1
def lrF8 (r : List Byte) : Bool := nbits 1 1 (lrFlags r) = 1
def lrPrio (r : List Byte) : Nat := nbits 2 3 (lrFlags r)
def lrCode (r : List Byte) : Word := BitVec.ofNat 64 (bnat r 8 8)
def lrHtab (r : List Byte) : Word := BitVec.ofNat 64 (bnat r 16 8)
def lrX0 (r : List Byte) : Nat := bnat r 24 1
def lrY0 (r : List Byte) : Nat := bnat r 25 1
def lrW (r : List Byte) : Nat := bnat r 26 1
def lrH (r : List Byte) : Nat := bnat r 27 1
def lrNpar (r : List Byte) : Nat := bnat r 28 1
def lrParcel (r : List Byte) (i : Nat) : List Byte := bslice r (128 + 64 * i) 64

/-- A level descriptor (R48). -/
structure Level where
  dom   : Nat
  scope : Nat
  ext   : Nat
  pw    : Nat
  ph    : Nat
  deriving DecidableEq, Repr

/-- The reserved bits of a level descriptor are zero (R48). -/
def levelClean (d : Nat) : Bool := nbits 48 16 d = 0 && nbits 11 5 d = 0 && nbits 3 5 d = 0
def lrLevelWord (r : List Byte) (i : Nat) : Nat := bnat r (32 + 8 * i) 8
def levelOfWord (d : Nat) : Level := ⟨nbits 0 3 d, nbits 8 3 d, nbits 16 16 d, nbits 32 8 d, nbits 40 8 d⟩
/-- The levels of a record, outermost first; more than 8 are none. -/
def lrLevels (r : List Byte) : List Level := (List.range (min 8 (lrNlev r))).map fun i => levelOfWord (lrLevelWord r i)

/-- The least scope of a domain (R49). -/
def leastScope (dom : Nat) : Nat := if dom ≤ 2 then 0 else if dom ≤ 4 then 1 else if dom = 5 then 2 else if dom = 6 then 3 else 4

/-- The group that a level divides: its width and height in cells, and the contexts of one cell of it. -/
structure Group3 where
  w    : Nat
  h    : Nat
  ctxs : Nat
  deriving DecidableEq, Repr

/-- The groups that a level makes of the one above, when its EXT tiles it (R49). -/
def Level.tile (l : Level) (g : Group3) : Option Group3 :=
  let rect := fun (w h : Nat) =>
    if w ≠ 0 ∧ h ≠ 0 ∧ g.w % w = 0 ∧ g.h % h = 0 ∧ l.ext = g.w / w * (g.h / h) then some (⟨w, h, g.ctxs⟩ : Group3) else none
  if l.ext = 0 then none
  else match l.dom with
    | 0 => if l.ext ≤ 16 * (g.ctxs * (g.w * g.h)) then some g else none
    | 1 => if l.ext ≤ 4 * (g.w * g.h) then some ⟨1, 1, 1⟩ else none
    | 2 => if l.ext = g.w * g.h then some ⟨1, 1, g.ctxs⟩ else none
    | 3 => rect 2 2
    | 4 => rect l.pw l.ph
    | _ => if l.ext = 1 then some g else none

/-- The level table below a group and a level (R49). -/
def levelsOk (prev : Option Level) (g : Group3) : List Level → Bool
  | [] => true
  | l :: ls =>
    let falls := match prev with
      | some p => l.dom < p.dom && l.scope ≤ p.scope
      | none => true
    falls && l.scope ≤ 4 && leastScope l.dom ≤ l.scope
      && match l.tile g with
        | some g' => levelsOk (some l) g' ls
        | none => false

/-- The group index of a cell at a level, and its place in that group (R51). -/
def Level.index (l : Level) (g : Group3) (x y : Nat) : Nat × Nat × Nat :=
  let rect := fun (w h : Nat) => (y / h * (g.w / w) + x / w, x % w, y % h)
  match l.dom with
  | 2 => (y * g.w + x, 0, 0)
  | 3 => rect 2 2
  | 4 => rect l.pw l.ph
  | _ => (0, x, y)

/-- The group indices of a cell of the region, level by level (R51). -/
def groupIndices (g : Group3) (x y : Nat) : List Level → List Nat
  | [] => []
  | l :: ls => let i := l.index g x y; i.1 :: groupIndices ((l.tile g).getD g) i.2.1 i.2.2 ls

/-- The cells of a region: logical number and place. -/
def lrRegion (gridW : Nat) (r : List Byte) : List (Nat × Nat × Nat) :=
  (List.range (lrH r)).flatMap fun j => (List.range (lrW r)).map fun i => ((lrY0 r + j) * gridW + lrX0 r + i, i, j)

/-- The header fields of R49, status 1. -/
def lrHeaderOk (r : List Byte) : Bool :=
  bnat r 0 2 = 1 && lrFlags r < 32 && bnat r 4 4 = 0 && bnat r 29 3 = 0 && bnat r 96 32 = 0 && lrNpar r ≤ 2
    && (List.range 8).all fun i => levelClean (lrLevelWord r i)

/-- The entries that a handler-table image binds. -/
def imageEntries (h : List Byte) : SMap (BitVec 256) :=
  ((List.range 64).map fun c => (c, BitVec.ofNat 256 (bnat h (32 * c) 32))).filter fun e => entBnd e.2

/-- A channel of a logical cell, of its image when it is evicted. -/
def State.chanAt (s : State) (pid l c : Nat) : Option Chan :=
  (((s.part pid).resolve l).filter fun e => entKind e = 1).bind fun e =>
    if entEvict e then (s.imageOf pid l).map fun i => mget Chan.reset i.chans c else some (s.chan (entCell e) c)
/-- kchan of a logical cell. -/
def State.kchanAt (s : State) (pid l : Nat) : Word :=
  match ((s.part pid).resolve l).filter fun e => entKind e = 1 with
  | some e => if entEvict e then ((s.imageOf pid l).map fun i => i.kchan).getD 0 else (s.cell (entCell e)).kchan
  | none => 0

/-- An initial parcel that R49 refuses. One towards a gateway position, which is no cell and holds no entry to judge it by, is accepted at submission
(DESIGN CHOICE, log 74). -/
def State.lrParcelBad (s : State) (pid : Nat) (r : List Byte) (image : SMap (BitVec 256)) (i : Nat) : Bool :=
  let h := bnat (lrParcel r i) 0 4
  let dest := nbits 0 16 h
  let chan := nbits 16 8 h
  let typ := nbits 24 8 h
  let region := (lrRegion (s.part pid).gridW r).any fun c => c.1 == dest
  let judge := fun (e : BitVec 256) => 63 < chan || !entBound e || entType e != typ
  0xF0 ≤ typ || dest = 0xFFFF || match (s.part pid).kindOf dest with
    | 1 => (match mfind image chan with
      | some e => if region then entType e != typ else ((s.chanAt pid dest chan).map fun c => judge c.entry) != some false
      | none => ((s.chanAt pid dest chan).map fun c => judge c.entry) != some false)
    | 2 => false
    | _ => true

/-- What a submission comes to (R49): the state after its reads, the status, and the launch that status 0 accepts. user marks a request
of U-mode code, of an application core in U mode or of a host queue interface (R338); the record, CODE and HTAB of any other request are checked under
the K column of R372, and CODE is tested for a fault by the translation of its address alone (DESIGN CHOICE, log 75). -/
def State.judgeLaunch (s : State) (pid : Nat) (addr : Word) (user : Bool) : State × Nat × Option Launch :=
  let p := s.part pid
  if addr.toNat % 64 ≠ 0 then (s, 4, none)
  else match s.devRead pid (!user) addr 256 with
  | (s, none) => (s, 4, none)
  | (s, some (_, true)) => (s, 4, none)
  | (s, some (r, false)) =>
    if !lrHeaderOk r then (s, 1, none)
    else if lrNlev r = 0 ∨ 8 < lrNlev r ∨ !levelsOk none ⟨lrW r, lrH r, 4⟩ (lrLevels r) then (s, 2, none)
    else if !p.rectOk (lrX0 r) (lrY0 r) (lrW r) (lrH r) then (s, 3, none)
    else if (lrCode r).toNat % 32 ≠ 0 ∨ (lrHtab r).toNat % 32 ≠ 0 then (s, 4, none)
    else match s.xlateDev pid (!user) .fetch (lrCode r) with
    | .error (_, s) => (s, 4, none)
    | .ok (_, s) => match s.devRead pid (!user) (lrHtab r) 2048 with
      | (s, none) => (s, 4, none)
      | (s, some (_, true)) => (s, 4, none)
      | (s, some (h, false)) =>
        let image := imageEntries h
        let region := lrRegion p.gridW r
        if image.any fun e => entInvalid e.2 then (s, 6, none)
        else if user && region.any fun c => image.any fun e => (s.kchanAt pid c.1).getLsbD e.1 then (s, 7, none)
        else if (List.range (lrNpar r)).any (s.lrParcelBad pid r image) then (s, 5, none)
        else
          let l : Launch := ⟨s.serial, pid, BitVec.ofNat 2048 (leNat r), image, region.flatMap fun c => image.map fun e => (c.1, e.1), true⟩
          (s.bump, 0, some l)

/-- A submission with its effect: an accepted launch is queued. -/
def State.submit (s : State) (pid : Nat) (addr : Word) (user : Bool) : State × Nat :=
  match s.judgeLaunch pid addr user with
  | (s, n, some l) => ({ s with launches := s.launches ++ [l] }, n)
  | (s, n, none) => (s, n)

/-- LAUNCH_SUBMIT (R49): the status goes to the submitter. -/
def execEvLaunchSubmit (part addr : Nat) (user : Bool) (s : State) : Res :=
  .next (
    let r := s.submit part (BitVec.ofNat 64 addr) user
    { r.1 with statuses := r.1.statuses ++ [(part, BitVec.ofNat 64 addr, r.2)] })

/-! The steps of an accepted launch (R50). -/

def Launch.record (l : Launch) : List Byte := leBytes 256 l.rec_.toNat

/-- The physical cells of a launch's region, each with its logical number and place; none while one of them is evicted. -/
def State.launchCells (s : State) (l : Launch) : Option (List (Nat × Nat × Nat × Nat)) :=
  (lrRegion (s.part l.part).gridW l.record).foldl
    (fun acc c => acc.bind fun cs => (((s.part l.part).resolve c.1).filter fun e => entKind e = 1 && !entEvict e).map
      fun e => cs ++ [(entCell e, c)])
    (some [])

/-- The token of the latest scrub of every cell exists (R50, R396). -/
def State.tokensReady (s : State) (l : Launch) : Bool :=
  !lrToken l.record || match s.launchCells l with
    | some cs => cs.all fun c => s.tokens.any fun t => t.cells.contains c.1
    | none => false

/-- A queued launch of the same partition goes first (R50). -/
def State.launchBehind (s : State) (l : Launch) : Bool :=
  s.launches.any fun m => m.id != l.id && m.part == l.part && m.fresh && s.tokensReady m && lrPrio l.record < lrPrio m.record

/-- The entry that step 2 of R50 writes: ENTRY moved by CODE/4. An image entry with ACT = 1 binds its actor, as R49 refuses none
(DESIGN CHOICE, log 61). -/
def launchEntry (e : BitVec 256) (code : Word) : BitVec 256 :=
  let m := BitVec.ofNat 256 ((2 ^ 55 - 1) * 2 ^ 64)
  e &&& ~~~m ||| BitVec.ofNat 256 ((entEntry e + code.toNat / 4) % 2 ^ 55 * 2 ^ 64)

/-- The levels down to the innermost quad or patch level; none when there is none (R127). -/
def patchLevels (ls : List Level) : List Level := (ls.reverse.dropWhile fun l => l.dom != 3 && l.dom != 4).reverse

/-- The group of the innermost quad or patch level of a launch that holds the cell at place (x, y) of its region (R127). -/
def State.placedAt (s : State) (l : Launch) (x y : Nat) : Option Placed :=
  let r := l.record
  let ls := patchLevels (lrLevels r)
  let group := fun (x y : Nat) => groupIndices ⟨lrW r, lrH r, 4⟩ x y ls
  let dies := (lrRegion (s.part l.part).gridW r).filterMap fun c =>
    if group c.2.1 c.2.2 = group x y then ((s.part l.part).cellAt c.1).map dieOf else none
  if ls.isEmpty then none else some ⟨l.id, group x y, dies.all fun d => some d == dies.head?⟩

/-- The group of a logical cell of a launch's region (R127). -/
def State.placedIn (s : State) (l : Launch) (lcell : Nat) : Option Placed :=
  ((lrRegion (s.part l.part).gridW l.record).find? fun c => c.1 == lcell).bind fun c => s.placedAt l c.2.1 c.2.2

/-- The physical cell of an entry's logical one; none while it is evicted. -/
def State.launchAt (s : State) (l : Launch) (c : Nat × Nat) : Option Nat :=
  (((s.part l.part).resolve c.1).filter fun e => entKind e = 1 && !entEvict e).map entCell

/-- Every channel that a launch binds is Unbound or Idle (R50). -/
def State.launchReady (s : State) (l : Launch) : Bool :=
  l.todo.all fun c => match s.launchAt l c with
    | none => false
    | some n => let ch := s.chan n c.2; ch.st != .runnable && ch.st != .running

/-- Step 2 of R50: the entries are written. -/
def State.launchBind (s : State) (l : Launch) : State :=
  l.todo.foldl
    (fun s c => match s.launchAt l c with
      | none => s
      | some n =>
        let s := s.bindChan n c.2 (launchEntry (mget 0 l.image c.2) (lrCode l.record))
        s.setChan n c.2 { s.chan n c.2 with placed := s.placedIn l c.1 })
    s

/-- Steps 3 to 5 of R50 at one cell: fmode, the instruction store, the launch area (R51). -/
def State.launchCell (s : State) (l : Launch) (c : Nat × Nat × Nat × Nat) : State :=
  let r := l.record
  let k := s.cell c.1
  let k := [0, 1, 2, 3].foldl (fun (k : Cell) x => k.setCtx x { k.ctx x with fmode := lrF8 r }) k
  let s := s.setCell c.1 { k with istore := [] }
  let ix := groupIndices ⟨lrW r, lrH r, 4⟩ c.2.2.1 c.2.2.2 (lrLevels r)
  s.storeWrite c.1 Config.launchArea (bslice (ix.flatMap fun i => leBytes 2 i) 0 32 ++ r)

/-- Step 6 of R50: the initial parcels leave, with the header fields of R11 and R50 in place of the record's (log 77). -/
def State.launchParcels (s : State) (l : Launch) : State :=
  (List.range (lrNpar l.record)).foldl
    (fun s i =>
      let p := lrParcel l.record i
      let h := bnat p 0 4
      s.launchFlight
        (mkParcel (mkHdr 0 false false (lrF8 l.record) l.part 0xFFFF (nbits 24 8 h) (nbits 16 8 h) (nbits 0 16 h)) (p.drop 8)) l.part .launch) s

/-- LAUNCH_PROCEED (R50): the n-th accepted launch, once its token exists and none goes before it, waits until every channel it binds is Unbound or
Idle, and then does steps 2 to 6 at one instant (DESIGN CHOICE, log 76): a channel it waits for is still selected (R52), and no instruction of it
runs before step 6. -/
def execEvLaunchProceed (n : Nat) (s : State) : Res :=
  .next (match s.launches[n]? with
    | none => s
    | some l =>
      if l.fresh && (!s.tokensReady l || s.launchBehind l) then s
      else match s.launchCells l, s.launchReady l with
      | some cs, true =>
        let s := cs.foldl (fun s c => s.launchCell l c) (s.launchBind l)
        { s with launches := s.launches.eraseIdx n }.launchParcels l
      | _, _ => { s with launches := s.launches.set n { l with fresh := false } })

end Sys2Proof.Machine
end

