-- ==== Sys2Proof/Machine/Block.lean ====
section
/-! DEFINITION. The fields of a matrix command and their 32-byte block (R251). -/

namespace Sys2Proof.Machine
open Sys2Proof

/-- The fields in the order of the block: first byte, bytes, bits (R251). -/
def blockFields : List (Shadow × Nat × Nat × Nat) :=
  [(.op, 0, 1, 4), (.aStream, 1, 1, 5), (.bSet, 2, 1, 5), (.accBase, 3, 1, 7), (.shapeM, 4, 1, 8), (.shapeN, 5, 1, 8), (.shapeK, 6, 2, 14),
    (.patchW, 8, 1, 7), (.patchH, 9, 1, 5), (.patchRow, 10, 1, 5), (.patchCol, 11, 1, 6), (.tl, 12, 1, 3), (.doneChan, 13, 1, 7),
    (.sliceK, 14, 2, 16), (.outStream, 16, 1, 4), (.scaleMode, 17, 2, 16), (.xfid, 19, 2, 16)]

/-- The width of a field (R251). -/
def fieldBits (f : Shadow) : Nat := ((blockFields.find? fun e => e.1 == f).map fun e => e.2.2.2).getD 0

/-- A field of a shadow set, as a number. -/
def fieldOf (m : SMap (BitVec 16)) (f : Shadow) : Nat := (mget 0 m f.code).toNat
/-- A field of a shadow set written: the bits of the field (R6, R251). -/
def setField (m : SMap (BitVec 16)) (f : Shadow) (v : Nat) : SMap (BitVec 16) := mput m f.code (BitVec.ofNat 16 (v % 2 ^ fieldBits f))

/-- The block of a shadow set. -/
def blockOf (m : SMap (BitVec 16)) : List Byte := blockFields.flatMap (fun e => leBytes e.2.2.1 (fieldOf m e.1)) ++ List.replicate 11 0
/-- The shadow set of a block. -/
def fieldsOf (b : List Byte) : SMap (BitVec 16) := blockFields.foldl (fun m e => setField m e.1 (bnat b e.2.1 e.2.2.1)) []
/-- The reserved bits and bytes of a block are zero. -/
def blockClean (b : List Byte) : Bool :=
  blockFields.all (fun e => bnat b e.2.1 e.2.2.1 < 2 ^ e.2.2.2) && bnat b 21 11 = 0

end Sys2Proof.Machine
end

