-- ==== Sys2Proof/Machine/Claim.lean ====
section
/-! DEFINITION. The claim of the matrix engine (R249, R291 to R293). -/

namespace Sys2Proof.Machine
open Sys2Proof

/-- The claim is free: no context holds it and both pipes are idle (R291). -/
def Cell.claimFree (k : Cell) : Bool := k.claim.isNone && k.mu.pipeL.isNone && k.mu.pipeC.isNone

/-- A status is written and the instruction of X retires. -/
def State.retireWith (s : State) (d : RegG) (n : Nat) : State := (s.setCx (s.cx.setG d (BitVec.ofNat 64 n))).retire .x 1

/-- MCLAIM (R291): a context that joins the queue stays at the instruction until the grant. -/
def execXMclaim (d a : RegG) (g : GuardP) (s : State) : Res :=
  .next (s.xFlow g [d, a] 1 fun s =>
    let k := s.cl
    let me := s.cur.ctx
    if k.claim = some me then .ok (s.retireWith d 0)
    else if k.claimQ.contains me then .error .stall
    else if k.claimFree && k.claimQ.isEmpty then .ok ((s.setCl { k with claim := some me }).retireWith d 0)
    else if (s.cx.gr a).getLsbD 0 then .ok (s.retireWith d 1)
    else .ok (s.setCl { k with claimQ := k.claimQ ++ [me] }))

/-- MFREE (R292). -/
def execXMfree (g : GuardP) (s : State) : Res :=
  .next (s.xRun g [] 1 fun s =>
    let k := s.cl
    .ok (if k.claim = some s.cur.ctx then s.setCl { k with claim := none } else s))

/-- CLAIM_GRANT (R249, R291, R292): the claim passes to the oldest waiter. -/
def execEvClaimGrant (cell : Nat) (s : State) : Res :=
  .next (
    let k := s.cell cell
    match k.claimQ with
    | c :: rest => if k.claimFree then s.setCell cell { k with claim := some c, claimQ := rest } else s
    | [] => s)

end Sys2Proof.Machine
end

