-- ==== Sys2Proof/Machine/System.lean ====
section
/-! DEFINITION. The privileged instructions of X (R337, R340 to R347) and the system registers (R341, R368, R383, R396, R408); sret gives
the return from a fault, State.reply of Machine/Invocation.lean. -/

namespace Sys2Proof.Machine
open Sys2Proof

/-! The fault buffer register. -/

/-- HELD_FAULT_RERAISE (R383). -/
def execEvHeldFaultReraise (part : Nat) (s : State) : Res := .next (s.reraise part (s.heldOf part).length)

/-- A write of fbhdr, and the held records in the new buffer (R341). -/
def State.writeFbhdr (s : State) (pid : Nat) (w : Word) : State :=
  let s := s.setPart pid { s.part pid with fbhdr := w &&& ~~~63#64 }
  s.reraise pid (s.heldOf pid).length

/-- FBHDR_WRITE (R341). -/
def execEvFbhdrWrite (part : Nat) (value : BitVec 64) (s : State) : Res := .next (s.writeFbhdr part value)

/-! System registers. -/

/-- One byte of cstat (R341). -/
def State.cstatByte (s : State) (cell k : Nat) : Nat :=
  let x := s.ctx cell k
  let st := match x.st with
    | .free => 0
    | .running => 1
    | .suspended => if s.isTaken cell k then 1 else 2
    | .trapPending => 3
  let f := fun (c : EngC) (b : Nat) => if c.st = .faulted then b else 0
  let held := x.ex.held.isSome || x.ea.held.isSome || x.em.held.isSome || !x.esc.isEmpty
  st + f x.ex 16 + f x.ea 32 + f x.em 64 + if held then 128 else 0

/-- A system register as it reads (R341). -/
def State.sysReg (s : State) (r : SysReg) : Word :=
  let k := s.cl
  let p := s.part s.pid
  match r with
  | .kchan => k.kchan
  | .wdlim => BitVec.ofNat 64 k.wdlim
  | .lease => BitVec.ofNat 64 k.lease
  | .dpcnt => k.dpcnt
  | .cstat => BitVec.ofNat 64 (leNat ([0, 1, 2, 3].map fun i => BitVec.ofNat 8 (s.cstatByte s.cur.cell i)))
  | .pgate => zext k.pgate
  | .fbhdr => p.fbhdr
  | .s1root => p.s1root
  | .plctab => p.plctab
  | .scrtok => p.scrtok

/-- The parcels of a bound mailbox that stand in a bank read as zero (R408). The i-th oldest stands i places behind the oldest in the
mailbox region, which is a ring (log 48). -/
def Chan.gate (c : Chan) (bank : Nat) : Chan :=
  let bankOf := fun (i : Nat) => 64 * (entMbb c.entry + (c.mhead + i) % entMbd c.entry) / 0x8000
  if !entBound c.entry then c else { c with mailbox := c.mailbox.mapIdx fun i p => if bankOf i = bank then 0 else p }

/-- Gating a bank discards its contents: it reads as zero, landed bits and poison clear (R408). -/
def Cell.gateBank (k : Cell) (bank : Nat) : Cell :=
  let out := fun (a : Nat) => !(0x8000 * bank ≤ a && a < 0x8000 * (bank + 1))
  { k with
    store := k.store.filter fun e => out e.1
    landed := k.landed.filter fun e => out (64 * e.1)
    cpoison := k.cpoison.filter fun e => out (64 * e.1)
    chans := k.chans.map fun e => (e.1, e.2.gate bank) }

/-- A write of pgate (R408). -/
def State.writePgate (s : State) (cell : Nat) (w : BitVec 12) : State :=
  let k := (List.range 12).foldl (fun (k : Cell) b => if w.getLsbD b then k.gateBank b else k) (s.cell cell)
  s.setCell cell { k with pgate := w }

/-- The reserved bits of s1root and plctab keep their zeros (R368). -/
def rootBits (w : Word) : Word := w &&& 0x000FFFFFFFFFF000

/-- A system register written under its rules (R341, R368, R396). What s1root and plctab held before may be used until the next
tlbinv.part retires. -/
def State.setSysReg (s : State) (r : SysReg) (w : Word) : State :=
  let k := s.cl
  let p := s.part s.pid
  match r with
  | .kchan => s.setCl { k with kchan := w }
  | .lease => s.setCl { k with lease := min (max (nbits 0 15 w.toNat) 256) 16384 }
  | .dpcnt => s.setCl { k with dpcnt := w }
  | .pgate => s.writePgate s.cur.cell (w.setWidth 12)
  | .fbhdr => s.writeFbhdr s.pid w
  | .s1root => s.setPart s.pid { p with s1root := rootBits w, s1olds := p.s1root :: p.s1olds }
  | .plctab => s.setPart s.pid { p with plctab := rootBits w, ploldl := p.plctab :: p.ploldl }
  | .scrtok => s.setPart s.pid { p with scrtok := w &&& ~~~2047#64 }
  | .wdlim | .cstat => s

/-- The registers of the partition, reached as acqrel atomics at its control block (R340). -/
def SysReg.ofPart : SysReg → Bool
  | .fbhdr | .s1root | .plctab | .scrtok => true
  | .kchan | .wdlim | .lease | .dpcnt | .cstat | .pgate => false

/-- The order of an access to a system register (R340). -/
def State.sysOrder (s : State) (r : SysReg) : State :=
  match SysReg.ofPart r with
  | true => s.acqrel .x
  | false => s

/-- SYSR (R340). -/
def execXSysr (d : RegG) (sr : SysReg) (g : GuardP) (s : State) : Res :=
  .next (s.xPriv g [d] fun s =>
    let s := s.sysOrder sr
    .ok (s.setCx (s.cx.setG d (s.sysReg sr))))

/-- SYSW (R340). -/
def execXSysw (d : RegG) (sr : SysReg) (a : RegG) (g : GuardP) (s : State) : Res :=
  .next (s.xPriv g [d, a] fun s =>
    let w := s.cx.gr a
    let s := s.sysOrder sr
    let old := s.sysReg sr
    let s := s.setSysReg sr w
    .ok (s.setCx (s.cx.setG d old)))

/-- WDSET (R342). -/
def execXWdset (d a : RegG) (g : GuardP) (s : State) : Res :=
  .next (s.xPriv g [d, a] fun s =>
    let k := s.cl
    let s := s.setCl { k with wdlim := min (max (s.cx.gr a).toNat 1024) 0x1000000 }
    .ok (s.status d k.wdlim))

/-- The engine a code of sret names (R345). -/
def engOf : Nat → Option Eng
  | 0 => some .x
  | 1 => some .a
  | 2 => some .m
  | _ => none

/-- SRET (R345): the reply to a fault of a cell of the partition; a context in an eviction image has no fault outstanding (R365). -/
def execXSret (d a b : RegG) (g : GuardP) (s : State) : Res :=
  .next (s.xPriv g [d, a, b] fun s =>
    let w := (s.cx.gr a).toNat
    let val := s.cx.gr b
    match (s.part s.pid).resolve (nbits 0 16 w), engOf (nbits 18 2 w) with
    | some ent, some e =>
      if nbits 30 2 ent.toNat ≠ 1 then .ok (s.status d 3)
      else if ent.getLsbD 29 then .ok (s.status d 1)
      else
        let r := (s.rel).reply (nbits 0 11 ent.toNat) (nbits 16 2 w) e (nbits 20 2 w) val
        .ok (r.1.status d r.2)
    | _, _ => .ok (s.status d 3))

/-! TLB and cache maintenance (R346, R347). -/

/-- Entries of a TLB that an invalidation leaves. -/
def keepTlb (gone : TlbE → Bool) (l : List TlbE) : List TlbE := l.filter fun e => !gone e

/-- The TLBs of some cells and of their groups lose entries. -/
def State.dropTlbs (s : State) (cells : List Nat) (gone : TlbE → Bool) : State :=
  cells.foldl
    (fun s c =>
      let k := s.cell c
      let s := s.setCell c { k with itlb := keepTlb gone k.itlb, dtlb := keepTlb gone k.dtlb }
      { s with l2tlbs := mput s.l2tlbs (tlbGroup c) (keepTlb gone (mget [] s.l2tlbs (tlbGroup c))) })
    s

/-- Stream groups that hold a translation, of their bytes or of their row's scale, and that have not landed or been written. -/
def Cell.groupsFly (k : Cell) : Bool := k.ctxs.any fun x => x.2.flying.any fun f => !f.cell || f.group.scale.isSome

/-- A ctxsave under way on a cell holds the translations of its area (R348, R349). -/
def State.savesAt (s : State) (cell : Nat) : Bool := [0, 1, 2, 3].any fun x => s.isTaken cell x

/-- The buffered stores of every context of some cells are performed at their homes. -/
def State.drainCells (s : State) (cells : List Nat) : State :=
  cells.foldl (fun s c => [0, 1, 2, 3].foldl (fun s x => s.drainCtx c x) s) s

/-- An invalidation (R346; log 42): it waits for the groups and the saves of the users, cells that a removed translation may have served, and for the
copies that may have used one; then the users' stores are performed, and the entries go from the TLBs of some cells. -/
def State.invalidate (s : State) (users cells : List Nat) (gone : TlbE → Bool) (copyUses : Copy → Bool) : Act State :=
  if users.any (fun c => (s.cell c).groupsFly || s.savesAt c) || s.copies.any copyUses then .error .stall
  else .ok ((s.drainCells users).dropTlbs cells gone)

/-- The cells of a partition that share a cell's L2 TLB (R378). -/
def State.tlbPatch (s : State) (cell : Nat) : List Nat :=
  (List.range 16).filterMap fun i =>
    let c := 64 * (cellY cell / 4 * 4 + i / 4) + cellX cell / 4 * 4 + i % 4
    if (s.cell c).tag = (s.cell cell).tag then some c else none

/-- TLBINV.ALL (R346). -/
def execXTlbinvAll (g : GuardP) (s : State) : Res :=
  .next (s.xPriv g [] fun s =>
    let near := fun (c : Copy) => c.part == s.pid && tlbGroup c.issuer.cell == tlbGroup s.cur.cell
    s.invalidate (s.tlbPatch s.cur.cell) [s.cur.cell] (fun e => e.part == s.pid) near)

/-- TLBINV.VA (R346). The future tables translate anew for each reply buffer and token ring (R427), and hold nothing. -/
def execXTlbinvVa (a : RegG) (g : GuardP) (s : State) : Res :=
  .next (s.xPriv g [a] fun s =>
    let va := (s.cx.gr a).toNat
    let pid := s.pid
    let cells := (s.part pid).cellsOf
    (s.invalidate cells cells (fun e => e.part == pid && e.vbase ≤ va && va < e.vbase + e.size) fun c => c.part == pid).map
      fun s => s.restage pid)

/-- TLBINV.PART (R346, R368): the registers' new values hold from here on. -/
def execXTlbinvPart (g : GuardP) (s : State) : Res :=
  .next (s.xPriv g [] fun s =>
    let pid := s.pid
    let cells := (s.part pid).cellsOf
    (s.invalidate cells cells (fun e => e.part == pid) fun c => c.part == pid).map
      fun s => (s.setPart pid { s.part pid with s1olds := [], ploldl := [] }).restage pid)

/-- CINV.L1 (R230, R347). -/
def execXCinvL1 (g : GuardP) (s : State) : Res :=
  .next (s.xPriv g [] fun s => .ok (s.setCl { s.cl with l1 := [], mseg := [] }))

/-- CINV.SB (R347). -/
def execXCinvSb (g : GuardP) (s : State) : Res :=
  .next (s.xPriv g [] fun s => .ok (s.drainCells [s.cur.cell]))

/-- CINV.IS (R54, R347). -/
def execXCinvIs (g : GuardP) (s : State) : Res :=
  .next (s.xPriv g [] fun s =>
    let s := s.rel
    .ok (s.setCl { s.cl with istore := [] }))

end Sys2Proof.Machine
end

