-- ==== Sys2Proof/Machine/Save.lean ====
section
/-! DEFINITION. Saving and restoring a context (R75, R77, R348 to R353). -/

namespace Sys2Proof.Machine
open Sys2Proof

/-! The save area (R350, R351). -/

/-- Bytes of the area. -/
def areaBytes : Nat := 0x4000

/-- The code of an engine's state in ENG (R351). -/
def engCode : EngSt → Nat
  | .notStarted => 0
  | .running => 1
  | .faulted => 2
  | .ended => 3
def engState : Nat → EngSt
  | 0 => .notStarted
  | 1 => .running
  | 2 => .faulted
  | _ => .ended

/-- The header of the area (R351). -/
def areaHeader (k : Cell) (ctx : Nat) : List Byte :=
  let x := k.ctx ctx
  let hld := (if x.ex.held.isSome then 1 else 0) + (if x.ea.held.isSome then 2 else 0) + (if x.em.held.isSome then 4 else 0)
  let eng := engCode x.ex.st + 4 * engCode x.ea.st + 16 * engCode x.em.st + (if k.claim = some ctx then 64 else 0)
    + if x.trap.isSome then 128 else 0
  leBytes 2 1 ++ leBytes 1 ctx ++ leBytes 1 k.tag ++ leBytes 2 k.lcell.toNat ++ leBytes 1 x.chan ++ leBytes 1 eng
    ++ leBytes 8 x.ex.pc.toNat ++ leBytes 8 x.ea.pc.toNat ++ leBytes 8 x.em.pc.toNat ++ leBytes 8 x.wdcnt ++ leBytes 8 x.phdr.toNat
    ++ leBytes 1 x.ex.code.toNat ++ leBytes 1 x.ea.code.toNat ++ leBytes 1 x.em.code.toNat
    ++ leBytes 1 (1 + (if x.qr 1 then 2 else 0) + (if x.qr 2 then 4 else 0) + if x.qr 3 then 8 else 0)
    ++ leBytes 1 x.kmode.toNat ++ leBytes 1 hld ++ zeros 74

/-- The words of a register file. -/
def wordsOf (n : Nat) (f : Nat → Word) : List Byte := (List.range n).flatMap fun i => leBytes 8 (f i).toNat

/-- Slot j of a ring that holds a list from place p on: a dead slot is a free value (log 3). -/
def ringSlot (n p : Nat) (l : List (List Byte)) (free len j : Nat) : List Byte :=
  match l[(j + n - p % n) % n]? with
  | some b => b
  | none => (vecBytes (Config.freeBits (free + j))).take len

/-- A token FIFO in the area. -/
def fifoArea (q : FifoQ) (free : Nat) : List Byte :=
  leBytes 4 q.headp.toNat ++ leBytes 4 q.items.length
    ++ (List.range 16).flatMap (ringSlot 16 q.headp.toNat (q.items.map fun w => leBytes 8 w.toNat) free 8) ++ zeros 24

/-- A scale word as the area holds it. -/
def scaleNat : ScaleW → Nat
  | .word w => w.toNat
  | .absent | .bad => 0

/-- The code of a stream's state in the area (R350). -/
def streamCode : StreamSt → Nat
  | .closed => 0
  | .opened => 1
  | .closing => 2

/-- The scale words of a stream's slots; the present row's stands with the last entry that landed (log 21). -/
def scaleSlots (t : Stream) : List Byte :=
  (List.range 8).flatMap fun j =>
    let at_ := (j + 8 - t.head.toNat % 8) % 8
    match t.entries[at_]? with
    | some e => leBytes 4 (scaleNat e.scale)
    | none => leBytes 4 (if (t.tail.toNat + 7) % 8 = j then scaleNat t.rowScale else 0)

/-- A stream in the area. -/
def streamArea (t : Stream) (free : Nat) : List Byte :=
  leBytes 32 t.desc.toNat ++ leBytes 2 t.next.toNat ++ leBytes 2 t.head.toNat ++ leBytes 2 t.tail.toNat ++ leBytes 1 (streamCode t.st)
    ++ zeros 25 ++ scaleSlots t ++ zeros 32
    ++ (List.range 8).flatMap (ringSlot 8 t.head.toNat (t.entries.map fun e => vecBytes e.data) free 64)

/-- A record or parcel in the area, zero when there is none. -/
def vecArea (r : Option Vec) : List Byte := vecBytes (r.getD 0)

/-- The whole area (R350). -/
def areaOf (k : Cell) (ctx free : Nat) : List Byte :=
  let x := k.ctx ctx
  areaHeader k ctx ++ wordsOf 32 (fun r => x.gr (BitVec.ofNat 5 r)) ++ (List.range 128).flatMap (fun r => leBytes 2 (x.pr (BitVec.ofNat 7 r)).toNat)
    ++ wordsOf 16 (fun r => x.br (BitVec.ofNat 4 r)) ++ wordsOf 16 (fun r => x.cr (BitVec.ofNat 4 r)) ++ blockOf x.shadow ++ zeros 32
    ++ leBytes 8 x.fmode.toNat ++ leBytes 8 x.xfid.toNat ++ leBytes 8 x.late.toNat ++ leBytes 8 x.gst.toNat ++ leBytes 8 x.gstk.toNat
    ++ leBytes 8 x.gtt.toNat ++ leBytes 8 x.gmt.toNat ++ leBytes 8 x.gdim.toNat
    ++ (List.range 12).flatMap (fun n => let l := mget LoopC.reset x.loops n; leBytes 8 l.count.toNat ++ leBytes 8 l.first.toNat ++ leBytes 8 l.last.toNat)
    ++ (List.range 4).flatMap (fun t => leBytes 8 (x.issueOf t).toNat ++ leBytes 8 (x.doneOf t).toNat) ++ zeros 32
    ++ vecArea x.trap ++ zeros 64
    ++ (List.range 32).flatMap (fun r => vecBytes (x.vr (BitVec.ofNat 5 r)))
    ++ (List.range 6).flatMap (fun n => fifoArea (x.fifo n) (free + 16 * n)) ++ zeros 64
    ++ (List.range 16).flatMap (fun n => streamArea (x.stream (BitVec.ofNat 4 n)) (free + 96 + 8 * n))
    ++ vecArea x.ex.held ++ vecArea x.ea.held ++ vecArea x.em.held ++ zeros 1344

/-- The lines of the area, from its first one, that carry poison: that of an entry, or of a scale word (R389). -/
def poisonLines (x : Ctx) : List Nat :=
  (List.range 16).flatMap fun n =>
    let t := x.stream (BitVec.ofNat 4 n)
    let base := (0x1200 + 640 * n) / 64
    let bad := t.entries.mapIdx fun i e => if e.poison then [base + 2 + (t.head.toNat + i) % 8] else []
    bad.flatten ++ if t.rowScale = .bad || t.entries.any (fun e => e.scale == .bad) then [base + 1] else []

/-- A byte range of the area that holds zeros. -/
def zeroAt (b : List Byte) (lo n : Nat) : Bool := ((b.drop lo).take n).all fun v => v == 0

/-- The reserved bytes of the area are zero (R350, R351). -/
def reservedClean (b : List Byte) : Bool :=
  zeroAt b 54 74 && zeroAt b (0x380 + 21) 11 && zeroAt b 0x3A0 32 && zeroAt b 0x560 32 && zeroAt b 0x5C0 64 && zeroAt b 0x11C0 64
    && (List.range 6).all (fun n => zeroAt b (0xE00 + 160 * n + 136) 24)
    && (List.range 16).all (fun n => zeroAt b (0x1200 + 640 * n + 39) 25 && zeroAt b (0x1200 + 640 * n + 96) 32)
    && zeroAt b 0x3AC0 1344

/-- State, fault code and HLD bit of an engine go together (R351). -/
def engClean (b : List Byte) (e : Nat) : Bool :=
  let st := nbits (2 * e) 2 (bnat b 7 1)
  let code := bnat b (48 + e) 1
  (st == 2) == (code != 0) && (st == 2 || nbits e 1 (bnat b 53 1) == 0)

/-- The counts and the descriptor of a stream in the area (R351). A state above 2 is none (log 21). -/
def streamClean (b : List Byte) (n : Nat) : Bool :=
  let o := 0x1200 + 640 * n
  let d := BitVec.ofNat 256 (bnat b o 32)
  let next := bnat b (o + 32) 2
  let head := bnat b (o + 34) 2
  let tail := bnat b (o + 36) 2
  match bnat b (o + 38) 1 with
  | 0 => next = 0 && head = 0 && tail = 0
  | 1 | 2 => !dInvalid d && (tail + 65536 - head) % 65536 ≤ dDepth d && (next + 65536 - head) % 65536 ≤ dDepth d
  | _ => false

/-- The reserved bits of fmode, xfid, gst and gdim in the area are zero (R6, R62, R63, R65). -/
def csrsClean (b : List Byte) : Bool :=
  bnat b 0x3C0 8 < 2 && bnat b 0x3C8 8 < 2 ^ 16 && bnat b 0x3D8 8 < 2 ^ 13 && nbits 48 16 (bnat b 0x3F8 8) = 0 && nbits 24 8 (bnat b 0x3F8 8) = 0

/-- An area that R351 accepts for a partition and a logical cell. The unnamed bits of QB, KM, HLD and of the shadow block are reserved
(R6; log 21), and so are those of the registers that have reserved bits. -/
def areaOk (b : List Byte) (pid lcell : Nat) : Bool :=
  bnat b 0 2 = 1 && bnat b 3 1 = pid && bnat b 4 2 = lcell && reservedClean b && [0, 1, 2].all (engClean b)
    && bnat b 51 1 < 16 && bnat b 52 1 < 2 && bnat b 53 1 < 8 && csrsClean b && blockClean ((b.drop 0x380).take 32)
    && (List.range 6).all (fun n => bnat b (0xE00 + 160 * n) 4 ≤ 15 && bnat b (0xE00 + 160 * n + 4) 4 ≤ 16)
    && (List.range 16).all (streamClean b)

/-- A token FIFO of the area. -/
def fifoFrom (b : List Byte) (n : Nat) : FifoQ :=
  let o := 0xE00 + 160 * n
  let h := bnat b o 4
  ⟨BitVec.ofNat 4 h, (List.range (bnat b (o + 4) 4)).map fun i => BitVec.ofNat 64 (bnat b (o + 8 + 8 * ((h + i) % 16)) 8)⟩

/-- The scale word of slot j of a stream of the area: there is one when the descriptor names a scale vector (log 21). -/
def scaleFrom (b : List Byte) (o : Nat) (d : BitVec 256) (j : Nat) : ScaleW :=
  if dScBase d = 0 then .absent else .word (BitVec.ofNat 32 (bnat b (o + 64 + 4 * (j % 8)) 4))

/-- The entry of count c of a stream as the device kept it. -/
def Stream.entryAt (t : Stream) (c : Nat) : Option Entry := t.entries[(c + 65536 - t.head.toNat) % 65536]?

/-- Which lanes of the entry of count c a vpush wrote, which the area does not hold: as the device kept them; a free value for an entry that
was not saved (log 21). -/
def Stream.lanesAt (t : Stream) (store : Bool) (free c : Nat) : BitVec 16 :=
  match t.entryAt c with
  | some e => e.lanes
  | none => if store then (Config.freeBits free).setWidth 16 else 0xFFFF

/-- A stream of the area, with what the device kept of it. -/
def streamFrom (b : List Byte) (n free : Nat) (keep : Stream) : Stream :=
  let o := 0x1200 + 640 * n
  let d := BitVec.ofNat 256 (bnat b o 32)
  let next := bnat b (o + 32) 2
  let head := bnat b (o + 34) 2
  let tail := bnat b (o + 36) 2
  match bnat b (o + 38) 1 with
  | 0 => Stream.reset
  | st => {
      desc := d, st := if st = 1 then .opened else .closing
      next := BitVec.ofNat 16 next, head := BitVec.ofNat 16 head, tail := BitVec.ofNat 16 tail
      entries := (List.range ((tail + 65536 - head) % 65536)).map fun i =>
        ⟨BitVec.ofNat 512 (bnat b (o + 128 + 64 * ((head + i) % 8)) 64), keep.lanesAt (dStoreKind d) (free + i) (head + i),
          scaleFrom b o d (head + i), false⟩
      loads := [], stores := [], dropping := [], waiting := false
      rowScale := if keep.rowScale = .absent then .absent else scaleFrom b o d (tail + 7)
      issued := if keep.next.toNat = next then keep.issued else next }

/-- An engine of the area (R352): its horizon is the load, an acquire. What the area does not hold, it has as the device kept it while
its program counter is the saved one: the join line it has met, the staging slot its instruction waited on, the lanes of that
instruction, and a target still to be checked (log 21). -/
def engFrom (b : List Byte) (e now : Nat) (keep : EngC) : EngC :=
  let pc := BitVec.ofNat 55 (bnat b (8 + 8 * e) 8)
  let k := if pc = keep.pc then keep else EngC.reset
  { pc := pc, st := engState (nbits (2 * e) 2 (bnat b 7 1)), code := BitVec.ofNat 8 (bnat b (48 + e) 1)
    held := if nbits e 1 (bnat b 53 1) = 1 then some (BitVec.ofNat 512 (bnat b (0x3A00 + 64 * e) 64)) else none
    horizon := now, joining := false, passed := k.passed, waited := k.waited, line := none, two := k.two, unchecked := k.unchecked }

/-- The context that an area holds (R350 to R352), put into a free context; keep is what the device kept beside the area. -/
def Ctx.fromArea (x : Ctx) (b : List Byte) (now free : Nat) (keep : SavedInv) : Ctx :=
  let w := fun (o : Nat) => BitVec.ofNat 64 (bnat b o 8)
  let words := fun (n o : Nat) => (List.range n).map fun i => (i, w (o + 8 * i))
  let anyFault := [0, 1, 2].any fun e => nbits (2 * e) 2 (bnat b 7 1) = 2
  { x with
    st := if anyFault then .suspended else .running
    chan := bnat b 6 1, phdr := w 40, kmode := nbits 0 1 (bnat b 52 1) = 1, inv := keep.inv, limit := keep.limit, wdcnt := bnat b 32 8
    g := words 32 0x80, v := (List.range 32).map fun i => (i, BitVec.ofNat 512 (bnat b (0x600 + 64 * i) 64))
    p := (List.range 128).map fun i => (i, BitVec.ofNat 16 (bnat b (0x180 + 2 * i) 2))
    b := words 16 0x280, q := [1, 2, 3].map fun i => (i, nbits i 1 (bnat b 51 1) = 1), c := words 16 0x300
    shadow := fieldsOf ((b.drop 0x380).take 32)
    ex := engFrom b 0 now keep.ex, ea := engFrom b 1 now keep.ea, em := engFrom b 2 now keep.em, sysd := keep.sysd
    loops := (List.range 12).map fun n => (n, ⟨w (0x400 + 24 * n), BitVec.ofNat 55 (bnat b (0x408 + 24 * n) 8), BitVec.ofNat 55 (bnat b (0x410 + 24 * n) 8)⟩)
    issue := (List.range 4).map fun t => (t, w (0x520 + 16 * t)), done := (List.range 4).map fun t => (t, w (0x528 + 16 * t))
    streams := (List.range 16).map fun n => (n, streamFrom b n (free + 8 * n) (mget Stream.reset keep.streams n)), fifos := (List.range 6).map fun n => (n, fifoFrom b n)
    fmode := nbits 0 1 (bnat b 0x3C0 8) = 1, xfid := BitVec.ofNat 16 (bnat b 0x3C8 8), late := w 0x3D0
    gst := w 0x3D8, gstk := w 0x3E0, gtt := w 0x3E8, gmt := w 0x3F0, gdim := w 0x3F8
    trap := if nbits 7 1 (bnat b 7 1) = 1 then some (BitVec.ofNat 512 (bnat b 0x580 64)) else none
    pend := [], verdicts := [], popped := keep.popped, mpoison := false, taken := none }

/-- An engine after a save and a load by Belvedere (R352, R365): it fetches its line anew, and its horizon is the load. -/
def EngC.reload (c : EngC) (now : Nat) : EngC := { c with line := none, joining := false, horizon := now }
/-- A context after a save and a load by Belvedere: as ctxsave and ctxload leave it (R349, R352, R365), with what the device keeps beside
the area; the record of a poisoned input (R253) is in neither, and goes (log 81). -/
def Ctx.reload (x : Ctx) (now : Nat) : Ctx :=
  { x with ex := x.ex.reload now, ea := x.ea.reload now, em := x.em.reload now, seqs := [], past := [], sb := [], esc := [], mpoison := false, taken := none }

/-! The two instructions. -/

/-- Every page of the area translated before any other effect (R348): the physical pieces, in order. -/
def State.areaPages (s : State) (acc : Nat) (need : Need) (va : Word) : Act (List (Loc × Nat) × State) :=
  if va.toNat % 64 ≠ 0 then s.trap (whyOf 5 acc va)
  else
    (pageCuts 6 va areaBytes).foldl
      (fun r c => match r with
        | .error h => .error h
        | .ok (ps, t) => match t.xlate t.cur.cell t.cx.kmode need c.1 with
          | .error (w, t) => t.trap { w with acc := acc }
          | .ok (l, t) => .ok (ps ++ [(l, c.2)], t))
      (.ok ([], s))

/-- The staging slots that an area reads from (R124, R125): the read waits on a pending one, and a failed one raises Poison. -/
def State.areaStaged (s : State) (ps : List (Loc × Nat)) (va : Word) : Act State :=
  let at_ := fun (p : Loc × Nat) => s.stageAt s.pid p.1.pa
  match ps.find? fun p => match at_ p with
    | some (.pending _ _) => true
    | some (.failed _) | some (.ready _) | none => false with
  | some p => .error (.late false p.1.pa s)
  | none =>
    if ps.any fun p => match at_ p with
      | some (.failed _) => true
      | some (.pending _ _) | some (.ready _) | none => false
    then s.trap (whyOf 0x13 1 va) else .ok s

/-- Bytes written over translated pieces, performed at their homes. -/
def State.putPieces (s : State) (pid : Nat) (ps : List (Loc × Nat)) (bs : List Byte) : State :=
  (ps.foldl (fun (a : State × List Byte) p => ((a.1.putBytes p.1.pa (a.2.take p.2)).allocIn (homeBank p.1) pid, a.2.drop p.2)) (s, bs)).1

/-- The line numbers of translated pieces, in order. -/
def pieceLines (ps : List (Loc × Nat)) : List Nat := ps.flatMap fun p => granules p.1.pa p.2

/-- What ctxsave waits for once it has taken its target (R77): no group in flight, no verdict out, every timeline done. -/
def State.quiet (s : State) (cell ctx : Nat) : Bool :=
  let x := s.ctx cell ctx
  x.verdicts.isEmpty && x.flying.isEmpty
    && (List.range 4).all fun t => x.issueOf t == x.doneOf t

/-- The area is written and the context becomes free (R349): its channel stays Running and is marked saved; a held fault moves into the
area, and the claim is given up. The buffered stores of both contexts are performed first (R131, R149). The area does not hold the record of a
poisoned input (R75, R253), which goes (DESIGN CHOICE, log 81). -/
def State.saveCtx (s : State) (cell ctx : Nat) (ps : List (Loc × Nat)) : State :=
  let s := s.rel.drainCtx cell ctx
  let k := s.cell cell
  let x := k.ctx ctx
  let lines := pieceLines ps
  let s := lines.foldl (fun s n => s.dropL1 cell n) (s.putPieces k.tag ps (areaOf k ctx s.free))
  let s := (poisonLines x).foldl (fun s n => (lines[n]?).elim s s.markPoison) { s with free := s.free + 256 }
  let s := (x.ex.held.toList ++ x.ea.held.toList ++ x.em.held.toList).foldl (fun s _ => s.adjustHeld k.tag false) s
  let k := s.cell cell
  let c := k.chan x.chan
  let k := (k.setChan x.chan { c with saved := some ⟨x.inv, x.limit, x.popped, x.sysd, x.ex, x.ea, x.em, x.streams⟩ })
  let s := s.setCell cell { k with claim := if k.claim = some ctx then none else k.claim, claimQ := k.claimQ.filter fun c => c != ctx }
  let x' := { x with
    ex := x.ex.idle, ea := x.ea.idle, em := x.em.idle, streams := [], fifos := [], pend := [], popped := [], mpoison := false, wdcnt := 0
    trap := none, taken := none }
  s.setCtx cell ctx { x' with st := x'.rest }

/-- The pieces of the area that the present ctxsave translated when it took its target, while it waits (R348, R349). -/
def State.takenPieces (s : State) (t : Nat) : Option (List (Loc × Nat)) :=
  let x := s.ctx s.cur.cell t
  x.taken.bind fun k => if k.ctx = s.cur.ctx ∧ k.inv = s.cx.inv ∧ x.st = .suspended then some (k.pieces.map fun p => (⟨p.1, p.2.1⟩, p.2.2)) else none

/-- A ctxsave that has taken context t writes the area once the context is quiet (R77, R349). -/
def State.saveWhenQuiet (s : State) (d : RegG) (t : Nat) (ps : List (Loc × Nat)) : State :=
  if s.quiet s.cur.cell t then (s.saveCtx s.cur.cell t ps).retireWith d 0
  else
    let x := s.ctx s.cur.cell t
    s.setCtx s.cur.cell t { x with taken := some ⟨s.cur.ctx, s.cx.inv, ps.map fun p => (p.1.pa, p.1.place, p.2)⟩ }

/-- CTXSAVE (R348, R349, R353): the area is translated once, before the target is taken. -/
def execXCtxsave (d a b : RegG) (g : GuardP) (s : State) : Res :=
  .next (if !s.cx.kmode then s.raise s.cur.cell s.cur.ctx .x ⟨4, 6, 0xFF, 0, 0, 0⟩ 0 0
    else s.xFlow g [d, a, b] 1 fun s =>
      let t := nbits 0 2 (s.cx.gr b).toNat
      match s.takenPieces t with
      | some ps => .ok (s.saveWhenQuiet d t ps)
      | none => match s.areaPages 2 .write (s.cx.gr a) with
        | .error h => .error h
        | .ok (ps, s) =>
          let k := s.cl
          let x := k.ctx t
          if t = s.cur.ctx ∨ x.st ≠ .suspended ∨ s.isTaken s.cur.cell t then .ok (s.retireWith d 1)
          else if k.claim = some t ∧ (k.mu.pipeL.isSome ∨ k.mu.pipeC.isSome) then .ok (s.retireWith d 2)
          else .ok (s.saveWhenQuiet d t ps))

/-- CTXLOAD (R348, R351, R352). -/
def execXCtxload (d a b : RegG) (g : GuardP) (s : State) : Res :=
  .next (s.xPriv g [d, a, b] fun s =>
    match s.areaPages 1 .read (s.cx.gr a) with
    | .error h => .error h
    | .ok (ps, s) =>
      let cell := s.cur.cell
      let t := nbits 0 2 (s.cx.gr b).toNat
      if (s.ctx cell t).st ≠ .free then .ok (s.status d 1)
      else match s.areaStaged ps (s.cx.gr a) with
      | .error h => .error h
      | .ok s =>
      if (pieceLines ps).any s.poisoned then s.trap (whyOf 0x13 1 (s.cx.gr a))
      else
        let s := ps.foldl (fun (s : State) p => s.allocIn (homeBank p.1) s.pid) s.rel
        let area := ps.flatMap fun p => (List.range p.2).map fun i => s.latest (p.1.pa + i)
        let s := (pieceLines ps).foldl State.snoopRead s
        let chan := bnat area 6 1
        if !areaOk area s.pid s.cl.lcell.toNat then .ok (s.status d 2)
        else match (s.chan cell chan).saved with
          | none => .ok (s.status d 3)
          | some keep =>
            let s := s.acq .x
            let x := (s.ctx cell t).fromArea area s.now s.free keep
            let s := { s.setCtx cell t x with free := s.free + 128 }
            let s := s.setChan cell chan { s.chan cell chan with saved := none }
            let k := s.cell cell
            let s := if nbits 6 1 (bnat area 7 1) = 1 then s.setCell cell { k with claimQ := k.claimQ ++ [t] } else s
            let s := (x.ex.held.toList ++ x.ea.held.toList ++ x.em.held.toList).foldl (fun s _ => s.adjustHeld s.pid true) s
            .ok (s.status d 0))

end Sys2Proof.Machine
end

