-- ==== Sys2Proof/Machine/Services.lean ====
section
/-! DEFINITION. Belvedere and a partition kernel: the services of a K-mode sys (R360) and the other K-mode traps (R339, R361). -/

namespace Sys2Proof.Machine
open Sys2Proof

/-- A K-mode trap leaves the hypervisor fault queue. -/
def State.popHyp (s : State) (n : Nat) : State := { s with hypFaults := s.hypFaults.eraseIdx n }

/-- A trap that stopped an engine, and not one that ended its invocation (R26, R343). -/
def HypFault.stops (f : HypFault) : Bool := f.code.toNat < 0x20 || 0x27 < f.code.toNat
/-- The invocation of a K-mode trap still waits with its engine stopped. -/
def State.hypLive (s : State) (f : HypFault) : Bool :=
  let x := s.ctx f.cell f.ctx
  f.stops && x.st == .suspended && x.inv == f.inv && (x.eng f.eng).st == .faulted
/-- Its context is one that Belvedere has saved (R365): the trap waits for the restore. -/
def State.hypAway (s : State) (f : HypFault) : Bool :=
  f.stops && s.sets.any fun e => (e.2.saved.any fun x => x.2.1.inv == f.inv)
    || (mget [] e.2.images f.part).any fun i => i.2.saved.any fun x => x.2.1.inv == f.inv

/-- Belvedere's reply to a service request: g[d] receives the status, and X goes on (R345, R360). -/
def State.serveEnd (s : State) (n : Nat) (f : HypFault) (status : Nat) : State :=
  let s := s.popHyp n
  if s.hypLive f then
    let s := s.setCtx f.cell f.ctx ((s.ctx f.cell f.ctx).setG f.reg (BitVec.ofNat 64 status))
    (s.reply f.cell f.ctx .x 1 (BitVec.ofNat 64 status)).1
  else s

/-- The bytes of a service block that its function uses beside bytes 0 and 1 (R360): first byte and count. -/
def serviceArgs : Nat → Option (Nat × Nat)
  | 1 => some (8, 1)
  | 2 => some (8, 8)
  | 3 => some (8, 12)
  | 4 => some (8, 8)
  | 5 => some (8, 8)
  | 6 => some (8, 0)
  | _ => none

/-- The reserved bytes of a service block are zero. -/
def serviceClean (b : List Byte) (a : Nat × Nat) : Bool :=
  (b.mapIdx fun i v => i < 2 || (a.1 ≤ i && i < a.1 + a.2) || v == 0).all id

/-- A service request (R360): the n-th K-mode trap is a sys whose block asks for function fn. What the context stored before is performed
first; the block is read and byte 1 can be written, or the status is 4; the body answers the state after, the status, and
what byte 1 receives. fn = 0 serves the requests whose function is unknown. A misaligned block counts as one that faults (log 25). -/
def State.serve (s : State) (n fn : Nat) (body : State → HypFault → List Byte → State × Nat × Nat) : State :=
  match s.hypFaults[n]? with
  | none => s
  | some f =>
    if f.code ≠ 0x30 || s.hypAway f then s
    else if f.arg.toNat % 64 ≠ 0 then s.serveEnd n f 4
    else match (s.drainCtx f.cell f.ctx).xlateDev f.part true .readWrite f.arg with
    | .error (_, t) => t.serveEnd n f 4
    | .ok (l, t) =>
      if t.poisoned (l.pa / 64) || t.placeStaged f.part StageSt.isFailed [(l, 64)] then t.serveEnd n f 4
      else
        let b := (List.range 64).map fun i => t.latest (l.pa + i)
        let reply := fun (s : State) (status byte : Nat) => (s.putBytes (l.pa + 1) (leBytes 1 byte)).serveEnd n f status
        match serviceArgs (bnat b 0 1) with
        | none => if fn = 0 then reply t 1 1 else s
        | some a =>
          if bnat b 0 1 ≠ fn then s
          else if !serviceClean b a then reply t 1 1
          else let r := body t f b; reply r.1 r.2.1 r.2.2

/-- A body that answers one status for both places. -/
def answer (s : State) (n : Nat) : State × Nat × Nat := (s, n, n)

/-- SERVICE_THRESHOLD (R360). -/
def execEvServiceThreshold (n : Nat) (s : State) : Res :=
  .next (s.serve n 1 fun s f b =>
    let v := bnat b 8 1
    if v < 1 ∨ 15 < v then answer s 2 else answer (s.setPart f.part { s.part f.part with threshold := v }) 0)

/-- SERVICE_GRACE (R360). -/
def execEvServiceGrace (n : Nat) (s : State) : Res :=
  .next (s.serve n 2 fun s f b =>
    let v := bnat b 8 8
    if v < 10000 ∨ 10 ^ 9 < v then answer s 2 else answer (s.setPart f.part { s.part f.part with grace := v }) 0)

/-- An address that stage 1 and stage 2 of a partition translate to HBM, or to LPDDR6. -/
def State.backedBy (s : State) (pid : Nat) (lodge : Bool) (va : Word) : Bool :=
  match s.translate pid none true .read false va with
  | .ok (.entry e _, _) => (e.place == .lodge) == lodge
  | .ok (.stopped, _) => false
  | .error _ => false

/-- The partition holds a task of the worklist (R35, R360): in a cell, in a spill region, in transit or in an eviction image. -/
def State.holdsTask (s : State) (pid : Nat) : Bool :=
  (s.part pid).cellsOf.any (fun c => !(s.cell c).buckets.isEmpty || !(s.cell c).spill.isEmpty)
    || s.transfers.any (fun t => t.part == pid && !t.work.isEmpty)
    || s.sets.any fun e => (mget [] e.2.images pid).any fun i => !i.2.work.isEmpty || !i.2.spill.isEmpty

/-- SERVICE_SPILL_AREA (R360, R363): refused while any task is held. -/
def execEvServiceSpillArea (n : Nat) (s : State) : Res :=
  .next (s.serve n 3 fun s f b =>
    let p := s.part f.part
    let base : Word := BitVec.ofNat 64 (bnat b 8 8)
    let m := bnat b 16 4
    if m ≠ 0 ∧ (m < 64 ∨ 65536 < m ∨ base.toNat % 4096 ≠ 0 ∨ !s.backedBy f.part false base) then answer s 2
    else if s.holdsTask f.part then answer s 3
    else answer (s.setPart f.part { p with spillBase := if m = 0 then 0 else base, spillN := m }) 0)

/-- SERVICE_SCHEDULE (R122, R360): the stager reads the header afresh. -/
def execEvServiceSchedule (n : Nat) (s : State) : Res :=
  .next (s.serve n 4 fun s f b =>
    let h : Word := BitVec.ofNat 64 (bnat b 8 8)
    if h.toNat % 64 ≠ 0 then answer s 2
    else answer (s.setPart f.part { s.part f.part with sched := if h = 0 then none else some ⟨h, false, 0, 0, [], [], []⟩ }) 0)

/-- SERVICE_LAUNCH (R49, R360): byte 1 receives the status of R49. -/
def execEvServiceLaunch (n : Nat) (s : State) : Res :=
  .next (s.serve n 5 fun s f b =>
    let r := s.submit f.part (BitVec.ofNat 64 (bnat b 8 8)) false
    (r.1, 0, r.2))

/-- The partition that a set's slice belongs to, while it shares the set with another. -/
def SliceSet.runs (st : SliceSet) : Option Nat := if st.order.length ≤ 1 then none else (st.order[st.resident]?).map fun o => o.1

/-- SERVICE_YIELD (R360, R364): the partition's slices on the cells that it shares end. -/
def execEvServiceYield (n : Nat) (s : State) : Res :=
  .next (s.serve n 6 fun s f _ =>
    answer { s with sets := s.sets.map fun e =>
      (e.1, if e.2.runs = some f.part then { e.2 with yielded := true } else e.2) } 0)

/-- KMODE_TRAP (R361): the invocation ends when an engine stopped, and the event is recorded with its code. A sys is a service request;
one of an unknown function is answered here. -/
def execEvKmodeTrap (n : Nat) (s : State) : Res :=
  .next (match s.hypFaults[n]? with
    | none => s
    | some f =>
      if s.hypAway f then s
      else if f.code = 0x30 then s.serve n 0 fun s _ _ => answer s 1
      else
        let s := s.popHyp n
        let s := s.setPart f.part { s.part f.part with kevents := (s.part f.part).kevents ++ [f.code] }
        if s.hypLive f then s.endInvocation f.cell f.ctx true else s)

end Sys2Proof.Machine
end

