-- ==== Sys2Proof/Machine/Scrub.lean ====
section
/-! DEFINITION. Partitions and their isolation: the scrub engine and its tokens (R394 to R396), cache banks (R391), memory keys (R393), the
assignment of cells, cores and functions (R296, R354, R400), creation, destruction and kill of a partition, segments (R374, R375). -/

namespace Sys2Proof.Machine
open Sys2Proof

/-! The scrub engine. -/

/-- A scrubbed cell (R394): all but its tag, LCELL and bank gating at reset. -/
def Cell.scrub (k : Cell) : Cell := { Cell.reset with tag := k.tag, lcell := k.lcell, pgate := k.pgate, select := k.select }

/-- A cell is scrubbed: its buffered stores are performed first (R108, R149), and its partition's entries leave the L2 TLB of its group. -/
def State.scrubCell (s : State) (cell : Nat) : State :=
  let s := [0, 1, 2, 3].foldl (fun s x => s.drainCtx cell x) s
  let k := s.cell cell
  let s := { s with l2tlbs := mput s.l2tlbs (tlbGroup cell) ((mget [] s.l2tlbs (tlbGroup cell)).filter fun e => e.part != k.tag) }
  s.setCell cell k.scrub

/-- The bytes of a completion token (R395; log 12). -/
def tokenBytes (part kind seq time ncell : Nat) (logical : List Nat) : List Byte :=
  let head := leBytes 2 1 ++ leBytes 1 part ++ leBytes 1 kind ++ zeros 4 ++ leBytes 8 seq ++ leBytes 8 time ++ leBytes 4 ncell ++ zeros 4
    ++ vecBytes (Config.shake256 ((sortBy id logical).flatMap fun l => leBytes 2 l))
  let mhash := vecBytes (Config.shake256 head)
  head ++ mhash ++ leBytes 2 1280 ++ bslice (Config.falconSign mhash) 0 1280 ++ zeros 606

/-- The scrub engine's token for a set of cells (R395, R396): logged, and written into the partition's slot when there is one. A write that
faults counts as done. -/
def State.putToken (s : State) (part kind : Nat) (cells logical : List Nat) : State :=
  let seq := s.scrubSeq + 1
  let bytes := tokenBytes part kind seq s.time.toNat cells.length logical
  let s := { s with scrubSeq := seq, tokens := s.tokens ++ [(⟨part, cells, seq, bytes⟩ : Token)] }
  let s := s.setPart part { s.part part with tokenSeq := seq }
  let slot := (s.part part).scrtok
  if slot = 0 then s else (s.devWrite part true slot bytes).1

/-- The logical numbers of a partition at some physical cells. -/
def Part.logicalOf (p : Part) (cells : List Nat) : List Nat :=
  (p.table.mapIdx fun l e => (l, e)).filterMap fun e => if entKind e.2 = 1 ∧ cells.contains (entCell e.2) then some e.1 else none

/-- A set of cells is scrubbed and its token written. -/
def State.scrubSet (s : State) (cells : List Nat) (part kind : Nat) (logical : List Nat) : State :=
  (cells.foldl State.scrubCell s).putToken part kind cells logical

/-- An agent's copy of a line goes: dirty data is stored at the home first. -/
def State.dropCopy (s : State) (agent line : Nat) : State :=
  let d := s.dirOf line
  let own := (d.owner.map fun o => o.1) == some agent
  let s := if own then s.collect line else s
  s.setDir line ⟨if own then none else d.owner, d.sharers.filter fun a => a != agent⟩

/-- A slot without a hart among the waiters that its injection releases. -/
def FSlot.without (x : FSlot) (core : Nat) : FSlot :=
  match x.kind with
  | .future va w dl q reply inj =>
    { x with kind := .future va w dl q reply (inj.map fun j => { j with wait_ := j.wait_.filter fun w => w != .hart core }) }
  | .barrier .. => x

/-- A slot's waiter is withdrawn when it is a hart, as R305 withdraws one. -/
def State.unwaitSlot (s : State) (core die n : Nat) (x : FSlot) : State :=
  let s := s.setSlot die n (x.without core)
  match x.kind with
  | .future va w dl q reply inj =>
    if w ≠ .hart core ∨ fSt (s.words x.pa).1 ≠ 1 then s
    else (s.putW0 x.pa (mkWord0 n (fGen (s.words x.pa).1) 0)).setSlot die n ({ x with kind := .future va .none dl q reply inj }.without core)
  | .barrier .. => s

/-- No slot has a hart as its waiter any more. -/
def State.unwait (s : State) (core : Nat) : State :=
  s.futs.foldl (fun s d => d.2.foldl (fun s x => s.unwaitSlot core d.1 x.1 x.2) s) s

/-- An application core is scrubbed (R394): its caches hold no line any more, what they held dirty being stored, it waits on no future any more
(DEDUCED, log 67), its reservation ends, and its registers are at reset. -/
def State.scrubCore (s : State) (core : Nat) (h : Hart) : State :=
  let s := (s.dir.foldl (fun s e => if e.2.agents.contains core then s.dropCopy core e.1 else s) s).unwait core
  ({ s with resvs := s.resvs.filter fun e => e.1 != core, asks := s.asks.filter fun a => a.agent != core }).setHart core h

/-! Cache banks (R391). -/

/-- A bank is written back and invalidated, and its AV cleared. An RDC bank gives up its directory places. -/
def State.bankScrub (s : State) (bank : Nat) : State :=
  let s := { s with av := mdel s.av bank }
  if 768 ≤ bank ∧ bank < 1024 then
    let agent := 128 + (bank - 768) / 32
    { s with dir := s.dir.map fun e =>
      (e.1, if Config.rdcBank e.1 % 32 = (bank - 768) % 32 then { e.2 with sharers := e.2.sharers.filter fun a => a != agent } else e.2) }
  else s

/-- BANK_SCRUB (R391). -/
def execEvBankScrub (bank : Nat) (s : State) : Res := .next (s.bankScrub bank)

/-- Every bank whose AV holds a partition is scrubbed (R394). -/
def State.banksOf (s : State) (pid : Nat) : State :=
  (s.av.filter fun e => pid < 24 && e.2.getLsbD pid).foldl (fun s e => s.bankScrub e.1) s

/-! Memory keys (R393; log 23). -/

/-- The number of a partition's present key. -/
def State.keyId (s : State) (pid : Nat) : Nat := 24 * mget 0 s.keys pid + pid + 1

/-- The 1 GiB blocks of physical memory that a segment covers. -/
def segBlocks (g : Segment) : List Nat :=
  (List.range (g.hsize / 2 ^ 30)).map (fun i => g.hbase / 2 ^ 30 + i) ++ (List.range (g.lsize / 2 ^ 30)).map fun i => g.lbase / 2 ^ 30 + i

/-- Blocks of memory come under a key: what agents hold of them is given up first and stored under the key they had (R393, R402). -/
def State.setKeys (s : State) (blocks : List Nat) (id : Nat) : State :=
  let gained := blocks.filter fun b => mget 0 s.gibs b != id
  let s := s.dir.foldl (fun s e => if gained.contains (e.1 / 2 ^ 24) then s.giveUp e.1 else s) s
  { s with gibs := gained.foldl (fun m b => mset 0 m b id) s.gibs }

/-- A partition's key reads and writes the blocks of its segment from here on. -/
def State.ownMemory (s : State) (pid : Nat) : State := s.setKeys (segBlocks (s.part pid).seg) (s.keyId pid)
/-- Blocks that no partition owns come under Belvedere's key, in slot 24 (R393), which is number 0. -/
def State.disown (s : State) (blocks : List Nat) : State := s.setKeys blocks 0

/-- A segment entry that R374 allows. -/
def segOk (g : Segment) : Bool :=
  g.hbase % 2 ^ 30 = 0 && g.hsize % 2 ^ 30 = 0 && g.lbase % 2 ^ 30 = 0 && g.lsize % 2 ^ 30 = 0 && g.hbase + g.hsize ≤ 2 ^ 39
    && (g.lsize = 0 || (2 ^ 41 ≤ g.lbase && g.lbase + g.lsize ≤ 2 ^ 42))

/-- Two segments share a block. -/
def segMeets (g h : Segment) : Bool :=
  meets g.hbase g.hsize h.hbase h.hsize && g.hsize ≠ 0 && h.hsize ≠ 0
    || meets g.lbase g.lsize h.lbase h.lsize && g.lsize ≠ 0 && h.lsize ≠ 0

/-- No other partition's segment meets this one (R374). -/
def State.segFree (s : State) (pid : Nat) (g : Segment) : Bool :=
  s.parts.all fun e => e.1 = pid || e.2.st = .absent || !segMeets g e.2.seg

/-- The intermediate address that a segment gives a physical one, the other way round than stage 2 (R374). -/
def segIa (g : Segment) (pa : Nat) : Option Nat :=
  if g.hbase ≤ pa ∧ pa < g.hbase + g.hsize then some (pa - g.hbase)
  else if g.lbase ≤ pa ∧ pa < g.lbase + g.lsize then some (0x20000000000 + (pa - g.lbase))
  else none

/-- Where an address of a partition lies under a new segment. -/
def moveTo (old new : Segment) (pa : Nat) : Option Nat := ((segIa old pa).bind (stage2 new)).map fun r => r.1

/-- A partition's segment takes effect (R375): what the device holds of translations under the old one follows. A future or a counter
whose memory the new segment does not reach has no slot and no parked parcel any more (DESIGN CHOICE, log 63). -/
def State.moveSegment (s : State) (pid : Nat) (seg : Segment) : State :=
  let old := (s.part pid).seg
  let slot := fun (x : Nat × FSlot) =>
    if x.2.part = pid then (moveTo old seg x.2.pa).map fun pa => (x.1, { x.2 with pa := pa }) else some x
  let park := fun (q : Parked) => if q.part = pid then (moveTo old seg q.ctr).map fun c => { q with ctr := c } else some q
  let s : State := { s with
    futs := s.futs.map fun e => (e.1, e.2.filterMap slot)
    parks := s.parks.map fun e => (e.1, e.2.filterMap park)
    resvs := s.resvs.filter fun e => (s.hart e.1).part != some pid }
  let lost := (segBlocks old).filter fun b => !(segBlocks seg).contains b
  (((s.setPart pid { s.part pid with seg := seg }).disown lost).ownMemory pid).restage pid

/-- A ctxsave of a partition's cells is on its way with translated pages. -/
def State.saving (s : State) (cells : List Nat) : Bool := cells.any fun c => (s.cell c).ctxs.any fun x => x.2.taken.isSome

/-- SEGMENT_UPDATE (R375): it waits for the groups, copies and saves of the partition; every TLB entry of the partition goes. -/
def execEvSegmentUpdate (vf : Option Nat) (part : Nat) (seg : Segment) (s : State) : Res :=
  .next (match vf with
    | some v => if Config.vfs ≤ v ∨ !segOk seg then s else s.setFn (.vf v) { s.fn (.vf v) with seg := seg }
    | none =>
      let cells := (s.part part).cellsOf
      if (s.part part).st = .absent ∨ !segOk seg ∨ !s.segFree part seg ∨ s.saving cells then s
      else match s.invalidate cells cells (fun e => e.part == part) fun c => c.part == part with
        | .ok t => t.moveSegment part seg
        | .error _ => s)

/-! Assignment. -/

/-- A cell is as scrub leaves it. -/
def Cell.clean (k : Cell) : Bool :=
  decide ({ k.scrub with kchan := k.kchan, heard := k.heard, fview := k.fview, dview := k.dview, wview := k.wview } = k)

/-- CELL_ASSIGN (R64, R337, R354): tag, LCELL and kchan in one step, on a scrubbed cell whose contexts are free. Its view of the worklist's
floor is that of the partition's other cells (R35; log 26). -/
def execEvCellAssign (cell part lcell : Nat) (kchan : BitVec 64) (s : State) : Res :=
  .next (
    let k := s.cell cell
    if Config.cells ≤ cell ∨ (24 ≤ part ∧ part ≠ 31) ∨ !k.clean then s
    else s.setCell cell { k with
      tag := part, lcell := BitVec.ofNat 16 (if part = 31 then 0xFFFF else lcell), kchan := kchan, fview := (s.part part).floor, heard := [], select := true })

/-- CORE_ASSIGN (R296, R354, R394): the core is scrubbed first. -/
def execEvCoreAssign (core part : Nat) (s : State) : Res :=
  .next (if Config.cores ≤ core then s else s.scrubCore core { Hart.reset with part := if part < 24 then some part else none })

/-- VF_ASSIGN (R354, R400): at most 16 functions per partition; the function starts afresh (log 28). -/
def execEvVfAssign (vf part : Nat) (s : State) : Res :=
  .next (
    let mine := (s.vfs.filter fun e => e.1 != vf && e.2.part == some part).length
    if Config.vfs ≤ vf ∨ (part < 24 ∧ 16 ≤ mine) then s
    else s.setFn (.vf vf) { Fn.reset with part := if part < 24 then some part else none })

/-! Creation. -/

/-- A table entry that R356 allows: a cell, a gateway, or empty. -/
def entryOk (e : BitVec 32) : Bool :=
  match entKind e with
  | 1 => entCell e < Config.cells && nbits 11 5 e.toNat = 0 && nbits 16 5 e.toNat = 0 && nbits 21 8 e.toNat = 0
  | 2 => nbits 16 5 e.toNat < 24 && !entEvict e && nbits 21 8 e.toNat = 0
  | _ => true

/-- The physical cells of a table, in table order; of evicted positions, or of the others. -/
def tableCells (t : List (BitVec 32)) (evicted : Bool) : List Nat :=
  (t.filter fun e => entKind e = 1 && entEvict e == evicted).map entCell

/-- A configuration that R354 and R356 allow: its cells free, assigned to nobody and named once; evicted positions name shared cells. -/
def State.cfgOk (s : State) (part : Nat) (c : PartCfg) : Bool :=
  let own := tableCells c.table false
  1 ≤ c.gridW && c.gridW ≤ 255 && 1 ≤ c.gridH && c.gridH ≤ 255 && c.gridW * c.gridH ≤ 2048 && c.table.length = c.gridW * c.gridH
    && c.table.all entryOk && decide (own ++ tableCells c.table true).Nodup && segOk c.seg && s.segFree part c.seg
    && own.all fun k => (s.cell k).tag = 31 && (s.cell k).ctxs.all fun x => x.2.st = .free

/-- An empty eviction image of a logical cell with its kchan (R337, R354), which was no physical cell before. -/
def Image.fresh (l : Nat) (kchan : Word) : Image where
  from_ := Config.cells
  lcell := BitVec.ofNat 16 l
  kchan := kchan
  chans := []
  rr := []
  frames := []
  area := []
  poison := []
  taskq := []
  work := []
  spill := []
  wake := false
  fmodes := []
  issues := []
  dones := []
  traps := []
  escs := []
  outs := []
  saved := []

/-- The partition that is resident on a cell, if any. -/
def State.residentOf (s : State) (cell : Nat) : Option Nat := if (s.cell cell).tag < 24 then some (s.cell cell).tag else none

/-- A partition joins the slice schedule of the cells it shares (R364). Slice lengths are Belvedere's: free values (log 3). -/
def State.joinSet (s : State) (part : Nat) (cells : List Nat) (images : List (Nat × Image)) : State :=
  if cells.isEmpty then s
  else
    let len := Config.freeNat s.free
    match s.sets.find? fun e => e.2.cells.all cells.contains && cells.all e.2.cells.contains with
    | some (n, st) => { s with sets := mput s.sets n { st with order := st.order ++ [(part, len)], images := mput st.images part images } }.took
    | none =>
      let first := (cells.head?.bind s.residentOf).toList.map fun p => (p, Config.freeNat (s.free + 1))
      let st : SliceSet := {
        cells := cells, order := first ++ [(part, len)], resident := 0, since := s.time.toNat, yielded := false, stopping := none, saved := []
        empty := first.isEmpty, images := [(part, images)] }
      { s with sets := mput s.sets s.serial st }.bump.took.took

/-- PARTITION_CREATE (R354, R356, R374, R394): a fresh key (R393), a scrub of its cells with its token, and its worklist, whose first epoch
is open (R41). -/
def execEvPartitionCreate (part : Nat) (cfg : PartCfg) (s : State) : Res :=
  .next (
    if !s.hostUp || 24 ≤ part || (s.part part).st ≠ .absent || !s.cfgOk part cfg then s
    else
      let p := { Part.reset with
        st := .running, gridW := cfg.gridW, gridH := cfg.gridH, table := cfg.table, seg := cfg.seg, slices := cfg.slices, jobs := cfg.jobs
        ring := cfg.ring, epoch := true }
      let s := (s.setPart part p).ownMemory part
      let own := tableCells cfg.table false
      let s := s.scrubSet own part 1 (p.logicalOf own)
      let away := (cfg.table.mapIdx fun l e => (l, e)).filter fun e => entKind e.2 = 1 && entEvict e.2
      s.joinSet part (tableCells cfg.table true) (away.map fun e => (e.1, Image.fresh e.1 (cfg.kchans.getD e.1 0))))

/-! Destruction and kill. -/

/-- A parcel of another partition that waits at a position of a partition that ends goes on to its verdict (R392). -/
def Leg.freed : Leg → Leg
  | .deferred .. | .evicted | .way => .way
  | .gateway => .gateway
  | .image => .image

/-- What a partition has under way leaves the device with it. A parcel that has passed a gateway arrives all the same, and nobody hears of
it, unless its sender's image held it; and a parcel towards the partition from another one has verdict 4 to come (R392). -/
def State.dropTraffic (s : State) (pid : Nat) : State :=
  let cells := (s.part pid).cellsOf
  { s with
    flights := (s.flights.filter fun f => f.src != pid || (f.part != pid && f.leg != .image)).map fun f =>
      let f := if f.src = pid then { f with from_ := .status } else f
      if f.part = pid then { f with leg := f.leg.freed } else f
    verdicts := s.verdicts.filter fun v => v.part != pid
    tasks := s.tasks.filter fun t => t.part != pid
    transfers := s.transfers.filter fun t => t.part != pid
    launches := s.launches.filter fun l => l.part != pid
    statuses := s.statuses.filter fun e => e.1 != pid
    landings := s.landings.filter fun l => !(s.copies.any fun c => c.id == l.copy && c.part == pid)
    copies := s.copies.filter fun c => c.part != pid
    partials := s.partials.filter fun q => !cells.contains q.dst
    hypFaults := s.hypFaults.filter fun f => f.part != pid
    futs := s.futs.map fun e => (e.1, e.2.filter fun x => x.2.part != pid)
    parks := s.parks.map fun e => (e.1, e.2.filter fun q => q.part != pid)
    ueInbox := s.ueInbox.filter fun m => m.1 != pid }

/-- A slice schedule without a partition. -/
def SliceSet.drop (st : SliceSet) (pid : Nat) : SliceSet :=
  let now_ := (st.order[st.resident]?).map fun o => o.1
  let order := st.order.filter fun o => o.1 != pid
  let before := ((st.order.take st.resident).filter fun o => o.1 != pid).length
  let st := { st with order := order, images := mdel st.images pid }
  if now_ = some pid then { st with resident := (before + order.length - 1) % max 1 order.length, stopping := none, yielded := false, saved := [], empty := true }
  else { st with resident := before }

/-- The end of a partition (R391, R393, R394): its invocations end as action 3 of R345 ends them, its traffic goes, its cells and the banks
that hold it are scrubbed, and its key is retired: its memory is Belvedere's. -/
def State.endPart (s : State) (pid : Nat) : State :=
  let cells := (s.cells.filter fun e => e.2.tag = pid).map fun e => e.1
  let s := cells.foldl (fun s c => [0, 1, 2, 3].foldl (fun s x =>
    if (s.ctx c x).st = .running ∨ (s.ctx c x).st = .suspended then s.endInvocation c x true else s) s) s
  let s := s.dropTraffic pid
  let s := ((s.scrubSet cells pid 2 ((s.part pid).logicalOf cells)).banksOf pid).disown (segBlocks (s.part pid).seg)
  { s with
    keys := mput s.keys pid (mget 0 s.keys pid + 1)
    sets := s.sets.map fun e => (e.1, e.2.drop pid)
    cells := s.cells.map fun e => (e.1, if cells.contains e.1 then { e.2 with tag := 31, lcell := 0xFFFF, select := true } else e.2) }

/-- PARTITION_DESTROY (R393, R394): its cores and functions are its own no more. -/
def execEvPartitionDestroy (part : Nat) (s : State) : Res :=
  .next (
    if (s.part part).st = .absent then s
    else
      let s := s.endPart part
      let s := s.harts.foldl (fun s e => if e.2.part = some part then s.scrubCore e.1 Hart.reset else s) s
      let s : State := { s with
        vfs := s.vfs.map fun e => (e.1, if e.2.part = some part then Fn.reset else e.2) }
      s.setPart part { Part.reset with tokenSeq := (s.part part).tokenSeq })

/-- A kill (R391): its cores stop, it is marked failed, and its positions are cells no more (R392). -/
def State.kill (s : State) (pid : Nat) : State :=
  let s := s.endPart pid
  let s : State := { s with harts := s.harts.map fun e => (e.1, if e.2.part = some pid then { e.2 with stopped := true } else e.2) }
  s.setPart pid { s.part pid with st := .failed, table := (s.part pid).table.map fun _ => 0, sched := none }

/-- A bank holds lines of a kind of memory: an L2 slice HBM's, a Lodge die's home cache LPDDR6's. -/
def bankHolds (bank line : Nat) : Bool := decide (1024 ≤ bank) == decide (0x20000000000 ≤ 64 * line)

/-- The lines that the model lists. -/
def State.lines (s : State) : List Nat := (s.dir.map fun e => e.1) ++ s.mem.map fun e => e.1 / 64

/-- The lines of a set of a bank are discarded, those of some partitions being all that it can hold (R391). At a home no agent holds them any
more, and their contents are free values; an RDC held copies of them, which it has no more. Which lines they are, the manual leaves to the part
(log 23). -/
def State.discardSet (s : State) (bank set : Nat) (pids : List Nat) : State :=
  if 768 ≤ bank ∧ bank < 1024 then
    s.dir.foldl (fun s e => if Config.inSet bank set e.1 then s.dropCopy (128 + (bank - 768) / 32) e.1 else s) s
  else
    let mine := fun (line : Nat) => pids.any fun p => (segIa (s.part p).seg (64 * line)).isSome
    ((s.lines.eraseDups.filter fun n => Config.inSet bank set n && bankHolds bank n && mine n)).foldl
      (fun s n => ((s.setDir n DirE.reset).memPut (addrBytes (64 * n) (vecBytes (Config.freeBits s.free)))).took) s

/-- TAG_PARITY_ERROR (R391): the lines of the set are discarded, every partition in AV is killed, and the bank is scrubbed. -/
def execEvTagParityError (place : BankSet) (s : State) : Res :=
  .next (
    let pids := (List.range 24).filter fun p => (mget 0 s.av place.bank).getLsbD p
    (pids.foldl State.kill (s.discardSet place.bank place.set pids)).bankScrub place.bank)

/-- SCRUB (R394, R395): a set of cells is cleared for a tenant switch (0), a creation (1) or a kill (2), and its token written. Cells with
invocations are cleared for a kill alone, which ends them; it also scrubs the banks that hold the partition. -/
def execEvScrub (cells : List Nat) (part kind : Nat) (s : State) : Res :=
  .next (
    let idle := cells.all fun c => (s.cell c).ctxs.all fun x => x.2.st != .running && x.2.st != .suspended
    if 2 < kind || cells.any (fun c => Config.cells ≤ c) || (kind ≠ 2 && !idle) then s
    else
      let s := cells.foldl (fun s c => [0, 1, 2, 3].foldl (fun s x =>
        if (s.ctx c x).st = .running ∨ (s.ctx c x).st = .suspended then s.endInvocation c x true else s) s) s
      let s := s.scrubSet cells part kind ((s.part part).logicalOf cells)
      if kind = 2 then s.banksOf part else s)

end Sys2Proof.Machine
end

