-- ==== Sys2Proof/Machine/Slices.lean ====
section
/-! DEFINITION. Time slices of shared cells (R364 to R367). -/

namespace Sys2Proof.Machine
open Sys2Proof

/-- The slice set of a number. -/
def State.sliceSet (s : State) (n : Nat) : SliceSet := mget SliceSet.reset s.sets n
def State.setSlice (s : State) (n : Nat) (x : SliceSet) : State := { s with sets := mput s.sets n x }

/-- The partition at a place of the order. -/
def SliceSet.at_ (st : SliceSet) (i : Nat) : Nat := ((st.order[i % max 1 st.order.length]?).map fun o => o.1).getD 31

/-- The resident partition's slice is over, or it has yielded (R360, R364). -/
def State.sliceOver (s : State) (st : SliceSet) : Bool :=
  st.yielded || st.since + ((st.order[st.resident]?).map fun o => o.2).getD 0 ≤ s.time.toNat

/-- Steps 2 and 3 of R364 are done: no invocation, copy, verdict or matrix command of the set's contexts is left. What other cells have on its
way into the set's cell stores and accumulators lands first (DEDUCED, log 66). -/
def State.setQuiet (s : State) (st : SliceSet) : Bool :=
  st.cells.all (fun c =>
    let k := s.cell c
    k.ctxs.all (fun x => x.2.st != .running && x.2.st != .suspended && x.2.verdicts.isEmpty) && k.mu.pipeL.isNone && k.mu.pipeC.isNone)
    && !(s.copies.any fun c => st.cells.contains c.issuer.cell)
    && !(s.landings.any fun l => st.cells.contains l.cell) && !(s.partials.any fun q => st.cells.contains q.dst)

/-- The frames of the actors of a cell, bound or not (R366). -/
def Cell.frames (k : Cell) : List (Nat × Nat) := (k.chans.filter fun c => entAct c.2.entry).map fun c => entFrame c.2.entry

/-- The launch area (R51). -/
def areaRange : Nat × Nat := (Config.launchArea, Config.storeBytes - Config.launchArea)

/-- An offset lies in one of some ranges. -/
def inRanges (rs : List (Nat × Nat)) (a : Nat) : Bool := rs.any fun r => r.1 ≤ a && a < r.1 + r.2
/-- Bytes of a cell store inside some ranges. -/
def Cell.bytesIn (k : Cell) (rs : List (Nat × Nat)) : SMap Byte := k.store.filter fun e => inRanges rs e.1

/-- The eviction image of a cell (R366); its bucketed tasks go to the spill region as far as that has room (R364 step 5). -/
def Cell.image (k : Cell) (cell room : Nat) (saved : SMap (Ctx × Bool)) : Image := {
  from_ := cell, lcell := k.lcell, kchan := k.kchan, chans := k.chans, rr := k.rr, frames := k.bytesIn k.frames
  area := k.bytesIn [areaRange], poison := k.cpoison.filter fun e => (areaRange :: k.frames).any fun r => meets (64 * e.1) 64 r.1 r.2, taskq := k.taskq
  work := k.buckets.drop (room - k.spill.length), spill := k.spill ++ k.buckets.take (room - k.spill.length), wake := k.wake
  fmodes := k.ctxs.map fun x => (x.1, x.2.fmode), issues := k.ctxs.map fun x => (x.1, x.2.issue), dones := k.ctxs.map fun x => (x.1, x.2.done)
  traps := k.ctxs.map fun x => (x.1, x.2.trap), escs := k.ctxs.map fun x => (x.1, x.2.esc), outs := k.ctxs.map fun x => (x.1, x.2.out), saved := saved }

/-- The table entries of a partition's cells in a set take EVICT (R364 step 4). -/
def Part.evict (p : Part) (cells : List Nat) : Part :=
  { p with table := p.table.map fun e => if entKind e = 1 ∧ cells.contains (entCell e) then e ||| 0x20000000 else e }

/-- Tasks that balancing has on its way to some cells arrive there; those that do not fit stay on their way. -/
def State.takeTransfers (s : State) (cells : List Nat) : State :=
  let r := s.transfers.foldl
    (fun (acc : State × List Transfer) t =>
      if cells.contains t.dst then let q := acc.1.takeTransfer t; (q.1, acc.2 ++ q.2) else (acc.1, acc.2 ++ [t]))
    (s, [])
  { r.1 with transfers := r.2 }

/-- Worklist tasks on their way to some cells that find the buckets full are saved with those cells as spilled ones (R362). -/
def State.spillTransfers (s : State) (cells : List Nat) : State :=
  let here := fun (t : Transfer) => cells.contains t.dst && (s.cell t.dst).tag == t.part
  let left := (s.transfers.map fun t => if here t then { t with work := [] } else t).filter fun t => !(t.tasks.isEmpty && t.work.isEmpty)
  (s.transfers.filter here).foldl (fun (s : State) t => s.setCell t.dst { s.cell t.dst with spill := (s.cell t.dst).spill ++ t.work })
    { s with transfers := left }

/-- What balancing has on its way to some cells, what comes back to them included, is saved with them (R362, R366). A task parcel that finds a full
queue stays on its way. -/
def State.settleTransfers (s : State) (cells : List Nat) : State := ((s.takeTransfers cells).takeTransfers cells).spillTransfers cells

/-- Parcels that are held with their evicted senders wait at no channel (R366). -/
def State.holdFlights (s : State) (held : List Nat) : State :=
  { s with
    flights := s.flights.map fun f => if held.contains f.id then { f with leg := .image, told := true } else f
    cells := s.cells.map fun e => (e.1,
      { e.2 with chans := e.2.chans.map fun c => (c.1, { c.2 with deferred := c.2.deferred.filter fun id => !held.contains id }) }) }

/-- Steps 4 to 7 of R364: EVICT, the images, the scrub with its token for the partition that follows. A follow-on command that still waits
for a cell of the set does not survive (R366). -/
def State.evictSet (s : State) (n : Nat) (st : SliceSet) : State :=
  let pid := st.at_ st.resident
  let next := st.at_ (st.resident + 1)
  let mine := st.cells.filter fun c => (s.cell c).tag = pid
  let s := mine.foldl State.spillWrite (s.settleTransfers mine)
  let s := s.holdFlights (mine.flatMap fun c => (s.cell c).ctxs.flatMap fun x => x.2.out)
  let room := (s.part pid).spillRoom
  let images := mine.map fun c =>
    ((s.cell c).lcell.toNat, (s.cell c).image c room ((st.saved.filter fun x => x.1 / 4 == c).map fun x => (x.1 % 4, x.2)))
  let s := s.setPart pid { (s.part pid).evict st.cells with st := .preempted }
  let s : State := { s with copies := s.copies.map fun c => { c with accept := c.accept.filter fun k => !mine.contains k } }
  let all_ := mput st.images pid images
  let s := s.scrubSet st.cells next 0 ((mget [] all_ next).map fun i => i.1)
  s.setSlice n { st with stopping := none, yielded := false, saved := [], empty := true, images := all_ }

/-- SLICE_END (R364): at the end of a slice of a set that several partitions share selection stops (step 1); once the set is quiet, the outgoing
partition is evicted. -/
def execEvSliceEnd (n : Nat) (s : State) : Res :=
  .next (
    let st := s.sliceSet n
    if st.empty || st.order.isEmpty || (st.order.length ≤ 1 && st.stopping.isNone) then s
    else match st.stopping with
      | none =>
        if s.sliceOver st then
          let s := st.cells.foldl (fun s c => s.setCell c { s.cell c with select := false }) s
          s.setSlice n { st with stopping := some s.time.toNat }
        else s
      | some _ => if s.setQuiet st then s.evictSet n st else s)

/-- A context of a restored cell: what the image holds of it, or the one Belvedere saved, which it loads (R365, R366). -/
def Image.ctx (i : Image) (now k : Nat) : Ctx :=
  match mfind i.saved k with
  | some (x, _) => { x.reload now with out := mget [] i.outs k, esc := mget [] i.escs k }
  | none =>
    let x := { Ctx.reset with
      fmode := mget false i.fmodes k, issue := mget [] i.issues k, done := mget [] i.dones k, trap := mget none i.traps k
      esc := mget [] i.escs k, out := mget [] i.outs k }
    { x with st := x.rest }

/-- The cell that an image restores (R364, R366); its view of the worklist's floor is that of the partition's other cells (R35; log 26). -/
def Image.cell (i : Image) (pid now floor : Nat) (k : Cell) : Cell :=
  { k.scrub with
    tag := pid, lcell := i.lcell, kchan := i.kchan, chans := i.chans, rr := i.rr
    store := (i.frames ++ i.area).foldl (fun m e => mset 0 m e.1 e.2) [], cpoison := i.poison, taskq := i.taskq, buckets := i.work
    spill := i.spill, wake := i.wake, fview := floor, select := true, ctxs := [0, 1, 2, 3].map fun x => (x, i.ctx now x)
    claimQ := [0, 1, 2, 3].filter fun x => (mfind i.saved x).any fun y => y.2 }

/-- What names the physical cell that an image was names the cell it is restored on. -/
def State.follow (s : State) (pid old new : Nat) : State :=
  let at_ := fun (c : Nat) => if c = old then new else c
  { s with
    transfers := s.transfers.map fun t => if t.part = pid then { t with from_ := at_ t.from_, dst := at_ t.dst } else t
    hypFaults := s.hypFaults.map fun f => if f.part = pid then { f with cell := at_ f.cell } else f }

/-- One image is loaded into a cell, and its table entry names it (R364). Held parcels take their slots again (R366). -/
def State.loadImage (s : State) (pid l : Nat) (i : Image) (cell : Nat) : State :=
  let p := s.part pid
  let s := s.setPart pid { p with table := p.table.set l (BitVec.ofNat 32 (0x40000000 + cell)) }
  let s := s.setCell cell (i.cell pid s.now p.floor (s.cell cell))
  let held := i.outs.flatMap fun o => o.2
  let again := fun (f : Flight) =>
    if held.contains f.id then { f with leg := .way }
    else match i.chans.find? fun c => c.2.deferred.contains f.id with
      | some c => if f.leg = .image then f else { f with leg := .deferred cell c.1 }
      | none => f
  let s : State := { s with flights := s.flights.map again }
  i.saved.foldl (fun s x =>
    (x.2.1.ex.held.toList ++ x.2.1.ea.held.toList ++ x.2.1.em.held.toList).foldl (fun s _ => s.adjustHeld pid true) s) s

/-- A partition's table names a cell for one of its logical cells that is not evicted. -/
def State.inUse (s : State) (c : Nat) : Bool := s.parts.any fun e => e.2.st != .absent && e.2.cellsOf.contains c

/-- The free cells that Belvedere may restore an image onto (R354, R366): scrubbed cells that no logical cell stands on, of the set, where one still
has the tag of a sharer, or nobody's. -/
def State.freeCells (s : State) (st : SliceSet) : List Nat :=
  (st.cells.filter fun c => (s.cell c).tag = 31 || st.order.any fun o => o.1 == (s.cell c).tag).filter (fun c => (s.cell c).clean && !s.inUse c)
    ++ (List.range Config.cells).filter fun c =>
      (s.cell c).tag = 31 && (s.cell c).clean && !s.inUse c && !(s.sets.any fun e => e.2.cells.contains c)

/-- Images are loaded one after the other, each onto a free cell that Belvedere chooses (R366): a free value says which (log 3). The state after,
and the cells used. Old places follow once every image has its new one, by way of numbers that are no cell's. -/
def State.loadImages (s : State) (pid : Nat) (free : List Nat) (images : List (Nat × Image)) : State × List Nat :=
  let r := images.foldl
    (fun (acc : State × List Nat × List (Nat × Nat)) i =>
      let n := acc.1.pick (max 1 acc.2.1.length)
      match acc.2.1[n]? with
      | some c => (((acc.1.took).loadImage pid i.1 i.2 c).follow pid i.2.from_ (4096 + c), acc.2.1.eraseIdx n, acc.2.2 ++ [(4096 + c, c)])
      | none => acc)
    (s, free, [])
  (r.2.2.foldl (fun s m => s.follow pid m.1 m.2) r.1, r.2.2.map fun m => m.2)

/-- SLICE_RESTORE (R364, R366): the next partition's images are loaded, once there is a free cell for each. -/
def execEvSliceRestore (n : Nat) (s : State) : Res :=
  .next (
    let st := s.sliceSet n
    if !st.empty || st.order.isEmpty then s
    else
      let r := (st.resident + 1) % st.order.length
      let pid := st.at_ r
      if (s.freeCells st).length < (mget [] st.images pid).length then s
      else
      let q := s.loadImages pid (s.freeCells st) (mget [] st.images pid)
      let s : State := { q.1 with flights := q.1.flights.map fun f => if f.leg = .evicted ∧ f.part = pid then { f with leg := .way } else f }
      let s := s.setPart pid { s.part pid with st := .running }
      s.setSlice n { st with
        cells := st.cells ++ q.2.filter fun c => !st.cells.contains c
        resident := r, since := s.time.toNat, yielded := false, empty := false, images := mdel st.images pid })

/-- GRACE_EXPIRY (R77, R365): Belvedere saves a context that has stayed suspended beyond the grace time of its partition. -/
def execEvGraceExpiry (cell ctx : Nat) (s : State) : Res :=
  .next (
    let k := s.cell cell
    let x := k.ctx ctx
    match s.sets.find? fun e => e.2.cells.contains cell && e.2.stopping.isSome with
    | none => s
    | some (n, st) =>
      let claimed := k.claim = some ctx
      if x.st ≠ .suspended ∨ s.time.toNat ≤ st.stopping.getD 0 + (s.part k.tag).grace ∨ s.isTaken cell ctx ∨ !s.quiet cell ctx
          ∨ (claimed && (k.mu.pipeL.isSome || k.mu.pipeC.isSome)) then s
      else
        let s := s.drainCtx cell ctx
        let s := (x.ex.held.toList ++ x.ea.held.toList ++ x.em.held.toList).foldl (fun s _ => s.adjustHeld k.tag false) s
        let k := s.cell cell
        let x := k.ctx ctx
        let s := s.setCell cell { k with claim := if claimed then none else k.claim, claimQ := k.claimQ.filter fun c => c != ctx }
        let x' := { x with
          ex := x.ex.idle, ea := x.ea.idle, em := x.em.idle, streams := [], fifos := [], pend := [], popped := [], mpoison := false, wdcnt := 0
          trap := none, taken := none }
        let s := s.setCtx cell ctx { x' with st := x'.rest }
        s.setSlice n { st with saved := mput st.saved (4 * cell + ctx) ({ x with taken := none, esc := [] }, claimed) })

end Sys2Proof.Machine
end

