-- ==== Sys2Proof/Machine/Directory.lean ====
section
/-! DEFINITION. The home directories (R386 to R388), errors (R389, R390), table walks and prefetchers as steps of their own (R369, R380). -/

namespace Sys2Proof.Machine
open Sys2Proof

/-- A tracked agent that may own a line: an application core's L2 or a CXL host (R386). -/
def ownAgent (a : Nat) : Bool := a < 128 || a = 136 || a = 137
/-- A tracked agent (R386). -/
def trackedAgent (a : Nat) : Bool := a < 138

/-- A line of memory (R102); the directory holds no other. -/
def lineOk (line : Nat) : Bool := inMemory (64 * line)

/-- The bytes of a line as it stands. -/
def State.lineVec (s : State) (line : Nat) : Vec := vecOf ((List.range 64).map fun i => s.latest (64 * line + i))

/-- An agent joins the sharers. -/
def DirE.share (d : DirE) (a : Nat) : DirE := { d with sharers := if d.sharers.contains a then d.sharers else a :: d.sharers }
/-- An agent holds the line. -/
def DirE.holds (d : DirE) (a : Nat) : Bool := d.agents.contains a

/-- A cache agent that may have a line (R386, R398, R399, R402): a core's L2, an RDC, or the cache of a host on a port in CXL mode, for the
window of a logical device of that port. -/
def State.agentOk (s : State) (agent line : Nat) : Bool :=
  agent < 136 || (agent < 138 && s.hostUp && mget false s.portCxl (agent - 136)
    && s.lds.any fun e => e.1 / 16 == agent - 136 && (segIa (s.part e.2).seg (64 * line)).isSome)

/-- A read-shared request (R387): an E holder is snooped to S, an M holder to O. -/
def State.readShared (s : State) (agent line : Nat) : State :=
  if (s.dirOf line).holds agent then s
  else
    let s := (s.snoopRead line).snoopE line
    let d := s.dirOf line
    if d.owner.isNone && d.sharers.isEmpty && ownAgent agent then s.setDir line ⟨some (agent, .e, s.lineVec line), []⟩ else s.setDir line (d.share agent)

/-- A line with the bytes of a store over it. -/
def overLine (v : Vec) (off : Nat) (bytes : List Byte) : Vec :=
  vecOf ((List.range 64).map fun i => if off ≤ i && i < off + bytes.length then bytes.getD (i - off) 0 else (vecBytes v).getD i 0)

/-- A read-own request (R387): every other copy is invalidated, dirty data stored first; the requester ends in E, or in M with the line as its
store leaves it. A store into a staging slot leaves the slot's contents free (R124; log 3). -/
def State.readOwn (s : State) (agent line : Nat) (store : Option (Nat × List Byte)) : State :=
  let v := s.lineVec line
  let s := (s.tellInv line (some agent)).collect line
  match store with
  | none => s.setDir line ⟨some (agent, .e, v), []⟩
  | some (off, bytes) =>
    let s := s.endResv line
    if (s.slotPages line).isEmpty then s.setDir line ⟨some (agent, .m, overLine v off bytes), []⟩
    else ((s.spoilPages (s.slotPages line)).setDir line ⟨some (agent, .m, Config.freeBits s.free), []⟩).took

/-! Requests on their way and in hand (R387, R388). -/

/-- The home bank of a line: an L2 slice for HBM, which place a request names, and the home cache of its Lodge die for LPDDR6 (R391; log 11). -/
def homeOf (line home : Nat) : Nat := if 0x20000000000 ≤ 64 * line then homeBank ⟨64 * line, .lodge⟩ else home % 768

/-- The partition that an agent allocates a line for: its core's, or the one whose segment holds the line (R296, R374). -/
def State.allocator (s : State) (agent line : Nat) : Nat :=
  if agent < 128 then (s.hart agent).pid
  else ((s.parts.find? fun e => e.2.st != .absent && (segIa e.2.seg (64 * line)).isSome).map fun e => e.1).getD 31

/-- A request allocates the line in its home bank, and one of an RDC in the RDC's bank too (R391). -/
def State.allocFor (s : State) (agent line home : Nat) : State :=
  let p := s.allocator agent line
  let t := s.allocIn (homeOf line home) p
  if 128 ≤ agent ∧ agent < 136 then t.allocIn (768 + 32 * (agent - 128) + Config.rdcBank line % 32) p else t

/-- The home performs a request (R387). -/
def State.perform (s : State) (a : Ask) : State :=
  let s := { s with asks := s.asks.filter fun b => b.line != a.line || b.agent != a.agent }.allocFor a.agent a.line a.home
  match a.kind with
  | .shared => s.readShared a.agent a.line
  | .own store => s.readOwn a.agent a.line store
  | .upgrade off bytes => s.readOwn a.agent a.line (some (off, bytes))

/-- The home performs the first request that it holds, one whose agent has answered Conflict (R388). -/
def State.serveOne (s : State) : State :=
  match s.asks.find? fun a => a.conflict with
  | some a => s.perform a
  | none => s
/-- The requests held at their homes are performed before anything that reaches a home later (R388): no turn begins with one. -/
def State.serveHeld (s : State) : State := s.asks.foldl (fun s _ => s.serveOne) s

/-- The request of an agent for a line that is on its way. -/
def State.asked (s : State) (agent line : Nat) : Option Ask := s.asks.find? fun b => b.line == line && b.agent == agent

/-- A request of an agent for a line: it is sent, when none of the agent for the line is on its way; or it reaches the home, which performs it. -/
def State.ask (s : State) (ok served : Bool) (a : Ask) : Res :=
  if !lineOk a.line then .fault (.noMemory a.line)
  else .next (
    if !ok || !s.agentOk a.agent a.line then s
    else match s.asked a.agent a.line, served with
      | none, true => s.perform a
      | none, false => { s with asks := s.asks ++ [a] }
      | some b, true => if b.kind = a.kind then s.perform a else s
      | some _, false => s)

/-- READ_SHARED (R387). -/
def execEvReadShared (agent : Nat) (ask : LineAsk) (s : State) : Res :=
  s.ask (trackedAgent agent) ask.served ⟨ask.line, agent, .shared, ask.home, false⟩

/-- A store inside its line. -/
def storeFits (store : Option (Nat × List Byte)) : Bool :=
  match store with
  | some (off, bytes) => off + bytes.length ≤ 64
  | none => true

/-- READ_OWN (R387). -/
def execEvReadOwn (agent : Nat) (ask : LineAsk) (store : Option (Nat × List Byte)) (s : State) : Res :=
  s.ask (ownAgent agent && storeFits store) ask.served ⟨ask.line, agent, .own store, ask.home, false⟩

/-- UPGRADE (R387, R388), with the bytes of the agent's store: an agent that a snoop has left in I is served as a read own. -/
def execEvUpgrade (agent : Nat) (ask : StoreAsk) (s : State) : Res :=
  s.ask (ownAgent agent && storeFits (some (ask.off, ask.bytes))) ask.served ⟨ask.line, agent, .upgrade ask.off ask.bytes, ask.home, false⟩

/-- WRITEBACK (R387): the home stores the data of an M or O holder, which ends in I. -/
def execEvWriteback (agent line : Nat) (s : State) : Res :=
  if !lineOk line then .fault (.noMemory line)
  else .next (
    let d := s.dirOf line
    match d.owner with
    | some (_, .e, _) => s
    | some (a, _, _) => if a = agent then (s.collect line).setDir line { d with owner := none } else s
    | none => s)

/-- CLEAN_EVICT (R387): an E or S holder gives the line up. -/
def execEvCleanEvict (agent line : Nat) (s : State) : Res :=
  if !lineOk line then .fault (.noMemory line)
  else .next (
    let d := s.dirOf line
    let owner := match d.owner with
      | some (a, .e, v) => if a = agent then none else some (a, .e, v)
      | o => o
    s.setDir line ⟨owner, d.sharers.filter fun a => a != agent⟩)

/-- STRONG_STORE_OR_ATOMIC (R387, R391): bytes of one line performed at the home, which allocates it for the partition whose memory it is. -/
def execEvStrongStoreOrAtomic (place : HomeLine) (off : Nat) (bytes : List Byte) (s : State) : Res :=
  if !lineOk place.line then .fault (.noMemory place.line)
  else .next (
    if 64 < off + bytes.length then s
    else (s.homeWrite place.line (addrBytes (64 * place.line + off) bytes)).allocFor 255 place.line place.home)

/-- The hosts' caches in CXL mode are told to invalidate a line whoever holds it (R390, R402). -/
def State.tellAll (s : State) (line : Nat) : State :=
  [0, 1].foldl (fun s p => if mget false s.portCxl p then s.emit (.biSnpInv p line) else s) s

/-- Every request for a line that is on its way has its agent answer Conflict. -/
def State.conflictAll (s : State) (line : Nat) : State := s.asks.foldl (fun s a => s.conflict line a.agent) s

/-- DIRECTORY_ECC_ERROR (R390): every agent is told to invalidate, dirty data discarded, the line poisoned, the event recorded. Requests for the line
that are on their way are held, and performed next (R388). -/
def execEvDirectoryEccError (line : Nat) (s : State) : Res :=
  if !lineOk line then .fault (.noMemory line)
  else .next (((((s.conflictAll line).tellAll line).setDir line DirE.reset).markPoison line).hypEvent (.directory line))

/-- UNCORRECTABLE_ERROR (R389): a line, or a cell-store granule, is poisoned; it is counted (R412). -/
def execEvUncorrectableError (where_ : ErrAt) (s : State) : Res :=
  let t : State := { s with uncorrected := s.uncorrected + 1 }
  match where_ with
  | .line n => if !lineOk n then .fault (.noMemory n) else .next (t.markPoison n)
  | .granule cell g =>
    .next (if Config.cells ≤ cell ∨ 6144 ≤ g then s
      else t.setCell cell { t.cell cell with cpoison := mset false (t.cell cell).cpoison g true })

/-- CORRECTED_ERROR (R389, R412): repaired in place and counted. -/
def execEvCorrectedError (s : State) : Res := .next { s with corrected := s.corrected + 1 }

/-- TABLE_WALK (R369, R373, R378): a translation for an access of a cell. One that faults leaves what the walk did before it; the access that
needs it traps. -/
def execEvTableWalk (cell : Nat) (va : BitVec 64) (need : Need) (kmode : Bool) (s : State) : Res :=
  .next (match s.xlate cell kmode need va with
    | .ok (_, t) => t
    | .error (_, t) => t)

/-- PREFETCHER_ACCESS (R380, R427): a speculative access on behalf of a cell, under the U-mode column (log 33). -/
def execEvPrefetcherAccess (cell : Nat) (va : BitVec 64) (s : State) : Res := .next (s.prefetch cell false va 1)

end Sys2Proof.Machine
end

