-- ==== Sys2Proof/Machine/Control.lean ====
section
/-! DEFINITION. The control instructions of X: the end of its part, system calls, jumps, loops and token FIFOs (R188 to R190, R203 to R208). -/

namespace Sys2Proof.Machine
open Sys2Proof

/-- DONE (R188). -/
def execXDone (g : GuardP) (s : State) : Res := .next (s.xFlow g [] 1 fun s => .ok (s.endEngine .x))

/-- SYS (R189): X stops at it with Sys (0x30) outstanding; the reply moves X on. In K mode it is a request to Belvedere (R360). -/
def execXSys (d a : RegG) (g : GuardP) (s : State) : Res :=
  .next (s.xFlow g [d, a] 1 fun s =>
    let w := s.cx.gr a
    .ok ((s.setCx { s.cx with sysd := d }).raise s.cur.cell s.cur.ctx .x ⟨0x30, 6, 0xFF, 0, w, 0⟩ w d))

/-- EBRK (R190): X stops at it with Break (0x31) outstanding. -/
def execXEbrk (g : GuardP) (s : State) : Res :=
  .next (s.xFlow g [] 1 fun s => .ok (s.raise s.cur.cell s.cur.ctx .x ⟨0x31, 6, 0xFF, 0, 0, 0⟩ 0 0))

/-- BR (R203). -/
def execXBr (pt : RegP) (tm : BrTest) (off : BitVec 17) (s : State) : Res :=
  .next (if brTaken tm (s.cx.pr pt) then s.settle .x (s.jumpTo .x (relTarget (s.slotOf .x) off) none) else s.retire .x 1)

/-- JMP (R204). -/
def execXJmp (imm : BitVec 32) (g : GuardP) (s : State) : Res :=
  .next (s.xFlow g [] 2 fun s => s.jumpTo .x (relTarget (s.slotOf .x) imm) none)

/-- The link value of a call at a slot (R204). -/
def linkValue (p : Slot) : Word := 0x8000000000000000 ||| zext (p + 2)

/-- CALL (R204). -/
def execXCall (imm : BitVec 32) (g : GuardP) (s : State) : Res :=
  .next (s.xFlow g [31] 2 fun s => s.jumpTo .x (relTarget (s.slotOf .x) imm) (some (linkValue (s.slotOf .x))))

/-- A jump to a 64-bit value: an exact target, or a resume point when bit 63 is set (R205). -/
def State.jumpWord (s : State) (w : Word) : Act State :=
  if w.getLsbD 63 then .ok (s.setCx (s.cx.jump .x (w.setWidth 55))) else s.jumpTo .x (w.setWidth 55) none

/-- JMPR (R205). -/
def execXJmpr (a : RegG) (g : GuardP) (s : State) : Res := .next (s.xFlow g [a] 1 fun s => s.jumpWord (s.cx.gr a))
/-- RET (R205). -/
def execXRet (g : GuardP) (s : State) : Res := .next (s.xFlow g [31] 1 fun s => s.jumpWord (s.cx.gr 31))

/-- LOOP (R206). -/
def execXLoop (k : LoopNo) (a : RegG) (imm : BitVec 32) (g : GuardP) (s : State) : Res :=
  .next (s.xFlow g [a] 2 fun s => s.loopSet .x k.toNat (s.cx.gr a) (relTarget (s.slotOf .x) imm))

/-- TKPUT (R208). -/
def execXTkput (f : Fifo) (a : RegG) (g : GuardP) (s : State) : Res := .next (s.xRun g [a] 1 fun s => s.fifoPut f (s.cx.gr a))
/-- TKGET (R208). -/
def execXTkget (d : RegG) (f : Fifo) (g : GuardP) (s : State) : Res :=
  .next (s.xRun g [d] 1 fun s => s.fifoGet .x f fun x w => x.setG d w)

end Sys2Proof.Machine
end

