-- ==== Sys2Proof/Machine/Host.lean ====
section
/-! DEFINITION. Host requests (R399 to R405, R410, R412). -/

namespace Sys2Proof.Machine
open Sys2Proof

/-! The request (R405), from its 64 bytes. -/

def rqOp (r : List Byte) : Nat := bnat r 0 1
def rqF8 (r : List Byte) : Bool := nbits 0 1 (bnat r 1 1) = 1
def rqRid (r : List Byte) : Nat := bnat r 2 2
def rqPasid (r : List Byte) : Nat := nbits 0 20 (bnat r 4 4)
def rqAddr (r : List Byte) : Word := BitVec.ofNat 64 (bnat r 8 8)
def rqHnd (r : List Byte) : Word := BitVec.ofNat 64 (bnat r 16 8)
def rqVal (r : List Byte) : Nat := bnat r 24 8

/-- The zero fields of a request are zero. -/
def rqClean (r : List Byte) : Bool := nbits 1 7 (bnat r 1 1) = 0 && nbits 20 12 (bnat r 4 4) = 0 && bnat r 32 32 = 0
/-- A request that its function does not take: status 1 (R405). -/
def rqBad (f : HostFn) (r : List Byte) : Bool :=
  !rqClean r || match f with
    | .vf _ => rqOp r < 1 || 4 < rqOp r
    | .pf _ => rqOp r ≠ 5

/-- A queue has a request to fetch (R403), after bring-up (R410). -/
def State.fetchable (s : State) (f : HostFn) (qi : Nat) : Bool :=
  let q := (s.fn f).queue qi
  s.fnUp f && qi < 8 && q.on && q.qhead ≠ q.tail && q.busy.isNone

/-- The device reads the entry at QHEAD of the request ring (R403): what the host's memory holds there is the row's operand. -/
def State.fetchReq (s : State) (f : HostFn) (qi : Nat) : State :=
  let q := (s.fn f).queue qi
  s.emit (.fetch (q.qbase + BitVec.ofNat 64 (64 * (q.qhead % 2 ^ q.qlog))))

/-- A request of an operation that its function takes is handled; another one is not this row's. -/
def State.request (s : State) (f : HostFn) (qi : Nat) (req : BitVec 512) (op : Nat) (body : State → List Byte → State) : State :=
  let r := vecBytes req
  if s.fetchable f qi && !rqBad f r && rqOp r = op then body (s.fetchReq f qi) r else s

/-- MALFORMED_REQUEST (R405). -/
def execEvMalformedRequest (fn : HostFn) (qi : Nat) (req : BitVec 512) (s : State) : Res :=
  .next (
    let r := vecBytes req
    if s.fetchable fn qi && rqBad fn r then (s.fetchReq fn qi).complete fn qi (rqRid r) 1 0 else s)

/-- A V entry of the PASID table holds a PASID (R400, R405). -/
def Fn.hasPasid (f : Fn) (p : Nat) : Bool := f.pasids.any fun e => e.2.getLsbD 63 && nbits 0 20 e.2.toNat = p

/-- A request that faults leaves nothing of its walk behind, no A and no D bit (R405). -/
def State.unwalk (s t : State) : State := { s with free := t.free }

/-- The place of a request's address (R405): the partition's stage 1 with U permissions, then the VF's segment; none at a fault. -/
def State.hostLoc (s : State) (f : HostFn) (need : Need) (va : Word) : State × Option Loc :=
  let x := s.fn f
  let pid := x.part.getD 31
  let own := (s.part pid).seg
  let back := fun (t : State) => t.setPart pid { t.part pid with seg := own }
  match (s.setPart pid { s.part pid with seg := x.seg }).translate pid none false need false va with
  | .ok (.entry e _, t) => (back t, some (e.loc va))
  | .ok (.stopped, t) => (s.unwalk t, none)
  | .error (_, t) => (s.unwalk t, none)

/-- A request of a VF under its PASID and with its address (R405): a revoked PASID completes with status 2, a fault, a misaligned or a
poisoned address with status 3 (log 30). -/
def State.vfRequest (s : State) (f : HostFn) (qi : Nat) (need : Need) (size : Nat) (r : List Byte) (body : State → Loc → List Byte → State) : State :=
  let x := s.fn f
  if !x.hasPasid (rqPasid r) then (s.setFn f { x with revoked := min (x.revoked + 1) (2 ^ 64 - 1) }).complete f qi (rqRid r) 2 0
  else if (rqAddr r).toNat % size ≠ 0 then s.complete f qi (rqRid r) 3 0
  else match s.hostLoc f need (rqAddr r) with
    | (t, none) => t.complete f qi (rqRid r) 3 0
    | (t, some l) =>
      let pid := x.part.getD 31
      let m := (t.allocIn (homeBank l) pid).homeRead l.pa size
      if m.2.2 || t.placeStaged pid StageSt.isFailed [(l, size)] then (s.unwalk m.1).complete f qi (rqRid r) 3 0 else body m.1 l m.2.1

/-- A submission whose record, code and table are read under a VF's segment (R400, R405). -/
def State.submitFor (s : State) (pid : Nat) (seg : Segment) (addr : Word) : State × Nat :=
  let own := (s.part pid).seg
  let r := (s.setPart pid { s.part pid with seg := seg }).submit pid addr true
  (r.1.setPart pid { r.1.part pid with seg := own }, r.2)

/-- REQUEST_LAUNCH (R338, R405): status 16 + that of R49. -/
def execEvRequestLaunch (fn : HostFn) (qi : Nat) (req : BitVec 512) (s : State) : Res :=
  .next (s.request fn qi req 1 fun s r => s.vfRequest fn qi .read 1 r fun s _ _ =>
    let j := s.submitFor ((s.fn fn).part.getD 31) (s.fn fn).seg (rqAddr r)
    j.1.complete fn qi (rqRid r) (16 + j.2) 0)

/-- The SRC value of a VF's parcels (R405). -/
def hostSrc : HostFn → Nat
  | .vf n => 0xF800 + n
  | .pf _ => 0xFFFF

/-- REQUEST_PARCEL (R303, R405): the image leaves as a parcel; the request completes with its verdict. -/
def execEvRequestParcel (fn : HostFn) (qi : Nat) (req : BitVec 512) (s : State) : Res :=
  .next (s.request fn qi req 2 fun s r => s.vfRequest fn qi .read 64 r fun s _ bs =>
    let x := s.fn fn
    let pid := x.part.getD 31
    let w := bnat bs 0 4
    let dest := nbits 0 16 w
    let chan := nbits 16 8 w
    match s.refusesFrom pid w with
    | some k => s.complete fn qi (rqRid r) (32 + k) 0
    | none =>
      let seq := mget 0 x.seqs (seqKey dest chan)
      let p := mkParcel (mkHdr seq.toNat false false (rqF8 r) pid (hostSrc fn) (nbits 24 8 w) chan dest) (bs.drop 8)
      let x := x.setQueue qi { x.queue qi with busy := some s.nextFlight }
      (s.setFn fn { x with seqs := mput x.seqs (seqKey dest chan) (seq + 1) }).launchFlight p pid (.host fn qi (BitVec.ofNat 16 (rqRid r))))

/-- REQUEST_RESOLVE (R288, R405): status 0, 3 or 4; a double resolve, or a future without a slot (log 30), gives 5. -/
def execEvRequestResolve (fn : HostFn) (qi : Nat) (req : BitVec 512) (s : State) : Res :=
  .next (s.request fn qi req 3 fun s r => s.vfRequest fn qi .readWrite 16 r fun s l bs =>
    let pid := (s.fn fn).part.getD 31
    let u := Fut.of l (rqAddr r) bs
    let done := fun (s : State) (n : Nat) => s.complete fn qi (rqRid r) n 0
    match s.see pid u (rqHnd r) with
    | .stale => done s 4
    | .dead => done s 5
    | .live x => match fSt u.w0 with
      | 2 => done s 5
      | 3 => done s 3
      | _ => done ((s.putW1 u.loc.pa (rqVal r)).settleFut pid u.die (fSlot u.w0) x u.w0 (rqVal r) 2) 0)

/-- REQUEST_POLL (R405): RESULT is word 0. -/
def execEvRequestPoll (fn : HostFn) (qi : Nat) (req : BitVec 512) (s : State) : Res :=
  .next (s.request fn qi req 4 fun s r => s.vfRequest fn qi .read 16 r fun s _ bs => s.complete fn qi (rqRid r) 0 (bnat bs 0 8))

/-! The re-synchronisation summary (R412; the places of the items inside a record are log 31). -/

def partStNat : PartSt → Nat
  | .absent => 0
  | .running => 1
  | .preempted => 2
  | .failed => 3

/-- A partition's record. -/
def State.partRecord (s : State) (pid : Nat) : List Byte :=
  let p := s.part pid
  let h := (s.fbHeader pid).2
  let n := (s.copies.filter fun c => c.part == pid).length
  leBytes 1 (partStNat p.st) ++ zeros 7 ++ leBytes 4 ((h.map fun h => h.head).getD 0) ++ leBytes 4 ((h.map fun h => h.tail).getD 0)
    ++ leBytes 4 ((h.map fun h => h.held).getD 0) ++ zeros 4 ++ leBytes 8 n ++ leBytes 8 p.netdrop ++ leBytes 8 p.kevents.length
    ++ bslice p.kevents.reverse 0 8 ++ leBytes 8 p.tokenSeq
/-- A cell's record. -/
def State.cellRecord (s : State) (c : Nat) : List Byte :=
  leBytes 4 (s.cell c).tag ++ ([0, 1, 2, 3].map fun i => BitVec.ofNat 8 (s.cstatByte c i))
/-- The summary. -/
def State.summary (s : State) : List Byte :=
  leBytes 8 1 ++ leBytes 8 s.sumSeq ++ leBytes 8 s.time.toNat ++ leBytes 8 s.corrected ++ leBytes 8 s.uncorrected ++ leBytes 8 s.failedLanes
    ++ zeros 16 ++ (List.range 24).flatMap s.partRecord ++ (List.range Config.cells).flatMap s.cellRecord

/-- REQUEST_RESYNC (R405, R412): the summary goes to the host, which may refuse it: a free choice (log 3). -/
def execEvRequestResync (fn : HostFn) (qi : Nat) (req : BitVec 512) (s : State) : Res :=
  .next (s.request fn qi req 5 fun s r =>
    let s := { s with sumSeq := s.sumSeq + 1 }
    if s.pick 2 = 1 then s.took.complete fn qi (rqRid r) 3 0
    else (s.took.emit (.write (rqAddr r) s.summary)).complete fn qi (rqRid r) 0 0)

/-! Registers and windows of a function. -/

/-- NOTIFY_WRITE (R403): the new tail is taken when it lies at most one ring ahead of QHEAD; else it is ignored and counted. -/
def execEvNotifyWrite (fn : HostFn) (qi : Nat) (value : BitVec 32) (s : State) : Res :=
  .next (
    let x := s.fn fn
    let q := x.queue qi
    let t := value.toNat % 65536
    if !s.fnUp fn || 8 ≤ qi then s
    else if !q.on then s
    else if (t + 65536 - q.qhead) % 65536 ≤ 2 ^ q.qlog then s.setFn fn (x.setQueue qi { q with tail := t })
    else s.setFn fn (x.setQueue qi { q with badn := min (q.badn + 1) (2 ^ 32 - 1) }))

/-- A vector is unmasked (R404): a pending message leaves. -/
def State.unmask (s : State) (f : HostFn) (e : Nat) : State :=
  let x := s.fn f
  let r := x.remap e
  let s := s.setFn f (x.setRemap e { r with mask := false, pend := false })
  if r.pend then s.emit (.message r.addr r.data) else s

/-- MSIX_UNMASK (R404). -/
def execEvMsixUnmask (fn : HostFn) (entry : Nat) (s : State) : Res := .next (if s.fnUp fn && entry < 16 then s.unmask fn entry else s)

/-- PASID_REVOKE (R405): the entry's V clears. -/
def execEvPasidRevoke (fn : HostFn) (entry : Nat) (s : State) : Res :=
  .next (
    let x := s.fn fn
    if !s.fnUp fn || 64 ≤ entry then s
    else s.setFn fn { x with pasids := mput x.pasids entry (mget 0 x.pasids entry &&& ~~~0x8000000000000000#64) })

/-- A register of a queue interface written (R8, R403). -/
def QueueI.write (q : QueueI) (off : Nat) (w : Word) : QueueI :=
  match off with
  | 0x00 => { q with qbase := w &&& ~~~63#64 }
  | 0x08 => { q with qlog := nbits 0 8 w.toNat }
  | 0x10 => { q with cbase := w &&& ~~~15#64 }
  | 0x20 => { q with ivec := nbits 0 5 w.toNat }
  | _ => q

/-- A remap entry written (R404): word 0 the address, word 1 the data and MASK. PEND is the device's. -/
def State.writeRemap (s : State) (f : HostFn) (e word : Nat) (w : Word) : State :=
  let x := s.fn f
  let r := x.remap e
  match word with
  | 0 => s.setFn f (x.setRemap e { r with addr := w })
  | 1 =>
    let s := s.setFn f (x.setRemap e { r with data := w.setWidth 32, mask := w.getLsbD 32 })
    if w.getLsbD 32 then s else s.unmask f e
  | _ => s

/-- REGISTER_WRITE (R8). -/
def execEvRegisterWrite (reg : DevReg) (value : BitVec 64) (s : State) : Res :=
  .next (match reg with
    | .hartCsr core num => s.writeHartCsr core num value
    | .queue fn qi off =>
      let x := s.fn fn
      if s.fnUp fn && qi < 8 then s.setFn fn (x.setQueue qi ((x.queue qi).write off value)) else s
    | .remap fn e word => if s.fnUp fn && e < 16 then s.writeRemap fn e word value else s
    | .pasid fn e =>
      let x := s.fn fn
      if s.fnUp fn && e < 64 then s.setFn fn { x with pasids := mput x.pasids e (value &&& 0x80000000000FFFFF) } else s)

/-! Reads of BAR0 (R8, R400, R403, R404, R409 to R411). -/

/-- A register of a queue interface as it reads. -/
def QueueI.read (q : QueueI) (off : Nat) : Word :=
  match off with
  | 0x00 => q.qbase
  | 0x08 => BitVec.ofNat 64 q.qlog
  | 0x10 => q.cbase
  | 0x18 => BitVec.ofNat 64 q.qhead
  | 0x20 => BitVec.ofNat 64 q.ivec
  | 0x28 => BitVec.ofNat 64 q.badn
  | _ => 0

/-- The two words of a remap entry. -/
def Remap.read (r : Remap) (word : Nat) : Word :=
  if word = 0 then r.addr else BitVec.ofNat 64 (r.data.toNat + r.mask.toNat * 2 ^ 32 + r.pend.toNat * 2 ^ 33)

/-- The identity page (R411): its parts one after the other, the rest zero (DESIGN CHOICE, log 65). -/
def State.identBytes (s : State) : List Byte :=
  match s.identity with
  | some p => bslice (p.key ++ p.cert ++ p.log.flatMap vecBytes ++ p.sign) 0 8192
  | none => zeros 8192

/-- The 8 bytes at an offset of BAR0 of a function. -/
def State.bar0 (s : State) (f : HostFn) (off : Nat) : Word :=
  let x := s.fn f
  let o := off / 8 * 8
  if o < 0x800 then (x.queue (o / 0x100)).read (o % 0x100)
  else if o < 0x900 then (x.remap ((o - 0x800) / 16)).read (o % 16)
  else if o < 0xB00 then mget 0 x.pasids ((o - 0x900) / 8)
  else if o = 0xB00 then BitVec.ofNat 64 x.revoked
  else if 0x20000 ≤ o ∧ o < 0x22000 then BitVec.ofNat 64 (bnat s.identBytes (o - 0x20000) 8)
  else match f with
    | .pf _ => if o = 0xB08 then zext s.bstat else if o = 0xB10 then BitVec.ofNat 64 s.plim else 0
    | .vf _ => 0

/-! Windows (R401). -/

/-- The intermediate address of an offset of the window (R401). -/
def windowIa (g : Segment) (off : Nat) : Option Nat :=
  if off < g.hsize then some off else if off < g.hsize + g.lsize then some (0x20000000000 + (off - g.hsize)) else none

/-- The partition and the segment of a window: those of a VF, or those of the partition that a logical device is bound to (R399, R401; log
64). -/
def State.winOf (s : State) (w : HostWin) : Option (Nat × Segment) :=
  match w with
  | .vf n => if s.fnUp (.vf n) then (s.fn (.vf n)).part.map fun p => (p, (s.fn (.vf n)).seg) else none
  | .cxlMem port ld =>
    if s.hostUp && mget false s.portCxl port && ld < 16 then (mfind s.lds (16 * port + ld)).map fun p => (p, (s.part p).seg) else none

/-- n bytes from an offset on, cut at lines; fuel bounds them. -/
def lineRuns : Nat → Nat → Nat → List (Nat × Nat)
  | 0, _, _ => []
  | f + 1, a, n => if n = 0 then [] else let k := min n (64 - a % 64); (a, k) :: lineRuns f (a + k) (n - k)

/-- The places of n bytes of a window from an offset on, line by line: none where it does not reach. -/
def windowPlaces (g : Segment) (off n : Nat) : Option (List (Loc × Nat)) :=
  (lineRuns (n / 64 + 2) off n).foldl
    (fun acc c => acc.bind fun ls => ((windowIa g c.1).bind (stage2 g)).map fun r => ls ++ [(physLoc r.1 r.2, c.2)])
    (some [])

/-- BAR2_ACCESS (R401): relaxed accesses at system scope, of BAR2 of a VF or of the CXL.mem range of a logical device. A store of a whole line
clears its mark, and a read tells of one (R389). -/
def execEvBar2Access (win : HostWin) (off : Nat) (acc : HostAcc) (s : State) : Res :=
  .next (
    let n := match acc with
      | .read len => len
      | .write bytes => bytes.length
    match s.winOf win with
    | none => s
    | some (pid, g) => match windowPlaces g off n with
      | none => s
      | some ls =>
        let s := ls.foldl (fun (s : State) l => s.allocIn (homeBank l.1) pid) s
        match acc with
        | .read _ =>
          let bad := (placeLines ls).any s.poisoned || s.placeStaged pid StageSt.isFailed ls
          ((placeLines ls).foldl State.snoopRead s).emit (.readData win (s.placeBytes ls) bad)
        | .write bytes =>
          (ls.foldl (fun (a : State × List Byte) l => (a.1.homeWrite (l.1.pa / 64) (addrBytes l.1.pa (a.2.take l.2)), a.2.drop l.2)) (s, bytes)).1)

/-- LD_BIND (R399): in CXL mode, at most one logical device per port and partition. -/
def execEvLdBind (port ld part : Nat) (s : State) : Res :=
  .next (
    let other := s.lds.any fun e => e.1 / 16 = port && e.1 ≠ 16 * port + ld && e.2 = part
    if 2 ≤ port ∨ 16 ≤ ld ∨ !mget false s.portCxl port ∨ other then s
    else if part < 24 then { s with lds := mput s.lds (16 * port + ld) part }
    else { s with lds := mdel s.lds (16 * port + ld) })

/-- A port has trained (R410): after step 6, or in recovery. -/
def State.trained (s : State) : Bool := s.hostUp || s.bstat = 0xE1 || s.bstat = 0xE3
/-- A logical device is bound (R399); a request that names none asks nothing of it. -/
def State.ldBound (s : State) (port : Nat) (ld : Option Nat) : Bool :=
  match ld with
  | some l => (mfind s.lds (16 * port + l)).isSome
  | none => true

/-- CONFIGURATION_REQUEST (R399, R400, R410): configuration requests and reads of BSTAT are answered by a trained port, an unbound logical
device answering reads alone; reads of BAR0 by a function of the port that is up; every other request is refused before step 6, in recovery, and
by an unbound logical device. One that is not refused belongs to its own row. -/
def execEvConfigurationRequest (port : Nat) (req : CfgReq) (s : State) : Res :=
  .next (
    if 2 ≤ port ∨ !s.trained then s
    else match req with
      | .config ld write => if write && !s.ldBound port ld then s.emit (.unsupported port) else s.emit (.answered port)
      | .readBstat => s.emit (.bstat port s.bstat)
      | .readBar0 f off =>
        if fnPort f = port ∧ s.fnUp f then s.emit (.bar0 f off (s.bar0 f off))
        else if f = .pf port ∧ off = 0xB08 then s.emit (.bstat port s.bstat)
        else s.emit (.unsupported port)
      | .other ld => if s.hostUp && s.ldBound port ld then s else s.emit (.unsupported port))

end Sys2Proof.Machine
end

