-- ==== Sys2Proof/Machine/Float.lean ====
section
/-! DEFINITION. Exact arithmetic on the floating-point formats, NaN causes, rounding, integers and t30 (R78 to R96, R221). -/

namespace Sys2Proof.Machine
open Sys2Proof

/-- A value: a NaN with its cause and origin code (R85, R86), an infinity, or m · 2^e with a sign. -/
inductive Fl where | nan (cause origin : Nat) | inf (neg : Bool) | fin (neg : Bool) (m : Nat) (e : Int)
  deriving DecidableEq, Repr, Inhabited

/-- A floating-point layout: exponent and fraction bits; modeF marks an FP8 format read in mode F (R88). -/
structure Fmt where
  eb : Nat
  fb : Nat
  modeF : Bool
  deriving DecidableEq, Repr, Inhabited

/-- The layout of a type (R78, R82, R88); f8 is bit 0 of fmode. -/
def fmtOf (t : Ty) (f8 : Bool) : Fmt :=
  match t with
  | .fp8e4 => ⟨4, 3, f8⟩
  | .fp8e5 => ⟨5, 2, f8⟩
  | .fp16 => ⟨5, 10, false⟩
  | .bf16 => ⟨8, 7, false⟩
  | .f64 => ⟨11, 52, false⟩
  | .f32 | .i8 | .i16 | .i32 | .i64 | .n8 | .n16 | .n32 | .n64 | .t30 => ⟨8, 23, false⟩

def Fmt.width (f : Fmt) : Nat := 1 + f.eb + f.fb
/-- The exponent of the last place of a subnormal. -/
def Fmt.low (f : Fmt) : Int := 2 - 2 ^ (f.eb - 1) - f.fb

/-- The origin code that a NaN operand gives (R86). -/
def originOf (f : Fmt) (bits : Nat) : Nat :=
  if 23 ≤ f.fb then (if bits % 256 = 5 then nbits 8 8 bits else bits % 256)
  else if f.fb = 10 then (if bits % 256 = 5 then 0 else bits % 256)
  else if f.fb = 7 then (if bits % 64 = 5 then 0 else bits % 64)
  else 0

/-- The value of a code (R82, R88); a NaN operand reads as the NaN it makes (R86). -/
def Fmt.decode (f : Fmt) (bits : Nat) : Fl :=
  let neg := nbits (f.eb + f.fb) 1 bits = 1
  let x := nbits f.fb f.eb bits
  let frac := nbits 0 f.fb bits
  if f.modeF ∧ bits % 2 ^ f.width = 128 then .nan 5 0
  else if !f.modeF ∧ x = 2 ^ f.eb - 1 then (if frac = 0 then .inf neg else .nan 5 (originOf f bits))
  else if x = 0 then .fin neg frac f.low
  else .fin neg (2 ^ f.fb + frac) (f.low + x - 1)

/-- A NaN as it is written (R85, R86, R88). -/
def Fmt.nan (f : Fmt) (cause origin : Nat) : Nat :=
  if f.modeF then 128
  else (2 ^ f.eb - 1) * 2 ^ f.fb + 2 ^ (f.fb - 1)
    + (if 23 ≤ f.fb then cause % 256 + 256 * (origin % 256) else if f.fb = 10 then cause % 256 else if f.fb = 7 then cause % 64 else 0)

/-- Bits of a number. -/
def bitLen (m : Nat) : Nat := if m = 0 then 0 else m.log2 + 1

/-- k rounded by what is below it: r of 2^d (R84). -/
def roundUnit (rnd : Rnd) (neg : Bool) (k r d : Nat) : Nat :=
  let half := 2 ^ d
  let up := match rnd with
    | .rne | .sat => half < 2 * r || (2 * r = half && k % 2 = 1)
    | .rtz => false
    | .rup => !neg && r ≠ 0
    | .rdn => neg && r ≠ 0
    | .rna => half ≤ 2 * r
  if up then k + 1 else k

/-- m · 2^e in units of 2^q, rounded. -/
def roundAt (rnd : Rnd) (neg : Bool) (m : Nat) (e q : Int) : Nat :=
  if q ≤ e then m * 2 ^ (e - q).toNat
  else let d := (q - e).toNat; roundUnit rnd neg (m / 2 ^ d) (m % 2 ^ d) d

/-- Magnitude codes: the largest finite one, and infinity's. -/
def Fmt.largest (f : Fmt) : Nat := if f.modeF then 2 ^ (f.eb + f.fb) - 1 else (2 ^ f.eb - 1) * 2 ^ f.fb - 1
def Fmt.infinite (f : Fmt) : Nat := (2 ^ f.eb - 1) * 2 ^ f.fb

/-- The code of a magnitude with its sign; a mode-F zero has none (R89). -/
def Fmt.signed (f : Fmt) (neg : Bool) (mag : Nat) : Nat :=
  if f.modeF ∧ mag = 0 then 0 else mag + (if neg then 2 ^ (f.eb + f.fb) else 0)

/-- An overflow or an infinity keeps its infinity under a rounding code (R84). -/
def toInf (rnd : Rnd) (neg : Bool) : Bool :=
  match rnd with
  | .rne | .rna => true
  | .rtz | .sat => false
  | .rup => !neg
  | .rdn => neg

/-- RoundTo (R9, R83, R84, R89). An infinity, which is no overflow, stays one but for saturating-rne and mode F (DEDUCED,
log 46). -/
def Fmt.round (f : Fmt) (rnd : Rnd) (x : Fl) : Nat :=
  match x with
  | .nan c o => f.nan c o
  | .inf neg => f.signed neg (if f.modeF || rnd == .sat then f.largest else f.infinite)
  | .fin neg m e =>
    if m = 0 then f.signed neg 0
    else
      let q := max (e + bitLen m - (f.fb + 1)) f.low
      let mag := (q - f.low).toNat * 2 ^ f.fb + roundAt rnd neg m e q
      if mag ≤ f.largest then f.signed neg mag
      else f.signed neg (if !f.modeF && toInf rnd neg then f.infinite else f.largest)

/-! Exact operations. -/

def Fl.neg : Fl → Fl
  | .nan c o => .nan c o
  | .inf n => .inf !n
  | .fin n m e => .fin (!n) m e
def Fl.isNan : Fl → Bool
  | .nan _ _ => true
  | .inf _ | .fin _ _ _ => false
/-- The signed significand. -/
def signedM (neg : Bool) (m : Nat) : Int := if neg then -(m : Int) else m

/-- a + b (R83, R85). -/
def Fl.add (a b : Fl) : Fl :=
  match a, b with
  | .nan c o, _ => .nan c o
  | _, .nan c o => .nan c o
  | .inf x, .inf y => if x = y then .inf x else .nan 2 0
  | .inf x, .fin _ _ _ => .inf x
  | .fin _ _ _, .inf y => .inf y
  | .fin x m e, .fin y n f =>
    let q := min e f
    let v := signedM x m * 2 ^ (e - q).toNat + signedM y n * 2 ^ (f - q).toNat
    if v = 0 then .fin (x && y) 0 q else .fin (v < 0) v.natAbs q

/-- a × b (R83, R85). -/
def Fl.mul (a b : Fl) : Fl :=
  match a, b with
  | .nan c o, _ => .nan c o
  | _, .nan c o => .nan c o
  | .inf x, .inf y => .inf (x != y)
  | .inf x, .fin y n _ => if n = 0 then .nan 1 0 else .inf (x != y)
  | .fin x m _, .inf y => if m = 0 then .nan 1 0 else .inf (x != y)
  | .fin x m e, .fin y n f => .fin (x != y) (m * n) (e + f)

/-- a × b + c, formed exactly: a NaN of a or b, then the cause of the product, then a NaN of c, then the cause of the sum
(R86, R213; DEDUCED, log 44: a product 0 × ∞ gives cause 1 whatever c holds). -/
def Fl.fma (negProd : Bool) (a b c : Fl) : Fl :=
  let p := a.mul b
  (if negProd then p.neg else p).add c

/-- Values in their order, −0 equal to +0; none when one is a NaN (R86). -/
def Fl.cmp (a b : Fl) : Option Ordering :=
  match a, b with
  | .nan _ _, _ => none
  | _, .nan _ _ => none
  | .inf x, .inf y => some (if x = y then .eq else if x then .lt else .gt)
  | .inf x, .fin _ _ _ => some (if x then .lt else .gt)
  | .fin _ _ _, .inf y => some (if y then .gt else .lt)
  | .fin x m e, .fin y n f =>
    let q := min e f
    some (compare (signedM x m * 2 ^ (e - q).toNat) (signedM y n * 2 ^ (f - q).toNat))

/-- The sign. -/
def Fl.negative : Fl → Bool
  | .nan _ _ => false
  | .inf n => n
  | .fin n _ _ => n

/-- max (R86): +0 above −0. -/
def Fl.max (a b : Fl) : Fl :=
  if a.isNan then a else if b.isNan then b
  else match a.cmp b with
    | some .lt => b
    | some .gt => a
    | some .eq => if a.negative then b else a
    | none => a
/-- min (R86): −0 below +0. -/
def Fl.min (a b : Fl) : Fl :=
  if a.isNan then a else if b.isNan then b
  else match a.cmp b with
    | some .lt => a
    | some .gt => b
    | some .eq => if a.negative then a else b
    | none => a

/-! Integers (R79, R81, R84). -/

/-- Signed types. -/
def tySigned : Ty → Bool
  | .i8 | .i16 | .i32 | .i64 => true
  | .n8 | .n16 | .n32 | .n64 | .fp8e4 | .fp8e5 | .fp16 | .bf16 | .f32 | .f64 | .t30 => false
def tyWidth (t : Ty) : Nat := tyBits t.code
/-- The integer that w bits hold. -/
def intOf (signed : Bool) (w x : Nat) : Int := if signed && 2 ^ (w - 1) ≤ x then (x : Int) - 2 ^ w else x
/-- The low w bits of an integer. -/
def lowBits (w : Nat) (v : Int) : Nat := (v % 2 ^ w).toNat
/-- The range of an integer type. -/
def tyMin (t : Ty) : Int := if tySigned t then -(2 ^ (tyWidth t - 1)) else 0
def tyMax (t : Ty) : Int := if tySigned t then 2 ^ (tyWidth t - 1) - 1 else 2 ^ tyWidth t - 1
def clampTo (lo hi v : Int) : Int := if v < lo then lo else if hi < v then hi else v
/-- The integer indefinite value (R84). -/
def indefinite (t : Ty) : Nat := if tySigned t then 2 ^ (tyWidth t - 1) else 2 ^ tyWidth t - 1

/-- A value rounded to an integer. -/
def Fl.toInt (rnd : Rnd) : Fl → Option Int
  | .nan _ _ => none
  | .inf _ => none
  | .fin neg m e => some (signedM neg (roundAt rnd neg m e 0))

/-- A value into an integer type (R84). -/
def Fl.toType (x : Fl) (rnd : Rnd) (t : Ty) : Nat :=
  match x.toInt rnd with
  | some v =>
    if tyMin t ≤ v ∧ v ≤ tyMax t then lowBits (tyWidth t) v
    else if rnd = .sat then lowBits (tyWidth t) (clampTo (tyMin t) (tyMax t) v) else indefinite t
  | none => match x with
    | .inf neg => if rnd = .sat then lowBits (tyWidth t) (if neg then tyMin t else tyMax t) else indefinite t
    | _ => if rnd = .sat then 0 else indefinite t

/-- An integer as a value. -/
def flInt (v : Int) : Fl := .fin (v < 0) v.natAbs 0

/-! t30 (R92 to R96). -/

def tTag (x : Nat) : Nat := nbits 30 2 x
def tR1 (x : Nat) : Nat := nbits 0 10 x
def tR2 (x : Nat) : Nat := nbits 10 10 x
def tR3 (x : Nat) : Nat := nbits 20 10 x
def tCanon (x : Nat) : Bool := tR2 x ≠ 1023 && tR3 x < 1021
/-- How bad an element is: 0 valid, 1 range-uncertain, 2 invalid (R92, R93). -/
def tRank (x : Nat) : Nat := if !tCanon x then 2 else if tTag x = 0 then 0 else if tTag x = 1 then 1 else 2
/-- The tag of a rank. -/
def rankTag (r : Nat) : Nat := if r = 0 then 0 else if r = 1 then 1 else 3
def tMake (tag r1 r2 r3 : Nat) : Nat := tag * 2 ^ 30 + r3 % 1024 * 2 ^ 20 + r2 % 1024 * 2 ^ 10 + r1 % 1024
/-- An integer in residues, valid (R92, R95). -/
def tOf (v : Int) : Nat := tMake 0 (v % 1024).toNat (v % 1023).toNat (v % 1021).toNat
def tLow : Int := -534775296
def tHigh : Int := 534775295
/-- An operation channel by channel (R93); with a non-canonical operand the residues are the free ones. -/
def tOp (f : Nat → Nat → Nat → Nat) (free a b : Nat) : Nat :=
  let tag := rankTag (max (tRank a) (tRank b))
  if tCanon a && tCanon b then tMake tag (f 1024 (tR1 a) (tR1 b)) (f 1023 (tR2 a) (tR2 b)) (f 1021 (tR3 a) (tR3 b))
  else tag * 2 ^ 30 + free % 2 ^ 30
def tAdd : Nat → Nat → Nat → Nat := tOp fun m a b => (a + b) % m
def tSub : Nat → Nat → Nat → Nat := tOp fun m a b => (a + m - b) % m
def tMul : Nat → Nat → Nat → Nat := tOp fun m a b => a * b % m
def tNeg (free a : Nat) : Nat := tOp (fun m a _ => (m - a) % m) free a a

/-- The integer of an element that passes the tag checks (R96). -/
def tValue (x : Nat) : Int :=
  let t1 := (tR2 x + 1024 * 1023 - tR1 x) % 1023
  let y := tR1 x + 1024 * t1
  let t2 := (tR3 x + 1021 * 1048576 - y) * 851 % 1021
  let u := y + 1047552 * t2
  if 534775296 ≤ u then (u : Int) - 1069550592 else u

/-- The f32 scale product of R96: scaleA × scaleB, rounded to f32. -/
def scaleProd (a b : Nat) : Fl :=
  let f := fmtOf .f32 false
  match (f.decode a).mul (f.decode b) with
  | .nan c o => .nan c o
  | x => f.decode (f.round .rne x)

def tyIsInt (t : Ty) : Bool := t.code < 8

/-- A t30 element into a type (R96); s is the scale of a floating-point destination. A zero times a negative scale is −0
(DESIGN CHOICE, log 45). -/
def tOut (x : Nat) (t : Ty) (f8 : Bool) (s : Fl) (rnd : Rnd) : Nat :=
  if tRank x ≠ 0 then
    if tyIsInt t then (if rnd = .sat then 0 else indefinite t)
    else (fmtOf t f8).nan (if tTag x = 1 then 7 else 8) 0
  else if tyIsInt t then lowBits (tyWidth t) (clampTo (tyMin t) (tyMax t) (tValue x))
  else match s with
    | .nan c o => (fmtOf t f8).nan c o
    | s => (fmtOf t f8).round rnd ((flInt (tValue x)).mul s)

/-- An integer into t30 (R95). -/
def tIn (rnd : Rnd) (v : Int) : Nat :=
  if tLow ≤ v ∧ v ≤ tHigh then tOf v else if rnd = .sat then tOf (clampTo tLow tHigh v) else 0xC0000000
/-- A value into t30 (R95). -/
def Fl.toT30 (x : Fl) (rnd : Rnd) : Nat :=
  match x.toInt rnd, x with
  | some v, _ => tIn rnd v
  | none, .inf neg => if rnd = .sat then tOf (if neg then tLow else tHigh) else 0xC0000000
  | none, _ => if rnd = .sat then tOf 0 else 0xC0000000

/-- Convert (R218): a source element into a destination type. -/
def convert (src dst : Ty) (f8 : Bool) (rnd : Rnd) (x : Nat) : Nat :=
  if src = .t30 then tOut x dst f8 (.fin false 1 0) (if tyIsInt dst then rnd else .rne)
  else if tyIsInt src then
    let v := intOf (tySigned src) (tyWidth src) x
    if dst = .t30 then tIn rnd v
    else if tyIsInt dst then lowBits (tyWidth dst) (if rnd = .sat then clampTo (tyMin dst) (tyMax dst) v else v)
    else (fmtOf dst f8).round rnd (flInt v)
  else
    let v := (fmtOf src f8).decode x
    if dst = .t30 then v.toT30 rnd
    else if tyIsInt dst then v.toType rnd dst
    else (fmtOf dst f8).round rnd v

/-! Functions of R221. -/

/-- The integer square root below 2^n, bit by bit. -/
def isqrt (n x : Nat) : Nat := ((List.range n).reverse).foldl (fun r i => if (r + 2 ^ i) * (r + 2 ^ i) ≤ x then r + 2 ^ i else r) 0

/-- 1 / x (R221). -/
def Fl.recip : Fl → Fl
  | .nan c o => .nan c o
  | .inf n => .fin n 0 0
  | .fin n m e =>
    if m = 0 then .inf n
    else
      let k := bitLen m + 64
      .fin n (2 * (2 ^ k / m) + (if 2 ^ k % m = 0 then 0 else 1)) (-e - k - 1)

/-- 1 / √x (R221). -/
def Fl.rsqrt : Fl → Fl
  | .nan c o => .nan c o
  | .inf n => if n then .nan 4 0 else .fin false 0 0
  | .fin n m e =>
    if m = 0 then .inf n
    else if n then .nan 4 0
    else
      let odd := e % 2 = 1
      let m := if odd then 2 * m else m
      let e := if odd then e - 1 else e
      let k := bitLen m / 2 + 66
      let r := isqrt (k + 2) (2 ^ (2 * k) / m)
      .fin false (2 * r + (if r * r * m = 2 ^ (2 * k) then 0 else 1)) (-(e / 2) - k - 1)

/-- A result that lies between two bounds: their common rounding, or the free significand (log 18). -/
def between (f : Fmt) (free : Nat) (lo hi : Fl) : Nat :=
  if f.round .rne lo = f.round .rne hi then f.round .rne lo else free

/-- Roots of 2 in fixed point of 256 places: bounds of 2^(2^−i), for i from 1 to n. -/
def rootsOf2 : Nat → List (Nat × Nat)
  | 0 => []
  | n + 1 => match rootsOf2 n with
    | [] => [(isqrt 258 (2 * 2 ^ 512), isqrt 258 (2 * 2 ^ 512) + 1)]
    | (a, b) :: t => (isqrt 258 (a * 2 ^ 256), isqrt 258 (b * 2 ^ 256) + 1) :: (a, b) :: t

/-- 2^x (R221): x = n + f with f a fraction of 128 places; the product of the roots of 2 for the bits of f, bounded from both
sides. A result below the smallest subnormal is +0. -/
def exp2To (f : Fmt) (free : Nat) : Fl → Nat
  | .nan c o => f.nan c o
  | .inf n => if n then f.round .rne (.fin false 0 0) else f.round .rne (.inf false)
  | .fin n m e =>
    if m = 0 then f.round .rne (.fin false 1 0)
    else if 12 ≤ e + bitLen m then f.round .rne (if n then .fin false 0 0 else .inf false)
    else if e + bitLen m ≤ -60 then f.round .rne (.fin false 1 0)
    else
      let v : Int := signedM n (if -128 ≤ e then m * 2 ^ (e + 128).toNat else m / 2 ^ (-128 - e).toNat)
      let k := v / 2 ^ 128
      let frac := (v % 2 ^ 128).toNat
      if frac = 0 then (if k < f.low then 0 else f.round .rne (.fin false 1 k))
      else if k < f.low then 0
      else
        let roots := (rootsOf2 128).reverse
        let r := roots.zipIdx.foldl
          (fun (acc : Nat × Nat) c =>
            if frac / 2 ^ (127 - c.2) % 2 = 1 then (acc.1 * c.1.1 / 2 ^ 256, acc.2 * c.1.2 / 2 ^ 256 + 1) else acc)
          (2 ^ 256, 2 ^ 256)
        between f free (.fin false r.1 (k - 256)) (.fin false r.2 (k - 256))

/-- Digits of log2 of z / 2^768 in [1, 2], from below or from above (up = 1). -/
def logDigits (up : Nat) : Nat → Nat → Nat → Nat
  | 0, _, acc => acc
  | n + 1, z, acc =>
    let y := z * z / 2 ^ 768 + up
    if 2 ^ 769 ≤ y then logDigits up n (y / 2 + up) (2 * acc + 1) else logDigits up n y (2 * acc)

/-- log2 x (R221). -/
def log2To (f : Fmt) (free : Nat) : Fl → Nat
  | .nan c o => f.nan c o
  | .inf n => if n then f.nan 4 0 else f.round .rne (.inf false)
  | .fin n m e =>
    if m = 0 then f.round .rne (.inf true)
    else if n then f.nan 4 0
    else
      let len := bitLen m
      let k : Int := e + len - 1
      if m = 2 ^ (len - 1) then f.round .rne (flInt k)
      else
        let z := m * 2 ^ (769 - len)
        let at_ := fun (d : Nat) => let v : Int := k * 2 ^ 320 + d; Fl.fin (v < 0) v.natAbs (-320)
        between f free (at_ (logDigits 0 320 z 0)) (at_ (logDigits 1 320 z 0 + 2))

/-- Major 0x29 on one element (R221): fn 0 to 3. -/
def approx (fn : Nat) (t : Ty) (x : Nat) : Nat :=
  let f := fmtOf t false
  let v := f.decode x
  let free := (Config.transcendental fn (BitVec.ofNat 64 x)).toNat % 2 ^ f.width
  match fn with
  | 0 => f.round .rne v.recip
  | 1 => f.round .rne v.rsqrt
  | 2 => exp2To f free v
  | _ => log2To f free v

end Sys2Proof.Machine
end

