-- ==== Sys2Proof/Machine/Vector.lean ====
section
/-! DEFINITION. The vector instructions of X (R56, R91, R210 to R223). -/

namespace Sys2Proof.Machine
open Sys2Proof

/-! Elements and guards (R56, R210). -/

/-- Element k of width w. -/
def elem (w : Nat) (v : Vec) (k : Nat) : Nat := nbits (w * k) w v.toNat
/-- A vector of elements of width w. -/
def packElems (w : Nat) (l : List Nat) : Vec := BitVec.ofNat 512 (l.foldr (fun x acc => x % 2 ^ w + 2 ^ w * acc) 0)
/-- The governing guard bit of element k. -/
def govern (g : BitVec 16) (w k : Nat) : Bool := g.getLsbD (w * k / 32)
/-- The vector whose enabled elements are f k and whose others are the old ones. -/
def mapElems (w : Nat) (g : BitVec 16) (old : Vec) (f : Nat → Nat) : Vec :=
  packElems w ((List.range (512 / w)).map fun k => if govern g w k then f k else elem w old k)
/-- A lane of 32 bits. -/
def vlane (v : Vec) (i : Nat) : Nat := elem 32 v i

/-- vd under the guard, element by element, from the context and the free value of the instruction (R210). -/
def State.vRun (s : State) (ty : Ty) (d : RegV) (g : GuardP) (f : Ctx → Vec → Nat → Nat) : State :=
  s.xAlways [] 1 fun s =>
    let x := s.cx
    .ok ((s.setCx (x.setV d (mapElems (tyWidth ty) (x.guard g) (x.vr d) (f x (Config.freeBits s.free))))).took)

/-- One arithmetic operation in its three kinds (R213): on integers, values and t30 elements. -/
def arith (ty : Ty) (fi : Int → Int → Int → Int) (ff : Fl → Fl → Fl → Fl) (ft : Nat → Nat → Nat → Nat → Nat) (free : Vec)
    (a b d : Vec) (k : Nat) : Nat :=
  let w := tyWidth ty
  let A := elem w a k
  let B := elem w b k
  let D := elem w d k
  if tyIsInt ty then lowBits w (fi (intOf (tySigned ty) w A) (intOf (tySigned ty) w B) (intOf (tySigned ty) w D))
  else if ty = .t30 then ft (elem 32 free k) A B D
  else
    let f := fmtOf ty false
    f.round .rne (ff (f.decode A) (f.decode B) (f.decode D))

/-- The bits of an element but its sign (R87). -/
def absElem (ty : Ty) (a : Nat) : Nat :=
  let w := tyWidth ty
  if tyIsInt ty then lowBits w (intOf (tySigned ty) w a).natAbs else a % 2 ^ (w - 1)
/-- An element with its sign changed (R87, R93). -/
def negElem (ty : Ty) (free a : Nat) : Nat :=
  let w := tyWidth ty
  if tyIsInt ty then lowBits w (-(a : Int)) else if ty = .t30 then tNeg free a else a ^^^ 2 ^ (w - 1)

/-- VADD (R213). -/
def execXVadd (ty : Ty) (d a b : RegV) (g : GuardP) (s : State) : Res :=
  .next (s.vRun ty d g fun x free k =>
    arith ty (fun A B _ => A + B) (fun A B _ => A.add B) (fun r A B _ => tAdd r A B) free (x.vr a) (x.vr b) (x.vr d) k)
/-- VSUB (R213). -/
def execXVsub (ty : Ty) (d a b : RegV) (g : GuardP) (s : State) : Res :=
  .next (s.vRun ty d g fun x free k =>
    arith ty (fun A B _ => A - B) (fun A B _ => A.add B.neg) (fun r A B _ => tSub r A B) free (x.vr a) (x.vr b) (x.vr d) k)
/-- VMIN (R213). -/
def execXVmin (ty : Ty) (d a b : RegV) (g : GuardP) (s : State) : Res :=
  .next (s.vRun ty d g fun x free k =>
    arith ty (fun A B _ => min A B) (fun A B _ => A.min B) (fun _r A _B _ => A) free (x.vr a) (x.vr b) (x.vr d) k)
/-- VMAX (R213). -/
def execXVmax (ty : Ty) (d a b : RegV) (g : GuardP) (s : State) : Res :=
  .next (s.vRun ty d g fun x free k =>
    arith ty (fun A B _ => max A B) (fun A B _ => A.max B) (fun _r A _B _ => A) free (x.vr a) (x.vr b) (x.vr d) k)
/-- VMUL (R213). -/
def execXVmul (ty : Ty) (d a b : RegV) (g : GuardP) (s : State) : Res :=
  .next (s.vRun ty d g fun x free k =>
    arith ty (fun A B _ => A * B) (fun A B _ => A.mul B) (fun r A B _ => tMul r A B) free (x.vr a) (x.vr b) (x.vr d) k)
/-- VMADD (R213). -/
def execXVmadd (ty : Ty) (d a b : RegV) (g : GuardP) (s : State) : Res :=
  .next (s.vRun ty d g fun x free k =>
    arith ty (fun A B D => A * B + D) (fun A B D => Fl.fma false A B D) (fun r A B D => tAdd r (tMul r A B) D) free (x.vr a) (x.vr b) (x.vr d) k)
/-- VMSUB (R213). -/
def execXVmsub (ty : Ty) (d a b : RegV) (g : GuardP) (s : State) : Res :=
  .next (s.vRun ty d g fun x free k =>
    arith ty (fun A B D => A * B - D) (fun A B D => Fl.fma false A B D.neg) (fun r A B D => tSub r (tMul r A B) D) free (x.vr a) (x.vr b) (x.vr d) k)
/-- VNMADD (R213). -/
def execXVnmadd (ty : Ty) (d a b : RegV) (g : GuardP) (s : State) : Res :=
  .next (s.vRun ty d g fun x free k =>
    arith ty (fun A B D => D - A * B) (fun A B D => Fl.fma true A B D) (fun r A B D => tSub r D (tMul r A B)) free (x.vr a) (x.vr b) (x.vr d) k)
/-- VABS (R213). -/
def execXVabs (ty : Ty) (d a : RegV) (g : GuardP) (s : State) : Res :=
  .next (s.vRun ty d g fun x _ k => absElem ty (elem (tyWidth ty) (x.vr a) k))
/-- VNEG (R213). -/
def execXVneg (ty : Ty) (d a : RegV) (g : GuardP) (s : State) : Res :=
  .next (s.vRun ty d g fun x free k => negElem ty (elem 32 free k) (elem (tyWidth ty) (x.vr a) k))

/-- vd from the raw elements of two vectors (R214). -/
def State.vBits (s : State) (ty : Ty) (d a b : RegV) (g : GuardP) (f : Nat → Nat → Nat) : State :=
  s.vRun ty d g fun x _ k => f (elem (tyWidth ty) (x.vr a) k) (elem (tyWidth ty) (x.vr b) k)

/-- VAND (R214). -/
def execXVand (ty : Ty) (d a b : RegV) (g : GuardP) (s : State) : Res :=
  .next (s.vBits ty d a b g fun a b => a &&& b)
/-- VOR (R214). -/
def execXVor (ty : Ty) (d a b : RegV) (g : GuardP) (s : State) : Res :=
  .next (s.vBits ty d a b g fun a b => a ||| b)
/-- VXOR (R214). -/
def execXVxor (ty : Ty) (d a b : RegV) (g : GuardP) (s : State) : Res :=
  .next (s.vBits ty d a b g fun a b => a ^^^ b)
/-- VSHL (R214). -/
def execXVshl (ty : Ty) (d a b : RegV) (g : GuardP) (s : State) : Res :=
  .next (s.vBits ty d a b g fun a b => a * 2 ^ (b % tyWidth ty))
/-- VSHR (R214). -/
def execXVshr (ty : Ty) (d a b : RegV) (g : GuardP) (s : State) : Res :=
  .next (s.vBits ty d a b g fun a b => a / 2 ^ (b % tyWidth ty))
/-- VSRA (R214). -/
def execXVsra (ty : Ty) (d a b : RegV) (g : GuardP) (s : State) : Res :=
  .next (s.vBits ty d a b g fun a b => lowBits (tyWidth ty) (intOf true (tyWidth ty) a / 2 ^ (b % tyWidth ty)))

/-- The order of two elements, none when one is a NaN (R86, R215). -/
def elemCmp (ty : Ty) (a b : Nat) : Option Ordering :=
  if tyIsInt ty then some (compare (intOf (tySigned ty) (tyWidth ty) a) (intOf (tySigned ty) (tyWidth ty) b))
  else ((fmtOf ty false).decode a).cmp ((fmtOf ty false).decode b)
/-- A condition of vcmp (R215). -/
def vcondHolds (c : VCond) (o : Option Ordering) : Bool :=
  match c with
  | .eq => o == some .eq
  | .ne => o != some .eq
  | .lt => o == some .lt
  | .le => o == some .lt || o == some .eq
  | .gt => o == some .gt
  | .ge => o == some .gt || o == some .eq
  | .un => o == none

/-- The bit that vcmp gives predicate bit i: every element of lane i, or the element that lane i belongs to (R56, R215). -/
def cmpLane (cond : VCond) (ty : Ty) (a b : Vec) (i : Nat) : Bool :=
  let w := tyWidth ty
  let hold := fun (k : Nat) => vcondHolds cond (elemCmp ty (elem w a k) (elem w b k))
  if w = 64 then hold (i / 2) else (List.range (32 / w)).all fun j => hold (i * (32 / w) + j)

/-- VCMP (R215). -/
def execXVcmp (cond : VCond) (ty : Ty) (pd : BitVec 5) (a b : RegV) (g : GuardP) (s : State) : Res :=
  .next (s.xAlways [] 1 fun s =>
    let x := s.cx
    let m := x.guard g
    let old := x.pr (pd.setWidth 7)
    let en := fun (i : Nat) => m.getLsbD (if tyWidth ty = 64 then i / 2 * 2 else i)
    let bits := (List.range 16).map fun i => if en i then cmpLane cond ty (x.vr a) (x.vr b) i else old.getLsbD i
    .ok (s.setCx (x.setP (pd.setWidth 7) (BitVec.ofNat 16 (bits.foldr (fun (b : Bool) n => b.toNat + 2 * n) 0)))))

/-- VSEL (R216): no guard. -/
def execXVsel (ty : Ty) (d : RegV) (k : GuardP) (a b : RegV) (s : State) : Res :=
  .next (s.xAlways [] 1 fun s =>
    let x := s.cx
    .ok (s.setCx (x.setV d (mapElems (tyWidth ty) (x.guard k) (x.vr b) fun i => elem (tyWidth ty) (x.vr a) i))))

/-- VBCST (R217). -/
def execXVbcst (ty : Ty) (d : RegV) (a : RegG) (g : GuardP) (s : State) : Res :=
  .next (s.xAlways [a] 1 fun s =>
    let x := s.cx
    .ok (s.setCx (x.setV d (mapElems (tyWidth ty) (x.guard g) (x.vr d) fun _ => (x.gr a).toNat % 2 ^ tyWidth ty))))
/-- VEXT (R217): a scalar result, so bit 0 of the guard acts. -/
def execXVext (ty : Ty) (d : RegG) (a : RegV) (b : RegG) (g : GuardP) (s : State) : Res :=
  .next (s.xTo g [b] 1 d fun x =>
    let w := tyWidth ty
    BitVec.ofInt 64 (intOf (tySigned ty) w (elem w (x.vr a) ((x.gr b).toNat % (512 / w)))))
/-- VINS (R217). -/
def execXVins (ty : Ty) (d : RegV) (a b : RegG) (g : GuardP) (s : State) : Res :=
  .next (s.xAlways [a, b] 1 fun s =>
    let x := s.cx
    let w := tyWidth ty
    .ok (s.setCx (x.setV d (mapElems w (x.guard g) (x.vr d) fun k =>
      if k = (x.gr b).toNat % (512 / w) then (x.gr a).toNat % 2 ^ w else elem w (x.vr d) k))))
/-- VPERM (R217). -/
def execXVperm (ty : Ty) (d a b : RegV) (g : GuardP) (s : State) : Res :=
  .next (s.vRun ty d g fun x _ k => elem (tyWidth ty) (x.vr a) (elem (tyWidth ty) (x.vr b) k % (512 / tyWidth ty)))

/-- VCVT (R218): slots of the wider width; a narrower result is zero-extended in its slot. -/
def execXVcvt (src dst : Ty) (rnd : Rnd) (d a : RegV) (g : GuardP) (s : State) : Res :=
  .next (s.xAlways [] 1 fun s =>
    let x := s.cx
    let w := max (tyWidth src) (tyWidth dst)
    .ok (s.setCx (x.setV d (mapElems w (x.guard g) (x.vr d) fun k =>
      convert src dst x.fmode rnd (elem w (x.vr a) k % 2 ^ tyWidth src)))))

/-- The int8 of an exact product (R219). -/
def quantise (rnd : Rnd) (v : Fl) : Nat :=
  match v with
  | .nan _ _ => 0
  | .inf n => if n then 128 else 127
  | .fin n m e => lowBits 8 (clampTo (-128) 127 (signedM n (roundAt rnd n m e 0)))

/-- VQNT (R219): byte i of vd from lane i. -/
def execXVqnt (rnd : Rnd) (d a b : RegV) (g : GuardP) (s : State) : Res :=
  .next (s.xAlways [] 1 fun s =>
    let x := s.cx
    let f := fmtOf .f32 false
    let q := fun (i : Nat) => quantise rnd ((f.decode (vlane (x.vr a) i)).mul (f.decode (vlane (x.vr b) i)))
    .ok (s.setCx (x.setV d (packElems 8 ((List.range 64).map fun k =>
      if k < 16 && (x.guard g).getLsbD k then q k else elem 8 (x.vr d) k)))))

/-! Reductions (R91, R220). -/

/-- One level of the tree. -/
def pairUp {α : Type} (f : α → α → α) : List α → List α
  | a :: b :: t => f a b :: pairUp f t
  | l => l
/-- The tree of R91; a vector has at most 2^6 elements. -/
def treeReduce {α : Type} (f : α → α → α) (l : List α) : List α := (List.range 6).foldl (fun l _ => pairUp f l) l
/-- What is left of a tree. -/
def treeTop {α : Type} (d : α) (f : α → α → α) (l : List α) : α := (treeReduce f l).headD d

/-- The integer a masked element enters as. -/
def redIntId (op : RedOp) (ty : Ty) : Int :=
  match op with
  | .max => tyMin ty
  | .min => tyMax ty
  | .sum | .argmax => 0
/-- The value a masked element enters as; mode F has no infinity (R91). -/
def redFlId (op : RedOp) (f : Fmt) : Fl :=
  match op with
  | .max => if f.modeF then f.decode (f.signed true f.largest) else .inf true
  | .min => if f.modeF then f.decode (f.signed false f.largest) else .inf false
  | .sum | .argmax => .fin true 0 0

/-- A sum step rounds; a NaN that the reduction made keeps its cause (R86, R91). -/
def sumStep (f : Fmt) (a b : Fl) : Fl :=
  match a.add b with
  | .nan c o => .nan c o
  | v => f.decode (f.round .rne v)

/-- The index of the greatest element (R91): rank is its order, a NaN greatest; all ones when none is enabled. -/
def argmax (better : Nat → Nat → Bool) : List Nat → Nat
  | [] => 0xFFFFFFFF
  | k :: t => t.foldl (fun best k => if better k best then k else best) k

/-- An element is greater than another; a NaN is greatest (R91). -/
def elemAbove (ty : Ty) (f8 : Bool) (a b : Nat) : Bool :=
  if tyIsInt ty then intOf (tySigned ty) (tyWidth ty) b < intOf (tySigned ty) (tyWidth ty) a
  else
    let x := (fmtOf ty f8).decode a
    let y := (fmtOf ty f8).decode b
    if y.isNan then false else if x.isNan then true else y.cmp x == some .lt

/-- The reduction of sum, max and min (R220): element 0 of the result. -/
def reduce (op : RedOp) (ty : Ty) (f8 : Bool) (g : BitVec 16) (v free : Vec) : Nat :=
  let w := tyWidth ty
  let ks := List.range (512 / w)
  if tyIsInt ty then
    let l := ks.map fun k => if govern g w k then intOf (tySigned ty) w (elem w v k) else redIntId op ty
    lowBits w (match op with
      | .max => treeTop 0 max l
      | .min => treeTop 0 min l
      | .sum | .argmax => treeTop 0 (· + ·) l)
  else if ty = .t30 then treeTop 0 (tAdd (elem 32 free 0)) (ks.map fun k => if govern g w k then elem w v k else 0)
  else
    let f := fmtOf ty f8
    let l := ks.map fun k => if govern g w k then f.decode (elem w v k) else redFlId op f
    match l.find? Fl.isNan with
    | some n => f.round .rne n
    | none => f.round .rne (match op with
      | .max => treeTop (.fin false 0 0) Fl.max l
      | .min => treeTop (.fin false 0 0) Fl.min l
      | .sum | .argmax => treeTop (.fin false 0 0) (sumStep f) l)

/-- VRED (R220): the result is written whatever the guard holds. -/
def execXVred (op : RedOp) (ty : Ty) (d a : RegV) (g : GuardP) (s : State) : Res :=
  .next (s.xAlways [] 1 fun s =>
    let x := s.cx
    let m := x.guard g
    let w := tyWidth ty
    let old := x.vr d
    let put := fun (w : Nat) (f : Nat → Option Nat) => packElems w ((List.range (512 / w)).map fun k => (f k).getD (elem w old k))
    let v := match op with
      | .argmax =>
        let i := argmax (fun k j => elemAbove ty x.fmode (elem w (x.vr a) k) (elem w (x.vr a) j))
          ((List.range (512 / w)).filter fun k => govern m w k)
        put 32 fun k => if k = 0 then some i else if k = 1 ∧ w = 64 then some 0 else none
      | .sum | .max | .min => put w fun k => if k = 0 then some (reduce op ty x.fmode m (x.vr a) (Config.freeBits s.free)) else none
    .ok (s.setCx (x.setV d v)).took)

/-- VRECIP (R221). -/
def execXVrecip (ty : Ty) (d a : RegV) (g : GuardP) (s : State) : Res :=
  .next (s.vRun ty d g fun x _ k => approx 0 ty (elem (tyWidth ty) (x.vr a) k))
/-- VRSQRT (R221). -/
def execXVrsqrt (ty : Ty) (d a : RegV) (g : GuardP) (s : State) : Res :=
  .next (s.vRun ty d g fun x _ k => approx 1 ty (elem (tyWidth ty) (x.vr a) k))
/-- VEXP2 (R221). -/
def execXVexp2 (ty : Ty) (d a : RegV) (g : GuardP) (s : State) : Res :=
  .next (s.vRun ty d g fun x _ k => approx 2 ty (elem (tyWidth ty) (x.vr a) k))
/-- VLOG2 (R221). -/
def execXVlog2 (ty : Ty) (d a : RegV) (g : GuardP) (s : State) : Res :=
  .next (s.vRun ty d g fun x _ k => approx 3 ty (elem (tyWidth ty) (x.vr a) k))

/-! Streams and the cell store (R70, R222, R223). -/

/-- The cell-store granules that the entry at HEAD of a copy-landing stream reads (R68, R106). -/
def Stream.headGranules (t : Stream) : List Nat :=
  let a := groupAt t.desc (t.issued - t.entries.length)
  granules a.addr.toNat a.len

/-- The entry at HEAD leaves a load stream (R68): a copy-landing entry waits for its landed bits and clears them (R106). -/
def State.takeEntry (s : State) (cell ctx : Nat) (st : StreamNo) : Option (Entry × State) :=
  let x := s.ctx cell ctx
  let t := x.stream st
  match t.entries with
  | [] => none
  | e :: rest =>
    let s' := s.setCtx cell ctx (x.setStream st { t with entries := rest, head := t.head + 1 })
    if dKind t.desc = 5 then
      let gs := t.headGranules
      if gs.all fun g => mget false (s.cell cell).landed g then
        some (e, s'.setCell cell { s'.cell cell with landed := gs.foldl (fun m g => mset false m g false) (s'.cell cell).landed })
      else none
    else some (e, s')

/-- The scale a vpop reads: 0 when the stream has none (R222). -/
def scaleBits : ScaleW → Word
  | .word w => zext w
  | .absent | .bad => 0

/-- VPOP (R70, R222). -/
def execXVpop (d : RegV) (st : StreamNo) (a : RegG) (g : GuardP) (s : State) : Res :=
  .next (s.xAlways [a] 1 fun s =>
    let t := s.cx.stream st
    if !t.isLoad then s.illegal
    else match s.takeEntry s.cur.cell s.cur.ctx st with
      | none => .error .stall
      | some (e, u) =>
        if e.poison || e.scale = .bad then s.trap ⟨0x13, 4, 0xFF, 0, zext t.next, 0⟩
        else
          let x := u.cx
          let x := x.setV d (mapElems 32 (x.guard g) (x.vr d) fun k => vlane e.data k)
          .ok (u.setCx (if a = 0 then x else x.setG a (scaleBits e.scale))))

/-- VPUSH (R70, R222). -/
def execXVpush (st : StreamNo) (a : RegV) (g : GuardP) (s : State) : Res :=
  .next (s.xAlways [] 1 fun s =>
    let x := s.cx
    let t := x.stream st
    if !t.isStore then s.illegal
    else if dDepth t.desc ≤ t.fill then .error .stall
    else .ok (s.setCx (x.setStream st { t with entries := t.entries ++ [⟨x.vr a, x.guard g, .absent, false⟩], tail := t.tail + 1 })))

/-- The cell-store offset of vlds and vsts (R223). -/
def cellVec (base : Word) (imm : BitVec 12) : Word := base + sext imm * 64

/-- VLDS (R223). -/
def execXVlds (d : RegV) (a : RegG) (imm : BitVec 12) (g : GuardP) (s : State) : Res :=
  .next (s.xAlways [a] 1 fun s =>
    let off := cellVec (s.cx.gr a) imm
    let m := s.cx.guard g
    match s.storeCheck 1 off 64 64 (m != 0) with
    | .error h => .error h
    | .ok s =>
      let r := s.storeRead s.cur.cell off.toNat 64
      .ok (r.1.setCx (r.1.cx.setV d (mapElems 32 m (r.1.cx.vr d) fun k => vlane (vecOf r.2) k))))

/-- VSTS (R223): the bytes of the enabled lanes. -/
def execXVsts (d : RegV) (a : RegG) (imm : BitVec 12) (g : GuardP) (s : State) : Res :=
  .next (s.xAlways [a] 1 fun s =>
    let off := cellVec (s.cx.gr a) imm
    let m := s.cx.guard g
    match s.storeCheck 2 off 64 64 false with
    | .error h => .error h
    | .ok s =>
      .ok (s.writeGroup s.cur.cell s.cur.ctx true false ⟨[⟨off.toNat, 64, 0, .interleave⟩], none, false, s.now⟩ ⟨s.cx.vr d, m, .absent, false⟩))

end Sys2Proof.Machine
end

