-- ==== Sys2Proof/Machine/Matrix.lean ====
section
/-! DEFINITION. The M engine: its sequencer (R249, R252, R253), the commands it starts (R250, R254), and the matrix unit that runs them
(R255 to R269). -/

namespace Sys2Proof.Machine
open Sys2Proof

/-! The sequencer (R252). -/

/-- M.NOP. -/
def execMNop (s : State) : Res := .next (s.mRun 1 fun s => .ok s)
/-- M.DONE (R249). -/
def execMDone (s : State) : Res := .next (s.mFlow fun s => .ok (s.endEngine .m))
/-- M.SET (R251, R252). -/
def execMSet (fld : Shadow) (c : RegC) (imm : BitVec 11) (s : State) : Res :=
  .next (s.mRun 1 fun s => .ok (s.setCx { s.cx with shadow := setField s.cx.shadow fld (s.cx.cr c + sext imm).toNat }))
/-- M.ADD. -/
def execMAdd (d a b : RegC) (s : State) : Res := .next (s.mTo 1 d fun x => x.cr a + x.cr b)
/-- M.SUB. -/
def execMSub (d a b : RegC) (s : State) : Res := .next (s.mTo 1 d fun x => x.cr a - x.cr b)
/-- M.MOV. -/
def execMMov (d a : RegC) (s : State) : Res := .next (s.mTo 1 d fun x => x.cr a)
/-- M.ADDI. -/
def execMAddi (d a : RegC) (imm : BitVec 12) (s : State) : Res := .next (s.mTo 1 d fun x => x.cr a + sext imm)
/-- M.LIM. -/
def execMLim (d : RegC) (imm : BitVec 32) (s : State) : Res := .next (s.mTo 2 d fun _ => sext imm)
/-- M.BR. -/
def execMBr (c : RegC) (tm : Bool) (off : BitVec 17) (s : State) : Res :=
  .next (if !s.holdsClaim then s
    else if (s.cx.cr c == 0) == tm then s.settle .m (s.jumpTo .m (relTarget (s.slotOf .m) off) none) else s.retire .m 1)
/-- M.LOOP (R206, R207). -/
def execMLoop (k : LoopNo) (a : RegC) (imm : BitVec 32) (s : State) : Res :=
  .next (s.mFlow fun s => s.loopSet .m k.toNat (s.cx.cr a) (relTarget (s.slotOf .m) imm))
/-- M.TKPUT. -/
def execMTkput (f : Fifo) (a : RegC) (s : State) : Res := .next (s.mRun 1 fun s => s.fifoPut f (s.cx.cr a))
/-- M.TKGET. -/
def execMTkget (d : RegC) (f : Fifo) (s : State) : Res := .next (s.mRun 1 fun s => s.fifoGet .m f fun x w => x.setC d w)

/-- M.WAIT (R253, R269). -/
def execMWait (d a : RegC) (s : State) : Res :=
  .next (s.mRun 1 fun s =>
    let m := s.cl.mu
    if m.pipeL.isSome || m.pipeC.isSome || m.rrc.ult (s.cx.cr a) then .error .stall
    else if s.cx.mpoison then (s.setCx { s.cx with mpoison := false }).trap (whyOf 0x13 6 0)
    else .ok (s.setCx (s.cx.setC d m.rrc)))

/-! The checks of a command (R254, R267). -/

/-- A shadow set, read by field. -/
abbrev Fields := SMap (BitVec 16)
def fMask (f : Fields) : Nat := nbits 0 2 (fieldOf f .bSet)
def fFlip (f : Fields) : Bool := nbits 2 1 (fieldOf f .bSet) = 1
def fTrans (f : Fields) : Bool := nbits 3 1 (fieldOf f .bSet) = 1
def fInt4 (f : Fields) : Bool := nbits 4 1 (fieldOf f .bSet) = 1
def fK (f : Fields) : Nat := nbits 0 3 (fieldOf f .sliceK)
def fOty (f : Fields) : Nat := nbits 0 4 (fieldOf f .scaleMode)
def fRnd (f : Fields) : Nat := nbits 4 3 (fieldOf f .scaleMode)
def fSrc (f : Fields) : Nat := nbits 7 2 (fieldOf f .scaleMode)
/-- The span S in elements (R254). -/
def fSpan (f : Fields) : Nat := let n := nbits 3 13 (fieldOf f .sliceK); if n = 0 then 64 else 64 * ceilDiv n 64
/-- Columns of an A row in its stream (R254). -/
def fACols (f : Fields) : Nat := if fInt4 f then ceilDiv (fieldOf f .shapeK) 2 else fieldOf f .shapeK

/-- The checks that need neither streams nor the patch (R251, R254, R267). -/
def cmdStatic (f : Fields) : Bool :=
  let m := fieldOf f .shapeM
  let k := fieldOf f .shapeK
  let n := fieldOf f .shapeN
  let base := fieldOf f .accBase
  let mOk := 1 ≤ m && m ≤ 128
  let kOk := 1 ≤ k && k ≤ 128
  let rows := base + m ≤ 128
  let str := fieldOf f .aStream ≤ 15
  let scaleOk := nbits 9 7 (fieldOf f .scaleMode) = 0 && fSrc f ≠ 3
  fieldOf f .tl ≤ 4 && match fieldOf f .op with
    | 1 => fMask f ≠ 0 && kOk && str && (!fTrans f || (1 ≤ n && n ≤ 64))
    | 2 => fMask f ≠ 0 && mOk && kOk && 1 ≤ n && n ≤ (if fMask f = 3 then 128 else 64) && rows && scaleOk && fieldOf f .aStream ≤ 16
    | 3 => mOk && rows
    | 4 => mOk && 1 ≤ n && n ≤ 128 && scaleOk && fOty f ≠ 15 && fRnd f ≤ 5 && ((fK f = 0) == (fSrc f ≠ 2))
        && base + max (fK f) 1 * m ≤ 128
    | 5 => mOk && str && 1 ≤ k && fK f ≠ 0
    | 6 => mOk && kOk && str
    | 7 => mOk && 1 ≤ n && n ≤ 128 && rows
    | _ => false

/-- A stream open with a load kind, a format and a row length (R254). -/
def Ctx.loadsFrom (x : Ctx) (n : Nat) (fmts : List Nat) (cols : Nat) : Bool :=
  let t := x.stream (BitVec.ofNat 4 n)
  t.isLoad && fmts.contains (dFmt t.desc) && dCols t.desc == cols
/-- A stream open with a store kind, a format and a row length. -/
def Ctx.storesTo (x : Ctx) (n fmt cols : Nat) : Bool :=
  let t := x.stream (BitVec.ofNat 4 n)
  t.isStore && dFmt t.desc == fmt && dCols t.desc == cols

/-- The fields of a patch are in their ranges (R251). -/
def patchFields (f : Fields) : Bool :=
  1 ≤ fieldOf f .patchW && fieldOf f .patchW ≤ 64 && 1 ≤ fieldOf f .patchH && fieldOf f .patchH ≤ 24
    && fieldOf f .patchRow < fieldOf f .patchH && fieldOf f .patchCol < fieldOf f .patchW

/-- The origin of a command's patch, in columns and rows of the grid, when it is valid (R251, R257). -/
def State.patchOf (s : State) (cell : Nat) (f : Fields) : Option (Nat × Nat) :=
  let k := s.cell cell
  let p := s.part k.tag
  let x := k.lcell.toNat % p.gridW
  let y := k.lcell.toNat / p.gridW
  let r := fieldOf f .patchRow
  let c := fieldOf f .patchCol
  if patchFields f && c ≤ x && r ≤ y && p.rectOk (x - c) (y - r) (fieldOf f .patchW) (fieldOf f .patchH)
    then some (x - c, y - r) else none

/-- All the checks of R254, for a command of a context. -/
def State.cmdOk (s : State) (cell ctx : Nat) (f : Fields) : Bool :=
  let x := s.ctx cell ctx
  let a := fieldOf f .aStream
  let k := fieldOf f .shapeK
  let patch := (s.patchOf cell f).isSome
  cmdStatic f && match fieldOf f .op with
    | 1 => x.loadsFrom a [0] (if fTrans f then k else 64)
    | 2 => a = 16 || x.loadsFrom a [0] (fACols f)
    | 4 => x.storesTo (fieldOf f .outStream) (fOty f) (fieldOf f .shapeN)
    | 5 => x.loadsFrom a [8, 9, 10, 11, 12, 13] k && x.storesTo (fieldOf f .outStream) 0 (min (fSpan f) k)
    | 6 => x.loadsFrom a [0] (fACols f) && patch
    | 7 => patch
    | _ => true

/-! Pipes (R250, R265). -/

def Matrix.pipe (m : Matrix) : Pipe → Option Cmd
  | .l => m.pipeL
  | .c => m.pipeC
def Matrix.setPipe (m : Matrix) (p : Pipe) (c : Option Cmd) : Matrix :=
  match p with
  | .l => { m with pipeL := c }
  | .c => { m with pipeC := c }
def State.mu (s : State) (cell : Nat) : Matrix := (s.cell cell).mu
def State.setMu (s : State) (cell : Nat) (m : Matrix) : State := s.setCell cell { s.cell cell with mu := m }

/-- The pipe of a command (R250). A reserved op, which no pipe runs, waits for pipe C before its check refuses it (DESIGN CHOICE, log 71). -/
def pipeFor (op : Nat) : Pipe := if op = 1 ∨ op = 6 then .l else .c

/-- A command is an m.cimld; it has a flip to start. -/
def isLoadCmd (c : Option Cmd) : Bool := match c with
  | some c => c.fld .op == 1
  | none => false
def flipPending (c : Option Cmd) : Bool := match c with
  | some c => c.flipWait
  | none => false

/-- A checked command of a context enters its free pipe and takes its ticket (R250, R254, R265). -/
def State.enterPipe (s : State) (cell ctx : Nat) (f : Fields) : State :=
  let op := fieldOf f .op
  let x := s.ctx cell ctx
  let m := s.mu cell
  let flip := op = 2 && fFlip f
  let tl := fieldOf f .tl
  let i := s.issuer cell ctx .m
  let (s, k) := if tl = 0 then (s, 0) else s.takeTicket cell ctx (tl - 1)
  let c : Cmd := {
    fields := f, issuer := i, fmode := x.fmode, ticket := k, fmt := dFmt (x.stream (BitVec.ofNat 4 (fieldOf f .aStream))).desc
    flipWait := flip, waitO := if op = 1 then flipPending m.pipeC else flip && isLoadCmd m.pipeL
    rows := 0, buf := [], hist := [], outQ := [], poison := false }
  s.setMu cell ((s.mu cell).setPipe (pipeFor op) (some c))

/-- A starting instruction (R254). -/
def State.startOp (s : State) (f : Fields) : Act State :=
  if (s.cl.mu.pipe (pipeFor (fieldOf f .op))).isSome then .error .stall
  else if s.cmdOk s.cur.cell s.cur.ctx f then .ok (s.enterPipe s.cur.cell s.cur.ctx f)
  else s.illegal

/-- A named command: the shadow set with its op. -/
def State.startNamed (s : State) (op : Nat) : State := s.mRun 1 fun s => s.startOp (setField s.cx.shadow .op op)

/-- M.GO (R254). -/
def execMGo (s : State) : Res := .next (s.mRun 1 fun s => s.startOp s.cx.shadow)
/-- M.CIMLD (R254, R255). -/
def execMCimld (s : State) : Res := .next (s.startNamed 1)
/-- M.MMA (R254, R256). -/
def execMMma (s : State) : Res := .next (s.startNamed 2)
/-- M.ACLR (R254, R261). -/
def execMAclr (s : State) : Res := .next (s.startNamed 3)
/-- M.CVT (R254, R262). -/
def execMCvt (s : State) : Res := .next (s.startNamed 4)
/-- M.SLICE (R254, R264). -/
def execMSlice (s : State) : Res := .next (s.startNamed 5)
/-- M.BCAST (R254, R258). -/
def execMBcast (s : State) : Res := .next (s.startNamed 6)
/-- M.RED (R254, R259). -/
def execMRed (s : State) : Res := .next (s.startNamed 7)

/-! Rows. -/

/-- Macros of a command, in order (R255). -/
def macros (f : Fields) : List Nat := [0, 1].filter fun k => nbits k 1 (fMask f) = 1
/-- Rows that m.cimld pops for each macro (R255). -/
def loadRows (f : Fields) : Nat := if fTrans f then fieldOf f .shapeN else fieldOf f .shapeK

/-- Entries of one operand row (R243). -/
def Cmd.rowEntries (c : Cmd) : Nat :=
  let f := c.fields
  match fieldOf f .op with
  | 1 => if fTrans f then ceilDiv (fieldOf f .shapeK) 64 else 1
  | 2 | 6 => ceilDiv (fACols f) 64
  | 5 => ceilDiv (fieldOf f .shapeK * tyBits c.fmt / 8) 64
  | _ => 1

/-- The logical number of the owner of an m.red (R259). -/
def State.redOwner (s : State) (cell : Nat) (f : Fields) : Nat :=
  match s.patchOf cell f with
  | some (x0, y0) => (y0 + fieldOf f .shapeK % fieldOf f .patchH) * (s.part (s.cell cell).tag).gridW + x0 + fieldOf f .patchCol
  | none => (s.cell cell).lcell.toNat

/-- Rows that a command has to process: those it pops, converts, clears or sends; for m.slice the digit rows (R255 to R264). -/
def State.cmdRows (s : State) (cell : Nat) (c : Cmd) : Nat :=
  let f := c.fields
  match fieldOf f .op with
  | 1 => loadRows f * (macros f).length
  | 5 => fK f * fieldOf f .shapeM
  | 7 => if s.redOwner cell f = (s.cell cell).lcell.toNat then 0 else fieldOf f .shapeM
  | _ => fieldOf f .shapeM

/-- A row of entries: its bytes, the scale word of its first entry, and whether an entry carries poison (R69, R269). -/
def rowOf (es : List Entry) : BRow :=
  ⟨es.flatMap fun e => vecBytes e.data, (es.head?.map fun e => e.scale).getD .absent, es.any fun e => e.poison || e.scale == .bad⟩

/-- A present scale word. -/
def scaleWord : ScaleW → Option (BitVec 32)
  | .word w => some w
  | .absent | .bad => none
/-- A scale word entered in a map, or made absent there. -/
def putScale (m : SMap (BitVec 32)) (k : Nat) (w : Option (BitVec 32)) : SMap (BitVec 32) :=
  match w with
  | some w => mput m k w
  | none => mdel m k

/-- The next entry of a command's operand row: the state, the command, and the row when it is whole. -/
def State.gather (s : State) (cell : Nat) (c : Cmd) : State × Cmd × Option BRow :=
  let st := BitVec.ofNat 4 (c.fld .aStream)
  if !((s.ctx cell c.issuer.ctx).stream st).isLoad then (s, c, none)
  else match s.takeEntry cell c.issuer.ctx st with
    | none => (s, c, none)
    | some (e, s) =>
      let buf := c.buf ++ [e]
      if buf.length < c.rowEntries then (s, { c with buf := buf }, none) else (s, { c with buf := [] }, some (rowOf buf))

/-- A poisoned input of a command is recorded (R253, R269). -/
def State.notePoison (s : State) (c : Cmd) (bad : Bool) : State × Cmd :=
  if !bad then (s, c)
  else
    let x := s.ctx c.issuer.cell c.issuer.ctx
    let s := if x.inv = c.issuer.inv then s.setCtx c.issuer.cell c.issuer.ctx { x with mpoison := true } else s
    (s, { c with poison := true })

/-! Planes (R248, R255). -/

def planeAt (k p row n : Nat) : Nat := 16384 * k + 8192 * p + 64 * row + n
def Matrix.apn (m : Matrix) : Nat := if m.apl then 1 else 0

/-- A plane emptied for a load. -/
def Matrix.clearPlane (m : Matrix) (k p : Nat) : Matrix :=
  let out := fun (lo n : Nat) (a : Nat) => !(lo ≤ a && a < lo + n)
  { m with
    planes := m.planes.filter fun e => out (planeAt k p 0 0) 8192 e.1
    cs := m.cs.filter fun e => out (64 * planeKey k p) 64 e.1
    pz := mset false m.pz (planeKey k p) false }

/-- A row of m.cimld enters its shadow plane (R255). -/
def Matrix.loadRow (m : Matrix) (c : Cmd) (r : BRow) : Matrix :=
  let f := c.fields
  let per := loadRows f
  let k := (macros f).getD (c.rows / per) 0
  let i := c.rows % per
  let p := 1 - m.apn
  let m := if i = 0 then m.clearPlane k p else m
  let m := { m with pz := if r.poison then mset false m.pz (planeKey k p) true else m.pz }
  if fTrans f then
    { m with
      planes := (List.range (fieldOf f .shapeK)).foldl (fun a j => mset 0 a (planeAt k p j i) (r.bytes.getD j 0)) m.planes
      cs := putScale m.cs (64 * planeKey k p + i) (scaleWord r.scale) }
  else
    { m with
      planes := (List.range 64).foldl (fun a n => mset 0 a (planeAt k p i n) (r.bytes.getD n 0)) m.planes
      cs := if i = 0 then (List.range 64).foldl (fun a n => putScale a (64 * planeKey k p + n) (scaleWord r.scale)) m.cs else m.cs }

/-! Products (R94, R256). -/

/-- The macro and the plane column of a product column. -/
def columnOf (f : Fields) (n : Nat) : Nat × Nat := if fMask f = 2 then (1, n) else (n / 64, n % 64)

/-- The bound above which a block's elements become range-uncertain (R94). -/
def boundLimit : Nat := 534775295

/-- The bound of a block rises (R94). -/
def Matrix.raiseBound (m : Matrix) (b amount : Nat) : Matrix :=
  let n := mget 0 m.bnd b + amount
  let m := { m with bnd := mset 0 m.bnd b n }
  if n ≤ boundLimit then m
  else
    let acc := (List.range 2048).foldl
      (fun a i => let w := mget 0 a (2048 * b + i); if tRank w.toNat = 0 then mset 0 a (2048 * b + i) (w ||| 0x40000000) else a) m.acc
    { m with acc := acc }

/-- The elements of an A row (R256): bytes that a row does not hold are free values (log 3). -/
def rowElem (free : Nat) (f : Fields) (r : BRow) (k : Nat) : Int :=
  let i := if fInt4 f then k / 2 else k
  let b := match r.bytes[i]? with
    | some b => b
    | none => (Config.freeBits (free + i)).setWidth 8
  if fInt4 f then ((b >>> (4 * (k % 2))).setWidth 4).toInt else b.toInt

/-- A column of a product reads a poisoned plane: a poisoned input of the command (R256, R269). -/
def Matrix.badPlane (m : Matrix) (f : Fields) : Bool :=
  (List.range (fieldOf f .shapeN)).any fun n => mget false m.pz (planeKey (columnOf f n).1 m.apn)

/-- One row of m.mma (R256). -/
def Matrix.mmaRow (m : Matrix) (free : Nat) (c : Cmd) (r : BRow) : Matrix :=
  let f := c.fields
  let row := fieldOf f .accBase + c.rows
  let p := m.apn
  let elems := (List.range (fieldOf f .shapeK)).map (rowElem free f r)
  let acc := (List.range (fieldOf f .shapeN)).foldl
    (fun a n =>
      let (k, col) := columnOf f n
      let sum := (elems.mapIdx fun j v => v * (mget 0 m.planes (planeAt k p j col)).toInt).foldl (· + ·) 0
      let w := BitVec.ofNat 32 (tAdd (Config.freeBits free).toNat (mget 0 a (128 * row + n)).toNat (tOf sum))
      mset 0 a (128 * row + n) (if r.poison || mget false m.pz (planeKey k p) then tagBad w else w)) m.acc
  let m := { m with acc := acc, rs := putScale m.rs row (scaleWord r.scale) }
  if c.rows = 0 ∨ row % 16 = 0 then
    let b := row / 16
    let t := if fSrc f = 2 then 127 * 127 else (if fInt4 f then 8 else 128) * 128
    let acs := (List.range (fieldOf f .shapeN)).foldl
      (fun a n => putScale a (128 * b + n) (mfind m.cs (64 * planeKey (columnOf f n).1 p + (columnOf f n).2))) m.acs
    { m with acs := acs }.raiseBound b (fieldOf f .shapeK * t)
  else m

/-- M.ACLR's effect (R94, R261). -/
def Matrix.clearBlocks (m : Matrix) (base n : Nat) : Matrix :=
  let b0 := base / 16
  let b1 := (base + n - 1) / 16
  let out := fun (w : Nat) (a : Nat) => !(b0 * w ≤ a && a < (b1 + 1) * w)
  { m with
    acc := m.acc.filter fun e => out 2048 e.1
    rs := m.rs.filter fun e => out 16 e.1
    acs := m.acs.filter fun e => out 128 e.1
    bnd := m.bnd.filter fun e => out 1 e.1 }

/-! Conversion (R96, R99, R262, R263). -/

/-- The E + 1 of an exponent word, and its mark (R248, R263). -/
def expOf (w : Option (BitVec 32)) : Int := (w.map fun w => (w.setWidth 16).toInt).getD 0
def markOf (w : Option (BitVec 32)) : Nat := (w.map fun w => nbits 30 2 w.toNat).getD 0
/-- A float destination of a t30 element's value, an integer or t30 (R95, R99). -/
def Fl.into (x : Fl) (t : Ty) (f8 : Bool) (rnd : Rnd) : Nat :=
  if t = .t30 then x.toT30 rnd else if tyIsInt t then x.toType rnd t else (fmtOf t f8).round rnd x

/-- An f32 scale word as a code: 1.0 when it is absent (R248). -/
def scaleCode (w : Option (BitVec 32)) : Nat := (w.map fun w => w.toNat).getD 0x3F800000

/-- The weighted sum of R99, in units of 2^(-7 (k + 1)). -/
def weigh (k : Nat) (ws : List Nat) : Int :=
  (ws.mapIdx fun i w => tValue w * 2 ^ (7 * (k - 1 - i))).foldl (· + ·) 0

/-- Element n of row r of m.cvt (R262). The cause-5 NaN of a marked exponent word carries origin 0 (DESIGN CHOICE, log 47). -/
def Matrix.cvtElem (m : Matrix) (c : Cmd) (r n : Nat) : Nat :=
  let f := c.fields
  let base := fieldOf f .accBase
  let t := (Ty.ofCode (fOty f)).getD .t30
  let rnd := (Rnd.ofCode (fRnd f)).getD .rne
  let at_ := fun (row : Nat) => (mget 0 m.acc (128 * row + n)).toNat
  let wa := mfind m.rs (base + r)
  let wb := mfind m.acs (128 * ((base + r) / 16) + n)
  if fK f = 0 then
    if t = .t30 then at_ (base + r)
    else
      let s := if fSrc f = 0 then Fl.fin false 1 0 else scaleProd (scaleCode wa) (scaleCode wb)
      tOut (at_ (base + r)) t c.fmode s rnd
  else
    let ws := (List.range (fK f)).map fun i => at_ (base + i * fieldOf f .shapeM + r)
    match ws.find? fun w => tRank w ≠ 0 with
    | some w => Fl.into (.nan (if tTag w = 1 then 7 else 8) 0) t c.fmode rnd
    | none =>
      let ma := markOf wa
      let mb := markOf wb
      let v := weigh (fK f) ws
      let x := if ma % 2 = 1 ∨ mb % 2 = 1 then Fl.nan 5 0
        else if ma = 2 ∨ mb = 2 then .nan 6 0
        else .fin (v < 0) v.natAbs (expOf wa + expOf wb - 7 * (fK f + 1))
      x.into t c.fmode rnd

/-- The entries of an output row's bytes (R243, R262). -/
def chunk : Nat → List Byte → List (List Byte)
  | 0, _ => []
  | n + 1, b => b.take 64 :: chunk n (b.drop 64)
def rowChunks (b : List Byte) : List (List Byte) := chunk (ceilDiv b.length 64) b

/-- The entries of row r of m.cvt. -/
def Matrix.cvtRow (m : Matrix) (c : Cmd) (r : Nat) : List Entry :=
  let w := tyBits (fOty c.fields) / 8
  let sc := match mfind m.rs (fieldOf c.fields .accBase + r) with
    | some w => ScaleW.word w
    | none => .absent
  (rowChunks ((List.range (fieldOf c.fields .shapeN)).flatMap fun n => leBytes w (m.cvtElem c r n))).map fun b => Entry.ofBytes b sc false

/-! Slicing (R97, R100, R263, R264). -/

/-- Digits of a source format (R97). -/
def digitsOf : Nat → Nat
  | 13 => 7
  | 12 => 4
  | 10 | 11 => 2
  | 8 | 9 => 1
  | _ => 0

/-- Exponent(x) of a value that is not zero (R97). -/
def Fl.exponent : Fl → Option Int
  | .fin _ m e => if m = 0 then none else some (e + bitLen m - 1)
  | .nan _ _ => none
  | .inf _ => none
/-- The exponent E of a piece (R97). -/
def pieceExp (xs : List Fl) : Int :=
  match xs.filterMap Fl.exponent with
  | [] => 0
  | a :: t => t.foldl max a
/-- Digit i of a value under exponent E (R97). -/
def digit (e : Int) (i : Nat) : Fl → Int
  | .fin neg m x =>
    let sh := x - (e + 1) + 7 * i
    let q := if 0 ≤ sh then m * 2 ^ sh.toNat else m / 2 ^ (-sh).toNat
    signedM neg (q % 128)
  | .nan _ _ => 0
  | .inf _ => 0
def Fl.isInf : Fl → Bool
  | .inf _ => true
  | .nan _ _ => false
  | .fin _ _ _ => false
/-- The exponent word of a piece (R263). -/
def expWord (xs : List Fl) (poison : Bool) : BitVec 32 :=
  let mark := if poison || xs.any Fl.isNan then 1 else if xs.any Fl.isInf then 2 else 0
  BitVec.ofNat 32 (mark * 2 ^ 30) ||| (BitVec.ofInt 16 (pieceExp xs + 1)).setWidth 32

/-- The values of a source row. -/
def rowValues (t f8 : Nat) (n : Nat) (r : BRow) : List Fl :=
  let w := tyBits t / 8
  match Ty.ofCode t with
  | some ty => (List.range n).map fun i => (fmtOf ty (f8 = 1)).decode (bnat r.bytes (w * i) w)
  | none => []

/-- The entries that the digits of weight i of a row give (R264). -/
def digitRow (c : Cmd) (i : Nat) (r : BRow) : List Entry :=
  let f := c.fields
  let k := fieldOf f .shapeK
  let span := fSpan f
  let len := min span k
  let vs := rowValues c.fmt c.fmode.toNat k r
  (List.range (ceilDiv k span)).flatMap fun j =>
    let piece := (vs.drop (span * j)).take span
    let e := pieceExp piece
    let ds := piece.map fun x => BitVec.ofInt 8 (if digitsOf c.fmt < i then 0 else digit e i x)
    let sc := ScaleW.word (expWord piece r.poison)
    (rowChunks (ds ++ List.replicate (len - ds.length) 0)).map fun b => Entry.ofBytes b sc false

/-! A turn of a pipe: one row at most (R250). -/

/-- A command put back into its pipe. -/
def State.keepCmd (s : State) (cell : Nat) (p : Pipe) (c : Cmd) : State := s.setMu cell ((s.mu cell).setPipe p (some c))

/-- The next entry of a command's results enters out.stream when there is room (R262). -/
def State.pushOut (s : State) (cell : Nat) (p : Pipe) (c : Cmd) : State :=
  let st := BitVec.ofNat 4 (c.fld .outStream)
  let x := s.ctx cell c.issuer.ctx
  let t := x.stream st
  match c.outQ with
  | [] => s
  | e :: rest =>
    if !t.isStore || dDepth t.desc ≤ t.fill then s
    else (s.setCtx cell c.issuer.ctx (x.setStream st { t with entries := t.entries ++ [e], tail := t.tail + 1 })).keepCmd cell p { c with outQ := rest }

/-- A row popped whole: its command is one row further, with f applied to the unit. -/
def State.tookRow (s : State) (cell : Nat) (p : Pipe) (c : Cmd) (r : BRow) (f : Matrix → Matrix) : State :=
  let (s, c) := s.notePoison c r.poison
  (s.setMu cell (f (s.mu cell))).keepCmd cell p { c with rows := c.rows + 1 }

/-- A command that pops rows of its stream. -/
def State.popRow (s : State) (cell : Nat) (p : Pipe) (c : Cmd) (f : State → Cmd → BRow → State) : State :=
  match s.gather cell c with
  | (s, c, none) => s.keepCmd cell p c
  | (s, c, some r) => f s c r

/-- The row of m.red at its place (R259). -/
def State.sendPartial (s : State) (cell : Nat) (c : Cmd) : State :=
  let f := c.fields
  let m := s.mu cell
  let row := fieldOf f .accBase + c.rows
  let p := s.part (s.cell cell).tag
  match (p.cellAt (s.redOwner cell f)).filter fun _ => !p.awayAt (s.redOwner cell f) with
  | none => s
  | some o =>
    let q : Partial := {
      dst := o, from_ := cell, row := row, elems := (List.range (fieldOf f .shapeN)).map fun n => mget 0 m.acc (128 * row + n)
      bound := mget 0 m.bnd (row / 16), raise_ := c.rows = 0 || row % 16 = 0 }
    { s with partials := s.partials ++ [q] }.keepCmd cell .c { c with rows := c.rows + 1 }

/-- The turn of a pipe. -/
def State.pipeTurn (s : State) (cell : Nat) (p : Pipe) : State :=
  match (s.mu cell).pipe p with
  | none => s
  | some c =>
    if c.waitO || c.flipWait then s
    else if !c.outQ.isEmpty then s.pushOut cell p c
    else if s.cmdRows cell c ≤ c.rows then s
    else match c.fld .op with
      | 1 => s.popRow cell p c fun s c r => s.tookRow cell p c r fun m => m.loadRow c r
      | 2 =>
        let mul := fun (s : State) (c : Cmd) (r : BRow) =>
          let free := s.free
          let bad := { r with poison := r.poison || (s.mu cell).badPlane c.fields }
          { s.tookRow cell p c bad (fun m => m.mmaRow free c r) with free := s.free + 128 }
        if c.fld .aStream = 16 then
          match (s.mu cell).port with
          | [] => s
          | r :: rest => mul (s.setMu cell { s.mu cell with port := rest }) c r
        else s.popRow cell p c mul
      | 3 =>
        (s.setMu cell ((s.mu cell).clearBlocks (c.fld .accBase) (c.fld .shapeM))).keepCmd cell p { c with rows := c.fld .shapeM }
      | 4 => s.keepCmd cell p { c with rows := c.rows + 1, outQ := (s.mu cell).cvtRow c c.rows }
      | 5 =>
        let i := c.rows / c.fld .shapeM + 1
        if i = 1 then s.popRow cell p c fun s c r =>
          let (s, c) := s.notePoison c r.poison
          let e : Entry := ⟨0, 0, r.scale, r.poison⟩
          s.keepCmd cell p { c with rows := c.rows + 1, outQ := digitRow c 1 r, hist := c.hist ++ [e :: (rowChunks r.bytes).map fun b => Entry.ofBytes b .absent false] }
        else
          let es := c.hist.getD (c.rows % c.fld .shapeM) []
          let r : BRow := ⟨(es.drop 1).flatMap fun e => vecBytes e.data, .absent, es.any fun e => e.poison⟩
          s.keepCmd cell p { c with rows := c.rows + 1, outQ := digitRow c i r }
      | 6 =>
        if !(s.mu cell).sending.isEmpty then s
        else s.popRow cell p c fun s c r => s.tookRow cell p c r fun m => { m with sending := [r] }
      | _ => s.sendPartial cell c

/-! Completion (R265, R266, R269). -/

/-- The rows that a completion parcel reports as processed (R266): source rows for m.slice; the rows loaded into all its macros for m.cimld; none
for an m.red at its own owner (DESIGN CHOICE, log 72). -/
def Cmd.processed (c : Cmd) : Nat := if c.fld .op = 5 then c.hist.length else c.rows

/-- The completion parcel of a command (R266). -/
def cmdParcel (k : Cell) (f : Fields) (f8 : Bool) (ticket : Word) (status rows : Nat) : Vec :=
  let l := k.lcell.toNat
  let tl := fieldOf f .tl
  mkParcel (mkHdr 0 true false f8 k.tag 0xFFFF 0xFF (nbits 0 6 (fieldOf f .doneChan)) l)
    (leBytes 2 (fieldOf f .xfid) ++ leBytes 1 (if tl = 0 then 0xFF else tl - 1) ++ leBytes 1 status ++ leBytes 1 1 ++ zeros 3
      ++ leBytes 8 ticket.toNat ++ leBytes 1 (fieldOf f .op) ++ zeros 15 ++ leBytes 8 rows)

/-- The completion parcel leaves, when the command asks for one. -/
def State.reportCmd (s : State) (cell : Nat) (i : Issuer) (f : Fields) (f8 : Bool) (ticket : Word) (status rows : Nat) : State :=
  if nbits 6 1 (fieldOf f .doneChan) = 1 then
    s.launchFlight (cmdParcel (s.cell cell) f f8 ticket status rows) (s.cell cell).tag (.cmdDone i)
  else s

/-- A command has done all it does (R265). -/
def State.cmdDone (s : State) (cell : Nat) (c : Cmd) : Bool :=
  !c.flipWait && !c.waitO && s.cmdRows cell c ≤ c.rows && c.outQ.isEmpty && (c.fld .op != 6 || (s.mu cell).sending.isEmpty)
    && (c.fld .op != 7 || !s.partials.any fun q => q.from_ == cell)

/-- The sender of an m.red writes valid zeros into the columns it sent (R259). -/
def Matrix.zeroSent (m : Matrix) (c : Cmd) : Matrix :=
  { m with acc := (List.range c.rows).foldl (fun a r => (List.range (c.fld .shapeN)).foldl
      (fun a n => mset 0 a (128 * (c.fld .accBase + r) + n) 0) a) m.acc }

/-- MATRIX_COMMAND_COMPLETE (R259, R265, R266, R269). -/
def execEvMatrixCommandComplete (cell : Nat) (pipe : Pipe) (s : State) : Res :=
  .next (match (s.mu cell).pipe pipe with
    | none => s
    | some c =>
      if !s.cmdDone cell c then s
      else
        let m := if c.fld .op = 7 then (s.mu cell).zeroSent c else s.mu cell
        let m := m.setPipe pipe none
        let m := if c.fld .op = 1 then { m with pipeC := m.pipeC.map fun d => { d with waitO := false } } else m
        let s := (s.setMu cell m).settleDone cell c.issuer.ctx
        s.reportCmd cell c.issuer c.fields c.fmode c.ticket (if c.poison then 1 else 0) c.processed)

/-- MATRIX_FLIP_START (R250, R256): the flip starts, and an m.cimld that waits for it may load. -/
def execEvMatrixFlipStart (cell : Nat) (s : State) : Res :=
  .next (
    let m := s.mu cell
    match m.pipeC with
    | none => s
    | some c =>
      if !c.flipWait || c.waitO then s
      else s.setMu cell { m with
        apl := !m.apl, pipeC := some { c with flipWait := false }, pipeL := m.pipeL.map fun d => { d with waitO := false } })

/-- The physical cells of a patch row (R257, R258). -/
def State.patchRow (s : State) (cell : Nat) (f : Fields) : List Nat :=
  match s.patchOf cell f with
  | none => []
  | some (x0, y0) =>
    let p := s.part (s.cell cell).tag
    (List.range (fieldOf f .patchW)).filterMap fun j => p.cellAt ((y0 + fieldOf f .patchRow) * p.gridW + x0 + j)

/-- A cell of the patch row is evicted (R364): its row waits. -/
def State.patchAway (s : State) (cell : Nat) (f : Fields) : Bool :=
  match s.patchOf cell f with
  | none => false
  | some (x0, y0) =>
    let p := s.part (s.cell cell).tag
    (List.range (fieldOf f .patchW)).any fun j => p.awayAt ((y0 + fieldOf f .patchRow) * p.gridW + x0 + j)

/-- BROADCAST_ROW_ARRIVE (R258): the row that a cell's m.bcast sends enters every port of the patch row, when all have room and none takes
another command's rows. -/
def execEvBroadcastRowArrive (cell : Nat) (s : State) : Res :=
  .next (match (s.mu cell).pipeL, (s.mu cell).sending with
    | some c, r :: rest =>
      let cells := s.patchRow cell c.fields
      let room := cells.all fun d =>
        let m := s.mu d
        m.port.length < 2 && (m.portBy == none || m.portBy == some cell)
      if !room || s.patchAway cell c.fields then s
      else
        let more := c.rows < c.fld .shapeM || !rest.isEmpty
        let s := cells.foldl (fun s d =>
          let m := s.mu d
          s.setMu d { m with port := m.port ++ [r], portBy := if more then some cell else none }) s
        s.setMu cell { s.mu cell with sending := rest }
    | _, _ => s)

/-- PARTIAL_ROW_ADD (R260): the n-th row on its way is added at its owner. -/
def execEvPartialRowAdd (n : Nat) (s : State) : Res :=
  .next (match s.partials[n]? with
    | none => s
    | some q =>
      let m := s.mu q.dst
      let acc := (q.elems.mapIdx fun i w => (i, w)).foldl
        (fun a e =>
          let key := 128 * q.row + e.1
          mset 0 a key (BitVec.ofNat 32 (tAdd (Config.freeBits (s.free + e.1)).toNat (mget 0 a key).toNat e.2.toNat))) m.acc
      let m := { m with acc := acc, rrc := m.rrc + 1 }
      let m := if q.raise_ then m.raiseBound (q.row / 16) q.bound else m
      { s.setMu q.dst m with partials := s.partials.eraseIdx n, free := s.free + 128 })

/-! Follow-on commands (R267). -/

/-- FOLLOW_ON_ACCEPT (R267, R427): a destination cell's streamer reads the block of copy n, and queues or discards it. A block in a pending
staging slot waits (R124). -/
def execEvFollowOnAccept (n cell : Nat) (s : State) : Res :=
  .next (match s.copy n with
    | none => s
    | some c =>
      if !c.accept.contains cell then s
      else if !(s.devPending c.part (BitVec.ofNat 64 (cpFollow c.b)) 32).isEmpty then
        s.copyLate c (s.devPending c.part (BitVec.ofNat 64 (cpFollow c.b)) 32)
      else
        let drop := fun (s : State) => s.setCopy { c with accept := c.accept.filter (· != cell), discard := true }
        match s.devRead c.part false (BitVec.ofNat 64 (cpFollow c.b)) 32 with
        | (s, none) => drop s
        | (s, some (_, true)) => drop s
        | (s, some (b, false)) =>
          let m := s.mu cell
          if !blockClean b || !cmdStatic (fieldsOf b) then drop s
          else if 4 ≤ m.followQ.length then s
          else
            let s := s.setMu cell { m with followQ := m.followQ ++ [⟨BitVec.ofNat 256 (leNat b), n⟩] }
            s.setCopy { c with accept := c.accept.filter (· != cell) })

/-- Every byte of a copy for a cell has landed (R267). -/
def State.landedFor (s : State) (n cell : Nat) : Bool :=
  !(s.landings.any fun l => l.copy == n && l.cell == cell) && match s.copy n with
    | none => true
    | some c =>
      let p := s.part c.part
      !(List.range (ceilDiv (cpBytes c.b) (cpBlk c.b))).any fun k =>
        p.cellAt (slabCell p.gridW c.b (k * cpBlk c.b)).1 == some cell && c.todo.any fun t => meets t.1 (t.2 - t.1) (k * cpBlk c.b) (cpBlk c.b)

/-- FOLLOW_ON_START (R267): the oldest queued command of a cell starts as a command of the claiming context, or is discarded. -/
def execEvFollowOnStart (cell : Nat) (s : State) : Res :=
  .next (
    let m := s.mu cell
    match m.followQ, (s.cell cell).claim with
    | q :: rest, some ctx =>
      let f := fieldsOf (leBytes 32 q.block.toNat)
      let op := fieldOf f .op
      let waits := if op = 1 then flipPending m.pipeC else op = 2 && fFlip f && isLoadCmd m.pipeL
      if !s.landedFor q.copy cell || (m.pipe (pipeFor op)).isSome || waits then s
      else
        let s := s.setMu cell { m with followQ := rest }
        if s.cmdOk cell ctx f then s.enterPipe cell ctx f
        else
          let tl := fieldOf f .tl
          let i := s.issuer cell ctx .m
          let (s, k) := if tl = 0 then (s, 0) else s.takeTicket cell ctx (tl - 1)
          (s.settleDone cell ctx).reportCmd cell i f (s.ctx cell ctx).fmode k 2 0
    | _, _ => s)

end Sys2Proof.Machine
end

