-- ==== Sys2Proof/Machine/Network.lean ====
section
/-! DEFINITION. The Ultra Ethernet endpoint (R406, R407, R420). -/

namespace Sys2Proof.Machine
open Sys2Proof

/-- The fields of a descriptor (R420), from its 64 bytes. -/
def deCtl (d : List Byte) : Nat := bnat d 8 4
def deLen (d : List Byte) : Nat := nbits 0 24 (deCtl d)
def deOp (d : List Byte) : Nat := nbits 27 3 (deCtl d)
def deReply (d : List Byte) : Bool := nbits 30 1 (deCtl d) = 1
def deLodge (d : List Byte) : Bool := nbits 31 1 (deCtl d) = 1
def deMsg (d : List Byte) : Word := BitVec.ofNat 64 (bnat d 0 8)
def deFut (d : List Byte) : Word := BitVec.ofNat 64 (bnat d 24 8)
def deHnd (d : List Byte) : Word := BitVec.ofNat 64 (bnat d 32 8)
def deBuf (d : List Byte) : Word := BitVec.ofNat 64 (bnat d 40 8)
def deBufLen (d : List Byte) : Nat := bnat d 48 4

/-- A ring header that the endpoint serves (R420). -/
def ringHeaderOk (h : List Byte) : Bool := bnat h 9 7 = 0 && bnat h 24 40 = 0 && bnat h 8 1 ≤ 10 && bnat h 0 8 % 64 = 0

/-- A descriptor whose own fields let it be sent (R420); its job is the partition's (log 32). -/
def descOk (p : Part) (d : List Byte) : Bool :=
  nbits 24 3 (deCtl d) = 0 && bnat d 52 12 = 0 && deOp d ≤ 2 && deLen d ≠ 0 && bnat d 22 2 = 0 && (!deReply d || deOp d = 1)
    && p.jobs.contains (BitVec.ofNat 32 (bnat d 12 4))

/-- Bytes may be written for an agent of the device: every page translates. -/
def State.devCanWrite (s : State) (pid : Nat) (va : Word) (n : Nat) : State × Bool :=
  let r := s.devPlaces pid false .write va n
  (r.1, r.2.isSome)

/-- The tag of a future (R406): bit 35 is set for a Lodge die, number 8 or 9. -/
def tagOf (die : Nat) (handle : Word) : Word :=
  BitVec.ofNat 64 (nbits 2 30 handle.toNat * 4 + die % 16 * 2 ^ 32)

/-- The future of a REPLY descriptor (R420): its die, when LODGE names its home and the buffer can be written. -/
def State.replyDie (s : State) (pid : Nat) (d : List Byte) : State × Option Nat :=
  if (deFut d).toNat % 16 ≠ 0 then (s, none)
  else match s.xlateDev pid false .readWrite (deFut d) with
    | .error (_, s) => (s, none)
    | .ok (l, s) =>
      if (8 ≤ homeDie l) == deLodge d then match s.devCanWrite pid (deBuf d) (deBufLen d) with
        | (s, true) => (s, some (homeDie l))
        | (s, false) => (s, none)
      else (s, none)

/-- The endpoint records the reply buffer in the future's slot (R406). -/
def State.recordReply (s : State) (pid : Nat) (d : List Byte) : State :=
  match s.xlateDev pid false .readWrite (deFut d) with
  | .error (_, s) => s
  | .ok (l, s) =>
    let u := Fut.of l (deFut d) ((List.range 16).map fun i => s.latest (l.pa + i))
    match s.see pid u (deHnd d) with
    | .stale | .dead => s
    | .live x => match x.kind with
      | .future va w dl q _ inj => s.setSlot u.die (fSlot u.w0) { x with kind := .future va w dl q (some (deBuf d, deBufLen d)) inj }
      | .barrier .. => s

/-- A descriptor that is not sent counts in NETDROP (R420). -/
def State.netDrop (s : State) (pid : Nat) : State := s.setPart pid { s.part pid with netdrop := (s.part pid).netdrop + 1 }

/-- One descriptor is sent, or counted (R406, R420). -/
def State.sendDesc (s : State) (pid : Nat) (d : List Byte) : State :=
  if !descOk (s.part pid) d then s.netDrop pid
  else match s.devRead pid false (deMsg d) (deLen d) with
    | (t, none) => t.netDrop pid
    | (t, some (_, true)) => t.netDrop pid
    | (t, some (msg, false)) =>
      let send := fun (t : State) (tag : Option Word) =>
        { t with ueSent := t.ueSent ++ [⟨pid, deOp d, BitVec.ofNat 32 (bnat d 12 4), BitVec.ofNat 48 (bnat d 16 6), msg, tag⟩] }
      if deReply d then match t.replyDie pid d with
        | (t, none) => t.netDrop pid
        | (t, some die) => send (t.recordReply pid d) (some (tagOf die (deHnd d)))
      else send t none

/-- UE_DESCRIPTOR_TAKE (R420): the header is read afresh; the descriptor at HEAD is taken, and HEAD advances. A descriptor that cannot be
read is not sent (log 32). -/
def execEvUeDescriptorTake (part : Nat) (s : State) : Res :=
  .next (match (s.part part).ring with
    | none => s
    | some ring =>
      match s.devRead part false ring 64 with
      | (t, none) => t.hypEvent (.sendRing part)
      | (t, some (_, true)) => t.hypEvent (.sendRing part)
      | (t, some (h, false)) =>
        if !ringHeaderOk h then t.hypEvent (.sendRing part)
        else if bnat h 16 4 = bnat h 20 4 then t
        else
          let va : Word := BitVec.ofNat 64 (bnat h 0 8 + 64 * (bnat h 16 4 % 2 ^ bnat h 8 1))
          let t := match t.devRead part false va 64 with
            | (u, some (d, false)) => u.sendDesc part d
            | (u, some (_, true)) => u.netDrop part
            | (u, none) => u.netDrop part
          (t.devWrite part false (ring + 16) (leBytes 4 (bnat h 16 4 + 1))).1)

/-- UE_TAGGED_REPLY (R286, R407): check, buffer and resolution in one step at the future's home. A buffer that can no longer be written discards
the reply (log 32). -/
def execEvUeTaggedReply (part : Nat) (tag : BitVec 64) (payload : List Byte) (s : State) : Res :=
  .next (
    let die := nbits 32 4 tag.toNat
    let n := fSlot tag.toNat
    match s.slot die n with
    | none => s.netDrop part
    | some x => match x.kind with
      | .future _ _ dl _ (some (buf, len)) _ =>
        let ws := s.words x.pa
        if late dl s.time.toNat ∨ x.part ≠ part ∨ fSlot ws.1 ≠ n ∨ fGen tag.toNat ≠ fGen ws.1 ∨ 2 ≤ fSt ws.1 ∨ nbits 36 28 tag.toNat ≠ 0 then s.netDrop part
        else match s.devWrite part false buf (payload.take len) with
          | (s, false) => s.netDrop part
          | (s, true) => (s.putW1 x.pa buf.toNat).settleFut part die n x ws.1 buf.toNat 2
      | .future _ _ _ _ none _ | .barrier .. => s.netDrop part)

/-- UE_MESSAGE_RECEIVE (R406): delivered to the partition that owns the job, or dropped and counted. -/
def execEvUeMessageReceive (part : Nat) (job : BitVec 32) (msg : List Byte) (s : State) : Res :=
  .next (
    if (s.part part).jobs.contains job then { s with ueInbox := s.ueInbox ++ [(part, job, msg)] }
    else { s with ueDropped := s.ueDropped + 1 })

end Sys2Proof.Machine
end

