-- ==== Sys2Proof/Machine/Stager.lean ====
section
/-! DEFINITION. The Harvest stager (R122 to R125, R380). -/

namespace Sys2Proof.Machine
open Sys2Proof

/-- A layer schedule table header that R125 accepts. -/
def schedOk (h : List Byte) : Bool :=
  bnat h 14 2 = 0 && bnat h 60 4 = 0 && bnat h 0 8 % 64 = 0 && 1 ≤ bnat h 8 4 && bnat h 8 4 ≤ 2 ^ 20 && 1 ≤ bnat h 12 1 && bnat h 12 1 ≤ 64
    && bnat h 16 8 % 8192 = 0 && 1 ≤ bnat h 24 4 && bnat h 24 4 ≤ 65536 && 1 ≤ bnat h 28 4

/-- An entry of the table (R122). -/
structure SchedE where
  src  : Word
  step : Nat
  nt   : Nat
  slot : Nat
  deriving DecidableEq, Repr, Inhabited

def schedEntry (b : List Byte) : SchedE := ⟨BitVec.ofNat 64 (bnat b 0 8), bnat b 8 4, bnat b 12 2, bnat b 16 4⟩
/-- An entry inside its ranges, with its reserved fields zero. -/
def schedEntryOk (b : List Byte) (period nslot : Nat) : Bool :=
  let e := schedEntry b
  bnat b 14 2 = 0 && bnat b 20 12 = 0 && e.src.toNat % 8192 = 0 && e.step < period && 1 ≤ e.nt && e.nt ≤ 256 && e.slot + e.nt ≤ nslot
/-- The entries rise by STEP. -/
def stepsRise : List SchedE → Bool
  | [] => true
  | [_] => true
  | a :: b :: t => a.step ≤ b.step && stepsRise (b :: t)

/-- The source of a tile is canonical, present, permitted and LPDDR6-backed (R125). -/
def State.tileOk (s : State) (pid : Nat) (src : Word) : State × Bool :=
  (tilePages src).foldl (fun r v => let q := r.1.stagePage pid .read true v; (q.1, r.2 && q.2.isSome)) (s, true)

/-- A slot can be written: both its pages lie in HBM (R122, R125). -/
def State.slotOk (s : State) (pid : Nat) (va : Word) : State × Bool :=
  (tilePages va).foldl (fun r v => let q := r.1.stagePage pid .write false v; (q.1, r.2 && q.2.isSome)) (s, true)

/-- The step of a slot's tile. -/
def StageSt.step : StageSt → Nat
  | .pending _ n | .ready n | .failed n => n

/-- An entry of a step is met (R123, R125): its slots that are free for it become pending, or failed when its source faults. An entry that
failed adds NT to FAIL once, however many turns it takes until all its slots are free: add counts what is added now. -/
def Stager.meet (g : Stager) (cur step : Nat) (e : SchedE) (ok : Bool) : Stager × Nat :=
  let free := (List.range e.nt).filter fun i => match mfind g.slots (e.slot + i) with
    | none => true
    | some t => t.step < cur
  let put := fun (m : SMap StageSt) (i : Nat) =>
    mput m (e.slot + i) (if ok then .pending (e.src.toNat + 8192 * i) step else .failed step)
  let counts := !ok && !free.isEmpty && !g.failed.contains (step, e.slot)
  ({ g with slots := free.foldl put g.slots, failed := if counts then g.failed ++ [(step, e.slot)] else g.failed }, if counts then e.nt else 0)

/-- The entries of the window are met in step order (R123); the state after, the stager, and the tiles that failed. -/
def State.meetAll (s : State) (pid : Nat) (g : Stager) (cur look period : Nat) (es : List SchedE) : State × Stager × Nat :=
  (List.range (look + 1)).foldl
    (fun acc i => (es.filter fun e => e.step = (cur + i) % period).foldl
      (fun (acc : State × Stager × Nat) e =>
        let q := (List.range e.nt).foldl
          (fun (r : State × Bool) j => let q := r.1.tileOk pid (e.src + BitVec.ofNat 64 (8192 * j)); (q.1, r.2 && q.2)) (acc.1, true)
        let m := acc.2.1.meet cur (cur + i) e q.2
        (q.1, m.1, acc.2.2 + m.2)) acc)
    (s, g, 0)

/-- A slot that no entry of the window names any more is ordinary memory, unless it has failed (R124, R125). -/
def keepSlot (cur : Nat) : StageSt → Bool
  | .failed _ => true
  | .pending _ n | .ready n => cur ≤ n

/-- The header's device fields written. -/
def State.putSched (s : State) (pid : Nat) (va : Word) (bs : List Byte) : State := (s.devWrite pid false va bs).1

/-- Some bytes as the stager reads them now: none when they fault or carry poison, which leaves STAT and every slot as they are (DESIGN
CHOICE, log 58). -/
def State.readSched (s : State) (pid : Nat) (va : Word) (n : Nat) : State × Option (List Byte) :=
  match s.devRead pid false va n with
  | (t, some (h, false)) => (t, some h)
  | (t, some (_, true)) => (t, none)
  | (t, none) => (t, none)

/-- The stager of a partition is set. -/
def State.putStager (s : State) (pid : Nat) (g : Stager) : State := s.setPart pid { s.part pid with sched := some g }

/-- The header is bad: STAT = 1, and every slot is ordinary memory (R125). -/
def State.badSched (s : State) (pid : Nat) (g : Stager) : State :=
  (s.putSched pid (g.hdr + 13) (leBytes 1 1)).putStager pid { g with bad := true, slots := [], pages := [], failed := [] }

/-- STAGER_CUR_READ (R123, R125). A first slot that does not lie in HBM is a field out of range (DESIGN CHOICE, log 57). An entry with a reserved field
set, a field out of range or a misaligned source is taken for a bad header too (DESIGN CHOICE, log 79). -/
def execEvStagerCurRead (part : Nat) (s : State) : Res :=
  .next (match (s.part part).sched with
    | none => s
    | some g => match s.readSched part g.hdr 64 with
      | (s, none) => s
      | (s, some h) => match s.slotOk part (BitVec.ofNat 64 (bnat h 16 8)) with
        | (s, first) =>
          if !schedOk h || !first then s.badSched part g
          else match s.readSched part (BitVec.ofNat 64 (bnat h 0 8)) (32 * bnat h 8 4) with
            | (s, none) => s
            | (s, some eb) =>
              let raw := (List.range (bnat h 8 4)).map fun i => (eb.drop (32 * i)).take 32
              let es := raw.map schedEntry
              if !raw.all (fun b => schedEntryOk b (bnat h 28 4) (bnat h 24 4)) || !stepsRise es then s.badSched part g
              else
                let s := if bnat h 13 1 = 0 then s else s.putSched part (g.hdr + 13) (leBytes 1 0)
                let cur := bnat h 32 8
                let g := { g with
                  bad := false, stage := BitVec.ofNat 64 (bnat h 16 8), nslot := bnat h 24 4
                  slots := g.slots.filter fun e => keepSlot cur e.2, failed := g.failed.filter fun e => cur ≤ e.1 }
                let r := s.meetAll part g cur (bnat h 12 1) (bnat h 28 4) es
                let s := if r.2.2 = 0 then r.1 else r.1.putSched part (g.hdr + 56) (leBytes 4 (bnat h 56 4 + r.2.2))
                let q := s.stagePages part r.2.1
                q.1.putStager part { r.2.1 with pages := q.2 })

/-- A tile written into its slot by the stager itself; whether both pages of the slot could be written. -/
def State.stageTile (s : State) (pid : Nat) (va : Word) (bs : List Byte) : State × Bool :=
  match s.slotOk pid va with
  | (s, false) => (s, false)
  | (s, true) => (((tilePages va).zipIdx).foldl (fun s v => match s.stagePage pid .write false v.1 with
    | (s, none) => s
    | (s, some l) => (List.range 64).foldl (fun (s : State) j =>
        (s.allocIn (homeBank l) pid).lineWrite (l.pa / 64 + j) (addrBytes (l.pa + 64 * j) (bslice bs (4096 * v.2 + 64 * j) 64))) s) s, true)

/-- The pages of a tile's source: none when one faults or does not lie in LPDDR6. -/
def State.tilePlaces (s : State) (pid : Nat) (src : Word) : State × Option (List (Loc × Nat)) :=
  (tilePages src).foldl
    (fun r v => match r with
      | (s, none) => (s, none)
      | (s, some ls) => match s.stagePage pid .read true v with
        | (s, none) => (s, none)
        | (s, some l) => (s.allocIn (homeBank l) pid, some (ls ++ [(l, 4096)])))
    (s, some [])

/-- A count of the header rises by 1. -/
def State.bumpSched (s : State) (pid : Nat) (hdr : Word) (off n : Nat) : State :=
  match s.readSched pid hdr 64 with
  | (s, some h) => s.putSched pid (hdr + BitVec.ofNat 64 off) (leBytes n (bnat h off n + 1))
  | (s, none) => s

/-- A tile's copy has ended: its slot is ready, and STAGED counts it; or it failed, and FAIL does. -/
def State.tileDone (s : State) (pid slot step : Nat) (g : Stager) (good : Bool) : State :=
  let s := s.putStager pid { g with slots := mput g.slots slot (if good then .ready step else .failed step) }
  if good then s.bumpSched pid g.hdr 40 8 else s.bumpSched pid g.hdr 56 4

/-- STAGER_TILE_READY (R123, R125): a pending tile, no tile of an earlier step pending, is read from the lower tier and written; a poisoned one
fails, and so does one whose slot cannot be written (DESIGN CHOICE, log 57). -/
def execEvStagerTileReady (part slot : Nat) (s : State) : Res :=
  .next (match (s.part part).sched with
    | none => s
    | some g => match mfind g.slots slot with
      | some (.pending src step) =>
        if g.slots.any fun e => e.2.isPending && e.2.step < step then s
        else match s.tilePlaces part (BitVec.ofNat 64 src) with
          | (s, none) => s.tileDone part slot step g false
          | (s, some ls) =>
            if (placeLines ls).any s.poisoned then s.tileDone part slot step g false
            else
              let s := (placeLines ls).foldl State.snoopRead s
              let r := s.stageTile part (g.slotVa slot) (s.placeBytes ls)
              r.1.tileDone part slot step g r.2
      | some (.ready _) | some (.failed _) | none => s)

end Sys2Proof.Machine
end

