-- ==== Sys2Proof/Machine/Module.lean ====
section
/-! DEFINITION. Power (R408, R409) and module reset (R398, R410). -/

namespace Sys2Proof.Machine
open Sys2Proof

/-- PLIM_WRITE (R409): a host write, taken once bring-up has ended (R410). -/
def execEvPlimWrite (value : BitVec 64) (s : State) : Res :=
  .next (if s.hostUp then { s with plim := min (max (nbits 0 16 value.toNat) 600) 2400 } else s)

/-- CLOCK_STEP (R409): 100 MHz down, never below 1.0 GHz. -/
def execEvClockStep (s : State) : Res := .next { s with freq := max 10 (s.freq - 1) }

/-- PGATE_WRITE (R408). -/
def execEvPgateWrite (cell : Nat) (value : BitVec 64) (s : State) : Res :=
  .next (if Config.cells ≤ cell then s else s.writePgate cell (value.setWidth 12))

/-- BANK_WAKE (R408): the bank's GATE bit clears; its contents went when it was gated. -/
def execEvBankWake (cell bank : Nat) (s : State) : Res :=
  .next (if Config.cells ≤ cell ∨ 12 ≤ bank then s
    else s.setCell cell { s.cell cell with pgate := (s.cell cell).pgate &&& ~~~(BitVec.ofNat 12 (2 ^ bank)) })

/-- The identity page (R411), written at step 6: a measurement of each step from 2 to 5, and the signature of the log under the identity key. n
numbers the reset. -/
def Identity.make (n : Nat) : Identity :=
  let log := [2, 3, 4, 5].map fun k => Config.measure k n
  ⟨Config.publicKey, Config.kornenCert, log, Config.falconSign (log.flatMap vecBytes)⟩

/-- MODULE_RESET (R398, R410, R411): every register takes its reset value; then bring-up ends at step 6, or in recovery after a failed verification
at step 2 or 3. Keys and scrub sequence numbers are never used again (R393, R395), and memory is unreadable under the new keys. -/
def execEvModuleReset (strap0 strap1 ok2 ok3 : Bool) (lanes : Nat) (s : State) : Res :=
  .next (
    let up := ok2 && ok3
    { State.reset with
      agenda := s.agenda, cur := s.cur, now := s.now, free := s.free + 1, serial := s.serial, scrubSeq := s.scrubSeq
      keys := (List.range 24).map fun p => (p, mget 0 s.keys p + 1)
      bootStep := if !ok2 then 2 else if !ok3 then 3 else 6
      bstat := if !ok2 then 0xE1 else if !ok3 then 0xE3 else 1
      portCxl := if up then [(0, strap0), (1, strap1)] else []
      failedLanes := if up then lanes else 0
      identity := if up then some (Identity.make s.free) else none })

end Sys2Proof.Machine
end

