-- ==== Sys2Proof/Machine/RvExt.lean ====
section
/-! DEFINITION. The extensions of a hart beside its base (R295, R300; log 8), after the RISC-V family: compressed instructions, bit manipulation,
cache blocks, the hypervisor's, vector accesses and floating-point moves. Where the family computes a floating-point or a vector result, which the
manual does not state, the result is a free value. -/

namespace Sys2Proof.Machine
open Sys2Proof

/-! Compressed instructions: each is another spelling of a 32-bit one. -/

/-- The words of the formats R, I, S, B, U and J. -/
def rvWordR (op f3 f7 rd rs1 rs2 : Nat) : Nat := op + 2 ^ 7 * rd + 2 ^ 12 * f3 + 2 ^ 15 * rs1 + 2 ^ 20 * rs2 + 2 ^ 25 * f7
def rvWordI (op f3 rd rs1 imm : Nat) : Nat := op + 2 ^ 7 * rd + 2 ^ 12 * f3 + 2 ^ 15 * rs1 + 2 ^ 20 * (imm % 4096)
def rvWordS (op f3 rs1 rs2 imm : Nat) : Nat := rvWordR op f3 (nbits 5 7 imm) (nbits 0 5 imm) rs1 rs2
def rvWordB (f3 rs1 imm : Nat) : Nat :=
  rvWordR 0x63 f3 (nbits 5 6 imm + 64 * nbits 12 1 imm) (2 * nbits 1 4 imm + nbits 11 1 imm) rs1 0
def rvWordJ (rd imm : Nat) : Nat :=
  0x6F + 2 ^ 7 * rd + 2 ^ 12 * nbits 12 8 imm + 2 ^ 20 * nbits 11 1 imm + 2 ^ 21 * nbits 1 10 imm + 2 ^ 31 * nbits 20 1 imm

/-- A field of n bits, sign-extended to 32 bits. -/
def signed32 (n v : Nat) : Nat := if v / 2 ^ (n - 1) % 2 = 1 then v + 2 ^ 32 - 2 ^ n else v

/-- Bits of a halfword gathered into a number: each item names the lowest bit, how many, and where they go. -/
def gather (w : Nat) (l : List (Nat × Nat × Nat)) : Nat := l.foldl (fun n t => n + nbits t.1 t.2.1 w * 2 ^ t.2.2) 0

/-- Quadrant 0: accesses through the eight short registers, and c.addi4spn. -/
def rvExpand0 (w : Nat) : Option Nat :=
  let rd := 8 + nbits 2 3 w
  let rs := 8 + nbits 7 3 w
  let uw := gather w [(10, 3, 3), (6, 1, 2), (5, 1, 6)]
  let ud := gather w [(10, 3, 3), (5, 2, 6)]
  match nbits 13 3 w with
  | 0 => let imm := gather w [(11, 2, 4), (7, 4, 6), (6, 1, 2), (5, 1, 3)]; if imm = 0 then none else some (rvWordI 0x13 0 rd 2 imm)
  | 1 => some (rvWordI 0x07 3 rd rs ud)
  | 2 => some (rvWordI 0x03 2 rd rs uw)
  | 3 => some (rvWordI 0x03 3 rd rs ud)
  | 4 =>
    let uh := 2 * nbits 5 1 w
    match nbits 10 3 w with
    | 0 => some (rvWordI 0x03 4 rd rs (uh + nbits 6 1 w))
    | 1 => some (rvWordI 0x03 (if nbits 6 1 w = 0 then 5 else 1) rd rs uh)
    | 2 => some (rvWordS 0x23 0 rs rd (uh + nbits 6 1 w))
    | 3 => if nbits 6 1 w = 0 then some (rvWordS 0x23 1 rs rd uh) else none
    | _ => none
  | 5 => some (rvWordS 0x27 3 rs rd ud)
  | 6 => some (rvWordS 0x23 2 rs rd uw)
  | _ => some (rvWordS 0x23 3 rs rd ud)

/-- The arithmetic of quadrant 1 on the eight short registers. -/
def rvExpandAlu (w : Nat) : Option Nat :=
  let r := 8 + nbits 7 3 w
  let s := 8 + nbits 2 3 w
  let imm := signed32 6 (gather w [(2, 5, 0), (12, 1, 5)])
  let sh := gather w [(2, 5, 0), (12, 1, 5)]
  match nbits 10 2 w with
  | 0 => some (rvWordI 0x13 5 r r sh)
  | 1 => some (rvWordI 0x13 5 r r (sh + 0x400))
  | 2 => some (rvWordI 0x13 7 r r imm)
  | _ =>
    match nbits 12 1 w, nbits 5 2 w with
    | 0, 0 => some (rvWordR 0x33 0 0x20 r r s)
    | 0, 1 => some (rvWordR 0x33 4 0 r r s)
    | 0, 2 => some (rvWordR 0x33 6 0 r r s)
    | 0, _ => some (rvWordR 0x33 7 0 r r s)
    | _, 0 => some (rvWordR 0x3B 0 0x20 r r s)
    | _, 1 => some (rvWordR 0x3B 0 0 r r s)
    | _, 2 => some (rvWordR 0x33 0 1 r r s)
    | _, _ => match nbits 2 3 w with
      | 0 => some (rvWordI 0x13 7 r r 0xFF)
      | 1 => some (rvWordI 0x13 1 r r 0x604)
      | 2 => some (rvWordR 0x3B 4 4 r r 0)
      | 3 => some (rvWordI 0x13 1 r r 0x605)
      | 4 => some (rvWordR 0x3B 0 4 r r 0)
      | 5 => some (rvWordI 0x13 4 r r 0xFFF)
      | _ => none

/-- Quadrant 1: immediates, jumps and branches. -/
def rvExpand1 (w : Nat) : Option Nat :=
  let rd := nbits 7 5 w
  let imm := signed32 6 (gather w [(2, 5, 0), (12, 1, 5)])
  let branch := signed32 9 (gather w [(3, 2, 1), (10, 2, 3), (2, 1, 5), (5, 2, 6), (12, 1, 8)])
  match nbits 13 3 w with
  | 0 => some (rvWordI 0x13 0 rd rd imm)
  | 1 => if rd = 0 then none else some (rvWordI 0x1B 0 rd rd imm)
  | 2 => some (rvWordI 0x13 0 rd 0 imm)
  | 3 =>
    if imm = 0 then (if rd % 2 = 1 ∧ rd < 16 then some 0x13 else none)
    else if rd = 2 then some (rvWordI 0x13 0 2 2 (signed32 10 (gather w [(6, 1, 4), (2, 1, 5), (5, 1, 6), (3, 2, 7), (12, 1, 9)])))
    else some (0x37 + 2 ^ 7 * rd + 2 ^ 12 * (imm % 2 ^ 20))
  | 4 => rvExpandAlu w
  | 5 => some (rvWordJ 0 (signed32 12 (gather w [(3, 3, 1), (11, 1, 4), (2, 1, 5), (7, 1, 6), (6, 1, 7), (9, 2, 8), (8, 1, 10), (12, 1, 11)])))
  | 6 => some (rvWordB 0 (8 + nbits 7 3 w) branch)
  | _ => some (rvWordB 1 (8 + nbits 7 3 w) branch)

/-- Quadrant 2: accesses through the stack pointer, jumps through registers, moves and additions. -/
def rvExpand2 (w : Nat) : Option Nat :=
  let rd := nbits 7 5 w
  let rs := nbits 2 5 w
  let ld := gather w [(5, 2, 3), (12, 1, 5), (2, 3, 6)]
  let lw := gather w [(4, 3, 2), (12, 1, 5), (2, 2, 6)]
  let sd := gather w [(10, 3, 3), (7, 3, 6)]
  match nbits 13 3 w with
  | 0 => some (rvWordI 0x13 1 rd rd (gather w [(2, 5, 0), (12, 1, 5)]))
  | 1 => some (rvWordI 0x07 3 rd 2 ld)
  | 2 => if rd = 0 then none else some (rvWordI 0x03 2 rd 2 lw)
  | 3 => if rd = 0 then none else some (rvWordI 0x03 3 rd 2 ld)
  | 4 =>
    match nbits 12 1 w, decide (rs = 0), decide (rd = 0) with
    | 0, true, true => none
    | 0, true, false => some (rvWordI 0x67 0 0 rd 0)
    | 0, false, _ => some (rvWordR 0x33 0 0 rd 0 rs)
    | _, true, true => some 0x00100073
    | _, true, false => some (rvWordI 0x67 0 1 rd 0)
    | _, false, _ => some (rvWordR 0x33 0 0 rd rd rs)
  | 5 => some (rvWordS 0x27 3 2 rs sd)
  | 6 => some (rvWordS 0x23 2 2 rs (gather w [(9, 4, 2), (7, 2, 6)]))
  | _ => some (rvWordS 0x23 3 2 rs sd)

/-- The 32-bit instruction that a compressed one spells; none for a reserved halfword. -/
def rvExpand (w : Nat) : Option Nat :=
  match w % 4 with
  | 0 => rvExpand0 w
  | 1 => rvExpand1 w
  | 2 => rvExpand2 w
  | _ => none

/-! Bit manipulation and conditional zero. -/

/-- The leading zeros of the n low bits of a word, its trailing zeros, and its ones. -/
def rvClz (n : Nat) (a : Word) : Nat := ((List.range n).findIdx? fun i => a.getLsbD (n - 1 - i)).getD n
def rvCtz (n : Nat) (a : Word) : Nat := ((List.range n).findIdx? fun i => a.getLsbD i).getD n
def rvPop (n : Nat) (a : Word) : Nat := ((List.range n).filter fun i => a.getLsbD i).length
/-- The bytes of a word in the other order. -/
def rvRev8 (a : Word) : Word := BitVec.ofNat 64 (leNat (leBytes 8 a.toNat).reverse)
/-- Every byte that is not zero becomes 255. -/
def rvOrcB (a : Word) : Word := BitVec.ofNat 64 (leNat ((leBytes 8 a.toNat).map fun b => if b = 0 then 0 else 0xFF))
/-- The low word without its upper half. -/
def rvZw (a : Word) : Word := a &&& 0xFFFFFFFF
/-- Rotations of 32 bits, sign-extended. -/
def rvRotW (left : Bool) (a : Word) (n : Nat) : Word :=
  let w : BitVec 32 := a.setWidth 32
  sext (if left then w.rotateLeft (n % 32) else w.rotateRight (n % 32))

/-- The operations of OP (0x33) on two registers. -/
def rvBitOp (f3 f7 : Nat) (a b : Word) : Option Word :=
  let bit : Word := 1#64 <<< (b.toNat % 64)
  match f7, f3 with
  | 0x10, 2 => some (b + a <<< 1)
  | 0x10, 4 => some (b + a <<< 2)
  | 0x10, 6 => some (b + a <<< 3)
  | 0x20, 7 => some (a &&& ~~~b)
  | 0x20, 6 => some (a ||| ~~~b)
  | 0x20, 4 => some (~~~(a ^^^ b))
  | 0x05, 4 => some (if a.slt b then a else b)
  | 0x05, 5 => some (if a.ult b then a else b)
  | 0x05, 6 => some (if a.slt b then b else a)
  | 0x05, 7 => some (if a.ult b then b else a)
  | 0x30, 1 => some (a.rotateLeft (b.toNat % 64))
  | 0x30, 5 => some (a.rotateRight (b.toNat % 64))
  | 0x24, 1 => some (a &&& ~~~bit)
  | 0x24, 5 => some ((a >>> (b.toNat % 64)) &&& 1)
  | 0x34, 1 => some (a ^^^ bit)
  | 0x14, 1 => some (a ||| bit)
  | 0x07, 5 => some (if b = 0 then 0 else a)
  | 0x07, 7 => some (if b = 0 then a else 0)
  | _, _ => none

/-- Those of OP-32 (0x3B). -/
def rvBitOpW (f3 f7 rs2 : Nat) (a b : Word) : Option Word :=
  match f7, f3 with
  | 0x04, 0 => some (b + rvZw a)
  | 0x10, 2 => some (b + rvZw a <<< 1)
  | 0x10, 4 => some (b + rvZw a <<< 2)
  | 0x10, 6 => some (b + rvZw a <<< 3)
  | 0x04, 4 => if rs2 = 0 then some (a &&& 0xFFFF) else none
  | 0x30, 1 => some (rvRotW true a b.toNat)
  | 0x30, 5 => some (rvRotW false a b.toNat)
  | _, _ => none

/-- Those of OP-IMM (0x13) that are no shift or arithmetic of the base. -/
def rvBitImm (f3 imm : Nat) (a : Word) : Option Word :=
  let n := imm % 64
  let bit : Word := 1#64 <<< n
  match f3, imm / 64 with
  | 1, 0x18 => match n with
    | 0 => some (BitVec.ofNat 64 (rvClz 64 a))
    | 1 => some (BitVec.ofNat 64 (rvCtz 64 a))
    | 2 => some (BitVec.ofNat 64 (rvPop 64 a))
    | 4 => some (sext (a.setWidth 8 : BitVec 8))
    | 5 => some (sext (a.setWidth 16 : BitVec 16))
    | _ => none
  | 1, 0x12 => some (a &&& ~~~bit)
  | 1, 0x1A => some (a ^^^ bit)
  | 1, 0x0A => some (a ||| bit)
  | 5, 0x12 => some ((a >>> n) &&& 1)
  | 5, 0x18 => some (a.rotateRight n)
  | 5, 0x0A => if n = 7 then some (rvOrcB a) else none
  | 5, 0x1A => if n = 0x38 then some (rvRev8 a) else none
  | _, _ => none

/-- Those of OP-IMM-32 (0x1B). -/
def rvBitImmW (f3 imm : Nat) (a : Word) : Option Word :=
  match f3, imm / 32 with
  | 1, 0x30 => match imm % 32 with
    | 0 => some (BitVec.ofNat 64 (rvClz 32 a))
    | 1 => some (BitVec.ofNat 64 (rvCtz 32 a))
    | 2 => some (BitVec.ofNat 64 (rvPop 32 a))
    | _ => none
  | 5, 0x30 => some (rvRotW false a (imm % 32))
  | 1, 0x04 => some (rvZw a <<< (imm % 64))
  | 1, 0x05 => some (rvZw a <<< (imm % 64))
  | _, _ => none

/-- The value of a word of these extensions. -/
def State.rvBit (s : State) (w : Nat) : Option Word :=
  let a := s.hx.xr (rvRs1 w)
  let b := s.hx.xr (rvRs2 w)
  match w % 128 with
  | 0x33 => rvBitOp (rvF3 w) (rvF7 w) a b
  | 0x3B => rvBitOpW (rvF3 w) (rvF7 w) (rvRs2 w).toNat a b
  | 0x13 => rvBitImm (rvF3 w) (nbits 20 12 w) a
  | 0x1B => rvBitImmW (rvF3 w) (nbits 20 12 w) a
  | _ => none

/-! Cache blocks, waits and may-be operations. -/

/-- A cache-block operation: its block, of 64 bytes, is checked; a zero one stores zeros. Every access is performed at its home, so that cleaning,
flushing and invalidating have no effect beyond the check. -/
def State.rvCbo (s : State) (w : Nat) : Option (HAct State) :=
  let va := s.hx.xr (rvRs1 w) &&& ~~~63#64
  let done := fun (t : State) => t.setHx t.hx.retire
  if rvF3 w ≠ 2 ∨ rvRd w ≠ 0 then none
  else match nbits 20 12 w with
    | 0 => some ((s.hartCheck .write va 64 1).map fun r => done r.2)
    | 1 => some ((s.hartCheck .read va 64 1).map fun r => done r.2)
    | 2 => some ((s.hartCheck .read va 64 1).map fun r => done r.2)
    | 4 => some ((s.hartStore va (zeros 64)).map done)
    | _ => none

/-- A computation under another mode of the hart, which has its own again afterwards. -/
def State.rvAs (s : State) (mode : HartMode) (act : State → HAct State) : HAct State :=
  let own := s.hx.mode
  let back := fun (t : State) => t.setHx { t.hx with mode := own }
  match act (s.setHx { s.hx with mode := mode }) with
  | .ok t => .ok (back t)
  | .error (.exc e t) => .error (.exc e (back t))
  | .error .stall => .error .stall

/-- The hypervisor's loads and stores: an access as the virtual mode that SPVP, bit 8 of hstatus, names makes it. U mode has them while HU, bit 9,
is set. Two read code, with execute permission. -/
def State.rvVirtual (s : State) (w : Nat) : Option (HAct State) :=
  let h := s.hx
  let word := BitVec.ofNat 64 w
  let hs := mget 0 h.csrs 0x600
  let size := 2 ^ nbits 26 2 w
  let rs2 := (rvRs2 w).toNat
  let acc : HartAcc := ⟨if nbits 25 1 w = 1 then .store else .load (rs2 % 2 = 0), h.xr (rvRs1 w), size, h.xr (rvRs2 w), rvRd w, false, false⟩
  let legal := if nbits 25 1 w = 1 then rvRd w = 0
    else rs2 < 2 ∧ (size < 8 ∨ rs2 = 0) ∨ rs2 = 3 ∧ (size = 2 ∨ size = 4)
  if ¬legal then none
  else if h.mode.virt then some (s.exc 22 word)
  else if h.mode = .u ∧ !hs.getLsbD 9 then some (s.exc 2 word)
  else
    let code := fun (s : State) => ((s.hartRead .fetch acc.va size 1).map fun r =>
      r.2.2.setHx (r.2.2.hx.setX acc.rd (extendTo false size (leNat r.2.1))) : HAct State)
    some ((s.rvAs (if hs.getLsbD 8 then .vs else .vu) fun s => if nbits 25 1 w = 0 ∧ rs2 = 3 then code s else s.hartAccess acc).map
      fun t => t.setHx t.hx.retire)

/-- The words of SYSTEM beside the base's: fences of translations, waits that may end at once, may-be operations, which write 0, and the hypervisor's
loads and stores. -/
def State.rvSystem2 (s : State) (w : Nat) : Option (HAct State) :=
  let word := BitVec.ofNat 64 w
  if w = 0x00D00073 ∨ w = 0x01D00073 then some (.ok (s.setHx s.hx.retire))
  else if w = 0x18000073 ∨ w = 0x18100073 ∨ (w % 2 ^ 15 = 0x73 ∧ rvF7 w = 0x0B) then some (s.rvSuper word fun h => h.retire)
  else if w % 2 ^ 15 = 0x73 ∧ (rvF7 w = 0x11 ∨ rvF7 w = 0x31 ∨ rvF7 w = 0x13 ∨ rvF7 w = 0x33) then
    some (if s.hx.mode.virt then s.exc 22 word else s.rvSuper word fun h => h.retire)
  else if rvF3 w ≠ 4 then none
  else if nbits 31 1 w = 1 ∧ nbits 28 2 w = 0 ∧ (nbits 25 1 w = 1 ∨ nbits 22 4 w = 7) then some (.ok (s.hartGive (rvRd w) 0))
  else if nbits 28 4 w = 6 then s.rvVirtual w
  else none

/-! Floating point. -/

/-- A floating-point register. -/
def Hart.fr (h : Hart) (r : RegX) : Word := mget 0 h.f r.toNat
def Hart.setF (h : Hart) (r : RegX) (w : Word) : Hart := { h with f := mset 0 h.f r.toNat w }
/-- A value of some bits in a register: ones above it. -/
def fpBox (bits : Nat) (v : Nat) : Word := BitVec.ofNat 64 (2 ^ 64 - 2 ^ bits + v % 2 ^ bits)
/-- The canonical NaN of a width, and its widths of exponent and fraction. -/
def fpParts (bits : Nat) : Nat × Nat := if bits = 64 then (11, 52) else if bits = 32 then (8, 23) else (5, 10)
def fpNan (bits : Nat) : Nat := let p := fpParts bits; (2 ^ (p.1 + 1) - 1) * 2 ^ (p.2 - 1)
/-- The value of a register as one of a width: the canonical NaN when it does not hold one. -/
def fpUnbox (bits : Nat) (w : Word) : Nat := if fpBox bits w.toNat = w then w.toNat % 2 ^ bits else fpNan bits
/-- Exceptions accrue in fflags. -/
def Hart.fpFlags (h : Hart) (n : Nat) : Hart := { h with csrs := mset 0 h.csrs 0x003 (mget 0 h.csrs 0x003 ||| BitVec.ofNat 64 (n % 32)) }
/-- A rounding mode that an instruction may name. -/
def Hart.fpRound (h : Hart) (rm : Nat) : Bool := rm < 5 || (rm = 7 && nbits 5 3 (mget 0 h.csrs 0x003).toNat < 5)

def fpIsNan (bits v : Nat) : Bool := let p := fpParts bits; nbits p.2 p.1 v = 2 ^ p.1 - 1 && nbits 0 p.2 v ≠ 0
def fpIsSnan (bits v : Nat) : Bool := fpIsNan bits v && nbits ((fpParts bits).2 - 1) 1 v = 0
/-- The place of a number in the order of numbers; -0 and +0 have one place. -/
def fpKey (bits v : Nat) : Int := if nbits (bits - 1) 1 v = 1 then -(nbits 0 (bits - 1) v : Int) else nbits 0 (bits - 1) v

/-- A class of ten: a bit of fclass. -/
def fpClass (bits v : Nat) : Nat :=
  let p := fpParts bits
  let e := nbits p.2 p.1 v
  let m := nbits 0 p.2 v
  let neg := nbits (bits - 1) 1 v = 1
  if fpIsNan bits v then (if fpIsSnan bits v then 2 ^ 8 else 2 ^ 9)
  else if e = 2 ^ p.1 - 1 then (if neg then 2 ^ 0 else 2 ^ 7)
  else if e = 0 ∧ m = 0 then (if neg then 2 ^ 3 else 2 ^ 4)
  else if e = 0 then (if neg then 2 ^ 2 else 2 ^ 5)
  else if neg then 2 ^ 1 else 2 ^ 6

/-- A comparison and whether it raises the invalid flag: fle, flt, feq, fleq and fltq by the low bits of the word. -/
def fpCompare (bits f3 a b : Nat) : Option (Bool × Bool) :=
  let nan := fpIsNan bits a || fpIsNan bits b
  let snan := fpIsSnan bits a || fpIsSnan bits b
  let le := !nan && fpKey bits a ≤ fpKey bits b
  let lt := !nan && fpKey bits a < fpKey bits b
  match f3 with
  | 0 => some (le, nan)
  | 1 => some (lt, nan)
  | 2 => some (!nan && fpKey bits a == fpKey bits b, snan)
  | 4 => some (le, snan)
  | 5 => some (lt, snan)
  | _ => none

/-- The sign that fsgnj, fsgnjn and fsgnjx give. -/
def fpSign (bits f3 a b : Nat) : Option Nat :=
  let top := 2 ^ (bits - 1)
  let sa := a / top % 2
  let sb := b / top % 2
  match f3 with
  | 0 => some (a % top + top * sb)
  | 1 => some (a % top + top * (1 - sb))
  | 2 => some (a % top + top * ((sa + sb) % 2))
  | _ => none

/-- fmin and fmax (and fminm, fmaxm): the result and the invalid flag. -/
def fpMinMax (bits f3 a b : Nat) : Option (Nat × Bool) :=
  let snan := fpIsSnan bits a || fpIsSnan bits b
  let na := fpIsNan bits a
  let nb := fpIsNan bits b
  let top := 2 ^ (bits - 1)
  let below := fun (a b : Nat) => fpKey bits a < fpKey bits b || (fpKey bits a == fpKey bits b && b / top < a / top)
  let pick := if f3 % 2 = 0 then (if below b a then b else a) else if below a b then b else a
  match f3 with
  | 0 | 1 => some (if na && nb then fpNan bits else if na then b else if nb then a else pick, snan)
  | 2 | 3 => some (if na || nb then fpNan bits else pick, snan)
  | _ => none

/-- A free result in a floating-point register or, for a conversion to an integer, in an integer register (n of whose low bits it may set, the rest
being copies of the highest), with free flags (log 8). -/
def State.fpFree (s : State) (rd : RegX) (bits : Nat) : State :=
  (s.setHx (((s.hx.setF rd (fpBox bits (Config.freeBits s.free).toNat)).fpFlags (s.pick 32)).retire)).took
def State.fpFreeInt (s : State) (rd : RegX) (word : Bool) : State :=
  let v : Word := (Config.freeBits s.free).setWidth 64
  (s.setHx (((s.hx.setX rd (if word then rvW v else v)).fpFlags (s.pick 32)).retire)).took

/-- The width of a format: half precision has moves, conversions and accesses alone. -/
def fpBits (fmt : Nat) : Option Nat :=
  match fmt with
  | 0 => some 32
  | 1 => some 64
  | 2 => some 16
  | _ => none

/-- A word of OP-FP: moves, signs, classes, comparisons and extremes as the family gives them; the other results are free. -/
def State.rvFp (s : State) (w : Nat) : Option (HAct State) :=
  (fpBits (nbits 25 2 w)).bind fun bits =>
  let h := s.hx
  let rd := rvRd w
  let rs2 := (rvRs2 w).toNat
  let f3 := rvF3 w
  let a := fpUnbox bits (h.fr (rvRs1 w))
  let b := fpUnbox bits (h.fr (rvRs2 w))
  let full := bits ≠ 16
  let put := fun (v : Nat) (flags : Nat) => some (.ok (s.setHx (((h.setF rd (fpBox bits v)).fpFlags flags).retire)) : HAct State)
  let give := fun (v : Word) (flags : Nat) => some (.ok (s.setHx (((h.setX rd v).fpFlags flags).retire)) : HAct State)
  let free := fun (ok : Bool) => if ok ∧ h.fpRound f3 then some (.ok (s.fpFree rd bits) : HAct State) else none
  match nbits 27 5 w with
  | 0x00 | 0x01 | 0x02 | 0x03 => free full
  | 0x0B => free (full ∧ rs2 = 0)
  | 0x04 => if full then (fpSign bits f3 a b).bind fun v => put v 0 else none
  | 0x05 => if full then (fpMinMax bits f3 a b).bind fun r => put r.1 (16 * r.2.toNat) else none
  | 0x08 => free (rs2 < 3 ∧ rs2 ≠ nbits 25 2 w ∨ full ∧ (rs2 = 4 ∨ rs2 = 5))
  | 0x14 => if full then (fpCompare bits f3 a b).bind fun r => give (BitVec.ofNat 64 r.1.toNat) (16 * r.2.toNat) else none
  | 0x18 =>
    if full ∧ rs2 < 4 ∧ h.fpRound f3 then some (.ok (s.fpFreeInt rd (rs2 < 2)))
    else if bits = 64 ∧ rs2 = 8 ∧ f3 = 1 then some (.ok (s.fpFreeInt rd true))
    else none
  | 0x1A => free (full ∧ rs2 < 4)
  | 0x1C =>
    if rs2 ≠ 0 then none
    else if f3 = 0 then give (if bits = 64 then h.fr (rvRs1 w) else extendTo true (bits / 8) ((h.fr (rvRs1 w)).toNat % 2 ^ bits)) 0
    else if f3 = 1 ∧ full then give (BitVec.ofNat 64 (fpClass bits a)) 0
    else none
  | 0x1E =>
    if f3 ≠ 0 then none
    else if rs2 = 0 then put (h.xr (rvRs1 w)).toNat 0
    else if rs2 = 1 ∧ full then some (.ok (s.fpFree rd bits))
    else none
  | _ => none

/-- A fused multiply-add: a free result. -/
def State.rvFma (s : State) (w : Nat) : Option (HAct State) :=
  match fpBits (nbits 25 2 w) with
  | some bits => if bits ≠ 16 ∧ s.hx.fpRound (rvF3 w) then some (.ok (s.fpFree (rvRd w) bits)) else none
  | none => none

/-- A floating-point load or store of 2, 4 or 8 bytes. -/
def State.rvFpAccess (s : State) (store : Bool) (w : Nat) : HAct State :=
  let size := 2 ^ rvF3 w
  let h := s.hx
  if store then (s.hartStore (h.xr (rvRs1 w) + rvS w) (leBytes size (h.fr (rvRs2 w)).toNat)).map fun t => t.setHx t.hx.retire
  else (s.hartRead .read (h.xr (rvRs1 w) + rvI w) size 1).map fun r =>
    r.2.2.setHx ((r.2.2.hx.setF (rvRd w) (fpBox (8 * size) (leNat r.2.1))).retire)

/-! Vectors: VLEN is 256 (R295). -/

/-- The vector length and type (vl, vtype). -/
def Hart.vl (h : Hart) : Nat := (mget 0 h.csrs 0xC20).toNat
def Hart.vtype (h : Hart) : Word := mget 0 h.csrs 0xC21
/-- The logarithms of the element width in bits and of the group multiplier; none for a type that is none. -/
def vtypeOf (t : Word) : Option (Nat × Int) :=
  let lmul : Int := if nbits 0 3 t.toNat < 4 then nbits 0 3 t.toNat else (nbits 0 3 t.toNat : Int) - 8
  let sew := nbits 3 3 t.toNat + 3
  if t.toNat / 256 ≠ 0 ∨ nbits 0 3 t.toNat = 4 ∨ 6 < sew ∨ 6 + lmul < sew then none else some (sew, lmul)
/-- The elements of a group (VLMAX). -/
def vlmax (t : Nat × Int) : Nat := 2 ^ (8 + t.2 - t.1).toNat
/-- The registers of a group. -/
def vregs (lmul : Int) : Nat := 2 ^ lmul.toNat

/-- vsetvli, vsetivli and vsetvl. -/
def State.rvVset (s : State) (w : Nat) : Option (HAct State) :=
  let h := s.hx
  let rd := rvRd w
  let form : Option (Word × Option Nat) :=
    let avl := if rvRs1 w ≠ 0 then some (h.xr (rvRs1 w)).toNat else if rd ≠ 0 then some (2 ^ 64 - 1) else none
    if nbits 31 1 w = 0 then some (BitVec.ofNat 64 (nbits 20 11 w), avl)
    else if nbits 30 2 w = 3 then some (BitVec.ofNat 64 (nbits 20 10 w), some (nbits 15 5 w))
    else if rvF7 w = 0x40 then some (h.xr (rvRs2 w), avl)
    else none
  form.map fun f =>
    let set := fun (vl : Nat) (t : Word) =>
      let h := { h with csrs := mset 0 (mset 0 h.csrs 0xC20 (BitVec.ofNat 64 vl)) 0xC21 t, vstart := 0 }
      (.ok (s.setHx ((h.setX rd (BitVec.ofNat 64 vl)).retire)) : HAct State)
    match vtypeOf f.1, f.2 with
    | none, _ => set 0 0x8000000000000000
    | some t, some avl => set (min avl (vlmax t)) f.1
    | some t, none => if (vtypeOf h.vtype).map vlmax = some (vlmax t) then set (min h.vl (vlmax t)) f.1 else set 0 0x8000000000000000

/-- Element i of a register group, as a number. -/
def Hart.velem (h : Hart) (vs size i : Nat) : Nat :=
  let p := vecElem (BitVec.ofNat 5 vs) size i
  nbits p.2 (8 * size) (mget 0 h.v p.1).toNat
/-- The mask lets element i take part. -/
def Hart.vactive (h : Hart) (w i : Nat) : Bool := nbits 25 1 w = 1 || (mget 0 h.v 0).getLsbD i

/-- What a vector access of a word does: the bytes of an element of its data, its elements, and whether it stops quietly at a failing element but the
first; none for a word that the present vector type makes reserved. -/
def Hart.vecForm (h : Hart) (w : Nat) : Option (Nat × List VecEl × Bool) :=
  let store := w % 128 = 0x27
  let vd := (rvRd w).toNat
  let base := h.xr (rvRs1 w)
  let nf := nbits 29 3 w + 1
  let mop := nbits 26 2 w
  let lum := (rvRs2 w).toNat
  let eew := if rvF3 w = 0 then 3 else rvF3 w - 1
  let bytes := 2 ^ (eew - 3)
  let at_ := fun (n : Nat) => base + BitVec.ofNat 64 n
  if nbits 28 1 w = 1 then none
  else if mop = 0 ∧ lum = 8 then
    if (nf = 1 ∨ nf = 2 ∨ nf = 4 ∨ nf = 8) ∧ nbits 25 1 w = 1 ∧ vd % nf = 0 ∧ (store → eew = 3) then
      some (bytes, (List.range (32 * nf / bytes)).map fun i => ⟨i, 0, at_ (bytes * i), true⟩, false)
    else none
  else match vtypeOf h.vtype with
    | none => none
    | some (sew, lmul) =>
      let emul : Int := if mop % 2 = 1 then lmul else (eew : Int) - sew + lmul
      let data := if mop % 2 = 1 then 2 ^ (sew - 3) else bytes
      let index : Int := (eew : Int) - sew + lmul
      let legal := -3 ≤ emul && emul ≤ 3 && nf * vregs emul ≤ 8 && vd % vregs emul = 0 && vd + nf * vregs emul ≤ 32
        && (store || nbits 25 1 w = 1 || vd ≠ 0)
      let els := fun (place : Nat → Nat → Word) =>
        (List.range h.vl).flatMap fun i => (List.range nf).map fun f => (⟨i, f * vregs emul, place i f, h.vactive w i⟩ : VecEl)
      if mop = 0 ∧ lum = 0x0B then
        if nf = 1 ∧ eew = 3 ∧ nbits 25 1 w = 1 then some (1, (List.range ((h.vl + 7) / 8)).map fun i => ⟨i, 0, at_ i, true⟩, false) else none
      else if !legal then none
      else if mop = 0 then
        if lum = 0 ∨ (lum = 0x10 ∧ !store) then some (data, els fun i f => at_ (data * (nf * i + f)), lum = 0x10) else none
      else if mop = 2 then some (data, els fun i f => base + h.xr (rvRs2 w) * BitVec.ofNat 64 i + BitVec.ofNat 64 (data * f), false)
      else if -3 ≤ index ∧ index ≤ 3 ∧ lum % vregs index = 0 then
        some (data, els fun i f => base + BitVec.ofNat 64 (h.velem lum bytes i) + BitVec.ofNat 64 (data * f), false)
      else none

/-- A vector load or store (R300). A fault-only-first load that fails at a later element ends there and shortens vl. -/
def State.rvVecAccess (s : State) (w : Nat) : Option (HAct State) :=
  (s.hx.vecForm w).map fun f =>
    let done := fun (t : State) => t.setHx t.hx.retire
    match s.hartVector (w % 128 = 0x27) (rvRd w) f.1 f.2.1 with
    | .ok t => .ok (done t)
    | .error (.exc e t) =>
      if f.2.2 ∧ t.hx.vstart ≠ 0 then
        .ok (done (t.setHx { t.hx with csrs := mset 0 t.hx.csrs 0xC20 (BitVec.ofNat 64 t.hx.vstart), vstart := 0 }))
      else .error (.exc e t)
    | .error .stall => .error .stall

/-- Registers of a group hold free values. -/
def Hart.freeV (h : Hart) (free vd n : Nat) : Hart :=
  { h with v := (List.range n).foldl (fun m i => mput m ((vd + i) % 32) ((Config.freeBits (free + i)).setWidth 256)) h.v }

/-- A vector operation of OP-V: moves between element 0 and a scalar register, and moves of whole registers, as the family gives them. Of every other
one the results are free values, in the registers that it may write, twice its group at most; a free value says whether the word is reserved (log 8). -/
def State.rvVecOp (s : State) (w : Nat) : Option (HAct State) :=
  let h := s.hx
  let rd := rvRd w
  let f6 := nbits 26 6 w
  let vs2 := (rvRs2 w).toNat
  let vs1 := (rvRs1 w).toNat
  let f3 := rvF3 w
  let done := fun (h : Hart) => s.setHx ({ h with vstart := 0 }.retire)
  if f6 = 0x27 ∧ f3 = 3 ∧ nbits 25 1 w = 1 then
    let n := vs1 + 1
    if (n = 1 ∨ n = 2 ∨ n = 4 ∨ n = 8) ∧ rd.toNat % n = 0 ∧ vs2 % n = 0 then
      some (.ok (done { h with v := (List.range n).foldl (fun m i => mput m (rd.toNat + i) (mget 0 h.v (vs2 + i))) h.v }))
    else none
  else match vtypeOf h.vtype with
  | none => none
  | some (sew, lmul) =>
    let size := 2 ^ (sew - 3)
    let one := f6 = 0x10 ∧ nbits 25 1 w = 1
    let put := fun (v : Nat) =>
      if h.vl = 0 ∨ 0 < h.vstart then done h else done { h with v := mput h.v rd.toNat (putField (mget 0 h.v rd.toNat) 0 (8 * size) v) }
    if one ∧ f3 = 2 ∧ vs1 = 0 then some (.ok (done (h.setX rd (extendTo true size (h.velem vs2 size 0)))))
    else if one ∧ f3 = 6 ∧ vs2 = 0 then some (.ok (put (h.xr (rvRs1 w)).toNat))
    else if one ∧ f3 = 1 ∧ vs1 = 0 ∧ 4 ≤ sew then some (.ok (done (h.setF rd (fpBox (8 * size) (h.velem vs2 size 0)))))
    else if one ∧ f3 = 5 ∧ vs2 = 0 ∧ 4 ≤ sew then some (.ok (put (fpUnbox (8 * size) (h.fr (rvRs1 w)))))
    else if s.pick 2 = 0 then none
    else
      let n := min 8 (2 * vregs lmul)
      let out := if f6 = 0x10 ∧ f3 = 2 then h.setX rd ((Config.freeBits s.free).setWidth 64) else h.freeV s.free rd.toNat n
      let flags := { out with csrs := mset 0 out.csrs 0x00F (mget 0 out.csrs 0x00F ||| BitVec.ofNat 64 (Config.freeNat s.free % 2)) }.fpFlags (Config.freeNat (s.free + 1))
      some (.ok ((s.setHx ({ flags with vstart := 0 }.retire)).tookMany 8))

/-! Every word. -/

/-- The effect of a 32-bit word of the extensions. -/
def State.rvMore (s : State) (w : Nat) : Option (HAct State) :=
  match w % 128 with
  | 0x07 | 0x27 =>
    if rvF3 w = 1 ∨ rvF3 w = 2 ∨ rvF3 w = 3 then some (s.rvFpAccess (w % 128 = 0x27) w)
    else if rvF3 w = 4 then none
    else s.rvVecAccess w
  | 0x0F => s.rvCbo w
  | 0x43 | 0x47 | 0x4B | 0x4F => s.rvFma w
  | 0x53 => s.rvFp w
  | 0x57 => if rvF3 w = 7 then s.rvVset w else s.rvVecOp w
  | 0x73 => s.rvSystem2 w
  | _ => (s.rvBit w).map fun v => .ok (s.hartGive (rvRd w) v)

/-- An instruction of the RISC-V family ends with its length behind it: the words of the extensions count four bytes. -/
def HAct.shorten (a : HAct State) (len : Word) : HAct State := a.map fun t => t.setHx { t.hx with pc := t.hx.pc + len - 4 }

/-- The effect of a word of a hart that is no Xenx instruction (R295; log 8): of the base machine, of the extensions, or an illegal instruction, with
the word in stval. -/
def State.rvWord (s : State) (w : Nat) : HAct State :=
  let illegal : HAct State := s.exc 2 (BitVec.ofNat 64 w)
  if w % 4 = 3 then ((s.rvExec 4 w).orElse fun _ => s.rvMore w).getD illegal
  else match rvExpand w with
    | none => illegal
    | some x => ((s.rvExec 2 x).orElse fun _ => (s.rvMore x).map fun a => HAct.shorten a 2).getD illegal

end Sys2Proof.Machine
end

