-- ==== Sys2Proof/Machine/Run.lean ====
section
/-! DEFINITION. What a turn does before an instruction runs: an engine fetches its line, waits at a join and finds its next lane (R53, R73,
R168, R171, R172, R174); a hart fetches its word (R295, R302); a pipe processes a row (R250); time passes (R9, R25, R409). -/

namespace Sys2Proof.Machine
open Sys2Proof

/-- What a turn comes to: the state after it; an instruction to run; or the end of the run. -/
inductive Ready where | done (s : State) | run (i : Instr) (s : State) | stop (o : Res)

/-- An engine moves its program counter to a slot in line order. -/
def State.moveTo (s : State) (cell ctx : Nat) (e : Eng) (p : Slot) : State :=
  let x := s.ctx cell ctx
  s.setCtx cell ctx (x.setEng e { x.eng e with pc := p })

/-- An engine may move: its context holds an invocation and it is neither stopped nor ended (R74, R344). -/
def Ctx.moves (x : Ctx) (e : Eng) : Bool := (x.st == .running || x.st == .suspended) && (x.eng e).st == .running

/-- An engine must wait at a join line that it has reached (R73, R171). -/
def Ctx.mustJoin (x : Ctx) (e : Eng) (b : BitVec 256) : Bool := isJoin b && (x.eng e).passed != some (lineSlot (x.eng e).pc)

/-- An engine has its line: it holds it, and what waited for the line is over. -/
def State.haveLine (s : State) (cell ctx : Nat) (e : Eng) (b : BitVec 256) : State :=
  let x := s.ctx cell ctx
  let c := x.eng e
  s.setCtx cell ctx (x.setEng e { c with line := some (lineSlot c.pc, b), waited := none })

/-- The engine goes back to a branch, which has no effect (R173). -/
def Ctx.undoBranch (x : Ctx) (e : Eng) (u : Unchecked) : Ctx :=
  (x.putLink u.link).setEng e { x.eng e with pc := u.src, line := u.line, passed := u.passed, unchecked := none }

/-- The check of a branch's target that was still to come (R173; log 15): with its line there, an engine that went to an illegal target stops at
its branch, which had no effect. An engine that has left the target's line is not checked any more. -/
def State.checkLate (s : State) (cell ctx : Nat) (e : Eng) (b : BitVec 256) : State × Option (BitVec 256) :=
  let x := s.ctx cell ctx
  let c := x.eng e
  match c.unchecked with
  | none => (s, some b)
  | some u =>
    if lineSlot u.target ≠ lineSlot c.pc ∨ targetOk b e u.target then (s.setCtx cell ctx (x.setEng e { c with unchecked := none }), some b)
    else ((s.setCtx cell ctx (x.undoBranch e u)).raise cell ctx e (whyTarget u.target) 0 0, none)

/-- LINE_FETCH (R53, R124, R168, R173, R347): an engine has the line that holds its program counter, or fetches it and checks its header; one that
meets a pending staging slot waits, and one that cannot have its line stops. -/
def State.takeLine (s : State) (cell ctx : Nat) (e : Eng) : State × Option (BitVec 256) :=
  let x := s.ctx cell ctx
  let pc := (x.eng e).pc
  match (x.eng e).line.filter fun l => l.1 == lineSlot pc with
  | some l => (s, some l.2)
  | none => match s.fetchLine cell x.kmode pc with
    | .error (.pending pa, s) => ({ s with cur := ⟨cell, ctx, s.cur.core⟩ }.noteLate e false pa, none)
    | .error (.fault w, s) => (s.raise cell ctx e w 0 0, none)
    | .ok (b, s) =>
      match (s.tileCame cell ctx e).checkLate cell ctx e b with
      | (s, none) => (s, none)
      | (s, some b) =>
        if headerOk b then (s.haveLine cell ctx e b, some b)
        else (s.raise cell ctx e ⟨2, 6, 0xFF, 0, 0, 0⟩ 0 0, none)

/-- The fetch of an engine (R53, R168, R171, R172): its line, checked; a join line stops it until the rendezvous; else its program counter
stands at its next lane in the line, whose place is answered, or moves to the next line: there it stands at the header's slot until it has the
line, and stops there when the line is illegal (DESIGN CHOICE, log 70). -/
def State.fetch (s : State) (cell ctx : Nat) (e : Eng) : State × Option (BitVec 256 × Nat) :=
  match s.takeLine cell ctx e with
  | (s, none) => (s, none)
  | (s, some b) =>
    let x := s.ctx cell ctx
    let pc := (x.eng e).pc
    if x.mustJoin e b && (firstLane b e 1).isSome then
      let own := ((firstLane b e (pc.toNat % 8)).map fun k => lineSlot pc + BitVec.ofNat 55 k).getD pc
      (s.setCtx cell ctx (x.setEng e { x.eng e with joining := true, pc := own }), none)
    else match firstLane b e (pc.toNat % 8) with
      | none => (s.moveTo cell ctx e (lineSlot pc + 8), none)
      | some k => (s.moveTo cell ctx e (lineSlot pc + BitVec.ofNat 55 k), some (b, k))

/-- LINE_FETCH (R53, R168): an engine that may move has its line. -/
def execEvLineFetch (cell ctx : Nat) (eng : Eng) (s : State) : Res :=
  .next (if !(s.ctx cell ctx).moves eng || s.isTaken cell ctx then s else (s.takeLine cell ctx eng).1)

/-- An engine that waits at a join line. -/
def EngC.joinsAt (c : EngC) (l : Slot) : Bool := c.st == .running && c.joining && lineSlot c.pc == l

/-- The join line at which every engine with lanes has arrived (R73). -/
def Ctx.meeting (x : Ctx) : Option Slot :=
  ([Eng.x, .a, .m].filter fun e => (x.eng e).st == .running && (x.eng e).joining).findSome? fun e =>
    match (x.eng e).line with
    | some (l, b) =>
      if l == lineSlot (x.eng e).pc && [Eng.x, .a, .m].all (fun f => (firstLane b f 1).isNone || (x.eng f).joinsAt l) then some l else none
    | none => none

/-- An engine is released from the join line it waits at; it acquires what its partners did before it (R73, R133). -/
def EngC.release (c : EngC) (l : Slot) (now : Nat) : EngC :=
  if c.joinsAt l then { c with joining := false, passed := some l, horizon := now } else c

/-- A join orders as fence ctx does (R73, R133): while A has lanes in the line, its groups are performed first (log 53). -/
def Ctx.joinWaits (x : Ctx) : Bool := x.ea.st == .running && x.ea.joining && (x.loadsFly || x.storesFly)

/-- JOIN_RENDEZVOUS (R73, R133, R171). -/
def execEvJoinRendezvous (cell ctx : Nat) (s : State) : Res :=
  .next (
    let x := s.ctx cell ctx
    match x.meeting with
    | some l =>
      if s.isTaken cell ctx || x.joinWaits then s
      else s.setCtx cell ctx { x with ex := x.ex.release l s.now, ea := x.ea.release l s.now, em := x.em.release l s.now }
    | none => s)

/-- The turn of an engine. M stalls before its next instruction while its context does not hold the claim (R249). -/
def State.engineTurn (s : State) (cell ctx : Nat) (e : Eng) : Ready :=
  if !(s.ctx cell ctx).moves e || s.isTaken cell ctx then .done s
  else match s.fetch cell ctx e with
    | (s, none) => .done s
    | (s, some (b, k)) =>
      let w := laneWord b k
      if e = .m ∧ (s.cell cell).claim ≠ some ctx then .done s
      else if e = .x ∧ privilegedX w ∧ !(s.ctx cell ctx).kmode then .done (s.raise cell ctx e ⟨4, 6, 0xFF, 0, 0, 0⟩ 0 0)
      else match decodeEng e w (extWord b e k) with
        | none => .done (s.raise cell ctx e whyIllegal 0 0)
        | some i => .run i s

/-- The turn of a hart (R295, R302): a word of the custom opcodes is a Xenx instruction or illegal; every other word belongs to the standard
machine, as log 8 gives it. stval of an illegal instruction holds the word (log 8). -/
def State.hartTurn (s : State) : Ready :=
  if Config.cores ≤ s.cur.core ∨ !s.hx.moves then .done s
  else match s.hartFetch with
    | .error e => .done (s.hartEnd (.error e))
    | .ok (w, t) =>
      if customWord w then match rawH w.toNat with
        | some i => .run i t
        | none => .done (t.hartEnd (t.exc 2 (zext w)))
      else .done (t.hartEnd (t.rvWord w.toNat))

/-- A watchdog counts while its invocation runs and no fault of it is outstanding (R25, R342). -/
def Ctx.tick (x : Ctx) (n : Nat) : Ctx :=
  if x.st = .running then { x with wdcnt := x.wdcnt + n } else x

/-- The contexts whose watchdog count has reached its limit (R25). -/
def State.overdue (s : State) : List (Nat × Nat) :=
  s.cells.flatMap fun e => (e.2.ctxs.filter fun f => f.2.st == .running && f.2.limit ≤ f.2.wdcnt).map fun f => (e.1, f.1)

/-- The counters of time and the watchdogs move on (R9, R25, R62, R409). freq counts 100 MHz. -/
def State.tickAll (s : State) (n : Nat) : State :=
  let t := 10 * n + s.timeRem
  { s with
    cycle := s.cycle + BitVec.ofNat 64 n
    time := s.time + BitVec.ofNat 64 (t / s.freq)
    timeRem := t % s.freq
    cells := s.cells.map fun e => (e.1, { e.2 with ctxs := e.2.ctxs.map fun f => (f.1, f.2.tick n) }) }

/-- Cycles pass; no watchdog runs past its limit (R25, R52), and no deadline by more than 1,000 ns (R44). -/
def State.clockTurn (s : State) (n : Nat) : State :=
  let s := s.tickAll n
  (s.overdue.foldl (fun s c => s.serviceTrap c.1 c.2 0x20 0) s).expireLate

/-- Who moves now, and the state with that turn taken from the agenda (log 1). -/
def State.turn (s : State) : Turn × State :=
  match s.agenda with
  | t :: rest => (t, { s with agenda := rest })
  | [] => (freeTurn s.free, s.took)

/-- One turn, up to the instruction it runs. -/
def State.ready (s : State) : Ready :=
  let (t, s) := s.turn
  let s := { s with now := s.now + 1 }
  match t with
  | .engine cell ctx e => { s with cur := ⟨cell, ctx, 0⟩ }.engineTurn cell ctx e
  | .hart core => { s with cur := ⟨0, 0, core⟩ }.hartTurn
  | .pipe cell p => .done (s.pipeTurn cell p)
  | .clock n => .done (s.clockTurn n)
  | .event i => if i.who = .device then .run i s else .done s

/-! Where a word is placed so that the next turn fetches and runs it. -/

/-- The engine whose instruction a word is. -/
def wordEng (nbits w : Nat) : Exec :=
  match decodeTableWord nbits w with
  | some i => i.who
  | none => .eng .x

/-- A line that holds one instruction of an engine in lane 1. -/
def oneLine (e : Eng) (w : Nat) : BitVec 256 :=
  let two := twoLane e (w % 2 ^ 32)
  let header := if two then 0x0FFFFF00 + 16 * (engNo e + 4) + engNo e else 0x0FFFFFF0 + engNo e
  BitVec.ofNat 256 (header + w % 2 ^ (if two then 64 else 32) * 2 ^ 32)

/-- Context 0 of cell 0 stands before a line that its instruction store holds. -/
def State.placeLine (s : State) (e : Eng) (w : Nat) : State :=
  let k := s.cell 0
  let x := k.ctx 0
  let x := { x with st := .running }.setEng e { x.eng e with st := .running, pc := 1, joining := false, line := none, unchecked := none, waited := none }
  let k := { k with istore := [⟨k.tag, 0, true, oneLine e w⟩], claim := if e = Eng.m then some 0 else k.claim }
  { s.setCell 0 (k.setCtx 0 x) with agenda := [.engine 0 0 e] }

/-- Core 0 stands before a word in memory, in M mode. -/
def State.placeHart (s : State) (w : Nat) : State :=
  let s := ({ s with poison := mdel s.poison 0 }.setDir 0 DirE.reset).memPut (addrBytes 0 (leBytes 4 w))
  { s.setHart 0 { s.hart 0 with mode := .m, pc := 0, stopped := false, sending := none, wait_ := none } with agenda := [.hart 0] }

/-- A word placed where the next turn fetches it: for an engine its line, for a hart memory at its program counter. -/
def State.placeWord (s : State) (nbits w : Nat) : State :=
  match wordEng nbits w with
  | .hart => s.placeHart w
  | .eng e => s.placeLine e w
  | .device => s.placeLine .x w

end Sys2Proof.Machine
end

