-- ==== Sys2Proof/Machine/Scalar.lean ====
section
/-! DEFINITION. The scalar, predicate and CSR instructions of X (R188 to R201). -/

namespace Sys2Proof.Machine
open Sys2Proof

/-- NOP (R188). -/
def execXNop (g : GuardP) (s : State) : Res := .next (s.xRun g [] 1 .ok)

/-- The signed smaller of two words (R191). -/
def smaller (a b : Word) : Word := if b.slt a then b else a
/-- The signed larger of two words (R191). -/
def larger (a b : Word) : Word := if a.slt b then b else a
/-- Signed division of R80 and R192. -/
def divS (a b : Word) : Word := if b = 0 then BitVec.allOnes 64 else BitVec.ofInt 64 (a.toInt.tdiv b.toInt)
/-- Unsigned division of R80 and R192. -/
def divU (a b : Word) : Word := if b = 0 then BitVec.allOnes 64 else BitVec.ofNat 64 (a.toNat / b.toNat)
/-- Signed remainder of R80 and R192. -/
def remS (a b : Word) : Word := if b = 0 then a else BitVec.ofInt 64 (a.toInt - b.toInt * a.toInt.tdiv b.toInt)
/-- Unsigned remainder of R80 and R192. -/
def remU (a b : Word) : Word := if b = 0 then a else BitVec.ofNat 64 (a.toNat % b.toNat)
/-- The amount of a register shift: bits [5:0] (R191). -/
def shiftBy (b : Word) : Nat := b.toNat % 64

/-- ADD (R191). -/
def execXAdd (d a b : RegG) (g : GuardP) (s : State) : Res := .next (s.xTwo d a b g fun a b => a + b)
/-- SUB (R191). -/
def execXSub (d a b : RegG) (g : GuardP) (s : State) : Res := .next (s.xTwo d a b g fun a b => a - b)
/-- AND (R191). -/
def execXAnd (d a b : RegG) (g : GuardP) (s : State) : Res := .next (s.xTwo d a b g fun a b => a &&& b)
/-- OR (R191). -/
def execXOr (d a b : RegG) (g : GuardP) (s : State) : Res := .next (s.xTwo d a b g fun a b => a ||| b)
/-- XOR (R191). -/
def execXXor (d a b : RegG) (g : GuardP) (s : State) : Res := .next (s.xTwo d a b g fun a b => a ^^^ b)
/-- ANDN (R191). -/
def execXAndn (d a b : RegG) (g : GuardP) (s : State) : Res := .next (s.xTwo d a b g fun a b => a &&& ~~~b)
/-- SHL (R191). -/
def execXShl (d a b : RegG) (g : GuardP) (s : State) : Res := .next (s.xTwo d a b g fun a b => a <<< shiftBy b)
/-- SHR (R191). -/
def execXShr (d a b : RegG) (g : GuardP) (s : State) : Res := .next (s.xTwo d a b g fun a b => a >>> shiftBy b)
/-- SRA (R191). -/
def execXSra (d a b : RegG) (g : GuardP) (s : State) : Res := .next (s.xTwo d a b g fun a b => a.sshiftRight (shiftBy b))
/-- MIN (R191). -/
def execXMin (d a b : RegG) (g : GuardP) (s : State) : Res := .next (s.xTwo d a b g fun a b => smaller a b)
/-- MAX (R191). -/
def execXMax (d a b : RegG) (g : GuardP) (s : State) : Res := .next (s.xTwo d a b g fun a b => larger a b)
/-- MINU (R191). -/
def execXMinu (d a b : RegG) (g : GuardP) (s : State) : Res := .next (s.xTwo d a b g fun a b => if b.ult a then b else a)
/-- MAXU (R191). -/
def execXMaxu (d a b : RegG) (g : GuardP) (s : State) : Res := .next (s.xTwo d a b g fun a b => if a.ult b then b else a)
/-- MUL (R192). -/
def execXMul (d a b : RegG) (g : GuardP) (s : State) : Res := .next (s.xTwo d a b g fun a b => a * b)
/-- MULH (R192). -/
def execXMulh (d a b : RegG) (g : GuardP) (s : State) : Res := .next (s.xTwo d a b g fun a b => BitVec.ofInt 64 (a.toInt * b.toInt / 2 ^ 64))
/-- MULHU (R192). -/
def execXMulhu (d a b : RegG) (g : GuardP) (s : State) : Res := .next (s.xTwo d a b g fun a b => BitVec.ofNat 64 (a.toNat * b.toNat / 2 ^ 64))
/-- DIV (R192). -/
def execXDiv (d a b : RegG) (g : GuardP) (s : State) : Res := .next (s.xTwo d a b g fun a b => divS a b)
/-- DIVU (R192). -/
def execXDivu (d a b : RegG) (g : GuardP) (s : State) : Res := .next (s.xTwo d a b g fun a b => divU a b)
/-- REM (R192). -/
def execXRem (d a b : RegG) (g : GuardP) (s : State) : Res := .next (s.xTwo d a b g fun a b => remS a b)
/-- REMU (R192). -/
def execXRemu (d a b : RegG) (g : GuardP) (s : State) : Res := .next (s.xTwo d a b g fun a b => remU a b)
/-- CLZ (R191). -/
def execXClz (d a : RegG) (g : GuardP) (s : State) : Res := .next (s.xOne d a g fun a => BitVec.ofNat 64 (leadingZeros a))
/-- CTZ (R191). -/
def execXCtz (d a : RegG) (g : GuardP) (s : State) : Res := .next (s.xOne d a g fun a => BitVec.ofNat 64 (trailingZeros a))
/-- POPC (R191). -/
def execXPopc (d a : RegG) (g : GuardP) (s : State) : Res := .next (s.xOne d a g fun a => BitVec.ofNat 64 (onesBelow 64 a))
/-- ADDI (R193). -/
def execXAddi (d a : RegG) (imm : BitVec 12) (g : GuardP) (s : State) : Res := .next (s.xOne d a g fun a => a + sext imm)
/-- ANDI (R193). -/
def execXAndi (d a : RegG) (imm : BitVec 12) (g : GuardP) (s : State) : Res := .next (s.xOne d a g fun a => a &&& zext imm)
/-- ORI (R193). -/
def execXOri (d a : RegG) (imm : BitVec 12) (g : GuardP) (s : State) : Res := .next (s.xOne d a g fun a => a ||| zext imm)
/-- XORI (R193). -/
def execXXori (d a : RegG) (imm : BitVec 12) (g : GuardP) (s : State) : Res := .next (s.xOne d a g fun a => a ^^^ zext imm)
/-- SHLI (R194). -/
def execXShli (d a : RegG) (sh : BitVec 6) (g : GuardP) (s : State) : Res := .next (s.xOne d a g fun a => a <<< sh.toNat)
/-- SHRI (R194). -/
def execXShri (d a : RegG) (sh : BitVec 6) (g : GuardP) (s : State) : Res := .next (s.xOne d a g fun a => a >>> sh.toNat)
/-- SRAI (R194). -/
def execXSrai (d a : RegG) (sh : BitVec 6) (g : GuardP) (s : State) : Res := .next (s.xOne d a g fun a => a.sshiftRight sh.toNat)
/-- CMP (R195). -/
def execXCmp (cond : Cond) (pd : BitVec 5) (a b : RegG) (g : GuardP) (s : State) : Res :=
  .next (s.xToP g [a, b] (pd.setWidth 7) fun x => allOrNone (condHolds cond (x.gr a) (x.gr b)))
/-- CMPI (R195). -/
def execXCmpi (cond : Cond) (pd : BitVec 5) (a : RegG) (imm : BitVec 9) (g : GuardP) (s : State) : Res :=
  .next (s.xToP g [a] (pd.setWidth 7) fun x => allOrNone (condHolds cond (x.gr a) (sext imm)))
/-- SEL (R196). -/
def execXSel (d : RegG) (k : RegP) (a b : RegG) (g : GuardP) (s : State) : Res :=
  .next (s.xTo g [a, b] 1 d fun x => if (x.pr k).getLsbD 0 then x.gr a else x.gr b)
/-- LIM (R197). -/
def execXLim (d : RegG) (imm : BitVec 32) (g : GuardP) (s : State) : Res := .next (s.xTo g [] 2 d fun _ => sext imm)
/-- LIMH (R197). -/
def execXLimh (d a : RegG) (imm : BitVec 32) (g : GuardP) (s : State) : Res :=
  .next (s.xTo g [a] 2 d fun x => imm ++ (x.gr a).setWidth 32)
/-- PAND (R198). -/
def execXPand (pd pa pb : RegP) (s : State) : Res := .next (s.xPred pd fun x => x.pr pa &&& x.pr pb)
/-- POR (R198). -/
def execXPor (pd pa pb : RegP) (s : State) : Res := .next (s.xPred pd fun x => x.pr pa ||| x.pr pb)
/-- PXOR (R198). -/
def execXPxor (pd pa pb : RegP) (s : State) : Res := .next (s.xPred pd fun x => x.pr pa ^^^ x.pr pb)
/-- PANDN (R198). -/
def execXPandn (pd pa pb : RegP) (s : State) : Res := .next (s.xPred pd fun x => x.pr pa &&& ~~~x.pr pb)
/-- PANY (R198). -/
def execXPany (pd pa pb : RegP) (s : State) : Res := .next (s.xPred pd fun x => allOrNone (x.pr pa &&& x.pr pb != 0))
/-- PALL (R198). -/
def execXPall (pd pa pb : RegP) (s : State) : Res := .next (s.xPred pd fun x => allOrNone (x.pr pa &&& x.pr pb == x.pr pb))
/-- PMOV (R198). -/
def execXPmov (pd pa : RegP) (s : State) : Res := .next (s.xPred pd fun x => x.pr pa)
/-- PSETI (R199). -/
def execXPseti (pd : RegP) (imm : BitVec 16) (s : State) : Res := .next (s.xPred pd fun _ => imm)
/-- PFROM (R200). -/
def execXPfrom (pd : RegP) (ga : RegG) (s : State) : Res :=
  .next (s.xAlways [ga] 1 fun s => .ok (s.setCx (s.cx.setP pd ((s.cx.gr ga).setWidth 16))))
/-- PTO (R200). -/
def execXPto (pd : RegP) (ga : RegG) (s : State) : Res :=
  .next (s.xAlways [ga] 1 fun s => .ok (s.setCx (s.cx.setG ga (zext (s.cx.pr pd)))))
/-- PCNT (R200). -/
def execXPcnt (pd : RegP) (ga : RegG) (s : State) : Res :=
  .next (s.xAlways [ga] 1 fun s => .ok (s.setCx (s.cx.setG ga (BitVec.ofNat 64 (onesBelow 16 (s.cx.pr pd))))))

/-- CSRR (R201). -/
def execXCsrr (d : RegG) (csr : Csr) (g : GuardP) (s : State) : Res :=
  .next (s.xRun g [d] 1 fun s => .ok (s.setCx (s.cx.setG d (s.csr csr))))
/-- CSRW (R201). -/
def execXCsrw (d : RegG) (csr : Csr) (a : RegG) (g : GuardP) (s : State) : Res :=
  .next (s.xRun g [d, a] 1 fun s => .ok (s.setCx ((s.cx.setCsr csr (s.cx.gr a)).setG d (s.csr csr))))
/-- CSRS (R201). -/
def execXCsrs (d : RegG) (csr : Csr) (a : RegG) (g : GuardP) (s : State) : Res :=
  .next (s.xRun g [d, a] 1 fun s => .ok (s.setCx ((s.cx.setCsr csr (s.csr csr ||| s.cx.gr a)).setG d (s.csr csr))))

end Sys2Proof.Machine
end

