-- ==== Sys2Proof/Machine/Trellis.lean ====
section
/-! DEFINITION. The Trellis automaton and its masks (R65, R225 to R230). -/

namespace Sys2Proof.Machine
open Sys2Proof

/-! The registers (R65). -/
def Ctx.gValid (x : Ctx) : Bool := x.gst.getLsbD 12
def Ctx.gState (x : Ctx) : Nat := nbits 0 8 x.gst.toNat
def Ctx.gDepth (x : Ctx) : Nat := nbits 8 4 x.gst.toNat
def Ctx.gStack (x : Ctx) (i : Nat) : Nat := nbits (8 * i) 8 x.gstk.toNat
def Ctx.gVocab (x : Ctx) : Nat := nbits 0 24 x.gdim.toNat
def Ctx.gNst (x : Ctx) : Nat := nbits 32 8 x.gdim.toNat
def Ctx.gNsym (x : Ctx) : Nat := nbits 40 8 x.gdim.toNat
/-- gst of a valid automaton. -/
def gstWord (state depth : Nat) : Word := BitVec.ofNat 64 (state % 256 + depth % 16 * 256 + 4096)
/-- The stack with entry i set. -/
def gstkSet (w : Word) (i v : Nat) : Word := BitVec.ofNat 64 (w.toNat - nbits (8 * i) 8 w.toNat * 2 ^ (8 * i) + v % 256 * 2 ^ (8 * i))

/-- A valid automaton block (R225). -/
def blockOk (b : List Byte) : Bool :=
  let vocab := bnat b 16 3
  let nst := bnat b 20 1
  let nsym := bnat b 21 1
  let depth := bnat b 23 1
  bnat b 0 8 % 4 = 0 && bnat b 8 8 % 64 = 0 && vocab % 512 = 0 && 512 ≤ vocab && vocab ≤ 16776704 && bnat b 19 1 = 0
    && 1 ≤ nsym && bnat b 22 1 ≤ nst && depth ≤ 8 && bnat b 32 32 = 0
    && (List.range 8).all fun i => if i < depth then bnat b (24 + i) 1 < nsym else bnat b (24 + i) 1 = 0

/-- GLOAD (R226). -/
def execXGload (d a : RegG) (g : GuardP) (s : State) : Res :=
  .next (s.xRun g [d, a] 1 fun s =>
    (s.load .x 1 (s.cx.gr a) 64 .weak).map fun r =>
      let b := r.1
      let x := r.2.cx
      let x := if blockOk b then
          { x with
            gst := gstWord (bnat b 22 1) (bnat b 23 1), gstk := BitVec.ofNat 64 (bnat b 24 8)
            gtt := BitVec.ofNat 64 (bnat b 0 8), gmt := BitVec.ofNat 64 (bnat b 8 8)
            gdim := BitVec.ofNat 64 (bnat b 16 3 + bnat b 20 1 * 2 ^ 32 + bnat b 21 1 * 2 ^ 40) }
        else { x with gst := x.gst &&& ~~~4096#64 }
      r.2.setCx (x.setG d (if blockOk b then 0 else 1)))

/-- GSTORE (R226): one weak store of 64 bytes. -/
def execXGstore (a : RegG) (g : GuardP) (s : State) : Res :=
  .next (s.xRun g [a] 1 fun s =>
    let x := s.cx
    s.store .x (x.gr a) (leBytes 8 x.gtt.toNat ++ leBytes 8 x.gmt.toNat ++ leBytes 4 x.gVocab ++ leBytes 1 x.gNst ++ leBytes 1 x.gNsym
      ++ leBytes 1 x.gState ++ leBytes 1 x.gDepth ++ leBytes 8 x.gstk.toNat ++ zeros 32) .weak)

/-- An instruction of a valid automaton; while VALID is 0 it is illegal (R226). -/
def State.gRun (s : State) (g : GuardP) (regs : List RegG) (body : State → Act State) : State :=
  s.xRun g regs 1 fun s => if s.cx.gValid then body s else s.illegal

/-- A step on a transition entry (R227): the status and the context after, or a trap code. -/
def gMove (x : Ctx) (e : Nat) : Except Nat (Nat × Ctx) :=
  let nx := nbits 0 8 e
  let act := nbits 8 2 e
  let sym := nbits 10 8 e
  let depth := x.gDepth
  let fin := fun (x : Ctx) => (if nbits 18 1 e = 1 ∧ x.gDepth = 0 then 2 else 0, x)
  if nbits 19 13 e ≠ 0 ∨ x.gNst < nx ∨ ((act = 1 ∨ act = 2) ∧ x.gNsym ≤ sym) then .ok (3, x)
  else match act with
    | 0 => .ok (fin { x with gst := gstWord nx depth })
    | 1 =>
      if depth = 8 then .error 0x25
      else .ok (fin { x with gst := gstWord nx (depth + 1), gstk := gstkSet x.gstk depth sym })
    | 2 =>
      if depth = 0 then .error 0x26
      else if x.gStack (depth - 1) ≠ sym then .ok (1, x)
      else .ok (fin { x with gst := gstWord nx (depth - 1), gstk := gstkSet x.gstk (depth - 1) 0 })
    | _ => .ok (1, x)

/-- GSTEP (R227). -/
def execXGstep (d a : RegG) (g : GuardP) (s : State) : Res :=
  .next (s.gRun g [d, a] fun s =>
    let x := s.cx
    let t := (x.gr a).toNat
    if x.gVocab ≤ t then .ok (s.setCx (x.setG d 1))
    else match s.load .x 1 (x.gtt + BitVec.ofNat 64 (4 * (x.gState * x.gVocab + t))) 4 .weak with
      | .error h => .error h
      | .ok (b, u) => match gMove u.cx (leNat b) with
        | .error code => u.trap (whyOf code 6 0)
        | .ok (st, y) => .ok (u.setCx (y.setG d (BitVec.ofNat 64 st))))

/-! Masks (R228 to R230). -/

/-- The address of segment n of the mask row of the current key (R228). -/
def Ctx.maskAddr (x : Ctx) (n : Nat) : Word :=
  let c := if x.gDepth = 0 then 0 else x.gStack (x.gDepth - 1) + 1
  x.gmt + BitVec.ofNat 64 ((x.gState * (x.gNsym + 1) + c) * (x.gVocab / 8) + 64 * n)

/-- A mask segment through the cell's segment cache (R230). -/
def State.segRead (s : State) (n : Nat) : Act (Vec × State) :=
  let va := s.cx.maskAddr n
  match s.check .x 1 .read va 64 with
  | .error h => .error h
  | .ok (l, s) =>
    let c := s.cl
    let line := l.pa / 64
    let es := sbOf s.cx.sb line
    let own := fun (v : Vec) => vecOf (overAll es (vecBytes v))
    match c.mseg.find? fun m => m.line == line && m.part == c.tag && s.cycle.toNat < m.upto && s.cx.ex.horizon ≤ m.fill with
    | some m => .ok (own m.data, s)
    | none =>
      let r := s.homeRead l.pa 64
      if r.2.2 then (if sbCovers es 0 64 then .ok (own (vecOf r.2.1), r.1) else r.1.trap (whyOf 0x13 1 va))
      else
        let s := r.1.throughRdc s.cur.cell l
        let c := s.cl
        let keep := c.mseg.filter fun m => !(m.line == line && m.part == c.tag)
        let fill : L1Line := ⟨c.tag, line, vecOf r.2.1, s.now, s.cycle.toNat + c.lease⟩
        .ok (own (vecOf r.2.1), (s.setCl { c with mseg := capInsert Config.maskSegments s.free keep fill }).took)

/-- The allowed tokens of a segment, as places in it. -/
def segTokens (v : Vec) : List Nat := (List.range 512).filter fun i => v.getLsbD i

/-- The allowed tokens of the whole row, in order: their number and the first. -/
def State.rowTokens (s : State) : Act (Nat × Nat × State) :=
  (List.range (s.cx.gVocab / 512)).foldl
    (fun acc n => match acc with
      | .error h => .error h
      | .ok (k, first, s) => match s.segRead n with
        | .error h => .error h
        | .ok (v, s) =>
          let l := segTokens v
          .ok (k + l.length, if k = 0 then 512 * n + l.headD 0 else first, s))
    (.ok (0, 0, s))

/-- The logits of a segment that its mask disallows take −∞ (R229). -/
def maskWrites (off : Nat) (v : Vec) : List (Nat × Byte) :=
  ((List.range 512).filter fun m => !v.getLsbD m).flatMap fun m => addrBytes (off + 4 * m) (leBytes 4 0xFF800000)

/-- GMASK (R229). -/
def execXGmask (d a b : RegG) (g : GuardP) (s : State) : Res :=
  .next (s.gRun g [d, a, b] fun s =>
    let off := s.cx.gr a
    let n := (s.cx.gr b).toNat
    match s.storeCheck 2 off 2048 64 false with
    | .error h => .error h
    | .ok s =>
      if s.cx.gVocab / 512 ≤ n then .ok (s.setCx (s.cx.setG d (BitVec.allOnes 64)))
      else match s.segRead n with
        | .error h => .error h
        | .ok (v, s) =>
          let k := (s.cl.wakeFor off.toNat 2048).scatter (maskWrites off.toNat v)
          let s := (s.setCl k).spoilMail s.cur.cell off.toNat 2048
          .ok (s.setCx (s.cx.setG d (BitVec.ofNat 64 (segTokens v).length))))

/-- GCOUNT (R229). -/
def execXGcount (d : RegG) (g : GuardP) (s : State) : Res :=
  .next (s.gRun g [d] fun s => s.rowTokens.map fun r => r.2.2.setCx (r.2.2.cx.setG d (BitVec.ofNat 64 r.1)))

/-- GFORCE (R229). -/
def execXGforce (d : RegG) (g : GuardP) (s : State) : Res :=
  .next (s.gRun g [d] fun s => s.rowTokens.map fun r =>
    r.2.2.setCx (r.2.2.cx.setG d (if r.1 = 1 then BitVec.ofNat 64 r.2.1 else BitVec.allOnes 64)))

end Sys2Proof.Machine
end

