-- ==== Sys2Proof/Machine/Dispatch.lean ====
section
/-! DEFINITION. One arm per instruction: its meaning. -/

namespace Sys2Proof.Machine
open Sys2Proof

/-- What an instruction or an event does. -/
def exec (i : Instr) (s : State) : Host.Outcome State Fault Refusal :=
  match i with
  | .xNop g => Sys2Proof.Machine.execXNop g s
  | .xDone g => Sys2Proof.Machine.execXDone g s
  | .xSys d a g => Sys2Proof.Machine.execXSys d a g s
  | .xEbrk g => Sys2Proof.Machine.execXEbrk g s
  | .xAdd d a b g => Sys2Proof.Machine.execXAdd d a b g s
  | .xSub d a b g => Sys2Proof.Machine.execXSub d a b g s
  | .xAnd d a b g => Sys2Proof.Machine.execXAnd d a b g s
  | .xOr d a b g => Sys2Proof.Machine.execXOr d a b g s
  | .xXor d a b g => Sys2Proof.Machine.execXXor d a b g s
  | .xAndn d a b g => Sys2Proof.Machine.execXAndn d a b g s
  | .xShl d a b g => Sys2Proof.Machine.execXShl d a b g s
  | .xShr d a b g => Sys2Proof.Machine.execXShr d a b g s
  | .xSra d a b g => Sys2Proof.Machine.execXSra d a b g s
  | .xMin d a b g => Sys2Proof.Machine.execXMin d a b g s
  | .xMax d a b g => Sys2Proof.Machine.execXMax d a b g s
  | .xMinu d a b g => Sys2Proof.Machine.execXMinu d a b g s
  | .xMaxu d a b g => Sys2Proof.Machine.execXMaxu d a b g s
  | .xClz d a g => Sys2Proof.Machine.execXClz d a g s
  | .xCtz d a g => Sys2Proof.Machine.execXCtz d a g s
  | .xPopc d a g => Sys2Proof.Machine.execXPopc d a g s
  | .xMul d a b g => Sys2Proof.Machine.execXMul d a b g s
  | .xMulh d a b g => Sys2Proof.Machine.execXMulh d a b g s
  | .xMulhu d a b g => Sys2Proof.Machine.execXMulhu d a b g s
  | .xDiv d a b g => Sys2Proof.Machine.execXDiv d a b g s
  | .xDivu d a b g => Sys2Proof.Machine.execXDivu d a b g s
  | .xRem d a b g => Sys2Proof.Machine.execXRem d a b g s
  | .xRemu d a b g => Sys2Proof.Machine.execXRemu d a b g s
  | .xAddi d a imm g => Sys2Proof.Machine.execXAddi d a imm g s
  | .xAndi d a imm g => Sys2Proof.Machine.execXAndi d a imm g s
  | .xOri d a imm g => Sys2Proof.Machine.execXOri d a imm g s
  | .xXori d a imm g => Sys2Proof.Machine.execXXori d a imm g s
  | .xShli d a sh g => Sys2Proof.Machine.execXShli d a sh g s
  | .xShri d a sh g => Sys2Proof.Machine.execXShri d a sh g s
  | .xSrai d a sh g => Sys2Proof.Machine.execXSrai d a sh g s
  | .xCmp cond pd a b g => Sys2Proof.Machine.execXCmp cond pd a b g s
  | .xCmpi cond pd a imm g => Sys2Proof.Machine.execXCmpi cond pd a imm g s
  | .xSel d k a b g => Sys2Proof.Machine.execXSel d k a b g s
  | .xLim d imm g => Sys2Proof.Machine.execXLim d imm g s
  | .xLimh d a imm g => Sys2Proof.Machine.execXLimh d a imm g s
  | .xPand pd pa pb => Sys2Proof.Machine.execXPand pd pa pb s
  | .xPor pd pa pb => Sys2Proof.Machine.execXPor pd pa pb s
  | .xPxor pd pa pb => Sys2Proof.Machine.execXPxor pd pa pb s
  | .xPandn pd pa pb => Sys2Proof.Machine.execXPandn pd pa pb s
  | .xPmov pd pa => Sys2Proof.Machine.execXPmov pd pa s
  | .xPany pd pa pb => Sys2Proof.Machine.execXPany pd pa pb s
  | .xPall pd pa pb => Sys2Proof.Machine.execXPall pd pa pb s
  | .xPseti pd imm => Sys2Proof.Machine.execXPseti pd imm s
  | .xPfrom pd ga => Sys2Proof.Machine.execXPfrom pd ga s
  | .xPto pd ga => Sys2Proof.Machine.execXPto pd ga s
  | .xPcnt pd ga => Sys2Proof.Machine.execXPcnt pd ga s
  | .xCsrr d csr g => Sys2Proof.Machine.execXCsrr d csr g s
  | .xCsrw d csr a g => Sys2Proof.Machine.execXCsrw d csr a g s
  | .xCsrs d csr a g => Sys2Proof.Machine.execXCsrs d csr a g s
  | .xBr pt tm off => Sys2Proof.Machine.execXBr pt tm off s
  | .xJmp imm g => Sys2Proof.Machine.execXJmp imm g s
  | .xCall imm g => Sys2Proof.Machine.execXCall imm g s
  | .xJmpr a g => Sys2Proof.Machine.execXJmpr a g s
  | .xRet g => Sys2Proof.Machine.execXRet g s
  | .xLoop k a imm g => Sys2Proof.Machine.execXLoop k a imm g s
  | .xTkput f a g => Sys2Proof.Machine.execXTkput f a g s
  | .xTkget d f g => Sys2Proof.Machine.execXTkget d f g s
  | .xLd d a sz sx ord sc imm => Sys2Proof.Machine.execXLd d a sz sx ord sc imm s
  | .xSt d a sz ord sc imm => Sys2Proof.Machine.execXSt d a sz ord sc imm s
  | .xAmo d a b dbl ord sc op => Sys2Proof.Machine.execXAmo d a b dbl ord sc op s
  | .xCas d a b dbl ord sc => Sys2Proof.Machine.execXCas d a b dbl ord sc s
  | .xFence kind sc g => Sys2Proof.Machine.execXFence kind sc g s
  | .xLds d a imm g => Sys2Proof.Machine.execXLds d a imm g s
  | .xSts d a imm g => Sys2Proof.Machine.execXSts d a imm g s
  | .xCpy d a g => Sys2Proof.Machine.execXCpy d a g s
  | .xTlwait k a g => Sys2Proof.Machine.execXTlwait k a g s
  | .xTlread d k g => Sys2Proof.Machine.execXTlread d k g s
  | .xVadd ty d a b g => Sys2Proof.Machine.execXVadd ty d a b g s
  | .xVsub ty d a b g => Sys2Proof.Machine.execXVsub ty d a b g s
  | .xVmin ty d a b g => Sys2Proof.Machine.execXVmin ty d a b g s
  | .xVmax ty d a b g => Sys2Proof.Machine.execXVmax ty d a b g s
  | .xVabs ty d a g => Sys2Proof.Machine.execXVabs ty d a g s
  | .xVneg ty d a g => Sys2Proof.Machine.execXVneg ty d a g s
  | .xVmul ty d a b g => Sys2Proof.Machine.execXVmul ty d a b g s
  | .xVmadd ty d a b g => Sys2Proof.Machine.execXVmadd ty d a b g s
  | .xVmsub ty d a b g => Sys2Proof.Machine.execXVmsub ty d a b g s
  | .xVnmadd ty d a b g => Sys2Proof.Machine.execXVnmadd ty d a b g s
  | .xVand ty d a b g => Sys2Proof.Machine.execXVand ty d a b g s
  | .xVor ty d a b g => Sys2Proof.Machine.execXVor ty d a b g s
  | .xVxor ty d a b g => Sys2Proof.Machine.execXVxor ty d a b g s
  | .xVshl ty d a b g => Sys2Proof.Machine.execXVshl ty d a b g s
  | .xVshr ty d a b g => Sys2Proof.Machine.execXVshr ty d a b g s
  | .xVsra ty d a b g => Sys2Proof.Machine.execXVsra ty d a b g s
  | .xVcmp cond ty pd a b g => Sys2Proof.Machine.execXVcmp cond ty pd a b g s
  | .xVsel ty d k a b => Sys2Proof.Machine.execXVsel ty d k a b s
  | .xVbcst ty d a g => Sys2Proof.Machine.execXVbcst ty d a g s
  | .xVext ty d a b g => Sys2Proof.Machine.execXVext ty d a b g s
  | .xVins ty d a b g => Sys2Proof.Machine.execXVins ty d a b g s
  | .xVperm ty d a b g => Sys2Proof.Machine.execXVperm ty d a b g s
  | .xVcvt src dst rnd d a g => Sys2Proof.Machine.execXVcvt src dst rnd d a g s
  | .xVqnt rnd d a b g => Sys2Proof.Machine.execXVqnt rnd d a b g s
  | .xVred op ty d a g => Sys2Proof.Machine.execXVred op ty d a g s
  | .xVrecip ty d a g => Sys2Proof.Machine.execXVrecip ty d a g s
  | .xVrsqrt ty d a g => Sys2Proof.Machine.execXVrsqrt ty d a g s
  | .xVexp2 ty d a g => Sys2Proof.Machine.execXVexp2 ty d a g s
  | .xVlog2 ty d a g => Sys2Proof.Machine.execXVlog2 ty d a g s
  | .xVpop d st a g => Sys2Proof.Machine.execXVpop d st a g s
  | .xVpush st a g => Sys2Proof.Machine.execXVpush st a g s
  | .xVlds d a imm g => Sys2Proof.Machine.execXVlds d a imm g s
  | .xVsts d a imm g => Sys2Proof.Machine.execXVsts d a imm g s
  | .xGload d a g => Sys2Proof.Machine.execXGload d a g s
  | .xGstore a g => Sys2Proof.Machine.execXGstore a g s
  | .xGstep d a g => Sys2Proof.Machine.execXGstep d a g s
  | .xGmask d a b g => Sys2Proof.Machine.execXGmask d a b g s
  | .xGcount d g => Sys2Proof.Machine.execXGcount d g s
  | .xGforce d g => Sys2Proof.Machine.execXGforce d g s
  | .xSend v a g => Sys2Proof.Machine.execXSend v a g s
  | .xSendnb b v a g => Sys2Proof.Machine.execXSendnb b v a g s
  | .xHset d a b g => Sys2Proof.Machine.execXHset d a b g s
  | .xHmask a g => Sys2Proof.Machine.execXHmask a g s
  | .xHunmask a g => Sys2Proof.Machine.execXHunmask a g s
  | .xAbind d a b g => Sys2Proof.Machine.execXAbind d a b g s
  | .xTspawn v a g => Sys2Proof.Machine.execXTspawn v a g s
  | .xTqenq b v a g => Sys2Proof.Machine.execXTqenq b v a g s
  | .xTqdeq b v a g => Sys2Proof.Machine.execXTqdeq b v a g s
  | .xDcinit d a b g => Sys2Proof.Machine.execXDcinit d a b g s
  | .xDcdec d a g => Sys2Proof.Machine.execXDcdec d a g s
  | .xDcpark b v a g => Sys2Proof.Machine.execXDcpark b v a g s
  | .xWlpush a b g => Sys2Proof.Machine.execXWlpush a b g s
  | .xWlpop d b g => Sys2Proof.Machine.execXWlpop d b g s
  | .xWlbound a b g => Sys2Proof.Machine.execXWlbound a b g s
  | .xWlterm a g => Sys2Proof.Machine.execXWlterm a g s
  | .xFnew d a g => Sys2Proof.Machine.execXFnew d a g s
  | .xFres d a b g => Sys2Proof.Machine.execXFres d a b g s
  | .xFwait d a b g => Sys2Proof.Machine.execXFwait d a b g s
  | .xFpoll d a g => Sys2Proof.Machine.execXFpoll d a g s
  | .xFfree d a g => Sys2Proof.Machine.execXFfree d a g s
  | .xFtmo d a b g => Sys2Proof.Machine.execXFtmo d a b g s
  | .xFbind d a b g => Sys2Proof.Machine.execXFbind d a b g s
  | .xBarr d a g => Sys2Proof.Machine.execXBarr d a g s
  | .xBexp d a b g => Sys2Proof.Machine.execXBexp d a b g s
  | .xBwait d a b g => Sys2Proof.Machine.execXBwait d a b g s
  | .xMclaim d a g => Sys2Proof.Machine.execXMclaim d a g s
  | .evClaimGrant cell => Sys2Proof.Machine.execEvClaimGrant cell s
  | .xMfree g => Sys2Proof.Machine.execXMfree g s
  | .xSret d a b g => Sys2Proof.Machine.execXSret d a b g s
  | .xWdset d a g => Sys2Proof.Machine.execXWdset d a g s
  | .xSysr d sr g => Sys2Proof.Machine.execXSysr d sr g s
  | .xSysw d sr a g => Sys2Proof.Machine.execXSysw d sr a g s
  | .xTlbinvAll g => Sys2Proof.Machine.execXTlbinvAll g s
  | .xTlbinvVa a g => Sys2Proof.Machine.execXTlbinvVa a g s
  | .xTlbinvPart g => Sys2Proof.Machine.execXTlbinvPart g s
  | .xCinvL1 g => Sys2Proof.Machine.execXCinvL1 g s
  | .xCinvSb g => Sys2Proof.Machine.execXCinvSb g s
  | .xCinvIs g => Sys2Proof.Machine.execXCinvIs g s
  | .xCtxsave d a b g => Sys2Proof.Machine.execXCtxsave d a b g s
  | .xCtxload d a b g => Sys2Proof.Machine.execXCtxload d a b g s
  | .aNop q => Sys2Proof.Machine.execANop q s
  | .aDone q => Sys2Proof.Machine.execADone q s
  | .aAdd d a b q => Sys2Proof.Machine.execAAdd d a b q s
  | .aSub d a b q => Sys2Proof.Machine.execASub d a b q s
  | .aAnd d a b q => Sys2Proof.Machine.execAAnd d a b q s
  | .aShl d a b q => Sys2Proof.Machine.execAShl d a b q s
  | .aShr d a b q => Sys2Proof.Machine.execAShr d a b q s
  | .aMul d a b q => Sys2Proof.Machine.execAMul d a b q s
  | .aMov d a q => Sys2Proof.Machine.execAMov d a q s
  | .aAddi d a imm q => Sys2Proof.Machine.execAAddi d a imm q s
  | .aLim d imm q => Sys2Proof.Machine.execALim d imm q s
  | .aCmp cond qd a b q => Sys2Proof.Machine.execACmp cond qd a b q s
  | .aBr qt tm off => Sys2Proof.Machine.execABr qt tm off s
  | .aJmp imm q => Sys2Proof.Machine.execAJmp imm q s
  | .aLoop k a imm q => Sys2Proof.Machine.execALoop k a imm q s
  | .aTkput f a q => Sys2Proof.Machine.execATkput f a q s
  | .aTkget d f q => Sys2Proof.Machine.execATkget d f q s
  | .aSopen st b imm q => Sys2Proof.Machine.execASopen st b imm q s
  | .aSclose st q => Sys2Proof.Machine.execASclose st q s
  | .aLd st b n q => Sys2Proof.Machine.execALd st b n q s
  | .aSt st b n q => Sys2Proof.Machine.execASt st b n q s
  | .aGath st b si n q => Sys2Proof.Machine.execAGath st b si n q s
  | .aScat st b si n q => Sys2Proof.Machine.execAScat st b si n q s
  | .aPref st b n q => Sys2Proof.Machine.execAPref st b n q s
  | .aFence kind sc q => Sys2Proof.Machine.execAFence kind sc q s
  | .aLdb d a imm q => Sys2Proof.Machine.execALdb d a imm q s
  | .aCpy d a q => Sys2Proof.Machine.execACpy d a q s
  | .mNop => Sys2Proof.Machine.execMNop s
  | .mDone => Sys2Proof.Machine.execMDone s
  | .mSet fld c imm => Sys2Proof.Machine.execMSet fld c imm s
  | .mGo => Sys2Proof.Machine.execMGo s
  | .mWait d a => Sys2Proof.Machine.execMWait d a s
  | .mCimld => Sys2Proof.Machine.execMCimld s
  | .mMma => Sys2Proof.Machine.execMMma s
  | .mAclr => Sys2Proof.Machine.execMAclr s
  | .mCvt => Sys2Proof.Machine.execMCvt s
  | .mSlice => Sys2Proof.Machine.execMSlice s
  | .mBcast => Sys2Proof.Machine.execMBcast s
  | .mRed => Sys2Proof.Machine.execMRed s
  | .mBr c tm off => Sys2Proof.Machine.execMBr c tm off s
  | .mLoop k a imm => Sys2Proof.Machine.execMLoop k a imm s
  | .mTkput f a => Sys2Proof.Machine.execMTkput f a s
  | .mTkget d f => Sys2Proof.Machine.execMTkget d f s
  | .mAdd d a b => Sys2Proof.Machine.execMAdd d a b s
  | .mSub d a b => Sys2Proof.Machine.execMSub d a b s
  | .mMov d a => Sys2Proof.Machine.execMMov d a s
  | .mAddi d a imm => Sys2Proof.Machine.execMAddi d a imm s
  | .mLim d imm => Sys2Proof.Machine.execMLim d imm s
  | .enxSend rd rs1 => Sys2Proof.Machine.execEnxSend rd rs1 s
  | .enxFres rd rs1 rs2 rs3 => Sys2Proof.Machine.execEnxFres rd rs1 rs2 rs3 s
  | .enxFpoll rd rs1 => Sys2Proof.Machine.execEnxFpoll rd rs1 s
  | .enxFwait rd rs1 rs2 => Sys2Proof.Machine.execEnxFwait rd rs1 rs2 s
  | .enxTlread rd rs1 => Sys2Proof.Machine.execEnxTlread rd rs1 s
  | .enxCapset idx rs1 rs2 rs3 => Sys2Proof.Machine.execEnxCapset idx rs1 rs2 rs3 s
  | .enxCapclr idx => Sys2Proof.Machine.execEnxCapclr idx s
  | .enxCapget rd rs1 => Sys2Proof.Machine.execEnxCapget rd rs1 s
  | .evHartWaiterRelease core => Sys2Proof.Machine.execEvHartWaiterRelease core s
  | .evFwaitInterruptWithdraw core => Sys2Proof.Machine.execEvFwaitInterruptWithdraw core s
  | .evHartMemoryAccess core acc => Sys2Proof.Machine.execEvHartMemoryAccess core acc s
  | .evLineFetch cell ctx eng => Sys2Proof.Machine.execEvLineFetch cell ctx eng s
  | .evJoinRendezvous cell ctx => Sys2Proof.Machine.execEvJoinRendezvous cell ctx s
  | .evParcelArrive n => Sys2Proof.Machine.execEvParcelArrive n s
  | .evVerdictReturn n => Sys2Proof.Machine.execEvVerdictReturn n s
  | .evDeferredParcelRetry cell chan => Sys2Proof.Machine.execEvDeferredParcelRetry cell chan s
  | .evChannelSelect cell => Sys2Proof.Machine.execEvChannelSelect cell s
  | .evInvocationEnd cell ctx => Sys2Proof.Machine.execEvInvocationEnd cell ctx s
  | .evWatchdogExpiry cell ctx => Sys2Proof.Machine.execEvWatchdogExpiry cell ctx s
  | .evPendingTrapRetry cell ctx => Sys2Proof.Machine.execEvPendingTrapRetry cell ctx s
  | .evTaskParcelArrive n => Sys2Proof.Machine.execEvTaskParcelArrive n s
  | .evTaskQueueToMailbox cell => Sys2Proof.Machine.execEvTaskQueueToMailbox cell s
  | .evTaskBalanceInterval cell => Sys2Proof.Machine.execEvTaskBalanceInterval cell s
  | .evBalanceTransferArrive n => Sys2Proof.Machine.execEvBalanceTransferArrive n s
  | .evWorklistBalanceInterval cell => Sys2Proof.Machine.execEvWorklistBalanceInterval cell s
  | .evWorklistReduction part => Sys2Proof.Machine.execEvWorklistReduction part s
  | .evWakeParcel cell => Sys2Proof.Machine.execEvWakeParcel cell s
  | .evSpillReturn cell => Sys2Proof.Machine.execEvSpillReturn cell s
  | .evFutureDeadline die slot => Sys2Proof.Machine.execEvFutureDeadline die slot s
  | .evTokenInjection die slot => Sys2Proof.Machine.execEvTokenInjection die slot s
  | .evLaunchSubmit part addr user => Sys2Proof.Machine.execEvLaunchSubmit part addr user s
  | .evLaunchProceed n => Sys2Proof.Machine.execEvLaunchProceed n s
  | .evCopyRunArrive n off len => Sys2Proof.Machine.execEvCopyRunArrive n off len s
  | .evSlabLanding n => Sys2Proof.Machine.execEvSlabLanding n s
  | .evFollowOnAccept n cell => Sys2Proof.Machine.execEvFollowOnAccept n cell s
  | .evFollowOnStart cell => Sys2Proof.Machine.execEvFollowOnStart cell s
  | .evCopyComplete n => Sys2Proof.Machine.execEvCopyComplete n s
  | .evStreamGroupLand cell ctx st => Sys2Proof.Machine.execEvStreamGroupLand cell ctx st s
  | .evStoreGroupWritten cell ctx st => Sys2Proof.Machine.execEvStoreGroupWritten cell ctx st s
  | .evCopyLandingGroupIssue cell ctx st => Sys2Proof.Machine.execEvCopyLandingGroupIssue cell ctx st s
  | .evStoreBufferDrain cell ctx n => Sys2Proof.Machine.execEvStoreBufferDrain cell ctx n s
  | .evL1LeaseExpiry cell n => Sys2Proof.Machine.execEvL1LeaseExpiry cell n s
  | .evMatrixFlipStart cell => Sys2Proof.Machine.execEvMatrixFlipStart cell s
  | .evMatrixCommandComplete cell pipe => Sys2Proof.Machine.execEvMatrixCommandComplete cell pipe s
  | .evBroadcastRowArrive cell => Sys2Proof.Machine.execEvBroadcastRowArrive cell s
  | .evPartialRowAdd n => Sys2Proof.Machine.execEvPartialRowAdd n s
  | .evStagerCurRead part => Sys2Proof.Machine.execEvStagerCurRead part s
  | .evStagerTileReady part slot => Sys2Proof.Machine.execEvStagerTileReady part slot s
  | .evTableWalk cell va need kmode => Sys2Proof.Machine.execEvTableWalk cell va need kmode s
  | .evHeldFaultReraise part => Sys2Proof.Machine.execEvHeldFaultReraise part s
  | .evFbhdrWrite part value => Sys2Proof.Machine.execEvFbhdrWrite part value s
  | .evKmodeTrap n => Sys2Proof.Machine.execEvKmodeTrap n s
  | .evServiceThreshold n => Sys2Proof.Machine.execEvServiceThreshold n s
  | .evServiceGrace n => Sys2Proof.Machine.execEvServiceGrace n s
  | .evServiceSpillArea n => Sys2Proof.Machine.execEvServiceSpillArea n s
  | .evServiceSchedule n => Sys2Proof.Machine.execEvServiceSchedule n s
  | .evServiceLaunch n => Sys2Proof.Machine.execEvServiceLaunch n s
  | .evServiceYield n => Sys2Proof.Machine.execEvServiceYield n s
  | .evGatewayForward n => Sys2Proof.Machine.execEvGatewayForward n s
  | .evFilterBucketRefill n => Sys2Proof.Machine.execEvFilterBucketRefill n s
  | .evSliceEnd n => Sys2Proof.Machine.execEvSliceEnd n s
  | .evSliceRestore n => Sys2Proof.Machine.execEvSliceRestore n s
  | .evGraceExpiry cell ctx => Sys2Proof.Machine.execEvGraceExpiry cell ctx s
  | .evCellAssign cell part lcell kchan => Sys2Proof.Machine.execEvCellAssign cell part lcell kchan s
  | .evPartitionCreate part cfg => Sys2Proof.Machine.execEvPartitionCreate part cfg s
  | .evPartitionDestroy part => Sys2Proof.Machine.execEvPartitionDestroy part s
  | .evScrub cells part kind => Sys2Proof.Machine.execEvScrub cells part kind s
  | .evBankScrub bank => Sys2Proof.Machine.execEvBankScrub bank s
  | .evSegmentUpdate vf part seg => Sys2Proof.Machine.execEvSegmentUpdate vf part seg s
  | .evReadShared agent ask => Sys2Proof.Machine.execEvReadShared agent ask s
  | .evReadOwn agent ask store => Sys2Proof.Machine.execEvReadOwn agent ask store s
  | .evUpgrade agent ask => Sys2Proof.Machine.execEvUpgrade agent ask s
  | .evWriteback agent line => Sys2Proof.Machine.execEvWriteback agent line s
  | .evCleanEvict agent line => Sys2Proof.Machine.execEvCleanEvict agent line s
  | .evStrongStoreOrAtomic place off bytes => Sys2Proof.Machine.execEvStrongStoreOrAtomic place off bytes s
  | .evDirectoryEccError line => Sys2Proof.Machine.execEvDirectoryEccError line s
  | .evTagParityError place => Sys2Proof.Machine.execEvTagParityError place s
  | .evUncorrectableError where_ => Sys2Proof.Machine.execEvUncorrectableError where_ s
  | .evCorrectedError => Sys2Proof.Machine.execEvCorrectedError s
  | .evModuleReset strap0 strap1 ok2 ok3 lanes => Sys2Proof.Machine.execEvModuleReset strap0 strap1 ok2 ok3 lanes s
  | .evLdBind port ld part => Sys2Proof.Machine.execEvLdBind port ld part s
  | .evNotifyWrite fn qi value => Sys2Proof.Machine.execEvNotifyWrite fn qi value s
  | .evRequestLaunch fn qi req => Sys2Proof.Machine.execEvRequestLaunch fn qi req s
  | .evRequestParcel fn qi req => Sys2Proof.Machine.execEvRequestParcel fn qi req s
  | .evRequestResolve fn qi req => Sys2Proof.Machine.execEvRequestResolve fn qi req s
  | .evRequestPoll fn qi req => Sys2Proof.Machine.execEvRequestPoll fn qi req s
  | .evRequestResync fn qi req => Sys2Proof.Machine.execEvRequestResync fn qi req s
  | .evMsixUnmask fn entry => Sys2Proof.Machine.execEvMsixUnmask fn entry s
  | .evPasidRevoke fn entry => Sys2Proof.Machine.execEvPasidRevoke fn entry s
  | .evBar2Access win off acc => Sys2Proof.Machine.execEvBar2Access win off acc s
  | .evPlimWrite value => Sys2Proof.Machine.execEvPlimWrite value s
  | .evClockStep => Sys2Proof.Machine.execEvClockStep s
  | .evPgateWrite cell value => Sys2Proof.Machine.execEvPgateWrite cell value s
  | .evBankWake cell bank => Sys2Proof.Machine.execEvBankWake cell bank s
  | .evUeDescriptorTake part => Sys2Proof.Machine.execEvUeDescriptorTake part s
  | .evUeTaggedReply part tag payload => Sys2Proof.Machine.execEvUeTaggedReply part tag payload s
  | .evUeMessageReceive part job msg => Sys2Proof.Machine.execEvUeMessageReceive part job msg s
  | .evRegisterWrite reg value => Sys2Proof.Machine.execEvRegisterWrite reg value s
  | .evPrefetcherAccess cell va => Sys2Proof.Machine.execEvPrefetcherAccess cell va s
  | .evMessageFilterWrite n entry => Sys2Proof.Machine.execEvMessageFilterWrite n entry s
  | .evCoreAssign core part => Sys2Proof.Machine.execEvCoreAssign core part s
  | .evVfAssign vf part => Sys2Proof.Machine.execEvVfAssign vf part s
  | .evConfigurationRequest port req => Sys2Proof.Machine.execEvConfigurationRequest port req s
  | .evMalformedRequest fn qi req => Sys2Proof.Machine.execEvMalformedRequest fn qi req s

end Sys2Proof.Machine
end

