-- ==== Sys2Proof/Machine/Step.lean ====
section
/-! DEFINITION. One step of the module, and the placing of an instruction where the next step fetches it. -/

namespace Sys2Proof.Machine
open Sys2Proof

/-- One step: one turn of an engine, a hart, a pipe, the clock or the device. What the homes hold is performed first (R388). -/
def step (s : State) : Host.Outcome State Fault Refusal :=
  match s.serveHeld.ready with
  | .done t => .next t
  | .run i t => exec i t
  | .stop o => o

/-- s with an instruction placed where the next step fetches it. -/
def State.withFetchWord (s : State) (nbits w : Nat) : State := s.placeWord nbits w

end Sys2Proof.Machine
end

