-- ==== Sys2Proof/Safety.lean ====
section
/-! DEFINITION. What the statements about every step hold fast: the forms of the state that each step keeps. -/

namespace Sys2Proof.Machine
open Sys2Proof

/-- Memory keeps its canonical form: addresses strictly rising, no byte listed that reads as an unlisted one. -/
abbrev Memory.wf (m : List Host.Cell) : Prop := mwf (0 : Byte) m = true

/-- A step answers a next state. -/
abbrev steps (s : State) : Prop := ∃ t, step s = .next t

end Sys2Proof.Machine
end

