-- ==== Sys2Proof/Certificates/Slice0/Obligations.lean ====
section
/-! DEFINITION. The statements about the model, for the provers. Before each group stand the tables and abbreviations it speaks in: what an
instruction reads, where its result goes and what that result is, written from the rules of spec/. -/

namespace Sys2Proof.Claims
open Sys2Proof Sys2Proof.Machine

/-! Words in which the statements about instructions are put. -/

/-- Machine.exec answers the next state t. -/
abbrev runs (i : Instr) (s t : State) : Prop := exec i s = .next t

/-- No live loop counter of engine e ends at its program counter (R207). -/
abbrev noLoop (x : Ctx) (e : Eng) : Prop := ∀ k < 4, (x.loopOf e k).count = 0 ∨ (x.loopOf e k).last ≠ (x.eng e).pc

/-- The context after its engine e has gone past an instruction of len lanes (R172). -/
def past (x : Ctx) (e : Eng) (len : Nat) : Ctx :=
  x.setEng e { x.eng e with pc := (x.eng e).pc + BitVec.ofNat 55 len, waited := none }

/-- No general register of the list waits for a verdict (R14, R270). -/
abbrev settled (x : Ctx) (rs : List RegG) : Prop := ∀ r ∈ rs, r = 0 ∨ ∀ e ∈ x.pend, e.2 ≠ r

/-- Bit 0 of a guard (R57). -/
abbrev guardOn (x : Ctx) (g : GuardP) : Prop := (x.pr (g.setWidth 7)).getLsbD 0 = true

/-- An instruction of X under guard g that names the general registers rs may execute: guard on, registers settled, and no loop ends at it. -/
abbrev xReady (s : State) (g : GuardP) (rs : List RegG) : Prop := guardOn s.cx g ∧ settled s.cx rs ∧ noLoop s.cx .x

/-- The state after X has written a context and gone past len lanes. -/
def xGoes (s : State) (x : Ctx) (len : Nat) : State := s.setCx (past x .x len)

/-- Two states differ in nothing but the running context. -/
def onlyCx (s t : State) : Prop :=
  { t with cells := [] } = { s with cells := [] }
    ∧ (∀ c, { t.cell c with ctxs := [] } = { s.cell c with ctxs := [] })
    ∧ (∀ c k, (c, k) ≠ (s.cur.cell, s.cur.ctx) → t.ctx c k = s.ctx c k)
    ∧ ∀ a, t.memByte a = s.memByte a

/-! Scalar instructions of X (R188 to R201). -/

/-- What a scalar instruction of X does: its lanes, its guard, the general registers it names, where its result goes and the result. -/
structure XResult where
  len   : Nat
  guard : GuardP
  regs  : List RegG
  d     : RegG
  value : Word

/-- The result of an instruction that writes a general register (R188, R191 to R197, R200, R201, R240). nop writes g0. -/
def xResult (s : State) : Instr → Option XResult
  | .xNop g => some ⟨1, g, [], 0, 0⟩
  | .xAdd d a b g => some ⟨1, g, [d, a, b], d, s.cx.gr a + s.cx.gr b⟩
  | .xSub d a b g => some ⟨1, g, [d, a, b], d, s.cx.gr a - s.cx.gr b⟩
  | .xAnd d a b g => some ⟨1, g, [d, a, b], d, s.cx.gr a &&& s.cx.gr b⟩
  | .xOr d a b g => some ⟨1, g, [d, a, b], d, s.cx.gr a ||| s.cx.gr b⟩
  | .xXor d a b g => some ⟨1, g, [d, a, b], d, s.cx.gr a ^^^ s.cx.gr b⟩
  | .xAndn d a b g => some ⟨1, g, [d, a, b], d, s.cx.gr a &&& ~~~s.cx.gr b⟩
  | .xShl d a b g => some ⟨1, g, [d, a, b], d, s.cx.gr a <<< ((s.cx.gr b).setWidth 6).toNat⟩
  | .xShr d a b g => some ⟨1, g, [d, a, b], d, s.cx.gr a >>> ((s.cx.gr b).setWidth 6).toNat⟩
  | .xSra d a b g => some ⟨1, g, [d, a, b], d, (s.cx.gr a).sshiftRight ((s.cx.gr b).setWidth 6).toNat⟩
  | .xMin d a b g => some ⟨1, g, [d, a, b], d, if (s.cx.gr a).toInt ≤ (s.cx.gr b).toInt then s.cx.gr a else s.cx.gr b⟩
  | .xMax d a b g => some ⟨1, g, [d, a, b], d, if (s.cx.gr b).toInt ≤ (s.cx.gr a).toInt then s.cx.gr a else s.cx.gr b⟩
  | .xMinu d a b g => some ⟨1, g, [d, a, b], d, if (s.cx.gr a).toNat ≤ (s.cx.gr b).toNat then s.cx.gr a else s.cx.gr b⟩
  | .xMaxu d a b g => some ⟨1, g, [d, a, b], d, if (s.cx.gr b).toNat ≤ (s.cx.gr a).toNat then s.cx.gr a else s.cx.gr b⟩
  | .xClz d a g => some ⟨1, g, [d, a], d, (s.cx.gr a).clz⟩
  | .xCtz d a g => some ⟨1, g, [d, a], d, (s.cx.gr a).ctz⟩
  | .xPopc d a g => some ⟨1, g, [d, a], d, (s.cx.gr a).cpop⟩
  | .xMul d a b g => some ⟨1, g, [d, a, b], d, s.cx.gr a * s.cx.gr b⟩
  | .xMulh d a b g => some ⟨1, g, [d, a, b], d, ((s.cx.gr a).signExtend 128 * (s.cx.gr b).signExtend 128).extractLsb' 64 64⟩
  | .xMulhu d a b g => some ⟨1, g, [d, a, b], d, ((s.cx.gr a).setWidth 128 * (s.cx.gr b).setWidth 128).extractLsb' 64 64⟩
  | .xDiv d a b g => some ⟨1, g, [d, a, b], d, if s.cx.gr b = 0 then -1 else (s.cx.gr a).sdiv (s.cx.gr b)⟩
  | .xDivu d a b g => some ⟨1, g, [d, a, b], d, if s.cx.gr b = 0 then -1 else s.cx.gr a / s.cx.gr b⟩
  | .xRem d a b g => some ⟨1, g, [d, a, b], d, if s.cx.gr b = 0 then s.cx.gr a else (s.cx.gr a).srem (s.cx.gr b)⟩
  | .xRemu d a b g => some ⟨1, g, [d, a, b], d, if s.cx.gr b = 0 then s.cx.gr a else s.cx.gr a % s.cx.gr b⟩
  | .xAddi d a imm g => some ⟨1, g, [d, a], d, s.cx.gr a + imm.signExtend 64⟩
  | .xAndi d a imm g => some ⟨1, g, [d, a], d, s.cx.gr a &&& imm.setWidth 64⟩
  | .xOri d a imm g => some ⟨1, g, [d, a], d, s.cx.gr a ||| imm.setWidth 64⟩
  | .xXori d a imm g => some ⟨1, g, [d, a], d, s.cx.gr a ^^^ imm.setWidth 64⟩
  | .xShli d a sh g => some ⟨1, g, [d, a], d, s.cx.gr a <<< sh.toNat⟩
  | .xShri d a sh g => some ⟨1, g, [d, a], d, s.cx.gr a >>> sh.toNat⟩
  | .xSrai d a sh g => some ⟨1, g, [d, a], d, (s.cx.gr a).sshiftRight sh.toNat⟩
  | .xSel d k a b g => some ⟨1, g, [d, a, b], d, if (s.cx.pr k).getLsbD 0 then s.cx.gr a else s.cx.gr b⟩
  | .xLim d imm g => some ⟨2, g, [d], d, imm.signExtend 64⟩
  | .xLimh d a imm g => some ⟨2, g, [d, a], d, imm ++ (s.cx.gr a).setWidth 32⟩
  | .xPto pd ga => some ⟨1, 0, [ga], ga, (s.cx.pr pd).setWidth 64⟩
  | .xPcnt pd ga => some ⟨1, 0, [ga], ga, ((s.cx.pr pd).setWidth 64).cpop⟩
  | .xCsrr d csr g => some ⟨1, g, [d], d, s.csr csr⟩
  | .xTlread d k g => some ⟨1, g, [d], d, s.cx.doneOf k.toNat⟩
  | _ => none

/-- What an instruction that writes a predicate does: guard (p0 where it takes none), the registers it names, the predicate and its value. -/
structure PResult where
  guard : GuardP
  regs  : List RegG
  pd    : RegP
  value : BitVec 16

/-- Does a condition of cmp hold (R195). -/
abbrev condition (c : Cond) (a b : Word) : Prop :=
  match c with
  | .eq => a = b
  | .ne => a ≠ b
  | .lt => a.toInt < b.toInt
  | .ge => b.toInt ≤ a.toInt
  | .ltu => a.toNat < b.toNat
  | .geu => b.toNat ≤ a.toNat

/-- The predicate an instruction writes (R195, R198 to R200), up to the truth of a condition. -/
inductive pResult (x : Ctx) : Instr → PResult → Prop
  | cmpT (c pd a b g) : condition c (x.gr a) (x.gr b) → pResult x (.xCmp c pd a b g) ⟨g, [a, b], pd.setWidth 7, 0xFFFF⟩
  | cmpF (c pd a b g) : ¬condition c (x.gr a) (x.gr b) → pResult x (.xCmp c pd a b g) ⟨g, [a, b], pd.setWidth 7, 0⟩
  | cmpiT (c pd a imm g) : condition c (x.gr a) (imm.signExtend 64) → pResult x (.xCmpi c pd a imm g) ⟨g, [a], pd.setWidth 7, 0xFFFF⟩
  | cmpiF (c pd a imm g) : ¬condition c (x.gr a) (imm.signExtend 64) → pResult x (.xCmpi c pd a imm g) ⟨g, [a], pd.setWidth 7, 0⟩
  | pand (d a b) : pResult x (.xPand d a b) ⟨0, [], d, x.pr a &&& x.pr b⟩
  | por (d a b) : pResult x (.xPor d a b) ⟨0, [], d, x.pr a ||| x.pr b⟩
  | pxor (d a b) : pResult x (.xPxor d a b) ⟨0, [], d, x.pr a ^^^ x.pr b⟩
  | pandn (d a b) : pResult x (.xPandn d a b) ⟨0, [], d, x.pr a &&& ~~~x.pr b⟩
  | pmov (d a) : pResult x (.xPmov d a) ⟨0, [], d, x.pr a⟩
  | pany (d a b) : pResult x (.xPany d a b) ⟨0, [], d, if x.pr a &&& x.pr b = 0 then 0 else 0xFFFF⟩
  | pall (d a b) : pResult x (.xPall d a b) ⟨0, [], d, if x.pr b &&& ~~~x.pr a = 0 then 0xFFFF else 0⟩
  | pseti (d imm) : pResult x (.xPseti d imm) ⟨0, [], d, imm⟩
  | pfrom (d ga) : pResult x (.xPfrom d ga) ⟨0, [ga], d, (x.gr ga).setWidth 16⟩

end Sys2Proof.Claims

open Sys2Proof Sys2Proof.Machine Sys2Proof.Claims

/-- R191 to R197, R200, R201, R240: a scalar instruction of X that is ready writes its result into its general register, a write of g0 being
discarded (R55, R186), X goes past its lanes, and nothing else changes. -/
def Sys2Proof.Claims.XScalarResult : Prop :=
  ∀ (s : State) (i : Instr) (r : XResult), xResult s i = some r → xReady s r.guard r.regs → runs i s (xGoes s (s.cx.setG r.d r.value) r.len)

/-- R195, R198 to R200: an instruction that writes a predicate writes it, a write of p0 being discarded (R55). -/
def Sys2Proof.Claims.XPredicateResult : Prop :=
  ∀ (s : State) (i : Instr) (r : PResult), pResult s.cx i r → xReady s r.guard r.regs → runs i s (xGoes s (s.cx.setP r.pd r.value) 1)

/-! Guards (R57). -/

namespace Sys2Proof.Claims

/-- The guard and the lanes of a scalar instruction of X that any mode may run (R57, R170). -/
def xGuard : Instr → Option (GuardP × Nat)
  | .xNop g => some (g, 1)
  | .xCsrr _ _ g => some (g, 1)
  | .xCsrw _ _ _ g => some (g, 1)
  | .xCsrs _ _ _ g => some (g, 1)
  | .xTkput _ _ g => some (g, 1)
  | .xTkget _ _ g => some (g, 1)
  | .xFence _ _ g => some (g, 1)
  | .xLds _ _ _ g => some (g, 1)
  | .xSts _ _ _ g => some (g, 1)
  | .xCpy _ _ g => some (g, 1)
  | .xTlwait _ _ g => some (g, 1)
  | .xTlread _ _ g => some (g, 1)
  | .xGload _ _ g => some (g, 1)
  | .xGstore _ g => some (g, 1)
  | .xGstep _ _ g => some (g, 1)
  | .xGmask _ _ _ g => some (g, 1)
  | .xGcount _ g => some (g, 1)
  | .xGforce _ g => some (g, 1)
  | .xSend _ _ g => some (g, 1)
  | .xSendnb _ _ _ g => some (g, 1)
  | .xHset _ _ _ g => some (g, 1)
  | .xHmask _ g => some (g, 1)
  | .xHunmask _ g => some (g, 1)
  | .xAbind _ _ _ g => some (g, 1)
  | .xTspawn _ _ g => some (g, 1)
  | .xTqenq _ _ _ g => some (g, 1)
  | .xTqdeq _ _ _ g => some (g, 1)
  | .xDcinit _ _ _ g => some (g, 1)
  | .xDcdec _ _ g => some (g, 1)
  | .xDcpark _ _ _ g => some (g, 1)
  | .xWlpush _ _ g => some (g, 1)
  | .xWlpop _ _ g => some (g, 1)
  | .xWlbound _ _ g => some (g, 1)
  | .xWlterm _ g => some (g, 1)
  | .xFnew _ _ g => some (g, 1)
  | .xFres _ _ _ g => some (g, 1)
  | .xFwait _ _ _ g => some (g, 1)
  | .xFpoll _ _ g => some (g, 1)
  | .xFfree _ _ g => some (g, 1)
  | .xFtmo _ _ _ g => some (g, 1)
  | .xFbind _ _ _ g => some (g, 1)
  | .xBarr _ _ g => some (g, 1)
  | .xBexp _ _ _ g => some (g, 1)
  | .xBwait _ _ _ g => some (g, 1)
  | .xMfree g => some (g, 1)
  | .xDone g => some (g, 1)
  | .xSys _ _ g => some (g, 1)
  | .xEbrk g => some (g, 1)
  | .xJmp _ g => some (g, 2)
  | .xCall _ g => some (g, 2)
  | .xJmpr _ g => some (g, 1)
  | .xRet g => some (g, 1)
  | .xLoop _ _ _ g => some (g, 2)
  | .xMclaim _ _ g => some (g, 1)
  | .xAdd _ _ _ g => some (g, 1)
  | .xSub _ _ _ g => some (g, 1)
  | .xAnd _ _ _ g => some (g, 1)
  | .xOr _ _ _ g => some (g, 1)
  | .xXor _ _ _ g => some (g, 1)
  | .xAndn _ _ _ g => some (g, 1)
  | .xShl _ _ _ g => some (g, 1)
  | .xShr _ _ _ g => some (g, 1)
  | .xSra _ _ _ g => some (g, 1)
  | .xMin _ _ _ g => some (g, 1)
  | .xMax _ _ _ g => some (g, 1)
  | .xMinu _ _ _ g => some (g, 1)
  | .xMaxu _ _ _ g => some (g, 1)
  | .xMul _ _ _ g => some (g, 1)
  | .xMulh _ _ _ g => some (g, 1)
  | .xMulhu _ _ _ g => some (g, 1)
  | .xDiv _ _ _ g => some (g, 1)
  | .xDivu _ _ _ g => some (g, 1)
  | .xRem _ _ _ g => some (g, 1)
  | .xRemu _ _ _ g => some (g, 1)
  | .xClz _ _ g => some (g, 1)
  | .xCtz _ _ g => some (g, 1)
  | .xPopc _ _ g => some (g, 1)
  | .xAddi _ _ _ g => some (g, 1)
  | .xAndi _ _ _ g => some (g, 1)
  | .xOri _ _ _ g => some (g, 1)
  | .xXori _ _ _ g => some (g, 1)
  | .xShli _ _ _ g => some (g, 1)
  | .xShri _ _ _ g => some (g, 1)
  | .xSrai _ _ _ g => some (g, 1)
  | .xCmp _ _ _ _ g => some (g, 1)
  | .xCmpi _ _ _ _ g => some (g, 1)
  | .xSel _ _ _ _ g => some (g, 1)
  | .xLim _ _ g => some (g, 2)
  | .xLimh _ _ _ g => some (g, 2)
  | .xVext _ _ _ _ g => some (g, 1)
  | _ => none

/-- The guard of a privileged instruction of X (R57, R178). -/
def privGuard : Instr → Option (GuardP × Nat)
  | .xSret _ _ _ g => some (g, 1)
  | .xWdset _ _ g => some (g, 1)
  | .xSysr _ _ g => some (g, 1)
  | .xSysw _ _ _ g => some (g, 1)
  | .xTlbinvAll g => some (g, 1)
  | .xTlbinvVa _ g => some (g, 1)
  | .xTlbinvPart g => some (g, 1)
  | .xCinvL1 g => some (g, 1)
  | .xCinvSb g => some (g, 1)
  | .xCinvIs g => some (g, 1)
  | .xCtxsave _ _ _ g => some (g, 1)
  | .xCtxload _ _ _ g => some (g, 1)
  | _ => none

/-- The guard and the lanes of an instruction of A that takes one (R170, R179). -/
def aGuard : Instr → Option (GuardQ × Nat)
  | .aNop q => some (q, 1)
  | .aCmp _ _ _ _ q => some (q, 1)
  | .aTkput _ _ q => some (q, 1)
  | .aTkget _ _ q => some (q, 1)
  | .aSopen _ _ _ q => some (q, 1)
  | .aSclose _ q => some (q, 1)
  | .aPref _ _ _ q => some (q, 1)
  | .aFence _ _ q => some (q, 1)
  | .aLdb _ _ _ q => some (q, 1)
  | .aCpy _ _ q => some (q, 1)
  | .aDone q => some (q, 1)
  | .aJmp _ q => some (q, 2)
  | .aLoop _ _ _ q => some (q, 2)
  | .aLd _ _ _ q => some (q, 1)
  | .aSt _ _ _ q => some (q, 1)
  | .aGath _ _ _ _ q => some (q, 1)
  | .aScat _ _ _ _ q => some (q, 1)
  | .aAdd _ _ _ q => some (q, 1)
  | .aSub _ _ _ q => some (q, 1)
  | .aAnd _ _ _ q => some (q, 1)
  | .aShl _ _ _ q => some (q, 1)
  | .aShr _ _ _ q => some (q, 1)
  | .aMul _ _ _ q => some (q, 1)
  | .aMov _ _ q => some (q, 1)
  | .aAddi _ _ _ q => some (q, 1)
  | .aLim _ _ q => some (q, 2)
  | _ => none


/-- An instruction of A under guard q may execute: q holds, and no loop ends at it (R179, R207). -/
abbrev aReady (s : State) (q : GuardQ) : Prop := s.cx.qr q = true ∧ noLoop s.cx .a
/-- An instruction of M may execute: its context holds the claim, and no loop ends at it (R249). -/
abbrev mReady (s : State) : Prop := s.cl.claim = some s.cur.ctx ∧ noLoop s.cx .m
/-- The state after A, or M, has written a context and gone past len lanes. -/
def aGoes (s : State) (x : Ctx) (len : Nat) : State := s.setCx (past x .a len)
def mGoes (s : State) (x : Ctx) (len : Nat) : State := s.setCx (past x .m len)

/-- A fetch of engine e that waited for a pending staging slot acquires what it brought (R124): the engine's acquire horizon moves to now. -/
def cameFor (s : State) (e : Eng) : State :=
  if (s.cx.eng e).waited = none then s else s.setCx (s.cx.setEng e { s.cx.eng e with horizon := s.now })

/-- A context whose engine e goes on at slot p in line order: inside a join line that it has met it does not wait again (R171, R205). -/
def continued (x : Ctx) (e : Eng) (p : Slot) : Ctx :=
  x.setEng e { x.eng e with pc := p, passed := if lineSlot p = lineSlot (x.eng e).pc then (x.eng e).passed else none, waited := none }

/-- A context whose engine e has jumped to slot p. -/
def jumped (x : Ctx) (e : Eng) (p : Slot) : Ctx :=
  x.setEng e { x.eng e with pc := p, passed := none, line := none, unchecked := none, waited := none }

/-! Jumps (R172, R173, R203 to R206, R241, R252). -/

/-- The running context has the line that holds slot p, which is b and passes the header check (R54, R168): from the instruction store, and
then t is s, or fetched at its home, which leaves t. -/
def lineAt (s : State) (p : Slot) (b : BitVec 256) (t : State) : Prop :=
  ((∃ l, s.cl.istoreHit s.cx.kmode (lineSlot p) = some l ∧ l.bits = b ∧ t = s)
    ∨ (s.cl.istoreHit s.cx.kmode (lineSlot p) = none ∧ s.fetchLine s.cur.cell s.cx.kmode p = .ok (b, t))) ∧ headerOk b = true
/-- Slot p holds the first lane of an instruction of engine e (R173). -/
abbrev legalTarget (b : BitVec 256) (e : Eng) (p : Slot) : Prop := p.toNat % 8 ≠ 0 ∧ nibble b (p.toNat % 8) = engNo e

/-- The test of br on a predicate (R176). -/
abbrev testHolds (m : BrTest) (p : BitVec 16) : Prop :=
  match m with
  | .t => p.getLsbD 0 = true
  | .f => p.getLsbD 0 = false
  | .any => p ≠ 0
  | .all => p = 0xFFFF

/-- An instruction of engine e jumps to an exact target (R203, R204, R205, R241, R252). -/
inductive jumps (s : State) : Instr → Eng → Slot → Prop
  | br (pt tm off) : testHolds tm (s.cx.pr pt) → jumps s (.xBr pt tm off) .x (s.cx.ex.pc + off.signExtend 55)
  | jmp (imm g) : guardOn s.cx g → jumps s (.xJmp imm g) .x (s.cx.ex.pc + imm.signExtend 55)
  | jmpr (a g) : guardOn s.cx g → settled s.cx [a] → (s.cx.gr a).getLsbD 63 = false → jumps s (.xJmpr a g) .x ((s.cx.gr a).setWidth 55)
  | ret (g) : guardOn s.cx g → settled s.cx [31] → (s.cx.gr 31).getLsbD 63 = false → jumps s (.xRet g) .x ((s.cx.gr 31).setWidth 55)
  | abr (qt tm off) : s.cx.qr qt = !tm → jumps s (.aBr qt tm off) .a (s.cx.ea.pc + off.signExtend 55)
  | ajmp (imm q) : s.cx.qr q = true → jumps s (.aJmp imm q) .a (s.cx.ea.pc + imm.signExtend 55)
  | mbr (c tm off) : s.cl.claim = some s.cur.ctx → (s.cx.cr c = 0 ↔ tm = true) → jumps s (.mBr c tm off) .m (s.cx.em.pc + off.signExtend 55)

/-- A branch whose test fails (R203, R241, R252). -/
inductive fallsThrough (s : State) : Instr → Eng → Prop
  | br (pt tm off) : ¬testHolds tm (s.cx.pr pt) → fallsThrough s (.xBr pt tm off) .x
  | abr (qt tm off) : s.cx.qr qt = tm → fallsThrough s (.aBr qt tm off) .a
  | mbr (c tm off) : s.cl.claim = some s.cur.ctx → (s.cx.cr c = 0 ↔ tm = false) → fallsThrough s (.mBr c tm off) .m

/-- A loop instruction that may execute: its engine, counter, count and LAST (R206, R241, R252). -/
inductive loops (s : State) : Instr → Eng → Nat → Word → Slot → Prop
  | x (k a imm g) : guardOn s.cx g → settled s.cx [a] → loops s (.xLoop k a imm g) .x k.toNat (s.cx.gr a) (s.cx.ex.pc + imm.signExtend 55)
  | a (k b imm q) : s.cx.qr q = true → loops s (.aLoop k b imm q) .a k.toNat (s.cx.br b) (s.cx.ea.pc + imm.signExtend 55)
  | m (k c imm) : s.cl.claim = some s.cur.ctx → loops s (.mLoop k c imm) .m k.toNat (s.cx.cr c) (s.cx.em.pc + imm.signExtend 55)

/-- done, a.done and m.done that may execute (R188, R241, R249). -/
inductive ends (s : State) : Instr → Eng → Prop
  | x (g) : guardOn s.cx g → ends s (.xDone g) .x
  | a (q) : s.cx.qr q = true → ends s (.aDone q) .a
  | m : s.cl.claim = some s.cur.ctx → ends s .mDone .m

/-! Token FIFOs (R72, R208). -/

/-- A put that may execute: its engine, the FIFO and the value (R208, R241, R252); one of A once the groups it has issued are performed (R133). -/
inductive puts (s : State) : Instr → Eng → Fifo → Word → Prop
  | x (f a g) : guardOn s.cx g → settled s.cx [a] → puts s (.xTkput f a g) .x f (s.cx.gr a)
  | a (f b q) : s.cx.qr q = true → s.cx.loadsFly = false → s.cx.storesFly = false → puts s (.aTkput f b q) .a f (s.cx.br b)
  | m (f c) : s.cl.claim = some s.cur.ctx → puts s (.mTkput f c) .m f (s.cx.cr c)

/-- A get that may execute: its engine, the FIFO, and the context with a value in the destination. -/
inductive gets (s : State) : Instr → Eng → Fifo → (Ctx → Word → Ctx) → Prop
  | x (d f g) : guardOn s.cx g → settled s.cx [d] → gets s (.xTkget d f g) .x f (fun x w => x.setG d w)
  | a (d f q) : s.cx.qr q = true → gets s (.aTkget d f q) .a f (fun x w => x.setB d w)
  | m (d f) : s.cl.claim = some s.cur.ctx → gets s (.mTkget d f) .m f (fun x w => x.setC d w)

/-! Results of A and M (R241, R252). -/

/-- What a scalar instruction of A does: its lanes, its guard, its destination and the result; a.nop writes none. -/
def aResult (x : Ctx) : Instr → Option (Nat × GuardQ × Option RegB × Word)
  | .aNop q => some (1, q, none, 0)
  | .aAdd d a b q => some (1, q, some d, x.br a + x.br b)
  | .aSub d a b q => some (1, q, some d, x.br a - x.br b)
  | .aAnd d a b q => some (1, q, some d, x.br a &&& x.br b)
  | .aShl d a b q => some (1, q, some d, x.br a <<< ((x.br b).setWidth 6).toNat)
  | .aShr d a b q => some (1, q, some d, x.br a >>> ((x.br b).setWidth 6).toNat)
  | .aMul d a b q => some (1, q, some d, x.br a * x.br b)
  | .aMov d a q => some (1, q, some d, x.br a)
  | .aAddi d a imm q => some (1, q, some d, x.br a + imm.signExtend 64)
  | .aLim d imm q => some (2, q, some d, imm.signExtend 64)
  | _ => none

/-- What a scalar instruction of M does; m.nop writes c0, which discards it. -/
def mResult (x : Ctx) : Instr → Option (Nat × RegC × Word)
  | .mNop => some (1, 0, 0)
  | .mAdd d a b => some (1, d, x.cr a + x.cr b)
  | .mSub d a b => some (1, d, x.cr a - x.cr b)
  | .mMov d a => some (1, d, x.cr a)
  | .mAddi d a imm => some (1, d, x.cr a + imm.signExtend 64)
  | .mLim d imm => some (2, d, imm.signExtend 64)
  | _ => none

/-! CSRs (R62 to R65, R201). -/

/-- A context after a write of a CSR: fmode takes bit 0, late the word; every other CSR keeps its value. -/
def csrTakes (x : Ctx) (c : Csr) (w : Word) : Ctx :=
  match c with
  | .fmode => { x with fmode := w.getLsbD 0 }
  | .late => { x with late := w }
  | _ => x

/-- The general register or predicate a scalar instruction of X may write, and whether it may write a CSR. -/
inductive Dest where | g (d : RegG) | p (d : RegP) | csr (d : RegG)
def xDest (s : State) (i : Instr) : Option Dest :=
  match i with
  | .xCsrw d _ _ _ => some (.csr d)
  | .xCsrs d _ _ _ => some (.csr d)
  | .xCmp _ pd _ _ _ => some (.p (pd.setWidth 7))
  | .xCmpi _ pd _ _ _ => some (.p (pd.setWidth 7))
  | .xPand pd _ _ => some (.p pd)
  | .xPor pd _ _ => some (.p pd)
  | .xPxor pd _ _ => some (.p pd)
  | .xPandn pd _ _ => some (.p pd)
  | .xPmov pd _ => some (.p pd)
  | .xPany pd _ _ => some (.p pd)
  | .xPall pd _ _ => some (.p pd)
  | .xPseti pd _ => some (.p pd)
  | .xPfrom pd _ => some (.p pd)
  | _ => (xResult s i).map fun r => .g r.d

/-- What no scalar instruction of X changes in its context: every register file but the destination's, the other engines, streams, FIFOs, the
store buffer, timelines, the Trellis registers, and who runs there. -/
def sameRest (x y : Ctx) : Prop :=
  y.v = x.v ∧ y.b = x.b ∧ y.q = x.q ∧ y.c = x.c ∧ y.shadow = x.shadow ∧ y.ea = x.ea ∧ y.em = x.em ∧ y.streams = x.streams ∧ y.fifos = x.fifos
    ∧ y.sb = x.sb ∧ y.issue = x.issue ∧ y.done = x.done ∧ y.gst = x.gst ∧ y.gstk = x.gstk ∧ y.gtt = x.gtt ∧ y.gmt = x.gmt ∧ y.gdim = x.gdim
    ∧ y.st = x.st ∧ y.chan = x.chan ∧ y.kmode = x.kmode ∧ y.phdr = x.phdr ∧ y.xfid = x.xfid ∧ y.out = x.out ∧ y.pend = x.pend
    ∧ y.popped = x.popped ∧ y.trap = x.trap ∧ y.esc = x.esc ∧ y.inv = x.inv ∧ y.wdcnt = x.wdcnt
    ∧ y.ex.st = x.ex.st ∧ y.ex.code = x.ex.code ∧ y.ex.held = x.ex.held ∧ y.ex.horizon = x.ex.horizon

/-- The registers of a context but one destination. -/
def sameBut (d : Dest) (x y : Ctx) : Prop :=
  match d with
  | .g d => (∀ r, r ≠ d → y.gr r = x.gr r) ∧ (∀ r, y.pr r = x.pr r) ∧ y.fmode = x.fmode ∧ y.late = x.late
  | .p d => (∀ r, y.gr r = x.gr r) ∧ (∀ r, r ≠ d → y.pr r = x.pr r) ∧ y.fmode = x.fmode ∧ y.late = x.late
  | .csr d => (∀ r, r ≠ d → y.gr r = x.gr r) ∧ (∀ r, y.pr r = x.pr r)

end Sys2Proof.Claims

/-- R57, R179: an instruction whose guard is off retires with no other effect; for a privileged instruction in K mode. -/
def Obligations.FalseGuardRetires : Prop :=
  (∀ (s : State) (i : Instr) (g : GuardP) (len : Nat), xGuard i = some (g, len) → ¬guardOn s.cx g → noLoop s.cx .x → runs i s (xGoes s s.cx len))
    ∧ (∀ (s : State) (i : Instr) (g : GuardP) (len : Nat), privGuard i = some (g, len) → s.cx.kmode = true → ¬guardOn s.cx g → noLoop s.cx .x →
        runs i s (xGoes s s.cx len))
    ∧ ∀ (s : State) (i : Instr) (q : GuardQ) (len : Nat), aGuard i = some (q, len) → s.cx.qr q = false → noLoop s.cx .a → runs i s (aGoes s s.cx len)

/-- R201: csrw and csrs write the CSR and return its old value. -/
def Sys2Proof.Claims.CsrWriteReturnsOld : Prop :=
  ∀ (s : State) (d a : RegG) (c : Csr) (g : GuardP), xReady s g [d, a] →
    runs (.xCsrw d c a g) s (xGoes s ((csrTakes s.cx c (s.cx.gr a)).setG d (s.csr c)) 1)
      ∧ runs (.xCsrs d c a g) s (xGoes s ((csrTakes s.cx c (s.csr c ||| s.cx.gr a)).setG d (s.csr c)) 1)

/-- R62, R64: what each CSR reads. -/
def Sys2Proof.Claims.CsrContents : Prop :=
  ∀ s : State, s.csr .fmode = (if s.cx.fmode then 1 else 0) ∧ s.csr .xfid = s.cx.xfid.setWidth 64 ∧ s.csr .cycle = s.cycle ∧ s.csr .time = s.time
    ∧ s.csr .late = s.cx.late ∧ s.csr .gst = s.cx.gst ∧ s.csr .gstk = s.cx.gstk ∧ s.csr .gtt = s.cx.gtt ∧ s.csr .gmt = s.cx.gmt
    ∧ s.csr .gdim = s.cx.gdim
    ∧ (s.csr .ctx).extractLsb' 0 2 = BitVec.ofNat 2 s.cur.ctx ∧ (s.csr .ctx).extractLsb' 8 16 = s.cl.lcell
    ∧ (s.csr .ctx).extractLsb' 24 5 = BitVec.ofNat 5 s.cl.tag ∧ ((s.csr .ctx).getLsbD 29 = s.cx.kmode)
    ∧ (s.csr .ctx).extractLsb' 2 6 = 0 ∧ (s.csr .ctx).extractLsb' 30 34 = 0

/-- R57, R186, R207: the frame of the scalar instructions of X, in every state, whether they execute, wait, or a loop ends at them: nothing but the
destination, the CSR a csrw or csrs names, X's program counter and loop counters changes, and no byte of memory. -/
def Obligations.XScalarFrame : Prop :=
  ∀ (s t : State) (i : Instr) (d : Dest), xDest s i = some d → runs i s t →
    onlyCx s t ∧ sameBut d s.cx t.cx ∧ sameRest s.cx t.cx ∧ ∀ e k, e ≠ .x → t.cx.loopOf e k = s.cx.loopOf e k

/-- R124, R172, R173, R203 to R205, R241, R252: a jump to a legal target moves its engine there and does nothing else but what fetching the target's
line does; a fetch that waited for a staging slot acquires. -/
def Sys2Proof.Claims.JumpMovesEngine : Prop :=
  ∀ (s t : State) (i : Instr) (e : Eng) (p : Slot) (b : BitVec 256), jumps s i e p → lineAt s p b t → legalTarget b e p →
    runs i s ((cameFor t e).setCx (jumped (cameFor t e).cx e p))

/-- R173: a jump whose target is not the first lane of an instruction of its engine raises Illegal-target (0x03) at the jump, a header lane
without any fetch of its line. -/
def Sys2Proof.Claims.JumpToWrongLaneTraps : Prop :=
  ∀ (s : State) (i : Instr) (e : Eng) (p : Slot), jumps s i e p →
    (p.toNat % 8 = 0 → runs i s (s.raise s.cur.cell s.cur.ctx e ⟨3, 6, 0xFF, slotAddr p, 0, 0⟩ 0 0))
    ∧ ∀ (t : State) (b : BitVec 256), p.toNat % 8 ≠ 0 → lineAt s p b t → ¬legalTarget b e p →
      runs i s (t.raise t.cur.cell t.cur.ctx e ⟨3, 6, 0xFF, slotAddr p, 0, 0⟩ 0 0)

/-- R204: call writes its link into g31 and jumps; when its target is illegal it writes nothing. -/
def Sys2Proof.Claims.CallLinks : Prop :=
  ∀ (s : State) (imm : BitVec 32) (g : GuardP), guardOn s.cx g → settled s.cx [31] →
    let p := s.cx.ex.pc + imm.signExtend 55
    (p.toNat % 8 = 0 → runs (.xCall imm g) s (s.raise s.cur.cell s.cur.ctx .x ⟨3, 6, 0xFF, slotAddr p, 0, 0⟩ 0 0))
    ∧ ∀ (t : State) (b : BitVec 256), lineAt s p b t → p.toNat % 8 ≠ 0 →
    (legalTarget b .x p → runs (.xCall imm g) s
      ((cameFor t .x).setCx (jumped ((cameFor t .x).cx.setG 31 (0x8000000000000000 ||| (s.cx.ex.pc + 2).setWidth 64)) .x p)))
    ∧ (¬legalTarget b .x p → runs (.xCall imm g) s (t.raise t.cur.cell t.cur.ctx .x ⟨3, 6, 0xFF, slotAddr p, 0, 0⟩ 0 0))

/-- R205: jmpr and ret of a value with bit 63 set go to a resume point, with no target check. -/
def Sys2Proof.Claims.ResumePointUnchecked : Prop :=
  ∀ (s : State) (a : RegG) (g : GuardP), guardOn s.cx g →
    (settled s.cx [a] → (s.cx.gr a).getLsbD 63 = true → runs (.xJmpr a g) s (s.setCx (jumped s.cx .x ((s.cx.gr a).setWidth 55))))
    ∧ (settled s.cx [31] → (s.cx.gr 31).getLsbD 63 = true → runs (.xRet g) s (s.setCx (jumped s.cx .x ((s.cx.gr 31).setWidth 55))))

/-- R203, R207, R241, R252: a branch whose test fails goes on behind itself. -/
def Sys2Proof.Claims.UntakenBranchGoesOn : Prop :=
  ∀ (s : State) (i : Instr) (e : Eng), fallsThrough s i e → noLoop s.cx e → runs i s (s.setCx (past s.cx e 1))

/-- R206: a loop instruction sets its counter and goes on at the slot s + 2 behind it; when the count is 0 it goes on sequentially after the
instruction at LAST, which is LAST + 1, or LAST + 2 for one of two lanes (R170, R205). In a join line it has met the engine does not wait again
(R171), and a fetch of LAST that waited for a staging slot acquires (R124). A LAST that is no first lane of its engine raises
Illegal-target (0x03). -/
def Sys2Proof.Claims.LoopSetsCounter : Prop :=
  ∀ (s : State) (i : Instr) (e : Eng) (k : Nat) (n : Word) (last : Slot), loops s i e k n last →
    (last.toNat % 8 = 0 → runs i s (s.raise s.cur.cell s.cur.ctx e ⟨3, 6, 0xFF, slotAddr last, 0, 0⟩ 0 0))
    ∧ ∀ (t : State) (b : BitVec 256), last.toNat % 8 ≠ 0 → lineAt s last b t →
    (legalTarget b e last → last ≠ (s.cx.eng e).pc → noLoop t.cx e → (t.cx.eng e).pc = (s.cx.eng e).pc →
      runs i s ((cameFor t e).setCx (continued ((cameFor t e).cx.setLoop e k ⟨n, (s.cx.eng e).pc + 2, last⟩) e
        (if n ≠ 0 then (s.cx.eng e).pc + 2
          else if last.toNat % 8 < 7 ∧ nibble b (last.toNat % 8 + 1) = engNo e + 4 then last + 2 else last + 1))))
    ∧ (¬legalTarget b e last → runs i s ((cameFor t e).raise t.cur.cell t.cur.ctx e ⟨3, 6, 0xFF, slotAddr last, 0, 0⟩ 0 0))

/-- R207: an instruction of X at which loops end. One counter ends there: it falls by 1, and X goes on at its FIRST while it is not 0. Two
counters end there: the one with the higher FIRST is taken first, and the other only when the first has reached 0. -/
def Sys2Proof.Claims.LoopEndsAtInstruction : Prop :=
  ∀ (s : State) (i : Instr) (r : XResult) (k : Nat), xResult s i = some r → guardOn s.cx r.guard → settled s.cx r.regs → k < 4 →
    (s.cx.loopOf .x k).count ≠ 0 → (s.cx.loopOf .x k).last = s.cx.ex.pc →
    ((∀ j < 4, j ≠ k → (s.cx.loopOf .x j).count = 0 ∨ (s.cx.loopOf .x j).last ≠ s.cx.ex.pc) →
      runs i s (s.setCx (if (s.cx.loopOf .x k).count = 1
        then past ((s.cx.setG r.d r.value).setLoop .x k { s.cx.loopOf .x k with count := 0 }) .x r.len
        else jumped ((s.cx.setG r.d r.value).setLoop .x k { s.cx.loopOf .x k with count := (s.cx.loopOf .x k).count - 1 }) .x (s.cx.loopOf .x k).first)))
    ∧ ∀ j < 4, j ≠ k → (s.cx.loopOf .x j).count ≠ 0 → (s.cx.loopOf .x j).last = s.cx.ex.pc →
      (s.cx.loopOf .x j).first.toNat < (s.cx.loopOf .x k).first.toNat →
      (∀ m < 4, m ≠ k → m ≠ j → (s.cx.loopOf .x m).count = 0 ∨ (s.cx.loopOf .x m).last ≠ s.cx.ex.pc) →
      runs i s (s.setCx (
        let x := (s.cx.setG r.d r.value).setLoop .x k { s.cx.loopOf .x k with count := (s.cx.loopOf .x k).count - 1 }
        if (s.cx.loopOf .x k).count ≠ 1 then jumped x .x (s.cx.loopOf .x k).first
        else
          let y := x.setLoop .x j { s.cx.loopOf .x j with count := (s.cx.loopOf .x j).count - 1 }
          if (s.cx.loopOf .x j).count ≠ 1 then jumped y .x (s.cx.loopOf .x j).first else past y .x r.len))

/-- R188, R241, R249: done, a.done and m.done end their engine's part of the invocation, at the instruction. -/
def Sys2Proof.Claims.DoneEndsEngine : Prop :=
  ∀ (s : State) (i : Instr) (e : Eng), ends s i e → runs i s (s.setCx (s.cx.setEng e { s.cx.eng e with st := .ended, waited := none }))

/-- R72, R133, R208: a put appends its value while its FIFO has room, and stalls, changing nothing, while it is full; a.tkput stalls too while groups
that A has issued are in flight. -/
def Sys2Proof.Claims.FifoPutAppends : Prop :=
  (∀ (s : State) (f : Fifo) (b : RegB) (q : GuardQ), s.cx.qr q = true → s.cx.loadsFly = true ∨ s.cx.storesFly = true → runs (.aTkput f b q) s s)
  ∧ ∀ (s : State) (i : Instr) (e : Eng) (f : Fifo) (w : Word), puts s i e f w →
    ((s.cx.fifo f.code).items.length < 16 → noLoop s.cx e →
      runs i s (s.setCx (past (s.cx.setFifo f.code { s.cx.fifo f.code with items := (s.cx.fifo f.code).items ++ [w] }) e 1)))
    ∧ (16 ≤ (s.cx.fifo f.code).items.length → runs i s s)

/-- R72, R133, R208: a get takes the oldest value of its FIFO into its destination and acquires; it stalls, changing nothing, while the FIFO is empty. -/
def Sys2Proof.Claims.FifoGetTakesOldest : Prop :=
  ∀ (s : State) (i : Instr) (e : Eng) (f : Fifo) (wr : Ctx → Word → Ctx), gets s i e f wr →
    (∀ w rest, (s.cx.fifo f.code).items = w :: rest → noLoop s.cx e →
      runs i s (s.setCx (past (wr ((s.cx.setEng e { s.cx.eng e with horizon := s.now }).setFifo f.code ⟨(s.cx.fifo f.code).headp + 1, rest⟩) w) e 1)))
    ∧ ((s.cx.fifo f.code).items = [] → runs i s s)

/-- R241: a scalar instruction of A writes its result into its b register. -/
def Sys2Proof.Claims.AScalarResult : Prop :=
  (∀ (s : State) (i : Instr) (len : Nat) (q : GuardQ) (d : Option RegB) (v : Word), aResult s.cx i = some (len, q, d, v) → aReady s q →
    runs i s (aGoes s (match d with | some r => s.cx.setB r v | none => s.cx) len))
  ∧ ∀ (s : State) (c : Cond) (qd : BitVec 2) (a b : RegB) (q : GuardQ), aReady s q →
    (condition c (s.cx.br a) (s.cx.br b) → runs (.aCmp c qd a b q) s (aGoes s (s.cx.setQ qd true) 1))
      ∧ (¬condition c (s.cx.br a) (s.cx.br b) → runs (.aCmp c qd a b q) s (aGoes s (s.cx.setQ qd false) 1))

/-- R249, R252: a scalar instruction of M writes its result into its c register, and without the claim M stalls, changing nothing. -/
def Sys2Proof.Claims.MScalarResult : Prop :=
  ∀ (s : State) (i : Instr) (len : Nat) (d : RegC) (v : Word), mResult s.cx i = some (len, d, v) →
    (mReady s → runs i s (mGoes s (s.cx.setC d v) len)) ∧ (s.cl.claim ≠ some s.cur.ctx → runs i s s)

/-- R189, R190, R360: sys and ebrk stop X with Sys (0x30) or Break (0x31) outstanding; a sys carries g[a], and the register of its reply. -/
def Sys2Proof.Claims.SystemCallStops : Prop :=
  ∀ (s : State) (d a : RegG) (g : GuardP), guardOn s.cx g →
    (settled s.cx [d, a] → runs (.xSys d a g) s
      ((s.setCx { s.cx with sysd := d }).raise s.cur.cell s.cur.ctx .x ⟨0x30, 6, 0xFF, 0, s.cx.gr a, 0⟩ (s.cx.gr a) d))
      ∧ runs (.xEbrk g) s (s.raise s.cur.cell s.cur.ctx .x ⟨0x31, 6, 0xFF, 0, 0, 0⟩ 0 0)

/-- The coherent memory of t is that of s but for bytes written at some places, each with its first address; the places do not overlap. -/
def Sys2Proof.Claims.wrotePlaces (s t : State) (ws : List (Nat × List Byte)) : Prop :=
  (∀ w ∈ ws, ∀ i < w.2.length, t.latest (w.1 + i) = w.2.getD i 0) ∧ ∀ x, (∀ w ∈ ws, ¬(w.1 ≤ x ∧ x < w.1 + w.2.length)) → t.latest x = s.latest x

/-- The status parcel of a fault buffer (R384): TAIL, HEAD, HELD and OVF, to the kernel's cell and channel. -/
def Sys2Proof.Claims.statusOf (pid : Nat) (h : FbHdr) (tail held ovf : Nat) : Vec :=
  mkParcel (mkHdr 0 false false false pid 0xFFFF h.stype h.kch h.kcell) (leBytes 4 tail ++ leBytes 4 h.head ++ leBytes 4 held ++ leBytes 4 ovf)

/-- R26, R339, R343, R382 to R384: taking a trap of an engine. Its engine stops at its program counter with the code outstanding, the context is
suspended, and no register, and no other engine, changes. In K mode the fault goes to Belvedere's queue and nothing else changes. In U mode the
record of R382 goes to the partition's fault buffer: with room its 64 bytes, numbered by SEQ, are written in the ring, TAIL and SEQ rise by 1, and
a status parcel leaves when the ring was empty; with none the engine's pending-fault register holds it, HELD and OVF rise by 1 and a status
parcel leaves; with no fault buffer the register holds it. Engines that stop at one illegal line share one record (R168). -/
def Obligations.TrapStopsEngine : Prop :=
  ∀ (s : State) (c k : Nat) (e : Eng) (w : Why) (arg : Word) (reg : RegG), w.code < 0x20 ∨ 0x27 < w.code →
    let x := s.ctx c k
    let pid := (s.cell c).tag
    let y : Ctx := { x with st := .suspended }.setEng e
      { x.eng e with
        st := .faulted, code := BitVec.ofNat 8 w.code, joining := false, waited := none
        two := match (x.eng e).line with
          | some l => l.1 == lineSlot (x.eng e).pc && twoAt l.2 e (x.eng e).pc
          | none => false }
    let r := mkRecord w.code (engNo e) k x.chan (s.cell c).lcell.toNat w.acc w.level w.va ((x.eng e).pc.setWidth 64) w.detail x.phdr s.time 0 w.cause
    let held := y.setEng e { y.eng e with held := some r }
    (w.code = 2 → y.sharers e ≠ [] → s.raise c k e w arg reg = s.setCtx c k y)
    ∧ ((w.code = 2 → y.sharers e = []) →
      (x.kmode = true → s.raise c k e w arg reg
        = { s.setCtx c k y with hypFaults := s.hypFaults ++ [⟨pid, c, k, x.inv, e, BitVec.ofNat 8 w.code, arg, reg⟩] })
      ∧ (x.kmode = false → (s.part pid).fbhdr = 0 → s.raise c k e w arg reg = s.setCtx c k held)
      ∧ (x.kmode = false → ∀ v, (s.setCtx c k y).fbHeader pid = (v, none) → s.raise c k e w arg reg = v.setCtx c k held)
      ∧ (x.kmode = false → ∀ h v, (s.setCtx c k y).fbHeader pid = (v, some h) → h.pa % 64 = 0 →
        let t := s.raise c k e w arg reg
        let slot := h.ring + BitVec.ofNat 64 (64 * (h.tail % 2 ^ h.logn))
        let counts := fun (z : State) => t.ctx c k = held
          ∧ wrotePlaces z t [(h.pa + 24, leBytes 4 ((h.held + 1) % 2 ^ 32) ++ leBytes 4 ((h.ovf + 1) % 2 ^ 32))]
          ∧ t.flights.map (fun f => f.parcel)
            = z.flights.map (fun f => f.parcel) ++ [statusOf pid h h.tail ((h.held + 1) % 2 ^ 32) ((h.ovf + 1) % 2 ^ 32)]
        (2 ^ h.logn ≤ (h.tail + 2 ^ 32 - h.head) % 2 ^ 32 → v.slotPages (h.pa / 64) = [] → counts v ∧ t.hypEvents = v.hypEvents)
        ∧ ((h.tail + 2 ^ 32 - h.head) % 2 ^ 32 < 2 ^ h.logn →
          (∀ j z, v.xlateDev pid true .write slot = .error (j, z) → z.slotPages (h.pa / 64) = [] →
            counts z ∧ t.hypEvents = z.hypEvents ++ [.ringFault pid])
          ∧ ∀ l z, v.xlateDev pid true .write slot = .ok (l, z) → l.pa % 64 = 0 → l.pa ≠ h.pa → z.slotPages (l.pa / 64) = [] →
            z.slotPages (h.pa / 64) = [] → t.ctx c k = y
              ∧ wrotePlaces z t [(l.pa, (vecBytes r).take 40 ++ leBytes 8 h.seq ++ (vecBytes r).drop 48),
                  (h.pa + 20, leBytes 4 ((h.tail + 1) % 2 ^ 32) ++ leBytes 4 h.held ++ leBytes 4 h.ovf ++ leBytes 8 ((h.seq + 1) % 2 ^ 64))]
              ∧ t.flights.map (fun f => f.parcel) = z.flights.map (fun f => f.parcel)
                ++ if h.tail = h.head then [statusOf pid h ((h.tail + 1) % 2 ^ 32) h.held h.ovf] else [])))

/-! Vector instructions of X (R56, R210 to R223). -/

namespace Sys2Proof.Claims

/-- The integer that w bits hold, signed for the types i8 to i64 (R78). -/
def valueOf (ty : Ty) (A : Nat) : Int := if tySigned ty && decide (2 ^ (tyWidth ty - 1) ≤ A) then (A : Int) - 2 ^ tyWidth ty else A
/-- An integer modulo 2^w (R79). -/
def wrapTo (ty : Ty) (v : Int) : Nat := (v % 2 ^ tyWidth ty).toNat
/-- The format of a floating-point type, and the value that its bits hold (R82). -/
def fp (ty : Ty) : Fmt := fmtOf ty false
def fval (ty : Ty) (A : Nat) : Fl := (fp ty).decode A

/-- An element-wise instruction: what an enabled element of the destination becomes. ty is the type whose width splits the registers, and
pend names the general registers read. A, B and D are elements k of va, vb and vd. Free values enter t30 elements that are no residues (log 3). -/
inductive vResult (s : State) : Instr → Nat → RegV → GuardP → List RegG → (Nat → Nat) → Prop
  | addI (ty d a b g) : ty.isInt → vResult s (.xVadd ty d a b g) (tyWidth ty) d g []
      fun k => wrapTo ty (valueOf ty (elem (tyWidth ty) (s.cx.vr a) k) + valueOf ty (elem (tyWidth ty) (s.cx.vr b) k))
  | subI (ty d a b g) : ty.isInt → vResult s (.xVsub ty d a b g) (tyWidth ty) d g []
      fun k => wrapTo ty (valueOf ty (elem (tyWidth ty) (s.cx.vr a) k) - valueOf ty (elem (tyWidth ty) (s.cx.vr b) k))
  | mulI (ty d a b g) : ty.isInt → vResult s (.xVmul ty d a b g) (tyWidth ty) d g []
      fun k => wrapTo ty (valueOf ty (elem (tyWidth ty) (s.cx.vr a) k) * valueOf ty (elem (tyWidth ty) (s.cx.vr b) k))
  | minI (ty d a b g) : ty.isInt → vResult s (.xVmin ty d a b g) (tyWidth ty) d g []
      fun k => wrapTo ty (min (valueOf ty (elem (tyWidth ty) (s.cx.vr a) k)) (valueOf ty (elem (tyWidth ty) (s.cx.vr b) k)))
  | maxI (ty d a b g) : ty.isInt → vResult s (.xVmax ty d a b g) (tyWidth ty) d g []
      fun k => wrapTo ty (max (valueOf ty (elem (tyWidth ty) (s.cx.vr a) k)) (valueOf ty (elem (tyWidth ty) (s.cx.vr b) k)))
  | absI (ty d a g) : ty.isInt → vResult s (.xVabs ty d a g) (tyWidth ty) d g []
      fun k => wrapTo ty |valueOf ty (elem (tyWidth ty) (s.cx.vr a) k)|
  | negI (ty d a g) : ty.isInt → vResult s (.xVneg ty d a g) (tyWidth ty) d g []
      fun k => wrapTo ty (-valueOf ty (elem (tyWidth ty) (s.cx.vr a) k))
  | maddI (ty d a b g) : ty.isInt → vResult s (.xVmadd ty d a b g) (tyWidth ty) d g []
      fun k => wrapTo ty (valueOf ty (elem (tyWidth ty) (s.cx.vr a) k) * valueOf ty (elem (tyWidth ty) (s.cx.vr b) k)
        + valueOf ty (elem (tyWidth ty) (s.cx.vr d) k))
  | msubI (ty d a b g) : ty.isInt → vResult s (.xVmsub ty d a b g) (tyWidth ty) d g []
      fun k => wrapTo ty (valueOf ty (elem (tyWidth ty) (s.cx.vr a) k) * valueOf ty (elem (tyWidth ty) (s.cx.vr b) k)
        - valueOf ty (elem (tyWidth ty) (s.cx.vr d) k))
  | nmaddI (ty d a b g) : ty.isInt → vResult s (.xVnmadd ty d a b g) (tyWidth ty) d g []
      fun k => wrapTo ty (valueOf ty (elem (tyWidth ty) (s.cx.vr d) k)
        - valueOf ty (elem (tyWidth ty) (s.cx.vr a) k) * valueOf ty (elem (tyWidth ty) (s.cx.vr b) k))
  | addF (ty d a b g) : ty.isFp → vResult s (.xVadd ty d a b g) (tyWidth ty) d g []
      fun k => (fp ty).round .rne ((fval ty (elem (tyWidth ty) (s.cx.vr a) k)).add (fval ty (elem (tyWidth ty) (s.cx.vr b) k)))
  | subF (ty d a b g) : ty.isFp → vResult s (.xVsub ty d a b g) (tyWidth ty) d g []
      fun k => (fp ty).round .rne ((fval ty (elem (tyWidth ty) (s.cx.vr a) k)).add (fval ty (elem (tyWidth ty) (s.cx.vr b) k)).neg)
  | mulF (ty d a b g) : ty.isFp → vResult s (.xVmul ty d a b g) (tyWidth ty) d g []
      fun k => (fp ty).round .rne ((fval ty (elem (tyWidth ty) (s.cx.vr a) k)).mul (fval ty (elem (tyWidth ty) (s.cx.vr b) k)))
  | minF (ty d a b g) : ty.isFp → vResult s (.xVmin ty d a b g) (tyWidth ty) d g []
      fun k => (fp ty).round .rne ((fval ty (elem (tyWidth ty) (s.cx.vr a) k)).min (fval ty (elem (tyWidth ty) (s.cx.vr b) k)))
  | maxF (ty d a b g) : ty.isFp → vResult s (.xVmax ty d a b g) (tyWidth ty) d g []
      fun k => (fp ty).round .rne ((fval ty (elem (tyWidth ty) (s.cx.vr a) k)).max (fval ty (elem (tyWidth ty) (s.cx.vr b) k)))
  | absF (ty d a g) : ty.isFp → vResult s (.xVabs ty d a g) (tyWidth ty) d g []
      fun k => elem (tyWidth ty) (s.cx.vr a) k % 2 ^ (tyWidth ty - 1)
  | negF (ty d a g) : ty.isFp → vResult s (.xVneg ty d a g) (tyWidth ty) d g []
      fun k => elem (tyWidth ty) (s.cx.vr a) k ^^^ 2 ^ (tyWidth ty - 1)
  | maddF (ty d a b g) : ty.isFp → vResult s (.xVmadd ty d a b g) (tyWidth ty) d g []
      fun k => (fp ty).round .rne (Fl.fma false (fval ty (elem (tyWidth ty) (s.cx.vr a) k)) (fval ty (elem (tyWidth ty) (s.cx.vr b) k))
        (fval ty (elem (tyWidth ty) (s.cx.vr d) k)))
  | msubF (ty d a b g) : ty.isFp → vResult s (.xVmsub ty d a b g) (tyWidth ty) d g []
      fun k => (fp ty).round .rne (Fl.fma false (fval ty (elem (tyWidth ty) (s.cx.vr a) k)) (fval ty (elem (tyWidth ty) (s.cx.vr b) k))
        (fval ty (elem (tyWidth ty) (s.cx.vr d) k)).neg)
  | nmaddF (ty d a b g) : ty.isFp → vResult s (.xVnmadd ty d a b g) (tyWidth ty) d g []
      fun k => (fp ty).round .rne (Fl.fma true (fval ty (elem (tyWidth ty) (s.cx.vr a) k)) (fval ty (elem (tyWidth ty) (s.cx.vr b) k))
        (fval ty (elem (tyWidth ty) (s.cx.vr d) k)))
  | addT (d a b g) : vResult s (.xVadd .t30 d a b g) 32 d g []
      fun k => tAdd (elem 32 (Config.freeBits s.free) k) (elem 32 (s.cx.vr a) k) (elem 32 (s.cx.vr b) k)
  | subT (d a b g) : vResult s (.xVsub .t30 d a b g) 32 d g []
      fun k => tSub (elem 32 (Config.freeBits s.free) k) (elem 32 (s.cx.vr a) k) (elem 32 (s.cx.vr b) k)
  | mulT (d a b g) : vResult s (.xVmul .t30 d a b g) 32 d g []
      fun k => tMul (elem 32 (Config.freeBits s.free) k) (elem 32 (s.cx.vr a) k) (elem 32 (s.cx.vr b) k)
  | negT (d a g) : vResult s (.xVneg .t30 d a g) 32 d g [] fun k => tNeg (elem 32 (Config.freeBits s.free) k) (elem 32 (s.cx.vr a) k)
  | and (ty d a b g) : vResult s (.xVand ty d a b g) (tyWidth ty) d g []
      fun k => elem (tyWidth ty) (s.cx.vr a) k &&& elem (tyWidth ty) (s.cx.vr b) k
  | or (ty d a b g) : vResult s (.xVor ty d a b g) (tyWidth ty) d g []
      fun k => elem (tyWidth ty) (s.cx.vr a) k ||| elem (tyWidth ty) (s.cx.vr b) k
  | xor (ty d a b g) : vResult s (.xVxor ty d a b g) (tyWidth ty) d g []
      fun k => elem (tyWidth ty) (s.cx.vr a) k ^^^ elem (tyWidth ty) (s.cx.vr b) k
  | shl (ty d a b g) : ty.isInt → vResult s (.xVshl ty d a b g) (tyWidth ty) d g []
      fun k => elem (tyWidth ty) (s.cx.vr a) k * 2 ^ (elem (tyWidth ty) (s.cx.vr b) k % tyWidth ty) % 2 ^ tyWidth ty
  | shr (ty d a b g) : ty.isInt → vResult s (.xVshr ty d a b g) (tyWidth ty) d g []
      fun k => elem (tyWidth ty) (s.cx.vr a) k / 2 ^ (elem (tyWidth ty) (s.cx.vr b) k % tyWidth ty)
  | sra (ty d a b g) : ty.isInt → vResult s (.xVsra ty d a b g) (tyWidth ty) d g []
      fun k => ((BitVec.ofNat (tyWidth ty) (elem (tyWidth ty) (s.cx.vr a) k)).sshiftRight (elem (tyWidth ty) (s.cx.vr b) k % tyWidth ty)).toNat
  | bcst (ty d a g) : vResult s (.xVbcst ty d a g) (tyWidth ty) d g [a] fun _ => (s.cx.gr a).toNat % 2 ^ tyWidth ty
  | ins (ty d a b g) : vResult s (.xVins ty d a b g) (tyWidth ty) d g [a, b]
      fun k => if k = (s.cx.gr b).toNat % (512 / tyWidth ty) then (s.cx.gr a).toNat % 2 ^ tyWidth ty else elem (tyWidth ty) (s.cx.vr d) k
  | perm (ty d a b g) : vResult s (.xVperm ty d a b g) (tyWidth ty) d g []
      fun k => elem (tyWidth ty) (s.cx.vr a) (elem (tyWidth ty) (s.cx.vr b) k % (512 / tyWidth ty))
  | cvt (src dst rnd d a g) : src ≠ dst → vResult s (.xVcvt src dst rnd d a g) (max (tyWidth src) (tyWidth dst)) d g []
      fun k => convert src dst s.cx.fmode rnd (elem (max (tyWidth src) (tyWidth dst)) (s.cx.vr a) k % 2 ^ tyWidth src)
  | recip (ty d a g) : ty.isFp → vResult s (.xVrecip ty d a g) (tyWidth ty) d g [] fun k => approx 0 ty (elem (tyWidth ty) (s.cx.vr a) k)
  | rsqrt (ty d a g) : ty.isFp → vResult s (.xVrsqrt ty d a g) (tyWidth ty) d g [] fun k => approx 1 ty (elem (tyWidth ty) (s.cx.vr a) k)
  | exp2 (ty d a g) : ty.isFp → vResult s (.xVexp2 ty d a g) (tyWidth ty) d g [] fun k => approx 2 ty (elem (tyWidth ty) (s.cx.vr a) k)
  | log2 (ty d a g) : ty.isFp → vResult s (.xVlog2 ty d a g) (tyWidth ty) d g [] fun k => approx 3 ty (elem (tyWidth ty) (s.cx.vr a) k)

/-- The governing bit of element k of width w in a predicate (R56, R210). -/
abbrev governs (p : BitVec 16) (w k : Nat) : Prop :=
  if w = 64 then p.getLsbD (2 * k) = true else if w = 32 then p.getLsbD k = true else p.getLsbD (w * k / 32) = true

/-- A condition of vcmp on two elements (R215): of the signed or unsigned integers, or of the values, which are unordered when one is a NaN. -/
def vcondition (c : VCond) (ty : Ty) (A B : Nat) : Prop :=
  if ty.isInt then match c with
    | .eq => valueOf ty A = valueOf ty B
    | .ne => valueOf ty A ≠ valueOf ty B
    | .lt => valueOf ty A < valueOf ty B
    | .le => valueOf ty A ≤ valueOf ty B
    | .gt => valueOf ty B < valueOf ty A
    | .ge => valueOf ty B ≤ valueOf ty A
    | .un => False
  else match c with
    | .eq => (fval ty A).cmp (fval ty B) = some .eq
    | .ne => (fval ty A).cmp (fval ty B) ≠ some .eq
    | .lt => (fval ty A).cmp (fval ty B) = some .lt
    | .le => (fval ty A).cmp (fval ty B) = some .lt ∨ (fval ty A).cmp (fval ty B) = some .eq
    | .gt => (fval ty A).cmp (fval ty B) = some .gt
    | .ge => (fval ty A).cmp (fval ty B) = some .gt ∨ (fval ty A).cmp (fval ty B) = some .eq
    | .un => (fval ty A).cmp (fval ty B) = none

/-- The elements of a vector whose governing bit is 1, by number. -/
def enabledOf (p : BitVec 16) (w : Nat) : List Nat := (List.range (512 / w)).filter fun k => decide (governs p w k)
/-- The reduction of integers (R91, R220): the sum, the greatest or the least, from the identity of R91. -/
def redInt (op : RedOp) (ty : Ty) (p : BitVec 16) (v : Vec) : Int :=
  let l := (enabledOf p (tyWidth ty)).map fun k => valueOf ty (elem (tyWidth ty) v k)
  match op with
  | .max => l.foldl max (if tySigned ty then -2 ^ (tyWidth ty - 1) else 0)
  | .min => l.foldl min (if tySigned ty then 2 ^ (tyWidth ty - 1) - 1 else 2 ^ tyWidth ty - 1)
  | .sum | .argmax => l.sum

/-- A vector whose elements k of width w are those of f. -/
def hasElems (v : Vec) (w : Nat) (f : Nat → Nat) : Prop := ∀ k < 512 / w, elem w v k = f k

/-- Two states differ in nothing but the running context and how many free values were taken. -/
def onlyCxFree (s t : State) : Prop := onlyCx { s with free := t.free } t

/-! The Trellis automaton (R65, R225 to R229). -/

/-- A transition entry's fields (R227). -/
def trNext (e : Nat) : Nat := e % 256
def trAct (e : Nat) : Nat := e / 256 % 4
def trSym (e : Nat) : Nat := e / 1024 % 256
def trFinal (e : Nat) : Bool := e / 2 ^ 18 % 2 = 1
def trBad (x : Ctx) (e : Nat) : Prop := e / 2 ^ 19 ≠ 0 ∨ x.gNst < trNext e ∨ ((trAct e = 1 ∨ trAct e = 2) ∧ x.gNsym ≤ trSym e)

/-- The automaton of y is that of x in state n at depth d, with entry i of its stack v (R65). -/
def trellisAt (x y : Ctx) (n d : Nat) (i v : Nat) : Prop :=
  y.gValid = true ∧ y.gState = n ∧ y.gDepth = d ∧ (∀ j < 8, y.gStack j = if j = i then v else x.gStack j) ∧ y.gtt = x.gtt ∧ y.gmt = x.gmt ∧ y.gdim = x.gdim
/-- Every Trellis register is as before. -/
def trellisKept (x y : Ctx) : Prop := y.gst = x.gst ∧ y.gstk = x.gstk ∧ y.gtt = x.gtt ∧ y.gmt = x.gmt ∧ y.gdim = x.gdim

end Sys2Proof.Claims

/-- R56, R79, R210, R213, R214, R217, R218, R221: an element-wise vector instruction writes exactly the elements whose governing bit is 1, each
with its result, and X goes past it; nothing else changes but the count of free values. -/
def Obligations.VectorElementResult : Prop :=
  ∀ (s : State) (i : Instr) (w : Nat) (d : RegV) (g : GuardP) (rs : List RegG) (f : Nat → Nat), vResult s i w d g rs f → settled s.cx rs → noLoop s.cx .x →
    ∃ t v, runs i s t ∧ onlyCxFree s t ∧ t.cx = past (s.cx.setV d v) .x 1
      ∧ ∀ k < 512 / w, (governs (s.cx.guard g) w k → elem w v k = f k % 2 ^ w) ∧ (¬governs (s.cx.guard g) w k → elem w v k = elem w (s.cx.vr d) k)

/-- R216: vsel takes each element of vd from va where its governing bit in p[K] is 1, and from vb where it is 0; with K = 0 it copies va. It has no guard,
X goes past it, and nothing else changes. -/
def Obligations.VectorSelect : Prop :=
  ∀ (s : State) (ty : Ty) (d a b : RegV) (k : GuardP), noLoop s.cx .x → ∃ t v, runs (.xVsel ty d k a b) s t ∧ onlyCxFree s t ∧ t.cx = past (s.cx.setV d v) .x 1
    ∧ ∀ n < 512 / tyWidth ty,
      (governs (s.cx.guard k) (tyWidth ty) n → elem (tyWidth ty) v n = elem (tyWidth ty) (s.cx.vr a) n)
      ∧ (¬governs (s.cx.guard k) (tyWidth ty) n → elem (tyWidth ty) v n = elem (tyWidth ty) (s.cx.vr b) n)
      ∧ (k = 0 → elem (tyWidth ty) v n = elem (tyWidth ty) (s.cx.vr a) n)

/-- R56, R215: vcmp writes the predicate bits whose guard bit is 1, from every element of the lane, or from the 64-bit element the lane belongs to;
the other bits keep their values. -/
def Sys2Proof.Claims.VectorCompareResult : Prop :=
  ∀ (s : State) (cond : VCond) (ty : Ty) (pd : BitVec 5) (a b : RegV) (g : GuardP), noLoop s.cx .x →
    ∃ t p, runs (.xVcmp cond ty pd a b g) s t ∧ onlyCx s t ∧ t.cx = past (s.cx.setP (pd.setWidth 7) p) .x 1
      ∧ ∀ i < 16, let lane := if tyWidth ty = 64 then 2 * (i / 2) else i
        ((s.cx.guard g).getLsbD lane = true → (p.getLsbD i = true ↔ ∀ k < 512 / tyWidth ty, tyWidth ty * k / 32 = lane →
          vcondition cond ty (elem (tyWidth ty) (s.cx.vr a) k) (elem (tyWidth ty) (s.cx.vr b) k)))
        ∧ ((s.cx.guard g).getLsbD lane = false → p.getLsbD i = (s.cx.pr (pd.setWidth 7)).getLsbD i)

/-- R217: vext writes an element of va, sign-extended for the i types and zero-extended for all others, into g[d]. -/
def Sys2Proof.Claims.VectorExtractResult : Prop :=
  ∀ (s : State) (ty : Ty) (d : RegG) (a : RegV) (b : RegG) (g : GuardP), xReady s g [d, b] →
    runs (.xVext ty d a b g) s (xGoes s (s.cx.setG d
      (let x := BitVec.ofNat (tyWidth ty) (elem (tyWidth ty) (s.cx.vr a) ((s.cx.gr b).toNat % (512 / tyWidth ty)))
        if ty = .i8 ∨ ty = .i16 ∨ ty = .i32 ∨ ty = .i64 then x.signExtend 64 else x.setWidth 64)) 1)

/-- R91, R219: vqnt writes byte i of vd, for the enabled lanes i, with the exact product of the lanes rounded and clamped to int8: 0 for a NaN, 127 or
-128 for an infinite one; every other byte keeps its value. -/
def Sys2Proof.Claims.VectorQuantiseResult : Prop :=
  ∀ (s : State) (rnd : Rnd) (d a b : RegV) (g : GuardP), noLoop s.cx .x →
    ∃ t v, runs (.xVqnt rnd d a b g) s t ∧ onlyCx s t ∧ t.cx = past (s.cx.setV d v) .x 1 ∧ ∀ k < 64,
      let x := (fval .f32 (elem 32 (s.cx.vr a) k)).mul (fval .f32 (elem 32 (s.cx.vr b) k))
      (k < 16 → (s.cx.guard g).getLsbD k = true → elem 8 v k = quantise rnd x % 256 ∧ (x.isNan = true → elem 8 v k = 0)
        ∧ (x = .inf false → elem 8 v k = 127) ∧ (x = .inf true → elem 8 v k = 128))
      ∧ (16 ≤ k ∨ (s.cx.guard g).getLsbD k = false → elem 8 v k = elem 8 (s.cx.vr d) k)

/-- R91, R220: vred writes element 0 of vd whatever the guard holds, and every other element keeps its value. An integer reduction is the sum, the
greatest or the least of the enabled elements, modulo 2^w; the others follow the tree of R91. argmax writes the index of the greatest enabled
element into lane 0, the lowest among equal ones, of floating-point elements the first NaN, or all ones when none is enabled; and 0 into lane 1
when w = 64. -/
def Sys2Proof.Claims.VectorReduceResult : Prop :=
  ∀ (s : State) (ty : Ty) (d a : RegV) (g : GuardP), noLoop s.cx .x →
    let w := tyWidth ty
    let A := fun (k : Nat) => elem w (s.cx.vr a) k
    let en := enabledOf (s.cx.guard g) w
    (∀ op : RedOp, op ≠ .argmax → ∃ t v, runs (.xVred op ty d a g) s t ∧ onlyCxFree s t ∧ t.cx = past (s.cx.setV d v) .x 1
      ∧ (∀ k < 512 / w, k ≠ 0 → elem w v k = elem w (s.cx.vr d) k)
      ∧ (ty.isInt = true → elem w v 0 = wrapTo ty (redInt op ty (s.cx.guard g) (s.cx.vr a)))
      ∧ (ty.isInt = false → elem w v 0 = reduce op ty s.cx.fmode (s.cx.guard g) (s.cx.vr a) (Config.freeBits s.free) % 2 ^ w))
    ∧ ∃ t v, runs (.xVred .argmax ty d a g) s t ∧ onlyCxFree s t ∧ t.cx = past (s.cx.setV d v) .x 1
      ∧ (∀ k < 16, 2 ≤ k ∨ (k = 1 ∧ w ≠ 64) → elem 32 v k = elem 32 (s.cx.vr d) k) ∧ (w = 64 → elem 32 v 1 = 0)
      ∧ (en = [] → elem 32 v 0 = 0xFFFFFFFF) ∧ elem 32 v 0 = argmax (fun k j => elemAbove ty s.cx.fmode (A k) (A j)) en
      ∧ (ty.isInt = true → ∀ n ∈ en, (∀ j ∈ en, valueOf ty (A j) ≤ valueOf ty (A n)) → (∀ j ∈ en, j < n → valueOf ty (A j) < valueOf ty (A n)) →
          elem 32 v 0 = n)
      ∧ (ty.isInt = false → ∀ n ∈ en, ((fmtOf ty s.cx.fmode).decode (A n)).isNan = true →
          (∀ j ∈ en, j < n → ((fmtOf ty s.cx.fmode).decode (A j)).isNan = false) → elem 32 v 0 = n)

/-- R70, R222: vpop takes the entry at HEAD of a load stream that is not copy-landing, writes its enabled lanes, and its scale into g[a] when a is
not 0; a stream without entries stalls X. -/
def Sys2Proof.Claims.VectorPopTakesEntry : Prop :=
  ∀ (s : State) (d : RegV) (st : StreamNo) (a : RegG) (g : GuardP), settled s.cx [a] → (s.cx.stream st).isLoad = true → dKind (s.cx.stream st).desc ≠ 5 →
    (∀ e rest, (s.cx.stream st).entries = e :: rest → e.poison = false → e.scale ≠ .bad → noLoop s.cx .x →
      ∃ t v, runs (.xVpop d st a g) s t ∧ onlyCx s t
        ∧ t.cx = past (let x := (s.cx.setStream st { s.cx.stream st with entries := rest, head := (s.cx.stream st).head + 1 }).setV d v
            if a = 0 then x else x.setG a (match e.scale with | .word w => w.setWidth 64 | _ => 0)) .x 1
        ∧ hasElems v 32 fun k => if (s.cx.guard g).getLsbD k then elem 32 e.data k else elem 32 (s.cx.vr d) k)
    ∧ ((s.cx.stream st).entries = [] → runs (.xVpop d st a g) s s)

/-- R70, R222: vpush appends an entry of va with its enabled lanes at TAIL of a store stream, and stalls X while the stream is full; a stream of the
other direction is illegal. -/
def Sys2Proof.Claims.VectorPushAppendsEntry : Prop :=
  ∀ (s : State) (st : StreamNo) (a : RegV) (g : GuardP),
    ((s.cx.stream st).isStore = true → (s.cx.stream st).fill < dDepth (s.cx.stream st).desc → noLoop s.cx .x →
      runs (.xVpush st a g) s (xGoes s (s.cx.setStream st { s.cx.stream st with
        entries := (s.cx.stream st).entries ++ [⟨s.cx.vr a, s.cx.guard g, .absent, false⟩], tail := (s.cx.stream st).tail + 1 }) 1))
    ∧ ((s.cx.stream st).isStore = true → dDepth (s.cx.stream st).desc ≤ (s.cx.stream st).fill → runs (.xVpush st a g) s s)
    ∧ ((s.cx.stream st).isStore = false → runs (.xVpush st a g) s (s.raise s.cur.cell s.cur.ctx .x whyIllegal 0 0))

/-- R104, R223, R238: the cell-store forms at an aligned offset of the own store that lies in no mailbox region and no other channel's frame. vlds
writes the enabled lanes; lds takes 8 bytes; a misaligned offset raises Alignment (0x05), one beyond the store Segment-bound (0x12). -/
def Sys2Proof.Claims.CellStoreLoads : Prop :=
  ∀ (s : State) (a : RegG) (imm : BitVec 12) (g : GuardP),
    (∀ (d : RegV), settled s.cx [a] →
      let off := (s.cx.gr a + imm.signExtend 64 * 64).toNat
      (off % 64 = 0 → s.cl.storeOk s.cx.chan off 64 = true → s.cl.storePoison off 64 = false → s.cl.mailHit off 64 = false → noLoop s.cx .x →
        ∃ t v, runs (.xVlds d a imm g) s t ∧ t.cx = past (s.cx.setV d v) .x 1 ∧ t.mem = s.mem ∧ t.cl.store = s.cl.store
          ∧ hasElems v 32 fun k => if (s.cx.guard g).getLsbD k then leNat (s.cl.rawRead (off + 4 * k) 4) else elem 32 (s.cx.vr d) k)
      ∧ (off % 64 ≠ 0 → runs (.xVlds d a imm g) s (s.raise s.cur.cell s.cur.ctx .x ⟨5, 1, 0xFF, 0, 0, 0⟩ 0 0))
      ∧ (off % 64 = 0 → 0x60000 < off + 64 → runs (.xVlds d a imm g) s (s.raise s.cur.cell s.cur.ctx .x ⟨0x12, 1, 0xFF, 0, 0, 0⟩ 0 0)))
    ∧ ∀ (d : RegG), xReady s g [d, a] →
      let off := (s.cx.gr a + imm.signExtend 64 * 8).toNat
      off % 8 = 0 → s.cl.storeOk s.cx.chan off 8 = true → s.cl.storePoison off 8 = false → s.cl.mailHit off 8 = false →
        ∃ t, runs (.xLds d a imm g) s t ∧ t.cx = past (s.cx.setG d (BitVec.ofNat 64 (leNat (s.cl.rawRead off 8)))) .x 1 ∧ t.mem = s.mem
          ∧ t.cl.store = s.cl.store

/-- R104, R223, R238: sts writes the 8 bytes of g[d], and vsts the bytes of the enabled lanes, into the own cell store, and no other byte of any
store, nor of memory, changes. -/
def Sys2Proof.Claims.CellStoreStores : Prop :=
  ∀ (s : State) (a : RegG) (imm : BitVec 12) (g : GuardP),
    (∀ (d : RegV), settled s.cx [a] →
      let off := (s.cx.gr a + imm.signExtend 64 * 64).toNat
      off % 64 = 0 → s.cl.storeOk s.cx.chan off 64 = true → s.cl.mailHit off 64 = false → noLoop s.cx .x →
        ∃ t, runs (.xVsts d a imm g) s t ∧ t.cx = past s.cx .x 1 ∧ t.mem = s.mem
          ∧ (∀ n, mget 0 t.cl.store n = if off ≤ n ∧ n < off + 64 ∧ (s.cx.guard g).getLsbD ((n - off) / 4) = true
              then (vecBytes (s.cx.vr d)).getD (n - off) 0 else mget 0 s.cl.store n)
          ∧ ∀ c, c ≠ s.cur.cell → t.cell c = s.cell c)
    ∧ ∀ (d : RegG), xReady s g [d, a] →
      let off := (s.cx.gr a + imm.signExtend 64 * 8).toNat
      off % 8 = 0 → s.cl.storeOk s.cx.chan off 8 = true → s.cl.mailHit off 8 = false →
        ∃ t, runs (.xSts d a imm g) s t ∧ t.cx = past s.cx .x 1 ∧ t.mem = s.mem
          ∧ (∀ n, mget 0 t.cl.store n = if off ≤ n ∧ n < off + 8 then (leBytes 8 (s.cx.gr d).toNat).getD (n - off) 0 else mget 0 s.cl.store n)
          ∧ ∀ c, c ≠ s.cur.cell → t.cell c = s.cell c

/-- R225, R226: gload loads the registers of a valid block and answers 0, and of an invalid one clears VALID and answers 1; gstore writes the block
back. Each is one weak access of 64 bytes at g[a], with its checks. -/
def Sys2Proof.Claims.TrellisBlockMoves : Prop :=
  ∀ (s : State) (a : RegG) (g : GuardP),
    (∀ (d : RegG) (b : List Byte) (u : State), guardOn s.cx g → settled s.cx [d, a] → s.load .x 1 (s.cx.gr a) 64 .weak = .ok (b, u) →
      ∃ t : State, runs (.xGload d a g) s (t.retire .x 1) ∧ onlyCx u t
        ∧ (blockOk b = true → t.cx.gr d = 0 ∧ t.cx.gValid = true ∧ t.cx.gState = bnat b 22 1 ∧ t.cx.gDepth = bnat b 23 1
            ∧ t.cx.gstk = BitVec.ofNat 64 (bnat b 24 8) ∧ t.cx.gtt = BitVec.ofNat 64 (bnat b 0 8) ∧ t.cx.gmt = BitVec.ofNat 64 (bnat b 8 8)
            ∧ t.cx.gVocab = bnat b 16 3 ∧ t.cx.gNst = bnat b 20 1 ∧ t.cx.gNsym = bnat b 21 1)
        ∧ (blockOk b = false → t.cx.gr d = (if d = 0 then 0 else 1) ∧ t.cx.gValid = false ∧ t.cx.gst = u.cx.gst &&& ~~~4096 ∧ t.cx.gstk = u.cx.gstk
            ∧ t.cx.gtt = u.cx.gtt ∧ t.cx.gmt = u.cx.gmt ∧ t.cx.gdim = u.cx.gdim))
    ∧ ∀ u, guardOn s.cx g → settled s.cx [a] →
      s.store .x (s.cx.gr a) (leBytes 8 s.cx.gtt.toNat ++ leBytes 8 s.cx.gmt.toNat ++ leBytes 4 s.cx.gVocab ++ leBytes 1 s.cx.gNst ++ leBytes 1 s.cx.gNsym
        ++ leBytes 1 s.cx.gState ++ leBytes 1 s.cx.gDepth ++ leBytes 8 s.cx.gstk.toNat ++ List.replicate 32 0) .weak = .ok u →
      runs (.xGstore a g) s (u.retire .x 1)

/-- R226, R227: gstep on a valid automaton. A token at or above VOCAB is rejected with status 1 and nothing is read. Otherwise the entry for the
token, as one weak load gives it, moves the automaton or leaves it, and gives the status; a push at depth 8 raises Stack-overflow (0x25) and a pop
at depth 0 Stack-underflow (0x26). -/
def Sys2Proof.Claims.TrellisStep : Prop :=
  ∀ (s : State) (d a : RegG) (g : GuardP), guardOn s.cx g → settled s.cx [d, a] → s.cx.gValid = true →
    (s.cx.gVocab ≤ (s.cx.gr a).toNat → noLoop s.cx .x → runs (.xGstep d a g) s (xGoes s (s.cx.setG d 1) 1))
    ∧ ∀ b u, (s.cx.gr a).toNat < s.cx.gVocab →
      s.load .x 1 (s.cx.gtt + BitVec.ofNat 64 (4 * (s.cx.gState * s.cx.gVocab + (s.cx.gr a).toNat))) 4 .weak = .ok (b, u) →
      let e := leNat b
      let x := u.cx
      (¬trBad x e → trAct e = 1 → x.gDepth = 8 → runs (.xGstep d a g) s (u.raise u.cur.cell u.cur.ctx .x ⟨0x25, 6, 0xFF, 0, 0, 0⟩ 0 0))
      ∧ (¬trBad x e → trAct e = 2 → x.gDepth = 0 → runs (.xGstep d a g) s (u.raise u.cur.cell u.cur.ctx .x ⟨0x26, 6, 0xFF, 0, 0, 0⟩ 0 0))
      ∧ (¬(¬trBad x e ∧ (trAct e = 1 ∧ x.gDepth = 8 ∨ trAct e = 2 ∧ x.gDepth = 0)) → ∃ t : State, runs (.xGstep d a g) s (t.retire .x 1) ∧ onlyCx u t
        ∧ (trBad x e → trellisKept x t.cx ∧ t.cx.gr d = if d = 0 then 0 else 3)
        ∧ (¬trBad x e → trAct e = 3 ∨ (trAct e = 2 ∧ x.gStack (x.gDepth - 1) ≠ trSym e) → trellisKept x t.cx ∧ t.cx.gr d = if d = 0 then 0 else 1)
        ∧ (¬trBad x e → trAct e = 0 → x.gDepth ≤ 8 → trellisAt x t.cx (trNext e) x.gDepth 8 0
            ∧ t.cx.gr d = if d ≠ 0 ∧ trFinal e = true ∧ x.gDepth = 0 then 2 else 0)
        ∧ (¬trBad x e → trAct e = 1 → x.gDepth < 8 → trellisAt x t.cx (trNext e) (x.gDepth + 1) x.gDepth (trSym e) ∧ t.cx.gr d = 0)
        ∧ (¬trBad x e → trAct e = 2 → 0 < x.gDepth → x.gDepth ≤ 8 → x.gStack (x.gDepth - 1) = trSym e →
            trellisAt x t.cx (trNext e) (x.gDepth - 1) (x.gDepth - 1) 0 ∧ t.cx.gr d = if d ≠ 0 ∧ trFinal e = true ∧ x.gDepth = 1 then 2 else 0))

/-- R226, R228, R229: gmask, gcount and gforce on a valid automaton, and all four instructions on an invalid one, which are illegal. gmask rewrites the
512 logits at its offset, giving minus infinity to those its segment disallows, and counts the allowed ones; a segment beyond the row answers all
ones and changes nothing. gcount and gforce answer the number of allowed tokens of the row, and the only one. -/
def Sys2Proof.Claims.TrellisMasks : Prop :=
  ∀ (s : State) (d a b : RegG) (g : GuardP), guardOn s.cx g → settled s.cx [d, a, b] →
    (s.cx.gValid = false → ∀ i ∈ [Instr.xGstep d a g, .xGmask d a b g, .xGcount d g, .xGforce d g],
      runs i s (s.raise s.cur.cell s.cur.ctx .x whyIllegal 0 0))
    ∧ (s.cx.gValid = true →
      (∀ v u, (s.cx.gr a).toNat % 64 = 0 → s.cl.storeOk s.cx.chan (s.cx.gr a).toNat 2048 = true → (s.cx.gr b).toNat < s.cx.gVocab / 512 →
        s.segRead (s.cx.gr b).toNat = .ok (v, u) →
        ∃ t : State, runs (.xGmask d a b g) s (t.retire .x 1) ∧ t.mem = u.mem ∧ trellisKept u.cx t.cx
          ∧ t.cx.gr d = (if d = 0 then 0 else BitVec.ofNat 64 ((List.range 512).filter fun m => v.getLsbD m).length)
          ∧ ∀ n, mget 0 t.cl.store n = if (s.cx.gr a).toNat ≤ n ∧ n < (s.cx.gr a).toNat + 2048 ∧ v.getLsbD ((n - (s.cx.gr a).toNat) / 4) = false
              then (leBytes 4 0xFF800000).getD ((n - (s.cx.gr a).toNat) % 4) 0 else mget 0 u.cl.store n)
      ∧ ((s.cx.gr a).toNat % 64 = 0 → s.cl.storeOk s.cx.chan (s.cx.gr a).toNat 2048 = true → s.cx.gVocab / 512 ≤ (s.cx.gr b).toNat → noLoop s.cx .x →
        runs (.xGmask d a b g) s (xGoes s (s.cx.setG d (BitVec.allOnes 64)) 1))
      ∧ ∀ n first u, s.rowTokens = .ok (n, first, u) →
        runs (.xGcount d g) s ((u.setCx (u.cx.setG d (BitVec.ofNat 64 n))).retire .x 1)
          ∧ runs (.xGforce d g) s ((u.setCx (u.cx.setG d (if n = 1 then BitVec.ofNat 64 first else BitVec.allOnes 64))).retire .x 1))


/-! Loads, stores, atomics, fences, copies and timelines (R114 to R119, R128 to R140, R231 to R240, R247). -/

namespace Sys2Proof.Claims

/-- An access of n bytes at a virtual address passes its checks and reaches its home: it is aligned, its translation answers the place l and leaves
the state t, and the place lies in no staging slot (R123, R231). -/
abbrev homed (s : State) (need : Need) (va : Word) (n : Nat) (l : Loc) (t : State) : Prop :=
  va.toNat % n = 0 ∧ s.xlate s.cur.cell s.cx.kmode need va = .ok (l, t) ∧ l.pa % n = 0 ∧ t.stageAt t.pid l.pa = none

/-- n bytes from a physical address on, as the coherent memory holds them (R130). -/
def bytesAt (s : State) (pa n : Nat) : List Byte := (List.range n).map fun i => s.latest (pa + i)
/-- A number of n bytes as a load writes it (R234). -/
def loaded (n : Nat) (sx : Bool) (v : Nat) : Word := if sx then (BitVec.ofNat (8 * n) v).signExtend 64 else BitVec.ofNat 64 v
/-- The address of an ld or st (R177, R234). -/
def ldAddr (s : State) (a : RegG) (sz : BitVec 2) (imm : BitVec 7) : Word := s.cx.gr a + imm.signExtend 64 * BitVec.ofNat 64 (2 ^ sz.toNat)

/-- The coherent memory of t is that of s but for the bytes bs from pa on. -/
def wroteBytes (s t : State) (pa : Nat) (bs : List Byte) : Prop :=
  ∀ x, t.latest x = if pa ≤ x ∧ x < pa + bs.length then bs.getD (x - pa) 0 else s.latest x

/-- The byte that a store buffer holds for an address: that of its youngest entry that covers it (R108). -/
def buffered (sb : List SbLine) (x : Nat) : Option Byte :=
  sb.foldl (fun b e => if e.line = x / 64 ∧ e.mask.getLsbD (x % 64) = true then some ((vecBytes e.data).getD (x % 64) 0) else b) none
/-- Every buffered store of the running context of s is performed in u at its home, and no other byte of the coherent memory changed. -/
def allPerformed (s u : State) : Prop := u.cx.sb = [] ∧ ∀ x, u.latest x = (buffered s.cx.sb x).getD (s.latest x)

/-- A register of the destination takes a value, and X goes on behind one lane. -/
def tookValue (t u : State) (d : RegG) (v : Word) : Prop :=
  u.cx.gr d = (if d = 0 then 0 else v) ∧ (∀ r, r ≠ d → u.cx.gr r = t.cx.gr r) ∧ u.cx.ex.pc = t.cx.ex.pc + 1

/-- The new value of an atomic on old and b, both of w bits (R236). -/
def amoResult {w : Nat} (op : AmoOp) (old b : BitVec w) : BitVec w :=
  match op with
  | .add => old + b
  | .and => old &&& b
  | .or => old ||| b
  | .xor => old ^^^ b
  | .min => if old.toInt ≤ b.toInt then old else b
  | .max => if b.toInt ≤ old.toInt then old else b
  | .minu => if old.toNat ≤ b.toNat then old else b
  | .maxu => if b.toNat ≤ old.toNat then old else b
  | .swap => b

/-- The bytes of an amo or cas (R235). -/
def amoSize (dbl : Bool) : Nat := if dbl then 8 else 4

/-- The number that n bytes from pa on hold, as w bits. -/
def numAt (s : State) (pa n : Nat) : BitVec (8 * n) := BitVec.ofNat (8 * n) (leNat (bytesAt s pa n))

end Sys2Proof.Claims

/-- R107, R108, R130, R134, R231, R234: ld. A strong load that no buffered store of its context precedes, to its line or a strong one to its bank,
gives the bytes the coherent memory holds, extended, and an acquire moves X's horizon to now. A weak load gives the bytes of the line as the coherent memory holds it, or, when the L1 holds
copies that may serve it, possibly one of them (log 5), with the context's own buffered bytes over them. No byte of memory changes after the
translation. A load that meets a poisoned byte raises Poison (0x13), one in a pending staging slot stalls (R124). -/
def Sys2Proof.Claims.LoadGivesBytes : Prop :=
  ∀ (s t : State) (d a : RegG) (sz : BitVec 2) (sx : Bool) (ord : Sys2Proof.Ord) (sc : Scope) (imm : BitVec 7) (l : Loc), settled s.cx [d, a] →
    let i : Instr := .xLd d a sz sx ord sc imm
    let va := ldAddr s a sz imm
    let n := 2 ^ sz.toNat
    let line := l.pa / 64
    let own := sbOf t.cx.sb line
    let hits := t.cl.l1Hits t.cycle.toNat t.cx.ex.horizon line
    let first := ∀ e ∈ t.cx.sb, e.line ≠ line ∧ (e.ord = .weak ∨ e.bank ≠ homeBank l)
    (homed s .read va n l t → noLoop t.cx .x →
      (ord = .rlx ∨ ord = .acq → first → t.poisoned line = false →
        ∃ u, runs i s u ∧ tookValue t u d (loaded n sx (leNat (bytesAt t l.pa n))) ∧ (∀ x, u.memByte x = t.memByte x)
          ∧ (ord = .acq → u.cx.ex.horizon = t.now))
      ∧ (ord = .rlx ∨ ord = .acq → first → t.poisoned line = true →
        ∃ u : State, runs i s (u.raise u.cur.cell u.cur.ctx .x ⟨0x13, 1, 0xFF, va, 0, 0⟩ 0 0) ∧ ∀ x, u.memByte x = t.memByte x)
      ∧ (ord = .weak → t.poisoned line = false ∨ sbCovers own (l.pa % 64) n = true →
        ∃ (u : State) (b : List Byte), runs i s u ∧ (b = bytesAt t (64 * line) 64 ∨ ∃ h ∈ hits, b = vecBytes h.data)
          ∧ tookValue t u d (loaded n sx (leNat (bslice (overAll own b) (l.pa % 64) n))) ∧ (∀ x, u.memByte x = t.memByte x))
      ∧ (ord = .weak → t.poisoned line = true → sbCovers own (l.pa % 64) n = false → hits = [] →
        ∃ u : State, runs i s (u.raise u.cur.cell u.cur.ctx .x ⟨0x13, 1, 0xFF, va, 0, 0⟩ 0 0) ∧ ∀ x, u.memByte x = t.memByte x))
    ∧ ∀ src step, va.toNat % n = 0 → s.xlate s.cur.cell s.cx.kmode .read va = .ok (l, t) → t.stageAt t.pid l.pa = some (.pending src step) →
      ∃ u, runs i s u ∧ u.cx.ex.pc = t.cx.ex.pc ∧ u.cx.ex.waited = some l.pa ∧ ∀ r, u.cx.gr r = t.cx.gr r

/-- R74, R231: an ld or st whose address is not a multiple of its size raises Alignment (0x05) with the address, and changes nothing else. -/
def Sys2Proof.Claims.MisalignedAccessTraps : Prop :=
  ∀ (s : State) (d a : RegG) (sz : BitVec 2) (sx : Bool) (ord : Sys2Proof.Ord) (sc : Scope) (imm : BitVec 7), settled s.cx [d, a] →
    (ldAddr s a sz imm).toNat % 2 ^ sz.toNat ≠ 0 →
    runs (.xLd d a sz sx ord sc imm) s (s.raise s.cur.cell s.cur.ctx .x ⟨5, 1, 0xFF, ldAddr s a sz imm, 0, 0⟩ 0 0)
      ∧ runs (.xSt d a sz ord sc imm) s (s.raise s.cur.cell s.cur.ctx .x ⟨5, 2, 0xFF, ldAddr s a sz imm, 0, 0⟩ 0 0)

/-- R108, R131, R139, R232, R234: st. Every store retires into the store buffer of its context, and no byte of memory changes. A weak store whose line's
youngest entry holds weak stores merges its bytes into that entry; every other store takes an entry of its own behind the others, a release store
whatever is buffered; with all 16 entries taken X stalls. Bytes leave the buffer by STORE_BUFFER_DRAIN, fences and the like. -/
def Obligations.StoreTakesBytes : Prop :=
  ∀ (s t : State) (d a : RegG) (sz : BitVec 2) (ord : Sys2Proof.Ord) (sc : Scope) (imm : BitVec 7) (l : Loc), settled s.cx [d, a] →
    homed s .write (ldAddr s a sz imm) (2 ^ sz.toNat) l t → noLoop t.cx .x →
    let i : Instr := .xSt d a sz ord sc imm
    let off := l.pa % 64
    let n := 2 ^ sz.toNat
    let takes := fun (u : State) => (∀ r, u.cx.gr r = t.cx.gr r) ∧ (∀ x, u.latest x = t.latest x) ∧ u.cx.ex.pc = t.cx.ex.pc + 1
    let holds := fun (e : SbLine) => e.line = l.pa / 64 ∧ (∀ j < n, e.mask.getLsbD (off + j) = true)
      ∧ ∀ j < n, (vecBytes e.data).getD (off + j) 0 = (leBytes 8 (s.cx.gr d).toNat).getD j 0
    (∀ (p q : List SbLine) (e : SbLine), ord = .weak → t.cx.sb = p ++ e :: q → e.line = l.pa / 64 → e.ord = .weak → sbOf q (l.pa / 64) = [] →
      ∃ u f, runs i s u ∧ takes u ∧ u.cx.sb = p ++ f :: q ∧ f.ord = .weak ∧ holds f
        ∧ ∀ j < 64, j < off ∨ off + n ≤ j → f.mask.getLsbD j = e.mask.getLsbD j ∧ (vecBytes f.data).getD j 0 = (vecBytes e.data).getD j 0)
    ∧ ((ord ≠ .weak ∨ ∀ e, (sbOf t.cx.sb (l.pa / 64)).getLast? = some e → e.ord ≠ .weak) →
      (t.cx.sb.length < 16 → ∃ u f, runs i s u ∧ takes u ∧ u.cx.sb = t.cx.sb ++ [f] ∧ f.ord = ord ∧ f.bank = homeBank l ∧ holds f
        ∧ ∀ j < 64, j < off ∨ off + n ≤ j → f.mask.getLsbD j = false)
      ∧ (16 ≤ t.cx.sb.length → runs i s s))

/-- R130, R131, R141, R235, R236: amo and cas at their home return the old value, sign-extended, and write the new one; a cas whose comparison fails writes
nothing. No other byte of the coherent memory changes. v is the state in which the home performs it: the context's stores of that line and its
strong ones to that bank are performed before (R142), for a release all of them; an acquire moves X's horizon to now. -/
def Obligations.AtomicReturnsOld : Prop :=
  ∀ (s t : State) (d a b : RegG) (dbl : Bool) (ord : Sys2Proof.Ord) (sc : Scope) (l : Loc), settled s.cx [d, a, b] →
    homed s .readWrite (s.cx.gr a) (amoSize dbl) l t → noLoop t.cx .x →
    let w := t.allocIn (homeBank l) t.pid
    let v := if ordRel ord then w.drainCtx w.cur.cell w.cur.ctx else w.drainBank w.cur.cell w.cur.ctx (l.pa / 64) (homeBank l)
    v.poisoned (l.pa / 64) = false → t.slotPages (l.pa / 64) = [] → (t.part t.pid).fbhdr = 0 ∨ (t.cx.sb = [] ∧ t.heldOf t.pid = []) →
    (ordAcq ord = true → ∀ op, ∃ u, runs (.xAmo d a b dbl ord sc op) s u ∧ u.cx.ex.horizon = t.now)
    ∧ (∀ op, ∃ u, runs (.xAmo d a b dbl ord sc op) s u ∧ tookValue v u d ((numAt v l.pa (amoSize dbl)).signExtend 64)
      ∧ wroteBytes v u l.pa (leBytes (amoSize dbl) (amoResult op (numAt v l.pa (amoSize dbl)) ((s.cx.gr b).setWidth _)).toNat))
    ∧ ∃ u, runs (.xCas d a b dbl ord sc) s u ∧ tookValue v u d ((numAt v l.pa (amoSize dbl)).signExtend 64)
      ∧ (numAt v l.pa (amoSize dbl) = (s.cx.gr d).setWidth _ → wroteBytes v u l.pa (leBytes (amoSize dbl) (s.cx.gr b).toNat))
      ∧ (numAt v l.pa (amoSize dbl) ≠ (s.cx.gr d).setWidth _ → ∀ x, u.latest x = v.latest x)

/-- R131, R135, R140, R237: fence of X. rel, st, stream and full perform every buffered store of the context at its home, and no other byte of memory
changes; acq and full move X's acquire horizon to now; ctx changes nothing but X's program counter; stream waits while a store stream holds entries or writes. -/
def Sys2Proof.Claims.FenceOrders : Prop :=
  ∀ (s : State) (sc : Scope) (g : GuardP), guardOn s.cx g → (∀ e ∈ s.cx.sb, s.slotPages e.line = []) →
    (∃ u : State, runs (.xFence .rel sc g) s (u.retire .x 1) ∧ allPerformed s u)
    ∧ (∃ u : State, runs (.xFence .st sc g) s (u.retire .x 1) ∧ allPerformed s u)
    ∧ (∃ u : State, runs (.xFence .full sc g) s (u.retire .x 1) ∧ allPerformed s u ∧ u.cx.ex.horizon = s.now)
    ∧ runs (.xFence .acq sc g) s ((s.setCx { s.cx with ex := { s.cx.ex with horizon := s.now } }).retire .x 1)
    ∧ runs (.xFence .ctx sc g) s (s.retire .x 1)
    ∧ (s.cx.pushedFly = false → ∃ u : State, runs (.xFence .stream sc g) s (u.retire .x 1) ∧ allPerformed s u)
    ∧ (s.cx.pushedFly = true → runs (.xFence .stream sc g) s s)

/-- R140, R247: a.fence waits, changing nothing, for the groups that A has issued: acq for loads, st for stores and what closing streams still hold,
the others for both; then it does as fence does. -/
def Sys2Proof.Claims.AFenceWaitsForGroups : Prop :=
  ∀ (s : State) (sc : Scope) (q : GuardQ), s.cx.qr q = true → (∀ e ∈ s.cx.sb, s.slotPages e.line = []) →
    (∀ k, (k ≠ .st ∧ s.cx.loadsFly = true) ∨ (k ≠ .acq ∧ s.cx.storesFly = true) → runs (.aFence k sc q) s s)
    ∧ (s.cx.loadsFly = false → runs (.aFence .acq sc q) s ((s.setCx { s.cx with ea := { s.cx.ea with horizon := s.now } }).retire .a 1))
    ∧ (s.cx.storesFly = false → ∃ u : State, runs (.aFence .st sc q) s (u.retire .a 1) ∧ allPerformed s u)
    ∧ (s.cx.loadsFly = false → s.cx.storesFly = false →
      (∃ u : State, runs (.aFence .rel sc q) s (u.retire .a 1) ∧ allPerformed s u)
      ∧ (∃ u : State, runs (.aFence .full sc q) s (u.retire .a 1) ∧ allPerformed s u ∧ u.cx.ea.horizon = s.now)
      ∧ (∃ u : State, runs (.aFence .stream sc q) s (u.retire .a 1) ∧ allPerformed s u)
      ∧ runs (.aFence .ctx sc q) s (s.retire .a 1))

/-- R61, R240: tlwait goes on, as an acquire, once DONE has reached its ticket, and stalls before. -/
def Sys2Proof.Claims.TimelineWaitAcquires : Prop :=
  ∀ (s : State) (k : TimelineNo) (a : RegG) (g : GuardP), xReady s g [a] →
    ((s.cx.gr a).toNat ≤ (s.cx.doneOf k.toNat).toNat → runs (.xTlwait k a g) s (xGoes s { s.cx with ex := { s.cx.ex with horizon := s.now } } 1))
    ∧ ((s.cx.doneOf k.toNat).toNat < (s.cx.gr a).toNat → runs (.xTlwait k a g) s s)

/-- R61, R114 to R117, R239, R247: cpy and a.cpy. A copy that is issued takes the next ticket of its timeline, which the destination register holds, and
adds one copy, whose whole sequence is still to be read; an invalid block is illegal; with 8 copies outstanding the engine stalls. -/
def Sys2Proof.Claims.CopyIssueTakesTicket : Prop :=
  ∀ (s : State),
    (∀ (d a : RegG) (g : GuardP), guardOn s.cx g → settled s.cx [d, a] →
      (∀ k u, s.copyIssue .x (s.cx.gr a) = .ok (k, u) → runs (.xCpy d a g) s ((u.setCx (u.cx.setG d k)).retire .x 1))
      ∧ (s.copyIssue .x (s.cx.gr a) = .error .stall → runs (.xCpy d a g) s s))
    ∧ (∀ (d b : RegB) (q : GuardQ), s.cx.qr q = true →
      (∀ k u, s.cx.aBusy = false → s.cx.loadsFly = false → s.copyIssue .a (s.cx.br b) = .ok (k, u) →
        runs (.aCpy d b q) s ((u.setCx (u.cx.setB d k)).retire .a 1))
      ∧ (s.cx.aBusy = true ∨ s.cx.loadsFly = true → runs (.aCpy d b q) s s))
    ∧ ∀ (e : Eng) (va : Word) (b : List Byte) (t : State), s.load e 1 va 64 .weak = .ok (b, t) →
      (cpInvalid (t.part t.pid) b = true → s.copyIssue e va = .error (.trap whyIllegal t))
      ∧ (cpInvalid (t.part t.pid) b = false → 8 ≤ t.copiesOf t.cur.cell t.cur.ctx → s.copyIssue e va = .error .stall)
      ∧ ∀ k u, s.copyIssue e va = .ok (k, u) → k = t.cx.issueOf (cpTl b) + 1 ∧ u.cx.issueOf (cpTl b) = k
          ∧ ∃ c, u.copies = t.copies ++ [c] ∧ c.ticket = k ∧ c.tl = cpTl b ∧ c.todo = [(0, cpLen b * cpRows b)] ∧ c.block = vecOf b

/-- R246, R247: a.ldb loads 8 bytes through the table path into its b register, and waits while A is busy with a group. -/
def Obligations.TableLoadGivesWord : Prop :=
  ∀ (s : State) (d a : RegB) (imm : BitVec 12) (q : GuardQ), s.cx.qr q = true →
    (∀ b u, s.cx.aBusy = false → s.load .a 1 (s.cx.br a + imm.signExtend 64 * 8) 8 .weak = .ok (b, u) →
      runs (.aLdb d a imm q) s ((u.setCx (u.cx.setB d (BitVec.ofNat 64 (leNat b)))).retire .a 1))
    ∧ (s.cx.aBusy = true → runs (.aLdb d a imm q) s s)


/-! Parcels, the handler table, tasks, counters, the worklist, futures, barriers and the matrix claim (R11 to R47, R270 to R293). -/

namespace Sys2Proof.Claims

/-- The header of a parcel (R11): from the top, SEQ, CMPL, TRAP, F8M, PART, SRC, TYPE, CHAN and DEST. -/
def header (seq : BitVec 8) (cmpl trap f8 : Bool) (part : BitVec 5) (src : BitVec 16) (typ chan : BitVec 8) (dest : BitVec 16) : Word :=
  seq ++ BitVec.ofBool cmpl ++ BitVec.ofBool trap ++ BitVec.ofBool f8 ++ part ++ src ++ typ ++ chan ++ dest

/-- The header of a parcel that the running context sends from the header bits [31:0] of h (R11, R272). -/
def ownHeader (s : State) (seq : BitVec 8) (h : Word) : Word :=
  header seq false false s.cx.fmode (BitVec.ofNat 5 s.pid) s.cl.lcell (h.extractLsb' 24 8) (h.extractLsb' 16 8) (h.setWidth 16)
/-- The sequence count towards the destination and channel that h names (R11). -/
def seqTo (s : State) (h : Word) : BitVec 8 := s.cx.nextSeq (h.setWidth 16).toNat (h.extractLsb' 16 8).toNat
/-- Why a sender refuses h (R12, R13, R272): a TYPE of the device (status 2), or a DEST that is no cell (status 4). -/
def refusal (s : State) (h : Word) : Option Nat :=
  if 0xF0 ≤ (h.extractLsb' 24 8).toNat then some 2 else if (s.part s.pid).destOk (h.setWidth 16).toNat then none else some 4
/-- The trap code of a refusal (R13). -/
def refusalTrap (k : Nat) : Nat := if k = 2 then 0x23 else 0x24

/-- One parcel with header hd and the payload bytes of v leaves r, for the running context, and its outbound slot and its count towards h are taken. -/
def parcelLeaves (r t : State) (hd : Word) (v : Vec) (h : Word) (nb : Bool) : Prop :=
  ∃ f i, t.flights = r.flights ++ [f] ∧ f.id = r.serial ∧ f.leg = .way ∧ f.from_ = (if nb then .nb i else .ctx i) ∧ i.cell = r.cur.cell ∧ i.ctx = r.cur.ctx
    ∧ i.xpc = r.cx.ex.pc ∧ f.parcel.setWidth 64 = hd ∧ (vecBytes f.parcel).drop 8 = (vecBytes v).drop 8
    ∧ t.cx.out = r.cx.out ++ [f.id] ∧ seqTo t h = seqTo r h + 1

/-- An instruction of X answers n in g[d] and retires. -/
def answers (u : State) (d : RegG) (n : Word) : State := (u.setCx (u.cx.setG d n)).retire .x 1

/-- An operation reaches its object of n bytes at g[a]: l is its place, o its bytes, u the state with earlier stores performed and the horizon
moved (R130, R143, R231, R342); the place is aligned, as the pages of R376 make it, and lies in no staging slot. -/
def reaches (s : State) (a : RegG) (n : Nat) (l : Loc) (o : List Byte) (u : State) : Prop :=
  s.object .x (s.cx.gr a) n = .ok (l, o, u) ∧ l.pa % n = 0 ∧ u.slotPages (l.pa / 64) = []

/-- From u to t the coherent memory keeps every byte outside n bytes at pa, which begin with bs. -/
def wroteIn (u t : State) (pa n : Nat) (bs : List Byte) : Prop :=
  (∀ x, x < pa ∨ pa + n ≤ x → t.latest x = u.latest x) ∧ ∀ i < bs.length, t.latest (pa + i) = bs.getD i 0

/-- The parcels in flight of t are those of u and then ps. -/
def adds (u t : State) (ps : List Vec) : Prop := t.flights.map (fun f => f.parcel) = u.flights.map (fun f => f.parcel) ++ ps

/-- The parcels parked on the counter at l (R34). -/
def parkedOn (u : State) (l : Loc) : List Parked := (mget [] u.parks (homeDie l)).filter fun q => q.part == u.pid && q.ctr == l.pa
def parkedElse (u : State) (l : Loc) : List Parked := (mget [] u.parks (homeDie l)).filter fun q => !(q.part == u.pid && q.ctr == l.pa)

/-- A counter that reaches 0 (R34): its COUNT and PARKED are 0 and every parked parcel leaves, in park order. -/
def released (u t : State) (l : Loc) : Prop :=
  wroteIn u t l.pa 16 (leBytes 4 0 ++ leBytes 4 0) ∧ adds u t ((parkedOn u l).map fun q => q.parcel) ∧ mget [] t.parks (homeDie l) = parkedElse u l

/-- A continuation parcel (R45): sent by no cell, for the address a, with word or phase values b and w and a count of tokens. -/
def contParcel (pid : Nat) (c : Cont) (a : Word) (b w tokens : Nat) : Vec :=
  mkParcel (mkHdr 0 false false c.f8m pid 0xFFFF c.tag.toNat c.chan.toNat c.dest.toNat) (leBytes 8 a.toNat ++ leBytes 8 b ++ leBytes 8 w ++ leBytes 4 tokens)

/-- What releasing a waiter sends (R45). -/
def waiterSends (pid : Nat) (va : Word) (w0 w1 tokens : Nat) : Waiter → List Vec
  | .cont c => [contParcel pid c va w0 w1 tokens]
  | .none => []
  | .hart _ => []
/-- From u to t the waiters ws of the future of a slot are released: the continuations leave in their order, and a hart that still waits on that slot
has its status (R45, R304). -/
def releases (u t : State) (die slot pid : Nat) (va : Word) (w0 w1 tokens : Nat) (ws : List Waiter) : Prop :=
  adds u t (ws.flatMap (waiterSends pid va w0 w1 tokens))
    ∧ ∀ c, Waiter.hart c ∈ ws → (u.hart c).waitsOn die slot = true → (t.hart c).woken = some (if w0 % 4 = 3 then 2 else 1)

/-- The header that a continuation of the running context would have: sent by no cell, with no SEQ of its own (R45). -/
def contHeader (s : State) (desc : Word) : Word :=
  header 0 false false s.cx.fmode (BitVec.ofNat 5 s.pid) 0xFFFF (desc.extractLsb' 24 8) (desc.extractLsb' 16 8) (desc.setWidth 16)
/-- An X instruction stops on a continuation descriptor that fails its checks: the detail is the header the continuation would have (R288). -/
def waitRefused (t : State) (desc : Word) (k : Nat) : State :=
  t.raise t.cur.cell t.cur.ctx .x ⟨refusalTrap k, 6, 0xFF, 0, contHeader t desc, 0⟩ 0 0

end Sys2Proof.Claims

/-- R11 to R15, R270 to R272: send and sendnb. A TYPE of the device is refused, then a DEST that is no cell: send traps (0x23, 0x24) with the header it
would have sent, sendnb answers the status. With a slot free the parcel leaves, behind the context's stores; with all slots taken send stalls and
sendnb answers 1. -/
def Obligations.SendTakesSlot : Prop :=
  ∀ (s : State) (b a : RegG) (v : RegV) (g : GuardP), guardOn s.cx g → settled s.cx [b, a] →
    let h := s.cx.gr a
    (∀ k, refusal s h = some k →
      runs (.xSend v a g) s (s.raise s.cur.cell s.cur.ctx .x ⟨refusalTrap k, 6, 0xFF, 0, ownHeader s (seqTo s h) h, 0⟩ 0 0)
        ∧ runs (.xSendnb b v a g) s (answers s b (BitVec.ofNat 64 k)))
    ∧ (refusal s h = none → 8 ≤ s.cx.out.length → runs (.xSend v a g) s s ∧ runs (.xSendnb b v a g) s (answers s b 1))
    ∧ (refusal s h = none → s.cx.out.length < 8 →
      (∃ t : State, runs (.xSend v a g) s (t.retire .x 1) ∧ parcelLeaves s.rel t (ownHeader s (seqTo s h) h) (s.cx.vr v) h false ∧ t.cx.pend = s.rel.cx.pend)
        ∧ ∃ t : State, runs (.xSendnb b v a g) s (t.retire .x 1) ∧ parcelLeaves s.rel t (ownHeader s (seqTo s h) h) (s.cx.vr v) h true
            ∧ (b ≠ 0 → (s.rel.serial, b) ∈ t.cx.pend))

/-- R18 to R20, R274 to R276, R338: hset, hmask, hunmask and abind. -/
def Obligations.HandlerTable : Prop :=
  ∀ (s : State) (d a b : RegG) (g : GuardP), guardOn s.cx g → settled s.cx [d, a, b] →
    let c := (s.cx.gr b).toNat
    let ch := s.cl.chan c
    let guardedChan := s.cx.kmode = false ∧ s.cl.kchan.getLsbD c = true
    (63 < c → noLoop s.cx .x → runs (.xHset d a b g) s (xGoes s (s.cx.setG d 3) 1) ∧ runs (.xAbind d a b g) s (xGoes s (s.cx.setG d 3) 1))
    ∧ (c ≤ 63 → guardedChan → ∀ i ∈ [Instr.xHset d a b g, .xAbind d a b g], runs i s (s.raise s.cur.cell s.cur.ctx .x ⟨4, 6, 0xFF, 0, 0, 0⟩ 0 0))
    ∧ (c ≤ 63 → ¬guardedChan →
      (∀ bs u, s.storeLoad (s.cx.gr a) 32 32 = .ok (bs, u) →
        let img := BitVec.ofNat 256 (leNat bs)
        ((u.cl.chan c).st = .runnable ∨ (u.cl.chan c).st = .running → runs (.xHset d a b g) s (answers u d 1))
        ∧ (¬((u.cl.chan c).st = .runnable ∨ (u.cl.chan c).st = .running) → entBnd img = true → entInvalid img = true ∨ entAct img = true →
            runs (.xHset d a b g) s (answers u d 2))
        ∧ (¬((u.cl.chan c).st = .runnable ∨ (u.cl.chan c).st = .running) → ¬(entBnd img = true ∧ (entInvalid img = true ∨ entAct img = true)) →
            ∃ t : State, runs (.xHset d a b g) s (t.retire .x 1) ∧ t.cx = u.cx.setG d 0
              ∧ (∀ k, k ≠ c → (t.cl.chan k).entry = (u.cl.chan k).entry ∧ (t.cl.chan k).st = (u.cl.chan k).st)
              ∧ (t.cl.chan c).entry = img ∧ (t.cl.chan c).skip = 0 ∧ (t.cl.chan c).boost = 0
              ∧ (t.cl.chan c).st = (if img.getLsbD 0 then .idle else .unbound)
              ∧ (entBound img = true → (u.cl.setChan c ((u.cl.chan c).bind img)).mailClash c = false →
                  (t.cl.chan c).mailbox = (u.cl.chan c).mailbox ∧ (∀ k, k ≠ c → t.cl.chan k = u.cl.chan k) ∧ t.cl.store = u.cl.store)))
      ∧ (entBound ch.entry = false → noLoop s.cx .x → runs (.xAbind d a b g) s (xGoes s (s.cx.setG d 3) 1))
      ∧ (entBound ch.entry = true → ch.st = .running → noLoop s.cx .x → runs (.xAbind d a b g) s (xGoes s (s.cx.setG d 1) 1))
      ∧ (entBound ch.entry = true → ch.st ≠ .running →
        let afb := (s.cx.gr a).setWidth 13
        let afs := (s.cx.gr a).extractLsb' 16 10
        let n := 64 * afb.toNat + 64 * (afs.toNat + 1)
        (afb ≠ 0 → 0x60000 < n ∨ 0x5FEE0 < n ∨ s.cl.mailHit (64 * afb.toNat) (64 * (afs.toNat + 1)) = true → noLoop s.cx .x →
          runs (.xAbind d a b g) s (xGoes s (s.cx.setG d 2) 1))
        ∧ (afb = 0 ∨ ¬(0x60000 < n ∨ 0x5FEE0 < n ∨ s.cl.mailHit (64 * afb.toNat) (64 * (afs.toNat + 1)) = true) →
          ∃ t : State, runs (.xAbind d a b g) s (t.retire .x 1) ∧ t.cx = s.cx.setG d 0 ∧ (∀ k, k ≠ c → t.cl.chan k = s.cl.chan k)
            ∧ entAct (t.cl.chan c).entry = !decide (afb = 0) ∧ entAfb (t.cl.chan c).entry = afb.toNat
            ∧ (afb ≠ 0 → entAfs (t.cl.chan c).entry = afs.toNat) ∧ entType (t.cl.chan c).entry = entType ch.entry
            ∧ entEntry (t.cl.chan c).entry = entEntry ch.entry ∧ (t.cl.chan c).st = ch.st)))
    ∧ (∃ t : State, runs (.xHmask a g) s (t.retire .x 1) ∧ t.cx = s.cx ∧ ∀ k < 64, t.cl.chan k =
        { s.cl.chan k with entry := if (s.cx.gr a).getLsbD k = true ∧ (s.cx.kmode = true ∨ s.cl.kchan.getLsbD k = false)
            then (s.cl.chan k).entry ||| 2 else (s.cl.chan k).entry })
    ∧ ∃ t : State, runs (.xHunmask a g) s (t.retire .x 1) ∧ t.cx = s.cx ∧ ∀ k < 64, t.cl.chan k =
        { s.cl.chan k with entry := if (s.cx.gr a).getLsbD k = true ∧ (s.cx.kmode = true ∨ s.cl.kchan.getLsbD k = false)
            then (s.cl.chan k).entry &&& ~~~2 else (s.cl.chan k).entry }

/-- R29, R30, R32, R33, R277 to R280: tspawn sends a task parcel on its walk; tqenq and tqdeq on the local queue (g[a] = 0) and on a named one. -/
def Obligations.TaskQueues : Prop :=
  ∀ (s : State) (b a : RegG) (v : RegV) (g : GuardP), guardOn s.cx g → settled s.cx [b, a] →
    (let w := (s.cx.gr a).toNat
      let hx := nbits 0 8 w
      let hy := nbits 8 8 w
      let hint := hy * (s.part s.pid).gridW + hx
      nbits 32 8 w < 0xF0 → hx < (s.part s.pid).gridW → hy < (s.part s.pid).gridH → (s.part s.pid).kindOf hint = 1 →
        (8 ≤ s.cx.out.length → runs (.xTspawn v a g) s s)
        ∧ (s.cx.out.length < 8 → ∃ (t : State) (f : TaskFlight), runs (.xTspawn v a g) s (t.retire .x 1) ∧ t.tasks = s.rel.tasks ++ [f]
          ∧ f.id = s.rel.serial ∧ t.cx.out = s.rel.cx.out ++ [f.id] ∧ f.at_ = s.rel.cl.lcell.toNat ∧ f.hint = hint ∧ f.rad = nbits 16 4 w
          ∧ f.any = decide (nbits 23 1 w = 1) ∧ f.steps = 0 ∧ (vecBytes f.parcel).drop 8 = (vecBytes (s.rel.cx.vr v)).drop 8
          ∧ hType (f.parcel.setWidth 64) = nbits 32 8 w ∧ hChan (f.parcel.setWidth 64) = nbits 24 6 w))
    ∧ (s.cx.gr a = 0 →
      (0xF0 ≤ hType (parcelHdr (s.ownParcel (s.cx.vr v))) ∨ s.cl.accepts (s.ownParcel (s.cx.vr v)) = false → runs (.xTqenq b v a g) s (answers s b 2))
      ∧ (hType (parcelHdr (s.ownParcel (s.cx.vr v))) < 0xF0 → s.cl.accepts (s.ownParcel (s.cx.vr v)) = true →
        (64 ≤ s.cl.taskq.length → runs (.xTqenq b v a g) s (answers s b 1))
        ∧ (s.cl.taskq.length < 64 → ∃ t : State, runs (.xTqenq b v a g) s (t.retire .x 1) ∧ t.cx = s.rel.cx.setG b 0
          ∧ t.cl.taskq = s.rel.cl.taskq ++ [s.ownParcel (s.cx.vr v)]))
      ∧ (∀ p rest, s.cl.taskq = p :: rest → s.modeClash p = false → ∃ t : State, runs (.xTqdeq b v a g) s (t.retire .x 1) ∧ t.cl.taskq = rest
          ∧ t.cx.vr v = withDest p s.cl.lcell.toNat ∧ t.cx.gr b = 0 ∧ (∀ r, r ≠ b → t.cx.gr r = s.cx.gr r) ∧ t.mem = s.mem)
      ∧ (∀ p rest, s.cl.taskq = p :: rest → s.modeClash p = true →
          runs (.xTqdeq b v a g) s (s.raise s.cur.cell s.cur.ctx .x ⟨0x21, 6, 0xFF, 0, 0, 0⟩ 0 0))
      ∧ (s.localTask = none → runs (.xTqdeq b v a g) s (answers s b 1)))
    ∧ (s.cx.gr a ≠ 0 → ∀ l q u, reaches s a 64 l q u →
      (0xF0 ≤ hType (parcelHdr (s.ownParcel (s.cx.vr v))) ∨ tqInvalid q = true → runs (.xTqenq b v a g) s (answers u b 2))
      ∧ (hType (parcelHdr (s.ownParcel (s.cx.vr v))) < 0xF0 → tqInvalid q = false →
        (2 ^ bnat q 8 1 ≤ tqCount q → runs (.xTqenq b v a g) s (answers u b 1))
        ∧ (tqCount q < 2 ^ bnat q 8 1 → ∀ e w, u.check .x 3 .readWrite (tqEntry q (bnat q 20 4)) 64 = .ok (e, w) → e.pa % 64 = 0 → e.pa / 64 ≠ l.pa / 64 →
          w.slotPages (e.pa / 64) = [] → w.slotPages (l.pa / 64) = [] →
          ∃ t : State, runs (.xTqenq b v a g) s (t.retire .x 1) ∧ t.cx = w.cx.setG b 0
            ∧ ∀ x, t.latest x = if e.pa ≤ x ∧ x < e.pa + 64 then (vecBytes (s.ownParcel (s.cx.vr v))).getD (x - e.pa) 0
                else if l.pa + 20 ≤ x ∧ x < l.pa + 24 then (leBytes 4 (bnat q 20 4 + 1)).getD (x - (l.pa + 20)) 0 else w.latest x))
      ∧ (tqInvalid q = true → runs (.xTqdeq b v a g) s (answers u b 2))
      ∧ (tqInvalid q = false → tqCount q = 0 → runs (.xTqdeq b v a g) s (answers u b 1))
      ∧ (tqInvalid q = false → tqCount q ≠ 0 → ∀ e w, u.check .x 3 .readWrite (tqEntry q (bnat q 16 4)) 64 = .ok (e, w) → e.pa % 64 = 0 →
          w.poisoned (e.pa / 64) = false → w.slotPages (l.pa / 64) = [] → w.modeClash (vecOf (bytesAt w e.pa 64)) = false →
          ∃ t : State, runs (.xTqdeq b v a g) s (t.retire .x 1) ∧ t.cx = (w.cx.setV v (vecOf (bytesAt w e.pa 64))).setG b 0
            ∧ wroteBytes w t (l.pa + 16) (leBytes 4 (bnat q 16 4 + 1))))

/-- R34, R130, R143, R281, R342: an operation on an object in memory reaches its 16 bytes, as the coherent memory holds them. dcinit and dcdec answer the
old COUNT and write the new one; at 0 every parked parcel leaves, in park order; a dcdec of 0 changes nothing. dcpark on 0 sends its parcel and answers 1,
stalls while the pool is full, and parks the parcel otherwise. -/
def Obligations.CounterOperations : Prop :=
  (∀ (s t : State) (va : Word) (l : Loc), homed s .readWrite va 16 l t → t.cx.sb = [] → t.poisoned (l.pa / 64) = false →
    ∃ u, s.object .x va 16 = .ok (l, bytesAt t l.pa 16, u) ∧ (∀ x, u.latest x = t.latest x) ∧ (∀ r, u.cx.gr r = s.cx.gr r) ∧ u.cx.ex.horizon = t.now)
  ∧ ∀ (s : State) (d a b : RegG) (v : RegV) (g : GuardP) (l : Loc) (o : List Byte) (u : State), guardOn s.cx g → settled s.cx [d, a, b] → reaches s a 16 l o u →
    let c := bnat o 0 4
    let p := bnat o 4 4
    let n := (s.cx.gr b).setWidth 32
    (n ≠ 0 → ∃ t : State, runs (.xDcinit d a b g) s (t.retire .x 1) ∧ t.cx = u.cx.setG d (BitVec.ofNat 64 c)
      ∧ wroteBytes u t l.pa (leBytes 4 n.toNat ++ leBytes 4 p) ∧ t.flights = u.flights)
    ∧ (n = 0 → ∃ t : State, runs (.xDcinit d a b g) s (t.retire .x 1) ∧ t.cx = u.cx.setG d (BitVec.ofNat 64 c) ∧ released u t l)
    ∧ (c = 0 → runs (.xDcdec d a g) s (answers u d 0))
    ∧ (c = 1 → ∃ t : State, runs (.xDcdec d a g) s (t.retire .x 1) ∧ t.cx = u.cx.setG d 1 ∧ released u t l)
    ∧ (2 ≤ c → ∃ t : State, runs (.xDcdec d a g) s (t.retire .x 1) ∧ t.cx = u.cx.setG d (BitVec.ofNat 64 c)
      ∧ wroteBytes u t l.pa (leBytes 4 (c - 1) ++ leBytes 4 p) ∧ t.flights = u.flights)
    ∧ (refusal s ((s.cx.vr v).setWidth 64) = none →
      (c = 0 → ∃ t : State, runs (.xDcpark b v a g) s (t.retire .x 1) ∧ t.cx = u.cx.setG b 1 ∧ adds u t [s.ownParcel (s.cx.vr v)])
      ∧ (c ≠ 0 → 4096 ≤ (mget [] u.parks (homeDie l)).length → runs (.xDcpark b v a g) s s)
      ∧ (c ≠ 0 → (mget [] u.parks (homeDie l)).length < 4096 → ∃ (t : State) (q : Parked), runs (.xDcpark b v a g) s (t.retire .x 1) ∧ t.cx = u.cx.setG b 0
        ∧ mget [] t.parks (homeDie l) = mget [] u.parks (homeDie l) ++ [q] ∧ q.parcel = s.ownParcel (s.cx.vr v) ∧ q.ctr = l.pa
        ∧ wroteIn u t l.pa 16 (leBytes 4 c ++ leBytes 4 (p + 1)) ∧ t.flights = u.flights))
    ∧ ∀ k, refusal s ((s.cx.vr v).setWidth 64) = some k → runs (.xDcpark b v a g) s
        (u.raise u.cur.cell u.cur.ctx .x ⟨refusalTrap k, 6, 0xFF, 0, parcelHdr (s.ownParcel (s.cx.vr v)), 0⟩ 0 0)

/-- R35 to R39, R41, R144, R282 to R285: wlpush holds its key to the window of 64 above the cell's floor (Worklist-range, 0x27), and fills buckets, then
the spill region, and stalls when both are full. wlpop takes an eligible task of lowest key, or answers all ones. A push and a pop that takes a task
are acqrel: the context's earlier stores are performed and X's horizon moves to now. wlbound and wlterm set the partition's values. -/
def Obligations.WorklistOperations : Prop :=
  ∀ (s : State) (d a b : RegG) (g : GuardP), guardOn s.cx g → settled s.cx [d, a, b] →
    let key := (s.cx.gr a).setWidth 32
    let ok := s.cl.fview ≤ key.toNat ∧ key.toNat < s.cl.fview + 64
    let synced : Ctx := { s.cx with sb := [], ex := { s.cx.ex with horizon := s.now } }
    (¬ok → runs (.xWlpush a b g) s (s.raise s.cur.cell s.cur.ctx .x ⟨0x27, 6, 0xFF, 0, key.setWidth 64, 0⟩ 0 0))
    ∧ (ok → s.cl.buckets.length < 256 → ∃ t : State, runs (.xWlpush a b g) s (t.retire .x 1) ∧ t.cl.buckets = s.cl.buckets ++ [⟨key, s.cx.gr b⟩]
        ∧ t.cl.spill = s.cl.spill ∧ (t.part s.pid).pushes = (s.part s.pid).pushes + 1 ∧ t.cx = synced
        ∧ ((∀ e ∈ s.cx.sb, s.slotPages e.line = []) → allPerformed s t))
    ∧ (ok → 256 ≤ s.cl.buckets.length → s.cl.spill.length < (s.part s.pid).spillN → ∃ t : State, runs (.xWlpush a b g) s (t.retire .x 1)
        ∧ t.cl.spill = s.cl.spill ++ [⟨key, s.cx.gr b⟩] ∧ t.cl.buckets = s.cl.buckets ∧ (t.part s.pid).pushes = (s.part s.pid).pushes + 1 ∧ t.cx = synced)
    ∧ (ok → 256 ≤ s.cl.buckets.length → (s.part s.pid).spillN ≤ s.cl.spill.length → runs (.xWlpush a b g) s s)
    ∧ ((∀ t ∈ s.cl.buckets, s.cl.fview + s.cl.dview < t.key.toNat) → ∃ t : State, runs (.xWlpop d b g) s (t.retire .x 1)
        ∧ t.cx = s.cx.setG b (BitVec.allOnes 64) ∧ t.cl.wake = false ∧ t.cl.buckets = s.cl.buckets)
    ∧ ((∃ t ∈ s.cl.buckets, t.key.toNat ≤ s.cl.fview + s.cl.dview) → ∃ (n : Nat) (e : Task) (t : State), s.cl.buckets[n]? = some e
        ∧ (∀ u ∈ s.cl.buckets, e.key.toNat ≤ u.key.toNat) ∧ runs (.xWlpop d b g) s (t.retire .x 1) ∧ t.cl.buckets = s.cl.buckets.eraseIdx n
        ∧ t.cx = { (synced.setG d e.value).setG b (e.key.setWidth 64) with popped := s.cx.popped ++ [e.key.toNat] }
        ∧ ((∀ e ∈ s.cx.sb, s.slotPages e.line = []) → allPerformed s t))
    ∧ (∃ t : State, runs (.xWlbound a b g) s (t.retire .x 1) ∧ t.cx = s.cx ∧ (t.part s.pid).delta = nbits 0 6 (s.cx.gr a).toNat
        ∧ (t.part s.pid).wakeChan = if (s.cx.gr b).getLsbD 6 then none else some (nbits 0 6 (s.cx.gr b).toNat + 64 * s.cx.fmode.toNat))
    ∧ ∃ t : State, runs (.xWlterm a g) s (t.retire .x 1) ∧ t.cx = s.cx
        ∧ (t.part s.pid).term = if (s.cx.gr a).getLsbD 6 then none else some (s.cl.lcell, nbits 0 6 (s.cx.gr a).toNat + 64 * s.cx.fmode.toNat)

/-- R42 to R45, R286 to R289: fnew, fpoll, fres, ffree and ftmo. Word 0 holds the state in bits 1:0, the generation in 15:2 and the slot in 31:16. fpoll
returns it. fnew takes a free slot for a word pair that has none, and stalls while there is none. For the others a stale handle answers 4; a live
generation without a slot is a Future-state trap (0x22), as is an operation that the state forbids. fres of an unresolved future stores its value and
releases its waiter, or starts the injection of the reply's tokens when it is bound; ffree gives the slot up and raises the generation; ftmo sets or
clears the deadline, or times the future out at once. -/
def Sys2Proof.Claims.FutureOperations : Prop :=
  ∀ (s : State) (d a b : RegG) (g : GuardP) (l : Loc) (o : List Byte) (u : State), guardOn s.cx g → settled s.cx [d, a, b] → reaches s a 16 l o u →
    let va := s.cx.gr a
    let w0 := bnat o 0 8
    let w1 := bnat o 8 8
    let f : Fut := ⟨l, va, w0, w1⟩
    let st := w0 % 4
    let gen := nbits 2 14 w0
    let slot := nbits 16 16 w0
    let word := fun (k : Nat) => slot * 65536 + gen * 4 + k
    let trap := u.raise u.cur.cell u.cur.ctx .x ⟨0x22, 6, 0xFF, 0, va, 0⟩ 0 0
    (runs (.xFpoll d a g) s (answers u d (BitVec.ofNat 64 w0)))
    ∧ (nbits 2 14 (s.cx.gr d).toNat ≠ gen → ∀ i ∈ [Instr.xFres d a b g, .xFfree d a g, .xFtmo d a b g], runs i s (answers u d 4))
    ∧ (nbits 2 14 (s.cx.gr d).toNat = gen → u.liveSlot u.pid f = none →
        ∀ i ∈ [Instr.xFres d a b g, .xFfree d a g, .xFtmo d a b g], runs i s trap)
    ∧ ((u.liveSlot u.pid f).isSome ∨ nbits 32 32 w0 ≠ 0 → runs (.xFnew d a g) s trap)
    ∧ (u.liveSlot u.pid f = none → nbits 32 32 w0 = 0 → u.freeSlot (homeDie l) = none → runs (.xFnew d a g) s s)
    ∧ (∀ n, u.liveSlot u.pid f = none → nbits 32 32 w0 = 0 → u.freeSlot (homeDie l) = some n →
        ∃ t : State, runs (.xFnew d a g) s (t.retire .x 1) ∧ u.slot (homeDie l) n = none
          ∧ t.slot (homeDie l) n = some ⟨u.pid, l.pa, .future va .none none none none none⟩
          ∧ t.cx = u.cx.setG d (BitVec.ofNat 64 (n % 65536 * 65536 + gen * 4))
          ∧ wroteBytes u t l.pa (leBytes 8 (n % 65536 * 65536 + gen * 4) ++ leBytes 8 0))
    ∧ ∀ x w dl q re inj, nbits 2 14 (s.cx.gr d).toNat = gen → u.liveSlot u.pid f = some x → x.kind = .future va w dl q re inj →
      (st = 2 → runs (.xFres d a b g) s trap)
      ∧ (st = 3 → runs (.xFres d a b g) s (answers u d 3))
      ∧ (st < 2 → q = none → ∃ t : State, runs (.xFres d a b g) s (t.retire .x 1) ∧ t.cx = u.cx.setG d 0
          ∧ wroteBytes u t l.pa (leBytes 8 (word 2) ++ leBytes 8 (s.cx.gr b).toNat)
          ∧ t.slot (homeDie l) slot = some { x with kind := .future va .none none none re none }
          ∧ releases u t (homeDie l) slot u.pid va (word 2) (s.cx.gr b).toNat 0 [w])
      ∧ (st < 2 → ∀ z, q = some z → ∃ (t : State) (j : Inject), runs (.xFres d a b g) s (t.retire .x 1) ∧ t.cx = u.cx.setG d 0 ∧ j.queue = z
          ∧ j.src = some (s.cx.gr b) ∧ j.done = 0 ∧ j.wait_ = [w] ∧ t.slot (homeDie l) slot = some { x with kind := .future va .none none (some z) re (some j) })
      ∧ (st = 1 → runs (.xFfree d a g) s trap)
      ∧ (st ≠ 1 → ∃ t : State, runs (.xFfree d a g) s (t.retire .x 1) ∧ t.cx = u.cx.setG d 0 ∧ t.slot (homeDie l) slot = none
          ∧ wroteBytes u t l.pa (leBytes 8 ((gen + 1) % 16384 * 4))
          ∧ match inj with
            | none => t.flights = u.flights
            | some j => releases u t (homeDie l) slot u.pid va w0 w1 j.done j.wait_)
      ∧ (2 ≤ st → runs (.xFtmo d a b g) s (answers u d 3))
      ∧ (st < 2 → s.cx.gr b ≠ BitVec.allOnes 64 → u.time.toNat < (s.cx.gr b).toNat → ∃ t : State, runs (.xFtmo d a b g) s (t.retire .x 1)
          ∧ t.cx = u.cx.setG d 0 ∧ t.slot (homeDie l) slot = some { x with kind := .future va w (some (s.cx.gr b).toNat) q re inj })
      ∧ (st < 2 → s.cx.gr b = BitVec.allOnes 64 → ∃ t : State, runs (.xFtmo d a b g) s (t.retire .x 1)
          ∧ t.cx = u.cx.setG d 0 ∧ t.slot (homeDie l) slot = some { x with kind := .future va w none q re inj })
      ∧ (st < 2 → s.cx.gr b ≠ BitVec.allOnes 64 → (s.cx.gr b).toNat ≤ u.time.toNat →
          (q = none → ∃ t : State, runs (.xFtmo d a b g) s (t.retire .x 1) ∧ t.cx = u.cx.setG d 0 ∧ wroteBytes u t l.pa (leBytes 8 (word 3))
            ∧ releases u t (homeDie l) slot u.pid va (word 3) w1 0 [w])
          ∧ ∀ z, q = some z → ∃ (t : State) (j : Inject), runs (.xFtmo d a b g) s (t.retire .x 1) ∧ t.cx = u.cx.setG d 0 ∧ j.queue = z ∧ j.src = none
            ∧ j.done = 0 ∧ j.wait_ = [w] ∧ t.slot (homeDie l) slot = some { x with kind := .future va .none none (some z) re (some j) })

/-- R43, R45, R46, R286, R288, R289, R373: fwait and fbind. The future's address is checked first, and what its translation marks stays. fwait checks
its continuation descriptor as a send does; a bad one traps with the header that the continuation would have. On an unresolved future without a waiter it
registers its continuation and answers 0; with one it is a Future-state trap (0x22); on a resolved or timed-out one it answers 1 or 2 and sends
the continuation, at once, or behind an injection that is under way. fbind records the token queue, a null one unbinds; a misaligned header raises
Alignment (0x05), an invalid one Future-state; a future that is resolved or timed out is a Future-state trap. A stale handle answers 4; no live slot is a
Future-state trap. -/
def Sys2Proof.Claims.FutureWaits : Prop :=
  ∀ (s : State) (d a b : RegG) (g : GuardP) (l : Loc) (o : List Byte) (u : State), guardOn s.cx g → settled s.cx [d, a, b] → reaches s a 16 l o u →
    let va := s.cx.gr a
    let w0 := bnat o 0 8
    let w1 := bnat o 8 8
    let f : Fut := ⟨l, va, w0, w1⟩
    let st := w0 % 4
    let gen := nbits 2 14 w0
    let slot := nbits 16 16 w0
    let desc := s.cx.gr b
    let c : Cont := ⟨desc.setWidth 16, desc.extractLsb' 16 8, desc.extractLsb' 24 8, u.cx.fmode⟩
    let trapIn := fun (v : State) => v.raise v.cur.cell v.cur.ctx .x ⟨0x22, 6, 0xFF, 0, va, 0⟩ 0 0
    let passed := s.check .x 3 .readWrite va 16
    (∀ k p v, s.descBad desc = some k → passed = .ok (p, v) → runs (.xFwait d a b g) s (waitRefused v desc k))
    ∧ (nbits 2 14 (s.cx.gr d).toNat ≠ gen →
      (s.descBad desc = none → runs (.xFwait d a b g) s (answers u d 4)) ∧ (desc = 0 → runs (.xFbind d a b g) s (answers u d 4)))
    ∧ (nbits 2 14 (s.cx.gr d).toNat = gen → u.liveSlot u.pid f = none →
      (s.descBad desc = none → runs (.xFwait d a b g) s (trapIn u)) ∧ (desc = 0 → runs (.xFbind d a b g) s (trapIn u)))
    ∧ (∀ x w dl q re inj, nbits 2 14 (s.cx.gr d).toNat = gen → u.liveSlot u.pid f = some x → x.kind = .future va w dl q re inj →
      (s.descBad desc = none →
        (st = 0 → ∃ t : State, runs (.xFwait d a b g) s (t.retire .x 1) ∧ t.cx = u.cx.setG d 0
          ∧ t.slot (homeDie l) slot = some { x with kind := .future va (.cont c) dl q re inj }
          ∧ wroteBytes u t l.pa (leBytes 8 (slot * 65536 + gen * 4 + 1)))
        ∧ (st = 1 → runs (.xFwait d a b g) s (trapIn u))
        ∧ (2 ≤ st → ∃ t : State, runs (.xFwait d a b g) s (t.retire .x 1) ∧ t.cx = u.cx.setG d (if st = 2 then 1 else 2) ∧ t.mem = u.mem
          ∧ match inj with
            | none => adds u t [contParcel u.pid c va w0 w1 0]
            | some j => (j.wait_ = [] → adds u t [contParcel u.pid c va w0 w1 j.done])
              ∧ (j.wait_ ≠ [] → t.flights = u.flights
                ∧ t.slot (homeDie l) slot = some { x with kind := .future va .none dl q re (some { j with wait_ := j.wait_ ++ [.cont c] }) })))
      ∧ (desc = 0 → st < 2 → ∃ t : State, runs (.xFbind d a b g) s (t.retire .x 1) ∧ t.cx = u.cx.setG d 0
          ∧ t.slot (homeDie l) slot = some { x with kind := .future va w dl none re inj })
      ∧ (desc = 0 → 2 ≤ st → runs (.xFbind d a b g) s (trapIn u)))
    ∧ (∀ p v, desc.toNat % 64 ≠ 0 → passed = .ok (p, v) → runs (.xFbind d a b g) s (v.raise v.cur.cell v.cur.ctx .x ⟨5, 3, 0xFF, desc, 0, 0⟩ 0 0))
    ∧ ∀ hd p v t, desc ≠ 0 → passed = .ok (p, v) → v.load .x 3 desc 64 .rlx = .ok (hd, t) →
      (tokenQueueBad hd = true → runs (.xFbind d a b g) s (trapIn t))
      ∧ ∀ l' o' v, tokenQueueBad hd = false → t.object .x va 16 = .ok (l', o', v) →
        let w0' := bnat o' 0 8
        (nbits 2 14 (t.cx.gr d).toNat ≠ nbits 2 14 w0' → runs (.xFbind d a b g) s (answers v d 4))
        ∧ ∀ x w dl q re inj, nbits 2 14 (t.cx.gr d).toNat = nbits 2 14 w0' → v.liveSlot v.pid ⟨l', va, w0', bnat o' 8 8⟩ = some x →
          x.kind = .future va w dl q re inj →
          (w0' % 4 < 2 → ∃ z : State, runs (.xFbind d a b g) s (z.retire .x 1) ∧ z.cx = v.cx.setG d 0
            ∧ z.slot (homeDie l') (nbits 16 16 w0') = some { x with kind := .future va w dl (some desc) re inj })
          ∧ (2 ≤ w0' % 4 → runs (.xFbind d a b g) s (trapIn v))

/-- R47, R290: barriers. EXP, ARR and PHASE are the words at +0, +4 and +8. barr adds an arrival and bexp an expectation, and each answers the phase
before; a phase is complete when EXP is not 0 and at most ARR, and then EXP becomes 0, ARR falls by EXP, PHASE rises, and its waiters are sent their
continuations. bwait checks its descriptor as fwait does. bwait on the present phase takes a slot and answers 0; on another it sends the continuation at once and answers 1. -/
def Obligations.BarrierOperations : Prop :=
  ∀ (s : State) (d a b : RegG) (g : GuardP) (l : Loc) (o : List Byte) (u : State), guardOn s.cx g → settled s.cx [d, a, b] → reaches s a 16 l o u →
    let va := s.cx.gr a
    let exp := bnat o 0 4
    let arr := bnat o 4 4
    let phase := bnat o 8 4
    let n := ((s.cx.gr b).setWidth 32).toNat
    let after := fun (t : State) (e r : Nat) =>
      (¬(e ≠ 0 ∧ e ≤ r) → wroteBytes u t l.pa (leBytes 4 e ++ leBytes 4 r ++ leBytes 4 phase) ∧ t.flights = u.flights)
      ∧ (e ≠ 0 → e ≤ r → wroteBytes u t l.pa (leBytes 4 0 ++ leBytes 4 (r - e) ++ leBytes 4 ((phase + 1) % 2 ^ 32))
        ∧ adds u t ((mget [] u.futs (homeDie l)).flatMap fun y => match y.2.kind with
            | .barrier bva p c => if y.2.part = u.pid ∧ y.2.pa = l.pa ∧ p.toNat = phase then [contParcel u.pid c bva ((phase + 1) % 2 ^ 32) phase 0] else []
            | .future .. => []))
    (∃ t : State, runs (.xBarr d a g) s (t.retire .x 1) ∧ t.cx = u.cx.setG d (BitVec.ofNat 64 phase) ∧ after t exp ((arr + 1) % 2 ^ 32))
    ∧ (n = 0 → runs (.xBexp d a b g) s (answers u d (BitVec.ofNat 64 phase)))
    ∧ (n ≠ 0 → ∃ t : State, runs (.xBexp d a b g) s (t.retire .x 1) ∧ t.cx = u.cx.setG d (BitVec.ofNat 64 phase) ∧ after t ((exp + n) % 2 ^ 32) arr)
    ∧ (∀ k p v, s.descBad (s.cx.gr b) = some k → s.check .x 3 .readWrite va 16 = .ok (p, v) → runs (.xBwait d a b g) s (waitRefused v (s.cx.gr b) k))
    ∧ (s.descBad (s.cx.gr b) = none →
      let c : Cont := ⟨(s.cx.gr b).setWidth 16, (s.cx.gr b).extractLsb' 16 8, (s.cx.gr b).extractLsb' 24 8, u.cx.fmode⟩
      let p := (s.cx.gr d).setWidth 32
      (phase ≠ p.toNat → ∃ t : State, runs (.xBwait d a b g) s (t.retire .x 1) ∧ t.cx = u.cx.setG d 1 ∧ adds u t [contParcel u.pid c va phase p.toNat 0])
      ∧ (phase = p.toNat → u.freeSlot (homeDie l) = none → runs (.xBwait d a b g) s s)
      ∧ ∀ k, phase = p.toNat → u.freeSlot (homeDie l) = some k → ∃ t : State, runs (.xBwait d a b g) s (t.retire .x 1) ∧ t.cx = u.cx.setG d 0
          ∧ t.slot (homeDie l) k = some ⟨u.pid, l.pa, .barrier va p c⟩ ∧ wroteIn u t (l.pa + 12) 4 [])

/-- R249, R291, R292: the matrix claim. mclaim takes a free claim, answers 0 when its context holds it, answers 1 with bit 0 of g[a] set when it is not
free, and queues otherwise; mfree of the holder gives it up; the grant passes a free claim to the oldest waiter. -/
def Obligations.MatrixClaim : Prop :=
  ∀ (s : State) (d a : RegG) (g : GuardP), guardOn s.cx g → settled s.cx [d, a] →
    let k := s.cl
    let me := s.cur.ctx
    let free := k.claim = none ∧ k.mu.pipeL = none ∧ k.mu.pipeC = none
    (k.claim = some me → runs (.xMclaim d a g) s (answers s d 0))
    ∧ (free → k.claimQ = [] → ∃ t : State, runs (.xMclaim d a g) s (t.retire .x 1) ∧ t.cl.claim = some me ∧ t.cx = s.cx.setG d 0 ∧ t.cl.claimQ = [])
    ∧ (k.claim ≠ some me → me ∉ k.claimQ → ¬(free ∧ k.claimQ = []) →
      ((s.cx.gr a).getLsbD 0 = true → runs (.xMclaim d a g) s (answers s d 1))
      ∧ ((s.cx.gr a).getLsbD 0 = false → ∃ t, runs (.xMclaim d a g) s t ∧ t.cl.claimQ = k.claimQ ++ [me] ∧ t.cl.claim = k.claim ∧ t.cx = s.cx))
    ∧ (k.claim ≠ some me → me ∈ k.claimQ → runs (.xMclaim d a g) s s)
    ∧ (k.claim = some me → ∃ t : State, runs (.xMfree g) s (t.retire .x 1) ∧ t.cl.claim = none ∧ t.cx = s.cx ∧ t.cl.mu = k.mu)
    ∧ (k.claim ≠ some me → runs (.xMfree g) s (s.retire .x 1))
    ∧ ∀ (cell : Nat) (c : Nat) (rest : List Nat), (s.cell cell).claimQ = c :: rest →
      (s.cell cell).claim = none → (s.cell cell).mu.pipeL = none → (s.cell cell).mu.pipeC = none →
      ∃ t, runs (.evClaimGrant cell) s t ∧ (t.cell cell).claim = some c ∧ (t.cell cell).claimQ = rest ∧ ∀ x, t.ctx cell x = s.ctx cell x

/-! Privileged instructions of X (R337 to R353), streams (R66 to R71, R242 to R247), matrix commands (R249 to R254) and harts (R295 to R307). -/

namespace Sys2Proof.Claims

/-- A privileged instruction of X executes in K mode. -/
abbrev kReady (s : State) (g : GuardP) (rs : List RegG) : Prop := s.cx.kmode = true ∧ guardOn s.cx g ∧ settled s.cx rs

/-- Engine e of a context runs again from slot p, with its fault answered and its horizon at now; the context runs unless another engine's fault is
outstanding (R344, R345). -/
def resumes (u t : State) (cell ctx : Nat) (e : Eng) (p : Slot) : Prop :=
  ((t.ctx cell ctx).eng e).st = .running ∧ ((t.ctx cell ctx).eng e).code = 0 ∧ ((t.ctx cell ctx).eng e).pc = p
    ∧ ((t.ctx cell ctx).eng e).horizon = u.now ∧ (∀ o, o ≠ e → (t.ctx cell ctx).eng o = (u.ctx cell ctx).eng o)
    ∧ (t.ctx cell ctx).st = (if [Eng.x, .a, .m].any fun o => o ≠ e && ((u.ctx cell ctx).eng o).st == .faulted then CtxSt.suspended else .running)
    ∧ (∀ c k, (c, k) ≠ (cell, ctx) → t.ctx c k = u.ctx c k) ∧ t.mem = u.mem

/-- The group an A instruction issues: its stream is one group further, b[M] is one higher, and A retires at the end of a run of n groups (R244). -/
def groupIssued (u t : State) (st : StreamNo) (b : RegB) (n : Nat) (f : Stream → Stream) : Prop :=
  ∃ w : State, w.cx.stream st = f (u.cx.stream st) ∧ w.cx.br b = u.cx.br b + 1 ∧ w.mem = u.mem ∧ (∀ k, k ≠ st → w.cx.stream k = u.cx.stream k)
    ∧ (∀ r, r ≠ b → w.cx.br r = u.cx.br r) ∧ t = if (u.cx.br b + 1).toNat % n = 0 then w.retire .a 1 else w

/-- A command that starts: its fields, its pipe free, and what the unit then holds (R250, R254, R265). -/
def commandStarts (s t : State) (f : Fields) : Prop :=
  ∃ c, t.cl.mu.pipe (pipeFor (fieldOf f .op)) = some c ∧ c.fields = f ∧ c.rows = 0 ∧ c.issuer.cell = s.cur.cell ∧ c.issuer.ctx = s.cur.ctx
    ∧ c.poison = false ∧ c.fmode = s.cx.fmode
    ∧ (fieldOf f .tl = 0 → t.cx = s.cx)
    ∧ (fieldOf f .tl ≠ 0 → c.ticket = s.cx.issueOf (fieldOf f .tl - 1) + 1 ∧ t.cx.issueOf (fieldOf f .tl - 1) = c.ticket)

/-- The five named starting instructions and m.go with the fields they start (R254). -/
def commandOf (x : Ctx) : Instr → Option Fields
  | .mGo => some x.shadow
  | .mCimld => some (setField x.shadow .op 1)
  | .mMma => some (setField x.shadow .op 2)
  | .mAclr => some (setField x.shadow .op 3)
  | .mCvt => some (setField x.shadow .op 4)
  | .mSlice => some (setField x.shadow .op 5)
  | .mBcast => some (setField x.shadow .op 6)
  | .mRed => some (setField x.shadow .op 7)
  | _ => none

/-- A hart gives rd its result and goes on; x0 discards it (R302). -/
def gives (u : State) (rd : RegX) (w : Word) : State := u.setHx { u.hx.setX rd w with pc := u.hx.pc + 4 }
/-- The mode that takes an exception of a hart: M mode its own; else S, and from VS or VU mode VS, as far as medeleg (0x302) and hedeleg (0x602) name
the cause (R299; log 8). -/
def exceptTo (h : Hart) (cause : Nat) : HartMode :=
  if h.mode = .m ∨ (mget 0 h.csrs 0x302).getLsbD cause = false then .m
  else if (h.mode = .vs ∨ h.mode = .vu) ∧ (mget 0 h.csrs 0x602).getLsbD cause = true then .vs
  else .s
/-- A hart takes an exception (R299): the mode that takes it saves the instruction's address, the cause and the value, saves and clears the interrupt
enable, and goes on at its handler; hstatus says to S mode whether a virtual mode was left (log 8). -/
def excepts (s : State) (cause : Nat) (tval : Word) (code : Option Nat) : State :=
  let h := { s.hx with senxcause := (code.map (BitVec.ofNat 8)).getD s.hx.senxcause, sending := none, wait_ := none, woken := none }
  let saved := fun (r : SRegs) => { r with epc := h.pc, cause := BitVec.ofNat 64 cause, tval := tval, prev := h.mode, pie := r.ie, ie := false }
  let spv : Word := if h.mode = .vs ∨ h.mode = .vu then 0x80 else 0
  match exceptTo s.hx cause with
  | .m => s.setHx { h with mregs := saved h.mregs, mode := .m, pc := h.mregs.tvec &&& ~~~3 }
  | .vs => s.setHx { h with vsregs := saved h.vsregs, mode := .vs, pc := h.vsregs.tvec &&& ~~~3 }
  | .s | .u | .vu => s.setHx { h with
      sregs := saved h.sregs, mode := .s, pc := h.sregs.tvec &&& ~~~3
      csrs := mset 0 h.csrs 0x600 ((mget 0 h.csrs 0x600 &&& ~~~0x80) ||| spv) }

/-- Every buffered store of the four contexts of some cells of s is performed in t: the buffers are empty, and, where no line of theirs lies in a
staging slot, each byte is that of a buffer that covers it, or as before. -/
def storesPerformed (s t : State) (cells : List Nat) : Prop :=
  (∀ c ∈ cells, ∀ k < 4, (t.ctx c k).sb = [])
    ∧ ((∀ c ∈ cells, ∀ k < 4, ∀ e ∈ (s.ctx c k).sb, s.slotPages e.line = []) →
      ∀ x, (t.latest x = s.latest x ∧ ∀ c ∈ cells, ∀ k < 4, buffered (s.ctx c k).sb x = none)
        ∨ ∃ c ∈ cells, ∃ k < 4, buffered (s.ctx c k).sb x = some (t.latest x))

/-- The slot at which an engine goes on sequentially after the instruction it stopped at (R168, R205): behind its one or two lanes, or after an
illegal line at the next line. -/
def slotAfter (c : EngC) : Slot := if c.code = 2 then lineSlot c.pc + 8 else c.pc + if c.two then 2 else 1

/-- The physical address of every byte of an area, in order, from its translated pieces (R348). -/
def areaAddrs (ps : List (Loc × Nat)) : List Nat := ps.flatMap fun p => (List.range p.2).map fun i => p.1.pa + i

/-- The code of an engine's state in ENG (R351). -/
def engineCode : EngSt → Nat
  | .notStarted => 0
  | .running => 1
  | .faulted => 2
  | .ended => 3
/-- The code of a stream's state in its block (R350). -/
def streamStateCode : StreamSt → Nat
  | .closed => 0
  | .opened => 1
  | .closing => 2
/-- The record or parcel of 64 bytes at a place of an area. -/
def recordAt (b : List Byte) (o : Nat) : Vec := BitVec.ofNat 512 (bnat b o 64)

/-- An area holds engine e of a context (R351), numbered as ENG numbers it: its program counter, its state, its fault code and its held record. -/
def engineIn (b : List Byte) (e : EngC) (n : Nat) : Prop :=
  BitVec.ofNat 55 (bnat b (8 + 8 * n) 8) = e.pc ∧ nbits (2 * n) 2 (bnat b 7 1) = engineCode e.st ∧ bnat b (48 + n) 1 = e.code.toNat
    ∧ nbits n 1 (bnat b 53 1) = e.held.isSome.toNat ∧ ∀ r, e.held = some r → recordAt b (0x3A00 + 64 * n) = r

/-- An area holds a stream of a context (R350): its state, and unless it is closed its descriptor, its counts, its entries and their scale words. -/
def streamIn (b : List Byte) (t : Stream) (n : Nat) : Prop :=
  let o := 0x1200 + 640 * n
  bnat b (o + 38) 1 = streamStateCode t.st
    ∧ (t.st ≠ .closed → BitVec.ofNat 256 (bnat b o 32) = t.desc ∧ bnat b (o + 32) 2 = t.next.toNat ∧ bnat b (o + 34) 2 = t.head.toNat
      ∧ bnat b (o + 36) 2 = t.tail.toNat
      ∧ ∀ (i : Nat) (e : Entry), i < 8 → t.entries[i]? = some e →
          recordAt b (o + 128 + 64 * ((t.head.toNat + i) % 8)) = e.data
          ∧ ∀ w, e.scale = .word w → bnat b (o + 64 + 4 * ((t.head.toNat + i) % 8)) 4 = w.toNat)

/-- An area holds a token FIFO (R350). -/
def fifoIn (b : List Byte) (q : FifoQ) (n : Nat) : Prop :=
  let o := 0xE00 + 160 * n
  bnat b o 4 = q.headp.toNat ∧ bnat b (o + 4) 4 = q.items.length
    ∧ ∀ (i : Nat) (w : Word), i < 16 → q.items[i]? = some w → bnat b (o + 8 + 8 * ((q.headp.toNat + i) % 16)) 8 = w.toNat

/-- An area holds every item of R350 and R351 of a context: the program counters, states and faults of the engines, the watchdog count, the header of
the invocation's parcel, the registers, the shadow set, the loop counters, the timelines, the pending trap, the FIFOs and the streams. -/
def areaHolds (b : List Byte) (x : Ctx) : Prop :=
  engineIn b x.ex 0 ∧ engineIn b x.ea 1 ∧ engineIn b x.em 2
    ∧ bnat b 6 1 = x.chan % 256 ∧ bnat b 32 8 = x.wdcnt % 2 ^ 64 ∧ bnat b 40 8 = x.phdr.toNat ∧ bnat b 52 1 = x.kmode.toNat
    ∧ nbits 7 1 (bnat b 7 1) = x.trap.isSome.toNat ∧ (∀ r, x.trap = some r → recordAt b 0x580 = r)
    ∧ (∀ n, 1 ≤ n → n < 4 → nbits n 1 (bnat b 51 1) = (x.qr (BitVec.ofNat 2 n)).toNat)
    ∧ (∀ r : RegG, r ≠ 0 → bnat b (0x80 + 8 * r.toNat) 8 = (x.gr r).toNat)
    ∧ (∀ r : RegP, r ≠ 0 → bnat b (0x180 + 2 * r.toNat) 2 = (x.pr r).toNat)
    ∧ (∀ r : RegB, bnat b (0x280 + 8 * r.toNat) 8 = (x.br r).toNat) ∧ (∀ r : RegC, r ≠ 0 → bnat b (0x300 + 8 * r.toNat) 8 = (x.cr r).toNat)
    ∧ (∀ f ∈ blockFields, bnat b (0x380 + f.2.1) f.2.2.1 = fieldOf x.shadow f.1 % 256 ^ f.2.2.1)
    ∧ bnat b 0x3C0 8 = x.fmode.toNat ∧ bnat b 0x3C8 8 = x.xfid.toNat ∧ bnat b 0x3D0 8 = x.late.toNat ∧ bnat b 0x3D8 8 = x.gst.toNat
    ∧ bnat b 0x3E0 8 = x.gstk.toNat ∧ bnat b 0x3E8 8 = x.gtt.toNat ∧ bnat b 0x3F0 8 = x.gmt.toNat ∧ bnat b 0x3F8 8 = x.gdim.toNat
    ∧ (∀ n < 12, let l := mget LoopC.reset x.loops n
        bnat b (0x400 + 24 * n) 8 = l.count.toNat ∧ BitVec.ofNat 55 (bnat b (0x408 + 24 * n) 8) = l.first ∧ BitVec.ofNat 55 (bnat b (0x410 + 24 * n) 8) = l.last)
    ∧ (∀ n < 4, bnat b (0x520 + 16 * n) 8 = (x.issueOf n).toNat ∧ bnat b (0x528 + 16 * n) 8 = (x.doneOf n).toNat)
    ∧ (∀ r : RegV, recordAt b (0x600 + 64 * r.toNat) = x.vr r)
    ∧ (∀ n < 6, fifoIn b (x.fifo n) n) ∧ ∀ n < 16, streamIn b (x.stream (BitVec.ofNat 4 n)) n

/-- The bytes of an area that R350 and R351 reserve. -/
def areaReserved (o : Nat) : Prop :=
  (54 ≤ o ∧ o < 0x80) ∨ (0x380 + 21 ≤ o ∧ o < 0x3C0) ∨ (0x560 ≤ o ∧ o < 0x580) ∨ (0x5C0 ≤ o ∧ o < 0x600) ∨ (0x11C0 ≤ o ∧ o < 0x1200) ∨ (0x3AC0 ≤ o ∧ o < 0x4000)
    ∨ (∃ n < 6, 0xE00 + 160 * n + 136 ≤ o ∧ o < 0xE00 + 160 * n + 160)
    ∨ ∃ n < 16, (0x1200 + 640 * n + 39 ≤ o ∧ o < 0x1200 + 640 * n + 64) ∨ (0x1200 + 640 * n + 96 ≤ o ∧ o < 0x1200 + 640 * n + 128)

/-- The records that the engines of a context hold for buffer space. -/
def heldRecords (x : Ctx) : List Record := x.ex.held.toList ++ x.ea.held.toList ++ x.em.held.toList
/-- HELD of a partition's fault buffer header has been moved by the held records of a context, and no other byte of memory changed (R349, R352). -/
def heldMoved (u w : State) (pid : Nat) (rs : List Record) (up : Bool) : Prop :=
  ∀ a, w.latest a = (rs.foldl (fun v _ => v.adjustHeld pid up) u).latest a

/-- What a saved context t of the running cell leaves behind (R349): the stores of both contexts are performed, and then the whole area is written at
its pieces: the header, every item of the context, and zeros where it is reserved; no other byte of memory changes but HELD, which falls by the records
moved into the area. The context is free, or trap pending, with no buffered store; the claim is given up; its channel stays Running and is marked
saved, with what the device keeps beside the area (log 21). The bytes are claimed for an area whose 16 KiB are distinct and lie in no staging slot. -/
def savedAs (u w : State) (t : Nat) (ps : List (Loc × Nat)) : Prop :=
  let cell := u.cur.cell
  let v := u.rel.drainCtx cell t
  let x := v.ctx cell t
  (w.ctx cell t).st = (if x.esc = [] then .free else .trapPending) ∧ (w.ctx cell t).sb = []
    ∧ (w.chan cell x.chan).saved = some ⟨x.inv, x.limit, x.popped, x.sysd, x.ex, x.ea, x.em, x.streams⟩
    ∧ (w.chan cell x.chan).st = (u.chan cell x.chan).st
    ∧ (w.cell cell).claim = (if u.cl.claim = some t then none else u.cl.claim)
    ∧ ((areaAddrs ps).length = 0x4000 → (areaAddrs ps).Nodup → (∀ n ∈ pieceLines ps, u.slotPages n = []) → ∃ z : State,
        let b := (areaAddrs ps).map z.latest
        bnat b 0 2 = 1 ∧ bnat b 2 1 = t ∧ bnat b 3 1 = u.cl.tag % 256 ∧ bnat b 4 2 = u.cl.lcell.toNat
          ∧ nbits 6 1 (bnat b 7 1) = (decide (u.cl.claim = some t)).toNat ∧ bnat b 0x80 8 = 0 ∧ bnat b 0x180 2 = 0xFFFF ∧ bnat b 0x300 8 = 0
          ∧ (∀ o, areaReserved o → b.getD o 0 = 0) ∧ areaHolds b x
          ∧ (∀ a, a ∉ areaAddrs ps → z.latest a = v.latest a) ∧ heldMoved z w u.cl.tag (heldRecords x) false)

/-- What ctxload makes of a free context of the running cell from a valid area b (R352): y holds every item of the area, and its registers of fixed
value their own; every engine's horizon is the load; it is suspended when an engine is faulted; a set claim flag puts it at the end of the claim queue;
HELD rises by the records that come back; the channel's mark clears, and the invocation is that of the save. -/
def restoredFrom (v w : State) (t : Nat) (b : List Byte) (keep : SavedInv) : Prop :=
  let cell := v.cur.cell
  let y := w.ctx cell t
  areaHolds b y ∧ y.inv = keep.inv ∧ y.limit = keep.limit ∧ y.wdcnt = bnat b 32 8 ∧ (w.chan cell (bnat b 6 1)).saved = none
    ∧ (∀ e, (y.eng e).horizon = v.now)
    ∧ ((∃ e, (y.eng e).st = .faulted) → y.st = .suspended) ∧ ((∀ e, (y.eng e).st ≠ .faulted) → y.st = .running)
    ∧ (∀ n < 6, (y.fifo n).items.length = bnat b (0xE00 + 160 * n + 4) 4)
    ∧ (∀ n < 16, let s := y.stream (BitVec.ofNat 4 n)
        s.st ≠ .closed → s.entries.length = (s.tail - s.head).toNat ∧ s.loads = [] ∧ s.stores = []
          ∧ ∀ (i : Nat) (e : Entry), s.entries[i]? = some e → e.poison = false
            ∧ e.scale = (if dScBase s.desc = 0 then ScaleW.absent else .word (BitVec.ofNat 32 (bnat b (0x1200 + 640 * n + 64 + 4 * ((s.head.toNat + i) % 8)) 4))))
    ∧ w.cl.claimQ = (if nbits 6 1 (bnat b 7 1) = 1 then v.cl.claimQ ++ [t] else v.cl.claimQ)
    ∧ ∃ z : State, (∀ a, z.latest a = v.latest a) ∧ heldMoved z w v.pid (heldRecords y) true

/-- A closed stream, whose load groups in flight still land and are discarded (R71). -/
def closedStream (t : Stream) : Stream :=
  { Stream.reset with dropping := t.dropping ++ t.loads.map fun g => ⟨dCellKind t.desc, false, dAcq t.desc && !dCellKind t.desc, g⟩ }

end Sys2Proof.Claims

/-- R57, R174, R337: a privileged instruction of X in U mode raises Privilege (0x04), whatever its guard holds. -/
def Obligations.PrivilegedInUserTraps : Prop :=
  ∀ (s : State) (i : Instr) (g : GuardP) (len : Nat), privGuard i = some (g, len) → s.cx.kmode = false →
    runs i s (s.raise s.cur.cell s.cur.ctx .x ⟨4, 6, 0xFF, 0, 0, 0⟩ 0 0)

/-- R340 to R342, R368, R396, R408: sysr answers a system register; sysw writes it under its rules and answers its old value; wdset sets the limit of
later dispatches. A register of the partition is reached behind the context's stores, as an acquire. lease takes bits 14:0, and reserved bits keep 0. cstat reads, for each
context of the cell, its state, which engines are faulted, and whether a fault or an escalated record of it is held. -/
def Obligations.SystemRegisters : Prop :=
  ∀ (s : State) (d a : RegG) (g : GuardP), kReady s g [d, a] →
    (∀ sr, let u := if sr ∈ [SysReg.fbhdr, .s1root, .plctab, .scrtok] then s.rel.acq .x else s
      let w := s.cx.gr a
      runs (.xSysr d sr g) s (answers u d (u.sysReg sr))
      ∧ ∃ t : State, runs (.xSysw d sr a g) s (t.retire .x 1) ∧ t.cx.gr d = (if d = 0 then 0 else u.sysReg sr) ∧ (∀ r, r ≠ d → t.cx.gr r = u.cx.gr r)
        ∧ (match sr with
          | .kchan => t.cl.kchan = w
          | .lease => t.cl.lease = min (max (w.setWidth 15).toNat 256) 16384
          | .dpcnt => t.cl.dpcnt = w
          | .pgate => t.cl.pgate = w.setWidth 12 ∧ ∀ n < 0x60000, mget 0 t.cl.store n = if w.getLsbD (n / 0x8000) then 0 else mget 0 u.cl.store n
          | .fbhdr => (t.part u.pid).fbhdr = w &&& ~~~63
          | .s1root => (t.part u.pid).s1root = w &&& 0x000FFFFFFFFFF000
          | .plctab => (t.part u.pid).plctab = w &&& 0x000FFFFFFFFFF000
          | .scrtok => (t.part u.pid).scrtok = w &&& ~~~2047
          | .wdlim => t.cl.wdlim = s.cl.wdlim
          | .cstat => t.cl = { s.cl with ctxs := t.cl.ctxs }))
    ∧ (s.sysReg .kchan = s.cl.kchan ∧ s.sysReg .lease = BitVec.ofNat 64 s.cl.lease ∧ s.sysReg .dpcnt = s.cl.dpcnt ∧ s.sysReg .wdlim = BitVec.ofNat 64 s.cl.wdlim
      ∧ s.sysReg .pgate = s.cl.pgate.setWidth 64 ∧ s.sysReg .fbhdr = (s.part s.pid).fbhdr ∧ s.sysReg .s1root = (s.part s.pid).s1root
      ∧ s.sysReg .plctab = (s.part s.pid).plctab ∧ s.sysReg .scrtok = (s.part s.pid).scrtok)
    ∧ (∀ k < 4, let x := s.ctx s.cur.cell k
      let r := s.sysReg .cstat
      (x.taken = none → (r.extractLsb' (8 * k) 4).toNat = match x.st with
        | .free => 0
        | .running => 1
        | .suspended => 2
        | .trapPending => 3)
      ∧ (r.getLsbD (8 * k + 4) = true ↔ x.ex.st = .faulted) ∧ (r.getLsbD (8 * k + 5) = true ↔ x.ea.st = .faulted)
      ∧ (r.getLsbD (8 * k + 6) = true ↔ x.em.st = .faulted)
      ∧ (r.getLsbD (8 * k + 7) = true ↔ x.ex.held ≠ none ∨ x.ea.held ≠ none ∨ x.em.held ≠ none ∨ x.esc ≠ []))
    ∧ (s.sysReg .cstat).toNat < 2 ^ 32
    ∧ ∃ t : State, runs (.xWdset d a g) s (t.retire .x 1) ∧ t.cx = s.cx.setG d (BitVec.ofNat 64 s.cl.wdlim)
        ∧ t.cl.wdlim = min (max (s.cx.gr a).toNat 1024) 0x1000000

/-- R344, R345: sret, the return from a fault. Bits [15:0] of g[a] name the logical cell, 17:16 the context, 19:18 the engine and 21:20 the action. No such
cell or engine answers 3; an evicted cell, and an engine without an outstanding fault or with its record still held, answer 1. Action 0 runs the
instruction again, 1 goes on behind it, 2 at a resume point or at a target, which is checked now, or, while it cannot be, once it can (log 15), 3 ends
the invocation. -/
def Obligations.FaultReply : Prop :=
  ∀ (s : State) (d a b : RegG) (g : GuardP), kReady s g [d, a, b] →
    let l := ((s.cx.gr a).setWidth 16).toNat
    let ctx := ((s.cx.gr a).extractLsb' 16 2).toNat
    let en := ((s.cx.gr a).extractLsb' 18 2).toNat
    let act := ((s.cx.gr a).extractLsb' 20 2).toNat
    let val := s.cx.gr b
    let ent := (s.part s.pid).resolve l
    (en = 3 ∨ ent = none ∨ (∃ e, ent = some e ∧ e.extractLsb' 30 2 ≠ 1) → runs (.xSret d a b g) s (answers s d 3))
    ∧ ∀ e k, en = engNo k → ent = some e → e.extractLsb' 30 2 = 1 →
      let u := s.rel
      let cell := (e.setWidth 11).toNat
      let x := u.ctx cell ctx
      (e.getLsbD 29 = true → runs (.xSret d a b g) s (answers s d 1))
      ∧ (e.getLsbD 29 = false → (x.st ≠ .suspended ∨ (x.eng k).st ≠ .faulted ∨ (x.eng k).held ≠ none) → runs (.xSret d a b g) s (answers u d 1))
      ∧ (e.getLsbD 29 = false → x.st = .suspended → (x.eng k).st = .faulted → (x.eng k).held = none → x.taken = none →
          ((x.eng k).code = 2 → x.sharers k = []) →
        (act = 0 → (x.eng k).code ≠ 0x30 → (x.eng k).code ≠ 0x31 → ∃ t : State, runs (.xSret d a b g) s (answers t d 0) ∧ resumes u t cell ctx k (x.eng k).pc)
        ∧ (act = 1 ∨ (act = 0 ∧ (x.eng k).code = 0x31) → (x.eng k).code ≠ 0x30 →
            ∃ t : State, runs (.xSret d a b g) s (answers t d 0) ∧ resumes u t cell ctx k (slotAfter (x.eng k)))
        ∧ (act ≤ 1 → (x.eng k).code = 0x30 →
            ∃ t : State, runs (.xSret d a b g) s (answers t d 0) ∧ resumes u t cell ctx k (slotAfter (x.eng k))
              ∧ (t.ctx cell ctx).gr x.sysd = (if x.sysd = 0 then 0 else val) ∧ ∀ r, r ≠ x.sysd → (t.ctx cell ctx).gr r = x.gr r)
        ∧ (act = 2 → val.getLsbD 63 = true → ∃ t : State, runs (.xSret d a b g) s (answers t d 0) ∧ resumes u t cell ctx k (val.setWidth 55))
        ∧ (act = 2 → val.getLsbD 63 = false →
          (∀ v, u.checkTarget cell x.kmode k (val.setWidth 55) = .bad v → runs (.xSret d a b g) s (answers u d 2))
          ∧ ∀ v, u.checkTarget cell x.kmode k (val.setWidth 55) = .legal v →
            ∃ t : State, runs (.xSret d a b g) s (answers t d 0) ∧ resumes v t cell ctx k (val.setWidth 55))
        ∧ (∀ v p, act = 2 → val.getLsbD 63 = false →
          (u.checkTarget cell x.kmode k (val.setWidth 55) = .open_ v ∨ u.checkTarget cell x.kmode k (val.setWidth 55) = .pending p v) →
            ∃ t : State, runs (.xSret d a b g) s (answers t d 0) ∧ resumes v t cell ctx k (val.setWidth 55)
              ∧ ((t.ctx cell ctx).eng k).unchecked = some ⟨val.setWidth 55, val.setWidth 55, none, none, none⟩)
        ∧ (act = 3 → runs (.xSret d a b g) s (answers (u.endInvocation cell ctx true) d 0)))

/-- R54, R230, R346, R347, R368: tlbinv and cinv. tlbinv.all drops the partition's entries of the cell's TLBs and of its group's, tlbinv.va those that
translate an address in every cell of the partition, tlbinv.part all of them; each waits for the groups, the saves and the copies of the cells that they
may have served (every group, log 42), and performs the buffered stores of the cells that it serves at their homes. cinv.l1 drops the L1, cinv.sb performs every buffered store of the cell, and
cinv.is performs the context's and drops the instruction store. -/
def Obligations.Invalidations : Prop :=
  ∀ (s : State) (a : RegG) (g : GuardP), kReady s g [a] →
    let uses := fun (c : Nat) => (s.cell c).groupsFly = true ∨ ∃ k < 4, (s.ctx c k).taken ≠ none ∧ s.isTaken c k = true
    let quiet := fun (cells : List Nat) => ∀ c ∈ cells, ¬uses c
    let near := s.tlbPatch s.cur.cell
    let all := (s.part s.pid).cellsOf
    (quiet near → (∀ c ∈ s.copies, c.part ≠ s.pid ∨ tlbGroup c.issuer.cell ≠ tlbGroup s.cur.cell) →
      ∃ t : State, runs (.xTlbinvAll g) s (t.retire .x 1)
      ∧ (∀ e ∈ t.cl.itlb ++ t.cl.dtlb ++ mget [] t.l2tlbs (tlbGroup s.cur.cell), e.part ≠ s.pid)
      ∧ (∀ e ∈ s.cl.itlb, e.part ≠ s.pid → e ∈ t.cl.itlb) ∧ storesPerformed s t near)
    ∧ ((∃ c ∈ near, uses c) ∨ (∃ c ∈ s.copies, c.part = s.pid ∧ tlbGroup c.issuer.cell = tlbGroup s.cur.cell) → runs (.xTlbinvAll g) s s)
    ∧ (quiet all → (∀ c ∈ s.copies, c.part ≠ s.pid) →
      (∃ t : State, runs (.xTlbinvVa a g) s (t.retire .x 1) ∧ storesPerformed s t all ∧ ∀ c ∈ all,
        ∀ e ∈ (t.cell c).itlb ++ (t.cell c).dtlb ++ mget [] t.l2tlbs (tlbGroup c),
          ¬(e.part = s.pid ∧ e.vbase ≤ (s.cx.gr a).toNat ∧ (s.cx.gr a).toNat < e.vbase + e.size))
      ∧ ∃ t : State, runs (.xTlbinvPart g) s (t.retire .x 1) ∧ (t.part s.pid).s1olds = [] ∧ (t.part s.pid).ploldl = [] ∧ storesPerformed s t all
        ∧ ∀ c ∈ all, ∀ e ∈ (t.cell c).itlb ++ (t.cell c).dtlb ++ mget [] t.l2tlbs (tlbGroup c), e.part ≠ s.pid)
    ∧ ((∃ c ∈ all, uses c) ∨ (∃ c ∈ s.copies, c.part = s.pid) → runs (.xTlbinvVa a g) s s ∧ runs (.xTlbinvPart g) s s)
    ∧ (∃ t : State, runs (.xCinvL1 g) s (t.retire .x 1) ∧ t.cl.l1 = [] ∧ t.cl.mseg = [] ∧ t.cx = s.cx ∧ t.cl.istore = s.cl.istore)
    ∧ (∃ t : State, runs (.xCinvSb g) s (t.retire .x 1) ∧ storesPerformed s t [s.cur.cell])
    ∧ ∃ t : State, runs (.xCinvIs g) s (t.retire .x 1) ∧ t.cl.istore = []
        ∧ ((∀ e ∈ s.cx.sb, s.slotPages e.line = []) → allPerformed s t)

/-- R75, R77, R348 to R353: ctxsave and ctxload, once every page of the area is translated. ctxsave answers 1 for its own context or one that is not
suspended or that another save has taken, and 2 for a claimant whose command runs; a quiet context is written to the area, byte for byte in the
layout of R350 and R351, and becomes free, its channel marked saved; one that is not quiet is taken, with the pieces of its area, and X waits at the
instruction until it is quiet. ctxload answers 1 for a target that is not free, raises Poison for a poisoned area, answers 2 for a bad area and 3
without the saved mark, and else restores every item of the area. -/
def Obligations.ContextSaveRestore : Prop :=
  ∀ (s : State) (d a b : RegG) (g : GuardP), kReady s g [d, a, b] →
    let t := ((s.cx.gr b).setWidth 2).toNat
    ((s.cx.gr a).toNat % 64 ≠ 0 →
      (s.takenPieces t = none → runs (.xCtxsave d a b g) s (s.raise s.cur.cell s.cur.ctx .x ⟨5, 2, 0xFF, s.cx.gr a, 0, 0⟩ 0 0))
      ∧ runs (.xCtxload d a b g) s (s.raise s.cur.cell s.cur.ctx .x ⟨5, 1, 0xFF, s.cx.gr a, 0, 0⟩ 0 0))
    ∧ (s.takenPieces t = none → ∀ ps u, s.areaPages 2 .write (s.cx.gr a) = .ok (ps, u) →
      let x := u.ctx u.cur.cell t
      let busy := u.cl.claim = some t ∧ (u.cl.mu.pipeL ≠ none ∨ u.cl.mu.pipeC ≠ none)
      (t = u.cur.ctx ∨ x.st ≠ .suspended ∨ u.isTaken u.cur.cell t = true → runs (.xCtxsave d a b g) s (answers u d 1))
      ∧ (t ≠ u.cur.ctx → x.st = .suspended → u.isTaken u.cur.cell t = false →
        (busy → runs (.xCtxsave d a b g) s (answers u d 2))
        ∧ (¬busy → u.quiet u.cur.cell t = true → ∃ w : State, runs (.xCtxsave d a b g) s (answers w d 0) ∧ savedAs u w t ps)
        ∧ (¬busy → u.quiet u.cur.cell t = false → ∃ w, runs (.xCtxsave d a b g) s w
            ∧ (w.ctx u.cur.cell t).taken = some ⟨u.cur.ctx, u.cx.inv, ps.map fun p => (p.1.pa, p.1.place, p.2)⟩ ∧ w.cx = u.cx ∧ w.mem = u.mem)))
    ∧ (∀ ps, s.takenPieces t = some ps → t ≠ s.cur.ctx →
      (s.quiet s.cur.cell t = true → ∃ w : State, runs (.xCtxsave d a b g) s (answers w d 0) ∧ savedAs s w t ps)
      ∧ (s.quiet s.cur.cell t = false → ∃ w, runs (.xCtxsave d a b g) s w
          ∧ (w.ctx s.cur.cell t).taken = some ⟨s.cur.ctx, s.cx.inv, ps.map fun p => (p.1.pa, p.1.place, p.2)⟩ ∧ w.cx = s.cx ∧ w.mem = s.mem))
    ∧ ∀ ps u, s.areaPages 1 .read (s.cx.gr a) = .ok (ps, u) →
      let v := u.rel
      let area := (areaAddrs ps).map v.latest
      let free := (u.ctx u.cur.cell t).st = .free
      (¬free → runs (.xCtxload d a b g) s (answers u d 1))
      ∧ (free → u.areaStaged ps (s.cx.gr a) = .ok u → (pieceLines ps).any u.poisoned = true →
          runs (.xCtxload d a b g) s (u.raise u.cur.cell u.cur.ctx .x ⟨0x13, 1, 0xFF, s.cx.gr a, 0, 0⟩ 0 0))
      ∧ (free → u.areaStaged ps (s.cx.gr a) = .ok u → (pieceLines ps).any u.poisoned = false →
        (areaOk area u.pid u.cl.lcell.toNat = false → ∃ w : State, runs (.xCtxload d a b g) s (answers w d 2) ∧ w.cells = v.cells)
        ∧ (areaOk area u.pid u.cl.lcell.toNat = true → (v.chan u.cur.cell (bnat area 6 1)).saved = none →
            ∃ w : State, runs (.xCtxload d a b g) s (answers w d 3) ∧ w.cells = v.cells)
        ∧ ∀ keep, areaOk area u.pid u.cl.lcell.toNat = true → (v.chan u.cur.cell (bnat area 6 1)).saved = some keep →
            ∃ w : State, runs (.xCtxload d a b g) s (answers w d 0) ∧ restoredFrom v w t area keep ∧ w.cx.ex.horizon = v.now)

/-- R66 to R71, R242: a.sopen opens a closed stream under a valid descriptor of the own cell store; an invalid one, or an open stream, is illegal, a
misaligned one raises Alignment (0x05), and a closing stream stalls A, as an acquire load of A in flight does (R131). a.sclose closes a load stream at once, dropping its entries: its groups in
flight still land, and are discarded. A store stream closes once its entries are written; the close waits while another stream of the context has groups in
flight or still closes (log 22). -/
def Sys2Proof.Claims.StreamsOpenClose : Prop :=
  ∀ (s : State) (st : StreamNo) (b : RegB) (imm : BitVec 14) (q : GuardQ), s.cx.qr q = true →
    let off := s.cx.br b + BitVec.ofNat 64 (32 * imm.toNat)
    let x := s.cx.stream st
    let flies := fun (e : Nat × Stream) => e.2.dropping ≠ [] ∨ e.2.loads ≠ [] ∨ e.2.stores ≠ [] ∨ (e.2.st = .closing ∧ e.2.entries ≠ [])
    let acquires := ∃ e ∈ s.cx.streams, ∃ f ∈ e.2.flying, f.acq = true ∧ f.store = false
    (acquires → runs (.aSopen st b imm q) s s)
    ∧ (¬acquires → off.toNat % 32 ≠ 0 → runs (.aSopen st b imm q) s (s.raise s.cur.cell s.cur.ctx .a ⟨5, 1, 0xFF, 0, 0, 0⟩ 0 0))
    ∧ (¬acquires → ∀ bs u, s.storeLoad off 32 32 = .ok (bs, u) →
      let d := BitVec.ofNat 256 (leNat bs)
      (dInvalid d = true → runs (.aSopen st b imm q) s (u.raise u.cur.cell u.cur.ctx .a whyIllegal 0 0))
      ∧ (dInvalid d = false → dKind d = 5 → u.landingHit d = true → runs (.aSopen st b imm q) s (u.raise u.cur.cell u.cur.ctx .a ⟨0x12, 4, 0xFF, 0, 0, 0⟩ 0 0))
      ∧ (dInvalid d = false → dKind d ≠ 5 ∨ u.landingHit d = false →
        ((u.cx.stream st).st = .opened → runs (.aSopen st b imm q) s (u.raise u.cur.cell u.cur.ctx .a whyIllegal 0 0))
        ∧ ((u.cx.stream st).st = .closing → runs (.aSopen st b imm q) s s)
        ∧ ((u.cx.stream st).st = .closed → runs (.aSopen st b imm q) s
            ((u.setCx (u.cx.setStream st { Stream.reset with desc := d, st := .opened, dropping := (u.cx.stream st).dropping })).retire .a 1))))
    ∧ (x.st ≠ .opened → runs (.aSclose st q) s (s.retire .a 1))
    ∧ (x.isLoad = true → runs (.aSclose st q) s ((s.setCx (s.cx.setStream st (closedStream x))).retire .a 1))
    ∧ (x.isStore = true → (∀ e ∈ s.cx.streams, e.1 ≠ st.toNat → ¬flies e) → runs (.aSclose st q) s
        ((s.setCx (s.cx.setStream st (if x.entries = [] ∧ x.stores = [] then closedStream x else { x with st := .closing }))).retire .a 1))
    ∧ (x.isStore = true → (∃ e ∈ s.cx.streams, e.1 ≠ st.toNat ∧ flies e) → runs (.aSclose st q) s s)

/-- R68, R243 to R246: a.ld, a.st, a.gath and a.scat issue group b[M] of their stream, which counts b[M] up, and A retires at the end of a run of n; a full
or an empty stream stalls A, and n = 0 or a stream of another kind is illegal. The first piece of a row reads the row's scale, with a store too. a.gath and
a.scat take the entry at HEAD of their index stream; a poisoned one raises Poison (0x13). a.pref changes neither a register nor a byte of memory. -/
def Sys2Proof.Claims.StreamGroupsIssue : Prop :=
  ∀ (s : State) (st si : StreamNo) (b : RegB) (n : BitVec 14) (m : BitVec 10) (q : GuardQ), s.cx.qr q = true →
    let t := s.cx.stream st
    let d := t.desc
    let i := s.cx.br b
    let at_ := groupAt d i.toNat
    let illegal := s.raise s.cur.cell s.cur.ctx .a whyIllegal 0 0
    (n = 0 ∨ t.st ≠ .opened → ∀ j ∈ [Instr.aLd st b n q, .aSt st b n q, .aPref st b n q], runs j s illegal)
    ∧ (dKind d ≠ 1 → dKind d ≠ 3 → runs (.aLd st b n q) s illegal)
    ∧ (dStoreKind d = false → runs (.aSt st b n q) s illegal)
    ∧ (dKind d ≠ 1 → dKind d ≠ 2 → runs (.aPref st b n q) s illegal)
    ∧ (n ≠ 0 → t.st = .opened → dKind d = 1 ∨ dKind d = 3 →
      (dDepth d ≤ t.ahead → runs (.aLd st b n q) s s)
      ∧ ∀ ps u w, t.ahead < dDepth d → s.groupPieces s.cur.cell s.cx.kmode .read s.cx.chan (dCellKind d) (tyBits (dFmt d) / 8) at_.addr at_.len = .ok (ps, u) →
          u.groupReads (dCellKind d) ps (fun _ => at_.addr) i = .ok w →
        (dScBase d = 0 ∨ at_.p ≠ 0 → ∃ z, runs (.aLd st b n q) s z ∧ groupIssued w z st b n.toNat fun t =>
          { t with loads := t.loads ++ [⟨ps, none, dScBase d != 0 && at_.p != 0, w.now⟩], next := t.next + 1 })
        ∧ ∀ l y, dScBase d ≠ 0 → at_.p = 0 → w.scalePlace (scaleVa d at_.row) i = .ok (l, y) →
          ∃ z, runs (.aLd st b n q) s z
            ∧ groupIssued y z st b n.toNat fun t => { t with loads := t.loads ++ [⟨ps, some (l.pa, l.place), false, y.now⟩], next := t.next + 1 })
    ∧ (n ≠ 0 → t.isStore = true →
      (t.entries = [] → runs (.aSt st b n q) s s)
      ∧ ∀ e rest ps u v, t.entries = e :: rest →
          s.groupPieces s.cur.cell s.cx.kmode .write s.cx.chan (dCellKind d) (tyBits (dFmt d) / 8) at_.addr at_.len = .ok (ps, u) →
          (if dScBase d = 0 ∨ at_.p ≠ 0 then v = u else ∃ l y, u.scalePlace (scaleVa d at_.row) i = .ok (l, y) ∧ (y.scaleAt y.cur.cell y.cur.ctx l).1 = v) →
          v.cx.stream st = t →
          ∃ z, runs (.aSt st b n q) s z ∧ groupIssued v z st b n.toNat fun t =>
            { t with entries := rest, stores := t.stores ++ [(⟨ps, none, false, v.now⟩, e)], next := t.next + 1, head := t.head + 1 })
    ∧ (m = 0 ∨ si = st ∨ (s.cx.stream si).indexOk = false ∨ dataOk d = false ∨ t.st ≠ .opened →
        ∀ j ∈ [Instr.aGath st b si m q, .aScat st b si m q], runs j s illegal)
    ∧ (m ≠ 0 → si ≠ st → (s.cx.stream si).indexOk = true → dataOk d = true →
      (∀ e rest, t.st = .opened → dKind d = 1 ∨ dKind d = 3 → t.ahead < dDepth d → (s.cx.stream si).entries = e :: rest → e.poison = true →
        runs (.aGath st b si m q) s (s.raise s.cur.cell s.cur.ctx .a ⟨0x13, 4, 0xFF, 0, i, 0⟩ 0 0))
      ∧ (t.st = .opened → dKind d = 1 ∨ dKind d = 3 → dDepth d ≤ t.ahead ∨ (s.cx.stream si).entries = [] → runs (.aGath st b si m q) s s)
      ∧ (t.isStore = true → t.entries = [] ∨ (s.cx.stream si).entries = [] → runs (.aScat st b si m q) s s)
      ∧ (∀ e rest, t.isStore = true → t.entries ≠ [] → (s.cx.stream si).entries = e :: rest → e.poison = true →
        runs (.aScat st b si m q) s (s.raise s.cur.cell s.cur.ctx .a ⟨0x13, 4, 0xFF, 0, i, 0⟩ 0 0)))
    ∧ (m ≠ 0 → si ≠ st → (s.cx.stream si).indexOk = true → dataOk d = true → ∀ e rest, (s.cx.stream si).entries = e :: rest → e.poison = false →
      let taken := fun (x : Stream) => { x with entries := rest, head := x.head + 1 }
      (t.st = .opened → dKind d = 1 ∨ dKind d = 3 → t.ahead < dDepth d → ∀ ps u w, s.elemPieces .read d e.data i = .ok (ps, u) →
        u.groupReads (dCellKind d) ps (fun p => elemVa d e.data (p.off * 8 / tyBits (dFmt d))) (u.cx.br b) = .ok w → w.cx.stream si = s.cx.stream si →
        ∃ z, runs (.aGath st b si m q) s z ∧ groupIssued (w.setCx (w.cx.setStream si (taken (s.cx.stream si)))) z st b m.toNat fun t =>
          { t with loads := t.loads ++ [⟨ps, none, false, w.now⟩], next := t.next + 1 })
      ∧ (t.isStore = true → ∀ y more ps u, t.entries = y :: more → s.elemPieces .write d e.data i = .ok (ps, u) → u.cx.streams = s.cx.streams →
        ∃ z, runs (.aScat st b si m q) s z ∧ groupIssued (u.setCx (u.cx.setStream si (taken (s.cx.stream si)))) z st b m.toNat fun t =>
          { t with entries := more, stores := t.stores ++ [(⟨ps, none, false, u.now⟩, y)], next := t.next + 1, head := t.head + 1 }))
    ∧ (n ≠ 0 → t.st = .opened → dKind d = 1 ∨ dKind d = 2 → ∃ z : State, runs (.aPref st b n q) s (z.retire .a 1) ∧ z.cx = s.cx ∧ ∀ x, z.latest x = s.latest x)

/-- R249 to R254, R265, R269: m.set writes a shadow field; a starting instruction checks its command (Illegal when it fails), waits for its pipe, and
starts it with the next ticket of its timeline. m.wait waits until both pipes are idle and the row count has reached c[a], then answers the count; a
poisoned input since is a Poison trap (0x13), which clears the mark. Without the claim M stalls. -/
def Obligations.MatrixCommands : Prop :=
  ∀ (s : State),
    (s.cl.claim = some s.cur.ctx →
      (∀ (f : Shadow) (c : RegC) (imm : BitVec 11), runs (.mSet f c imm) s
        ((s.setCx { s.cx with shadow := mput s.cx.shadow f.code (BitVec.ofNat 16 ((s.cx.cr c + imm.signExtend 64).toNat % 2 ^ fieldBits f)) }).retire .m 1))
      ∧ (∀ (i : Instr) (f : Fields), commandOf s.cx i = some f →
        (s.cl.mu.pipe (pipeFor (fieldOf f .op)) ≠ none → runs i s s)
        ∧ (s.cl.mu.pipe (pipeFor (fieldOf f .op)) = none → s.cmdOk s.cur.cell s.cur.ctx f = false → runs i s (s.raise s.cur.cell s.cur.ctx .m whyIllegal 0 0))
        ∧ (s.cl.mu.pipe (pipeFor (fieldOf f .op)) = none → s.cmdOk s.cur.cell s.cur.ctx f = true →
            ∃ t : State, runs i s (t.retire .m 1) ∧ commandStarts s t f ∧ t.mem = s.mem))
      ∧ ∀ (d a : RegC), let m := s.cl.mu
        (m.pipeL ≠ none ∨ m.pipeC ≠ none ∨ m.rrc.toNat < (s.cx.cr a).toNat → runs (.mWait d a) s s)
        ∧ (m.pipeL = none → m.pipeC = none → (s.cx.cr a).toNat ≤ m.rrc.toNat →
          (s.cx.mpoison = false → runs (.mWait d a) s ((s.setCx (s.cx.setC d m.rrc)).retire .m 1))
          ∧ (s.cx.mpoison = true → runs (.mWait d a) s
              ((s.setCx { s.cx with mpoison := false }).raise s.cur.cell s.cur.ctx .m ⟨0x13, 6, 0xFF, 0, 0, 0⟩ 0 0))))
    ∧ (s.cl.claim ≠ some s.cur.ctx → (∀ f c imm, runs (.mSet f c imm) s s) ∧ (∀ i f, commandOf s.cx i = some f → runs i s s)
      ∧ ∀ d a, runs (.mWait d a) s s)

/-- R306: enx.tlread. Bits 15:0 of rs1 name the logical cell, 17:16 the context and 19:18 the timeline, and the others are ignored; rd receives DONE of the
timeline of that context of the hart's partition, or all ones for a logical cell outside the partition. It acquires nothing: nothing else changes but
the program counter. -/
def Obligations.HartTimelineRead : Prop :=
  ∀ (s : State) (rd rs1 : RegX), s.hx.moves = true →
    let l := ((s.hx.xr rs1).setWidth 16).toNat
    let c := ((s.hx.xr rs1).extractLsb' 16 2).toNat
    let k := ((s.hx.xr rs1).extractLsb' 18 2).toNat
    let e := (s.part s.hx.pid).resolve l
    ((e = none ∨ ∃ d, e = some d ∧ entKind d ≠ 1) → runs (.enxTlread rd rs1) s (gives s rd 0xFFFFFFFFFFFFFFFF))
    ∧ (∀ d, e = some d → entKind d = 1 → entEvict d = false → runs (.enxTlread rd rs1) s (gives s rd ((s.ctx (entCell d) c).doneOf k)))
    ∧ ∀ d m, e = some d → entKind d = 1 → entEvict d = true → s.imageOf s.hx.pid l = some m → runs (.enxTlread rd rs1) s (gives s rd (mget 0 (mget [] m.dones c) k))

/-- R299, R302, R307: enx.capset, enx.capclr and enx.capget
write, clear and read a capability register, and in U and VU mode are illegal (cause 2). The value of stval there is the model's choice (log 8). -/
def Sys2Proof.Claims.HartRegisters : Prop :=
  ∀ (s : State) (rd rs1 rs2 rs3 : RegX) (n : BitVec 3), s.hx.moves = true →
    (s.hx.mode = .u ∨ s.hx.mode = .vu → ∀ i ∈ [Instr.enxCapset n rs1 rs2 rs3, .enxCapclr n, .enxCapget rd rs1],
        runs i s (excepts s 2 (BitVec.ofNat 64 ((encode i).headD 0)) none))
    ∧ (s.hx.mode ≠ .u → s.hx.mode ≠ .vu →
      (∃ t, runs (.enxCapset n rs1 rs2 rs3) s t ∧ t.hx.pc = s.hx.pc + 4 ∧ (∀ k, k ≠ n.toNat → t.hx.cap k = s.hx.cap k) ∧ (∀ r, t.hx.xr r = s.hx.xr r)
        ∧ t.hx.cap n.toNat = ⟨s.hx.xr rs1, s.hx.xr rs2, if canonical (s.hx.xr rs1) then (s.hx.xr rs3).setWidth 4 else (s.hx.xr rs3).setWidth 4 &&& 7⟩)
      ∧ (∃ t, runs (.enxCapclr n) s t ∧ t.hx.pc = s.hx.pc + 4 ∧ t.hx.cap n.toNat = ⟨0, 0, 0⟩ ∧ ∀ k, k ≠ n.toNat → t.hx.cap k = s.hx.cap k)
      ∧ runs (.enxCapget rd rs1) s (gives s rd (let c := s.hx.cap ((s.hx.xr rs1).setWidth 3).toNat
          match ((s.hx.xr rs1).extractLsb' 3 2).toNat with
          | 0 => c.base
          | 1 => c.limit
          | 2 => c.perm.setWidth 64
          | _ => 0)))

/-- R148, R298 to R300, R303 to R305, R389: the accesses of harts. enx.send checks the image as a send does (cause 24 with the trap code) and waits for the
verdict with a slot taken; enx.fres, enx.fpoll and enx.fwait work on a future as fres, fpoll and fwait do, and fwait blocks its hart. A fetch, load, store,
AMO, LR, SC or fence of a base instruction, and a vector access element by element from vstart on, is performed at its home after its checks, in which a
capability that does not cover it raises cause 24 with code 0x28, and a poisoned load raises cause 5. A vector access that an element stops leaves that
element's number in vstart; a core without a partition reaches memory under Belvedere's key (R393, log 23). -/
def Sys2Proof.Claims.HartMemoryOperations : Prop :=
  ∀ (s : State) (rd rs1 rs2 rs3 : RegX), s.hx.moves = true →
    (∀ ls bs u, s.hartRead .read (s.hx.xr rs1) 64 64 = .ok (ls, bs, u) →
      let h := BitVec.ofNat 32 (bnat bs 0 4)
      let typ := (h.extractLsb' 24 8).toNat
      let ok := (u.part u.hx.pid).destOk (h.setWidth 16).toNat
      (0xF0 ≤ typ → runs (.enxSend rd rs1) s (excepts u 24 (s.hx.xr rs1) (some 0x23)))
      ∧ (typ < 0xF0 → ok = false → runs (.enxSend rd rs1) s (excepts u 24 (s.hx.xr rs1) (some 0x24)))
      ∧ (typ < 0xF0 → ok = true → 4 ≤ u.hx.out.length → runs (.enxSend rd rs1) s s)
      ∧ (typ < 0xF0 → ok = true → u.hx.out.length < 4 → ∃ (t : State) (f : Flight), runs (.enxSend rd rs1) s t ∧ t.flights = u.flights ++ [f]
        ∧ f.id = u.serial ∧ f.from_ = .hart s.cur.core ∧ t.hx.out = u.hx.out ++ [f.id] ∧ t.hx.sending = some (f.id, rd, s.hx.xr rs1)
        ∧ hDest (f.parcel.setWidth 64) = (h.setWidth 16).toNat ∧ hChan (f.parcel.setWidth 64) = (h.extractLsb' 16 8).toNat
        ∧ hType (f.parcel.setWidth 64) = typ ∧ hSrc (f.parcel.setWidth 64) = (0xFE00 + s.cur.core) % 65536
        ∧ hPart (f.parcel.setWidth 64) = u.hx.pid % 32 ∧ hF8m (f.parcel.setWidth 64) = u.hx.enxmode
        ∧ (vecBytes f.parcel).drop 8 = (bs.drop 8).take 56 ∧ t.hx.pc = u.hx.pc))
    ∧ (∀ fu u, s.hartFuture .read (s.hx.xr rs1) = .ok (fu, u) → runs (.enxFpoll rd rs1) s (gives u rd (BitVec.ofNat 64 fu.w0)))
    ∧ ((s.hx.xr rs1).toNat % 16 ≠ 0 → ∀ i ∈ [Instr.enxFpoll rd rs1, .enxFres rd rs1 rs2 rs3, .enxFwait rd rs1 rs2], runs i s (excepts s 6 (s.hx.xr rs1) none))
    ∧ (∀ fu u, s.hartFuture .readWrite (s.hx.xr rs1) = .ok (fu, u) → let va := s.hx.xr rs1
      let gen := nbits 2 14 fu.w0
      let slot := nbits 16 16 fu.w0
      let die := homeDie fu.loc
      let word := slot * 65536 + gen * 4 + 2
      (nbits 2 14 (s.hx.xr rs3).toNat ≠ gen → runs (.enxFres rd rs1 rs2 rs3) s (gives u rd 4))
      ∧ (nbits 2 14 (s.hx.xr rs2).toNat ≠ gen → runs (.enxFwait rd rs1 rs2) s (gives u rd 4))
      ∧ (u.liveSlot u.hx.pid fu = none →
        (nbits 2 14 (s.hx.xr rs3).toNat = gen → runs (.enxFres rd rs1 rs2 rs3) s (excepts u 24 va (some 0x22)))
        ∧ (nbits 2 14 (s.hx.xr rs2).toNat = gen → runs (.enxFwait rd rs1 rs2) s (excepts u 24 va (some 0x22))))
      ∧ (∀ x w dl q re inj, nbits 2 14 (s.hx.xr rs3).toNat = gen → u.liveSlot u.hx.pid fu = some x → x.kind = .future va w dl q re inj →
        (fu.w0 % 4 = 2 → runs (.enxFres rd rs1 rs2 rs3) s (excepts u 24 va (some 0x22)))
        ∧ (fu.w0 % 4 = 3 → runs (.enxFres rd rs1 rs2 rs3) s (gives u rd 3))
        ∧ (fu.w0 % 4 < 2 → q = none → u.slotPages (fu.loc.pa / 64) = [] → fu.loc.pa % 16 = 0 → ∃ t, runs (.enxFres rd rs1 rs2 rs3) s t
            ∧ t.hx.xr rd = 0 ∧ t.hx.pc = u.hx.pc + 4
            ∧ wroteBytes u t fu.loc.pa (leBytes 8 word ++ leBytes 8 (s.hx.xr rs2).toNat)
            ∧ t.slot die slot = some { x with kind := .future va .none none none re none }
            ∧ releases u t die slot u.hx.pid va word (s.hx.xr rs2).toNat 0 [w])
        ∧ (fu.w0 % 4 < 2 → ∀ z, q = some z → ∃ (t : State) (j : Inject), runs (.enxFres rd rs1 rs2 rs3) s t ∧ t.hx.pc = u.hx.pc + 4 ∧ j.queue = z
            ∧ j.src = some (s.hx.xr rs2) ∧ j.done = 0 ∧ j.wait_ = [w] ∧ t.slot die slot = some { x with kind := .future va .none none (some z) re (some j) }))
      ∧ ∀ x w dl q re inj, nbits 2 14 (s.hx.xr rs2).toNat = gen → u.liveSlot u.hx.pid fu = some x → x.kind = .future va w dl q re inj →
        let gone := fun (t : State) => t.hx.xr rd = (if rd = 0 then 0 else if fu.w0 % 4 = 2 then 1 else 2) ∧ t.hx.pc = u.hx.pc + 4 ∧ t.hx.wait_ = none
        let blocks := fun (t : State) (y : SlotKind) => t.hx.wait_ = some (die, slot, rd) ∧ t.hx.woken = none ∧ t.hx.pc = u.hx.pc
          ∧ t.slot die slot = some { x with kind := y }
        (fu.w0 % 4 = 1 → runs (.enxFwait rd rs1 rs2) s (excepts u 24 va (some 0x22)))
        ∧ (fu.w0 % 4 = 0 → ∃ t, runs (.enxFwait rd rs1 rs2) s t ∧ blocks t (.future va (.hart s.cur.core) dl q re inj)
            ∧ (u.slotPages (fu.loc.pa / 64) = [] → fu.loc.pa % 16 = 0 → wroteBytes u t fu.loc.pa (leBytes 8 (slot * 65536 + gen * 4 + 1))))
        ∧ (2 ≤ fu.w0 % 4 → (∀ j, inj = some j → j.wait_ = []) → ∃ t, runs (.enxFwait rd rs1 rs2) s t ∧ gone t)
        ∧ ∀ j, 2 ≤ fu.w0 % 4 → inj = some j → j.wait_ ≠ [] → ∃ t, runs (.enxFwait rd rs1 rs2) s t
            ∧ blocks t (.future va .none dl q re (some { j with wait_ := j.wait_ ++ [.hart s.cur.core] })))
    ∧ (∀ core die slot n, (s.hart core).wait_ = some (die, slot, rd) → (s.hart core).woken = some n → ∃ t, runs (.evHartWaiterRelease core) s t
        ∧ (t.hart core).xr rd = (if rd = 0 then 0 else BitVec.ofNat 64 n) ∧ (t.hart core).pc = (s.hart core).pc + 4 ∧ (t.hart core).wait_ = none)
    ∧ (∀ core die slot n, (s.hart core).wait_ = some (die, slot, rd) → (s.hart core).woken = some n → ∃ t, runs (.evFwaitInterruptWithdraw core) s t
        ∧ (t.hart core).xr rd = (if rd = 0 then 0 else BitVec.ofNat 64 n) ∧ (t.hart core).wait_ = none
        ∧ ((t.hart core).regsOf (t.hart core).mode).epc = (s.hart core).pc + 4 ∧ (t.hart core).mode.user = false)
    ∧ (∀ core die slot x va dl q re inj, (s.hart core).wait_ = some (die, slot, rd) → (s.hart core).woken = none → s.slot die slot = some x →
        x.kind = .future va (.hart core) dl q re inj → s.latestNat x.pa 8 % 4 = 1 → s.slotPages (x.pa / 64) = [] → x.pa % 16 = 0 →
        ∃ t, runs (.evFwaitInterruptWithdraw core) s t ∧ (t.hart core).wait_ = none ∧ t.slot die slot = some { x with kind := .future va .none dl q re inj }
          ∧ wroteBytes s t x.pa (leBytes 8 (slot % 65536 * 65536 + nbits 2 14 (s.latestNat x.pa 8) * 4))
          ∧ ((t.hart core).regsOf (t.hart core).mode).epc = (s.hart core).pc ∧ (t.hart core).mode.user = false)
    ∧ ∀ (acc : HartAcc), s.cur.core < 128 → hartSize acc.size = true →
      let va := acc.va
      let n := acc.size
      let i : Instr := .evHartMemoryAccess s.cur.core acc
      let bs := leBytes n acc.data.toNat
      let gets := fun (t : State) (v : Word) => t.hx.xr acc.rd = (if acc.rd = 0 then 0 else v) ∧ t.hx.pc = s.hx.pc
      let clean := fun (u : State) (ls : List (Loc × Nat)) => (placeLines ls).any u.poisoned = false ∧ u.placeStaged u.hx.pid StageSt.isFailed ls = false
      let plain := fun (u : State) (l : Loc) => l.pa % n = 0 ∧ u.slotPages (l.pa / 64) = []
      let unheld := fun (u : State) => (u.part u.hx.pid).fbhdr = 0 ∨ u.heldOf u.hx.pid = []
      let keyed := fun (u : State) (ls : List (Loc × Nat)) => u.hx.part ≠ none ∨ ∀ x ∈ placeLines ls, u.lineKey x = 0
      (∀ sg, acc.kind = .load sg ∨ acc.kind = .store → s.hx.capOk (if acc.kind = .store then .write else .read) va.toNat n = false →
        runs i s (excepts s 24 va (some 0x28)))
      ∧ (∀ sg ls u, acc.kind = .load sg → s.hartCheck .read va n 1 = .ok (ls, u) →
        (clean u ls → ∃ t, runs i s t ∧ gets t (loaded n sg (leNat ((u.underKey (placeLines ls)).placeBytes ls)))
          ∧ (∀ l, keyed u ls → ls = [(l, n)] → (u.underKey (placeLines ls)).placeBytes ls = bytesAt u l.pa n)
          ∧ ∀ x, t.latest x = u.latest x)
        ∧ (¬clean u ls → runs i s (excepts u 5 va none)))
      ∧ (∀ ls u, acc.kind = .fetch → s.hartCheck .fetch va n 2 = .ok (ls, u) → clean u ls → ∃ t, runs i s t ∧ t.hx = u.hx ∧ ∀ x, t.latest x = u.latest x)
      ∧ (∀ ls u, acc.kind = .store → s.hartCheck .write va n 1 = .ok (ls, u) → ∃ t, runs i s t ∧ t.hx = u.hx
          ∧ ∀ l, ls = [(l, n)] → plain u l → keyed u ls → wroteBytes u t l.pa bs)
      ∧ (∀ l u op, acc.kind = .amo op → 4 ≤ n → s.hartCheck .readWrite va n n = .ok ([(l, n)], u) → clean u [(l, n)] → plain u l → unheld u →
          keyed u [(l, n)] →
          ∃ t, runs i s t ∧ gets t (loaded n true (leNat (bytesAt u l.pa n)))
            ∧ wroteBytes u t l.pa (leBytes n (amoResult op (numAt u l.pa n) (acc.data.setWidth _)).toNat))
      ∧ (∀ l u, acc.kind = .lr → 4 ≤ n → s.hartCheck .read va n n = .ok ([(l, n)], u) → clean u [(l, n)] →
          keyed u [(l, n)] → ∃ t, runs i s t ∧ gets t (loaded n true (leNat (bytesAt u l.pa n))) ∧ mfind t.resvs s.cur.core = some (l.pa / 64) ∧ ∀ x, t.latest x = u.latest x)
      ∧ (∀ l u, acc.kind = .sc → 4 ≤ n → s.hartCheck .write va n n = .ok ([(l, n)], u) → plain u l → unheld u →
          keyed u [(l, n)] → (mfind u.resvs s.cur.core = some (l.pa / 64) → ∃ t, runs i s t ∧ gets t 0 ∧ mfind t.resvs s.cur.core = none ∧ wroteBytes u t l.pa bs)
          ∧ (mfind u.resvs s.cur.core ≠ some (l.pa / 64) → ∃ t, runs i s t ∧ gets t 1 ∧ mfind t.resvs s.cur.core = none ∧ ∀ x, t.latest x = u.latest x))
      ∧ (∀ k, acc.kind = .fence k → runs i s s)
      ∧ ∀ (st : Bool) (els : List VecEl), acc.kind = (if st then .vstore els else .vload els) →
        let todo := els.filter fun e => decide (s.hx.vstart ≤ e.num)
        let reg := fun (e : VecEl) => ((acc.rd + BitVec.ofNat 5 e.reg).toNat + e.num * n / 32) % 32
        let lo := fun (e : VecEl) => 8 * (e.num * n % 32)
        (∀ v, todo.foldl (vecStep st acc.rd n) (.ok s) = .ok v → runs i s (v.setHx { v.hx with vstart := 0 }))
        ∧ (∀ pre e post v x w, todo = pre ++ e :: post → pre.foldl (vecStep st acc.rd n) (.ok s) = .ok v → v.hartElem st acc.rd n e = .error (.exc x w) →
            runs i s (excepts (w.setHx { w.hx with vstart := e.num }) x.cause x.tval x.code))
        ∧ (∀ e, todo = [e] → e.active = false → runs i s (s.setHx { s.hx with vstart := 0 }))
        ∧ (∀ e ls u, st = false → todo = [e] → e.active = true → s.hartCheck .read e.va n 1 = .ok (ls, u) →
          (clean u ls → ∃ t, runs i s t ∧ t.hx.vstart = 0
            ∧ ((mget 0 t.hx.v (reg e)).extractLsb' (lo e) (8 * n)).toNat = leNat ((u.underKey (placeLines ls)).placeBytes ls)
            ∧ (∀ k < 256, k < lo e ∨ lo e + 8 * n ≤ k → (mget 0 t.hx.v (reg e)).getLsbD k = (mget 0 u.hx.v (reg e)).getLsbD k)
            ∧ ∀ r, r ≠ reg e → mget 0 t.hx.v r = mget 0 u.hx.v r)
          ∧ (¬clean u ls → runs i s (excepts (u.setHx { u.hx with vstart := e.num }) 5 e.va none)))
        ∧ ∀ e ls u l, st = true → todo = [e] → e.active = true → s.hartCheck .write e.va n 1 = .ok (ls, u) → ls = [(l, n)] → plain u l → keyed u ls →
            ∃ t, runs i s t ∧ t.hx.vstart = 0 ∧ wroteBytes u t l.pa (leBytes n ((mget 0 s.hx.v (reg e)).extractLsb' (lo e) (8 * n)).toNat)

/-! The device's own steps, first those of parcels, invocations, tasks, futures, launches, copies, streams and the matrix unit. -/

namespace Sys2Proof.Claims

/-- A context of a cell has, for a fetch in its mode, the line that holds slot p, which is b: from the instruction store, and then t is s, or fetched at
its home, which leaves t (R54). -/
def lineOf (s : State) (cell : Nat) (kmode : Bool) (p : Slot) (b : BitVec 256) (t : State) : Prop :=
  (∃ l, (s.cell cell).istoreHit kmode (lineSlot p) = some l ∧ l.bits = b ∧ t = s)
    ∨ ((s.cell cell).istoreHit kmode (lineSlot p) = none ∧ s.fetchLine cell kmode p = .ok (b, t))
/-- Flight f is no longer on its way, and its sender is sent a verdict, when it hears one (R13, R14). -/
def flightEnds (s t : State) (f : Flight) (status : Nat) : Prop :=
  t.flights = s.flights.filter (fun g => g.id != f.id)
    ∧ t.verdicts = s.verdicts ++ if (status = 0 ∨ status = 5) ∧ f.from_.hears = false then [] else [⟨f.id, f.sent, f.from_, f.src, status, f.told⟩]
/-- Flight f stays with another leg, deferred, with verdict 5 to a sender that has not had it (R16). -/
def flightDeferred (s t : State) (f : Flight) (leg : Leg) : Prop :=
  t.flights = s.flights.map (fun g => if g.id = f.id then { f with leg := leg, told := true } else g)
    ∧ t.verdicts = s.verdicts ++ if f.told = true ∨ f.from_.hears = false then [] else [⟨f.id, f.sent, f.from_, f.src, 5, f.told⟩]
/-- Channel c of a cell takes a parcel at the end of its mailbox, and Idle becomes Runnable (R20); where the mailbox region overlaps another region, the
parcels there are free values (R19). -/
def mailboxTakes (s t : State) (cell c : Nat) (p : Vec) : Prop :=
  let st := if (s.chan cell c).st = .idle then ChanSt.runnable else (s.chan cell c).st
  ((s.cell cell).mailClash c = false → t.chan cell c = { s.chan cell c with mailbox := (s.chan cell c).mailbox ++ [p], st := st }
      ∧ ∀ k, k ≠ c → t.chan cell k = s.chan cell k)
    ∧ ((s.cell cell).mailClash c = true → (t.chan cell c).mailbox.length = (s.chan cell c).mailbox.length + 1 ∧ (t.chan cell c).st = st)
/-- The tokens of a bucket at a device time (R358, R359): RATE per millisecond since its last refill, up to BURST. -/
def bucketAt (x : Filter) (time : Nat) : Nat :=
  min (x.entry.extractLsb' 48 16).toNat (x.tokens + ((x.entry.extractLsb' 64 32).toNat * (time - x.since) + x.part) / 1000000)

/-- An invocation has ended at a context (R24, R71, R108, R344): what it held is gone, its buffered stores are performed, and its channel is Runnable
or Idle. -/
def ended (s t : State) (cell ctx : Nat) : Prop :=
  let x := s.ctx cell ctx
  let y := t.ctx cell ctx
  y.st = (if y.trap = none ∧ y.esc = [] then .free else .trapPending) ∧ y.trap = x.trap ∧ y.streams = [] ∧ y.fifos = [] ∧ y.popped = [] ∧ y.sb = []
    ∧ y.ex.st = .notStarted ∧ y.ea.st = .notStarted ∧ y.em.st = .notStarted ∧ (t.cell cell).claim ≠ some ctx ∧ ctx ∉ (t.cell cell).claimQ
    ∧ (t.chan cell x.chan).st = if (s.chan cell x.chan).mailbox = [] then .idle else .runnable

/-- A task leaves its walk, and its sender's outbound slot frees (R15). -/
def taskLeaves (s u : State) (t : TaskFlight) : Prop :=
  u.tasks = s.tasks.filter (fun x => x.id != t.id)
    ∧ ∀ c, s.issuerCell t.issuer = some c → (u.ctx c t.issuer.ctx).out = (s.ctx c t.issuer.ctx).out.filter fun m => m != t.id
/-- A task is refused with a status (R278): a late refusal of its sender. -/
def taskRefused (s : State) (i : Instr) (t : TaskFlight) (status : Nat) : Prop :=
  ∃ u : State, taskLeaves s u t ∧ u.hypEvents = s.hypEvents ∧ runs i s (u.refusalTrap t.issuer status (parcelHdr t.parcel))
/-- Two positions of a grid of w columns and h rows that have a side in common. -/
def beside (w h l m : Nat) : Prop :=
  m < w * h ∧ ((m % w = l % w ∧ (m / w + 1 = l / w ∨ l / w + 1 = m / w)) ∨ (m / w = l / w ∧ (m % w + 1 = l % w ∨ l % w + 1 = m % w)))
/-- One step from a position towards a hint, along x first, then along y (R29). -/
def toward (w hint l : Nat) : Nat :=
  if l % w < hint % w then l + 1 else if hint % w < l % w then l - 1 else if l / w < hint / w then l + w else if hint / w < l / w then l - w else l
/-- The queue depth of the cell at position m that a task at position l goes by (R29, R31): what the cell at l heard from it last, 0 when it has heard
nothing (log 24); none where no cell stands at m. -/
def advertised (s : State) (pid l m : Nat) : Option Nat :=
  match (s.part pid).walkAt m, (s.part pid).walkAt l with
  | none, _ => none
  | some _, some (some c) => some (mget 0 (s.cell c).heard m)
  | some _, _ => some 0
/-- Where a walk goes next (R29, R357): one with ANY to the shallowest neighbour, ties to the lower number; another to the next cell on its way to its
hint, or to the hint. -/
def walksTo (s : State) (t : TaskFlight) (next : Nat) : Prop :=
  let p := s.part t.part
  (t.any = true →
    ((∀ m, beside p.gridW p.gridH t.at_ m → advertised s t.part t.at_ m = none) → next = t.at_)
    ∧ ((∃ m, beside p.gridW p.gridH t.at_ m ∧ advertised s t.part t.at_ m ≠ none) → beside p.gridW p.gridH t.at_ next ∧ ∃ d, advertised s t.part t.at_ next = some d
        ∧ ∀ m e, beside p.gridW p.gridH t.at_ m → advertised s t.part t.at_ m = some e → d < e ∨ (d = e ∧ next ≤ m)))
  ∧ (t.any = false → ∃ k, 0 < k ∧ next = (toward p.gridW t.hint)^[k] t.at_ ∧ (next = t.hint ∨ p.walkAt next ≠ none)
      ∧ ∀ j, 0 < j → j < k → (toward p.gridW t.hint)^[j] t.at_ ≠ t.hint ∧ p.walkAt ((toward p.gridW t.hint)^[j] t.at_) = none)

/-- k is the status that R49 gives a submission: that of the first failing check of its order, or 0. -/
def submitStatus (s : State) (pid : Nat) (a : Word) (user : Bool) (k : Nat) : Prop :=
  (a.toNat % 64 ≠ 0 ∧ k = 4)
    ∨ a.toNat % 64 = 0 ∧ ((∃ u, (s.devRead pid (!user) a 256 = (u, none) ∨ ∃ b, s.devRead pid (!user) a 256 = (u, some (b, true))) ∧ k = 4)
    ∨ ∃ u r, s.devRead pid (!user) a 256 = (u, some (r, false)) ∧ (
      let g := (s.part pid).gridW
      let headerOk := bnat r 0 2 = 1 ∧ bnat r 3 1 < 32 ∧ bnat r 4 4 = 0 ∧ bnat r 29 3 = 0 ∧ bnat r 96 32 = 0 ∧ bnat r 28 1 ≤ 2
        ∧ ∀ i < 8, levelClean (bnat r (32 + 8 * i) 8) = true
      let levels := 1 ≤ bnat r 2 1 ∧ bnat r 2 1 ≤ 8 ∧ levelsOk none ⟨bnat r 26 1, bnat r 27 1, 4⟩ (lrLevels r) = true
      let inside := (s.part pid).rectOk (bnat r 24 1) (bnat r 25 1) (bnat r 26 1) (bnat r 27 1) = true
      let code : Word := BitVec.ofNat 64 (bnat r 8 8)
      let htab : Word := BitVec.ofNat 64 (bnat r 16 8)
      (¬headerOk ∧ k = 1) ∨ headerOk ∧ ((¬levels ∧ k = 2) ∨ levels ∧ ((¬inside ∧ k = 3) ∨ inside ∧ (
        (code.toNat % 32 ≠ 0 ∨ htab.toNat % 32 ≠ 0) ∧ k = 4 ∨ code.toNat % 32 = 0 ∧ htab.toNat % 32 = 0 ∧ (
          ((∃ w, u.xlateDev pid (!user) .fetch code = .error w) ∧ k = 4) ∨ ∃ l v, u.xlateDev pid (!user) .fetch code = .ok (l, v) ∧ (
            ((∃ w, (v.devRead pid (!user) htab 2048 = (w, none) ∨ ∃ b, v.devRead pid (!user) htab 2048 = (w, some (b, true)))) ∧ k = 4)
            ∨ ∃ w h, v.devRead pid (!user) htab 2048 = (w, some (h, false)) ∧ (
              let entry := fun (c : Nat) => BitVec.ofNat 256 (bnat h (32 * c) 32)
              let invalid := ∃ c < 64, entInvalid (entry c) = true
              let kernel := user = true ∧ ∃ p ∈ lrRegion g r, ∃ c < 64, entBnd (entry c) = true ∧ (w.kchanAt pid p.1).getLsbD c = true
              let parcel := ∃ i < bnat r 28 1, w.lrParcelBad pid r (imageEntries h) i = true
              (invalid ∧ k = 6) ∨ ¬invalid ∧ ((kernel ∧ k = 7) ∨ ¬kernel ∧ ((parcel ∧ k = 5) ∨ ¬parcel ∧ k = 0))))))))))

/-- From s to u an entry is written over one piece of its stream by a context (R69, R105, R108, R145, R222, R389): the 4-byte words that its lane flags
name, into the cell store; as a release, at the home behind every older store; or into the store buffer. A store of a whole line or granule clears its
poison mark. -/
def pieceWritten (s u : State) (cell ctx : Nat) (ck rel : Bool) (p : Piece) (e : Entry) : Prop :=
  let sb := (s.ctx cell ctx).sb
  let gives := fun (y : Nat) (old : Byte) => if p.addr ≤ y ∧ y < p.addr + p.len ∧ e.lanes.getLsbD ((p.off + (y - p.addr)) / 4) = true
    then (vecBytes e.data).getD (p.off + (y - p.addr)) 0 else old
  let whole := p.addr % 64 = 0 ∧ p.off = 0 ∧ p.len = 64 ∧ e.lanes = 0xFFFF
  p.off + p.len ≤ 64 →
    (ck = true → (∀ y, mget 0 (u.cell cell).store y = gives y (mget 0 (s.cell cell).store y)) ∧ (∀ y, u.latest y = s.latest y)
      ∧ (whole → mget false (u.cell cell).cpoison (p.addr / 64) = false))
    ∧ (ck = false → rel = true → (∀ b ∈ sb, s.slotPages b.line = []) → (∀ y, p.addr ≤ y → y < p.addr + p.len → s.slotPages (y / 64) = []) →
      (u.ctx cell ctx).sb = [] ∧ (∀ y, u.latest y = gives y ((buffered sb y).getD (s.latest y))) ∧ (whole → u.poisoned (p.addr / 64) = false))
    ∧ (ck = false → rel = false → sb.length < 15 → (∀ y, u.latest y = s.latest y)
      ∧ ∀ y, (buffered (u.ctx cell ctx).sb y).getD (s.latest y) = gives y ((buffered sb y).getD (s.latest y)))

/-- The place of byte o of a copy on a side in memory (R116), and the cell and offset of a slab's byte (R118). -/
abbrev copyAt (c : Copy) (dst : Bool) (o : Nat) : Nat := (mapped (if dst then c.dstMap else c.srcMap) (cpAddr c.b dst o)).pa
abbrev slabAt (s : State) (c : Copy) (o : Nat) : Option Nat × Nat :=
  ((s.part c.part).cellAt (slabCell (s.part c.part).gridW c.b o).1, (slabCell (s.part c.part).gridW c.b o).2)
/-- Byte o of a copy reads as v at its source (R117): the coherent memory's, or a cell store's outside every mailbox region. -/
def copyReads (s : State) (c : Copy) (o : Nat) (v : Byte) : Prop :=
  if cpSslab c.b then ∀ k, (slabAt s c o).1 = some k → (s.cell k).mailHit (slabAt s c o).2 1 = false → v = mget 0 (s.cell k).store (slabAt s c o).2
  else v = s.latest (copyAt c false o)
/-- Byte o of a copy is poisoned at its source (R121, R125). -/
def copyBad (s : State) (c : Copy) (o : Nat) : Prop :=
  if cpSslab c.b then ∃ k, (slabAt s c o).1 = some k ∧ (s.cell k).storePoison (slabAt s c o).2 1 = true
  else s.poisoned (copyAt c false o / 64) = true ∨ ∃ n, s.stageAt c.part (copyAt c false o) = some (.failed n)

end Sys2Proof.Claims

/-- R53, R54, R73, R124, R168, R171, R173: LINE_FETCH gives an engine the line at its program counter, from the instruction store or from memory; a
fetch that faults raises its trap there, an illegal header is Illegal-line (0x02), and a line in a pending staging slot is waited for. An engine that
came to the line by a jump whose target could not be checked yet is checked now: at a wrong target it goes back to its branch, which has had no effect,
and raises Illegal-target (0x03) there (log 15). JOIN_RENDEZVOUS releases the engines once every engine with lanes in
the line has arrived and A's groups are performed. -/
def Obligations.LinesAndJoins : Prop :=
  (∀ (s : State) (cell ctx : Nat) (e : Eng), (s.ctx cell ctx).moves e = true → (s.ctx cell ctx).taken = none →
    let i : Instr := .evLineFetch cell ctx e
    let c := (s.ctx cell ctx).eng e
    let km := (s.ctx cell ctx).kmode
    (∀ l, c.line = some l → l.1 ≠ lineSlot c.pc) →
    (∀ b u, lineOf s cell km c.pc b u →
      let v := u.tileCame cell ctx e
      let c := (v.ctx cell ctx).eng e
      let wrong := fun (r : Unchecked) => lineSlot r.target = lineSlot c.pc ∧ ¬legalTarget b e r.target
      (∀ r, c.unchecked = some r → wrong r → ∃ w : State, runs i s (w.raise cell ctx e ⟨3, 6, 0xFF, slotAddr r.target, 0, 0⟩ 0 0)
        ∧ (w.ctx cell ctx).eng e = { c with pc := r.src, line := r.line, passed := r.passed, unchecked := none } ∧ w.mem = u.mem
        ∧ (∀ old, r.link = some old → (w.ctx cell ctx).gr 31 = old) ∧ ∀ x, x ≠ 31 ∨ r.link = none → (w.ctx cell ctx).gr x = (v.ctx cell ctx).gr x)
      ∧ ((∀ r, c.unchecked = some r → ¬wrong r) →
        (headerOk b = false → ∃ w : State, runs i s (w.raise cell ctx e ⟨2, 6, 0xFF, 0, 0, 0⟩ 0 0)
          ∧ (w.ctx cell ctx).eng e = { c with unchecked := none } ∧ w.mem = u.mem ∧ ∀ x, (w.ctx cell ctx).gr x = (v.ctx cell ctx).gr x)
        ∧ (headerOk b = true → ∃ t, runs i s t ∧ t.mem = u.mem ∧ (∀ x, (t.ctx cell ctx).gr x = (v.ctx cell ctx).gr x)
          ∧ (t.ctx cell ctx).eng e = { c with line := some (lineSlot c.pc, b), waited := none, unchecked := none })))
    ∧ (∀ u : State, ((u.ctx cell ctx).eng e).waited = none → u.tileCame cell ctx e = u)
    ∧ (∀ u : State, ((u.ctx cell ctx).eng e).waited ≠ none → ((u.tileCame cell ctx e).ctx cell ctx).eng e = { (u.ctx cell ctx).eng e with horizon := u.now })
    ∧ ((s.cell cell).istoreHit km (lineSlot c.pc) = none →
      (∀ w u, s.xlate cell km .fetch (slotAddr (lineSlot c.pc)) = .error (w, u) → runs i s (u.raise cell ctx e { w with acc := 0 } 0 0))
      ∧ ∀ l u, s.xlate cell km .fetch (slotAddr (lineSlot c.pc)) = .ok (l, u) →
        (u.stageAt (s.cell cell).tag l.pa = none → u.poisoned (l.pa / 64) = false → l.pa % 32 = 0 →
          ∃ v, lineOf s cell km c.pc (BitVec.ofNat 256 (leNat (bytesAt u l.pa 32))) v ∧ ∀ x, v.memByte x = u.memByte x)
        ∧ (u.stageAt (s.cell cell).tag l.pa = none → u.poisoned (l.pa / 64) = true →
          ∃ v : State, runs i s (v.raise cell ctx e ⟨0x13, 0, 0xFF, slotAddr (lineSlot c.pc), 0, 0⟩ 0 0))
        ∧ ∀ src step, u.stageAt (s.cell cell).tag l.pa = some (.pending src step) →
          ∃ t, runs i s t ∧ ((t.ctx cell ctx).eng e).waited = some l.pa ∧ ((t.ctx cell ctx).eng e).line = ((u.ctx cell ctx).eng e).line
            ∧ ((t.ctx cell ctx).eng e).pc = ((u.ctx cell ctx).eng e).pc))
  ∧ ∀ (s : State) (cell ctx : Nat) (l : Slot) (b : BitVec 256), (s.ctx cell ctx).taken = none →
    let x := s.ctx cell ctx
    let flying := x.ea.st = .running ∧ x.ea.joining = true ∧ (x.loadsFly = true ∨ x.storesFly = true)
    (∃ e, (x.eng e).joinsAt l = true) → (∀ e, (x.eng e).st = .running → (x.eng e).joining = true → (x.eng e).joinsAt l = true ∧ (x.eng e).line = some (l, b)) →
    ((∀ e, (firstLane b e 1).isSome = true → (x.eng e).joinsAt l = true) → ¬flying → ∃ t, runs (.evJoinRendezvous cell ctx) s t ∧ ∀ e, (t.ctx cell ctx).eng e =
      if (x.eng e).joinsAt l = true then { x.eng e with joining := false, passed := some l, horizon := s.now } else x.eng e)
    ∧ ((∃ e, (firstLane b e 1).isSome = true ∧ (x.eng e).joinsAt l = false) ∨ flying → runs (.evJoinRendezvous cell ctx) s s)

/-- R13 to R16, R20, R45, R273, R303, R355 to R359: a parcel at its destination. One that an earlier parcel of its lane holds back stays; behind deferred
ones it is deferred too; else the cell's channel answers, with its verdict. A deferred one tries again; gateways filter and forward; verdicts return. -/
def Obligations.ParcelDelivery : Prop :=
  (∀ (s : State) (n : Nat) (f : Flight), s.flights[n]? = some f → f.leg = .way →
    let i : Instr := .evParcelArrive n
    let h := parcelHdr f.parcel
    let r := (s.part f.part).resolve (hDest h)
    let lane := s.laneBefore n f
    ((∃ g ∈ lane, g.leg.blocks = true) → runs i s s)
    ∧ ((∀ g ∈ lane, g.leg.blocks = false) →
      (r = none ∨ (∃ e, r = some e ∧ (entKind e = 0 ∨ entKind e = 3)) →
        (lane = [] → ∃ t, runs i s t ∧ flightEnds s t f 4) ∧ (lane ≠ [] → runs i s s))
      ∧ (∀ e, r = some e → entKind e = 2 → (lane = [] → ∃ t, runs i s t
          ∧ t.flights = s.flights.map fun g => if g.id = f.id then { f with leg := .gateway } else g) ∧ (lane ≠ [] → runs i s s))
      ∧ (∀ e, r = some e → entKind e = 1 → entEvict e = true → ∃ t, runs i s t ∧ flightDeferred s t f .evicted)
      ∧ ∀ e, r = some e → entKind e = 1 → entEvict e = false →
        let cell := entCell e
        let k := s.cell cell
        let c := hChan h
        ((∃ g ∈ lane, g.leg ≠ .deferred cell c) → runs i s s)
        ∧ ((∀ g ∈ lane, g.leg = .deferred cell c) →
          (hPart h ≠ k.tag → ∃ t, runs i s t ∧ t.hypEvents = s.hypEvents ++ [.dropped h cell] ∧ t.cells = s.cells
            ∧ t.flights = (s.flights.filter fun g => g.id != f.id)
            ∧ t.verdicts = s.verdicts ++ if f.from_.software then [⟨f.id, f.sent, f.from_, f.src, 4, f.told⟩] else [])
          ∧ (hPart h = k.tag →
            (lane = [] → k.answer c (hType h) = 0 → ∃ t, runs i s t ∧ mailboxTakes s t cell c f.parcel ∧ flightEnds s t f 0)
            ∧ (lane = [] → k.answer c (hType h) = 2 ∨ k.answer c (hType h) = 3 →
                ∃ t, runs i s t ∧ flightEnds s t f (k.answer c (hType h)) ∧ t.cells = s.cells)
            ∧ (lane ≠ [] ∨ k.answer c (hType h) = 5 → ∃ t, runs i s t ∧ flightDeferred s t f (.deferred cell c)
                ∧ (t.chan cell c).deferred = (s.chan cell c).deferred ++ [f.id])))))
  ∧ (∀ (s : State) (cell c id : Nat) (rest : List Nat) (f : Flight), (s.chan cell c).deferred = id :: rest →
    s.flights.find? (fun f => f.id == id && f.leg == .deferred cell c) = some f →
    let i : Instr := .evDeferredParcelRetry cell c
    let ent := (s.chan cell c).entry
    let typ := hType (parcelHdr f.parcel)
    (entBound ent = false → ∃ t, runs i s t ∧ flightEnds s t f 3 ∧ (t.chan cell c).deferred = rest)
    ∧ (entBound ent = true → typ ≠ entType ent → ∃ t, runs i s t ∧ flightEnds s t f 2 ∧ (t.chan cell c).deferred = rest)
    ∧ (entBound ent = true → typ = entType ent → (s.chan cell c).mailbox.length < entMbd ent →
        ∃ t, runs i s t ∧ flightEnds s t f 0 ∧ (t.chan cell c).deferred = rest ∧ (t.chan cell c).mailbox.length = (s.chan cell c).mailbox.length + 1
          ∧ ((s.cell cell).mailClash c = false → (t.chan cell c).mailbox = (s.chan cell c).mailbox ++ [f.parcel]))
    ∧ (entBound ent = true → typ = entType ent → entMbd ent ≤ (s.chan cell c).mailbox.length → runs i s s))
  ∧ (∀ (s : State) (n : Nat) (f : Flight), s.flights[n]? = some f → f.leg = .gateway →
    let i : Instr := .evGatewayForward n
    let r := (s.part f.part).resolve (hDest (parcelHdr f.parcel))
    (r = none ∨ (∃ e, r = some e ∧ e.extractLsb' 30 2 ≠ 2) → ∃ t, runs i s t
        ∧ t.flights = s.flights.map fun g => if g.id = f.id then { f with leg := .way } else g)
    ∧ ∀ e, r = some e → e.extractLsb' 30 2 = 2 →
      let hit := s.filters.find? fun x => filterHit x.2.entry f.part (e.extractLsb' 16 5).toNat (hChan (parcelHdr f.parcel))
      (hit = none → ∃ t, runs i s t ∧ t.gwDrops = s.gwDrops + 1 ∧ flightEnds s t f 4)
      ∧ (∀ k x, hit = some (k, x) → bucketAt x s.time.toNat = 0 → ∃ t, runs i s t ∧ flightDeferred s t f .gateway)
      ∧ ∀ k x, hit = some (k, x) → bucketAt x s.time.toNat ≠ 0 → ∃ t p, runs i s t
          ∧ (mget Filter.reset t.filters k).entry = x.entry ∧ (mget Filter.reset t.filters k).tokens = bucketAt x s.time.toNat - 1
          ∧ t.flights = s.flights.map (fun g => if g.id = f.id then { f with parcel := p, part := (e.extractLsb' 16 5).toNat, leg := .way } else g)
          ∧ hDest (parcelHdr p) = (e.setWidth 16).toNat ∧ hSrc (parcelHdr p) = (x.entry.extractLsb' 32 16).toNat ∧ hPart (parcelHdr p) = (e.extractLsb' 16 5).toNat
          ∧ hChan (parcelHdr p) = hChan (parcelHdr f.parcel) ∧ hType (parcelHdr p) = hType (parcelHdr f.parcel) ∧ (vecBytes p).drop 8 = (vecBytes f.parcel).drop 8)
  ∧ (∀ (s : State) (n : Nat) (x : Filter), mfind s.filters n = some x → ∃ t, runs (.evFilterBucketRefill n) s t
      ∧ (mget Filter.reset t.filters n).entry = x.entry ∧ (mget Filter.reset t.filters n).tokens = bucketAt x s.time.toNat
      ∧ (mget Filter.reset t.filters n).since = s.time.toNat)
  ∧ (∀ (s : State) (n : Nat) (x : BitVec 128), n < 256 → ∃ t, runs (.evMessageFilterWrite n x) s t
      ∧ mget Filter.reset t.filters n = ⟨x, (x.extractLsb' 48 16).toNat, s.time.toNat, 0⟩)
  ∧ ∀ (s : State) (n : Nat) (v : Verdict), s.verdicts[n]? = some v →
    (∀ i cell, v.from_ = .ctx i ∨ (∃ k, v.from_ = .parked i k) → s.issuerCell i = some cell → s.issuerAway i = false → v.status = 0 →
      ∃ t, runs (.evVerdictReturn n) s t ∧ t.verdicts = s.verdicts.eraseIdx n ∧ (v.from_ = .ctx i → (t.ctx cell i.ctx).out = (s.ctx cell i.ctx).out.filter fun m => m != v.flight))
    ∧ (∀ i cell, v.from_ = .ctx i → s.issuerCell i = some cell → s.issuerAway i = false → v.status ≠ 0 → v.status ≠ 5 → s.stillRuns cell i = true →
      ∃ u : State, runs (.evVerdictReturn n) s (u.serviceTrap cell i.ctx (if v.status = 2 then 0x23 else 0x24) v.sent)
        ∧ (u.ctx cell i.ctx).out = (s.ctx cell i.ctx).out.filter fun m => m != v.flight)
    ∧ (∀ i cell r, v.from_ = .nb i → s.issuerCell i = some cell → s.issuerAway i = false → v.told = false → s.stillRuns cell i = true →
        (s.ctx cell i.ctx).pend.find? (fun e => e.1 == v.flight) = some (v.flight, r) →
      ∃ t, runs (.evVerdictReturn n) s t ∧ (t.ctx cell i.ctx).gr r = (if r = 0 then 0 else BitVec.ofNat 64 v.status)
        ∧ (t.ctx cell i.ctx).pend = (s.ctx cell i.ctx).pend.filter fun e => e.1 != v.flight)
    ∧ (∀ core rd va, v.from_ = .hart core → v.told = false → (s.hart core).sending = some (v.flight, rd, va) → v.status = 0 →
      ∃ t, runs (.evVerdictReturn n) s t ∧ (t.hart core).xr rd = 0 ∧ (t.hart core).pc = (s.hart core).pc + 4 ∧ (t.hart core).sending = none
        ∧ (t.hart core).out = (s.hart core).out.filter fun m => m != v.flight)
    ∧ ∀ a l c d k, v.from_ = .future a l c d k → v.status ≠ 0 → v.status ≠ 5 → runs (.evVerdictReturn n) s
      ({ s with verdicts := s.verdicts.eraseIdx n }.escalateDev v.part (if v.status = 2 then 0x23 else 0x24) l.toNat c.toNat a)

/-- R7, R20 to R27, R36, R50, R293, R339, R342, R361: a cell selects the parcel of a Runnable unmasked channel, and a free context starts its invocation; a dispatch whose entry line lies in a
pending staging slot waits, and LATE counts that read once (log 55); an invocation ends when its conditions hold, or at its watchdog limit, which sends a trap parcel to channel 63, or a record to the fault buffer when that channel takes none; a waiting trap parcel
enters its mailbox as it has room; a K-mode trap that is no service request ends the invocation and is recorded. -/
def Obligations.Invocations : Prop :=
  (∀ (k : Cell) (c top : Nat), k.choose = some (c, top) →
    let may := fun d => (k.chan d).st = .runnable ∧ entMsk (k.chan d).entry = false
    may c ∧ (k.chan c).level = top ∧ (∀ d < 64, may d → (k.chan d).level ≤ top)
      ∧ ∃ i < 64, c = (mget 63 k.rr top + 1 + i) % 64 ∧ ∀ j < i, let d := (mget 63 k.rr top + 1 + j) % 64
        ¬(may d ∧ (k.chan d).level = top))
  ∧ (∀ (s : State) (cell ctx c top pa : Nat), (s.cell cell).freeCtx = some ctx → (s.cell cell).choose = some (c, top) → (s.chan cell c).mailbox ≠ [] →
    (s.cell cell).select = true → s.entryPending cell c = some pa →
    ((s.chan cell c).waited = some pa → runs (.evChannelSelect cell) s s)
    ∧ ((s.chan cell c).waited ≠ some pa → runs (.evChannelSelect cell) s
        ((s.setChan cell c { s.chan cell c with waited := some pa }).countLate (s.cell cell).tag)))
  ∧ (∀ (s : State) (cell ctx c top : Nat) (p : Vec) (rest : List Vec), (s.cell cell).freeCtx = some ctx → (s.cell cell).choose = some (c, top) →
    (s.chan cell c).mailbox = p :: rest → (s.cell cell).select = true → s.entryPending cell c = none →
    let i : Instr := .evChannelSelect cell
    let h := parcelHdr p
    let ent := (s.chan cell c).entry
    let old := s.ctx cell ctx
    let wrongMode := 0x40 ≤ hType h ∧ hType h ≤ 0x7F ∧ hF8m h ≠ old.fmode
    ∃ t, (¬wrongMode → runs i s t) ∧ (wrongMode → runs i s (t.serviceTrap cell ctx 0x21 0))
      ∧ (t.chan cell c).mailbox = rest ∧ (t.chan cell c).st = .running ∧ (t.chan cell c).skip = 0 ∧ (t.chan cell c).boost = 0 ∧ mget 63 (t.cell cell).rr top = c
      ∧ (let x := t.ctx cell ctx
        x.st = .running ∧ x.chan = c ∧ x.phdr = h ∧ x.kmode = (s.cell cell).kchan.getLsbD c ∧ x.limit = (s.cell cell).wdlim ∧ x.wdcnt = 0 ∧ x.vr 0 = p
          ∧ x.gr 1 = h ∧ x.gr 2 = BitVec.ofNat 64 (if entAct ent then 64 * entAfb ent else 0) ∧ x.gr 3 = (s.cell cell).lcell.setWidth 64
          ∧ x.streams = [] ∧ x.fifos = [] ∧ x.ex.st = .running ∧ (entEntry ent % 8 = 0 → lineSlot x.ex.pc = BitVec.ofNat 55 (entEntry ent))
          ∧ x.xfid = (if hCmpl h then (p >>> 64).setWidth 16 else old.xfid)
          ∧ (∀ r, r ≠ 1 → r ≠ 2 → r ≠ 3 → x.gr r = 0 ∨ ∃ f ∈ old.files :: old.past, x.gr r = mget 0 f.g r.toNat)
          ∧ (∀ r, r ≠ 0 → x.vr r = 0 ∨ ∃ f ∈ old.files :: old.past, x.vr r = mget 0 f.v r.toNat)
          ∧ ∀ e k, k < 4 → x.loopOf e k = LoopC.reset ∨ ∃ f ∈ old.files :: old.past, x.loopOf e k = mget LoopC.reset f.loops (4 * engNo e + k)))
  ∧ (∀ (s : State) (cell : Nat), (s.cell cell).freeCtx = none ∨ (s.cell cell).choose = none ∨ (s.cell cell).select = false →
      runs (.evChannelSelect cell) s s)
  ∧ (∀ (s : State) (cell ctx : Nat), s.mayEnd cell ctx = true → ∃ t, runs (.evInvocationEnd cell ctx) s t ∧ ended s t cell ctx)
  ∧ (∀ (s : State) (cell ctx : Nat), (s.ctx cell ctx).st = .running → (s.ctx cell ctx).limit ≤ (s.ctx cell ctx).wdcnt →
    let i : Instr := .evWatchdogExpiry cell ctx
    runs i s (s.serviceTrap cell ctx 0x20 0)
    ∧ ((s.ctx cell ctx).kmode = false → (s.ctx cell ctx).chan ≠ 63 → (s.cell cell).takesTraps = true →
      ((s.chan cell 63).room = true → (s.cell cell).mailClash 63 = false → ∃ t p ms, runs i s t
        ∧ (t.chan cell 63).mailbox = ms ++ [p] ∧ ms.length = (s.chan cell 63).mailbox.length ∧ hType (parcelHdr p) = 0xFE ∧ hChan (parcelHdr p) = 63
        ∧ (vecBytes p).getD 8 0 = 0x20 ∧ (vecBytes p).getD 9 0 = BitVec.ofNat 8 ctx ∧ (vecBytes p).getD 10 0 = BitVec.ofNat 8 (s.ctx cell ctx).chan)
      ∧ ((s.chan cell 63).room = false → (s.ctx cell ctx).trap = none → ∃ t p, runs i s t
        ∧ (t.ctx cell ctx).trap = some p ∧ (t.ctx cell ctx).st = .trapPending ∧ hType (parcelHdr p) = 0xFE ∧ (vecBytes p).getD 8 0 = 0x20))
    ∧ ((s.ctx cell ctx).kmode = false → (s.ctx cell ctx).chan = 63 ∨ (s.cell cell).takesTraps = false →
      let u := s.endInvocation cell ctx true
      let x := s.ctx cell ctx
      let r := mkRecord 0x20 0 ctx x.chan (s.cell cell).lcell.toNat 6 0xFF 0 (x.ex.pc.setWidth 64) 0 x.phdr s.time 1 0
      ended s u cell ctx ∧ runs i s ((u.deliver (s.cell cell).tag r (State.holdEsc cell ctx r)).reRest cell ctx)
        ∧ ((s.part (s.cell cell).tag).fbhdr = 0 → ∃ t, runs i s t ∧ (t.ctx cell ctx).esc = (u.ctx cell ctx).esc ++ [r] ∧ (t.ctx cell ctx).st = .trapPending)))
  ∧ (∀ (s : State) (cell ctx : Nat) (p : Vec), (s.ctx cell ctx).trap = some p → (s.ctx cell ctx).esc = [] → (s.ctx cell ctx).st = .trapPending →
    (s.cell cell).takesTraps = true →
    ((s.chan cell 63).room = true → ∃ t, runs (.evPendingTrapRetry cell ctx) s t ∧ mailboxTakes s t cell 63 p ∧ (t.ctx cell ctx).trap = none ∧ (t.ctx cell ctx).st = .free)
    ∧ ((s.chan cell 63).room = false → runs (.evPendingTrapRetry cell ctx) s s))
  ∧ ∀ (s : State) (n : Nat) (f : HypFault), s.hypFaults[n]? = some f →
    (s.hypAway f = true → runs (.evKmodeTrap n) s s)
    ∧ (s.hypAway f = false → f.code ≠ 0x30 → ∃ t, runs (.evKmodeTrap n) s t ∧ t.hypFaults = s.hypFaults.eraseIdx n
      ∧ (t.part f.part).kevents = (s.part f.part).kevents ++ [f.code]
      ∧ (f.code.toNat < 0x20 ∨ 0x27 < f.code.toNat → (s.ctx f.cell f.ctx).st = .suspended → (s.ctx f.cell f.ctx).inv = f.inv →
          ((s.ctx f.cell f.ctx).eng f.eng).st = .faulted → ended s t f.cell f.ctx))

/-- R29 to R31, R35, R37 to R41, R277, R278, R357, R363: tasks on their walk and in the queues; the worklist's reductions, wake parcels, spill region and
balancing. A push moves the newest tasks that the neighbour accepts, at most 4 and at most half the difference, the oldest of them first (log 60);
the worklist's balancing moves the lowest keys. -/
def Obligations.TasksAndWorklist : Prop :=
  (∀ (s : State) (n : Nat) (t : TaskFlight), s.tasks[n]? = some t →
    let i : Instr := .evTaskParcelArrive n
    let p := s.part t.part
    let ends := t.atEnd p = true
    let goes := t.at_ < p.gridW * p.gridH → t.hint < p.gridW * p.gridH → ∃ u next, runs i s u ∧ walksTo s t next
        ∧ u.tasks = s.tasks.map fun x => if x.id = t.id then { t with at_ := next, steps := t.steps + 1 } else x
    let stays := ∃ u, runs i s u ∧ u.tasks = s.tasks.map fun x => if x.id = t.id then { t with waits := true } else x
    (s.issuerAway t.issuer = true → runs i s s)
    ∧ (s.issuerAway t.issuer = false →
      (p.walkAt t.at_ = none → (ends → taskRefused s i t 4) ∧ (¬ends → goes))
      ∧ (p.walkAt t.at_ = some none → (ends → stays) ∧ (¬ends → goes))
      ∧ ∀ cell, p.walkAt t.at_ = some (some cell) →
        let k := s.cell cell
        let c := hChan (parcelHdr t.parcel)
        let take := t.waits = false ∧ t.near p.gridW = true ∧ k.takesTask t.parcel = true
        (k.tag ≠ t.part → ∃ u : State, taskLeaves s u t ∧ u.hypEvents = s.hypEvents ++ [.dropped (parcelHdr t.parcel) cell]
          ∧ runs i s (u.refusalTrap t.issuer 4 (parcelHdr t.parcel)))
        ∧ (k.tag = t.part →
          (take → ∃ u, runs i s u ∧ mailboxTakes s u cell c (withDest t.parcel t.at_) ∧ taskLeaves s u t)
          ∧ (¬take → ends → k.accepts t.parcel = false → taskRefused s i t (if 63 < c ∨ entBound (k.chan c).entry = false then 3 else 2))
          ∧ (¬take → ends → k.accepts t.parcel = true →
            (k.taskq.length < 64 → ∃ u, runs i s u ∧ (u.cell cell).taskq = k.taskq ++ [t.parcel] ∧ taskLeaves s u t) ∧ (64 ≤ k.taskq.length → stays))
          ∧ (¬take → ¬ends → goes))))
  ∧ (∀ (s : State) (cell : Nat), (∀ n p, lfind (s.cell cell).takesTask (s.cell cell).taskq = some (n, p) → ∃ t, runs (.evTaskQueueToMailbox cell) s t
        ∧ (t.cell cell).taskq = (s.cell cell).taskq.eraseIdx n ∧ mailboxTakes s t cell (hChan (parcelHdr p)) (withDest p (s.cell cell).lcell.toNat))
      ∧ ((∀ p ∈ (s.cell cell).taskq, (s.cell cell).takesTask p = false) → runs (.evTaskQueueToMailbox cell) s s))
  ∧ (∀ (s : State) (cell : Nat), let k := s.cell cell
    let near := s.neighbours k.tag k.lcell.toNat
    (∃ t, runs (.evTaskBalanceInterval cell) s t ∧ (∀ n ∈ near, n.2 ≠ cell → mget 0 (t.cell n.2).heard k.lcell.toNat = k.taskq.length)
      ∧ ((∀ n ∈ near, n.2 ≠ cell ∧ k.taskq.length ≤ mget 0 k.heard n.1 + (s.part k.tag).threshold) → (t.cell cell).taskq = k.taskq ∧ t.transfers = s.transfers))
    ∧ ∀ l d, near = [(l, d)] → d ≠ cell → mget 0 k.heard l + (s.part k.tag).threshold < k.taskq.length →
      let m := (((k.taskq.filter (s.cell d).accepts).reverse).take (min 4 ((k.taskq.length - mget 0 k.heard l) / 2))).reverse
      ∃ t, runs (.evTaskBalanceInterval cell) s t ∧ t.transfers = s.transfers ++ (if m = [] then [] else [⟨k.tag, cell, d, m, []⟩])
        ∧ ((t.cell cell).taskq ++ m).Perm k.taskq ∧ (t.cell cell).taskq.Sublist k.taskq)
  ∧ (∀ (s : State) (n : Nat) (x : Transfer), s.transfers[n]? = some x →
    let k := s.cell x.dst
    let mine := x.tasks.filter fun p => decide (x.dst = x.from_) || k.accepts p
    let back := x.tasks.filter fun p => !(decide (x.dst = x.from_) || k.accepts p)
    let a := 64 - k.taskq.length
    let b := 256 - k.buckets.length
    (x.dst ∉ (s.part x.part).cellsOf → runs (.evBalanceTransferArrive n) s s)
    ∧ (x.dst ∈ (s.part x.part).cellsOf → k.tag ≠ x.part → ∃ t, runs (.evBalanceTransferArrive n) s t ∧ t.cells = s.cells
      ∧ t.hypEvents = s.hypEvents ++ x.tasks.map (fun p => .dropped (parcelHdr p) x.dst)
      ∧ t.transfers = s.transfers.take n ++ (if x.work = [] then [] else [{ x with tasks := [] }]) ++ s.transfers.drop (n + 1))
    ∧ (x.dst ∈ (s.part x.part).cellsOf → k.tag = x.part → ∃ t, runs (.evBalanceTransferArrive n) s t
      ∧ (t.cell x.dst).taskq = k.taskq ++ mine.take a ∧ (t.cell x.dst).buckets = k.buckets ++ x.work.take b
      ∧ t.transfers = s.transfers.take n ++ (if mine.drop a = [] ∧ x.work.drop b = [] then [] else [⟨x.part, x.from_, x.dst, mine.drop a, x.work.drop b⟩])
          ++ (if back = [] then [] else [⟨x.part, x.from_, x.from_, back, []⟩]) ++ s.transfers.drop (n + 1)))
  ∧ (∀ (s : State) (cell d l : Nat), s.neighbours (s.cell cell).tag (s.cell cell).lcell.toNat = [(l, d)] →
    let mine := (s.cell cell).eligibleCount
    let theirs := (s.cell d).eligibleCount
    (mine ≤ theirs + (s.part (s.cell cell).tag).threshold → runs (.evWorklistBalanceInterval cell) s s)
    ∧ (theirs + (s.part (s.cell cell).tag).threshold < mine → ∃ t m, runs (.evWorklistBalanceInterval cell) s t
        ∧ t.transfers = s.transfers ++ [⟨(s.cell cell).tag, cell, d, [], m⟩] ∧ m.length = min 4 ((mine - theirs) / 2)
        ∧ ((t.cell cell).buckets ++ m).Perm (s.cell cell).buckets ∧ ∀ x ∈ m, ∀ y ∈ (t.cell cell).buckets, x.key.toNat ≤ y.key.toNat))
  ∧ (∀ (s : State) (pid : Nat), let keys := s.floorKeys pid
    let p := s.part pid
    ∃ t, runs (.evWorklistReduction pid) s t ∧ (t.part pid).floor = (minOf keys).getD p.floor
      ∧ (∀ c ∈ p.cellsOf, (t.cell c).dview = p.delta ∧ (t.cell c).wview = p.wakeChan ∧ (t.cell c).fview = (minOf keys).getD p.floor)
      ∧ (keys ≠ [] ∨ p.pushes ≠ p.pops → (t.part pid).quiet = none)
      ∧ (keys = [] → p.pushes = p.pops → p.quiet = none → (t.part pid).quiet = some (s.cycle.toNat, p.pushes))
      ∧ ∀ cyc l c, keys = [] → p.pushes = p.pops → p.quiet = some (cyc, p.pushes) →
          cyc + 256 ≤ s.cycle.toNat → p.term = some (l, c) → p.epoch = true → (t.part pid).epoch = false ∧ ∃ f, t.flights = s.flights ++ [f]
            ∧ hType (parcelHdr f.parcel) = 0xFC ∧ hDest (parcelHdr f.parcel) = l.toNat ∧ hChan (parcelHdr f.parcel) = c % 64 ∧ f.from_ = .term l (BitVec.ofNat 8 (c % 64)))
  ∧ (∀ (s : State) (cell c : Nat), (s.cell cell).wview = some c → (s.cell cell).wake = false → (∃ t ∈ (s.cell cell).buckets, (s.cell cell).eligible t.key = true) →
      ∃ t f, runs (.evWakeParcel cell) s t ∧ (t.cell cell).wake = true ∧ t.flights = s.flights ++ [f] ∧ hType (parcelHdr f.parcel) = 0xFD
        ∧ hDest (parcelHdr f.parcel) = (s.cell cell).lcell.toNat ∧ hChan (parcelHdr f.parcel) = c % 64)
  ∧ ∀ (s : State) (cell n : Nat) (t : Task), lowestAt (s.cell cell).spill = some (n, t) → let k := s.cell cell
    (k.buckets.length < 256 → ∃ u, runs (.evSpillReturn cell) s u ∧ (u.cell cell).spill = k.spill.eraseIdx n ∧ (u.cell cell).buckets = k.buckets ++ [t])
    ∧ ∀ m v, 256 ≤ k.buckets.length → highestAt k.buckets = some (m, v) →
      (k.eligible t.key = true → k.eligible v.key = false → ∃ u, runs (.evSpillReturn cell) s u ∧ (u.cell cell).spill = k.spill.eraseIdx n ++ [v]
        ∧ (u.cell cell).buckets = k.buckets.eraseIdx m ++ [t])
      ∧ (k.eligible t.key = false ∨ k.eligible v.key = true → runs (.evSpillReturn cell) s s)

/-- R43 to R46, R48 to R51, R289: a deadline that has come times its future out, releasing its waiter or starting the injection of the template; an
injection copies what its ring has room for, then releases its waiters; a submission has the status of the first failing check, and an accepted
launch is queued; a launch waits until every channel that it binds is Unbound or Idle, and then, at one instant, writes its entries, prepares its
cells, launch areas among them, and sends its parcels (log 76). -/
def Obligations.FuturesAndLaunches : Prop :=
  (∀ (s : State) (die slot : Nat) (x : FSlot) (va : Word) (w : Waiter) (d : Nat) (q : Option Word) (re : Option (Word × Nat)) (inj : Option Inject),
    s.slot die slot = some x → x.kind = .future va w (some d) q re inj →
    let i : Instr := .evFutureDeadline die slot
    let w0 := s.latestNat x.pa 8
    let w1 := s.latestNat (x.pa + 8) 8
    let w0' := slot % 65536 * 65536 + nbits 2 14 w0 * 4 + 3
    (s.time.toNat < d ∨ 2 ≤ w0 % 4 → runs i s s)
    ∧ (d ≤ s.time.toNat → w0 % 4 < 2 → s.slotPages (x.pa / 64) = [] → x.pa % 16 = 0 →
      (q = none → ∃ t, runs i s t ∧ wroteBytes s t x.pa (leBytes 8 w0') ∧ releases s t die slot x.part va w0' w1 0 [w]
        ∧ t.slot die slot = some { x with kind := .future va .none none none re none })
      ∧ ∀ b u hd, q = some b → (s.putBytes x.pa (leBytes 8 w0')).devRead x.part false b 64 = (u, some (hd, false)) →
        ∃ t, runs i s t ∧ t.mem = u.mem ∧ t.flights = s.flights
          ∧ t.slot die slot = some { x with kind := .future va .none none (some b) re (some ⟨b, none, bnat hd 20 4, 0, [w]⟩) }))
  ∧ (∀ (s : State) (die slot : Nat) (x : FSlot) (va : Word) (w : Waiter) (dl : Option Nat) (q : Option Word) (re : Option (Word × Nat)) (j : Inject),
    s.slot die slot = some x → x.kind = .future va w dl q re (some j) →
    let i : Instr := .evTokenInjection die slot
    let holds := fun (t : State) (k : Inject) => t.slot die slot = some { x with kind := .future va w dl q re (some k) }
    let done := fun (u t : State) (n : Nat) => holds t { j with left := 0, done := n, wait_ := [] }
      ∧ releases u t die slot x.part va (s.latestNat x.pa 8) (s.latestNat (x.pa + 8) 8) n j.wait_
    (j.left = 0 → ∃ t, runs i s t ∧ done s t j.done)
    ∧ (j.left ≠ 0 →
      (∀ u, (s.devRead x.part false j.queue 64 = (u, none) ∨ ∃ b, s.devRead x.part false j.queue 64 = (u, some (b, true))) → ∃ t, runs i s t ∧ done u t j.done)
      ∧ ∀ u hd, s.devRead x.part false j.queue 64 = (u, some (hd, false)) →
        let cap := bnat hd 8 4
        let tail := bnat hd 16 4
        let used := (tail + 2 ^ 32 - bnat hd 12 4) % 2 ^ 32
        (∃ t n, runs i s t ∧ n ≤ min (cap - used) j.left ∧ (holds t { j with left := j.left - n, done := j.done + n } ∧ t.flights = s.flights ∧ n < j.left
          ∨ done u t (j.done + n)))
        ∧ (cap ≤ used → ∃ t, runs i s t ∧ holds t j ∧ t.flights = s.flights)
        ∧ (∀ v tok z, j.left = 1 → used < cap →
          (j.src = none ∧ v = u ∧ tok = bnat hd (24 + 4 * j.done) 4 ∨ (∃ buf b, j.src = some buf ∧ u.devRead x.part false (buf + BitVec.ofNat 64 (4 + 4 * j.done)) 4 = (v, some (b, false)) ∧ tok = leNat b)) →
          v.devWrite x.part false (BitVec.ofNat 64 (bnat hd 0 8 + 4 * (tail % cap))) (leBytes 4 tok) = (z, true) →
          ∃ t, runs i s t ∧ done z t (j.done + 1) ∧ t.mem = (z.devWrite x.part false (j.queue + 16) (leBytes 4 (tail + 1))).1.mem)
        ∧ ∀ zs : Nat → State, let m := min (cap - used) j.left
          zs 0 = u → (∀ k < m, ∃ v tok, (j.src = none ∧ v = zs k ∧ tok = bnat hd (24 + 4 * (j.done + k)) 4
              ∨ ∃ buf b, j.src = some buf ∧ (zs k).devRead x.part false (buf + BitVec.ofNat 64 (4 + 4 * (j.done + k))) 4 = (v, some (b, false)) ∧ tok = leNat b)
            ∧ v.devWrite x.part false (BitVec.ofNat 64 (bnat hd 0 8 + 4 * ((tail + k) % cap))) (leBytes 4 tok) = (zs (k + 1), true)) →
          ∃ t, runs i s t ∧ t.mem = ((zs m).devWrite x.part false (j.queue + 16) (leBytes 4 (tail + m))).1.mem
            ∧ (m < j.left → holds t { j with left := j.left - m, done := j.done + m } ∧ t.flights = s.flights) ∧ (m = j.left → done (zs m) t (j.done + m))))
  ∧ (∀ (s : State) (pid addr : Nat) (user : Bool), ∃ t k, runs (.evLaunchSubmit pid addr user) s t ∧ submitStatus s pid (BitVec.ofNat 64 addr) user k
      ∧ t.statuses = s.statuses ++ [(pid, BitVec.ofNat 64 addr, k)] ∧ (k ≠ 0 → t.launches = s.launches)
      ∧ (k = 0 → ∃ l u r, t.launches = s.launches ++ [l] ∧ s.devRead pid (!user) (BitVec.ofNat 64 addr) 256 = (u, some (r, false))
          ∧ l.part = pid ∧ l.rec_ = BitVec.ofNat 2048 (leNat r) ∧ l.fresh = true
          ∧ l.todo = (lrRegion (s.part pid).gridW r).flatMap fun c => l.image.map fun e => (c.1, e.1)))
  ∧ (∀ (g : Group3) (ls : List Level), levelsOk none g ls = true → ls.Pairwise (fun a b => b.dom < a.dom ∧ b.scope ≤ a.scope)
      ∧ ∀ l ∈ ls, leastScope l.dom ≤ l.scope ∧ l.ext ≠ 0 ∧ (5 ≤ l.dom → l.ext = 1))
  ∧ (∀ (s : State) (n : Nat) (l : Launch), s.launches[n]? = some l →
    let i : Instr := .evLaunchProceed n
    (l.fresh = true → (s.tokensReady l = false ∨ s.launchBehind l = true) → runs i s s)
    ∧ ((l.fresh = true → s.tokensReady l = true ∧ s.launchBehind l = false) →
      let place := fun (c : Nat × Nat) => ((s.part l.part).resolve c.1).map fun e => (entCell e, c.2)
      let busy := fun (c : Nat × Nat) => ∃ k d, place c = some (k, d) ∧ ((s.chan k d).st = .runnable ∨ (s.chan k d).st = .running)
      (∀ c ∈ l.todo, ∃ e, (s.part l.part).resolve c.1 = some e ∧ entKind e = 1 ∧ entEvict e = false) → (l.todo.map place).Nodup →
      ((∃ c ∈ l.todo, busy c) → runs i s { s with launches := s.launches.set n { l with fresh := false } })
      ∧ ∀ cs, (∀ c ∈ l.todo, ¬busy c) → s.launchCells l = some cs → (cs.map fun c => c.1).Nodup → ∃ t, runs i s t ∧ t.launches = s.launches.eraseIdx n
        ∧ (∀ c ∈ l.todo, ∀ k d, place c = some (k, d) → let e := mget 0 l.image c.2
            entEntry (t.chan k d).entry = (entEntry e + bnat l.record 8 8 / 4) % 2 ^ 55 ∧ (∀ b < 256, b < 64 ∨ 119 ≤ b → (t.chan k d).entry.getLsbD b = e.getLsbD b)
              ∧ (t.chan k d).skip = 0 ∧ (t.chan k d).boost = 0 ∧ (t.chan k d).st = if entBnd e then .idle else .unbound)
        ∧ adds s t ((List.range (bnat l.record 28 1)).map fun i => let h := bnat l.record (128 + 64 * i) 4
            mkParcel (mkHdr 0 false false (lrF8 l.record) l.part 0xFFFF (nbits 24 8 h) (nbits 16 8 h) (nbits 0 16 h)) ((bslice l.record (128 + 64 * i) 64).drop 8))
        ∧ ∀ c ∈ cs, (t.cell c.1).istore = [] ∧ (∀ k < 4, (t.ctx c.1 k).fmode = lrF8 l.record)
          ∧ let ix := (groupIndices ⟨bnat l.record 26 1, bnat l.record 27 1, 4⟩ c.2.2.1 c.2.2.2 (lrLevels l.record)).flatMap fun i => leBytes 2 i
            ∀ j < 288, mget 0 (t.cell c.1).store (0x5FEE0 + j) = if j < 32 then ix.getD j 0 else l.record.getD (j - 32) 0))

/-- R105 to R108, R114 to R121, R124, R265 to R267: a run of a copy is read and pushed: to its places in memory, or as landings that cover it, each with
the bytes of the run for one cell store; a slab's bytes land in their cell store and set the landed bit of a granule once all of the copy's bytes
in it have landed; a copy that is done sends its completion, and follow-on commands are accepted and started. -/
def Obligations.CopiesMove : Prop :=
  (∀ (s : State) (n off len : Nat) (c : Copy), s.copy n = some c →
    let i : Instr := .evCopyRunArrive n off len
    let fits := len ≠ 0 ∧ ∃ a z, (a, z) ∈ c.todo ∧ a ≤ off ∧ off + len ≤ z ∧ (a = off ∨ cutOk c.b off = true) ∧ (off + len = z ∨ cutOk c.b (off + len) = true)
    (¬fits ∨ s.copyAway c off len = true → runs i s s)
    ∧ (fits → s.copyAway c off len = false →
      (s.copyWaits c off len ≠ [] → ∃ t w, runs i s t ∧ (∀ x ∈ s.copyWaits c off len, x ∈ w) ∧ t.landings = s.landings
        ∧ t.copies = s.copies.map fun d => if d.id = c.id then { c with waited := w } else d)
      ∧ (s.copyWaits c off len = [] → ∃ t pz, runs i s t ∧ (pz = true ↔ c.poison = true ∨ ∃ j < len, copyBad s c (off + j))
        ∧ t.copies = s.copies.map (fun d => if d.id = c.id then { c with todo := carve c.todo off len, poison := pz } else d)
        ∧ (cpDslab c.b = true → (∀ x, t.latest x = s.latest x) ∧ ∃ ls, t.landings = s.landings ++ ls
          ∧ (∀ l ∈ ls, l.copy = c.id ∧ l.bytes ≠ [] ∧ off ≤ l.start ∧ l.start + l.bytes.length ≤ off + len ∧ (∀ j < l.bytes.length, copyReads s c (l.start + j) (l.bytes.getD j 0))
            ∧ (l.poison = true ↔ ∃ j < l.bytes.length, copyBad s c (l.start + j)))
          ∧ (cpBlk c.b % 64 = 0 → cpBlk c.b ≠ 0 → ∀ j < len, ∀ k, (slabAt s c (off + j)).1 = some k →
            ∃ l ∈ ls, l.cell = k ∧ l.start ≤ off + j ∧ off + j < l.start + l.bytes.length ∧ l.off + (off + j - l.start) = (slabAt s c (off + j)).2))
        ∧ (cpDslab c.b = false → t.landings = s.landings
          ∧ (∀ j < len, copyBad s c (off + j) → t.poisoned (copyAt c true (off + j) / 64) = true)
          ∧ ((∀ j < len, s.slotPages (copyAt c true (off + j) / 64) = []) → (∀ j < len, ∀ k < len, j ≠ k → copyAt c true (off + j) ≠ copyAt c true (off + k)) →
            (∀ x, (∀ j < len, x ≠ copyAt c true (off + j)) → t.latest x = s.latest x)
            ∧ (c.overlaps = false → ∀ j < len, copyReads s c (off + j) (t.latest (copyAt c true (off + j)))))))))
  ∧ (∀ (s : State) (n : Nat) (l : Landing), s.landings[n]? = some l → ∃ t, runs (.evSlabLanding n) s t
      ∧ t.landings = s.landings.eraseIdx n ∧ (∀ x, mget 0 (t.cell l.cell).store x = if l.off ≤ x ∧ x < l.off + l.bytes.length then l.bytes.getD (x - l.off) 0
          else mget 0 (s.cell l.cell).store x)
      ∧ (let whole := ∀ c, s.copy l.copy = some c → State.granuleLanded { s with landings := s.landings.eraseIdx n } c l.start = true
        (whole → mget false (t.cell l.cell).landed (l.off / 64) = true)
          ∧ (¬whole → mget false (t.cell l.cell).landed (l.off / 64) = mget false (s.cell l.cell).landed (l.off / 64)))
      ∧ (l.poison = true → mget false (t.cell l.cell).cpoison (l.off / 64) = true))
  ∧ (∀ (s : State) (n : Nat) (c : Copy), s.copy n = some c → c.todo = [] → c.accept = [] → (∀ l ∈ s.landings, l.copy ≠ n) → ∃ t, runs (.evCopyComplete n) s t
      ∧ t.copies = s.copies.filter (fun d => d.id != n)
      ∧ (s.outstanding c.issuer.cell c.issuer.ctx c.tl = [c.ticket] → c.tl < 4 → c.id = n → (s.copies.filter fun d => d.id == n).length = 1 →
          (t.ctx c.issuer.cell c.issuer.ctx).doneOf c.tl = (s.ctx c.issuer.cell c.issuer.ctx).issueOf c.tl)
      ∧ (cpCch c.b = 0xFF → t.flights = s.flights) ∧ (cpCch c.b ≠ 0xFF → ∃ f, t.flights = s.flights ++ [f] ∧ f.from_ = .copyDone c.issuer
          ∧ hType (parcelHdr f.parcel) = 0xFF ∧ hCmpl (parcelHdr f.parcel) = true ∧ hChan (parcelHdr f.parcel) = cpCch c.b))
  ∧ (∀ (s : State) (n : Nat) (c : Copy), s.copy n = some c → c.todo ≠ [] ∨ c.accept ≠ [] ∨ (∃ l ∈ s.landings, l.copy = n) → runs (.evCopyComplete n) s s)
  ∧ (∀ (s : State) (n cell : Nat) (c : Copy), s.copy n = some c → cell ∈ c.accept →
      let i : Instr := .evFollowOnAccept n cell
      let va : Word := BitVec.ofNat 64 (cpFollow c.b)
      let discards := ∃ t, runs i s t ∧ ∀ d ∈ t.copies, d.id = n → cell ∉ d.accept ∧ d.discard = true
      (s.devPending c.part va 32 ≠ [] → ∃ t, runs i s t ∧ ∀ d ∈ t.copies, d.id = n → d.accept = c.accept ∧ ∀ x ∈ s.devPending c.part va 32, x ∈ d.waited)
      ∧ (s.devPending c.part va 32 = [] →
        (∀ u, (s.devRead c.part false va 32 = (u, none) ∨ ∃ b, s.devRead c.part false va 32 = (u, some (b, true))) → discards)
        ∧ ∀ u b, s.devRead c.part false va 32 = (u, some (b, false)) →
          (blockClean b = false ∨ cmdStatic (fieldsOf b) = false → discards)
          ∧ (blockClean b = true → cmdStatic (fieldsOf b) = true → (s.cell cell).mu.followQ.length < 4 → ∃ t, runs i s t
              ∧ (t.cell cell).mu.followQ = (s.cell cell).mu.followQ ++ [⟨BitVec.ofNat 256 (leNat b), n⟩] ∧ ∀ d ∈ t.copies, d.id = n → cell ∉ d.accept)
          ∧ (blockClean b = true → cmdStatic (fieldsOf b) = true → 4 ≤ (s.cell cell).mu.followQ.length → runs i s u)))
  ∧ ∀ (s : State) (cell ctx : Nat) (q : Follow) (rest : List Follow), (s.cell cell).mu.followQ = q :: rest → (s.cell cell).claim = some ctx →
      let i : Instr := .evFollowOnStart cell
      (s.landedFor q.copy cell = false → runs i s s)
      ∧ (s.landedFor q.copy cell = true → (s.cell cell).mu.pipeL = none → (s.cell cell).mu.pipeC = none →
        let f := fieldsOf (leBytes 32 q.block.toNat)
        let u := s.setMu cell { (s.cell cell).mu with followQ := rest }
        (u.cmdOk cell ctx f = true → ∃ t c, runs i s t ∧ (t.cell cell).mu.followQ = rest
            ∧ (t.cell cell).mu.pipe (pipeFor (fieldOf f .op)) = some c ∧ c.fields = f ∧ c.rows = 0)
        ∧ (u.cmdOk cell ctx f = false → ∃ t, runs i s t ∧ (t.cell cell).mu.followQ = rest ∧ (t.cell cell).mu.pipeL = none ∧ (t.cell cell).mu.pipeC = none))

/-- R68 to R71, R105 to R109, R124, R130, R131, R134, R145, R243, R426: the oldest load group of a stream lands: its bytes are those its context sees,
from the cell store, at the homes when strong, else through the L1; it becomes an entry, or, of a stream closed since, nothing. A store group is
written: to the cell store, into the store buffer, or as a release behind every older store; a closing stream writes its entries so at the groups from NEXT
on (log 14), with the scale of their rows read (log 56), and a group that faults ends it with a record (R426, log 52). What a group waits for is log 22's
choice. A copy-landing stream takes a landed group with its row's
scale; a buffered entry that may leave is performed at its home; a line whose lease has ended leaves the L1. -/
def Obligations.StreamsMove : Prop :=
  (∀ (s : State) (cell ctx : Nat) (st : StreamNo) (f : Flying) (rest : List Flying), ((s.ctx cell ctx).stream st).loadsFly = f :: rest →
    let i : Instr := .evStreamGroupLand cell ctx st
    let x := s.ctx cell ctx
    let t := x.stream st
    let quietHits := fun (pa : Nat) => (s.cell cell).l1Hits s.cycle.toNat x.ea.horizon (pa / 64) = []
    (x.mustWait st f = true → runs i s s)
    ∧ (x.mustWait st f = false →
      (t.dropping ≠ [] → ∃ u, runs i s u ∧ (u.ctx cell ctx).stream st = { t with dropping := t.dropping.drop 1 } ∧ (f.acq = true → (u.ctx cell ctx).ea.horizon = s.now))
      ∧ (t.dropping = [] → ∃ u e, runs i s u ∧ (f.acq = true → (u.ctx cell ctx).ea.horizon = s.now) ∧ e.lanes = 0xFFFF
        ∧ (u.ctx cell ctx).stream st = { t with loads := t.loads.drop 1, entries := t.entries ++ [e], tail := t.tail + 1, rowScale := e.scale }
        ∧ (∀ p, f.group.pieces = [p] → p.off + p.len ≤ 64 → 0 < p.len →
          (f.cell = true → (s.cell cell).mailHit p.addr p.len = false →
            (∀ j < p.len, (vecBytes e.data).getD (p.off + j) 0 = mget 0 (s.cell cell).store (p.addr + j)) ∧ e.poison = (s.cell cell).storePoison p.addr p.len)
          ∧ (f.cell = false → (∀ b ∈ x.sb, s.slotPages b.line = []) → f.acq = true ∨ (∀ j < p.len, quietHits (p.addr + j)) →
            (∀ j < p.len, (vecBytes e.data).getD (p.off + j) 0 = (buffered x.sb (p.addr + j)).getD (s.latest (p.addr + j)))
            ∧ (x.sb = [] → (e.poison = true ↔ ∃ j < p.len, s.poisoned ((p.addr + j) / 64) = true))))
        ∧ (f.group.scale = none → e.scale = if f.group.carry then t.rowScale else .absent)
        ∧ (∀ pa pl, f.group.scale = some (pa, pl) → pa % 64 + 4 ≤ 64 → f.cell = true ∨ f.acq = true → x.sb = [] → quietHits pa →
            e.scale = if s.poisoned (pa / 64) then .bad else .word (BitVec.ofNat 32 (leNat (bytesAt s pa 4)))))))
  ∧ (∀ (s : State) (cell ctx : Nat) (st : StreamNo),
    let i : Instr := .evStoreGroupWritten cell ctx st
    let x := s.ctx cell ctx
    let t := x.stream st
    let ck := dCellKind t.desc
    let rel := dAcq t.desc && !ck
    (∀ g e rest, t.stores = (g, e) :: rest →
      (x.mustWait st ⟨ck, true, rel, g⟩ = true → runs i s s)
      ∧ (x.mustWait st ⟨ck, true, rel, g⟩ = false → ∃ u, runs i s u
        ∧ (u.ctx cell ctx).stream st = (if t.st = .closing ∧ rest = [] ∧ t.entries = [] then closedStream t else { t with stores := rest })
        ∧ ∀ p, g.pieces = [p] → pieceWritten s u cell ctx ck rel p e))
    ∧ (t.stores = [] → t.st ≠ .closing → runs i s s)
    ∧ ∀ e rest, t.stores = [] → t.st = .closing → t.entries = e :: rest →
      let a := groupAt t.desc t.next.toNat
      (∀ ps v, s.closePieces cell ctx t.desc a = .ok ((ps, true), v) → ∃ u, runs i s u ∧ (u.ctx cell ctx).stream st = { t with waiting := true })
      ∧ (∀ ps v, s.closePieces cell ctx t.desc a = .ok ((ps, false), v) → ∃ u, runs i s u ∧ (∀ p, ps = [p] → pieceWritten v u cell ctx ck rel p e)
          ∧ (rest ≠ [] → (u.ctx cell ctx).stream st = { t with entries := rest, head := t.head + 1, next := t.next + 1, waiting := false })
          ∧ (rest = [] → (u.ctx cell ctx).stream st = closedStream t))
      ∧ ∀ w v, s.closePieces cell ctx t.desc a = .error (w, v) → ∃ u, runs i s u ∧ (u.ctx cell ctx).stream st = closedStream t
          ∧ ((s.part (s.cell cell).tag).fbhdr = 0 → (u.ctx cell ctx).esc = x.esc ++ [mkRecord w.code 1 ctx x.chan (s.cell cell).lcell.toNat 4 w.level a.addr
              (x.ea.pc.setWidth 64) t.next.toNat x.phdr s.time 1 w.cause]))
  ∧ (∀ (s : State) (cell ctx : Nat) (st : StreamNo), let t := (s.ctx cell ctx).stream st
    let i : Instr := .evCopyLandingGroupIssue cell ctx st
    let a := groupAt t.desc t.issued
    let landed := ∀ g ∈ granules a.addr.toNat a.len, mget false (s.cell cell).landed g = true
    t.st = .opened → dKind t.desc = 5 → t.fill < dDepth t.desc → t.issued < dRows t.desc * dGroups t.desc →
    (¬landed → runs i s s)
    ∧ (landed → (s.cell cell).mailHit a.addr.toNat a.len = false →
      let takes := fun (sc : ScaleW) => ∃ u, runs i s u ∧ (u.ctx cell ctx).stream st = { t with
        issued := t.issued + 1, next := t.next + 1, tail := t.tail + 1, rowScale := sc, waiting := false
        entries := t.entries ++ [⟨vecOf ((s.cell cell).rawRead a.addr.toNat a.len), 0xFFFF, sc, (s.cell cell).storePoison a.addr.toNat a.len⟩] }
      (dScBase t.desc = 0 → takes .absent)
      ∧ (dScBase t.desc ≠ 0 → a.p ≠ 0 → takes t.rowScale)
      ∧ (dScBase t.desc ≠ 0 → a.p = 0 → (scaleVa t.desc a.row).toNat % 4 ≠ 0 → takes .bad)
      ∧ (dScBase t.desc ≠ 0 → a.p = 0 → (scaleVa t.desc a.row).toNat % 4 = 0 →
        (∀ w, s.xlateDev (s.cell cell).tag false .read (scaleVa t.desc a.row) = .error w → takes .bad)
        ∧ ∀ l v, s.xlateDev (s.cell cell).tag false .read (scaleVa t.desc a.row) = .ok (l, v) →
          (∀ n, v.stageAt (s.cell cell).tag l.pa = some (.failed n) → takes .bad)
          ∧ (∀ p n, v.stageAt (s.cell cell).tag l.pa = some (.pending p n) → ∃ u, runs i s u ∧ (u.ctx cell ctx).stream st = { t with waiting := true })
          ∧ (v.stageAt (s.cell cell).tag l.pa = none → l.pa % 4 = 0 → (s.ctx cell ctx).sb = [] → (s.cell cell).l1Hits s.cycle.toNat (s.ctx cell ctx).ea.horizon (l.pa / 64) = [] →
            takes (if v.poisoned (l.pa / 64) then .bad else .word (BitVec.ofNat 32 (leNat (bytesAt v l.pa 4))))))))
  ∧ (∀ (s : State) (cell ctx n : Nat) (e : SbLine), (s.ctx cell ctx).sb[n]? = some e →
    let i : Instr := .evStoreBufferDrain cell ctx n
    let may := ∀ f ∈ (s.ctx cell ctx).sb.take n, f.line ≠ e.line ∧ e.ord ≠ .rel ∧ (f.ord = .weak ∨ e.ord = .weak ∨ f.bank ≠ e.bank)
    (¬may → runs i s s)
    ∧ (may → s.slotPages e.line = [] → ∃ t, runs i s t ∧ (t.ctx cell ctx).sb = (s.ctx cell ctx).sb.erase e
      ∧ ∀ x, t.latest x = if x / 64 = e.line ∧ e.mask.getLsbD (x % 64) = true then (vecBytes e.data).getD (x % 64) 0 else s.latest x))
  ∧ ∀ (s : State) (cell n : Nat) (l : L1Line), (s.cell cell).l1[n]? = some l →
    (l.upto ≤ s.cycle.toNat → ∃ t, runs (.evL1LeaseExpiry cell n) s t ∧ (t.cell cell).l1 = (s.cell cell).l1.eraseIdx n ∧ t.mem = s.mem)
    ∧ (s.cycle.toNat < l.upto → runs (.evL1LeaseExpiry cell n) s s)

/-- R250, R256, R258 to R260, R265, R266, R269: a flip starts; a command that has done all it does leaves its pipe and reports; a broadcast row enters every
port of its patch row; a partial row is added at its owner. -/
def Obligations.MatrixUnit : Prop :=
  (∀ (s : State) (cell : Nat) (c : Cmd), (s.cell cell).mu.pipeC = some c → c.flipWait = true → c.waitO = false → ∃ t, runs (.evMatrixFlipStart cell) s t
      ∧ (t.cell cell).mu.apl = !(s.cell cell).mu.apl ∧ (t.cell cell).mu.pipeC = some { c with flipWait := false }
      ∧ (t.cell cell).mu.planes = (s.cell cell).mu.planes ∧ (t.cell cell).mu.acc = (s.cell cell).mu.acc)
  ∧ (∀ (s : State) (cell : Nat) (p : Pipe) (c : Cmd), (s.cell cell).mu.pipe p = some c → s.cmdDone cell c = true → ∃ t, runs (.evMatrixCommandComplete cell p) s t
      ∧ (t.cell cell).mu.pipe p = none ∧ (c.fld .op ≠ 7 → (t.cell cell).mu.acc = (s.cell cell).mu.acc)
      ∧ (c.fld .op = 7 → ∀ r n, r < c.rows → n < c.fld .shapeN → mget 0 (t.cell cell).mu.acc (128 * (c.fld .accBase + r) + n) = 0)
      ∧ (c.fld .doneChan < 64 → t.flights = s.flights)
      ∧ (64 ≤ c.fld .doneChan → c.fld .doneChan < 128 → ∃ f, t.flights = s.flights ++ [f] ∧ f.from_ = .cmdDone c.issuer ∧ hType (parcelHdr f.parcel) = 0xFF
        ∧ hCmpl (parcelHdr f.parcel) = true ∧ hChan (parcelHdr f.parcel) = c.fld .doneChan % 64
        ∧ (vecBytes f.parcel).getD 11 0 = (if c.poison then 1 else 0)))
  ∧ (∀ (s : State) (cell : Nat) (p : Pipe) (c : Cmd), (s.cell cell).mu.pipe p = some c → s.cmdDone cell c = false → runs (.evMatrixCommandComplete cell p) s s)
  ∧ (∀ (s : State) (cell : Nat) (c : Cmd) (r : BRow) (rest : List BRow), (s.cell cell).mu.pipeL = some c → (s.cell cell).mu.sending = r :: rest → s.patchAway cell c.fields = false →
      (s.patchRow cell c.fields).Nodup →
      ((∀ d ∈ s.patchRow cell c.fields, (s.cell d).mu.port.length < 2 ∧ ((s.cell d).mu.portBy = none ∨ (s.cell d).mu.portBy = some cell)) →
        ∃ t, runs (.evBroadcastRowArrive cell) s t ∧ (t.cell cell).mu.sending = rest ∧ ∀ d ∈ s.patchRow cell c.fields, (t.cell d).mu.port = (s.cell d).mu.port ++ [r])
      ∧ ((∃ d ∈ s.patchRow cell c.fields, 2 ≤ (s.cell d).mu.port.length) → runs (.evBroadcastRowArrive cell) s s))
  ∧ ∀ (s : State) (n : Nat) (q : Partial), s.partials[n]? = some q → ∃ t, runs (.evPartialRowAdd n) s t ∧ t.partials = s.partials.eraseIdx n
      ∧ (t.cell q.dst).mu.rrc = (s.cell q.dst).mu.rrc + 1 ∧ (t.cell q.dst).mu.planes = (s.cell q.dst).mu.planes
      ∧ (q.raise_ = false → ∀ i w, q.elems[i]? = some w → i < 128 → q.elems.length ≤ 128 → mget 0 (t.cell q.dst).mu.acc (128 * q.row + i)
          = BitVec.ofNat 32 (tAdd (Config.freeBits (s.free + i)).toNat (mget 0 (s.cell q.dst).mu.acc (128 * q.row + i)).toNat w.toNat))

/-! The device's steps for faults, translation, Belvedere, partitions, memory, the module, hosts and the network. -/

namespace Sys2Proof.Claims

/-- Two states whose coherent memory, partitions and poison marks are the same. -/
def sameMemory (s t : State) : Prop := (∀ x, t.latest x = s.latest x) ∧ t.parts = s.parts ∧ t.poison = s.poison

/-- Row i serves a K-mode sys whose function number is k (R360). -/
def serviceRow (n k : Nat) (i : Instr) : Prop :=
  (k, i) ∈ [(1, Instr.evServiceThreshold n), (2, .evServiceGrace n), (3, .evServiceSpillArea n), (4, .evServiceSchedule n), (5, .evServiceLaunch n),
    (6, .evServiceYield n)]

/-- The n-th K-mode trap is a sys whose context is not away in an eviction image (R360, R365). -/
def asks (s : State) (n : Nat) (f : HypFault) : Prop := s.hypFaults[n]? = some f ∧ f.code = 0x30 ∧ s.hypAway f = false

/-- Its 64-byte block at its argument is read in K mode, the context's stores performed before. l is the block's place, b its bytes and u the state with
the translation done. -/
def requests (s : State) (n : Nat) (f : HypFault) (l : Loc) (b : List Byte) (u : State) : Prop :=
  asks s n f ∧ f.arg.toNat % 64 = 0 ∧ (s.drainCtx f.cell f.ctx).xlateDev f.part true .readWrite f.arg = .ok (l, u) ∧ u.poisoned (l.pa / 64) = false
    ∧ u.placeStaged f.part StageSt.isFailed [(l, 64)] = false ∧ b = bytesAt u l.pa 64 ∧ l.pa % 64 = 0 ∧ u.slotPages (l.pa / 64) = []

/-- A request is answered: the trap is no longer queued, and when the invocation still waits its X runs on behind the sys with g[d] at the status (R345,
R360). -/
def answered (u t : State) (n : Nat) (f : HypFault) (status : Nat) : Prop :=
  let x := u.ctx f.cell f.ctx
  let y := t.ctx f.cell f.ctx
  t.hypFaults = u.hypFaults.eraseIdx n
    ∧ (u.hypLive f = true → f.eng = .x → x.ex.code = 0x30 → x.ex.held = none → x.taken = none →
      y.ex.st = .running ∧ y.ex.code = 0 ∧ y.ex.pc = slotAfter x.ex ∧ y.gr f.reg = (if f.reg = 0 then 0 else BitVec.ofNat 64 status)
        ∧ ∀ r, r ≠ f.reg → r ≠ x.sysd → y.gr r = x.gr r)

/-- The reply to a request whose block is readable: byte 1 of the block, and the answer. -/
def served (u t : State) (n : Nat) (f : HypFault) (l : Loc) (status byte : Nat) : Prop :=
  wroteBytes u t (l.pa + 1) (leBytes 1 byte) ∧ answered u t n f status

/-- A cell whose stores and registers are as scrub leaves them (R394). -/
def scrubbed (k : Cell) : Prop :=
  k.store = [] ∧ k.landed = [] ∧ k.cpoison = [] ∧ k.chans = [] ∧ k.taskq = [] ∧ k.buckets = [] ∧ k.spill = [] ∧ k.l1 = [] ∧ k.istore = [] ∧ k.itlb = []
    ∧ k.dtlb = [] ∧ k.mu = Matrix.reset ∧ k.claim = none ∧ k.claimQ = [] ∧ k.ctxs = [] ∧ k.wdlim = 0x1000000 ∧ k.lease = 1024 ∧ k.kchan = 0
    ∧ k.dpcnt = 0 ∧ k.wake = false ∧ k.rr = [] ∧ k.mseg = []

/-- Partition p has ended between s and t (R391 to R394; log 37): its cells are scrubbed and nobody's, its key is retired and its memory Belvedere's, and
nothing that it had under way is left, but what others still wait to hear of. -/
def finished (s t : State) (p : Nat) : Prop :=
  (p < 24 → ∀ c, (s.cell c).tag = p → (t.cell c).tag = 31 ∧ (t.cell c).lcell = 0xFFFF ∧ scrubbed (t.cell c))
    ∧ mget 0 t.keys p = mget 0 s.keys p + 1 ∧ (∀ b ∈ segBlocks (s.part p).seg, mget 0 t.gibs b = 0)
    ∧ (∀ x ∈ t.copies, x.part ≠ p) ∧ (∀ x ∈ t.tasks, x.part ≠ p) ∧ (∀ x ∈ t.transfers, x.part ≠ p) ∧ (∀ x ∈ t.launches, x.part ≠ p)
    ∧ (∀ x ∈ t.hypFaults, x.part ≠ p) ∧ (∀ d ∈ t.futs, ∀ x ∈ d.2, x.2.part ≠ p) ∧ (∀ d ∈ t.parks, ∀ q ∈ d.2, q.part ≠ p)
    ∧ (∀ f ∈ t.flights, f.part = p → f.leg = .way ∨ f.leg = .gateway ∨ f.leg = .image) ∧ ∀ e ∈ t.sets, ∀ o ∈ e.2.order, o.1 ≠ p

/-- Partitions other than those named go on between s and t: their state, table, segment and key stay, and so do their cells' tags, logical numbers,
channels and contexts. -/
def survives (s t : State) (gone : List Nat) : Prop :=
  (∀ q, q ∉ gone → (t.part q).st = (s.part q).st ∧ (t.part q).table = (s.part q).table ∧ (t.part q).seg = (s.part q).seg ∧ mget 0 t.keys q = mget 0 s.keys q)
    ∧ ∀ c, (∀ e ∈ s.cells, e.1 = c → e.2.tag ∉ gone) →
      (t.cell c).tag = (s.cell c).tag ∧ (t.cell c).lcell = (s.cell c).lcell ∧ (t.cell c).chans = (s.cell c).chans ∧ (t.cell c).ctxs = (s.cell c).ctxs

/-- No context of a cell holds an invocation. -/
def idleCell (k : Cell) : Prop := ∀ x ∈ k.ctxs, x.2.st ≠ .running ∧ x.2.st ≠ .suspended

/-- A host request that its queue has fetched: its operation and its request id (R403, R405). -/
def fetched (s : State) (fn : HostFn) (qi : Nat) (req : BitVec 512) (op : Nat) : Prop :=
  s.fetchable fn qi = true ∧ rqBad fn (vecBytes req) = false ∧ rqOp (vecBytes req) = op

/-- The alignment of the address of an operation (R405). -/
def rqSize (op : Nat) : Nat := if op = 2 then 64 else if op = 1 then 1 else 16
/-- What an operation does at its address. -/
def rqNeed (op : Nat) : Need := if op = 3 then .readWrite else .read

/-- A request under a V entry of the PASID table, at an aligned address that translates: l is its place, and u the state then (R405). -/
def located (s : State) (fn : HostFn) (qi : Nat) (req : BitVec 512) (op : Nat) (l : Loc) (u : State) : Prop :=
  fetched s fn qi req op ∧ (s.fn fn).hasPasid (rqPasid (vecBytes req)) = true ∧ (rqAddr (vecBytes req)).toNat % rqSize op = 0
    ∧ (s.fetchReq fn qi).hostLoc fn (rqNeed op) (rqAddr (vecBytes req)) = (u, some l)
/-- What is read there: the state after, the bytes, and whether one is poisoned. -/
def readAt (u : State) (fn : HostFn) (op : Nat) (l : Loc) : State × List Byte × Bool :=
  (u.allocIn (homeBank l) ((u.fn fn).part.getD 31)).homeRead l.pa (rqSize op)

/-- Snoops of the hosts' caches, which an access may send before anything else (R402). -/
def onlySnoops (m : List HostOut) : Prop := ∀ o ∈ m, (∃ p n, o = HostOut.biSnpData p n) ∨ ∃ p n, o = HostOut.biSnpInv p n

/-- The physical address of an offset of a window (R401, R374): below HSIZE in HBM, above it in LPDDR6. -/
def windowPa (g : Segment) (off : Nat) : Nat := if off < g.hsize then g.hbase + off else g.lbase + (off - g.hsize)

/-- The completion of a host request (R405): 16 bytes on the completion ring at QHEAD, which goes on by 1. -/
def completed (u t : State) (fn : HostFn) (qi : Nat) (rid status result : Nat) : Prop :=
  let q := (u.fn fn).queue qi
  ((t.fn fn).queue qi).qhead = (q.qhead + 1) % 65536 ∧ ((t.fn fn).queue qi).busy = none
    ∧ ∃ snoops more, onlySnoops snoops ∧ t.hostOut = u.hostOut ++ snoops ++ HostOut.write (q.cbase + BitVec.ofNat 64 (16 * (q.qhead % 2 ^ q.qlog)))
        (leBytes 2 rid ++ leBytes 1 status ++ zeros 5 ++ leBytes 8 result) :: more

/-- The entry of a level's table that an address selects (R369). -/
def tableIndex (va level : Nat) : Nat := if level = 4 then va / 2 ^ 48 % 512 else va / 2 ^ (9 * level + 12) % 512

/-- The walk of va comes from table t of a level, in one state, to table t' of a lower level, in another, by pointer entries alone: each is valid, grants
nothing and has no reserved bit (R369, R370). -/
inductive descends (pid : Nat) (g : Segment) (va : Nat) : State → Nat → Nat → State → Nat → Nat → Prop
  | here (s t l) : descends pid g va s t l s t l
  | down (s t l pa e u s' t' l') : s.readTable pid g (t + 8 * tableIndex va (l + 1)) (l + 1) = .ok ((pa, e), u) → nbits 0 1 e = 1 → nbits 1 11 e = 0 →
      nbits 52 12 e = 0 → descends pid g va u (nbits 12 40 e * 4096) l s' t' l' → descends pid g va s t (l + 1) s' t' l'

/-- The bytes of the pages of the seven size codes and the level of each (R371). -/
def pageSizes : List (Nat × Nat) :=
  [(0x1000, 0), (0x4000, 0), (0x10000, 0), (0x200000, 1), (0x2000000, 1), (0x40000000, 2), (0x400000000, 2)]

/-- A leaf entry of a level that is well formed, of a page of size bytes: no reserved bit, no write without read, its size one of its level, its
intermediate address aligned to it (R370, R371). -/
def leafOk (e level size : Nat) : Prop :=
  pageSizes[nbits 53 3 e]? = some (size, level) ∧ nbits 52 1 e = 0 ∧ nbits 7 5 e = 0 ∧ (nbits 2 1 e = 1 → nbits 1 1 e = 1) ∧ nbits 12 40 e * 4096 % size = 0

/-- A leaf grants a need (R372): R, W and X are bits 1 to 3, and U, which U mode needs, is bit 4. -/
def leafGrants (e : Nat) (need : Need) (kmode : Bool) : Prop :=
  (match need with
    | .fetch => nbits 3 1 e = 1
    | .read => nbits 1 1 e = 1
    | .write => nbits 2 1 e = 1
    | .readWrite => nbits 1 1 e = 1 ∧ nbits 2 1 e = 1)
  ∧ (kmode = true ∨ nbits 4 1 e = 1)

/-- An entry with A set, and D when the need includes write (R373): bits 5 and 6. -/
def markedEntry (e : Nat) (need : Need) : Nat :=
  e + (if nbits 5 1 e = 0 then 32 else 0) + if (need = .write ∨ need = .readWrite) ∧ nbits 6 1 e = 0 then 64 else 0

/-- What the walk of an address gives from the table that it came to (R369 to R374): the faults of the level's entry, with their causes; a leaf of a page of
HBM without placement, or of LPDDR6, translates, and its entry is marked. -/
def walkGives (s u : State) (pid : Nat) (cell : Option Nat) (kmode : Bool) (need : Need) (va : Word) (t level : Nat) : Prop :=
  let g := (s.part pid).seg
  let fails := fun (code l cause : Nat) => ∃ z, s.translate pid cell kmode need false va = .error (⟨code, 6, l, va, 0, cause⟩, z)
  let ia := t + 8 * tableIndex va.toNat level
  (stage2 g ia = none → fails 0x12 level 0)
  ∧ (∀ y, u.readTable pid g ia level = .error (⟨0x13, 6, 0xFF, 0, 0, 0⟩, y) → stage2 g ia ≠ none →
      s.translate pid cell kmode need false va = .error (⟨0x13, 6, 0xFF, va, 0, 0⟩, y))
  ∧ ∀ pa e y, u.readTable pid g ia level = .ok ((pa, e), y) →
    (nbits 0 1 e = 0 → fails 0x10 level 0)
    ∧ (nbits 0 1 e = 1 → nbits 1 3 e = 0 → level = 0 ∨ nbits 1 11 e ≠ 0 ∨ nbits 52 12 e ≠ 0 → fails 0x11 level 3)
    ∧ (nbits 0 1 e = 1 → nbits 1 3 e ≠ 0 →
      (3 ≤ level → fails 0x11 level 3)
      ∧ (level < 3 → (∀ size, ¬leafOk e level size) → fails 0x11 level 3)
      ∧ ∀ size, level < 3 → leafOk e level size →
        (¬leafGrants e need kmode → fails 0x11 level 2)
        ∧ (leafGrants e need kmode →
          let to_ := nbits 12 40 e * 4096 + va.toNat % size
          (stage2 g to_ = none → fails 0x12 5 0)
          ∧ ∀ b lodge, stage2 g to_ = some (b, lodge) → lodge = true ∨ nbits 56 2 e = 0 →
            ∃ (x : TlbE) (whole : Bool) (z : State), s.translate pid cell kmode need false va = .ok (.entry x whole, z)
              ∧ x.loc va = ⟨b, if lodge then .lodge else .interleave⟩ ∧ x.size = size ∧ x.perm = BitVec.ofNat 4 (nbits 1 4 e)
              ∧ (x.dirty = true ↔ nbits 6 1 e = 1 ∨ need = .write ∨ need = .readWrite)
              ∧ (markedEntry e need = e → z = y)
              ∧ (markedEntry e need ≠ e → pa % 8 = 0 → y.slotPages (pa / 64) = [] → wroteBytes y z pa (leBytes 8 (markedEntry e need)))))

/-- An entry of a layer schedule names a slot. -/
def names (e : SchedE) (k : Nat) : Prop := e.slot ≤ k ∧ k < e.slot + e.nt
/-- The first entry of the window from cur to cur + look, in step order, that names a slot: es is p, then it, then q, and its step is cur + i (R123). -/
def firstNaming (es : List SchedE) (cur look period k i : Nat) (p : List SchedE) (e : SchedE) (q : List SchedE) : Prop :=
  es = p ++ e :: q ∧ i ≤ look ∧ e.step = (cur + i) % period ∧ names e k ∧ (∀ x ∈ p, x.step = (cur + i) % period → ¬names x k)
    ∧ ∀ j < i, ∀ x ∈ es, x.step = (cur + j) % period → ¬names x k
/-- The source of tile j of an entry may be staged in some state that has the memory of w, or may not. -/
def tileIs (w : State) (pid : Nat) (e : SchedE) (j : Nat) (ok : Bool) : Prop :=
  ∃ v : State, sameMemory w v ∧ (v.tileOk pid (e.src + BitVec.ofNat 64 (8192 * j))).2 = ok

end Sys2Proof.Claims

/-- R101, R122 to R125, R369 to R374, R378 to R380, R383: walks, prefetchers, the fault buffer and the stager. A walk goes down the five levels by pointer
entries, and gives the fault of the entry that it comes to, with its level and cause, or the place under the leaf, with A and D set in it; a TABLE_WALK
is the translation of a cell, which walks where no TLB serves. A prefetch that faults or stops at a leaf with A = 0 counts in dpcnt; it is checked under
the U column (log 33). A valid header makes the stager meet the entries of its window in
step order: a slot that still holds a tile of the window keeps it; any other takes the tile of the first entry that names it, pending, or failed
when the entry's source faults. A pending tile is staged when no tile of an earlier step is pending. -/
def Obligations.DeviceTranslationAndFaults : Prop :=
  (∀ (s t : State) (cell : Nat) (va : BitVec 64) (need : Need) (k : Bool) (l : Loc), s.xlate cell k need va = .ok (l, t) → runs (.evTableWalk cell va need k) s t)
  ∧ (∀ (s t : State) (cell : Nat) (va : BitVec 64) (need : Need) (k : Bool) (w : Why), s.xlate cell k need va = .error (w, t) → runs (.evTableWalk cell va need k) s t)
  ∧ (∀ (s : State) (pid : Nat) (cell : Option Nat) (kmode : Bool) (need : Need) (va : Word), let p := s.part pid
      p.s1olds = [] → p.ploldl = [] →
      ((va.setWidth 57).signExtend 64 ≠ va → s.translate pid cell kmode need false va = .error (⟨0x11, 6, 4, va, 0, 1⟩, s))
      ∧ ((va.setWidth 57).signExtend 64 = va →
        (nbits 12 40 p.s1root.toNat = 0 → s.translate pid cell kmode need false va = .error (⟨0x10, 6, 4, va, 0, 0⟩, s))
        ∧ (nbits 12 40 p.s1root.toNat ≠ 0 → ∀ u t level, descends pid p.seg va.toNat s (nbits 12 40 p.s1root.toNat * 4096) 4 u t level →
            walkGives s u pid cell kmode need va t level)))
  ∧ (∀ (s : State) (pid ia level : Nat) (g : Segment) (b : Nat) (lodge : Bool), stage2 g ia = some (b, lodge) →
      (s.poisoned (b / 64) = true → ∃ u, s.readTable pid g ia level = .error (⟨0x13, 6, 0xFF, 0, 0, 0⟩, u))
      ∧ (s.poisoned (b / 64) = false → ∃ u, s.readTable pid g ia level = .ok ((b, s.latestNat b 8), u) ∧ ∀ x, u.latest x = s.latest x))
  ∧ (∀ (s : State) (cell : Nat) (kmode : Bool) (need : Need) (va : Word), let k := s.cell cell
      (∀ e ∈ (if need = .fetch then k.itlb else k.dtlb) ++ mget [] s.l2tlbs (tlbGroup cell), e.serves k.tag need va = false) →
      (va.setWidth 57).signExtend 64 = va →
      (∀ w u, s.translate k.tag (some cell) kmode need false va = .error (w, u) → s.xlate cell kmode need va = .error (w, u))
      ∧ ∀ e whole u, s.translate k.tag (some cell) kmode need false va = .ok (.entry e whole, u) →
          ∃ v, s.xlate cell kmode need va = .ok (e.loc va, v) ∧ v.mem = u.mem ∧ v.parts = u.parts)
  ∧ (∀ (s : State) (cell : Nat) (va : BitVec 64), ∃ t, runs (.evPrefetcherAccess cell va) s t ∧ (∀ x, t.latest x = s.latest x)
      ∧ (∀ w u, s.translate (s.cell cell).tag (some cell) false .read true va = .error (w, u) → (t.cell cell).dpcnt = satInc (s.cell cell).dpcnt)
      ∧ ∀ u, s.translate (s.cell cell).tag (some cell) false .read true va = .ok (.stopped, u) → (t.cell cell).dpcnt = satInc (s.cell cell).dpcnt)
  ∧ (∀ (s : State) (pid : Nat), s.heldOf pid = [] → runs (.evHeldFaultReraise pid) s s)
  ∧ (∀ (s v : State) (pid : Nat) (h : HeldAt) (r : Record), s.oldestHeld pid = some (h, r) →
      (s.fbHeader pid = (v, none) → runs (.evHeldFaultReraise pid) s v)
      ∧ ∀ hd u, s.fbHeader pid = (v, some hd) →
        (v.ringPut pid hd r true = (u, false) → runs (.evHeldFaultReraise pid) s u)
        ∧ (v.ringPut pid hd r true = (u, true) → s.heldOf pid = [(h, r)] → runs (.evHeldFaultReraise pid) s (u.dropHeld pid h)))
  ∧ (∀ (s : State) (pid : Nat) (w : BitVec 64), ∃ t, runs (.evFbhdrWrite pid w) s t ∧ (t.part pid).fbhdr = w &&& ~~~63)
  ∧ (∀ (s : State) (pid : Nat), (s.part pid).sched = none → runs (.evStagerCurRead pid) s s)
  ∧ (∀ (s : State) (pid : Nat) (g : Stager), (s.part pid).sched = some g →
      let bad := ∃ t, runs (.evStagerCurRead pid) s t ∧ ∃ g', (t.part pid).sched = some g' ∧ g'.hdr = g.hdr ∧ g'.bad = true ∧ g'.slots = [] ∧ g'.pages = []
      (∀ u, s.readSched pid g.hdr 64 = (u, none) → runs (.evStagerCurRead pid) s u)
      ∧ ∀ u h v first, s.readSched pid g.hdr 64 = (u, some h) → u.slotOk pid (BitVec.ofNat 64 (bnat h 16 8)) = (v, first) →
        let cur := bnat h 32 8
        let look := bnat h 12 1
        let period := bnat h 28 4
        let nslot := bnat h 24 4
        (schedOk h = false ∨ first = false → bad)
        ∧ (schedOk h = true → first = true → ∀ w,
          (v.readSched pid (BitVec.ofNat 64 (bnat h 0 8)) (32 * bnat h 8 4) = (w, none) → runs (.evStagerCurRead pid) s w)
          ∧ ∀ eb, v.readSched pid (BitVec.ofNat 64 (bnat h 0 8)) (32 * bnat h 8 4) = (w, some eb) →
            let raw := (List.range (bnat h 8 4)).map fun i => (eb.drop (32 * i)).take 32
            let es := raw.map schedEntry
            ((∃ b ∈ raw, schedEntryOk b period nslot = false) ∨ stepsRise es = false → bad)
            ∧ ((∀ b ∈ raw, schedEntryOk b period nslot = true) → stepsRise es = true →
              let w' := if bnat h 13 1 = 0 then w else w.putSched pid (g.hdr + 13) (leBytes 1 0)
              ∃ t g', runs (.evStagerCurRead pid) s t ∧ (t.part pid).sched = some g' ∧ g'.hdr = g.hdr ∧ g'.bad = false ∧ g'.nslot = nslot
                ∧ g'.stage = BitVec.ofNat 64 (bnat h 16 8)
                ∧ ∀ k, let old := mfind (g.slots.filter fun x => keepSlot cur x.2) k
                  (∀ x, old = some x → cur ≤ x.step → mfind g'.slots k = some x)
                  ∧ ((∀ x, old = some x → x.step < cur) →
                    (∀ i p e q, firstNaming es cur look period k i p e q →
                      (mfind g'.slots k = some (.pending (e.src.toNat + 8192 * (k - e.slot)) (cur + i)) ∧ ∀ j < e.nt, tileIs w' pid e j true)
                        ∨ (mfind g'.slots k = some (.failed (cur + i)) ∧ ∃ j < e.nt, tileIs w' pid e j false))
                    ∧ ((∀ i ≤ look, ∀ e ∈ es, e.step = (cur + i) % period → ¬names e k) →
                      mfind g'.slots k = old)))))
  ∧ ∀ (s : State) (pid slot src step : Nat) (g : Stager), (s.part pid).sched = some g → mfind g.slots slot = some (.pending src step) →
    let ends := fun (x : StageSt) => ∃ t g', runs (.evStagerTileReady pid slot) s t ∧ (t.part pid).sched = some g' ∧ mfind g'.slots slot = some x
    ((∃ e ∈ g.slots, e.2.isPending = true ∧ e.2.step < step) → runs (.evStagerTileReady pid slot) s s)
    ∧ ((∀ e ∈ g.slots, e.2.isPending = true → step ≤ e.2.step) →
      (∀ u, s.tilePlaces pid (BitVec.ofNat 64 src) = (u, none) → ends (.failed step))
      ∧ ∀ u ls, s.tilePlaces pid (BitVec.ofNat 64 src) = (u, some ls) →
        ((∃ x ∈ placeLines ls, u.poisoned x = true) → ends (.failed step))
        ∧ ((∀ x ∈ placeLines ls, u.poisoned x = false) →
          let v := (placeLines ls).foldl State.snoopRead u
          ends (if (v.stageTile pid (g.slotVa slot) (v.placeBytes ls)).2 then .ready step else .failed step)))

/-- R360: the six service requests of a K-mode sys. An unknown function is answered with status 1; a block that is misaligned, faults, or holds poison with
status 4. -/
def Obligations.Services : Prop :=
  (∀ (s : State) (n : Nat) (k : Nat) (i : Instr), serviceRow n k i →
    (s.hypFaults[n]? = none → runs i s s)
    ∧ (∀ f, s.hypFaults[n]? = some f → s.hypAway f = true ∨ f.code ≠ 0x30 → runs i s s)
    ∧ ∀ f, asks s n f → ∀ j ∈ [i, Instr.evKmodeTrap n],
      (f.arg.toNat % 64 ≠ 0 → ∃ t, runs j s t ∧ answered s t n f 4)
      ∧ (f.arg.toNat % 64 = 0 →
        (∀ w u, (s.drainCtx f.cell f.ctx).xlateDev f.part true .readWrite f.arg = .error (w, u) → ∃ t, runs j s t ∧ answered u t n f 4)
        ∧ ∀ l u, (s.drainCtx f.cell f.ctx).xlateDev f.part true .readWrite f.arg = .ok (l, u) →
            u.poisoned (l.pa / 64) = true ∨ u.placeStaged f.part StageSt.isFailed [(l, 64)] = true → ∃ t, runs j s t ∧ answered u t n f 4))
  ∧ ∀ (s : State) (n : Nat) (f : HypFault) (l : Loc) (b : List Byte) (u : State), requests s n f l b u →
    (serviceArgs (bnat b 0 1) = none → ∃ t, runs (.evKmodeTrap n) s t ∧ served u t n f l 1 1)
    ∧ (∀ k i, serviceRow n k i → bnat b 0 1 ≠ k → runs i s s)
    ∧ (∀ i a, serviceRow n (bnat b 0 1) i → serviceArgs (bnat b 0 1) = some a → serviceClean b a = false → ∃ t, runs i s t ∧ served u t n f l 1 1)
    ∧ (bnat b 0 1 = 1 → serviceClean b (8, 1) = true →
      (1 ≤ bnat b 8 1 → bnat b 8 1 ≤ 15 → ∃ t, runs (.evServiceThreshold n) s t ∧ (t.part f.part).threshold = bnat b 8 1 ∧ served u t n f l 0 0)
      ∧ (bnat b 8 1 < 1 ∨ 15 < bnat b 8 1 → ∃ t, runs (.evServiceThreshold n) s t ∧ (t.part f.part).threshold = (u.part f.part).threshold ∧ served u t n f l 2 2))
    ∧ (bnat b 0 1 = 2 → serviceClean b (8, 8) = true →
      (10000 ≤ bnat b 8 8 → bnat b 8 8 ≤ 10 ^ 9 → ∃ t, runs (.evServiceGrace n) s t ∧ (t.part f.part).grace = bnat b 8 8 ∧ served u t n f l 0 0)
      ∧ (bnat b 8 8 < 10000 ∨ 10 ^ 9 < bnat b 8 8 → ∃ t, runs (.evServiceGrace n) s t ∧ (t.part f.part).grace = (u.part f.part).grace ∧ served u t n f l 2 2))
    ∧ (bnat b 0 1 = 3 → serviceClean b (8, 12) = true →
      let base : Word := BitVec.ofNat 64 (bnat b 8 8)
      let m := bnat b 16 4
      let fits := m = 0 ∨ (64 ≤ m ∧ m ≤ 65536 ∧ bnat b 8 8 % 4096 = 0 ∧ u.backedBy f.part false base = true)
      let keeps := fun (t : State) => (t.part f.part).spillN = (u.part f.part).spillN ∧ (t.part f.part).spillBase = (u.part f.part).spillBase
      (¬fits → ∃ t, runs (.evServiceSpillArea n) s t ∧ keeps t ∧ served u t n f l 2 2)
      ∧ (fits → u.holdsTask f.part = true → ∃ t, runs (.evServiceSpillArea n) s t ∧ keeps t ∧ served u t n f l 3 3)
      ∧ (fits → u.holdsTask f.part = false → ∃ t, runs (.evServiceSpillArea n) s t ∧ (t.part f.part).spillN = m
          ∧ (t.part f.part).spillBase = (if m = 0 then 0 else base) ∧ served u t n f l 0 0))
    ∧ (bnat b 0 1 = 4 → serviceClean b (8, 8) = true →
      (bnat b 8 8 % 64 = 0 → ∃ t, runs (.evServiceSchedule n) s t ∧ served u t n f l 0 0
        ∧ (t.part f.part).sched = if bnat b 8 8 = 0 then none else some ⟨BitVec.ofNat 64 (bnat b 8 8), false, 0, 0, [], [], []⟩)
      ∧ (bnat b 8 8 % 64 ≠ 0 → ∃ t, runs (.evServiceSchedule n) s t ∧ (t.part f.part).sched = (u.part f.part).sched ∧ served u t n f l 2 2))
    ∧ (bnat b 0 1 = 5 → serviceClean b (8, 8) = true → ∀ v k, u.submit f.part (BitVec.ofNat 64 (bnat b 8 8)) false = (v, k) → v.slotPages (l.pa / 64) = [] →
        ∃ t, runs (.evServiceLaunch n) s t ∧ t.launches = v.launches ∧ served v t n f l 0 k)
    ∧ (bnat b 0 1 = 6 → serviceClean b (8, 0) = true → ∃ t, runs (.evServiceYield n) s t ∧ served u t n f l 0 0
        ∧ t.sets = u.sets.map fun e =>
          (e.1, if 2 ≤ e.2.order.length ∧ (e.2.order[e.2.resident]?).map (fun o => o.1) = some f.part then { e.2 with yielded := true } else e.2))

/-- R77, R364 to R367: at the end of a slice of a set that several partitions share selection stops on its cells; a quiet set is evicted and scrubbed, its
positions in the table are marked EVICT, and each cell's image holds what R366 names; the next partition is restored, each image onto a free cell of its
own with all that it holds; a context suspended for longer than the grace time is saved by Belvedere. What balancing has on its way, where cells for the
images are found, and what of a set may be restored when are log 38's. -/
def Obligations.TimeSlices : Prop :=
  (∀ (s : State) (n : Nat), (s.sliceSet n).empty = false → (s.sliceSet n).stopping = none →
    (2 ≤ (s.sliceSet n).order.length → s.sliceOver (s.sliceSet n) = true → ∃ t, runs (.evSliceEnd n) s t ∧ (∀ c ∈ (s.sliceSet n).cells, (t.cell c).select = false)
      ∧ t.sliceSet n = { s.sliceSet n with stopping := some s.time.toNat } ∧ ∀ c x, t.ctx c x = s.ctx c x)
    ∧ ((s.sliceSet n).order.length < 2 ∨ s.sliceOver (s.sliceSet n) = false → runs (.evSliceEnd n) s s))
  ∧ (∀ (s : State) (n at_ : Nat), (s.sliceSet n).empty = false → (s.sliceSet n).order ≠ [] → (s.sliceSet n).stopping = some at_ →
    let st := s.sliceSet n
    let pid := st.at_ st.resident
    let mine := st.cells.filter fun c => (s.cell c).tag = pid
    let held := mine.flatMap fun c => (s.cell c).ctxs.flatMap fun x => x.2.out
    let room := (s.part pid).spillRoom
    (s.setQuiet st = false → runs (.evSliceEnd n) s s)
    ∧ (s.setQuiet st = true → ∃ t, runs (.evSliceEnd n) s t ∧ (t.sliceSet n).empty = true ∧ (t.sliceSet n).stopping = none ∧ (t.sliceSet n).saved = []
        ∧ (∀ c ∈ st.cells, scrubbed (t.cell c) ∧ (t.cell c).tag = (s.cell c).tag)
        ∧ t.scrubSeq = s.scrubSeq + 1
        ∧ (t.part pid).st = .preempted
        ∧ (t.part pid).table = ((s.part pid).table.map fun e => if e.extractLsb' 30 2 = 1 ∧ (e.setWidth 11).toNat ∈ st.cells then e ||| 0x20000000 else e)
        ∧ t.flights = (s.flights.map fun f => if f.id ∈ held then { f with leg := .image, told := true } else f)
        ∧ (∀ x ∈ t.transfers, x.dst ∈ mine → x.part = pid → x.work = [])
        ∧ ∀ c ∈ mine, let k := s.cell c
          ∃ i, (k.lcell.toNat, i) ∈ mget [] (t.sliceSet n).images pid ∧ i.from_ = c
            ∧ i.lcell = k.lcell ∧ i.kchan = k.kchan ∧ i.rr = k.rr ∧ i.frames = k.bytesIn k.frames ∧ i.area = k.bytesIn [areaRange]
            ∧ i.poison = (k.cpoison.filter fun e => (areaRange :: k.frames).any fun r => meets (64 * e.1) 64 r.1 r.2)
            ∧ i.chans = (k.chans.map fun x => (x.1, { x.2 with deferred := x.2.deferred.filter fun id => decide (id ∉ held) }))
            ∧ i.fmodes = (k.ctxs.map fun x => (x.1, x.2.fmode)) ∧ i.issues = (k.ctxs.map fun x => (x.1, x.2.issue)) ∧ i.dones = (k.ctxs.map fun x => (x.1, x.2.done))
            ∧ i.traps = (k.ctxs.map fun x => (x.1, x.2.trap)) ∧ i.escs = (k.ctxs.map fun x => (x.1, x.2.esc)) ∧ i.outs = (k.ctxs.map fun x => (x.1, x.2.out))
            ∧ i.saved = ((st.saved.filter fun x => x.1 / 4 == c).map fun x => (x.1 % 4, x.2)) ∧ i.wake = k.wake
            ∧ ((∀ x ∈ s.transfers, x.dst ∉ mine) → i.taskq = k.taskq ∧ i.spill ++ i.work = k.spill ++ k.buckets
              ∧ (i.work = [] ∨ room ≤ i.spill.length))))
  ∧ (∀ (s : State) (n : Nat), (s.sliceSet n).empty = true → (s.sliceSet n).order ≠ [] →
    let st := s.sliceSet n
    let r := (st.resident + 1) % st.order.length
    let pid := st.at_ r
    let images := mget [] st.images pid
    ((s.freeCells st).length < images.length → runs (.evSliceRestore n) s s)
    ∧ (images.length ≤ (s.freeCells st).length → ∃ t, runs (.evSliceRestore n) s t ∧ (t.sliceSet n).empty = false ∧ (t.sliceSet n).resident = r
      ∧ (t.sliceSet n).since = s.time.toNat ∧ (t.part pid).st = .running ∧ (∀ f ∈ t.flights, ¬(f.leg = .evicted ∧ f.part = pid))
      ∧ (∀ f ∈ s.flights, (∃ x ∈ images, ∃ o ∈ x.2.outs, f.id ∈ o.2) → (∀ x ∈ images, ∀ c ∈ x.2.chans, f.id ∉ c.2.deferred) → { f with leg := .way } ∈ t.flights)
      ∧ ((s.freeCells st).Nodup → (images.map fun x => x.1).Nodup → ∃ place : Nat → Nat, (∀ i < images.length, ∀ j < images.length, place i = place j → i = j)
        ∧ (∀ l, (∀ x ∈ images, x.1 ≠ l) → (t.part pid).table[l]? = (s.part pid).table[l]?)
        ∧ ∀ (j l : Nat) (i : Image), images[j]? = some (l, i) → let c := place j
          let k := t.cell c
          c ∈ s.freeCells st ∧ (l < (s.part pid).table.length → (t.part pid).table[l]? = some (BitVec.ofNat 32 (0x40000000 + c))) ∧ c ∈ (t.sliceSet n).cells
          ∧ k.tag = pid ∧ k.lcell = i.lcell ∧ k.kchan = i.kchan ∧ k.chans = i.chans ∧ k.select = true ∧ k.rr = i.rr ∧ k.taskq = i.taskq
          ∧ k.buckets = i.work ∧ k.spill = i.spill ∧ k.wake = i.wake ∧ k.cpoison = i.poison ∧ k.l1 = [] ∧ k.istore = [] ∧ k.mu = Matrix.reset
          ∧ (∀ e ∈ i.frames ++ i.area, (∀ f ∈ i.frames ++ i.area, f.1 = e.1 → f.2 = e.2) → mget 0 k.store e.1 = e.2)
          ∧ (∀ a, (∀ e ∈ i.frames ++ i.area, e.1 ≠ a) → mget 0 k.store a = 0)
          ∧ (∀ m < 4, let y := k.ctx m
            y.out = mget [] i.outs m ∧ y.esc = mget [] i.escs m
            ∧ (mfind i.saved m = none → y.fmode = mget false i.fmodes m ∧ y.issue = mget [] i.issues m ∧ y.done = mget [] i.dones m ∧ y.trap = mget none i.traps m
              ∧ y.st = (if y.trap = none ∧ y.esc = [] then .free else .trapPending))
            ∧ ∀ x q, mfind i.saved m = some (x, q) → y.st = x.st ∧ y.g = x.g ∧ y.v = x.v ∧ y.p = x.p ∧ y.b = x.b ∧ y.streams = x.streams ∧ y.fifos = x.fifos
              ∧ y.inv = x.inv ∧ y.wdcnt = x.wdcnt ∧ (∀ e, (y.eng e).pc = (x.eng e).pc ∧ (y.eng e).st = (x.eng e).st ∧ (y.eng e).code = (x.eng e).code
                ∧ (y.eng e).held = (x.eng e).held) ∧ y.sb = [] ∧ (q = true → m ∈ k.claimQ)))))
  ∧ ∀ (s : State) (cell ctx n : Nat) (st : SliceSet) (at_ : Nat), s.sets.find? (fun e => e.2.cells.contains cell && e.2.stopping.isSome) = some (n, st) →
    st.stopping = some at_ → (s.ctx cell ctx).st = .suspended → (s.ctx cell ctx).taken = none → s.quiet cell ctx = true →
    let claims := decide ((s.cell cell).claim = some ctx)
    let x0 := s.ctx cell ctx
    (claims = true → (s.cell cell).mu.pipeL = none ∧ (s.cell cell).mu.pipeC = none) →
    (s.time.toNat ≤ at_ + (s.part (s.cell cell).tag).grace → runs (.evGraceExpiry cell ctx) s s)
    ∧ (at_ + (s.part (s.cell cell).tag).grace < s.time.toNat → ∃ t, runs (.evGraceExpiry cell ctx) s t
      ∧ (t.ctx cell ctx).st = (if x0.esc = [] then .free else .trapPending) ∧ (t.ctx cell ctx).esc = x0.esc
      ∧ (claims = true → (t.cell cell).claim = none) ∧ heldMoved (s.drainCtx cell ctx) t (s.cell cell).tag (heldRecords x0) false
      ∧ ∃ x, mfind (t.sliceSet n).saved (4 * cell + ctx) = some (x, claims) ∧ x.st = .suspended ∧ x.sb = [] ∧ x.esc = [] ∧ x.g = x0.g ∧ x.v = x0.v ∧ x.p = x0.p
        ∧ x.b = x0.b ∧ x.streams = x0.streams ∧ x.fifos = x0.fifos ∧ x.ex = x0.ex ∧ x.ea = x0.ea ∧ x.em = x0.em)

/-- R35, R41, R64, R296, R337, R354, R356, R374, R375, R391 to R395, R400: cells, cores and functions are assigned, a partition is created and destroyed, a set
of cells is scrubbed with a token, a bank is scrubbed, segments change, and a tag parity error kills every partition that its bank holds, and no other. An assigned cell takes the partition's
floor as its view (log 26); of what a partition that ends has under way, a parcel past a gateway and one of another partition stay (log 37); the first
epoch of a partition is open (log 40). -/
def Obligations.Partitions : Prop :=
  (∀ (s : State) (cell part lcell : Nat) (kchan : BitVec 64), cell < 1536 → part < 24 ∨ part = 31 → (s.cell cell).clean = true → ∃ t, runs (.evCellAssign cell part lcell kchan) s t
      ∧ t.cell cell = { s.cell cell with
          tag := part, lcell := BitVec.ofNat 16 (if part = 31 then 0xFFFF else lcell), kchan := kchan, fview := (s.part part).floor
          heard := [], select := true }
      ∧ ∀ c, c ≠ cell → t.cell c = s.cell c)
  ∧ (∀ (s : State) (core part : Nat), core < 128 → ∃ t, runs (.evCoreAssign core part) s t ∧ t.hart core = { Hart.reset with part := if part < 24 then some part else none }
      ∧ (∀ c, c ≠ core → (t.hart c).part = (s.hart c).part ∧ (t.hart c).pc = (s.hart c).pc) ∧ (∀ a ∈ t.asks, a.agent ≠ core) ∧ (∀ e ∈ t.resvs, e.1 ≠ core)
      ∧ (∀ line, core ∉ (t.dirOf line).agents)
      ∧ ((∀ d ∈ s.futs, ∀ x ∈ d.2, ∀ va w dl q re inj, x.2.kind = .future va w dl q re inj → w ≠ .hart core) → ∀ x, t.latest x = s.latest x))
  ∧ (∀ (s : State) (vf part : Nat), vf < 384 → (s.vfs.filter fun e => e.1 != vf && e.2.part == some part).length < 16 → ∃ t, runs (.evVfAssign vf part) s t
      ∧ (t.fn (.vf vf)).part = if part < 24 then some part else none)
  ∧ (∀ (s : State) (cells : List Nat) (part kind : Nat), kind ≤ 2 → (∀ c ∈ cells, c < 1536) →
      (kind ≠ 2 → (∃ c ∈ cells, ¬idleCell (s.cell c)) → runs (.evScrub cells part kind) s s)
      ∧ ((∀ c ∈ cells, idleCell (s.cell c)) → ∃ t, runs (.evScrub cells part kind) s t
        ∧ (∀ c ∈ cells, scrubbed (t.cell c) ∧ (t.cell c).tag = (s.cell c).tag ∧ (t.cell c).lcell = (s.cell c).lcell)
        ∧ t.scrubSeq = s.scrubSeq + 1 ∧ ∃ k, t.tokens = s.tokens ++ [k] ∧ k.part = part ∧ k.cells = cells ∧ k.seq = s.scrubSeq + 1))
  ∧ (∀ (s : State) (part : Nat) (cfg : PartCfg), s.hostUp = true → part < 24 → (s.part part).st = .absent → s.cfgOk part cfg = true →
      ∃ t, runs (.evPartitionCreate part cfg) s t ∧ (t.part part).st = .running ∧ (t.part part).table = cfg.table ∧ (t.part part).seg = cfg.seg
        ∧ (t.part part).threshold = 4 ∧ (t.part part).grace = 1000000 ∧ (t.part part).epoch = true ∧ (t.part part).floor = 0
        ∧ (∀ c ∈ tableCells cfg.table false, scrubbed (t.cell c)) ∧ (∀ b ∈ segBlocks cfg.seg, mget 0 t.gibs b = s.keyId part)
        ∧ t.scrubSeq = s.scrubSeq + 1 ∧ (∃ k, t.tokens = s.tokens ++ [k] ∧ k.part = part ∧ k.cells = tableCells cfg.table false)
        ∧ (tableCells cfg.table true ≠ [] → ∃ n, (∃ len, (part, len) ∈ (t.sliceSet n).order)
          ∧ ∀ l e, cfg.table[l]? = some e → e.extractLsb' 30 2 = 1 → e.getLsbD 29 = true → ∃ i, (l, i) ∈ mget [] (t.sliceSet n).images part
            ∧ i.lcell = BitVec.ofNat 16 l ∧ i.kchan = cfg.kchans.getD l 0 ∧ i.chans = [] ∧ i.saved = []))
  ∧ (∀ (s : State) (part : Nat), (s.part part).st ≠ .absent → ∃ t, runs (.evPartitionDestroy part) s t ∧ (t.part part).st = .absent ∧ finished s t part
      ∧ (∀ core, (t.hart core).part ≠ some part) ∧ (∀ f ∈ t.vfs, f.2.part ≠ some part) ∧ survives s t [part])
  ∧ (∀ (s : State) (bank : Nat), ∃ t, runs (.evBankScrub bank) s t ∧ (bank < 768 ∨ 1024 ≤ bank → t.dir = s.dir) ∧ (∀ x, t.memByte x = s.memByte x)
      ∧ mget 0 t.av bank = 0 ∧ (∀ b, b ≠ bank → mget 0 t.av b = mget 0 s.av b) ∧ t.parts = s.parts ∧ t.cells = s.cells)
  ∧ (∀ (s : State) (vf part : Nat) (g : Segment), vf < 384 → segOk g = true → ∃ t, runs (.evSegmentUpdate (some vf) part g) s t ∧ (t.fn (.vf vf)).seg = g)
  ∧ (∀ (s : State) (part : Nat) (g : Segment), (s.part part).st ≠ .absent → segOk g = true → s.segFree part g = true →
      let inv := s.invalidate (s.part part).cellsOf (s.part part).cellsOf (fun e => e.part == part) (fun c => c.part == part)
      (s.saving (s.part part).cellsOf = true → runs (.evSegmentUpdate none part g) s s)
      ∧ (s.saving (s.part part).cellsOf = false → (∀ y, inv = .error y → runs (.evSegmentUpdate none part g) s s)
        ∧ ∀ u, inv = .ok u → ∃ t, runs (.evSegmentUpdate none part g) s t ∧ (t.part part).seg = g ∧ t.cells = u.cells
          ∧ (∀ b ∈ segBlocks g, mget 0 t.gibs b = u.keyId part) ∧ ∀ b ∈ segBlocks (u.part part).seg, b ∉ segBlocks g → mget 0 t.gibs b = 0))
  ∧ ∀ (s : State) (bank set : Nat), let held := (List.range 24).filter fun p => (mget 0 s.av bank).getLsbD p
    ∃ t, runs (.evTagParityError ⟨bank, set⟩) s t ∧ mget 0 t.av bank = 0 ∧ (mget 0 s.av bank = 0 → t.parts = s.parts ∧ t.cells = s.cells)
      ∧ (∀ p ∈ held, finished s t p ∧ (t.part p).st = .failed ∧ (t.part p).table = ((s.part p).table.map fun _ => 0) ∧ (t.part p).sched = none
        ∧ ∀ h ∈ t.harts, h.2.part = some p → h.2.stopped = true)
      ∧ survives s t held ∧ ∀ n, (∀ p ∈ held, (s.hart n).part ≠ some p) → (t.hart n).stopped = (s.hart n).stopped

/-- R386 to R391: the home directory of a line of memory, and errors. A request reaches the home, which performs those for one line in the order in which they
came, and allocates the line in its bank; an agent that the home snoops answers Conflict while a request of its own waits, and the home performs that
request before anything that reaches it later. The data that an M or O holder keeps is what the line reads (R130). -/
def Obligations.HomeDirectory : Prop :=
  (∀ (s : State) (agent line home : Nat),
    let requests := fun (served : Bool) (off : Nat) (bytes : List Byte) => [(Instr.evReadShared agent ⟨line, home, served⟩, AskKind.shared),
      (.evReadOwn agent ⟨line, home, served⟩ none, .own none), (.evReadOwn agent ⟨line, home, served⟩ (some (off, bytes)), .own (some (off, bytes))),
      (.evUpgrade agent ⟨line, home, off, bytes, served⟩, .upgrade off bytes)]
    (lineOk line = false → ∀ served off bytes, ∀ i ∈ (requests served off bytes).map (fun r => r.1) ++ [.evWriteback agent line, .evCleanEvict agent line,
        .evDirectoryEccError line, .evUncorrectableError (.line line), .evStrongStoreOrAtomic ⟨line, home⟩ off bytes], exec i s = .fault (.noMemory line))
    ∧ (lineOk line = true →
      let d := s.dirOf line
      let same := fun (t : State) => ∀ x, t.latest x = s.latest x
      let done := fun (t : State) =>
        (t.asks.map fun a => (a.line, a.agent, a.kind)) = ((s.asks.filter fun a => a.line != line || a.agent != agent).map fun a => (a.line, a.agent, a.kind))
        ∧ (∀ a ∈ t.asks, a.line = line → a.agent ∈ d.agents → a.agent ∉ (t.dirOf line).agents → a.conflict = true)
        ∧ ∀ p < 24, s.allocator agent line = p → (mget 0 t.av (homeOf line home)).getLsbD p = true
      (s.agentOk agent line = false → ∀ served off bytes, ∀ r ∈ requests served off bytes, runs r.1 s s)
      ∧ (s.agentOk agent line = true →
        (∀ off bytes, off + bytes.length ≤ 64 → ∀ r ∈ requests false off bytes, (r.2 = .shared ∧ agent < 138) ∨ ownAgent agent = true →
          ((∀ a ∈ s.asks, ¬(a.line = line ∧ a.agent = agent)) → runs r.1 s { s with asks := s.asks ++ [⟨line, agent, r.2, home, false⟩] })
          ∧ ((∃ a ∈ s.asks, a.line = line ∧ a.agent = agent) → runs r.1 s s))
        ∧ (∀ off bytes b, ∀ r ∈ requests true off bytes, s.asked agent line = some b → b.kind ≠ r.2 → runs r.1 s s)
        ∧ (∀ off bytes b, off + bytes.length ≤ 64 → ∀ r ∈ requests true off bytes, (r.2 = .shared ∧ agent < 138) ∨ ownAgent agent = true →
            s.asks.find? (fun a => a.conflict) = some b → s.asked agent line = some b → b.kind = r.2 → b.home = home → runs r.1 s s.serveOne)
        ∧ ((∀ b, s.asked agent line = some b → b.kind = .shared) → agent < 138 →
          ∃ t, runs (.evReadShared agent ⟨line, home, true⟩) s t ∧ done t ∧ same t ∧ (t.dirOf line).holds agent = true
            ∧ (d.holds agent = false → d.owner = none → d.sharers = [] → ownAgent agent = true → (t.dirOf line).owner = some (agent, .e, s.lineVec line))
            ∧ (d.holds agent = false → ∀ a v, d.owner = some (a, .m, v) → (t.dirOf line).owner = some (a, .o, v))
            ∧ (d.holds agent = false → ∀ a v, d.owner = some (a, .e, v) → (t.dirOf line).owner = none ∧ a ∈ (t.dirOf line).sharers)
            ∧ (d.holds agent = false → ∀ a st v, d.owner = some (a, st, v) → st ≠ .o → ∀ b ∈ t.asks, b.line = line → b.agent = a → b.conflict = true))
        ∧ (ownAgent agent = true →
          ((∀ b, s.asked agent line = some b → b.kind = .own none) →
            ∃ t, runs (.evReadOwn agent ⟨line, home, true⟩ none) s t ∧ done t ∧ same t ∧ t.dirOf line = ⟨some (agent, .e, s.lineVec line), []⟩)
          ∧ ∀ off bytes, off + bytes.length ≤ 64 → ∀ r ∈ [(Instr.evReadOwn agent ⟨line, home, true⟩ (some (off, bytes)), AskKind.own (some (off, bytes))),
              (.evUpgrade agent ⟨line, home, off, bytes, true⟩, .upgrade off bytes)], (∀ b, s.asked agent line = some b → b.kind = r.2) →
              ∃ t v, runs r.1 s t ∧ done t ∧ t.dirOf line = ⟨some (agent, .m, v), []⟩ ∧ (s.slotPages line = [] → wroteBytes s t (64 * line + off) bytes)))
      ∧ (∀ v st, d.owner = some (agent, st, v) → st ≠ .e → ∃ t, runs (.evWriteback agent line) s t ∧ same t ∧ (t.dirOf line).owner = none)
      ∧ ((∀ v st, d.owner = some (agent, st, v) → st = .e) → runs (.evWriteback agent line) s s)
      ∧ (∀ v, d.owner = some (agent, .e, v) → ∃ t, runs (.evCleanEvict agent line) s t ∧ same t ∧ (t.dirOf line).owner = none)
      ∧ (agent ∈ d.sharers → ∃ t, runs (.evCleanEvict agent line) s t ∧ same t ∧ agent ∉ (t.dirOf line).sharers)
      ∧ (∀ off bytes, off + bytes.length ≤ 64 → s.slotPages line = [] → ∃ t, runs (.evStrongStoreOrAtomic ⟨line, home⟩ off bytes) s t
          ∧ wroteBytes s t (64 * line + off) bytes ∧ (t.dirOf line).owner = none ∧ ∀ a ∈ (t.dirOf line).sharers, 128 ≤ a ∧ a ≤ 135)
      ∧ (∃ t, runs (.evDirectoryEccError line) s t ∧ t.dirOf line = ⟨none, []⟩ ∧ t.poisoned line = true ∧ t.hypEvents = s.hypEvents ++ [.directory line]
        ∧ t.asks = (s.asks.map fun a => if a.line = line then { a with conflict := true } else a) ∧ ∀ x, t.memByte x = s.memByte x)
      ∧ ∃ t, runs (.evUncorrectableError (.line line)) s t ∧ t.poisoned line = true ∧ t.uncorrected = s.uncorrected + 1 ∧ same t))
  ∧ (∀ (s : State) (cell g : Nat), cell < 1536 → g < 6144 →
      ∃ t, runs (.evUncorrectableError (.granule cell g)) s t ∧ mget false (t.cell cell).cpoison g = true ∧ t.uncorrected = s.uncorrected + 1)
  ∧ (∀ s : State, runs .evCorrectedError s { s with corrected := s.corrected + 1 })
  ∧ ∀ s : State, (∀ a ∈ s.serveHeld.asks, a.conflict = false) ∧ s.serveHeld.asks.length ≤ s.asks.length

/-- R398, R399, R408 to R411: module reset with the identity page, power and clock, the configuration of the ports. After a reset nothing of any partition is
left. Requests are answered by a trained port; what is not configuration waits for the end of bring-up, and for a logical device to be bound. -/
def Obligations.ModuleAndPower : Prop :=
  (∀ (s : State) (s0 s1 ok2 ok3 : Bool) (lanes : Nat), ∃ t, runs (.evModuleReset s0 s1 ok2 ok3 lanes) s t ∧ t.cells = [] ∧ t.parts = [] ∧ t.mem = [] ∧ t.harts = [] ∧ t.vfs = []
      ∧ t.flights = [] ∧ t.copies = [] ∧ t.tasks = [] ∧ t.transfers = [] ∧ t.launches = [] ∧ t.futs = [] ∧ t.parks = [] ∧ t.landings = [] ∧ t.partials = []
      ∧ t.verdicts = [] ∧ t.statuses = [] ∧ t.hypFaults = [] ∧ t.sets = [] ∧ t.tokens = [] ∧ t.l2tlbs = [] ∧ t.lds = [] ∧ t.poison = [] ∧ t.dir = [] ∧ t.av = []
      ∧ t.gibs = [] ∧ t.asks = [] ∧ t.resvs = [] ∧ t.pfs = [] ∧ t.ueInbox = [] ∧ t.cycle = 0 ∧ t.time = 0 ∧ t.bstat = (if ok2 = false then 0xE1 else if ok3 = false then 0xE3 else 1)
      ∧ (t.hostUp = true ↔ ok2 = true ∧ ok3 = true) ∧ (∀ p < 24, mget 0 t.keys p = mget 0 s.keys p + 1) ∧ t.scrubSeq = s.scrubSeq
      ∧ mget false t.portCxl 0 = (s0 && ok2 && ok3) ∧ mget false t.portCxl 1 = (s1 && ok2 && ok3)
      ∧ ((ok2 && ok3) = false → t.identity = none)
      ∧ ((ok2 && ok3) = true → ∃ p, t.identity = some p ∧ p.key = Config.publicKey ∧ p.cert = Config.kornenCert ∧ p.log.length = 4
          ∧ p.sign = Config.falconSign (p.log.flatMap vecBytes)))
  ∧ (∀ (s : State) (v : BitVec 64), (s.hostUp = true → runs (.evPlimWrite v) s { s with plim := min (max (v.setWidth 16).toNat 600) 2400 })
      ∧ (s.hostUp = false → runs (.evPlimWrite v) s s))
  ∧ (∀ (s : State), runs .evClockStep s { s with freq := if 11 ≤ s.freq then s.freq - 1 else 10 })
  ∧ (∀ (s : State) (cell : Nat) (v : BitVec 64), cell < 1536 → ∃ t, runs (.evPgateWrite cell v) s t ∧ (t.cell cell).pgate = v.setWidth 12
      ∧ (∀ n < 0x60000, mget 0 (t.cell cell).store n = if v.getLsbD (n / 0x8000) then 0 else mget 0 (s.cell cell).store n)
      ∧ ∀ g < 6144, v.getLsbD (g / 512) = true → mget false (t.cell cell).landed g = false ∧ mget false (t.cell cell).cpoison g = false)
  ∧ (∀ (s : State) (cell bank : Nat), cell < 1536 → bank < 12 → ∃ t, runs (.evBankWake cell bank) s t ∧ (t.cell cell).store = (s.cell cell).store
      ∧ ∀ k < 12, (t.cell cell).pgate.getLsbD k = ((s.cell cell).pgate.getLsbD k && k != bank))
  ∧ (∀ (s : State) (port ld part : Nat), port < 2 → ld < 16 → mget false s.portCxl port = true →
      (∀ e ∈ s.lds, ¬(e.1 / 16 = port ∧ e.1 ≠ 16 * port + ld ∧ e.2 = part)) →
      (part < 24 → ∃ t, runs (.evLdBind port ld part) s t ∧ mfind t.lds (16 * port + ld) = some part)
      ∧ (24 ≤ part → ∃ t, runs (.evLdBind port ld part) s t ∧ mfind t.lds (16 * port + ld) = none))
  ∧ ∀ (s : State) (port : Nat), port < 2 → (s.trained = true →
      let bound := fun (ld : Option Nat) => ∀ l, ld = some l → ∃ p, mfind s.lds (16 * port + l) = some p
      (∀ ld, runs (.evConfigurationRequest port (.config ld false)) s (s.emit (.answered port)))
      ∧ (∀ ld, bound ld → runs (.evConfigurationRequest port (.config ld true)) s (s.emit (.answered port)))
      ∧ (∀ ld, ¬bound ld → runs (.evConfigurationRequest port (.config ld true)) s (s.emit (.unsupported port)))
      ∧ runs (.evConfigurationRequest port .readBstat) s (s.emit (.bstat port s.bstat))
      ∧ (∀ f off, fnPort f = port → s.fnUp f = true → runs (.evConfigurationRequest port (.readBar0 f off)) s (s.emit (.bar0 f off (s.bar0 f off))))
      ∧ (s.hostUp = false → runs (.evConfigurationRequest port (.readBar0 (.pf port) 0xB08)) s (s.emit (.bstat port s.bstat)))
      ∧ (∀ f off, fnPort f ≠ port ∨ s.fnUp f = false → (f, off) ≠ (.pf port, 0xB08) →
          runs (.evConfigurationRequest port (.readBar0 f off)) s (s.emit (.unsupported port)))
      ∧ (∀ ld, s.hostUp = true → bound ld → runs (.evConfigurationRequest port (.other ld)) s s)
      ∧ ∀ ld, s.hostUp = false ∨ ¬bound ld → runs (.evConfigurationRequest port (.other ld)) s (s.emit (.unsupported port)))
    ∧ (s.trained = false → ∀ q, runs (.evConfigurationRequest port q) s s)

/-- R8, R288, R297, R303, R400 to R405, R412: the host's requests and registers. A request is fetched from its ring and completes with the status of its operation;
a misaligned or faulting address gives 3, a revoked PASID 2, and a request its function does not take 1. A register of BAR0 reads as it was left. A write of a hart's
CSR that its mode may not write raises an illegal instruction, in the mode that log 8 gives. A window reads and writes the bytes of its segment, first
HBM and then LPDDR6, and nothing beyond it. -/
def Obligations.HostRequests : Prop :=
  (∀ (s : State) (fn : HostFn) (qi : Nat) (req : BitVec 512), s.fetchable fn qi = true → rqBad fn (vecBytes req) = true →
      ∃ t, runs (.evMalformedRequest fn qi req) s t ∧ completed (s.fetchReq fn qi) t fn qi (rqRid (vecBytes req)) 1 0)
  ∧ (∀ (s : State) (fn : HostFn) (qi : Nat) (req : BitVec 512) (i : Instr) (op : Nat), (op, i) ∈ [(1, Instr.evRequestLaunch fn qi req), (2, .evRequestParcel fn qi req),
        (3, .evRequestResolve fn qi req), (4, .evRequestPoll fn qi req)] → fetched s fn qi req op →
      let r := vecBytes req
      let gives := fun (st : Nat) => ∃ t, runs i s t ∧ completed (s.fetchReq fn qi) t fn qi (rqRid r) st 0 ∧ (st = 2 → (t.fn fn).revoked = min ((s.fn fn).revoked + 1) (2 ^ 64 - 1))
      ((s.fn fn).hasPasid (rqPasid r) = false → gives 2)
      ∧ ((s.fn fn).hasPasid (rqPasid r) = true →
        ((rqAddr r).toNat % rqSize op ≠ 0 → gives 3)
        ∧ ((rqAddr r).toNat % rqSize op = 0 → ∀ u, (s.fetchReq fn qi).hostLoc fn (rqNeed op) (rqAddr r) = (u, none) → gives 3)
        ∧ ∀ l u, located s fn qi req op l u → (readAt u fn op l).2.2 = true ∨ u.placeStaged ((u.fn fn).part.getD 31) StageSt.isFailed [(l, rqSize op)] = true → gives 3))
  ∧ (∀ (s : State) (fn : HostFn) (qi : Nat) (req : BitVec 512) (op : Nat) (l : Loc) (u v : State) (b : List Byte), let r := vecBytes req
      let pid := (u.fn fn).part.getD 31
      located s fn qi req op l u → readAt u fn op l = (v, b, false) → u.placeStaged pid StageSt.isFailed [(l, rqSize op)] = false →
      (op = 1 → ∀ w k, v.submitFor pid (u.fn fn).seg (rqAddr r) = (w, k) → ∃ t, runs (.evRequestLaunch fn qi req) s t ∧ completed w t fn qi (rqRid r) (16 + k) 0)
      ∧ (op = 4 → ∃ t, runs (.evRequestPoll fn qi req) s t ∧ completed v t fn qi (rqRid r) 0 (bnat b 0 8))
      ∧ (op = 2 →
        let h := BitVec.ofNat 32 (bnat b 0 4)
        let dest := (h.setWidth 16).toNat
        let chan := (h.extractLsb' 16 8).toNat
        (∀ k, v.refusesFrom pid (bnat b 0 4) = some k → ∃ t, runs (.evRequestParcel fn qi req) s t ∧ completed v t fn qi (rqRid r) (32 + k) 0)
        ∧ (v.refusesFrom pid (bnat b 0 4) = none → ∃ t f, runs (.evRequestParcel fn qi req) s t ∧ t.flights = v.flights ++ [f]
          ∧ ((t.fn fn).queue qi).busy = some f.id ∧ ((t.fn fn).queue qi).qhead = ((v.fn fn).queue qi).qhead ∧ f.part = pid
          ∧ f.parcel = mkParcel (mkHdr (mget 0 (v.fn fn).seqs (seqKey dest chan)).toNat false false (rqF8 r) pid (hostSrc fn) (h.extractLsb' 24 8).toNat chan dest) (b.drop 8)))
      ∧ (op = 3 →
        let f : Fut := ⟨l, rqAddr r, bnat b 0 8, bnat b 8 8⟩
        let gives := fun (st : Nat) => ∃ t, runs (.evRequestResolve fn qi req) s t ∧ completed v t fn qi (rqRid r) st 0
        (fGen (rqHnd r).toNat ≠ fGen f.w0 → gives 4)
        ∧ (fGen (rqHnd r).toNat = fGen f.w0 → v.liveSlot pid f = none → gives 5)
        ∧ ∀ x va w dl q re inj, fGen (rqHnd r).toNat = fGen f.w0 → v.liveSlot pid f = some x → x.kind = .future va w dl q re inj →
            (f.w0 % 4 = 2 → gives 5)
            ∧ (f.w0 % 4 = 3 → gives 3)
            ∧ (f.w0 % 4 < 2 → gives 0)
            ∧ (f.w0 % 4 < 2 → q = none → l.pa % 16 = 0 → v.slotPages (l.pa / 64) = [] → ∃ t, runs (.evRequestResolve fn qi req) s t
              ∧ wroteBytes v t l.pa (leBytes 8 (fSlot f.w0 * 65536 + fGen f.w0 * 4 + 2) ++ leBytes 8 (rqVal r))
              ∧ releases v t (homeDie l) (fSlot f.w0) pid va (fSlot f.w0 * 65536 + fGen f.w0 * 4 + 2) (rqVal r) 0 [w])))
  ∧ (∀ (s : State) (fn : HostFn) (qi : Nat) (req : BitVec 512), fetched s fn qi req 5 →
      let u := { s.fetchReq fn qi with sumSeq := s.sumSeq + 1 }
      ∃ t, runs (.evRequestResync fn qi req) s t ∧ t.sumSeq = s.sumSeq + 1
        ∧ (completed u t fn qi (rqRid (vecBytes req)) 3 0 ∨ completed (u.emit (.write (rqAddr (vecBytes req)) u.summary)) t fn qi (rqRid (vecBytes req)) 0 0))
  ∧ (∀ (s : State) (fn : HostFn) (qi : Nat) (v : BitVec 32), s.fnUp fn = true → qi < 8 →
      let q := (s.fn fn).queue qi
      let d := ((v.setWidth 16).toNat + 65536 - q.qhead) % 65536
      (q.on = false → runs (.evNotifyWrite fn qi v) s s)
      ∧ (q.on = true → d ≤ 2 ^ q.qlog → ∃ t, runs (.evNotifyWrite fn qi v) s t ∧ (t.fn fn).queue qi = { q with tail := (v.setWidth 16).toNat })
      ∧ (q.on = true → 2 ^ q.qlog < d → ∃ t, runs (.evNotifyWrite fn qi v) s t ∧ (t.fn fn).queue qi = { q with badn := min (q.badn + 1) (2 ^ 32 - 1) }))
  ∧ (∀ (s : State) (fn : HostFn) (n : Nat), s.fnUp fn = true → n < 16 → ∃ t, runs (.evMsixUnmask fn n) s t
      ∧ (t.fn fn).remap n = { (s.fn fn).remap n with mask := false, pend := false }
      ∧ t.hostOut = s.hostOut ++ if ((s.fn fn).remap n).pend then [.message ((s.fn fn).remap n).addr ((s.fn fn).remap n).data] else [])
  ∧ (∀ (s : State) (fn : HostFn) (n : Nat), s.fnUp fn = true → n < 64 → ∃ t, runs (.evPasidRevoke fn n) s t
      ∧ mget 0 (t.fn fn).pasids n = mget 0 (s.fn fn).pasids n &&& ~~~0x8000000000000000)
  ∧ (∀ (s : State) (w : BitVec 64),
      (∀ core, core < 128 → (s.hart core).moves = true → ∃ t, runs (.evRegisterWrite (.hartCsr core 0x800) w) s t ∧ t.hart core = { s.hart core with enxmode := w.getLsbD 0 })
      ∧ (∀ core, core < 128 → (s.hart core).moves = true → (s.hart core).mode.user = false →
          (∃ t, runs (.evRegisterWrite (.hartCsr core 0x5C0) w) s t ∧ t.hart core = { s.hart core with senxcause := w.setWidth 8 })
          ∧ (∃ t, runs (.evRegisterWrite (.hartCsr core 0x5C1) w) s t ∧ t.hart core = { s.hart core with capen := w.getLsbD 0 })
          ∧ ∃ t, runs (.evRegisterWrite (.hartCsr core 0x5C2) w) s t ∧ t.hart core = s.hart core)
      ∧ (∀ core, core < 128 → (s.hart core).moves = true → (s.hart core).mode = .u → ∃ (t : State) (tval : Word), runs (.evRegisterWrite (.hartCsr core 0x5C1) w) s t
          ∧ t.hart core = (excepts { s with cur := ⟨s.cur.cell, s.cur.ctx, core⟩ } 2 tval none).hart core)
      ∧ (∀ fn qi, s.fnUp fn = true → qi < 8 → let q := (s.fn fn).queue qi
          ∀ off q', (off, q') ∈ [(0, { q with qbase := w &&& ~~~63 }), (8, { q with qlog := (w.setWidth 8).toNat }), (0x10, { q with cbase := w &&& ~~~15 }),
            (0x18, q), (0x20, { q with ivec := (w.setWidth 5).toNat }), (0x28, q)] → ∃ t, runs (.evRegisterWrite (.queue fn qi off) w) s t ∧ (t.fn fn).queue qi = q')
      ∧ (∀ fn n, s.fnUp fn = true → n < 16 → let r := (s.fn fn).remap n
          (∃ t, runs (.evRegisterWrite (.remap fn n 0) w) s t ∧ (t.fn fn).remap n = { r with addr := w } ∧ t.hostOut = s.hostOut)
          ∧ (w.getLsbD 32 = true → ∃ t, runs (.evRegisterWrite (.remap fn n 1) w) s t ∧ (t.fn fn).remap n = { r with data := w.setWidth 32, mask := true } ∧ t.hostOut = s.hostOut)
          ∧ (w.getLsbD 32 = false → ∃ t, runs (.evRegisterWrite (.remap fn n 1) w) s t
            ∧ (t.fn fn).remap n = { r with data := w.setWidth 32, mask := false, pend := false }
            ∧ t.hostOut = s.hostOut ++ if r.pend then [.message r.addr (w.setWidth 32)] else [])
          ∧ ∀ k, 2 ≤ k → runs (.evRegisterWrite (.remap fn n k) w) s s)
      ∧ (∀ fn n, s.fnUp fn = true → n < 64 → ∃ t, runs (.evRegisterWrite (.pasid fn n) w) s t ∧ mget 0 (t.fn fn).pasids n = w &&& 0x80000000000FFFFF))
  ∧ (∀ (s : State) (fn : HostFn), s.trained = true → s.fnUp fn = true → fnPort fn < 2 →
      let reads := fun (off : Nat) (v : Word) => runs (.evConfigurationRequest (fnPort fn) (.readBar0 fn off)) s (s.emit (.bar0 fn off v))
      (∀ qi < 8, let q := (s.fn fn).queue qi
        reads (0x100 * qi) q.qbase ∧ reads (0x100 * qi + 8) (BitVec.ofNat 64 q.qlog) ∧ reads (0x100 * qi + 0x10) q.cbase ∧ reads (0x100 * qi + 0x18) (BitVec.ofNat 64 q.qhead)
          ∧ reads (0x100 * qi + 0x20) (BitVec.ofNat 64 q.ivec) ∧ reads (0x100 * qi + 0x28) (BitVec.ofNat 64 q.badn))
      ∧ (∀ n < 16, let r := (s.fn fn).remap n
        reads (0x800 + 16 * n) r.addr ∧ reads (0x808 + 16 * n) (BitVec.ofNat 64 (r.data.toNat + r.mask.toNat * 2 ^ 32 + r.pend.toNat * 2 ^ 33)))
      ∧ (∀ n < 64, reads (0x900 + 8 * n) (mget 0 (s.fn fn).pasids n))
      ∧ reads 0xB00 (BitVec.ofNat 64 (s.fn fn).revoked)
      ∧ ((∃ p, fn = .pf p) → reads 0xB08 (s.bstat.setWidth 64) ∧ reads 0xB10 (BitVec.ofNat 64 s.plim)))
  ∧ ∀ (s : State) (win : HostWin) (off pid : Nat) (g : Segment) (acc : HostAcc),
      (s.winOf win = none → runs (.evBar2Access win off acc) s s)
      ∧ (s.winOf win = some (pid, g) → segOk g = true →
        let n := match acc with
          | .read len => len
          | .write bs => bs.length
        (n ≠ 0 → g.hsize + g.lsize < off + n → runs (.evBar2Access win off acc) s s)
        ∧ (off + n ≤ g.hsize + g.lsize →
          (∀ len, acc = .read len → ∃ t snoops bad, runs (.evBar2Access win off acc) s t ∧ onlySnoops snoops ∧ (∀ x, t.latest x = s.latest x)
            ∧ t.hostOut = s.hostOut ++ snoops ++ [.readData win ((List.range len).map fun k => s.latest (windowPa g (off + k))) bad]
            ∧ (bad = true ↔ ∃ k < len, s.poisoned (windowPa g (off + k) / 64) = true ∨ ∃ st, s.stageAt pid (windowPa g (off + k)) = some (.failed st)))
          ∧ ∀ bs, acc = .write bs → (∀ k < bs.length, s.slotPages (windowPa g (off + k) / 64) = []) → ∃ t, runs (.evBar2Access win off acc) s t
            ∧ (∀ k < bs.length, t.latest (windowPa g (off + k)) = bs.getD k 0) ∧ (∀ x, (∀ k < bs.length, x ≠ windowPa g (off + k)) → t.latest x = s.latest x)
            ∧ ∀ k, off ≤ 64 * k → 64 * k + 64 ≤ off + bs.length → t.poisoned (windowPa g (64 * k) / 64) = false))

/-- R406, R407, R420: the Ultra Ethernet endpoint takes the descriptor at HEAD of a partition's send ring, resolves the future of a tagged reply, and
delivers a message to the partition that owns its job. A descriptor that it cannot send and a reply that it cannot deliver count in the partition's
NETDROP; a message whose job the partition does not own is counted by Belvedere (R406). -/
def Obligations.NetworkEndpoint : Prop :=
  (∀ (s : State) (pid : Nat) (job : BitVec 32) (msg : List Byte),
      (job ∈ (s.part pid).jobs → runs (.evUeMessageReceive pid job msg) s { s with ueInbox := s.ueInbox ++ [(pid, job, msg)] })
      ∧ (job ∉ (s.part pid).jobs → runs (.evUeMessageReceive pid job msg) s { s with ueDropped := s.ueDropped + 1 }))
  ∧ (∀ (s : State) (pid : Nat), (s.part pid).ring = none → runs (.evUeDescriptorTake pid) s s)
  ∧ (∀ (s u : State) (pid : Nat) (ring : Word), (s.part pid).ring = some ring →
      (s.devRead pid false ring 64 = (u, none) → runs (.evUeDescriptorTake pid) s (u.hypEvent (.sendRing pid)))
      ∧ (∀ h, s.devRead pid false ring 64 = (u, some (h, true)) → runs (.evUeDescriptorTake pid) s (u.hypEvent (.sendRing pid)))
      ∧ ∀ h, s.devRead pid false ring 64 = (u, some (h, false)) →
        let head := bnat h 16 4
        let va : Word := BitVec.ofNat 64 (bnat h 0 8 + 64 * (head % 2 ^ bnat h 8 1))
        let goes := fun (z : State) => runs (.evUeDescriptorTake pid) s (z.devWrite pid false (ring + 16) (leBytes 4 (head + 1))).1
        (ringHeaderOk h = false → runs (.evUeDescriptorTake pid) s (u.hypEvent (.sendRing pid)))
        ∧ (ringHeaderOk h = true → head = bnat h 20 4 → runs (.evUeDescriptorTake pid) s u)
        ∧ (ringHeaderOk h = true → head ≠ bnat h 20 4 → ∀ v,
          (u.devRead pid false va 64 = (v, none) → goes (v.netDrop pid))
          ∧ (∀ d, u.devRead pid false va 64 = (v, some (d, true)) → goes (v.netDrop pid))
          ∧ ∀ d, u.devRead pid false va 64 = (v, some (d, false)) →
            (descOk (v.part pid) d = false → goes (v.netDrop pid))
            ∧ (descOk (v.part pid) d = true → ∀ y,
              (v.devRead pid false (deMsg d) (deLen d) = (y, none) → goes (y.netDrop pid))
              ∧ (∀ m, v.devRead pid false (deMsg d) (deLen d) = (y, some (m, true)) → goes (y.netDrop pid))
              ∧ ∀ m, v.devRead pid false (deMsg d) (deLen d) = (y, some (m, false)) →
                let sent := fun (tag : Option Word) => (⟨pid, deOp d, BitVec.ofNat 32 (bnat d 12 4), BitVec.ofNat 48 (bnat d 16 6), m, tag⟩ : UeSent)
                (deReply d = false → goes { y with ueSent := y.ueSent ++ [sent none] })
                ∧ (deReply d = true → ∀ z, (y.replyDie pid d = (z, none) → goes (z.netDrop pid))
                  ∧ ∀ die, y.replyDie pid d = (z, some die) → let z' := z.recordReply pid d
                    goes { z' with ueSent := z'.ueSent ++ [sent (some (BitVec.ofNat 64 ((((deHnd d).setWidth 32).toNat / 4) * 4 + die % 16 * 2 ^ 32)))] }))))
  ∧ ∀ (s : State) (pid : Nat) (tag : BitVec 64) (payload : List Byte), let die := (tag.extractLsb' 32 4).toNat
      let n := (tag.extractLsb' 16 16).toNat
      let drops := fun (u : State) => ∃ t, runs (.evUeTaggedReply pid tag payload) s t ∧ (t.part pid).netdrop = (u.part pid).netdrop + 1
      (s.slot die n = none → drops s)
      ∧ ∀ x, s.slot die n = some x →
        let w0 := s.latestNat x.pa 8
        ((x.part ≠ pid ∨ nbits 16 16 w0 ≠ n ∨ (tag.extractLsb' 2 14).toNat ≠ nbits 2 14 w0 ∨ 2 ≤ w0 % 4 ∨ tag.extractLsb' 36 28 ≠ 0) → drops s)
        ∧ (∀ va ph c, x.kind = .barrier va ph c → drops s)
        ∧ ∀ va w dl q re inj, x.kind = .future va w dl q re inj →
          (re = none → drops s)
          ∧ (late dl s.time.toNat = true → drops s)
          ∧ ∀ buf len u, re = some (buf, len) → late dl s.time.toNat = false → x.part = pid → (tag.extractLsb' 2 14).toNat = nbits 2 14 w0 → w0 % 4 < 2 →
            tag.extractLsb' 36 28 = 0 → nbits 16 16 w0 = n →
            (s.devWrite pid false buf (payload.take len) = (u, false) → drops u)
            ∧ (s.devWrite pid false buf (payload.take len) = (u, true) → q = none → u.slotPages (x.pa / 64) = [] → x.pa % 16 = 0 →
              ∃ t, runs (.evUeTaggedReply pid tag payload) s t
                ∧ wroteBytes u t x.pa (leBytes 8 (n * 65536 + nbits 2 14 w0 * 4 + 2) ++ leBytes 8 buf.toNat)
                ∧ releases u t die n pid va (n * 65536 + nbits 2 14 w0 * 4 + 2) buf.toNat 0 [w])
            ∧ (s.devWrite pid false buf (payload.take len) = (u, true) → ∀ z, q = some z → ∃ (t : State) (j : Inject), runs (.evUeTaggedReply pid tag payload) s t
              ∧ j.queue = z ∧ j.src = some buf ∧ j.done = 0 ∧ j.wait_ = [w] ∧ t.slot die n = some { x with kind := .future va .none none (some z) re (some j) })

/-! The encodings, the reset state, the form of memory, and what one step does with the agenda. -/

namespace Sys2Proof.Claims

/-- The state in which a turn acts: what the homes hold is performed (R388), the turn is taken from the agenda, and cur names who moves. -/
def turnOf (s : State) (rest : List Turn) (c : Cur) : State := { s.serveHeld with agenda := rest, now := s.serveHeld.now + 1, cur := c }

/-- An engine of v fetches the line of its program counter, which is b, in state z: it holds none, and one that had waited for a tile acquires it
(R53, R124, R168). -/
def fetches (v z : State) (cell ctx : Nat) (e : Eng) (b : BitVec 256) : Prop :=
  let c := (v.ctx cell ctx).eng e
  (∀ l, c.line = some l → l.1 ≠ lineSlot c.pc) ∧ ∃ w, v.fetchLine cell (v.ctx cell ctx).kmode c.pc = .ok (b, w) ∧ z = w.tileCame cell ctx e

/-- A branch of an engine that could not be checked before went to a slot of the line b that is no target of the engine (R173). -/
def lateFails (c : EngC) (e : Eng) (b : BitVec 256) (r : Unchecked) : Prop :=
  c.unchecked = some r ∧ lineSlot r.target = lineSlot c.pc ∧ ¬legalTarget b e r.target

/-- An engine that may move has the line b of its program counter, in the state u: it holds it; or it fetches it, its header is good, and a branch whose
target could not be checked before went to one of its own lanes (R53, R168, R173; log 15). -/
def hasLine (v u : State) (cell ctx : Nat) (e : Eng) (b : BitVec 256) : Prop :=
  let c := (v.ctx cell ctx).eng e
  (c.line = some (lineSlot c.pc, b) ∧ u = v)
    ∨ ∃ z, fetches v z cell ctx e b ∧ headerOk b = true ∧ (∀ r, ¬lateFails ((z.ctx cell ctx).eng e) e b r)
      ∧ let x := z.ctx cell ctx
        let y := x.setEng e { x.eng e with unchecked := none }
        u = (z.setCtx cell ctx y).setCtx cell ctx (y.setEng e { x.eng e with line := some (lineSlot (x.eng e).pc, b), waited := none, unchecked := none })

/-- No join holds the engine up before the line b (R171). -/
def passes (u : State) (cell ctx : Nat) (e : Eng) (b : BitVec 256) : Prop :=
  isJoin b = false ∨ firstLane b e 1 = none ∨ ((u.ctx cell ctx).eng e).passed = some (lineSlot ((u.ctx cell ctx).eng e).pc)

/-- The program counter of an engine moved to lane k of its line. -/
def atLane (u : State) (cell ctx : Nat) (e : Eng) (k : Nat) : State :=
  let x := u.ctx cell ctx
  u.setCtx cell ctx (x.setEng e { x.eng e with pc := lineSlot (x.eng e).pc + BitVec.ofNat 55 k })

/-- An engine comes to lane k of its line b, in state u, when the turn s.agenda names it. -/
def comesTo (s u : State) (cell ctx : Nat) (e : Eng) (rest : List Turn) (b : BitVec 256) (k : Nat) : Prop :=
  let v := turnOf s rest ⟨cell, ctx, 0⟩
  s.serveHeld.agenda = .engine cell ctx e :: rest ∧ (v.ctx cell ctx).moves e = true ∧ (v.ctx cell ctx).taken = none ∧ hasLine v u cell ctx e b ∧ passes u cell ctx e b
    ∧ firstLane b e (((u.ctx cell ctx).eng e).pc.toNat % 8) = some k ∧ (e = .m → (u.cell cell).claim = some ctx)

end Sys2Proof.Claims

/-- Words written out from the opcode maps and the examples of the manual: add, cmpi, a.lim with its immediate lane, a.cmp, m.set, m.go, and
enx.fres and enx.send; a lane that takes no extension is refused with one. -/
def Obligations.WordsDecode : Prop :=
  decodeEng .x 0x06ADC80A none = some (.xAdd 21 13 25 10) ∧ decodeEng .x 0x26ADB53A none = some (.xCmpi .geu 21 13 0x153 10)
    ∧ decodeEng .x 0x06ADC80A (some 0) = none ∧ decodeEng .a 0x0D400002 (some 0x89ABCDEF) = some (.aLim 10 0x89ABCDEF 2)
    ∧ decodeEng .a 0x104A3051 none = some (.aCmp .geu 2 10 6 1) ∧ decodeEng .m 0x04D55A30 none = some (.mSet .sliceK 10 0x5A3)
    ∧ decodeEng .m 0x08000000 none = some .mGo ∧ rawH 0x68C5950B = some (.enxFres 10 11 12 13) ∧ rawH 0x0005850B = some (.enxSend 10 11)

/-- Every well-formed instruction of an engine has a word, with an immediate lane just where its major takes two lanes, that its engine decodes to it
again, with every operand (R170, R175 to R181). -/
def Obligations.EngineWordsRoundTrip : Prop :=
  ∀ (i : Instr) (e : Eng), i.wf = true → i.who = .eng e → ∃ (w : Nat) (ext : Option Nat), encode i = w :: ext.toList ∧ w < 2 ^ 32 ∧ (ext.isSome = twoLane e w)
    ∧ decodeEng e w ext = some i

/-- Every well-formed Xenx instruction has a word of a custom opcode that a hart decodes to it again, with every operand (R302). -/
def Obligations.HartWordsRoundTrip : Prop :=
  ∀ i : Instr, i.wf = true → i.who = .hart → ∃ w : Nat, encode i = [w] ∧ w < 2 ^ 32 ∧ customWord (BitVec.ofNat 32 w) = true ∧ rawH w = some i

/-- R3, R341, R360, R409, R410: what module reset leaves. Every cell has tag 31, no logical number, the reset watchdog limit and lease; no partition exists;
BSTAT reads 0; the clock is 3.3 GHz and the power limit 2,400 W; memory lists nothing and has its canonical form. That
selection is on, caches are empty, and memory lists nothing are the model's choices (logs 7 and 2); cause 24 is delegated (R299). -/
def Obligations.ResetState : Prop :=
  (∀ c, (State.reset.cell c).tag = 31 ∧ (State.reset.cell c).lcell = 0xFFFF ∧ (State.reset.cell c).wdlim = 0x1000000 ∧ (State.reset.cell c).lease = 1024
      ∧ (State.reset.cell c).select = true ∧ (State.reset.cell c).l1 = [] ∧ ∀ k, (State.reset.ctx c k).st = .free ∧ ∀ e, ((State.reset.ctx c k).eng e).st = .notStarted)
    ∧ (∀ p, (State.reset.part p).st = .absent ∧ (State.reset.part p).threshold = 4 ∧ (State.reset.part p).grace = 1000000)
    ∧ (∀ n, (State.reset.hart n).enxmode = false ∧ (State.reset.hart n).capen = false ∧ (State.reset.hart n).senxcause = 0 ∧ (mget 0 (State.reset.hart n).csrs 0x302).getLsbD 24 = true ∧ (mget 0 (State.reset.hart n).csrs 0x602).getLsbD 24 = true ∧ ∀ k, mget Cap.reset (State.reset.hart n).caps k = ⟨0, 0, 0⟩)
    ∧ (∀ f q, (((State.reset.fn f).queue q).qlog = 0 ∧ ((State.reset.fn f).queue q).badn = 0) ∧ (State.reset.fn f).revoked = 0)
    ∧ State.reset.bstat = 0 ∧ State.reset.freq = 33 ∧ State.reset.plim = 2400 ∧ State.reset.flights = [] ∧ State.reset.mem = [] ∧ Memory.wf State.reset.mem

/-- Every step keeps the canonical form of memory: addresses strictly rising, and no byte listed that an unlisted address reads as. -/
def Obligations.StepKeepsMemoryForm : Prop :=
  ∀ s t : State, Memory.wf s.mem → step s = .next t → Memory.wf t.mem

/-- R53, R168, R172 to R174, R178, R302, R388: a step performs what the homes hold, and fetches, decodes and runs one instruction. An engine's step is exec of the instruction that its next own lane
decodes to; a word that decodes to nothing traps as an illegal instruction, a privileged one in U mode as a privilege trap, a line with a bad header as a bad
line, and a branch to what turns out to be no lane of its engine stops it at the branch (log 15). A hart's step is exec of its Xenx instruction, and any
other word has the effect of the standard machine (log 8). A device step is exec of its row. -/
def Obligations.StepRunsDecoded : Prop :=
  (∀ (s u : State) (cell ctx : Nat) (e : Eng) (rest : List Turn) (b : BitVec 256) (k : Nat), comesTo s u cell ctx e rest b k →
    let w := laneWord b k
    let t := atLane u cell ctx e k
    (∀ i, decodeEng e w (extWord b e k) = some i → (e = .x → privilegedX w = true → (u.ctx cell ctx).kmode = true) → step s = exec i t)
    ∧ (e = .x → privilegedX w = true → (u.ctx cell ctx).kmode = false → step s = .next (t.raise cell ctx e ⟨4, 6, 0xFF, 0, 0, 0⟩ 0 0))
    ∧ (decodeEng e w (extWord b e k) = none → (e = .x → privilegedX w = true → (u.ctx cell ctx).kmode = true) →
        step s = .next (t.raise cell ctx e ⟨1, 6, 0xFF, 0, 0, 0⟩ 0 0)))
  ∧ (∀ (s : State) (cell ctx : Nat) (e : Eng) (rest : List Turn) (b : BitVec 256), let v := turnOf s rest ⟨cell, ctx, 0⟩
      let c := (v.ctx cell ctx).eng e
      s.serveHeld.agenda = .engine cell ctx e :: rest → (v.ctx cell ctx).moves e = true → (v.ctx cell ctx).taken = none →
      (∀ z, fetches v z cell ctx e b →
        let x := z.ctx cell ctx
        (∀ r, lateFails (x.eng e) e b r →
          let y := r.link.elim x fun w => x.setG 31 w
          step s = .next ((z.setCtx cell ctx (y.setEng e { x.eng e with pc := r.src, line := r.line, passed := r.passed, unchecked := none })).raise cell ctx e
            ⟨3, 6, 0xFF, slotAddr r.target, 0, 0⟩ 0 0))
        ∧ (headerOk b = false → (x.eng e).unchecked = none → step s = .next (z.raise cell ctx e ⟨2, 6, 0xFF, 0, 0, 0⟩ 0 0)))
      ∧ ((∀ l, c.line = some l → l.1 ≠ lineSlot c.pc) → ∀ w,
        (∀ y, v.fetchLine cell (v.ctx cell ctx).kmode c.pc = .error (.fault y, w) → step s = .next (w.raise cell ctx e y 0 0))
        ∧ ∀ pa, v.fetchLine cell (v.ctx cell ctx).kmode c.pc = .error (.pending pa, w) →
            step s = .next ({ w with cur := ⟨cell, ctx, w.cur.core⟩ }.noteLate e false pa)))
  ∧ (∀ (s u : State) (core : Nat) (rest : List Turn) (w : BitVec 32), let v := turnOf s rest ⟨0, 0, core⟩
      s.serveHeld.agenda = .hart core :: rest → core < 128 → v.hx.moves = true →
      (∀ e, v.hartFetch = .error e → step s = .next (v.hartEnd (.error e)))
      ∧ (v.hartFetch = .ok (w, u) →
        (customWord w = true → ∀ i, rawH w.toNat = some i → step s = exec i u)
        ∧ (customWord w = true → rawH w.toNat = none → step s = .next (excepts u 2 (w.setWidth 64) none))
        ∧ (customWord w = false → step s = .next (u.hartEnd (u.rvWord w.toNat)))))
  ∧ (∀ (s : State) (rest : List Turn) (i : Instr), s.serveHeld.agenda = .event i :: rest → i.who = .device →
      step s = exec i { s.serveHeld with agenda := rest, now := s.serveHeld.now + 1 })
  ∧ (∀ s : State, (∀ a ∈ s.asks, a.conflict = false) → s.serveHeld = s)
  ∧ ∀ (s' : State) (rest : List Turn) (n : Nat), let s := s'.serveHeld
      s.agenda = .clock n :: rest → ∃ t, step s' = .next t
      ∧ let now := s.time + BitVec.ofNat 64 ((10 * n + s.timeRem) / s.freq)
        t.cycle = s.cycle + BitVec.ofNat 64 n ∧ t.time = now
        ∧ (∀ c k, (s.ctx c k).st = .running → (s.ctx c k).limit ≤ (s.ctx c k).wdcnt + n → (t.ctx c k).st ≠ .running)
        ∧ ((∀ e ∈ s.cells, ∀ f ∈ e.2.ctxs, f.2.st = .running → f.2.wdcnt + n < f.2.limit) →
          (∀ d ∈ s.futs, ∀ x ∈ d.2, ∀ va w dl q re inj, x.2.kind = .future va w (some dl) q re inj → now.toNat < dl + 1000) →
          t.mem = s.mem ∧ ∀ c k, (t.ctx c k).wdcnt = if (s.ctx c k).st = .running then (s.ctx c k).wdcnt + n else (s.ctx c k).wdcnt)

/-! Statements of one family together. -/

/-- R191 to R201, R240: every scalar and predicate instruction of X writes its result, goes past its lanes and changes nothing else. -/
def Obligations.ScalarResults : Prop := Claims.XScalarResult ∧ Claims.XPredicateResult

/-- R62, R64, R201: csrw and csrs give what the CSR held and write it; what each CSR reads. -/
def Obligations.CsrInstructions : Prop := Claims.CsrWriteReturnsOld ∧ Claims.CsrContents

/-- R172, R173, R203 to R207, R241, R252: jumps and taken branches move their engine, a target that is no first lane of it traps, an untaken branch goes on;
call with its link, and resume points; loop sets a counter, and a counter acts at the instruction its loop ends with. -/
def Obligations.ControlTransfers : Prop := Claims.JumpMovesEngine ∧ Claims.JumpToWrongLaneTraps ∧ Claims.UntakenBranchGoesOn ∧ Claims.CallLinks ∧ Claims.ResumePointUnchecked ∧ Claims.LoopSetsCounter ∧ Claims.LoopEndsAtInstruction

/-- R188 to R190, R241, R249: done ends an engine, sys and ebrk take their trap. -/
def Obligations.EnginesStop : Prop := Claims.DoneEndsEngine ∧ Claims.SystemCallStops

/-- R72, R133, R208: the token FIFOs between engines. -/
def Obligations.TokenFifos : Prop := Claims.FifoPutAppends ∧ Claims.FifoGetTakesOldest

/-- R241, R249, R252: the scalar instructions of the A and M engines. -/
def Obligations.EngineScalarResults : Prop := Claims.AScalarResult ∧ Claims.MScalarResult

/-- R56, R91, R215, R217, R219, R220: vector compares, extracts, reductions and quantisation. -/
def Obligations.VectorOtherResults : Prop := Claims.VectorCompareResult ∧ Claims.VectorExtractResult ∧ Claims.VectorQuantiseResult ∧ Claims.VectorReduceResult

/-- R70, R222: vpop takes the oldest entry of a load stream, vpush appends one to a store stream. -/
def Obligations.StreamPorts : Prop := Claims.VectorPopTakesEntry ∧ Claims.VectorPushAppendsEntry

/-- R104, R223, R238: loads and stores of the cell store. -/
def Obligations.CellStoreAccess : Prop := Claims.CellStoreLoads ∧ Claims.CellStoreStores

/-- R225 to R229: the grammar instructions. -/
def Obligations.TrellisOperations : Prop := Claims.TrellisBlockMoves ∧ Claims.TrellisStep ∧ Claims.TrellisMasks

/-- R74, R130, R134, R231, R234: loads of memory, and the trap of an address that is not aligned. -/
def Obligations.LoadsAndAlignment : Prop := Claims.LoadGivesBytes ∧ Claims.MisalignedAccessTraps

/-- R131, R135, R140, R237, R247: the fences of X and A. -/
def Obligations.Fences : Prop := Claims.FenceOrders ∧ Claims.AFenceWaitsForGroups

/-- R61, R114 to R117, R239, R240, R247: tlwait and the issue of copies. -/
def Obligations.TimelinesAndCopies : Prop := Claims.TimelineWaitAcquires ∧ Claims.CopyIssueTakesTicket

/-- R148, R298 to R305, R307, R389: the other Xenx instructions, and the accesses of harts. -/
def Obligations.HartInstructions : Prop := Claims.HartRegisters ∧ Claims.HartMemoryOperations

/-- R42 to R46, R286 to R288: futures, from X. -/
def Obligations.FuturesOfX : Prop := Claims.FutureOperations ∧ Claims.FutureWaits

/-- R66 to R71, R242 to R246: streams open, close, and issue groups. -/
def Obligations.Streams : Prop := Claims.StreamsOpenClose ∧ Claims.StreamGroupsIssue
end

