-- ==== Sys2Proof/Laws/Map.lean ====
section
/-! SUPPORT. What a sparse map reads after a write, and the canonical form that every write keeps. -/

namespace Sys2Proof

variable {α : Type}

@[simp] theorem mfind_nil (k : Nat) : mfind ([] : SMap α) k = none := rfl
@[simp] theorem mget_nil (d : α) (k : Nat) : mget d ([] : SMap α) k = d := rfl

theorem mfind_mput (m : SMap α) (k j : Nat) (v : α) : mfind (mput m k v) j = if k = j then some v else mfind m j := by
  induction m with
  | nil => simp [mput, mfind]
  | cons e t ih =>
    obtain ⟨i, w⟩ := e
    simp only [mput]
    split
    · simp [mfind]
    · split
      · subst_vars; by_cases h : i = j <;> simp [mfind, h]
      · by_cases h : i = j
        · subst h; simp [mfind]; omega
        · simp [mfind, h, ih]

/-- A read after a write: the value written under its key, the old value under every other. -/
@[simp] theorem mget_mput (d : α) (m : SMap α) (k j : Nat) (v : α) : mget d (mput m k v) j = if k = j then v else mget d m j := by
  unfold mget; rw [mfind_mput]; split <;> simp

@[simp] theorem mget_mput_self (d : α) (m : SMap α) (k : Nat) (v : α) : mget d (mput m k v) k = v := by simp

theorem mget_mput_ne (d : α) (m : SMap α) {k j : Nat} (v : α) (h : k ≠ j) : mget d (mput m k v) j = mget d m j := by simp [h]

theorem mfind_mdel (m : SMap α) (k j : Nat) : mfind (mdel m k) j = if k = j then none else mfind m j := by
  induction m with
  | nil => simp [mdel]
  | cons e t ih =>
    obtain ⟨i, w⟩ := e
    simp only [mdel, List.filter_cons] at ih ⊢
    by_cases h : i = k
    · subst h; simp only [bne_self_eq_false, Bool.false_eq_true, if_false, ih, mfind]
      split <;> rfl
    · simp only [bne_iff_ne, ne_eq, h, not_false_eq_true, if_true, mfind, ih]
      by_cases hj : i = j
      · subst hj; simp [Ne.symm h]
      · simp [hj]

/-- A write of a map without listed defaults reads back. -/
@[simp] theorem mget_mset [DecidableEq α] (d : α) (m : SMap α) (k j : Nat) (v : α) :
    mget d (mset d m k v) j = if k = j then v else mget d m j := by
  unfold mset
  split
  · subst_vars; unfold mget; rw [mfind_mdel]; split <;> simp
  · simp

/-! The canonical form. -/

theorem mwf_iff [DecidableEq α] (d : α) (m : SMap α) :
    mwf d m = true ↔ m.Pairwise (fun a b => a.1 < b.1) ∧ ∀ e ∈ m, e.2 ≠ d := by
  induction m with
  | nil => simp [mwf]
  | cons e t ih =>
    obtain ⟨j, v⟩ := e
    cases t with
    | nil => simp [mwf]
    | cons f u =>
      obtain ⟨k, w⟩ := f
      simp only [mwf, Bool.and_eq_true, bne_iff_ne, ne_eq, decide_eq_true_eq, ih, List.pairwise_cons, List.mem_cons, forall_eq_or_imp]
      constructor
      · rintro ⟨⟨hv, hjk⟩, ⟨⟨hk, hp⟩, hw, hu⟩⟩
        exact ⟨⟨⟨hjk, fun a ha => Nat.lt_trans hjk (hk a ha)⟩, hk, hp⟩, hv, hw, hu⟩
      · rintro ⟨⟨⟨hjk, _⟩, hk, hp⟩, hv, hw, hu⟩
        exact ⟨⟨hv, hjk⟩, ⟨hk, hp⟩, hw, hu⟩

theorem mem_mput (m : SMap α) (k : Nat) (v : α) (e : Nat × α) (h : e ∈ mput m k v) : e = (k, v) ∨ e ∈ m := by
  induction m with
  | nil => simpa [mput] using h
  | cons f t ih =>
    obtain ⟨j, w⟩ := f
    simp only [mput] at h
    split at h
    · simpa using h
    · split at h
      · rcases List.mem_cons.1 h with h | h
        · exact .inl h
        · exact .inr (List.mem_cons_of_mem _ h)
      · rcases List.mem_cons.1 h with h | h
        · exact .inr (h ▸ List.mem_cons_self)
        · exact (ih h).imp_right (List.mem_cons_of_mem _)

theorem mput_pairwise (m : SMap α) (k : Nat) (v : α) (h : m.Pairwise (fun a b => a.1 < b.1)) :
    (mput m k v).Pairwise (fun a b => a.1 < b.1) := by
  induction m with
  | nil => simp [mput]
  | cons f t ih =>
    obtain ⟨j, w⟩ := f
    obtain ⟨hj, ht⟩ := List.pairwise_cons.1 h
    simp only [mput]
    split
    · refine List.pairwise_cons.2 ⟨fun a ha => ?_, h⟩
      rcases List.mem_cons.1 ha with rfl | ha
      · assumption
      · exact Nat.lt_trans ‹_› (hj a ha)
    · split
      · subst_vars; exact List.pairwise_cons.2 ⟨hj, ht⟩
      · refine List.pairwise_cons.2 ⟨fun a ha => ?_, ih ht⟩
        rcases mem_mput t k v a ha with rfl | ha
        · simp only; omega
        · exact hj a ha

/-- A write keeps the canonical form. -/
theorem mwf_mset [DecidableEq α] (d : α) (m : SMap α) (k : Nat) (v : α) (h : mwf d m = true) : mwf d (mset d m k v) = true := by
  rw [mwf_iff] at h ⊢
  unfold mset
  split
  · exact ⟨h.1.filter _, fun e he => h.2 e (List.mem_of_mem_filter he)⟩
  · refine ⟨mput_pairwise m k v h.1, fun e he => ?_⟩
    rcases mem_mput m k v e he with rfl | he
    · assumption
    · exact h.2 e he

/-- Leaving entries out keeps the canonical form. -/
theorem mwf_filter [DecidableEq α] (d : α) (m : SMap α) (p : Nat × α → Bool) (h : mwf d m = true) : mwf d (m.filter p) = true := by
  rw [mwf_iff] at h ⊢
  exact ⟨h.1.filter _, fun e he => h.2 e (List.mem_of_mem_filter he)⟩

/-- A sequence of writes keeps the canonical form. -/
theorem mwf_foldl_mset [DecidableEq α] (d : α) (ws : List (Nat × α)) (m : SMap α) (h : mwf d m = true) :
    mwf d (ws.foldl (fun m w => mset d m w.1 w.2) m) = true := by
  induction ws generalizing m with
  | nil => exact h
  | cons w t ih => exact ih _ (mwf_mset d m w.1 w.2 h)

/-- A key below every listed one is not listed. -/
theorem mfind_eq_none_of_lt (m : SMap α) (k : Nat) (h : ∀ e ∈ m, k < e.1) : mfind m k = none := by
  induction m with
  | nil => rfl
  | cons f t ih =>
    obtain ⟨j, w⟩ := f
    have hj : k < j := h (j, w) List.mem_cons_self
    simp only [mfind]
    rw [if_neg (by omega)]
    exact ih fun e he => h e (List.mem_cons_of_mem _ he)

end Sys2Proof
end

