-- ==== Sys2Proof/Laws/Ctx.lean ====
section
/-! SUPPORT. What an update of a context, and of a cell, leaves alone: one lemma per field and update. -/

namespace Sys2Proof.Machine
open Sys2Proof

@[simp] theorem Ctx.setG_st (x : Ctx) (r : RegG) (w : Word) : (x.setG r w).st = x.st := by unfold Ctx.setG; split <;> rfl
@[simp] theorem Ctx.setG_chan (x : Ctx) (r : RegG) (w : Word) : (x.setG r w).chan = x.chan := by unfold Ctx.setG; split <;> rfl
@[simp] theorem Ctx.setG_phdr (x : Ctx) (r : RegG) (w : Word) : (x.setG r w).phdr = x.phdr := by unfold Ctx.setG; split <;> rfl
@[simp] theorem Ctx.setG_kmode (x : Ctx) (r : RegG) (w : Word) : (x.setG r w).kmode = x.kmode := by unfold Ctx.setG; split <;> rfl
@[simp] theorem Ctx.setG_inv (x : Ctx) (r : RegG) (w : Word) : (x.setG r w).inv = x.inv := by unfold Ctx.setG; split <;> rfl
@[simp] theorem Ctx.setG_limit (x : Ctx) (r : RegG) (w : Word) : (x.setG r w).limit = x.limit := by unfold Ctx.setG; split <;> rfl
@[simp] theorem Ctx.setG_wdcnt (x : Ctx) (r : RegG) (w : Word) : (x.setG r w).wdcnt = x.wdcnt := by unfold Ctx.setG; split <;> rfl
@[simp] theorem Ctx.setG_v (x : Ctx) (r : RegG) (w : Word) : (x.setG r w).v = x.v := by unfold Ctx.setG; split <;> rfl
@[simp] theorem Ctx.setG_p (x : Ctx) (r : RegG) (w : Word) : (x.setG r w).p = x.p := by unfold Ctx.setG; split <;> rfl
@[simp] theorem Ctx.setG_b (x : Ctx) (r : RegG) (w : Word) : (x.setG r w).b = x.b := by unfold Ctx.setG; split <;> rfl
@[simp] theorem Ctx.setG_q (x : Ctx) (r : RegG) (w : Word) : (x.setG r w).q = x.q := by unfold Ctx.setG; split <;> rfl
@[simp] theorem Ctx.setG_c (x : Ctx) (r : RegG) (w : Word) : (x.setG r w).c = x.c := by unfold Ctx.setG; split <;> rfl
@[simp] theorem Ctx.setG_shadow (x : Ctx) (r : RegG) (w : Word) : (x.setG r w).shadow = x.shadow := by unfold Ctx.setG; split <;> rfl
@[simp] theorem Ctx.setG_ex (x : Ctx) (r : RegG) (w : Word) : (x.setG r w).ex = x.ex := by unfold Ctx.setG; split <;> rfl
@[simp] theorem Ctx.setG_ea (x : Ctx) (r : RegG) (w : Word) : (x.setG r w).ea = x.ea := by unfold Ctx.setG; split <;> rfl
@[simp] theorem Ctx.setG_em (x : Ctx) (r : RegG) (w : Word) : (x.setG r w).em = x.em := by unfold Ctx.setG; split <;> rfl
@[simp] theorem Ctx.setG_loops (x : Ctx) (r : RegG) (w : Word) : (x.setG r w).loops = x.loops := by unfold Ctx.setG; split <;> rfl
@[simp] theorem Ctx.setG_issue (x : Ctx) (r : RegG) (w : Word) : (x.setG r w).issue = x.issue := by unfold Ctx.setG; split <;> rfl
@[simp] theorem Ctx.setG_done (x : Ctx) (r : RegG) (w : Word) : (x.setG r w).done = x.done := by unfold Ctx.setG; split <;> rfl
@[simp] theorem Ctx.setG_streams (x : Ctx) (r : RegG) (w : Word) : (x.setG r w).streams = x.streams := by unfold Ctx.setG; split <;> rfl
@[simp] theorem Ctx.setG_fifos (x : Ctx) (r : RegG) (w : Word) : (x.setG r w).fifos = x.fifos := by unfold Ctx.setG; split <;> rfl
@[simp] theorem Ctx.setG_fmode (x : Ctx) (r : RegG) (w : Word) : (x.setG r w).fmode = x.fmode := by unfold Ctx.setG; split <;> rfl
@[simp] theorem Ctx.setG_xfid (x : Ctx) (r : RegG) (w : Word) : (x.setG r w).xfid = x.xfid := by unfold Ctx.setG; split <;> rfl
@[simp] theorem Ctx.setG_late (x : Ctx) (r : RegG) (w : Word) : (x.setG r w).late = x.late := by unfold Ctx.setG; split <;> rfl
@[simp] theorem Ctx.setG_gst (x : Ctx) (r : RegG) (w : Word) : (x.setG r w).gst = x.gst := by unfold Ctx.setG; split <;> rfl
@[simp] theorem Ctx.setG_gstk (x : Ctx) (r : RegG) (w : Word) : (x.setG r w).gstk = x.gstk := by unfold Ctx.setG; split <;> rfl
@[simp] theorem Ctx.setG_gtt (x : Ctx) (r : RegG) (w : Word) : (x.setG r w).gtt = x.gtt := by unfold Ctx.setG; split <;> rfl
@[simp] theorem Ctx.setG_gmt (x : Ctx) (r : RegG) (w : Word) : (x.setG r w).gmt = x.gmt := by unfold Ctx.setG; split <;> rfl
@[simp] theorem Ctx.setG_gdim (x : Ctx) (r : RegG) (w : Word) : (x.setG r w).gdim = x.gdim := by unfold Ctx.setG; split <;> rfl
@[simp] theorem Ctx.setG_trap (x : Ctx) (r : RegG) (w : Word) : (x.setG r w).trap = x.trap := by unfold Ctx.setG; split <;> rfl
@[simp] theorem Ctx.setG_esc (x : Ctx) (r : RegG) (w : Word) : (x.setG r w).esc = x.esc := by unfold Ctx.setG; split <;> rfl
@[simp] theorem Ctx.setG_out (x : Ctx) (r : RegG) (w : Word) : (x.setG r w).out = x.out := by unfold Ctx.setG; split <;> rfl
@[simp] theorem Ctx.setG_pend (x : Ctx) (r : RegG) (w : Word) : (x.setG r w).pend = x.pend := by unfold Ctx.setG; split <;> rfl
@[simp] theorem Ctx.setG_verdicts (x : Ctx) (r : RegG) (w : Word) : (x.setG r w).verdicts = x.verdicts := by unfold Ctx.setG; split <;> rfl
@[simp] theorem Ctx.setG_seqs (x : Ctx) (r : RegG) (w : Word) : (x.setG r w).seqs = x.seqs := by unfold Ctx.setG; split <;> rfl
@[simp] theorem Ctx.setG_sb (x : Ctx) (r : RegG) (w : Word) : (x.setG r w).sb = x.sb := by unfold Ctx.setG; split <;> rfl
@[simp] theorem Ctx.setG_popped (x : Ctx) (r : RegG) (w : Word) : (x.setG r w).popped = x.popped := by unfold Ctx.setG; split <;> rfl
@[simp] theorem Ctx.setG_mpoison (x : Ctx) (r : RegG) (w : Word) : (x.setG r w).mpoison = x.mpoison := by unfold Ctx.setG; split <;> rfl
@[simp] theorem Ctx.setG_taken (x : Ctx) (r : RegG) (w : Word) : (x.setG r w).taken = x.taken := by unfold Ctx.setG; split <;> rfl
@[simp] theorem Ctx.setG_sysd (x : Ctx) (r : RegG) (w : Word) : (x.setG r w).sysd = x.sysd := by unfold Ctx.setG; split <;> rfl
@[simp] theorem Ctx.setG_past (x : Ctx) (r : RegG) (w : Word) : (x.setG r w).past = x.past := by unfold Ctx.setG; split <;> rfl

@[simp] theorem Ctx.setV_st (x : Ctx) (r : RegV) (w : Vec) : (x.setV r w).st = x.st := rfl
@[simp] theorem Ctx.setV_chan (x : Ctx) (r : RegV) (w : Vec) : (x.setV r w).chan = x.chan := rfl
@[simp] theorem Ctx.setV_phdr (x : Ctx) (r : RegV) (w : Vec) : (x.setV r w).phdr = x.phdr := rfl
@[simp] theorem Ctx.setV_kmode (x : Ctx) (r : RegV) (w : Vec) : (x.setV r w).kmode = x.kmode := rfl
@[simp] theorem Ctx.setV_inv (x : Ctx) (r : RegV) (w : Vec) : (x.setV r w).inv = x.inv := rfl
@[simp] theorem Ctx.setV_limit (x : Ctx) (r : RegV) (w : Vec) : (x.setV r w).limit = x.limit := rfl
@[simp] theorem Ctx.setV_wdcnt (x : Ctx) (r : RegV) (w : Vec) : (x.setV r w).wdcnt = x.wdcnt := rfl
@[simp] theorem Ctx.setV_g (x : Ctx) (r : RegV) (w : Vec) : (x.setV r w).g = x.g := rfl
@[simp] theorem Ctx.setV_p (x : Ctx) (r : RegV) (w : Vec) : (x.setV r w).p = x.p := rfl
@[simp] theorem Ctx.setV_b (x : Ctx) (r : RegV) (w : Vec) : (x.setV r w).b = x.b := rfl
@[simp] theorem Ctx.setV_q (x : Ctx) (r : RegV) (w : Vec) : (x.setV r w).q = x.q := rfl
@[simp] theorem Ctx.setV_c (x : Ctx) (r : RegV) (w : Vec) : (x.setV r w).c = x.c := rfl
@[simp] theorem Ctx.setV_shadow (x : Ctx) (r : RegV) (w : Vec) : (x.setV r w).shadow = x.shadow := rfl
@[simp] theorem Ctx.setV_ex (x : Ctx) (r : RegV) (w : Vec) : (x.setV r w).ex = x.ex := rfl
@[simp] theorem Ctx.setV_ea (x : Ctx) (r : RegV) (w : Vec) : (x.setV r w).ea = x.ea := rfl
@[simp] theorem Ctx.setV_em (x : Ctx) (r : RegV) (w : Vec) : (x.setV r w).em = x.em := rfl
@[simp] theorem Ctx.setV_loops (x : Ctx) (r : RegV) (w : Vec) : (x.setV r w).loops = x.loops := rfl
@[simp] theorem Ctx.setV_issue (x : Ctx) (r : RegV) (w : Vec) : (x.setV r w).issue = x.issue := rfl
@[simp] theorem Ctx.setV_done (x : Ctx) (r : RegV) (w : Vec) : (x.setV r w).done = x.done := rfl
@[simp] theorem Ctx.setV_streams (x : Ctx) (r : RegV) (w : Vec) : (x.setV r w).streams = x.streams := rfl
@[simp] theorem Ctx.setV_fifos (x : Ctx) (r : RegV) (w : Vec) : (x.setV r w).fifos = x.fifos := rfl
@[simp] theorem Ctx.setV_fmode (x : Ctx) (r : RegV) (w : Vec) : (x.setV r w).fmode = x.fmode := rfl
@[simp] theorem Ctx.setV_xfid (x : Ctx) (r : RegV) (w : Vec) : (x.setV r w).xfid = x.xfid := rfl
@[simp] theorem Ctx.setV_late (x : Ctx) (r : RegV) (w : Vec) : (x.setV r w).late = x.late := rfl
@[simp] theorem Ctx.setV_gst (x : Ctx) (r : RegV) (w : Vec) : (x.setV r w).gst = x.gst := rfl
@[simp] theorem Ctx.setV_gstk (x : Ctx) (r : RegV) (w : Vec) : (x.setV r w).gstk = x.gstk := rfl
@[simp] theorem Ctx.setV_gtt (x : Ctx) (r : RegV) (w : Vec) : (x.setV r w).gtt = x.gtt := rfl
@[simp] theorem Ctx.setV_gmt (x : Ctx) (r : RegV) (w : Vec) : (x.setV r w).gmt = x.gmt := rfl
@[simp] theorem Ctx.setV_gdim (x : Ctx) (r : RegV) (w : Vec) : (x.setV r w).gdim = x.gdim := rfl
@[simp] theorem Ctx.setV_trap (x : Ctx) (r : RegV) (w : Vec) : (x.setV r w).trap = x.trap := rfl
@[simp] theorem Ctx.setV_esc (x : Ctx) (r : RegV) (w : Vec) : (x.setV r w).esc = x.esc := rfl
@[simp] theorem Ctx.setV_out (x : Ctx) (r : RegV) (w : Vec) : (x.setV r w).out = x.out := rfl
@[simp] theorem Ctx.setV_pend (x : Ctx) (r : RegV) (w : Vec) : (x.setV r w).pend = x.pend := rfl
@[simp] theorem Ctx.setV_verdicts (x : Ctx) (r : RegV) (w : Vec) : (x.setV r w).verdicts = x.verdicts := rfl
@[simp] theorem Ctx.setV_seqs (x : Ctx) (r : RegV) (w : Vec) : (x.setV r w).seqs = x.seqs := rfl
@[simp] theorem Ctx.setV_sb (x : Ctx) (r : RegV) (w : Vec) : (x.setV r w).sb = x.sb := rfl
@[simp] theorem Ctx.setV_popped (x : Ctx) (r : RegV) (w : Vec) : (x.setV r w).popped = x.popped := rfl
@[simp] theorem Ctx.setV_mpoison (x : Ctx) (r : RegV) (w : Vec) : (x.setV r w).mpoison = x.mpoison := rfl
@[simp] theorem Ctx.setV_taken (x : Ctx) (r : RegV) (w : Vec) : (x.setV r w).taken = x.taken := rfl
@[simp] theorem Ctx.setV_sysd (x : Ctx) (r : RegV) (w : Vec) : (x.setV r w).sysd = x.sysd := rfl
@[simp] theorem Ctx.setV_past (x : Ctx) (r : RegV) (w : Vec) : (x.setV r w).past = x.past := rfl

@[simp] theorem Ctx.setP_st (x : Ctx) (r : RegP) (w : BitVec 16) : (x.setP r w).st = x.st := by unfold Ctx.setP; split <;> rfl
@[simp] theorem Ctx.setP_chan (x : Ctx) (r : RegP) (w : BitVec 16) : (x.setP r w).chan = x.chan := by unfold Ctx.setP; split <;> rfl
@[simp] theorem Ctx.setP_phdr (x : Ctx) (r : RegP) (w : BitVec 16) : (x.setP r w).phdr = x.phdr := by unfold Ctx.setP; split <;> rfl
@[simp] theorem Ctx.setP_kmode (x : Ctx) (r : RegP) (w : BitVec 16) : (x.setP r w).kmode = x.kmode := by unfold Ctx.setP; split <;> rfl
@[simp] theorem Ctx.setP_inv (x : Ctx) (r : RegP) (w : BitVec 16) : (x.setP r w).inv = x.inv := by unfold Ctx.setP; split <;> rfl
@[simp] theorem Ctx.setP_limit (x : Ctx) (r : RegP) (w : BitVec 16) : (x.setP r w).limit = x.limit := by unfold Ctx.setP; split <;> rfl
@[simp] theorem Ctx.setP_wdcnt (x : Ctx) (r : RegP) (w : BitVec 16) : (x.setP r w).wdcnt = x.wdcnt := by unfold Ctx.setP; split <;> rfl
@[simp] theorem Ctx.setP_g (x : Ctx) (r : RegP) (w : BitVec 16) : (x.setP r w).g = x.g := by unfold Ctx.setP; split <;> rfl
@[simp] theorem Ctx.setP_v (x : Ctx) (r : RegP) (w : BitVec 16) : (x.setP r w).v = x.v := by unfold Ctx.setP; split <;> rfl
@[simp] theorem Ctx.setP_b (x : Ctx) (r : RegP) (w : BitVec 16) : (x.setP r w).b = x.b := by unfold Ctx.setP; split <;> rfl
@[simp] theorem Ctx.setP_q (x : Ctx) (r : RegP) (w : BitVec 16) : (x.setP r w).q = x.q := by unfold Ctx.setP; split <;> rfl
@[simp] theorem Ctx.setP_c (x : Ctx) (r : RegP) (w : BitVec 16) : (x.setP r w).c = x.c := by unfold Ctx.setP; split <;> rfl
@[simp] theorem Ctx.setP_shadow (x : Ctx) (r : RegP) (w : BitVec 16) : (x.setP r w).shadow = x.shadow := by unfold Ctx.setP; split <;> rfl
@[simp] theorem Ctx.setP_ex (x : Ctx) (r : RegP) (w : BitVec 16) : (x.setP r w).ex = x.ex := by unfold Ctx.setP; split <;> rfl
@[simp] theorem Ctx.setP_ea (x : Ctx) (r : RegP) (w : BitVec 16) : (x.setP r w).ea = x.ea := by unfold Ctx.setP; split <;> rfl
@[simp] theorem Ctx.setP_em (x : Ctx) (r : RegP) (w : BitVec 16) : (x.setP r w).em = x.em := by unfold Ctx.setP; split <;> rfl
@[simp] theorem Ctx.setP_loops (x : Ctx) (r : RegP) (w : BitVec 16) : (x.setP r w).loops = x.loops := by unfold Ctx.setP; split <;> rfl
@[simp] theorem Ctx.setP_issue (x : Ctx) (r : RegP) (w : BitVec 16) : (x.setP r w).issue = x.issue := by unfold Ctx.setP; split <;> rfl
@[simp] theorem Ctx.setP_done (x : Ctx) (r : RegP) (w : BitVec 16) : (x.setP r w).done = x.done := by unfold Ctx.setP; split <;> rfl
@[simp] theorem Ctx.setP_streams (x : Ctx) (r : RegP) (w : BitVec 16) : (x.setP r w).streams = x.streams := by unfold Ctx.setP; split <;> rfl
@[simp] theorem Ctx.setP_fifos (x : Ctx) (r : RegP) (w : BitVec 16) : (x.setP r w).fifos = x.fifos := by unfold Ctx.setP; split <;> rfl
@[simp] theorem Ctx.setP_fmode (x : Ctx) (r : RegP) (w : BitVec 16) : (x.setP r w).fmode = x.fmode := by unfold Ctx.setP; split <;> rfl
@[simp] theorem Ctx.setP_xfid (x : Ctx) (r : RegP) (w : BitVec 16) : (x.setP r w).xfid = x.xfid := by unfold Ctx.setP; split <;> rfl
@[simp] theorem Ctx.setP_late (x : Ctx) (r : RegP) (w : BitVec 16) : (x.setP r w).late = x.late := by unfold Ctx.setP; split <;> rfl
@[simp] theorem Ctx.setP_gst (x : Ctx) (r : RegP) (w : BitVec 16) : (x.setP r w).gst = x.gst := by unfold Ctx.setP; split <;> rfl
@[simp] theorem Ctx.setP_gstk (x : Ctx) (r : RegP) (w : BitVec 16) : (x.setP r w).gstk = x.gstk := by unfold Ctx.setP; split <;> rfl
@[simp] theorem Ctx.setP_gtt (x : Ctx) (r : RegP) (w : BitVec 16) : (x.setP r w).gtt = x.gtt := by unfold Ctx.setP; split <;> rfl
@[simp] theorem Ctx.setP_gmt (x : Ctx) (r : RegP) (w : BitVec 16) : (x.setP r w).gmt = x.gmt := by unfold Ctx.setP; split <;> rfl
@[simp] theorem Ctx.setP_gdim (x : Ctx) (r : RegP) (w : BitVec 16) : (x.setP r w).gdim = x.gdim := by unfold Ctx.setP; split <;> rfl
@[simp] theorem Ctx.setP_trap (x : Ctx) (r : RegP) (w : BitVec 16) : (x.setP r w).trap = x.trap := by unfold Ctx.setP; split <;> rfl
@[simp] theorem Ctx.setP_esc (x : Ctx) (r : RegP) (w : BitVec 16) : (x.setP r w).esc = x.esc := by unfold Ctx.setP; split <;> rfl
@[simp] theorem Ctx.setP_out (x : Ctx) (r : RegP) (w : BitVec 16) : (x.setP r w).out = x.out := by unfold Ctx.setP; split <;> rfl
@[simp] theorem Ctx.setP_pend (x : Ctx) (r : RegP) (w : BitVec 16) : (x.setP r w).pend = x.pend := by unfold Ctx.setP; split <;> rfl
@[simp] theorem Ctx.setP_verdicts (x : Ctx) (r : RegP) (w : BitVec 16) : (x.setP r w).verdicts = x.verdicts := by unfold Ctx.setP; split <;> rfl
@[simp] theorem Ctx.setP_seqs (x : Ctx) (r : RegP) (w : BitVec 16) : (x.setP r w).seqs = x.seqs := by unfold Ctx.setP; split <;> rfl
@[simp] theorem Ctx.setP_sb (x : Ctx) (r : RegP) (w : BitVec 16) : (x.setP r w).sb = x.sb := by unfold Ctx.setP; split <;> rfl
@[simp] theorem Ctx.setP_popped (x : Ctx) (r : RegP) (w : BitVec 16) : (x.setP r w).popped = x.popped := by unfold Ctx.setP; split <;> rfl
@[simp] theorem Ctx.setP_mpoison (x : Ctx) (r : RegP) (w : BitVec 16) : (x.setP r w).mpoison = x.mpoison := by unfold Ctx.setP; split <;> rfl
@[simp] theorem Ctx.setP_taken (x : Ctx) (r : RegP) (w : BitVec 16) : (x.setP r w).taken = x.taken := by unfold Ctx.setP; split <;> rfl
@[simp] theorem Ctx.setP_sysd (x : Ctx) (r : RegP) (w : BitVec 16) : (x.setP r w).sysd = x.sysd := by unfold Ctx.setP; split <;> rfl
@[simp] theorem Ctx.setP_past (x : Ctx) (r : RegP) (w : BitVec 16) : (x.setP r w).past = x.past := by unfold Ctx.setP; split <;> rfl

@[simp] theorem Ctx.setB_st (x : Ctx) (r : RegB) (w : Word) : (x.setB r w).st = x.st := rfl
@[simp] theorem Ctx.setB_chan (x : Ctx) (r : RegB) (w : Word) : (x.setB r w).chan = x.chan := rfl
@[simp] theorem Ctx.setB_phdr (x : Ctx) (r : RegB) (w : Word) : (x.setB r w).phdr = x.phdr := rfl
@[simp] theorem Ctx.setB_kmode (x : Ctx) (r : RegB) (w : Word) : (x.setB r w).kmode = x.kmode := rfl
@[simp] theorem Ctx.setB_inv (x : Ctx) (r : RegB) (w : Word) : (x.setB r w).inv = x.inv := rfl
@[simp] theorem Ctx.setB_limit (x : Ctx) (r : RegB) (w : Word) : (x.setB r w).limit = x.limit := rfl
@[simp] theorem Ctx.setB_wdcnt (x : Ctx) (r : RegB) (w : Word) : (x.setB r w).wdcnt = x.wdcnt := rfl
@[simp] theorem Ctx.setB_g (x : Ctx) (r : RegB) (w : Word) : (x.setB r w).g = x.g := rfl
@[simp] theorem Ctx.setB_v (x : Ctx) (r : RegB) (w : Word) : (x.setB r w).v = x.v := rfl
@[simp] theorem Ctx.setB_p (x : Ctx) (r : RegB) (w : Word) : (x.setB r w).p = x.p := rfl
@[simp] theorem Ctx.setB_q (x : Ctx) (r : RegB) (w : Word) : (x.setB r w).q = x.q := rfl
@[simp] theorem Ctx.setB_c (x : Ctx) (r : RegB) (w : Word) : (x.setB r w).c = x.c := rfl
@[simp] theorem Ctx.setB_shadow (x : Ctx) (r : RegB) (w : Word) : (x.setB r w).shadow = x.shadow := rfl
@[simp] theorem Ctx.setB_ex (x : Ctx) (r : RegB) (w : Word) : (x.setB r w).ex = x.ex := rfl
@[simp] theorem Ctx.setB_ea (x : Ctx) (r : RegB) (w : Word) : (x.setB r w).ea = x.ea := rfl
@[simp] theorem Ctx.setB_em (x : Ctx) (r : RegB) (w : Word) : (x.setB r w).em = x.em := rfl
@[simp] theorem Ctx.setB_loops (x : Ctx) (r : RegB) (w : Word) : (x.setB r w).loops = x.loops := rfl
@[simp] theorem Ctx.setB_issue (x : Ctx) (r : RegB) (w : Word) : (x.setB r w).issue = x.issue := rfl
@[simp] theorem Ctx.setB_done (x : Ctx) (r : RegB) (w : Word) : (x.setB r w).done = x.done := rfl
@[simp] theorem Ctx.setB_streams (x : Ctx) (r : RegB) (w : Word) : (x.setB r w).streams = x.streams := rfl
@[simp] theorem Ctx.setB_fifos (x : Ctx) (r : RegB) (w : Word) : (x.setB r w).fifos = x.fifos := rfl
@[simp] theorem Ctx.setB_fmode (x : Ctx) (r : RegB) (w : Word) : (x.setB r w).fmode = x.fmode := rfl
@[simp] theorem Ctx.setB_xfid (x : Ctx) (r : RegB) (w : Word) : (x.setB r w).xfid = x.xfid := rfl
@[simp] theorem Ctx.setB_late (x : Ctx) (r : RegB) (w : Word) : (x.setB r w).late = x.late := rfl
@[simp] theorem Ctx.setB_gst (x : Ctx) (r : RegB) (w : Word) : (x.setB r w).gst = x.gst := rfl
@[simp] theorem Ctx.setB_gstk (x : Ctx) (r : RegB) (w : Word) : (x.setB r w).gstk = x.gstk := rfl
@[simp] theorem Ctx.setB_gtt (x : Ctx) (r : RegB) (w : Word) : (x.setB r w).gtt = x.gtt := rfl
@[simp] theorem Ctx.setB_gmt (x : Ctx) (r : RegB) (w : Word) : (x.setB r w).gmt = x.gmt := rfl
@[simp] theorem Ctx.setB_gdim (x : Ctx) (r : RegB) (w : Word) : (x.setB r w).gdim = x.gdim := rfl
@[simp] theorem Ctx.setB_trap (x : Ctx) (r : RegB) (w : Word) : (x.setB r w).trap = x.trap := rfl
@[simp] theorem Ctx.setB_esc (x : Ctx) (r : RegB) (w : Word) : (x.setB r w).esc = x.esc := rfl
@[simp] theorem Ctx.setB_out (x : Ctx) (r : RegB) (w : Word) : (x.setB r w).out = x.out := rfl
@[simp] theorem Ctx.setB_pend (x : Ctx) (r : RegB) (w : Word) : (x.setB r w).pend = x.pend := rfl
@[simp] theorem Ctx.setB_verdicts (x : Ctx) (r : RegB) (w : Word) : (x.setB r w).verdicts = x.verdicts := rfl
@[simp] theorem Ctx.setB_seqs (x : Ctx) (r : RegB) (w : Word) : (x.setB r w).seqs = x.seqs := rfl
@[simp] theorem Ctx.setB_sb (x : Ctx) (r : RegB) (w : Word) : (x.setB r w).sb = x.sb := rfl
@[simp] theorem Ctx.setB_popped (x : Ctx) (r : RegB) (w : Word) : (x.setB r w).popped = x.popped := rfl
@[simp] theorem Ctx.setB_mpoison (x : Ctx) (r : RegB) (w : Word) : (x.setB r w).mpoison = x.mpoison := rfl
@[simp] theorem Ctx.setB_taken (x : Ctx) (r : RegB) (w : Word) : (x.setB r w).taken = x.taken := rfl
@[simp] theorem Ctx.setB_sysd (x : Ctx) (r : RegB) (w : Word) : (x.setB r w).sysd = x.sysd := rfl
@[simp] theorem Ctx.setB_past (x : Ctx) (r : RegB) (w : Word) : (x.setB r w).past = x.past := rfl

@[simp] theorem Ctx.setQ_st (x : Ctx) (r : BitVec 2) (w : Bool) : (x.setQ r w).st = x.st := by unfold Ctx.setQ; split <;> rfl
@[simp] theorem Ctx.setQ_chan (x : Ctx) (r : BitVec 2) (w : Bool) : (x.setQ r w).chan = x.chan := by unfold Ctx.setQ; split <;> rfl
@[simp] theorem Ctx.setQ_phdr (x : Ctx) (r : BitVec 2) (w : Bool) : (x.setQ r w).phdr = x.phdr := by unfold Ctx.setQ; split <;> rfl
@[simp] theorem Ctx.setQ_kmode (x : Ctx) (r : BitVec 2) (w : Bool) : (x.setQ r w).kmode = x.kmode := by unfold Ctx.setQ; split <;> rfl
@[simp] theorem Ctx.setQ_inv (x : Ctx) (r : BitVec 2) (w : Bool) : (x.setQ r w).inv = x.inv := by unfold Ctx.setQ; split <;> rfl
@[simp] theorem Ctx.setQ_limit (x : Ctx) (r : BitVec 2) (w : Bool) : (x.setQ r w).limit = x.limit := by unfold Ctx.setQ; split <;> rfl
@[simp] theorem Ctx.setQ_wdcnt (x : Ctx) (r : BitVec 2) (w : Bool) : (x.setQ r w).wdcnt = x.wdcnt := by unfold Ctx.setQ; split <;> rfl
@[simp] theorem Ctx.setQ_g (x : Ctx) (r : BitVec 2) (w : Bool) : (x.setQ r w).g = x.g := by unfold Ctx.setQ; split <;> rfl
@[simp] theorem Ctx.setQ_v (x : Ctx) (r : BitVec 2) (w : Bool) : (x.setQ r w).v = x.v := by unfold Ctx.setQ; split <;> rfl
@[simp] theorem Ctx.setQ_p (x : Ctx) (r : BitVec 2) (w : Bool) : (x.setQ r w).p = x.p := by unfold Ctx.setQ; split <;> rfl
@[simp] theorem Ctx.setQ_b (x : Ctx) (r : BitVec 2) (w : Bool) : (x.setQ r w).b = x.b := by unfold Ctx.setQ; split <;> rfl
@[simp] theorem Ctx.setQ_c (x : Ctx) (r : BitVec 2) (w : Bool) : (x.setQ r w).c = x.c := by unfold Ctx.setQ; split <;> rfl
@[simp] theorem Ctx.setQ_shadow (x : Ctx) (r : BitVec 2) (w : Bool) : (x.setQ r w).shadow = x.shadow := by unfold Ctx.setQ; split <;> rfl
@[simp] theorem Ctx.setQ_ex (x : Ctx) (r : BitVec 2) (w : Bool) : (x.setQ r w).ex = x.ex := by unfold Ctx.setQ; split <;> rfl
@[simp] theorem Ctx.setQ_ea (x : Ctx) (r : BitVec 2) (w : Bool) : (x.setQ r w).ea = x.ea := by unfold Ctx.setQ; split <;> rfl
@[simp] theorem Ctx.setQ_em (x : Ctx) (r : BitVec 2) (w : Bool) : (x.setQ r w).em = x.em := by unfold Ctx.setQ; split <;> rfl
@[simp] theorem Ctx.setQ_loops (x : Ctx) (r : BitVec 2) (w : Bool) : (x.setQ r w).loops = x.loops := by unfold Ctx.setQ; split <;> rfl
@[simp] theorem Ctx.setQ_issue (x : Ctx) (r : BitVec 2) (w : Bool) : (x.setQ r w).issue = x.issue := by unfold Ctx.setQ; split <;> rfl
@[simp] theorem Ctx.setQ_done (x : Ctx) (r : BitVec 2) (w : Bool) : (x.setQ r w).done = x.done := by unfold Ctx.setQ; split <;> rfl
@[simp] theorem Ctx.setQ_streams (x : Ctx) (r : BitVec 2) (w : Bool) : (x.setQ r w).streams = x.streams := by unfold Ctx.setQ; split <;> rfl
@[simp] theorem Ctx.setQ_fifos (x : Ctx) (r : BitVec 2) (w : Bool) : (x.setQ r w).fifos = x.fifos := by unfold Ctx.setQ; split <;> rfl
@[simp] theorem Ctx.setQ_fmode (x : Ctx) (r : BitVec 2) (w : Bool) : (x.setQ r w).fmode = x.fmode := by unfold Ctx.setQ; split <;> rfl
@[simp] theorem Ctx.setQ_xfid (x : Ctx) (r : BitVec 2) (w : Bool) : (x.setQ r w).xfid = x.xfid := by unfold Ctx.setQ; split <;> rfl
@[simp] theorem Ctx.setQ_late (x : Ctx) (r : BitVec 2) (w : Bool) : (x.setQ r w).late = x.late := by unfold Ctx.setQ; split <;> rfl
@[simp] theorem Ctx.setQ_gst (x : Ctx) (r : BitVec 2) (w : Bool) : (x.setQ r w).gst = x.gst := by unfold Ctx.setQ; split <;> rfl
@[simp] theorem Ctx.setQ_gstk (x : Ctx) (r : BitVec 2) (w : Bool) : (x.setQ r w).gstk = x.gstk := by unfold Ctx.setQ; split <;> rfl
@[simp] theorem Ctx.setQ_gtt (x : Ctx) (r : BitVec 2) (w : Bool) : (x.setQ r w).gtt = x.gtt := by unfold Ctx.setQ; split <;> rfl
@[simp] theorem Ctx.setQ_gmt (x : Ctx) (r : BitVec 2) (w : Bool) : (x.setQ r w).gmt = x.gmt := by unfold Ctx.setQ; split <;> rfl
@[simp] theorem Ctx.setQ_gdim (x : Ctx) (r : BitVec 2) (w : Bool) : (x.setQ r w).gdim = x.gdim := by unfold Ctx.setQ; split <;> rfl
@[simp] theorem Ctx.setQ_trap (x : Ctx) (r : BitVec 2) (w : Bool) : (x.setQ r w).trap = x.trap := by unfold Ctx.setQ; split <;> rfl
@[simp] theorem Ctx.setQ_esc (x : Ctx) (r : BitVec 2) (w : Bool) : (x.setQ r w).esc = x.esc := by unfold Ctx.setQ; split <;> rfl
@[simp] theorem Ctx.setQ_out (x : Ctx) (r : BitVec 2) (w : Bool) : (x.setQ r w).out = x.out := by unfold Ctx.setQ; split <;> rfl
@[simp] theorem Ctx.setQ_pend (x : Ctx) (r : BitVec 2) (w : Bool) : (x.setQ r w).pend = x.pend := by unfold Ctx.setQ; split <;> rfl
@[simp] theorem Ctx.setQ_verdicts (x : Ctx) (r : BitVec 2) (w : Bool) : (x.setQ r w).verdicts = x.verdicts := by unfold Ctx.setQ; split <;> rfl
@[simp] theorem Ctx.setQ_seqs (x : Ctx) (r : BitVec 2) (w : Bool) : (x.setQ r w).seqs = x.seqs := by unfold Ctx.setQ; split <;> rfl
@[simp] theorem Ctx.setQ_sb (x : Ctx) (r : BitVec 2) (w : Bool) : (x.setQ r w).sb = x.sb := by unfold Ctx.setQ; split <;> rfl
@[simp] theorem Ctx.setQ_popped (x : Ctx) (r : BitVec 2) (w : Bool) : (x.setQ r w).popped = x.popped := by unfold Ctx.setQ; split <;> rfl
@[simp] theorem Ctx.setQ_mpoison (x : Ctx) (r : BitVec 2) (w : Bool) : (x.setQ r w).mpoison = x.mpoison := by unfold Ctx.setQ; split <;> rfl
@[simp] theorem Ctx.setQ_taken (x : Ctx) (r : BitVec 2) (w : Bool) : (x.setQ r w).taken = x.taken := by unfold Ctx.setQ; split <;> rfl
@[simp] theorem Ctx.setQ_sysd (x : Ctx) (r : BitVec 2) (w : Bool) : (x.setQ r w).sysd = x.sysd := by unfold Ctx.setQ; split <;> rfl
@[simp] theorem Ctx.setQ_past (x : Ctx) (r : BitVec 2) (w : Bool) : (x.setQ r w).past = x.past := by unfold Ctx.setQ; split <;> rfl

@[simp] theorem Ctx.setC_st (x : Ctx) (r : RegC) (w : Word) : (x.setC r w).st = x.st := by unfold Ctx.setC; split <;> rfl
@[simp] theorem Ctx.setC_chan (x : Ctx) (r : RegC) (w : Word) : (x.setC r w).chan = x.chan := by unfold Ctx.setC; split <;> rfl
@[simp] theorem Ctx.setC_phdr (x : Ctx) (r : RegC) (w : Word) : (x.setC r w).phdr = x.phdr := by unfold Ctx.setC; split <;> rfl
@[simp] theorem Ctx.setC_kmode (x : Ctx) (r : RegC) (w : Word) : (x.setC r w).kmode = x.kmode := by unfold Ctx.setC; split <;> rfl
@[simp] theorem Ctx.setC_inv (x : Ctx) (r : RegC) (w : Word) : (x.setC r w).inv = x.inv := by unfold Ctx.setC; split <;> rfl
@[simp] theorem Ctx.setC_limit (x : Ctx) (r : RegC) (w : Word) : (x.setC r w).limit = x.limit := by unfold Ctx.setC; split <;> rfl
@[simp] theorem Ctx.setC_wdcnt (x : Ctx) (r : RegC) (w : Word) : (x.setC r w).wdcnt = x.wdcnt := by unfold Ctx.setC; split <;> rfl
@[simp] theorem Ctx.setC_g (x : Ctx) (r : RegC) (w : Word) : (x.setC r w).g = x.g := by unfold Ctx.setC; split <;> rfl
@[simp] theorem Ctx.setC_v (x : Ctx) (r : RegC) (w : Word) : (x.setC r w).v = x.v := by unfold Ctx.setC; split <;> rfl
@[simp] theorem Ctx.setC_p (x : Ctx) (r : RegC) (w : Word) : (x.setC r w).p = x.p := by unfold Ctx.setC; split <;> rfl
@[simp] theorem Ctx.setC_b (x : Ctx) (r : RegC) (w : Word) : (x.setC r w).b = x.b := by unfold Ctx.setC; split <;> rfl
@[simp] theorem Ctx.setC_q (x : Ctx) (r : RegC) (w : Word) : (x.setC r w).q = x.q := by unfold Ctx.setC; split <;> rfl
@[simp] theorem Ctx.setC_shadow (x : Ctx) (r : RegC) (w : Word) : (x.setC r w).shadow = x.shadow := by unfold Ctx.setC; split <;> rfl
@[simp] theorem Ctx.setC_ex (x : Ctx) (r : RegC) (w : Word) : (x.setC r w).ex = x.ex := by unfold Ctx.setC; split <;> rfl
@[simp] theorem Ctx.setC_ea (x : Ctx) (r : RegC) (w : Word) : (x.setC r w).ea = x.ea := by unfold Ctx.setC; split <;> rfl
@[simp] theorem Ctx.setC_em (x : Ctx) (r : RegC) (w : Word) : (x.setC r w).em = x.em := by unfold Ctx.setC; split <;> rfl
@[simp] theorem Ctx.setC_loops (x : Ctx) (r : RegC) (w : Word) : (x.setC r w).loops = x.loops := by unfold Ctx.setC; split <;> rfl
@[simp] theorem Ctx.setC_issue (x : Ctx) (r : RegC) (w : Word) : (x.setC r w).issue = x.issue := by unfold Ctx.setC; split <;> rfl
@[simp] theorem Ctx.setC_done (x : Ctx) (r : RegC) (w : Word) : (x.setC r w).done = x.done := by unfold Ctx.setC; split <;> rfl
@[simp] theorem Ctx.setC_streams (x : Ctx) (r : RegC) (w : Word) : (x.setC r w).streams = x.streams := by unfold Ctx.setC; split <;> rfl
@[simp] theorem Ctx.setC_fifos (x : Ctx) (r : RegC) (w : Word) : (x.setC r w).fifos = x.fifos := by unfold Ctx.setC; split <;> rfl
@[simp] theorem Ctx.setC_fmode (x : Ctx) (r : RegC) (w : Word) : (x.setC r w).fmode = x.fmode := by unfold Ctx.setC; split <;> rfl
@[simp] theorem Ctx.setC_xfid (x : Ctx) (r : RegC) (w : Word) : (x.setC r w).xfid = x.xfid := by unfold Ctx.setC; split <;> rfl
@[simp] theorem Ctx.setC_late (x : Ctx) (r : RegC) (w : Word) : (x.setC r w).late = x.late := by unfold Ctx.setC; split <;> rfl
@[simp] theorem Ctx.setC_gst (x : Ctx) (r : RegC) (w : Word) : (x.setC r w).gst = x.gst := by unfold Ctx.setC; split <;> rfl
@[simp] theorem Ctx.setC_gstk (x : Ctx) (r : RegC) (w : Word) : (x.setC r w).gstk = x.gstk := by unfold Ctx.setC; split <;> rfl
@[simp] theorem Ctx.setC_gtt (x : Ctx) (r : RegC) (w : Word) : (x.setC r w).gtt = x.gtt := by unfold Ctx.setC; split <;> rfl
@[simp] theorem Ctx.setC_gmt (x : Ctx) (r : RegC) (w : Word) : (x.setC r w).gmt = x.gmt := by unfold Ctx.setC; split <;> rfl
@[simp] theorem Ctx.setC_gdim (x : Ctx) (r : RegC) (w : Word) : (x.setC r w).gdim = x.gdim := by unfold Ctx.setC; split <;> rfl
@[simp] theorem Ctx.setC_trap (x : Ctx) (r : RegC) (w : Word) : (x.setC r w).trap = x.trap := by unfold Ctx.setC; split <;> rfl
@[simp] theorem Ctx.setC_esc (x : Ctx) (r : RegC) (w : Word) : (x.setC r w).esc = x.esc := by unfold Ctx.setC; split <;> rfl
@[simp] theorem Ctx.setC_out (x : Ctx) (r : RegC) (w : Word) : (x.setC r w).out = x.out := by unfold Ctx.setC; split <;> rfl
@[simp] theorem Ctx.setC_pend (x : Ctx) (r : RegC) (w : Word) : (x.setC r w).pend = x.pend := by unfold Ctx.setC; split <;> rfl
@[simp] theorem Ctx.setC_verdicts (x : Ctx) (r : RegC) (w : Word) : (x.setC r w).verdicts = x.verdicts := by unfold Ctx.setC; split <;> rfl
@[simp] theorem Ctx.setC_seqs (x : Ctx) (r : RegC) (w : Word) : (x.setC r w).seqs = x.seqs := by unfold Ctx.setC; split <;> rfl
@[simp] theorem Ctx.setC_sb (x : Ctx) (r : RegC) (w : Word) : (x.setC r w).sb = x.sb := by unfold Ctx.setC; split <;> rfl
@[simp] theorem Ctx.setC_popped (x : Ctx) (r : RegC) (w : Word) : (x.setC r w).popped = x.popped := by unfold Ctx.setC; split <;> rfl
@[simp] theorem Ctx.setC_mpoison (x : Ctx) (r : RegC) (w : Word) : (x.setC r w).mpoison = x.mpoison := by unfold Ctx.setC; split <;> rfl
@[simp] theorem Ctx.setC_taken (x : Ctx) (r : RegC) (w : Word) : (x.setC r w).taken = x.taken := by unfold Ctx.setC; split <;> rfl
@[simp] theorem Ctx.setC_sysd (x : Ctx) (r : RegC) (w : Word) : (x.setC r w).sysd = x.sysd := by unfold Ctx.setC; split <;> rfl
@[simp] theorem Ctx.setC_past (x : Ctx) (r : RegC) (w : Word) : (x.setC r w).past = x.past := by unfold Ctx.setC; split <;> rfl

@[simp] theorem Ctx.setStream_st (x : Ctx) (n : StreamNo) (t : Stream) : (x.setStream n t).st = x.st := rfl
@[simp] theorem Ctx.setStream_chan (x : Ctx) (n : StreamNo) (t : Stream) : (x.setStream n t).chan = x.chan := rfl
@[simp] theorem Ctx.setStream_phdr (x : Ctx) (n : StreamNo) (t : Stream) : (x.setStream n t).phdr = x.phdr := rfl
@[simp] theorem Ctx.setStream_kmode (x : Ctx) (n : StreamNo) (t : Stream) : (x.setStream n t).kmode = x.kmode := rfl
@[simp] theorem Ctx.setStream_inv (x : Ctx) (n : StreamNo) (t : Stream) : (x.setStream n t).inv = x.inv := rfl
@[simp] theorem Ctx.setStream_limit (x : Ctx) (n : StreamNo) (t : Stream) : (x.setStream n t).limit = x.limit := rfl
@[simp] theorem Ctx.setStream_wdcnt (x : Ctx) (n : StreamNo) (t : Stream) : (x.setStream n t).wdcnt = x.wdcnt := rfl
@[simp] theorem Ctx.setStream_g (x : Ctx) (n : StreamNo) (t : Stream) : (x.setStream n t).g = x.g := rfl
@[simp] theorem Ctx.setStream_v (x : Ctx) (n : StreamNo) (t : Stream) : (x.setStream n t).v = x.v := rfl
@[simp] theorem Ctx.setStream_p (x : Ctx) (n : StreamNo) (t : Stream) : (x.setStream n t).p = x.p := rfl
@[simp] theorem Ctx.setStream_b (x : Ctx) (n : StreamNo) (t : Stream) : (x.setStream n t).b = x.b := rfl
@[simp] theorem Ctx.setStream_q (x : Ctx) (n : StreamNo) (t : Stream) : (x.setStream n t).q = x.q := rfl
@[simp] theorem Ctx.setStream_c (x : Ctx) (n : StreamNo) (t : Stream) : (x.setStream n t).c = x.c := rfl
@[simp] theorem Ctx.setStream_shadow (x : Ctx) (n : StreamNo) (t : Stream) : (x.setStream n t).shadow = x.shadow := rfl
@[simp] theorem Ctx.setStream_ex (x : Ctx) (n : StreamNo) (t : Stream) : (x.setStream n t).ex = x.ex := rfl
@[simp] theorem Ctx.setStream_ea (x : Ctx) (n : StreamNo) (t : Stream) : (x.setStream n t).ea = x.ea := rfl
@[simp] theorem Ctx.setStream_em (x : Ctx) (n : StreamNo) (t : Stream) : (x.setStream n t).em = x.em := rfl
@[simp] theorem Ctx.setStream_loops (x : Ctx) (n : StreamNo) (t : Stream) : (x.setStream n t).loops = x.loops := rfl
@[simp] theorem Ctx.setStream_issue (x : Ctx) (n : StreamNo) (t : Stream) : (x.setStream n t).issue = x.issue := rfl
@[simp] theorem Ctx.setStream_done (x : Ctx) (n : StreamNo) (t : Stream) : (x.setStream n t).done = x.done := rfl
@[simp] theorem Ctx.setStream_fifos (x : Ctx) (n : StreamNo) (t : Stream) : (x.setStream n t).fifos = x.fifos := rfl
@[simp] theorem Ctx.setStream_fmode (x : Ctx) (n : StreamNo) (t : Stream) : (x.setStream n t).fmode = x.fmode := rfl
@[simp] theorem Ctx.setStream_xfid (x : Ctx) (n : StreamNo) (t : Stream) : (x.setStream n t).xfid = x.xfid := rfl
@[simp] theorem Ctx.setStream_late (x : Ctx) (n : StreamNo) (t : Stream) : (x.setStream n t).late = x.late := rfl
@[simp] theorem Ctx.setStream_gst (x : Ctx) (n : StreamNo) (t : Stream) : (x.setStream n t).gst = x.gst := rfl
@[simp] theorem Ctx.setStream_gstk (x : Ctx) (n : StreamNo) (t : Stream) : (x.setStream n t).gstk = x.gstk := rfl
@[simp] theorem Ctx.setStream_gtt (x : Ctx) (n : StreamNo) (t : Stream) : (x.setStream n t).gtt = x.gtt := rfl
@[simp] theorem Ctx.setStream_gmt (x : Ctx) (n : StreamNo) (t : Stream) : (x.setStream n t).gmt = x.gmt := rfl
@[simp] theorem Ctx.setStream_gdim (x : Ctx) (n : StreamNo) (t : Stream) : (x.setStream n t).gdim = x.gdim := rfl
@[simp] theorem Ctx.setStream_trap (x : Ctx) (n : StreamNo) (t : Stream) : (x.setStream n t).trap = x.trap := rfl
@[simp] theorem Ctx.setStream_esc (x : Ctx) (n : StreamNo) (t : Stream) : (x.setStream n t).esc = x.esc := rfl
@[simp] theorem Ctx.setStream_out (x : Ctx) (n : StreamNo) (t : Stream) : (x.setStream n t).out = x.out := rfl
@[simp] theorem Ctx.setStream_pend (x : Ctx) (n : StreamNo) (t : Stream) : (x.setStream n t).pend = x.pend := rfl
@[simp] theorem Ctx.setStream_verdicts (x : Ctx) (n : StreamNo) (t : Stream) : (x.setStream n t).verdicts = x.verdicts := rfl
@[simp] theorem Ctx.setStream_seqs (x : Ctx) (n : StreamNo) (t : Stream) : (x.setStream n t).seqs = x.seqs := rfl
@[simp] theorem Ctx.setStream_sb (x : Ctx) (n : StreamNo) (t : Stream) : (x.setStream n t).sb = x.sb := rfl
@[simp] theorem Ctx.setStream_popped (x : Ctx) (n : StreamNo) (t : Stream) : (x.setStream n t).popped = x.popped := rfl
@[simp] theorem Ctx.setStream_mpoison (x : Ctx) (n : StreamNo) (t : Stream) : (x.setStream n t).mpoison = x.mpoison := rfl
@[simp] theorem Ctx.setStream_taken (x : Ctx) (n : StreamNo) (t : Stream) : (x.setStream n t).taken = x.taken := rfl
@[simp] theorem Ctx.setStream_sysd (x : Ctx) (n : StreamNo) (t : Stream) : (x.setStream n t).sysd = x.sysd := rfl
@[simp] theorem Ctx.setStream_past (x : Ctx) (n : StreamNo) (t : Stream) : (x.setStream n t).past = x.past := rfl

@[simp] theorem Ctx.setFifo_st (x : Ctx) (n : Nat) (q : FifoQ) : (x.setFifo n q).st = x.st := rfl
@[simp] theorem Ctx.setFifo_chan (x : Ctx) (n : Nat) (q : FifoQ) : (x.setFifo n q).chan = x.chan := rfl
@[simp] theorem Ctx.setFifo_phdr (x : Ctx) (n : Nat) (q : FifoQ) : (x.setFifo n q).phdr = x.phdr := rfl
@[simp] theorem Ctx.setFifo_kmode (x : Ctx) (n : Nat) (q : FifoQ) : (x.setFifo n q).kmode = x.kmode := rfl
@[simp] theorem Ctx.setFifo_inv (x : Ctx) (n : Nat) (q : FifoQ) : (x.setFifo n q).inv = x.inv := rfl
@[simp] theorem Ctx.setFifo_limit (x : Ctx) (n : Nat) (q : FifoQ) : (x.setFifo n q).limit = x.limit := rfl
@[simp] theorem Ctx.setFifo_wdcnt (x : Ctx) (n : Nat) (q : FifoQ) : (x.setFifo n q).wdcnt = x.wdcnt := rfl
@[simp] theorem Ctx.setFifo_g (x : Ctx) (n : Nat) (q : FifoQ) : (x.setFifo n q).g = x.g := rfl
@[simp] theorem Ctx.setFifo_v (x : Ctx) (n : Nat) (q : FifoQ) : (x.setFifo n q).v = x.v := rfl
@[simp] theorem Ctx.setFifo_p (x : Ctx) (n : Nat) (q : FifoQ) : (x.setFifo n q).p = x.p := rfl
@[simp] theorem Ctx.setFifo_b (x : Ctx) (n : Nat) (q : FifoQ) : (x.setFifo n q).b = x.b := rfl
@[simp] theorem Ctx.setFifo_q (x : Ctx) (n : Nat) (q : FifoQ) : (x.setFifo n q).q = x.q := rfl
@[simp] theorem Ctx.setFifo_c (x : Ctx) (n : Nat) (q : FifoQ) : (x.setFifo n q).c = x.c := rfl
@[simp] theorem Ctx.setFifo_shadow (x : Ctx) (n : Nat) (q : FifoQ) : (x.setFifo n q).shadow = x.shadow := rfl
@[simp] theorem Ctx.setFifo_ex (x : Ctx) (n : Nat) (q : FifoQ) : (x.setFifo n q).ex = x.ex := rfl
@[simp] theorem Ctx.setFifo_ea (x : Ctx) (n : Nat) (q : FifoQ) : (x.setFifo n q).ea = x.ea := rfl
@[simp] theorem Ctx.setFifo_em (x : Ctx) (n : Nat) (q : FifoQ) : (x.setFifo n q).em = x.em := rfl
@[simp] theorem Ctx.setFifo_loops (x : Ctx) (n : Nat) (q : FifoQ) : (x.setFifo n q).loops = x.loops := rfl
@[simp] theorem Ctx.setFifo_issue (x : Ctx) (n : Nat) (q : FifoQ) : (x.setFifo n q).issue = x.issue := rfl
@[simp] theorem Ctx.setFifo_done (x : Ctx) (n : Nat) (q : FifoQ) : (x.setFifo n q).done = x.done := rfl
@[simp] theorem Ctx.setFifo_streams (x : Ctx) (n : Nat) (q : FifoQ) : (x.setFifo n q).streams = x.streams := rfl
@[simp] theorem Ctx.setFifo_fmode (x : Ctx) (n : Nat) (q : FifoQ) : (x.setFifo n q).fmode = x.fmode := rfl
@[simp] theorem Ctx.setFifo_xfid (x : Ctx) (n : Nat) (q : FifoQ) : (x.setFifo n q).xfid = x.xfid := rfl
@[simp] theorem Ctx.setFifo_late (x : Ctx) (n : Nat) (q : FifoQ) : (x.setFifo n q).late = x.late := rfl
@[simp] theorem Ctx.setFifo_gst (x : Ctx) (n : Nat) (q : FifoQ) : (x.setFifo n q).gst = x.gst := rfl
@[simp] theorem Ctx.setFifo_gstk (x : Ctx) (n : Nat) (q : FifoQ) : (x.setFifo n q).gstk = x.gstk := rfl
@[simp] theorem Ctx.setFifo_gtt (x : Ctx) (n : Nat) (q : FifoQ) : (x.setFifo n q).gtt = x.gtt := rfl
@[simp] theorem Ctx.setFifo_gmt (x : Ctx) (n : Nat) (q : FifoQ) : (x.setFifo n q).gmt = x.gmt := rfl
@[simp] theorem Ctx.setFifo_gdim (x : Ctx) (n : Nat) (q : FifoQ) : (x.setFifo n q).gdim = x.gdim := rfl
@[simp] theorem Ctx.setFifo_trap (x : Ctx) (n : Nat) (q : FifoQ) : (x.setFifo n q).trap = x.trap := rfl
@[simp] theorem Ctx.setFifo_esc (x : Ctx) (n : Nat) (q : FifoQ) : (x.setFifo n q).esc = x.esc := rfl
@[simp] theorem Ctx.setFifo_out (x : Ctx) (n : Nat) (q : FifoQ) : (x.setFifo n q).out = x.out := rfl
@[simp] theorem Ctx.setFifo_pend (x : Ctx) (n : Nat) (q : FifoQ) : (x.setFifo n q).pend = x.pend := rfl
@[simp] theorem Ctx.setFifo_verdicts (x : Ctx) (n : Nat) (q : FifoQ) : (x.setFifo n q).verdicts = x.verdicts := rfl
@[simp] theorem Ctx.setFifo_seqs (x : Ctx) (n : Nat) (q : FifoQ) : (x.setFifo n q).seqs = x.seqs := rfl
@[simp] theorem Ctx.setFifo_sb (x : Ctx) (n : Nat) (q : FifoQ) : (x.setFifo n q).sb = x.sb := rfl
@[simp] theorem Ctx.setFifo_popped (x : Ctx) (n : Nat) (q : FifoQ) : (x.setFifo n q).popped = x.popped := rfl
@[simp] theorem Ctx.setFifo_mpoison (x : Ctx) (n : Nat) (q : FifoQ) : (x.setFifo n q).mpoison = x.mpoison := rfl
@[simp] theorem Ctx.setFifo_taken (x : Ctx) (n : Nat) (q : FifoQ) : (x.setFifo n q).taken = x.taken := rfl
@[simp] theorem Ctx.setFifo_sysd (x : Ctx) (n : Nat) (q : FifoQ) : (x.setFifo n q).sysd = x.sysd := rfl
@[simp] theorem Ctx.setFifo_past (x : Ctx) (n : Nat) (q : FifoQ) : (x.setFifo n q).past = x.past := rfl

@[simp] theorem Ctx.setLoop_st (x : Ctx) (e : Eng) (k : Nat) (l : LoopC) : (x.setLoop e k l).st = x.st := rfl
@[simp] theorem Ctx.setLoop_chan (x : Ctx) (e : Eng) (k : Nat) (l : LoopC) : (x.setLoop e k l).chan = x.chan := rfl
@[simp] theorem Ctx.setLoop_phdr (x : Ctx) (e : Eng) (k : Nat) (l : LoopC) : (x.setLoop e k l).phdr = x.phdr := rfl
@[simp] theorem Ctx.setLoop_kmode (x : Ctx) (e : Eng) (k : Nat) (l : LoopC) : (x.setLoop e k l).kmode = x.kmode := rfl
@[simp] theorem Ctx.setLoop_inv (x : Ctx) (e : Eng) (k : Nat) (l : LoopC) : (x.setLoop e k l).inv = x.inv := rfl
@[simp] theorem Ctx.setLoop_limit (x : Ctx) (e : Eng) (k : Nat) (l : LoopC) : (x.setLoop e k l).limit = x.limit := rfl
@[simp] theorem Ctx.setLoop_wdcnt (x : Ctx) (e : Eng) (k : Nat) (l : LoopC) : (x.setLoop e k l).wdcnt = x.wdcnt := rfl
@[simp] theorem Ctx.setLoop_g (x : Ctx) (e : Eng) (k : Nat) (l : LoopC) : (x.setLoop e k l).g = x.g := rfl
@[simp] theorem Ctx.setLoop_v (x : Ctx) (e : Eng) (k : Nat) (l : LoopC) : (x.setLoop e k l).v = x.v := rfl
@[simp] theorem Ctx.setLoop_p (x : Ctx) (e : Eng) (k : Nat) (l : LoopC) : (x.setLoop e k l).p = x.p := rfl
@[simp] theorem Ctx.setLoop_b (x : Ctx) (e : Eng) (k : Nat) (l : LoopC) : (x.setLoop e k l).b = x.b := rfl
@[simp] theorem Ctx.setLoop_q (x : Ctx) (e : Eng) (k : Nat) (l : LoopC) : (x.setLoop e k l).q = x.q := rfl
@[simp] theorem Ctx.setLoop_c (x : Ctx) (e : Eng) (k : Nat) (l : LoopC) : (x.setLoop e k l).c = x.c := rfl
@[simp] theorem Ctx.setLoop_shadow (x : Ctx) (e : Eng) (k : Nat) (l : LoopC) : (x.setLoop e k l).shadow = x.shadow := rfl
@[simp] theorem Ctx.setLoop_ex (x : Ctx) (e : Eng) (k : Nat) (l : LoopC) : (x.setLoop e k l).ex = x.ex := rfl
@[simp] theorem Ctx.setLoop_ea (x : Ctx) (e : Eng) (k : Nat) (l : LoopC) : (x.setLoop e k l).ea = x.ea := rfl
@[simp] theorem Ctx.setLoop_em (x : Ctx) (e : Eng) (k : Nat) (l : LoopC) : (x.setLoop e k l).em = x.em := rfl
@[simp] theorem Ctx.setLoop_issue (x : Ctx) (e : Eng) (k : Nat) (l : LoopC) : (x.setLoop e k l).issue = x.issue := rfl
@[simp] theorem Ctx.setLoop_done (x : Ctx) (e : Eng) (k : Nat) (l : LoopC) : (x.setLoop e k l).done = x.done := rfl
@[simp] theorem Ctx.setLoop_streams (x : Ctx) (e : Eng) (k : Nat) (l : LoopC) : (x.setLoop e k l).streams = x.streams := rfl
@[simp] theorem Ctx.setLoop_fifos (x : Ctx) (e : Eng) (k : Nat) (l : LoopC) : (x.setLoop e k l).fifos = x.fifos := rfl
@[simp] theorem Ctx.setLoop_fmode (x : Ctx) (e : Eng) (k : Nat) (l : LoopC) : (x.setLoop e k l).fmode = x.fmode := rfl
@[simp] theorem Ctx.setLoop_xfid (x : Ctx) (e : Eng) (k : Nat) (l : LoopC) : (x.setLoop e k l).xfid = x.xfid := rfl
@[simp] theorem Ctx.setLoop_late (x : Ctx) (e : Eng) (k : Nat) (l : LoopC) : (x.setLoop e k l).late = x.late := rfl
@[simp] theorem Ctx.setLoop_gst (x : Ctx) (e : Eng) (k : Nat) (l : LoopC) : (x.setLoop e k l).gst = x.gst := rfl
@[simp] theorem Ctx.setLoop_gstk (x : Ctx) (e : Eng) (k : Nat) (l : LoopC) : (x.setLoop e k l).gstk = x.gstk := rfl
@[simp] theorem Ctx.setLoop_gtt (x : Ctx) (e : Eng) (k : Nat) (l : LoopC) : (x.setLoop e k l).gtt = x.gtt := rfl
@[simp] theorem Ctx.setLoop_gmt (x : Ctx) (e : Eng) (k : Nat) (l : LoopC) : (x.setLoop e k l).gmt = x.gmt := rfl
@[simp] theorem Ctx.setLoop_gdim (x : Ctx) (e : Eng) (k : Nat) (l : LoopC) : (x.setLoop e k l).gdim = x.gdim := rfl
@[simp] theorem Ctx.setLoop_trap (x : Ctx) (e : Eng) (k : Nat) (l : LoopC) : (x.setLoop e k l).trap = x.trap := rfl
@[simp] theorem Ctx.setLoop_esc (x : Ctx) (e : Eng) (k : Nat) (l : LoopC) : (x.setLoop e k l).esc = x.esc := rfl
@[simp] theorem Ctx.setLoop_out (x : Ctx) (e : Eng) (k : Nat) (l : LoopC) : (x.setLoop e k l).out = x.out := rfl
@[simp] theorem Ctx.setLoop_pend (x : Ctx) (e : Eng) (k : Nat) (l : LoopC) : (x.setLoop e k l).pend = x.pend := rfl
@[simp] theorem Ctx.setLoop_verdicts (x : Ctx) (e : Eng) (k : Nat) (l : LoopC) : (x.setLoop e k l).verdicts = x.verdicts := rfl
@[simp] theorem Ctx.setLoop_seqs (x : Ctx) (e : Eng) (k : Nat) (l : LoopC) : (x.setLoop e k l).seqs = x.seqs := rfl
@[simp] theorem Ctx.setLoop_sb (x : Ctx) (e : Eng) (k : Nat) (l : LoopC) : (x.setLoop e k l).sb = x.sb := rfl
@[simp] theorem Ctx.setLoop_popped (x : Ctx) (e : Eng) (k : Nat) (l : LoopC) : (x.setLoop e k l).popped = x.popped := rfl
@[simp] theorem Ctx.setLoop_mpoison (x : Ctx) (e : Eng) (k : Nat) (l : LoopC) : (x.setLoop e k l).mpoison = x.mpoison := rfl
@[simp] theorem Ctx.setLoop_taken (x : Ctx) (e : Eng) (k : Nat) (l : LoopC) : (x.setLoop e k l).taken = x.taken := rfl
@[simp] theorem Ctx.setLoop_sysd (x : Ctx) (e : Eng) (k : Nat) (l : LoopC) : (x.setLoop e k l).sysd = x.sysd := rfl
@[simp] theorem Ctx.setLoop_past (x : Ctx) (e : Eng) (k : Nat) (l : LoopC) : (x.setLoop e k l).past = x.past := rfl

@[simp] theorem Ctx.setEng_st (x : Ctx) (e : Eng) (c : EngC) : (x.setEng e c).st = x.st := by cases e <;> rfl
@[simp] theorem Ctx.setEng_chan (x : Ctx) (e : Eng) (c : EngC) : (x.setEng e c).chan = x.chan := by cases e <;> rfl
@[simp] theorem Ctx.setEng_phdr (x : Ctx) (e : Eng) (c : EngC) : (x.setEng e c).phdr = x.phdr := by cases e <;> rfl
@[simp] theorem Ctx.setEng_kmode (x : Ctx) (e : Eng) (c : EngC) : (x.setEng e c).kmode = x.kmode := by cases e <;> rfl
@[simp] theorem Ctx.setEng_inv (x : Ctx) (e : Eng) (c : EngC) : (x.setEng e c).inv = x.inv := by cases e <;> rfl
@[simp] theorem Ctx.setEng_limit (x : Ctx) (e : Eng) (c : EngC) : (x.setEng e c).limit = x.limit := by cases e <;> rfl
@[simp] theorem Ctx.setEng_wdcnt (x : Ctx) (e : Eng) (c : EngC) : (x.setEng e c).wdcnt = x.wdcnt := by cases e <;> rfl
@[simp] theorem Ctx.setEng_g (x : Ctx) (e : Eng) (c : EngC) : (x.setEng e c).g = x.g := by cases e <;> rfl
@[simp] theorem Ctx.setEng_v (x : Ctx) (e : Eng) (c : EngC) : (x.setEng e c).v = x.v := by cases e <;> rfl
@[simp] theorem Ctx.setEng_p (x : Ctx) (e : Eng) (c : EngC) : (x.setEng e c).p = x.p := by cases e <;> rfl
@[simp] theorem Ctx.setEng_b (x : Ctx) (e : Eng) (c : EngC) : (x.setEng e c).b = x.b := by cases e <;> rfl
@[simp] theorem Ctx.setEng_q (x : Ctx) (e : Eng) (c : EngC) : (x.setEng e c).q = x.q := by cases e <;> rfl
@[simp] theorem Ctx.setEng_c (x : Ctx) (e : Eng) (c : EngC) : (x.setEng e c).c = x.c := by cases e <;> rfl
@[simp] theorem Ctx.setEng_shadow (x : Ctx) (e : Eng) (c : EngC) : (x.setEng e c).shadow = x.shadow := by cases e <;> rfl
@[simp] theorem Ctx.setEng_loops (x : Ctx) (e : Eng) (c : EngC) : (x.setEng e c).loops = x.loops := by cases e <;> rfl
@[simp] theorem Ctx.setEng_issue (x : Ctx) (e : Eng) (c : EngC) : (x.setEng e c).issue = x.issue := by cases e <;> rfl
@[simp] theorem Ctx.setEng_done (x : Ctx) (e : Eng) (c : EngC) : (x.setEng e c).done = x.done := by cases e <;> rfl
@[simp] theorem Ctx.setEng_streams (x : Ctx) (e : Eng) (c : EngC) : (x.setEng e c).streams = x.streams := by cases e <;> rfl
@[simp] theorem Ctx.setEng_fifos (x : Ctx) (e : Eng) (c : EngC) : (x.setEng e c).fifos = x.fifos := by cases e <;> rfl
@[simp] theorem Ctx.setEng_fmode (x : Ctx) (e : Eng) (c : EngC) : (x.setEng e c).fmode = x.fmode := by cases e <;> rfl
@[simp] theorem Ctx.setEng_xfid (x : Ctx) (e : Eng) (c : EngC) : (x.setEng e c).xfid = x.xfid := by cases e <;> rfl
@[simp] theorem Ctx.setEng_late (x : Ctx) (e : Eng) (c : EngC) : (x.setEng e c).late = x.late := by cases e <;> rfl
@[simp] theorem Ctx.setEng_gst (x : Ctx) (e : Eng) (c : EngC) : (x.setEng e c).gst = x.gst := by cases e <;> rfl
@[simp] theorem Ctx.setEng_gstk (x : Ctx) (e : Eng) (c : EngC) : (x.setEng e c).gstk = x.gstk := by cases e <;> rfl
@[simp] theorem Ctx.setEng_gtt (x : Ctx) (e : Eng) (c : EngC) : (x.setEng e c).gtt = x.gtt := by cases e <;> rfl
@[simp] theorem Ctx.setEng_gmt (x : Ctx) (e : Eng) (c : EngC) : (x.setEng e c).gmt = x.gmt := by cases e <;> rfl
@[simp] theorem Ctx.setEng_gdim (x : Ctx) (e : Eng) (c : EngC) : (x.setEng e c).gdim = x.gdim := by cases e <;> rfl
@[simp] theorem Ctx.setEng_trap (x : Ctx) (e : Eng) (c : EngC) : (x.setEng e c).trap = x.trap := by cases e <;> rfl
@[simp] theorem Ctx.setEng_esc (x : Ctx) (e : Eng) (c : EngC) : (x.setEng e c).esc = x.esc := by cases e <;> rfl
@[simp] theorem Ctx.setEng_out (x : Ctx) (e : Eng) (c : EngC) : (x.setEng e c).out = x.out := by cases e <;> rfl
@[simp] theorem Ctx.setEng_pend (x : Ctx) (e : Eng) (c : EngC) : (x.setEng e c).pend = x.pend := by cases e <;> rfl
@[simp] theorem Ctx.setEng_verdicts (x : Ctx) (e : Eng) (c : EngC) : (x.setEng e c).verdicts = x.verdicts := by cases e <;> rfl
@[simp] theorem Ctx.setEng_seqs (x : Ctx) (e : Eng) (c : EngC) : (x.setEng e c).seqs = x.seqs := by cases e <;> rfl
@[simp] theorem Ctx.setEng_sb (x : Ctx) (e : Eng) (c : EngC) : (x.setEng e c).sb = x.sb := by cases e <;> rfl
@[simp] theorem Ctx.setEng_popped (x : Ctx) (e : Eng) (c : EngC) : (x.setEng e c).popped = x.popped := by cases e <;> rfl
@[simp] theorem Ctx.setEng_mpoison (x : Ctx) (e : Eng) (c : EngC) : (x.setEng e c).mpoison = x.mpoison := by cases e <;> rfl
@[simp] theorem Ctx.setEng_taken (x : Ctx) (e : Eng) (c : EngC) : (x.setEng e c).taken = x.taken := by cases e <;> rfl
@[simp] theorem Ctx.setEng_sysd (x : Ctx) (e : Eng) (c : EngC) : (x.setEng e c).sysd = x.sysd := by cases e <;> rfl
@[simp] theorem Ctx.setEng_past (x : Ctx) (e : Eng) (c : EngC) : (x.setEng e c).past = x.past := by cases e <;> rfl

@[simp] theorem Cell.setCtx_tag (c : Cell) (k : Nat) (x : Ctx) : (c.setCtx k x).tag = c.tag := rfl
@[simp] theorem Cell.setCtx_lcell (c : Cell) (k : Nat) (x : Ctx) : (c.setCtx k x).lcell = c.lcell := rfl
@[simp] theorem Cell.setCtx_kchan (c : Cell) (k : Nat) (x : Ctx) : (c.setCtx k x).kchan = c.kchan := rfl
@[simp] theorem Cell.setCtx_wdlim (c : Cell) (k : Nat) (x : Ctx) : (c.setCtx k x).wdlim = c.wdlim := rfl
@[simp] theorem Cell.setCtx_lease (c : Cell) (k : Nat) (x : Ctx) : (c.setCtx k x).lease = c.lease := rfl
@[simp] theorem Cell.setCtx_dpcnt (c : Cell) (k : Nat) (x : Ctx) : (c.setCtx k x).dpcnt = c.dpcnt := rfl
@[simp] theorem Cell.setCtx_pgate (c : Cell) (k : Nat) (x : Ctx) : (c.setCtx k x).pgate = c.pgate := rfl
@[simp] theorem Cell.setCtx_store (c : Cell) (k : Nat) (x : Ctx) : (c.setCtx k x).store = c.store := rfl
@[simp] theorem Cell.setCtx_landed (c : Cell) (k : Nat) (x : Ctx) : (c.setCtx k x).landed = c.landed := rfl
@[simp] theorem Cell.setCtx_cpoison (c : Cell) (k : Nat) (x : Ctx) : (c.setCtx k x).cpoison = c.cpoison := rfl
@[simp] theorem Cell.setCtx_chans (c : Cell) (k : Nat) (x : Ctx) : (c.setCtx k x).chans = c.chans := rfl
@[simp] theorem Cell.setCtx_rr (c : Cell) (k : Nat) (x : Ctx) : (c.setCtx k x).rr = c.rr := rfl
@[simp] theorem Cell.setCtx_taskq (c : Cell) (k : Nat) (x : Ctx) : (c.setCtx k x).taskq = c.taskq := rfl
@[simp] theorem Cell.setCtx_heard (c : Cell) (k : Nat) (x : Ctx) : (c.setCtx k x).heard = c.heard := rfl
@[simp] theorem Cell.setCtx_buckets (c : Cell) (k : Nat) (x : Ctx) : (c.setCtx k x).buckets = c.buckets := rfl
@[simp] theorem Cell.setCtx_spill (c : Cell) (k : Nat) (x : Ctx) : (c.setCtx k x).spill = c.spill := rfl
@[simp] theorem Cell.setCtx_wake (c : Cell) (k : Nat) (x : Ctx) : (c.setCtx k x).wake = c.wake := rfl
@[simp] theorem Cell.setCtx_fview (c : Cell) (k : Nat) (x : Ctx) : (c.setCtx k x).fview = c.fview := rfl
@[simp] theorem Cell.setCtx_dview (c : Cell) (k : Nat) (x : Ctx) : (c.setCtx k x).dview = c.dview := rfl
@[simp] theorem Cell.setCtx_wview (c : Cell) (k : Nat) (x : Ctx) : (c.setCtx k x).wview = c.wview := rfl
@[simp] theorem Cell.setCtx_l1 (c : Cell) (k : Nat) (x : Ctx) : (c.setCtx k x).l1 = c.l1 := rfl
@[simp] theorem Cell.setCtx_istore (c : Cell) (k : Nat) (x : Ctx) : (c.setCtx k x).istore = c.istore := rfl
@[simp] theorem Cell.setCtx_mseg (c : Cell) (k : Nat) (x : Ctx) : (c.setCtx k x).mseg = c.mseg := rfl
@[simp] theorem Cell.setCtx_itlb (c : Cell) (k : Nat) (x : Ctx) : (c.setCtx k x).itlb = c.itlb := rfl
@[simp] theorem Cell.setCtx_dtlb (c : Cell) (k : Nat) (x : Ctx) : (c.setCtx k x).dtlb = c.dtlb := rfl
@[simp] theorem Cell.setCtx_select (c : Cell) (k : Nat) (x : Ctx) : (c.setCtx k x).select = c.select := rfl
@[simp] theorem Cell.setCtx_mu (c : Cell) (k : Nat) (x : Ctx) : (c.setCtx k x).mu = c.mu := rfl
@[simp] theorem Cell.setCtx_claim (c : Cell) (k : Nat) (x : Ctx) : (c.setCtx k x).claim = c.claim := rfl
@[simp] theorem Cell.setCtx_claimQ (c : Cell) (k : Nat) (x : Ctx) : (c.setCtx k x).claimQ = c.claimQ := rfl

@[simp] theorem Cell.setChan_tag (c : Cell) (k : Nat) (x : Chan) : (c.setChan k x).tag = c.tag := rfl
@[simp] theorem Cell.setChan_lcell (c : Cell) (k : Nat) (x : Chan) : (c.setChan k x).lcell = c.lcell := rfl
@[simp] theorem Cell.setChan_kchan (c : Cell) (k : Nat) (x : Chan) : (c.setChan k x).kchan = c.kchan := rfl
@[simp] theorem Cell.setChan_wdlim (c : Cell) (k : Nat) (x : Chan) : (c.setChan k x).wdlim = c.wdlim := rfl
@[simp] theorem Cell.setChan_lease (c : Cell) (k : Nat) (x : Chan) : (c.setChan k x).lease = c.lease := rfl
@[simp] theorem Cell.setChan_dpcnt (c : Cell) (k : Nat) (x : Chan) : (c.setChan k x).dpcnt = c.dpcnt := rfl
@[simp] theorem Cell.setChan_pgate (c : Cell) (k : Nat) (x : Chan) : (c.setChan k x).pgate = c.pgate := rfl
@[simp] theorem Cell.setChan_store (c : Cell) (k : Nat) (x : Chan) : (c.setChan k x).store = c.store := rfl
@[simp] theorem Cell.setChan_landed (c : Cell) (k : Nat) (x : Chan) : (c.setChan k x).landed = c.landed := rfl
@[simp] theorem Cell.setChan_cpoison (c : Cell) (k : Nat) (x : Chan) : (c.setChan k x).cpoison = c.cpoison := rfl
@[simp] theorem Cell.setChan_rr (c : Cell) (k : Nat) (x : Chan) : (c.setChan k x).rr = c.rr := rfl
@[simp] theorem Cell.setChan_taskq (c : Cell) (k : Nat) (x : Chan) : (c.setChan k x).taskq = c.taskq := rfl
@[simp] theorem Cell.setChan_heard (c : Cell) (k : Nat) (x : Chan) : (c.setChan k x).heard = c.heard := rfl
@[simp] theorem Cell.setChan_buckets (c : Cell) (k : Nat) (x : Chan) : (c.setChan k x).buckets = c.buckets := rfl
@[simp] theorem Cell.setChan_spill (c : Cell) (k : Nat) (x : Chan) : (c.setChan k x).spill = c.spill := rfl
@[simp] theorem Cell.setChan_wake (c : Cell) (k : Nat) (x : Chan) : (c.setChan k x).wake = c.wake := rfl
@[simp] theorem Cell.setChan_fview (c : Cell) (k : Nat) (x : Chan) : (c.setChan k x).fview = c.fview := rfl
@[simp] theorem Cell.setChan_dview (c : Cell) (k : Nat) (x : Chan) : (c.setChan k x).dview = c.dview := rfl
@[simp] theorem Cell.setChan_wview (c : Cell) (k : Nat) (x : Chan) : (c.setChan k x).wview = c.wview := rfl
@[simp] theorem Cell.setChan_l1 (c : Cell) (k : Nat) (x : Chan) : (c.setChan k x).l1 = c.l1 := rfl
@[simp] theorem Cell.setChan_istore (c : Cell) (k : Nat) (x : Chan) : (c.setChan k x).istore = c.istore := rfl
@[simp] theorem Cell.setChan_mseg (c : Cell) (k : Nat) (x : Chan) : (c.setChan k x).mseg = c.mseg := rfl
@[simp] theorem Cell.setChan_itlb (c : Cell) (k : Nat) (x : Chan) : (c.setChan k x).itlb = c.itlb := rfl
@[simp] theorem Cell.setChan_dtlb (c : Cell) (k : Nat) (x : Chan) : (c.setChan k x).dtlb = c.dtlb := rfl
@[simp] theorem Cell.setChan_select (c : Cell) (k : Nat) (x : Chan) : (c.setChan k x).select = c.select := rfl
@[simp] theorem Cell.setChan_mu (c : Cell) (k : Nat) (x : Chan) : (c.setChan k x).mu = c.mu := rfl
@[simp] theorem Cell.setChan_claim (c : Cell) (k : Nat) (x : Chan) : (c.setChan k x).claim = c.claim := rfl
@[simp] theorem Cell.setChan_claimQ (c : Cell) (k : Nat) (x : Chan) : (c.setChan k x).claimQ = c.claimQ := rfl
@[simp] theorem Cell.setChan_ctxs (c : Cell) (k : Nat) (x : Chan) : (c.setChan k x).ctxs = c.ctxs := rfl

end Sys2Proof.Machine
end

