-- ==== Sys2Proof/Laws/State.lean ====
section
/-! SUPPORT. What an update of the state leaves alone: one lemma per field and update. -/

namespace Sys2Proof.Machine
open Sys2Proof

theorem State.memSet_eq (s : State) (w : Nat × Byte) : s.memSet w = { s with mem := (s.memSet w).mem, lineKeys := (s.memSet w).lineKeys } := by
  unfold State.memSet State.rekey; dsimp only; split <;> rfl

/-- A write of bytes changes memory and the keys of its lines, and nothing else. -/
theorem State.memPut_eq (s : State) (ws : List (Nat × Byte)) :
    s.memPut ws = { s with mem := (s.memPut ws).mem, lineKeys := (s.memPut ws).lineKeys } := by
  induction ws generalizing s with
  | nil => rfl
  | cons w t ih =>
    have h := ih (s.memSet w)
    rw [s.memSet_eq w] at h
    rw [show s.memPut (w :: t) = (s.memSet w).memPut t from rfl, s.memSet_eq w]
    exact h

@[simp] theorem State.setCell_agenda (s : State) (n : Nat) (c : Cell) : (s.setCell n c).agenda = s.agenda := rfl
@[simp] theorem State.setCell_cur (s : State) (n : Nat) (c : Cell) : (s.setCell n c).cur = s.cur := rfl
@[simp] theorem State.setCell_now (s : State) (n : Nat) (c : Cell) : (s.setCell n c).now = s.now := rfl
@[simp] theorem State.setCell_free (s : State) (n : Nat) (c : Cell) : (s.setCell n c).free = s.free := rfl
@[simp] theorem State.setCell_serial (s : State) (n : Nat) (c : Cell) : (s.setCell n c).serial = s.serial := rfl
@[simp] theorem State.setCell_cycle (s : State) (n : Nat) (c : Cell) : (s.setCell n c).cycle = s.cycle := rfl
@[simp] theorem State.setCell_time (s : State) (n : Nat) (c : Cell) : (s.setCell n c).time = s.time := rfl
@[simp] theorem State.setCell_timeRem (s : State) (n : Nat) (c : Cell) : (s.setCell n c).timeRem = s.timeRem := rfl
@[simp] theorem State.setCell_freq (s : State) (n : Nat) (c : Cell) : (s.setCell n c).freq = s.freq := rfl
@[simp] theorem State.setCell_plim (s : State) (n : Nat) (c : Cell) : (s.setCell n c).plim = s.plim := rfl
@[simp] theorem State.setCell_bstat (s : State) (n : Nat) (c : Cell) : (s.setCell n c).bstat = s.bstat := rfl
@[simp] theorem State.setCell_bootStep (s : State) (n : Nat) (c : Cell) : (s.setCell n c).bootStep = s.bootStep := rfl
@[simp] theorem State.setCell_portCxl (s : State) (n : Nat) (c : Cell) : (s.setCell n c).portCxl = s.portCxl := rfl
@[simp] theorem State.setCell_mem (s : State) (n : Nat) (c : Cell) : (s.setCell n c).mem = s.mem := rfl
@[simp] theorem State.setCell_poison (s : State) (n : Nat) (c : Cell) : (s.setCell n c).poison = s.poison := rfl
@[simp] theorem State.setCell_dir (s : State) (n : Nat) (c : Cell) : (s.setCell n c).dir = s.dir := rfl
@[simp] theorem State.setCell_av (s : State) (n : Nat) (c : Cell) : (s.setCell n c).av = s.av := rfl
@[simp] theorem State.setCell_keys (s : State) (n : Nat) (c : Cell) : (s.setCell n c).keys = s.keys := rfl
@[simp] theorem State.setCell_gibs (s : State) (n : Nat) (c : Cell) : (s.setCell n c).gibs = s.gibs := rfl
@[simp] theorem State.setCell_lineKeys (s : State) (n : Nat) (c : Cell) : (s.setCell n c).lineKeys = s.lineKeys := rfl
@[simp] theorem State.setCell_asks (s : State) (n : Nat) (c : Cell) : (s.setCell n c).asks = s.asks := rfl
@[simp] theorem State.setCell_l2tlbs (s : State) (n : Nat) (c : Cell) : (s.setCell n c).l2tlbs = s.l2tlbs := rfl
@[simp] theorem State.setCell_parts (s : State) (n : Nat) (c : Cell) : (s.setCell n c).parts = s.parts := rfl
@[simp] theorem State.setCell_futs (s : State) (n : Nat) (c : Cell) : (s.setCell n c).futs = s.futs := rfl
@[simp] theorem State.setCell_parks (s : State) (n : Nat) (c : Cell) : (s.setCell n c).parks = s.parks := rfl
@[simp] theorem State.setCell_flights (s : State) (n : Nat) (c : Cell) : (s.setCell n c).flights = s.flights := rfl
@[simp] theorem State.setCell_verdicts (s : State) (n : Nat) (c : Cell) : (s.setCell n c).verdicts = s.verdicts := rfl
@[simp] theorem State.setCell_tasks (s : State) (n : Nat) (c : Cell) : (s.setCell n c).tasks = s.tasks := rfl
@[simp] theorem State.setCell_transfers (s : State) (n : Nat) (c : Cell) : (s.setCell n c).transfers = s.transfers := rfl
@[simp] theorem State.setCell_launches (s : State) (n : Nat) (c : Cell) : (s.setCell n c).launches = s.launches := rfl
@[simp] theorem State.setCell_statuses (s : State) (n : Nat) (c : Cell) : (s.setCell n c).statuses = s.statuses := rfl
@[simp] theorem State.setCell_copies (s : State) (n : Nat) (c : Cell) : (s.setCell n c).copies = s.copies := rfl
@[simp] theorem State.setCell_landings (s : State) (n : Nat) (c : Cell) : (s.setCell n c).landings = s.landings := rfl
@[simp] theorem State.setCell_partials (s : State) (n : Nat) (c : Cell) : (s.setCell n c).partials = s.partials := rfl
@[simp] theorem State.setCell_hypFaults (s : State) (n : Nat) (c : Cell) : (s.setCell n c).hypFaults = s.hypFaults := rfl
@[simp] theorem State.setCell_hypEvents (s : State) (n : Nat) (c : Cell) : (s.setCell n c).hypEvents = s.hypEvents := rfl
@[simp] theorem State.setCell_filters (s : State) (n : Nat) (c : Cell) : (s.setCell n c).filters = s.filters := rfl
@[simp] theorem State.setCell_gwDrops (s : State) (n : Nat) (c : Cell) : (s.setCell n c).gwDrops = s.gwDrops := rfl
@[simp] theorem State.setCell_sets (s : State) (n : Nat) (c : Cell) : (s.setCell n c).sets = s.sets := rfl
@[simp] theorem State.setCell_tokens (s : State) (n : Nat) (c : Cell) : (s.setCell n c).tokens = s.tokens := rfl
@[simp] theorem State.setCell_scrubSeq (s : State) (n : Nat) (c : Cell) : (s.setCell n c).scrubSeq = s.scrubSeq := rfl
@[simp] theorem State.setCell_harts (s : State) (n : Nat) (c : Cell) : (s.setCell n c).harts = s.harts := rfl
@[simp] theorem State.setCell_resvs (s : State) (n : Nat) (c : Cell) : (s.setCell n c).resvs = s.resvs := rfl
@[simp] theorem State.setCell_vfs (s : State) (n : Nat) (c : Cell) : (s.setCell n c).vfs = s.vfs := rfl
@[simp] theorem State.setCell_pfs (s : State) (n : Nat) (c : Cell) : (s.setCell n c).pfs = s.pfs := rfl
@[simp] theorem State.setCell_hostOut (s : State) (n : Nat) (c : Cell) : (s.setCell n c).hostOut = s.hostOut := rfl
@[simp] theorem State.setCell_lds (s : State) (n : Nat) (c : Cell) : (s.setCell n c).lds = s.lds := rfl
@[simp] theorem State.setCell_identity (s : State) (n : Nat) (c : Cell) : (s.setCell n c).identity = s.identity := rfl
@[simp] theorem State.setCell_ueSent (s : State) (n : Nat) (c : Cell) : (s.setCell n c).ueSent = s.ueSent := rfl
@[simp] theorem State.setCell_ueInbox (s : State) (n : Nat) (c : Cell) : (s.setCell n c).ueInbox = s.ueInbox := rfl
@[simp] theorem State.setCell_ueDropped (s : State) (n : Nat) (c : Cell) : (s.setCell n c).ueDropped = s.ueDropped := rfl
@[simp] theorem State.setCell_corrected (s : State) (n : Nat) (c : Cell) : (s.setCell n c).corrected = s.corrected := rfl
@[simp] theorem State.setCell_uncorrected (s : State) (n : Nat) (c : Cell) : (s.setCell n c).uncorrected = s.uncorrected := rfl
@[simp] theorem State.setCell_failedLanes (s : State) (n : Nat) (c : Cell) : (s.setCell n c).failedLanes = s.failedLanes := rfl
@[simp] theorem State.setCell_sumSeq (s : State) (n : Nat) (c : Cell) : (s.setCell n c).sumSeq = s.sumSeq := rfl

@[simp] theorem State.setCtx_agenda (s : State) (n k : Nat) (x : Ctx) : (s.setCtx n k x).agenda = s.agenda := rfl
@[simp] theorem State.setCtx_cur (s : State) (n k : Nat) (x : Ctx) : (s.setCtx n k x).cur = s.cur := rfl
@[simp] theorem State.setCtx_now (s : State) (n k : Nat) (x : Ctx) : (s.setCtx n k x).now = s.now := rfl
@[simp] theorem State.setCtx_free (s : State) (n k : Nat) (x : Ctx) : (s.setCtx n k x).free = s.free := rfl
@[simp] theorem State.setCtx_serial (s : State) (n k : Nat) (x : Ctx) : (s.setCtx n k x).serial = s.serial := rfl
@[simp] theorem State.setCtx_cycle (s : State) (n k : Nat) (x : Ctx) : (s.setCtx n k x).cycle = s.cycle := rfl
@[simp] theorem State.setCtx_time (s : State) (n k : Nat) (x : Ctx) : (s.setCtx n k x).time = s.time := rfl
@[simp] theorem State.setCtx_timeRem (s : State) (n k : Nat) (x : Ctx) : (s.setCtx n k x).timeRem = s.timeRem := rfl
@[simp] theorem State.setCtx_freq (s : State) (n k : Nat) (x : Ctx) : (s.setCtx n k x).freq = s.freq := rfl
@[simp] theorem State.setCtx_plim (s : State) (n k : Nat) (x : Ctx) : (s.setCtx n k x).plim = s.plim := rfl
@[simp] theorem State.setCtx_bstat (s : State) (n k : Nat) (x : Ctx) : (s.setCtx n k x).bstat = s.bstat := rfl
@[simp] theorem State.setCtx_bootStep (s : State) (n k : Nat) (x : Ctx) : (s.setCtx n k x).bootStep = s.bootStep := rfl
@[simp] theorem State.setCtx_portCxl (s : State) (n k : Nat) (x : Ctx) : (s.setCtx n k x).portCxl = s.portCxl := rfl
@[simp] theorem State.setCtx_mem (s : State) (n k : Nat) (x : Ctx) : (s.setCtx n k x).mem = s.mem := rfl
@[simp] theorem State.setCtx_poison (s : State) (n k : Nat) (x : Ctx) : (s.setCtx n k x).poison = s.poison := rfl
@[simp] theorem State.setCtx_dir (s : State) (n k : Nat) (x : Ctx) : (s.setCtx n k x).dir = s.dir := rfl
@[simp] theorem State.setCtx_av (s : State) (n k : Nat) (x : Ctx) : (s.setCtx n k x).av = s.av := rfl
@[simp] theorem State.setCtx_keys (s : State) (n k : Nat) (x : Ctx) : (s.setCtx n k x).keys = s.keys := rfl
@[simp] theorem State.setCtx_gibs (s : State) (n k : Nat) (x : Ctx) : (s.setCtx n k x).gibs = s.gibs := rfl
@[simp] theorem State.setCtx_lineKeys (s : State) (n k : Nat) (x : Ctx) : (s.setCtx n k x).lineKeys = s.lineKeys := rfl
@[simp] theorem State.setCtx_asks (s : State) (n k : Nat) (x : Ctx) : (s.setCtx n k x).asks = s.asks := rfl
@[simp] theorem State.setCtx_l2tlbs (s : State) (n k : Nat) (x : Ctx) : (s.setCtx n k x).l2tlbs = s.l2tlbs := rfl
@[simp] theorem State.setCtx_parts (s : State) (n k : Nat) (x : Ctx) : (s.setCtx n k x).parts = s.parts := rfl
@[simp] theorem State.setCtx_futs (s : State) (n k : Nat) (x : Ctx) : (s.setCtx n k x).futs = s.futs := rfl
@[simp] theorem State.setCtx_parks (s : State) (n k : Nat) (x : Ctx) : (s.setCtx n k x).parks = s.parks := rfl
@[simp] theorem State.setCtx_flights (s : State) (n k : Nat) (x : Ctx) : (s.setCtx n k x).flights = s.flights := rfl
@[simp] theorem State.setCtx_verdicts (s : State) (n k : Nat) (x : Ctx) : (s.setCtx n k x).verdicts = s.verdicts := rfl
@[simp] theorem State.setCtx_tasks (s : State) (n k : Nat) (x : Ctx) : (s.setCtx n k x).tasks = s.tasks := rfl
@[simp] theorem State.setCtx_transfers (s : State) (n k : Nat) (x : Ctx) : (s.setCtx n k x).transfers = s.transfers := rfl
@[simp] theorem State.setCtx_launches (s : State) (n k : Nat) (x : Ctx) : (s.setCtx n k x).launches = s.launches := rfl
@[simp] theorem State.setCtx_statuses (s : State) (n k : Nat) (x : Ctx) : (s.setCtx n k x).statuses = s.statuses := rfl
@[simp] theorem State.setCtx_copies (s : State) (n k : Nat) (x : Ctx) : (s.setCtx n k x).copies = s.copies := rfl
@[simp] theorem State.setCtx_landings (s : State) (n k : Nat) (x : Ctx) : (s.setCtx n k x).landings = s.landings := rfl
@[simp] theorem State.setCtx_partials (s : State) (n k : Nat) (x : Ctx) : (s.setCtx n k x).partials = s.partials := rfl
@[simp] theorem State.setCtx_hypFaults (s : State) (n k : Nat) (x : Ctx) : (s.setCtx n k x).hypFaults = s.hypFaults := rfl
@[simp] theorem State.setCtx_hypEvents (s : State) (n k : Nat) (x : Ctx) : (s.setCtx n k x).hypEvents = s.hypEvents := rfl
@[simp] theorem State.setCtx_filters (s : State) (n k : Nat) (x : Ctx) : (s.setCtx n k x).filters = s.filters := rfl
@[simp] theorem State.setCtx_gwDrops (s : State) (n k : Nat) (x : Ctx) : (s.setCtx n k x).gwDrops = s.gwDrops := rfl
@[simp] theorem State.setCtx_sets (s : State) (n k : Nat) (x : Ctx) : (s.setCtx n k x).sets = s.sets := rfl
@[simp] theorem State.setCtx_tokens (s : State) (n k : Nat) (x : Ctx) : (s.setCtx n k x).tokens = s.tokens := rfl
@[simp] theorem State.setCtx_scrubSeq (s : State) (n k : Nat) (x : Ctx) : (s.setCtx n k x).scrubSeq = s.scrubSeq := rfl
@[simp] theorem State.setCtx_harts (s : State) (n k : Nat) (x : Ctx) : (s.setCtx n k x).harts = s.harts := rfl
@[simp] theorem State.setCtx_resvs (s : State) (n k : Nat) (x : Ctx) : (s.setCtx n k x).resvs = s.resvs := rfl
@[simp] theorem State.setCtx_vfs (s : State) (n k : Nat) (x : Ctx) : (s.setCtx n k x).vfs = s.vfs := rfl
@[simp] theorem State.setCtx_pfs (s : State) (n k : Nat) (x : Ctx) : (s.setCtx n k x).pfs = s.pfs := rfl
@[simp] theorem State.setCtx_hostOut (s : State) (n k : Nat) (x : Ctx) : (s.setCtx n k x).hostOut = s.hostOut := rfl
@[simp] theorem State.setCtx_lds (s : State) (n k : Nat) (x : Ctx) : (s.setCtx n k x).lds = s.lds := rfl
@[simp] theorem State.setCtx_identity (s : State) (n k : Nat) (x : Ctx) : (s.setCtx n k x).identity = s.identity := rfl
@[simp] theorem State.setCtx_ueSent (s : State) (n k : Nat) (x : Ctx) : (s.setCtx n k x).ueSent = s.ueSent := rfl
@[simp] theorem State.setCtx_ueInbox (s : State) (n k : Nat) (x : Ctx) : (s.setCtx n k x).ueInbox = s.ueInbox := rfl
@[simp] theorem State.setCtx_ueDropped (s : State) (n k : Nat) (x : Ctx) : (s.setCtx n k x).ueDropped = s.ueDropped := rfl
@[simp] theorem State.setCtx_corrected (s : State) (n k : Nat) (x : Ctx) : (s.setCtx n k x).corrected = s.corrected := rfl
@[simp] theorem State.setCtx_uncorrected (s : State) (n k : Nat) (x : Ctx) : (s.setCtx n k x).uncorrected = s.uncorrected := rfl
@[simp] theorem State.setCtx_failedLanes (s : State) (n k : Nat) (x : Ctx) : (s.setCtx n k x).failedLanes = s.failedLanes := rfl
@[simp] theorem State.setCtx_sumSeq (s : State) (n k : Nat) (x : Ctx) : (s.setCtx n k x).sumSeq = s.sumSeq := rfl

@[simp] theorem State.setCx_agenda (s : State) (x : Ctx) : (s.setCx x).agenda = s.agenda := rfl
@[simp] theorem State.setCx_cur (s : State) (x : Ctx) : (s.setCx x).cur = s.cur := rfl
@[simp] theorem State.setCx_now (s : State) (x : Ctx) : (s.setCx x).now = s.now := rfl
@[simp] theorem State.setCx_free (s : State) (x : Ctx) : (s.setCx x).free = s.free := rfl
@[simp] theorem State.setCx_serial (s : State) (x : Ctx) : (s.setCx x).serial = s.serial := rfl
@[simp] theorem State.setCx_cycle (s : State) (x : Ctx) : (s.setCx x).cycle = s.cycle := rfl
@[simp] theorem State.setCx_time (s : State) (x : Ctx) : (s.setCx x).time = s.time := rfl
@[simp] theorem State.setCx_timeRem (s : State) (x : Ctx) : (s.setCx x).timeRem = s.timeRem := rfl
@[simp] theorem State.setCx_freq (s : State) (x : Ctx) : (s.setCx x).freq = s.freq := rfl
@[simp] theorem State.setCx_plim (s : State) (x : Ctx) : (s.setCx x).plim = s.plim := rfl
@[simp] theorem State.setCx_bstat (s : State) (x : Ctx) : (s.setCx x).bstat = s.bstat := rfl
@[simp] theorem State.setCx_bootStep (s : State) (x : Ctx) : (s.setCx x).bootStep = s.bootStep := rfl
@[simp] theorem State.setCx_portCxl (s : State) (x : Ctx) : (s.setCx x).portCxl = s.portCxl := rfl
@[simp] theorem State.setCx_mem (s : State) (x : Ctx) : (s.setCx x).mem = s.mem := rfl
@[simp] theorem State.setCx_poison (s : State) (x : Ctx) : (s.setCx x).poison = s.poison := rfl
@[simp] theorem State.setCx_dir (s : State) (x : Ctx) : (s.setCx x).dir = s.dir := rfl
@[simp] theorem State.setCx_av (s : State) (x : Ctx) : (s.setCx x).av = s.av := rfl
@[simp] theorem State.setCx_keys (s : State) (x : Ctx) : (s.setCx x).keys = s.keys := rfl
@[simp] theorem State.setCx_gibs (s : State) (x : Ctx) : (s.setCx x).gibs = s.gibs := rfl
@[simp] theorem State.setCx_lineKeys (s : State) (x : Ctx) : (s.setCx x).lineKeys = s.lineKeys := rfl
@[simp] theorem State.setCx_asks (s : State) (x : Ctx) : (s.setCx x).asks = s.asks := rfl
@[simp] theorem State.setCx_l2tlbs (s : State) (x : Ctx) : (s.setCx x).l2tlbs = s.l2tlbs := rfl
@[simp] theorem State.setCx_parts (s : State) (x : Ctx) : (s.setCx x).parts = s.parts := rfl
@[simp] theorem State.setCx_futs (s : State) (x : Ctx) : (s.setCx x).futs = s.futs := rfl
@[simp] theorem State.setCx_parks (s : State) (x : Ctx) : (s.setCx x).parks = s.parks := rfl
@[simp] theorem State.setCx_flights (s : State) (x : Ctx) : (s.setCx x).flights = s.flights := rfl
@[simp] theorem State.setCx_verdicts (s : State) (x : Ctx) : (s.setCx x).verdicts = s.verdicts := rfl
@[simp] theorem State.setCx_tasks (s : State) (x : Ctx) : (s.setCx x).tasks = s.tasks := rfl
@[simp] theorem State.setCx_transfers (s : State) (x : Ctx) : (s.setCx x).transfers = s.transfers := rfl
@[simp] theorem State.setCx_launches (s : State) (x : Ctx) : (s.setCx x).launches = s.launches := rfl
@[simp] theorem State.setCx_statuses (s : State) (x : Ctx) : (s.setCx x).statuses = s.statuses := rfl
@[simp] theorem State.setCx_copies (s : State) (x : Ctx) : (s.setCx x).copies = s.copies := rfl
@[simp] theorem State.setCx_landings (s : State) (x : Ctx) : (s.setCx x).landings = s.landings := rfl
@[simp] theorem State.setCx_partials (s : State) (x : Ctx) : (s.setCx x).partials = s.partials := rfl
@[simp] theorem State.setCx_hypFaults (s : State) (x : Ctx) : (s.setCx x).hypFaults = s.hypFaults := rfl
@[simp] theorem State.setCx_hypEvents (s : State) (x : Ctx) : (s.setCx x).hypEvents = s.hypEvents := rfl
@[simp] theorem State.setCx_filters (s : State) (x : Ctx) : (s.setCx x).filters = s.filters := rfl
@[simp] theorem State.setCx_gwDrops (s : State) (x : Ctx) : (s.setCx x).gwDrops = s.gwDrops := rfl
@[simp] theorem State.setCx_sets (s : State) (x : Ctx) : (s.setCx x).sets = s.sets := rfl
@[simp] theorem State.setCx_tokens (s : State) (x : Ctx) : (s.setCx x).tokens = s.tokens := rfl
@[simp] theorem State.setCx_scrubSeq (s : State) (x : Ctx) : (s.setCx x).scrubSeq = s.scrubSeq := rfl
@[simp] theorem State.setCx_harts (s : State) (x : Ctx) : (s.setCx x).harts = s.harts := rfl
@[simp] theorem State.setCx_resvs (s : State) (x : Ctx) : (s.setCx x).resvs = s.resvs := rfl
@[simp] theorem State.setCx_vfs (s : State) (x : Ctx) : (s.setCx x).vfs = s.vfs := rfl
@[simp] theorem State.setCx_pfs (s : State) (x : Ctx) : (s.setCx x).pfs = s.pfs := rfl
@[simp] theorem State.setCx_hostOut (s : State) (x : Ctx) : (s.setCx x).hostOut = s.hostOut := rfl
@[simp] theorem State.setCx_lds (s : State) (x : Ctx) : (s.setCx x).lds = s.lds := rfl
@[simp] theorem State.setCx_identity (s : State) (x : Ctx) : (s.setCx x).identity = s.identity := rfl
@[simp] theorem State.setCx_ueSent (s : State) (x : Ctx) : (s.setCx x).ueSent = s.ueSent := rfl
@[simp] theorem State.setCx_ueInbox (s : State) (x : Ctx) : (s.setCx x).ueInbox = s.ueInbox := rfl
@[simp] theorem State.setCx_ueDropped (s : State) (x : Ctx) : (s.setCx x).ueDropped = s.ueDropped := rfl
@[simp] theorem State.setCx_corrected (s : State) (x : Ctx) : (s.setCx x).corrected = s.corrected := rfl
@[simp] theorem State.setCx_uncorrected (s : State) (x : Ctx) : (s.setCx x).uncorrected = s.uncorrected := rfl
@[simp] theorem State.setCx_failedLanes (s : State) (x : Ctx) : (s.setCx x).failedLanes = s.failedLanes := rfl
@[simp] theorem State.setCx_sumSeq (s : State) (x : Ctx) : (s.setCx x).sumSeq = s.sumSeq := rfl

@[simp] theorem State.setCl_agenda (s : State) (c : Cell) : (s.setCl c).agenda = s.agenda := rfl
@[simp] theorem State.setCl_cur (s : State) (c : Cell) : (s.setCl c).cur = s.cur := rfl
@[simp] theorem State.setCl_now (s : State) (c : Cell) : (s.setCl c).now = s.now := rfl
@[simp] theorem State.setCl_free (s : State) (c : Cell) : (s.setCl c).free = s.free := rfl
@[simp] theorem State.setCl_serial (s : State) (c : Cell) : (s.setCl c).serial = s.serial := rfl
@[simp] theorem State.setCl_cycle (s : State) (c : Cell) : (s.setCl c).cycle = s.cycle := rfl
@[simp] theorem State.setCl_time (s : State) (c : Cell) : (s.setCl c).time = s.time := rfl
@[simp] theorem State.setCl_timeRem (s : State) (c : Cell) : (s.setCl c).timeRem = s.timeRem := rfl
@[simp] theorem State.setCl_freq (s : State) (c : Cell) : (s.setCl c).freq = s.freq := rfl
@[simp] theorem State.setCl_plim (s : State) (c : Cell) : (s.setCl c).plim = s.plim := rfl
@[simp] theorem State.setCl_bstat (s : State) (c : Cell) : (s.setCl c).bstat = s.bstat := rfl
@[simp] theorem State.setCl_bootStep (s : State) (c : Cell) : (s.setCl c).bootStep = s.bootStep := rfl
@[simp] theorem State.setCl_portCxl (s : State) (c : Cell) : (s.setCl c).portCxl = s.portCxl := rfl
@[simp] theorem State.setCl_mem (s : State) (c : Cell) : (s.setCl c).mem = s.mem := rfl
@[simp] theorem State.setCl_poison (s : State) (c : Cell) : (s.setCl c).poison = s.poison := rfl
@[simp] theorem State.setCl_dir (s : State) (c : Cell) : (s.setCl c).dir = s.dir := rfl
@[simp] theorem State.setCl_av (s : State) (c : Cell) : (s.setCl c).av = s.av := rfl
@[simp] theorem State.setCl_keys (s : State) (c : Cell) : (s.setCl c).keys = s.keys := rfl
@[simp] theorem State.setCl_gibs (s : State) (c : Cell) : (s.setCl c).gibs = s.gibs := rfl
@[simp] theorem State.setCl_lineKeys (s : State) (c : Cell) : (s.setCl c).lineKeys = s.lineKeys := rfl
@[simp] theorem State.setCl_asks (s : State) (c : Cell) : (s.setCl c).asks = s.asks := rfl
@[simp] theorem State.setCl_l2tlbs (s : State) (c : Cell) : (s.setCl c).l2tlbs = s.l2tlbs := rfl
@[simp] theorem State.setCl_parts (s : State) (c : Cell) : (s.setCl c).parts = s.parts := rfl
@[simp] theorem State.setCl_futs (s : State) (c : Cell) : (s.setCl c).futs = s.futs := rfl
@[simp] theorem State.setCl_parks (s : State) (c : Cell) : (s.setCl c).parks = s.parks := rfl
@[simp] theorem State.setCl_flights (s : State) (c : Cell) : (s.setCl c).flights = s.flights := rfl
@[simp] theorem State.setCl_verdicts (s : State) (c : Cell) : (s.setCl c).verdicts = s.verdicts := rfl
@[simp] theorem State.setCl_tasks (s : State) (c : Cell) : (s.setCl c).tasks = s.tasks := rfl
@[simp] theorem State.setCl_transfers (s : State) (c : Cell) : (s.setCl c).transfers = s.transfers := rfl
@[simp] theorem State.setCl_launches (s : State) (c : Cell) : (s.setCl c).launches = s.launches := rfl
@[simp] theorem State.setCl_statuses (s : State) (c : Cell) : (s.setCl c).statuses = s.statuses := rfl
@[simp] theorem State.setCl_copies (s : State) (c : Cell) : (s.setCl c).copies = s.copies := rfl
@[simp] theorem State.setCl_landings (s : State) (c : Cell) : (s.setCl c).landings = s.landings := rfl
@[simp] theorem State.setCl_partials (s : State) (c : Cell) : (s.setCl c).partials = s.partials := rfl
@[simp] theorem State.setCl_hypFaults (s : State) (c : Cell) : (s.setCl c).hypFaults = s.hypFaults := rfl
@[simp] theorem State.setCl_hypEvents (s : State) (c : Cell) : (s.setCl c).hypEvents = s.hypEvents := rfl
@[simp] theorem State.setCl_filters (s : State) (c : Cell) : (s.setCl c).filters = s.filters := rfl
@[simp] theorem State.setCl_gwDrops (s : State) (c : Cell) : (s.setCl c).gwDrops = s.gwDrops := rfl
@[simp] theorem State.setCl_sets (s : State) (c : Cell) : (s.setCl c).sets = s.sets := rfl
@[simp] theorem State.setCl_tokens (s : State) (c : Cell) : (s.setCl c).tokens = s.tokens := rfl
@[simp] theorem State.setCl_scrubSeq (s : State) (c : Cell) : (s.setCl c).scrubSeq = s.scrubSeq := rfl
@[simp] theorem State.setCl_harts (s : State) (c : Cell) : (s.setCl c).harts = s.harts := rfl
@[simp] theorem State.setCl_resvs (s : State) (c : Cell) : (s.setCl c).resvs = s.resvs := rfl
@[simp] theorem State.setCl_vfs (s : State) (c : Cell) : (s.setCl c).vfs = s.vfs := rfl
@[simp] theorem State.setCl_pfs (s : State) (c : Cell) : (s.setCl c).pfs = s.pfs := rfl
@[simp] theorem State.setCl_hostOut (s : State) (c : Cell) : (s.setCl c).hostOut = s.hostOut := rfl
@[simp] theorem State.setCl_lds (s : State) (c : Cell) : (s.setCl c).lds = s.lds := rfl
@[simp] theorem State.setCl_identity (s : State) (c : Cell) : (s.setCl c).identity = s.identity := rfl
@[simp] theorem State.setCl_ueSent (s : State) (c : Cell) : (s.setCl c).ueSent = s.ueSent := rfl
@[simp] theorem State.setCl_ueInbox (s : State) (c : Cell) : (s.setCl c).ueInbox = s.ueInbox := rfl
@[simp] theorem State.setCl_ueDropped (s : State) (c : Cell) : (s.setCl c).ueDropped = s.ueDropped := rfl
@[simp] theorem State.setCl_corrected (s : State) (c : Cell) : (s.setCl c).corrected = s.corrected := rfl
@[simp] theorem State.setCl_uncorrected (s : State) (c : Cell) : (s.setCl c).uncorrected = s.uncorrected := rfl
@[simp] theorem State.setCl_failedLanes (s : State) (c : Cell) : (s.setCl c).failedLanes = s.failedLanes := rfl
@[simp] theorem State.setCl_sumSeq (s : State) (c : Cell) : (s.setCl c).sumSeq = s.sumSeq := rfl

@[simp] theorem State.setChan_agenda (s : State) (n k : Nat) (x : Chan) : (s.setChan n k x).agenda = s.agenda := rfl
@[simp] theorem State.setChan_cur (s : State) (n k : Nat) (x : Chan) : (s.setChan n k x).cur = s.cur := rfl
@[simp] theorem State.setChan_now (s : State) (n k : Nat) (x : Chan) : (s.setChan n k x).now = s.now := rfl
@[simp] theorem State.setChan_free (s : State) (n k : Nat) (x : Chan) : (s.setChan n k x).free = s.free := rfl
@[simp] theorem State.setChan_serial (s : State) (n k : Nat) (x : Chan) : (s.setChan n k x).serial = s.serial := rfl
@[simp] theorem State.setChan_cycle (s : State) (n k : Nat) (x : Chan) : (s.setChan n k x).cycle = s.cycle := rfl
@[simp] theorem State.setChan_time (s : State) (n k : Nat) (x : Chan) : (s.setChan n k x).time = s.time := rfl
@[simp] theorem State.setChan_timeRem (s : State) (n k : Nat) (x : Chan) : (s.setChan n k x).timeRem = s.timeRem := rfl
@[simp] theorem State.setChan_freq (s : State) (n k : Nat) (x : Chan) : (s.setChan n k x).freq = s.freq := rfl
@[simp] theorem State.setChan_plim (s : State) (n k : Nat) (x : Chan) : (s.setChan n k x).plim = s.plim := rfl
@[simp] theorem State.setChan_bstat (s : State) (n k : Nat) (x : Chan) : (s.setChan n k x).bstat = s.bstat := rfl
@[simp] theorem State.setChan_bootStep (s : State) (n k : Nat) (x : Chan) : (s.setChan n k x).bootStep = s.bootStep := rfl
@[simp] theorem State.setChan_portCxl (s : State) (n k : Nat) (x : Chan) : (s.setChan n k x).portCxl = s.portCxl := rfl
@[simp] theorem State.setChan_mem (s : State) (n k : Nat) (x : Chan) : (s.setChan n k x).mem = s.mem := rfl
@[simp] theorem State.setChan_poison (s : State) (n k : Nat) (x : Chan) : (s.setChan n k x).poison = s.poison := rfl
@[simp] theorem State.setChan_dir (s : State) (n k : Nat) (x : Chan) : (s.setChan n k x).dir = s.dir := rfl
@[simp] theorem State.setChan_av (s : State) (n k : Nat) (x : Chan) : (s.setChan n k x).av = s.av := rfl
@[simp] theorem State.setChan_keys (s : State) (n k : Nat) (x : Chan) : (s.setChan n k x).keys = s.keys := rfl
@[simp] theorem State.setChan_gibs (s : State) (n k : Nat) (x : Chan) : (s.setChan n k x).gibs = s.gibs := rfl
@[simp] theorem State.setChan_lineKeys (s : State) (n k : Nat) (x : Chan) : (s.setChan n k x).lineKeys = s.lineKeys := rfl
@[simp] theorem State.setChan_asks (s : State) (n k : Nat) (x : Chan) : (s.setChan n k x).asks = s.asks := rfl
@[simp] theorem State.setChan_l2tlbs (s : State) (n k : Nat) (x : Chan) : (s.setChan n k x).l2tlbs = s.l2tlbs := rfl
@[simp] theorem State.setChan_parts (s : State) (n k : Nat) (x : Chan) : (s.setChan n k x).parts = s.parts := rfl
@[simp] theorem State.setChan_futs (s : State) (n k : Nat) (x : Chan) : (s.setChan n k x).futs = s.futs := rfl
@[simp] theorem State.setChan_parks (s : State) (n k : Nat) (x : Chan) : (s.setChan n k x).parks = s.parks := rfl
@[simp] theorem State.setChan_flights (s : State) (n k : Nat) (x : Chan) : (s.setChan n k x).flights = s.flights := rfl
@[simp] theorem State.setChan_verdicts (s : State) (n k : Nat) (x : Chan) : (s.setChan n k x).verdicts = s.verdicts := rfl
@[simp] theorem State.setChan_tasks (s : State) (n k : Nat) (x : Chan) : (s.setChan n k x).tasks = s.tasks := rfl
@[simp] theorem State.setChan_transfers (s : State) (n k : Nat) (x : Chan) : (s.setChan n k x).transfers = s.transfers := rfl
@[simp] theorem State.setChan_launches (s : State) (n k : Nat) (x : Chan) : (s.setChan n k x).launches = s.launches := rfl
@[simp] theorem State.setChan_statuses (s : State) (n k : Nat) (x : Chan) : (s.setChan n k x).statuses = s.statuses := rfl
@[simp] theorem State.setChan_copies (s : State) (n k : Nat) (x : Chan) : (s.setChan n k x).copies = s.copies := rfl
@[simp] theorem State.setChan_landings (s : State) (n k : Nat) (x : Chan) : (s.setChan n k x).landings = s.landings := rfl
@[simp] theorem State.setChan_partials (s : State) (n k : Nat) (x : Chan) : (s.setChan n k x).partials = s.partials := rfl
@[simp] theorem State.setChan_hypFaults (s : State) (n k : Nat) (x : Chan) : (s.setChan n k x).hypFaults = s.hypFaults := rfl
@[simp] theorem State.setChan_hypEvents (s : State) (n k : Nat) (x : Chan) : (s.setChan n k x).hypEvents = s.hypEvents := rfl
@[simp] theorem State.setChan_filters (s : State) (n k : Nat) (x : Chan) : (s.setChan n k x).filters = s.filters := rfl
@[simp] theorem State.setChan_gwDrops (s : State) (n k : Nat) (x : Chan) : (s.setChan n k x).gwDrops = s.gwDrops := rfl
@[simp] theorem State.setChan_sets (s : State) (n k : Nat) (x : Chan) : (s.setChan n k x).sets = s.sets := rfl
@[simp] theorem State.setChan_tokens (s : State) (n k : Nat) (x : Chan) : (s.setChan n k x).tokens = s.tokens := rfl
@[simp] theorem State.setChan_scrubSeq (s : State) (n k : Nat) (x : Chan) : (s.setChan n k x).scrubSeq = s.scrubSeq := rfl
@[simp] theorem State.setChan_harts (s : State) (n k : Nat) (x : Chan) : (s.setChan n k x).harts = s.harts := rfl
@[simp] theorem State.setChan_resvs (s : State) (n k : Nat) (x : Chan) : (s.setChan n k x).resvs = s.resvs := rfl
@[simp] theorem State.setChan_vfs (s : State) (n k : Nat) (x : Chan) : (s.setChan n k x).vfs = s.vfs := rfl
@[simp] theorem State.setChan_pfs (s : State) (n k : Nat) (x : Chan) : (s.setChan n k x).pfs = s.pfs := rfl
@[simp] theorem State.setChan_hostOut (s : State) (n k : Nat) (x : Chan) : (s.setChan n k x).hostOut = s.hostOut := rfl
@[simp] theorem State.setChan_lds (s : State) (n k : Nat) (x : Chan) : (s.setChan n k x).lds = s.lds := rfl
@[simp] theorem State.setChan_identity (s : State) (n k : Nat) (x : Chan) : (s.setChan n k x).identity = s.identity := rfl
@[simp] theorem State.setChan_ueSent (s : State) (n k : Nat) (x : Chan) : (s.setChan n k x).ueSent = s.ueSent := rfl
@[simp] theorem State.setChan_ueInbox (s : State) (n k : Nat) (x : Chan) : (s.setChan n k x).ueInbox = s.ueInbox := rfl
@[simp] theorem State.setChan_ueDropped (s : State) (n k : Nat) (x : Chan) : (s.setChan n k x).ueDropped = s.ueDropped := rfl
@[simp] theorem State.setChan_corrected (s : State) (n k : Nat) (x : Chan) : (s.setChan n k x).corrected = s.corrected := rfl
@[simp] theorem State.setChan_uncorrected (s : State) (n k : Nat) (x : Chan) : (s.setChan n k x).uncorrected = s.uncorrected := rfl
@[simp] theorem State.setChan_failedLanes (s : State) (n k : Nat) (x : Chan) : (s.setChan n k x).failedLanes = s.failedLanes := rfl
@[simp] theorem State.setChan_sumSeq (s : State) (n k : Nat) (x : Chan) : (s.setChan n k x).sumSeq = s.sumSeq := rfl

@[simp] theorem State.setPart_agenda (s : State) (p : Nat) (x : Part) : (s.setPart p x).agenda = s.agenda := rfl
@[simp] theorem State.setPart_cur (s : State) (p : Nat) (x : Part) : (s.setPart p x).cur = s.cur := rfl
@[simp] theorem State.setPart_now (s : State) (p : Nat) (x : Part) : (s.setPart p x).now = s.now := rfl
@[simp] theorem State.setPart_free (s : State) (p : Nat) (x : Part) : (s.setPart p x).free = s.free := rfl
@[simp] theorem State.setPart_serial (s : State) (p : Nat) (x : Part) : (s.setPart p x).serial = s.serial := rfl
@[simp] theorem State.setPart_cycle (s : State) (p : Nat) (x : Part) : (s.setPart p x).cycle = s.cycle := rfl
@[simp] theorem State.setPart_time (s : State) (p : Nat) (x : Part) : (s.setPart p x).time = s.time := rfl
@[simp] theorem State.setPart_timeRem (s : State) (p : Nat) (x : Part) : (s.setPart p x).timeRem = s.timeRem := rfl
@[simp] theorem State.setPart_freq (s : State) (p : Nat) (x : Part) : (s.setPart p x).freq = s.freq := rfl
@[simp] theorem State.setPart_plim (s : State) (p : Nat) (x : Part) : (s.setPart p x).plim = s.plim := rfl
@[simp] theorem State.setPart_bstat (s : State) (p : Nat) (x : Part) : (s.setPart p x).bstat = s.bstat := rfl
@[simp] theorem State.setPart_bootStep (s : State) (p : Nat) (x : Part) : (s.setPart p x).bootStep = s.bootStep := rfl
@[simp] theorem State.setPart_portCxl (s : State) (p : Nat) (x : Part) : (s.setPart p x).portCxl = s.portCxl := rfl
@[simp] theorem State.setPart_mem (s : State) (p : Nat) (x : Part) : (s.setPart p x).mem = s.mem := rfl
@[simp] theorem State.setPart_poison (s : State) (p : Nat) (x : Part) : (s.setPart p x).poison = s.poison := rfl
@[simp] theorem State.setPart_dir (s : State) (p : Nat) (x : Part) : (s.setPart p x).dir = s.dir := rfl
@[simp] theorem State.setPart_av (s : State) (p : Nat) (x : Part) : (s.setPart p x).av = s.av := rfl
@[simp] theorem State.setPart_keys (s : State) (p : Nat) (x : Part) : (s.setPart p x).keys = s.keys := rfl
@[simp] theorem State.setPart_gibs (s : State) (p : Nat) (x : Part) : (s.setPart p x).gibs = s.gibs := rfl
@[simp] theorem State.setPart_lineKeys (s : State) (p : Nat) (x : Part) : (s.setPart p x).lineKeys = s.lineKeys := rfl
@[simp] theorem State.setPart_asks (s : State) (p : Nat) (x : Part) : (s.setPart p x).asks = s.asks := rfl
@[simp] theorem State.setPart_cells (s : State) (p : Nat) (x : Part) : (s.setPart p x).cells = s.cells := rfl
@[simp] theorem State.setPart_l2tlbs (s : State) (p : Nat) (x : Part) : (s.setPart p x).l2tlbs = s.l2tlbs := rfl
@[simp] theorem State.setPart_futs (s : State) (p : Nat) (x : Part) : (s.setPart p x).futs = s.futs := rfl
@[simp] theorem State.setPart_parks (s : State) (p : Nat) (x : Part) : (s.setPart p x).parks = s.parks := rfl
@[simp] theorem State.setPart_flights (s : State) (p : Nat) (x : Part) : (s.setPart p x).flights = s.flights := rfl
@[simp] theorem State.setPart_verdicts (s : State) (p : Nat) (x : Part) : (s.setPart p x).verdicts = s.verdicts := rfl
@[simp] theorem State.setPart_tasks (s : State) (p : Nat) (x : Part) : (s.setPart p x).tasks = s.tasks := rfl
@[simp] theorem State.setPart_transfers (s : State) (p : Nat) (x : Part) : (s.setPart p x).transfers = s.transfers := rfl
@[simp] theorem State.setPart_launches (s : State) (p : Nat) (x : Part) : (s.setPart p x).launches = s.launches := rfl
@[simp] theorem State.setPart_statuses (s : State) (p : Nat) (x : Part) : (s.setPart p x).statuses = s.statuses := rfl
@[simp] theorem State.setPart_copies (s : State) (p : Nat) (x : Part) : (s.setPart p x).copies = s.copies := rfl
@[simp] theorem State.setPart_landings (s : State) (p : Nat) (x : Part) : (s.setPart p x).landings = s.landings := rfl
@[simp] theorem State.setPart_partials (s : State) (p : Nat) (x : Part) : (s.setPart p x).partials = s.partials := rfl
@[simp] theorem State.setPart_hypFaults (s : State) (p : Nat) (x : Part) : (s.setPart p x).hypFaults = s.hypFaults := rfl
@[simp] theorem State.setPart_hypEvents (s : State) (p : Nat) (x : Part) : (s.setPart p x).hypEvents = s.hypEvents := rfl
@[simp] theorem State.setPart_filters (s : State) (p : Nat) (x : Part) : (s.setPart p x).filters = s.filters := rfl
@[simp] theorem State.setPart_gwDrops (s : State) (p : Nat) (x : Part) : (s.setPart p x).gwDrops = s.gwDrops := rfl
@[simp] theorem State.setPart_sets (s : State) (p : Nat) (x : Part) : (s.setPart p x).sets = s.sets := rfl
@[simp] theorem State.setPart_tokens (s : State) (p : Nat) (x : Part) : (s.setPart p x).tokens = s.tokens := rfl
@[simp] theorem State.setPart_scrubSeq (s : State) (p : Nat) (x : Part) : (s.setPart p x).scrubSeq = s.scrubSeq := rfl
@[simp] theorem State.setPart_harts (s : State) (p : Nat) (x : Part) : (s.setPart p x).harts = s.harts := rfl
@[simp] theorem State.setPart_resvs (s : State) (p : Nat) (x : Part) : (s.setPart p x).resvs = s.resvs := rfl
@[simp] theorem State.setPart_vfs (s : State) (p : Nat) (x : Part) : (s.setPart p x).vfs = s.vfs := rfl
@[simp] theorem State.setPart_pfs (s : State) (p : Nat) (x : Part) : (s.setPart p x).pfs = s.pfs := rfl
@[simp] theorem State.setPart_hostOut (s : State) (p : Nat) (x : Part) : (s.setPart p x).hostOut = s.hostOut := rfl
@[simp] theorem State.setPart_lds (s : State) (p : Nat) (x : Part) : (s.setPart p x).lds = s.lds := rfl
@[simp] theorem State.setPart_identity (s : State) (p : Nat) (x : Part) : (s.setPart p x).identity = s.identity := rfl
@[simp] theorem State.setPart_ueSent (s : State) (p : Nat) (x : Part) : (s.setPart p x).ueSent = s.ueSent := rfl
@[simp] theorem State.setPart_ueInbox (s : State) (p : Nat) (x : Part) : (s.setPart p x).ueInbox = s.ueInbox := rfl
@[simp] theorem State.setPart_ueDropped (s : State) (p : Nat) (x : Part) : (s.setPart p x).ueDropped = s.ueDropped := rfl
@[simp] theorem State.setPart_corrected (s : State) (p : Nat) (x : Part) : (s.setPart p x).corrected = s.corrected := rfl
@[simp] theorem State.setPart_uncorrected (s : State) (p : Nat) (x : Part) : (s.setPart p x).uncorrected = s.uncorrected := rfl
@[simp] theorem State.setPart_failedLanes (s : State) (p : Nat) (x : Part) : (s.setPart p x).failedLanes = s.failedLanes := rfl
@[simp] theorem State.setPart_sumSeq (s : State) (p : Nat) (x : Part) : (s.setPart p x).sumSeq = s.sumSeq := rfl

@[simp] theorem State.setHart_agenda (s : State) (n : Nat) (x : Hart) : (s.setHart n x).agenda = s.agenda := rfl
@[simp] theorem State.setHart_cur (s : State) (n : Nat) (x : Hart) : (s.setHart n x).cur = s.cur := rfl
@[simp] theorem State.setHart_now (s : State) (n : Nat) (x : Hart) : (s.setHart n x).now = s.now := rfl
@[simp] theorem State.setHart_free (s : State) (n : Nat) (x : Hart) : (s.setHart n x).free = s.free := rfl
@[simp] theorem State.setHart_serial (s : State) (n : Nat) (x : Hart) : (s.setHart n x).serial = s.serial := rfl
@[simp] theorem State.setHart_cycle (s : State) (n : Nat) (x : Hart) : (s.setHart n x).cycle = s.cycle := rfl
@[simp] theorem State.setHart_time (s : State) (n : Nat) (x : Hart) : (s.setHart n x).time = s.time := rfl
@[simp] theorem State.setHart_timeRem (s : State) (n : Nat) (x : Hart) : (s.setHart n x).timeRem = s.timeRem := rfl
@[simp] theorem State.setHart_freq (s : State) (n : Nat) (x : Hart) : (s.setHart n x).freq = s.freq := rfl
@[simp] theorem State.setHart_plim (s : State) (n : Nat) (x : Hart) : (s.setHart n x).plim = s.plim := rfl
@[simp] theorem State.setHart_bstat (s : State) (n : Nat) (x : Hart) : (s.setHart n x).bstat = s.bstat := rfl
@[simp] theorem State.setHart_bootStep (s : State) (n : Nat) (x : Hart) : (s.setHart n x).bootStep = s.bootStep := rfl
@[simp] theorem State.setHart_portCxl (s : State) (n : Nat) (x : Hart) : (s.setHart n x).portCxl = s.portCxl := rfl
@[simp] theorem State.setHart_mem (s : State) (n : Nat) (x : Hart) : (s.setHart n x).mem = s.mem := rfl
@[simp] theorem State.setHart_poison (s : State) (n : Nat) (x : Hart) : (s.setHart n x).poison = s.poison := rfl
@[simp] theorem State.setHart_dir (s : State) (n : Nat) (x : Hart) : (s.setHart n x).dir = s.dir := rfl
@[simp] theorem State.setHart_av (s : State) (n : Nat) (x : Hart) : (s.setHart n x).av = s.av := rfl
@[simp] theorem State.setHart_keys (s : State) (n : Nat) (x : Hart) : (s.setHart n x).keys = s.keys := rfl
@[simp] theorem State.setHart_gibs (s : State) (n : Nat) (x : Hart) : (s.setHart n x).gibs = s.gibs := rfl
@[simp] theorem State.setHart_lineKeys (s : State) (n : Nat) (x : Hart) : (s.setHart n x).lineKeys = s.lineKeys := rfl
@[simp] theorem State.setHart_asks (s : State) (n : Nat) (x : Hart) : (s.setHart n x).asks = s.asks := rfl
@[simp] theorem State.setHart_cells (s : State) (n : Nat) (x : Hart) : (s.setHart n x).cells = s.cells := rfl
@[simp] theorem State.setHart_l2tlbs (s : State) (n : Nat) (x : Hart) : (s.setHart n x).l2tlbs = s.l2tlbs := rfl
@[simp] theorem State.setHart_parts (s : State) (n : Nat) (x : Hart) : (s.setHart n x).parts = s.parts := rfl
@[simp] theorem State.setHart_futs (s : State) (n : Nat) (x : Hart) : (s.setHart n x).futs = s.futs := rfl
@[simp] theorem State.setHart_parks (s : State) (n : Nat) (x : Hart) : (s.setHart n x).parks = s.parks := rfl
@[simp] theorem State.setHart_flights (s : State) (n : Nat) (x : Hart) : (s.setHart n x).flights = s.flights := rfl
@[simp] theorem State.setHart_verdicts (s : State) (n : Nat) (x : Hart) : (s.setHart n x).verdicts = s.verdicts := rfl
@[simp] theorem State.setHart_tasks (s : State) (n : Nat) (x : Hart) : (s.setHart n x).tasks = s.tasks := rfl
@[simp] theorem State.setHart_transfers (s : State) (n : Nat) (x : Hart) : (s.setHart n x).transfers = s.transfers := rfl
@[simp] theorem State.setHart_launches (s : State) (n : Nat) (x : Hart) : (s.setHart n x).launches = s.launches := rfl
@[simp] theorem State.setHart_statuses (s : State) (n : Nat) (x : Hart) : (s.setHart n x).statuses = s.statuses := rfl
@[simp] theorem State.setHart_copies (s : State) (n : Nat) (x : Hart) : (s.setHart n x).copies = s.copies := rfl
@[simp] theorem State.setHart_landings (s : State) (n : Nat) (x : Hart) : (s.setHart n x).landings = s.landings := rfl
@[simp] theorem State.setHart_partials (s : State) (n : Nat) (x : Hart) : (s.setHart n x).partials = s.partials := rfl
@[simp] theorem State.setHart_hypFaults (s : State) (n : Nat) (x : Hart) : (s.setHart n x).hypFaults = s.hypFaults := rfl
@[simp] theorem State.setHart_hypEvents (s : State) (n : Nat) (x : Hart) : (s.setHart n x).hypEvents = s.hypEvents := rfl
@[simp] theorem State.setHart_filters (s : State) (n : Nat) (x : Hart) : (s.setHart n x).filters = s.filters := rfl
@[simp] theorem State.setHart_gwDrops (s : State) (n : Nat) (x : Hart) : (s.setHart n x).gwDrops = s.gwDrops := rfl
@[simp] theorem State.setHart_sets (s : State) (n : Nat) (x : Hart) : (s.setHart n x).sets = s.sets := rfl
@[simp] theorem State.setHart_tokens (s : State) (n : Nat) (x : Hart) : (s.setHart n x).tokens = s.tokens := rfl
@[simp] theorem State.setHart_scrubSeq (s : State) (n : Nat) (x : Hart) : (s.setHart n x).scrubSeq = s.scrubSeq := rfl
@[simp] theorem State.setHart_resvs (s : State) (n : Nat) (x : Hart) : (s.setHart n x).resvs = s.resvs := rfl
@[simp] theorem State.setHart_vfs (s : State) (n : Nat) (x : Hart) : (s.setHart n x).vfs = s.vfs := rfl
@[simp] theorem State.setHart_pfs (s : State) (n : Nat) (x : Hart) : (s.setHart n x).pfs = s.pfs := rfl
@[simp] theorem State.setHart_hostOut (s : State) (n : Nat) (x : Hart) : (s.setHart n x).hostOut = s.hostOut := rfl
@[simp] theorem State.setHart_lds (s : State) (n : Nat) (x : Hart) : (s.setHart n x).lds = s.lds := rfl
@[simp] theorem State.setHart_identity (s : State) (n : Nat) (x : Hart) : (s.setHart n x).identity = s.identity := rfl
@[simp] theorem State.setHart_ueSent (s : State) (n : Nat) (x : Hart) : (s.setHart n x).ueSent = s.ueSent := rfl
@[simp] theorem State.setHart_ueInbox (s : State) (n : Nat) (x : Hart) : (s.setHart n x).ueInbox = s.ueInbox := rfl
@[simp] theorem State.setHart_ueDropped (s : State) (n : Nat) (x : Hart) : (s.setHart n x).ueDropped = s.ueDropped := rfl
@[simp] theorem State.setHart_corrected (s : State) (n : Nat) (x : Hart) : (s.setHart n x).corrected = s.corrected := rfl
@[simp] theorem State.setHart_uncorrected (s : State) (n : Nat) (x : Hart) : (s.setHart n x).uncorrected = s.uncorrected := rfl
@[simp] theorem State.setHart_failedLanes (s : State) (n : Nat) (x : Hart) : (s.setHart n x).failedLanes = s.failedLanes := rfl
@[simp] theorem State.setHart_sumSeq (s : State) (n : Nat) (x : Hart) : (s.setHart n x).sumSeq = s.sumSeq := rfl

@[simp] theorem State.setDir_agenda (s : State) (l : Nat) (d : DirE) : (s.setDir l d).agenda = s.agenda := rfl
@[simp] theorem State.setDir_cur (s : State) (l : Nat) (d : DirE) : (s.setDir l d).cur = s.cur := rfl
@[simp] theorem State.setDir_now (s : State) (l : Nat) (d : DirE) : (s.setDir l d).now = s.now := rfl
@[simp] theorem State.setDir_free (s : State) (l : Nat) (d : DirE) : (s.setDir l d).free = s.free := rfl
@[simp] theorem State.setDir_serial (s : State) (l : Nat) (d : DirE) : (s.setDir l d).serial = s.serial := rfl
@[simp] theorem State.setDir_cycle (s : State) (l : Nat) (d : DirE) : (s.setDir l d).cycle = s.cycle := rfl
@[simp] theorem State.setDir_time (s : State) (l : Nat) (d : DirE) : (s.setDir l d).time = s.time := rfl
@[simp] theorem State.setDir_timeRem (s : State) (l : Nat) (d : DirE) : (s.setDir l d).timeRem = s.timeRem := rfl
@[simp] theorem State.setDir_freq (s : State) (l : Nat) (d : DirE) : (s.setDir l d).freq = s.freq := rfl
@[simp] theorem State.setDir_plim (s : State) (l : Nat) (d : DirE) : (s.setDir l d).plim = s.plim := rfl
@[simp] theorem State.setDir_bstat (s : State) (l : Nat) (d : DirE) : (s.setDir l d).bstat = s.bstat := rfl
@[simp] theorem State.setDir_bootStep (s : State) (l : Nat) (d : DirE) : (s.setDir l d).bootStep = s.bootStep := rfl
@[simp] theorem State.setDir_portCxl (s : State) (l : Nat) (d : DirE) : (s.setDir l d).portCxl = s.portCxl := rfl
@[simp] theorem State.setDir_mem (s : State) (l : Nat) (d : DirE) : (s.setDir l d).mem = s.mem := rfl
@[simp] theorem State.setDir_poison (s : State) (l : Nat) (d : DirE) : (s.setDir l d).poison = s.poison := rfl
@[simp] theorem State.setDir_av (s : State) (l : Nat) (d : DirE) : (s.setDir l d).av = s.av := rfl
@[simp] theorem State.setDir_keys (s : State) (l : Nat) (d : DirE) : (s.setDir l d).keys = s.keys := rfl
@[simp] theorem State.setDir_gibs (s : State) (l : Nat) (d : DirE) : (s.setDir l d).gibs = s.gibs := rfl
@[simp] theorem State.setDir_lineKeys (s : State) (l : Nat) (d : DirE) : (s.setDir l d).lineKeys = s.lineKeys := rfl
@[simp] theorem State.setDir_asks (s : State) (l : Nat) (d : DirE) : (s.setDir l d).asks = s.asks := rfl
@[simp] theorem State.setDir_cells (s : State) (l : Nat) (d : DirE) : (s.setDir l d).cells = s.cells := rfl
@[simp] theorem State.setDir_l2tlbs (s : State) (l : Nat) (d : DirE) : (s.setDir l d).l2tlbs = s.l2tlbs := rfl
@[simp] theorem State.setDir_parts (s : State) (l : Nat) (d : DirE) : (s.setDir l d).parts = s.parts := rfl
@[simp] theorem State.setDir_futs (s : State) (l : Nat) (d : DirE) : (s.setDir l d).futs = s.futs := rfl
@[simp] theorem State.setDir_parks (s : State) (l : Nat) (d : DirE) : (s.setDir l d).parks = s.parks := rfl
@[simp] theorem State.setDir_flights (s : State) (l : Nat) (d : DirE) : (s.setDir l d).flights = s.flights := rfl
@[simp] theorem State.setDir_verdicts (s : State) (l : Nat) (d : DirE) : (s.setDir l d).verdicts = s.verdicts := rfl
@[simp] theorem State.setDir_tasks (s : State) (l : Nat) (d : DirE) : (s.setDir l d).tasks = s.tasks := rfl
@[simp] theorem State.setDir_transfers (s : State) (l : Nat) (d : DirE) : (s.setDir l d).transfers = s.transfers := rfl
@[simp] theorem State.setDir_launches (s : State) (l : Nat) (d : DirE) : (s.setDir l d).launches = s.launches := rfl
@[simp] theorem State.setDir_statuses (s : State) (l : Nat) (d : DirE) : (s.setDir l d).statuses = s.statuses := rfl
@[simp] theorem State.setDir_copies (s : State) (l : Nat) (d : DirE) : (s.setDir l d).copies = s.copies := rfl
@[simp] theorem State.setDir_landings (s : State) (l : Nat) (d : DirE) : (s.setDir l d).landings = s.landings := rfl
@[simp] theorem State.setDir_partials (s : State) (l : Nat) (d : DirE) : (s.setDir l d).partials = s.partials := rfl
@[simp] theorem State.setDir_hypFaults (s : State) (l : Nat) (d : DirE) : (s.setDir l d).hypFaults = s.hypFaults := rfl
@[simp] theorem State.setDir_hypEvents (s : State) (l : Nat) (d : DirE) : (s.setDir l d).hypEvents = s.hypEvents := rfl
@[simp] theorem State.setDir_filters (s : State) (l : Nat) (d : DirE) : (s.setDir l d).filters = s.filters := rfl
@[simp] theorem State.setDir_gwDrops (s : State) (l : Nat) (d : DirE) : (s.setDir l d).gwDrops = s.gwDrops := rfl
@[simp] theorem State.setDir_sets (s : State) (l : Nat) (d : DirE) : (s.setDir l d).sets = s.sets := rfl
@[simp] theorem State.setDir_tokens (s : State) (l : Nat) (d : DirE) : (s.setDir l d).tokens = s.tokens := rfl
@[simp] theorem State.setDir_scrubSeq (s : State) (l : Nat) (d : DirE) : (s.setDir l d).scrubSeq = s.scrubSeq := rfl
@[simp] theorem State.setDir_harts (s : State) (l : Nat) (d : DirE) : (s.setDir l d).harts = s.harts := rfl
@[simp] theorem State.setDir_resvs (s : State) (l : Nat) (d : DirE) : (s.setDir l d).resvs = s.resvs := rfl
@[simp] theorem State.setDir_vfs (s : State) (l : Nat) (d : DirE) : (s.setDir l d).vfs = s.vfs := rfl
@[simp] theorem State.setDir_pfs (s : State) (l : Nat) (d : DirE) : (s.setDir l d).pfs = s.pfs := rfl
@[simp] theorem State.setDir_hostOut (s : State) (l : Nat) (d : DirE) : (s.setDir l d).hostOut = s.hostOut := rfl
@[simp] theorem State.setDir_lds (s : State) (l : Nat) (d : DirE) : (s.setDir l d).lds = s.lds := rfl
@[simp] theorem State.setDir_identity (s : State) (l : Nat) (d : DirE) : (s.setDir l d).identity = s.identity := rfl
@[simp] theorem State.setDir_ueSent (s : State) (l : Nat) (d : DirE) : (s.setDir l d).ueSent = s.ueSent := rfl
@[simp] theorem State.setDir_ueInbox (s : State) (l : Nat) (d : DirE) : (s.setDir l d).ueInbox = s.ueInbox := rfl
@[simp] theorem State.setDir_ueDropped (s : State) (l : Nat) (d : DirE) : (s.setDir l d).ueDropped = s.ueDropped := rfl
@[simp] theorem State.setDir_corrected (s : State) (l : Nat) (d : DirE) : (s.setDir l d).corrected = s.corrected := rfl
@[simp] theorem State.setDir_uncorrected (s : State) (l : Nat) (d : DirE) : (s.setDir l d).uncorrected = s.uncorrected := rfl
@[simp] theorem State.setDir_failedLanes (s : State) (l : Nat) (d : DirE) : (s.setDir l d).failedLanes = s.failedLanes := rfl
@[simp] theorem State.setDir_sumSeq (s : State) (l : Nat) (d : DirE) : (s.setDir l d).sumSeq = s.sumSeq := rfl

@[simp] theorem State.memPut_agenda (s : State) (ws : List (Nat × Byte)) : (s.memPut ws).agenda = s.agenda := (congrArg State.agenda (s.memPut_eq ws)).trans rfl
@[simp] theorem State.memPut_cur (s : State) (ws : List (Nat × Byte)) : (s.memPut ws).cur = s.cur := (congrArg State.cur (s.memPut_eq ws)).trans rfl
@[simp] theorem State.memPut_now (s : State) (ws : List (Nat × Byte)) : (s.memPut ws).now = s.now := (congrArg State.now (s.memPut_eq ws)).trans rfl
@[simp] theorem State.memPut_free (s : State) (ws : List (Nat × Byte)) : (s.memPut ws).free = s.free := (congrArg State.free (s.memPut_eq ws)).trans rfl
@[simp] theorem State.memPut_serial (s : State) (ws : List (Nat × Byte)) : (s.memPut ws).serial = s.serial := (congrArg State.serial (s.memPut_eq ws)).trans rfl
@[simp] theorem State.memPut_cycle (s : State) (ws : List (Nat × Byte)) : (s.memPut ws).cycle = s.cycle := (congrArg State.cycle (s.memPut_eq ws)).trans rfl
@[simp] theorem State.memPut_time (s : State) (ws : List (Nat × Byte)) : (s.memPut ws).time = s.time := (congrArg State.time (s.memPut_eq ws)).trans rfl
@[simp] theorem State.memPut_timeRem (s : State) (ws : List (Nat × Byte)) : (s.memPut ws).timeRem = s.timeRem := (congrArg State.timeRem (s.memPut_eq ws)).trans rfl
@[simp] theorem State.memPut_freq (s : State) (ws : List (Nat × Byte)) : (s.memPut ws).freq = s.freq := (congrArg State.freq (s.memPut_eq ws)).trans rfl
@[simp] theorem State.memPut_plim (s : State) (ws : List (Nat × Byte)) : (s.memPut ws).plim = s.plim := (congrArg State.plim (s.memPut_eq ws)).trans rfl
@[simp] theorem State.memPut_bstat (s : State) (ws : List (Nat × Byte)) : (s.memPut ws).bstat = s.bstat := (congrArg State.bstat (s.memPut_eq ws)).trans rfl
@[simp] theorem State.memPut_bootStep (s : State) (ws : List (Nat × Byte)) : (s.memPut ws).bootStep = s.bootStep := (congrArg State.bootStep (s.memPut_eq ws)).trans rfl
@[simp] theorem State.memPut_portCxl (s : State) (ws : List (Nat × Byte)) : (s.memPut ws).portCxl = s.portCxl := (congrArg State.portCxl (s.memPut_eq ws)).trans rfl
@[simp] theorem State.memPut_poison (s : State) (ws : List (Nat × Byte)) : (s.memPut ws).poison = s.poison := (congrArg State.poison (s.memPut_eq ws)).trans rfl
@[simp] theorem State.memPut_dir (s : State) (ws : List (Nat × Byte)) : (s.memPut ws).dir = s.dir := (congrArg State.dir (s.memPut_eq ws)).trans rfl
@[simp] theorem State.memPut_av (s : State) (ws : List (Nat × Byte)) : (s.memPut ws).av = s.av := (congrArg State.av (s.memPut_eq ws)).trans rfl
@[simp] theorem State.memPut_keys (s : State) (ws : List (Nat × Byte)) : (s.memPut ws).keys = s.keys := (congrArg State.keys (s.memPut_eq ws)).trans rfl
@[simp] theorem State.memPut_gibs (s : State) (ws : List (Nat × Byte)) : (s.memPut ws).gibs = s.gibs := (congrArg State.gibs (s.memPut_eq ws)).trans rfl
@[simp] theorem State.memPut_asks (s : State) (ws : List (Nat × Byte)) : (s.memPut ws).asks = s.asks := (congrArg State.asks (s.memPut_eq ws)).trans rfl
@[simp] theorem State.memPut_cells (s : State) (ws : List (Nat × Byte)) : (s.memPut ws).cells = s.cells := (congrArg State.cells (s.memPut_eq ws)).trans rfl
@[simp] theorem State.memPut_l2tlbs (s : State) (ws : List (Nat × Byte)) : (s.memPut ws).l2tlbs = s.l2tlbs := (congrArg State.l2tlbs (s.memPut_eq ws)).trans rfl
@[simp] theorem State.memPut_parts (s : State) (ws : List (Nat × Byte)) : (s.memPut ws).parts = s.parts := (congrArg State.parts (s.memPut_eq ws)).trans rfl
@[simp] theorem State.memPut_futs (s : State) (ws : List (Nat × Byte)) : (s.memPut ws).futs = s.futs := (congrArg State.futs (s.memPut_eq ws)).trans rfl
@[simp] theorem State.memPut_parks (s : State) (ws : List (Nat × Byte)) : (s.memPut ws).parks = s.parks := (congrArg State.parks (s.memPut_eq ws)).trans rfl
@[simp] theorem State.memPut_flights (s : State) (ws : List (Nat × Byte)) : (s.memPut ws).flights = s.flights := (congrArg State.flights (s.memPut_eq ws)).trans rfl
@[simp] theorem State.memPut_verdicts (s : State) (ws : List (Nat × Byte)) : (s.memPut ws).verdicts = s.verdicts := (congrArg State.verdicts (s.memPut_eq ws)).trans rfl
@[simp] theorem State.memPut_tasks (s : State) (ws : List (Nat × Byte)) : (s.memPut ws).tasks = s.tasks := (congrArg State.tasks (s.memPut_eq ws)).trans rfl
@[simp] theorem State.memPut_transfers (s : State) (ws : List (Nat × Byte)) : (s.memPut ws).transfers = s.transfers := (congrArg State.transfers (s.memPut_eq ws)).trans rfl
@[simp] theorem State.memPut_launches (s : State) (ws : List (Nat × Byte)) : (s.memPut ws).launches = s.launches := (congrArg State.launches (s.memPut_eq ws)).trans rfl
@[simp] theorem State.memPut_statuses (s : State) (ws : List (Nat × Byte)) : (s.memPut ws).statuses = s.statuses := (congrArg State.statuses (s.memPut_eq ws)).trans rfl
@[simp] theorem State.memPut_copies (s : State) (ws : List (Nat × Byte)) : (s.memPut ws).copies = s.copies := (congrArg State.copies (s.memPut_eq ws)).trans rfl
@[simp] theorem State.memPut_landings (s : State) (ws : List (Nat × Byte)) : (s.memPut ws).landings = s.landings := (congrArg State.landings (s.memPut_eq ws)).trans rfl
@[simp] theorem State.memPut_partials (s : State) (ws : List (Nat × Byte)) : (s.memPut ws).partials = s.partials := (congrArg State.partials (s.memPut_eq ws)).trans rfl
@[simp] theorem State.memPut_hypFaults (s : State) (ws : List (Nat × Byte)) : (s.memPut ws).hypFaults = s.hypFaults := (congrArg State.hypFaults (s.memPut_eq ws)).trans rfl
@[simp] theorem State.memPut_hypEvents (s : State) (ws : List (Nat × Byte)) : (s.memPut ws).hypEvents = s.hypEvents := (congrArg State.hypEvents (s.memPut_eq ws)).trans rfl
@[simp] theorem State.memPut_filters (s : State) (ws : List (Nat × Byte)) : (s.memPut ws).filters = s.filters := (congrArg State.filters (s.memPut_eq ws)).trans rfl
@[simp] theorem State.memPut_gwDrops (s : State) (ws : List (Nat × Byte)) : (s.memPut ws).gwDrops = s.gwDrops := (congrArg State.gwDrops (s.memPut_eq ws)).trans rfl
@[simp] theorem State.memPut_sets (s : State) (ws : List (Nat × Byte)) : (s.memPut ws).sets = s.sets := (congrArg State.sets (s.memPut_eq ws)).trans rfl
@[simp] theorem State.memPut_tokens (s : State) (ws : List (Nat × Byte)) : (s.memPut ws).tokens = s.tokens := (congrArg State.tokens (s.memPut_eq ws)).trans rfl
@[simp] theorem State.memPut_scrubSeq (s : State) (ws : List (Nat × Byte)) : (s.memPut ws).scrubSeq = s.scrubSeq := (congrArg State.scrubSeq (s.memPut_eq ws)).trans rfl
@[simp] theorem State.memPut_harts (s : State) (ws : List (Nat × Byte)) : (s.memPut ws).harts = s.harts := (congrArg State.harts (s.memPut_eq ws)).trans rfl
@[simp] theorem State.memPut_resvs (s : State) (ws : List (Nat × Byte)) : (s.memPut ws).resvs = s.resvs := (congrArg State.resvs (s.memPut_eq ws)).trans rfl
@[simp] theorem State.memPut_vfs (s : State) (ws : List (Nat × Byte)) : (s.memPut ws).vfs = s.vfs := (congrArg State.vfs (s.memPut_eq ws)).trans rfl
@[simp] theorem State.memPut_pfs (s : State) (ws : List (Nat × Byte)) : (s.memPut ws).pfs = s.pfs := (congrArg State.pfs (s.memPut_eq ws)).trans rfl
@[simp] theorem State.memPut_hostOut (s : State) (ws : List (Nat × Byte)) : (s.memPut ws).hostOut = s.hostOut := (congrArg State.hostOut (s.memPut_eq ws)).trans rfl
@[simp] theorem State.memPut_lds (s : State) (ws : List (Nat × Byte)) : (s.memPut ws).lds = s.lds := (congrArg State.lds (s.memPut_eq ws)).trans rfl
@[simp] theorem State.memPut_identity (s : State) (ws : List (Nat × Byte)) : (s.memPut ws).identity = s.identity := (congrArg State.identity (s.memPut_eq ws)).trans rfl
@[simp] theorem State.memPut_ueSent (s : State) (ws : List (Nat × Byte)) : (s.memPut ws).ueSent = s.ueSent := (congrArg State.ueSent (s.memPut_eq ws)).trans rfl
@[simp] theorem State.memPut_ueInbox (s : State) (ws : List (Nat × Byte)) : (s.memPut ws).ueInbox = s.ueInbox := (congrArg State.ueInbox (s.memPut_eq ws)).trans rfl
@[simp] theorem State.memPut_ueDropped (s : State) (ws : List (Nat × Byte)) : (s.memPut ws).ueDropped = s.ueDropped := (congrArg State.ueDropped (s.memPut_eq ws)).trans rfl
@[simp] theorem State.memPut_corrected (s : State) (ws : List (Nat × Byte)) : (s.memPut ws).corrected = s.corrected := (congrArg State.corrected (s.memPut_eq ws)).trans rfl
@[simp] theorem State.memPut_uncorrected (s : State) (ws : List (Nat × Byte)) : (s.memPut ws).uncorrected = s.uncorrected := (congrArg State.uncorrected (s.memPut_eq ws)).trans rfl
@[simp] theorem State.memPut_failedLanes (s : State) (ws : List (Nat × Byte)) : (s.memPut ws).failedLanes = s.failedLanes := (congrArg State.failedLanes (s.memPut_eq ws)).trans rfl
@[simp] theorem State.memPut_sumSeq (s : State) (ws : List (Nat × Byte)) : (s.memPut ws).sumSeq = s.sumSeq := (congrArg State.sumSeq (s.memPut_eq ws)).trans rfl

@[simp] theorem State.markPoison_agenda (s : State) (l : Nat) : (s.markPoison l).agenda = s.agenda := rfl
@[simp] theorem State.markPoison_cur (s : State) (l : Nat) : (s.markPoison l).cur = s.cur := rfl
@[simp] theorem State.markPoison_now (s : State) (l : Nat) : (s.markPoison l).now = s.now := rfl
@[simp] theorem State.markPoison_free (s : State) (l : Nat) : (s.markPoison l).free = s.free := rfl
@[simp] theorem State.markPoison_serial (s : State) (l : Nat) : (s.markPoison l).serial = s.serial := rfl
@[simp] theorem State.markPoison_cycle (s : State) (l : Nat) : (s.markPoison l).cycle = s.cycle := rfl
@[simp] theorem State.markPoison_time (s : State) (l : Nat) : (s.markPoison l).time = s.time := rfl
@[simp] theorem State.markPoison_timeRem (s : State) (l : Nat) : (s.markPoison l).timeRem = s.timeRem := rfl
@[simp] theorem State.markPoison_freq (s : State) (l : Nat) : (s.markPoison l).freq = s.freq := rfl
@[simp] theorem State.markPoison_plim (s : State) (l : Nat) : (s.markPoison l).plim = s.plim := rfl
@[simp] theorem State.markPoison_bstat (s : State) (l : Nat) : (s.markPoison l).bstat = s.bstat := rfl
@[simp] theorem State.markPoison_bootStep (s : State) (l : Nat) : (s.markPoison l).bootStep = s.bootStep := rfl
@[simp] theorem State.markPoison_portCxl (s : State) (l : Nat) : (s.markPoison l).portCxl = s.portCxl := rfl
@[simp] theorem State.markPoison_mem (s : State) (l : Nat) : (s.markPoison l).mem = s.mem := rfl
@[simp] theorem State.markPoison_dir (s : State) (l : Nat) : (s.markPoison l).dir = s.dir := rfl
@[simp] theorem State.markPoison_av (s : State) (l : Nat) : (s.markPoison l).av = s.av := rfl
@[simp] theorem State.markPoison_keys (s : State) (l : Nat) : (s.markPoison l).keys = s.keys := rfl
@[simp] theorem State.markPoison_gibs (s : State) (l : Nat) : (s.markPoison l).gibs = s.gibs := rfl
@[simp] theorem State.markPoison_lineKeys (s : State) (l : Nat) : (s.markPoison l).lineKeys = s.lineKeys := rfl
@[simp] theorem State.markPoison_asks (s : State) (l : Nat) : (s.markPoison l).asks = s.asks := rfl
@[simp] theorem State.markPoison_cells (s : State) (l : Nat) : (s.markPoison l).cells = s.cells := rfl
@[simp] theorem State.markPoison_l2tlbs (s : State) (l : Nat) : (s.markPoison l).l2tlbs = s.l2tlbs := rfl
@[simp] theorem State.markPoison_parts (s : State) (l : Nat) : (s.markPoison l).parts = s.parts := rfl
@[simp] theorem State.markPoison_futs (s : State) (l : Nat) : (s.markPoison l).futs = s.futs := rfl
@[simp] theorem State.markPoison_parks (s : State) (l : Nat) : (s.markPoison l).parks = s.parks := rfl
@[simp] theorem State.markPoison_flights (s : State) (l : Nat) : (s.markPoison l).flights = s.flights := rfl
@[simp] theorem State.markPoison_verdicts (s : State) (l : Nat) : (s.markPoison l).verdicts = s.verdicts := rfl
@[simp] theorem State.markPoison_tasks (s : State) (l : Nat) : (s.markPoison l).tasks = s.tasks := rfl
@[simp] theorem State.markPoison_transfers (s : State) (l : Nat) : (s.markPoison l).transfers = s.transfers := rfl
@[simp] theorem State.markPoison_launches (s : State) (l : Nat) : (s.markPoison l).launches = s.launches := rfl
@[simp] theorem State.markPoison_statuses (s : State) (l : Nat) : (s.markPoison l).statuses = s.statuses := rfl
@[simp] theorem State.markPoison_copies (s : State) (l : Nat) : (s.markPoison l).copies = s.copies := rfl
@[simp] theorem State.markPoison_landings (s : State) (l : Nat) : (s.markPoison l).landings = s.landings := rfl
@[simp] theorem State.markPoison_partials (s : State) (l : Nat) : (s.markPoison l).partials = s.partials := rfl
@[simp] theorem State.markPoison_hypFaults (s : State) (l : Nat) : (s.markPoison l).hypFaults = s.hypFaults := rfl
@[simp] theorem State.markPoison_hypEvents (s : State) (l : Nat) : (s.markPoison l).hypEvents = s.hypEvents := rfl
@[simp] theorem State.markPoison_filters (s : State) (l : Nat) : (s.markPoison l).filters = s.filters := rfl
@[simp] theorem State.markPoison_gwDrops (s : State) (l : Nat) : (s.markPoison l).gwDrops = s.gwDrops := rfl
@[simp] theorem State.markPoison_sets (s : State) (l : Nat) : (s.markPoison l).sets = s.sets := rfl
@[simp] theorem State.markPoison_tokens (s : State) (l : Nat) : (s.markPoison l).tokens = s.tokens := rfl
@[simp] theorem State.markPoison_scrubSeq (s : State) (l : Nat) : (s.markPoison l).scrubSeq = s.scrubSeq := rfl
@[simp] theorem State.markPoison_harts (s : State) (l : Nat) : (s.markPoison l).harts = s.harts := rfl
@[simp] theorem State.markPoison_resvs (s : State) (l : Nat) : (s.markPoison l).resvs = s.resvs := rfl
@[simp] theorem State.markPoison_vfs (s : State) (l : Nat) : (s.markPoison l).vfs = s.vfs := rfl
@[simp] theorem State.markPoison_pfs (s : State) (l : Nat) : (s.markPoison l).pfs = s.pfs := rfl
@[simp] theorem State.markPoison_hostOut (s : State) (l : Nat) : (s.markPoison l).hostOut = s.hostOut := rfl
@[simp] theorem State.markPoison_lds (s : State) (l : Nat) : (s.markPoison l).lds = s.lds := rfl
@[simp] theorem State.markPoison_identity (s : State) (l : Nat) : (s.markPoison l).identity = s.identity := rfl
@[simp] theorem State.markPoison_ueSent (s : State) (l : Nat) : (s.markPoison l).ueSent = s.ueSent := rfl
@[simp] theorem State.markPoison_ueInbox (s : State) (l : Nat) : (s.markPoison l).ueInbox = s.ueInbox := rfl
@[simp] theorem State.markPoison_ueDropped (s : State) (l : Nat) : (s.markPoison l).ueDropped = s.ueDropped := rfl
@[simp] theorem State.markPoison_corrected (s : State) (l : Nat) : (s.markPoison l).corrected = s.corrected := rfl
@[simp] theorem State.markPoison_uncorrected (s : State) (l : Nat) : (s.markPoison l).uncorrected = s.uncorrected := rfl
@[simp] theorem State.markPoison_failedLanes (s : State) (l : Nat) : (s.markPoison l).failedLanes = s.failedLanes := rfl
@[simp] theorem State.markPoison_sumSeq (s : State) (l : Nat) : (s.markPoison l).sumSeq = s.sumSeq := rfl

@[simp] theorem State.bump_agenda (s : State) : (s.bump).agenda = s.agenda := rfl
@[simp] theorem State.bump_cur (s : State) : (s.bump).cur = s.cur := rfl
@[simp] theorem State.bump_now (s : State) : (s.bump).now = s.now := rfl
@[simp] theorem State.bump_free (s : State) : (s.bump).free = s.free := rfl
@[simp] theorem State.bump_cycle (s : State) : (s.bump).cycle = s.cycle := rfl
@[simp] theorem State.bump_time (s : State) : (s.bump).time = s.time := rfl
@[simp] theorem State.bump_timeRem (s : State) : (s.bump).timeRem = s.timeRem := rfl
@[simp] theorem State.bump_freq (s : State) : (s.bump).freq = s.freq := rfl
@[simp] theorem State.bump_plim (s : State) : (s.bump).plim = s.plim := rfl
@[simp] theorem State.bump_bstat (s : State) : (s.bump).bstat = s.bstat := rfl
@[simp] theorem State.bump_bootStep (s : State) : (s.bump).bootStep = s.bootStep := rfl
@[simp] theorem State.bump_portCxl (s : State) : (s.bump).portCxl = s.portCxl := rfl
@[simp] theorem State.bump_mem (s : State) : (s.bump).mem = s.mem := rfl
@[simp] theorem State.bump_poison (s : State) : (s.bump).poison = s.poison := rfl
@[simp] theorem State.bump_dir (s : State) : (s.bump).dir = s.dir := rfl
@[simp] theorem State.bump_av (s : State) : (s.bump).av = s.av := rfl
@[simp] theorem State.bump_keys (s : State) : (s.bump).keys = s.keys := rfl
@[simp] theorem State.bump_gibs (s : State) : (s.bump).gibs = s.gibs := rfl
@[simp] theorem State.bump_lineKeys (s : State) : (s.bump).lineKeys = s.lineKeys := rfl
@[simp] theorem State.bump_asks (s : State) : (s.bump).asks = s.asks := rfl
@[simp] theorem State.bump_cells (s : State) : (s.bump).cells = s.cells := rfl
@[simp] theorem State.bump_l2tlbs (s : State) : (s.bump).l2tlbs = s.l2tlbs := rfl
@[simp] theorem State.bump_parts (s : State) : (s.bump).parts = s.parts := rfl
@[simp] theorem State.bump_futs (s : State) : (s.bump).futs = s.futs := rfl
@[simp] theorem State.bump_parks (s : State) : (s.bump).parks = s.parks := rfl
@[simp] theorem State.bump_flights (s : State) : (s.bump).flights = s.flights := rfl
@[simp] theorem State.bump_verdicts (s : State) : (s.bump).verdicts = s.verdicts := rfl
@[simp] theorem State.bump_tasks (s : State) : (s.bump).tasks = s.tasks := rfl
@[simp] theorem State.bump_transfers (s : State) : (s.bump).transfers = s.transfers := rfl
@[simp] theorem State.bump_launches (s : State) : (s.bump).launches = s.launches := rfl
@[simp] theorem State.bump_statuses (s : State) : (s.bump).statuses = s.statuses := rfl
@[simp] theorem State.bump_copies (s : State) : (s.bump).copies = s.copies := rfl
@[simp] theorem State.bump_landings (s : State) : (s.bump).landings = s.landings := rfl
@[simp] theorem State.bump_partials (s : State) : (s.bump).partials = s.partials := rfl
@[simp] theorem State.bump_hypFaults (s : State) : (s.bump).hypFaults = s.hypFaults := rfl
@[simp] theorem State.bump_hypEvents (s : State) : (s.bump).hypEvents = s.hypEvents := rfl
@[simp] theorem State.bump_filters (s : State) : (s.bump).filters = s.filters := rfl
@[simp] theorem State.bump_gwDrops (s : State) : (s.bump).gwDrops = s.gwDrops := rfl
@[simp] theorem State.bump_sets (s : State) : (s.bump).sets = s.sets := rfl
@[simp] theorem State.bump_tokens (s : State) : (s.bump).tokens = s.tokens := rfl
@[simp] theorem State.bump_scrubSeq (s : State) : (s.bump).scrubSeq = s.scrubSeq := rfl
@[simp] theorem State.bump_harts (s : State) : (s.bump).harts = s.harts := rfl
@[simp] theorem State.bump_resvs (s : State) : (s.bump).resvs = s.resvs := rfl
@[simp] theorem State.bump_vfs (s : State) : (s.bump).vfs = s.vfs := rfl
@[simp] theorem State.bump_pfs (s : State) : (s.bump).pfs = s.pfs := rfl
@[simp] theorem State.bump_hostOut (s : State) : (s.bump).hostOut = s.hostOut := rfl
@[simp] theorem State.bump_lds (s : State) : (s.bump).lds = s.lds := rfl
@[simp] theorem State.bump_identity (s : State) : (s.bump).identity = s.identity := rfl
@[simp] theorem State.bump_ueSent (s : State) : (s.bump).ueSent = s.ueSent := rfl
@[simp] theorem State.bump_ueInbox (s : State) : (s.bump).ueInbox = s.ueInbox := rfl
@[simp] theorem State.bump_ueDropped (s : State) : (s.bump).ueDropped = s.ueDropped := rfl
@[simp] theorem State.bump_corrected (s : State) : (s.bump).corrected = s.corrected := rfl
@[simp] theorem State.bump_uncorrected (s : State) : (s.bump).uncorrected = s.uncorrected := rfl
@[simp] theorem State.bump_failedLanes (s : State) : (s.bump).failedLanes = s.failedLanes := rfl
@[simp] theorem State.bump_sumSeq (s : State) : (s.bump).sumSeq = s.sumSeq := rfl

@[simp] theorem State.took_agenda (s : State) : (s.took).agenda = s.agenda := rfl
@[simp] theorem State.took_cur (s : State) : (s.took).cur = s.cur := rfl
@[simp] theorem State.took_now (s : State) : (s.took).now = s.now := rfl
@[simp] theorem State.took_serial (s : State) : (s.took).serial = s.serial := rfl
@[simp] theorem State.took_cycle (s : State) : (s.took).cycle = s.cycle := rfl
@[simp] theorem State.took_time (s : State) : (s.took).time = s.time := rfl
@[simp] theorem State.took_timeRem (s : State) : (s.took).timeRem = s.timeRem := rfl
@[simp] theorem State.took_freq (s : State) : (s.took).freq = s.freq := rfl
@[simp] theorem State.took_plim (s : State) : (s.took).plim = s.plim := rfl
@[simp] theorem State.took_bstat (s : State) : (s.took).bstat = s.bstat := rfl
@[simp] theorem State.took_bootStep (s : State) : (s.took).bootStep = s.bootStep := rfl
@[simp] theorem State.took_portCxl (s : State) : (s.took).portCxl = s.portCxl := rfl
@[simp] theorem State.took_mem (s : State) : (s.took).mem = s.mem := rfl
@[simp] theorem State.took_poison (s : State) : (s.took).poison = s.poison := rfl
@[simp] theorem State.took_dir (s : State) : (s.took).dir = s.dir := rfl
@[simp] theorem State.took_av (s : State) : (s.took).av = s.av := rfl
@[simp] theorem State.took_keys (s : State) : (s.took).keys = s.keys := rfl
@[simp] theorem State.took_gibs (s : State) : (s.took).gibs = s.gibs := rfl
@[simp] theorem State.took_lineKeys (s : State) : (s.took).lineKeys = s.lineKeys := rfl
@[simp] theorem State.took_asks (s : State) : (s.took).asks = s.asks := rfl
@[simp] theorem State.took_cells (s : State) : (s.took).cells = s.cells := rfl
@[simp] theorem State.took_l2tlbs (s : State) : (s.took).l2tlbs = s.l2tlbs := rfl
@[simp] theorem State.took_parts (s : State) : (s.took).parts = s.parts := rfl
@[simp] theorem State.took_futs (s : State) : (s.took).futs = s.futs := rfl
@[simp] theorem State.took_parks (s : State) : (s.took).parks = s.parks := rfl
@[simp] theorem State.took_flights (s : State) : (s.took).flights = s.flights := rfl
@[simp] theorem State.took_verdicts (s : State) : (s.took).verdicts = s.verdicts := rfl
@[simp] theorem State.took_tasks (s : State) : (s.took).tasks = s.tasks := rfl
@[simp] theorem State.took_transfers (s : State) : (s.took).transfers = s.transfers := rfl
@[simp] theorem State.took_launches (s : State) : (s.took).launches = s.launches := rfl
@[simp] theorem State.took_statuses (s : State) : (s.took).statuses = s.statuses := rfl
@[simp] theorem State.took_copies (s : State) : (s.took).copies = s.copies := rfl
@[simp] theorem State.took_landings (s : State) : (s.took).landings = s.landings := rfl
@[simp] theorem State.took_partials (s : State) : (s.took).partials = s.partials := rfl
@[simp] theorem State.took_hypFaults (s : State) : (s.took).hypFaults = s.hypFaults := rfl
@[simp] theorem State.took_hypEvents (s : State) : (s.took).hypEvents = s.hypEvents := rfl
@[simp] theorem State.took_filters (s : State) : (s.took).filters = s.filters := rfl
@[simp] theorem State.took_gwDrops (s : State) : (s.took).gwDrops = s.gwDrops := rfl
@[simp] theorem State.took_sets (s : State) : (s.took).sets = s.sets := rfl
@[simp] theorem State.took_tokens (s : State) : (s.took).tokens = s.tokens := rfl
@[simp] theorem State.took_scrubSeq (s : State) : (s.took).scrubSeq = s.scrubSeq := rfl
@[simp] theorem State.took_harts (s : State) : (s.took).harts = s.harts := rfl
@[simp] theorem State.took_resvs (s : State) : (s.took).resvs = s.resvs := rfl
@[simp] theorem State.took_vfs (s : State) : (s.took).vfs = s.vfs := rfl
@[simp] theorem State.took_pfs (s : State) : (s.took).pfs = s.pfs := rfl
@[simp] theorem State.took_hostOut (s : State) : (s.took).hostOut = s.hostOut := rfl
@[simp] theorem State.took_lds (s : State) : (s.took).lds = s.lds := rfl
@[simp] theorem State.took_identity (s : State) : (s.took).identity = s.identity := rfl
@[simp] theorem State.took_ueSent (s : State) : (s.took).ueSent = s.ueSent := rfl
@[simp] theorem State.took_ueInbox (s : State) : (s.took).ueInbox = s.ueInbox := rfl
@[simp] theorem State.took_ueDropped (s : State) : (s.took).ueDropped = s.ueDropped := rfl
@[simp] theorem State.took_corrected (s : State) : (s.took).corrected = s.corrected := rfl
@[simp] theorem State.took_uncorrected (s : State) : (s.took).uncorrected = s.uncorrected := rfl
@[simp] theorem State.took_failedLanes (s : State) : (s.took).failedLanes = s.failedLanes := rfl
@[simp] theorem State.took_sumSeq (s : State) : (s.took).sumSeq = s.sumSeq := rfl

@[simp] theorem State.tookMany_agenda (s : State) (n : Nat) : (s.tookMany n).agenda = s.agenda := rfl
@[simp] theorem State.tookMany_cur (s : State) (n : Nat) : (s.tookMany n).cur = s.cur := rfl
@[simp] theorem State.tookMany_now (s : State) (n : Nat) : (s.tookMany n).now = s.now := rfl
@[simp] theorem State.tookMany_serial (s : State) (n : Nat) : (s.tookMany n).serial = s.serial := rfl
@[simp] theorem State.tookMany_cycle (s : State) (n : Nat) : (s.tookMany n).cycle = s.cycle := rfl
@[simp] theorem State.tookMany_time (s : State) (n : Nat) : (s.tookMany n).time = s.time := rfl
@[simp] theorem State.tookMany_timeRem (s : State) (n : Nat) : (s.tookMany n).timeRem = s.timeRem := rfl
@[simp] theorem State.tookMany_freq (s : State) (n : Nat) : (s.tookMany n).freq = s.freq := rfl
@[simp] theorem State.tookMany_plim (s : State) (n : Nat) : (s.tookMany n).plim = s.plim := rfl
@[simp] theorem State.tookMany_bstat (s : State) (n : Nat) : (s.tookMany n).bstat = s.bstat := rfl
@[simp] theorem State.tookMany_bootStep (s : State) (n : Nat) : (s.tookMany n).bootStep = s.bootStep := rfl
@[simp] theorem State.tookMany_portCxl (s : State) (n : Nat) : (s.tookMany n).portCxl = s.portCxl := rfl
@[simp] theorem State.tookMany_mem (s : State) (n : Nat) : (s.tookMany n).mem = s.mem := rfl
@[simp] theorem State.tookMany_poison (s : State) (n : Nat) : (s.tookMany n).poison = s.poison := rfl
@[simp] theorem State.tookMany_dir (s : State) (n : Nat) : (s.tookMany n).dir = s.dir := rfl
@[simp] theorem State.tookMany_av (s : State) (n : Nat) : (s.tookMany n).av = s.av := rfl
@[simp] theorem State.tookMany_keys (s : State) (n : Nat) : (s.tookMany n).keys = s.keys := rfl
@[simp] theorem State.tookMany_gibs (s : State) (n : Nat) : (s.tookMany n).gibs = s.gibs := rfl
@[simp] theorem State.tookMany_lineKeys (s : State) (n : Nat) : (s.tookMany n).lineKeys = s.lineKeys := rfl
@[simp] theorem State.tookMany_asks (s : State) (n : Nat) : (s.tookMany n).asks = s.asks := rfl
@[simp] theorem State.tookMany_cells (s : State) (n : Nat) : (s.tookMany n).cells = s.cells := rfl
@[simp] theorem State.tookMany_l2tlbs (s : State) (n : Nat) : (s.tookMany n).l2tlbs = s.l2tlbs := rfl
@[simp] theorem State.tookMany_parts (s : State) (n : Nat) : (s.tookMany n).parts = s.parts := rfl
@[simp] theorem State.tookMany_futs (s : State) (n : Nat) : (s.tookMany n).futs = s.futs := rfl
@[simp] theorem State.tookMany_parks (s : State) (n : Nat) : (s.tookMany n).parks = s.parks := rfl
@[simp] theorem State.tookMany_flights (s : State) (n : Nat) : (s.tookMany n).flights = s.flights := rfl
@[simp] theorem State.tookMany_verdicts (s : State) (n : Nat) : (s.tookMany n).verdicts = s.verdicts := rfl
@[simp] theorem State.tookMany_tasks (s : State) (n : Nat) : (s.tookMany n).tasks = s.tasks := rfl
@[simp] theorem State.tookMany_transfers (s : State) (n : Nat) : (s.tookMany n).transfers = s.transfers := rfl
@[simp] theorem State.tookMany_launches (s : State) (n : Nat) : (s.tookMany n).launches = s.launches := rfl
@[simp] theorem State.tookMany_statuses (s : State) (n : Nat) : (s.tookMany n).statuses = s.statuses := rfl
@[simp] theorem State.tookMany_copies (s : State) (n : Nat) : (s.tookMany n).copies = s.copies := rfl
@[simp] theorem State.tookMany_landings (s : State) (n : Nat) : (s.tookMany n).landings = s.landings := rfl
@[simp] theorem State.tookMany_partials (s : State) (n : Nat) : (s.tookMany n).partials = s.partials := rfl
@[simp] theorem State.tookMany_hypFaults (s : State) (n : Nat) : (s.tookMany n).hypFaults = s.hypFaults := rfl
@[simp] theorem State.tookMany_hypEvents (s : State) (n : Nat) : (s.tookMany n).hypEvents = s.hypEvents := rfl
@[simp] theorem State.tookMany_filters (s : State) (n : Nat) : (s.tookMany n).filters = s.filters := rfl
@[simp] theorem State.tookMany_gwDrops (s : State) (n : Nat) : (s.tookMany n).gwDrops = s.gwDrops := rfl
@[simp] theorem State.tookMany_sets (s : State) (n : Nat) : (s.tookMany n).sets = s.sets := rfl
@[simp] theorem State.tookMany_tokens (s : State) (n : Nat) : (s.tookMany n).tokens = s.tokens := rfl
@[simp] theorem State.tookMany_scrubSeq (s : State) (n : Nat) : (s.tookMany n).scrubSeq = s.scrubSeq := rfl
@[simp] theorem State.tookMany_harts (s : State) (n : Nat) : (s.tookMany n).harts = s.harts := rfl
@[simp] theorem State.tookMany_resvs (s : State) (n : Nat) : (s.tookMany n).resvs = s.resvs := rfl
@[simp] theorem State.tookMany_vfs (s : State) (n : Nat) : (s.tookMany n).vfs = s.vfs := rfl
@[simp] theorem State.tookMany_pfs (s : State) (n : Nat) : (s.tookMany n).pfs = s.pfs := rfl
@[simp] theorem State.tookMany_hostOut (s : State) (n : Nat) : (s.tookMany n).hostOut = s.hostOut := rfl
@[simp] theorem State.tookMany_lds (s : State) (n : Nat) : (s.tookMany n).lds = s.lds := rfl
@[simp] theorem State.tookMany_identity (s : State) (n : Nat) : (s.tookMany n).identity = s.identity := rfl
@[simp] theorem State.tookMany_ueSent (s : State) (n : Nat) : (s.tookMany n).ueSent = s.ueSent := rfl
@[simp] theorem State.tookMany_ueInbox (s : State) (n : Nat) : (s.tookMany n).ueInbox = s.ueInbox := rfl
@[simp] theorem State.tookMany_ueDropped (s : State) (n : Nat) : (s.tookMany n).ueDropped = s.ueDropped := rfl
@[simp] theorem State.tookMany_corrected (s : State) (n : Nat) : (s.tookMany n).corrected = s.corrected := rfl
@[simp] theorem State.tookMany_uncorrected (s : State) (n : Nat) : (s.tookMany n).uncorrected = s.uncorrected := rfl
@[simp] theorem State.tookMany_failedLanes (s : State) (n : Nat) : (s.tookMany n).failedLanes = s.failedLanes := rfl
@[simp] theorem State.tookMany_sumSeq (s : State) (n : Nat) : (s.tookMany n).sumSeq = s.sumSeq := rfl

@[simp] theorem State.endResv_agenda (s : State) (l : Nat) : (s.endResv l).agenda = s.agenda := rfl
@[simp] theorem State.endResv_cur (s : State) (l : Nat) : (s.endResv l).cur = s.cur := rfl
@[simp] theorem State.endResv_now (s : State) (l : Nat) : (s.endResv l).now = s.now := rfl
@[simp] theorem State.endResv_free (s : State) (l : Nat) : (s.endResv l).free = s.free := rfl
@[simp] theorem State.endResv_serial (s : State) (l : Nat) : (s.endResv l).serial = s.serial := rfl
@[simp] theorem State.endResv_cycle (s : State) (l : Nat) : (s.endResv l).cycle = s.cycle := rfl
@[simp] theorem State.endResv_time (s : State) (l : Nat) : (s.endResv l).time = s.time := rfl
@[simp] theorem State.endResv_timeRem (s : State) (l : Nat) : (s.endResv l).timeRem = s.timeRem := rfl
@[simp] theorem State.endResv_freq (s : State) (l : Nat) : (s.endResv l).freq = s.freq := rfl
@[simp] theorem State.endResv_plim (s : State) (l : Nat) : (s.endResv l).plim = s.plim := rfl
@[simp] theorem State.endResv_bstat (s : State) (l : Nat) : (s.endResv l).bstat = s.bstat := rfl
@[simp] theorem State.endResv_bootStep (s : State) (l : Nat) : (s.endResv l).bootStep = s.bootStep := rfl
@[simp] theorem State.endResv_portCxl (s : State) (l : Nat) : (s.endResv l).portCxl = s.portCxl := rfl
@[simp] theorem State.endResv_mem (s : State) (l : Nat) : (s.endResv l).mem = s.mem := rfl
@[simp] theorem State.endResv_poison (s : State) (l : Nat) : (s.endResv l).poison = s.poison := rfl
@[simp] theorem State.endResv_dir (s : State) (l : Nat) : (s.endResv l).dir = s.dir := rfl
@[simp] theorem State.endResv_av (s : State) (l : Nat) : (s.endResv l).av = s.av := rfl
@[simp] theorem State.endResv_keys (s : State) (l : Nat) : (s.endResv l).keys = s.keys := rfl
@[simp] theorem State.endResv_gibs (s : State) (l : Nat) : (s.endResv l).gibs = s.gibs := rfl
@[simp] theorem State.endResv_lineKeys (s : State) (l : Nat) : (s.endResv l).lineKeys = s.lineKeys := rfl
@[simp] theorem State.endResv_asks (s : State) (l : Nat) : (s.endResv l).asks = s.asks := rfl
@[simp] theorem State.endResv_cells (s : State) (l : Nat) : (s.endResv l).cells = s.cells := rfl
@[simp] theorem State.endResv_l2tlbs (s : State) (l : Nat) : (s.endResv l).l2tlbs = s.l2tlbs := rfl
@[simp] theorem State.endResv_parts (s : State) (l : Nat) : (s.endResv l).parts = s.parts := rfl
@[simp] theorem State.endResv_futs (s : State) (l : Nat) : (s.endResv l).futs = s.futs := rfl
@[simp] theorem State.endResv_parks (s : State) (l : Nat) : (s.endResv l).parks = s.parks := rfl
@[simp] theorem State.endResv_flights (s : State) (l : Nat) : (s.endResv l).flights = s.flights := rfl
@[simp] theorem State.endResv_verdicts (s : State) (l : Nat) : (s.endResv l).verdicts = s.verdicts := rfl
@[simp] theorem State.endResv_tasks (s : State) (l : Nat) : (s.endResv l).tasks = s.tasks := rfl
@[simp] theorem State.endResv_transfers (s : State) (l : Nat) : (s.endResv l).transfers = s.transfers := rfl
@[simp] theorem State.endResv_launches (s : State) (l : Nat) : (s.endResv l).launches = s.launches := rfl
@[simp] theorem State.endResv_statuses (s : State) (l : Nat) : (s.endResv l).statuses = s.statuses := rfl
@[simp] theorem State.endResv_copies (s : State) (l : Nat) : (s.endResv l).copies = s.copies := rfl
@[simp] theorem State.endResv_landings (s : State) (l : Nat) : (s.endResv l).landings = s.landings := rfl
@[simp] theorem State.endResv_partials (s : State) (l : Nat) : (s.endResv l).partials = s.partials := rfl
@[simp] theorem State.endResv_hypFaults (s : State) (l : Nat) : (s.endResv l).hypFaults = s.hypFaults := rfl
@[simp] theorem State.endResv_hypEvents (s : State) (l : Nat) : (s.endResv l).hypEvents = s.hypEvents := rfl
@[simp] theorem State.endResv_filters (s : State) (l : Nat) : (s.endResv l).filters = s.filters := rfl
@[simp] theorem State.endResv_gwDrops (s : State) (l : Nat) : (s.endResv l).gwDrops = s.gwDrops := rfl
@[simp] theorem State.endResv_sets (s : State) (l : Nat) : (s.endResv l).sets = s.sets := rfl
@[simp] theorem State.endResv_tokens (s : State) (l : Nat) : (s.endResv l).tokens = s.tokens := rfl
@[simp] theorem State.endResv_scrubSeq (s : State) (l : Nat) : (s.endResv l).scrubSeq = s.scrubSeq := rfl
@[simp] theorem State.endResv_harts (s : State) (l : Nat) : (s.endResv l).harts = s.harts := rfl
@[simp] theorem State.endResv_vfs (s : State) (l : Nat) : (s.endResv l).vfs = s.vfs := rfl
@[simp] theorem State.endResv_pfs (s : State) (l : Nat) : (s.endResv l).pfs = s.pfs := rfl
@[simp] theorem State.endResv_hostOut (s : State) (l : Nat) : (s.endResv l).hostOut = s.hostOut := rfl
@[simp] theorem State.endResv_lds (s : State) (l : Nat) : (s.endResv l).lds = s.lds := rfl
@[simp] theorem State.endResv_identity (s : State) (l : Nat) : (s.endResv l).identity = s.identity := rfl
@[simp] theorem State.endResv_ueSent (s : State) (l : Nat) : (s.endResv l).ueSent = s.ueSent := rfl
@[simp] theorem State.endResv_ueInbox (s : State) (l : Nat) : (s.endResv l).ueInbox = s.ueInbox := rfl
@[simp] theorem State.endResv_ueDropped (s : State) (l : Nat) : (s.endResv l).ueDropped = s.ueDropped := rfl
@[simp] theorem State.endResv_corrected (s : State) (l : Nat) : (s.endResv l).corrected = s.corrected := rfl
@[simp] theorem State.endResv_uncorrected (s : State) (l : Nat) : (s.endResv l).uncorrected = s.uncorrected := rfl
@[simp] theorem State.endResv_failedLanes (s : State) (l : Nat) : (s.endResv l).failedLanes = s.failedLanes := rfl
@[simp] theorem State.endResv_sumSeq (s : State) (l : Nat) : (s.endResv l).sumSeq = s.sumSeq := rfl

@[simp] theorem State.emit_agenda (s : State) (o : HostOut) : (s.emit o).agenda = s.agenda := rfl
@[simp] theorem State.emit_cur (s : State) (o : HostOut) : (s.emit o).cur = s.cur := rfl
@[simp] theorem State.emit_now (s : State) (o : HostOut) : (s.emit o).now = s.now := rfl
@[simp] theorem State.emit_free (s : State) (o : HostOut) : (s.emit o).free = s.free := rfl
@[simp] theorem State.emit_serial (s : State) (o : HostOut) : (s.emit o).serial = s.serial := rfl
@[simp] theorem State.emit_cycle (s : State) (o : HostOut) : (s.emit o).cycle = s.cycle := rfl
@[simp] theorem State.emit_time (s : State) (o : HostOut) : (s.emit o).time = s.time := rfl
@[simp] theorem State.emit_timeRem (s : State) (o : HostOut) : (s.emit o).timeRem = s.timeRem := rfl
@[simp] theorem State.emit_freq (s : State) (o : HostOut) : (s.emit o).freq = s.freq := rfl
@[simp] theorem State.emit_plim (s : State) (o : HostOut) : (s.emit o).plim = s.plim := rfl
@[simp] theorem State.emit_bstat (s : State) (o : HostOut) : (s.emit o).bstat = s.bstat := rfl
@[simp] theorem State.emit_bootStep (s : State) (o : HostOut) : (s.emit o).bootStep = s.bootStep := rfl
@[simp] theorem State.emit_portCxl (s : State) (o : HostOut) : (s.emit o).portCxl = s.portCxl := rfl
@[simp] theorem State.emit_mem (s : State) (o : HostOut) : (s.emit o).mem = s.mem := rfl
@[simp] theorem State.emit_poison (s : State) (o : HostOut) : (s.emit o).poison = s.poison := rfl
@[simp] theorem State.emit_dir (s : State) (o : HostOut) : (s.emit o).dir = s.dir := rfl
@[simp] theorem State.emit_av (s : State) (o : HostOut) : (s.emit o).av = s.av := rfl
@[simp] theorem State.emit_keys (s : State) (o : HostOut) : (s.emit o).keys = s.keys := rfl
@[simp] theorem State.emit_gibs (s : State) (o : HostOut) : (s.emit o).gibs = s.gibs := rfl
@[simp] theorem State.emit_lineKeys (s : State) (o : HostOut) : (s.emit o).lineKeys = s.lineKeys := rfl
@[simp] theorem State.emit_asks (s : State) (o : HostOut) : (s.emit o).asks = s.asks := rfl
@[simp] theorem State.emit_cells (s : State) (o : HostOut) : (s.emit o).cells = s.cells := rfl
@[simp] theorem State.emit_l2tlbs (s : State) (o : HostOut) : (s.emit o).l2tlbs = s.l2tlbs := rfl
@[simp] theorem State.emit_parts (s : State) (o : HostOut) : (s.emit o).parts = s.parts := rfl
@[simp] theorem State.emit_futs (s : State) (o : HostOut) : (s.emit o).futs = s.futs := rfl
@[simp] theorem State.emit_parks (s : State) (o : HostOut) : (s.emit o).parks = s.parks := rfl
@[simp] theorem State.emit_flights (s : State) (o : HostOut) : (s.emit o).flights = s.flights := rfl
@[simp] theorem State.emit_verdicts (s : State) (o : HostOut) : (s.emit o).verdicts = s.verdicts := rfl
@[simp] theorem State.emit_tasks (s : State) (o : HostOut) : (s.emit o).tasks = s.tasks := rfl
@[simp] theorem State.emit_transfers (s : State) (o : HostOut) : (s.emit o).transfers = s.transfers := rfl
@[simp] theorem State.emit_launches (s : State) (o : HostOut) : (s.emit o).launches = s.launches := rfl
@[simp] theorem State.emit_statuses (s : State) (o : HostOut) : (s.emit o).statuses = s.statuses := rfl
@[simp] theorem State.emit_copies (s : State) (o : HostOut) : (s.emit o).copies = s.copies := rfl
@[simp] theorem State.emit_landings (s : State) (o : HostOut) : (s.emit o).landings = s.landings := rfl
@[simp] theorem State.emit_partials (s : State) (o : HostOut) : (s.emit o).partials = s.partials := rfl
@[simp] theorem State.emit_hypFaults (s : State) (o : HostOut) : (s.emit o).hypFaults = s.hypFaults := rfl
@[simp] theorem State.emit_hypEvents (s : State) (o : HostOut) : (s.emit o).hypEvents = s.hypEvents := rfl
@[simp] theorem State.emit_filters (s : State) (o : HostOut) : (s.emit o).filters = s.filters := rfl
@[simp] theorem State.emit_gwDrops (s : State) (o : HostOut) : (s.emit o).gwDrops = s.gwDrops := rfl
@[simp] theorem State.emit_sets (s : State) (o : HostOut) : (s.emit o).sets = s.sets := rfl
@[simp] theorem State.emit_tokens (s : State) (o : HostOut) : (s.emit o).tokens = s.tokens := rfl
@[simp] theorem State.emit_scrubSeq (s : State) (o : HostOut) : (s.emit o).scrubSeq = s.scrubSeq := rfl
@[simp] theorem State.emit_harts (s : State) (o : HostOut) : (s.emit o).harts = s.harts := rfl
@[simp] theorem State.emit_resvs (s : State) (o : HostOut) : (s.emit o).resvs = s.resvs := rfl
@[simp] theorem State.emit_vfs (s : State) (o : HostOut) : (s.emit o).vfs = s.vfs := rfl
@[simp] theorem State.emit_pfs (s : State) (o : HostOut) : (s.emit o).pfs = s.pfs := rfl
@[simp] theorem State.emit_lds (s : State) (o : HostOut) : (s.emit o).lds = s.lds := rfl
@[simp] theorem State.emit_identity (s : State) (o : HostOut) : (s.emit o).identity = s.identity := rfl
@[simp] theorem State.emit_ueSent (s : State) (o : HostOut) : (s.emit o).ueSent = s.ueSent := rfl
@[simp] theorem State.emit_ueInbox (s : State) (o : HostOut) : (s.emit o).ueInbox = s.ueInbox := rfl
@[simp] theorem State.emit_ueDropped (s : State) (o : HostOut) : (s.emit o).ueDropped = s.ueDropped := rfl
@[simp] theorem State.emit_corrected (s : State) (o : HostOut) : (s.emit o).corrected = s.corrected := rfl
@[simp] theorem State.emit_uncorrected (s : State) (o : HostOut) : (s.emit o).uncorrected = s.uncorrected := rfl
@[simp] theorem State.emit_failedLanes (s : State) (o : HostOut) : (s.emit o).failedLanes = s.failedLanes := rfl
@[simp] theorem State.emit_sumSeq (s : State) (o : HostOut) : (s.emit o).sumSeq = s.sumSeq := rfl

end Sys2Proof.Machine
end

