-- ==== Sys2Proof/Laws/Access.lean ====
section
/-! SUPPORT. What an accessor reads after an update: the registers with fixed behaviour (R55), the contexts and the cells. -/

namespace Sys2Proof.Machine
open Sys2Proof

/-! Places of the state. -/

@[simp] theorem State.setCell_cell (s : State) (n m : Nat) (c : Cell) : (s.setCell n c).cell m = if n = m then c else s.cell m := by
  simp [State.setCell, State.cell]
@[simp] theorem Cell.setCtx_ctx (c : Cell) (k j : Nat) (x : Ctx) : (c.setCtx k x).ctx j = if k = j then x else c.ctx j := by
  simp [Cell.setCtx, Cell.ctx]
@[simp] theorem Cell.setChan_chan (c : Cell) (k j : Nat) (x : Chan) : (c.setChan k x).chan j = if k = j then x else c.chan j := by
  simp [Cell.setChan, Cell.chan]
@[simp] theorem Cell.setCtx_chan (c : Cell) (k j : Nat) (x : Ctx) : (c.setCtx k x).chan j = c.chan j := rfl
@[simp] theorem Cell.setChan_ctx (c : Cell) (k j : Nat) (x : Chan) : (c.setChan k x).ctx j = c.ctx j := rfl
@[simp] theorem State.setPart_part (s : State) (p q : Nat) (x : Part) : (s.setPart p x).part q = if p = q then x else s.part q := by
  simp [State.setPart, State.part]
@[simp] theorem State.setHart_hart (s : State) (p q : Nat) (x : Hart) : (s.setHart p x).hart q = if p = q then x else s.hart q := by
  simp [State.setHart, State.hart]
@[simp] theorem State.setDir_dirOf (s : State) (l m : Nat) (d : DirE) : (s.setDir l d).dirOf m = if l = m then d else s.dirOf m := by
  simp [State.setDir, State.dirOf]

/-- A write to a context is read there and nowhere else. -/
theorem State.setCtx_ctx (s : State) (n k m j : Nat) (x : Ctx) : (s.setCtx n k x).ctx m j = if n = m ∧ k = j then x else s.ctx m j := by
  unfold State.setCtx State.ctx
  rw [State.setCell_cell]
  by_cases h : n = m
  · subst h; simp
  · simp [h]

@[simp] theorem State.setCtx_ctx_self (s : State) (n k : Nat) (x : Ctx) : (s.setCtx n k x).ctx n k = x := by simp [State.setCtx_ctx]
@[simp] theorem State.setCx_cx (s : State) (x : Ctx) : (s.setCx x).cx = x := State.setCtx_ctx_self s s.cur.cell s.cur.ctx x
theorem State.setCx_ctx (s : State) (m j : Nat) (x : Ctx) :
    (s.setCx x).ctx m j = if s.cur.cell = m ∧ s.cur.ctx = j then x else s.ctx m j := State.setCtx_ctx s _ _ m j x

@[simp] theorem mput_mput {α : Type} (m : SMap α) (k : Nat) (v w : α) : mput (mput m k v) k w = mput m k w := by
  induction m with
  | nil => simp [mput]
  | cons e t ih =>
    obtain ⟨j, u⟩ := e
    simp only [mput]
    split
    · simp [mput]
    · split
      · simp [mput]
      · rename_i h1 h2
        simp [mput, h1, h2, ih]

/-- A later update of a context replaces an earlier one. -/
@[simp] theorem State.setCx_setCx (s : State) (x y : Ctx) : (s.setCx x).setCx y = s.setCx y := by
  simp [State.setCx, State.setCtx, State.setCell, Cell.setCtx, State.cell]

@[simp] theorem State.setCx_memByte (s : State) (x : Ctx) (a : Nat) : (s.setCx x).memByte a = s.memByte a := rfl

/-! Registers (R55). -/

@[simp] theorem Ctx.gr_zero (x : Ctx) : x.gr 0 = 0 := rfl
@[simp] theorem Ctx.pr_zero (x : Ctx) : x.pr 0 = 0xFFFF := rfl
@[simp] theorem Ctx.qr_zero (x : Ctx) : x.qr 0 = true := rfl
@[simp] theorem Ctx.cr_zero (x : Ctx) : x.cr 0 = 0 := rfl

theorem toNat_ne {n : Nat} {a b : BitVec n} (h : a ≠ b) : a.toNat ≠ b.toNat := fun e => h (BitVec.eq_of_toNat_eq e)

theorem Ctx.setG_gr (x : Ctx) (d r : RegG) (w : Word) : (x.setG d w).gr r = if r = d ∧ d ≠ 0 then w else x.gr r := by
  unfold Ctx.setG Ctx.gr
  by_cases hd : d = 0
  · rw [if_pos hd, if_neg (fun h : r = d ∧ d ≠ 0 => h.2 hd)]
  · rw [if_neg hd]
    by_cases hr : r = d
    · rw [if_neg (hr ▸ hd), if_pos ⟨hr, hd⟩, hr]; simp only [mget_mput_self]
    · rw [if_neg (fun h : r = d ∧ d ≠ 0 => hr h.1)]
      simp only [mget_mput_ne _ _ _ (toNat_ne (Ne.symm hr))]
theorem Ctx.setP_pr (x : Ctx) (d r : RegP) (w : BitVec 16) : (x.setP d w).pr r = if r = d ∧ d ≠ 0 then w else x.pr r := by
  unfold Ctx.setP Ctx.pr
  by_cases hd : d = 0
  · rw [if_pos hd, if_neg (fun h : r = d ∧ d ≠ 0 => h.2 hd)]
  · rw [if_neg hd]
    by_cases hr : r = d
    · rw [if_neg (hr ▸ hd), if_pos ⟨hr, hd⟩, hr]; simp only [mget_mput_self]
    · rw [if_neg (fun h : r = d ∧ d ≠ 0 => hr h.1)]
      simp only [mget_mput_ne _ _ _ (toNat_ne (Ne.symm hr))]
theorem Ctx.setC_cr (x : Ctx) (d r : RegC) (w : Word) : (x.setC d w).cr r = if r = d ∧ d ≠ 0 then w else x.cr r := by
  unfold Ctx.setC Ctx.cr
  by_cases hd : d = 0
  · rw [if_pos hd, if_neg (fun h : r = d ∧ d ≠ 0 => h.2 hd)]
  · rw [if_neg hd]
    by_cases hr : r = d
    · rw [if_neg (hr ▸ hd), if_pos ⟨hr, hd⟩, hr]; simp only [mget_mput_self]
    · rw [if_neg (fun h : r = d ∧ d ≠ 0 => hr h.1)]
      simp only [mget_mput_ne _ _ _ (toNat_ne (Ne.symm hr))]
theorem Ctx.setQ_qr (x : Ctx) (d r : BitVec 2) (w : Bool) : (x.setQ d w).qr r = if r = d ∧ d ≠ 0 then w else x.qr r := by
  unfold Ctx.setQ Ctx.qr
  by_cases hd : d = 0
  · rw [if_pos hd, if_neg (fun h : r = d ∧ d ≠ 0 => h.2 hd)]
  · rw [if_neg hd]
    by_cases hr : r = d
    · rw [if_neg (hr ▸ hd), if_pos ⟨hr, hd⟩, hr]; simp only [mget_mput_self]
    · rw [if_neg (fun h : r = d ∧ d ≠ 0 => hr h.1)]
      simp only [mget_mput_ne _ _ _ (toNat_ne (Ne.symm hr))]
theorem Ctx.setV_vr (x : Ctx) (d r : RegV) (w : Vec) : (x.setV d w).vr r = if r = d then w else x.vr r := by
  unfold Ctx.setV Ctx.vr
  by_cases hr : r = d
  · subst hr; simp
  · simp [hr, toNat_ne (Ne.symm hr)]
theorem Ctx.setB_br (x : Ctx) (d r : RegB) (w : Word) : (x.setB d w).br r = if r = d then w else x.br r := by
  unfold Ctx.setB Ctx.br
  by_cases hr : r = d
  · subst hr; simp
  · simp [hr, toNat_ne (Ne.symm hr)]
theorem Ctx.setStream_stream (x : Ctx) (n m : StreamNo) (t : Stream) : (x.setStream n t).stream m = if m = n then t else x.stream m := by
  unfold Ctx.setStream Ctx.stream
  by_cases h : m = n
  · subst h; simp
  · simp [h, toNat_ne (Ne.symm h)]
@[simp] theorem Ctx.setFifo_fifo (x : Ctx) (n m : Nat) (q : FifoQ) : (x.setFifo n q).fifo m = if n = m then q else x.fifo m := by
  simp [Ctx.setFifo, Ctx.fifo]
theorem Ctx.setLoop_loopOf (x : Ctx) (e : Eng) (k j : Nat) (l : LoopC) : (x.setLoop e k l).loopOf e j = if k = j then l else x.loopOf e j := by
  simp [Ctx.setLoop, Ctx.loopOf]
@[simp] theorem Ctx.setEng_eng_self (x : Ctx) (e : Eng) (c : EngC) : (x.setEng e c).eng e = c := by cases e <;> rfl
theorem Ctx.setEng_eng (x : Ctx) (e f : Eng) (c : EngC) : (x.setEng e c).eng f = if e = f then c else x.eng f := by
  cases e <;> cases f <;> simp [Ctx.setEng, Ctx.eng]

/-- An engine's registers do not move with another register file. -/
@[simp] theorem Ctx.setG_eng (x : Ctx) (r : RegG) (w : Word) (e : Eng) : (x.setG r w).eng e = x.eng e := by cases e <;> simp [Ctx.eng]
@[simp] theorem Ctx.setP_eng (x : Ctx) (r : RegP) (w : BitVec 16) (e : Eng) : (x.setP r w).eng e = x.eng e := by cases e <;> simp [Ctx.eng]
@[simp] theorem Ctx.setV_eng (x : Ctx) (r : RegV) (w : Vec) (e : Eng) : (x.setV r w).eng e = x.eng e := by cases e <;> simp [Ctx.eng]
@[simp] theorem Ctx.setB_eng (x : Ctx) (r : RegB) (w : Word) (e : Eng) : (x.setB r w).eng e = x.eng e := by cases e <;> simp [Ctx.eng]
@[simp] theorem Ctx.setC_eng (x : Ctx) (r : RegC) (w : Word) (e : Eng) : (x.setC r w).eng e = x.eng e := by cases e <;> simp [Ctx.eng]
@[simp] theorem Ctx.setQ_eng (x : Ctx) (r : BitVec 2) (w : Bool) (e : Eng) : (x.setQ r w).eng e = x.eng e := by cases e <;> simp [Ctx.eng]
@[simp] theorem Ctx.setFifo_eng (x : Ctx) (n : Nat) (q : FifoQ) (e : Eng) : (x.setFifo n q).eng e = x.eng e := by cases e <;> rfl
@[simp] theorem Ctx.setStream_eng (x : Ctx) (n : StreamNo) (t : Stream) (e : Eng) : (x.setStream n t).eng e = x.eng e := by cases e <;> rfl
@[simp] theorem Ctx.setLoop_eng (x : Ctx) (f : Eng) (k : Nat) (l : LoopC) (e : Eng) : (x.setLoop f k l).eng e = x.eng e := by cases e <;> rfl

end Sys2Proof.Machine
end

