-- ==== Sys2Proof/Laws/Deliver.lean ====
section
/-! SUPPORT. Where a fault record goes (R381, R383). -/

namespace Sys2Proof.Machine
open Sys2Proof

/-- A partition without a fault buffer has no header. -/
theorem State.fbHeader_none (s : State) (pid : Nat) (h : (s.part pid).fbhdr = 0) : s.fbHeader pid = (s, none) := by
  unfold State.fbHeader; rw [h]; simp

/-- With no fault buffer a record is held. -/
theorem State.deliver_none (s : State) (pid : Nat) (r : Record) (hold : State → State) (h : (s.part pid).fbhdr = 0) :
    s.deliver pid r hold = hold s := by
  simp only [State.deliver, State.fbHeader_none s pid h]

end Sys2Proof.Machine
end

