-- ==== Sys2Proof/Laws/Dispatch.lean ====
section
/-! SUPPORT. What exec answers for each instruction: its meaning. -/

namespace Sys2Proof.Machine
open Sys2Proof

theorem exec_xNop (g : GuardP) (s : State) : exec (.xNop g) s = execXNop g s := rfl
theorem exec_xDone (g : GuardP) (s : State) : exec (.xDone g) s = execXDone g s := rfl
theorem exec_xSys (d : RegG) (a : RegG) (g : GuardP) (s : State) : exec (.xSys d a g) s = execXSys d a g s := rfl
theorem exec_xEbrk (g : GuardP) (s : State) : exec (.xEbrk g) s = execXEbrk g s := rfl
theorem exec_xAdd (d : RegG) (a : RegG) (b : RegG) (g : GuardP) (s : State) : exec (.xAdd d a b g) s = execXAdd d a b g s := rfl
theorem exec_xSub (d : RegG) (a : RegG) (b : RegG) (g : GuardP) (s : State) : exec (.xSub d a b g) s = execXSub d a b g s := rfl
theorem exec_xAnd (d : RegG) (a : RegG) (b : RegG) (g : GuardP) (s : State) : exec (.xAnd d a b g) s = execXAnd d a b g s := rfl
theorem exec_xOr (d : RegG) (a : RegG) (b : RegG) (g : GuardP) (s : State) : exec (.xOr d a b g) s = execXOr d a b g s := rfl
theorem exec_xXor (d : RegG) (a : RegG) (b : RegG) (g : GuardP) (s : State) : exec (.xXor d a b g) s = execXXor d a b g s := rfl
theorem exec_xAndn (d : RegG) (a : RegG) (b : RegG) (g : GuardP) (s : State) : exec (.xAndn d a b g) s = execXAndn d a b g s := rfl
theorem exec_xShl (d : RegG) (a : RegG) (b : RegG) (g : GuardP) (s : State) : exec (.xShl d a b g) s = execXShl d a b g s := rfl
theorem exec_xShr (d : RegG) (a : RegG) (b : RegG) (g : GuardP) (s : State) : exec (.xShr d a b g) s = execXShr d a b g s := rfl
theorem exec_xSra (d : RegG) (a : RegG) (b : RegG) (g : GuardP) (s : State) : exec (.xSra d a b g) s = execXSra d a b g s := rfl
theorem exec_xMin (d : RegG) (a : RegG) (b : RegG) (g : GuardP) (s : State) : exec (.xMin d a b g) s = execXMin d a b g s := rfl
theorem exec_xMax (d : RegG) (a : RegG) (b : RegG) (g : GuardP) (s : State) : exec (.xMax d a b g) s = execXMax d a b g s := rfl
theorem exec_xMinu (d : RegG) (a : RegG) (b : RegG) (g : GuardP) (s : State) : exec (.xMinu d a b g) s = execXMinu d a b g s := rfl
theorem exec_xMaxu (d : RegG) (a : RegG) (b : RegG) (g : GuardP) (s : State) : exec (.xMaxu d a b g) s = execXMaxu d a b g s := rfl
theorem exec_xClz (d : RegG) (a : RegG) (g : GuardP) (s : State) : exec (.xClz d a g) s = execXClz d a g s := rfl
theorem exec_xCtz (d : RegG) (a : RegG) (g : GuardP) (s : State) : exec (.xCtz d a g) s = execXCtz d a g s := rfl
theorem exec_xPopc (d : RegG) (a : RegG) (g : GuardP) (s : State) : exec (.xPopc d a g) s = execXPopc d a g s := rfl
theorem exec_xMul (d : RegG) (a : RegG) (b : RegG) (g : GuardP) (s : State) : exec (.xMul d a b g) s = execXMul d a b g s := rfl
theorem exec_xMulh (d : RegG) (a : RegG) (b : RegG) (g : GuardP) (s : State) : exec (.xMulh d a b g) s = execXMulh d a b g s := rfl
theorem exec_xMulhu (d : RegG) (a : RegG) (b : RegG) (g : GuardP) (s : State) : exec (.xMulhu d a b g) s = execXMulhu d a b g s := rfl
theorem exec_xDiv (d : RegG) (a : RegG) (b : RegG) (g : GuardP) (s : State) : exec (.xDiv d a b g) s = execXDiv d a b g s := rfl
theorem exec_xDivu (d : RegG) (a : RegG) (b : RegG) (g : GuardP) (s : State) : exec (.xDivu d a b g) s = execXDivu d a b g s := rfl
theorem exec_xRem (d : RegG) (a : RegG) (b : RegG) (g : GuardP) (s : State) : exec (.xRem d a b g) s = execXRem d a b g s := rfl
theorem exec_xRemu (d : RegG) (a : RegG) (b : RegG) (g : GuardP) (s : State) : exec (.xRemu d a b g) s = execXRemu d a b g s := rfl
theorem exec_xAddi (d : RegG) (a : RegG) (imm : BitVec 12) (g : GuardP) (s : State) : exec (.xAddi d a imm g) s = execXAddi d a imm g s := rfl
theorem exec_xAndi (d : RegG) (a : RegG) (imm : BitVec 12) (g : GuardP) (s : State) : exec (.xAndi d a imm g) s = execXAndi d a imm g s := rfl
theorem exec_xOri (d : RegG) (a : RegG) (imm : BitVec 12) (g : GuardP) (s : State) : exec (.xOri d a imm g) s = execXOri d a imm g s := rfl
theorem exec_xXori (d : RegG) (a : RegG) (imm : BitVec 12) (g : GuardP) (s : State) : exec (.xXori d a imm g) s = execXXori d a imm g s := rfl
theorem exec_xShli (d : RegG) (a : RegG) (sh : BitVec 6) (g : GuardP) (s : State) : exec (.xShli d a sh g) s = execXShli d a sh g s := rfl
theorem exec_xShri (d : RegG) (a : RegG) (sh : BitVec 6) (g : GuardP) (s : State) : exec (.xShri d a sh g) s = execXShri d a sh g s := rfl
theorem exec_xSrai (d : RegG) (a : RegG) (sh : BitVec 6) (g : GuardP) (s : State) : exec (.xSrai d a sh g) s = execXSrai d a sh g s := rfl
theorem exec_xCmp (cond : Cond) (pd : BitVec 5) (a : RegG) (b : RegG) (g : GuardP) (s : State) : exec (.xCmp cond pd a b g) s = execXCmp cond pd a b g s := rfl
theorem exec_xCmpi (cond : Cond) (pd : BitVec 5) (a : RegG) (imm : BitVec 9) (g : GuardP) (s : State) : exec (.xCmpi cond pd a imm g) s = execXCmpi cond pd a imm g s := rfl
theorem exec_xSel (d : RegG) (k : RegP) (a : RegG) (b : RegG) (g : GuardP) (s : State) : exec (.xSel d k a b g) s = execXSel d k a b g s := rfl
theorem exec_xLim (d : RegG) (imm : BitVec 32) (g : GuardP) (s : State) : exec (.xLim d imm g) s = execXLim d imm g s := rfl
theorem exec_xLimh (d : RegG) (a : RegG) (imm : BitVec 32) (g : GuardP) (s : State) : exec (.xLimh d a imm g) s = execXLimh d a imm g s := rfl
theorem exec_xPand (pd : RegP) (pa : RegP) (pb : RegP) (s : State) : exec (.xPand pd pa pb) s = execXPand pd pa pb s := rfl
theorem exec_xPor (pd : RegP) (pa : RegP) (pb : RegP) (s : State) : exec (.xPor pd pa pb) s = execXPor pd pa pb s := rfl
theorem exec_xPxor (pd : RegP) (pa : RegP) (pb : RegP) (s : State) : exec (.xPxor pd pa pb) s = execXPxor pd pa pb s := rfl
theorem exec_xPandn (pd : RegP) (pa : RegP) (pb : RegP) (s : State) : exec (.xPandn pd pa pb) s = execXPandn pd pa pb s := rfl
theorem exec_xPmov (pd : RegP) (pa : RegP) (s : State) : exec (.xPmov pd pa) s = execXPmov pd pa s := rfl
theorem exec_xPany (pd : RegP) (pa : RegP) (pb : RegP) (s : State) : exec (.xPany pd pa pb) s = execXPany pd pa pb s := rfl
theorem exec_xPall (pd : RegP) (pa : RegP) (pb : RegP) (s : State) : exec (.xPall pd pa pb) s = execXPall pd pa pb s := rfl
theorem exec_xPseti (pd : RegP) (imm : BitVec 16) (s : State) : exec (.xPseti pd imm) s = execXPseti pd imm s := rfl
theorem exec_xPfrom (pd : RegP) (ga : RegG) (s : State) : exec (.xPfrom pd ga) s = execXPfrom pd ga s := rfl
theorem exec_xPto (pd : RegP) (ga : RegG) (s : State) : exec (.xPto pd ga) s = execXPto pd ga s := rfl
theorem exec_xPcnt (pd : RegP) (ga : RegG) (s : State) : exec (.xPcnt pd ga) s = execXPcnt pd ga s := rfl
theorem exec_xCsrr (d : RegG) (csr : Csr) (g : GuardP) (s : State) : exec (.xCsrr d csr g) s = execXCsrr d csr g s := rfl
theorem exec_xCsrw (d : RegG) (csr : Csr) (a : RegG) (g : GuardP) (s : State) : exec (.xCsrw d csr a g) s = execXCsrw d csr a g s := rfl
theorem exec_xCsrs (d : RegG) (csr : Csr) (a : RegG) (g : GuardP) (s : State) : exec (.xCsrs d csr a g) s = execXCsrs d csr a g s := rfl
theorem exec_xBr (pt : RegP) (tm : BrTest) (off : BitVec 17) (s : State) : exec (.xBr pt tm off) s = execXBr pt tm off s := rfl
theorem exec_xJmp (imm : BitVec 32) (g : GuardP) (s : State) : exec (.xJmp imm g) s = execXJmp imm g s := rfl
theorem exec_xCall (imm : BitVec 32) (g : GuardP) (s : State) : exec (.xCall imm g) s = execXCall imm g s := rfl
theorem exec_xJmpr (a : RegG) (g : GuardP) (s : State) : exec (.xJmpr a g) s = execXJmpr a g s := rfl
theorem exec_xRet (g : GuardP) (s : State) : exec (.xRet g) s = execXRet g s := rfl
theorem exec_xLoop (k : LoopNo) (a : RegG) (imm : BitVec 32) (g : GuardP) (s : State) : exec (.xLoop k a imm g) s = execXLoop k a imm g s := rfl
theorem exec_xTkput (f : Fifo) (a : RegG) (g : GuardP) (s : State) : exec (.xTkput f a g) s = execXTkput f a g s := rfl
theorem exec_xTkget (d : RegG) (f : Fifo) (g : GuardP) (s : State) : exec (.xTkget d f g) s = execXTkget d f g s := rfl
theorem exec_xLd (d : RegG) (a : RegG) (sz : BitVec 2) (sx : Bool) (ord : Ord) (sc : Scope) (imm : BitVec 7) (s : State) : exec (.xLd d a sz sx ord sc imm) s = execXLd d a sz sx ord sc imm s := rfl
theorem exec_xSt (d : RegG) (a : RegG) (sz : BitVec 2) (ord : Ord) (sc : Scope) (imm : BitVec 7) (s : State) : exec (.xSt d a sz ord sc imm) s = execXSt d a sz ord sc imm s := rfl
theorem exec_xAmo (d : RegG) (a : RegG) (b : RegG) (dbl : Bool) (ord : Ord) (sc : Scope) (op : AmoOp) (s : State) : exec (.xAmo d a b dbl ord sc op) s = execXAmo d a b dbl ord sc op s := rfl
theorem exec_xCas (d : RegG) (a : RegG) (b : RegG) (dbl : Bool) (ord : Ord) (sc : Scope) (s : State) : exec (.xCas d a b dbl ord sc) s = execXCas d a b dbl ord sc s := rfl
theorem exec_xFence (kind : FenceKind) (sc : Scope) (g : GuardP) (s : State) : exec (.xFence kind sc g) s = execXFence kind sc g s := rfl
theorem exec_xLds (d : RegG) (a : RegG) (imm : BitVec 12) (g : GuardP) (s : State) : exec (.xLds d a imm g) s = execXLds d a imm g s := rfl
theorem exec_xSts (d : RegG) (a : RegG) (imm : BitVec 12) (g : GuardP) (s : State) : exec (.xSts d a imm g) s = execXSts d a imm g s := rfl
theorem exec_xCpy (d : RegG) (a : RegG) (g : GuardP) (s : State) : exec (.xCpy d a g) s = execXCpy d a g s := rfl
theorem exec_xTlwait (k : TimelineNo) (a : RegG) (g : GuardP) (s : State) : exec (.xTlwait k a g) s = execXTlwait k a g s := rfl
theorem exec_xTlread (d : RegG) (k : TimelineNo) (g : GuardP) (s : State) : exec (.xTlread d k g) s = execXTlread d k g s := rfl
theorem exec_xVadd (ty : Ty) (d : RegV) (a : RegV) (b : RegV) (g : GuardP) (s : State) : exec (.xVadd ty d a b g) s = execXVadd ty d a b g s := rfl
theorem exec_xVsub (ty : Ty) (d : RegV) (a : RegV) (b : RegV) (g : GuardP) (s : State) : exec (.xVsub ty d a b g) s = execXVsub ty d a b g s := rfl
theorem exec_xVmin (ty : Ty) (d : RegV) (a : RegV) (b : RegV) (g : GuardP) (s : State) : exec (.xVmin ty d a b g) s = execXVmin ty d a b g s := rfl
theorem exec_xVmax (ty : Ty) (d : RegV) (a : RegV) (b : RegV) (g : GuardP) (s : State) : exec (.xVmax ty d a b g) s = execXVmax ty d a b g s := rfl
theorem exec_xVabs (ty : Ty) (d : RegV) (a : RegV) (g : GuardP) (s : State) : exec (.xVabs ty d a g) s = execXVabs ty d a g s := rfl
theorem exec_xVneg (ty : Ty) (d : RegV) (a : RegV) (g : GuardP) (s : State) : exec (.xVneg ty d a g) s = execXVneg ty d a g s := rfl
theorem exec_xVmul (ty : Ty) (d : RegV) (a : RegV) (b : RegV) (g : GuardP) (s : State) : exec (.xVmul ty d a b g) s = execXVmul ty d a b g s := rfl
theorem exec_xVmadd (ty : Ty) (d : RegV) (a : RegV) (b : RegV) (g : GuardP) (s : State) : exec (.xVmadd ty d a b g) s = execXVmadd ty d a b g s := rfl
theorem exec_xVmsub (ty : Ty) (d : RegV) (a : RegV) (b : RegV) (g : GuardP) (s : State) : exec (.xVmsub ty d a b g) s = execXVmsub ty d a b g s := rfl
theorem exec_xVnmadd (ty : Ty) (d : RegV) (a : RegV) (b : RegV) (g : GuardP) (s : State) : exec (.xVnmadd ty d a b g) s = execXVnmadd ty d a b g s := rfl
theorem exec_xVand (ty : Ty) (d : RegV) (a : RegV) (b : RegV) (g : GuardP) (s : State) : exec (.xVand ty d a b g) s = execXVand ty d a b g s := rfl
theorem exec_xVor (ty : Ty) (d : RegV) (a : RegV) (b : RegV) (g : GuardP) (s : State) : exec (.xVor ty d a b g) s = execXVor ty d a b g s := rfl
theorem exec_xVxor (ty : Ty) (d : RegV) (a : RegV) (b : RegV) (g : GuardP) (s : State) : exec (.xVxor ty d a b g) s = execXVxor ty d a b g s := rfl
theorem exec_xVshl (ty : Ty) (d : RegV) (a : RegV) (b : RegV) (g : GuardP) (s : State) : exec (.xVshl ty d a b g) s = execXVshl ty d a b g s := rfl
theorem exec_xVshr (ty : Ty) (d : RegV) (a : RegV) (b : RegV) (g : GuardP) (s : State) : exec (.xVshr ty d a b g) s = execXVshr ty d a b g s := rfl
theorem exec_xVsra (ty : Ty) (d : RegV) (a : RegV) (b : RegV) (g : GuardP) (s : State) : exec (.xVsra ty d a b g) s = execXVsra ty d a b g s := rfl
theorem exec_xVcmp (cond : VCond) (ty : Ty) (pd : BitVec 5) (a : RegV) (b : RegV) (g : GuardP) (s : State) : exec (.xVcmp cond ty pd a b g) s = execXVcmp cond ty pd a b g s := rfl
theorem exec_xVsel (ty : Ty) (d : RegV) (k : GuardP) (a : RegV) (b : RegV) (s : State) : exec (.xVsel ty d k a b) s = execXVsel ty d k a b s := rfl
theorem exec_xVbcst (ty : Ty) (d : RegV) (a : RegG) (g : GuardP) (s : State) : exec (.xVbcst ty d a g) s = execXVbcst ty d a g s := rfl
theorem exec_xVext (ty : Ty) (d : RegG) (a : RegV) (b : RegG) (g : GuardP) (s : State) : exec (.xVext ty d a b g) s = execXVext ty d a b g s := rfl
theorem exec_xVins (ty : Ty) (d : RegV) (a : RegG) (b : RegG) (g : GuardP) (s : State) : exec (.xVins ty d a b g) s = execXVins ty d a b g s := rfl
theorem exec_xVperm (ty : Ty) (d : RegV) (a : RegV) (b : RegV) (g : GuardP) (s : State) : exec (.xVperm ty d a b g) s = execXVperm ty d a b g s := rfl
theorem exec_xVcvt (src : Ty) (dst : Ty) (rnd : Rnd) (d : RegV) (a : RegV) (g : GuardP) (s : State) : exec (.xVcvt src dst rnd d a g) s = execXVcvt src dst rnd d a g s := rfl
theorem exec_xVqnt (rnd : Rnd) (d : RegV) (a : RegV) (b : RegV) (g : GuardP) (s : State) : exec (.xVqnt rnd d a b g) s = execXVqnt rnd d a b g s := rfl
theorem exec_xVred (op : RedOp) (ty : Ty) (d : RegV) (a : RegV) (g : GuardP) (s : State) : exec (.xVred op ty d a g) s = execXVred op ty d a g s := rfl
theorem exec_xVrecip (ty : Ty) (d : RegV) (a : RegV) (g : GuardP) (s : State) : exec (.xVrecip ty d a g) s = execXVrecip ty d a g s := rfl
theorem exec_xVrsqrt (ty : Ty) (d : RegV) (a : RegV) (g : GuardP) (s : State) : exec (.xVrsqrt ty d a g) s = execXVrsqrt ty d a g s := rfl
theorem exec_xVexp2 (ty : Ty) (d : RegV) (a : RegV) (g : GuardP) (s : State) : exec (.xVexp2 ty d a g) s = execXVexp2 ty d a g s := rfl
theorem exec_xVlog2 (ty : Ty) (d : RegV) (a : RegV) (g : GuardP) (s : State) : exec (.xVlog2 ty d a g) s = execXVlog2 ty d a g s := rfl
theorem exec_xVpop (d : RegV) (st : StreamNo) (a : RegG) (g : GuardP) (s : State) : exec (.xVpop d st a g) s = execXVpop d st a g s := rfl
theorem exec_xVpush (st : StreamNo) (a : RegV) (g : GuardP) (s : State) : exec (.xVpush st a g) s = execXVpush st a g s := rfl
theorem exec_xVlds (d : RegV) (a : RegG) (imm : BitVec 12) (g : GuardP) (s : State) : exec (.xVlds d a imm g) s = execXVlds d a imm g s := rfl
theorem exec_xVsts (d : RegV) (a : RegG) (imm : BitVec 12) (g : GuardP) (s : State) : exec (.xVsts d a imm g) s = execXVsts d a imm g s := rfl
theorem exec_xGload (d : RegG) (a : RegG) (g : GuardP) (s : State) : exec (.xGload d a g) s = execXGload d a g s := rfl
theorem exec_xGstore (a : RegG) (g : GuardP) (s : State) : exec (.xGstore a g) s = execXGstore a g s := rfl
theorem exec_xGstep (d : RegG) (a : RegG) (g : GuardP) (s : State) : exec (.xGstep d a g) s = execXGstep d a g s := rfl
theorem exec_xGmask (d : RegG) (a : RegG) (b : RegG) (g : GuardP) (s : State) : exec (.xGmask d a b g) s = execXGmask d a b g s := rfl
theorem exec_xGcount (d : RegG) (g : GuardP) (s : State) : exec (.xGcount d g) s = execXGcount d g s := rfl
theorem exec_xGforce (d : RegG) (g : GuardP) (s : State) : exec (.xGforce d g) s = execXGforce d g s := rfl
theorem exec_xSend (v : RegV) (a : RegG) (g : GuardP) (s : State) : exec (.xSend v a g) s = execXSend v a g s := rfl
theorem exec_xSendnb (b : RegG) (v : RegV) (a : RegG) (g : GuardP) (s : State) : exec (.xSendnb b v a g) s = execXSendnb b v a g s := rfl
theorem exec_xHset (d : RegG) (a : RegG) (b : RegG) (g : GuardP) (s : State) : exec (.xHset d a b g) s = execXHset d a b g s := rfl
theorem exec_xHmask (a : RegG) (g : GuardP) (s : State) : exec (.xHmask a g) s = execXHmask a g s := rfl
theorem exec_xHunmask (a : RegG) (g : GuardP) (s : State) : exec (.xHunmask a g) s = execXHunmask a g s := rfl
theorem exec_xAbind (d : RegG) (a : RegG) (b : RegG) (g : GuardP) (s : State) : exec (.xAbind d a b g) s = execXAbind d a b g s := rfl
theorem exec_xTspawn (v : RegV) (a : RegG) (g : GuardP) (s : State) : exec (.xTspawn v a g) s = execXTspawn v a g s := rfl
theorem exec_xTqenq (b : RegG) (v : RegV) (a : RegG) (g : GuardP) (s : State) : exec (.xTqenq b v a g) s = execXTqenq b v a g s := rfl
theorem exec_xTqdeq (b : RegG) (v : RegV) (a : RegG) (g : GuardP) (s : State) : exec (.xTqdeq b v a g) s = execXTqdeq b v a g s := rfl
theorem exec_xDcinit (d : RegG) (a : RegG) (b : RegG) (g : GuardP) (s : State) : exec (.xDcinit d a b g) s = execXDcinit d a b g s := rfl
theorem exec_xDcdec (d : RegG) (a : RegG) (g : GuardP) (s : State) : exec (.xDcdec d a g) s = execXDcdec d a g s := rfl
theorem exec_xDcpark (b : RegG) (v : RegV) (a : RegG) (g : GuardP) (s : State) : exec (.xDcpark b v a g) s = execXDcpark b v a g s := rfl
theorem exec_xWlpush (a : RegG) (b : RegG) (g : GuardP) (s : State) : exec (.xWlpush a b g) s = execXWlpush a b g s := rfl
theorem exec_xWlpop (d : RegG) (b : RegG) (g : GuardP) (s : State) : exec (.xWlpop d b g) s = execXWlpop d b g s := rfl
theorem exec_xWlbound (a : RegG) (b : RegG) (g : GuardP) (s : State) : exec (.xWlbound a b g) s = execXWlbound a b g s := rfl
theorem exec_xWlterm (a : RegG) (g : GuardP) (s : State) : exec (.xWlterm a g) s = execXWlterm a g s := rfl
theorem exec_xFnew (d : RegG) (a : RegG) (g : GuardP) (s : State) : exec (.xFnew d a g) s = execXFnew d a g s := rfl
theorem exec_xFres (d : RegG) (a : RegG) (b : RegG) (g : GuardP) (s : State) : exec (.xFres d a b g) s = execXFres d a b g s := rfl
theorem exec_xFwait (d : RegG) (a : RegG) (b : RegG) (g : GuardP) (s : State) : exec (.xFwait d a b g) s = execXFwait d a b g s := rfl
theorem exec_xFpoll (d : RegG) (a : RegG) (g : GuardP) (s : State) : exec (.xFpoll d a g) s = execXFpoll d a g s := rfl
theorem exec_xFfree (d : RegG) (a : RegG) (g : GuardP) (s : State) : exec (.xFfree d a g) s = execXFfree d a g s := rfl
theorem exec_xFtmo (d : RegG) (a : RegG) (b : RegG) (g : GuardP) (s : State) : exec (.xFtmo d a b g) s = execXFtmo d a b g s := rfl
theorem exec_xFbind (d : RegG) (a : RegG) (b : RegG) (g : GuardP) (s : State) : exec (.xFbind d a b g) s = execXFbind d a b g s := rfl
theorem exec_xBarr (d : RegG) (a : RegG) (g : GuardP) (s : State) : exec (.xBarr d a g) s = execXBarr d a g s := rfl
theorem exec_xBexp (d : RegG) (a : RegG) (b : RegG) (g : GuardP) (s : State) : exec (.xBexp d a b g) s = execXBexp d a b g s := rfl
theorem exec_xBwait (d : RegG) (a : RegG) (b : RegG) (g : GuardP) (s : State) : exec (.xBwait d a b g) s = execXBwait d a b g s := rfl
theorem exec_xMclaim (d : RegG) (a : RegG) (g : GuardP) (s : State) : exec (.xMclaim d a g) s = execXMclaim d a g s := rfl
theorem exec_evClaimGrant (cell : Nat) (s : State) : exec (.evClaimGrant cell) s = execEvClaimGrant cell s := rfl
theorem exec_xMfree (g : GuardP) (s : State) : exec (.xMfree g) s = execXMfree g s := rfl
theorem exec_xSret (d : RegG) (a : RegG) (b : RegG) (g : GuardP) (s : State) : exec (.xSret d a b g) s = execXSret d a b g s := rfl
theorem exec_xWdset (d : RegG) (a : RegG) (g : GuardP) (s : State) : exec (.xWdset d a g) s = execXWdset d a g s := rfl
theorem exec_xSysr (d : RegG) (sr : SysReg) (g : GuardP) (s : State) : exec (.xSysr d sr g) s = execXSysr d sr g s := rfl
theorem exec_xSysw (d : RegG) (sr : SysReg) (a : RegG) (g : GuardP) (s : State) : exec (.xSysw d sr a g) s = execXSysw d sr a g s := rfl
theorem exec_xTlbinvAll (g : GuardP) (s : State) : exec (.xTlbinvAll g) s = execXTlbinvAll g s := rfl
theorem exec_xTlbinvVa (a : RegG) (g : GuardP) (s : State) : exec (.xTlbinvVa a g) s = execXTlbinvVa a g s := rfl
theorem exec_xTlbinvPart (g : GuardP) (s : State) : exec (.xTlbinvPart g) s = execXTlbinvPart g s := rfl
theorem exec_xCinvL1 (g : GuardP) (s : State) : exec (.xCinvL1 g) s = execXCinvL1 g s := rfl
theorem exec_xCinvSb (g : GuardP) (s : State) : exec (.xCinvSb g) s = execXCinvSb g s := rfl
theorem exec_xCinvIs (g : GuardP) (s : State) : exec (.xCinvIs g) s = execXCinvIs g s := rfl
theorem exec_xCtxsave (d : RegG) (a : RegG) (b : RegG) (g : GuardP) (s : State) : exec (.xCtxsave d a b g) s = execXCtxsave d a b g s := rfl
theorem exec_xCtxload (d : RegG) (a : RegG) (b : RegG) (g : GuardP) (s : State) : exec (.xCtxload d a b g) s = execXCtxload d a b g s := rfl
theorem exec_aNop (q : GuardQ) (s : State) : exec (.aNop q) s = execANop q s := rfl
theorem exec_aDone (q : GuardQ) (s : State) : exec (.aDone q) s = execADone q s := rfl
theorem exec_aAdd (d : RegB) (a : RegB) (b : RegB) (q : GuardQ) (s : State) : exec (.aAdd d a b q) s = execAAdd d a b q s := rfl
theorem exec_aSub (d : RegB) (a : RegB) (b : RegB) (q : GuardQ) (s : State) : exec (.aSub d a b q) s = execASub d a b q s := rfl
theorem exec_aAnd (d : RegB) (a : RegB) (b : RegB) (q : GuardQ) (s : State) : exec (.aAnd d a b q) s = execAAnd d a b q s := rfl
theorem exec_aShl (d : RegB) (a : RegB) (b : RegB) (q : GuardQ) (s : State) : exec (.aShl d a b q) s = execAShl d a b q s := rfl
theorem exec_aShr (d : RegB) (a : RegB) (b : RegB) (q : GuardQ) (s : State) : exec (.aShr d a b q) s = execAShr d a b q s := rfl
theorem exec_aMul (d : RegB) (a : RegB) (b : RegB) (q : GuardQ) (s : State) : exec (.aMul d a b q) s = execAMul d a b q s := rfl
theorem exec_aMov (d : RegB) (a : RegB) (q : GuardQ) (s : State) : exec (.aMov d a q) s = execAMov d a q s := rfl
theorem exec_aAddi (d : RegB) (a : RegB) (imm : BitVec 12) (q : GuardQ) (s : State) : exec (.aAddi d a imm q) s = execAAddi d a imm q s := rfl
theorem exec_aLim (d : RegB) (imm : BitVec 32) (q : GuardQ) (s : State) : exec (.aLim d imm q) s = execALim d imm q s := rfl
theorem exec_aCmp (cond : Cond) (qd : BitVec 2) (a : RegB) (b : RegB) (q : GuardQ) (s : State) : exec (.aCmp cond qd a b q) s = execACmp cond qd a b q s := rfl
theorem exec_aBr (qt : BitVec 2) (tm : Bool) (off : BitVec 17) (s : State) : exec (.aBr qt tm off) s = execABr qt tm off s := rfl
theorem exec_aJmp (imm : BitVec 32) (q : GuardQ) (s : State) : exec (.aJmp imm q) s = execAJmp imm q s := rfl
theorem exec_aLoop (k : LoopNo) (a : RegB) (imm : BitVec 32) (q : GuardQ) (s : State) : exec (.aLoop k a imm q) s = execALoop k a imm q s := rfl
theorem exec_aTkput (f : Fifo) (a : RegB) (q : GuardQ) (s : State) : exec (.aTkput f a q) s = execATkput f a q s := rfl
theorem exec_aTkget (d : RegB) (f : Fifo) (q : GuardQ) (s : State) : exec (.aTkget d f q) s = execATkget d f q s := rfl
theorem exec_aSopen (st : StreamNo) (b : RegB) (imm : BitVec 14) (q : GuardQ) (s : State) : exec (.aSopen st b imm q) s = execASopen st b imm q s := rfl
theorem exec_aSclose (st : StreamNo) (q : GuardQ) (s : State) : exec (.aSclose st q) s = execASclose st q s := rfl
theorem exec_aLd (st : StreamNo) (b : RegB) (n : BitVec 14) (q : GuardQ) (s : State) : exec (.aLd st b n q) s = execALd st b n q s := rfl
theorem exec_aSt (st : StreamNo) (b : RegB) (n : BitVec 14) (q : GuardQ) (s : State) : exec (.aSt st b n q) s = execASt st b n q s := rfl
theorem exec_aGath (st : StreamNo) (b : RegB) (si : StreamNo) (n : BitVec 10) (q : GuardQ) (s : State) : exec (.aGath st b si n q) s = execAGath st b si n q s := rfl
theorem exec_aScat (st : StreamNo) (b : RegB) (si : StreamNo) (n : BitVec 10) (q : GuardQ) (s : State) : exec (.aScat st b si n q) s = execAScat st b si n q s := rfl
theorem exec_aPref (st : StreamNo) (b : RegB) (n : BitVec 14) (q : GuardQ) (s : State) : exec (.aPref st b n q) s = execAPref st b n q s := rfl
theorem exec_aFence (kind : FenceKind) (sc : Scope) (q : GuardQ) (s : State) : exec (.aFence kind sc q) s = execAFence kind sc q s := rfl
theorem exec_aLdb (d : RegB) (a : RegB) (imm : BitVec 12) (q : GuardQ) (s : State) : exec (.aLdb d a imm q) s = execALdb d a imm q s := rfl
theorem exec_aCpy (d : RegB) (a : RegB) (q : GuardQ) (s : State) : exec (.aCpy d a q) s = execACpy d a q s := rfl
theorem exec_mNop (s : State) : exec .mNop s = execMNop s := rfl
theorem exec_mDone (s : State) : exec .mDone s = execMDone s := rfl
theorem exec_mSet (fld : Shadow) (c : RegC) (imm : BitVec 11) (s : State) : exec (.mSet fld c imm) s = execMSet fld c imm s := rfl
theorem exec_mGo (s : State) : exec .mGo s = execMGo s := rfl
theorem exec_mWait (d : RegC) (a : RegC) (s : State) : exec (.mWait d a) s = execMWait d a s := rfl
theorem exec_mCimld (s : State) : exec .mCimld s = execMCimld s := rfl
theorem exec_mMma (s : State) : exec .mMma s = execMMma s := rfl
theorem exec_mAclr (s : State) : exec .mAclr s = execMAclr s := rfl
theorem exec_mCvt (s : State) : exec .mCvt s = execMCvt s := rfl
theorem exec_mSlice (s : State) : exec .mSlice s = execMSlice s := rfl
theorem exec_mBcast (s : State) : exec .mBcast s = execMBcast s := rfl
theorem exec_mRed (s : State) : exec .mRed s = execMRed s := rfl
theorem exec_mBr (c : RegC) (tm : Bool) (off : BitVec 17) (s : State) : exec (.mBr c tm off) s = execMBr c tm off s := rfl
theorem exec_mLoop (k : LoopNo) (a : RegC) (imm : BitVec 32) (s : State) : exec (.mLoop k a imm) s = execMLoop k a imm s := rfl
theorem exec_mTkput (f : Fifo) (a : RegC) (s : State) : exec (.mTkput f a) s = execMTkput f a s := rfl
theorem exec_mTkget (d : RegC) (f : Fifo) (s : State) : exec (.mTkget d f) s = execMTkget d f s := rfl
theorem exec_mAdd (d : RegC) (a : RegC) (b : RegC) (s : State) : exec (.mAdd d a b) s = execMAdd d a b s := rfl
theorem exec_mSub (d : RegC) (a : RegC) (b : RegC) (s : State) : exec (.mSub d a b) s = execMSub d a b s := rfl
theorem exec_mMov (d : RegC) (a : RegC) (s : State) : exec (.mMov d a) s = execMMov d a s := rfl
theorem exec_mAddi (d : RegC) (a : RegC) (imm : BitVec 12) (s : State) : exec (.mAddi d a imm) s = execMAddi d a imm s := rfl
theorem exec_mLim (d : RegC) (imm : BitVec 32) (s : State) : exec (.mLim d imm) s = execMLim d imm s := rfl
theorem exec_enxSend (rd : RegX) (rs1 : RegX) (s : State) : exec (.enxSend rd rs1) s = execEnxSend rd rs1 s := rfl
theorem exec_enxFres (rd : RegX) (rs1 : RegX) (rs2 : RegX) (rs3 : RegX) (s : State) : exec (.enxFres rd rs1 rs2 rs3) s = execEnxFres rd rs1 rs2 rs3 s := rfl
theorem exec_enxFpoll (rd : RegX) (rs1 : RegX) (s : State) : exec (.enxFpoll rd rs1) s = execEnxFpoll rd rs1 s := rfl
theorem exec_enxFwait (rd : RegX) (rs1 : RegX) (rs2 : RegX) (s : State) : exec (.enxFwait rd rs1 rs2) s = execEnxFwait rd rs1 rs2 s := rfl
theorem exec_enxTlread (rd : RegX) (rs1 : RegX) (s : State) : exec (.enxTlread rd rs1) s = execEnxTlread rd rs1 s := rfl
theorem exec_enxCapset (idx : BitVec 3) (rs1 : RegX) (rs2 : RegX) (rs3 : RegX) (s : State) : exec (.enxCapset idx rs1 rs2 rs3) s = execEnxCapset idx rs1 rs2 rs3 s := rfl
theorem exec_enxCapclr (idx : BitVec 3) (s : State) : exec (.enxCapclr idx) s = execEnxCapclr idx s := rfl
theorem exec_enxCapget (rd : RegX) (rs1 : RegX) (s : State) : exec (.enxCapget rd rs1) s = execEnxCapget rd rs1 s := rfl
theorem exec_evHartWaiterRelease (core : Nat) (s : State) : exec (.evHartWaiterRelease core) s = execEvHartWaiterRelease core s := rfl
theorem exec_evFwaitInterruptWithdraw (core : Nat) (s : State) : exec (.evFwaitInterruptWithdraw core) s = execEvFwaitInterruptWithdraw core s := rfl
theorem exec_evHartMemoryAccess (core : Nat) (acc : HartAcc) (s : State) : exec (.evHartMemoryAccess core acc) s = execEvHartMemoryAccess core acc s := rfl
theorem exec_evLineFetch (cell : Nat) (ctx : Nat) (eng : Eng) (s : State) : exec (.evLineFetch cell ctx eng) s = execEvLineFetch cell ctx eng s := rfl
theorem exec_evJoinRendezvous (cell : Nat) (ctx : Nat) (s : State) : exec (.evJoinRendezvous cell ctx) s = execEvJoinRendezvous cell ctx s := rfl
theorem exec_evParcelArrive (n : Nat) (s : State) : exec (.evParcelArrive n) s = execEvParcelArrive n s := rfl
theorem exec_evVerdictReturn (n : Nat) (s : State) : exec (.evVerdictReturn n) s = execEvVerdictReturn n s := rfl
theorem exec_evDeferredParcelRetry (cell : Nat) (chan : Nat) (s : State) : exec (.evDeferredParcelRetry cell chan) s = execEvDeferredParcelRetry cell chan s := rfl
theorem exec_evChannelSelect (cell : Nat) (s : State) : exec (.evChannelSelect cell) s = execEvChannelSelect cell s := rfl
theorem exec_evInvocationEnd (cell : Nat) (ctx : Nat) (s : State) : exec (.evInvocationEnd cell ctx) s = execEvInvocationEnd cell ctx s := rfl
theorem exec_evWatchdogExpiry (cell : Nat) (ctx : Nat) (s : State) : exec (.evWatchdogExpiry cell ctx) s = execEvWatchdogExpiry cell ctx s := rfl
theorem exec_evPendingTrapRetry (cell : Nat) (ctx : Nat) (s : State) : exec (.evPendingTrapRetry cell ctx) s = execEvPendingTrapRetry cell ctx s := rfl
theorem exec_evTaskParcelArrive (n : Nat) (s : State) : exec (.evTaskParcelArrive n) s = execEvTaskParcelArrive n s := rfl
theorem exec_evTaskQueueToMailbox (cell : Nat) (s : State) : exec (.evTaskQueueToMailbox cell) s = execEvTaskQueueToMailbox cell s := rfl
theorem exec_evTaskBalanceInterval (cell : Nat) (s : State) : exec (.evTaskBalanceInterval cell) s = execEvTaskBalanceInterval cell s := rfl
theorem exec_evBalanceTransferArrive (n : Nat) (s : State) : exec (.evBalanceTransferArrive n) s = execEvBalanceTransferArrive n s := rfl
theorem exec_evWorklistBalanceInterval (cell : Nat) (s : State) : exec (.evWorklistBalanceInterval cell) s = execEvWorklistBalanceInterval cell s := rfl
theorem exec_evWorklistReduction (part : Nat) (s : State) : exec (.evWorklistReduction part) s = execEvWorklistReduction part s := rfl
theorem exec_evWakeParcel (cell : Nat) (s : State) : exec (.evWakeParcel cell) s = execEvWakeParcel cell s := rfl
theorem exec_evSpillReturn (cell : Nat) (s : State) : exec (.evSpillReturn cell) s = execEvSpillReturn cell s := rfl
theorem exec_evFutureDeadline (die : Nat) (slot : Nat) (s : State) : exec (.evFutureDeadline die slot) s = execEvFutureDeadline die slot s := rfl
theorem exec_evTokenInjection (die : Nat) (slot : Nat) (s : State) : exec (.evTokenInjection die slot) s = execEvTokenInjection die slot s := rfl
theorem exec_evLaunchSubmit (part : Nat) (addr : Nat) (user : Bool) (s : State) : exec (.evLaunchSubmit part addr user) s = execEvLaunchSubmit part addr user s := rfl
theorem exec_evLaunchProceed (n : Nat) (s : State) : exec (.evLaunchProceed n) s = execEvLaunchProceed n s := rfl
theorem exec_evCopyRunArrive (n : Nat) (off : Nat) (len : Nat) (s : State) : exec (.evCopyRunArrive n off len) s = execEvCopyRunArrive n off len s := rfl
theorem exec_evSlabLanding (n : Nat) (s : State) : exec (.evSlabLanding n) s = execEvSlabLanding n s := rfl
theorem exec_evFollowOnAccept (n : Nat) (cell : Nat) (s : State) : exec (.evFollowOnAccept n cell) s = execEvFollowOnAccept n cell s := rfl
theorem exec_evFollowOnStart (cell : Nat) (s : State) : exec (.evFollowOnStart cell) s = execEvFollowOnStart cell s := rfl
theorem exec_evCopyComplete (n : Nat) (s : State) : exec (.evCopyComplete n) s = execEvCopyComplete n s := rfl
theorem exec_evStreamGroupLand (cell : Nat) (ctx : Nat) (st : StreamNo) (s : State) : exec (.evStreamGroupLand cell ctx st) s = execEvStreamGroupLand cell ctx st s := rfl
theorem exec_evStoreGroupWritten (cell : Nat) (ctx : Nat) (st : StreamNo) (s : State) : exec (.evStoreGroupWritten cell ctx st) s = execEvStoreGroupWritten cell ctx st s := rfl
theorem exec_evCopyLandingGroupIssue (cell : Nat) (ctx : Nat) (st : StreamNo) (s : State) : exec (.evCopyLandingGroupIssue cell ctx st) s = execEvCopyLandingGroupIssue cell ctx st s := rfl
theorem exec_evStoreBufferDrain (cell : Nat) (ctx : Nat) (n : Nat) (s : State) : exec (.evStoreBufferDrain cell ctx n) s = execEvStoreBufferDrain cell ctx n s := rfl
theorem exec_evL1LeaseExpiry (cell : Nat) (n : Nat) (s : State) : exec (.evL1LeaseExpiry cell n) s = execEvL1LeaseExpiry cell n s := rfl
theorem exec_evMatrixFlipStart (cell : Nat) (s : State) : exec (.evMatrixFlipStart cell) s = execEvMatrixFlipStart cell s := rfl
theorem exec_evMatrixCommandComplete (cell : Nat) (pipe : Pipe) (s : State) : exec (.evMatrixCommandComplete cell pipe) s = execEvMatrixCommandComplete cell pipe s := rfl
theorem exec_evBroadcastRowArrive (cell : Nat) (s : State) : exec (.evBroadcastRowArrive cell) s = execEvBroadcastRowArrive cell s := rfl
theorem exec_evPartialRowAdd (n : Nat) (s : State) : exec (.evPartialRowAdd n) s = execEvPartialRowAdd n s := rfl
theorem exec_evStagerCurRead (part : Nat) (s : State) : exec (.evStagerCurRead part) s = execEvStagerCurRead part s := rfl
theorem exec_evStagerTileReady (part : Nat) (slot : Nat) (s : State) : exec (.evStagerTileReady part slot) s = execEvStagerTileReady part slot s := rfl
theorem exec_evTableWalk (cell : Nat) (va : BitVec 64) (need : Need) (kmode : Bool) (s : State) : exec (.evTableWalk cell va need kmode) s = execEvTableWalk cell va need kmode s := rfl
theorem exec_evHeldFaultReraise (part : Nat) (s : State) : exec (.evHeldFaultReraise part) s = execEvHeldFaultReraise part s := rfl
theorem exec_evFbhdrWrite (part : Nat) (value : BitVec 64) (s : State) : exec (.evFbhdrWrite part value) s = execEvFbhdrWrite part value s := rfl
theorem exec_evKmodeTrap (n : Nat) (s : State) : exec (.evKmodeTrap n) s = execEvKmodeTrap n s := rfl
theorem exec_evServiceThreshold (n : Nat) (s : State) : exec (.evServiceThreshold n) s = execEvServiceThreshold n s := rfl
theorem exec_evServiceGrace (n : Nat) (s : State) : exec (.evServiceGrace n) s = execEvServiceGrace n s := rfl
theorem exec_evServiceSpillArea (n : Nat) (s : State) : exec (.evServiceSpillArea n) s = execEvServiceSpillArea n s := rfl
theorem exec_evServiceSchedule (n : Nat) (s : State) : exec (.evServiceSchedule n) s = execEvServiceSchedule n s := rfl
theorem exec_evServiceLaunch (n : Nat) (s : State) : exec (.evServiceLaunch n) s = execEvServiceLaunch n s := rfl
theorem exec_evServiceYield (n : Nat) (s : State) : exec (.evServiceYield n) s = execEvServiceYield n s := rfl
theorem exec_evGatewayForward (n : Nat) (s : State) : exec (.evGatewayForward n) s = execEvGatewayForward n s := rfl
theorem exec_evFilterBucketRefill (n : Nat) (s : State) : exec (.evFilterBucketRefill n) s = execEvFilterBucketRefill n s := rfl
theorem exec_evSliceEnd (n : Nat) (s : State) : exec (.evSliceEnd n) s = execEvSliceEnd n s := rfl
theorem exec_evSliceRestore (n : Nat) (s : State) : exec (.evSliceRestore n) s = execEvSliceRestore n s := rfl
theorem exec_evGraceExpiry (cell : Nat) (ctx : Nat) (s : State) : exec (.evGraceExpiry cell ctx) s = execEvGraceExpiry cell ctx s := rfl
theorem exec_evCellAssign (cell : Nat) (part : Nat) (lcell : Nat) (kchan : BitVec 64) (s : State) : exec (.evCellAssign cell part lcell kchan) s = execEvCellAssign cell part lcell kchan s := rfl
theorem exec_evPartitionCreate (part : Nat) (cfg : PartCfg) (s : State) : exec (.evPartitionCreate part cfg) s = execEvPartitionCreate part cfg s := rfl
theorem exec_evPartitionDestroy (part : Nat) (s : State) : exec (.evPartitionDestroy part) s = execEvPartitionDestroy part s := rfl
theorem exec_evScrub (cells : List Nat) (part : Nat) (kind : Nat) (s : State) : exec (.evScrub cells part kind) s = execEvScrub cells part kind s := rfl
theorem exec_evBankScrub (bank : Nat) (s : State) : exec (.evBankScrub bank) s = execEvBankScrub bank s := rfl
theorem exec_evSegmentUpdate (vf : Option Nat) (part : Nat) (seg : Segment) (s : State) : exec (.evSegmentUpdate vf part seg) s = execEvSegmentUpdate vf part seg s := rfl
theorem exec_evReadShared (agent : Nat) (ask : LineAsk) (s : State) : exec (.evReadShared agent ask) s = execEvReadShared agent ask s := rfl
theorem exec_evReadOwn (agent : Nat) (ask : LineAsk) (store : Option (Nat × List Byte)) (s : State) : exec (.evReadOwn agent ask store) s = execEvReadOwn agent ask store s := rfl
theorem exec_evUpgrade (agent : Nat) (ask : StoreAsk) (s : State) : exec (.evUpgrade agent ask) s = execEvUpgrade agent ask s := rfl
theorem exec_evWriteback (agent : Nat) (line : Nat) (s : State) : exec (.evWriteback agent line) s = execEvWriteback agent line s := rfl
theorem exec_evCleanEvict (agent : Nat) (line : Nat) (s : State) : exec (.evCleanEvict agent line) s = execEvCleanEvict agent line s := rfl
theorem exec_evStrongStoreOrAtomic (place : HomeLine) (off : Nat) (bytes : List Byte) (s : State) : exec (.evStrongStoreOrAtomic place off bytes) s = execEvStrongStoreOrAtomic place off bytes s := rfl
theorem exec_evDirectoryEccError (line : Nat) (s : State) : exec (.evDirectoryEccError line) s = execEvDirectoryEccError line s := rfl
theorem exec_evTagParityError (place : BankSet) (s : State) : exec (.evTagParityError place) s = execEvTagParityError place s := rfl
theorem exec_evUncorrectableError (where_ : ErrAt) (s : State) : exec (.evUncorrectableError where_) s = execEvUncorrectableError where_ s := rfl
theorem exec_evCorrectedError (s : State) : exec .evCorrectedError s = execEvCorrectedError s := rfl
theorem exec_evModuleReset (strap0 : Bool) (strap1 : Bool) (ok2 : Bool) (ok3 : Bool) (lanes : Nat) (s : State) : exec (.evModuleReset strap0 strap1 ok2 ok3 lanes) s = execEvModuleReset strap0 strap1 ok2 ok3 lanes s := rfl
theorem exec_evLdBind (port : Nat) (ld : Nat) (part : Nat) (s : State) : exec (.evLdBind port ld part) s = execEvLdBind port ld part s := rfl
theorem exec_evNotifyWrite (fn : HostFn) (qi : Nat) (value : BitVec 32) (s : State) : exec (.evNotifyWrite fn qi value) s = execEvNotifyWrite fn qi value s := rfl
theorem exec_evRequestLaunch (fn : HostFn) (qi : Nat) (req : BitVec 512) (s : State) : exec (.evRequestLaunch fn qi req) s = execEvRequestLaunch fn qi req s := rfl
theorem exec_evRequestParcel (fn : HostFn) (qi : Nat) (req : BitVec 512) (s : State) : exec (.evRequestParcel fn qi req) s = execEvRequestParcel fn qi req s := rfl
theorem exec_evRequestResolve (fn : HostFn) (qi : Nat) (req : BitVec 512) (s : State) : exec (.evRequestResolve fn qi req) s = execEvRequestResolve fn qi req s := rfl
theorem exec_evRequestPoll (fn : HostFn) (qi : Nat) (req : BitVec 512) (s : State) : exec (.evRequestPoll fn qi req) s = execEvRequestPoll fn qi req s := rfl
theorem exec_evRequestResync (fn : HostFn) (qi : Nat) (req : BitVec 512) (s : State) : exec (.evRequestResync fn qi req) s = execEvRequestResync fn qi req s := rfl
theorem exec_evMsixUnmask (fn : HostFn) (entry : Nat) (s : State) : exec (.evMsixUnmask fn entry) s = execEvMsixUnmask fn entry s := rfl
theorem exec_evPasidRevoke (fn : HostFn) (entry : Nat) (s : State) : exec (.evPasidRevoke fn entry) s = execEvPasidRevoke fn entry s := rfl
theorem exec_evBar2Access (win : HostWin) (off : Nat) (acc : HostAcc) (s : State) : exec (.evBar2Access win off acc) s = execEvBar2Access win off acc s := rfl
theorem exec_evPlimWrite (value : BitVec 64) (s : State) : exec (.evPlimWrite value) s = execEvPlimWrite value s := rfl
theorem exec_evClockStep (s : State) : exec .evClockStep s = execEvClockStep s := rfl
theorem exec_evPgateWrite (cell : Nat) (value : BitVec 64) (s : State) : exec (.evPgateWrite cell value) s = execEvPgateWrite cell value s := rfl
theorem exec_evBankWake (cell : Nat) (bank : Nat) (s : State) : exec (.evBankWake cell bank) s = execEvBankWake cell bank s := rfl
theorem exec_evUeDescriptorTake (part : Nat) (s : State) : exec (.evUeDescriptorTake part) s = execEvUeDescriptorTake part s := rfl
theorem exec_evUeTaggedReply (part : Nat) (tag : BitVec 64) (payload : List Byte) (s : State) : exec (.evUeTaggedReply part tag payload) s = execEvUeTaggedReply part tag payload s := rfl
theorem exec_evUeMessageReceive (part : Nat) (job : BitVec 32) (msg : List Byte) (s : State) : exec (.evUeMessageReceive part job msg) s = execEvUeMessageReceive part job msg s := rfl
theorem exec_evRegisterWrite (reg : DevReg) (value : BitVec 64) (s : State) : exec (.evRegisterWrite reg value) s = execEvRegisterWrite reg value s := rfl
theorem exec_evPrefetcherAccess (cell : Nat) (va : BitVec 64) (s : State) : exec (.evPrefetcherAccess cell va) s = execEvPrefetcherAccess cell va s := rfl
theorem exec_evMessageFilterWrite (n : Nat) (entry : BitVec 128) (s : State) : exec (.evMessageFilterWrite n entry) s = execEvMessageFilterWrite n entry s := rfl
theorem exec_evCoreAssign (core : Nat) (part : Nat) (s : State) : exec (.evCoreAssign core part) s = execEvCoreAssign core part s := rfl
theorem exec_evVfAssign (vf : Nat) (part : Nat) (s : State) : exec (.evVfAssign vf part) s = execEvVfAssign vf part s := rfl
theorem exec_evConfigurationRequest (port : Nat) (req : CfgReq) (s : State) : exec (.evConfigurationRequest port req) s = execEvConfigurationRequest port req s := rfl
theorem exec_evMalformedRequest (fn : HostFn) (qi : Nat) (req : BitVec 512) (s : State) : exec (.evMalformedRequest fn qi req) s = execEvMalformedRequest fn qi req s := rfl

end Sys2Proof.Machine
end

