-- ==== Sys2Proof/Laws/Memory.lean ====
section
/-! SUPPORT. What the operations over memory do: they keep its canonical form, and they write the bytes they are given and no other. -/

namespace Sys2Proof.Machine
open Sys2Proof

/-! The canonical form (log 2). -/

/-- A fold of steps that each keep a property keeps it. -/
theorem foldl_keeps {α β : Type} (P : α → Prop) (f : α → β → α) (l : List β) (a : α) (h : P a) (hf : ∀ a b, P a → P (f a b)) : P (l.foldl f a) := by
  induction l generalizing a with
  | nil => exact h
  | cons b t ih => exact ih _ (hf a b h)

theorem State.rekey_wf (s : State) (line : Nat) (h : Memory.wf s.mem) : Memory.wf (s.rekey line).mem := by
  unfold State.rekey; split
  · exact h
  · exact foldl_keeps (fun m : List Host.Cell => Memory.wf m) _ _ _ h fun m i hm => mwf_mset 0 m _ _ hm

theorem State.memSet_wf (s : State) (w : Nat × Byte) (h : Memory.wf s.mem) : Memory.wf (s.memSet w).mem := mwf_mset 0 _ _ _ (s.rekey_wf _ h)

theorem State.memPut_wf (s : State) (ws : List (Nat × Byte)) (h : Memory.wf s.mem) : Memory.wf (s.memPut ws).mem :=
  foldl_keeps (fun t : State => Memory.wf t.mem) _ _ _ h fun t w ht => t.memSet_wf w ht

theorem State.collect_wf (s : State) (line : Nat) (h : Memory.wf s.mem) : Memory.wf (s.collect line).mem := by
  unfold State.collect; split
  · exact s.memPut_wf _ h
  · exact h

/-- A snoop of an agent changes what its host hears and whether its own requests have met a conflict (R388, R402), and nothing else. -/
theorem State.snooped_eq (s : State) (line a : Nat) (o : Nat → HostOut) :
    s.snooped line a o = { s with hostOut := (s.snooped line a o).hostOut, asks := (s.snooped line a o).asks } := by
  unfold State.snooped State.conflict State.tellHost; split <;> rfl
theorem State.tellInv_eq (s : State) (line : Nat) (but : Option Nat) :
    s.tellInv line but = { s with hostOut := (s.tellInv line but).hostOut, asks := (s.tellInv line but).asks } := by
  unfold State.tellInv
  refine foldl_keeps (fun t : State => t = { s with hostOut := t.hostOut, asks := t.asks }) _ _ _ rfl fun t a ht => ?_
  split
  · exact ht
  · rw [State.snooped_eq, ht]

@[simp] theorem State.snooped_mem (s : State) (l a : Nat) (o : Nat → HostOut) : (s.snooped l a o).mem = s.mem := (congrArg State.mem (s.snooped_eq l a o)).trans rfl
@[simp] theorem State.snooped_dirOf (s : State) (l a : Nat) (o : Nat → HostOut) (m : Nat) : (s.snooped l a o).dirOf m = s.dirOf m :=
  (congrArg (fun t : State => t.dirOf m) (s.snooped_eq l a o)).trans rfl
@[simp] theorem State.snooped_memByte (s : State) (l a : Nat) (o : Nat → HostOut) (x : Nat) : (s.snooped l a o).memByte x = s.memByte x :=
  (congrArg (fun t : State => t.memByte x) (s.snooped_eq l a o)).trans rfl
@[simp] theorem State.tellInv_mem (s : State) (line : Nat) (but : Option Nat) : (s.tellInv line but).mem = s.mem :=
  (congrArg State.mem (s.tellInv_eq line but)).trans rfl
@[simp] theorem State.tellInv_dirOf (s : State) (line : Nat) (but : Option Nat) (l : Nat) : (s.tellInv line but).dirOf l = s.dirOf l :=
  (congrArg (fun t : State => t.dirOf l) (s.tellInv_eq line but)).trans rfl
@[simp] theorem State.tellInv_memByte (s : State) (line : Nat) (but : Option Nat) (x : Nat) : (s.tellInv line but).memByte x = s.memByte x :=
  (congrArg (fun t : State => t.memByte x) (s.tellInv_eq line but)).trans rfl
@[simp] theorem State.tellInv_latest (s : State) (line : Nat) (but : Option Nat) (x : Nat) : (s.tellInv line but).latest x = s.latest x := by
  simp [State.latest]

@[simp] theorem State.snoopRead_mem (s : State) (line : Nat) : (s.snoopRead line).mem = s.mem := by
  unfold State.snoopRead; split <;> simp
@[simp] theorem State.snoopE_mem (s : State) (line : Nat) : (s.snoopE line).mem = s.mem := by
  unfold State.snoopE; dsimp only; split <;> simp

theorem State.giveUp_wf (s : State) (line : Nat) (h : Memory.wf s.mem) : Memory.wf (s.giveUp line).mem := State.collect_wf _ line (by simpa using h)

theorem State.snoopWrite_wf (s : State) (line : Nat) (h : Memory.wf s.mem) : Memory.wf (s.snoopWrite line).mem :=
  State.collect_wf _ line (by simpa using h)

@[simp] theorem State.homeRead_mem (s : State) (pa n : Nat) : (s.homeRead pa n).1.mem = s.mem := by simp [State.homeRead]

theorem State.lineWrite_wf (s : State) (line : Nat) (ws : List (Nat × Byte)) (h : Memory.wf s.mem) : Memory.wf (s.lineWrite line ws).mem := by
  have := State.memPut_wf _ ws (s.snoopWrite_wf line h)
  unfold State.lineWrite; dsimp only; split <;> exact this

theorem State.spoilPages_wf (s : State) (ps : List Nat) (h : Memory.wf s.mem) : Memory.wf (s.spoilPages ps).mem :=
  foldl_keeps (fun t : State => Memory.wf t.mem) _ _ _ h fun t p ht => by rw [State.tookMany_mem]; exact t.memPut_wf _ ht

theorem State.homeWrite_wf (s : State) (line : Nat) (ws : List (Nat × Byte)) (h : Memory.wf s.mem) : Memory.wf (s.homeWrite line ws).mem :=
  State.spoilPages_wf _ _ (s.lineWrite_wf line ws h)

theorem State.homePut_wf (s : State) (n pa : Nat) (bs : List Byte) (h : Memory.wf s.mem) : Memory.wf (s.homePut n pa bs).mem := by
  induction n generalizing s pa bs with
  | zero => exact h
  | succ n ih => cases bs with
    | nil => exact h
    | cons b t => exact ih _ _ _ (s.homeWrite_wf _ _ h)

theorem State.putBytes_wf (s : State) (pa : Nat) (bs : List Byte) (h : Memory.wf s.mem) : Memory.wf (s.putBytes pa bs).mem := s.homePut_wf _ _ _ h

@[simp] theorem State.allocIn_mem (s : State) (b p : Nat) : (s.allocIn b p).mem = s.mem := by unfold State.allocIn; split <;> rfl

theorem State.drainEntry_wf (s : State) (cell ctx : Nat) (e : SbLine) (h : Memory.wf s.mem) : Memory.wf (s.drainEntry cell ctx e).mem := by
  unfold State.drainEntry; dsimp only; rw [State.allocIn_mem]; exact State.homeWrite_wf _ _ _ (by simpa using h)

theorem State.drainCtx_wf (s : State) (cell ctx : Nat) (h : Memory.wf s.mem) : Memory.wf (s.drainCtx cell ctx).mem :=
  foldl_keeps (fun t : State => Memory.wf t.mem) _ _ _ h fun t e ht => t.drainEntry_wf cell ctx e ht

theorem State.drainFor_wf (s : State) (cell ctx : Nat) (p : SbLine → Bool) (h : Memory.wf s.mem) : Memory.wf (s.drainFor cell ctx p).mem :=
  foldl_keeps (fun t : State => Memory.wf t.mem) _ _ _ h fun t e ht => t.drainEntry_wf cell ctx e ht

theorem State.drainLine_wf (s : State) (cell ctx line : Nat) (h : Memory.wf s.mem) : Memory.wf (s.drainLine cell ctx line).mem := s.drainFor_wf cell ctx _ h
theorem State.drainBank_wf (s : State) (cell ctx line bank : Nat) (h : Memory.wf s.mem) : Memory.wf (s.drainBank cell ctx line bank).mem :=
  s.drainFor_wf cell ctx _ h

/-- A buffered store changes no byte of memory. -/
theorem State.bufferStore_mem (s t : State) (cell ctx : Nat) (l : Loc) (bs : List Byte) (o : Ord) (h : s.bufferStore cell ctx l bs o = some t) :
    t.mem = s.mem := by
  obtain ⟨sb, -, rfl⟩ := Option.map_eq_some_iff.1 h; rfl

@[simp] theorem State.acquire_mem (s : State) (cell ctx : Nat) (e : Eng) : (s.acquire cell ctx e).mem = s.mem := rfl

@[simp] theorem State.throughRdc_mem (s : State) (cell : Nat) (l : Loc) : (s.throughRdc cell l).mem = s.mem := by
  unfold State.throughRdc; split
  · rfl
  · simp

@[simp] theorem State.l1Choice_mem (s : State) (hits : List L1Line) : (s.l1Choice hits).1.mem = s.mem := by unfold State.l1Choice; split <;> rfl

/-- A weak load changes no byte of memory. -/
@[simp] theorem State.weakRead_mem (s : State) (cell ctx : Nat) (e : Eng) (l : Loc) (n : Nat) : (s.weakRead cell ctx e l n).1.mem = s.mem := by
  unfold State.weakRead; dsimp only
  have hc := s.l1Choice_mem ((s.cell cell).l1Hits s.cycle.toNat (((s.cell cell).ctx ctx).eng e).horizon (l.pa / 64))
  split
  · next h => rw [h] at hc; exact hc
  · next h => rw [h] at hc; split <;> simpa using hc

@[simp] theorem State.storeRead_mem (s : State) (cell off n : Nat) : (s.storeRead cell off n).1.mem = s.mem := by
  unfold State.storeRead; dsimp only; split <;> rfl
@[simp] theorem State.spoilMail_mem (s : State) (cell off n : Nat) : (s.spoilMail cell off n).mem = s.mem := by
  unfold State.spoilMail; dsimp only; split <;> rfl
@[simp] theorem State.storeWrite_mem (s : State) (cell off : Nat) (bs : List Byte) : (s.storeWrite cell off bs).mem = s.mem := by
  simp [State.storeWrite]

/-! Bytes. -/

/-- The byte that a list of writes leaves at an address, when it writes there. -/
def written (ws : List (Nat × Byte)) (pa : Nat) : Option Byte :=
  match ws with
  | [] => none
  | w :: t => match written t pa with
    | some b => some b
    | none => if w.1 = pa then some w.2 else none

/-- The bytes of a line written from its first on. -/
theorem mget_foldl_line (f : Nat → Byte) (m : SMap Byte) (a n pa : Nat) :
    mget 0 ((List.range n).foldl (fun m i => mset 0 m (a + i) (f i)) m) pa = if a ≤ pa ∧ pa < a + n then f (pa - a) else mget 0 m pa := by
  induction n with
  | zero => rw [if_neg (by omega)]; rfl
  | succ n ih =>
    rw [List.range_succ, List.foldl_append, List.foldl_cons, List.foldl_nil, mget_mset, ih]
    by_cases h : a + n = pa
    · subst h; simp
    · rw [if_neg h]
      by_cases h2 : a ≤ pa ∧ pa < a + n
      · rw [if_pos h2, if_pos (by omega)]
      · rw [if_neg h2, if_neg (by omega)]

/-- A byte of memory is its line's bytes, its key and its writer's key. -/
theorem State.memByte_congr (s t : State) (pa : Nat) (hk : t.lineKey (pa / 64) = s.lineKey (pa / 64)) (hw : t.wroteKey (pa / 64) = s.wroteKey (pa / 64))
    (hm : ∀ a, a / 64 = pa / 64 → mget 0 t.mem a = mget 0 s.mem a) : t.memByte pa = s.memByte pa := by
  have hp : t.plainLine (pa / 64) = s.plainLine (pa / 64) := by
    unfold State.plainLine
    refine congrArg vecOf (List.map_congr_left fun i hi => hm _ ?_)
    have := List.mem_range.1 hi; omega
  unfold State.memByte; dsimp only
  rw [hk, hw, hp, hm pa rfl]

/-- A byte of a line that its block's key wrote reads as it stands. -/
theorem State.memByte_own (s : State) (pa : Nat) (h : s.wroteKey (pa / 64) = s.lineKey (pa / 64)) : s.memByte pa = mget 0 s.mem pa := if_pos h

/-- Storing a line anew under its block's key changes no byte of it, or of another (R393). -/
@[simp] theorem State.rekey_memByte (s : State) (line pa : Nat) : (s.rekey line).memByte pa = s.memByte pa := by
  unfold State.rekey
  split
  · rfl
  · by_cases h : pa / 64 = line
    · subst h
      rw [State.memByte_own _ _ (by simp [State.wroteKey, State.lineKey])]
      exact (mget_foldl_line _ _ _ _ _).trans ((if_pos (by omega)).trans (congrArg s.memByte (by omega)))
    · refine State.memByte_congr s _ pa rfl ?_ fun a ha => ?_
      · simp [State.wroteKey, Ne.symm h]
      · dsimp only; rw [mget_foldl_line, if_neg (by omega)]

theorem State.rekey_wroteKey (s : State) (line : Nat) : (s.rekey line).wroteKey line = (s.rekey line).lineKey line := by
  unfold State.rekey; split
  · assumption
  · simp [State.wroteKey, State.lineKey]

/-- Memory after the write of a byte. -/
theorem State.memByte_memSet (s : State) (w : Nat × Byte) (pa : Nat) : (s.memSet w).memByte pa = if w.1 = pa then w.2 else s.memByte pa := by
  rw [← s.rekey_memByte (w.1 / 64) pa]
  by_cases h : pa / 64 = w.1 / 64
  · have hw : (s.memSet w).wroteKey (pa / 64) = (s.memSet w).lineKey (pa / 64) := by rw [h]; exact s.rekey_wroteKey (w.1 / 64)
    have hr : (s.rekey (w.1 / 64)).wroteKey (pa / 64) = (s.rekey (w.1 / 64)).lineKey (pa / 64) := by rw [h]; exact s.rekey_wroteKey (w.1 / 64)
    rw [State.memByte_own _ _ hw, State.memByte_own _ _ hr]; exact mget_mset 0 _ _ _ _
  · rw [if_neg fun e => h (by rw [e])]
    refine State.memByte_congr _ _ pa rfl rfl fun a ha => ?_
    exact (mget_mset 0 _ _ _ _).trans (if_neg fun e => h (by rw [← ha, e]))

/-- Memory after writes. -/
theorem State.memByte_memPut (s : State) (ws : List (Nat × Byte)) (pa : Nat) : (s.memPut ws).memByte pa = (written ws pa).getD (s.memByte pa) := by
  induction ws generalizing s with
  | nil => rfl
  | cons w t ih =>
    rw [show s.memPut (w :: t) = (s.memSet w).memPut t from rfl, ih, written, State.memByte_memSet]
    cases written t pa with
    | some b => rfl
    | none => dsimp only; split <;> rfl

/-- Consecutive bytes write exactly their range. -/
theorem written_addrBytes (pa : Nat) (bs : List Byte) (x : Nat) :
    written (addrBytes pa bs) x = if pa ≤ x ∧ x < pa + bs.length then some (bs.getD (x - pa) 0) else none := by
  induction bs generalizing pa with
  | nil => rw [addrBytes, written, if_neg (by simp only [List.length_nil]; omega)]
  | cons b t ih =>
    simp only [addrBytes, written, ih, List.length_cons]
    by_cases h : x = pa
    · subst h; simp
    · by_cases h2 : pa + 1 ≤ x ∧ x < pa + 1 + t.length
      · obtain ⟨k, rfl⟩ := Nat.exists_eq_add_of_le h2.1
        simp only [h2, and_self, if_true]
        rw [if_pos (by omega), show pa + 1 + k - (pa + 1) = k by omega, show pa + 1 + k - pa = k + 1 by omega, List.getD_cons_succ]
      · simp only [h2, Ne.symm h, if_false]; rw [if_neg (by omega)]

/-- The directory is no part of memory. -/
@[simp] theorem State.memPut_dirOf (s : State) (ws : List (Nat × Byte)) (l : Nat) : (s.memPut ws).dirOf l = s.dirOf l := by
  rw [State.dirOf, State.memPut_dir]; rfl
@[simp] theorem State.collect_dirOf (s : State) (line l : Nat) : (s.collect line).dirOf l = s.dirOf l := by
  unfold State.collect; split
  · exact s.memPut_dirOf _ l
  · rfl

/-- With no dirty holder, a byte is what memory holds. -/
theorem State.latest_clean (s : State) (x : Nat) (h : (s.dirOf (x / 64)).dirty = none) : s.latest x = s.memByte x := by
  simp only [State.latest, h]

theorem length_leBytes (n w : Nat) : (leBytes n w).length = n := by
  induction n generalizing w with
  | zero => rfl
  | succ k ih => rw [leBytes, List.length_cons, ih]

theorem length_vecBytes (v : Vec) : (vecBytes v).length = 64 := by simp [vecBytes, length_leBytes]

/-- What a dirty holder keeps of a line is stored at the home, where it reads the same (R387). -/
theorem State.collect_memByte (s : State) (line x : Nat) : (s.collect line).memByte x = if x / 64 = line then s.latest x else s.memByte x := by
  unfold State.collect
  split
  · next v hv =>
    rw [State.memByte_memPut, written_addrBytes, length_vecBytes]
    by_cases h : x / 64 = line
    · rw [if_pos (by omega), if_pos h, State.latest, h, hv]; simp only [Option.getD_some]; congr 1; omega
    · rw [if_neg (by omega), if_neg h]; rfl
  · next hv =>
    split
    · next h => rw [State.latest, h, hv]
    · rfl

/-- A write at the home leaves every other byte as it was (R130, R387). -/
theorem State.latest_lineWrite (s : State) (line : Nat) (ws : List (Nat × Byte)) (x : Nat) :
    (s.lineWrite line ws).latest x = if x / 64 = line then (written ws x).getD (s.latest x)
      else match (s.dirOf (x / 64)).dirty with
        | some v => (vecBytes v).getD (x % 64) 0
        | none => (written ws x).getD (s.memByte x) := by
  have e : (s.lineWrite line ws).latest x = ((s.snoopWrite line).memPut ws).latest x := by unfold State.lineWrite; dsimp only; split <;> rfl
  rw [e, State.latest, State.memPut_dirOf, State.memByte_memPut]
  have hm : (s.snoopWrite line).memByte x = ((s.tellInv line none).collect line).memByte x := rfl
  rw [hm, State.collect_memByte, State.tellInv_latest, State.tellInv_memByte]
  simp only [State.snoopWrite, State.setDir_dirOf]
  by_cases h : x / 64 = line
  · simp [h, DirE.dirty]
  · simp only [Ne.symm h, if_false, State.collect_dirOf, h]; split <;> simp_all

/-- Bytes of one line are performed at their home, and no other byte of the coherent memory changes (R130). -/
theorem State.latest_homeWrite (s : State) (line : Nat) (ws : List (Nat × Byte)) (x : Nat) (hs : s.slotPages line = []) (hw : ∀ w ∈ ws, w.1 / 64 = line) :
    (s.homeWrite line ws).latest x = (written ws x).getD (s.latest x) := by
  have hn : x / 64 ≠ line → written ws x = none := fun h => by
    clear hs
    induction ws with
    | nil => rfl
    | cons w t ih =>
      simp only [written, ih fun a ha => hw a (List.mem_cons_of_mem _ ha)]
      rw [if_neg fun e => h (by rw [← e]; exact hw w List.mem_cons_self)]
  unfold State.homeWrite; rw [hs, show ∀ t : State, t.spoilPages [] = t from fun _ => rfl, State.latest_lineWrite]
  split
  · rfl
  · next h => rw [hn h, Option.getD_none, State.latest]; split <;> simp_all

end Sys2Proof.Machine
end

