-- ==== Sys2Proof/Laws/Ops.lean ====
section
/-! SUPPORT. What the shared operations of the engines' instructions come to: retirement with and without loops (R207), guards (R57), the ends
of an instruction. -/

namespace Sys2Proof.Machine
open Sys2Proof

/-! Retirement. -/

/-- No live counter ends at a slot: no loop is evaluated (R207). -/
theorem Ctx.loopOrder_nil (x : Ctx) (e : Eng) (p : Slot) (h : ∀ k < 4, (x.loopOf e k).count = 0 ∨ (x.loopOf e k).last ≠ p) : x.loopOrder e p = [] := by
  have : ([0, 1, 2, 3].filter fun k => (x.loopOf e k).count != 0 && (x.loopOf e k).last == p) = [] := by
    rw [List.filter_eq_nil_iff]
    intro k hk
    have := h k (by fin_cases hk <;> decide)
    simp only [Bool.and_eq_true, bne_iff_ne, ne_eq, beq_iff_eq]; tauto
  unfold Ctx.loopOrder; rw [this]; rfl

/-- An instruction at which no loop ends retires: its engine goes past its lanes (R172). -/
theorem Ctx.retire_plain (x : Ctx) (e : Eng) (len : Nat)
    (h : ∀ k < 4, (x.loopOf e k).count = 0 ∨ (x.loopOf e k).last ≠ (x.eng e).pc) : x.retire e len = x.advance e len := by
  simp only [Ctx.retire, Ctx.loopOrder_nil _ _ _ h, Ctx.loopEval]

theorem State.retire_plain (s : State) (e : Eng) (len : Nat)
    (h : ∀ k < 4, (s.cx.loopOf e k).count = 0 ∨ (s.cx.loopOf e k).last ≠ (s.cx.eng e).pc) : s.retire e len = s.setCx (s.cx.advance e len) := by
  rw [State.retire, Ctx.retire_plain _ _ _ h]

/-- Loop counters stay when another register file is written. -/
@[simp] theorem Ctx.setG_loopOf (x : Ctx) (d : RegG) (w : Word) (e : Eng) (k : Nat) : (x.setG d w).loopOf e k = x.loopOf e k := by simp [Ctx.loopOf]
@[simp] theorem Ctx.setP_loopOf (x : Ctx) (d : RegP) (w : BitVec 16) (e : Eng) (k : Nat) : (x.setP d w).loopOf e k = x.loopOf e k := by simp [Ctx.loopOf]
@[simp] theorem Ctx.setV_loopOf (x : Ctx) (d : RegV) (w : Vec) (e : Eng) (k : Nat) : (x.setV d w).loopOf e k = x.loopOf e k := by simp [Ctx.loopOf]
@[simp] theorem Ctx.setB_loopOf (x : Ctx) (d : RegB) (w : Word) (e : Eng) (k : Nat) : (x.setB d w).loopOf e k = x.loopOf e k := by simp [Ctx.loopOf]
@[simp] theorem Ctx.setQ_loopOf (x : Ctx) (d : BitVec 2) (w : Bool) (e : Eng) (k : Nat) : (x.setQ d w).loopOf e k = x.loopOf e k := by simp [Ctx.loopOf]
@[simp] theorem Ctx.setC_loopOf (x : Ctx) (d : RegC) (w : Word) (e : Eng) (k : Nat) : (x.setC d w).loopOf e k = x.loopOf e k := by simp [Ctx.loopOf]
@[simp] theorem Ctx.setFifo_loopOf (x : Ctx) (n : Nat) (q : FifoQ) (e : Eng) (k : Nat) : (x.setFifo n q).loopOf e k = x.loopOf e k := rfl
@[simp] theorem Ctx.setStream_loopOf (x : Ctx) (n : StreamNo) (t : Stream) (e : Eng) (k : Nat) : (x.setStream n t).loopOf e k = x.loopOf e k := rfl
@[simp] theorem Ctx.setEng_loopOf (x : Ctx) (f : Eng) (c : EngC) (e : Eng) (k : Nat) : (x.setEng f c).loopOf e k = x.loopOf e k := by cases f <;> rfl

/-! Guards and pending registers (R14, R57, R270). -/

/-- No named register waits. -/
theorem Ctx.pending_false (x : Ctx) (rs : List RegG) (h : ∀ r ∈ rs, r = 0 ∨ ∀ e ∈ x.pend, e.2 ≠ r) : x.pending rs = false := by
  simp only [Ctx.pending, List.any_eq_false]
  intro r hr
  have := h r hr
  simp only [Bool.and_eq_true, bne_iff_ne, ne_eq, List.any_eq_true, beq_iff_eq, Prod.exists, not_and, not_exists]
  intro h0 a b hab
  rcases this with rfl | h
  · exact absurd rfl h0
  · exact h _ hab

/-- p0 as a guard holds (R55, R57). -/
@[simp] theorem Ctx.guard_zero (x : Ctx) : x.guard 0 = 0xFFFF := rfl

/-- An X instruction whose guard holds and whose registers wait for nothing. -/
theorem State.xRun_on (s : State) (g : GuardP) (rs : List RegG) (len : Nat) (body : State → Act State)
    (hg : (s.cx.guard g).getLsbD 0 = true) (hp : s.cx.pending rs = false) : s.xRun g rs len body = s.finish .x len (body s) := by
  simp [State.xRun, hg, hp]
theorem State.xRun_off (s : State) (g : GuardP) (rs : List RegG) (len : Nat) (body : State → Act State)
    (hg : (s.cx.guard g).getLsbD 0 = false) : s.xRun g rs len body = s.retire .x len := by
  unfold State.xRun; rw [hg]; rfl
theorem State.xFlow_on (s : State) (g : GuardP) (rs : List RegG) (len : Nat) (body : State → Act State)
    (hg : (s.cx.guard g).getLsbD 0 = true) (hp : s.cx.pending rs = false) : s.xFlow g rs len body = s.settle .x (body s) := by
  simp [State.xFlow, hg, hp]
theorem State.xFlow_off (s : State) (g : GuardP) (rs : List RegG) (len : Nat) (body : State → Act State)
    (hg : (s.cx.guard g).getLsbD 0 = false) : s.xFlow g rs len body = s.retire .x len := by
  unfold State.xFlow; rw [hg]; rfl
theorem State.xAlways_on (s : State) (rs : List RegG) (len : Nat) (body : State → Act State)
    (hp : s.cx.pending rs = false) : s.xAlways rs len body = s.finish .x len (body s) := by
  simp [State.xAlways, hp]
theorem State.aRun_on (s : State) (q : GuardQ) (len : Nat) (body : State → Act State) (hg : s.cx.qr q = true) :
    s.aRun q len body = s.finish .a len (body s) := by simp [State.aRun, hg]
theorem State.aRun_off (s : State) (q : GuardQ) (len : Nat) (body : State → Act State) (hg : s.cx.qr q = false) :
    s.aRun q len body = s.retire .a len := by simp [State.aRun, hg]
theorem State.aFlow_on (s : State) (q : GuardQ) (len : Nat) (body : State → Act State) (hg : s.cx.qr q = true) :
    s.aFlow q len body = s.settle .a (body s) := by simp [State.aFlow, hg]
theorem State.aFlow_off (s : State) (q : GuardQ) (len : Nat) (body : State → Act State) (hg : s.cx.qr q = false) :
    s.aFlow q len body = s.retire .a len := by simp [State.aFlow, hg]
theorem State.mRun_on (s : State) (len : Nat) (body : State → Act State) (h : s.cl.claim = some s.cur.ctx) :
    s.mRun len body = s.finish .m len (body s) := by simp [State.mRun, State.holdsClaim, h]
theorem State.mFlow_on (s : State) (body : State → Act State) (h : s.cl.claim = some s.cur.ctx) :
    s.mFlow body = s.settle .m (body s) := by simp [State.mFlow, State.holdsClaim, h]

/-- A privileged instruction in K mode runs as another does (R337). -/
theorem State.xPriv_k (s : State) (g : GuardP) (rs : List RegG) (body : State → Act State) (h : s.cx.kmode = true) :
    s.xPriv g rs body = s.xRun g rs 1 body := by simp [State.xPriv, h]

/-- The ends of an instruction. -/
@[simp] theorem State.finish_ok (s : State) (e : Eng) (len : Nat) (t : State) : s.finish e len (.ok t) = t.retire e len := rfl
@[simp] theorem State.finish_stall (s : State) (e : Eng) (len : Nat) : s.finish e len (.error .stall) = s := rfl
@[simp] theorem State.settle_ok (s : State) (e : Eng) (t : State) : s.settle e (.ok t) = t := rfl
@[simp] theorem State.settle_stall (s : State) (e : Eng) : s.settle e (.error .stall) = s := rfl

/-- Without the claim an instruction of M changes nothing (R249). -/
theorem State.mRun_off (s : State) (len : Nat) (body : State → Act State) (h : s.cl.claim ≠ some s.cur.ctx) : s.mRun len body = s := by
  unfold State.mRun State.holdsClaim; exact if_neg (by simpa using h)
theorem State.mFlow_off (s : State) (body : State → Act State) (h : s.cl.claim ≠ some s.cur.ctx) : s.mFlow body = s := by
  unfold State.mFlow State.holdsClaim; exact if_neg (by simpa using h)

/-! The frame of retirement: the loop counters of the engine and its program counter. -/

theorem Ctx.loopEval_frame (x : Ctx) (e : Eng) (ks : List Nat) (hk : ∀ k ∈ ks, k < 4) :
    ∃ l, (x.loopEval e ks).1 = { x with loops := l } ∧ ∀ n, (∀ k < 4, n ≠ 4 * engNo e + k) → mget LoopC.reset l n = mget LoopC.reset x.loops n := by
  induction ks generalizing x with
  | nil => exact ⟨x.loops, rfl, fun _ _ => rfl⟩
  | cons k ks ih =>
    have h4 := hk k List.mem_cons_self
    simp only [Ctx.loopEval]
    split
    · refine ⟨_, rfl, fun n hn => ?_⟩
      rw [mget_mput_ne _ _ _ (fun h => hn k h4 h.symm)]
    · obtain ⟨l, h1, h2⟩ := ih (x.setLoop e k { x.loopOf e k with count := (x.loopOf e k).count - 1 }) fun j hj => hk j (List.mem_cons_of_mem _ hj)
      refine ⟨l, h1, fun n hn => ?_⟩
      rw [h2 n hn]
      exact mget_mput_ne _ _ _ (fun h => hn k h4 h.symm)

theorem insertBy_mem {α : Type} (f : α → Nat) (a b : α) (l : List α) (h : b ∈ insertBy f a l) : b = a ∨ b ∈ l := by
  induction l with
  | nil => simpa [insertBy] using h
  | cons c t ih =>
    simp only [insertBy] at h
    split at h
    · simpa using h
    · rcases List.mem_cons.1 h with rfl | h
      · exact .inr List.mem_cons_self
      · exact (ih h).imp_right (List.mem_cons_of_mem _)

theorem sortBy_mem {α : Type} (f : α → Nat) (l : List α) (b : α) (h : b ∈ sortBy f l) : b ∈ l := by
  have : ∀ (l acc : List α), b ∈ l.foldl (fun acc a => insertBy f a acc) acc → b ∈ acc ∨ b ∈ l := by
    intro l
    induction l with
    | nil => intro acc h; exact .inl h
    | cons a t ih =>
      intro acc h
      rcases ih _ h with h | h
      · exact (insertBy_mem f a b acc h).elim (fun e => .inr (e ▸ List.mem_cons_self)) .inl
      · exact .inr (List.mem_cons_of_mem _ h)
  simpa using this l [] h

theorem Ctx.loopOrder_lt (x : Ctx) (e : Eng) (p : Slot) (k : Nat) (h : k ∈ x.loopOrder e p) : k < 4 := by
  have := List.mem_of_mem_filter (sortBy_mem _ _ _ h)
  fin_cases this <;> decide

/-- What an instruction that retires changes beside its effect. -/
theorem Ctx.retire_frame (x : Ctx) (e : Eng) (len : Nat) :
    ∃ l c, x.retire e len = { x with loops := l }.setEng e c ∧ c.st = (x.eng e).st ∧ c.code = (x.eng e).code ∧ c.held = (x.eng e).held
      ∧ c.horizon = (x.eng e).horizon ∧ c.joining = (x.eng e).joining
      ∧ ∀ n, (∀ k < 4, n ≠ 4 * engNo e + k) → mget LoopC.reset l n = mget LoopC.reset x.loops n := by
  obtain ⟨l, h1, h2⟩ := x.loopEval_frame e (x.loopOrder e (x.eng e).pc) fun k hk => x.loopOrder_lt e _ k hk
  unfold Ctx.retire
  split <;> rename_i y p h <;> rw [h] at h1 <;> simp only at h1 <;> subst h1
  · exact ⟨l, _, rfl, by cases e <;> rfl, by cases e <;> rfl, by cases e <;> rfl, by cases e <;> rfl, by cases e <;> rfl, h2⟩
  · exact ⟨l, _, rfl, by cases e <;> rfl, by cases e <;> rfl, by cases e <;> rfl, by cases e <;> rfl, by cases e <;> rfl, h2⟩

end Sys2Proof.Machine
end

