-- ==== Sys2Proof/Laws/PerInstr.lean ====
section
/-! SUPPORT. One lemma per constructor of Instr: every word of its encoding fits a lane of 32 bits. -/

namespace Sys2Proof.Laws.Words
open Sys2Proof

/-- Every word of the encoding of an instruction is a word of 32 bits (R166, R302). -/
def Statement (i : Instr) : Prop := ∀ w ∈ encode i, w < 4294967296

/-- The words of an instruction of one lane, of two lanes, and of a step of the device, which has none. -/
theorem one {i : Instr} {a : Nat} (h : encode i = [a]) (ha : a < 4294967296) : Statement i := by
  intro w hw; rw [h] at hw; rcases List.mem_singleton.1 hw with rfl; exact ha
theorem two {i : Instr} {a b : Nat} (h : encode i = [a, b]) (ha : a < 4294967296) (hb : b < 4294967296) : Statement i := by
  intro w hw; rw [h] at hw; rcases List.mem_cons.1 hw with rfl | hw; exact ha; rcases List.mem_singleton.1 hw with rfl; exact hb
theorem none_ {i : Instr} (h : encode i = []) : Statement i := by
  intro w hw; rw [h] at hw; exact absurd hw List.not_mem_nil

/-- The codes of the enumerated fields fit their fields. -/
theorem condCode_lt (c : Cond) : c.code < 8 := by cases c <;> decide
theorem csrCode_lt (c : Csr) : c.code < 64 := by cases c <;> decide
theorem brTestCode_lt (c : BrTest) : c.code < 4 := by cases c <;> decide
theorem fifoCode_lt (c : Fifo) : c.code < 8 := by cases c <;> decide
theorem ordCode_lt (c : Ord) : c.code < 8 := by cases c <;> decide
theorem scopeCode_lt (c : Scope) : c.code < 8 := by cases c <;> decide
theorem amoOpCode_lt (c : AmoOp) : c.code < 16 := by cases c <;> decide
theorem fenceKindCode_lt (c : FenceKind) : c.code < 8 := by cases c <;> decide
theorem tyCode_lt (c : Ty) : c.code < 16 := by cases c <;> decide
theorem vCondCode_lt (c : VCond) : c.code < 8 := by cases c <;> decide
theorem rndCode_lt (c : Rnd) : c.code < 8 := by cases c <;> decide
theorem redOpCode_lt (c : RedOp) : c.code < 8 := by cases c <;> decide
theorem sysRegCode_lt (c : SysReg) : c.code < 4096 := by cases c <;> decide
theorem shadowCode_lt (c : Shadow) : c.code < 32 := by cases c <;> decide

theorem xNop (g : GuardP) : Statement (.xNop g) := one rfl (by omega)
theorem xDone (g : GuardP) : Statement (.xDone g) := one rfl (by omega)
theorem xSys (d : RegG) (a : RegG) (g : GuardP) : Statement (.xSys d a g) := one rfl (by omega)
theorem xEbrk (g : GuardP) : Statement (.xEbrk g) := one rfl (by omega)
theorem xAdd (d : RegG) (a : RegG) (b : RegG) (g : GuardP) : Statement (.xAdd d a b g) := one rfl (by omega)
theorem xSub (d : RegG) (a : RegG) (b : RegG) (g : GuardP) : Statement (.xSub d a b g) := one rfl (by omega)
theorem xAnd (d : RegG) (a : RegG) (b : RegG) (g : GuardP) : Statement (.xAnd d a b g) := one rfl (by omega)
theorem xOr (d : RegG) (a : RegG) (b : RegG) (g : GuardP) : Statement (.xOr d a b g) := one rfl (by omega)
theorem xXor (d : RegG) (a : RegG) (b : RegG) (g : GuardP) : Statement (.xXor d a b g) := one rfl (by omega)
theorem xAndn (d : RegG) (a : RegG) (b : RegG) (g : GuardP) : Statement (.xAndn d a b g) := one rfl (by omega)
theorem xShl (d : RegG) (a : RegG) (b : RegG) (g : GuardP) : Statement (.xShl d a b g) := one rfl (by omega)
theorem xShr (d : RegG) (a : RegG) (b : RegG) (g : GuardP) : Statement (.xShr d a b g) := one rfl (by omega)
theorem xSra (d : RegG) (a : RegG) (b : RegG) (g : GuardP) : Statement (.xSra d a b g) := one rfl (by omega)
theorem xMin (d : RegG) (a : RegG) (b : RegG) (g : GuardP) : Statement (.xMin d a b g) := one rfl (by omega)
theorem xMax (d : RegG) (a : RegG) (b : RegG) (g : GuardP) : Statement (.xMax d a b g) := one rfl (by omega)
theorem xMinu (d : RegG) (a : RegG) (b : RegG) (g : GuardP) : Statement (.xMinu d a b g) := one rfl (by omega)
theorem xMaxu (d : RegG) (a : RegG) (b : RegG) (g : GuardP) : Statement (.xMaxu d a b g) := one rfl (by omega)
theorem xClz (d : RegG) (a : RegG) (g : GuardP) : Statement (.xClz d a g) := one rfl (by omega)
theorem xCtz (d : RegG) (a : RegG) (g : GuardP) : Statement (.xCtz d a g) := one rfl (by omega)
theorem xPopc (d : RegG) (a : RegG) (g : GuardP) : Statement (.xPopc d a g) := one rfl (by omega)
theorem xMul (d : RegG) (a : RegG) (b : RegG) (g : GuardP) : Statement (.xMul d a b g) := one rfl (by omega)
theorem xMulh (d : RegG) (a : RegG) (b : RegG) (g : GuardP) : Statement (.xMulh d a b g) := one rfl (by omega)
theorem xMulhu (d : RegG) (a : RegG) (b : RegG) (g : GuardP) : Statement (.xMulhu d a b g) := one rfl (by omega)
theorem xDiv (d : RegG) (a : RegG) (b : RegG) (g : GuardP) : Statement (.xDiv d a b g) := one rfl (by omega)
theorem xDivu (d : RegG) (a : RegG) (b : RegG) (g : GuardP) : Statement (.xDivu d a b g) := one rfl (by omega)
theorem xRem (d : RegG) (a : RegG) (b : RegG) (g : GuardP) : Statement (.xRem d a b g) := one rfl (by omega)
theorem xRemu (d : RegG) (a : RegG) (b : RegG) (g : GuardP) : Statement (.xRemu d a b g) := one rfl (by omega)
theorem xAddi (d : RegG) (a : RegG) (imm : BitVec 12) (g : GuardP) : Statement (.xAddi d a imm g) := one rfl (by omega)
theorem xAndi (d : RegG) (a : RegG) (imm : BitVec 12) (g : GuardP) : Statement (.xAndi d a imm g) := one rfl (by omega)
theorem xOri (d : RegG) (a : RegG) (imm : BitVec 12) (g : GuardP) : Statement (.xOri d a imm g) := one rfl (by omega)
theorem xXori (d : RegG) (a : RegG) (imm : BitVec 12) (g : GuardP) : Statement (.xXori d a imm g) := one rfl (by omega)
theorem xShli (d : RegG) (a : RegG) (sh : BitVec 6) (g : GuardP) : Statement (.xShli d a sh g) := one rfl (by omega)
theorem xShri (d : RegG) (a : RegG) (sh : BitVec 6) (g : GuardP) : Statement (.xShri d a sh g) := one rfl (by omega)
theorem xSrai (d : RegG) (a : RegG) (sh : BitVec 6) (g : GuardP) : Statement (.xSrai d a sh g) := one rfl (by omega)
theorem xCmp (cond : Cond) (pd : BitVec 5) (a : RegG) (b : RegG) (g : GuardP) : Statement (.xCmp cond pd a b g) := one rfl (by have := condCode_lt cond; omega)
theorem xCmpi (cond : Cond) (pd : BitVec 5) (a : RegG) (imm : BitVec 9) (g : GuardP) : Statement (.xCmpi cond pd a imm g) := one rfl (by have := condCode_lt cond; omega)
theorem xSel (d : RegG) (k : RegP) (a : RegG) (b : RegG) (g : GuardP) : Statement (.xSel d k a b g) := one rfl (by omega)
theorem xLim (d : RegG) (imm : BitVec 32) (g : GuardP) : Statement (.xLim d imm g) := two rfl (by omega) (by omega)
theorem xLimh (d : RegG) (a : RegG) (imm : BitVec 32) (g : GuardP) : Statement (.xLimh d a imm g) := two rfl (by omega) (by omega)
theorem xPand (pd : RegP) (pa : RegP) (pb : RegP) : Statement (.xPand pd pa pb) := one rfl (by omega)
theorem xPor (pd : RegP) (pa : RegP) (pb : RegP) : Statement (.xPor pd pa pb) := one rfl (by omega)
theorem xPxor (pd : RegP) (pa : RegP) (pb : RegP) : Statement (.xPxor pd pa pb) := one rfl (by omega)
theorem xPandn (pd : RegP) (pa : RegP) (pb : RegP) : Statement (.xPandn pd pa pb) := one rfl (by omega)
theorem xPmov (pd : RegP) (pa : RegP) : Statement (.xPmov pd pa) := one rfl (by omega)
theorem xPany (pd : RegP) (pa : RegP) (pb : RegP) : Statement (.xPany pd pa pb) := one rfl (by omega)
theorem xPall (pd : RegP) (pa : RegP) (pb : RegP) : Statement (.xPall pd pa pb) := one rfl (by omega)
theorem xPseti (pd : RegP) (imm : BitVec 16) : Statement (.xPseti pd imm) := one rfl (by omega)
theorem xPfrom (pd : RegP) (ga : RegG) : Statement (.xPfrom pd ga) := one rfl (by omega)
theorem xPto (pd : RegP) (ga : RegG) : Statement (.xPto pd ga) := one rfl (by omega)
theorem xPcnt (pd : RegP) (ga : RegG) : Statement (.xPcnt pd ga) := one rfl (by omega)
theorem xCsrr (d : RegG) (csr : Csr) (g : GuardP) : Statement (.xCsrr d csr g) := one rfl (by have := csrCode_lt csr; omega)
theorem xCsrw (d : RegG) (csr : Csr) (a : RegG) (g : GuardP) : Statement (.xCsrw d csr a g) := one rfl (by have := csrCode_lt csr; omega)
theorem xCsrs (d : RegG) (csr : Csr) (a : RegG) (g : GuardP) : Statement (.xCsrs d csr a g) := one rfl (by have := csrCode_lt csr; omega)
theorem xBr (pt : RegP) (tm : BrTest) (off : BitVec 17) : Statement (.xBr pt tm off) := one rfl (by have := brTestCode_lt tm; omega)
theorem xJmp (imm : BitVec 32) (g : GuardP) : Statement (.xJmp imm g) := two rfl (by omega) (by omega)
theorem xCall (imm : BitVec 32) (g : GuardP) : Statement (.xCall imm g) := two rfl (by omega) (by omega)
theorem xJmpr (a : RegG) (g : GuardP) : Statement (.xJmpr a g) := one rfl (by omega)
theorem xRet (g : GuardP) : Statement (.xRet g) := one rfl (by omega)
theorem xLoop (k : LoopNo) (a : RegG) (imm : BitVec 32) (g : GuardP) : Statement (.xLoop k a imm g) := two rfl (by omega) (by omega)
theorem xTkput (f : Fifo) (a : RegG) (g : GuardP) : Statement (.xTkput f a g) := one rfl (by have := fifoCode_lt f; omega)
theorem xTkget (d : RegG) (f : Fifo) (g : GuardP) : Statement (.xTkget d f g) := one rfl (by have := fifoCode_lt f; omega)
theorem xLd (d : RegG) (a : RegG) (sz : BitVec 2) (sx : Bool) (ord : Ord) (sc : Scope) (imm : BitVec 7) : Statement (.xLd d a sz sx ord sc imm) := one rfl (by have := Bool.toNat_le sx; have := ordCode_lt ord; have := scopeCode_lt sc; omega)
theorem xSt (d : RegG) (a : RegG) (sz : BitVec 2) (ord : Ord) (sc : Scope) (imm : BitVec 7) : Statement (.xSt d a sz ord sc imm) := one rfl (by have := ordCode_lt ord; have := scopeCode_lt sc; omega)
theorem xAmo (d : RegG) (a : RegG) (b : RegG) (dbl : Bool) (ord : Ord) (sc : Scope) (op : AmoOp) : Statement (.xAmo d a b dbl ord sc op) := one rfl (by have := Bool.toNat_le dbl; have := ordCode_lt ord; have := scopeCode_lt sc; have := amoOpCode_lt op; omega)
theorem xCas (d : RegG) (a : RegG) (b : RegG) (dbl : Bool) (ord : Ord) (sc : Scope) : Statement (.xCas d a b dbl ord sc) := one rfl (by have := Bool.toNat_le dbl; have := ordCode_lt ord; have := scopeCode_lt sc; omega)
theorem xFence (kind : FenceKind) (sc : Scope) (g : GuardP) : Statement (.xFence kind sc g) := one rfl (by have := fenceKindCode_lt kind; have := scopeCode_lt sc; omega)
theorem xLds (d : RegG) (a : RegG) (imm : BitVec 12) (g : GuardP) : Statement (.xLds d a imm g) := one rfl (by omega)
theorem xSts (d : RegG) (a : RegG) (imm : BitVec 12) (g : GuardP) : Statement (.xSts d a imm g) := one rfl (by omega)
theorem xCpy (d : RegG) (a : RegG) (g : GuardP) : Statement (.xCpy d a g) := one rfl (by omega)
theorem xTlwait (k : TimelineNo) (a : RegG) (g : GuardP) : Statement (.xTlwait k a g) := one rfl (by omega)
theorem xTlread (d : RegG) (k : TimelineNo) (g : GuardP) : Statement (.xTlread d k g) := one rfl (by omega)
theorem xVadd (ty : Ty) (d : RegV) (a : RegV) (b : RegV) (g : GuardP) : Statement (.xVadd ty d a b g) := one rfl (by have := tyCode_lt ty; omega)
theorem xVsub (ty : Ty) (d : RegV) (a : RegV) (b : RegV) (g : GuardP) : Statement (.xVsub ty d a b g) := one rfl (by have := tyCode_lt ty; omega)
theorem xVmin (ty : Ty) (d : RegV) (a : RegV) (b : RegV) (g : GuardP) : Statement (.xVmin ty d a b g) := one rfl (by have := tyCode_lt ty; omega)
theorem xVmax (ty : Ty) (d : RegV) (a : RegV) (b : RegV) (g : GuardP) : Statement (.xVmax ty d a b g) := one rfl (by have := tyCode_lt ty; omega)
theorem xVabs (ty : Ty) (d : RegV) (a : RegV) (g : GuardP) : Statement (.xVabs ty d a g) := one rfl (by have := tyCode_lt ty; omega)
theorem xVneg (ty : Ty) (d : RegV) (a : RegV) (g : GuardP) : Statement (.xVneg ty d a g) := one rfl (by have := tyCode_lt ty; omega)
theorem xVmul (ty : Ty) (d : RegV) (a : RegV) (b : RegV) (g : GuardP) : Statement (.xVmul ty d a b g) := one rfl (by have := tyCode_lt ty; omega)
theorem xVmadd (ty : Ty) (d : RegV) (a : RegV) (b : RegV) (g : GuardP) : Statement (.xVmadd ty d a b g) := one rfl (by have := tyCode_lt ty; omega)
theorem xVmsub (ty : Ty) (d : RegV) (a : RegV) (b : RegV) (g : GuardP) : Statement (.xVmsub ty d a b g) := one rfl (by have := tyCode_lt ty; omega)
theorem xVnmadd (ty : Ty) (d : RegV) (a : RegV) (b : RegV) (g : GuardP) : Statement (.xVnmadd ty d a b g) := one rfl (by have := tyCode_lt ty; omega)
theorem xVand (ty : Ty) (d : RegV) (a : RegV) (b : RegV) (g : GuardP) : Statement (.xVand ty d a b g) := one rfl (by have := tyCode_lt ty; omega)
theorem xVor (ty : Ty) (d : RegV) (a : RegV) (b : RegV) (g : GuardP) : Statement (.xVor ty d a b g) := one rfl (by have := tyCode_lt ty; omega)
theorem xVxor (ty : Ty) (d : RegV) (a : RegV) (b : RegV) (g : GuardP) : Statement (.xVxor ty d a b g) := one rfl (by have := tyCode_lt ty; omega)
theorem xVshl (ty : Ty) (d : RegV) (a : RegV) (b : RegV) (g : GuardP) : Statement (.xVshl ty d a b g) := one rfl (by have := tyCode_lt ty; omega)
theorem xVshr (ty : Ty) (d : RegV) (a : RegV) (b : RegV) (g : GuardP) : Statement (.xVshr ty d a b g) := one rfl (by have := tyCode_lt ty; omega)
theorem xVsra (ty : Ty) (d : RegV) (a : RegV) (b : RegV) (g : GuardP) : Statement (.xVsra ty d a b g) := one rfl (by have := tyCode_lt ty; omega)
theorem xVcmp (cond : VCond) (ty : Ty) (pd : BitVec 5) (a : RegV) (b : RegV) (g : GuardP) : Statement (.xVcmp cond ty pd a b g) := one rfl (by have := vCondCode_lt cond; have := tyCode_lt ty; omega)
theorem xVsel (ty : Ty) (d : RegV) (k : GuardP) (a : RegV) (b : RegV) : Statement (.xVsel ty d k a b) := one rfl (by have := tyCode_lt ty; omega)
theorem xVbcst (ty : Ty) (d : RegV) (a : RegG) (g : GuardP) : Statement (.xVbcst ty d a g) := one rfl (by have := tyCode_lt ty; omega)
theorem xVext (ty : Ty) (d : RegG) (a : RegV) (b : RegG) (g : GuardP) : Statement (.xVext ty d a b g) := one rfl (by have := tyCode_lt ty; omega)
theorem xVins (ty : Ty) (d : RegV) (a : RegG) (b : RegG) (g : GuardP) : Statement (.xVins ty d a b g) := one rfl (by have := tyCode_lt ty; omega)
theorem xVperm (ty : Ty) (d : RegV) (a : RegV) (b : RegV) (g : GuardP) : Statement (.xVperm ty d a b g) := one rfl (by have := tyCode_lt ty; omega)
theorem xVcvt (src : Ty) (dst : Ty) (rnd : Rnd) (d : RegV) (a : RegV) (g : GuardP) : Statement (.xVcvt src dst rnd d a g) := one rfl (by have := tyCode_lt src; have := tyCode_lt dst; have := rndCode_lt rnd; omega)
theorem xVqnt (rnd : Rnd) (d : RegV) (a : RegV) (b : RegV) (g : GuardP) : Statement (.xVqnt rnd d a b g) := one rfl (by have := rndCode_lt rnd; omega)
theorem xVred (op : RedOp) (ty : Ty) (d : RegV) (a : RegV) (g : GuardP) : Statement (.xVred op ty d a g) := one rfl (by have := redOpCode_lt op; have := tyCode_lt ty; omega)
theorem xVrecip (ty : Ty) (d : RegV) (a : RegV) (g : GuardP) : Statement (.xVrecip ty d a g) := one rfl (by have := tyCode_lt ty; omega)
theorem xVrsqrt (ty : Ty) (d : RegV) (a : RegV) (g : GuardP) : Statement (.xVrsqrt ty d a g) := one rfl (by have := tyCode_lt ty; omega)
theorem xVexp2 (ty : Ty) (d : RegV) (a : RegV) (g : GuardP) : Statement (.xVexp2 ty d a g) := one rfl (by have := tyCode_lt ty; omega)
theorem xVlog2 (ty : Ty) (d : RegV) (a : RegV) (g : GuardP) : Statement (.xVlog2 ty d a g) := one rfl (by have := tyCode_lt ty; omega)
theorem xVpop (d : RegV) (st : StreamNo) (a : RegG) (g : GuardP) : Statement (.xVpop d st a g) := one rfl (by omega)
theorem xVpush (st : StreamNo) (a : RegV) (g : GuardP) : Statement (.xVpush st a g) := one rfl (by omega)
theorem xVlds (d : RegV) (a : RegG) (imm : BitVec 12) (g : GuardP) : Statement (.xVlds d a imm g) := one rfl (by omega)
theorem xVsts (d : RegV) (a : RegG) (imm : BitVec 12) (g : GuardP) : Statement (.xVsts d a imm g) := one rfl (by omega)
theorem xGload (d : RegG) (a : RegG) (g : GuardP) : Statement (.xGload d a g) := one rfl (by omega)
theorem xGstore (a : RegG) (g : GuardP) : Statement (.xGstore a g) := one rfl (by omega)
theorem xGstep (d : RegG) (a : RegG) (g : GuardP) : Statement (.xGstep d a g) := one rfl (by omega)
theorem xGmask (d : RegG) (a : RegG) (b : RegG) (g : GuardP) : Statement (.xGmask d a b g) := one rfl (by omega)
theorem xGcount (d : RegG) (g : GuardP) : Statement (.xGcount d g) := one rfl (by omega)
theorem xGforce (d : RegG) (g : GuardP) : Statement (.xGforce d g) := one rfl (by omega)
theorem xSend (v : RegV) (a : RegG) (g : GuardP) : Statement (.xSend v a g) := one rfl (by omega)
theorem xSendnb (b : RegG) (v : RegV) (a : RegG) (g : GuardP) : Statement (.xSendnb b v a g) := one rfl (by omega)
theorem xHset (d : RegG) (a : RegG) (b : RegG) (g : GuardP) : Statement (.xHset d a b g) := one rfl (by omega)
theorem xHmask (a : RegG) (g : GuardP) : Statement (.xHmask a g) := one rfl (by omega)
theorem xHunmask (a : RegG) (g : GuardP) : Statement (.xHunmask a g) := one rfl (by omega)
theorem xAbind (d : RegG) (a : RegG) (b : RegG) (g : GuardP) : Statement (.xAbind d a b g) := one rfl (by omega)
theorem xTspawn (v : RegV) (a : RegG) (g : GuardP) : Statement (.xTspawn v a g) := one rfl (by omega)
theorem xTqenq (b : RegG) (v : RegV) (a : RegG) (g : GuardP) : Statement (.xTqenq b v a g) := one rfl (by omega)
theorem xTqdeq (b : RegG) (v : RegV) (a : RegG) (g : GuardP) : Statement (.xTqdeq b v a g) := one rfl (by omega)
theorem xDcinit (d : RegG) (a : RegG) (b : RegG) (g : GuardP) : Statement (.xDcinit d a b g) := one rfl (by omega)
theorem xDcdec (d : RegG) (a : RegG) (g : GuardP) : Statement (.xDcdec d a g) := one rfl (by omega)
theorem xDcpark (b : RegG) (v : RegV) (a : RegG) (g : GuardP) : Statement (.xDcpark b v a g) := one rfl (by omega)
theorem xWlpush (a : RegG) (b : RegG) (g : GuardP) : Statement (.xWlpush a b g) := one rfl (by omega)
theorem xWlpop (d : RegG) (b : RegG) (g : GuardP) : Statement (.xWlpop d b g) := one rfl (by omega)
theorem xWlbound (a : RegG) (b : RegG) (g : GuardP) : Statement (.xWlbound a b g) := one rfl (by omega)
theorem xWlterm (a : RegG) (g : GuardP) : Statement (.xWlterm a g) := one rfl (by omega)
theorem xFnew (d : RegG) (a : RegG) (g : GuardP) : Statement (.xFnew d a g) := one rfl (by omega)
theorem xFres (d : RegG) (a : RegG) (b : RegG) (g : GuardP) : Statement (.xFres d a b g) := one rfl (by omega)
theorem xFwait (d : RegG) (a : RegG) (b : RegG) (g : GuardP) : Statement (.xFwait d a b g) := one rfl (by omega)
theorem xFpoll (d : RegG) (a : RegG) (g : GuardP) : Statement (.xFpoll d a g) := one rfl (by omega)
theorem xFfree (d : RegG) (a : RegG) (g : GuardP) : Statement (.xFfree d a g) := one rfl (by omega)
theorem xFtmo (d : RegG) (a : RegG) (b : RegG) (g : GuardP) : Statement (.xFtmo d a b g) := one rfl (by omega)
theorem xFbind (d : RegG) (a : RegG) (b : RegG) (g : GuardP) : Statement (.xFbind d a b g) := one rfl (by omega)
theorem xBarr (d : RegG) (a : RegG) (g : GuardP) : Statement (.xBarr d a g) := one rfl (by omega)
theorem xBexp (d : RegG) (a : RegG) (b : RegG) (g : GuardP) : Statement (.xBexp d a b g) := one rfl (by omega)
theorem xBwait (d : RegG) (a : RegG) (b : RegG) (g : GuardP) : Statement (.xBwait d a b g) := one rfl (by omega)
theorem xMclaim (d : RegG) (a : RegG) (g : GuardP) : Statement (.xMclaim d a g) := one rfl (by omega)
theorem evClaimGrant (cell : Nat) : Statement (.evClaimGrant cell) := none_ rfl
theorem xMfree (g : GuardP) : Statement (.xMfree g) := one rfl (by omega)
theorem xSret (d : RegG) (a : RegG) (b : RegG) (g : GuardP) : Statement (.xSret d a b g) := one rfl (by omega)
theorem xWdset (d : RegG) (a : RegG) (g : GuardP) : Statement (.xWdset d a g) := one rfl (by omega)
theorem xSysr (d : RegG) (sr : SysReg) (g : GuardP) : Statement (.xSysr d sr g) := one rfl (by have := sysRegCode_lt sr; omega)
theorem xSysw (d : RegG) (sr : SysReg) (a : RegG) (g : GuardP) : Statement (.xSysw d sr a g) := one rfl (by have := sysRegCode_lt sr; omega)
theorem xTlbinvAll (g : GuardP) : Statement (.xTlbinvAll g) := one rfl (by omega)
theorem xTlbinvVa (a : RegG) (g : GuardP) : Statement (.xTlbinvVa a g) := one rfl (by omega)
theorem xTlbinvPart (g : GuardP) : Statement (.xTlbinvPart g) := one rfl (by omega)
theorem xCinvL1 (g : GuardP) : Statement (.xCinvL1 g) := one rfl (by omega)
theorem xCinvSb (g : GuardP) : Statement (.xCinvSb g) := one rfl (by omega)
theorem xCinvIs (g : GuardP) : Statement (.xCinvIs g) := one rfl (by omega)
theorem xCtxsave (d : RegG) (a : RegG) (b : RegG) (g : GuardP) : Statement (.xCtxsave d a b g) := one rfl (by omega)
theorem xCtxload (d : RegG) (a : RegG) (b : RegG) (g : GuardP) : Statement (.xCtxload d a b g) := one rfl (by omega)
theorem aNop (q : GuardQ) : Statement (.aNop q) := one rfl (by omega)
theorem aDone (q : GuardQ) : Statement (.aDone q) := one rfl (by omega)
theorem aAdd (d : RegB) (a : RegB) (b : RegB) (q : GuardQ) : Statement (.aAdd d a b q) := one rfl (by omega)
theorem aSub (d : RegB) (a : RegB) (b : RegB) (q : GuardQ) : Statement (.aSub d a b q) := one rfl (by omega)
theorem aAnd (d : RegB) (a : RegB) (b : RegB) (q : GuardQ) : Statement (.aAnd d a b q) := one rfl (by omega)
theorem aShl (d : RegB) (a : RegB) (b : RegB) (q : GuardQ) : Statement (.aShl d a b q) := one rfl (by omega)
theorem aShr (d : RegB) (a : RegB) (b : RegB) (q : GuardQ) : Statement (.aShr d a b q) := one rfl (by omega)
theorem aMul (d : RegB) (a : RegB) (b : RegB) (q : GuardQ) : Statement (.aMul d a b q) := one rfl (by omega)
theorem aMov (d : RegB) (a : RegB) (q : GuardQ) : Statement (.aMov d a q) := one rfl (by omega)
theorem aAddi (d : RegB) (a : RegB) (imm : BitVec 12) (q : GuardQ) : Statement (.aAddi d a imm q) := one rfl (by omega)
theorem aLim (d : RegB) (imm : BitVec 32) (q : GuardQ) : Statement (.aLim d imm q) := two rfl (by omega) (by omega)
theorem aCmp (cond : Cond) (qd : BitVec 2) (a : RegB) (b : RegB) (q : GuardQ) : Statement (.aCmp cond qd a b q) := one rfl (by have := condCode_lt cond; omega)
theorem aBr (qt : BitVec 2) (tm : Bool) (off : BitVec 17) : Statement (.aBr qt tm off) := one rfl (by have := Bool.toNat_le tm; omega)
theorem aJmp (imm : BitVec 32) (q : GuardQ) : Statement (.aJmp imm q) := two rfl (by omega) (by omega)
theorem aLoop (k : LoopNo) (a : RegB) (imm : BitVec 32) (q : GuardQ) : Statement (.aLoop k a imm q) := two rfl (by omega) (by omega)
theorem aTkput (f : Fifo) (a : RegB) (q : GuardQ) : Statement (.aTkput f a q) := one rfl (by have := fifoCode_lt f; omega)
theorem aTkget (d : RegB) (f : Fifo) (q : GuardQ) : Statement (.aTkget d f q) := one rfl (by have := fifoCode_lt f; omega)
theorem aSopen (st : StreamNo) (b : RegB) (imm : BitVec 14) (q : GuardQ) : Statement (.aSopen st b imm q) := one rfl (by omega)
theorem aSclose (st : StreamNo) (q : GuardQ) : Statement (.aSclose st q) := one rfl (by omega)
theorem aLd (st : StreamNo) (b : RegB) (n : BitVec 14) (q : GuardQ) : Statement (.aLd st b n q) := one rfl (by omega)
theorem aSt (st : StreamNo) (b : RegB) (n : BitVec 14) (q : GuardQ) : Statement (.aSt st b n q) := one rfl (by omega)
theorem aGath (st : StreamNo) (b : RegB) (si : StreamNo) (n : BitVec 10) (q : GuardQ) : Statement (.aGath st b si n q) := one rfl (by omega)
theorem aScat (st : StreamNo) (b : RegB) (si : StreamNo) (n : BitVec 10) (q : GuardQ) : Statement (.aScat st b si n q) := one rfl (by omega)
theorem aPref (st : StreamNo) (b : RegB) (n : BitVec 14) (q : GuardQ) : Statement (.aPref st b n q) := one rfl (by omega)
theorem aFence (kind : FenceKind) (sc : Scope) (q : GuardQ) : Statement (.aFence kind sc q) := one rfl (by have := fenceKindCode_lt kind; have := scopeCode_lt sc; omega)
theorem aLdb (d : RegB) (a : RegB) (imm : BitVec 12) (q : GuardQ) : Statement (.aLdb d a imm q) := one rfl (by omega)
theorem aCpy (d : RegB) (a : RegB) (q : GuardQ) : Statement (.aCpy d a q) := one rfl (by omega)
theorem mNop  : Statement .mNop := one rfl (by omega)
theorem mDone  : Statement .mDone := one rfl (by omega)
theorem mSet (fld : Shadow) (c : RegC) (imm : BitVec 11) : Statement (.mSet fld c imm) := one rfl (by have := shadowCode_lt fld; omega)
theorem mGo  : Statement .mGo := one rfl (by omega)
theorem mWait (d : RegC) (a : RegC) : Statement (.mWait d a) := one rfl (by omega)
theorem mCimld  : Statement .mCimld := one rfl (by omega)
theorem mMma  : Statement .mMma := one rfl (by omega)
theorem mAclr  : Statement .mAclr := one rfl (by omega)
theorem mCvt  : Statement .mCvt := one rfl (by omega)
theorem mSlice  : Statement .mSlice := one rfl (by omega)
theorem mBcast  : Statement .mBcast := one rfl (by omega)
theorem mRed  : Statement .mRed := one rfl (by omega)
theorem mBr (c : RegC) (tm : Bool) (off : BitVec 17) : Statement (.mBr c tm off) := one rfl (by have := Bool.toNat_le tm; omega)
theorem mLoop (k : LoopNo) (a : RegC) (imm : BitVec 32) : Statement (.mLoop k a imm) := two rfl (by omega) (by omega)
theorem mTkput (f : Fifo) (a : RegC) : Statement (.mTkput f a) := one rfl (by have := fifoCode_lt f; omega)
theorem mTkget (d : RegC) (f : Fifo) : Statement (.mTkget d f) := one rfl (by have := fifoCode_lt f; omega)
theorem mAdd (d : RegC) (a : RegC) (b : RegC) : Statement (.mAdd d a b) := one rfl (by omega)
theorem mSub (d : RegC) (a : RegC) (b : RegC) : Statement (.mSub d a b) := one rfl (by omega)
theorem mMov (d : RegC) (a : RegC) : Statement (.mMov d a) := one rfl (by omega)
theorem mAddi (d : RegC) (a : RegC) (imm : BitVec 12) : Statement (.mAddi d a imm) := one rfl (by omega)
theorem mLim (d : RegC) (imm : BitVec 32) : Statement (.mLim d imm) := two rfl (by omega) (by omega)
theorem enxSend (rd : RegX) (rs1 : RegX) : Statement (.enxSend rd rs1) := one rfl (by omega)
theorem enxFres (rd : RegX) (rs1 : RegX) (rs2 : RegX) (rs3 : RegX) : Statement (.enxFres rd rs1 rs2 rs3) := one rfl (by omega)
theorem enxFpoll (rd : RegX) (rs1 : RegX) : Statement (.enxFpoll rd rs1) := one rfl (by omega)
theorem enxFwait (rd : RegX) (rs1 : RegX) (rs2 : RegX) : Statement (.enxFwait rd rs1 rs2) := one rfl (by omega)
theorem enxTlread (rd : RegX) (rs1 : RegX) : Statement (.enxTlread rd rs1) := one rfl (by omega)
theorem enxCapset (idx : BitVec 3) (rs1 : RegX) (rs2 : RegX) (rs3 : RegX) : Statement (.enxCapset idx rs1 rs2 rs3) := one rfl (by omega)
theorem enxCapclr (idx : BitVec 3) : Statement (.enxCapclr idx) := one rfl (by omega)
theorem enxCapget (rd : RegX) (rs1 : RegX) : Statement (.enxCapget rd rs1) := one rfl (by omega)
theorem evHartWaiterRelease (core : Nat) : Statement (.evHartWaiterRelease core) := none_ rfl
theorem evFwaitInterruptWithdraw (core : Nat) : Statement (.evFwaitInterruptWithdraw core) := none_ rfl
theorem evHartMemoryAccess (core : Nat) (acc : HartAcc) : Statement (.evHartMemoryAccess core acc) := none_ rfl
theorem evLineFetch (cell : Nat) (ctx : Nat) (eng : Eng) : Statement (.evLineFetch cell ctx eng) := none_ rfl
theorem evJoinRendezvous (cell : Nat) (ctx : Nat) : Statement (.evJoinRendezvous cell ctx) := none_ rfl
theorem evParcelArrive (n : Nat) : Statement (.evParcelArrive n) := none_ rfl
theorem evVerdictReturn (n : Nat) : Statement (.evVerdictReturn n) := none_ rfl
theorem evDeferredParcelRetry (cell : Nat) (chan : Nat) : Statement (.evDeferredParcelRetry cell chan) := none_ rfl
theorem evChannelSelect (cell : Nat) : Statement (.evChannelSelect cell) := none_ rfl
theorem evInvocationEnd (cell : Nat) (ctx : Nat) : Statement (.evInvocationEnd cell ctx) := none_ rfl
theorem evWatchdogExpiry (cell : Nat) (ctx : Nat) : Statement (.evWatchdogExpiry cell ctx) := none_ rfl
theorem evPendingTrapRetry (cell : Nat) (ctx : Nat) : Statement (.evPendingTrapRetry cell ctx) := none_ rfl
theorem evTaskParcelArrive (n : Nat) : Statement (.evTaskParcelArrive n) := none_ rfl
theorem evTaskQueueToMailbox (cell : Nat) : Statement (.evTaskQueueToMailbox cell) := none_ rfl
theorem evTaskBalanceInterval (cell : Nat) : Statement (.evTaskBalanceInterval cell) := none_ rfl
theorem evBalanceTransferArrive (n : Nat) : Statement (.evBalanceTransferArrive n) := none_ rfl
theorem evWorklistBalanceInterval (cell : Nat) : Statement (.evWorklistBalanceInterval cell) := none_ rfl
theorem evWorklistReduction (part : Nat) : Statement (.evWorklistReduction part) := none_ rfl
theorem evWakeParcel (cell : Nat) : Statement (.evWakeParcel cell) := none_ rfl
theorem evSpillReturn (cell : Nat) : Statement (.evSpillReturn cell) := none_ rfl
theorem evFutureDeadline (die : Nat) (slot : Nat) : Statement (.evFutureDeadline die slot) := none_ rfl
theorem evTokenInjection (die : Nat) (slot : Nat) : Statement (.evTokenInjection die slot) := none_ rfl
theorem evLaunchSubmit (part : Nat) (addr : Nat) (user : Bool) : Statement (.evLaunchSubmit part addr user) := none_ rfl
theorem evLaunchProceed (n : Nat) : Statement (.evLaunchProceed n) := none_ rfl
theorem evCopyRunArrive (n : Nat) (off : Nat) (len : Nat) : Statement (.evCopyRunArrive n off len) := none_ rfl
theorem evSlabLanding (n : Nat) : Statement (.evSlabLanding n) := none_ rfl
theorem evFollowOnAccept (n : Nat) (cell : Nat) : Statement (.evFollowOnAccept n cell) := none_ rfl
theorem evFollowOnStart (cell : Nat) : Statement (.evFollowOnStart cell) := none_ rfl
theorem evCopyComplete (n : Nat) : Statement (.evCopyComplete n) := none_ rfl
theorem evStreamGroupLand (cell : Nat) (ctx : Nat) (st : StreamNo) : Statement (.evStreamGroupLand cell ctx st) := none_ rfl
theorem evStoreGroupWritten (cell : Nat) (ctx : Nat) (st : StreamNo) : Statement (.evStoreGroupWritten cell ctx st) := none_ rfl
theorem evCopyLandingGroupIssue (cell : Nat) (ctx : Nat) (st : StreamNo) : Statement (.evCopyLandingGroupIssue cell ctx st) := none_ rfl
theorem evStoreBufferDrain (cell : Nat) (ctx : Nat) (n : Nat) : Statement (.evStoreBufferDrain cell ctx n) := none_ rfl
theorem evL1LeaseExpiry (cell : Nat) (n : Nat) : Statement (.evL1LeaseExpiry cell n) := none_ rfl
theorem evMatrixFlipStart (cell : Nat) : Statement (.evMatrixFlipStart cell) := none_ rfl
theorem evMatrixCommandComplete (cell : Nat) (pipe : Pipe) : Statement (.evMatrixCommandComplete cell pipe) := none_ rfl
theorem evBroadcastRowArrive (cell : Nat) : Statement (.evBroadcastRowArrive cell) := none_ rfl
theorem evPartialRowAdd (n : Nat) : Statement (.evPartialRowAdd n) := none_ rfl
theorem evStagerCurRead (part : Nat) : Statement (.evStagerCurRead part) := none_ rfl
theorem evStagerTileReady (part : Nat) (slot : Nat) : Statement (.evStagerTileReady part slot) := none_ rfl
theorem evTableWalk (cell : Nat) (va : BitVec 64) (need : Need) (kmode : Bool) : Statement (.evTableWalk cell va need kmode) := none_ rfl
theorem evHeldFaultReraise (part : Nat) : Statement (.evHeldFaultReraise part) := none_ rfl
theorem evFbhdrWrite (part : Nat) (value : BitVec 64) : Statement (.evFbhdrWrite part value) := none_ rfl
theorem evKmodeTrap (n : Nat) : Statement (.evKmodeTrap n) := none_ rfl
theorem evServiceThreshold (n : Nat) : Statement (.evServiceThreshold n) := none_ rfl
theorem evServiceGrace (n : Nat) : Statement (.evServiceGrace n) := none_ rfl
theorem evServiceSpillArea (n : Nat) : Statement (.evServiceSpillArea n) := none_ rfl
theorem evServiceSchedule (n : Nat) : Statement (.evServiceSchedule n) := none_ rfl
theorem evServiceLaunch (n : Nat) : Statement (.evServiceLaunch n) := none_ rfl
theorem evServiceYield (n : Nat) : Statement (.evServiceYield n) := none_ rfl
theorem evGatewayForward (n : Nat) : Statement (.evGatewayForward n) := none_ rfl
theorem evFilterBucketRefill (n : Nat) : Statement (.evFilterBucketRefill n) := none_ rfl
theorem evSliceEnd (n : Nat) : Statement (.evSliceEnd n) := none_ rfl
theorem evSliceRestore (n : Nat) : Statement (.evSliceRestore n) := none_ rfl
theorem evGraceExpiry (cell : Nat) (ctx : Nat) : Statement (.evGraceExpiry cell ctx) := none_ rfl
theorem evCellAssign (cell : Nat) (part : Nat) (lcell : Nat) (kchan : BitVec 64) : Statement (.evCellAssign cell part lcell kchan) := none_ rfl
theorem evPartitionCreate (part : Nat) (cfg : PartCfg) : Statement (.evPartitionCreate part cfg) := none_ rfl
theorem evPartitionDestroy (part : Nat) : Statement (.evPartitionDestroy part) := none_ rfl
theorem evScrub (cells : List Nat) (part : Nat) (kind : Nat) : Statement (.evScrub cells part kind) := none_ rfl
theorem evBankScrub (bank : Nat) : Statement (.evBankScrub bank) := none_ rfl
theorem evSegmentUpdate (vf : Option Nat) (part : Nat) (seg : Segment) : Statement (.evSegmentUpdate vf part seg) := none_ rfl
theorem evReadShared (agent : Nat) (ask : LineAsk) : Statement (.evReadShared agent ask) := none_ rfl
theorem evReadOwn (agent : Nat) (ask : LineAsk) (store : Option (Nat × List Byte)) : Statement (.evReadOwn agent ask store) := none_ rfl
theorem evUpgrade (agent : Nat) (ask : StoreAsk) : Statement (.evUpgrade agent ask) := none_ rfl
theorem evWriteback (agent : Nat) (line : Nat) : Statement (.evWriteback agent line) := none_ rfl
theorem evCleanEvict (agent : Nat) (line : Nat) : Statement (.evCleanEvict agent line) := none_ rfl
theorem evStrongStoreOrAtomic (place : HomeLine) (off : Nat) (bytes : List Byte) : Statement (.evStrongStoreOrAtomic place off bytes) := none_ rfl
theorem evDirectoryEccError (line : Nat) : Statement (.evDirectoryEccError line) := none_ rfl
theorem evTagParityError (place : BankSet) : Statement (.evTagParityError place) := none_ rfl
theorem evUncorrectableError (where_ : ErrAt) : Statement (.evUncorrectableError where_) := none_ rfl
theorem evCorrectedError : Statement .evCorrectedError := none_ rfl
theorem evModuleReset (strap0 : Bool) (strap1 : Bool) (ok2 : Bool) (ok3 : Bool) (lanes : Nat) : Statement (.evModuleReset strap0 strap1 ok2 ok3 lanes) := none_ rfl
theorem evLdBind (port : Nat) (ld : Nat) (part : Nat) : Statement (.evLdBind port ld part) := none_ rfl
theorem evNotifyWrite (fn : HostFn) (qi : Nat) (value : BitVec 32) : Statement (.evNotifyWrite fn qi value) := none_ rfl
theorem evRequestLaunch (fn : HostFn) (qi : Nat) (req : BitVec 512) : Statement (.evRequestLaunch fn qi req) := none_ rfl
theorem evRequestParcel (fn : HostFn) (qi : Nat) (req : BitVec 512) : Statement (.evRequestParcel fn qi req) := none_ rfl
theorem evRequestResolve (fn : HostFn) (qi : Nat) (req : BitVec 512) : Statement (.evRequestResolve fn qi req) := none_ rfl
theorem evRequestPoll (fn : HostFn) (qi : Nat) (req : BitVec 512) : Statement (.evRequestPoll fn qi req) := none_ rfl
theorem evRequestResync (fn : HostFn) (qi : Nat) (req : BitVec 512) : Statement (.evRequestResync fn qi req) := none_ rfl
theorem evMsixUnmask (fn : HostFn) (entry : Nat) : Statement (.evMsixUnmask fn entry) := none_ rfl
theorem evPasidRevoke (fn : HostFn) (entry : Nat) : Statement (.evPasidRevoke fn entry) := none_ rfl
theorem evBar2Access (win : HostWin) (off : Nat) (acc : HostAcc) : Statement (.evBar2Access win off acc) := none_ rfl
theorem evPlimWrite (value : BitVec 64) : Statement (.evPlimWrite value) := none_ rfl
theorem evClockStep : Statement .evClockStep := none_ rfl
theorem evPgateWrite (cell : Nat) (value : BitVec 64) : Statement (.evPgateWrite cell value) := none_ rfl
theorem evBankWake (cell : Nat) (bank : Nat) : Statement (.evBankWake cell bank) := none_ rfl
theorem evUeDescriptorTake (part : Nat) : Statement (.evUeDescriptorTake part) := none_ rfl
theorem evUeTaggedReply (part : Nat) (tag : BitVec 64) (payload : List Byte) : Statement (.evUeTaggedReply part tag payload) := none_ rfl
theorem evUeMessageReceive (part : Nat) (job : BitVec 32) (msg : List Byte) : Statement (.evUeMessageReceive part job msg) := none_ rfl
theorem evRegisterWrite (reg : DevReg) (value : BitVec 64) : Statement (.evRegisterWrite reg value) := none_ rfl
theorem evPrefetcherAccess (cell : Nat) (va : BitVec 64) : Statement (.evPrefetcherAccess cell va) := none_ rfl
theorem evMessageFilterWrite (n : Nat) (entry : BitVec 128) : Statement (.evMessageFilterWrite n entry) := none_ rfl
theorem evCoreAssign (core : Nat) (part : Nat) : Statement (.evCoreAssign core part) := none_ rfl
theorem evVfAssign (vf : Nat) (part : Nat) : Statement (.evVfAssign vf part) := none_ rfl
theorem evConfigurationRequest (port : Nat) (req : CfgReq) : Statement (.evConfigurationRequest port req) := none_ rfl
theorem evMalformedRequest (fn : HostFn) (qi : Nat) (req : BitVec 512) : Statement (.evMalformedRequest fn qi req) := none_ rfl

end Sys2Proof.Laws.Words
end

