-- ==== Sys2Proof/Machine/Scopes.lean ====
section
/-! DEFINITION. Scopes (R127): the agents, and the instances that hold two of them. A scope restricts which pairs synchronise and changes
nothing else about an access, so no meaning tests it; the machine gives every pair the order of a pair within scope (log 68). -/

namespace Sys2Proof.Machine
open Sys2Proof

/-- Who performs an access (R127): an engine of a context, a streamer of a cell, a home by its Pavilion die (none for a Lodge die's), an
application core, another unit of the module, a host agent, a remote agent. -/
inductive Agent where
  | engine (cell ctx : Nat) (eng : Eng)
  | streamer (cell : Nat)
  | home (die : Option Nat)
  | core (n : Nat)
  | device
  | host
  | remote
  deriving DecidableEq, Repr

/-- The cell of an engine. -/
def Agent.cellOf : Agent → Option Nat
  | .engine c _ _ => some c
  | .streamer _ | .home _ | .core _ | .device | .host | .remote => none

/-- The die of an agent of a die instance: an engine or streamer of its cells, or a home on it. -/
def Agent.dieOf : Agent → Option Nat
  | .engine c _ _ | .streamer c => some (Machine.dieOf c)
  | .home d => d
  | .core _ | .device | .host | .remote => none

/-- An agent of the module. -/
def Agent.inModule : Agent → Bool
  | .host | .remote => false
  | .engine _ _ _ | .streamer _ | .home _ | .core _ | .device => true

/-- The group in which a launch placed an engine's invocation. -/
def State.placedOf (s : State) : Agent → Option Placed
  | .engine c x _ => (s.chan c (s.ctx c x).chan).placed
  | .streamer _ | .home _ | .core _ | .device | .host | .remote => none

/-- Two values that are present and equal. -/
def bothSame {α : Type} [BEq α] (a b : Option α) : Bool := a.isSome && a == b

/-- A launch placed the engine's invocation in a group that spans dies, whose instance is the one of package scope (R127). -/
def State.spansDies (s : State) (a : Agent) : Bool := (s.placedOf a).any fun p => !p.oneDie

/-- Two agents lie within a scope (R127). A group on one die lies within the instance of that die, which also serves the invocations that
no one launch placed in one group. -/
def State.sameScope (s : State) (a b : Agent) : Scope → Bool
  | .cell => bothSame a.cellOf b.cellOf
  | .patch => bothSame a.dieOf b.dieOf || ((s.spansDies a || s.spansDies b) && a.inModule && b.inModule)
  | .die => bothSame a.dieOf b.dieOf
  | .pkg => a.inModule && b.inModule
  | .sys => true

end Sys2Proof.Machine
end

