-- ==== Sys2Proof/Tests/Slice0.lean ====
section
/-! SUPPORT. Tests of the model: ill-formed terms the checks of WellFormed refuse, one word per instruction written out from the encodings of
R175 to R182 and R302, and small runs of one step. -/

namespace Sys2Proof.Tests
open Sys2Proof Sys2Proof.Machine Sys2Proof.Claims

/-! One theorem is checked at a time: many at once take many threads, and their stacks count as memory. -/
set_option Elab.async false
set_option synthInstance.maxSize 2048

/-! An ill-formed term for each check of WellFormed. -/

theorem test_wf_refuses_p0 : (Instr.xCmp .eq 0 1 2 0).wf = false ∧ (Instr.xCmpi .eq 0 1 2 0).wf = false ∧ (Instr.xVcmp .eq .f32 0 1 2 0).wf = false
    ∧ (Instr.aCmp .eq 0 1 2 0).wf = false := by decide
theorem test_wf_refuses_fifos : (Instr.xTkput .kax 1 0).wf = false ∧ (Instr.xTkget 1 .kxa 0).wf = false ∧ (Instr.aTkput .kxa 1 0).wf = false
    ∧ (Instr.aTkget 1 .kam 0).wf = false ∧ (Instr.mTkput .kam 1).wf = false ∧ (Instr.mTkget 1 .kmx).wf = false := by decide
theorem test_wf_refuses_orders : (Instr.xLd 1 2 0 false .rel .sys 0).wf = false ∧ (Instr.xLd 1 2 0 false .acqrel .sys 0).wf = false
    ∧ (Instr.xLd 1 2 3 true .weak .sys 0).wf = false ∧ (Instr.xSt 1 2 0 .acq .sys 0).wf = false ∧ (Instr.xSt 1 2 0 .acqrel .sys 0).wf = false := by decide
theorem test_wf_refuses_types : (Instr.xVadd .fp8e4 1 2 3 0).wf = false ∧ (Instr.xVsub .fp8e5 1 2 3 0).wf = false ∧ (Instr.xVmin .t30 1 2 3 0).wf = false
    ∧ (Instr.xVmax .t30 1 2 3 0).wf = false ∧ (Instr.xVabs .t30 1 2 0).wf = false ∧ (Instr.xVneg .fp8e4 1 2 0).wf = false
    ∧ (Instr.xVmul .fp8e4 1 2 3 0).wf = false ∧ (Instr.xVmadd .fp8e5 1 2 3 0).wf = false ∧ (Instr.xVmsub .fp8e4 1 2 3 0).wf = false
    ∧ (Instr.xVnmadd .fp8e4 1 2 3 0).wf = false ∧ (Instr.xVshl .f32 1 2 3 0).wf = false ∧ (Instr.xVshr .t30 1 2 3 0).wf = false
    ∧ (Instr.xVsra .f64 1 2 3 0).wf = false := by decide
theorem test_wf_refuses_more_types : (Instr.xVcmp .un .i32 1 2 3 0).wf = false ∧ (Instr.xVcmp .eq .t30 1 2 3 0).wf = false
    ∧ (Instr.xVcvt .f32 .f32 .rne 1 2 0).wf = false ∧ (Instr.xVred .max .t30 1 2 0).wf = false ∧ (Instr.xVred .sum .fp8e4 1 2 0).wf = false
    ∧ (Instr.xVrecip .i32 1 2 0).wf = false ∧ (Instr.xVrsqrt .t30 1 2 0).wf = false ∧ (Instr.xVexp2 .n8 1 2 0).wf = false
    ∧ (Instr.xVlog2 .fp8e5 1 2 0).wf = false := by decide
theorem test_wf_refuses_no_groups : (Instr.aLd 1 2 0 0).wf = false ∧ (Instr.aSt 1 2 0 0).wf = false ∧ (Instr.aGath 1 2 3 0 0).wf = false
    ∧ (Instr.aScat 1 2 3 0 0).wf = false ∧ (Instr.aPref 1 2 0 0).wf = false := by decide

/-! One word per instruction, from the encodings of the opcode maps. -/

theorem test_decode_x_arith :
    decodeX 0x0000000A none = some (.xNop 10#4) ∧
    decodeX 0x0000001A none = some (.xDone 10#4) ∧
    decodeX 0x02AD002A none = some (.xSys 21#5 13#5 10#4) ∧
    decodeX 0x0000003A none = some (.xEbrk 10#4) ∧
    decodeX 0x06ADC80A none = some (.xAdd 21#5 13#5 25#5 10#4) ∧
    decodeX 0x06ADC81A none = some (.xSub 21#5 13#5 25#5 10#4) ∧
    decodeX 0x06ADC82A none = some (.xAnd 21#5 13#5 25#5 10#4) ∧
    decodeX 0x06ADC83A none = some (.xOr 21#5 13#5 25#5 10#4) ∧
    decodeX 0x06ADC84A none = some (.xXor 21#5 13#5 25#5 10#4) ∧
    decodeX 0x06ADC85A none = some (.xAndn 21#5 13#5 25#5 10#4) ∧
    decodeX 0x06ADC86A none = some (.xShl 21#5 13#5 25#5 10#4) ∧
    decodeX 0x06ADC87A none = some (.xShr 21#5 13#5 25#5 10#4) ∧
    decodeX 0x06ADC88A none = some (.xSra 21#5 13#5 25#5 10#4) ∧
    decodeX 0x06ADC89A none = some (.xMin 21#5 13#5 25#5 10#4) ∧
    decodeX 0x06ADC8AA none = some (.xMax 21#5 13#5 25#5 10#4) ∧
    decodeX 0x06ADC8BA none = some (.xMinu 21#5 13#5 25#5 10#4) ∧
    decodeX 0x06ADC8CA none = some (.xMaxu 21#5 13#5 25#5 10#4) ∧
    decodeX 0x06AD00DA none = some (.xClz 21#5 13#5 10#4) ∧
    decodeX 0x06AD00EA none = some (.xCtz 21#5 13#5 10#4) ∧
    decodeX 0x06AD00FA none = some (.xPopc 21#5 13#5 10#4) := by decide

theorem test_decode_x_mul :
    decodeX 0x0AADC80A none = some (.xMul 21#5 13#5 25#5 10#4) ∧
    decodeX 0x0AADC81A none = some (.xMulh 21#5 13#5 25#5 10#4) ∧
    decodeX 0x0AADC82A none = some (.xMulhu 21#5 13#5 25#5 10#4) ∧
    decodeX 0x0AADC83A none = some (.xDiv 21#5 13#5 25#5 10#4) ∧
    decodeX 0x0AADC84A none = some (.xDivu 21#5 13#5 25#5 10#4) ∧
    decodeX 0x0AADC85A none = some (.xRem 21#5 13#5 25#5 10#4) ∧
    decodeX 0x0AADC86A none = some (.xRemu 21#5 13#5 25#5 10#4) := by decide

theorem test_decode_x_imm :
    decodeX 0x0EADA5CA none = some (.xAddi 21#5 13#5 2652#12 10#4) ∧
    decodeX 0x12ADA5CA none = some (.xAndi 21#5 13#5 2652#12 10#4) ∧
    decodeX 0x16ADA5CA none = some (.xOri 21#5 13#5 2652#12 10#4) ∧
    decodeX 0x1AADA5CA none = some (.xXori 21#5 13#5 2652#12 10#4) ∧
    decodeX 0x1EAD02BA none = some (.xShli 21#5 13#5 43#6 10#4) ∧
    decodeX 0x1EAD42BA none = some (.xShri 21#5 13#5 43#6 10#4) ∧
    decodeX 0x1EAD82BA none = some (.xSrai 21#5 13#5 43#6 10#4) ∧
    decodeX 0x22ADC85A none = some (.xCmp .geu 21#5 13#5 25#5 10#4) ∧
    decodeX 0x26ADB53A none = some (.xCmpi .geu 21#5 13#5 339#9 10#4) := by decide

theorem test_decode_x_pred :
    decodeX 0x2AADCDDA none = some (.xSel 21#5 93#7 13#5 25#5 10#4) ∧
    decodeX 0x2EA0000A (some 0x89ABCDEF) = some (.xLim 21#5 2309737967#32 10#4) ∧
    decodeX 0x2EAD010A (some 0x89ABCDEF) = some (.xLimh 21#5 13#5 2309737967#32 10#4) ∧
    decodeX 0x32EB6D60 none = some (.xPand 93#7 54#7 107#7) ∧
    decodeX 0x32EB6D62 none = some (.xPor 93#7 54#7 107#7) ∧
    decodeX 0x32EB6D64 none = some (.xPxor 93#7 54#7 107#7) ∧
    decodeX 0x32EB6D66 none = some (.xPandn 93#7 54#7 107#7) ∧
    decodeX 0x32EB6008 none = some (.xPmov 93#7 54#7) ∧
    decodeX 0x32EB6D6A none = some (.xPany 93#7 54#7 107#7) ∧
    decodeX 0x32EB6D6C none = some (.xPall 93#7 54#7 107#7) ∧
    decodeX 0x36E89A3C none = some (.xPseti 93#7 39484#16) ∧
    decodeX 0x3AED4000 none = some (.xPfrom 93#7 21#5) ∧
    decodeX 0x3AED4800 none = some (.xPto 93#7 21#5) ∧
    decodeX 0x3AED5000 none = some (.xPcnt 93#7 21#5) ∧
    decodeX 0x3EA0005A none = some (.xCsrr 21#5 .late 10#4) ∧
    decodeX 0x3EAD405A none = some (.xCsrw 21#5 .late 13#5 10#4) ∧
    decodeX 0x3EAD805A none = some (.xCsrs 21#5 .late 13#5 10#4) := by decide

theorem test_decode_x_control :
    decodeX 0x42EDA5C3 none = some (.xBr 93#7 .any 107971#17) ∧
    decodeX 0x4400000A (some 0x89ABCDEF) = some (.xJmp 2309737967#32 10#4) ∧
    decodeX 0x4800000A (some 0x89ABCDEF) = some (.xCall 2309737967#32 10#4) ∧
    decodeX 0x4C15000A none = some (.xJmpr 21#5 10#4) ∧
    decodeX 0x4C00001A none = some (.xRet 10#4) ∧
    decodeX 0x5055000A (some 0x89ABCDEF) = some (.xLoop 2#2 21#5 2309737967#32 10#4) ∧
    decodeX 0x5415100A none = some (.xTkput .kxm 21#5 10#4) ∧
    decodeX 0x56A0181A none = some (.xTkget 21#5 .kmx 10#4) := by decide

theorem test_decode_x_memory :
    decodeX 0x62ADA5DD none = some (.xLd 21#5 13#5 2#2 true .rlx .pkg 93#7) ∧
    decodeX 0x66AD85DD none = some (.xSt 21#5 13#5 2#2 .rlx .pkg 93#7) ∧
    decodeX 0x6AADCCB7 none = some (.xAmo 21#5 13#5 25#5 true .rlx .pkg .maxu) ∧
    decodeX 0x6EADCCB0 none = some (.xCas 21#5 13#5 25#5 true .rlx .pkg) ∧
    decodeX 0x7230000A none = some (.xFence .stream .pkg 10#4) ∧
    decodeX 0x76ADA5CA none = some (.xLds 21#5 13#5 2652#12 10#4) ∧
    decodeX 0x7AADA5CA none = some (.xSts 21#5 13#5 2652#12 10#4) ∧
    decodeX 0x7EAD000A none = some (.xCpy 21#5 13#5 10#4) ∧
    decodeX 0x7C15101A none = some (.xTlwait 2#2 21#5 10#4) ∧
    decodeX 0x7EA0102A none = some (.xTlread 21#5 2#2 10#4) := by decide

theorem test_decode_x_vector :
    decodeX 0x82ADCE0A none = some (.xVadd .f32 21#5 13#5 25#5 10#4) ∧
    decodeX 0x82ADCE1A none = some (.xVsub .f32 21#5 13#5 25#5 10#4) ∧
    decodeX 0x82ADCE2A none = some (.xVmin .f32 21#5 13#5 25#5 10#4) ∧
    decodeX 0x82ADCE3A none = some (.xVmax .f32 21#5 13#5 25#5 10#4) ∧
    decodeX 0x82AD064A none = some (.xVabs .f32 21#5 13#5 10#4) ∧
    decodeX 0x82AD065A none = some (.xVneg .f32 21#5 13#5 10#4) ∧
    decodeX 0x82ADCE6A none = some (.xVmul .f32 21#5 13#5 25#5 10#4) ∧
    decodeX 0x86ADCE0A none = some (.xVmadd .f32 21#5 13#5 25#5 10#4) ∧
    decodeX 0x86ADCE1A none = some (.xVmsub .f32 21#5 13#5 25#5 10#4) ∧
    decodeX 0x86ADCE2A none = some (.xVnmadd .f32 21#5 13#5 25#5 10#4) ∧
    decodeX 0x8AADCE0A none = some (.xVand .f32 21#5 13#5 25#5 10#4) ∧
    decodeX 0x8AADCE1A none = some (.xVor .f32 21#5 13#5 25#5 10#4) ∧
    decodeX 0x8AADCE2A none = some (.xVxor .f32 21#5 13#5 25#5 10#4) ∧
    decodeX 0x8AADC8BA none = some (.xVshl .i16 21#5 13#5 25#5 10#4) ∧
    decodeX 0x8AADC8CA none = some (.xVshr .i16 21#5 13#5 25#5 10#4) ∧
    decodeX 0x8AADC8DA none = some (.xVsra .i16 21#5 13#5 25#5 10#4) := by decide

theorem test_decode_x_convert :
    decodeX 0x8EADCE5A none = some (.xVcmp .ge .f32 21#5 13#5 25#5 10#4) ∧
    decodeX 0x92ADCE0A none = some (.xVsel .f32 21#5 10#4 13#5 25#5) ∧
    decodeX 0x96AD060A none = some (.xVbcst .f32 21#5 13#5 10#4) ∧
    decodeX 0x96ADCE1A none = some (.xVext .f32 21#5 13#5 25#5 10#4) ∧
    decodeX 0x96ADCE2A none = some (.xVins .f32 21#5 13#5 25#5 10#4) ∧
    decodeX 0x96ADCE3A none = some (.xVperm .f32 21#5 13#5 25#5 10#4) ∧
    decodeX 0x9AAD5E5A none = some (.xVcvt .f32 .bf16 .sat 21#5 13#5 10#4) ∧
    decodeX 0x9EADCE5A none = some (.xVqnt .sat 21#5 13#5 25#5 10#4) ∧
    decodeX 0xA2AD063A none = some (.xVred .argmax .f32 21#5 13#5 10#4) ∧
    decodeX 0xA6AD060A none = some (.xVrecip .f32 21#5 13#5 10#4) ∧
    decodeX 0xA6AD061A none = some (.xVrsqrt .f32 21#5 13#5 10#4) ∧
    decodeX 0xA6AD062A none = some (.xVexp2 .f32 21#5 13#5 10#4) ∧
    decodeX 0xA6AD063A none = some (.xVlog2 .f32 21#5 13#5 10#4) ∧
    decodeX 0xAAAD5006 none = some (.xVpop 21#5 10#4 13#5 6#4) ∧
    decodeX 0xA8155016 none = some (.xVpush 10#4 21#5 6#4) := by decide

theorem test_decode_x_trellis :
    decodeX 0xAEADA5CA none = some (.xVlds 21#5 13#5 2652#12 10#4) ∧
    decodeX 0xB2ADA5CA none = some (.xVsts 21#5 13#5 2652#12 10#4) ∧
    decodeX 0xB6AD000A none = some (.xGload 21#5 13#5 10#4) ∧
    decodeX 0xB415001A none = some (.xGstore 21#5 10#4) ∧
    decodeX 0xB6AD002A none = some (.xGstep 21#5 13#5 10#4) ∧
    decodeX 0xB6ADC83A none = some (.xGmask 21#5 13#5 25#5 10#4) ∧
    decodeX 0xB6A0004A none = some (.xGcount 21#5 10#4) ∧
    decodeX 0xB6A0005A none = some (.xGforce 21#5 10#4) := by decide

theorem test_decode_x_parcel :
    decodeX 0xC2AD000A none = some (.xSend 21#5 13#5 10#4) ∧
    decodeX 0xC1B9A81A none = some (.xSendnb 21#5 13#5 25#5 10#4) ∧
    decodeX 0xC6ADC80A none = some (.xHset 21#5 13#5 25#5 10#4) ∧
    decodeX 0xC415001A none = some (.xHmask 21#5 10#4) ∧
    decodeX 0xC415002A none = some (.xHunmask 21#5 10#4) ∧
    decodeX 0xC6ADC83A none = some (.xAbind 21#5 13#5 25#5 10#4) ∧
    decodeX 0xCAAD000A none = some (.xTspawn 21#5 13#5 10#4) ∧
    decodeX 0xC9B9A81A none = some (.xTqenq 21#5 13#5 25#5 10#4) ∧
    decodeX 0xC9B9A82A none = some (.xTqdeq 21#5 13#5 25#5 10#4) ∧
    decodeX 0xCEADC80A none = some (.xDcinit 21#5 13#5 25#5 10#4) ∧
    decodeX 0xCEAD001A none = some (.xDcdec 21#5 13#5 10#4) ∧
    decodeX 0xCDB9A82A none = some (.xDcpark 21#5 13#5 25#5 10#4) ∧
    decodeX 0xD015680A none = some (.xWlpush 21#5 13#5 10#4) ∧
    decodeX 0xD2A0681A none = some (.xWlpop 21#5 13#5 10#4) ∧
    decodeX 0xD015682A none = some (.xWlbound 21#5 13#5 10#4) ∧
    decodeX 0xD015003A none = some (.xWlterm 21#5 10#4) := by decide

theorem test_decode_x_object :
    decodeX 0xD6AD000A none = some (.xFnew 21#5 13#5 10#4) ∧
    decodeX 0xD6ADC81A none = some (.xFres 21#5 13#5 25#5 10#4) ∧
    decodeX 0xD6ADC82A none = some (.xFwait 21#5 13#5 25#5 10#4) ∧
    decodeX 0xD6AD003A none = some (.xFpoll 21#5 13#5 10#4) ∧
    decodeX 0xD6AD004A none = some (.xFfree 21#5 13#5 10#4) ∧
    decodeX 0xD6ADC85A none = some (.xFtmo 21#5 13#5 25#5 10#4) ∧
    decodeX 0xD6ADC86A none = some (.xFbind 21#5 13#5 25#5 10#4) ∧
    decodeX 0xDAAD000A none = some (.xBarr 21#5 13#5 10#4) ∧
    decodeX 0xDAADC81A none = some (.xBexp 21#5 13#5 25#5 10#4) ∧
    decodeX 0xDAADC82A none = some (.xBwait 21#5 13#5 25#5 10#4) ∧
    decodeX 0xDEAD000A none = some (.xMclaim 21#5 13#5 10#4) ∧
    decodeX 0xDC00001A none = some (.xMfree 10#4) := by decide

theorem test_decode_x_system :
    decodeX 0xE2ADC80A none = some (.xSret 21#5 13#5 25#5 10#4) ∧
    decodeX 0xE2AD001A none = some (.xWdset 21#5 13#5 10#4) ∧
    decodeX 0xE6A0004A none = some (.xSysr 21#5 .cstat 10#4) ∧
    decodeX 0xE6AD804A none = some (.xSysw 21#5 .cstat 13#5 10#4) ∧
    decodeX 0xE800000A none = some (.xTlbinvAll 10#4) ∧
    decodeX 0xE815001A none = some (.xTlbinvVa 21#5 10#4) ∧
    decodeX 0xE800002A none = some (.xTlbinvPart 10#4) ∧
    decodeX 0xEC00000A none = some (.xCinvL1 10#4) ∧
    decodeX 0xEC00001A none = some (.xCinvSb 10#4) ∧
    decodeX 0xEC00002A none = some (.xCinvIs 10#4) ∧
    decodeX 0xF2ADC80A none = some (.xCtxsave 21#5 13#5 25#5 10#4) ∧
    decodeX 0xF2ADC81A none = some (.xCtxload 21#5 13#5 25#5 10#4) := by decide

theorem test_decode_a_scalar :
    decodeA 0x00000002 none = some (.aNop 2#2) ∧
    decodeA 0x00000012 none = some (.aDone 2#2) ∧
    decodeA 0x05466802 none = some (.aAdd 10#4 6#4 13#4 2#2) ∧
    decodeA 0x05466812 none = some (.aSub 10#4 6#4 13#4 2#2) ∧
    decodeA 0x05466822 none = some (.aAnd 10#4 6#4 13#4 2#2) ∧
    decodeA 0x05466832 none = some (.aShl 10#4 6#4 13#4 2#2) ∧
    decodeA 0x05466842 none = some (.aShr 10#4 6#4 13#4 2#2) ∧
    decodeA 0x05466852 none = some (.aMul 10#4 6#4 13#4 2#2) ∧
    decodeA 0x05460062 none = some (.aMov 10#4 6#4 2#2) ∧
    decodeA 0x0946A5C2 none = some (.aAddi 10#4 6#4 2652#12 2#2) ∧
    decodeA 0x0D400002 (some 0x89ABCDEF) = some (.aLim 10#4 2309737967#32 2#2) ∧
    decodeA 0x104A3051 none = some (.aCmp .geu 2#2 10#4 6#4 1#2) ∧
    decodeA 0x2281A5C3 none = some (.aBr 2#2 true 107971#17) ∧
    decodeA 0x24000002 (some 0x89ABCDEF) = some (.aJmp 2309737967#32 2#2) ∧
    decodeA 0x284A0001 (some 0x89ABCDEF) = some (.aLoop 2#2 10#4 2309737967#32 1#2) ∧
    decodeA 0x2C0A2002 none = some (.aTkput .kam 10#4 2#2) ∧
    decodeA 0x2D402812 none = some (.aTkget 10#4 .kma 2#2) := by decide

theorem test_decode_a_stream :
    decodeA 0x429AA732 none = some (.aSopen 10#4 6#4 10867#14 2#2) ∧
    decodeA 0x46800002 none = some (.aSclose 10#4 2#2) ∧
    decodeA 0x4A9AA732 none = some (.aLd 10#4 6#4 10867#14 2#2) ∧
    decodeA 0x4E9AA732 none = some (.aSt 10#4 6#4 10867#14 2#2) ∧
    decodeA 0x529AC5D2 none = some (.aGath 10#4 6#4 13#4 709#10 2#2) ∧
    decodeA 0x569AC5D2 none = some (.aScat 10#4 6#4 13#4 709#10 2#2) ∧
    decodeA 0x5A9AA732 none = some (.aPref 10#4 6#4 10867#14 2#2) ∧
    decodeA 0x5E300002 none = some (.aFence .stream .pkg 2#2) ∧
    decodeA 0x6146A5C2 none = some (.aLdb 10#4 6#4 2652#12 2#2) ∧
    decodeA 0x65460002 none = some (.aCpy 10#4 6#4 2#2) := by decide

theorem test_decode_m_command :
    decodeM 0x00000000 none = some .mNop ∧
    decodeM 0x00000010 none = some .mDone ∧
    decodeM 0x04D55A30 none = some (.mSet .sliceK 10#4 1443#11) ∧
    decodeM 0x08000000 none = some .mGo ∧
    decodeM 0x0D460000 none = some (.mWait 10#4 6#4) ∧
    decodeM 0x10000000 none = some .mCimld ∧
    decodeM 0x14000000 none = some .mMma ∧
    decodeM 0x18000000 none = some .mAclr ∧
    decodeM 0x1C000000 none = some .mCvt ∧
    decodeM 0x20000000 none = some .mSlice ∧
    decodeM 0x24000000 none = some .mBcast ∧
    decodeM 0x28000000 none = some .mRed ∧
    decodeM 0x2EA1A5C3 none = some (.mBr 10#4 true 107971#17) ∧
    decodeM 0x304A0000 (some 0x89ABCDEF) = some (.mLoop 2#2 10#4 2309737967#32) ∧
    decodeM 0x340A2800 none = some (.mTkput .kma 10#4) ∧
    decodeM 0x35402010 none = some (.mTkget 10#4 .kam) ∧
    decodeM 0x39466800 none = some (.mAdd 10#4 6#4 13#4) ∧
    decodeM 0x39466810 none = some (.mSub 10#4 6#4 13#4) ∧
    decodeM 0x39460020 none = some (.mMov 10#4 6#4) ∧
    decodeM 0x3D46A5C0 none = some (.mAddi 10#4 6#4 2652#12) := by decide

theorem test_decode_m_lim :
    decodeM 0x41400000 (some 0x89ABCDEF) = some (.mLim 10#4 2309737967#32) := by decide

theorem test_decode_hart :
    rawH 0x00068A8B = some (.enxSend 21#5 13#5) ∧
    rawH 0x51969A8B = some (.enxFres 21#5 13#5 25#5 10#5) ∧
    rawH 0x0006AA8B = some (.enxFpoll 21#5 13#5) ∧
    rawH 0x0196BA8B = some (.enxFwait 21#5 13#5 25#5) ∧
    rawH 0x0006CA8B = some (.enxTlread 21#5 13#5) ∧
    rawH 0xC8DA82AB = some (.enxCapset 5#3 21#5 13#5 25#5) ∧
    rawH 0x000012AB = some (.enxCapclr 5#3) ∧
    rawH 0x0006AAAB = some (.enxCapget 21#5 13#5) := by decide



/-! The small state of the tests: cell 0 of partition 1, whose context 0 runs in U mode with the claim of its matrix unit, X at lane 1, A at lane 2 and M at
lane 3 of the line at slot 8. Its data TLB translates 0x100000 to 0x2000. -/

def lineT : BitVec 256 := 0x0FF40210
def ctxT : Ctx := { Ctx.reset with
  st := .running, chan := 5, inv := 7, limit := 0x1000000
  g := [(1, 5), (2, 7), (3, 0x100040), (4, 0xFFFFFFFFFFFFFFFF), (5, 0x80), (6, 0x800000000000000C), (7, 12), (31, 0x800000000000000C)]
  v := [(1, 0x40400000_3F800000), (2, 0x40000000_40000000)], p := [(1, 0), (2, 1), (3, 0xFFFF)], b := [(1, 3), (2, 9)], q := [(1, false), (2, true)], c := [(1, 2), (2, 0)]
  ex := { EngC.reset with st := .running, pc := 9 }, ea := { EngC.reset with st := .running, pc := 10 }, em := { EngC.reset with st := .running, pc := 11 } }
def cellT : Cell := { Cell.reset with
  tag := 1, lcell := 0, claim := some 0, ctxs := [(0, ctxT)], istore := [⟨1, 8, true, lineT⟩], dtlb := [⟨1, 0x100000, 4096, 0x2000, 15, .interleave, true⟩] }
def partT : Part := { Part.reset with
  st := .running, gridW := 2, gridH := 1, table := [0x40000000, 0x40000001], seg := ⟨0, 0x40000000, 0x20000000000, 0x40000000⟩, slices := [0, 1], epoch := true }
def stT : State := { State.reset with bootStep := 6, bstat := 1, cells := [(0, cellT)], parts := [(1, partT)] }
def onCtx (f : Ctx → Ctx) : State := stT.setCtx 0 0 (f ctxT)
def onCell (f : Cell → Cell) : State := stT.setCell 0 (f cellT)
def onPart (f : Part → Part) : State := stT.setPart 1 (f partT)

/-- The next state that an instruction answers. -/
def nx (o : Host.Outcome State Fault Refusal) : Option State :=
  match o with
  | .next s => some s
  | .fault _ => none
  | .refused _ => none
/-- An outcome's state through f. -/
def seen {α : Type} (i : Instr) (s : State) (f : State → α) : Option α := (nx (exec i s)).map f
/-- An instruction takes s to t. -/
def isRun (i : Instr) (s t : State) : Bool := nx (exec i s) == some t

/-! Witnesses: a state and operands that meet the hypotheses of each statement, and, where they are short, what the instruction does there. -/

theorem witness_ScalarResults : xResult stT (.xAdd 3 1 2 0) = some ⟨1, 0, [3, 1, 2], 3, 12⟩ ∧ xReady stT 0 [3, 1, 2]
    ∧ isRun (.xAdd 3 1 2 0) stT (xGoes stT (stT.cx.setG 3 12) 1) = true := ⟨rfl, by decide +kernel, by decide +kernel⟩
theorem witness_ScalarResults_predicate : pResult stT.cx (.xCmp .eq 4 1 1 0) ⟨0, [1, 1], 4, 0xFFFF⟩ ∧ xReady stT 0 [1, 1]
    ∧ isRun (.xCmp .eq 4 1 1 0) stT (xGoes stT (stT.cx.setP 4 0xFFFF) 1) = true :=
  ⟨.cmpT .eq 4 1 1 0 (by decide +kernel), by decide +kernel, by decide +kernel⟩
theorem witness_ScalarResults_discards : isRun (.xAdd 0 1 2 0) stT (xGoes stT stT.cx 1) = true ∧ isRun (.xPall 0 2 3) stT (xGoes stT stT.cx 1) = true := by
  decide +kernel
theorem witness_FalseGuardRetires : xGuard (.xNop 1) = some (1, 1) ∧ ¬guardOn stT.cx 1 ∧ noLoop stT.cx .x ∧ aGuard (.aNop 1) = some (1, 1) ∧ stT.cx.qr 1 = false
    ∧ noLoop stT.cx .a ∧ isRun (.xNop 1) stT (xGoes stT stT.cx 1) = true := by decide +kernel
theorem witness_FalseGuardRetires_privileged : privGuard (.xCinvL1 1) = some (1, 1) ∧ (onCtx fun x => { x with kmode := true }).cx.kmode = true
    ∧ ¬guardOn (onCtx fun x => { x with kmode := true }).cx 1 := by decide +kernel
theorem witness_CsrInstructions : xReady stT 0 [3, 1] ∧ isRun (.xCsrw 3 .fmode 1 0) stT (xGoes stT (({ stT.cx with fmode := true }).setG 3 0) 1) = true := by
  decide +kernel
theorem witness_XScalarFrame : (xDest stT (.xAdd 3 1 2 0)).isSome = true ∧ (nx (exec (.xAdd 3 1 2 0) stT)).isSome = true
    ∧ (xDest stT (.xCsrs 3 .late 1 0)).isSome = true ∧ (nx (exec (.xCsrs 3 .late 1 0) stT)).isSome = true := by decide +kernel

theorem witness_lineAt : lineAt stT 12 lineT stT := ⟨.inl ⟨⟨1, 8, true, lineT⟩, by decide +kernel, rfl, rfl⟩, by decide +kernel⟩
/-- The line at slot 24, which the instruction store does not hold, lies in memory. -/
def farT : State := { stT.setCell 0 { cellT with itlb := [⟨1, 0, 4096, 0x3000, 15, .interleave, true⟩] } with mem := addrBytes 0x3060 (leBytes 32 lineT.toNat) |>.filter fun e => e.2 != 0 }
theorem witness_lineAt_fetched : farT.cl.istoreHit farT.cx.kmode (lineSlot 28) = none
    ∧ (match farT.fetchLine farT.cur.cell farT.cx.kmode 28 with | .ok (b, _) => b == lineT | .error _ => false) = true
    ∧ seen (.xJmp 19 0) farT (fun t => (t.cx.ex.pc, t.cl.istore.length)) = some (28, 2) := by decide +kernel
theorem witness_ControlTransfers : jumps stT (.xBr 2 .t 3) .x 12 ∧ legalTarget lineT .x 12 ∧ isRun (.xBr 2 .t 3) stT (stT.setCx (jumped stT.cx .x 12)) = true :=
  ⟨.br 2 .t 3 (by simp only [testHolds]; decide +kernel), by decide +kernel, by decide +kernel⟩
theorem witness_ControlTransfers_wrong_lane : jumps stT (.aJmp 1 0) .a 11 ∧ ¬legalTarget lineT .a 11
    ∧ isRun (.aJmp 1 0) stT (stT.raise 0 0 .a ⟨3, 6, 0xFF, slotAddr 11, 0, 0⟩ 0 0) = true
    ∧ jumps stT (.aJmp 6 0) .a 16 ∧ isRun (.aJmp 6 0) stT (stT.raise 0 0 .a ⟨3, 6, 0xFF, slotAddr 16, 0, 0⟩ 0 0) = true := ⟨.ajmp 1 0 (by decide +kernel), by decide +kernel, by decide +kernel, .ajmp 6 0 (by decide +kernel), by decide +kernel⟩
theorem witness_ControlTransfers_untaken : fallsThrough stT (.mBr 2 false 0) .m ∧ noLoop stT.cx .m
    ∧ isRun (.mBr 2 false 0) stT (stT.setCx (past stT.cx .m 1)) = true := ⟨.mbr 2 false 0 (by decide +kernel) (by decide +kernel), by decide +kernel, by decide +kernel⟩
theorem witness_ControlTransfers_calls : guardOn stT.cx 0 ∧ settled stT.cx [31] ∧ stT.cx.ex.pc + (3#32).signExtend 55 = 12 ∧ legalTarget lineT .x 12 ∧ ¬legalTarget lineT .x 14
    ∧ (stT.cx.gr 6).getLsbD 63 = true ∧ (stT.cx.gr 31).getLsbD 63 = true ∧ isRun (.xJmpr 6 0) stT (stT.setCx (jumped stT.cx .x 12)) = true := by decide +kernel
theorem witness_ControlTransfers_loops : loops stT (.xLoop 1 1 3 0) .x 1 5 12 ∧ legalTarget lineT .x 12 ∧ noLoop stT.cx .x
    ∧ isRun (.xLoop 1 1 3 0) stT (stT.setCx (jumped (stT.cx.setLoop .x 1 ⟨5, 11, 12⟩) .x 11)) = true :=
  ⟨.x 1 1 3 0 (by decide +kernel) (by decide +kernel), by decide +kernel, by decide +kernel, by decide +kernel⟩
def loopT : State := onCtx fun x => { x with loops := [(0, ⟨1, 12, 9⟩), (2, ⟨3, 9, 9⟩)] }
theorem witness_ControlTransfers_loops_end : xResult loopT (.xAdd 3 1 2 0) = some ⟨1, 0, [3, 1, 2], 3, 12⟩ ∧ (loopT.cx.loopOf .x 0).count = 1 ∧ (loopT.cx.loopOf .x 0).last = loopT.cx.ex.pc
    ∧ (loopT.cx.loopOf .x 2).first.toNat < (loopT.cx.loopOf .x 0).first.toNat
    ∧ isRun (.xAdd 3 1 2 0) loopT (loopT.setCx (jumped (((loopT.cx.setG 3 12).setLoop .x 0 ⟨0, 12, 9⟩).setLoop .x 2 ⟨2, 9, 9⟩) .x 9)) = true :=
  ⟨rfl, by decide +kernel, by decide +kernel, by decide +kernel, by decide +kernel⟩
theorem witness_EnginesStop : ends stT (.xDone 0) .x ∧ ends stT (.aDone 0) .a ∧ ends stT .mDone .m ∧ guardOn stT.cx 0 ∧ settled stT.cx [1, 2]
    ∧ isRun (.xSys 1 2 0) stT ((stT.setCx { stT.cx with sysd := 1 }).raise 0 0 .x ⟨0x30, 6, 0xFF, 0, 7, 0⟩ 7 1) = true :=
  ⟨.x 0 (by decide +kernel), .a 0 (by decide +kernel), .m (by decide +kernel), by decide +kernel, by decide +kernel, by decide +kernel⟩
theorem witness_TokenFifos : puts stT (.xTkput .kxa 1 0) .x .kxa 5 ∧ (stT.cx.fifo 0).items.length < 16 ∧ gets stT (.aTkget 1 .kxa 0) .a .kxa (fun x w => x.setB 1 w)
    ∧ (stT.cx.fifo 0).items = [] := ⟨.x .kxa 1 0 (by decide +kernel) (by decide +kernel), by decide +kernel, .a 1 .kxa 0 (by decide +kernel), by decide +kernel⟩
def fifoT : State := onCtx fun x => { x with fifos := [(0, ⟨3, [8, 9]⟩), (2, ⟨0, List.replicate 16 1⟩)] }
theorem witness_TokenFifos_values : (fifoT.cx.fifo 0).items = [8, 9] ∧ (fifoT.cx.fifo 2).items.length = 16 ∧ isRun (.xTkput .kxm 1 0) fifoT fifoT = true
    ∧ isRun (.aTkget 1 .kxa 0) fifoT (fifoT.setCx (past ((({ fifoT.cx with ea := { fifoT.cx.ea with horizon := 0 } }).setFifo 0 ⟨4, [9]⟩).setB 1 8) .a 1)) = true := by
  decide +kernel
theorem witness_EngineScalarResults : aResult stT.cx (.aAdd 3 1 2 0) = some (1, 0, some 3, 12) ∧ aReady stT 0 ∧ condition .lt (stT.cx.br 1) (stT.cx.br 2)
    ∧ mResult stT.cx (.mAdd 3 1 1) = some (1, 3, 4) ∧ mReady stT ∧ (onCell fun k => { k with claim := some 1 }).cl.claim ≠ some 0
    ∧ isRun (.mAdd 3 1 1) stT (mGoes stT (stT.cx.setC 3 4) 1) = true :=
  ⟨by decide +kernel, by decide +kernel, by simp only [condition]; decide +kernel, by decide +kernel, by decide +kernel, by decide +kernel, by decide +kernel⟩
theorem witness_TrapStopsEngine : stT.cx.kmode = false ∧ (stT.part stT.cl.tag).fbhdr = 0 ∧ (onCtx fun x => { x with kmode := true }).cx.kmode = true := by decide +kernel

theorem witness_VectorElementResult : vResult stT (.xVadd .i32 5 1 2 0) 32 5 0 []
    (fun k => wrapTo .i32 (valueOf .i32 (elem 32 (stT.cx.vr 1) k) + valueOf .i32 (elem 32 (stT.cx.vr 2) k))) ∧ settled stT.cx [] ∧ noLoop stT.cx .x
    ∧ governs (stT.cx.guard 2) 32 0 ∧ ¬governs (stT.cx.guard 2) 32 1 :=
  ⟨.addI .i32 5 1 2 0 (by decide), by decide +kernel, by decide +kernel, by simp only [governs]; decide +kernel, by simp only [governs]; decide +kernel⟩
theorem witness_VectorOtherResults : noLoop stT.cx .x ∧ xReady stT 0 [3, 1] ∧ (5#5 ≠ 0) ∧ RedOp.sum ≠ .argmax
    ∧ ((nx (exec (.xVcmp .eq .f32 5 1 2 0) stT)).map fun t => t.cx.pr 5) = some 0xFFFC := by decide +kernel
/-- A stream of load kind 1, and one of store kind 2, with DEPTH 2. -/
def streamT (kind : Nat) (es : List Entry) : Stream := { Stream.reset with desc := BitVec.ofNat 256 (kind * 2 ^ 64 + 2 * 2 ^ 96), st := .opened, entries := es, tail := BitVec.ofNat 16 es.length }
def streamsT : State := onCtx fun x => { x with streams := [(1, streamT 1 [⟨7, 0xFFFF, .word 9, false⟩]), (2, streamT 2 []), (3, streamT 2 [Entry.ofBytes [] .absent false, Entry.ofBytes [] .absent false])] }
theorem witness_StreamPorts : (streamsT.cx.stream 1).isLoad = true ∧ dKind (streamsT.cx.stream 1).desc ≠ 5 ∧ (streamsT.cx.stream 1).entries = [⟨7, 0xFFFF, .word 9, false⟩]
    ∧ settled streamsT.cx [3] ∧ (streamsT.cx.stream 2).isStore = true ∧ (streamsT.cx.stream 2).fill < dDepth (streamsT.cx.stream 2).desc
    ∧ dDepth (streamsT.cx.stream 3).desc ≤ (streamsT.cx.stream 3).fill ∧ (streamsT.cx.stream 1).isStore = false
    ∧ ((nx (exec (.xVpop 5 1 3 0) streamsT)).map fun t => (t.cx.vr 5, t.cx.gr 3, (t.cx.stream 1).head)) = some (7, 9, 1)
    ∧ isRun (.xVpush 3 1 0) streamsT streamsT = true := by decide +kernel
theorem witness_StreamPorts_empty : ((onCtx fun x => { x with streams := [(1, streamT 1 [])] }).cx.stream 1).isLoad = true
    ∧ isRun (.xVpop 5 1 3 0) (onCtx fun x => { x with streams := [(1, streamT 1 [])] }) (onCtx fun x => { x with streams := [(1, streamT 1 [])] }) = true := by decide +kernel

def storeT : State := onCell fun k => { k with store := [(0x80, 0x11), (0x87, 0x22)], ctxs := [(0, { ctxT with g := [(1, 0x80), (2, 0x0102030405060708), (3, 0x5FFC0), (4, 0x60000), (5, 1)] })] }
theorem witness_CellStoreAccess : xReady storeT 0 [2, 1] ∧ storeT.cl.storeOk storeT.cx.chan 0x80 8 = true ∧ storeT.cl.storePoison 0x80 8 = false ∧ storeT.cl.mailHit 0x80 8 = false
    ∧ storeT.cl.storeOk storeT.cx.chan 0x80 64 = true ∧ storeT.cl.mailHit 0x80 64 = false ∧ storeT.cl.storeOk storeT.cx.chan 0x5FFC0 64 = true
    ∧ ((nx (exec (.xLds 2 1 0 0) storeT)).map fun t => t.cx.gr 2) = some 0x2200000000000011
    ∧ ((nx (exec (.xSts 2 1 1 0) storeT)).map fun t => (mget 0 t.cl.store 0x88, mget 0 t.cl.store 0x8F, mget 0 t.cl.store 0x87)) = some (8, 1, 0x22) := by
  decide +kernel
theorem witness_CellStoreAccess_bounds : isRun (.xVlds 5 4 0 0) storeT (storeT.raise 0 0 .x ⟨0x12, 1, 0xFF, 0, 0, 0⟩ 0 0) = true
    ∧ isRun (.xVlds 5 5 0 0) storeT (storeT.raise 0 0 .x ⟨5, 1, 0xFF, 0, 0, 0⟩ 0 0) = true ∧ ((nx (exec (.xVlds 5 3 0 0) storeT)).map fun t => t.cx.ex.pc) = some 10 := by
  decide +kernel

/-- Memory of the tests: bytes from a physical address on. -/
def mem (s : State) (pa : Nat) (bs : List Byte) : State := s.memPut (addrBytes pa bs)
/-- A Trellis block of VOCAB 512, two states, two symbols, in state 1 at depth 1 with symbol 1 on its stack; its tables at 0x100200 and 0x100400. -/
def blockT (state depth : Nat) : List Byte := leBytes 8 0x100200 ++ leBytes 8 0x100400 ++ leBytes 4 512 ++ leBytes 1 1 ++ leBytes 1 2 ++ leBytes 1 state ++ leBytes 1 depth ++ leBytes 8 (if depth = 0 then 0 else 1)
  ++ List.replicate 32 0
def trellisT (state depth : Nat) (entry : Nat) (tok : Word) : State :=
  let s := mem (onCtx fun x => { x with g := (2, 0x100000) :: x.g.filter fun e => e.1 != 2 }) 0x2000 (blockT state depth)
  let t := (nx (exec (.xGload 10 2 0) s)).getD s
  mem (t.setCx { t.cx with ex := { t.cx.ex with pc := 9 }, g := [(3, tok), (2, 0x100040), (4, 0x80), (5, 0)] }) (0x2200 + 4 * (state * 512 + tok.toNat)) (leBytes 4 entry)
theorem witness_TrellisOperations : guardOn (trellisT 1 1 0 0).cx 0 ∧ (trellisT 1 1 0 0).cx.gValid = true ∧ (trellisT 1 1 0 0).cx.gVocab = 512 ∧ stT.cx.gValid = false
    ∧ blockOk (blockT 1 1) = true ∧ blockOk (blockT 2 1) = false ∧ ((nx (exec (.xGstep 10 3 0) (trellisT 1 1 0 512))).map fun t => t.cx.gr 10) = some 1 := by decide +kernel
/-- What gstep answers, and the state and the depth after it: a push, a pop that matches and one that does not, a reject, a reserved bit, a final state. -/
theorem witness_TrellisOperations_steps : ((nx (exec (.xGstep 10 3 0) (trellisT 1 1 0x100 5))).map fun t => (t.cx.gr 10, t.cx.gState, t.cx.gDepth)) = some (0, 0, 2)
    ∧ ((nx (exec (.xGstep 10 3 0) (trellisT 1 1 0x40600 5))).map fun t => (t.cx.gr 10, t.cx.gState, t.cx.gDepth)) = some (2, 0, 0)
    ∧ ((nx (exec (.xGstep 10 3 0) (trellisT 1 1 0x200 5))).map fun t => (t.cx.gr 10, t.cx.gState, t.cx.gDepth)) = some (1, 1, 1)
    ∧ ((nx (exec (.xGstep 10 3 0) (trellisT 1 1 0x80000 5))).map fun t => (t.cx.gr 10, t.cx.gState, t.cx.gDepth)) = some (3, 1, 1) := by decide +kernel
theorem witness_TrellisOperations_stack : trAct 0x200 = 2 ∧ (trellisT 0 0 0x200 5).cx.gDepth = 0
    ∧ ((nx (exec (.xGstep 10 3 0) (trellisT 0 0 0x200 5))).map fun t => (t.cx.st, (t.cx.esc.map fun v => bnat (vecBytes v) 0 1))) = some (.trapPending, [0x26]) := by
  decide +kernel
theorem witness_TrellisOperations_masks : settled (trellisT 1 1 0 0).cx [10, 4, 5] ∧ (trellisT 1 1 0 0).cl.storeOk 5 0x80 2048 = true
    ∧ ((trellisT 1 1 0 0).segRead 0).toOption.isSome = true ∧ (trellisT 1 1 0 0).rowTokens.toOption.isSome = true
    ∧ ((nx (exec (.xGcount 10 0) (mem (trellisT 1 1 0 0) 0x2540 [0x04]))).map fun t => t.cx.gr 10) = some 1
    ∧ ((nx (exec (.xGforce 10 0) (mem (trellisT 1 1 0 0) 0x2540 [0x04]))).map fun t => t.cx.gr 10) = some 2 := by decide +kernel

/-- The state of the memory tests: 0x2040 on holds 01 02 03 … 08, g3 names it. -/
def memT : State := mem stT 0x2040 [1, 2, 3, 4, 5, 6, 7, 0x88]
theorem witness_homed : homed memT .read (ldAddr memT 3 3 0) 8 ⟨0x2040, .interleave⟩ memT ∧ homed memT .write (ldAddr memT 3 3 0) 8 ⟨0x2040, .interleave⟩ memT
    ∧ homed memT .readWrite (memT.cx.gr 3) 8 ⟨0x2040, .interleave⟩ memT := by
  refine ⟨⟨?_, rfl, ?_, ?_⟩, ⟨?_, rfl, ?_, ?_⟩, ⟨?_, rfl, ?_, ?_⟩⟩ <;> decide +kernel
theorem witness_LoadsAndAlignment : settled memT.cx [1, 3] ∧ sbOf memT.cx.sb 0x81 = [] ∧ memT.poisoned 0x81 = false ∧ memT.cl.l1Hits 0 0 0x81 = [] ∧ noLoop memT.cx .x
    ∧ ((nx (exec (.xLd 1 3 3 false .rlx .sys 0) memT)).map fun t => t.cx.gr 1) = some 0x8807060504030201
    ∧ ((nx (exec (.xLd 1 3 0 true .weak .sys 7) memT)).map fun t => t.cx.gr 1) = some 0xFFFFFFFFFFFFFF88 ∧ (ldAddr memT 2 3 0).toNat % 8 ≠ 0 := by decide +kernel
def leasedT : State := memT.setCell 0 { memT.cell 0 with l1 := [⟨1, 0x81, 9, 0, 100⟩] }
def poisonT : State := { memT with poison := [(0x81, true)] }
/-- A line of a pending staging slot of the running partition. -/
def slotT : State := memT.setPart 1 { partT with sched := some ⟨0, false, 0, 1, [(0, .pending 0 4)], [(2, 0)], []⟩ }
theorem witness_LoadsAndAlignment_clauses : leasedT.cl.l1Hits 0 0 0x81 = [⟨1, 0x81, 9, 0, 100⟩] ∧ poisonT.poisoned 0x81 = true
    ∧ seen (.xLd 1 3 3 false .rlx .sys 0) poisonT (fun t => (t.cx.st, t.cx.ex.code, t.cx.gr 1)) = some (.suspended, 0x13, 5)
    ∧ slotT.stageAt slotT.pid 0x2040 = some (.pending 0 4)
    ∧ seen (.xLd 1 3 3 false .rlx .sys 0) slotT (fun t => (t.cx.ex.pc, t.cx.ex.waited)) = some (9, some 0x2040) := by decide +kernel
theorem witness_StoreTakesBytes : settled memT.cx [1, 3] ∧ memT.cx.sb.length < 16 ∧ memT.slotPages 0x81 = []
    ∧ ((nx (exec (.xSt 1 3 3 .weak .sys 0) memT)).map fun t => (t.memByte 0x2040, t.cx.sb)) = some (1, [⟨0x81, 5, 0xFF, .weak, 32⟩])
    ∧ ((nx (exec (.xSt 2 3 1 .weak .sys 2) ((nx (exec (.xSt 1 3 3 .weak .sys 0) memT)).getD stT))).map fun t => t.cx.sb) = some [⟨0x81, 0x700000005, 0xFF, .weak, 32⟩]
    ∧ ((nx (exec (.xSt 2 3 3 .rel .sys 0) ((nx (exec (.xSt 1 3 3 .weak .sys 0) memT)).getD stT))).map fun t => (t.memByte 0x2040, t.cx.sb))
      = some (1, [⟨0x81, 5, 0xFF, .weak, 32⟩, ⟨0x81, 7, 0xFF, .rel, 32⟩]) := by decide +kernel
def fullT : State := onCtx fun x => { x with sb := (List.range 16).map fun i => ⟨i, 0, 0, .weak, 0⟩ }
theorem witness_StoreTakesBytes_full : 16 ≤ fullT.cx.sb.length ∧ sbOf fullT.cx.sb 0x81 = [] ∧ isRun (.xSt 1 3 3 .rel .sys 0) fullT fullT = true ∧ isRun (.xSt 1 3 3 .weak .sys 0) fullT fullT = true := by decide +kernel
theorem witness_AtomicReturnsOld : settled memT.cx [1, 3, 2] ∧ amoSize true = 8
    ∧ ((nx (exec (.xAmo 1 3 2 true .acqrel .sys .add) memT)).map fun t => (t.cx.gr 1, t.memByte 0x2040)) = some (0x8807060504030201, 8)
    ∧ ((nx (exec (.xCas 1 3 2 false .rlx .sys) memT)).map fun t => (t.cx.gr 1, t.memByte 0x2040)) = some (0x04030201, 1) := by decide +kernel
theorem witness_Fences : guardOn stT.cx 0 ∧ stT.cx.pushedFly = false ∧ stT.cx.qr 0 = true ∧ stT.cx.loadsFly = false ∧ stT.cx.storesFly = false
    ∧ (streamsT.cx.pushedFly = true) ∧ isRun (.xFence .stream .sys 0) streamsT streamsT = true ∧ ((nx (exec (.xFence .full .sys 0) fullT)).map fun t => t.cx.sb.length) = some 0 := by
  decide +kernel
def flyT : State := onCtx fun x => { x with streams := [(1, { streamT 1 [] with loads := [⟨[], none, false, 0⟩] }), (2, { streamT 2 [] with stores := [(⟨[], none, false, 0⟩, Entry.ofBytes [] .absent false)] })] }
theorem witness_Fences_wait : flyT.cx.loadsFly = true ∧ flyT.cx.storesFly = true ∧ isRun (.aFence .acq .sys 0) flyT flyT = true ∧ isRun (.aFence .st .sys 0) flyT flyT = true := by
  decide +kernel
/-- A parameter block of one row of 64 bytes from 0x100100 to 0x100200, on timeline 1. -/
def copyBlock (flags : Nat) : List Byte := leBytes 8 0x100100 ++ leBytes 8 0x100200 ++ zeros 12 ++ leBytes 4 64 ++ leBytes 2 1 ++ zeros 10 ++ leBytes 1 1 ++ zeros 11 ++ leBytes 8 flags
def copyT (flags : Nat) : State := mem stT 0x2040 (copyBlock flags)
theorem witness_TimelinesAndCopies_issue : ((copyT 0).copyIssue .x 0x100040).toOption.map (fun r => r.1) = some 1 ∧ cpInvalid partT (copyBlock 0) = false
    ∧ ((copyT 0).load .x 1 0x100040 64 .weak).toOption.map (fun r => r.1) = some (copyBlock 0) ∧ cpInvalid partT (copyBlock 512) = true
    ∧ ((nx (exec (.xCpy 1 3 0) (copyT 0))).map fun t => (t.cx.gr 1, t.copies.length)) = some (1, 1) := by decide +kernel
theorem witness_TimelinesAndCopies : xReady stT 0 [1] ∧ (stT.cx.gr 0).toNat ≤ (stT.cx.doneOf 0).toNat ∧ (stT.cx.doneOf 0).toNat < (stT.cx.gr 1).toNat
    ∧ isRun (.xTlwait 0 1 0) stT stT = true ∧ isRun (.xTlwait 0 0 0) stT (xGoes stT stT.cx 1) = true := by decide +kernel
theorem witness_TableLoadGivesWord : memT.cx.qr 0 = true ∧ memT.cx.aBusy = false
    ∧ ((nx (exec (.aLdb 3 1 0 0) (memT.setCx { memT.cx with b := [(1, 0x100040)] }))).map fun t => t.cx.br 3) = some 0x8807060504030201 := by decide +kernel

/-- Header bits for a send: TYPE typ, CHAN 9, DEST dest; v1 has bits [31:0] of such a header too. -/
def toT (typ dest : Nat) : State := onCtx fun x => { x with g := [(1, BitVec.ofNat 64 (typ * 2 ^ 24 + 9 * 2 ^ 16 + dest)), (3, 0x100040)], v := [(1, BitVec.ofNat 512 (typ * 2 ^ 24 + 5 * 2 ^ 16 + dest))] }
def outsT (n : Nat) : State := let s := toT 5 1; s.setCx { s.cx with out := List.range n }
theorem witness_SendTakesSlot : refusal (toT 0xF0 1) ((toT 0xF0 1).cx.gr 1) = some 2 ∧ refusal (toT 0xEF 1) ((toT 0xEF 1).cx.gr 1) = none
    ∧ refusal (toT 5 2) ((toT 5 2).cx.gr 1) = some 4 ∧ settled (toT 5 1).cx [2, 1]
    ∧ isRun (.xSend 1 1 0) (toT 5 2) ((toT 5 2).raise 0 0 .x ⟨0x24, 6, 0xFF, 0, ownHeader (toT 5 2) (seqTo (toT 5 2) 0x5090002) 0x5090002, 0⟩ 0 0) = true
    ∧ isRun (.xSendnb 2 1 1 0) (toT 0xF0 1) (answers (toT 0xF0 1) 2 2) = true := by decide +kernel
theorem witness_SendTakesSlot_slots : isRun (.xSend 1 1 0) (outsT 8) (outsT 8) = true ∧ isRun (.xSendnb 2 1 1 0) (outsT 8) (answers (outsT 8) 2 1) = true := by decide +kernel
theorem witness_SendTakesSlot_leaves : seen (.xSend 1 1 0) (outsT 7) (fun t => (t.cx.out.length, t.flights.map fun f => f.parcel)) = some (8, [mkParcel (ownHeader (outsT 7) 0 0x5090001) ((vecBytes ((outsT 7).cx.vr 1)).drop 8)])
    ∧ seen (.xSend 1 1 0) (outsT 7) (fun t => t.flights.map fun f => f.leg) = some [.way]
    ∧ seen (.xSendnb 2 1 1 0) (outsT 7) (fun t => t.cx.pend) = some [((outsT 7).serial, 2)]
    ∧ seen (.xSendnb 2 1 1 0) (outsT 7) (fun t => seqTo t 0x5090001) = some 1 := by decide +kernel

/-- A cell whose store holds a handler table entry at 0x80: TYPE typ, MBB 16, MBD 4, ENTRY 8 and the low bits of flags. -/
def entT (flags : Nat) : BitVec 256 := BitVec.ofNat 256 (flags + 0x40 * 2 ^ 8 + 4 * 2 ^ 16 + 16 * 2 ^ 32 + 8 * 2 ^ 64)
def tableT (flags : Nat) (c : Nat) (ch : Chan) (k : BitVec 64) : State := onCell fun x => { x with
  store := (addrBytes 0x80 (leBytes 32 (entT flags).toNat)).filter fun e => e.2 != 0, chans := [(c, ch)], kchan := k
  ctxs := [(0, { ctxT with g := [(1, 0x80), (2, BitVec.ofNat 64 c), (3, 0x10040), (4, 0x3FF17FB)] })] }
def freeC : Chan := { Chan.reset with entry := entT 1, st := .idle }
theorem witness_HandlerTable : guardOn (tableT 1 5 Chan.reset 0).cx 0 ∧ settled (tableT 1 5 Chan.reset 0).cx [10, 1, 2]
    ∧ ((tableT 1 5 Chan.reset 0).storeLoad 0x80 32 32).toOption.map (fun r => r.1) = some (leBytes 32 (entT 1).toNat) ∧ entBnd (entT 1) = true ∧ entInvalid (entT 1) = false
    ∧ seen (.xHset 10 1 2 0) (tableT 1 5 Chan.reset 0) (fun t => (t.cx.gr 10, t.cl.chan 5)) = some (0, { Chan.reset with entry := entT 1, st := .idle }) := by decide +kernel
theorem witness_HandlerTable_answers : isRun (.xHset 10 1 2 0) (tableT 1 64 Chan.reset 0) (xGoes (tableT 1 64 Chan.reset 0) ((tableT 1 64 Chan.reset 0).cx.setG 10 3) 1) = true
    ∧ isRun (.xHset 10 1 2 0) (tableT 1 63 Chan.reset 0x8000000000000000) ((tableT 1 63 Chan.reset 0x8000000000000000).raise 0 0 .x ⟨4, 6, 0xFF, 0, 0, 0⟩ 0 0) = true
    ∧ seen (.xHset 10 1 2 0) (tableT 1 5 { freeC with st := .runnable } 0) (fun t => (t.cx.gr 10, t.cl.chan 5)) = some (1, { freeC with st := .runnable })
    ∧ seen (.xHset 10 1 2 0) (tableT 33 5 freeC 0) (fun t => (t.cx.gr 10, t.cl.chan 5)) = some (2, freeC)
    ∧ seen (.xHset 10 1 2 0) (tableT 32 5 freeC 0) (fun t => (t.cx.gr 10, (t.cl.chan 5).st)) = some (0, .unbound) := by decide +kernel
theorem witness_HandlerTable_actors : entBound (entT 1) = true ∧ isRun (.xAbind 10 3 2 0) (tableT 1 5 Chan.reset 0) (xGoes (tableT 1 5 Chan.reset 0) ((tableT 1 5 Chan.reset 0).cx.setG 10 3) 1) = true
    ∧ isRun (.xAbind 10 3 2 0) (tableT 1 5 { freeC with st := .running } 0) (xGoes (tableT 1 5 { freeC with st := .running } 0) ((tableT 1 5 { freeC with st := .running } 0).cx.setG 10 1) 1) = true
    ∧ isRun (.xAbind 10 4 2 0) (tableT 1 5 freeC 0) (xGoes (tableT 1 5 freeC 0) ((tableT 1 5 freeC 0).cx.setG 10 2) 1) = true
    ∧ seen (.xAbind 10 3 2 0) (tableT 1 5 freeC 0) (fun t => (t.cx.gr 10, entAct (t.cl.chan 5).entry, entAfb (t.cl.chan 5).entry, entAfs (t.cl.chan 5).entry, entEntry (t.cl.chan 5).entry)) = some (0, true, 0x40, 1, 8)
    ∧ seen (.xAbind 10 0 2 0) (tableT 1 5 freeC 0) (fun t => (t.cx.gr 10, entAct (t.cl.chan 5).entry)) = some (0, false) := by decide +kernel
theorem witness_HandlerTable_masks : seen (.xHmask 1 0) (tableT 1 7 freeC 0) (fun t => (t.cl.chan 7).entry) = some (entT 3) ∧ seen (.xHmask 1 0) (tableT 1 7 freeC 128) (fun t => (t.cl.chan 7).entry) = some (entT 1)
    ∧ seen (.xHunmask 1 0) (tableT 1 7 { freeC with entry := entT 3 } 0) (fun t => (t.cl.chan 7).entry) = some (entT 1) := by decide +kernel
def taskT (n : Nat) : State := (toT 0x40 1).setCell 0 { (toT 0x40 1).cell 0 with
  taskq := List.replicate n ((toT 0x40 1).ownParcel ((toT 0x40 1).cx.vr 1)), chans := [(5, { Chan.reset with entry := entT 1, st := .idle })] }
def hintT (x y : Nat) : State := (outsT 7).setCx { (outsT 7).cx with g := [(1, BitVec.ofNat 64 (x + 256 * y + 9 * 2 ^ 24 + 0x40 * 2 ^ 32))] }
theorem witness_TaskQueues_spawn : guardOn (hintT 1 0).cx 0 ∧ settled (hintT 1 0).cx [2, 1] ∧ ((hintT 1 0).part (hintT 1 0).pid).kindOf 1 = 1
    ∧ seen (.xTspawn 1 1 0) (hintT 1 0) (fun t => (t.cx.out.length, t.tasks.map fun f => (f.at_, f.hint, f.steps, hType (parcelHdr f.parcel)))) = some (8, [(0, 1, 0, 0x40)])
    ∧ seen (.xTspawn 1 1 0) (hintT 0 1) (fun t => t.cx.st) = some .trapPending
    ∧ isRun (.xTspawn 1 1 0) ((hintT 1 0).setCx { (hintT 1 0).cx with out := List.range 8 }) ((hintT 1 0).setCx { (hintT 1 0).cx with out := List.range 8 }) = true := by decide +kernel
theorem witness_TaskQueues_local : (taskT 1).cx.gr 0 = 0 ∧ (taskT 1).cl.accepts ((taskT 1).ownParcel ((taskT 1).cx.vr 1)) = true ∧ stT.localTask = none
    ∧ (toT 0x40 1).cl.accepts ((toT 0x40 1).ownParcel ((toT 0x40 1).cx.vr 1)) = false ∧ (taskT 1).modeClash ((taskT 1).ownParcel ((taskT 1).cx.vr 1)) = false
    ∧ isRun (.xTqenq 2 1 0 0) (toT 0x40 1) (answers (toT 0x40 1) 2 2) = true ∧ isRun (.xTqenq 2 1 0 0) (taskT 64) (answers (taskT 64) 2 1) = true
    ∧ seen (.xTqenq 2 1 0 0) (taskT 63) (fun t => (t.cl.taskq.length, t.cx.gr 2)) = some (64, 0)
    ∧ seen (.xTqdeq 2 7 0 0) (taskT 1) (fun t => (t.cl.taskq.length, t.cx.gr 2, t.cx.vr 7 == withDest ((taskT 1).ownParcel ((taskT 1).cx.vr 1)) 0, t.mem)) = some (0, 0, true, stT.mem)
    ∧ isRun (.xTqdeq 2 7 0 0) (taskT 0) (answers (taskT 0) 2 1) = true := by decide +kernel
def clashT : State := (taskT 1).setCx { (taskT 1).cx with fmode := true }
theorem witness_TaskQueues_clash : clashT.modeClash ((taskT 1).ownParcel ((taskT 1).cx.vr 1)) = true
    ∧ isRun (.xTqdeq 2 7 0 0) clashT (clashT.raise 0 0 .x ⟨0x21, 6, 0xFF, 0, 0, 0⟩ 0 0) = true := by decide +kernel
/-- A named queue at 0x100040 whose ring of 2 entries stands at 0x100100, with HEAD h and TAIL n. -/
def queueT (ring h n : Nat) : State := mem (toT 0x40 1) 0x2040 (leBytes 8 0x100100 ++ leBytes 1 ring ++ zeros 7 ++ leBytes 4 h ++ leBytes 4 n)
theorem witness_TaskQueues_named : ((queueT 1 0 1).object .x 0x100040 64).toOption.map (fun r => r.1) = some ⟨0x2040, .interleave⟩ ∧ (queueT 1 0 1).slotPages 0x81 = []
    ∧ ((queueT 1 0 1).object .x 0x100040 64).toOption.map (fun r => (tqInvalid r.2.1, tqCount r.2.1)) = some (false, 1)
    ∧ ((queueT 0 0 1).object .x 0x100040 64).toOption.map (fun r => tqInvalid r.2.1) = some true
    ∧ seen (.xTqenq 2 1 3 0) (queueT 0 0 1) (fun t => t.cx.gr 2) = some 2 ∧ seen (.xTqenq 2 1 3 0) (queueT 1 0xFFFFFFFF 1) (fun t => t.cx.gr 2) = some 1
    ∧ seen (.xTqenq 2 1 3 0) (queueT 1 0xFFFFFFFF 0) (fun t => (t.cx.gr 2, (bytesAt t 0x2054 4), bnat (bytesAt t 0x2100 8) 0 8)) = some (0, leBytes 4 1, (parcelHdr ((queueT 1 0 0).ownParcel ((queueT 1 0 0).cx.vr 1))).toNat)
    ∧ seen (.xTqdeq 2 7 3 0) (queueT 1 0 0) (fun t => t.cx.gr 2) = some 1 ∧ seen (.xTqdeq 2 7 3 0) (queueT 0 0 1) (fun t => t.cx.gr 2) = some 2
    ∧ seen (.xTqdeq 2 7 3 0) (queueT 1 0xFFFFFFFF 0) (fun t => (t.cx.gr 2, t.cx.vr 7, bytesAt t 0x2050 4)) = some (0, 0, leBytes 4 0) := by decide +kernel
/-- An object at 0x100040 that begins with bs; g1 = 2, g2 = 0, v1 a parcel of TYPE typ to cell dest. -/
def objT (bs : List Byte) (typ dest : Nat) : State := let s := toT typ dest; mem (s.setCx { s.cx with g := [(1, 2), (2, 0), (3, 0x100040)] }) 0x2040 bs
def counterT (c p : Nat) : State := objT (leBytes 4 c ++ leBytes 4 p) 5 1
def parkedT (s : State) : State := { s with parks := [(0, [⟨0x2040, 1, s.ownParcel (s.cx.vr 1), s.issuer 0 0 .x⟩])] }
theorem witness_CounterOperations : guardOn (counterT 2 3).cx 0 ∧ settled (counterT 2 3).cx [10, 3, 1] ∧ ((counterT 2 3).object .x 0x100040 16).toOption.map (fun r => r.1) = some ⟨0x2040, .interleave⟩
    ∧ refusal (counterT 2 3) (((counterT 2 3).cx.vr 1).setWidth 64) = none ∧ (counterT 2 3).cx.sb = [] ∧ (counterT 2 3).poisoned 0x81 = false
    ∧ isRun (.xDcdec 10 3 0) (counterT 0 3) (answers (((counterT 0 3).object .x 0x100040 16).toOption.elim stT fun r => r.2.2) 10 0) = true
    ∧ seen (.xDcdec 10 3 0) (counterT 2 3) (fun t => (t.cx.gr 10, bytesAt t 0x2040 8)) = some (2, leBytes 4 1 ++ leBytes 4 3)
    ∧ seen (.xDcinit 10 3 1 0) (counterT 5 3) (fun t => (t.cx.gr 10, bytesAt t 0x2040 8, t.flights)) = some (5, leBytes 4 2 ++ leBytes 4 3, [])
    ∧ seen (.xDcdec 10 3 0) (counterT 1 0) (fun t => (t.cx.gr 10, bytesAt t 0x2040 8)) = some (1, leBytes 4 0 ++ leBytes 4 0) := by decide +kernel
theorem witness_CounterOperations_parks : seen (.xDcpark 10 1 3 0) (counterT 0 0) (fun t => (t.cx.gr 10, t.flights.map fun f => f.parcel)) = some (1, [(counterT 0 0).ownParcel ((counterT 0 0).cx.vr 1)])
    ∧ seen (.xDcpark 10 1 3 0) (counterT 7 0) (fun t => (t.cx.gr 10, (mget [] t.parks 0).map fun q => (q.ctr, q.parcel))) = some (0, [(0x2040, (counterT 7 0).ownParcel ((counterT 7 0).cx.vr 1))])
    ∧ seen (.xDcdec 10 3 0) (parkedT (counterT 1 0)) (fun t => (t.flights.map fun f => f.parcel, mget [] t.parks 0)) = some ([(counterT 7 0).ownParcel ((counterT 7 0).cx.vr 1)], []) := by decide +kernel
def poolT : State := { counterT 7 0 with parks := [(0, List.replicate 4096 ⟨0, 1, 0, stT.issuer 0 0 .x⟩)] }
theorem witness_CounterOperations_full : 4096 ≤ (mget [] poolT.parks 0).length := by
  simp only [poolT, mget, mfind, if_true, Option.getD_some, List.length_replicate, Nat.le_refl]
theorem witness_CounterOperations_refused : refusal (objT [1] 5 2) (((objT [1] 5 2).cx.vr 1).setWidth 64) = some 4 ∧ seen (.xDcpark 10 1 3 0) (objT [1] 5 2) (fun t => t.cx.st) = some .trapPending := by
  decide +kernel

/-- A worklist whose floor is view and bound view + 2, with n tasks of key view + k in its buckets and room for spill tasks outside them. -/
def workT (view n k spill key : Nat) : State := (onPart fun p => { p with spillN := spill }).setCell 0 { onCell (fun x => { x with
  fview := view, dview := 2, buckets := List.replicate n ⟨BitVec.ofNat 32 (view + k), 9⟩, ctxs := [(0, { ctxT with g := [(1, BitVec.ofNat 64 key), (2, 4), (3, 0x47)] })] }) |>.cell 0 with wake := true }
theorem witness_WorklistOperations : guardOn (workT 8 0 0 0 8).cx 0 ∧ settled (workT 8 0 0 0 8).cx [10, 1, 2] ∧ (workT 8 0 0 0 8).cl.fview = 8
    ∧ isRun (.xWlpush 1 2 0) (workT 8 0 0 0 7) ((workT 8 0 0 0 7).raise 0 0 .x ⟨0x27, 6, 0xFF, 0, 7, 0⟩ 0 0) = true
    ∧ isRun (.xWlpush 1 2 0) (workT 8 0 0 0 72) ((workT 8 0 0 0 72).raise 0 0 .x ⟨0x27, 6, 0xFF, 0, 72, 0⟩ 0 0) = true
    ∧ seen (.xWlpush 1 2 0) (workT 8 255 0 0 71) (fun t => (t.cl.buckets.length, t.cl.buckets.getLast?, t.cl.spill, (t.part 1).pushes)) = some (256, some ⟨71, 4⟩, [], 1)
    ∧ isRun (.xWlpush 1 2 0) (workT 8 256 0 0 8) (workT 8 256 0 0 8) = true
    ∧ (workT 8 256 0 1 8).cl.buckets.length = 256 ∧ (workT 8 256 0 1 8).cl.spill.length < ((workT 8 256 0 1 8).part (workT 8 256 0 1 8).pid).spillN := by decide +kernel
theorem witness_WorklistOperations_pop : seen (.xWlpop 10 11 0) (workT 8 1 3 0 8) (fun t => (t.cx.gr 11, t.cx.gr 10, t.cl.buckets.length, t.cl.wake)) = some (BitVec.allOnes 64, 0, 1, false)
    ∧ (workT 8 1 2 0 8).cl.buckets = [⟨10, 9⟩] ∧ (workT 8 1 2 0 8).cl.fview + (workT 8 1 2 0 8).cl.dview = 10
    ∧ seen (.xWlbound 1 2 0) (workT 8 0 0 0 63) (fun t => ((t.part 1).delta, (t.part 1).wakeChan, t.cx.gr 1)) = some (63, some 4, 63)
    ∧ seen (.xWlbound 1 3 0) (workT 8 0 0 0 8) (fun t => (t.part 1).wakeChan) = some none
    ∧ seen (.xWlterm 2 0) (workT 8 0 0 0 8) (fun t => (t.part 1).term) = some (some (0, 4)) ∧ seen (.xWlterm 3 0) (workT 8 0 0 0 8) (fun t => (t.part 1).term) = some none := by decide +kernel

/-- A future at 0x100040 in slot 3 of die 0, generation 2, in state st; g1 is its handle, g2 = 77, g4 a continuation to cell 1, g5 all ones. -/
def futureT (st : Nat) (w : Waiter) (q : Option Word) : State :=
  let s := mem (onCtx fun x => { x with g := [(1, 8), (2, 77), (3, 0x100040), (4, 0x40050001), (5, BitVec.allOnes 64), (6, 1), (7, 4)] }) 0x2040 (leBytes 8 (0x30008 + st) ++ leBytes 8 5)
  { s with futs := [(0, [(3, ⟨1, 0x2040, .future 0x100040 w none q none none⟩)])] }
def contW : Waiter := .cont ⟨1, 5, 0x40, false⟩
def objU (s : State) : State := (s.object .x 0x100040 16).toOption.elim s fun r => r.2.2
def futTrapT (s : State) : State := (objU s).raise 0 0 .x ⟨0x22, 6, 0xFF, 0, 0x100040, 0⟩ 0 0
theorem witness_FuturesOfX_operations : guardOn (futureT 0 .none none).cx 0 ∧ settled (futureT 0 .none none).cx [1, 3, 2] ∧ ((futureT 0 .none none).object .x 0x100040 16).toOption.map (fun r => r.1) = some ⟨0x2040, .interleave⟩
    ∧ (futureT 0 .none none).liveSlot 1 ⟨⟨0x2040, .interleave⟩, 0x100040, 0x30008, 5⟩ = some ⟨1, 0x2040, .future 0x100040 .none none none none none⟩
    ∧ isRun (.xFpoll 1 3 0) (futureT 2 .none none) (answers (objU (futureT 2 .none none)) 1 0x3000A) = true
    ∧ isRun (.xFres 7 3 2 0) (futureT 0 .none none) (answers (objU (futureT 0 .none none)) 7 4) = true ∧ isRun (.xFres 1 3 2 0) (objT (leBytes 8 0x30008) 5 1) (answers (objU (objT (leBytes 8 0x30008) 5 1)) 1 4) = true
    ∧ isRun (.xFnew 1 3 0) (futureT 0 .none none) (futTrapT (futureT 0 .none none)) = true ∧ isRun (.xFres 1 3 2 0) (futureT 2 .none none) (futTrapT (futureT 2 .none none)) = true
    ∧ isRun (.xFres 1 3 2 0) (futureT 3 .none none) (answers (objU (futureT 3 .none none)) 1 3) = true ∧ isRun (.xFfree 1 3 0) (futureT 1 contW none) (futTrapT (futureT 1 contW none)) = true := by decide +kernel
theorem witness_FuturesOfX_operations_results : seen (.xFres 1 3 2 0) (futureT 1 contW none) (fun t => (t.cx.gr 1, bytesAt t 0x2040 16, t.slot 0 3)) = some (0, leBytes 8 0x3000A ++ leBytes 8 77, some ⟨1, 0x2040, .future 0x100040 .none none none none none⟩)
    ∧ seen (.xFres 1 3 2 0) (futureT 1 contW none) (fun t => t.flights.map fun f => f.parcel) = some (waiterSends 1 0x100040 0x3000A 77 0 contW)
    ∧ seen (.xFfree 1 3 0) (futureT 0 .none none) (fun t => (t.cx.gr 1, bytesAt t 0x2040 16, t.slot 0 3)) = some (0, leBytes 8 12 ++ leBytes 8 5, none)
    ∧ seen (.xFtmo 1 3 5 0) (futureT 0 .none none) (fun t => (t.cx.gr 1, t.slot 0 3)) = some (0, some ⟨1, 0x2040, .future 0x100040 .none none none none none⟩)
    ∧ seen (.xFtmo 1 3 2 0) (futureT 0 .none none) (fun t => (t.cx.gr 1, t.slot 0 3)) = some (0, some ⟨1, 0x2040, .future 0x100040 .none (some 77) none none none⟩)
    ∧ seen (.xFtmo 1 3 0 0) (futureT 1 contW none) (fun t => (t.cx.gr 1, bytesAt t 0x2040 16, t.flights.length)) = some (0, leBytes 8 0x3000B ++ leBytes 8 5, 1)
    ∧ seen (.xFtmo 1 3 5 0) (futureT 2 .none none) (fun t => (t.cx.gr 1, t.slot 0 3)) = some (3, some ⟨1, 0x2040, .future 0x100040 .none none none none none⟩)
    ∧ seen (.xFres 1 3 2 0) (futureT 0 .none (some 0x100100)) (fun t => (t.cx.gr 1, t.slot 0 3)) = some (0, some ⟨1, 0x2040, .future 0x100040 .none none (some 0x100100) none (some ⟨0x100100, some 77, 0, 0, [.none]⟩)⟩) := by decide +kernel
theorem witness_FuturesOfX_waits : (futureT 0 .none none).descBad 0x40050001 = none ∧ (futureT 0 .none none).descBad 0xF0050001 = some 2 ∧ (futureT 0 .none none).descBad 0x40400001 = some 3 ∧ (futureT 0 .none none).descBad 0x40050002 = some 4
    ∧ seen (.xFwait 1 3 4 0) (futureT 0 .none none) (fun t => (t.cx.gr 1, bytesAt t 0x2040 8, t.slot 0 3)) = some (0, leBytes 8 0x30009, some ⟨1, 0x2040, .future 0x100040 contW none none none none⟩)
    ∧ isRun (.xFwait 1 3 4 0) (futureT 1 contW none) (futTrapT (futureT 1 contW none)) = true
    ∧ seen (.xFwait 1 3 4 0) (futureT 3 .none none) (fun t => (t.cx.gr 1, t.flights.map fun f => f.parcel)) = some (2, [contParcel 1 ⟨1, 5, 0x40, false⟩ 0x100040 0x3000B 5 0])
    ∧ seen (.xFbind 1 3 0 0) (futureT 0 .none (some 8)) (fun t => (t.cx.gr 1, t.slot 0 3)) = some (0, some ⟨1, 0x2040, .future 0x100040 .none none none none none⟩)
    ∧ isRun (.xFbind 1 3 0 0) (futureT 2 .none none) (futTrapT (futureT 2 .none none)) = true := by decide +kernel
/-- g4 names a token queue whose header has a capacity of cap tokens. -/
def bindT (cap : Nat) : State := let s := mem (futureT 0 .none none) 0x2100 (leBytes 8 0x100200 ++ leBytes 4 cap ++ zeros 52); s.setCx { s.cx with g := [(1, 8), (3, 0x100040), (4, 0x100100)] }
theorem witness_FuturesOfX_waits_bind : ((bindT 16).load .x 3 0x100100 64 .rlx).toOption.map (fun r => tokenQueueBad r.1) = some false ∧ ((bindT 15).load .x 3 0x100100 64 .rlx).toOption.map (fun r => tokenQueueBad r.1) = some true
    ∧ seen (.xFbind 1 3 4 0) (bindT 16) (fun t => (t.cx.gr 1, t.slot 0 3)) = some (0, some ⟨1, 0x2040, .future 0x100040 .none none (some 0x100100) none none⟩)
    ∧ seen (.xFbind 1 3 4 0) (bindT 15) (fun t => t.cx.st) = some .trapPending := by decide +kernel
/-- A barrier at 0x100040 with one waiter of its present phase 6; g4 is a continuation, g6 the phase, g7 the one before. -/
def barrierT (e r : Nat) : State := { objT (leBytes 4 e ++ leBytes 4 r ++ leBytes 4 6) 5 1 with futs := [(0, [(3, ⟨1, 0x2040, .barrier 0x100040 6 ⟨1, 5, 0x40, false⟩⟩)])] }
def phaseT (e r : Nat) : State := (barrierT e r).setCx { (barrierT e r).cx with g := [(1, 2), (3, 0x100040), (4, 0x40050001), (6, 6), (7, 5)] }
theorem witness_BarrierOperations : settled (phaseT 3 1).cx [6, 3, 4] ∧ (phaseT 3 1).descBad 0x40050001 = none
    ∧ seen (.xBarr 6 3 0) (phaseT 3 1) (fun t => (t.cx.gr 6, bytesAt t 0x2040 12, t.flights)) = some (6, leBytes 4 3 ++ leBytes 4 2 ++ leBytes 4 6, [])
    ∧ seen (.xBarr 6 3 0) (phaseT 2 1) (fun t => (t.cx.gr 6, bytesAt t 0x2040 12, t.flights.map fun f => f.parcel)) = some (6, leBytes 4 0 ++ leBytes 4 0 ++ leBytes 4 7, [contParcel 1 ⟨1, 5, 0x40, false⟩ 0x100040 7 6 0])
    ∧ seen (.xBexp 6 3 1 0) (phaseT 0 2) (fun t => (t.cx.gr 6, bytesAt t 0x2040 12, t.flights.length)) = some (6, leBytes 4 0 ++ leBytes 4 0 ++ leBytes 4 7, 1)
    ∧ isRun (.xBexp 6 3 0 0) (phaseT 0 2) (answers (objU (phaseT 0 2)) 6 6) = true
    ∧ seen (.xBwait 7 3 4 0) (phaseT 3 1) (fun t => (t.cx.gr 7, t.flights.map fun f => f.parcel)) = some (1, [contParcel 1 ⟨1, 5, 0x40, false⟩ 0x100040 6 5 0]) := by decide +kernel
def claimT (c : Option Nat) (q : List Nat) : State := onCell fun k => { k with claim := c, claimQ := q }
theorem witness_MatrixClaim : guardOn (claimT none []).cx 0 ∧ settled (claimT none []).cx [10, 1] ∧ isRun (.xMclaim 10 1 0) (claimT (some 0) [1]) (answers (claimT (some 0) [1]) 10 0) = true
    ∧ seen (.xMclaim 10 1 0) (claimT none []) (fun t => (t.cx.gr 10, t.cl.claim)) = some (0, some 0) ∧ isRun (.xMclaim 10 1 0) (claimT none [2]) (answers (claimT none [2]) 10 1) = true
    ∧ isRun (.xMclaim 10 2 0) (claimT none [0, 2]) (claimT none [0, 2]) = true
    ∧ isRun (.xMclaim 10 0 0) (claimT (some 3) [2]) (claimT (some 3) [2, 0]) = true ∧ seen (.xMfree 0) (claimT (some 0) [2]) (fun t => (t.cl.claim, t.cl.claimQ)) = some (none, [2])
    ∧ isRun (.xMfree 0) (claimT (some 3) []) ((claimT (some 3) []).retire .x 1) = true ∧ isRun (.evClaimGrant 0) (claimT none [2, 3]) (claimT (some 2) [3]) = true := by decide +kernel

/-- Context 0 in K mode, with registers gs, and context 1 as x. -/
def kT (gs : List (Nat × Word)) (x : Ctx) : State := onCell fun k => { k with ctxs := [(0, { ctxT with kmode := true, g := gs }), (1, x)] }
def kNow (gs : List (Nat × Word)) : State := kT gs Ctx.reset
theorem witness_PrivilegedInUserTraps : privGuard (.xSysr 5 .kchan 1) = some (1, 1) ∧ stT.cx.kmode = false
    ∧ isRun (.xSysr 5 .kchan 1) stT (stT.raise 0 0 .x ⟨4, 6, 0xFF, 0, 0, 0⟩ 0 0) = true ∧ isRun (.xCtxsave 5 1 2 0) stT (stT.raise 0 0 .x ⟨4, 6, 0xFF, 0, 0, 0⟩ 0 0) = true := by decide +kernel
def regsT : State := kNow [(1, 0xFFFFFFFFFFFFFFFF), (2, 1), (3, 0x8001)]
theorem witness_SystemRegisters : kReady regsT 0 [10, 1] ∧ isRun (.xSysr 10 .wdlim 0) regsT (answers regsT 10 0x1000000) = true
    ∧ isRun (.xSysr 10 .cstat 0) regsT (answers regsT 10 1) = true ∧ isRun (.xSysr 10 .fbhdr 0) regsT (answers (regsT.rel.acq .x) 10 0) = true
    ∧ seen (.xSysw 10 .lease 1 0) regsT (fun t => (t.cx.gr 10, t.cl.lease)) = some (1024, 16384) ∧ seen (.xSysw 10 .lease 2 0) regsT (fun t => t.cl.lease) = some 256
    ∧ seen (.xSysw 10 .s1root 1 0) regsT (fun t => (t.part 1).s1root) = some 0x000FFFFFFFFFF000 ∧ seen (.xSysw 10 .wdlim 2 0) regsT (fun t => t.cl.wdlim) = some 0x1000000
    ∧ seen (.xWdset 10 2 0) regsT (fun t => (t.cx.gr 10, t.cl.wdlim)) = some (0x1000000, 1024) ∧ seen (.xWdset 10 1 0) regsT (fun t => t.cl.wdlim) = some 0x1000000 := by decide +kernel
def gateT : State := onCell fun k => { k with store := [(0x7FFF, 1), (0x8000, 2)], ctxs := [(0, { ctxT with kmode := true, g := [(1, 1)] })] }
theorem witness_SystemRegisters_gate : seen (.xSysw 10 .pgate 1 0) gateT (fun t => (t.cl.pgate, mget 0 t.cl.store 0x7FFF, mget 0 t.cl.store 0x8000)) = some (1, 0, 2) := by decide +kernel

/-- Context 1 stands suspended with a fault of X at slot 9, and A with none; g2 names its X, with the action in bits 21:20, g3 is the value. -/
def faultT (code : BitVec 8) (act val : Nat) : State := kT [(2, BitVec.ofNat 64 (0x10000 + act * 2 ^ 20)), (3, BitVec.ofNat 64 val)]
  { ctxT with st := .suspended, kmode := false, ex := { EngC.reset with st := .faulted, code := code, pc := 9 } }
def repliesT (s : State) : Option (Word × CtxSt × EngSt × Slot) := seen (.xSret 10 2 3 0) s fun t => (t.cx.gr 10, (t.ctx 0 1).st, (t.ctx 0 1).ex.st, (t.ctx 0 1).ex.pc)
theorem witness_FaultReply : kReady (faultT 0x10 0 0) 0 [10, 2, 3] ∧ ((faultT 0x10 0 0).part 1).resolve 0 = some 0x40000000 ∧ ((faultT 0x10 0 0).part 1).resolve 2 = none
    ∧ ((faultT 0x10 0 0).ctx 0 1).st = .suspended ∧ ((faultT 0x10 0 0).ctx 0 1).ex.st = .faulted ∧ ((faultT 0x10 0 0).ctx 0 1).ex.held = none ∧ ((faultT 0x10 0 0).ctx 0 1).taken = none := by decide +kernel
theorem witness_FaultReply_actions : repliesT (faultT 0x10 0 0) = some (0, .running, .running, 9) ∧ repliesT (faultT 0x10 1 0) = some (0, .running, .running, 10)
    ∧ repliesT (faultT 0x10 2 0x8000000000000020) = some (0, .running, .running, 0x20) ∧ seen (.xSret 10 2 3 0) (faultT 0x10 3 0) (fun t => (t.cx.gr 10, (t.ctx 0 1).st)) = some (0, .free) := by decide +kernel
theorem witness_FaultReply_statuses : isRun (.xSret 10 3 3 0) (faultT 0x10 0 0xC0000) (answers (faultT 0x10 0 0xC0000) 10 3) = true ∧ isRun (.xSret 10 3 3 0) (faultT 0x10 0 2) (answers (faultT 0x10 0 2) 10 3) = true
    ∧ isRun (.xSret 10 3 3 0) (faultT 0x10 0 0x50000) (answers (faultT 0x10 0 0x50000).rel 10 1) = true := by decide +kernel
/-- The fault of a sys of destination g5, and a fault of an instruction of two lanes. -/
def sysT (act val : Nat) : State := let s := faultT 0x30 act val; s.setCtx 0 1 { s.ctx 0 1 with sysd := 5 }
def twoT : State := let s := faultT 0x10 1 0; s.setCtx 0 1 { s.ctx 0 1 with ex := { (s.ctx 0 1).ex with two := true } }
theorem witness_FaultReply_sys : repliesT twoT = some (0, .running, .running, 11) ∧ slotAfter (twoT.ctx 0 1).ex = 11
    ∧ seen (.xSret 10 2 3 0) (sysT 1 6) (fun t => ((t.ctx 0 1).gr 5, (t.ctx 0 1).ex.pc)) = some (6, 10)
    ∧ seen (.xSret 10 2 3 0) (sysT 0 6) (fun t => ((t.ctx 0 1).gr 5, (t.ctx 0 1).ex.pc)) = some (6, 10) := by decide +kernel
def tlbsT : State := (kNow [(1, 0x100FFF), (2, 0)]).setCell 0 { (kNow [(1, 0x100FFF), (2, 0)]).cell 0 with
  itlb := [⟨1, 0x100000, 4096, 0x2000, 15, .interleave, true⟩, ⟨2, 0x100000, 4096, 0x3000, 15, .interleave, true⟩], l1 := [⟨1, 0x81, 9, 0, 100⟩] }
def sbT : State := let s := kNow [(1, 0)]; s.setCtx 0 1 { Ctx.reset with sb := [⟨0x81, 7, 1, .weak, 32⟩] }
theorem witness_Invalidations : kReady tlbsT 0 [1] ∧ tlbsT.cl.groupsFly = false ∧ tlbsT.copies = [] ∧ (tlbsT.part 1).cellsOf = [0, 1]
    ∧ seen (.xTlbinvAll 0) tlbsT (fun t => (t.cl.itlb.map fun e => e.part, t.cl.dtlb)) = some ([2], [])
    ∧ seen (.xTlbinvVa 1 0) tlbsT (fun t => (t.cl.itlb.map fun e => e.part, t.cl.dtlb)) = some ([2], []) ∧ seen (.xTlbinvVa 2 0) tlbsT (fun t => (t.cl.itlb.length, t.cl.dtlb.length)) = some (2, 1)
    ∧ seen (.xTlbinvPart 0) tlbsT (fun t => (t.cl.itlb.map fun e => e.part, t.cl.dtlb)) = some ([2], []) := by decide +kernel
theorem witness_Invalidations_caches : seen (.xCinvL1 0) tlbsT (fun t => (t.cl.l1, t.cl.istore.length)) = some ([], 1) ∧ seen (.xCinvIs 0) tlbsT (fun t => (t.cl.l1.length, t.cl.istore)) = some (1, [])
    ∧ seen (.xCinvSb 0) sbT (fun t => ((t.ctx 0 1).sb, t.memByte 0x2040)) = some ([], 7) := by decide +kernel
def groupFlyT : State := (kNow []).setCtx 0 1 { Ctx.reset with streams := [(1, { streamT 1 [] with loads := [⟨[], none, false, 0⟩] })] }
theorem witness_Invalidations_wait : groupFlyT.cl.groupsFly = true ∧ isRun (.xTlbinvAll 0) groupFlyT groupFlyT = true := by decide +kernel

/-- g1 names a save area of four pages at 0x104000; g2 names context 1, which is x; g3 names the running context. -/
def areaT (x : Ctx) : State := let s := kT [(1, 0x104000), (2, 1), (3, 0)] x
  s.setCell 0 { s.cell 0 with dtlb := (List.range 4).map fun n => ⟨1, 0x104000 + 4096 * n, 4096, 0x10000 + 4096 * n, 15, .interleave, true⟩ }
def quietX : Ctx := { ctxT with st := .suspended, ex := { EngC.reset with st := .faulted, code := 5, pc := 9 } }
theorem witness_ContextSaveRestore : kReady (areaT quietX) 0 [10, 1, 2] ∧ ((areaT quietX).areaPages 2 .write 0x104000).toOption.isSome = true ∧ (areaT quietX).quiet 0 1 = true
    ∧ seen (.xCtxsave 10 1 3 0) (areaT quietX) (fun t => t.cx.gr 10) = some 1 ∧ seen (.xCtxsave 10 1 2 0) (areaT ctxT) (fun t => t.cx.gr 10) = some 1
    ∧ seen (.xCtxload 10 1 2 0) (areaT ctxT) (fun t => t.cx.gr 10) = some 1 ∧ seen (.xCtxload 10 1 2 0) (areaT Ctx.reset) (fun t => t.cx.gr 10) = some 2 := by decide +kernel
def busyX : Ctx := { quietX with issue := [(0, 1)] }
theorem witness_ContextSaveRestore_waits : (areaT busyX).quiet 0 1 = false ∧ seen (.xCtxsave 10 1 2 0) (areaT busyX) (fun t => ((t.ctx 0 1).taken, t.cx.ex.pc))
      = some (some ⟨0, 7, [(0x10000, .interleave, 4096), (0x11000, .interleave, 4096), (0x12000, .interleave, 4096), (0x13000, .interleave, 4096)]⟩, 9) := by decide +kernel
/-! A save area that holds context 1 of cell 0: zeros but for its version, its number and its partition. -/
def loadT (saved : Option SavedInv) : State := let s := mem (areaT Ctx.reset) 0x10000 [1, 0, 1, 1]; s.setChan 0 0 { Chan.reset with saved := saved }
def areaB (n : Nat) : List Byte := [1, 0, 1, 1] ++ List.replicate n 0
theorem drop_areaB (n k : Nat) : (areaB n).drop (4 + k) = List.replicate (n - k) 0 := by
  rw [areaB, List.drop_append, List.drop_of_length_le (by simp)]; simp
theorem bnat_areaB (m lo n : Nat) (h : 4 ≤ lo) : bnat (areaB m) lo n = 0 := by
  have hz : ∀ k, leNat (List.replicate k 0) = 0 := fun k => by
    induction k with
    | zero => rfl
    | succ k ih => rw [List.replicate_succ, leNat, ih]; rfl
  obtain ⟨k, rfl⟩ := Nat.exists_eq_add_of_le h
  rw [bnat, drop_areaB, List.take_replicate, hz]
theorem zeroAt_areaB (m lo n : Nat) (h : 4 ≤ lo) : zeroAt (areaB m) lo n = true := by
  obtain ⟨k, rfl⟩ := Nat.exists_eq_add_of_le h
  rw [zeroAt, drop_areaB, List.take_replicate]
  simp only [List.all_eq_true]; intro x hx; rw [List.eq_of_mem_replicate hx]; rfl
theorem areaOk_areaB (m : Nat) : areaOk (areaB m) 1 0 = true := by
  have h1 : bnat (areaB m) 0 2 = 1 := rfl
  have h2 : bnat (areaB m) 3 1 = 1 := rfl
  have h4 : bnat (areaB m) 4 2 = 0 := bnat_areaB m _ _ (by omega)
  have hr : reservedClean (areaB m) = true := by
    simp only [reservedClean, Bool.and_eq_true, List.all_eq_true, List.mem_range]
    refine ⟨⟨⟨⟨⟨⟨⟨⟨?_, ?_⟩, ?_⟩, ?_⟩, ?_⟩, ?_⟩, ?_⟩, ?_⟩, ?_⟩
    all_goals first | (apply zeroAt_areaB; omega) | (intro n _; apply zeroAt_areaB; omega) | (intro n _; exact ⟨zeroAt_areaB m _ _ (by omega), zeroAt_areaB m _ _ (by omega)⟩)
  have he : ∀ e, engClean (areaB m) e = true := fun e => by
    rw [engClean, bnat_areaB m _ _ (by omega), bnat_areaB m _ _ (by omega), bnat_areaB m _ _ (by omega)]; simp [nbits]
  have hs : ∀ n, streamClean (areaB m) n = true := fun n => by
    simp only [streamClean]; rw [bnat_areaB m _ 1 (by omega), bnat_areaB m _ 2 (by omega), bnat_areaB m _ 2 (by omega), bnat_areaB m _ 2 (by omega)]; rfl
  have hf : ∀ n, bnat (areaB m) (0xE00 + 160 * n) 4 = 0 ∧ bnat (areaB m) (0xE00 + 160 * n + 4) 4 = 0 := fun n => ⟨bnat_areaB m _ _ (by omega), bnat_areaB m _ _ (by omega)⟩
  have h51 : bnat (areaB m) 51 1 = 0 := bnat_areaB m _ _ (by omega)
  have h52 : bnat (areaB m) 52 1 = 0 := bnat_areaB m _ _ (by omega)
  have h53 : bnat (areaB m) 53 1 = 0 := bnat_areaB m _ _ (by omega)
  have hb : blockClean (((areaB m).drop 0x380).take 32) = true := by
    rw [show (0x380 : Nat) = 4 + 892 from rfl, drop_areaB, List.take_replicate]
    rcases Nat.le_total 32 (m - 892) with h | h
    · rw [Nat.min_eq_left h]; decide +kernel
    · rw [Nat.min_eq_right h]
      have : ∀ k ≤ 32, blockClean (List.replicate k 0) = true := by decide +kernel
      exact this _ h
  have hc : csrsClean (areaB m) = true := by
    rw [csrsClean, bnat_areaB m _ _ (by omega), bnat_areaB m _ _ (by omega), bnat_areaB m _ _ (by omega), bnat_areaB m _ _ (by omega)]; rfl
  rw [areaOk, h1, h2, h4, hr, h51, h52, h53, hb, hc]
  simp [he, hs, hf]
def areaPs : List (Loc × Nat) := [(⟨0x10000, .interleave⟩, 4096), (⟨0x11000, .interleave⟩, 4096), (⟨0x12000, .interleave⟩, 4096), (⟨0x13000, .interleave⟩, 4096)]
theorem area_bytes (v : Option SavedInv) : (areaPs.flatMap fun p => (List.range p.2).map fun i => (loadT v).latest (p.1.pa + i)) = areaB 16380 := by
  have hl : ∀ i, (loadT v).latest i = mget 0 [(0x10000, 1), (0x10002, 1), (0x10003, 1)] i := fun i => rfl
  have hz : ∀ pa n, 0x10004 ≤ pa → ((List.range n).map fun i => (loadT v).latest (pa + i)) = List.replicate n 0 := fun pa n h => by
    refine List.eq_replicate_iff.2 ⟨by simp, fun b hb => ?_⟩
    obtain ⟨i, _, rfl⟩ := List.mem_map.1 hb
    rw [hl]; simp only [mget, mfind]
    rw [if_neg (by omega), if_neg (by omega), if_neg (by omega)]; rfl
  have h0 : ((List.range 4096).map fun i => (loadT v).latest (0x10000 + i)) = areaB 4092 := by
    rw [show 4096 = 4 + 4092 from rfl, List.range_add, List.map_append, List.map_map]
    exact congr (congrArg _ rfl) (hz 0x10004 4092 (by omega) ▸ List.map_congr_left fun i _ => by
      simp only [Function.comp]; rw [← Nat.add_assoc])
  simp only [areaPs, List.flatMap_cons, List.flatMap_nil, h0, hz 0x11000 4096 (by omega), hz 0x12000 4096 (by omega), hz 0x13000 4096 (by omega), areaB, List.append_assoc,
    List.append_nil, List.replicate_append_replicate]
def keptT : SavedInv := ⟨3, 4, [], 0, EngC.reset, EngC.reset, EngC.reset, []⟩
theorem witness_ContextSaveRestore_loads : (((loadT (some keptT)).areaPages 1 .read 0x104000).toOption.map fun r => r.1) = some areaPs ∧ ((loadT none).ctx 0 1).st = .free
    ∧ ((loadT none).areaStaged areaPs 0x104000).toOption.isSome = true ∧ (pieceLines areaPs).any (loadT none).poisoned = false ∧ (loadT none).cl.lcell.toNat = 0 ∧ ((loadT (some keptT)).chan 0 0).saved = some keptT
    ∧ ((loadT none).chan 0 0).saved = none := by decide +kernel

/-- A stream descriptor: KIND, FMT, DEPTH, ROWS, COLS, STRIDE, BASE. -/
def descT (kind fmt depth rows cols stride base : Nat) : BitVec 256 :=
  BitVec.ofNat 256 (base + kind * 2 ^ 64 + fmt * 2 ^ 76 + depth * 2 ^ 96 + rows * 2 ^ 112 + cols * 2 ^ 128 + stride * 2 ^ 160)
/-- A stream as it stands, with its descriptor at 0x80 of the cell store; b1 is group 0, b2 = 9, b3 = 0x80. -/
def openT (d : BitVec 256) (t : Stream) : State := onCell fun k => { k with
  store := (addrBytes 0x80 (leBytes 32 d.toNat)).filter fun e => e.2 != 0, ctxs := [(0, { ctxT with b := [(1, 0), (2, 9), (3, 0x80)], streams := [(4, t)] })] }
def loadD : BitVec 256 := descT 1 2 2 4 16 64 0x100040
def openedT (d : BitVec 256) : Stream := { Stream.reset with desc := d, st := .opened }
theorem witness_Streams_open : (openT loadD Stream.reset).cx.qr 0 = true ∧ ((openT loadD Stream.reset).storeLoad 0x80 32 32).toOption.map (fun r => r.1) = some (leBytes 32 loadD.toNat)
    ∧ dInvalid loadD = false ∧ dInvalid (descT 6 2 2 4 16 64 0x100040) = true ∧ dInvalid (descT 1 2 9 4 16 64 0x100040) = true ∧ dInvalid (descT 1 2 8 4 16 64 0x100040) = false
    ∧ seen (.aSopen 4 3 0 0) (openT loadD Stream.reset) (fun t => t.cx.stream 4) = some { Stream.reset with desc := loadD, st := .opened }
    ∧ isRun (.aSopen 4 3 0 0) (openT loadD { Stream.reset with st := .closing }) (openT loadD { Stream.reset with st := .closing }) = true
    ∧ isRun (.aSopen 4 3 0 0) (openT loadD (openedT loadD)) ((openT loadD (openedT loadD)).raise 0 0 .a whyIllegal 0 0) = true := by decide +kernel
def landT : State := let s := openT (descT 5 2 2 1 16 64 0x1000) Stream.reset
  s.setCell 0 { s.cell 0 with chans := [(6, { Chan.reset with entry := entT 33 ||| BitVec.ofNat 256 (0x40 * 2 ^ 128) })] }
theorem witness_Streams_open_landing : dInvalid (descT 5 2 2 1 16 64 0x1000) = false ∧ landT.landingHit (descT 5 2 2 1 16 64 0x1000) = true
    ∧ isRun (.aSopen 4 3 0 0) landT (landT.raise 0 0 .a ⟨0x12, 4, 0xFF, 0, 0, 0⟩ 0 0) = true := by decide +kernel
def storeSt (es : List Entry) : Stream := { openedT (descT 2 2 2 4 16 64 0x100040) with entries := es, tail := BitVec.ofNat 16 es.length }
theorem witness_Streams_open_close : seen (.aSclose 4 0) (openT loadD (openedT loadD)) (fun t => t.cx.stream 4) = some Stream.reset
    ∧ seen (.aSclose 4 0) (openT loadD { openedT loadD with loads := [⟨[], none, false, 7⟩] }) (fun t => t.cx.stream 4) = some { Stream.reset with dropping := [⟨false, false, false, ⟨[], none, false, 7⟩⟩] }
    ∧ seen (.aSclose 4 0) (openT loadD (storeSt [])) (fun t => t.cx.stream 4) = some Stream.reset ∧ seen (.aSclose 4 0) (openT loadD (storeSt [default])) (fun t => (t.cx.stream 4).st) = some .closing
    ∧ (openT loadD (storeSt [default])).cx.streams.all (fun e => e.1 == 4) = true ∧ isRun (.aSclose 4 0) (openT loadD Stream.reset) ((openT loadD Stream.reset).retire .a 1) = true := by decide +kernel

def piecesT (s : State) (need : Need) (d : BitVec 256) : List Piece := (s.groupPieces 0 false need 5 (dCellKind d) 4 (groupAt d 0).addr (groupAt d 0).len).toOption.elim [] fun r => r.1
theorem witness_Streams_issue : (openT loadD (openedT loadD)).cx.qr 0 = true ∧ (openedT loadD).ahead = 0 ∧ dDepth loadD = 2 ∧ piecesT (openT loadD (openedT loadD)) .read loadD = [⟨0x2040, 64, 0, .interleave⟩]
    ∧ ((openT loadD (openedT loadD)).groupReads false [⟨0x2040, 64, 0, .interleave⟩] (fun _ => 0x100040) 0).toOption.isSome = true
    ∧ isRun (.aLd 4 1 0 0) (openT loadD (openedT loadD)) ((openT loadD (openedT loadD)).raise 0 0 .a whyIllegal 0 0) = true
    ∧ isRun (.aLd 4 1 1 0) (openT loadD { openedT loadD with next := 2 }) (openT loadD { openedT loadD with next := 2 }) = true
    ∧ seen (.aLd 4 1 2 0) (openT loadD (openedT loadD)) (fun t => ((t.cx.stream 4).loads.map fun g => g.pieces, (t.cx.stream 4).next, t.cx.br 1, t.cx.ea.pc)) = some ([[⟨0x2040, 64, 0, .interleave⟩]], 1, 1, 10)
    ∧ seen (.aLd 4 1 1 0) (openT loadD (openedT loadD)) (fun t => (t.cx.br 1, t.cx.ea.pc)) = some (1, 11) := by decide +kernel
def scaledD : BitVec 256 := loadD ||| BitVec.ofNat 256 (0x100200 * 2 ^ 192)
theorem witness_Streams_issue_scale : dScBase scaledD = 0x100200 ∧ ((openT scaledD (openedT scaledD)).scalePlace 0x100200 0).toOption.map (fun r => r.1) = some ⟨0x2200, .interleave⟩
    ∧ seen (.aLd 4 1 1 0) (openT scaledD (openedT scaledD)) (fun t => (t.cx.stream 4).loads.map fun g => (g.scale, g.carry)) = some [(some (0x2200, .interleave), false)] := by decide +kernel
theorem witness_Streams_issue_store : isRun (.aSt 4 1 1 0) (openT loadD (storeSt [])) (openT loadD (storeSt [])) = true
    ∧ piecesT (openT loadD (storeSt [default])) .write (descT 2 2 2 4 16 64 0x100040) = [⟨0x2040, 64, 0, .interleave⟩]
    ∧ seen (.aSt 4 1 1 0) (openT loadD (storeSt [default])) (fun t => ((t.cx.stream 4).entries, (t.cx.stream 4).stores.length, (t.cx.stream 4).head, t.cx.br 1)) = some ([], 1, 1, 1)
    ∧ seen (.aPref 4 1 1 0) (openT loadD (openedT loadD)) (fun t => (t.cx.br 1, t.cx.ea.pc)) = some (0, 11) := by decide +kernel
/-- Stream 4 gathers or scatters single words of 0x100040 on under the indices of stream 5. -/
def gatherT (t : Stream) : State := let s := openT loadD t; s.setCx { s.cx with streams := s.cx.streams ++ [(5, { openedT (descT 1 2 2 4 16 64 0x100100) with entries := [⟨3, 0xFFFF, .absent, false⟩], tail := 1 })] }
def wordD (kind : Nat) : BitVec 256 := descT kind 2 2 4 1 4 0x100040
theorem witness_Streams_issue_gather : ((gatherT (openedT (wordD 1))).cx.stream 5).indexOk = true ∧ dataOk (wordD 1) = true
    ∧ ((gatherT (openedT (wordD 1))).elemPieces .read (wordD 1) 3 0).toOption.map (fun r => r.1) = some [⟨0x204C, 4, 0, .interleave⟩]
    ∧ seen (.aGath 4 1 5 1 0) (gatherT (openedT (wordD 1))) (fun t => ((t.cx.stream 4).loads.map fun g => g.pieces, (t.cx.stream 5).head, (t.cx.stream 5).entries, t.cx.br 1)) = some ([[⟨0x204C, 4, 0, .interleave⟩]], 1, [], 1)
    ∧ seen (.aScat 4 1 5 1 0) (gatherT { openedT (wordD 2) with entries := [default], tail := 1 }) (fun t => ((t.cx.stream 4).stores.map fun g => g.1.pieces, (t.cx.stream 5).head, (t.cx.stream 4).entries)) = some ([[⟨0x204C, 4, 0, .interleave⟩]], 1, []) := by decide +kernel
def gatherP (t : Stream) : State := let s := gatherT t; s.setCx { s.cx with streams := [(4, t), (5, { openedT (descT 1 2 2 4 16 64 0x100100) with entries := [⟨3, 0xFFFF, .absent, true⟩], tail := 1 })] }
def scaledSt : State := openT loadD { storeSt [default] with desc := descT 2 2 2 4 16 64 0x100040 ||| BitVec.ofNat 256 (0x100200 * 2 ^ 192) }
theorem witness_Streams_issue_more : seen (.aGath 4 1 5 1 0) (gatherP (openedT (wordD 1))) (fun t => (t.cx.ea.code, t.cx.br 1)) = some (0x13, 0)
    ∧ seen (.aScat 4 1 5 1 0) (gatherP { openedT (wordD 2) with entries := [default], tail := 1 }) (fun t => (t.cx.ea.code, t.cx.br 1)) = some (0x13, 0)
    ∧ (scaledSt.scalePlace (scaleVa (scaledSt.cx.stream 4).desc 0) 0).toOption.map (fun r => r.1) = some ⟨0x2200, .interleave⟩
    ∧ (scaledSt.scaleAt 0 0 ⟨0x2200, .interleave⟩).1.cx.stream 4 = scaledSt.cx.stream 4
    ∧ seen (.aSt 4 1 1 0) scaledSt (fun t => ((t.cx.stream 4).stores.length, t.cx.br 1)) = some (1, 1) := by decide +kernel

/-- The matrix unit as m, with the fields f in the shadow of the running context, which claims it. -/
def unitT (m : Matrix) (f : Fields) : State := onCell fun k => { k with mu := m, ctxs := [(0, { ctxT with shadow := f, c := [(1, 3), (2, 0xFFFFFFFFFFFFFFFF)] })] }
def aclrF : Fields := setField (setField (setField [] .op 3) .shapeM 128) .tl 1
def cmdT : Cmd := ((unitT Matrix.reset aclrF).enterPipe 0 0 aclrF).cl.mu.pipeC.getD default
theorem witness_MatrixCommands : (unitT Matrix.reset aclrF).cl.claim = some (unitT Matrix.reset aclrF).cur.ctx ∧ commandOf (unitT Matrix.reset aclrF).cx .mGo = some aclrF
    ∧ (unitT Matrix.reset aclrF).cmdOk 0 0 aclrF = true ∧ (unitT Matrix.reset aclrF).cmdOk 0 0 (setField aclrF .shapeM 129) = false
    ∧ seen (.mSet .shapeM 1 0x7FF) (unitT Matrix.reset aclrF) (fun t => fieldOf t.cx.shadow .shapeM) = some 2
    ∧ seen .mGo (unitT Matrix.reset aclrF) (fun t => (t.cx.issueOf 0, (t.cl.mu.pipe (pipeFor 3)).map fun c => (c.fields, c.ticket, c.rows))) = some (1, some (aclrF, 1, 0))
    ∧ isRun .mGo (unitT Matrix.reset (setField aclrF .shapeM 129)) ((unitT Matrix.reset (setField aclrF .shapeM 129)).raise 0 0 .m whyIllegal 0 0) = true
    ∧ (commandOf (onCell fun k => { k with claim := some 1 }).cx .mAclr).isSome = true ∧ isRun .mAclr (onCell fun k => { k with claim := some 1 }) (onCell fun k => { k with claim := some 1 }) = true := by decide +kernel
def mwaitT (rrc : Word) (c : Option Cmd) (bad : Bool) : State := let s := unitT { Matrix.reset with rrc := rrc, pipeC := c } []; s.setCx { s.cx with mpoison := bad }
theorem witness_MatrixCommands_wait : isRun (.mWait 5 1) (mwaitT 2 none false) (mwaitT 2 none false) = true ∧ seen (.mWait 5 1) (mwaitT 3 none false) (fun t => (t.cx.cr 5, t.cx.em.pc)) = some (3, 12)
    ∧ isRun (.mWait 5 1) (mwaitT 3 (some default) false) (mwaitT 3 (some default) false) = true
    ∧ isRun (.mWait 5 1) (mwaitT 3 none true) ((mwaitT 3 none false).raise 0 0 .m ⟨0x13, 6, 0xFF, 0, 0, 0⟩ 0 0) = true
    ∧ ((unitT { Matrix.reset with pipeC := some default } aclrF).cl.mu.pipe (pipeFor (fieldOf aclrF .op))).isSome = true
    ∧ isRun .mGo (unitT { Matrix.reset with pipeC := some default } aclrF) (unitT { Matrix.reset with pipeC := some default } aclrF) = true := by decide +kernel

/-- Core 0 of partition 1 in mode md, with x10 = 0x2040 and no stage 1, and the memory of s. -/
def hartT (md : HartMode) (s : State) : State := { s with harts := [(0, { Hart.reset with
  part := some 1, mode := md, pc := 0x400, x := [(10, 0x2040), (11, 1), (12, 77), (13, 8)], sregs := { SRegs.reset .u with tvec := 0x80000003 } })] }
def capT : State := let s := hartT .u stT; s.setHx { s.hx with capen := true }
theorem witness_HartInstructions_registers : (hartT .u stT).hx.moves = true ∧ (hartT .u stT).hx.mode = .u ∧ (hartT .s stT).hx.mode ≠ .u ∧ (hartT .s stT).hx.mode ≠ .vu
    ∧ isRun (.enxTlread 10 11) (hartT .u stT) (gives (hartT .u stT) 10 0) = true ∧ isRun (.enxTlread 10 12) (hartT .u stT) (gives (hartT .u stT) 10 (BitVec.allOnes 64)) = true
    ∧ isRun (.enxCapclr 3) (hartT .u stT) (excepts (hartT .u stT) 2 (BitVec.ofNat 64 ((encode (.enxCapclr 3)).headD 0)) none) = true
    ∧ seen (.enxCapset 3 10 12 13) (hartT .s stT) (fun t => (t.hx.cap 3, t.hx.pc)) = some (⟨0x2040, 77, 8⟩, 0x404) ∧ isRun (.enxCapget 10 11) (hartT .s stT) (gives (hartT .s stT) 10 0) = true := by decide +kernel
def imageT (typ dest : Nat) : State := hartT .u (mem stT 0x2040 (leBytes 4 (typ * 2 ^ 24 + 5 * 2 ^ 16 + dest) ++ leBytes 8 0x1122334455667788))
def sentT (n : Nat) : State := let s := imageT 0xEF 1; s.setHx { s.hx with out := List.range n }
theorem witness_HartInstructions_memory_send : ((imageT 5 1).hartRead .read 0x2040 64 64).toOption.map (fun r => r.1) = some [(⟨0x2040, .interleave⟩, 64)]
    ∧ seen (.enxSend 11 10) (imageT 0xF0 1) (fun t => (t.hx.senxcause, t.hx.sregs.cause, t.hx.sregs.tval, t.hx.pc)) = some (0x23, 24, 0x2040, 0x80000000) ∧ seen (.enxSend 11 10) (imageT 5 2) (fun t => (t.hx.senxcause, t.hx.sregs.cause, t.hx.sregs.tval, t.hx.pc)) = some (0x24, 24, 0x2040, 0x80000000)
    ∧ isRun (.enxSend 11 10) (sentT 4) (sentT 4) = true ∧ seen (.enxSend 11 10) (sentT 3) (fun t => (t.hx.out.length, t.hx.sending, t.hx.pc)) = some (4, some ((sentT 3).serial, 11, 0x2040), 0x400)
    ∧ seen (.enxSend 11 10) (sentT 3) (fun t => t.flights.map fun f => (hType (parcelHdr f.parcel), hChan (parcelHdr f.parcel), bnat (vecBytes f.parcel) 8 4)) = some [(0xEF, 5, 0x11223344)] := by decide +kernel
def hfutT (st : Nat) (w : Waiter) : State := { hartT .u (futureT st w none) with futs := [(0, [(3, ⟨1, 0x2040, .future 0x2040 w none none none none⟩)])] }
theorem witness_HartInstructions_memory_futures : ((hfutT 0 .none).hartFuture .readWrite 0x2040).toOption.map (fun r => r.1) = some ⟨⟨0x2040, .interleave⟩, 0x2040, 0x30008, 5⟩
    ∧ seen (.enxFpoll 11 10) (hfutT 2 .none) (fun t => (t.hx.xr 11, t.hx.pc)) = some (0x3000A, 0x404) ∧ seen (.enxFres 11 10 12 11) (hfutT 0 .none) (fun t => (t.hx.xr 11, t.slot 0 3)) = some (4, (hfutT 0 .none).slot 0 3)
    ∧ seen (.enxFres 11 10 12 13) (hfutT 2 .none) (fun t => (t.hx.senxcause, t.hx.sregs.cause, t.hx.sregs.tval, t.hx.pc)) = some (0x22, 24, 0x2040, 0x80000000)
    ∧ seen (.enxFres 11 10 12 13) (hfutT 0 .none) (fun t => (t.hx.xr 11, t.hx.pc, bytesAt t 0x2040 16)) = some (0, 0x404, leBytes 8 0x3000A ++ leBytes 8 77)
    ∧ seen (.enxFwait 11 10 13) (hfutT 1 .none) (fun t => (t.hx.senxcause, t.hx.sregs.cause, t.hx.sregs.tval, t.hx.pc)) = some (0x22, 24, 0x2040, 0x80000000)
    ∧ seen (.enxFwait 11 10 13) (hfutT 0 .none) (fun t => (t.hx.wait_, t.hx.pc, t.slot 0 3)) = some (some (0, 3, 11), 0x400, some ⟨1, 0x2040, .future 0x2040 (.hart 0) none none none none⟩)
    ∧ seen (.enxFwait 11 10 13) (hfutT 3 .none) (fun t => (t.hx.xr 11, t.hx.pc, t.hx.wait_)) = some (2, 0x404, none) := by decide +kernel
def blockedT (n : Option Nat) : State := let s := hfutT 1 (.hart 0); s.setHx { s.hx with wait_ := some (0, 3, 11), woken := n }
theorem witness_HartInstructions_memory_wakes : seen (.evHartWaiterRelease 0) (blockedT (some 2)) (fun t => ((t.hart 0).xr 11, (t.hart 0).pc, (t.hart 0).wait_)) = some (2, 0x404, none)
    ∧ seen (.evFwaitInterruptWithdraw 0) (blockedT none) (fun t => ((t.hart 0).wait_, t.slot 0 3, bytesAt t 0x2040 8)) = some (none, some ⟨1, 0x2040, .future 0x2040 .none none none none none⟩, leBytes 8 0x30008)
    ∧ (blockedT none).slotPages 0x81 = [] := by decide +kernel
theorem witness_HartInstructions_memory_accesses : capT.hx.capOk .read 0x2040 8 = false ∧ isRun (.evHartMemoryAccess 0 ⟨.load false, 0x2040, 8, 0, 11, false, false⟩) capT (excepts capT 24 0x2040 (some 0x28)) = true
    ∧ ((hartT .u memT).hartCheck .readWrite 0x2040 8 8).toOption.map (fun r => r.1) = some [(⟨0x2040, .interleave⟩, 8)] ∧ seen (.evHartMemoryAccess 0 ⟨.load true, 0x2040, 4, 0, 11, false, false⟩) (hartT .u memT) (fun t => t.hx.xr 11) = some 0x04030201
    ∧ seen (.evHartMemoryAccess 0 ⟨.store, 0x2040, 2, 0xABCD, 11, false, false⟩) (hartT .u memT) (fun t => bytesAt t 0x2040 3) = some [0xCD, 0xAB, 3]
    ∧ seen (.evHartMemoryAccess 0 ⟨.amo .max, 0x2040, 8, 3, 11, false, false⟩) (hartT .u memT) (fun t => (t.hx.xr 11, bytesAt t 0x2040 8)) = some (0x8807060504030201, leBytes 8 3) := by decide +kernel
def hartAcc (k : HartKind) (n : Nat) : Instr := .evHartMemoryAccess 0 ⟨k, 0x2040, n, 9, 11, false, false⟩
def resvT : State := { hartT .u memT with resvs := [(0, 0x81)] }
theorem witness_HartInstructions_memory_more : seen (hartAcc .lr 8) (hartT .u memT) (fun t => (t.hx.xr 11, mfind t.resvs 0)) = some (0x8807060504030201, some 0x81)
    ∧ seen (hartAcc .sc 4) resvT (fun t => (t.hx.xr 11, bytesAt t 0x2040 5, mfind t.resvs 0)) = some (0, [9, 0, 0, 0, 5], none)
    ∧ seen (hartAcc .sc 4) (hartT .u memT) (fun t => (t.hx.xr 11, bytesAt t 0x2040 1)) = some (1, [1])
    ∧ seen (hartAcc (.vload [⟨0, 0, 0x2040, true⟩]) 8) (hartT .u memT) (fun t => ((mget 0 t.hx.v 11).toNat, t.hx.vstart)) = some (0x8807060504030201, 0)
    ∧ seen (hartAcc (.vload [⟨0, 0, 0x2040, true⟩, ⟨1, 0, 0x2048, true⟩]) 8) capT (fun t => (t.hx.senxcause, t.hx.sregs.cause, t.hx.vstart)) = some (0x28, 24, 0)
    ∧ seen (hartAcc (.vload [⟨0, 0, 0x2040, false⟩, ⟨1, 1, 0x2041, true⟩]) 1) (hartT .u memT) (fun t => ((mget 0 t.hx.v 11).toNat, (mget 0 t.hx.v 12).toNat)) = some (0, 0x200)
    ∧ seen (hartAcc (.vload [⟨0, 0, 0x2040, true⟩, ⟨1, 0, 0x80000000000, true⟩]) 8) (hartT .u memT) (fun t => ((mget 0 t.hx.v 11).toNat, t.hx.vstart, t.hx.sregs.cause)) = some (0x8807060504030201, 1, 5)
    ∧ seen (hartAcc (.vstore [⟨0, 0, 0x2040, true⟩, ⟨1, 0, 0x2044, false⟩]) 1) (hartT .u memT) (fun t => bytesAt t 0x2040 2) = some [0, 2]
    ∧ seen (hartAcc (.load true) 8) (hartT .u poisonT) (fun t => t.hx.sregs.cause) = some 5
    ∧ isRun (hartAcc (.fence .full) 8) (hartT .u memT) (hartT .u memT) = true
    ∧ isRun (.enxFpoll 11 12) (hartT .u memT) (excepts (hartT .u memT) 6 77 none) = true
    ∧ seen (.enxFres 11 10 12 13) { hfutT 0 .none with futs := [] } (fun t => t.hx.senxcause) = some 0x22 := by decide +kernel

/-! The device's steps. -/

theorem witness_LinesAndJoins : ctxT.moves .x = true ∧ ctxT.taken = none ∧ (stT.ctx 0 0).ex.line = none ∧ cellT.istoreHit false (lineSlot 9) = some ⟨1, 8, true, lineT⟩ ∧ headerOk lineT = true
    ∧ seen (.evLineFetch 0 0 .x) stT (fun t => (t.ctx 0 0).ex.line) = some (some (8, lineT)) := by decide +kernel
def badLineT : State := onCell fun k => { k with istore := [⟨1, 8, true, 4⟩] }
def missT (pc : Slot) : State := (mem (onCell fun k => { k with istore := [], itlb := k.dtlb, ctxs := [(0, { ctxT with ex := { ctxT.ex with pc := pc } })] }) 0x2040 (leBytes 32 lineT.toNat))
theorem witness_LinesAndJoins_fetch : headerOk 4 = false ∧ isRun (.evLineFetch 0 0 .x) badLineT (badLineT.raise 0 0 .x ⟨2, 6, 0xFF, 0, 0, 0⟩ 0 0) = true
    ∧ ((missT 0x40011).xlate 0 false .fetch (slotAddr (lineSlot 0x40011))).toOption.map (fun r => r.1) = some ⟨0x2040, .interleave⟩
    ∧ seen (.evLineFetch 0 0 .x) (missT 0x40011) (fun t => (t.ctx 0 0).ex.line) = some (some (0x40010, lineT))
    ∧ ((missT 9).xlate 0 false .fetch (slotAddr 8)).toOption.isSome = false ∧ seen (.evLineFetch 0 0 .x) (missT 9) (fun t => ((t.ctx 0 0).ex.st, (t.ctx 0 0).st)) = some (.faulted, .suspended) := by decide +kernel
/-- X has come to slot pc by a call at slot 4 whose target line it could not fetch, when g31 held 6; the line lies in memory. -/
def lateT (pc : Slot) : State := let s := missT pc; s.setCtx 0 0 { s.ctx 0 0 with ex := { (s.ctx 0 0).ex with unchecked := some ⟨pc, 4, some 6, none, none⟩ } }
theorem witness_LinesAndJoins_late : seen (.evLineFetch 0 0 .x) (lateT 0x40011) (fun t => ((t.ctx 0 0).ex.line, (t.ctx 0 0).ex.unchecked, (t.ctx 0 0).gr 31)) = some (some (0x40010, lineT), none, 0x800000000000000C)
    ∧ seen (.evLineFetch 0 0 .x) (lateT 0x40012) (fun t => ((t.ctx 0 0).ex.code, (t.ctx 0 0).ex.pc, (t.ctx 0 0).gr 31)) = some (3, 4, 6)
    ∧ seen (.evLineFetch 0 0 .x) ((missT 0x40011).setPart 1 (slotT.part 1)) (fun t => ((t.ctx 0 0).ex.line, (t.ctx 0 0).ex.waited)) = some (none, some 0x2040)
    ∧ seen (.evLineFetch 0 0 .x) { missT 0x40011 with poison := [(0x81, true)] } (fun t => (t.ctx 0 0).ex.code) = some 0x13 := by decide +kernel
/-- X and A, and, when all is true, M wait at the join line of slot 8, which has a lane of each. -/
def joinT (all : Bool) : State := let w := fun (c : EngC) (b : Bool) => { c with joining := b, line := some (8, 0x10000000 ||| lineT) }
  onCtx fun x => { x with ex := w x.ex true, ea := w x.ea true, em := w x.em all }
theorem witness_LinesAndJoins_join : ((joinT true).ctx 0 0).ex.joinsAt 8 = true ∧ (firstLane (0x10000000 ||| lineT) .m 1).isSome = true ∧ ((joinT false).ctx 0 0).em.joinsAt 8 = false
    ∧ isRun (.evJoinRendezvous 0 0) (joinT false) (joinT false) = true
    ∧ seen (.evJoinRendezvous 0 0) (joinT true) (fun t => ((t.ctx 0 0).ex.joining, (t.ctx 0 0).ea.passed, (t.ctx 0 0).em.passed)) = some (false, some 8, some 8) := by decide +kernel

/-! Parcels: cell 1 takes TYPE 0x40 on channel 5 in a mailbox of 4 with n parcels. -/
def hdrT (typ dest : Nat) (part : BitVec 5) : Word := header 0 false false false part 0 (BitVec.ofNat 8 typ) 5 (BitVec.ofNat 16 dest)
def ctxO : Origin := .ctx (stT.issuer 0 0 .x)
def flyF (typ dest : Nat) (part : BitVec 5) (from_ : Origin) (leg : Leg) : Flight := ⟨77, mkParcel (hdrT typ dest part) [9], 1, from_, leg, 1, hdrT typ dest part, false⟩
def netT (f : Flight) (n : Nat) : State :=
  let s := { stT with flights := [f], parts := [(1, { partT with gridW := 4, table := [0x40000000, 0x40000001, 0x60000000, 0x80020003] })] }
  s.setCell 1 { Cell.reset with tag := 1, lcell := 1, chans := [(5, { Chan.reset with entry := entT 1, st := .idle, mailbox := List.replicate n 0 })] }
def arrives (f : Flight) (n : Nat) : Option (List Leg × List Nat × List Nat) := seen (.evParcelArrive 0) (netT f n) fun t => (t.flights.map fun f => f.leg, t.verdicts.map fun v => v.status, [(t.chan 1 5).mailbox.length, (t.chan 1 5).deferred.length, t.hypEvents.length])
theorem witness_ParcelDelivery : (netT (flyF 0x40 1 1 ctxO .way) 3).laneBefore 0 (flyF 0x40 1 1 ctxO .way) = [] ∧ ((netT (flyF 0x40 1 1 ctxO .way) 3).cell 1).answer 5 0x40 = 0
    ∧ arrives (flyF 0x40 1 1 ctxO .way) 3 = some ([], [0], [4, 0, 0]) ∧ arrives (flyF 0x40 1 1 ctxO .way) 4 = some ([.deferred 1 5], [5], [4, 1, 0])
    ∧ arrives (flyF 0x41 1 1 ctxO .way) 3 = some ([], [2], [3, 0, 0]) ∧ arrives (flyF 0x40 1 2 ctxO .way) 3 = some ([], [4], [3, 0, 1]) ∧ arrives (flyF 0x40 1 2 .status .way) 3 = some ([], [], [3, 0, 1])
    ∧ arrives (flyF 0x40 4 1 ctxO .way) 3 = some ([], [4], [3, 0, 0]) ∧ arrives (flyF 0x40 2 1 ctxO .way) 3 = some ([.evicted], [5], [3, 0, 0])
    ∧ arrives (flyF 0x40 3 1 ctxO .way) 3 = some ([.gateway], [], [3, 0, 0]) ∧ arrives (flyF 0x40 1 1 .status .way) 3 = some ([], [], [4, 0, 0]) := by decide +kernel
def waitingT (typ n : Nat) (e : BitVec 256) : State := let s := netT { flyF typ 1 1 ctxO (.deferred 1 5) with told := true } n; s.setChan 1 5 { s.chan 1 5 with entry := e, deferred := [77] }
def retried (typ n : Nat) (e : BitVec 256) : Option (List Nat × List Nat) := seen (.evDeferredParcelRetry 1 5) (waitingT typ n e) fun t => (t.verdicts.map fun v => v.status, [(t.chan 1 5).mailbox.length, (t.chan 1 5).deferred.length])
theorem witness_ParcelDelivery_retry : (waitingT 0x40 3 (entT 1)).chan 1 5 ≠ Chan.reset ∧ retried 0x40 3 0 = some ([3], [3, 0]) ∧ retried 0x41 3 (entT 1) = some ([2], [3, 0]) ∧ retried 0x40 3 (entT 1) = some ([0], [4, 0])
    ∧ isRun (.evDeferredParcelRetry 1 5) (waitingT 0x40 4 (entT 1)) (waitingT 0x40 4 (entT 1)) = true := by decide +kernel
/-- A gateway from partition 1 to cell 3 of partition 2, whose filter lets channels 5 to 5 through with n tokens. -/
def gatewayT (lo n : Nat) : State := { netT (flyF 0x40 3 1 ctxO .gateway) 0 with filters := [(7, ⟨BitVec.ofNat 128 (0x81 + 2 * 2 ^ 8 + lo * 2 ^ 16 + 5 * 2 ^ 24 + 0xABC * 2 ^ 32 + 9 * 2 ^ 48 + 1000 * 2 ^ 64), n, 0, 0⟩)] }
theorem witness_ParcelDelivery_gateway : ((gatewayT 5 1).part 1).resolve 3 = some 0x80020003 ∧ seen (.evGatewayForward 0) (gatewayT 6 1) (fun t => (t.gwDrops, t.flights.length, t.verdicts.map fun v => v.status)) = some (1, 0, [4])
    ∧ seen (.evGatewayForward 0) (gatewayT 5 0) (fun t => (t.flights.map fun f => f.leg, t.verdicts.map fun v => v.status)) = some ([.gateway], [5])
    ∧ seen (.evGatewayForward 0) (gatewayT 5 1) (fun t => (t.flights.map fun f => (f.leg, f.part, parcelHdr f.parcel), (mget Filter.reset t.filters 7).tokens)) = some ([(.way, 2, header 0 false false false 2 0xABC 0x40 5 3)], 0)
    ∧ seen (.evFilterBucketRefill 7) (gatewayT 5 9) (fun t => (mget Filter.reset t.filters 7).tokens) = some 9
    ∧ seen (.evFilterBucketRefill 7) { gatewayT 5 0 with time := 2500 } (fun t => mget Filter.reset t.filters 7) = some { (mget Filter.reset (gatewayT 5 0).filters 7) with tokens := 2, since := 2500, part := 500000 }
    ∧ seen (.evMessageFilterWrite 255 (5 <<< 48)) stT (fun t => mget Filter.reset t.filters 255) = some ⟨5 <<< 48, 5, 0, 0⟩ := by decide +kernel
def verdictT (o : Origin) (status : Nat) (told : Bool) : State := { hartT .u (onCtx fun x => { x with out := [77, 78], pend := [(77, 9)] }) with verdicts := [⟨77, hdrT 0x40 1 1, o, 1, status, told⟩] }
def sendingT (status : Nat) : State := let s := verdictT (.hart 0) status false; s.setHart 0 { s.hart 0 with out := [77], sending := some (77, 11, 8) }
theorem witness_ParcelDelivery_verdicts : stT.issuerCell (stT.issuer 0 0 .x) = some 0 ∧ stT.issuerAway (stT.issuer 0 0 .x) = false ∧ stT.stillRuns 0 (stT.issuer 0 0 .x) = true
    ∧ seen (.evVerdictReturn 0) (verdictT ctxO 0 false) (fun t => ((t.ctx 0 0).out, (t.ctx 0 0).st)) = some ([78], .running) ∧ seen (.evVerdictReturn 0) (verdictT ctxO 3 true) (fun t => ((t.ctx 0 0).out, (t.ctx 0 0).st)) = some ([78], .trapPending)
    ∧ seen (.evVerdictReturn 0) (verdictT (.nb (stT.issuer 0 0 .x)) 3 false) (fun t => ((t.ctx 0 0).gr 9, (t.ctx 0 0).out, (t.ctx 0 0).pend, (t.ctx 0 0).st)) = some (3, [78], [], .running)
    ∧ seen (.evVerdictReturn 0) (sendingT 0) (fun t => ((t.hart 0).xr 11, (t.hart 0).pc, (t.hart 0).out, (t.hart 0).sending)) = some (0, 0x404, [], none)
    ∧ seen (.evVerdictReturn 0) (verdictT (.future 8 1 5 0 3) 3 false) (fun t => ((t.part 1).heldDev.length, t.verdicts.length)) = some (1, 0) := by decide +kernel

/-- Cell 0 with context 1 free, and channel 9 with one parcel of TYPE 0x40, its handler at the line of slot 8. -/
def readyT (k : Cell → Cell) : State := onCell fun x => k { x with select := true, chans := [(9, { freeC with entry := entT 1, st := .runnable, mailbox := [mkParcel (hdrT 0x40 0 1) [1]] }), (8, { freeC with st := .runnable, boost := 7, mailbox := [0], entry := entT (3 + 2 ^ 38) })] }
theorem witness_Invocations_select : ((readyT id).cell 0).freeCtx = some 1 ∧ ((readyT id).cell 0).choose = some (9, 0) ∧ (readyT id).entryPending 0 9 = none ∧ ((readyT id).cell 0).select = true ∧ ((readyT id).cell 0).mailClash 9 = false
    ∧ (((readyT id).cell 0).chan 9).mailbox = [mkParcel (hdrT 0x40 0 1) [1]] ∧ hF8m (hdrT 0x40 0 1) = ((readyT id).ctx 0 1).fmode ∧ entEntry (entT 1) % 8 = 0 := by decide +kernel
def endedT (cl : Option Nat) (v : List Nat) : State := onCell fun k => { k with claim := cl, chans := [(5, { freeC with st := .running, mailbox := [0] })], ctxs := [(0, { ctxT with verdicts := v, ex := { ctxT.ex with st := .ended }, ea := { ctxT.ea with st := .ended } })] }
theorem witness_Invocations_end : (endedT none []).mayEnd 0 0 = true ∧ (endedT (some 0) []).mayEnd 0 0 = false ∧ (endedT none [1]).mayEnd 0 0 = false
    ∧ seen (.evInvocationEnd 0 0) (endedT none []) (fun t => ((t.ctx 0 0).st, (t.ctx 0 0).ex.st, (t.chan 0 5).st)) = some (.free, .notStarted, .runnable) := by decide +kernel
/-- The watchdog of context 0 has reached its limit; channel 63 takes trap parcels in a mailbox of 4 that holds n. -/
def trapC (n : Nat) : Chan := { Chan.reset with entry := BitVec.ofNat 256 (1 + 0xFE * 2 ^ 8 + 4 * 2 ^ 16 + 16 * 2 ^ 32), st := .idle, mailbox := List.replicate n 0 }
def dogT (n : Nat) : State := onCell fun k => { k with chans := [(63, trapC n)], ctxs := [(0, { ctxT with limit := 1024, wdcnt := 1024 })] }
theorem witness_Invocations_watchdog : ((dogT 3).cell 0).takesTraps = true ∧ ((dogT 3).chan 0 63).room = true
    ∧ seen (.evWatchdogExpiry 0 0) (dogT 3) (fun t => ((t.chan 0 63).mailbox.length, (t.ctx 0 0).st, (t.chan 0 63).mailbox.getLast?.map fun p => (vecBytes p).drop 8 |>.take 3)) = some (4, .free, some [0x20, 0, 5])
    ∧ seen (.evWatchdogExpiry 0 0) (dogT 4) (fun t => ((t.chan 0 63).mailbox.length, (t.ctx 0 0).st, (t.ctx 0 0).trap.isSome)) = some (4, .trapPending, true) := by decide +kernel
def pendingT (n : Nat) : State := onCell fun k => { k with chans := [(63, trapC n)], ctxs := [(0, { ctxT with st := .trapPending, trap := some 7 })] }
theorem witness_Invocations_pending : ((pendingT 3).cell 0).takesTraps = true ∧ seen (.evPendingTrapRetry 0 0) (pendingT 3) (fun t => ((t.chan 0 63).mailbox.length, (t.ctx 0 0).st, (t.ctx 0 0).trap)) = some (4, .free, none)
    ∧ isRun (.evPendingTrapRetry 0 0) (pendingT 4) (pendingT 4) = true := by decide +kernel
def kfaultT : State := { onCtx fun x => { x with kmode := true, st := .suspended, ex := { x.ex with st := .faulted, code := 5 } } with hypFaults := [⟨1, 0, 0, 7, .x, 5, 0, 0⟩] }
theorem witness_Invocations_kmode : (kfaultT.ctx 0 0).st = .suspended ∧ seen (.evKmodeTrap 0) kfaultT (fun t => ((t.ctx 0 0).st, (t.part 1).kevents, t.hypFaults)) = some (.free, [5], []) := by decide +kernel

/-- A task of TYPE 0x40 on channel 5 stands at cell 1, steps steps from its start, with its hint at hint; the cell's queue holds n, and its contexts are free or not. -/
def walkT (hint rad n : Nat) (busy : Bool) : State :=
  let s := netT (flyF 0x40 1 1 ctxO .way) 3
  let s := { s with tasks := [⟨9, mkParcel (hdrT 0x40 hint 1) [1], 1, stT.issuer 0 0 .x, 1, hint, rad, false, 0, false⟩] }
  s.setCell 1 { s.cell 1 with taskq := List.replicate n 0, ctxs := if busy then (List.range 4).map fun c => (c, ctxT) else [] }
theorem witness_TasksAndWorklist_walk : ((walkT 1 0 0 false).part 1).walkAt 1 = some (some 1) ∧ ((walkT 1 0 0 false).cell 1).takesTask (mkParcel (hdrT 0x40 1 1) [1]) = true
    ∧ seen (.evTaskParcelArrive 0) (walkT 1 0 0 false) (fun t => ((t.chan 1 5).mailbox.length, t.tasks.length)) = some (4, 0)
    ∧ seen (.evTaskParcelArrive 0) (walkT 1 0 63 true) (fun t => ((t.cell 1).taskq.length, t.tasks.length)) = some (64, 0)
    ∧ seen (.evTaskParcelArrive 0) (walkT 1 0 64 true) (fun t => ((t.cell 1).taskq.length, t.tasks.map fun t => t.waits)) = some (64, [true])
    ∧ seen (.evTaskParcelArrive 0) (walkT 0 0 0 false) (fun t => ((t.cell 1).taskq.length, t.tasks.map fun t => (t.at_, t.steps))) = some (0, [(0, 1)])
    ∧ seen (.evTaskParcelArrive 0) (walkT 0 1 0 false) (fun t => ((t.chan 1 5).mailbox.length, t.tasks.length)) = some (4, 0) := by decide +kernel
def queuedT : State := let s := netT (flyF 0x40 1 1 ctxO .way) 3; s.setCell 1 { s.cell 1 with taskq := [0, mkParcel (hdrT 0x40 9 1) [1]] }
theorem witness_TasksAndWorklist_queue : (lfind (queuedT.cell 1).takesTask (queuedT.cell 1).taskq).map (fun r => r.1) = some 1
    ∧ seen (.evTaskQueueToMailbox 1) queuedT (fun t => ((t.cell 1).taskq, (t.chan 1 5).mailbox.length)) = some ([0], 4) := by decide +kernel
/-- Cells 0 and 1 are neighbours: cell 0 holds n tasks of key k in its buckets and m in its queue. -/
def pairT (n k m : Nat) : State := (onCell fun x => { x with fview := 4, dview := 0, buckets := List.replicate n ⟨BitVec.ofNat 32 k, 9⟩, taskq := List.replicate m 0 }).setCell 1 { Cell.reset with tag := 1, lcell := 1 }
theorem witness_TasksAndWorklist_balance : (pairT 5 4 4).neighbours 1 0 = [(1, 1)] ∧ (partT.threshold) = 4
    ∧ seen (.evTaskBalanceInterval 0) (pairT 0 0 4) (fun t => ((t.cell 1).heard, (t.cell 0).taskq.length, t.transfers)) = some ([(0, 4)], 4, [])
    ∧ isRun (.evWorklistBalanceInterval 0) (pairT 4 4 0) (pairT 4 4 0) = true ∧ isRun (.evWorklistBalanceInterval 0) (pairT 5 5 0) (pairT 5 5 0) = true
    ∧ seen (.evWorklistBalanceInterval 0) (pairT 5 4 0) (fun t => ((t.cell 0).buckets.length, t.transfers.map fun x => (x.dst, x.work.length))) = some (3, [(1, 2)]) := by decide +kernel
def pushT : State := let s := pairT 0 0 0
  (s.setCell 0 { s.cell 0 with taskq := List.replicate 6 (mkParcel (hdrT 0x40 0 1) [1]) }).setCell 1 { Cell.reset with tag := 1, lcell := 1, chans := [(5, freeC)] }
theorem witness_TasksAndWorklist_push : seen (.evTaskBalanceInterval 0) pushT (fun t => ((t.cell 0).taskq.length, t.transfers.map fun x => (x.dst, x.tasks.length))) = some (3, [(1, 3)]) := by
  decide +kernel
def arriveT (n from_ : Nat) : State := { pairT n 4 0 with transfers := [⟨1, from_, 0, [0], [⟨4, 1⟩, ⟨4, 2⟩]⟩] }
theorem witness_TasksAndWorklist_arrive : seen (.evBalanceTransferArrive 0) (arriveT 254 0) (fun t => ((t.cell 0).buckets.length, (t.cell 0).taskq.length, t.transfers)) = some (256, 1, [])
    ∧ seen (.evBalanceTransferArrive 0) (arriveT 254 1) (fun t => ((t.cell 0).buckets.length, (t.cell 0).taskq, t.transfers)) = some (256, [], [⟨1, 1, 1, [0], []⟩])
    ∧ seen (.evBalanceTransferArrive 0) (arriveT 255 0) (fun t => ((t.cell 0).buckets.length, t.transfers)) = some (256, [⟨1, 0, 0, [], [⟨4, 2⟩]⟩]) := by decide +kernel
def reduceT (n : Nat) (cyc : Nat) (q : Option (Nat × Nat)) : State := { (pairT n 9 0).setPart 1 { partT with floor := 4, delta := 3, wakeChan := some 7, term := some (1, 69), quiet := q } with cycle := BitVec.ofNat 64 cyc }
theorem witness_TasksAndWorklist_reduce : (reduceT 1 0 none).floorKeys 1 = [9] ∧ (reduceT 0 0 none).floorKeys 1 = []
    ∧ seen (.evWorklistReduction 1) (reduceT 1 0 none) (fun t => ((t.cell 0).fview, (t.cell 1).dview, (t.cell 0).wview, (t.part 1).quiet)) = some (9, 3, some 7, none)
    ∧ seen (.evWorklistReduction 1) (reduceT 0 5 none) (fun t => ((t.cell 0).fview, (t.part 1).quiet)) = some (4, some (5, 0))
    ∧ seen (.evWorklistReduction 1) (reduceT 0 260 (some (5, 0))) (fun t => ((t.part 1).epoch, t.flights.length)) = some (true, 0)
    ∧ seen (.evWorklistReduction 1) (reduceT 0 261 (some (5, 0))) (fun t => ((t.part 1).epoch, t.flights.map fun f => parcelHdr f.parcel)) = some (false, [header 0 false false true 1 0xFFFF 0xFC 5 1]) := by decide +kernel
def wakeT : State := let s := pairT 1 4 0; s.setCell 0 { s.cell 0 with wview := some 7, spill := [⟨9, 1⟩, ⟨8, 2⟩] }
theorem witness_TasksAndWorklist_wake : (wakeT.cell 0).eligible 4 = true ∧ seen (.evWakeParcel 0) wakeT (fun t => ((t.cell 0).wake, t.flights.map fun f => parcelHdr f.parcel)) = some (true, [header 0 false false false 1 0xFFFF 0xFD 7 0])
    ∧ lowestAt (wakeT.cell 0).spill = some (1, ⟨8, 2⟩) ∧ seen (.evSpillReturn 0) wakeT (fun t => ((t.cell 0).spill, (t.cell 0).buckets.length)) = some ([⟨9, 1⟩], 2) := by decide +kernel
/-- The future of futureT with a deadline, a bound queue and an injection; the device's time is 9. -/
def slotKT (dl : Option Nat) (q : Option Word) (inj : Option Inject) (st : Nat) : State :=
  { futureT st .none none with time := 9, futs := [(0, [(3, ⟨1, 0x2040, .future 0x100040 contW dl q none inj⟩)])] }
/-- Tables that map the first GiB of partition 1 onto itself. -/
def mapT (s : State) : State :=
  mem (mem (mem (s.setPart 1 { s.part 1 with s1root := 0x4000 }) 0x4000 (leBytes 8 0x5001)) 0x5000 (leBytes 8 0x6001)) 0x6000 (leBytes 8 0x00A000000000007F)
theorem witness_FuturesAndLaunches_deadline : (slotKT (some 9) none none 1).slot 0 3 = some ⟨1, 0x2040, .future 0x100040 contW (some 9) none none none⟩ ∧ (slotKT (some 9) none none 1).latestNat 0x2040 8 % 4 < 2
    ∧ (slotKT (some 9) none none 1).slotPages 0x81 = []
    ∧ seen (.evFutureDeadline 0 3) (slotKT (some 9) none none 1) (fun t => (bytesAt t 0x2040 16, t.flights.map fun f => f.parcel)) = some (leBytes 8 0x3000B ++ leBytes 8 5, waiterSends 1 0x100040 0x3000B 5 0 contW)
    ∧ isRun (.evFutureDeadline 0 3) (slotKT (some 10) none none 1) (slotKT (some 10) none none 1) = true := by decide +kernel
def injT (left head : Nat) : State :=
  let s := mapT (slotKT none (some 0x100100) (some ⟨0x100100, none, left, 0, [.cont ⟨1, 5, 0x40, false⟩]⟩) 2)
  mem s 0x100100 (leBytes 8 0x100200 ++ leBytes 4 16 ++ leBytes 4 head ++ leBytes 4 17 ++ leBytes 4 1 ++ leBytes 4 77)
theorem witness_FuturesAndLaunches_injection : seen (.evTokenInjection 0 3) (injT 0 2) (fun t => (t.slot 0 3, t.flights.map fun f => f.parcel))
      = some (some ⟨1, 0x2040, .future 0x100040 contW none (some 0x100100) none (some ⟨0x100100, none, 0, 0, []⟩)⟩, [contParcel 1 ⟨1, 5, 0x40, false⟩ 0x100040 0x3000A 5 0])
    ∧ ((injT 1 2).devRead 1 false 0x100100 64).2.map (fun r => (bnat r.1 8 4, r.2)) = some (16, false)
    ∧ seen (.evTokenInjection 0 3) (injT 1 2) (fun t => (t.latestNat 0x100204 4, t.latestNat 0x100110 4, t.flights.map fun f => f.parcel)) = some (77, 18, [contParcel 1 ⟨1, 5, 0x40, false⟩ 0x100040 0x3000A 5 1])
    ∧ seen (.evTokenInjection 0 3) (injT 1 1) (fun t => (t.latestNat 0x100110 4, t.flights.length)) = some (17, 0) := by decide +kernel
/-- The worked example of R51. -/
theorem test_groupIndices : let ls := [levelOfWord (5 + 2 * 2 ^ 8 + 2 ^ 16), levelOfWord (4 + 2 ^ 8 + 12 * 2 ^ 16 + 4 * 2 ^ 32 + 4 * 2 ^ 40), levelOfWord (2 + 16 * 2 ^ 16), levelOfWord (1 + 4 * 2 ^ 16)]
    levelsOk none ⟨16, 12, 4⟩ ls = true ∧ groupIndices ⟨16, 12, 4⟩ 9 5 ls = [0, 6, 5, 0] := by decide +kernel
/-- A record of one level (EXT 1, domain 5, scope 2) over cell 0, with npar parcels to cell 1; its code at 0x100800 and its image, empty, at 0x102000. -/
def recordT (flags npar : Nat) : List Byte :=
  leBytes 2 1 ++ leBytes 1 1 ++ leBytes 1 flags ++ zeros 4 ++ leBytes 8 0x100800 ++ leBytes 8 0x102000 ++ leBytes 4 0x01010000 ++ leBytes 4 npar ++ leBytes 8 (5 + 2 * 2 ^ 8 + 2 ^ 16) ++ zeros 88
    ++ leBytes 8 0x40050001 ++ zeros 120
def recT (flags npar : Nat) : State := mem (mapT stT) 0x100100 (recordT flags npar)
theorem witness_FuturesAndLaunches_submit : ((recT 0 0).judgeLaunch 1 0x100100 true).2.1 = 0 ∧ isRun (.evLaunchSubmit 1 0x100104 true) stT { stT with statuses := [(1, 0x100104, 4)] } = true
    ∧ seen (.evLaunchSubmit 1 0x100100 true) (mem (recT 0 0) 0x100100 [2]) (fun t => (t.statuses, t.launches)) = some ([(1, 0x100100, 1)], []) := by decide +kernel
def launchT (flags npar : Nat) (fresh : Bool) (todo : List (Nat × Nat)) : State := { stT with launches := [⟨4, 1, BitVec.ofNat 2048 (leNat (recordT flags npar)), [], todo, fresh⟩] }
theorem witness_FuturesAndLaunches_proceed : (launchT 2 1 false []).launches[0]?.bind (fun l => (launchT 2 1 false []).launchCells l) = some [(0, 0, 0, 0)]
    ∧ seen (.evLaunchProceed 0) (launchT 2 1 false []) (fun t => (t.launches, (t.cell 0).istore, (t.ctx 0 3).fmode, t.flights.map fun f => hDest (parcelHdr f.parcel))) = some ([], [], true, [1])
    ∧ isRun (.evLaunchProceed 0) (launchT 1 1 true []) (launchT 1 1 true []) = true := by decide +kernel

/-- Copy 40 of context 0 on timeline 1, of block b, with todo, cells to accept and landings. -/
def movingT (b : List Byte) (todo : List (Nat × Nat)) (accept : List Nat) (landings : List Landing) : State :=
  let s := mem (onCtx fun x => { x with issue := [(1, 6)], done := [(1, 5)] }) 0x2100 [7, 8, 9, 10, 11]
  { s with landings := landings, copies := [⟨40, stT.issuer 0 0 .x, 1, false, false, 1, 6, vecOf b, [(0x100, (0x2000, .interleave))], [(0x100, (0x2000, .interleave))], todo, accept, false, false, []⟩] }
/-- The block of copyBlock as a slab over cells 0 and 1, 64 bytes in blocks of 64 at 0x80, with a completion channel and a follow-on command. -/
def slabBlock (cch follow : Nat) : List Byte := leBytes 8 0x100100 ++ zeros 8 ++ leBytes 4 0x01020000 ++ leBytes 4 0x80 ++ leBytes 4 64 ++ leBytes 4 128 ++ leBytes 2 1 ++ zeros 10
  ++ leBytes 1 1 ++ leBytes 1 cch ++ leBytes 2 3 ++ leBytes 8 follow ++ leBytes 8 1
theorem witness_CopiesMove : ((movingT (copyBlock 0) [(0, 64)] [] []).copy 40).map (fun c => ((movingT (copyBlock 0) [(0, 64)] [] []).copyWaits c 0 64, c.overlaps, cutOk c.b 8, (movingT (copyBlock 0) [(0, 64)] [] []).copyAway c 0 64)) = some ([], false, true, false)
    ∧ seen (.evCopyRunArrive 40 0 8) (movingT (copyBlock 0) [(0, 64)] [] []) (fun t => (t.latest 0x2200, t.latest 0x2204, t.copies.map fun c => c.todo)) = some (7, 11, [[(8, 64)]])
    ∧ isRun (.evCopyRunArrive 40 0 6) (movingT (copyBlock 0) [(0, 64)] [] []) (movingT (copyBlock 0) [(0, 64)] [] []) = true
    ∧ seen (.evCopyRunArrive 40 0 128) (movingT (slabBlock 5 0) [(0, 128)] [] []) (fun t => (t.copies.map (fun c => c.todo), t.landings.map fun l => (l.cell, l.off, l.bytes.take 5, l.bytes.length)))
      = some ([[]], [(0, 0x80, [7, 8, 9, 10, 11], 64), (1, 0x80, [0, 0, 0, 0, 0], 64)]) := by decide +kernel
def landedT (poison : Bool) : State := movingT (slabBlock 5 0) [] [] [⟨41, 0, 0x80, 0, [7, 8], poison⟩]
theorem witness_CopiesMove_landing : ((landedT true).cell 0).mailHit 0x80 2 = false ∧ (landedT true).copy 41 = none
    ∧ seen (.evSlabLanding 0) (landedT true) (fun t => (t.landings, mget 0 (t.cell 0).store 0x81, mget 0 (t.cell 0).store 0x82, mget false (t.cell 0).landed 2, mget false (t.cell 0).cpoison 2)) = some ([], 8, 0, true, true) := by decide +kernel
theorem witness_CopiesMove_complete : (movingT (slabBlock 5 0) [] [] []).outstanding 0 0 1 = [6]
    ∧ seen (.evCopyComplete 40) (movingT (slabBlock 5 0) [] [] []) (fun t => (t.copies, (t.ctx 0 0).doneOf 1, t.flights.map fun f => (hType (parcelHdr f.parcel), hCmpl (parcelHdr f.parcel), hChan (parcelHdr f.parcel)))) = some ([], 6, [(0xFF, true, 5)])
    ∧ seen (.evCopyComplete 40) (movingT (slabBlock 255 0) [] [] []) (fun t => (t.copies, t.flights)) = some ([], [])
    ∧ isRun (.evCopyComplete 40) (movingT (slabBlock 5 0) [] [0] []) (movingT (slabBlock 5 0) [] [0] []) = true := by decide +kernel
/-- The copy's follow-on block, bits as f, at 0x100300; cell 0 has n blocks queued. -/
def followT (f : List Byte) (n : Nat) : State :=
  let s := mem (mapT (movingT (slabBlock 5 0x100300) [] [0] [])) 0x100300 f
  s.setCell 0 { s.cell 0 with mu := { (s.cell 0).mu with followQ := List.replicate n ⟨0, 1⟩ } }
theorem witness_CopiesMove_accept : ((followT (blockOf aclrF) 3).devRead 1 false 0x100300 32).2.map (fun r => (r.1 == blockOf aclrF, r.2)) = some (true, false) ∧ blockClean (blockOf aclrF) = true ∧ cmdStatic (fieldsOf (blockOf aclrF)) = true
    ∧ seen (.evFollowOnAccept 40 0) (followT (blockOf aclrF) 3) (fun t => ((t.cell 0).mu.followQ.length, t.copies.map fun d => (d.accept, d.discard))) = some (4, [([], false)])
    ∧ seen (.evFollowOnAccept 40 0) (followT (blockOf aclrF) 4) (fun t => ((t.cell 0).mu.followQ.length, t.copies.map fun d => d.accept)) = some (4, [[0]])
    ∧ seen (.evFollowOnAccept 40 0) (followT (zeros 32) 0) (fun t => ((t.cell 0).mu.followQ.length, t.copies.map fun d => (d.accept, d.discard))) = some (0, [([], true)])
    ∧ cmdStatic (fieldsOf (zeros 32)) = false := by decide +kernel
def queuedF (f : Fields) : State := unitT { Matrix.reset with followQ := [⟨BitVec.ofNat 256 (leNat (blockOf f)), 41⟩] } []
theorem witness_CopiesMove_start : (queuedF aclrF).landedFor 41 0 = true ∧ ((queuedF aclrF).cell 0).claim = some 0
    ∧ seen (.evFollowOnStart 0) (queuedF aclrF) (fun t => ((t.cell 0).mu.followQ, ((t.cell 0).mu.pipe (pipeFor 3)).map fun c => (fieldOf c.fields .shapeM, c.rows))) = some ([], some (128, 0))
    ∧ seen (.evFollowOnStart 0) (queuedF (setField aclrF .shapeM 0)) (fun t => ((t.cell 0).mu.followQ, (t.cell 0).mu.pipeL.isNone, (t.cell 0).mu.pipeC.isNone)) = some ([], true, true)
    ∧ (queuedF aclrF).cmdOk 0 0 (setField aclrF .shapeM 0) = false := by decide +kernel
def copyWaitT : State := (movingT (copyBlock 0) [(0, 64)] [] []).setPart 1 (slotT.part 1)
theorem witness_CopiesMove_waits : copyWaitT.copyWaits (copyWaitT.copies.headD default) 0 8 ≠ []
    ∧ seen (.evCopyRunArrive 40 0 8) copyWaitT (fun t => (t.copies.map fun c => (c.todo, c.waited.isEmpty), t.latest 0x2200)) = some ([([(0, 64)], false)], 0)
    ∧ seen (.evCopyRunArrive 40 0 8) { movingT (copyBlock 0) [(0, 64)] [] [] with poison := [(0x84, true)] } (fun t => (t.copies.map fun c => c.poison, t.poisoned 0x88)) = some ([true], true) := by decide +kernel

def groupT : Group := ⟨[⟨0x2040, 64, 0, .interleave⟩], none, false, 0⟩
def loadedT : State := mem (openT loadD { openedT loadD with loads := [groupT], next := 1 }) 0x2041 [9]
theorem witness_StreamsMove : (loadedT.ctx 0 0).mustWait 4 ⟨dCellKind loadD, false, dAcq loadD && !dCellKind loadD, groupT⟩ = false
    ∧ seen (.evStreamGroupLand 0 0 4) loadedT (fun t => ((t.cx.stream 4).loads, (t.cx.stream 4).entries.map fun e => (e.data, e.poison), (t.cx.stream 4).tail)) = some ([], [(9 * 256, false)], 1) := by decide +kernel
/-- A store group of 8 bytes from 0x2040, or at 0x80 of the cell store, with lane 1 of its entry. -/
def writtenT (cell : Bool) : State := let d := descT (if cell then 4 else 2) 2 2 4 16 64 0x100040
  openT d { openedT d with stores := [(⟨[⟨if cell then 0x80 else 0x2040, 8, 0, .interleave⟩], none, false, 0⟩, ⟨BitVec.allOnes 512, 2, .absent, false⟩)] }
theorem witness_StreamsMove_store : (writtenT true).cx.mustWait 4 ⟨true, true, false, ⟨[⟨0x80, 8, 0, .interleave⟩], none, false, 0⟩⟩ = false ∧ (writtenT false).cx.mustWait 4 ⟨false, true, false, ⟨[⟨0x2040, 8, 0, .interleave⟩], none, false, 0⟩⟩ = false
    ∧ dCellKind (descT 4 2 2 4 16 64 0x100040) = true ∧ dAcq (descT 2 2 2 4 16 64 0x100040) = false ∧ (writtenT true).cl.mailHit 0x80 8 = false ∧ (writtenT false).slotPages 0x81 = []
    ∧ seen (.evStoreGroupWritten 0 0 4) (writtenT false) (fun t => ((t.cx.stream 4).stores, t.latest 0x2044, [0x2043, 0x2044, 0x2047, 0x2048].map (buffered t.cx.sb))) = some ([], 0, [none, some 255, some 255, none])
    ∧ seen (.evStoreGroupWritten 0 0 4) (writtenT true) (fun t => ((t.cx.stream 4).stores, mget 0 t.cl.store 0x84, mget 0 t.cl.store 0x88)) = some ([], 255, mget 0 (writtenT true).cl.store 0x88) := by decide +kernel
def ladenT (n : Nat) (gs : SMap Bool) : State := let d := descT 5 2 2 4 16 64 0x80
  let s := openT d { openedT d with issued := n }
  s.setCell 0 { s.cell 0 with landed := gs }
theorem witness_StreamsMove_landing : ((ladenT 0 []).cx.stream 4).fill = 0 ∧ dScBase (descT 5 2 2 4 16 64 0x80) = 0 ∧ (groupAt (descT 5 2 2 4 16 64 0x80) 0).addr = 0x80 ∧ (ladenT 0 []).cl.mailHit 0x80 64 = false
    ∧ seen (.evCopyLandingGroupIssue 0 0 4) (ladenT 3 [(5, true)]) (fun t => ((t.cx.stream 4).issued, (t.cx.stream 4).entries.length)) = some (4, 1)
    ∧ isRun (.evCopyLandingGroupIssue 0 0 4) (ladenT 3 [(4, true)]) (ladenT 3 [(4, true)]) = true ∧ isRun (.evCopyLandingGroupIssue 0 0 4) (ladenT 4 [(6, true)]) (ladenT 4 [(6, true)]) = true := by decide +kernel
def acqD : BitVec 256 := loadD ||| BitVec.ofNat 256 (2 ^ 71)
def acqT : State := let s := mem (openT acqD { openedT acqD with loads := [groupT], next := 1 }) 0x2041 [9]; s.setCx { s.cx with sb := [⟨0x81, 0x0700, 2, .weak, 32⟩] }
def relT : State := let d := descT 2 2 2 4 16 64 0x100040 ||| BitVec.ofNat 256 (2 ^ 71)
  let s := openT d { openedT d with stores := [(groupT, ⟨BitVec.allOnes 512, 2, .absent, false⟩)] }; s.setCx { s.cx with sb := [⟨0x81, 7, 1, .rel, 32⟩] }
def scaledLandT (base : Nat) : State := let d := descT 5 2 2 4 16 64 0x80 ||| BitVec.ofNat 256 (base * 2 ^ 192)
  let s := mem (mapT (openT d (openedT d))) 0x100200 [1, 2, 3, 4]; s.setCell 0 { s.cell 0 with landed := [(2, true)] }
theorem witness_StreamsMove_orders : seen (.evStreamGroupLand 0 0 4) acqT (fun t => ((t.cx.stream 4).entries.map fun e => e.data, t.cx.sb, t.latest 0x2041)) = some ([7 * 256], [], 7)
    ∧ seen (.evStreamGroupLand 0 0 4) (loadedT.setCx { loadedT.cx with streams := [(4, { Stream.reset with dropping := [⟨false, false, false, groupT⟩] })] }) (fun t => t.cx.stream 4) = some Stream.reset
    ∧ seen (.evStoreGroupWritten 0 0 4) relT (fun t => (t.cx.sb, [0x2040, 0x2043, 0x2044, 0x2048].map t.latest)) = some ([], [7, 0, 255, 0])
    ∧ seen (.evStoreGroupWritten 0 0 4) (openT loadD { storeSt [default] with st := .closing }) (fun t => (t.cx.stream 4).st) = some .closed
    ∧ seen (.evCopyLandingGroupIssue 0 0 4) (scaledLandT 0x100200) (fun t => (t.cx.stream 4).entries.map fun e => e.scale) = some [.word 0x04030201]
    ∧ seen (.evCopyLandingGroupIssue 0 0 4) (scaledLandT 0x100202) (fun t => (t.cx.stream 4).entries.map fun e => e.scale) = some [.bad] := by decide +kernel
def l1T (cyc : Nat) : State := { onCell fun k => { k with l1 := [⟨1, 0x81, 9, 0, 100⟩], ctxs := [(0, { ctxT with sb := [⟨0x81, 0x0707, 2, .weak, 32⟩] })] } with cycle := BitVec.ofNat 64 cyc }
theorem witness_StreamsMove_lines : (l1T 0).slotPages 0x81 = [] ∧ seen (.evStoreBufferDrain 0 0 0) (l1T 0) (fun t => (t.cx.sb, t.latest 0x2040, t.latest 0x2041)) = some ([], 0, 7)
    ∧ seen (.evL1LeaseExpiry 0 0) (l1T 100) (fun t => t.cl.l1) = some [] ∧ isRun (.evL1LeaseExpiry 0 0) (l1T 99) (l1T 99) = true := by decide +kernel

def cmdOf (f : Fields) (rows : Nat) : Cmd := { cmdT with fields := f, rows := rows, flipWait := false, waitO := false, outQ := [] }
def muT (m : Matrix) : State := unitT m []
theorem witness_MatrixUnit_flip : seen (.evMatrixFlipStart 0) (muT { Matrix.reset with pipeC := some { cmdT with flipWait := true } }) (fun t => (t.cl.mu.apl, t.cl.mu.pipeC.map fun c => c.flipWait)) = some (true, some false) := by decide +kernel
def chanF (op ch : Nat) : Fields := setField (setField (setField aclrF .op op) .doneChan ch) .shapeN 2
theorem witness_MatrixUnit_done : (muT { Matrix.reset with pipeC := some (cmdOf (chanF 3 69) 128) }).cmdDone 0 (cmdOf (chanF 3 69) 128) = true ∧ pipeFor 3 = .c
    ∧ (muT Matrix.reset).cmdDone 0 (cmdOf (chanF 3 69) 127) = false
    ∧ seen (.evMatrixCommandComplete 0 .c) (muT { Matrix.reset with pipeC := some (cmdOf (chanF 3 69) 128) })
        (fun t => (t.cl.mu.pipeC.isNone, t.flights.map fun f => (hType (parcelHdr f.parcel), hCmpl (parcelHdr f.parcel), hChan (parcelHdr f.parcel)))) = some (true, [(0xFF, true, 5)])
    ∧ seen (.evMatrixCommandComplete 0 .c) (muT { Matrix.reset with pipeC := some (cmdOf (chanF 3 63) 128) }) (fun t => (t.cl.mu.pipeC.isNone, t.flights)) = some (true, [])
    ∧ isRun (.evMatrixCommandComplete 0 .c) (muT { Matrix.reset with pipeC := some (cmdOf (chanF 3 69) 127) }) (muT { Matrix.reset with pipeC := some (cmdOf (chanF 3 69) 127) }) = true := by decide +kernel
def redF : Fields := setField (chanF 7 0) .shapeM 1
theorem witness_MatrixUnit_red : seen (.evMatrixCommandComplete 0 .c) (muT { Matrix.reset with pipeC := some (cmdOf redF 1), acc := [(0, 5), (1, 6), (2, 7)] }) (fun t => (t.cl.mu.acc, t.cl.mu.pipeC.isNone)) = some ([(2, 7)], true) := by decide +kernel
/-- Cell 0's m.bcast of a patch of two columns, its row 0; cell 1's port holds n rows, of the command of by. -/
def bcastF : Fields := setField (setField (setField (setField aclrF .op 6) .patchW 2) .patchH 1) .shapeM 2
def bcastT (n : Nat) (by_ : Option Nat) : State := (muT { Matrix.reset with pipeL := some (cmdOf bcastF 1), sending := [⟨[3], .absent, false⟩] }).setCell 1 { Cell.reset with
  tag := 1, lcell := 1, mu := { Matrix.reset with port := List.replicate n ⟨[], .absent, false⟩, portBy := by_ } }
theorem witness_MatrixUnit_broadcast : (bcastT 1 none).patchRow 0 (cmdOf bcastF 1).fields = [0, 1] ∧ (bcastT 1 none).patchAway 0 (cmdOf bcastF 1).fields = false
    ∧ seen (.evBroadcastRowArrive 0) (bcastT 1 (some 0)) (fun t => (t.cl.mu.sending, t.cl.mu.port.map fun r => r.bytes, (t.cell 1).mu.port.map fun r => r.bytes)) = some ([], [[3]], [[], [3]])
    ∧ isRun (.evBroadcastRowArrive 0) (bcastT 2 (some 0)) (bcastT 2 (some 0)) = true ∧ isRun (.evBroadcastRowArrive 0) (bcastT 0 (some 1)) (bcastT 0 (some 1)) = true := by decide +kernel
/-- A row of 1 and 2 (T30) on its way to row 3 of cell 1, whose elements there are 3 and 0. -/
def partialT : State := { stT with partials := [⟨1, 0, 3, [1, 2], 7, false⟩] }
theorem witness_MatrixUnit_partial : partialT.partials[0]? = some ⟨1, 0, 3, [1, 2], 7, false⟩ ∧ seen (.evPartialRowAdd 0) partialT (fun t => (t.partials, (t.cell 1).mu.rrc, (t.cell 1).mu.planes)) = some ([], 1, []) := by decide +kernel

/-- mapT with the next GiB mapped to LPDDR6, and a schedule at 0x100100 whose slot 2 is pending from src. -/
def schedT (src : Nat) : State := let s := mem (mapT stT) 0x6008 (leBytes 8 0x00A002000000007F)
  s.setPart 1 { s.part 1 with sched := some ⟨0x100100, false, 0, 4, [(2, .pending src 5)], [], []⟩ }
def pagesOf (s : State) (src : Nat) : List Loc := (tilePages (BitVec.ofNat 64 src)).filterMap fun v => (s.stagePage 1 .read true v).2
theorem witness_DeviceTranslationAndFaults : (stT.xlate 0 false .read 0x100040).toOption.map (fun r => r.1) = some ⟨0x2040, .interleave⟩
    ∧ (stT.xlate 0 false .read 0x900040).toOption.isSome = false ∧ (stT.translate 1 (some 0) false .read true 0x900040).toOption.isSome = false
    ∧ isRun (.evTableWalk 0 0x900040 .read false) stT stT = true ∧ seen (.evPrefetcherAccess 0 0x900040) stT (fun t => t.cl.dpcnt) = some 1
    ∧ seen (.evFbhdrWrite 1 0x1234567F) stT (fun t => (t.part 1).fbhdr) = some 0x12345640 ∧ isRun (.evHeldFaultReraise 1) stT stT = true ∧ isRun (.evStagerCurRead 1) stT stT = true := by decide +kernel
/-- A fault buffer with its header at 0x100080 and its ring of 16 records at 0x100400, whose TAIL is tail; A holds a record. -/
def ringT (tail : Nat) : State :=
  let s := mem (mapT (onCtx fun x => { x with ea := { x.ea with held := some 5 } })) 0x100080 (leBytes 8 0x100400 ++ leBytes 2 0x604 ++ zeros 2 ++ leBytes 4 0x40 ++ leBytes 4 0 ++ leBytes 4 tail ++ leBytes 4 1)
  s.setPart 1 { s.part 1 with fbhdr := 0x100080 }
theorem witness_DeviceTranslationAndFaults_ring : (ringT 15).heldOf 1 = [(.eng 0 0 .a, 5)] ∧ (ringT 15).oldestHeld 1 = some (.eng 0 0 .a, 5) ∧ (let r := (ringT 15).fbHeader 1; r.2.map fun h => (r.1.ringPut 1 h 5 true).2) = some true ∧ (let r := (ringT 16).fbHeader 1; r.2.map fun h => (r.1.ringPut 1 h 5 true).2) = some false
    ∧ seen (.evHeldFaultReraise 1) (ringT 15) (fun t => (t.cx.ea.held, t.latestNat 0x100094 4, t.latestNat 0x1007C0 1)) = some (none, 16, 5)
    ∧ seen (.evHeldFaultReraise 1) (ringT 16) (fun t => (t.cx.ea.held, t.latestNat 0x100094 4)) = some (some 5, 16) := by decide +kernel
theorem witness_DeviceTranslationAndFaults_stager : ((schedT 0).readSched 1 0x100100 64).2.map schedOk = some false
    ∧ seen (.evStagerCurRead 1) (schedT 0) (fun t => (t.part 1).sched.map fun g => (g.bad, g.slots.length)) = some (some (true, 0))
    ∧ (pagesOf (schedT 0x3FFFF000) 0x3FFFF000).length = 1 ∧ pagesOf (schedT 0x40000000) 0x40000000 = [⟨0x20000000000, .lodge⟩, ⟨0x20000001000, .lodge⟩]
    ∧ ((pagesOf (schedT 0x40000000) 0x40000000).flatMap fun l => granules l.pa 4096).any (schedT 0x40000000).poisoned = false
    ∧ seen (.evStagerTileReady 1 2) (schedT 0x3FFFF000) (fun t => (t.part 1).sched.map fun g => g.slots) = some (some [(2, .failed 5)]) := by decide +kernel

/-- A valid header: two entries of one tile each, of steps 0 and 1, for slots 0 and 2 of a staging area of 4 slots; CUR is cur. -/
def stagerT (cur : Nat) (slots : SMap StageSt) : State :=
  let ent := fun (src step slot : Nat) => leBytes 8 src ++ leBytes 4 step ++ leBytes 2 1 ++ zeros 2 ++ leBytes 4 slot ++ zeros 12
  let s := mem (mem (schedT 0) 0x100100 (leBytes 8 0x100200 ++ leBytes 4 2 ++ [1, 0, 0, 0] ++ leBytes 8 0x104000 ++ leBytes 4 4 ++ leBytes 4 2 ++ leBytes 8 cur)) 0x100200
    (ent 0x40000000 0 0 ++ ent 0x40002000 1 2)
  s.setPart 1 { s.part 1 with sched := some ⟨0x100100, false, 0, 0, slots, [], []⟩ }
theorem witness_DeviceTranslationAndFaults_window : ((stagerT 0 []).readSched 1 0x100100 64).2.map schedOk = some true ∧ ((stagerT 0 []).slotOk 1 0x104000).2 = true
    ∧ seen (.evStagerCurRead 1) (stagerT 0 []) (fun t => (t.part 1).sched.map fun g => (g.slots, g.pages, g.nslot)) = some (some ([(0, .pending 0x40000000 0), (2, .pending 0x40002000 1)], [(0x104, 0), (0x105, 0), (0x106, 1), (0x107, 1), (0x108, 2), (0x109, 2), (0x10A, 3), (0x10B, 3)], 4))
    ∧ seen (.evStagerCurRead 1) (stagerT 1 [(0, .ready 0), (2, .ready 1)]) (fun t => (t.part 1).sched.map fun g => g.slots) = some (some [(0, .pending 0x40000000 2), (2, .ready 1)])
    ∧ isRun (.evStagerTileReady 1 2) (stagerT 0 [(0, .pending 0x40000000 0), (2, .pending 0x40002000 1)]) (stagerT 0 [(0, .pending 0x40000000 0), (2, .pending 0x40002000 1)]) = true
    ∧ (((stagerT 0 []).tilePlaces 1 0x40000000).2.map fun ls => ls.map fun l => l.2) = some [4096, 4096] := by decide +kernel

/-- Context 0 waits at a sys of X into g5 whose block, b, stands at 0x100100. -/
def askT (b : List Byte) : State :=
  let s := mem (mapT (onCtx fun x => { x with kmode := true, st := .suspended, ex := { x.ex with st := .faulted, code := 0x30 } })) 0x100100 b
  { s with hypFaults := [⟨1, 0, 0, 7, .x, 0x30, 0x100100, 5⟩] }
def asksT (b : List Byte) : Bool := ((askT b).xlateDev 1 true .readWrite 0x100100).toOption.map (fun r => (r.1, r.2.poisoned 0x4004, bytesAt r.2 0x100100 64 == b, r.2.slotPages 0x4004)) == some (⟨0x100100, .interleave⟩, false, true, [])
def askB (fn arg more : Nat) : List Byte := leBytes 8 fn ++ leBytes 8 arg ++ leBytes 4 more ++ zeros 44
/-- What the request leaves in byte 1, g5 and X's slot, with more of the state. -/
def servesT {α : Type} (i : Instr) (b : List Byte) (f : State → α) : Option (Nat × Word × Slot × α) := seen i (askT b) fun t => (t.latestNat 0x100101 1, t.cx.gr 5, t.cx.ex.pc, f t)
theorem witness_Services : (askT (askB 1 15 0)).hypFaults[0]? = some ⟨1, 0, 0, 7, .x, 0x30, 0x100100, 5⟩ ∧ asksT (askB 1 15 0) = true
    ∧ servesT (.evKmodeTrap 0) (askB 7 0 0) (fun t => t.hypFaults.length) = some (1, 1, 10, 0) ∧ serviceArgs 7 = none ∧ serviceClean (askB 1 256 0) (8, 1) = false
    ∧ servesT (.evServiceThreshold 0) (askB 1 256 0) (fun t => (t.part 1).threshold) = some (1, 1, 10, 4)
    ∧ serviceClean (askB 1 15 0) (8, 1) = true ∧ servesT (.evServiceThreshold 0) (askB 1 15 0) (fun t => (t.part 1).threshold) = some (0, 0, 10, 15)
    ∧ servesT (.evServiceThreshold 0) (askB 1 16 0) (fun t => (t.part 1).threshold) = some (2, 2, 10, 4) ∧ servesT (.evServiceThreshold 0) (askB 1 0 0) (fun t => (t.part 1).threshold) = some (2, 2, 10, 4)
    ∧ servesT (.evServiceGrace 0) (askB 2 10000 0) (fun t => (t.part 1).grace) = some (0, 0, 10, 10000)
    ∧ servesT (.evServiceGrace 0) (askB 2 1000000001 0) (fun t => (t.part 1).grace) = some (2, 2, 10, 1000000) := by decide +kernel
theorem witness_Services_areas : servesT (.evServiceSpillArea 0) (askB 3 0 0) (fun t => (t.part 1).spillN) = some (0, 0, 10, 0) ∧ (askT (askB 3 0x102000 64)).backedBy 1 false 0x102000 = true ∧ (askT (askB 3 0 0)).holdsTask 1 = false
    ∧ servesT (.evServiceSpillArea 0) (askB 3 0x102000 64) (fun t => ((t.part 1).spillBase, (t.part 1).spillN)) = some (0, 0, 10, 0x102000, 64)
    ∧ servesT (.evServiceSchedule 0) (askB 4 0x102040 0) (fun t => (t.part 1).sched) = some (0, 0, 10, some ⟨0x102040, false, 0, 0, [], [], []⟩)
    ∧ servesT (.evServiceSchedule 0) (askB 4 0 0) (fun t => (t.part 1).sched) = some (0, 0, 10, none) ∧ servesT (.evServiceSchedule 0) (askB 4 0x102020 0) (fun t => (t.part 1).sched) = some (2, 2, 10, none)
    ∧ servesT (.evServiceLaunch 0) (askB 5 0x102004 0) (fun t => t.launches.length) = some (4, 0, 10, 0) := by decide +kernel
def workingT (b : List Byte) : State := let s := askT b; s.setCell 0 { s.cell 0 with buckets := [⟨4, 9⟩] }
theorem witness_Services_held : (workingT (askB 3 0x102000 64)).holdsTask 1 = true ∧ seen (.evServiceSpillArea 0) (workingT (askB 3 0x102000 64)) (fun t => (t.latestNat 0x100101 1, t.cx.gr 5, (t.part 1).spillN)) = some (3, 3, 0) := by decide +kernel
def yieldT : State := { askT (askB 6 0 0) with sets := [(0, { SliceSet.reset with order := [(1, 9), (2, 9)] }), (1, { SliceSet.reset with order := [(2, 9), (1, 9)] })] }
theorem witness_Services_poison : seen (.evServiceGrace 0) { askT (askB 2 10000 0) with poison := [(0x4004, true)] } (fun t => (t.cx.gr 5, t.latestNat 0x100101 1, (t.part 1).grace)) = some (4, 0, 1000000)
    ∧ seen (.evKmodeTrap 0) { askT (askB 7 0 0) with hypFaults := [⟨1, 0, 0, 7, .x, 0x30, 0x100104, 5⟩] } (fun t => (t.cx.gr 5, t.hypFaults)) = some (4, []) := by decide +kernel
theorem witness_Services_yield : seen (.evServiceYield 0) yieldT (fun t => (t.latestNat 0x100101 1, t.cx.gr 5, t.sets.map fun e => e.2.yielded)) = some (0, 0, [true, false]) := by decide +kernel

/-- Cells 0 and 1 in a set of partitions 1 and 2, with 100 ns each; context 0 of cell 0 is x, and the device time is t. -/
def setT (x : Ctx) (t : Nat) (f : SliceSet → SliceSet) : State :=
  { onCell fun k => { k with ctxs := [(0, x)] } with time := BitVec.ofNat 64 t, sets := [(3, f { SliceSet.reset with cells := [0, 1], order := [(1, 100), (2, 100)], resident := 0, since := 50 })] }
theorem witness_TimeSlices : ((setT ctxT 150 id).sliceSet 3).order ≠ [] ∧ (setT ctxT 149 id).sliceOver ((setT ctxT 149 id).sliceSet 3) = false
    ∧ seen (.evSliceEnd 3) (setT ctxT 150 id) (fun t => ((t.cell 0).select, (t.cell 1).select, (t.sliceSet 3).stopping, (t.ctx 0 0).st)) = some (false, false, some 150, .running)
    ∧ isRun (.evSliceEnd 3) (setT ctxT 149 id) (setT ctxT 149 id) = true
    ∧ isRun (.evSliceEnd 3) (setT ctxT 200 fun s => { s with stopping := some 150 }) (setT ctxT 200 fun s => { s with stopping := some 150 }) = true := by decide +kernel
theorem witness_TimeSlices_evict : (setT Ctx.reset 200 fun s => { s with stopping := some 150 }).setQuiet ((setT Ctx.reset 200 fun s => { s with stopping := some 150 }).sliceSet 3) = true
    ∧ seen (.evSliceEnd 3) (setT Ctx.reset 200 fun s => { s with stopping := some 150 }) (fun t => ((t.sliceSet 3).empty, (t.sliceSet 3).stopping, (t.cell 0).chans.length, (t.cell 0).tag, (t.part 1).st)) = some (true, none, 0, 1, .preempted) := by decide +kernel
theorem witness_TimeSlices_restore : seen (.evSliceRestore 3) (setT Ctx.reset 200 fun s => { s with empty := true, resident := 1 }) (fun t => ((t.sliceSet 3).empty, (t.sliceSet 3).resident, (t.sliceSet 3).since, (t.part 1).st))
    = some (false, 0, 200, .running) := by decide +kernel
/-- Context 0 of cell 0 is free and holds what an image keeps: a mode, a count, a pending trap, and a parcel on its way that is deferred at channel 9,
whose mailbox holds another; a task is queued and one is in the buckets. -/
def fullSetT (n : Nat) : State := let s := setT { Ctx.reset with fmode := true, issue := [(0, 5)], trap := some 3, out := [77], st := .trapPending } 200 fun s =>
    { s with stopping := some 150, order := (List.range n).map fun p => (p + 1, 100) }
  { s.setCell 0 { s.cell 0 with taskq := [6], buckets := [⟨1, 2⟩], wake := true, cpoison := [(0x17FB, true)], store := [(0x5FEE4, 8)], mu := Matrix.reset, chans := [(9, { freeC with st := .runnable, skip := 3, boost := 2, mailbox := [4], deferred := [77, 78], entry := entT 1 })] } with
    flights := [{ flyF 0x40 0 1 ctxO (.deferred 0 9) with id := 77 }] }
theorem witness_TimeSlices_holds : (fullSetT 2).setQuiet ((fullSetT 2).sliceSet 3) = true
    ∧ seen (.evSliceEnd 3) (fullSetT 2) (fun t => (mget [] (t.sliceSet 3).images 1).map fun i => (i.1, i.2.from_, i.2.chans.map fun c => (c.2.mailbox, c.2.deferred, c.2.skip, c.2.boost)))
      = some [(0, 0, [([4], [78], 3, 2)])]
    ∧ seen (.evSliceEnd 3) (fullSetT 2) (fun t => (mget [] (t.sliceSet 3).images 1).map fun i => (i.2.taskq, i.2.work, i.2.wake, i.2.area, i.2.poison)) = some [([6], [⟨1, 2⟩], true, [(0x5FEE4, 8)], [(0x17FB, true)])]
    ∧ seen (.evSliceEnd 3) (fullSetT 2) (fun t => (mget [] (t.sliceSet 3).images 1).map fun i => (i.2.fmodes, i.2.issues, i.2.traps, i.2.outs)) = some [([(0, true)], [(0, [(0, 5)])], [(0, some 3)], [(0, [77])])]
    ∧ seen (.evSliceEnd 3) (fullSetT 2) (fun t => (t.flights.map fun f => (f.id, f.leg), (t.part 1).table, (t.cell 0).ctxs.length)) = some ([(77, .image)], [0x60000000, 0x60000001], 0)
    ∧ isRun (.evSliceEnd 3) (setT ctxT 150 fun s => { s with order := [(1, 100)] }) (setT ctxT 150 fun s => { s with order := [(1, 100)] }) = true := by decide +kernel
/-- An image of logical cell 0 of partition 1 waits while its set, cells 0 and 1, stands empty and free. -/
def heldI : Image := { (default : Image) with from_ := 0, outs := [(0, [77])], frames := [(0x100, 7)], taskq := [6], saved := [(1, ctxT, true)] }
def awayT : State := let s := setT Ctx.reset 200 fun s => { s with empty := true, resident := 1, images := [(1, [(0, heldI)])] }
  { (s.setCell 0 { Cell.reset with tag := 1, lcell := 0 }).setPart 1 { s.part 1 with table := [0x60000000, 0x60000001] } with
    flights := [{ flyF 0x40 0 1 ctxO .image with id := 77 }] }
theorem witness_TimeSlices_image : (awayT.sliceSet 3).empty = true ∧ mget [] (awayT.sliceSet 3).images ((awayT.sliceSet 3).at_ 0) = [(0, heldI)]
    ∧ (awayT.freeCells (awayT.sliceSet 3)).take 3 = [0, 1, 2] := by decide +kernel
theorem witness_TimeSlices_room : (awayT.freeCells (awayT.sliceSet 3)).Nodup ∧ ([(0, heldI)].map fun x => x.1).Nodup := by
  refine ⟨List.Nodup.append ((by decide : ([0, 1] : List Nat).Nodup).filter _ |>.filter _) (List.nodup_range.filter _) fun x hx hy => ?_, by decide⟩
  have h : x = 0 ∨ x = 1 := by
    have h : x ∈ [0, 1] := List.mem_of_mem_filter (List.mem_of_mem_filter hx)
    simpa using h
  rcases h with rfl | rfl <;> exact absurd (List.mem_filter.1 hy).2 (by decide +kernel)
def graceT (t : Nat) : State := setT { quietX with g := [(4, 9)] } t fun s => { s with stopping := some 150 }
def unclaimedT (t : Nat) : State := (graceT t).setCell 0 { (graceT t).cell 0 with claim := none }
theorem witness_TimeSlices_grace : (unclaimedT 1000151).sets.find? (fun e => e.2.cells.contains 0 && e.2.stopping.isSome) = some (3, (graceT 0).sliceSet 3) ∧ (unclaimedT 1000151).quiet 0 0 = true
    ∧ seen (.evGraceExpiry 0 0) (unclaimedT 1000151) (fun t => ((t.ctx 0 0).st, (mfind (t.sliceSet 3).saved 0).map fun x => (x.1.g, x.1.st, x.2))) = some (.free, some ([(4, 9)], .suspended, false))
    ∧ seen (.evGraceExpiry 0 0) ((unclaimedT 1000151).setCtx 0 0 { (unclaimedT 1000151).ctx 0 0 with esc := [7] }) (fun t => ((t.ctx 0 0).st, (t.ctx 0 0).esc, (mfind (t.sliceSet 3).saved 0).map fun x => x.1.esc)) = some (.trapPending, [7], some [])
    ∧ isRun (.evGraceExpiry 0 0) (unclaimedT 1000150) (unclaimedT 1000150) = true := by decide +kernel

def cfgT : PartCfg := ⟨2, 1, [0x40000004, 0x80030001], ⟨0x40000000, 0x40000000, 0, 0⟩, [1], [7], some 0x100000, []⟩
def coresT : State := hartT .u { stT with vfs := [(5, { Fn.reset with part := some 1 })], av := [(1000, 2), (3, 6)] }
theorem witness_Partitions : (stT.cell 1535).clean = true ∧ (stT.cell 0).clean = false ∧ seen (.evCellAssign 1535 23 9 1) stT (fun t => ((t.cell 1535).tag, (t.cell 1535).lcell, (t.cell 1535).kchan)) = some (23, 9, 1)
    ∧ seen (.evCellAssign 1535 31 9 1) stT (fun t => ((t.cell 1535).tag, (t.cell 1535).lcell)) = some (31, 0xFFFF) ∧ seen (.evCoreAssign 127 23) stT (fun t => (t.hart 127).part) = some (some 23)
    ∧ seen (.evVfAssign 383 23) coresT (fun t => (t.fn (.vf 383)).part) = some (some 23) ∧ (coresT.vfs.filter fun e => e.1 != 383 && e.2.part == some 23).length < 16
    ∧ seen (.evSegmentUpdate (some 383) 0 ⟨0x40000000, 0x40000000, 0, 0⟩) stT (fun t => (t.fn (.vf 383)).seg) = some ⟨0x40000000, 0x40000000, 0, 0⟩
    ∧ segOk ⟨0x40000000, 0x40000000, 0, 0⟩ = true ∧ stT.segFree 1 ⟨0x40000000, 0x40000000, 0, 0⟩ = true ∧ stT.saving (stT.part 1).cellsOf = false ∧ (stT.invalidate (stT.part 1).cellsOf (stT.part 1).cellsOf (fun e => e.part == 1) (fun c => c.part == 1)).toOption.isSome = true
    ∧ seen (.evSegmentUpdate none 1 ⟨0x40000000, 0x40000000, 0, 0⟩) stT (fun t => ((t.part 1).seg, t.cl.dtlb)) = some (⟨0x40000000, 0x40000000, 0, 0⟩, []) := by decide +kernel
theorem witness_Partitions_scrub : ((setT Ctx.reset 0 id).cell 0).ctxs.all (fun x => x.2.st == .free) = true
    ∧ seen (.evScrub [0, 1535] 2 2) (setT Ctx.reset 0 id) (fun t => ((t.cell 0).istore, (t.cell 0).dtlb, (t.cell 0).tag, t.scrubSeq, t.tokens.map fun k => (k.part, k.cells, k.seq))) = some ([], [], 1, 1, [(2, [0, 1535], 1)])
    ∧ isRun (.evScrub [1536] 2 2) stT stT = true ∧ isRun (.evScrub [0] 2 0) stT stT = true
    ∧ seen (.evBankScrub 1000) coresT (fun t => (mget 0 t.av 1000, t.dir, mget 0 t.av 3)) = some (0, [], 6) := by decide +kernel
theorem witness_Partitions_create : stT.hostUp = true ∧ stT.cfgOk 2 cfgT = true ∧ cfgT.table.all (fun e => !entEvict e) = true
    ∧ seen (.evPartitionCreate 2 cfgT) stT (fun t => ((t.part 2).st, (t.part 2).table, (t.part 2).threshold, (t.cell 4).chans.length)) = some (.running, cfgT.table, 4, 0)
    ∧ seen (.evPartitionDestroy 1) coresT (fun t => ((t.part 1).st, mget 0 t.keys 1, t.harts.map fun h => h.2.part, t.vfs.map fun f => f.2.part)) = some (.absent, 1, [none], [none]) := by decide +kernel
theorem witness_Partitions_kill : mget 0 coresT.av 1000 = 2 ∧ seen (.evTagParityError ⟨1000, 3⟩) coresT (fun t => ((t.part 1).st, t.harts.map fun h => h.2.stopped)) = some (.failed, [true])
    ∧ seen (.evTagParityError ⟨7, 3⟩) coresT (fun t => ((t.part 1).st, t.cells.length)) = some (.running, 1) := by decide +kernel
/-- Bank 3 holds lines of partitions 1 and 2 (R391's own case); partition 3 has a cell too. -/
def threeT : State := let s := coresT
  ((s.setPart 2 { partT with table := [0x40000006] }).setPart 3 { partT with table := [0x40000005] } |>.setCell 6 { cellT with tag := 2 }).setCell 5 { cellT with tag := 3 }
theorem witness_Partitions_both : ((List.range 24).filter fun p => (mget 0 threeT.av 3).getLsbD p) = [1, 2]
    ∧ seen (.evTagParityError ⟨3, 3⟩) threeT (fun t => [1, 2, 3].map fun p => ((t.part p).st, (t.part p).table)) = some [(.failed, [0, 0]), (.failed, [0]), (.running, [0x40000005])]
    ∧ seen (.evTagParityError ⟨3, 3⟩) threeT (fun t => [0, 6, 5].map fun c => ((t.cell c).tag, (t.cell c).ctxs.length, (t.cell c).dtlb.length)) = some [(31, 0, 0), (31, 0, 0), (3, 1, 1)]
    ∧ seen (.evTagParityError ⟨3, 3⟩) threeT (fun t => (mget 0 t.av 3, mget 0 t.keys 1, mget 0 t.keys 2, mget 0 t.keys 3, t.harts.map fun h => h.2.stopped)) = some (0, 1, 1, 0, [true]) := by decide +kernel
/-- Partition 2 shares cell 0 with partition 1: it starts with an image that holds its kchan. -/
def shareT : PartCfg := { cfgT with table := [0x60000000, 0x80030001], kchans := [5] }
theorem witness_Partitions_share : stT.cfgOk 2 shareT = true
    ∧ seen (.evPartitionCreate 2 shareT) stT (fun t => t.sets.map fun e => (e.2.cells, e.2.order.map fun o => o.1, (mget [] e.2.images 2).map fun i => (i.1, i.2.kchan))) = some [([0], [1, 2], [(0, 5)])] := by
  decide +kernel

/-- Line 0x81 of memory holds 7 at its first byte; the directory has d for it, and agent 9 has sent a request for it. -/
def dirT (d : DirE) : State := { mem stT 0x2040 [7] with dir := [(0x81, d)], asks := [⟨0x81, 9, .shared, 0, false⟩] }
def dirAfter (i : Instr) (d : DirE) : Option (Option (Nat × OwnSt) × List Nat × Byte) := seen i (dirT d) fun t => ((t.dirOf 0x81).owner.map fun o => (o.1, o.2.1), (t.dirOf 0x81).sharers, t.latest 0x2040)
theorem witness_HomeDirectory : lineOk 0x2000000 = true ∧ lineOk 0x1FFFFFFFF = true ∧ lineOk 0x200000000 = false ∧ ownAgent 127 = true ∧ ownAgent 128 = false ∧ ownAgent 137 = true
    ∧ dirAfter (.evReadShared 5 ⟨0x81, 0, true⟩) DirE.reset = some (some (5, .e), [], 7) ∧ (seen (.evReadShared 130 ⟨0x81, 0, true⟩) (mem stT 0x2040 [7]) fun t => ((t.dirOf 0x81).owner.map fun o => (o.1, o.2.1), (t.dirOf 0x81).sharers, t.latest 0x2040)) = some (none, [130], 7)
    ∧ dirAfter (.evReadShared 5 ⟨0x81, 0, true⟩) ⟨some (9, .m, 8), []⟩ = some (some (9, .o), [5], 8) ∧ dirAfter (.evReadShared 5 ⟨0x81, 0, true⟩) ⟨some (9, .e, 7), []⟩ = some (none, [5, 9], 7)
    ∧ dirAfter (.evReadShared 5 ⟨0x81, 0, true⟩) ⟨some (9, .o, 8), [4]⟩ = some (some (9, .o), [5, 4], 8)
    ∧ dirAfter (.evReadOwn 5 ⟨0x81, 0, true⟩ none) ⟨some (9, .m, 8), [4]⟩ = some (some (5, .e), [], 8)
    ∧ seen (.evUpgrade 5 ⟨0x81, 0, 1, [3], true⟩) (dirT ⟨none, [9, 5, 4]⟩) (fun t => ((t.dirOf 0x81).owner.map fun o => (o.1, o.2.1), (t.dirOf 0x81).sharers, t.latest 0x2040, t.latest 0x2041)) = some (some (5, .m), [], 7, 3) := by decide +kernel
theorem witness_HomeDirectory_ends : dirAfter (.evWriteback 9 0x81) ⟨some (9, .o, 8), [4]⟩ = some (none, [4], 8) ∧ dirAfter (.evCleanEvict 9 0x81) ⟨some (9, .e, 7), []⟩ = some (none, [], 7)
    ∧ dirAfter (.evCleanEvict 4 0x81) ⟨some (9, .o, 8), [4]⟩ = some (some (9, .o), [], 8) ∧ dirAfter (.evStrongStoreOrAtomic ⟨0x81, 0⟩ 0 [3]) ⟨some (9, .m, 8), [4]⟩ = some (none, [], 3)
    ∧ (dirT ⟨some (9, .m, 8), [4]⟩).slotPages 0x81 = []
    ∧ seen (.evDirectoryEccError 0x81) (dirT ⟨some (9, .m, 8), [4]⟩) (fun t => ((t.dirOf 0x81), t.poisoned 0x81, t.hypEvents, t.memByte 0x2040)) = some (⟨none, []⟩, true, [.directory 0x81], 7)
    ∧ seen (.evUncorrectableError (.line 0x81)) (dirT ⟨none, []⟩) (fun t => (t.poisoned 0x81, t.uncorrected)) = some (true, 1)
    ∧ seen (.evUncorrectableError (.granule 1535 6143)) stT (fun t => (mget false (t.cell 1535).cpoison 6143, t.uncorrected)) = some (true, 1)
    ∧ (match exec (.evReadShared 5 ⟨0x200000000, 0, true⟩) stT with | .fault f => f == .noMemory 0x200000000 | _ => false) = true := by decide +kernel

theorem witness_ModuleAndPower : seen (.evModuleReset true false true true 0) coresT (fun t => (t.cells, t.parts.length, t.harts.length, t.bstat, t.hostUp, mget 0 t.keys 1)) = some ([], 0, 0, 1, true, 1)
    ∧ seen (.evModuleReset true false false true 0) coresT (fun t => (t.bstat, t.hostUp)) = some (0xE1, false) ∧ seen (.evModuleReset true false true false 0) coresT (fun t => (t.bstat, t.hostUp)) = some (0xE3, false)
    ∧ seen (.evPlimWrite 599) stT (fun t => t.plim) = some 600 ∧ seen (.evPlimWrite 2401) stT (fun t => t.plim) = some 2400 ∧ seen .evClockStep stT (fun t => t.freq) = some 32
    ∧ seen .evClockStep { stT with freq := 10 } (fun t => t.freq) = some 10 := by decide +kernel
def poweredT : State := onCell fun k => { k with store := [(0x7FFF, 1), (0x8000, 2)], landed := [(511, true), (512, true)], cpoison := [(511, true)] }
theorem witness_ModuleAndPower_banks : seen (.evPgateWrite 0 1) poweredT (fun t => (t.cl.pgate, mget 0 t.cl.store 0x7FFF, mget 0 t.cl.store 0x8000, mget false t.cl.landed 511, mget false t.cl.landed 512)) = some (1, 0, 2, false, true)
    ∧ seen (.evPgateWrite 1535 0x8FF) stT (fun t => (t.cell 1535).pgate) = some 0x8FF ∧ seen (.evBankWake 0 11) (onCell fun k => { k with pgate := 0xFFF }) (fun t => t.cl.pgate) = some 0x7FF := by decide +kernel
def cxlT : State := { stT with portCxl := [(1, true)], lds := [(30, 4), (2, 3)] }
theorem witness_ModuleAndPower_ports : mget false cxlT.portCxl 1 = true ∧ cxlT.lds.all (fun e => !(e.1 / 16 == 1 && e.1 != 31 && e.2 == 3)) = true ∧ seen (.evLdBind 1 15 3) cxlT (fun t => mfind t.lds 31) = some (some 3)
    ∧ seen (.evLdBind 1 14 24) cxlT (fun t => mfind t.lds 30) = some none ∧ isRun (.evLdBind 1 15 4) cxlT cxlT = true
    ∧ stT.trained = true ∧ isRun (.evConfigurationRequest 1 .readBstat) stT (stT.emit (.bstat 1 1)) = true ∧ isRun (.evConfigurationRequest 1 (.other (some 3))) stT (stT.emit (.unsupported 1)) = true
    ∧ isRun (.evConfigurationRequest 0 (.other none)) { stT with bstat := 0xE1 } ({ stT with bstat := 0xE1 }.emit (.unsupported 0)) = true
    ∧ { stT with bootStep := 1, bstat := 0 }.trained = false ∧ isRun (.evConfigurationRequest 0 .readBstat) { stT with bootStep := 1, bstat := 0 } { stT with bootStep := 1, bstat := 0 } = true := by decide +kernel
/-- An agent that another's request invalidates while a request of its own waits answers Conflict; the home then performs its request before anything else
(R388). A request reaches the home as it was sent. -/
theorem witness_HomeDirectory_order : isRun (.evReadOwn 9 ⟨0x81, 0, true⟩ none) (dirT ⟨none, [5]⟩) (dirT ⟨none, [5]⟩) = true
    ∧ seen (.evUpgrade 5 ⟨0x81, 0, 1, [3], true⟩) (dirT ⟨none, [9, 5]⟩) (fun t => t.asks) = some [⟨0x81, 9, .shared, 0, true⟩]
    ∧ seen (.evUpgrade 5 ⟨0x81, 0, 1, [3], true⟩) (dirT ⟨none, [9, 5]⟩) (fun t => (t.serveHeld.asks, (t.serveHeld.dirOf 0x81).sharers, (t.serveHeld.dirOf 0x81).owner.map fun o => o.1)) = some ([], [9], some 5)
    ∧ seen (.evReadOwn 7 ⟨0x81, 0, false⟩ none) (dirT ⟨none, []⟩) (fun t => t.asks.getLast?) = some (some ⟨0x81, 7, .own none, 0, false⟩)
    ∧ isRun (.evReadShared 9 ⟨0x81, 0, false⟩) (dirT ⟨none, []⟩) (dirT ⟨none, []⟩) = true
    ∧ seen (.evDirectoryEccError 0x81) (dirT ⟨some (9, .m, 8), [4]⟩) (fun t => t.asks) = some [⟨0x81, 9, .shared, 0, true⟩]
    ∧ seen (.evReadShared 0 ⟨0x81, 5, true⟩) (hartT .u (mem stT 0x2040 [7])) (fun t => mget 0 t.av 5) = some 2
    ∧ stT.agentOk 136 0x81 = false ∧ isRun (.evReadShared 136 ⟨0x81, 0, true⟩) stT stT = true := by decide +kernel
/-- What a read of BAR0 answers: the identity page, PLIM, a VF of the other port. -/
theorem witness_ModuleAndPower_bar0 : stT.fnUp (.pf 1) = true ∧ isRun (.evConfigurationRequest 1 (.readBar0 (.pf 1) 0xB10)) stT (stT.emit (.bar0 (.pf 1) 0xB10 (BitVec.ofNat 64 stT.plim))) = true
    ∧ isRun (.evConfigurationRequest 1 (.readBar0 (.vf 3) 0)) stT (stT.emit (.unsupported 1)) = true
    ∧ isRun (.evConfigurationRequest 1 (.readBar0 (.pf 1) 0xB08)) { stT with bstat := 0xE1 } ({ stT with bstat := 0xE1 }.emit (.bstat 1 0xE1)) = true
    ∧ isRun (.evPlimWrite 700) { stT with bootStep := 3 } { stT with bootStep := 3 } = true
    ∧ seen (.evModuleReset true false true true 0) coresT (fun t => (t.identity.map fun p => p.log.length, mget false t.portCxl 0, mget false t.portCxl 1)) = some (some 4, true, false) := by decide +kernel

/-- Virtual function 5 of partition 1, with a request of queue 0 to fetch under PASID 7. -/
def hostT (s : State) : State := { mapT s with vfs := [(5, { Fn.reset with
  part := some 1, seg := partT.seg, queues := [(0, ⟨0x8000, 4, 0x9000, 65535, 2, 31, 0, none⟩)], pasids := [(63, 0x8000000000000007)], remaps := [(15, ⟨0x77, 9, true, true⟩)] })] }
def reqT (op pasid addr hnd val : Nat) : BitVec 512 := BitVec.ofNat 512 (leNat (leBytes 2 op ++ leBytes 2 0x1234 ++ leBytes 4 pasid ++ leBytes 8 addr ++ leBytes 8 hnd ++ leBytes 8 val))
/-- QHEAD after the request, and the status and result of its completion. -/
def doneT (o : Option State) : Option (Nat × List (Word × Nat × Nat)) := o.map fun t => (((t.fn (.vf 5)).queue 0).qhead, t.hostOut.filterMap fun e => match e with
  | .write a b => some (a, bnat b 2 1, bnat b 8 8)
  | _ => none)
theorem witness_HostRequests : (hostT stT).fetchable (.vf 5) 0 = true ∧ rqBad (.vf 5) (vecBytes (reqT 5 7 0 0 0)) = true ∧ rqBad (.vf 5) (vecBytes (reqT 4 7 0 0 0)) = false ∧ ((hostT stT).fn (.vf 5)).hasPasid 7 = true
    ∧ doneT (nx (exec (.evMalformedRequest (.vf 5) 0 (reqT 5 7 0 0 0)) (hostT stT))) = some (0, [(0x90F0, 1, 0)])
    ∧ doneT (nx (exec (.evRequestPoll (.vf 5) 0 (reqT 4 8 0 0 0)) (hostT stT))) = some (0, [(0x90F0, 2, 0)]) ∧ doneT (nx (exec (.evRequestPoll (.vf 5) 0 (reqT 4 7 0x100048 0 0)) (hostT stT))) = some (0, [(0x90F0, 3, 0)])
    ∧ ((hostT stT).hostLoc (.vf 5) .readWrite 0x100040).2 = some ⟨0x100040, .interleave⟩ ∧ ((hostT stT).hostLoc (.vf 5) .readWrite 0x100040).1.slotPages 0x4001 = []
    ∧ doneT (nx (exec (.evRequestPoll (.vf 5) 0 (reqT 4 7 0x100040 0 0)) (mem (hostT stT) 0x100040 (leBytes 8 0x12345678)))) = some (0, [(0x90F0, 0, 0x12345678)])
    ∧ doneT (nx (exec (.evRequestLaunch (.vf 5) 0 (reqT 1 7 0x100044 0 0)) (hostT stT))) = some (0, [(0x90F0, 20, 0)]) := by decide +kernel
def parcelT : State := mem (hostT stT) 0x100080 (leBytes 4 0x40050001)
theorem witness_HostRequests_parcel : parcelT.refusesFrom 1 0x40050001 = none ∧ seen (.evRequestParcel (.vf 5) 0 (reqT 2 7 0x100080 0 0)) parcelT
    (fun t => (t.flights.map fun f => (hDest (parcelHdr f.parcel), hSrc (parcelHdr f.parcel), some f.id == ((t.fn (.vf 5)).queue 0).busy), ((t.fn (.vf 5)).queue 0).qhead)) = some ([(1, 0xF805, true)], 65535) := by decide +kernel
/-- A future at 0x100040 in state st, generation 2, in slot 3 of die 0, when live. -/
def resolveT (st : Nat) (live : Bool) : State := { mem (hostT stT) 0x100040 (leBytes 8 (0x30008 + st) ++ leBytes 8 5) with futs := if live then [(0, [(3, ⟨1, 0x100040, .future 0x100040 contW none none none none⟩)])] else [] }
theorem witness_HostRequests_resolve : (resolveT 0 true).liveSlot 1 ⟨⟨0x100040, .interleave⟩, 0x100040, 0x30008, 5⟩ = some ⟨1, 0x100040, .future 0x100040 contW none none none none⟩
    ∧ doneT (nx (exec (.evRequestResolve (.vf 5) 0 (reqT 3 7 0x100040 4 77)) (resolveT 0 true))) = some (0, [(0x90F0, 4, 0)]) ∧ doneT (nx (exec (.evRequestResolve (.vf 5) 0 (reqT 3 7 0x100040 8 77)) (resolveT 0 false))) = some (0, [(0x90F0, 5, 0)]) ∧ doneT (nx (exec (.evRequestResolve (.vf 5) 0 (reqT 3 7 0x100040 8 77)) (resolveT 2 true))) = some (0, [(0x90F0, 5, 0)]) ∧ doneT (nx (exec (.evRequestResolve (.vf 5) 0 (reqT 3 7 0x100040 8 77)) (resolveT 3 true))) = some (0, [(0x90F0, 3, 0)])
    ∧ doneT (nx (exec (.evRequestResolve (.vf 5) 0 (reqT 3 7 0x100040 8 77)) (resolveT 1 true))) = some (0, [(0x90F0, 0, 0)])
    ∧ seen (.evRequestResolve (.vf 5) 0 (reqT 3 7 0x100040 8 77)) (resolveT 1 true) (fun t => bytesAt t 0x100040 16) = some (leBytes 8 0x3000A ++ leBytes 8 77) := by decide +kernel
def pfT : State := { stT with pfs := [(1, { Fn.reset with queues := [(7, ⟨0x8000, 16, 0x9000, 0, 1, 31, 0, none⟩)] })] }
theorem witness_HostRequests_registers : pfT.fetchable (.pf 1) 7 = true ∧ rqBad (.pf 1) (vecBytes (reqT 5 0 0x5000 0 0)) = false
    ∧ seen (.evNotifyWrite (.vf 5) 0 15) (hostT stT) (fun t => (((t.fn (.vf 5)).queue 0).tail, ((t.fn (.vf 5)).queue 0).badn)) = some (15, 0) ∧ seen (.evNotifyWrite (.vf 5) 0 16) (hostT stT) (fun t => (((t.fn (.vf 5)).queue 0).tail, ((t.fn (.vf 5)).queue 0).badn)) = some (2, 1)
    ∧ seen (.evMsixUnmask (.vf 5) 15) (hostT stT) (fun t => (((t.fn (.vf 5)).remap 15).mask, ((t.fn (.vf 5)).remap 15).pend, t.hostOut)) = some (false, false, [.message 0x77 9])
    ∧ seen (.evPasidRevoke (.vf 5) 63) (hostT stT) (fun t => mget 0 (t.fn (.vf 5)).pasids 63) = some 7
    ∧ seen (.evRegisterWrite (.hartCsr 127 0x800) 1) stT (fun t => (t.hart 127).enxmode) = some true ∧ seen (.evRegisterWrite (.hartCsr 127 0x5C1) 1) stT (fun t => (t.hart 127).capen) = some true
    ∧ seen (.evRegisterWrite (.hartCsr 0 0x5C1) 1) (hartT .u stT) (fun t => ((t.hart 0).capen, (t.hart 0).mode, (t.hart 0).sregs.cause, (t.hart 0).sregs.epc)) = some (false, .s, 2, 0x400)
    ∧ seen (.evRegisterWrite (.queue (.pf 1) 7 0) 0x1003F) pfT (fun t => ((t.fn (.pf 1)).queue 7).qbase) = some 0x10000 := by decide +kernel
theorem witness_HostRequests_resync : (pfT.fetchable (.pf 1) 7 && !rqBad (.pf 1) (vecBytes (reqT 5 0 0x5000 0 0)) && rqOp (vecBytes (reqT 5 0 0x5000 0 0)) == 5) = true := by decide +kernel
theorem witness_HostRequests_window : 0x3FFFFFFF < ((hostT stT).fn (.vf 5)).seg.hsize ∧ inMemory 0x3FFFFFFF = true ∧ seen (.evBar2Access (.vf 5) 0x3FFFFFFF (.read 1)) (mem (hostT stT) 0x3FFFFFFF [7]) (fun t => t.hostOut) = some [.readData (.vf 5) [7] false]
    ∧ seen (.evBar2Access (.vf 5) 0x3FFFFFFF (.write [6])) (hostT stT) (fun t => t.latest 0x3FFFFFFF) = some 6 ∧ (hostT stT).slotPages (0x3FFFFFFF / 64) = [] := by decide +kernel

/-- Partition 1 owns job 7 and a send ring of 2 descriptors at 0x100400, with HEAD h and TAIL 1; its header stands at 0x100100. -/
def ueT (h q : Nat) : State :=
  let s := mem (mem (mem (mapT stT) 0x100100 (leBytes 8 0x100400 ++ leBytes 8 (1 + q) ++ leBytes 4 h ++ leBytes 4 1)) 0x100400 (leBytes 8 0x100200 ++ leBytes 4 3 ++ leBytes 4 7 ++ leBytes 8 9)) 0x100200 [1, 2, 3]
  s.setPart 1 { s.part 1 with ring := some 0x100100, jobs := [7] }
theorem witness_NetworkEndpoint : isRun (.evUeMessageReceive 1 7 [4]) (ueT 0 0) { ueT 0 0 with ueInbox := [(1, 7, [4])] } = true ∧ isRun (.evUeMessageReceive 1 8 [4]) (ueT 0 0) { ueT 0 0 with ueDropped := 1 } = true
    ∧ isRun (.evUeDescriptorTake 1) stT stT = true ∧ ((ueT 0 0).devRead 1 false 0x100100 64).2.map (fun r => (ringHeaderOk r.1, r.2)) = some (true, false)
    ∧ seen (.evUeDescriptorTake 1) (ueT 0 256) (fun t => (t.hypEvents, t.ueSent)) = some ([.sendRing 1], []) ∧ seen (.evUeDescriptorTake 1) (ueT 1 0) (fun t => (t.ueSent, t.hypEvents, t.latestNat 0x100110 4)) = some ([], [], 1)
    ∧ ((ueT 0 0).devRead 1 false 0x100400 64).2.map (fun r => (descOk ((ueT 0 0).part 1) r.1, deReply r.1, r.2)) = some (true, false, false)
    ∧ seen (.evUeDescriptorTake 1) (ueT 0 0) (fun t => (t.ueSent, t.latestNat 0x100110 4)) = some ([⟨1, 0, 7, 9, [1, 2, 3], none⟩], 1) := by decide +kernel
def replyT (gen : Nat) (live : Bool) : State := { mem (mapT stT) 0x2040 (leBytes 8 (0x30001 + 4 * gen) ++ leBytes 8 5) with
  futs := if live then [(0, [(3, ⟨1, 0x2040, .future 0x100040 contW none none (some (0x100300, 2)) none⟩)])] else [] }
theorem witness_NetworkEndpoint_reply : (replyT 2 true).slot 0 3 = some ⟨1, 0x2040, .future 0x100040 contW none none (some (0x100300, 2)) none⟩ ∧ (replyT 2 true).slotPages 0x81 = []
    ∧ ((replyT 2 true).devWrite 1 false 0x100300 ([7, 8, 9].take 2)).2 = true
    ∧ seen (.evUeTaggedReply 1 0x30008 [7, 8, 9]) (replyT 2 true) (fun t => (bytesAt t 0x2040 16, bytesAt t 0x100300 3, t.flights.map fun f => f.parcel))
      = some (leBytes 8 0x3000A ++ leBytes 8 0x100300, [7, 8, 0], waiterSends 1 0x100040 0x3000A 0x100300 0 contW)
    ∧ seen (.evUeTaggedReply 1 0x30008 [7]) (replyT 3 true) (fun t => (t.part 1).netdrop) = some 1 ∧ seen (.evUeTaggedReply 1 0x30008 [7]) (replyT 2 false) (fun t => (t.part 1).netdrop) = some 1 := by decide +kernel

/-- X of context 0 is to move, and its line b stands in the instruction store; the state in which it holds it. -/
def turnS (b : BitVec 256) : State := { onCell fun k => { k with istore := [⟨1, 8, true, b⟩] } with agenda := [.engine 0 0 .x] }
def turnV (b : BitVec 256) : State := turnOf (turnS b) [] ⟨0, 0, 0⟩
def turnU (b : BitVec 256) : State := let v := turnV b; v.setCtx 0 0 ((v.ctx 0 0).setEng .x { (v.ctx 0 0).ex with line := some (8, b) })
def fetchesT (b : BitVec 256) : Bool := (((turnV b).fetchLine 0 false 9).toOption.map fun r => (r.1 == b, r.2 == turnV b)) == some (true, true)
/-- A line of cmpi, of the privileged cinv, of a reserved major, and one whose header is bad. -/
def addL : BitVec 256 := oneLine .x 0x26ADB53A
def cinvL : BitVec 256 := oneLine .x ((encode (.xCinvL1 0)).headD 0)
def noneL : BitVec 256 := oneLine .x 0xFC000000
theorem witness_StepRunsDecoded : (turnV addL).agenda = [] ∧ ((turnV addL).ctx 0 0).moves .x = true ∧ ((turnV addL).ctx 0 0).taken = none ∧ ((turnV addL).ctx 0 0).ex.line = none ∧ fetchesT addL = true ∧ headerOk addL = true
    ∧ isJoin addL = false ∧ firstLane addL .x 1 = some 1 ∧ (decodeEng .x (laneWord addL 1) (extWord addL .x 1) == some (.xCmpi .geu 21 13 0x153 10)) = true
    ∧ ((nx (step (turnS addL))).isSome && nx (step (turnS addL)) == nx (exec (.xCmpi .geu 21 13 0x153 10) (atLane (turnU addL) 0 0 .x 1))) = true := by decide +kernel
theorem witness_StepRunsDecoded_traps : fetchesT cinvL = true ∧ firstLane cinvL .x 1 = some 1 ∧ privilegedX (laneWord cinvL 1) = true ∧ ((turnU cinvL).ctx 0 0).kmode = false
    ∧ (nx (step (turnS cinvL)) == some ((atLane (turnU cinvL) 0 0 .x 1).raise 0 0 .x ⟨4, 6, 0xFF, 0, 0, 0⟩ 0 0)) = true
    ∧ fetchesT noneL = true ∧ firstLane noneL .x 1 = some 1 ∧ (decodeEng .x (laneWord noneL 1) (extWord noneL .x 1)).isNone = true ∧ privilegedX (laneWord noneL 1) = false
    ∧ (nx (step (turnS noneL)) == some ((atLane (turnU noneL) 0 0 .x 1).raise 0 0 .x ⟨1, 6, 0xFF, 0, 0, 0⟩ 0 0)) = true
    ∧ fetchesT 4 = true ∧ headerOk 4 = false ∧ (nx (step (turnS 4)) == some ((turnV 4).raise 0 0 .x ⟨2, 6, 0xFF, 0, 0, 0⟩ 0 0)) = true := by decide +kernel
def missS : State := { missT 9 with agenda := [.engine 0 0 .x] }
theorem witness_StepRunsDecoded_fetch : ((turnOf missS [] ⟨0, 0, 0⟩).fetchLine 0 false 9).toOption.isNone = true ∧ ((nx (step missS)).map fun t => ((t.ctx 0 0).ex.st, (t.ctx 0 0).ex.code)) = some (.faulted, 0x10) := by decide +kernel
/-- Hart 0 is to move, and the word at its program counter is w. -/
def turnH (w : Nat) : State := let s := hartT .u (mem stT 0x2040 (leBytes 4 w)); { s.setHx { s.hx with pc := 0x2040 } with agenda := [.hart 0] }
theorem witness_StepRunsDecoded_hart : (turnOf (turnH 0x0005850B) [] ⟨0, 0, 0⟩).hx.moves = true ∧ ((turnOf (turnH 0x0005850B) [] ⟨0, 0, 0⟩).hartFetch.toOption.map fun r => r.1) = some 0x0005850B ∧ customWord 0x0005850B = true
    ∧ (rawH 0x0005850B == some (.enxSend 10 11)) = true ∧ (rawH 0xFFFFFF8B).isNone = true
    ∧ ((nx (step (turnH 0x0005850B))).isSome && nx (step (turnH 0x0005850B)) == ((turnOf (turnH 0x0005850B) [] ⟨0, 0, 0⟩).hartFetch.toOption.bind fun r => nx (exec (.enxSend 10 11) r.2))) = true := by decide +kernel
theorem witness_StepRunsDecoded_device : (Instr.evPlimWrite 599).who = .device ∧ ((nx (step { stT with agenda := [.event (.evPlimWrite 599)] })).map fun t => (t.plim, t.now)) = some (600, 1)
    ∧ ((nx (step { stT with agenda := [.clock 33] })).map fun t => (t.cycle, t.time, (t.ctx 0 0).wdcnt)) = some (33, 10, 33) := by decide +kernel
theorem witness_StepKeepsMemoryForm : Memory.wf (mem stT 0x2040 [7]).mem ∧ (nx (step { mem stT 0x2040 [7] with agenda := [.clock 33] })).isSome = true := by decide +kernel
theorem witness_EngineWordsRoundTrip_HartWordsRoundTrip : (Instr.xCmpi .geu 21 13 0x153 10).wf = true ∧ (Instr.xCmpi .geu 21 13 0x153 10).who = .eng .x ∧ (Instr.aLim 10 0x89ABCDEF 2).wf = true ∧ (Instr.aLim 10 0x89ABCDEF 2).who = .eng .a
    ∧ Instr.mGo.wf = true ∧ Instr.mGo.who = .eng .m ∧ (Instr.enxSend 10 11).wf = true ∧ (Instr.enxSend 10 11).who = .hart := by decide
theorem test_decode_enx : (decodeEng .x 0x06ADC80A (some 0)).isNone = true ∧ (rawH 0x68C5950B == some (.enxFres 10 11 12 13)) = true ∧ (rawH 0x0005850B == some (.enxSend 10 11)) = true := by decide +kernel

theorem witness_VectorSelect : noLoop stT.cx .x ∧ (stT.cx.guard 1).getLsbD 0 = false ∧ (stT.cx.guard 3).getLsbD 0 = true
    ∧ seen (.xVsel .f32 5 1 2 1) stT (fun t => t.cx.vr 5 == stT.cx.vr 1) = some true ∧ seen (.xVsel .f32 5 3 2 1) stT (fun t => t.cx.vr 5 == stT.cx.vr 2) = some true
    ∧ seen (.xVsel .i8 5 0 2 1) stT (fun t => t.cx.vr 5 == stT.cx.vr 2) = some true := by decide +kernel
def tlT (w : Word) : State := let s := hartT .u (stT.setCtx 0 3 { Ctx.reset with done := [(2, 9)] }); s.setHx { s.hx with x := [(11, w)] }
theorem witness_HartTimelineRead : (tlT 0).hx.moves = true ∧ ((tlT 0).part (tlT 0).hx.pid).resolve 2 = none ∧ ((tlT 0).part (tlT 0).hx.pid).resolve 0 = some 0x40000000
    ∧ seen (.enxTlread 10 11) (tlT 0xFFFFFFFFFFFB0000) (fun t => (t.hx.xr 10, t.hx.pc)) = some (9, 0x404) ∧ seen (.enxTlread 10 11) (tlT 0xB0002) (fun t => t.hx.xr 10) = some (BitVec.allOnes 64) := by decide +kernel
def awayH : State := let s := { tlT 0xB0001 with sets := [(0, { SliceSet.reset with images := [(1, [(1, { Image.fresh 1 0 with dones := [(3, [(2, 8)])] })])] })] }
  s.setPart 1 { partT with table := [0x40000000, 0x60000001] }
theorem witness_HartTimelineRead_away : (awayH.imageOf 1 1).isSome = true ∧ seen (.enxTlread 10 11) awayH (fun t => t.hx.xr 10) = some 8 := by decide +kernel

/-- X of context 0 stopped by a trap with code 4, its record not yet delivered. -/
def stopT (s : State) : State := let x := s.ctx 0 0
  s.setCtx 0 0 ({ x with st := .suspended }.setEng .x { x.eng .x with st := .faulted, code := 4, joining := false, waited := none, two := match (x.eng .x).line with
    | some l => l.1 == lineSlot (x.eng .x).pc && twoAt l.2 .x (x.eng .x).pc
    | none => false })
/-- The fault buffer of ringT with HEAD as tail, one whose ring lies where nothing is mapped, and one whose header does. -/
def evenT : State := mem (ringT 15) 0x100090 (leBytes 4 15)
def lostRingT : State := mem (ringT 15) 0x100080 (leBytes 8 0x80000000)
def lostHdrT : State := (ringT 15).setPart 1 { (ringT 15).part 1 with fbhdr := 0x80000000 }
def roomT (s : State) : Option (Bool × Option Nat) := let r := (stopT s).fbHeader 1
  r.2.map fun h => (decide ((h.tail + 2 ^ 32 - h.head) % 2 ^ 32 < 2 ^ h.logn) && decide (h.pa = 0x100080) && (r.1.slotPages (h.pa / 64)).isEmpty,
    match r.1.xlateDev 1 true .write (h.ring + BitVec.ofNat 64 (64 * (h.tail % 2 ^ h.logn))) with
    | .ok (l, z) => if (z.slotPages (l.pa / 64)).isEmpty && (z.slotPages (h.pa / 64)).isEmpty then some l.pa else none
    | .error (_, z) => if (z.slotPages (h.pa / 64)).isEmpty then some 0 else none)
def trapsT (s : State) : Nat × Nat × Nat × Bool × List (Nat × Nat) :=
  let t := s.raise 0 0 .x ⟨4, 6, 0xFF, 0, 0, 0⟩ 0 0
  (t.latestNat 0x100094 4, t.latestNat 0x100098 4, t.latestNat 0x1007C0 1, t.cx.ex.held.isSome && t.cx.ex.st == .faulted, t.flights.map fun f => (hChan (parcelHdr f.parcel), bnat (vecBytes f.parcel) 8 4))
theorem witness_TrapStopsEngine_buffer : (ringT 15).cx.kmode = false ∧ roomT (ringT 15) = some (true, some 0x1007C0) ∧ trapsT (ringT 15) = (16, 1, 4, false, [])
    ∧ roomT evenT = some (true, some 0x1007C0) ∧ (trapsT evenT).2.2.2 = (false, [(6, 16)]) := by decide +kernel
theorem witness_TrapStopsEngine_holds : (roomT (ringT 16)).map (fun r => r.1) = some false ∧ (trapsT (ringT 16)).1 = 16 ∧ (trapsT (ringT 16)).2.1 = 2 ∧ (trapsT (ringT 16)).2.2.2.1 = true
    ∧ roomT lostRingT = some (true, some 0) ∧ (trapsT lostRingT).2.1 = 2 ∧ (lostRingT.raise 0 0 .x ⟨4, 6, 0xFF, 0, 0, 0⟩ 0 0).hypEvents = [.ringFault 1]
    ∧ ((stopT lostHdrT).fbHeader 1).2 = none ∧ (trapsT lostHdrT).2.2.2 = (true, []) := by decide +kernel
/-- Port 1 is in CXL mode, and its logical device 15 is bound to partition 1. -/
def ldWinT : State := { mem (hostT stT) 0x3FFFFFFF [7] with portCxl := [(1, true)], lds := [(31, 1)] }
theorem witness_HostRequests_cxl : ldWinT.winOf (.cxlMem 1 15) = some (1, partT.seg) ∧ ldWinT.winOf (.cxlMem 0 15) = none ∧ isRun (.evBar2Access (.cxlMem 0 15) 0 (.read 1)) ldWinT ldWinT = true
    ∧ seen (.evBar2Access (.cxlMem 1 15) 0x3FFFFFFF (.read 1)) ldWinT (fun t => t.hostOut) = some [.readData (.cxlMem 1 15) [7] false] := by decide +kernel
/-- A tagged reply at device time t to a future with the deadline 9. -/
def lateReplyT (t : Nat) : State := { replyT 2 true with time := BitVec.ofNat 64 t, futs := [(0, [(3, ⟨1, 0x2040, .future 0x100040 contW (some 9) none (some (0x100300, 2)) none⟩)])] }
theorem witness_NetworkEndpoint_late : late (some 9) (lateReplyT 2000).time.toNat = true ∧ seen (.evUeTaggedReply 1 0x30008 [7]) (lateReplyT 2000) (fun t => ((t.part 1).netdrop, t.latestNat 0x2040 8 % 4)) = some (1, 1)
    ∧ late (some 9) (lateReplyT 8).time.toNat = false ∧ seen (.evUeTaggedReply 1 0x30008 [7]) (lateReplyT 8) (fun t => ((t.part 1).netdrop, t.latestNat 0x2040 8 % 4)) = some (0, 2) := by decide +kernel
theorem witness_StepRunsDecoded_late : ((turnOf { lateT 0x40011 with agenda := [.engine 0 0 .x] } [] ⟨0, 0, 0⟩).fetchLine 0 false 0x40011).toOption.map (fun r => (r.1, firstLane r.1 .x 1)) = some (lineT, some 1)
    ∧ ((nx (step { lateT 0x40011 with agenda := [.engine 0 0 .x] })).map fun t => ((t.ctx 0 0).ex.unchecked, (t.ctx 0 0).gr 31)) = some (none, 0x800000000000000C)
    ∧ ((nx (step { lateT 0x40012 with agenda := [.engine 0 0 .x] })).map fun t => ((t.ctx 0 0).ex.code, (t.ctx 0 0).ex.pc, (t.ctx 0 0).gr 31)) = some (3, 4, 6)
    ∧ stT.asks = [] ∧ stT.serveHeld == stT := by decide +kernel
/-- Hart 0 is to move, and fetches nothing it can; the base word addi x1, x0, 5. -/
def strayH : State := let s := hartT .u stT; { s.setHx { s.hx with pc := 0xFFFFFFFFFF0 } with agenda := [.hart 0] }
theorem witness_StepRunsDecoded_base : (turnOf strayH [] ⟨0, 0, 0⟩).hartFetch.toOption.isNone = true ∧ ((nx (step strayH)).map fun t => t.hx.sregs.cause) = some 1
    ∧ customWord 0x00500093 = false ∧ ((nx (step (turnH 0x00500093))).map fun t => (t.hx.xr 1, t.hx.pc)) = some (5, 0x2044) ∧ (rawH 0xFFFFFF8B).isNone = true
    ∧ customWord 0xFFFFFF8B = true ∧ ((nx (step (turnH 0xFFFFFF8B))).map fun t => (t.hx.sregs.cause, t.hx.sregs.tval)) = some (2, 0xFFFFFF8B) := by decide +kernel
/-- Context 0 has a watchdog of 40 cycles. -/
def barkT : State := { onCtx (fun x => { x with limit := 40 }) with agenda := [.clock 40] }
theorem witness_StepRunsDecoded_clock : barkT.cx.limit ≤ barkT.cx.wdcnt + 40 ∧ barkT.cx.st = .running ∧ ((nx (step barkT)).map fun t => decide ((t.ctx 0 0).st = .running)) = some false
    ∧ (nx (step { slotKT (some 9) none none 1 with agenda := [.clock 8000] })).map (fun t => t.latestNat 0x2040 8 % 4) = some 3 := by decide +kernel

/-- Tables of five levels below 0x4000, with leaves of 4 KiB and 2 MiB, one that writes without reading, and an empty entry. -/
def tablesT : State :=
  let s := stT.setPart 1 { partT with s1root := 0x4000 }
  [(0x4000, 0x5001), (0x5000, 0x6001), (0x6000, 0x7001), (0x7020, 0x8001), (0x8800, 0xA017), (0x7028, 0x0060000000600017), (0x7030, 0x15), (0x8808, 0xA005)].foldl (fun s e => mem s e.1 (leBytes 8 e.2)) s
/-- The state after a read that gives a result. -/
def readOf (x : XRes (Nat × Nat)) : State := x.toOption.elim stT (fun r => r.2)
theorem readOf_ok {x : XRes (Nat × Nat)} {r : Nat × Nat} (h : x.toOption.map (fun r => r.1) = some r) : x = .ok (r, readOf x) := by
  rcases x with w | ⟨r', u⟩
  · cases h
  · cases h; rfl
/-- The state after the read of an entry of the table at t. -/
def downT (s : State) (t va : Nat) (level : Nat) : State := readOf (s.readTable 1 partT.seg (t + 8 * tableIndex va level) level)
def d3T := downT tablesT 0x4000 0x900040 4
def d2T := downT d3T 0x5000 0x900040 3
def d1T := downT d2T 0x6000 0x900040 2
def d0T := downT d1T 0x7000 0x900040 1
theorem witness_DeviceTranslationAndFaults_walk : descends 1 partT.seg 0x900040 tablesT 0x4000 4 d0T 0x8000 0 :=
  .down _ _ _ 0x4000 0x5001 d3T _ _ _ (readOf_ok (by decide +kernel)) rfl rfl rfl (.down _ _ _ 0x5000 0x6001 d2T _ _ _ (readOf_ok (by decide +kernel)) rfl rfl rfl
    (.down _ _ _ 0x6000 0x7001 d1T _ _ _ (readOf_ok (by decide +kernel)) rfl rfl rfl (.down _ _ _ 0x7020 0x8001 d0T _ _ _ (readOf_ok (by decide +kernel)) rfl rfl rfl (.here ..))))
/-- What a walk gives: its place, page size and the two leaf entries after it, or the fault, its cause and its level. -/
def wT (need : Need) (va : Word) (k : Bool := false) : Nat × Nat × Nat × Nat :=
  match tablesT.translate 1 (some 0) k need false va with
  | .error (w, _) => (w.code, w.cause, w.level, 0)
  | .ok (.stopped, _) => (0xFF, 0, 0, 0)
  | .ok (.entry e _, z) => ((e.loc va).pa, e.size, z.latestNat 0x8800 8, z.latestNat 0x7028 8)
theorem witness_DeviceTranslationAndFaults_gives : wT .read 0x900040 = (0xA040, 4096, 0xA037, 0x60000000600017) ∧ wT .write 0x900040 = (0xA040, 4096, 0xA077, 0x60000000600017)
    ∧ wT .read 0xA12345 = (0x612345, 0x200000, 0xA017, 0x60000000600037) ∧ wT .fetch 0x900040 true = (0x11, 2, 0, 0) ∧ wT .read 0xC00000 = (0x11, 3, 1, 0)
    ∧ wT .read 0xE00000 = (0x10, 0, 1, 0) ∧ wT .read 0x901000 = (0x11, 3, 0, 0) ∧ wT .read 0x0100000000000000 = (0x11, 1, 4, 0) := by decide +kernel
/-- The area names the running cell and keeps g1 at byte 0x88. -/
theorem witness_ContextSaveRestore_saves : bnat (areaOf (areaT quietX).cl 1 0) 0 6 = 0x1010001 ∧ bnat (areaOf (areaT quietX).cl 1 0) 0x88 8 = 5 ∧ (areaAddrs areaPs).length = 0x4000 := by decide +kernel
theorem witness_HostRequests_wide : seen (.evBar2Access (.vf 5) 0x3FFFFFFE (.read 3)) (mem (hostT stT) 0x3FFFFFFF [7]) (fun t => t.hostOut) = some [.readData (.vf 5) [0, 7, 0] false]
    ∧ segOk ((hostT stT).fn (.vf 5)).seg = true ∧ isRun (.evBar2Access (.vf 5) 0x7FFFFFFF (.read 2)) (hostT stT) (hostT stT) = true
    ∧ windowPa partT.seg 0x40000000 = 0x20000000000 ∧ seen (.evBar2Access (.vf 5) 0x40000000 (.write [6, 7, 8])) (hostT stT) (fun t => t.latestNat 0x20000000000 4) = some 0x80706 := by decide +kernel
theorem witness_HostRequests_remap : seen (.evRegisterWrite (.remap (.vf 5) 15 1) 0x22) (hostT stT) (fun t => (((t.fn (.vf 5)).remap 15).mask, ((t.fn (.vf 5)).remap 15).pend, t.hostOut)) = some (false, false, [.message 0x77 0x22])
    ∧ seen (.evRegisterWrite (.remap (.vf 5) 15 1) 0x100000022) (hostT stT) (fun t => (((t.fn (.vf 5)).remap 15).mask, ((t.fn (.vf 5)).remap 15).pend, t.hostOut)) = some (true, true, [])
    ∧ (hostT stT).trained = true ∧ seen (.evConfigurationRequest 0 (.readBar0 (.vf 5) 0x8F8)) (hostT stT) (fun t => t.hostOut) = some [.bar0 (.vf 5) 0x8F8 0x300000009] := by decide +kernel
/-- One partition left in a set shares it with none: its yield leaves the set. -/
theorem witness_Services_yield_alone : seen (.evServiceYield 0) { askT (askB 6 0 0) with sets := [(0, { SliceSet.reset with order := [(1, 9)] })] } (fun t => t.sets.map fun e => e.2.yielded) = some [false] := by decide +kernel
/-- What a step of hart 0 on a word leaves in x10 and the pc. -/
def rvT (w : Nat) : Option (Word × Word) := (nx (step (turnH w))).map fun t => (t.hx.xr 10, t.hx.pc)
theorem test_rv_compressed : rvT 0x4515 = some (5, 0x2042) := by decide +kernel
theorem test_rv_zbb : rvT 0x40A57533 = some (0, 0x2044) := by decide +kernel
theorem test_rv_clz : rvT 0x60059513 = some (63, 0x2044) := by decide +kernel
/-- vsetivli x10, 31, e32, m1 with VLEN 256. -/
theorem test_rv_vset : rvT 0xC10FF557 = some (8, 0x2044) := by decide +kernel
end Sys2Proof.Tests
end

section
/-! What module reset leaves (R3, R410). -/

namespace Sys2Proof.Machine
open Sys2Proof

theorem reset_cell (c : Nat) : State.reset.cell c = Cell.reset := rfl
theorem reset_ctx (c k : Nat) : State.reset.ctx c k = Ctx.reset := rfl
theorem reset_part (p : Nat) : State.reset.part p = Part.reset := rfl
theorem reset_hart (n : Nat) : State.reset.hart n = Hart.reset := rfl
theorem reset_fn (f : HostFn) : State.reset.fn f = Fn.reset := by cases f <;> rfl
theorem Ctx.reset_eng (e : Eng) : Ctx.reset.eng e = EngC.reset := by cases e <;> rfl

/-- Both delegation registers of a hart name cause 24 at reset (R299). -/
theorem reset_delegates_24 :
    (mget 0 Hart.reset.csrs 0x302).getLsbD 24 = true ∧ (mget 0 Hart.reset.csrs 0x602).getLsbD 24 = true := by decide

end Sys2Proof.Machine

namespace Sys2Proof.Proofs
open Sys2Proof Sys2Proof.Machine

/-- Settles O42: every accessor reads its reset value, since no map of the reset state lists anything. -/
theorem resetState : Obligations.ResetState := by
  unfold Obligations.ResetState
  refine ⟨fun c => ?_, fun p => ?_, fun n => ?_, fun f q => ?_, rfl, rfl, rfl, rfl, rfl, rfl⟩
  · simp only [reset_cell, reset_ctx, Ctx.reset_eng]
    exact ⟨rfl, rfl, rfl, rfl, rfl, rfl, fun _ => ⟨rfl, fun _ => rfl⟩⟩
  · rw [reset_part]; exact ⟨rfl, rfl, rfl⟩
  · obtain ⟨hm, hs⟩ := reset_delegates_24
    rw [reset_hart]; exact ⟨rfl, rfl, rfl, hm, hs, fun _ => rfl⟩
  · rw [reset_fn]; exact ⟨⟨rfl, rfl⟩, rfl⟩

end Sys2Proof.Proofs
end

section
/-! What an access to memory can change: memory with its keys, directory, marks and reservations, the marks of allocation, and what the hosts'
caches hear of snoops (R387, R391, R402). -/

namespace Sys2Proof.Machine
open Sys2Proof Sys2Proof.Claims

/-- The state but for what an access to memory may change. -/
def State.rest (s : State) : State :=
  { s with mem := [], poison := [], dir := [], av := [], lineKeys := [], asks := [], resvs := [], free := 0, hostOut := [] }

/-- From s to t only memory and what belongs to it changed, and the hosts heard of nothing but snoops. -/
structure OnlyMemory (s t : State) : Prop where
  rest : t.rest = s.rest
  heard : ∃ m, onlySnoops m ∧ t.hostOut = s.hostOut ++ m

theorem onlySnoops_nil : onlySnoops [] := fun _ h => absurd h List.not_mem_nil
theorem onlySnoops_append {m n : List HostOut} (hm : onlySnoops m) (hn : onlySnoops n) : onlySnoops (m ++ n) :=
  fun o h => (List.mem_append.1 h).elim (hm o) (hn o)

namespace OnlyMemory

variable {s t u : State}

theorem silent (hr : t.rest = s.rest) (ho : t.hostOut = s.hostOut) : OnlyMemory s t := ⟨hr, [], onlySnoops_nil, by simp [ho]⟩
theorem refl (s : State) : OnlyMemory s s := silent rfl rfl

theorem trans (h : OnlyMemory s t) (g : OnlyMemory t u) : OnlyMemory s u := by
  obtain ⟨hr, m, hm, ho⟩ := h
  obtain ⟨gr, n, hn, go⟩ := g
  exact ⟨gr.trans hr, m ++ n, onlySnoops_append hm hn, by rw [go, ho, List.append_assoc]⟩

theorem vfs (h : OnlyMemory s t) : t.vfs = s.vfs := show t.rest.vfs = s.rest.vfs from congrArg State.vfs h.rest
theorem pfs (h : OnlyMemory s t) : t.pfs = s.pfs := show t.rest.pfs = s.rest.pfs from congrArg State.pfs h.rest
theorem parts (h : OnlyMemory s t) : t.parts = s.parts := show t.rest.parts = s.rest.parts from congrArg State.parts h.rest
theorem flights (h : OnlyMemory s t) : t.flights = s.flights := show t.rest.flights = s.rest.flights from congrArg State.flights h.rest
theorem harts (h : OnlyMemory s t) : t.harts = s.harts := show t.rest.harts = s.rest.harts from congrArg State.harts h.rest

/-- The slot pages of a line come from the partitions' stagers. -/
theorem slotPages (h : OnlyMemory s t) (line : Nat) : t.slotPages line = s.slotPages line := by
  unfold State.slotPages; rw [h.parts]
theorem stageAt (h : OnlyMemory s t) (pid pa : Nat) : t.stageAt pid pa = s.stageAt pid pa := by
  unfold State.stageAt State.part; rw [h.parts]

theorem of_fst {α : Type} {r : State × α} {a : α} (h : OnlyMemory s r.1) (e : r = (t, a)) : OnlyMemory s t := by
  rw [e] at h; exact h

/-- A fold of accesses is an access. -/
theorem foldl {β : Type} (f : State → β → State) (l : List β) (s : State) (hf : ∀ t b, OnlyMemory t (f t b)) : OnlyMemory s (l.foldl f s) :=
  foldl_keeps (fun t => OnlyMemory s t) f l s (refl s) fun t b ht => ht.trans (hf t b)

end OnlyMemory

/-! Homes (R387, R388, R391). -/

theorem State.snooped_onlyMemory (s : State) (line a : Nat) (o : Nat → HostOut) (ho : ∀ p, onlySnoops [o p]) : OnlyMemory s (s.snooped line a o) := by
  unfold State.snooped State.tellHost
  split
  · exact ⟨rfl, [o (a - 136)], ho _, rfl⟩
  · exact .silent rfl rfl

theorem onlySnoops_data (p n : Nat) : onlySnoops [.biSnpData p n] := fun _ h => .inl ⟨p, n, List.mem_singleton.1 h⟩
theorem onlySnoops_inv (p n : Nat) : onlySnoops [.biSnpInv p n] := fun _ h => .inr ⟨p, n, List.mem_singleton.1 h⟩

theorem State.setDir_onlyMemory (s : State) (line : Nat) (d : DirE) : OnlyMemory s (s.setDir line d) := .silent rfl rfl
theorem State.took_onlyMemory (s : State) : OnlyMemory s s.took := .silent rfl rfl

theorem State.tookMany_onlyMemory (s : State) (n : Nat) : OnlyMemory s (s.tookMany n) := .silent rfl rfl

theorem State.memPut_onlyMemory (s : State) (ws : List (Nat × Byte)) : OnlyMemory s (s.memPut ws) := by
  rw [s.memPut_eq ws]; exact .silent rfl rfl

theorem State.allocIn_onlyMemory (s : State) (b p : Nat) : OnlyMemory s (s.allocIn b p) := by
  unfold State.allocIn; split <;> exact .silent rfl rfl

theorem State.snoopRead_onlyMemory (s : State) (line : Nat) : OnlyMemory s (s.snoopRead line) := by
  unfold State.snoopRead
  split
  · exact (s.setDir_onlyMemory _ _).trans (State.snooped_onlyMemory _ _ _ _ fun p => onlySnoops_data p line)
  · exact .refl s

theorem State.tellInv_onlyMemory (s : State) (line : Nat) (but : Option Nat) : OnlyMemory s (s.tellInv line but) := by
  refine .foldl _ _ s fun t a => ?_
  split
  · exact .refl t
  · exact t.snooped_onlyMemory _ _ _ fun p => onlySnoops_inv p line

theorem State.collect_onlyMemory (s : State) (line : Nat) : OnlyMemory s (s.collect line) := by
  unfold State.collect; split
  · exact s.memPut_onlyMemory _
  · exact .refl s

theorem State.snoopWrite_onlyMemory (s : State) (line : Nat) : OnlyMemory s (s.snoopWrite line) :=
  ((s.tellInv_onlyMemory line none).trans (State.collect_onlyMemory _ line)).trans (State.setDir_onlyMemory _ _ _)

theorem State.lineWrite_onlyMemory (s : State) (line : Nat) (ws : List (Nat × Byte)) : OnlyMemory s (s.lineWrite line ws) := by
  have h := (s.snoopWrite_onlyMemory line).trans (State.memPut_onlyMemory _ ws)
  unfold State.lineWrite; dsimp only
  split <;> exact h.trans (.silent rfl rfl)

theorem State.spoilPages_onlyMemory (s : State) (ps : List Nat) : OnlyMemory s (s.spoilPages ps) :=
  .foldl _ ps s fun t _ => (t.memPut_onlyMemory _).trans (State.tookMany_onlyMemory _ _)

theorem State.homeWrite_onlyMemory (s : State) (line : Nat) (ws : List (Nat × Byte)) : OnlyMemory s (s.homeWrite line ws) :=
  (s.lineWrite_onlyMemory line ws).trans (State.spoilPages_onlyMemory _ _)

theorem State.homePut_onlyMemory (s : State) (n pa : Nat) (bs : List Byte) : OnlyMemory s (s.homePut n pa bs) := by
  induction n generalizing s pa bs with
  | zero => exact .refl s
  | succ n ih => cases bs with
    | nil => exact .refl s
    | cons b t => exact (s.homeWrite_onlyMemory _ _).trans (ih _ _ _)

theorem State.putBytes_onlyMemory (s : State) (pa : Nat) (bs : List Byte) : OnlyMemory s (s.putBytes pa bs) := s.homePut_onlyMemory _ _ _

theorem State.homeRead_onlyMemory (s : State) (pa n : Nat) : OnlyMemory s (s.homeRead pa n).1 :=
  (s.snoopRead_onlyMemory _).trans (State.snoopRead_onlyMemory _ _)

/-! Walks (R369 to R377): the state that a translation leaves, whatever it answers. -/

/-- The state that a step of a walk leaves. -/
def XRes.left {α : Type} : XRes α → State
  | .ok (_, s) => s
  | .error (_, s) => s

theorem State.readTable_onlyMemory (s : State) (pid : Nat) (g : Segment) (ia level : Nat) : OnlyMemory s (s.readTable pid g ia level).left := by
  unfold State.readTable
  split
  · exact .refl s
  · dsimp only
    split <;> exact (s.snoopRead_onlyMemory _).trans (State.allocIn_onlyMemory _ _ _)

theorem State.walkLevel_onlyMemory (s : State) (pid : Nat) (g : Segment) (va t level : Nat) :
    OnlyMemory s (s.walkLevel pid g va t level).left := by
  have h := s.readTable_onlyMemory pid g (t + 8 * if level = 4 then nbits 48 9 va else nbits (9 * level + 12) 9 va) level
  unfold State.walkLevel; dsimp only
  split
  · next e => rw [e] at h; exact h
  · next e =>
    rw [e] at h
    repeat' split
    all_goals exact h

theorem State.walk_onlyMemory (s : State) (pid : Nat) (g : Segment) (va level t : Nat) : OnlyMemory s (s.walk pid g va level t).left := by
  induction level generalizing s t with
  | zero =>
    have h := s.walkLevel_onlyMemory pid g va t 0
    unfold State.walk
    split <;> next e => rw [e] at h; exact h
  | succ l ih =>
    have h := s.walkLevel_onlyMemory pid g va t (l + 1)
    unfold State.walk
    split
    · next e => rw [e] at h; exact h
    · next e => rw [e] at h; exact h
    · next e => rw [e] at h; exact h.trans (ih _ _)

theorem State.firstTouch_onlyMemory (s : State) (spec : Bool) (pa own : Nat) : OnlyMemory s (s.firstTouch spec pa own).1 := by
  unfold State.firstTouch; dsimp only
  split
  · split
    · exact .refl s
    · exact s.putBytes_onlyMemory _ _
  · split <;> exact .refl s

theorem State.placement_onlyMemory (s : State) (pid : Nat) (p : Part) (cell : Option Nat) (spec : Bool) (level code pp vbase : Nat) :
    OnlyMemory s (s.placement pid p cell spec level code pp vbase).left := by
  have read : ∀ (t : State) (pa : Nat) (b : Nat), OnlyMemory t ((t.snoopRead (pa / 64)).allocIn b pid) :=
    fun t pa b => (t.snoopRead_onlyMemory _).trans (State.allocIn_onlyMemory _ _ _)
  unfold State.placement
  split
  · exact .refl s
  extract_lets bad tab
  split
  · exact .refl s
  split
  · exact .refl s
  extract_lets t b kind n ids restZero ftva
  have ht : OnlyMemory s t := read s _ _
  clear_value t b kind n ids ftva
  split
  · exact ht
  split
  · exact ht
  split
  · exact ht
  split
  · split
    · exact ht
    split
    · exact ht
    extract_lets u
    have hu : OnlyMemory s u := ht.trans (t.allocIn_onlyMemory _ _)
    clear_value u
    split
    · exact hu
    split
    · exact hu
    split
    · next e => exact hu.trans (.of_fst (u.firstTouch_onlyMemory _ _ _) e)
    · next e =>
      have h := hu.trans (.of_fst (u.firstTouch_onlyMemory _ _ _) e)
      split
      · exact h
      · split <;> exact h
  · exact ht

theorem State.markLeaf_onlyMemory (s : State) (pa e : Nat) (need : Need) : OnlyMemory s (s.markLeaf pa e need) := by
  unfold State.markLeaf
  extract_lets e'
  split
  · exact .refl s
  · exact s.putBytes_onlyMemory _ _

theorem State.translate_onlyMemory (s : State) (pid : Nat) (cell : Option Nat) (kmode : Bool) (need : Need) (spec : Bool) (va : Word) :
    OnlyMemory s (s.translate pid cell kmode need spec va).left := by
  unfold State.translate
  extract_lets p v root t
  have ht : OnlyMemory s t := by unfold t; split; exact .refl s; exact s.took_onlyMemory
  clear_value t root p
  split
  · exact .refl s
  split
  · exact ht
  have hwalk := ht.trans (t.walk_onlyMemory pid p.seg v 4 (nbits 12 40 root * 4096))
  split
  · next e => rw [e] at hwalk; exact hwalk
  next level pa en u e =>
  rw [e] at hwalk
  replace hwalk : OnlyMemory s u := hwalk
  split
  · exact hwalk
  extract_lets ia perm w
  have hw : OnlyMemory s w := by unfold w; split; exact hwalk; exact hwalk.trans (u.markLeaf_onlyMemory _ _ _)
  clear_value w perm ia
  split
  · exact hwalk
  split
  · exact hwalk
  split
  · exact hw
  split
  · exact hw
  extract_lets placed
  have hp : OnlyMemory s placed.left := by unfold placed; split; exact hw; exact hw.trans (w.placement_onlyMemory _ _ _ _ _ _ _ _)
  clear_value placed
  split <;> exact hp

/-! The accesses of the device's agents (R427). -/

theorem State.xlateDev_onlyMemory (s : State) (pid : Nat) (kmode : Bool) (need : Need) (va : Word) : OnlyMemory s (s.xlateDev pid kmode need va).left := by
  have h := s.translate_onlyMemory pid none kmode need false va
  unfold State.xlateDev
  split <;> next e => rw [e] at h; exact h

theorem State.devPlaces_onlyMemory (s : State) (pid : Nat) (kmode : Bool) (need : Need) (va : Word) (n : Nat) :
    OnlyMemory s (s.devPlaces pid kmode need va n).1 := by
  refine foldl_keeps (fun acc : State × Option (List (Loc × Nat)) => OnlyMemory s acc.1) _ _ _ (.refl s) fun acc c hacc => ?_
  obtain ⟨t, ls⟩ := acc
  cases ls with
  | none => exact hacc
  | some ls =>
    have h := hacc.trans (t.xlateDev_onlyMemory pid kmode need c.1)
    dsimp only
    split
    · next e => rw [e] at h; exact h
    · next e => rw [e] at h; exact h.trans (State.allocIn_onlyMemory _ _ _)

theorem State.devRead_onlyMemory (s : State) (pid : Nat) (kmode : Bool) (va : Word) (n : Nat) : OnlyMemory s (s.devRead pid kmode va n).1 := by
  have h := s.devPlaces_onlyMemory pid kmode .read va n
  unfold State.devRead
  split
  · next e => rw [e] at h; exact h
  · next e => rw [e] at h; exact h.trans (.foldl _ _ _ State.snoopRead_onlyMemory)

end Sys2Proof.Machine
end

section
/-! The functions of the host ports and the completion of a request (R400 to R405). -/

namespace Sys2Proof.Machine
open Sys2Proof Sys2Proof.Claims

/-! Places of a function. -/

@[simp] theorem State.setFn_fn_self (s : State) (f : HostFn) (x : Fn) : (s.setFn f x).fn f = x := by cases f <;> simp [State.setFn, State.fn]
@[simp] theorem State.setFn_setFn (s : State) (f : HostFn) (x y : Fn) : (s.setFn f x).setFn f y = s.setFn f y := by
  cases f <;> simp [State.setFn]
@[simp] theorem Fn.setQueue_queue (x : Fn) (q r : Nat) (i : QueueI) : (x.setQueue q i).queue r = if q = r then i else x.queue r := by
  simp [Fn.setQueue, Fn.queue]
@[simp] theorem Fn.setRemap_remap (x : Fn) (e r : Nat) (i : Remap) : (x.setRemap e i).remap r = if e = r then i else x.remap r := by
  simp [Fn.setRemap, Fn.remap]
@[simp] theorem Fn.setRemap_queue (x : Fn) (e r : Nat) (i : Remap) : (x.setRemap e i).queue r = x.queue r := rfl
@[simp] theorem Fn.setQueue_remap (x : Fn) (q r : Nat) (i : QueueI) : (x.setQueue q i).remap r = x.remap r := rfl
@[simp] theorem Fn.setRemap_revoked (x : Fn) (e : Nat) (i : Remap) : (x.setRemap e i).revoked = x.revoked := rfl
@[simp] theorem Fn.setQueue_revoked (x : Fn) (q : Nat) (i : QueueI) : (x.setQueue q i).revoked = x.revoked := rfl
@[simp] theorem State.setFn_hostOut (s : State) (f : HostFn) (x : Fn) : (s.setFn f x).hostOut = s.hostOut := by cases f <;> rfl
@[simp] theorem State.emit_fn (s : State) (o : HostOut) (f : HostFn) : (s.emit o).fn f = s.fn f := by cases f <;> rfl
@[simp] theorem State.emit_hostOut (s : State) (o : HostOut) : (s.emit o).hostOut = s.hostOut ++ [o] := rfl
@[simp] theorem State.fetchReq_fn (s : State) (f g : HostFn) (qi : Nat) : (s.fetchReq f qi).fn g = s.fn g := State.emit_fn _ _ _

/-- The state but for the functions and what the hosts hear. -/
def State.deviceSide (s : State) : State := { s with vfs := [], pfs := [], hostOut := [] }

@[simp] theorem State.setFn_deviceSide (s : State) (f : HostFn) (x : Fn) : (s.setFn f x).deviceSide = s.deviceSide := by cases f <;> rfl
@[simp] theorem State.emit_deviceSide (s : State) (o : HostOut) : (s.emit o).deviceSide = s.deviceSide := rfl

/-! Interrupts and completions. -/

/-- An interrupt changes nothing of its function but a remap entry. -/
theorem State.raiseVec_keeps (s : State) (f : HostFn) (v : Nat) (q : Nat) :
    ((s.raiseVec f v).fn f).queue q = (s.fn f).queue q ∧ ((s.raiseVec f v).fn f).revoked = (s.fn f).revoked := by
  unfold State.raiseVec; dsimp only
  split
  · exact ⟨rfl, rfl⟩
  · split <;> simp

theorem State.raiseVec_hostOut (s : State) (f : HostFn) (v : Nat) : ∃ m, (s.raiseVec f v).hostOut = s.hostOut ++ m := by
  unfold State.raiseVec; dsimp only
  split
  · exact ⟨[], by simp⟩
  · split
    · exact ⟨[], by simp⟩
    · exact ⟨_, rfl⟩

@[simp] theorem State.raiseVec_deviceSide (s : State) (f : HostFn) (v : Nat) : (s.raiseVec f v).deviceSide = s.deviceSide := by
  unfold State.raiseVec; dsimp only
  split
  · rfl
  · split <;> simp

/-- A completion touches nothing but the functions and what the hosts hear. -/
@[simp] theorem State.complete_deviceSide (s : State) (f : HostFn) (qi rid status result : Nat) :
    (s.complete f qi rid status result).deviceSide = s.deviceSide := by simp [State.complete]

theorem State.complete_revoked (s : State) (f : HostFn) (qi rid status result : Nat) :
    ((s.complete f qi rid status result).fn f).revoked = (s.fn f).revoked := by
  simp [State.complete, (State.raiseVec_keeps _ f _ qi).2]

@[simp] theorem State.complete_flights (s : State) (f : HostFn) (qi rid st r : Nat) : (s.complete f qi rid st r).flights = s.flights :=
  show (s.complete f qi rid st r).deviceSide.flights = s.deviceSide.flights from congrArg State.flights (s.complete_deviceSide f qi rid st r)
@[simp] theorem State.complete_hart (s : State) (f : HostFn) (qi rid st r c : Nat) : (s.complete f qi rid st r).hart c = s.hart c :=
  show (s.complete f qi rid st r).deviceSide.hart c = s.deviceSide.hart c from congrArg (·.hart c) (s.complete_deviceSide f qi rid st r)
@[simp] theorem State.complete_latest (s : State) (f : HostFn) (qi rid st r x : Nat) : (s.complete f qi rid st r).latest x = s.latest x :=
  show (s.complete f qi rid st r).deviceSide.latest x = s.deviceSide.latest x from congrArg (·.latest x) (s.complete_deviceSide f qi rid st r)
@[simp] theorem State.complete_sumSeq (s : State) (f : HostFn) (qi rid st r : Nat) : (s.complete f qi rid st r).sumSeq = s.sumSeq :=
  show (s.complete f qi rid st r).deviceSide.sumSeq = s.deviceSide.sumSeq from congrArg State.sumSeq (s.complete_deviceSide f qi rid st r)

/-- From s to t the functions stay, and the hosts hear of nothing but snoops. -/
structure HostSees (s t : State) : Prop where
  vfs : t.vfs = s.vfs
  pfs : t.pfs = s.pfs
  heard : ∃ m, onlySnoops m ∧ t.hostOut = s.hostOut ++ m

namespace HostSees

variable {s t u : State}

theorem silent (hv : t.vfs = s.vfs) (hp : t.pfs = s.pfs) (ho : t.hostOut = s.hostOut) : HostSees s t := ⟨hv, hp, [], onlySnoops_nil, by simp [ho]⟩
theorem refl (s : State) : HostSees s s := silent rfl rfl rfl

theorem trans (h : HostSees s t) (g : HostSees t u) : HostSees s u := by
  obtain ⟨hv, hp, m, hm, ho⟩ := h
  obtain ⟨gv, gp, n, hn, go⟩ := g
  exact ⟨gv.trans hv, gp.trans hp, m ++ n, onlySnoops_append hm hn, by rw [go, ho, List.append_assoc]⟩

theorem fn (h : HostSees s t) (f : HostFn) : t.fn f = s.fn f := by
  cases f with
  | vf n => simp only [State.fn, h.vfs]
  | pf n => simp only [State.fn, h.pfs]

end HostSees

theorem OnlyMemory.hostSees {s t : State} (h : OnlyMemory s t) : HostSees s t := ⟨h.vfs, h.pfs, h.heard⟩

/-- A completion from a state in which the queue stands as before, and the hosts heard of nothing but snoops since (R405). -/
theorem HostSees.completed {u w : State} (h : HostSees u w) (f : HostFn) (qi rid status result : Nat) :
    completed u (w.complete f qi rid status result) f qi rid status result := by
  obtain ⟨m, hm, ho⟩ := h.heard
  have hf := h.fn f
  unfold State.complete
  extract_lets x q at_ v v'
  have hq : ((v'.raiseVec f q.ivec).fn f).queue qi = { q with qhead := (q.qhead + 1) % 65536, busy := none } := by
    rw [(State.raiseVec_keeps v' f q.ivec qi).1]; simp [v', x]
  obtain ⟨more, hmore⟩ := State.raiseVec_hostOut v' f q.ivec
  have hx : q = (u.fn f).queue qi := by rw [← hf]
  unfold Claims.completed
  rw [← hx]
  exact ⟨by rw [hq], by rw [hq], m, more, hm, by rw [hmore]; simp [v', v, at_, ho]⟩

theorem State.complete_completed (s : State) (f : HostFn) (qi rid status result : Nat) :
    completed s (s.complete f qi rid status result) f qi rid status result := (HostSees.refl s).completed f qi rid status result

/-- Of the state before a completion only the queue and what the hosts have heard count. -/
theorem completed_of_queue {s u t : State} {f : HostFn} {qi rid status result : Nat} (h : completed u t f qi rid status result)
    (hq : (u.fn f).queue qi = (s.fn f).queue qi) (ho : u.hostOut = s.hostOut) : completed s t f qi rid status result := by
  unfold completed at h ⊢; rw [hq, ho] at h; exact h

end Sys2Proof.Machine
end

section
/-! Host requests (R403, R405): what is common to all of them, and one lemma per operation that has read its address. -/

namespace Sys2Proof.Machine
open Sys2Proof Sys2Proof.Claims

variable {s u v : State} {fn : HostFn} {qi op : Nat} {req : BitVec 512} {l : Loc} {b : List Byte}

/-- A translation for a request, or its fault, leaves the functions alone. -/
theorem State.hostLoc_hostSees (s : State) (f : HostFn) (need : Need) (va : Word) : HostSees s (s.hostLoc f need va).1 := by
  unfold State.hostLoc
  extract_lets x pid own back
  have h : HostSees s (s.setPart pid { s.part pid with seg := x.seg }) := .silent rfl rfl rfl
  have ht := h.trans (State.translate_onlyMemory (s.setPart pid { s.part pid with seg := x.seg }) pid none false need false va).hostSees
  split
  · next e => rw [e] at ht; exact ht.trans (.silent rfl rfl rfl)
  · exact .silent rfl rfl rfl
  · exact .silent rfl rfl rfl

/-- A request of an operation that is fetched is handed to the body of its row. -/
theorem State.request_fetched (h : fetched s fn qi req op) (body : State → List Byte → State) :
    s.request fn qi req op body = body (s.fetchReq fn qi) (vecBytes req) := by
  obtain ⟨hf, hb, ho⟩ := h
  simp [State.request, hf, hb, ho]

section
variable (f : HostFn) (need : Need) (size : Nat) (r : List Byte) (body : State → Loc → List Byte → State)

theorem State.vfRequest_revoked (h : (s.fn f).hasPasid (rqPasid r) = false) :
    s.vfRequest f qi need size r body
      = (s.setFn f { s.fn f with revoked := min ((s.fn f).revoked + 1) (2 ^ 64 - 1) }).complete f qi (rqRid r) 2 0 := by
  simp [State.vfRequest, h]

theorem State.vfRequest_misaligned (hp : (s.fn f).hasPasid (rqPasid r) = true) (ha : (rqAddr r).toNat % size ≠ 0) :
    s.vfRequest f qi need size r body = s.complete f qi (rqRid r) 3 0 := by
  simp [State.vfRequest, hp, ha]

theorem State.vfRequest_faults (hp : (s.fn f).hasPasid (rqPasid r) = true) (ha : (rqAddr r).toNat % size = 0)
    (hl : s.hostLoc f need (rqAddr r) = (u, none)) : s.vfRequest f qi need size r body = u.complete f qi (rqRid r) 3 0 := by
  simp [State.vfRequest, hp, ha, hl]

/-- A request whose address translates reads its bytes there: bad ones give status 3, others go to the body. -/
theorem State.vfRequest_reads (hp : (s.fn f).hasPasid (rqPasid r) = true) (ha : (rqAddr r).toNat % size = 0)
    (hl : s.hostLoc f need (rqAddr r) = (u, some l)) :
    s.vfRequest f qi need size r body =
      let m := (u.allocIn (homeBank l) ((u.fn f).part.getD 31)).homeRead l.pa size
      if m.2.2 || u.placeStaged ((u.fn f).part.getD 31) StageSt.isFailed [(l, size)] then (s.unwalk m.1).complete f qi (rqRid r) 3 0
      else body m.1 l m.2.1 := by
  have hf : u.fn f = s.fn f := by have h := s.hostLoc_hostSees f need (rqAddr r); rw [hl] at h; exact h.fn f
  simp [State.vfRequest, hp, ha, hl, hf]

end

/-- The four operations of a VF are each a request under a PASID with its own need and size (R405). -/
theorem request_row (i : Instr)
    (h : (op, i) ∈ [(1, Instr.evRequestLaunch fn qi req), (2, .evRequestParcel fn qi req), (3, .evRequestResolve fn qi req), (4, .evRequestPoll fn qi req)])
    (hf : fetched s fn qi req op) :
    ∃ body, exec i s = .next ((s.fetchReq fn qi).vfRequest fn qi (rqNeed op) (rqSize op) (vecBytes req) body) := by
  simp only [List.mem_cons, Prod.mk.injEq, List.not_mem_nil, or_false] at h
  obtain ⟨rfl, rfl⟩ | ⟨rfl, rfl⟩ | ⟨rfl, rfl⟩ | ⟨rfl, rfl⟩ := h <;>
    exact ⟨_, congrArg Host.Outcome.next (State.request_fetched hf _)⟩

/-- A request whose address translates: bad bytes give status 3, others go to the body of its row. -/
theorem located_reads (h : located s fn qi req op l u) (body : State → Loc → List Byte → State) :
    (s.fetchReq fn qi).vfRequest fn qi (rqNeed op) (rqSize op) (vecBytes req) body =
      if (readAt u fn op l).2.2 || u.placeStaged ((u.fn fn).part.getD 31) StageSt.isFailed [(l, rqSize op)]
      then ((s.fetchReq fn qi).unwalk (readAt u fn op l).1).complete fn qi (rqRid (vecBytes req)) 3 0
      else body (readAt u fn op l).1 l (readAt u fn op l).2.1 := by
  obtain ⟨-, hp, ha, hl⟩ := h
  exact State.vfRequest_reads fn _ _ _ body (by rw [State.fetchReq_fn]; exact hp) ha hl

/-- A request that reads good bytes goes on with them. -/
theorem located_goes (h : located s fn qi req op l u) (hr : readAt u fn op l = (v, b, false))
    (hs : u.placeStaged ((u.fn fn).part.getD 31) StageSt.isFailed [(l, rqSize op)] = false) (body : State → Loc → List Byte → State) :
    (s.fetchReq fn qi).vfRequest fn qi (rqNeed op) (rqSize op) (vecBytes req) body = body v l b := by
  rw [located_reads h, hr, hs]; rfl

/-- Reading a request's object leaves the functions alone. -/
theorem readAt_fn (hr : readAt u fn op l = (v, b, false)) (f : HostFn) : v.fn f = u.fn f := by
  have h := (u.allocIn_onlyMemory (homeBank l) ((u.fn fn).part.getD 31)).trans (State.homeRead_onlyMemory _ l.pa (rqSize op))
  exact (h.of_fst hr).hostSees.fn f

/-! Malformed requests and the statuses before the object is read. -/

theorem malformed_completes (s : State) (fn : HostFn) (qi : Nat) (req : BitVec 512) (hf : s.fetchable fn qi = true) (hb : rqBad fn (vecBytes req) = true) :
    ∃ t, runs (.evMalformedRequest fn qi req) s t ∧ completed (s.fetchReq fn qi) t fn qi (rqRid (vecBytes req)) 1 0 := by
  refine ⟨(s.fetchReq fn qi).complete fn qi (rqRid (vecBytes req)) 1 0, ?_, State.complete_completed _ _ _ _ _ _⟩
  rw [runs, exec_evMalformedRequest]; simp [execEvMalformedRequest, hf, hb]

/-- A request under a PASID that no V entry holds counts in REVOKED. -/
theorem revoked_completes (s : State) (f : HostFn) (qi rid : Nat) :
    let t := (s.setFn f { s.fn f with revoked := min ((s.fn f).revoked + 1) (2 ^ 64 - 1) }).complete f qi rid 2 0
    completed s t f qi rid 2 0 ∧ (t.fn f).revoked = min ((s.fn f).revoked + 1) (2 ^ 64 - 1) := by
  refine ⟨completed_of_queue (State.complete_completed _ _ _ _ _ _) ?_ ?_, ?_⟩
  · rw [State.setFn_fn_self]; rfl
  · exact State.setFn_hostOut _ _ _
  · rw [State.complete_revoked, State.setFn_fn_self]

/-! Launches, polls and parcels. -/

theorem launch_completes (h : located s fn qi req 1 l u) (hr : readAt u fn 1 l = (v, b, false))
    (hs : u.placeStaged ((u.fn fn).part.getD 31) StageSt.isFailed [(l, rqSize 1)] = false) (w : State) (k : Nat)
    (hw : v.submitFor ((u.fn fn).part.getD 31) (u.fn fn).seg (rqAddr (vecBytes req)) = (w, k)) :
    ∃ t, runs (.evRequestLaunch fn qi req) s t ∧ completed w t fn qi (rqRid (vecBytes req)) (16 + k) 0 := by
  refine ⟨w.complete fn qi (rqRid (vecBytes req)) (16 + k) 0, ?_, State.complete_completed _ _ _ _ _ _⟩
  rw [runs, exec_evRequestLaunch, execEvRequestLaunch, State.request_fetched h.1]
  refine congrArg Host.Outcome.next ((located_goes h hr hs _).trans ?_)
  dsimp only; rw [readAt_fn hr, hw]

theorem poll_completes (h : located s fn qi req 4 l u) (hr : readAt u fn 4 l = (v, b, false))
    (hs : u.placeStaged ((u.fn fn).part.getD 31) StageSt.isFailed [(l, rqSize 4)] = false) :
    ∃ t, runs (.evRequestPoll fn qi req) s t ∧ completed v t fn qi (rqRid (vecBytes req)) 0 (bnat b 0 8) := by
  refine ⟨v.complete fn qi (rqRid (vecBytes req)) 0 (bnat b 0 8), ?_, State.complete_completed _ _ _ _ _ _⟩
  rw [runs, exec_evRequestPoll, execEvRequestPoll, State.request_fetched h.1]
  exact congrArg Host.Outcome.next (located_goes h hr hs _)

/-- What a host's parcel row does with its 64 bytes: a refusal, or the parcel leaves and the queue waits for its verdict. -/
def parcelLeft (v : State) (fn : HostFn) (qi pid : Nat) (r b : List Byte) : State :=
  let x := v.fn fn
  let w := bnat b 0 4
  let key := seqKey (nbits 0 16 w) (nbits 16 8 w)
  let p := mkParcel (mkHdr (mget 0 x.seqs key).toNat false false (rqF8 r) pid (hostSrc fn) (nbits 24 8 w) (nbits 16 8 w) (nbits 0 16 w)) (b.drop 8)
  (v.setFn fn { x.setQueue qi { x.queue qi with busy := some v.serial } with seqs := mput x.seqs key (mget 0 x.seqs key + 1) }).launchFlight
    p pid (.host fn qi (BitVec.ofNat 16 (rqRid r)))

theorem parcel_refused (h : located s fn qi req 2 l u) (hr : readAt u fn 2 l = (v, b, false))
    (hs : u.placeStaged ((u.fn fn).part.getD 31) StageSt.isFailed [(l, rqSize 2)] = false) (k : Nat)
    (hk : v.refusesFrom ((u.fn fn).part.getD 31) (bnat b 0 4) = some k) :
    ∃ t, runs (.evRequestParcel fn qi req) s t ∧ completed v t fn qi (rqRid (vecBytes req)) (32 + k) 0 := by
  refine ⟨v.complete fn qi (rqRid (vecBytes req)) (32 + k) 0, ?_, State.complete_completed _ _ _ _ _ _⟩
  rw [runs, exec_evRequestParcel, execEvRequestParcel, State.request_fetched h.1]
  refine congrArg Host.Outcome.next ((located_goes h hr hs _).trans ?_)
  dsimp only; rw [readAt_fn hr, hk]

theorem parcel_leaves (h : located s fn qi req 2 l u) (hr : readAt u fn 2 l = (v, b, false))
    (hs : u.placeStaged ((u.fn fn).part.getD 31) StageSt.isFailed [(l, rqSize 2)] = false)
    (hk : v.refusesFrom ((u.fn fn).part.getD 31) (bnat b 0 4) = none) :
    runs (.evRequestParcel fn qi req) s (parcelLeft v fn qi ((u.fn fn).part.getD 31) (vecBytes req) b) := by
  rw [runs, exec_evRequestParcel, execEvRequestParcel, State.request_fetched h.1]
  refine congrArg Host.Outcome.next ((located_goes h hr hs _).trans ?_)
  rw [← readAt_fn hr] at hk ⊢
  dsimp only; rw [hk]; rfl

theorem parcelLeft_queue (v : State) (fn : HostFn) (qi pid : Nat) (r b : List Byte) :
    ((parcelLeft v fn qi pid r b).fn fn).queue qi = { (v.fn fn).queue qi with busy := some v.serial } := by
  cases fn <;> simp [parcelLeft, State.launchFlight, State.setFn, State.fn, Fn.setQueue, Fn.queue, State.bump]

theorem parcelLeft_flights (v : State) (fn : HostFn) (qi pid : Nat) (r b : List Byte) : ∃ f, (parcelLeft v fn qi pid r b).flights = v.flights ++ [f]
    ∧ f.id = v.serial ∧ f.part = pid ∧ f.parcel = mkParcel (mkHdr (mget 0 (v.fn fn).seqs (seqKey (nbits 0 16 (bnat b 0 4)) (nbits 16 8 (bnat b 0 4)))).toNat
      false false (rqF8 r) pid (hostSrc fn) (nbits 24 8 (bnat b 0 4)) (nbits 16 8 (bnat b 0 4)) (nbits 0 16 (bnat b 0 4))) (b.drop 8) := by
  cases fn <;> exact ⟨_, rfl, rfl, rfl, rfl⟩

end Sys2Proof.Machine
end

section
/-! Bytes written at a home inside one line (R130), and the resolution of a future by a host (R43, R405). -/

namespace Sys2Proof.Machine
open Sys2Proof Sys2Proof.Claims

variable {s t u v : State} {fn : HostFn} {qi : Nat} {req : BitVec 512} {l : Loc} {b : List Byte}

/-! Bytes of one line. -/

theorem mem_addrBytes {pa : Nat} {bs : List Byte} {w : Nat × Byte} (h : w ∈ addrBytes pa bs) : pa ≤ w.1 ∧ w.1 < pa + bs.length := by
  induction bs generalizing pa with
  | nil => exact absurd h List.not_mem_nil
  | cons b t ih =>
    rw [List.length_cons]
    rcases List.mem_cons.1 h with rfl | h
    · exact ⟨Nat.le_refl _, by simp only; omega⟩
    · have := ih h; omega

/-- A write of consecutive bytes of one line at its home, outside the staging slots, writes them and no other byte. -/
theorem State.homeWrite_wroteBytes (s : State) (pa : Nat) (bs : List Byte) (hfit : pa % 64 + bs.length ≤ 64) (hs : s.slotPages (pa / 64) = []) :
    wroteBytes s (s.homeWrite (pa / 64) (addrBytes pa bs)) pa bs := by
  intro x
  rw [State.latest_homeWrite s _ _ x hs fun w hw => by have := mem_addrBytes hw; omega, written_addrBytes]
  split <;> rfl

theorem State.putBytes_wroteBytes (s : State) (pa : Nat) (bs : List Byte) (hfit : pa % 64 + bs.length ≤ 64) (hs : s.slotPages (pa / 64) = []) :
    wroteBytes s (s.putBytes pa bs) pa bs := by
  cases bs with
  | nil => intro x; rw [if_neg (by simp only [List.length_nil]; omega)]; rfl
  | cons b t =>
    have hlen : (b :: t).length ≤ 64 - pa % 64 := by omega
    have hput : s.putBytes pa (b :: t) = s.homeWrite (pa / 64) (addrBytes pa (b :: t)) := by
      unfold State.putBytes; rw [State.homePut]
      · rw [List.take_of_length_le hlen, List.drop_eq_nil_of_le hlen]; rfl
      · intro h; exact absurd h (List.cons_ne_nil _ _)
    rw [hput]; exact s.homeWrite_wroteBytes pa _ hfit hs

/-- Two writes side by side, the upper bytes first. -/
theorem wroteBytes_append {pa : Nat} {lo hi : List Byte} (h : wroteBytes s t (pa + lo.length) hi) (g : wroteBytes t u pa lo) :
    wroteBytes s u pa (lo ++ hi) := by
  intro x
  rw [g x, h x, List.length_append]
  by_cases hlo : pa ≤ x ∧ x < pa + lo.length
  · rw [if_pos hlo, if_pos (by omega), List.getD_append _ _ _ _ (by omega)]
  · rw [if_neg hlo]
    by_cases hhi : pa + lo.length ≤ x ∧ x < pa + lo.length + hi.length
    · rw [if_pos hhi, if_pos (by omega), List.getD_append_right _ _ _ _ (by omega)]; congr 1; omega
    · rw [if_neg hhi, if_neg (by omega)]

/-- Bytes written stay so in a state with the same coherent memory. -/
theorem wroteBytes_of_latest {pa : Nat} {bs : List Byte} (h : wroteBytes s t pa bs) (g : ∀ x, u.latest x = t.latest x) : wroteBytes s u pa bs :=
  fun x => (g x).trans (h x)

/-! Word 0 of a future (R42). -/

theorem fSt_eq (w : Nat) : fSt w = w % 4 := by simp [fSt, nbits]
theorem mkWord0_resolved (w : Nat) : mkWord0 (fSlot w) (fGen w) 2 = fSlot w * 65536 + fGen w * 4 + 2 := by
  have hs : fSlot w < 65536 := Nat.mod_lt _ (by decide)
  have hg : fGen w < 16384 := Nat.mod_lt _ (by decide)
  rw [mkWord0, Nat.mod_eq_of_lt hs, Nat.mod_eq_of_lt hg]

/-! Releasing a waiter (R45). -/

@[simp] theorem State.setSlot_latest (s : State) (die n : Nat) (f : FSlot) (x : Nat) : (s.setSlot die n f).latest x = s.latest x := rfl
@[simp] theorem State.setSlot_flights (s : State) (die n : Nat) (f : FSlot) : (s.setSlot die n f).flights = s.flights := rfl
@[simp] theorem State.setSlot_harts (s : State) (die n : Nat) (f : FSlot) : (s.setSlot die n f).harts = s.harts := rfl

theorem State.releaseWaiter_hostSees (s : State) (pid die slot : Nat) (va : Word) (w0 w1 tokens : Nat) (x : Waiter) :
    HostSees s (s.releaseWaiter pid die slot va w0 w1 tokens x) := by
  cases x with
  | none => exact .refl s
  | cont c => exact .silent rfl rfl rfl
  | hart core => unfold State.releaseWaiter; dsimp only; split <;> exact .silent rfl rfl rfl

@[simp] theorem State.releaseWaiter_latest (s : State) (pid die slot : Nat) (va : Word) (w0 w1 tokens : Nat) (x : Waiter) (a : Nat) :
    (s.releaseWaiter pid die slot va w0 w1 tokens x).latest a = s.latest a := by
  cases x with
  | none => rfl
  | cont c => rfl
  | hart core => unfold State.releaseWaiter; dsimp only; split <;> rfl

theorem State.releaseWaiter_releases (s : State) (pid die slot : Nat) (va : Word) (w0 w1 tokens : Nat) (x : Waiter) :
    releases s (s.releaseWaiter pid die slot va w0 w1 tokens x) die slot pid va w0 w1 tokens [x] := by
  cases x with
  | none => exact ⟨by simp [adds, State.releaseWaiter, waiterSends], fun c hc => by simp at hc⟩
  | cont c =>
    refine ⟨?_, fun c hc => by simp at hc⟩
    simp [adds, State.releaseWaiter, waiterSends, State.sendCont, State.launchFlight, contParcel]
  | hart core =>
    refine ⟨?_, fun c hc hw => ?_⟩
    · unfold State.releaseWaiter; dsimp only; split <;> simp [adds, waiterSends]
    · obtain rfl : c = core := by simpa using hc
      simp [State.releaseWaiter, hw, fSt_eq]

/-- A release between two states is one from any state with the same parcels in flight and harts as the first. -/
theorem releases_from {die slot pid : Nat} {va : Word} {w0 w1 tokens : Nat} {ws : List Waiter} (h : releases t u die slot pid va w0 w1 tokens ws)
    (hf : t.flights = s.flights) (hh : t.harts = s.harts) : releases s u die slot pid va w0 w1 tokens ws := by
  obtain ⟨ha, hr⟩ := h
  refine ⟨?_, fun c hc hw => hr c hc ?_⟩
  · rw [adds, ← hf]; exact ha
  · rw [State.hart, hh]; exact hw

/-- And one to any state with the same parcels in flight and harts as the second. -/
theorem releases_to {die slot pid : Nat} {va : Word} {w0 w1 tokens : Nat} {ws : List Waiter} (h : releases s t die slot pid va w0 w1 tokens ws)
    (hf : u.flights = t.flights) (hh : ∀ c, u.hart c = t.hart c) : releases s u die slot pid va w0 w1 tokens ws := by
  obtain ⟨ha, hr⟩ := h
  refine ⟨?_, fun c hc hw => ?_⟩
  · rw [adds, hf]; exact ha
  · rw [hh]; exact hr c hc hw

/-! The future leaves state 00 or 01 (R43). -/

theorem State.replyCount_onlyMemory (s : State) (pid : Nat) (buf : Word) : OnlyMemory s (s.replyCount pid buf).1 := by
  have h := s.devRead_onlyMemory pid false buf 4
  unfold State.replyCount; split <;> exact h.of_fst ‹_›

theorem State.templateCount_onlyMemory (s : State) (pid : Nat) (queue : Word) : OnlyMemory s (s.templateCount pid queue).1 := by
  have h := s.devRead_onlyMemory pid false queue 64
  unfold State.templateCount; split <;> exact h.of_fst ‹_›

theorem State.settleFut_hostSees (s : State) (pid die n : Nat) (x : FSlot) (w0 w1 st : Nat) : HostSees s (s.settleFut pid die n x w0 w1 st) := by
  unfold State.settleFut
  split
  · exact .refl s
  · extract_lets w0' t
    have ht : HostSees s t := (s.putBytes_onlyMemory x.pa (leBytes 8 w0')).hostSees
    clear_value t
    split
    · refine ht.trans (.trans ?_ (State.releaseWaiter_hostSees ..))
      exact .silent rfl rfl rfl
    · next q _ =>
      have hcount : OnlyMemory t (if st = 2 then t.replyCount pid (BitVec.ofNat 64 w1) else t.templateCount pid q).1 := by
        split
        · exact t.replyCount_onlyMemory _ _
        · exact t.templateCount_onlyMemory _ _
      split
      next e =>
      refine (ht.trans (hcount.of_fst e).hostSees).trans ?_
      exact .silent rfl rfl rfl

/-- An unbound future releases its waiter at once. -/
theorem State.settleFut_unbound (s : State) (pid die n : Nat) (x : FSlot) (w0 w1 st : Nat) {va : Word} {w : Waiter} {dl : Option Nat}
    {re : Option (Word × Nat)} {inj : Option Inject} (hk : x.kind = .future va w dl none re inj) :
    s.settleFut pid die n x w0 w1 st = ((s.putW0 x.pa (mkWord0 n (fGen w0) st)).setSlot die n { x with kind := .future va .none none none re none }).releaseWaiter
      pid die n va (mkWord0 n (fGen w0) st) w1 0 w := by
  simp [State.settleFut, hk]

/-! A host resolves a future (R288, R405). -/

theorem State.see_stale (s : State) (pid : Nat) (f : Fut) (handle : Word) (h : fGen handle.toNat ≠ fGen f.w0) : s.see pid f handle = .stale := by
  simp [State.see, h]
theorem State.see_dead (s : State) (pid : Nat) (f : Fut) (handle : Word) (h : fGen handle.toNat = fGen f.w0) (hl : s.liveSlot pid f = none) :
    s.see pid f handle = .dead := by simp [State.see, h, hl]
theorem State.see_live (s : State) (pid : Nat) (f : Fut) (handle : Word) {x : FSlot} (h : fGen handle.toNat = fGen f.w0)
    (hl : s.liveSlot pid f = some x) : s.see pid f handle = .live x := by simp [State.see, h, hl]

/-- A live slot is that of the future's own address. -/
theorem State.liveSlot_pa {pid : Nat} {f : Fut} {x : FSlot} (h : s.liveSlot pid f = some x) : x.pa = f.loc.pa := by
  unfold State.liveSlot at h
  split at h
  · obtain ⟨hc, hx⟩ := Option.ite_none_right_eq_some.1 h
    simp only [Bool.and_eq_true, beq_iff_eq] at hc
    exact Option.some.inj hx ▸ hc.1.2
  · cases h

/-- What a host's resolution of the future at the place of its request comes to: the state that completes, and the status (R43,
R288). -/
def resolveEnd (v : State) (pid : Nat) (r : List Byte) (f : Fut) : FutSee → State × Nat
  | .stale => (v, 4)
  | .dead => (v, 5)
  | .live x =>
    if fSt f.w0 = 2 then (v, 5)
    else if fSt f.w0 = 3 then (v, 3)
    else ((v.putW1 f.loc.pa (rqVal r)).settleFut pid f.die (fSlot f.w0) x f.w0 (rqVal r) 2, 0)

theorem resolve_runs (h : located s fn qi req 3 l u) (hr : readAt u fn 3 l = (v, b, false))
    (hs : u.placeStaged ((u.fn fn).part.getD 31) StageSt.isFailed [(l, rqSize 3)] = false) {w : State} {st : Nat}
    (he : resolveEnd v ((u.fn fn).part.getD 31) (vecBytes req) (Fut.of l (rqAddr (vecBytes req)) b)
      (v.see ((u.fn fn).part.getD 31) (Fut.of l (rqAddr (vecBytes req)) b) (rqHnd (vecBytes req))) = (w, st)) :
    runs (.evRequestResolve fn qi req) s (w.complete fn qi (rqRid (vecBytes req)) st 0) := by
  rw [runs, exec_evRequestResolve, execEvRequestResolve, State.request_fetched h.1]
  refine congrArg Host.Outcome.next ((located_goes h hr hs _).trans ?_)
  rw [← readAt_fn hr] at he
  dsimp only
  generalize v.see _ _ _ = see at he ⊢
  cases see with
  | stale => cases he; rfl
  | dead => cases he; rfl
  | live x =>
    unfold resolveEnd at he
    dsimp only at he ⊢
    split
    · next h2 => rw [if_pos h2] at he; cases he; rfl
    · next h3 => rw [if_neg (by rw [h3]; decide), if_pos h3] at he; cases he; rfl
    · next h2 h3 => rw [if_neg h2, if_neg h3] at he; cases he; rfl

end Sys2Proof.Machine
end

section
/-! The statuses of a resolution, and the re-synchronisation summary (R405, R412). -/

namespace Sys2Proof.Machine
open Sys2Proof Sys2Proof.Claims

variable {s u v : State} {fn : HostFn} {qi : Nat} {req : BitVec 512} {l : Loc} {b : List Byte}

/-- The state that a resolved future leaves, before the completion. -/
def resolvedFut (v : State) (pid val : Nat) (f : Fut) (x : FSlot) : State :=
  (v.putW1 f.loc.pa val).settleFut pid f.die (fSlot f.w0) x f.w0 val 2

theorem resolveEnd_resolved (v : State) (pid : Nat) (r : List Byte) (f : Fut) (x : FSlot) (h : f.w0 % 4 = 2) :
    resolveEnd v pid r f (.live x) = (v, 5) := by simp [resolveEnd, fSt_eq, h]
theorem resolveEnd_timedOut (v : State) (pid : Nat) (r : List Byte) (f : Fut) (x : FSlot) (h : f.w0 % 4 = 3) :
    resolveEnd v pid r f (.live x) = (v, 3) := by simp [resolveEnd, fSt_eq, h]
theorem resolveEnd_pending (v : State) (pid : Nat) (r : List Byte) (f : Fut) (x : FSlot) (h : f.w0 % 4 < 2) :
    resolveEnd v pid r f (.live x) = (resolvedFut v pid (rqVal r) f x, 0) := by
  rw [resolveEnd, fSt_eq, if_neg (by omega), if_neg (by omega)]; rfl

theorem resolvedFut_hostSees (v : State) (pid val : Nat) (f : Fut) (x : FSlot) : HostSees v (resolvedFut v pid val f x) :=
  (v.putBytes_onlyMemory _ _).hostSees.trans (State.settleFut_hostSees ..)

/-- A resolved future without a bound queue has word 0 and word 1 written, and its waiter is released (R43, R45). -/
theorem resolvedFut_unbound (v : State) (pid val : Nat) (f : Fut) (x : FSlot) {va : Word} {w : Waiter} {dl : Option Nat} {re : Option (Word × Nat)}
    {inj : Option Inject} (hk : x.kind = .future va w dl none re inj) (hx : x.pa = f.loc.pa) (ha : f.loc.pa % 16 = 0) (hs : v.slotPages (f.loc.pa / 64) = []) :
    let w0 := fSlot f.w0 * 65536 + fGen f.w0 * 4 + 2
    wroteBytes v (resolvedFut v pid val f x) f.loc.pa (leBytes 8 w0 ++ leBytes 8 val)
      ∧ releases v (resolvedFut v pid val f x) f.die (fSlot f.w0) pid va w0 val 0 [w] := by
  intro w0
  have hline : (f.loc.pa + 8) / 64 = f.loc.pa / 64 := by omega
  have hlow : (leBytes 8 w0).length = 8 := length_leBytes 8 w0
  have h1 : wroteBytes v (v.putW1 f.loc.pa val) (f.loc.pa + (leBytes 8 w0).length) (leBytes 8 val) := by
    rw [hlow]; exact v.putBytes_wroteBytes _ _ (by rw [length_leBytes]; omega) (by rw [hline]; exact hs)
  have m1 : OnlyMemory v (v.putW1 f.loc.pa val) := v.putBytes_onlyMemory _ _
  have h0 : wroteBytes (v.putW1 f.loc.pa val) ((v.putW1 f.loc.pa val).putW0 f.loc.pa w0) f.loc.pa (leBytes 8 w0) :=
    State.putBytes_wroteBytes _ _ _ (by rw [hlow]; omega) (by rw [m1.slotPages]; exact hs)
  have m0 : OnlyMemory v ((v.putW1 f.loc.pa val).putW0 f.loc.pa w0) := m1.trans (State.putBytes_onlyMemory _ _ _)
  rw [resolvedFut, State.settleFut_unbound _ _ _ _ _ _ _ _ hk, mkWord0_resolved, hx]
  refine ⟨wroteBytes_of_latest (wroteBytes_append h1 h0) fun x => ?_, ?_⟩
  · rw [State.releaseWaiter_latest, State.setSlot_latest]
  · refine releases_from (State.releaseWaiter_releases ..) ?_ ?_
    · rw [State.setSlot_flights, m0.flights]
    · rw [State.setSlot_harts, m0.harts]

/-- RESYNC (R405, R412): the host refuses the summary, or takes it. -/
theorem resync_completes (s : State) (fn : HostFn) (qi : Nat) (req : BitVec 512) (h : fetched s fn qi req 5) :
    let u := { s.fetchReq fn qi with sumSeq := s.sumSeq + 1 }
    ∃ t, runs (.evRequestResync fn qi req) s t ∧ t.sumSeq = s.sumSeq + 1
      ∧ (completed u t fn qi (rqRid (vecBytes req)) 3 0
        ∨ completed (u.emit (.write (rqAddr (vecBytes req)) u.summary)) t fn qi (rqRid (vecBytes req)) 0 0) := by
  intro u
  have hrun : exec (.evRequestResync fn qi req) s = .next (if u.pick 2 = 1 then u.took.complete fn qi (rqRid (vecBytes req)) 3 0
      else (u.took.emit (.write (rqAddr (vecBytes req)) u.summary)).complete fn qi (rqRid (vecBytes req)) 0 0) := by
    rw [exec_evRequestResync, execEvRequestResync, State.request_fetched h]; rfl
  by_cases hp : u.pick 2 = 1
  · rw [if_pos hp] at hrun
    refine ⟨_, hrun, by simp [u], .inl ?_⟩
    exact (HostSees.silent rfl rfl rfl : HostSees u u.took).completed ..
  · rw [if_neg hp] at hrun
    refine ⟨_, hrun, by simp [u, State.emit], .inr ?_⟩
    exact (HostSees.silent rfl rfl rfl : HostSees (u.emit _) (u.took.emit _)).completed ..

end Sys2Proof.Machine
end

section
/-! The registers of a function and of a hart, written and read from outside (R8, R288, R297, R400 to R404). -/

namespace Sys2Proof.Machine
open Sys2Proof Sys2Proof.Claims

variable {s : State} {fn : HostFn} {qi n core num : Nat}

/-! Notify, unmask and revoke. -/

theorem notify_writes (s : State) (fn : HostFn) (qi : Nat) (v : BitVec 32) (hu : s.fnUp fn = true) (hq : qi < 8) :
    let q := (s.fn fn).queue qi
    let d := ((v.setWidth 16).toNat + 65536 - q.qhead) % 65536
    (q.on = false → runs (.evNotifyWrite fn qi v) s s)
    ∧ (q.on = true → d ≤ 2 ^ q.qlog → ∃ t, runs (.evNotifyWrite fn qi v) s t ∧ (t.fn fn).queue qi = { q with tail := (v.setWidth 16).toNat })
    ∧ (q.on = true → 2 ^ q.qlog < d → ∃ t, runs (.evNotifyWrite fn qi v) s t ∧ (t.fn fn).queue qi = { q with badn := min (q.badn + 1) (2 ^ 32 - 1) }) := by
  intro q d
  have hv : (v.setWidth 16).toNat = v.toNat % 65536 := BitVec.toNat_setWidth 16 v
  have hbase : ¬(!s.fnUp fn || decide (8 ≤ qi)) = true := by simp [hu]; omega
  refine ⟨fun ho => ?_, fun ho hd => ⟨s.setFn fn ((s.fn fn).setQueue qi { q with tail := (v.setWidth 16).toNat }), ?_, by simp⟩,
    fun ho hd => ⟨s.setFn fn ((s.fn fn).setQueue qi { q with badn := min (q.badn + 1) (2 ^ 32 - 1) }), ?_, by simp⟩⟩
    <;> rw [runs, exec_evNotifyWrite, execEvNotifyWrite] <;> refine congrArg Host.Outcome.next ?_ <;> dsimp only <;> rw [if_neg hbase]
  · rw [if_pos (by simpa [q] using ho)]
  · rw [if_neg (by simpa [q] using ho), ← hv, if_pos hd]
  · rw [if_neg (by simpa [q] using ho), ← hv, if_neg (Nat.not_le.2 hd)]

theorem State.unmask_remap (s : State) (f : HostFn) (e : Nat) :
    ((s.unmask f e).fn f).remap e = { (s.fn f).remap e with mask := false, pend := false } := by
  unfold State.unmask; dsimp only; split <;> simp

theorem State.unmask_hostOut (s : State) (f : HostFn) (e : Nat) :
    (s.unmask f e).hostOut = s.hostOut ++ if ((s.fn f).remap e).pend then [.message ((s.fn f).remap e).addr ((s.fn f).remap e).data] else [] := by
  unfold State.unmask; dsimp only; split <;> simp

theorem unmask_runs (hu : s.fnUp fn = true) (hn : n < 16) : runs (.evMsixUnmask fn n) s (s.unmask fn n) := by
  rw [runs, exec_evMsixUnmask]; simp [execEvMsixUnmask, hu, hn]

theorem revoke_clears (hu : s.fnUp fn = true) (hn : n < 64) :
    ∃ t, runs (.evPasidRevoke fn n) s t ∧ mget 0 (t.fn fn).pasids n = mget 0 (s.fn fn).pasids n &&& ~~~0x8000000000000000 := by
  refine ⟨s.setFn fn { s.fn fn with pasids := mput (s.fn fn).pasids n (mget 0 (s.fn fn).pasids n &&& ~~~0x8000000000000000#64) }, ?_, by simp⟩
  rw [runs, exec_evPasidRevoke, execEvPasidRevoke]
  dsimp only; rw [if_neg (by simp [hu]; omega)]

/-! CSRs of a hart (R297; log 8). -/

/-- The state in which a write of a CSR of a core acts. -/
def State.atCore (s : State) (core : Nat) : State := { s with cur := ⟨s.cur.cell, s.cur.ctx, core⟩ }
@[simp] theorem State.atCore_hx (s : State) (core : Nat) : (s.atCore core).hx = s.hart core := rfl

@[simp] theorem State.atCore_setHx_hart (s : State) (core : Nat) (h : Hart) : ((s.atCore core).setHx h).hart core = h :=
  (State.setHart_hart ..).trans (if_pos rfl)
@[simp] theorem State.took_hart (s : State) (core : Nat) : s.took.hart core = s.hart core := rfl

/-- A write of a hart's CSR is an access of that hart. -/
theorem hartCsr_runs (num : Nat) (w : Word) (hc : core < 128) (hm : (s.hart core).moves = true) :
    runs (.evRegisterWrite (.hartCsr core num) w) s
      ((s.atCore core).hartEnd ((s.atCore core).csrAccess num ((Config.freeBits s.free).setWidth 64) (some fun _ => w) fun u _ => u)).took := by
  have hb : ¬(Config.cores ≤ core ∨ (!(s.atCore core).hx.moves) = true) := by
    rw [State.atCore_hx, hm]; simp [Config.cores]; omega
  rw [runs, exec_evRegisterWrite]
  exact congrArg Host.Outcome.next (if_neg hb)

theorem hartCsr_writes (w : Word) (hc : core < 128) (hm : (s.hart core).moves = true) (hn : csrOf (s.hart core).mode num = num)
    (hl : (s.atCore core).csrIllegal num true = false) :
    ∃ t, runs (.evRegisterWrite (.hartCsr core num) w) s t ∧ t.hart core = (s.hart core).setCsr num w := by
  refine ⟨_, hartCsr_runs num w hc hm, ?_⟩
  rw [State.csrAccess]; simp [hn, hl, State.hartEnd]

/-- A write of a CSR that the hart's mode may not write raises an illegal instruction. -/
theorem hartCsr_refused (w : Word) (hc : core < 128) (hm : (s.hart core).moves = true) (hn : csrOf (s.hart core).mode num = num)
    (hl : (s.atCore core).csrIllegal num true = true) :
    ∃ (t : State) (tval : Word), runs (.evRegisterWrite (.hartCsr core num) w) s t ∧ t.hart core = (s.hart core).take ⟨2, tval, none⟩ (s.hart core).pc := by
  refine ⟨_, (Config.freeBits s.free).setWidth 64, hartCsr_runs num w hc hm, ?_⟩
  rw [State.csrAccess]; simp [hn, hl, State.hartEnd, State.exc]

/-- The CSRs of Xenx are those of no other number (R297). -/
theorem csrOf_xenx (mode : HartMode) (h : num = 0x800 ∨ num = 0x5C0 ∨ num = 0x5C1 ∨ num = 0x5C2) : csrOf mode num = num :=
  if_neg fun hc => by omega

theorem enxmode_legal (s : State) : s.csrIllegal 0x800 true = false := by
  simp [State.csrIllegal, State.hartCsr, csrLevel, nbits]

/-- The other CSRs of Xenx are below no mode but U and VU. -/
theorem xenx_legal (s : State) (h : num = 0x5C0 ∨ num = 0x5C1 ∨ num = 0x5C2) : s.csrIllegal num true = s.hx.mode.user := by
  cases hm : s.hx.mode <;> rcases h with rfl | rfl | rfl <;>
    simp [State.csrIllegal, State.hartCsr, csrLevel, nbits, hm, HartMode.level, HartMode.user]

/-- What a hart in U mode becomes by an illegal instruction (R299; log 8). -/
theorem take_illegal_of_user (s : State) (tval : Word) (hu : s.hx.mode = .u) :
    s.hx.take ⟨2, tval, none⟩ s.hx.pc = (excepts s 2 tval none).hx := by
  have hto : s.hx.trapTo 2 = exceptTo s.hx 2 := by simp [Hart.trapTo, exceptTo, Hart.delegates, hu, HartMode.virt]
  by_cases hd : (mget 0 s.hx.csrs 0x302).getLsbD 2 = false
  · have he : exceptTo s.hx 2 = .m := if_pos (.inr hd)
    rw [he] at hto
    simp only [Hart.take, hto, excepts, he]
    simp [State.setHx, State.hx, Hart.noteVirt, Hart.regsOf, Hart.setRegsOf, tvecBase]
  · have he : exceptTo s.hx 2 = .s := by
      rw [exceptTo, if_neg fun h => h.elim (by simp [hu]) hd, if_neg (by simp [hu])]
    rw [he] at hto
    replace hu : (s.hart s.cur.core).mode = .u := hu
    simp only [Hart.take, hto, excepts, he]
    simp [State.setHx, State.hx, Hart.noteVirt, Hart.regsOf, Hart.setRegsOf, tvecBase, hu, HartMode.virt]

/-! Registers of a function, written. -/

theorem queueRegister_runs (w : Word) (off : Nat) (hu : s.fnUp fn = true) (hq : qi < 8) :
    runs (.evRegisterWrite (.queue fn qi off) w) s (s.setFn fn ((s.fn fn).setQueue qi (((s.fn fn).queue qi).write off w))) := by
  rw [runs, exec_evRegisterWrite]; simp [execEvRegisterWrite, hu, hq]

theorem remapRegister_runs (w : Word) (word : Nat) (hu : s.fnUp fn = true) (hn : n < 16) :
    runs (.evRegisterWrite (.remap fn n word) w) s (s.writeRemap fn n word w) := by
  rw [runs, exec_evRegisterWrite]; simp [execEvRegisterWrite, hu, hn]

theorem pasidRegister_runs (w : Word) (hu : s.fnUp fn = true) (hn : n < 64) :
    runs (.evRegisterWrite (.pasid fn n) w) s (s.setFn fn { s.fn fn with pasids := mput (s.fn fn).pasids n (w &&& 0x80000000000FFFFF) }) := by
  rw [runs, exec_evRegisterWrite]; simp [execEvRegisterWrite, hu, hn]

/-- A register of a queue interface takes what R403 says. -/
theorem QueueI.write_eq {q q' : QueueI} {off : Nat} {w : Word} (h : (off, q') ∈ [(0, { q with qbase := w &&& ~~~63 }),
      (8, { q with qlog := (w.setWidth 8).toNat }), (0x10, { q with cbase := w &&& ~~~15 }), (0x18, q), (0x20, { q with ivec := (w.setWidth 5).toNat }), (0x28, q)]) :
    q.write off w = q' := by
  simp only [List.mem_cons, Prod.mk.injEq, List.not_mem_nil, or_false] at h
  obtain ⟨rfl, rfl⟩ | ⟨rfl, rfl⟩ | ⟨rfl, rfl⟩ | ⟨rfl, rfl⟩ | ⟨rfl, rfl⟩ | ⟨rfl, rfl⟩ := h <;> simp [QueueI.write, nbits]

/-- Word 0 of a remap entry is its address, word 1 its data and MASK; clearing MASK lets a pending message leave (R404). -/
theorem remapRegister_writes (w : Word) (hu : s.fnUp fn = true) (hn : n < 16) :
    let r := (s.fn fn).remap n
    (∃ t, runs (.evRegisterWrite (.remap fn n 0) w) s t ∧ (t.fn fn).remap n = { r with addr := w } ∧ t.hostOut = s.hostOut)
    ∧ (w.getLsbD 32 = true → ∃ t, runs (.evRegisterWrite (.remap fn n 1) w) s t ∧ (t.fn fn).remap n = { r with data := w.setWidth 32, mask := true }
      ∧ t.hostOut = s.hostOut)
    ∧ (w.getLsbD 32 = false → ∃ t, runs (.evRegisterWrite (.remap fn n 1) w) s t
      ∧ (t.fn fn).remap n = { r with data := w.setWidth 32, mask := false, pend := false }
      ∧ t.hostOut = s.hostOut ++ if r.pend then [.message r.addr (w.setWidth 32)] else [])
    ∧ ∀ k, 2 ≤ k → runs (.evRegisterWrite (.remap fn n k) w) s s := by
  intro r
  refine ⟨⟨_, remapRegister_runs w 0 hu hn, ?_, ?_⟩, fun hw => ⟨_, remapRegister_runs w 1 hu hn, ?_, ?_⟩,
    fun hw => ⟨_, remapRegister_runs w 1 hu hn, ?_, ?_⟩, fun k hk => ?_⟩
  · simp [State.writeRemap, r]
  · simp [State.writeRemap]
  · rw [State.writeRemap]; simp only [hw, if_true]; simp [r]
  · rw [State.writeRemap]; simp only [hw, if_true]; simp
  · rw [State.writeRemap]; simp only [hw]; simp [State.unmask_remap, r]
  · rw [State.writeRemap]; simp only [hw]; simp [State.unmask_hostOut, r]
  · obtain ⟨j, rfl⟩ := Nat.exists_eq_add_of_le' hk
    exact remapRegister_runs w (j + 2) hu hn

/-! Registers of a function, read (R400, R403, R404, R409). -/

/-- A read of BAR0 on the function's own port is answered with what the register holds. -/
theorem bar0_runs {off : Nat} {v : Word} (ht : s.trained = true) (hu : s.fnUp fn = true) (hp : fnPort fn < 2) (hv : s.bar0 fn off = v) :
    runs (.evConfigurationRequest (fnPort fn) (.readBar0 fn off)) s (s.emit (.bar0 fn off v)) := by
  rw [runs, exec_evConfigurationRequest, ← hv]
  simp [execEvConfigurationRequest, ht, hu]; omega

theorem bar0_queue (s : State) (fn : HostFn) {qi off : Nat} (hq : qi < 8) (ho : off < 0x100) (h8 : off % 8 = 0) :
    s.bar0 fn (0x100 * qi + off) = ((s.fn fn).queue qi).read off := by
  have hal : (0x100 * qi + off) / 8 * 8 = 0x100 * qi + off := by omega
  unfold State.bar0; simp only [hal]
  rw [if_pos (by omega)]
  congr 1
  · congr 1; omega
  · omega

theorem bar0_remap (s : State) (fn : HostFn) {n word off : Nat} (hn : n < 16) (hw : word = 0 ∨ word = 8) (ho : off = 0x800 + 16 * n + word) :
    s.bar0 fn off = ((s.fn fn).remap n).read word := by
  have hal : off / 8 * 8 = off := by omega
  unfold State.bar0; simp only [hal]
  rw [if_neg (by omega), if_pos (by omega)]
  congr 1
  · congr 1; omega
  · omega

theorem bar0_pasid (s : State) (fn : HostFn) {n : Nat} (hn : n < 64) : s.bar0 fn (0x900 + 8 * n) = mget 0 (s.fn fn).pasids n := by
  have hal : (0x900 + 8 * n) / 8 * 8 = 0x900 + 8 * n := by omega
  unfold State.bar0; simp only [hal]
  rw [if_neg (by omega), if_neg (by omega), if_pos (by omega)]
  congr 1; omega

theorem bar0_revoked (s : State) (fn : HostFn) : s.bar0 fn 0xB00 = BitVec.ofNat 64 (s.fn fn).revoked := rfl
theorem bar0_bstat (s : State) (p : Nat) : s.bar0 (.pf p) 0xB08 = s.bstat.setWidth 64 := rfl
theorem bar0_plim (s : State) (p : Nat) : s.bar0 (.pf p) 0xB10 = BitVec.ofNat 64 s.plim := rfl

end Sys2Proof.Machine
end

section
/-! Windows (R401): the places of the bytes of a window, and what reading and writing them comes to. -/

namespace Sys2Proof.Machine
open Sys2Proof Sys2Proof.Claims

variable {s t : State} {g : Segment} {pid off n a : Nat}

/-! The runs of an access, line by line. -/

/-- A run is not empty, lies inside the access and inside one line. -/
theorem lineRuns_mem {f a n : Nat} {c : Nat × Nat} (h : c ∈ lineRuns f a n) :
    a ≤ c.1 ∧ c.1 + c.2 ≤ a + n ∧ 0 < c.2 ∧ c.1 % 64 + c.2 ≤ 64 := by
  induction f generalizing a n with
  | zero => exact absurd h List.not_mem_nil
  | succ f ih =>
    rw [lineRuns] at h
    split at h
    · exact absurd h List.not_mem_nil
    · rcases List.mem_cons.1 h with rfl | h
      · simp only; omega
      · have := ih h; omega

/-- Taken together the runs are the whole access, in its order. -/
theorem lineRuns_flatMap {α : Type} (F : Nat → α) {f a n : Nat} (hf : n ≠ 0 → a % 64 + n ≤ 64 * f) :
    (lineRuns f a n).flatMap (fun c => (List.range c.2).map fun i => F (c.1 + i)) = (List.range n).map fun k => F (a + k) := by
  induction f generalizing a n with
  | zero => obtain rfl : n = 0 := by omega
            rfl
  | succ f ih =>
    rw [lineRuns]
    split
    · next h => rw [h]; rfl
    · obtain ⟨m, hm⟩ : ∃ m, n = min n (64 - a % 64) + m := ⟨n - min n (64 - a % 64), by omega⟩
      have hrest : n - min n (64 - a % 64) ≠ 0 → (a + min n (64 - a % 64)) % 64 + (n - min n (64 - a % 64)) ≤ 64 * f := fun h => by
        rw [Nat.min_eq_right (by omega)]; omega
      dsimp only
      rw [List.flatMap_cons, ih hrest]
      conv_rhs => rw [hm, List.range_add, List.map_append, List.map_map]
      rw [show n - min n (64 - a % 64) = m by omega]
      simp [Function.comp_def, Nat.add_assoc]

/-- Every byte of an access lies in one of its runs. -/
theorem lineRuns_cover {f a n k : Nat} (hf : n ≠ 0 → a % 64 + n ≤ 64 * f) (hk : k < n) : ∃ c ∈ lineRuns f a n, c.1 ≤ a + k ∧ a + k < c.1 + c.2 := by
  have h : a + k ∈ (lineRuns f a n).flatMap fun c => (List.range c.2).map fun i => c.1 + i := by
    rw [lineRuns_flatMap (fun x => x) hf]; exact List.mem_map.2 ⟨k, List.mem_range.2 hk, rfl⟩
  obtain ⟨c, hc, hx⟩ := List.mem_flatMap.1 h
  obtain ⟨i, hi, hx⟩ := List.mem_map.1 hx
  have := List.mem_range.1 hi
  exact ⟨c, hc, by omega, by omega⟩

/-! The places of a window (R374, R401). -/

/-- The place of an offset of a window that reaches it. -/
def windowLoc (g : Segment) (off : Nat) : Loc := physLoc (windowPa g off) (decide (g.hsize ≤ off))
@[simp] theorem windowLoc_pa (g : Segment) (off : Nat) : (windowLoc g off).pa = windowPa g off := rfl

/-- What segOk says, in numbers: both parts are whole blocks, the one below 2^39 and the other from 2^41 on (R374). -/
theorem segOk_bounds (h : segOk g = true) : g.hbase % 64 = 0 ∧ g.hsize % 64 = 0 ∧ g.lbase % 64 = 0 ∧ g.lsize % 64 = 0
    ∧ g.hbase + g.hsize ≤ 0x8000000000 ∧ (g.lsize = 0 ∨ 0x20000000000 ≤ g.lbase ∧ g.lbase + g.lsize ≤ 0x40000000000) := by
  simp only [segOk, Bool.and_eq_true, Bool.or_eq_true, decide_eq_true_eq] at h
  omega

theorem windowIa_beyond (h : g.hsize + g.lsize ≤ a) : windowIa g a = none := by
  rw [windowIa, if_neg (by omega), if_neg (by omega)]

/-- An offset that a window reaches has its place. -/
theorem windowIa_place (hg : segOk g = true) (ha : a < g.hsize + g.lsize) :
    (windowIa g a).bind (stage2 g) = some (windowPa g a, decide (g.hsize ≤ a)) := by
  obtain ⟨-, -, -, -, hh, hl⟩ := segOk_bounds hg
  by_cases h : a < g.hsize
  · have hm : inMemory (g.hbase + a) = true := by simp [inMemory]; omega
    have hd : ¬g.hsize ≤ a := by omega
    simp [windowIa, windowPa, stage2, h, hm, hd]
  · have hm : inMemory (g.lbase + (a - g.hsize)) = true := by simp [inMemory]; omega
    have hd : g.hsize ≤ a := by omega
    have h1 : ¬0x20000000000 + (a - g.hsize) < g.hsize := by omega
    have h2 : a - g.hsize < g.lsize := by omega
    simp only [windowIa, windowPa, stage2, h, ha, if_false, if_true, Option.bind_some, h1]
    rw [if_pos (by omega), Nat.add_sub_cancel_left, if_pos hm]; simp [hd]

/-- Inside a run of one line a window is linear, and it keeps the place in the line. -/
theorem windowPa_run (hg : segOk g = true) {c i : Nat} (hfit : a % 64 + c ≤ 64) (hi : i < c) :
    windowPa g (a + i) = windowPa g a + i ∧ windowPa g a % 64 = a % 64 := by
  obtain ⟨h1, h2, h3, -⟩ := segOk_bounds hg
  unfold windowPa
  split <;> split <;> omega

/-- Two offsets that a window reaches have two places. -/
theorem windowPa_inj (hg : segOk g = true) {b : Nat} (ha : a < g.hsize + g.lsize) (hb : b < g.hsize + g.lsize) (h : windowPa g a = windowPa g b) : a = b := by
  obtain ⟨-, -, -, -, hh, hl⟩ := segOk_bounds hg
  unfold windowPa at h
  split at h <;> split at h <;> omega

/-- The step of windowPlaces over the runs of an access. -/
theorem foldl_bind_some {α β : Type} (F : α → Option β) (G : α → β) (l : List α) (acc : List β) (h : ∀ c ∈ l, F c = some (G c)) :
    l.foldl (fun acc c => acc.bind fun ls => (F c).map fun r => ls ++ [r]) (some acc) = some (acc ++ l.map G) := by
  induction l generalizing acc with
  | nil => simp
  | cons c t ih =>
    rw [List.foldl_cons]
    simp only [Option.bind_some, h c List.mem_cons_self, Option.map_some]
    rw [ih _ fun d hd => h d (List.mem_cons_of_mem _ hd)]; simp

theorem foldl_bind_none {α β : Type} (F : α → Option β) (l : List α) (acc : Option (List β)) (h : acc = none ∨ ∃ c ∈ l, F c = none) :
    l.foldl (fun acc c => acc.bind fun ls => (F c).map fun r => ls ++ [r]) acc = none := by
  induction l generalizing acc with
  | nil => simpa using h
  | cons c t ih =>
    rw [List.foldl_cons]
    refine ih _ ?_
    rcases h with rfl | ⟨d, hd, hn⟩
    · exact .inl rfl
    · rcases List.mem_cons.1 hd with rfl | hd
      · left; rw [hn]; cases acc <;> rfl
      · exact .inr ⟨d, hd, hn⟩

/-- The place of a run and its length. -/
def windowRun (g : Segment) (c : Nat × Nat) : Option (Loc × Nat) := ((windowIa g c.1).bind (stage2 g)).map fun r => (physLoc r.1 r.2, c.2)

theorem windowPlaces_eq (g : Segment) (off n : Nat) : windowPlaces g off n =
    (lineRuns (n / 64 + 2) off n).foldl (fun acc c => acc.bind fun ls => (windowRun g c).map fun r => ls ++ [r]) (some []) := by
  unfold windowPlaces windowRun; simp only [Option.map_map, Function.comp_def]

theorem runs_suffice (off n : Nat) (_ : n ≠ 0) : off % 64 + n ≤ 64 * (n / 64 + 2) := by omega

/-- An access inside the window has the places of its runs. -/
theorem windowPlaces_inside (hg : segOk g = true) (h : off + n ≤ g.hsize + g.lsize) :
    windowPlaces g off n = some ((lineRuns (n / 64 + 2) off n).map fun c => (windowLoc g c.1, c.2)) := by
  rw [windowPlaces_eq, foldl_bind_some _ fun c => (windowLoc g c.1, c.2)]
  · rfl
  · intro c hc
    obtain ⟨h1, h2, h3, -⟩ := lineRuns_mem hc
    rw [windowRun, windowIa_place hg (by omega)]; rfl

/-- An access beyond the window has none. -/
theorem windowPlaces_beyond (hg : segOk g = true) (hn : n ≠ 0) (h : g.hsize + g.lsize < off + n) : windowPlaces g off n = none := by
  obtain ⟨-, h2, -, h4, -⟩ := segOk_bounds hg
  obtain ⟨c, hc, hl, hr⟩ := lineRuns_cover (k := n - 1) (runs_suffice off n) (by omega)
  obtain ⟨-, -, -, hfit⟩ := lineRuns_mem hc
  rw [windowPlaces_eq]
  exact foldl_bind_none _ _ _ (.inr ⟨c, hc, by rw [windowRun, windowIa_beyond (by omega)]; rfl⟩)

/-! Reading a window. -/

/-- A read at the home changes no byte of the coherent memory: a dirty holder keeps its data (R387). -/
@[simp] theorem State.snoopRead_latest (s : State) (line x : Nat) : (s.snoopRead line).latest x = s.latest x := by
  unfold State.snoopRead
  split
  · next ag v h =>
    simp only [State.latest, State.snooped_dirOf, State.snooped_memByte, State.setDir_dirOf]
    by_cases hl : line = x / 64
    · subst hl; simp [DirE.dirty, h]
    · rw [if_neg hl]; rfl
  · rfl

@[simp] theorem State.allocIn_latest (s : State) (b p x : Nat) : (s.allocIn b p).latest x = s.latest x := by
  unfold State.allocIn; split <;> rfl
@[simp] theorem State.allocIn_poisoned (s : State) (b p m : Nat) : (s.allocIn b p).poisoned m = s.poisoned m := by
  unfold State.allocIn; split <;> rfl

/-- The state in which an access of a partition has allocated its lines (R391). -/
def State.allocAll (s : State) (pid : Nat) (ls : List (Loc × Nat)) : State := ls.foldl (fun s l => s.allocIn (homeBank l.1) pid) s

theorem State.allocAll_onlyMemory (s : State) (pid : Nat) (ls : List (Loc × Nat)) : OnlyMemory s (s.allocAll pid ls) :=
  .foldl _ ls s fun t _ => t.allocIn_onlyMemory _ _
@[simp] theorem State.allocAll_latest (s : State) (pid : Nat) (ls : List (Loc × Nat)) (x : Nat) : (s.allocAll pid ls).latest x = s.latest x :=
  foldl_keeps (fun t : State => t.latest x = s.latest x) _ _ _ rfl fun t b ht => by rw [State.allocIn_latest, ht]
@[simp] theorem State.allocAll_poisoned (s : State) (pid : Nat) (ls : List (Loc × Nat)) (m : Nat) : (s.allocAll pid ls).poisoned m = s.poisoned m :=
  foldl_keeps (fun t : State => t.poisoned m = s.poisoned m) _ _ _ rfl fun t b ht => by rw [State.allocIn_poisoned, ht]
@[simp] theorem State.allocAll_hostOut (s : State) (pid : Nat) (ls : List (Loc × Nat)) : (s.allocAll pid ls).hostOut = s.hostOut :=
  foldl_keeps (fun t : State => t.hostOut = s.hostOut) _ _ _ rfl fun t b ht => by unfold State.allocIn; split <;> exact ht

/-- The places of an access of a window. -/
def windowRuns (g : Segment) (off n : Nat) : List (Loc × Nat) := (lineRuns (n / 64 + 2) off n).map fun c => (windowLoc g c.1, c.2)

/-- The bytes at the places of an access are those of its offsets. -/
theorem placeBytes_window (s : State) (hg : segOk g = true) (off n : Nat) :
    s.placeBytes (windowRuns g off n) = (List.range n).map fun k => s.latest (windowPa g (off + k)) := by
  rw [← lineRuns_flatMap (fun x => s.latest (windowPa g x)) (runs_suffice off n), State.placeBytes, windowRuns, List.flatMap_map]
  refine List.flatMap_congr fun c hc => List.map_congr_left fun i hi => ?_
  obtain ⟨-, -, -, hfit⟩ := lineRuns_mem hc
  rw [(windowPa_run hg hfit (List.mem_range.1 hi)).1]; rfl

/-- A property of physical addresses that is one of their line holds of a run of an access when it holds of one of its bytes. -/
theorem windowRuns_any (hg : segOk g = true) (off n : Nat) (P : Nat → Prop) (hP : ∀ x y, x / 64 = y / 64 → P x → P y) :
    (∃ l ∈ windowRuns g off n, P l.1.pa) ↔ ∃ k < n, P (windowPa g (off + k)) := by
  have line : ∀ c ∈ lineRuns (n / 64 + 2) off n, ∀ x, c.1 ≤ x → x < c.1 + c.2 → windowPa g x / 64 = windowPa g c.1 / 64 := fun c hc x h1 h2 => by
    obtain ⟨-, -, -, hfit⟩ := lineRuns_mem hc
    obtain ⟨i, rfl⟩ := Nat.exists_eq_add_of_le h1
    obtain ⟨he, hm⟩ := windowPa_run hg hfit (i := i) (by omega)
    omega
  constructor
  · rintro ⟨l, hl, hp⟩
    obtain ⟨c, hc, rfl⟩ := List.mem_map.1 hl
    obtain ⟨h1, h2, h3, -⟩ := lineRuns_mem hc
    exact ⟨c.1 - off, by omega, by rw [show off + (c.1 - off) = c.1 by omega]; exact hp⟩
  · rintro ⟨k, hk, hp⟩
    obtain ⟨c, hc, h1, h2⟩ := lineRuns_cover (runs_suffice off n) hk
    exact ⟨_, List.mem_map.2 ⟨c, hc, rfl⟩, hP _ _ (line c hc _ h1 h2) hp⟩

/-- A run touches one line. -/
theorem granules_run {pa k : Nat} (hk : 0 < k) (hfit : pa % 64 + k ≤ 64) : granules pa k = [pa / 64] := by
  rw [granules, show (pa + k - 1) / 64 - pa / 64 + 1 = 1 by omega]; rfl

theorem windowRuns_fit (hg : segOk g = true) {l : Loc × Nat} (h : l ∈ windowRuns g off n) : 0 < l.2 ∧ l.1.pa % 64 + l.2 ≤ 64 := by
  obtain ⟨c, hc, rfl⟩ := List.mem_map.1 h
  obtain ⟨-, -, hp, hfit⟩ := lineRuns_mem hc
  have := (windowPa_run hg hfit hp).2
  exact ⟨hp, by simp only [windowLoc_pa]; omega⟩

theorem placeLines_window (hg : segOk g = true) (off n : Nat) : placeLines (windowRuns g off n) = (windowRuns g off n).map fun l => l.1.pa / 64 := by
  rw [placeLines, List.map_eq_flatMap]
  refine List.flatMap_congr fun l hl => ?_
  obtain ⟨hp, hfit⟩ := windowRuns_fit hg hl
  exact granules_run hp hfit

/-- A read tells of a poisoned line and of a failed staging slot among its bytes (R125, R389). -/
theorem window_bad_iff (s : State) (pid : Nat) (hg : segOk g = true) (off n : Nat) :
    ((placeLines (windowRuns g off n)).any s.poisoned || s.placeStaged pid StageSt.isFailed (windowRuns g off n)) = true
      ↔ ∃ k < n, s.poisoned (windowPa g (off + k) / 64) = true ∨ ∃ st, s.stageAt pid (windowPa g (off + k)) = some (.failed st) := by
  have hst : ∀ x y, x / 64 = y / 64 → s.stageAt pid x = s.stageAt pid y := fun x y h => by
    have : x / 4096 = y / 4096 := by omega
    unfold State.stageAt; rw [this]
  have hfail : ∀ o : Option StageSt, o.any StageSt.isFailed = true ↔ ∃ st, o = some (.failed st) := fun o => by
    rcases o with _ | _ | _ | _ <;> simp [StageSt.isFailed]
  rw [← windowRuns_any hg off n (fun x => s.poisoned (x / 64) = true ∨ ∃ st, s.stageAt pid x = some (.failed st))
    fun x y h hp => by rw [← h, ← hst x y h]; exact hp]
  rw [placeLines_window hg, Bool.or_eq_true, State.placeStaged, List.any_map, List.any_eq_true, List.any_eq_true]
  simp only [Function.comp_apply, hfail]
  constructor
  · rintro (⟨l, hl, h⟩ | ⟨l, hl, h⟩)
    · exact ⟨l, hl, .inl h⟩
    · exact ⟨l, hl, .inr h⟩
  · rintro ⟨l, hl, h | h⟩
    · exact .inl ⟨l, hl, h⟩
    · exact .inr ⟨l, hl, h⟩

end Sys2Proof.Machine
end

section
/-! Accesses of a window (R389, R401). -/

namespace Sys2Proof.Machine
open Sys2Proof Sys2Proof.Claims

variable {s t : State} {g : Segment} {pid off n a : Nat} {win : HostWin}

/-- The number of bytes of an access. -/
def accLength : HostAcc → Nat
  | .read len => len
  | .write bs => bs.length

/-- An access beyond the window does nothing. -/
theorem window_unreached (hw : s.winOf win = some (pid, g)) (hg : segOk g = true) (acc : HostAcc) (hn : accLength acc ≠ 0)
    (h : g.hsize + g.lsize < off + accLength acc) : runs (.evBar2Access win off acc) s s := by
  have hp := windowPlaces_beyond hg hn h
  rw [runs, exec_evBar2Access]; unfold execEvBar2Access
  cases acc <;> rw [accLength] at hp <;> simp only [hw, hp]

/-- A read of a window is answered with its bytes, after the snoops that it needs (R387, R401). -/
theorem window_read (hw : s.winOf win = some (pid, g)) (hg : segOk g = true) (h : off + n ≤ g.hsize + g.lsize) :
    ∃ t snoops bad, runs (.evBar2Access win off (.read n)) s t ∧ onlySnoops snoops ∧ (∀ x, t.latest x = s.latest x)
      ∧ t.hostOut = s.hostOut ++ snoops ++ [.readData win ((List.range n).map fun k => s.latest (windowPa g (off + k))) bad]
      ∧ (bad = true ↔ ∃ k < n, s.poisoned (windowPa g (off + k) / 64) = true ∨ ∃ st, s.stageAt pid (windowPa g (off + k)) = some (.failed st)) := by
  let u := s.allocAll pid (windowRuns g off n)
  let v := (placeLines (windowRuns g off n)).foldl State.snoopRead u
  let bad := (placeLines (windowRuns g off n)).any u.poisoned || u.placeStaged pid StageSt.isFailed (windowRuns g off n)
  have hv : ∀ x, v.latest x = s.latest x := fun x =>
    foldl_keeps (fun t : State => t.latest x = s.latest x) _ _ _ (s.allocAll_latest ..) fun t b ht => by rw [State.snoopRead_latest, ht]
  obtain ⟨m, hm, hout⟩ := (OnlyMemory.foldl State.snoopRead (placeLines (windowRuns g off n)) u State.snoopRead_onlyMemory).heard
  refine ⟨v.emit (.readData win (u.placeBytes (windowRuns g off n)) bad), m, bad, ?_, hm, hv, ?_, ?_⟩
  · rw [runs, exec_evBar2Access, execEvBar2Access]
    simp only [hw, windowPlaces_inside hg h]; rfl
  · rw [State.emit_hostOut, hout, State.allocAll_hostOut, placeBytes_window u hg]; simp only [u, State.allocAll_latest]
  · rw [window_bad_iff u pid hg]
    simp only [u, State.allocAll_poisoned, (s.allocAll_onlyMemory pid (windowRuns g off n)).stageAt]

/-! Writing a window. -/

theorem State.poisoned_lineWrite (s : State) (line : Nat) (ws : List (Nat × Byte)) (m : Nat) :
    (s.lineWrite line ws).poisoned m = if fullLine ws = true ∧ line = m then false else s.poisoned m := by
  have hp : (((s.snoopWrite line).memPut ws).endResv line).poison = s.poison := by
    rw [State.endResv_poison, State.memPut_poison, State.snoopWrite, State.setDir_poison]
    unfold State.collect
    split
    · rw [State.memPut_poison, s.tellInv_eq]
    · rw [s.tellInv_eq]
  unfold State.lineWrite; dsimp only
  split
  · next hf =>
    simp only [State.poisoned, hp, mget, mfind_mdel, hf, true_and]
    split <;> rfl
  · next hf => rw [if_neg fun h => hf h.1, State.poisoned, hp]; rfl

/-- A write at the home outside the staging slots marks no line, and one of all 64 bytes clears its line's mark (R389). -/
theorem State.poisoned_homeWrite (s : State) (line : Nat) (ws : List (Nat × Byte)) (m : Nat) (hs : s.slotPages line = []) :
    (s.homeWrite line ws).poisoned m = if fullLine ws = true ∧ line = m then false else s.poisoned m := by
  rw [State.homeWrite, hs]; exact s.poisoned_lineWrite line ws m

/-- The 64 bytes of a line are a whole line. -/
theorem fullLine_addrBytes {pa : Nat} {bs : List Byte} (hp : pa % 64 = 0) (hb : bs.length = 64) : fullLine (addrBytes pa bs) = true := by
  have hmap : ∀ (bs : List Byte) (pa : Nat), (addrBytes pa bs).map (fun w => w.1 % 64) = (List.range bs.length).map fun i => (pa + i) % 64 := by
    intro bs
    induction bs with
    | nil => intro pa; rfl
    | cons b t ih =>
      intro pa
      rw [addrBytes, List.map_cons, ih, List.length_cons, List.range_succ_eq_map, List.map_cons, List.map_map]
      refine congrArg₂ List.cons rfl (List.map_congr_left fun i _ => ?_)
      simp only [Function.comp_apply]; omega
  have hfold : ∀ (ws : List (Nat × Byte)) (m : BitVec 64), ws.foldl (fun m w => m ||| 1#64 <<< (w.1 % 64)) m
      = (ws.map fun w => w.1 % 64).foldl (fun m i => m ||| 1#64 <<< i) m := fun ws m => by rw [List.foldl_map]
  have hid : (List.range 64).map (fun i => (pa + i) % 64) = List.range 64 := by
    refine (List.map_congr_left fun i hi => ?_).trans (List.map_id _)
    have := List.mem_range.1 hi
    simp only [id]; omega
  rw [fullLine, hfold, hmap, hb, hid]
  decide

/-- One run of a write: its bytes are performed at their home, and the rest is left for the runs that follow. -/
def putRun (x : State × List Byte) (l : Loc × Nat) : State × List Byte :=
  (x.1.homeWrite (l.1.pa / 64) (addrBytes l.1.pa (x.2.take l.2)), x.2.drop l.2)

/-- What the runs of a write of the bytes bs from an offset a on leave, from s to t (R389, R401). -/
structure WindowWritten (g : Segment) (a : Nat) (bs : List Byte) (s t : State) : Prop where
  written : ∀ k < bs.length, t.latest (windowPa g (a + k)) = bs.getD k 0
  kept : ∀ x, (∀ k < bs.length, x ≠ windowPa g (a + k)) → t.latest x = s.latest x
  unmarked : ∀ m, s.poisoned m = false → t.poisoned m = false
  cleared : ∀ k, a ≤ 64 * k → 64 * k + 64 ≤ a + bs.length → t.poisoned (windowPa g (64 * k) / 64) = false

theorem WindowWritten.nil (s : State) : WindowWritten g a [] s s where
  written k hk := absurd hk (Nat.not_lt_zero k)
  kept x _ := rfl
  unmarked m h := h
  cleared k h1 h2 := by rw [List.length_nil] at h2; omega

/-- The first run of a write, and then the others. -/
theorem WindowWritten.cons (hg : segOk g = true) {bs : List Byte} {c : Nat} (hin : a + bs.length ≤ g.hsize + g.lsize)
    (hc : c = min bs.length (64 - a % 64)) (h0 : bs ≠ []) (hs : s.slotPages (windowPa g a / 64) = [])
    (ht : WindowWritten g (a + c) (bs.drop c) (s.homeWrite (windowPa g a / 64) (addrBytes (windowPa g a) (bs.take c))) t) :
    WindowWritten g a bs s t := by
  have hlen : 0 < bs.length := List.length_pos_iff.2 h0
  have htake : (bs.take c).length = c := by rw [List.length_take]; omega
  have hdrop : (bs.drop c).length = bs.length - c := List.length_drop
  have hfit : a % 64 + c ≤ 64 := by omega
  have hpa := (windowPa_run hg hfit (i := 0) (by omega)).2
  have hw := s.homeWrite_wroteBytes (windowPa g a) (bs.take c) (by rw [htake]; omega) hs
  have hmark := fun m => s.poisoned_homeWrite (windowPa g a / 64) (addrBytes (windowPa g a) (bs.take c)) m hs
  refine ⟨fun k hk => ?_, fun x hx => ?_, fun m hm => ht.unmarked m ?_, fun k h1 h2 => ?_⟩
  · by_cases hkc : k < c
    · rw [ht.kept _ fun j hj h => by
        have := windowPa_inj hg (by omega) (by omega) h
        omega, (windowPa_run hg hfit hkc).1, hw, if_pos (by omega), Nat.add_sub_cancel_left, List.getD_eq_getElem?_getD, List.getElem?_take_of_lt hkc,
        List.getD_eq_getElem?_getD]
    · obtain ⟨j, rfl⟩ := Nat.exists_eq_add_of_le (Nat.not_lt.1 hkc)
      rw [← Nat.add_assoc, ht.written j (by omega), List.getD_eq_getElem?_getD, List.getElem?_drop, List.getD_eq_getElem?_getD]
  · rw [ht.kept x fun j hj => by rw [Nat.add_assoc]; exact hx _ (by omega), hw, if_neg fun h => ?_]
    refine hx (x - windowPa g a) (by omega) ?_
    rw [(windowPa_run hg hfit (by omega)).1]; omega
  · rw [hmark]; split
    · rfl
    · exact hm
  · by_cases hk : a + c ≤ 64 * k
    · exact ht.cleared k hk (by omega)
    · obtain rfl : a = 64 * k := by omega
      refine ht.unmarked _ ?_
      rw [hmark, if_pos ⟨fullLine_addrBytes (by omega) (by rw [htake]; omega), rfl⟩]

/-- The runs of a write, one after the other. -/
theorem foldl_putRun (hg : segOk g = true) (f : Nat) {bs : List Byte} (hf : bs.length ≠ 0 → a % 64 + bs.length ≤ 64 * f)
    (hin : a + bs.length ≤ g.hsize + g.lsize) (hs : ∀ k < bs.length, s.slotPages (windowPa g (a + k) / 64) = []) :
    WindowWritten g a bs s (((lineRuns f a bs.length).map fun c => (windowLoc g c.1, c.2)).foldl putRun (s, bs)).1 := by
  induction f generalizing a bs s with
  | zero => obtain rfl : bs = [] := List.length_eq_zero_iff.1 (by omega)
            exact .nil s
  | succ f ih =>
    rw [lineRuns]
    split
    · next h => obtain rfl := List.length_eq_zero_iff.1 h
                exact .nil s
    · next h =>
      have hs0 := hs 0 (by omega)
      extract_lets c
      have hc : c = min bs.length (64 - a % 64) := rfl
      clear_value c
      rw [List.map_cons, List.foldl_cons, show bs.length - c = (bs.drop c).length from List.length_drop.symm]
      have hdrop : (bs.drop c).length = bs.length - c := List.length_drop
      refine .cons hg hin hc (fun hb => h (hb ▸ rfl)) hs0 (ih (fun h => ?_) (by omega) fun k hk => ?_)
      · have : c = 64 - a % 64 := by omega
        omega
      · rw [(State.homeWrite_onlyMemory s _ _).slotPages, Nat.add_assoc]; exact hs _ (by omega)

/-- A write of a window writes its bytes and no other, and clears the marks of the lines that it writes whole (R389, R401). -/
theorem window_write (hw : s.winOf win = some (pid, g)) (hg : segOk g = true) {bs : List Byte} (h : off + bs.length ≤ g.hsize + g.lsize)
    (hs : ∀ k < bs.length, s.slotPages (windowPa g (off + k) / 64) = []) :
    ∃ t, runs (.evBar2Access win off (.write bs)) s t ∧ (∀ k < bs.length, t.latest (windowPa g (off + k)) = bs.getD k 0)
      ∧ (∀ x, (∀ k < bs.length, x ≠ windowPa g (off + k)) → t.latest x = s.latest x)
      ∧ ∀ k, off ≤ 64 * k → 64 * k + 64 ≤ off + bs.length → t.poisoned (windowPa g (64 * k) / 64) = false := by
  let u := s.allocAll pid (windowRuns g off bs.length)
  have hu := s.allocAll_onlyMemory pid (windowRuns g off bs.length)
  have ht := foldl_putRun (s := u) hg (bs.length / 64 + 2) (runs_suffice off bs.length) h fun k hk => by rw [hu.slotPages]; exact hs k hk
  refine ⟨_, ?_, ht.written, fun x hx => (ht.kept x hx).trans (State.allocAll_latest ..), ht.cleared⟩
  rw [runs, exec_evBar2Access, execEvBar2Access]
  simp only [hw, windowPlaces_inside hg h]; rfl

end Sys2Proof.Machine
end

section
/-! The host's requests and registers: the parts of the statement, and the statement. -/

namespace Sys2Proof.Machine
open Sys2Proof Sys2Proof.Claims

variable {s u v : State} {fn : HostFn} {qi op : Nat} {req : BitVec 512} {l : Loc} {b : List Byte}

/-- The statuses that a request has before its object is good: 2 for a revoked PASID, 3 for an address that is misaligned, faults or is poisoned (R405;
log 30). -/
theorem request_statuses (i : Instr)
    (hi : (op, i) ∈ [(1, Instr.evRequestLaunch fn qi req), (2, .evRequestParcel fn qi req), (3, .evRequestResolve fn qi req), (4, .evRequestPoll fn qi req)])
    (hf : fetched s fn qi req op) :
    let r := vecBytes req
    let gives := fun (st : Nat) => ∃ t, runs i s t ∧ completed (s.fetchReq fn qi) t fn qi (rqRid r) st 0
      ∧ (st = 2 → (t.fn fn).revoked = min ((s.fn fn).revoked + 1) (2 ^ 64 - 1))
    ((s.fn fn).hasPasid (rqPasid r) = false → gives 2)
    ∧ ((s.fn fn).hasPasid (rqPasid r) = true →
      ((rqAddr r).toNat % rqSize op ≠ 0 → gives 3)
      ∧ ((rqAddr r).toNat % rqSize op = 0 → ∀ u, (s.fetchReq fn qi).hostLoc fn (rqNeed op) (rqAddr r) = (u, none) → gives 3)
      ∧ ∀ l u, located s fn qi req op l u →
        (readAt u fn op l).2.2 = true ∨ u.placeStaged ((u.fn fn).part.getD 31) StageSt.isFailed [(l, rqSize op)] = true → gives 3) := by
  intro r gives
  obtain ⟨body, hrun⟩ := request_row i hi hf
  have hfn : (s.fetchReq fn qi).fn fn = s.fn fn := State.fetchReq_fn s fn fn qi
  have three : ∀ w : State, HostSees (s.fetchReq fn qi) w →
      (s.fetchReq fn qi).vfRequest fn qi (rqNeed op) (rqSize op) r body = w.complete fn qi (rqRid r) 3 0 → gives 3 := fun w hw he =>
    ⟨_, hrun.trans (congrArg Host.Outcome.next he), hw.completed .., fun h => absurd h (by decide)⟩
  refine ⟨fun hp => ?_, fun hp => ⟨fun ha => ?_, fun ha u hl => ?_, fun l u hloc hbad => ?_⟩⟩
  · obtain ⟨hc, hr⟩ := revoked_completes (s.fetchReq fn qi) fn qi (rqRid r)
    rw [State.fetchReq_fn] at hr
    exact ⟨_, hrun.trans (congrArg Host.Outcome.next (State.vfRequest_revoked _ _ _ _ _ (by rw [hfn]; exact hp))), hc, fun _ => hr⟩
  · exact three _ (.refl _) (State.vfRequest_misaligned _ _ _ _ _ (by rw [hfn]; exact hp) ha)
  · have hu := (s.fetchReq fn qi).hostLoc_hostSees fn (rqNeed op) (rqAddr r)
    rw [hl] at hu
    exact three u hu (State.vfRequest_faults _ _ _ _ _ (by rw [hfn]; exact hp) ha hl)
  · refine three ((s.fetchReq fn qi).unwalk (readAt u fn op l).1) (.silent rfl rfl rfl) ((located_reads hloc body).trans (if_pos ?_))
    rw [Bool.or_eq_true]; exact hbad

/-- A parcel of a host: a refusal of the sender's own checks completes at once, and another parcel leaves (R303, R405). -/
theorem parcel_outcome (hloc : located s fn qi req 2 l u) (hr : readAt u fn 2 l = (v, b, false))
    (hs : u.placeStaged ((u.fn fn).part.getD 31) StageSt.isFailed [(l, rqSize 2)] = false) :
    let r := vecBytes req
    let pid := (u.fn fn).part.getD 31
    let h := BitVec.ofNat 32 (bnat b 0 4)
    let dest := (h.setWidth 16).toNat
    let chan := (h.extractLsb' 16 8).toNat
    (∀ k, v.refusesFrom pid (bnat b 0 4) = some k → ∃ t, runs (.evRequestParcel fn qi req) s t ∧ completed v t fn qi (rqRid r) (32 + k) 0)
    ∧ (v.refusesFrom pid (bnat b 0 4) = none → ∃ t f, runs (.evRequestParcel fn qi req) s t ∧ t.flights = v.flights ++ [f]
      ∧ ((t.fn fn).queue qi).busy = some f.id ∧ ((t.fn fn).queue qi).qhead = ((v.fn fn).queue qi).qhead ∧ f.part = pid
      ∧ f.parcel = mkParcel (mkHdr (mget 0 (v.fn fn).seqs (seqKey dest chan)).toNat false false (rqF8 r) pid (hostSrc fn) (h.extractLsb' 24 8).toNat chan dest)
          (b.drop 8)) := by
  intro r pid w dest chan
  refine ⟨fun k hk => parcel_refused hloc hr hs k hk, fun hk => ?_⟩
  obtain ⟨f, hfl, hid, hpart, hparcel⟩ := parcelLeft_flights v fn qi pid r b
  have hq := parcelLeft_queue v fn qi pid r b
  have hd : dest = nbits 0 16 (bnat b 0 4) := by simp only [dest, w, BitVec.toNat_setWidth, BitVec.toNat_ofNat, nbits]; omega
  have hc : chan = nbits 16 8 (bnat b 0 4) := by
    simp only [chan, w, BitVec.extractLsb'_toNat, BitVec.toNat_ofNat, nbits, Nat.shiftRight_eq_div_pow]; omega
  have ht : (w.extractLsb' 24 8).toNat = nbits 24 8 (bnat b 0 4) := by
    simp only [w, BitVec.extractLsb'_toNat, BitVec.toNat_ofNat, nbits, Nat.shiftRight_eq_div_pow]; omega
  exact ⟨_, f, parcel_leaves hloc hr hs hk, hfl, by rw [hq, hid], by rw [hq], hpart, by rw [hparcel, hd, hc, ht]⟩

/-- A resolution of a future by a host: its statuses, and what it writes and whom it releases (R43, R288, R405; log 30). -/
theorem resolve_outcome (h : located s fn qi req 3 l u) (hr : readAt u fn 3 l = (v, b, false))
    (hs : u.placeStaged ((u.fn fn).part.getD 31) StageSt.isFailed [(l, rqSize 3)] = false) :
    let r := vecBytes req
    let pid := (u.fn fn).part.getD 31
    let f : Fut := ⟨l, rqAddr r, bnat b 0 8, bnat b 8 8⟩
    let gives := fun (st : Nat) => ∃ t, runs (.evRequestResolve fn qi req) s t ∧ completed v t fn qi (rqRid r) st 0
    (fGen (rqHnd r).toNat ≠ fGen f.w0 → gives 4)
    ∧ (fGen (rqHnd r).toNat = fGen f.w0 → v.liveSlot pid f = none → gives 5)
    ∧ ∀ x va w dl q re inj, fGen (rqHnd r).toNat = fGen f.w0 → v.liveSlot pid f = some x → x.kind = .future va w dl q re inj →
        (f.w0 % 4 = 2 → gives 5)
        ∧ (f.w0 % 4 = 3 → gives 3)
        ∧ (f.w0 % 4 < 2 → gives 0)
        ∧ (f.w0 % 4 < 2 → q = none → l.pa % 16 = 0 → v.slotPages (l.pa / 64) = [] → ∃ t, runs (.evRequestResolve fn qi req) s t
          ∧ wroteBytes v t l.pa (leBytes 8 (fSlot f.w0 * 65536 + fGen f.w0 * 4 + 2) ++ leBytes 8 (rqVal r))
          ∧ releases v t (homeDie l) (fSlot f.w0) pid va (fSlot f.w0 * 65536 + fGen f.w0 * 4 + 2) (rqVal r) 0 [w]) := by
  intro r pid f gives
  have goes : ∀ {w : State} {st : Nat}, resolveEnd v pid r f (v.see pid f (rqHnd r)) = (w, st) →
      runs (.evRequestResolve fn qi req) s (w.complete fn qi (rqRid r) st 0) := fun he => resolve_runs h hr hs he
  have ends : ∀ {w : State} {st : Nat}, resolveEnd v pid r f (v.see pid f (rqHnd r)) = (w, st) → HostSees v w → gives st :=
    fun he hw => ⟨_, goes he, hw.completed ..⟩
  refine ⟨fun hg => ends (by rw [State.see_stale _ _ _ _ hg]; rfl) (.refl v),
    fun hg hl => ends (by rw [State.see_dead _ _ _ _ hg hl]; rfl) (.refl v), fun x va w dl q re inj hg hl hk => ?_⟩
  have hsee := State.see_live v pid f (rqHnd r) hg hl
  refine ⟨fun h2 => ends ?_ (.refl v), fun h3 => ends ?_ (.refl v), fun hp => ends ?_ (resolvedFut_hostSees v pid (rqVal r) f x), fun hp hq ha hsl => ?_⟩
  · rw [hsee, resolveEnd_resolved _ _ _ _ _ h2]
  · rw [hsee, resolveEnd_timedOut _ _ _ _ _ h3]
  · rw [hsee, resolveEnd_pending _ _ _ _ _ hp]
  · obtain ⟨hw, hrel⟩ := resolvedFut_unbound v pid (rqVal r) f x (hq ▸ hk) (State.liveSlot_pa hl) ha hsl
    exact ⟨_, goes (by rw [hsee, resolveEnd_pending _ _ _ _ _ hp]), wroteBytes_of_latest hw fun y => State.complete_latest ..,
      releases_to hrel (State.complete_flights ..) fun c => State.complete_hart ..⟩

/-- A write of a CSR of a hart (R8, R297; log 8). -/
theorem hartRegister_writes (s : State) (w : BitVec 64) :
    (∀ core, core < 128 → (s.hart core).moves = true →
      ∃ t, runs (.evRegisterWrite (.hartCsr core 0x800) w) s t ∧ t.hart core = { s.hart core with enxmode := w.getLsbD 0 })
    ∧ (∀ core, core < 128 → (s.hart core).moves = true → (s.hart core).mode.user = false →
        (∃ t, runs (.evRegisterWrite (.hartCsr core 0x5C0) w) s t ∧ t.hart core = { s.hart core with senxcause := w.setWidth 8 })
        ∧ (∃ t, runs (.evRegisterWrite (.hartCsr core 0x5C1) w) s t ∧ t.hart core = { s.hart core with capen := w.getLsbD 0 })
        ∧ ∃ t, runs (.evRegisterWrite (.hartCsr core 0x5C2) w) s t ∧ t.hart core = s.hart core)
    ∧ ∀ core, core < 128 → (s.hart core).moves = true → (s.hart core).mode = .u → ∃ (t : State) (tval : Word), runs (.evRegisterWrite (.hartCsr core 0x5C1) w) s t
        ∧ t.hart core = (excepts { s with cur := ⟨s.cur.cell, s.cur.ctx, core⟩ } 2 tval none).hart core := by
  refine ⟨fun core hc hm => ?_, fun core hc hm hu => ⟨?_, ?_, ?_⟩, fun core hc hm hu => ?_⟩
  · exact hartCsr_writes w hc hm (csrOf_xenx _ (by simp)) (enxmode_legal _)
  · exact hartCsr_writes w hc hm (csrOf_xenx _ (by simp)) ((xenx_legal _ (by simp)).trans hu)
  · exact hartCsr_writes w hc hm (csrOf_xenx _ (by simp)) ((xenx_legal _ (by simp)).trans hu)
  · exact hartCsr_writes w hc hm (csrOf_xenx _ (by simp)) ((xenx_legal _ (by simp)).trans hu)
  · obtain ⟨t, tval, hrun, ht⟩ := hartCsr_refused (num := 0x5C1) w hc hm (csrOf_xenx _ (by simp))
      ((xenx_legal (s.atCore core) (by simp)).trans (by rw [State.atCore_hx, hu]; rfl))
    have he : (excepts (s.atCore core) 2 tval none).cur = (s.atCore core).cur := by unfold excepts; dsimp only; split <;> rfl
    refine ⟨t, tval, hrun, ht.trans ((take_illegal_of_user (s.atCore core) tval hu).trans ?_)⟩
    rw [State.hx, he]; rfl

/-- The registers of BAR0 read as they stand (R8, R400, R403, R404, R409). -/
theorem bar0_reads (s : State) (fn : HostFn) (ht : s.trained = true) (hu : s.fnUp fn = true) (hp : fnPort fn < 2) :
    let reads := fun (off : Nat) (v : Word) => runs (.evConfigurationRequest (fnPort fn) (.readBar0 fn off)) s (s.emit (.bar0 fn off v))
    (∀ qi < 8, let q := (s.fn fn).queue qi
      reads (0x100 * qi) q.qbase ∧ reads (0x100 * qi + 8) (BitVec.ofNat 64 q.qlog) ∧ reads (0x100 * qi + 0x10) q.cbase ∧ reads (0x100 * qi + 0x18) (BitVec.ofNat 64 q.qhead)
        ∧ reads (0x100 * qi + 0x20) (BitVec.ofNat 64 q.ivec) ∧ reads (0x100 * qi + 0x28) (BitVec.ofNat 64 q.badn))
    ∧ (∀ n < 16, let r := (s.fn fn).remap n
      reads (0x800 + 16 * n) r.addr ∧ reads (0x808 + 16 * n) (BitVec.ofNat 64 (r.data.toNat + r.mask.toNat * 2 ^ 32 + r.pend.toNat * 2 ^ 33)))
    ∧ (∀ n < 64, reads (0x900 + 8 * n) (mget 0 (s.fn fn).pasids n))
    ∧ reads 0xB00 (BitVec.ofNat 64 (s.fn fn).revoked)
    ∧ ((∃ p, fn = .pf p) → reads 0xB08 (s.bstat.setWidth 64) ∧ reads 0xB10 (BitVec.ofNat 64 s.plim)) := by
  intro reads
  have read : ∀ {off v}, s.bar0 fn off = v → reads off v := fun h => bar0_runs ht hu hp h
  refine ⟨fun qi hq => ?_, fun n hn => ⟨read ((bar0_remap s fn hn (.inl rfl) rfl).trans rfl), read ((bar0_remap s fn hn (.inr rfl) ?_).trans rfl)⟩,
    fun n hn => read (bar0_pasid s fn hn), read (bar0_revoked s fn), ?_⟩
  · have queue : ∀ off, off < 0x100 → off % 8 = 0 → reads (0x100 * qi + off) (((s.fn fn).queue qi).read off) := fun off h1 h2 => read (bar0_queue s fn hq h1 h2)
    exact ⟨queue 0 (by decide) rfl, queue 8 (by decide) rfl, queue 0x10 (by decide) rfl, queue 0x18 (by decide) rfl, queue 0x20 (by decide) rfl,
      queue 0x28 (by decide) rfl⟩
  · omega
  · rintro ⟨p, rfl⟩
    exact ⟨read (bar0_bstat s p), read (bar0_plim s p)⟩

end Sys2Proof.Machine

namespace Sys2Proof.Proofs
open Sys2Proof Sys2Proof.Machine Sys2Proof.Claims

/-- Settles O37: each row of a request comes down to a completion from a state whose queue stands as before, each register to one field, and a window to the
runs of its lines. -/
theorem hostRequests : Obligations.HostRequests := by
  unfold Obligations.HostRequests
  refine ⟨malformed_completes, fun s fn qi req i op hi hf => request_statuses i hi hf, fun s fn qi req op l u v b hloc hr hs => ?_, resync_completes,
    notify_writes, fun s fn n hu hn => ?_, fun s fn n hu hn => revoke_clears hu hn, fun s w => ?_, bar0_reads, fun s win off pid g acc => ?_⟩
  · refine ⟨?_, ?_, ?_, ?_⟩ <;> rintro rfl
    · exact launch_completes hloc hr hs
    · exact poll_completes hloc hr hs
    · exact parcel_outcome hloc hr hs
    · exact resolve_outcome hloc hr hs
  · exact ⟨_, unmask_runs hu hn, s.unmask_remap fn n, s.unmask_hostOut fn n⟩
  · obtain ⟨henx, hxenx, hillegal⟩ := hartRegister_writes s w
    refine ⟨henx, hxenx, hillegal, fun fn qi hu hq off q' h => ⟨_, queueRegister_runs w off hu hq, ?_⟩, fun fn n hu hn => remapRegister_writes w hu hn,
      fun fn n hu hn => ⟨_, pasidRegister_runs w hu hn, by simp⟩⟩
    simp [← QueueI.write_eq h]
  · refine ⟨fun hw => ?_, fun hw hg => ?_⟩
    · rw [runs, exec_evBar2Access]; simp [execEvBar2Access, hw]
    · intro n
      have hn : n = accLength acc := by cases acc <;> rfl
      refine ⟨fun h0 h => window_unreached hw hg acc (hn ▸ h0) (hn ▸ h), fun h => ⟨?_, ?_⟩⟩
      · rintro len rfl; exact window_read hw hg h
      · rintro bs rfl hs; exact window_write hw hg h hs

end Sys2Proof.Proofs
end

section
/-! The frame of an access: what translations, fetches, drains and acquires of the cells change (R54, R107, R108, R135, R378), beside what an access to
memory does. -/

namespace Sys2Proof.Machine
open Sys2Proof Sys2Proof.Claims

/-- A context but for its store buffer and its engines' acquire horizons. -/
def Ctx.core (x : Ctx) : Ctx :=
  { x with sb := [], ex := { x.ex with horizon := 0 }, ea := { x.ea with horizon := 0 }, em := { x.em with horizon := 0 } }
/-- A cell but for its caches and its contexts. -/
def Cell.core (k : Cell) : Cell := { k with l1 := [], istore := [], itlb := [], dtlb := [], ctxs := [] }
/-- The state but for the cells, the shared TLBs, and what an access to memory may change. -/
def State.core (s : State) : State := { s.rest with cells := [], l2tlbs := [] }

/-- Each entry of the list of cells in t has the tag of its cell in s, or of an entry there. -/
def Entered (s t : State) : Prop := ∀ e ∈ t.cells, e.2.tag = (s.cell e.1).tag ∨ ∃ f ∈ s.cells, f.1 = e.1 ∧ f.2.tag = e.2.tag

namespace Entered

variable {s t u : State}

theorem of_cells (h : t.cells = s.cells) : Entered s t := fun e he => .inr ⟨e, h ▸ he, rfl, rfl⟩
theorem trans (h : Entered s t) (g : Entered t u) (ht : ∀ c, (t.cell c).tag = (s.cell c).tag) : Entered s u := fun e he => by
  rcases g e he with he | ⟨f, hf, h1, h2⟩
  · exact .inl (he.trans (ht _))
  · rw [← h1, ← h2]; exact h f hf
theorem setCell (s : State) (n : Nat) (k : Cell) (hk : k.tag = (s.cell n).tag) : Entered s (s.setCell n k) := fun e he => by
  rcases mem_mput _ _ _ _ he with rfl | he
  · exact .inl hk
  · exact .inr ⟨e, he, rfl, rfl⟩

end Entered

/-- From s to t nothing changed but memory and what belongs to it, and the caches, buffers and horizons of cell n. -/
structure Access (n : Nat) (s t : State) : Prop where
  core : t.core = s.core
  cell : ∀ c, (t.cell c).core = (s.cell c).core
  ctx : ∀ c k, (t.ctx c k).core = (s.ctx c k).core
  other : ∀ c, c ≠ n → t.cell c = s.cell c
  tags : Entered s t

namespace Access

variable {s t u : State} {n : Nat}

theorem refl (s : State) : Access n s s := ⟨rfl, fun _ => rfl, fun _ _ => rfl, fun _ _ => rfl, .of_cells rfl⟩
theorem trans (h : Access n s t) (g : Access n t u) : Access n s u :=
  ⟨g.core.trans h.core, fun c => (g.cell c).trans (h.cell c), fun c k => (g.ctx c k).trans (h.ctx c k),
    fun c hc => (g.other c hc).trans (h.other c hc), h.tags.trans g.tags fun c => by have e := congrArg Cell.tag (h.cell c); exact e⟩

/-- A fold of accesses is an access. -/
theorem foldl {β : Type} (f : State → β → State) (l : List β) (s : State) (hf : ∀ t b, Access n t (f t b)) : Access n s (l.foldl f s) :=
  foldl_keeps (fun t => Access n s t) f l s (refl s) fun t b ht => ht.trans (hf t b)

/-- An update of one cell that keeps its core and its contexts' cores. -/
theorem setCell (s : State) (n : Nat) (k : Cell) (hk : k.core = (s.cell n).core) (hx : ∀ j, (k.ctx j).core = (s.ctx n j).core) :
    Access n s (s.setCell n k) := by
  refine ⟨rfl, fun c => ?_, fun c j => ?_, fun c hc => by rw [State.setCell_cell, if_neg (Ne.symm hc)],
    .setCell s n k (by have e := congrArg Cell.tag hk; exact e)⟩
  · rw [State.setCell_cell]; split
    · next h => rw [hk, h]
    · rfl
  · rw [State.ctx, State.setCell_cell]; split
    · next h => rw [hx, h]
    · rfl

/-- An update of one context that keeps its core. -/
theorem setCtx (s : State) (n j : Nat) (x : Ctx) (hx : x.core = (s.ctx n j).core) : Access n s (s.setCtx n j x) := by
  refine setCell s n _ rfl fun i => ?_
  rw [Cell.setCtx_ctx]; split
  · next h => rw [hx, h]
  · rfl

theorem parts (h : Access n s t) : t.parts = s.parts := show t.core.parts = s.core.parts from congrArg State.parts h.core
theorem cur (h : Access n s t) : t.cur = s.cur := show t.core.cur = s.core.cur from congrArg State.cur h.core
theorem now (h : Access n s t) : t.now = s.now := show t.core.now = s.core.now from congrArg State.now h.core
theorem serial (h : Access n s t) : t.serial = s.serial := show t.core.serial = s.core.serial from congrArg State.serial h.core
theorem flights (h : Access n s t) : t.flights = s.flights := show t.core.flights = s.core.flights from congrArg State.flights h.core
theorem futs (h : Access n s t) : t.futs = s.futs := show t.core.futs = s.core.futs from congrArg State.futs h.core
theorem parks (h : Access n s t) : t.parks = s.parks := show t.core.parks = s.core.parks from congrArg State.parks h.core
theorem part (h : Access n s t) (p : Nat) : t.part p = s.part p := by rw [State.part, h.parts]; rfl
/-- What the running context's cell accesses next. -/
theorem trans_cur (h : Access s.cur.cell s t) (g : Access t.cur.cell t u) : Access s.cur.cell s u := h.trans (h.cur ▸ g)
theorem slotPages (h : Access n s t) (line : Nat) : t.slotPages line = s.slotPages line := by unfold State.slotPages; rw [h.parts]

/-- What the core of a cell or a context holds is kept. -/
theorem of_cell {α : Type} (h : Access n s t) (f : Cell → α) (hf : ∀ k, f k.core = f k) (c : Nat) : f (t.cell c) = f (s.cell c) := by
  rw [← hf, h.cell, hf]
theorem of_ctx {α : Type} (h : Access n s t) (f : Ctx → α) (hf : ∀ x, f x.core = f x) (c k : Nat) : f (t.ctx c k) = f (s.ctx c k) := by
  rw [← hf, h.ctx, hf]
theorem of_cl {α : Type} (h : Access n s t) (f : Cell → α) (hf : ∀ k, f k.core = f k) : f t.cl = f s.cl := by
  rw [State.cl, State.cl, h.cur]; exact h.of_cell f hf _
theorem of_cx {α : Type} (h : Access n s t) (f : Ctx → α) (hf : ∀ x, f x.core = f x) : f t.cx = f s.cx := by
  rw [State.cx, State.cx, h.cur]; exact h.of_ctx f hf _ _

theorem pid (h : Access n s t) : t.pid = s.pid := h.of_cl (·.tag) fun _ => rfl
theorem gr (h : Access n s t) (r : RegG) : t.cx.gr r = s.cx.gr r := h.of_cx (·.gr r) fun _ => rfl
theorem fmode (h : Access n s t) : t.cx.fmode = s.cx.fmode := h.of_cx (·.fmode) fun _ => rfl

end Access

theorem OnlyMemory.cells {s t : State} (h : OnlyMemory s t) : t.cells = s.cells := show t.rest.cells = s.rest.cells from congrArg State.cells h.rest
theorem OnlyMemory.access {n : Nat} {s t : State} (h : OnlyMemory s t) : Access n s t := by
  refine ⟨congrArg (fun z : State => { z with cells := [], l2tlbs := [] }) h.rest, fun c => ?_, fun c k => ?_, fun c _ => ?_, .of_cells h.cells⟩
  · rw [State.cell, h.cells]; rfl
  · rw [State.ctx, State.cell, h.cells]; rfl
  · rw [State.cell, h.cells]; rfl

/-! Acquires, drains and caches. -/

theorem State.acquire_access (s : State) (cell ctx : Nat) (e : Eng) : Access cell s (s.acquire cell ctx e) :=
  Access.setCtx s cell ctx _ (by cases e <;> rfl)

theorem State.tileCame_access (s : State) (cell ctx : Nat) (e : Eng) : Access cell s (s.tileCame cell ctx e) := by
  unfold State.tileCame; split
  · exact s.acquire_access _ _ _
  · exact .refl s

theorem State.took_access {n : Nat} (s : State) : Access n s s.took := s.took_onlyMemory.access

theorem State.drainEntry_access (s : State) (cell ctx : Nat) (e : SbLine) : Access cell s (s.drainEntry cell ctx e) := by
  unfold State.drainEntry
  extract_lets x s1 s2
  have h1 : Access cell s s1 := Access.setCtx s cell ctx _ rfl
  have h2 : Access cell s1 s2 := Access.setCell s1 cell _ rfl fun _ => rfl
  exact ((h1.trans h2).trans (s2.homeWrite_onlyMemory _ _).access).trans (State.allocIn_onlyMemory _ _ _).access

theorem State.drainCtx_access (s : State) (cell ctx : Nat) : Access cell s (s.drainCtx cell ctx) :=
  .foldl _ _ s fun t e => t.drainEntry_access cell ctx e

theorem State.drainFor_access (s : State) (cell ctx : Nat) (p : SbLine → Bool) : Access cell s (s.drainFor cell ctx p) :=
  .foldl _ _ s fun t e => t.drainEntry_access cell ctx e

theorem State.drainTo_access (s : State) (e : Eng) (l : Loc) : Access s.cur.cell s (s.drainTo e l) := by
  unfold State.drainTo; split <;> exact s.drainFor_access _ _ _

theorem State.rel_access (s : State) : Access s.cur.cell s s.rel := s.drainCtx_access _ _
theorem State.acq_access (s : State) (e : Eng) : Access s.cur.cell s (s.acq e) := s.acquire_access _ _ _
theorem State.acqrel_access (s : State) (e : Eng) : Access s.cur.cell s (s.acqrel e) := s.rel_access.trans_cur (State.acq_access _ e)
theorem State.homeRead_access {cell : Nat} (s : State) (pa n : Nat) : Access cell s (s.homeRead pa n).1 := (s.homeRead_onlyMemory pa n).access

/-! Translations. -/

theorem State.tlbFill_access (s : State) (cell : Nat) (need : Need) (e : TlbE) : Access cell s (s.tlbFill cell need e) := by
  refine Access.trans (Access.setCell s cell _ ?_ fun j => ?_) (State.took_access _)
  · cases need <;> rfl
  · cases need <;> rfl

theorem State.xlateBy_access (s : State) (touch : Option Nat) (cell : Nat) (kmode : Bool) (need : Need) (va : Word) :
    Access cell s (s.xlateBy touch cell kmode need va).left := by
  unfold State.xlateBy
  extract_lets c tlb l2 use
  have huse : ∀ (e : TlbE) (t : State), XRes.left (use e t) = t := fun e t => by unfold use; split <;> rfl
  have ht := (s.translate_onlyMemory c.tag touch kmode need false va).access (n := cell)
  split
  · exact .refl s
  split
  · rw [huse]; exact .refl s
  split
  · rw [huse]; exact s.tlbFill_access _ _ _
  split
  · next e => rw [e] at ht; exact ht
  · next e => rw [e] at ht; exact ht
  next e whole u he =>
  rw [he] at ht
  replace ht : Access cell s u := ht
  split
  · refine (ht.trans (u.tlbFill_access cell need e)).trans ?_
    exact ⟨rfl, fun _ => rfl, fun _ _ => rfl, fun _ _ => rfl, .of_cells rfl⟩
  · exact ht

theorem State.xlate_access (s : State) (cell : Nat) (kmode : Bool) (need : Need) (va : Word) : Access cell s (s.xlate cell kmode need va).left :=
  s.xlateBy_access _ _ _ _ _

theorem State.check_access {s t : State} {e : Eng} {acc : Nat} {need : Need} {va : Word} {size : Nat} {l : Loc}
    (h : s.check e acc need va size = .ok (l, t)) : Access s.cur.cell s t := by
  have hx := s.xlate_access s.cur.cell s.cx.kmode need va
  unfold State.check at h
  split at h
  · cases h
  split at h
  · cases h
  next l' u hu =>
  rw [hu] at hx
  replace hx : Access s.cur.cell s u := hx
  have ha : Access s.cur.cell s (u.allocIn (homeBank l') u.pid) := hx.trans (State.allocIn_onlyMemory _ _ _).access
  split at h
  · split at h
    · cases h
    · cases h
    · obtain ⟨rfl, rfl⟩ := Prod.mk.inj (Except.ok.inj h); exact ha.trans_cur (State.tileCame_access _ _ _ _)
    · obtain ⟨rfl, rfl⟩ := Prod.mk.inj (Except.ok.inj h); exact ha
  · obtain ⟨rfl, rfl⟩ := Prod.mk.inj (Except.ok.inj h); exact ha

theorem State.object_access {s u : State} {e : Eng} {va : Word} {n : Nat} {l : Loc} {o : List Byte} (h : s.object e va n = .ok (l, o, u)) : Access s.cur.cell s u := by
  unfold State.object at h
  split at h
  · cases h
  next l' t ht =>
  dsimp only at h
  split at h
  · cases h
  · obtain ⟨rfl, -, rfl⟩ : l' = l ∧ _ ∧ _ = u := by simpa using h
    exact ((State.check_access ht).trans_cur (t.acqrel_access e)).trans (State.homeRead_access _ _ _)

end Sys2Proof.Machine
end

section
/-! The store buffer performed (R108, R131), and the object of an operation (R130, R231, R342). -/

namespace Sys2Proof.Machine
open Sys2Proof Sys2Proof.Claims

variable {s t u : State}

/-! Draining. -/

/-- A write survives a filter by address where the filter lets it pass. -/
theorem written_filter (q : Nat → Bool) (ws : List (Nat × Byte)) (x : Nat) :
    written (ws.filter fun w => q w.1) x = if q x then written ws x else none := by
  induction ws with
  | nil => simp [written]
  | cons w t ih =>
    by_cases hq : q w.1 = true
    · rw [List.filter_cons, if_pos hq, written, written, ih]
      by_cases hx : q x
      · simp [hx]
      · have : w.1 ≠ x := fun h => hx (h ▸ hq)
        simp [hx, this]
    · rw [List.filter_cons, if_neg hq, ih, written]
      by_cases hx : q x
      · have : w.1 ≠ x := fun h => hq (h ▸ hx)
        simp only [hx, this, if_true, if_false]
        split <;> simp_all
      · simp [hx]

/-- The byte that one buffer entry holds for an address. -/
def SbLine.byteAt (e : SbLine) (x : Nat) : Option Byte :=
  if e.line = x / 64 ∧ e.mask.getLsbD (x % 64) = true then some ((vecBytes e.data).getD (x % 64) 0) else none

theorem SbLine.written_writes (e : SbLine) (x : Nat) : written e.writes x = e.byteAt x := by
  rw [SbLine.writes, written_filter (fun a => e.mask.getLsbD (a % 64)), written_addrBytes, length_vecBytes, SbLine.byteAt]
  by_cases hl : e.line = x / 64
  · have hr : 64 * e.line ≤ x ∧ x < 64 * e.line + 64 := by omega
    rw [if_pos hr, show x - 64 * e.line = x % 64 by omega]
    simp only [hl, true_and]
  · have hr : ¬(64 * e.line ≤ x ∧ x < 64 * e.line + 64) := by omega
    rw [if_neg hr, ite_self, if_neg fun h => hl h.1]

theorem SbLine.writes_line (e : SbLine) (w : Nat × Byte) (hw : w ∈ e.writes) : w.1 / 64 = e.line := by
  have := mem_addrBytes (List.mem_of_mem_filter hw)
  rw [length_vecBytes] at this; omega

theorem buffered_cons (e : SbLine) (sb : List SbLine) (x : Nat) : buffered (e :: sb) x = (buffered sb x).or (e.byteAt x) := by
  have step : ∀ (sb : List SbLine) (b : Option Byte),
      sb.foldl (fun b e => if e.line = x / 64 ∧ e.mask.getLsbD (x % 64) = true then some ((vecBytes e.data).getD (x % 64) 0) else b) b
        = (buffered sb x).or b := by
    intro sb
    induction sb with
    | nil => intro b; rfl
    | cons f t ih =>
      intro b
      rw [buffered, List.foldl_cons, List.foldl_cons, ih, ih]
      split
      · cases buffered t x <;> rfl
      · cases buffered t x <;> rfl
  rw [buffered, List.foldl_cons, step]; rfl

/-- An entry that is performed at its home. -/
theorem State.drainEntry_latest (s : State) (cell ctx : Nat) (e : SbLine) (h : s.slotPages e.line = []) (x : Nat) :
    (s.drainEntry cell ctx e).latest x = (e.byteAt x).getD (s.latest x) := by
  unfold State.drainEntry
  extract_lets y s1 s2
  rw [State.allocIn_latest, State.latest_homeWrite s2 _ _ x h e.writes_line, e.written_writes]; rfl

/-- It leaves its context's buffer, and no other context changes. -/
theorem State.drainEntry_ctx (s : State) (cell ctx c k : Nat) (e : SbLine) :
    (s.drainEntry cell ctx e).ctx c k = if cell = c ∧ ctx = k then { s.ctx c k with sb := (s.ctx c k).sb.erase e } else s.ctx c k := by
  unfold State.drainEntry
  extract_lets x s1 s2
  have h : ((s2.homeWrite e.line e.writes).allocIn e.bank (s2.cell cell).tag).cells = s2.cells :=
    ((s2.homeWrite_onlyMemory e.line e.writes).trans (State.allocIn_onlyMemory _ e.bank (s2.cell cell).tag)).cells
  have h1 : s2.ctx c k = s1.ctx c k := by
    simp only [s2, State.ctx, State.setCell_cell]; split
    · next hc => rw [hc]; rfl
    · rfl
  rw [State.ctx, State.cell, h]
  refine (show _ = s2.ctx c k from rfl).trans (h1.trans ?_)
  simp only [s1, State.setCtx_ctx]
  split
  · next hc => obtain ⟨rfl, rfl⟩ := hc; rfl
  · rfl

/-- Entries performed in the order of the buffer that holds just them. -/
theorem foldl_drainEntry (cell ctx : Nat) (sb : List SbLine) (hsb : (s.ctx cell ctx).sb = sb) :
    let t := sb.foldl (fun s e => s.drainEntry cell ctx e) s
    (∀ c k, t.ctx c k = if cell = c ∧ ctx = k then { s.ctx c k with sb := [] } else s.ctx c k)
      ∧ ((∀ e ∈ sb, s.slotPages e.line = []) → ∀ x, t.latest x = (buffered sb x).getD (s.latest x)) := by
  induction sb generalizing s with
  | nil =>
    refine ⟨fun c k => ?_, fun _ x => rfl⟩
    split
    · next h =>
      obtain ⟨rfl, rfl⟩ := h
      simp only [List.foldl_nil]; rw [← hsb]
    · rfl
  | cons e t ih =>
    have hc := s.drainEntry_ctx cell ctx
    obtain ⟨h1, h2⟩ := ih (s := s.drainEntry cell ctx e) (by rw [hc, if_pos ⟨rfl, rfl⟩, hsb]; simp)
    refine ⟨fun c k => ?_, fun hs x => ?_⟩
    · rw [List.foldl_cons, h1, hc]; split <;> rfl
    · have hacc := s.drainEntry_access cell ctx e
      rw [List.foldl_cons, h2 (fun f hf => by rw [hacc.slotPages]; exact hs f (List.mem_cons_of_mem _ hf)),
        s.drainEntry_latest _ _ _ (hs e List.mem_cons_self), buffered_cons]
      cases buffered t x <;> rfl

theorem State.drainCtx_ctx (s : State) (cell ctx c k : Nat) :
    (s.drainCtx cell ctx).ctx c k = if cell = c ∧ ctx = k then { s.ctx c k with sb := [] } else s.ctx c k :=
  (foldl_drainEntry cell ctx _ rfl).1 c k

theorem State.drainCtx_latest (s : State) (cell ctx : Nat) (h : ∀ e ∈ (s.ctx cell ctx).sb, s.slotPages e.line = []) (x : Nat) :
    (s.drainCtx cell ctx).latest x = (buffered (s.ctx cell ctx).sb x).getD (s.latest x) :=
  (foldl_drainEntry cell ctx _ rfl).2 h x

theorem State.rel_cx (s : State) : s.rel.cx = { s.cx with sb := [] } := by
  rw [State.cx, s.rel_access.cur, State.rel, State.drainCtx_ctx, if_pos ⟨rfl, rfl⟩]; rfl

/-- With nothing buffered there is nothing to perform. -/
theorem State.rel_of_nil (s : State) (h : s.cx.sb = []) : s.rel = s := by
  unfold State.rel State.drainCtx; rw [show (s.ctx s.cur.cell s.cur.ctx).sb = [] from h]; rfl

/-- The stores of the running context are performed, and X acquires. -/
theorem State.acqrel_cx (s : State) : (s.acqrel .x).cx = { s.cx with sb := [], ex := { s.cx.ex with horizon := s.now } } := by
  have h : (s.acqrel .x).cx = s.rel.cx.setEng .x { s.rel.cx.eng .x with horizon := s.rel.now } := State.setCx_cx s.rel _
  rw [h, s.rel_cx, s.rel_access.now]; rfl

theorem State.acqrel_allPerformed (s : State) (h : ∀ e ∈ s.cx.sb, s.slotPages e.line = []) : allPerformed s (s.acqrel .x) :=
  ⟨by rw [s.acqrel_cx], fun x => s.drainCtx_latest _ _ h x⟩

/-! Objects. -/

@[simp] theorem State.homeRead_latest (s : State) (pa n x : Nat) : (s.homeRead pa n).1.latest x = s.latest x := by simp [State.homeRead]
theorem State.homeRead_bytes (s : State) (pa n : Nat) : (s.homeRead pa n).2.1 = bytesAt s pa n := rfl

/-- Bytes that start a line and end in it have one poison mark. -/
theorem State.homeRead_poison (s : State) (pa n : Nat) (hn : 0 < n) (h : pa % 64 + n ≤ 64) : (s.homeRead pa n).2.2 = s.poisoned (pa / 64) := by
  rw [State.homeRead]; dsimp only
  rw [show (pa + n - 1) / 64 = pa / 64 by omega, Bool.or_self]

/-- An access that passes its checks outside the staging slots. -/
theorem State.check_homed {need : Need} {va : Word} {n : Nat} {l : Loc} (h : homed s need va n l t) (e : Eng) (acc : Nat) :
    s.check e acc need va n = .ok (l, t.allocIn (homeBank l) t.pid) := by
  obtain ⟨ha, hx, -, hst⟩ := h
  unfold State.check
  rw [if_neg (by omega), hx]; dsimp only
  split
  · rw [hst]
  · rfl

/-- An object that is reached was checked before. -/
theorem State.object_check {e : Eng} {va : Word} {n : Nat} {l : Loc} {o : List Byte} (h : s.object e va n = .ok (l, o, u)) :
    ∃ t, s.check e 3 .readWrite va n = .ok (l, t) := by
  unfold State.object at h
  split at h
  · cases h
  next l' t ht =>
  dsimp only at h
  split at h
  · cases h
  · obtain ⟨rfl, -, -⟩ : l' = l ∧ _ ∧ _ = u := by simpa using h
    exact ⟨t, ht⟩

/-! Instructions of X that run (R57, R209). -/

/-- An instruction of X whose guard is on and whose registers wait for nothing. -/
theorem xRun_settled {g : GuardP} {rs all : List RegG} {len : Nat} {body : State → Act State} (hg : guardOn s.cx g) (hs : settled s.cx all)
    (hsub : ∀ r ∈ rs, r ∈ all) : s.xRun g rs len body = s.finish .x len (body s) :=
  s.xRun_on g rs len body hg (s.cx.pending_false rs fun r hr => hs r (hsub r hr))

@[simp] theorem State.status_cx (s : State) (d : RegG) (n : Nat) : (s.status d n).cx = s.cx.setG d (BitVec.ofNat 64 n) := State.setCx_cx s _
theorem State.status_latest (s : State) (d : RegG) (n x : Nat) : (s.status d n).latest x = s.latest x := rfl

/-! Bytes written beside an object's words. -/

theorem wroteBytes_at {pa : Nat} {bs : List Byte} (h : wroteBytes u t pa bs) {i : Nat} (hi : i < bs.length) : t.latest (pa + i) = bs.getD i 0 := by
  rw [h, if_pos (by omega), Nat.add_sub_cancel_left]

end Sys2Proof.Machine
end

section
/-! Little-endian bytes (R5), and the header and payload of a parcel (R11). -/

namespace Sys2Proof
open Sys2Proof.Machine

/-! Bytes and numbers. -/

theorem leNat_append (a b : List Byte) : leNat (a ++ b) = leNat a + 256 ^ a.length * leNat b := by
  induction a with
  | nil => simp [leNat]
  | cons c t ih => rw [List.cons_append, leNat, leNat, ih, List.length_cons, pow_succ]; ring

theorem leNat_lt (b : List Byte) : leNat b < 256 ^ b.length := by
  induction b with
  | nil => simp [leNat]
  | cons c t ih =>
    have hc : c.toNat < 256 := c.isLt
    rw [leNat, List.length_cons, pow_succ]; omega

theorem leNat_leBytes (n w : Nat) : leNat (leBytes n w) = w % 256 ^ n := by
  induction n generalizing w with
  | zero => simp [leBytes, leNat, Nat.mod_one]
  | succ n ih =>
    rw [leBytes, leNat, ih, BitVec.toNat_ofNat, pow_succ' 256 n, Nat.mod_mul, show 2 ^ 8 = 256 from rfl]

theorem leBytes_leNat (b : List Byte) : leBytes b.length (leNat b) = b := by
  induction b with
  | nil => rfl
  | cons c t ih =>
    have hc : c.toNat < 256 := c.isLt
    rw [List.length_cons, leBytes, leNat, show (c.toNat + 256 * leNat t) / 256 = leNat t by omega, ih]
    congr 1
    apply BitVec.eq_of_toNat_eq
    rw [BitVec.toNat_ofNat]; omega

/-! Vectors. -/

theorem vecOf_toNat (b : List Byte) : (vecOf b).toNat = leNat (b.take 64) := by
  rw [vecOf, BitVec.toNat_ofNat]
  refine Nat.mod_eq_of_lt ((leNat_lt _).trans_le ?_)
  have : (b.take 64).length ≤ 64 := List.length_take_le 64 b
  calc 256 ^ (b.take 64).length ≤ 256 ^ 64 := Nat.pow_le_pow_right (by decide) this
    _ = 2 ^ 512 := by rw [show 256 = 2 ^ 8 from rfl, ← pow_mul]

/-- 64 bytes are those of their vector. -/
theorem vecBytes_vecOf {b : List Byte} (h : b.length = 64) : vecBytes (vecOf b) = b := by
  have ht : b.take 64 = b := List.take_of_length_le (by omega)
  rw [vecBytes, vecOf_toNat, ht]
  conv_lhs => rw [← h]
  exact leBytes_leNat b

theorem leNat_zeros (n : Nat) : leNat (zeros n) = 0 := by
  induction n with
  | zero => rfl
  | succ n ih => rw [zeros, List.replicate_succ, leNat]; rw [zeros] at ih; rw [ih]; rfl

/-- Fewer bytes are filled up with zeros. -/
theorem vecBytes_vecOf_le {b : List Byte} (h : b.length ≤ 64) : vecBytes (vecOf b) = b ++ zeros (64 - b.length) := by
  have hv : vecOf b = vecOf (b ++ zeros (64 - b.length)) := by
    apply BitVec.eq_of_toNat_eq
    rw [vecOf_toNat, vecOf_toNat, List.take_of_length_le h, List.take_of_length_le (by simp [zeros]; omega), leNat_append, leNat_zeros]; omega
  rw [hv, vecBytes_vecOf]
  simp [zeros]; omega

/-! Fields of a word as numbers. -/

theorem extract_toNat {w : Nat} (x : BitVec w) (lo n : Nat) : (x.extractLsb' lo n).toNat = nbits lo n x.toNat := by
  rw [BitVec.extractLsb'_toNat, nbits, Nat.shiftRight_eq_div_pow]
theorem setWidth_toNat {w : Nat} (x : BitVec w) (n : Nat) : (x.setWidth n).toNat = nbits 0 n x.toNat := by
  rw [BitVec.toNat_setWidth, nbits, pow_zero, Nat.div_one]

/-- A field below bit n of a number is a field of its low n bits. -/
theorem nbits_mod {lo n m : Nat} (h : lo + n ≤ m) (w : Nat) : nbits lo n (w % 2 ^ m) = nbits lo n w := by
  obtain ⟨k, rfl⟩ := Nat.exists_eq_add_of_le h
  rw [nbits, nbits, Nat.add_assoc, pow_add 2 lo, Nat.mod_mul_right_div_self, pow_add, Nat.mod_mul_right_mod]

theorem nbits_nbits {lo n m : Nat} (h : lo + n ≤ m) (w : Nat) : nbits lo n (nbits 0 m w) = nbits lo n w := by
  have : nbits 0 m w = w % 2 ^ m := by simp [nbits]
  rw [this, nbits_mod h]

theorem nbits_lt (lo n w : Nat) : nbits lo n w < 2 ^ n := Nat.mod_lt _ (Nat.two_pow_pos n)

theorem append_toNat {m n : Nat} (x : BitVec m) (y : BitVec n) : (x ++ y).toNat = x.toNat * 2 ^ n + y.toNat := by
  rw [BitVec.toNat_append, ← Nat.shiftLeft_add_eq_or_of_lt y.isLt, Nat.shiftLeft_eq]

end Sys2Proof

namespace Sys2Proof.Machine
open Sys2Proof Sys2Proof.Claims

/-! Headers. -/

/-- The header of R11 is built from its fields. -/
theorem header_eq (seq : BitVec 8) (cmpl trap f8 : Bool) (part : BitVec 5) (src : BitVec 16) (typ chan : BitVec 8) (dest : BitVec 16) :
    header seq cmpl trap f8 part src typ chan dest = mkHdr seq.toNat cmpl trap f8 part.toNat src.toNat typ.toNat chan.toNat dest.toNat := by
  apply BitVec.eq_of_toNat_eq
  have h1 := seq.isLt; have h2 := part.isLt; have h3 := src.isLt; have h4 := typ.isLt; have h5 := chan.isLt; have h6 := dest.isLt
  have h7 := cmpl.toNat_lt; have h8 := trap.toNat_lt; have h9 := f8.toNat_lt
  simp only [header, append_toNat, BitVec.toNat_ofBool, mkHdr, BitVec.toNat_ofNat]
  omega

/-- The fields of a header that the hardware writes. -/
theorem mkHdr_toNat (seq : Nat) (cmpl trap f8m : Bool) (part src typ chan dest : Nat) :
    (mkHdr seq cmpl trap f8m part src typ chan dest).toNat = dest % 65536 + chan % 256 * 2 ^ 16 + typ % 256 * 2 ^ 24 + src % 65536 * 2 ^ 32
      + part % 32 * 2 ^ 48 + f8m.toNat * 2 ^ 53 + trap.toNat * 2 ^ 54 + cmpl.toNat * 2 ^ 55 + seq % 256 * 2 ^ 56 := by
  have h7 := cmpl.toNat_lt; have h8 := trap.toNat_lt; have h9 := f8m.toNat_lt
  rw [mkHdr, BitVec.toNat_ofNat]; omega

section
variable (seq : Nat) (cmpl trap f8m : Bool) (part src typ chan dest : Nat)
theorem mkHdr_dest : hDest (mkHdr seq cmpl trap f8m part src typ chan dest) = dest % 65536 := by
  rw [hDest, mkHdr_toNat, nbits]; omega
theorem mkHdr_chan : hChan (mkHdr seq cmpl trap f8m part src typ chan dest) = chan % 256 := by
  rw [hChan, mkHdr_toNat, nbits]; omega
theorem mkHdr_type : hType (mkHdr seq cmpl trap f8m part src typ chan dest) = typ % 256 := by
  rw [hType, mkHdr_toNat, nbits]; omega
theorem mkHdr_low : nbits 0 32 (mkHdr seq cmpl trap f8m part src typ chan dest).toNat = dest % 65536 + chan % 256 * 2 ^ 16 + typ % 256 * 2 ^ 24 := by
  rw [mkHdr_toNat, nbits]; omega
end

/-- A parcel begins with its header. -/
theorem parcelHdr_mkParcel (h : Word) (p : List Byte) : parcelHdr (mkParcel h p) = h := by
  apply BitVec.eq_of_toNat_eq
  have hh := h.isLt
  have hlen : (leBytes 8 h.toNat ++ p.take 56).take 64 = leBytes 8 h.toNat ++ p.take 56 :=
    List.take_of_length_le (by rw [List.length_append, length_leBytes, List.length_take]; omega)
  rw [parcelHdr, mkParcel, BitVec.toNat_setWidth, vecOf_toNat, hlen, leNat_append, leNat_leBytes, length_leBytes]
  omega

/-- A parcel's payload follows its header. -/
theorem payload_mkParcel (h : Word) {p : List Byte} (hp : p.length = 56) : (vecBytes (mkParcel h p)).drop 8 = p := by
  have hl : (leBytes 8 h.toNat).length = 8 := length_leBytes 8 _
  rw [mkParcel, List.take_of_length_le (by omega), vecBytes_vecOf (by rw [List.length_append]; omega), List.drop_left' hl]

theorem length_payload (v : Vec) : ((vecBytes v).drop 8).length = 56 := by rw [List.length_drop, length_vecBytes]

end Sys2Proof.Machine
end

section
/-! Sending a parcel (R11 to R15, R270 to R272). -/

namespace Sys2Proof.Machine
open Sys2Proof Sys2Proof.Claims

variable {s t u : State}

/-- The low half of a general register, as the header bits that a send reads. -/
abbrev hdrBits (h : Word) : Nat := nbits 0 32 h.toNat

theorem hdrBits_dest (h : Word) : nbits 0 16 (hdrBits h) = (h.setWidth 16).toNat := by rw [nbits_nbits (by decide), setWidth_toNat]
theorem hdrBits_chan (h : Word) : nbits 16 8 (hdrBits h) = (h.extractLsb' 16 8).toNat := by rw [nbits_nbits (by decide), extract_toNat]
theorem hdrBits_type (h : Word) : nbits 24 8 (hdrBits h) = (h.extractLsb' 24 8).toNat := by rw [nbits_nbits (by decide), extract_toNat]

/-- The header that the running context would send (R11). -/
theorem ownHeader_eq (s : State) (seq : BitVec 8) (h : Word) : ownHeader s seq h = s.sendHdr (hdrBits h) seq.toNat := by
  rw [ownHeader, header_eq, State.sendHdr, hdrBits_dest, hdrBits_chan, hdrBits_type, BitVec.toNat_ofNat]
  unfold mkHdr
  rw [show s.pid % 2 ^ 5 % 32 = s.pid % 32 from Nat.mod_mod _ _]

/-- The sender's own checks (R12, R13, R272). -/
theorem refuses_eq (s : State) (h : Word) : s.refuses (hdrBits h) = refusal s h := by
  unfold State.refuses State.refusesFrom refusal
  rw [hdrBits_dest, hdrBits_type]
  cases hd : (s.part s.pid).destOk (h.setWidth 16).toNat <;> simp

theorem seqTo_eq (s : State) (h : Word) : s.cx.nextSeq (nbits 0 16 (hdrBits h)) (nbits 16 8 (hdrBits h)) = seqTo s h := by
  rw [hdrBits_dest, hdrBits_chan]; rfl

theorem refuse_eq {α : Type} (s : State) (h : Word) (k : Nat) :
    (s.refuse (hdrBits h) k : Act α) = s.trap ⟨refusalTrap k, 6, 0xFF, 0, ownHeader s (seqTo s h) h, 0⟩ := by
  rw [State.refuse, seqTo_eq, ownHeader_eq]; rfl

/-! An access keeps what a header says. -/

theorem Access.seqTo {n : Nat} (h : Access n s t) (w : Word) : Claims.seqTo t w = Claims.seqTo s w := h.of_cx (·.nextSeq _ _) fun _ => rfl
theorem Access.sendHdr {cell : Nat} (h : Access cell s t) (w n : Nat) : t.sendHdr w n = s.sendHdr w n := by
  rw [State.sendHdr, State.sendHdr, h.fmode, h.pid, h.of_cl (·.lcell) fun _ => rfl]

/-- A parcel takes a slot and leaves, behind the stores of its context (R15, R143). -/
theorem takeSlot_leaves (s : State) (h : Word) (v : Vec) (mk : Issuer → Origin) (nb : Bool) (hmk : ∀ i, mk i = if nb then .nb i else .ctx i) :
    parcelLeaves s.rel (s.takeSlot (hdrBits h) v mk) (ownHeader s (seqTo s h) h) v h nb ∧ (s.takeSlot (hdrBits h) v mk).cx.pend = s.rel.cx.pend := by
  have hrel := s.rel_access
  unfold State.takeSlot
  extract_lets r x dest chan seq p i q
  have hq : (q.launchFlight p q.pid (mk i)).cx = { x with out := x.out ++ [r.nextFlight], seqs := mput x.seqs (seqKey dest chan) (seq + 1) } :=
    State.setCx_cx r _
  have hseq : seq = Claims.seqTo r h := seqTo_eq r h
  have hp : parcelHdr p = ownHeader s (seqTo s h) h := by
    rw [parcelHdr_mkParcel, hseq, hrel.seqTo, hrel.sendHdr, ownHeader_eq]
  refine ⟨⟨⟨r.serial, p, q.pid, mk i, .way, q.pid, parcelHdr p, false⟩, i, rfl, rfl, rfl, hmk i, rfl, rfl, rfl, hp, ?_, ?_, ?_⟩, ?_⟩
  · exact payload_mkParcel _ (length_payload v)
  · rw [hq]; rfl
  · rw [Claims.seqTo, hq, Ctx.nextSeq]
    rw [show (h.setWidth 16).toNat = dest from (hdrBits_dest h).symm, show (h.extractLsb' 16 8).toNat = chan from (hdrBits_chan h).symm, mget_mput_self, hseq]
  · rw [hq]

end Sys2Proof.Machine

namespace Sys2Proof.Proofs
open Sys2Proof Sys2Proof.Machine Sys2Proof.Claims

/-- Settles O9: the sender's checks come first, then the slots, and a parcel that leaves takes one behind the stores of its context. -/
theorem sendTakesSlot : Obligations.SendTakesSlot := by
  unfold Obligations.SendTakesSlot
  intro s b a v g hg hs h
  have send := (exec_xSend v a g s).trans (congrArg Host.Outcome.next (xRun_settled hg hs (by simp)))
  have sendnb := (exec_xSendnb b v a g s).trans (congrArg Host.Outcome.next (xRun_settled hg hs (by simp)))
  dsimp only at send sendnb
  rw [refuses_eq] at send sendnb
  refine ⟨fun k hk => ?_, fun hk hfull => ?_, fun hk hroom => ?_⟩ <;> rw [hk] at send sendnb
  · dsimp only at send sendnb
    rw [refuse_eq] at send
    exact ⟨send, sendnb⟩
  · dsimp only at send sendnb
    rw [if_pos (show Config.outSlots ≤ _ from hfull)] at send sendnb
    exact ⟨send, sendnb⟩
  · dsimp only at send sendnb
    rw [if_neg (show ¬Config.outSlots ≤ _ from Nat.not_le.2 hroom)] at send sendnb
    obtain ⟨hleaves, hpend⟩ := takeSlot_leaves s h (s.cx.vr v) .ctx false fun _ => rfl
    obtain ⟨⟨f, i, hfl, hid, hleg, hfrom, hcell, hctx, hpc, hhdr, hpay, hout, hseq⟩, -⟩ := takeSlot_leaves s h (s.cx.vr v) .nb true fun _ => rfl
    refine ⟨⟨_, send, hleaves, hpend⟩, _, sendnb, ⟨f, i, hfl, hid, hleg, hfrom, hcell, hctx, hpc, hhdr, hpay, ?_, ?_⟩, fun hb => ?_⟩
    · rw [State.setCx_cx]; exact hout
    · rw [Claims.seqTo, State.setCx_cx]; exact hseq
    · rw [State.setCx_cx]
      simp only [if_neg hb]
      rw [s.rel_access.serial]; exact List.mem_append_right _ (List.mem_singleton.2 rfl)

end Sys2Proof.Proofs
end

section
/-! Continuations and parcels in flight (R45, R47), and an instruction on an object that it reaches (R130, R231, R290). -/

namespace Sys2Proof.Machine
open Sys2Proof Sys2Proof.Claims

variable {s t u : State}

/-! Parcels that leave. -/

theorem adds_of_flights (h : t.flights = u.flights) : adds u t [] := by rw [adds, h, List.append_nil]
theorem adds_launchFlight (s : State) (p : Vec) (part : Nat) (o : Origin) : adds s (s.launchFlight p part o) [p] := by
  simp [adds, State.launchFlight]
theorem adds_from {ps : List Vec} (h : adds t u ps) (hf : t.flights = s.flights) : adds s u ps := by rw [adds, ← hf]; exact h
theorem adds_trans {ps qs : List Vec} (h : adds s t ps) (g : adds t u qs) : adds s u (ps ++ qs) := by
  rw [adds] at h g ⊢; rw [g, h, List.append_assoc]

theorem State.sendCont_adds (s : State) (pid : Nat) (o : Origin) (c : Cont) (va : Word) (b w tokens : Nat) :
    adds s (s.sendCont pid o c va.toNat b w tokens) [contParcel pid c va b w tokens] := adds_launchFlight s _ _ _

/-- The running context stands in the cells. -/
theorem cx_of_cells (h : t.cells = s.cells) (hc : t.cur = s.cur) : t.cx = s.cx := by simp only [State.cx, State.ctx, State.cell, h, hc]

@[simp] theorem State.took_cx (s : State) : s.took.cx = s.cx := rfl
theorem OnlyMemory.cur (h : OnlyMemory s t) : t.cur = s.cur := (h.access (n := 0)).cur
theorem OnlyMemory.cx (h : OnlyMemory s t) : t.cx = s.cx := cx_of_cells h.cells h.cur
theorem OnlyMemory.pid (h : OnlyMemory s t) : t.pid = s.pid := (h.access (n := 0)).pid
theorem OnlyMemory.futs (h : OnlyMemory s t) : t.futs = s.futs := (h.access (n := 0)).futs
theorem OnlyMemory.now (h : OnlyMemory s t) : t.now = s.now := (h.access (n := 0)).now
theorem OnlyMemory.parks (h : OnlyMemory s t) : t.parks = s.parks := (h.access (n := 0)).parks
theorem State.putBytes_cx (s : State) (pa : Nat) (bs : List Byte) : (s.putBytes pa bs).cx = s.cx := (s.putBytes_onlyMemory pa bs).cx

/-- From s to t parcels leave, and the cells and the coherent memory stay. -/
structure OnlySends (s t : State) (ps : List Vec) : Prop where
  adds : adds s t ps
  cells : t.cells = s.cells
  cur : t.cur = s.cur
  latest : ∀ x, t.latest x = s.latest x

namespace OnlySends

theorem refl (s : State) : OnlySends s s [] := ⟨adds_of_flights rfl, rfl, rfl, fun _ => rfl⟩
theorem trans {ps qs : List Vec} (h : OnlySends s t ps) (g : OnlySends t u qs) : OnlySends s u (ps ++ qs) :=
  ⟨adds_trans h.adds g.adds, g.cells.trans h.cells, g.cur.trans h.cur, fun x => (g.latest x).trans (h.latest x)⟩

/-- What each step of a fold sends, in their order. -/
theorem foldl {β : Type} (f : State → β → State) (sends : β → List Vec) (hf : ∀ t b, OnlySends t (f t b) (sends b)) (l : List β) (s : State) :
    OnlySends s (l.foldl f s) (l.flatMap sends) := by
  induction l generalizing s with
  | nil => exact .refl s
  | cons b l ih => rw [List.foldl_cons, List.flatMap_cons]; exact (hf s b).trans (ih _)

end OnlySends

/-! Continuation descriptors (R45, R288). -/

theorem contOf_eq (w : Word) (f8 : Bool) : contOf w f8 = ⟨w.setWidth 16, w.extractLsb' 16 8, w.extractLsb' 24 8, f8⟩ := by
  have h : ∀ n, (w >>> n).setWidth 8 = w.extractLsb' n 8 := fun n => by
    apply BitVec.eq_of_toNat_eq
    simp [BitVec.extractLsb'_toNat]
  rw [contOf, h, h]

theorem contHeader_eq (s : State) (desc : Word) : contHeader s desc
    = mkHdr 0 false false s.cx.fmode s.pid 0xFFFF (nbits 24 8 desc.toNat) (nbits 16 8 desc.toNat) (nbits 0 16 desc.toNat) := by
  rw [contHeader, header_eq, extract_toNat, extract_toNat, setWidth_toNat, BitVec.toNat_ofNat]
  unfold mkHdr
  rw [show s.pid % 2 ^ 5 % 32 = s.pid % 32 from Nat.mod_mod _ _]; rfl

/-- A descriptor that fails its checks stops the instruction, with the header of the continuation (R288). -/
theorem finish_refuseWait (s t : State) (len : Nat) (desc : Word) (k : Nat) : s.finish .x len (t.refuseWait desc k) = waitRefused t desc k := by
  rw [waitRefused, contHeader_eq]; rfl

/-! Objects that are reached. -/

/-- An operation on an object of 16 bytes writes inside the object's line. -/
theorem object_line {pa : Nat} (h : pa % 16 = 0) {k : Nat} (hk : k < 16) : (pa + k) / 64 = pa / 64 := by omega

theorem State.putBytes_object (s : State) {pa k : Nat} {bs : List Byte} (h : pa % 16 = 0) (hk : k + bs.length ≤ 16) (hs : s.slotPages (pa / 64) = []) :
    wroteBytes s (s.putBytes (pa + k) bs) (pa + k) bs := by
  rcases Nat.lt_or_ge k 16 with hlt | hge
  · exact s.putBytes_wroteBytes _ _ (by omega) (by rw [object_line h hlt]; exact hs)
  · obtain rfl : bs = [] := List.length_eq_zero_iff.1 (by omega)
    intro x; rw [if_neg (by simp)]; rfl

theorem State.putBytes_object' (s : State) {pa : Nat} {bs : List Byte} (h : pa % 16 = 0) (hk : bs.length ≤ 16) (hs : s.slotPages (pa / 64) = []) :
    wroteBytes s (s.putBytes pa bs) pa bs := by
  have := s.putBytes_object (k := 0) (bs := bs) h (by omega) hs
  rwa [Nat.add_zero] at this

end Sys2Proof.Machine
end

section
/-! Barriers (R47, R290). -/

namespace Sys2Proof.Machine
open Sys2Proof Sys2Proof.Claims

variable {s t u : State}

/-- What a complete phase sends for one slot of the table (R47). -/
def phaseSends (pid pa phase now_ : Nat) (y : Nat × FSlot) : List Vec :=
  match y.2.kind with
  | .barrier va p c => if y.2.part = pid ∧ y.2.pa = pa ∧ p.toNat = phase then [contParcel pid c va now_ phase 0] else []
  | .future .. => []

/-- One slot of the table at the end of a phase. -/
def wakeSlot (pid die pa phase now_ : Nat) (s : State) (e : Nat × FSlot) : State :=
  match e.2.kind with
  | .barrier va p c => if e.2.part == pid && e.2.pa == pa && p.toNat == phase then (s.delSlot die e.1).barrierCont pid va now_ phase c else s
  | .future .. => s

theorem wakeSlot_sends (pid die pa phase now_ : Nat) (s : State) (e : Nat × FSlot) :
    OnlySends s (wakeSlot pid die pa phase now_ s e) (phaseSends pid pa phase now_ e) := by
  unfold wakeSlot phaseSends
  split
  · next va p c hk =>
    simp only [Bool.and_eq_true, beq_iff_eq, and_assoc]
    split
    · exact ⟨State.sendCont_adds (s.delSlot die e.1) .., rfl, rfl, fun _ => rfl⟩
    · exact .refl s
  · exact .refl s

/-- The waiters of a phase are sent their continuations. -/
theorem State.wakePhase_sends (s : State) (pid die pa phase now_ : Nat) :
    OnlySends s (s.wakePhase pid die pa phase now_) ((mget [] s.futs die).flatMap (phaseSends pid pa phase now_)) :=
  .foldl (wakeSlot pid die pa phase now_) _ (wakeSlot_sends pid die pa phase now_) _ s

/-- What a barrier of EXP e, ARR r and a phase becomes, whose waiters stand in the table of a die (R47). -/
def phaseTested (u t : State) (l : Loc) (b : Bar) : Prop :=
  (¬(b.exp ≠ 0 ∧ b.exp ≤ b.arr) → wroteBytes u t l.pa (leBytes 4 b.exp ++ leBytes 4 b.arr ++ leBytes 4 b.phase) ∧ t.flights = u.flights)
  ∧ (b.exp ≠ 0 → b.exp ≤ b.arr → wroteBytes u t l.pa (leBytes 4 0 ++ leBytes 4 (b.arr - b.exp) ++ leBytes 4 ((b.phase + 1) % 2 ^ 32))
    ∧ adds u t ((mget [] u.futs (homeDie l)).flatMap (phaseSends u.pid l.pa b.phase ((b.phase + 1) % 2 ^ 32))))

theorem length_threeWords (a b c : Nat) : (leBytes 4 a ++ leBytes 4 b ++ leBytes 4 c).length = 12 := by simp [length_leBytes]

/-- The test after an arrival or an expectation (R47). -/
theorem State.testPhase_tested (u : State) (l : Loc) (b : Bar) (ha : l.pa % 16 = 0) (hs : u.slotPages (l.pa / 64) = []) :
    (u.testPhase l b).cx = u.cx ∧ phaseTested u (u.testPhase l b) l b := by
  have put : ∀ x y z, wroteBytes u (u.putBytes l.pa (leBytes 4 x ++ leBytes 4 y ++ leBytes 4 z)) l.pa (leBytes 4 x ++ leBytes 4 y ++ leBytes 4 z) := fun x y z =>
    u.putBytes_object' ha (by rw [length_threeWords]; decide) hs
  unfold State.testPhase
  split
  · next hc =>
    extract_lets next v
    have hv : OnlyMemory u v := u.putBytes_onlyMemory _ _
    have hw := v.wakePhase_sends v.pid (homeDie l) l.pa b.phase next
    refine ⟨(cx_of_cells hw.cells hw.cur).trans hv.cx, fun h => absurd hc h, fun _ _ => ⟨wroteBytes_of_latest (put _ _ _) hw.latest, ?_⟩⟩
    rw [← hv.futs, ← hv.pid]; exact adds_from hw.adds hv.flights
  · next hc =>
    exact ⟨u.putBytes_cx _ _, fun _ => ⟨put _ _ _, (u.putBytes_onlyMemory _ _).flights⟩, fun h1 h2 => absurd ⟨h1, h2⟩ hc⟩

theorem State.took_latest (s : State) (x : Nat) : s.took.latest x = s.latest x := rfl

/-- The word that a registration may leave at an object's +12 (R47). -/
theorem State.setSlot_putBytes_wroteIn (s : State) (die n : Nat) (f : FSlot) {pa : Nat} (w : Nat) (h : pa % 16 = 0) (hs : s.slotPages (pa / 64) = []) :
    wroteIn s ((s.setSlot die n f).putBytes (pa + 12) (leBytes 4 w)) (pa + 12) 4 [] := by
  have hl : (leBytes 4 w).length = 4 := length_leBytes _ _
  have hput := (s.setSlot die n f).putBytes_object (k := 12) h (by rw [hl]) hs
  refine ⟨fun x hx => ?_, fun i hi => absurd hi (Nat.not_lt_zero i)⟩
  rw [hput x, hl, if_neg (by omega), State.setSlot_latest]

end Sys2Proof.Machine

namespace Sys2Proof.Proofs
open Sys2Proof Sys2Proof.Machine Sys2Proof.Claims

/-- Settles O14: barr and bexp come down to one test of the phase, and bwait to a slot of the table or a continuation. -/
theorem barrierOperations : Obligations.BarrierOperations := by
  unfold Obligations.BarrierOperations
  intro s d a b g l o u hg hs hr va exp arr phase n after
  obtain ⟨hobj, ha, hslot⟩ := hr
  have hn : nbits 0 32 (s.cx.gr b).toNat = n := (setWidth_toNat _ _).symm
  have barr := (exec_xBarr d a g s).trans (congrArg Host.Outcome.next (xRun_settled hg hs (by simp)))
  have bexp := (exec_xBexp d a b g s).trans (congrArg Host.Outcome.next (xRun_settled hg hs (by simp)))
  have bwait := (exec_xBwait d a b g s).trans (congrArg Host.Outcome.next (xRun_settled hg hs (by simp)))
  dsimp only at barr bexp bwait
  have htest : ∀ q : Bar, q.phase = phase → after ((u.testPhase l q).status d phase) q.exp q.arr := by
    rintro ⟨e, r, p⟩ rfl
    exact (u.testPhase_tested l ⟨e, r, phase⟩ ha hslot).2
  rw [hobj] at barr bexp
  dsimp only [Except.map] at barr bexp
  rw [(State.object_access hobj).gr, hn] at bexp
  refine ⟨⟨_, barr, ?_, htest ⟨exp, (arr + 1) % 2 ^ 32, phase⟩ rfl⟩, fun h0 => ?_, fun h0 => ?_, fun k p v hbad hpass => ?_, fun hgood => ?_⟩
  · rw [State.status_cx, (u.testPhase_tested l _ ha hslot).1]; rfl
  · rw [if_pos h0] at bexp; exact bexp
  · rw [if_neg h0] at bexp
    refine ⟨_, bexp, ?_, htest ⟨(exp + n) % 2 ^ 32, arr, phase⟩ rfl⟩
    rw [State.status_cx, (u.testPhase_tested l _ ha hslot).1]; rfl
  · rw [hpass] at bwait
    dsimp only at bwait
    rw [hbad] at bwait
    exact bwait.trans (congrArg Host.Outcome.next (finish_refuseWait s v 1 _ k))
  · intro c p
    obtain ⟨v, hpass⟩ := State.object_check hobj
    rw [hpass, hgood, hobj] at bwait
    have hp : nbits 0 32 (s.cx.gr d).toNat = p.toNat := (setWidth_toNat _ _).symm
    dsimp only at bwait
    rw [contOf_eq, hp] at bwait
    refine ⟨fun hne => ?_, fun he hfull => ?_, fun k he hfree => ?_⟩
    · rw [if_pos (show (Bar.of o).phase ≠ p.toNat from hne)] at bwait
      exact ⟨_, bwait, State.status_cx _ _ _, State.sendCont_adds u ..⟩
    · rw [if_neg (show ¬(Bar.of o).phase ≠ p.toNat from not_not.2 he), hfull] at bwait
      exact bwait
    · rw [if_neg (show ¬(Bar.of o).phase ≠ p.toNat from not_not.2 he), hfree] at bwait
      dsimp only at bwait
      generalize Config.freeBits _ = w at bwait
      have hmem := (u.setSlot (homeDie l) k ⟨u.pid, l.pa, .barrier va (BitVec.ofNat 32 p.toNat) c⟩).putBytes_onlyMemory (l.pa + 12) (leBytes 4 w.toNat)
      have hin := u.setSlot_putBytes_wroteIn (homeDie l) k ⟨u.pid, l.pa, .barrier va (BitVec.ofNat 32 p.toNat) c⟩ w.toNat ha hslot
      refine ⟨_, bwait, ?_, ?_, fun x hx => ?_, fun i hi => absurd hi (Nat.not_lt_zero i)⟩
      · rw [State.status_cx, State.took_cx, State.took_cx, hmem.cx]; rfl
      · refine (show _ = _ from congrArg (fun m => mfind (mget [] m (homeDie l)) k) hmem.futs).trans ?_
        rw [State.setSlot, mget_mput_self, mfind_mput, if_pos rfl, BitVec.ofNat_toNat, BitVec.setWidth_eq]
      · rw [State.status_latest, State.took_latest, State.took_latest]; exact hin.1 x hx

end Sys2Proof.Proofs
end

section
/-! Dependency counters (R34, R281). -/

namespace Sys2Proof.Machine
open Sys2Proof Sys2Proof.Claims

variable {s t u : State}

/-- An operation on an object with nothing buffered reads its bytes at their home (R130, R143, R231). -/
theorem State.object_homed {va : Word} {l : Loc} (h : homed s .readWrite va 16 l t) (hsb : t.cx.sb = []) (hp : t.poisoned (l.pa / 64) = false) :
    ∃ u, s.object .x va 16 = .ok (l, bytesAt t l.pa 16, u) ∧ (∀ x, u.latest x = t.latest x) ∧ (∀ r, u.cx.gr r = s.cx.gr r) ∧ u.cx.ex.horizon = t.now := by
  have hc := State.check_homed h .x 3
  obtain ⟨-, -, hal, -⟩ := h
  let v := t.allocIn (homeBank l) t.pid
  have hv : OnlyMemory t v := t.allocIn_onlyMemory _ _
  have hrel : v.rel = v := v.rel_of_nil (by rw [hv.cx, hsb])
  have hacq : Access s.cur.cell s (v.acqrel .x) := (State.check_access hc).trans_cur (v.acqrel_access .x)
  have hlat : ∀ x, (v.acqrel .x).latest x = t.latest x := fun x => by
    rw [State.acqrel, hrel]; exact t.allocIn_latest _ _ x
  have hpois : (v.acqrel .x).poisoned (l.pa / 64) = false := by
    rw [State.acqrel, hrel]; exact (t.allocIn_poisoned _ _ _).trans hp
  have hb : bytesAt (v.acqrel .x) l.pa 16 = bytesAt t l.pa 16 := List.map_congr_left fun i _ => hlat _
  have hread := (v.acqrel .x).homeRead_access (cell := s.cur.cell) l.pa 16
  refine ⟨((v.acqrel .x).homeRead l.pa 16).1, ?_, fun x => ?_, fun r => (hacq.trans hread).gr r, ?_⟩
  · unfold State.object
    rw [hc]; dsimp only
    rw [State.homeRead_poison _ _ _ (by decide) (by omega), hpois, State.homeRead_bytes, hb]; rfl
  · rw [State.homeRead_latest, hlat]
  · rw [(State.homeRead_onlyMemory _ _ _).cx, State.acqrel_cx]; exact hv.now

/-! A counter's words and its parked parcels. -/

theorem length_twoWords (a b : Nat) : (leBytes 4 a ++ leBytes 4 b).length = 8 := by simp [length_leBytes]

/-- A counter that is written at its home (R34). -/
theorem State.putCounter_onlyMemory (s : State) (l : Loc) (c p : Nat) (touched : Bool) : OnlyMemory s (s.putCounter l c p touched) := by
  have h := s.putBytes_onlyMemory l.pa (leBytes 4 c ++ leBytes 4 p)
  cases touched
  · exact h
  · exact h.trans ((State.putBytes_onlyMemory _ _ _).trans (State.took_onlyMemory _))

/-- COUNT and PARKED of a counter, and no byte beyond its 16, change; the list head may change only where the pool did (R34). -/
theorem State.putCounter_words (s : State) (l : Loc) (c p : Nat) (ha : l.pa % 16 = 0) (hs : s.slotPages (l.pa / 64) = []) :
    wroteBytes s (s.putCounter l c p false) l.pa (leBytes 4 c ++ leBytes 4 p)
      ∧ ∀ touched, wroteIn s (s.putCounter l c p touched) l.pa 16 (leBytes 4 c ++ leBytes 4 p) := by
  have hl := length_twoWords c p
  have hput := s.putBytes_object' (bs := leBytes 4 c ++ leBytes 4 p) ha (by omega) hs
  refine ⟨hput, fun touched => ?_⟩
  cases touched
  · exact ⟨fun x hx => by rw [State.putCounter, if_neg (by decide), hput x, if_neg (by omega)], fun i hi => wroteBytes_at hput hi⟩
  · let v := s.putBytes l.pa (leBytes 4 c ++ leBytes 4 p)
    have hv : OnlyMemory s v := s.putBytes_onlyMemory _ _
    let bs := leBytes 8 (Config.freeBits v.free).toNat
    have hb : bs.length = 8 := length_leBytes _ _
    have hhead := v.putBytes_object (k := 8) (bs := bs) ha (by omega) (by rw [hv.slotPages, hs])
    have ht : ∀ x, (s.putCounter l c p true).latest x = (v.putBytes (l.pa + 8) bs).latest x := fun _ => rfl
    refine ⟨fun x hx => ?_, fun i hi => ?_⟩
    · rw [ht, hhead x, if_neg (by omega), hput x, if_neg (by omega)]
    · rw [ht, hhead, if_neg (by omega)]; exact wroteBytes_at hput hi

/-- One parked parcel leaves. -/
def unpark (pa : Nat) (s : State) (q : Parked) : State := s.launchFlight q.parcel q.part (.parked q.issuer pa)

/-- The parcels parked on a counter leave, in park order (R34). -/
theorem State.releaseParked_sends (s : State) (l : Loc) :
    OnlySends s (s.releaseParked (homeDie l) s.pid l.pa) ((parkedOn s l).map fun q => q.parcel)
      ∧ mget [] (s.releaseParked (homeDie l) s.pid l.pa).parks (homeDie l) = parkedElse s l := by
  let v := { s with parks := mput s.parks (homeDie l) (parkedElse s l) }
  have hgo : s.releaseParked (homeDie l) s.pid l.pa = (parkedOn s l).foldl (unpark l.pa) v := rfl
  have hsend : OnlySends v ((parkedOn s l).foldl (unpark l.pa) v) ((parkedOn s l).flatMap fun q => [q.parcel]) :=
    .foldl (unpark l.pa) _ (fun t q => ⟨adds_launchFlight t .., rfl, rfl, fun _ => rfl⟩) _ v
  have hkeep : ((parkedOn s l).foldl (unpark l.pa) v).parks = v.parks :=
    foldl_keeps (fun t : State => t.parks = v.parks) _ _ _ rfl fun t q h => h
  rw [hgo]
  refine ⟨?_, by rw [hkeep, mget_mput_self]⟩
  rw [List.map_eq_flatMap]
  exact ⟨hsend.adds, hsend.cells, hsend.cur, hsend.latest⟩

/-- A COUNT that becomes 0 releases the parked parcels; another is written, and nothing leaves (R34). -/
theorem State.setCount_zero (s : State) (l : Loc) (o : List Byte) (ha : l.pa % 16 = 0) (hs : s.slotPages (l.pa / 64) = []) :
    (s.setCount l o 0).cx = s.cx ∧ released s (s.setCount l o 0) l := by
  let v := s.putCounter l 0 0 (ctrParked o ≠ 0)
  have hv : OnlyMemory s v := s.putCounter_onlyMemory ..
  have hw := (s.putCounter_words l 0 0 ha hs).2 (ctrParked o ≠ 0)
  have he : s.setCount l o 0 = v.releaseParked (homeDie l) v.pid l.pa := by rw [hv.pid]; rfl
  have hp : parkedOn v l = parkedOn s l ∧ parkedElse v l = parkedElse s l := by
    unfold parkedOn parkedElse; rw [hv.parks, hv.pid]; exact ⟨rfl, rfl⟩
  obtain ⟨hsend, hkept⟩ := v.releaseParked_sends l
  rw [he]
  refine ⟨(cx_of_cells hsend.cells hsend.cur).trans hv.cx, ⟨fun x hx => (hsend.latest x).trans (hw.1 x hx), fun i hi => (hsend.latest _).trans (hw.2 i hi)⟩, ?_, ?_⟩
  · rw [← hp.1]; exact adds_from hsend.adds hv.flights
  · rw [hkept, hp.2]

theorem State.setCount_pos (s : State) (l : Loc) (o : List Byte) {n : Nat} (hn : n ≠ 0) (ha : l.pa % 16 = 0) (hs : s.slotPages (l.pa / 64) = []) :
    (s.setCount l o n).cx = s.cx ∧ wroteBytes s (s.setCount l o n) l.pa (leBytes 4 n ++ leBytes 4 (ctrParked o)) ∧ (s.setCount l o n).flights = s.flights := by
  have hv := s.putCounter_onlyMemory l n (ctrParked o) false
  rw [State.setCount, if_neg hn]
  exact ⟨hv.cx, (s.putCounter_words l n _ ha hs).1, hv.flights⟩

/-- A parcel parks on a counter, last of its die's pool (R34). -/
def State.park (s : State) (die pa : Nat) (p : Vec) (i : Issuer) : State := { s with parks := mput s.parks die (s.pool die ++ [⟨pa, s.pid, p, i⟩]) }

theorem State.park_parks (s : State) (die pa : Nat) (p : Vec) (i : Issuer) :
    mget [] (s.park die pa p i).parks die = mget [] s.parks die ++ [⟨pa, s.pid, p, i⟩] := mget_mput_self ..

theorem State.park_latest (s : State) (die pa : Nat) (p : Vec) (i : Issuer) (x : Nat) : (s.park die pa p i).latest x = s.latest x := rfl

theorem wroteIn_of_latest {pa n : Nat} {bs : List Byte} (h : wroteIn u t pa n bs) (e : ∀ x, s.latest x = t.latest x) : wroteIn u s pa n bs :=
  ⟨fun x hx => (e x).trans (h.1 x hx), fun i hi => (e _).trans (h.2 i hi)⟩

theorem wroteIn_status {pa n : Nat} {bs : List Byte} (d : RegG) (k : Nat) (h : wroteIn u t pa n bs) : wroteIn u (t.status d k) pa n bs := h
theorem wroteBytes_status {pa : Nat} {bs : List Byte} (d : RegG) (k : Nat) (h : wroteBytes u t pa bs) : wroteBytes u (t.status d k) pa bs := h
theorem released_status {l : Loc} (d : RegG) (k : Nat) (h : released u t l) : released u (t.status d k) l := h

/-- The header bits of a parcel that parks are those of its register (R11, R34). -/
theorem hdrBits_ownParcel (s : State) (v : Vec) : nbits 0 32 (parcelHdr (s.ownParcel v)).toNat = hdrBits (v.setWidth 64) := by
  rw [State.ownParcel, parcelHdr_mkParcel, State.sendHdr, mkHdr_low]
  simp only [nbits, BitVec.toNat_setWidth]
  omega

/-- What dcpark does with a parcel that may be sent: by COUNT it leaves, waits for room in the pool, or parks (R34, R281). -/
def State.parkOrSend (u : State) (i : Issuer) (b : RegG) (p : Vec) (l : Loc) (o : List Byte) : Act State :=
  if ctrCount o = 0 then .ok ((u.launchFlight p u.pid (.parked i l.pa)).status b 1)
  else if Config.parkPool ≤ (u.pool (homeDie l)).length then .error .stall
  else .ok (((u.putCounter l (ctrCount o) (ctrParked o + 1) true).park (homeDie l) l.pa p i).status b 0)

/-- dcpark by what its header is refused for. The refusal is rewritten before any match on it is reduced: the kernel would compute the header. -/
theorem exec_dcpark {b a : RegG} {v : RegV} {g : GuardP} {all : List RegG} {l : Loc} {o : List Byte} (hg : guardOn s.cx g) (hs : settled s.cx all)
    (hsub : ∀ r ∈ [b, a], r ∈ all) (hobj : s.object .x (s.cx.gr a) 16 = .ok (l, o, u)) :
    (∀ k, refusal s ((s.cx.vr v).setWidth 64) = some k → exec (.xDcpark b v a g) s
        = .next (s.finish .x 1 (u.trap ⟨refusalTrap k, 6, 0xFF, 0, parcelHdr (s.ownParcel (s.cx.vr v)), 0⟩)))
    ∧ (refusal s ((s.cx.vr v).setWidth 64) = none → exec (.xDcpark b v a g) s
        = .next (s.finish .x 1 (u.parkOrSend (s.issuer s.cur.cell s.cur.ctx .x) b (s.ownParcel (s.cx.vr v)) l o))) := by
  have hr : s.refuses (nbits 0 32 (parcelHdr (s.ownParcel (s.cx.vr v))).toNat) = refusal s ((s.cx.vr v).setWidth 64) := by
    rw [hdrBits_ownParcel, refuses_eq]
  have park := exec_xDcpark b v a g s
  unfold execXDcpark at park
  rw [xRun_settled hg hs hsub, hobj] at park
  extract_lets -underBinder +onlyGivenNames p h at park
  rw [show s.refuses h = refusal s ((s.cx.vr v).setWidth 64) from hr] at park
  exact ⟨fun k hk => by rw [hk] at park; exact park, fun hk => by rw [hk] at park; exact park⟩

end Sys2Proof.Machine

namespace Sys2Proof.Proofs
open Sys2Proof Sys2Proof.Machine Sys2Proof.Claims

/-- Settles O12: the object is reached at its home; a COUNT that becomes 0 releases its parcels in park order, and a parcel parks or leaves by COUNT. -/
theorem counterOperations : Obligations.CounterOperations := by
  unfold Obligations.CounterOperations
  refine ⟨fun s t va l h hsb hp => State.object_homed h hsb hp, ?_⟩
  intro s d a b v g l o u hg hs hr c p n
  obtain ⟨hobj, ha, hslot⟩ := hr
  have hu := State.object_access hobj
  have hn : nbits 0 32 (s.cx.gr b).toNat = n.toNat := (setWidth_toNat _ _).symm
  have init := (exec_xDcinit d a b g s).trans (congrArg Host.Outcome.next (xRun_settled hg hs (by simp)))
  have dec := (exec_xDcdec d a g s).trans (congrArg Host.Outcome.next (xRun_settled hg hs (by simp)))
  obtain ⟨hrefused, hpark⟩ := exec_dcpark (b := b) (a := a) (v := v) hg hs (by simp) hobj
  dsimp only at init dec
  rw [hobj] at init dec
  dsimp only [Except.map] at init dec
  rw [hu.gr, hn, State.finish_ok] at init
  rw [State.finish_ok] at dec
  have hzero := u.setCount_zero l o ha hslot
  refine ⟨fun h => ?_, fun h => ?_, fun h => ?_, fun h => ?_, fun h => ?_, fun hok => ⟨fun h => ?_, fun h hfull => ?_, fun h hroom => ?_⟩, fun k hk => ?_⟩
  · obtain ⟨hcx, hw, hf⟩ := u.setCount_pos l o (n := n.toNat) (fun e => h (BitVec.eq_of_toNat_eq e)) ha hslot
    exact ⟨_, init, by rw [State.status_cx, hcx]; rfl, wroteBytes_status _ _ hw, hf⟩
  · rw [show n.toNat = 0 by rw [h]; rfl] at init
    exact ⟨_, init, by rw [State.status_cx, hzero.1]; rfl, released_status _ _ hzero.2⟩
  · rw [if_pos (show ctrCount o = 0 from h), show ctrCount o = 0 from h] at dec
    exact dec
  · rw [if_neg (show ¬ctrCount o = 0 by rw [show ctrCount o = 1 from h]; decide), show ctrCount o = 1 from h, Nat.sub_self] at dec
    exact ⟨_, dec, by rw [State.status_cx, hzero.1]; rfl, released_status _ _ hzero.2⟩
  · have hc : 2 ≤ ctrCount o := h
    obtain ⟨hcx, hw, hf⟩ := u.setCount_pos l o (n := ctrCount o - 1) (by omega) ha hslot
    rw [if_neg (by omega)] at dec
    exact ⟨_, dec, by rw [State.status_cx, hcx]; rfl, wroteBytes_status _ _ hw, hf⟩
  · have park := hpark hok
    rw [State.parkOrSend, if_pos (show ctrCount o = 0 from h), State.finish_ok] at park
    exact ⟨_, park, State.status_cx _ _ _, adds_launchFlight u ..⟩
  · have park := hpark hok
    rw [State.parkOrSend, if_neg (show ¬ctrCount o = 0 from h), if_pos (show Config.parkPool ≤ (u.pool (homeDie l)).length from hfull), State.finish_stall] at park
    exact park
  · have park := hpark hok
    rw [State.parkOrSend, if_neg (show ¬ctrCount o = 0 from h), if_neg (show ¬Config.parkPool ≤ (u.pool (homeDie l)).length from not_le.2 hroom), State.finish_ok] at park
    have hv := u.putCounter_onlyMemory l (ctrCount o) (ctrParked o + 1) true
    have hw := (u.putCounter_words l (ctrCount o) (ctrParked o + 1) ha hslot).2 true
    generalize u.putCounter l (ctrCount o) (ctrParked o + 1) true = w at park hv hw
    have ht := w.park_parks (homeDie l) l.pa (s.ownParcel (s.cx.vr v)) (s.issuer s.cur.cell s.cur.ctx .x)
    rw [hv.parks] at ht
    refine ⟨_, _, park, ?_, ht, rfl, rfl, wroteIn_status _ _ (wroteIn_of_latest hw fun x => w.park_latest ..), hv.flights⟩
    rw [State.status_cx]; exact congrArg (Ctx.setG · b 0) hv.cx
  · exact hrefused k hk

end Sys2Proof.Proofs
end

section
/-! Futures: an operation under a handle, and what settling and releasing leave unchanged (R42 to R46, R286 to R288). -/

namespace Sys2Proof.Machine
open Sys2Proof Sys2Proof.Claims

variable {s t u v : State}

/-! Word 0 (R42). -/

theorem mkWord0_eq (w : Nat) {k : Nat} (hk : k < 4) : mkWord0 (fSlot w) (fGen w) k = fSlot w * 65536 + fGen w * 4 + k := by
  have hs : fSlot w < 65536 := nbits_lt 16 16 w
  have hg : fGen w < 16384 := nbits_lt 2 14 w
  rw [mkWord0, Nat.mod_eq_of_lt hs, Nat.mod_eq_of_lt hg, Nat.mod_eq_of_lt hk]
theorem mkWord0_new (n w : Nat) : mkWord0 n (fGen w) 0 = n % 65536 * 65536 + fGen w * 4 := by
  have hg : fGen w < 16384 := nbits_lt 2 14 w
  rw [mkWord0, Nat.mod_eq_of_lt hg, Nat.zero_mod, Nat.add_zero]
theorem mkWord0_freed (g : Nat) : mkWord0 0 (g + 1) 0 = (g + 1) % 16384 * 4 := by simp [mkWord0]

/-! The slots of a die (R42). -/

theorem State.freeSlot_free {die n : Nat} (h : s.freeSlot die = some n) : s.slot die n = none := by
  have hn := List.find?_some h
  exact Option.isNone_iff_eq_none.1 hn

@[simp] theorem State.setSlot_slot (s : State) (die n : Nat) (x : FSlot) : (s.setSlot die n x).slot die n = some x := by
  rw [State.slot, State.setSlot, mget_mput_self, mfind_mput, if_pos rfl]
@[simp] theorem State.delSlot_slot (s : State) (die n : Nat) : (s.delSlot die n).slot die n = none := by
  rw [State.slot, State.delSlot, mget_mput_self, mfind_mdel, if_pos rfl]
theorem State.slot_of_futs (h : t.futs = s.futs) (die n : Nat) : t.slot die n = s.slot die n := by rw [State.slot, State.slot, h]

/-! An operation under a handle (R286). -/

section
variable {d a : RegG} {f : State → Fut → FSlot → Act State} {l : Loc} {o : List Byte}

theorem State.futOp_stale (hobj : s.object .x (s.cx.gr a) 16 = .ok (l, o, u)) (h : fGen (s.cx.gr d).toNat ≠ fGen (bnat o 0 8)) :
    s.futOp d a f = .ok (u.status d 4) := by
  rw [State.futOp, hobj]; dsimp only
  rw [State.see_stale _ _ (Fut.of l (s.cx.gr a) o) _ h]
theorem State.futOp_dead (hobj : s.object .x (s.cx.gr a) 16 = .ok (l, o, u)) (h : fGen (s.cx.gr d).toNat = fGen (bnat o 0 8))
    (hl : u.liveSlot u.pid (Fut.of l (s.cx.gr a) o) = none) : s.futOp d a f = u.futTrap (s.cx.gr a) := by
  rw [State.futOp, hobj]; dsimp only
  rw [State.see_dead _ _ (Fut.of l (s.cx.gr a) o) _ h hl]
theorem State.futOp_live (hobj : s.object .x (s.cx.gr a) 16 = .ok (l, o, u)) (h : fGen (s.cx.gr d).toNat = fGen (bnat o 0 8)) {x : FSlot}
    (hl : u.liveSlot u.pid (Fut.of l (s.cx.gr a) o) = some x) : s.futOp d a f = f u (Fut.of l (s.cx.gr a) o) x := by
  rw [State.futOp, hobj]; dsimp only
  rw [State.see_live _ _ (Fut.of l (s.cx.gr a) o) _ h hl]
end

theorem finish_futTrap (s t : State) (len : Nat) (va : Word) : s.finish .x len (t.futTrap va) = t.raise t.cur.cell t.cur.ctx .x ⟨0x22, 6, 0xFF, 0, va, 0⟩ 0 0 := rfl

/-! Releasing waiters (R45). -/

/-- What a release leaves unchanged. -/
theorem State.releaseWaiter_frame (s : State) (pid die slot : Nat) (va : Word) (w0 w1 tokens : Nat) (x : Waiter) :
    (s.releaseWaiter pid die slot va w0 w1 tokens x).cells = s.cells ∧ (s.releaseWaiter pid die slot va w0 w1 tokens x).cur = s.cur
      ∧ (s.releaseWaiter pid die slot va w0 w1 tokens x).futs = s.futs ∧ (s.releaseWaiter pid die slot va w0 w1 tokens x).parts = s.parts
      ∧ (s.releaseWaiter pid die slot va w0 w1 tokens x).slotPages = s.slotPages := by
  cases x with
  | none => exact ⟨rfl, rfl, rfl, rfl, rfl⟩
  | cont c => exact ⟨rfl, rfl, rfl, rfl, rfl⟩
  | hart core => unfold State.releaseWaiter; dsimp only; split <;> exact ⟨rfl, rfl, rfl, rfl, rfl⟩

theorem State.releaseWaiter_cx (s : State) (pid die slot : Nat) (va : Word) (w0 w1 tokens : Nat) (x : Waiter) :
    (s.releaseWaiter pid die slot va w0 w1 tokens x).cx = s.cx := by
  obtain ⟨hc, hu, -⟩ := s.releaseWaiter_frame pid die slot va w0 w1 tokens x
  exact cx_of_cells hc hu

/-- A release changes no hart's wait, and a hart that it has woken stays so. -/
theorem State.releaseWaiter_hart (s : State) (pid die slot : Nat) (va : Word) (w0 w1 tokens : Nat) (x : Waiter) (c : Nat) :
    let k := if w0 % 4 = 3 then 2 else 1
    let t := s.releaseWaiter pid die slot va w0 w1 tokens x
    (t.hart c).waitsOn die slot = (s.hart c).waitsOn die slot ∧ ((s.hart c).woken = some k → (t.hart c).woken = some k) := by
  intro k t
  cases x with
  | none => exact ⟨rfl, id⟩
  | cont c => exact ⟨rfl, id⟩
  | hart core =>
    by_cases hw : (s.hart core).waitsOn die slot = true
    · have ht : t = s.setHart core { s.hart core with woken := some k } := by simp [t, k, State.releaseWaiter, hw, fSt_eq]
      rw [ht]
      by_cases hc : core = c
      · subst hc; simp [Hart.waitsOn]
      · simp [hc]
    · have ht : t = s := by simp [t, State.releaseWaiter, hw]
      rw [ht]; exact ⟨rfl, id⟩

/-- Waiters released one after another are released together. -/
theorem foldl_releaseWaiter (s : State) (pid die slot : Nat) (va : Word) (w0 w1 tokens : Nat) (ws : List Waiter) :
    let k := if w0 % 4 = 3 then 2 else 1
    let t := ws.foldl (fun s w => s.releaseWaiter pid die slot va w0 w1 tokens w) s
    releases s t die slot pid va w0 w1 tokens ws ∧ ∀ c, (s.hart c).woken = some k → (t.hart c).woken = some k := by
  induction ws generalizing s with
  | nil => exact ⟨⟨adds_of_flights rfl, fun c hc => absurd hc List.not_mem_nil⟩, fun _ h => h⟩
  | cons w ws ih =>
    intro k t
    have hart := s.releaseWaiter_hart pid die slot va w0 w1 tokens w
    obtain ⟨hone, hwoken⟩ := s.releaseWaiter_releases pid die slot va w0 w1 tokens w
    obtain ⟨⟨hrest, hrel⟩, hkeep⟩ := ih (s.releaseWaiter pid die slot va w0 w1 tokens w)
    refine ⟨⟨?_, fun c hc hwait => ?_⟩, fun c h => hkeep c ((hart c).2 h)⟩
    · have := adds_trans hone hrest
      rwa [← List.flatMap_append] at this
    · rcases List.mem_cons.1 hc with rfl | hc
      · exact hkeep c (hwoken c (List.mem_singleton.2 rfl) hwait)
      · exact hrel c hc ((hart c).1.trans hwait)

theorem State.endInject_releases (s : State) (pid die n : Nat) (va : Word) (w0 w1 : Nat) (i : Inject) :
    releases s (s.endInject pid die n va w0 w1 i) die n pid va w0 w1 i.done i.wait_ := (foldl_releaseWaiter s pid die n va w0 w1 i.done i.wait_).1

/-- What the end of an injection leaves unchanged. -/
theorem State.endInject_frame (s : State) (pid die n : Nat) (va : Word) (w0 w1 : Nat) (i : Inject) :
    let t := s.endInject pid die n va w0 w1 i
    t.cx = s.cx ∧ t.slotPages = s.slotPages ∧ ∀ x, t.latest x = s.latest x :=
  foldl_keeps (fun t : State => t.cx = s.cx ∧ t.slotPages = s.slotPages ∧ ∀ x, t.latest x = s.latest x) _ _ _ ⟨rfl, rfl, fun _ => rfl⟩ fun t w ⟨hc, hp, hl⟩ => by
    obtain ⟨-, -, -, -, hpages⟩ := t.releaseWaiter_frame pid die n va w0 w1 i.done w
    exact ⟨(t.releaseWaiter_cx ..).trans hc, hpages.trans hp, fun x => (t.releaseWaiter_latest ..).trans (hl x)⟩

/-! Settling (R43). -/

/-- An unbound future that is settled: its word 0 is written, its slot has no waiter, and the waiter is released. -/
theorem State.settleFut_releases (s : State) (pid die n : Nat) (x : FSlot) (w0 w1 st : Nat) {va : Word} {w : Waiter} {dl : Option Nat}
    {re : Option (Word × Nat)} {inj : Option Inject} (hk : x.kind = .future va w dl none re inj) :
    let t := s.settleFut pid die n x w0 w1 st
    t.cx = s.cx ∧ t.slot die n = some { x with kind := .future va .none none none re none }
      ∧ releases s t die n pid va (mkWord0 n (fGen w0) st) w1 0 [w] ∧ ∀ a, t.latest a = (s.putW0 x.pa (mkWord0 n (fGen w0) st)).latest a := by
  intro t
  let v := s.putW0 x.pa (mkWord0 n (fGen w0) st)
  let y := v.setSlot die n { x with kind := .future va .none none none re none }
  have hv : OnlyMemory s v := s.putBytes_onlyMemory _ _
  have ht : t = y.releaseWaiter pid die n va (mkWord0 n (fGen w0) st) w1 0 w := s.settleFut_unbound pid die n x w0 w1 st hk
  have hframe := y.releaseWaiter_frame pid die n va (mkWord0 n (fGen w0) st) w1 0 w
  obtain ⟨-, -, hfuts, -⟩ := hframe
  rw [ht]
  refine ⟨(y.releaseWaiter_cx ..).trans hv.cx, ?_, releases_from (y.releaseWaiter_releases ..) hv.flights hv.harts, fun a => y.releaseWaiter_latest ..⟩
  rw [State.slot_of_futs hfuts, State.setSlot_slot]

/-- A bound future that is settled starts its injection, which its waiter awaits. -/
theorem State.settleFut_bound (s : State) (pid die n : Nat) (x : FSlot) (w0 w1 st : Nat) {va : Word} {w : Waiter} {dl : Option Nat} {q : Word}
    {re : Option (Word × Nat)} {inj : Option Inject} (hk : x.kind = .future va w dl (some q) re inj) :
    ∃ v k, OnlyMemory s v ∧ s.settleFut pid die n x w0 w1 st = v.setSlot die n
      { x with kind := .future va .none none (some q) re (some ⟨q, if st = 2 then some (BitVec.ofNat 64 w1) else none, k, 0, [w]⟩) } := by
  let y := s.putW0 x.pa (mkWord0 n (fGen w0) st)
  have hy : OnlyMemory s y := s.putBytes_onlyMemory _ _
  have hcount : OnlyMemory y (if st = 2 then y.replyCount pid (BitVec.ofNat 64 w1) else y.templateCount pid q).1 := by
    split
    · exact y.replyCount_onlyMemory _ _
    · exact y.templateCount_onlyMemory _ _
  refine ⟨(if st = 2 then y.replyCount pid (BitVec.ofNat 64 w1) else y.templateCount pid q).1,
    (if st = 2 then y.replyCount pid (BitVec.ofNat 64 w1) else y.templateCount pid q).2, hy.trans hcount, ?_⟩
  simp only [State.settleFut, hk]
  rfl

/-! The words of a future (R42). -/

theorem State.putW0_wroteBytes (s : State) {pa : Nat} (w : Nat) (ha : pa % 16 = 0) (hs : s.slotPages (pa / 64) = []) :
    wroteBytes s (s.putW0 pa w) pa (leBytes 8 w) := s.putBytes_object' ha (by simp [length_leBytes]) hs

/-- A future's two words, written one after the other. -/
theorem State.putWords_wroteBytes (s : State) {pa : Nat} (w0 w1 : Nat) (ha : pa % 16 = 0) (hs : s.slotPages (pa / 64) = []) :
    wroteBytes s ((s.putW0 pa w0).putW1 pa w1) pa (leBytes 8 w0 ++ leBytes 8 w1) := by
  have l0 : (leBytes 8 w0).length = 8 := length_leBytes _ _
  have l1 : (leBytes 8 w1).length = 8 := length_leBytes _ _
  have m0 : OnlyMemory s (s.putW0 pa w0) := s.putBytes_onlyMemory _ _
  have h0 := s.putW0_wroteBytes w0 ha hs
  have h1 : wroteBytes (s.putW0 pa w0) ((s.putW0 pa w0).putW1 pa w1) (pa + 8) (leBytes 8 w1) :=
    State.putBytes_object _ ha (by omega) (by rw [m0.slotPages]; exact hs)
  intro x
  rw [h1 x, h0 x, List.length_append, l0, l1]
  by_cases hlo : x < pa + 8
  · rw [if_neg (by omega)]
    by_cases hx : pa ≤ x
    · rw [if_pos ⟨hx, hlo⟩, if_pos (by omega), List.getD_append _ _ _ _ (by omega)]
    · rw [if_neg (by omega), if_neg (by omega)]
  · rw [if_neg (c := pa ≤ x ∧ x < pa + 8) (by omega)]
    by_cases hx : x < pa + 16
    · rw [if_pos (by omega), if_pos (by omega), List.getD_append_right _ _ _ _ (by omega), l0, Nat.sub_add_eq]
    · rw [if_neg (by omega), if_neg (by omega)]

/-- A future that is freed: its word 0 is written and its slot is given up (R43). -/
theorem State.freeFut_keeps (u v : State) {pa : Nat} (die n w : Nat) (hcx : v.cx = u.cx) (hp : v.slotPages = u.slotPages) (hl : ∀ x, v.latest x = u.latest x)
    (ha : pa % 16 = 0) (hs : u.slotPages (pa / 64) = []) :
    let t := (v.putW0 pa w).delSlot die n
    t.cx = u.cx ∧ t.slot die n = none ∧ wroteBytes u t pa (leBytes 8 w) ∧ t.flights = v.flights ∧ t.harts = v.harts := by
  intro t
  have hm : OnlyMemory v (v.putW0 pa w) := v.putBytes_onlyMemory _ _
  have hw := v.putW0_wroteBytes w ha (by rw [hp, hs])
  exact ⟨hm.cx.trans hcx, State.delSlot_slot .., fun x => by rw [← hl]; exact hw x, hm.flights, hm.harts⟩

end Sys2Proof.Machine

namespace Sys2Proof.Proofs
open Sys2Proof Sys2Proof.Machine Sys2Proof.Claims

/-- An operation of X on a future, by what its handle and its state allow (R286 to R288). -/
theorem futureOperations : Claims.FutureOperations := by
  unfold Claims.FutureOperations
  intro s d a b g l o u hg hs hr va w0 w1 f st gen slot word trap
  obtain ⟨hobj, ha, hslot⟩ := hr
  have hu := State.object_access hobj
  have fpoll := (exec_xFpoll d a g s).trans (congrArg Host.Outcome.next (xRun_settled hg hs (by simp)))
  have fnew := (exec_xFnew d a g s).trans (congrArg Host.Outcome.next (xRun_settled hg hs (by simp)))
  have fres := (exec_xFres d a b g s).trans (congrArg Host.Outcome.next (xRun_settled hg hs (by simp)))
  have ffree := (exec_xFfree d a g s).trans (congrArg Host.Outcome.next (xRun_settled hg hs (by simp)))
  have ftmo := (exec_xFtmo d a b g s).trans (congrArg Host.Outcome.next (xRun_settled hg hs (by simp)))
  dsimp only at fpoll fnew fres ffree ftmo
  rw [hobj] at fpoll fnew
  dsimp only [Except.map] at fpoll fnew
  refine ⟨fpoll, fun hh => ?_, fun hh hl => ?_, fun hused => ?_, fun hl hw hfull => ?_, fun n hl hw hfree => ?_, fun x w dl q re inj hh hl hk => ?_⟩
  · rw [State.futOp_stale hobj hh] at fres ffree ftmo
    exact List.forall_mem_cons.2 ⟨fres, List.forall_mem_cons.2 ⟨ffree, List.forall_mem_singleton.2 ftmo⟩⟩
  · rw [State.futOp_dead hobj hh hl, finish_futTrap] at fres ffree ftmo
    exact List.forall_mem_cons.2 ⟨fres, List.forall_mem_cons.2 ⟨ffree, List.forall_mem_singleton.2 ftmo⟩⟩
  · rw [if_pos (show (u.liveSlot u.pid (Fut.of l (s.cx.gr a) o)).isSome ∨ nbits 32 32 (Fut.of l (s.cx.gr a) o).w0 ≠ 0 from hused), finish_futTrap] at fnew
    exact fnew
  · have hno : ¬((u.liveSlot u.pid (Fut.of l (s.cx.gr a) o)).isSome ∨ nbits 32 32 (Fut.of l (s.cx.gr a) o).w0 ≠ 0) := by
      rintro (h | h)
      · rw [show u.liveSlot u.pid (Fut.of l (s.cx.gr a) o) = none from hl] at h; cases h
      · exact h hw
    rw [if_neg hno, show u.freeSlot (Fut.of l (s.cx.gr a) o).die = none from hfull] at fnew
    exact fnew
  · have hno : ¬((u.liveSlot u.pid (Fut.of l (s.cx.gr a) o)).isSome ∨ nbits 32 32 (Fut.of l (s.cx.gr a) o).w0 ≠ 0) := by
      rintro (h | h)
      · rw [show u.liveSlot u.pid (Fut.of l (s.cx.gr a) o) = none from hl] at h; cases h
      · exact h hw
    rw [if_neg hno, show u.freeSlot (Fut.of l (s.cx.gr a) o).die = some n from hfree] at fnew
    have hm : OnlyMemory u ((u.putW0 l.pa (mkWord0 n gen 0)).putW1 l.pa 0) := (u.putBytes_onlyMemory _ _).trans (State.putBytes_onlyMemory _ _ _)
    have hw := u.putWords_wroteBytes (mkWord0 n gen 0) 0 ha hslot
    have hn : mkWord0 n gen 0 = n % 65536 * 65536 + gen * 4 := mkWord0_new n w0
    have hp := hm.pid
    dsimp only at fnew
    rw [show fGen (Fut.of l (s.cx.gr a) o).w0 = gen from rfl, hn] at fnew
    rw [hn] at hm hw hp
    generalize (u.putW0 l.pa (n % 65536 * 65536 + gen * 4)).putW1 l.pa 0 = t at fnew hm hw hp
    refine ⟨_, fnew, u.freeSlot_free hfree, ?_, ?_, ?_⟩
    · rw [← hp]; exact State.setSlot_slot ..
    · rw [State.status_cx, State.took_cx]; exact congrArg (Ctx.setG · d _) hm.cx
    · exact wroteBytes_status _ _ (wroteBytes_of_latest hw fun x => rfl)
  · have hst : fSt (Fut.of l (s.cx.gr a) o).w0 = st := fSt_eq _
    have hpa := State.liveSlot_pa hl
    have hword : ∀ k < 4, mkWord0 slot (fGen w0) k = word k := fun k hk => mkWord0_eq w0 hk
    rw [State.futOp_live hobj hh hl] at fres ffree ftmo
    have hpend : st < 2 → exec (.xFres d a b g) s = .next (s.finish .x 1 (.ok ((resolvedFut u u.pid (s.cx.gr b).toNat f x).status d 0))) := fun h => by
      rw [hu.gr] at fres
      have h01 : st = 0 ∨ st = 1 := by omega
      rcases h01 with h | h <;> rw [hst.trans h] at fres <;> exact fres
    refine ⟨fun h => ?_, fun h => ?_, fun h hq => ?_, fun h z hq => ?_, fun h => ?_, fun h => ?_, fun h => ?_, fun h hb ht => ?_, fun h hb => ?_, fun h hb ht => ⟨fun hq => ?_, fun z hq => ?_⟩⟩
    · rw [hst.trans h] at fres; exact fres
    · rw [hst.trans h] at fres; exact fres
    · obtain ⟨hcx, hx, -, -⟩ := (u.putW1 l.pa (s.cx.gr b).toNat).settleFut_releases u.pid (homeDie l) slot x w0 (s.cx.gr b).toNat 2 (hq ▸ hk)
      obtain ⟨hw, hrel⟩ := resolvedFut_unbound u u.pid (s.cx.gr b).toNat f x (hq ▸ hk) hpa ha hslot
      refine ⟨_, hpend h, ?_, wroteBytes_status _ _ hw, hx, hrel⟩
      rw [State.status_cx]; exact congrArg (Ctx.setG · d 0) (hcx.trans (u.putBytes_cx _ _))
    · obtain ⟨v, k, hv, he⟩ := (u.putW1 l.pa (s.cx.gr b).toNat).settleFut_bound u.pid (homeDie l) slot x w0 (s.cx.gr b).toNat 2 (hq ▸ hk)
      have res := hpend h
      rw [show resolvedFut u u.pid (s.cx.gr b).toNat f x = _ from he] at res
      refine ⟨_, _, res, ?_, rfl, ?_, rfl, rfl, State.setSlot_slot ..⟩
      · rw [State.status_cx]; exact congrArg (Ctx.setG · d 0) (hv.cx.trans (u.putBytes_cx _ _))
      · exact congrArg some (BitVec.eq_of_toNat_eq (by simp))
    · rw [if_pos (hst.trans h)] at ffree; exact ffree
    · rw [if_neg (fun e => h (hst.symm.trans e)), hk] at ffree
      rw [mkWord0_freed] at ffree
      cases inj with
      | none =>
        obtain ⟨hcx, hx, hw, hf, -⟩ := State.freeFut_keeps u u (homeDie l) slot ((gen + 1) % 16384 * 4) rfl rfl (fun _ => rfl) ha hslot
        refine ⟨_, ffree, ?_, hx, wroteBytes_status _ _ hw, hf⟩
        rw [State.status_cx]; exact congrArg (Ctx.setG · d 0) hcx
      | some j =>
        have hrel := u.endInject_releases u.pid (homeDie l) slot va w0 w1 j
        obtain ⟨hcx, hp, hl⟩ := u.endInject_frame u.pid (homeDie l) slot va w0 w1 j
        obtain ⟨hcx, hx, hw, hf, hh⟩ := State.freeFut_keeps u _ (homeDie l) slot ((gen + 1) % 16384 * 4) hcx hp hl ha hslot
        refine ⟨_, ffree, ?_, hx, wroteBytes_status _ _ hw, releases_to hrel hf fun c => congrArg (fun m => mget Hart.reset m c) hh⟩
        rw [State.status_cx]; exact congrArg (Ctx.setG · d 0) hcx
    · rw [if_pos (hst ▸ h)] at ftmo; exact ftmo
    · rw [if_neg (by rw [hst]; omega), hk] at ftmo
      dsimp only at ftmo
      rw [hu.gr, if_neg (by omega), if_neg hb] at ftmo
      exact ⟨_, ftmo, by rw [State.status_cx]; rfl, State.setSlot_slot ..⟩
    · rw [if_neg (by rw [hst]; omega), hk] at ftmo
      dsimp only at ftmo
      rw [hu.gr, if_neg (fun e => e.1 hb), if_pos hb] at ftmo
      exact ⟨_, ftmo, by rw [State.status_cx]; rfl, State.setSlot_slot ..⟩
    · rw [if_neg (by rw [hst]; omega), hk] at ftmo
      dsimp only at ftmo
      rw [hu.gr, if_pos ⟨hb, ht⟩] at ftmo
      obtain ⟨hcx, -, hrel, hlat⟩ := u.settleFut_releases u.pid (homeDie l) slot x w0 w1 3 (hq ▸ hk)
      rw [hword 3 (by decide)] at hrel hlat
      refine ⟨_, ftmo, ?_, wroteBytes_status _ _ (wroteBytes_of_latest (hpa ▸ u.putW0_wroteBytes (word 3) (hpa ▸ ha) (hpa ▸ hslot)) hlat), hrel⟩
      rw [State.status_cx]; exact congrArg (Ctx.setG · d 0) hcx
    · rw [if_neg (by rw [hst]; omega), hk] at ftmo
      dsimp only at ftmo
      rw [hu.gr, if_pos ⟨hb, ht⟩] at ftmo
      obtain ⟨v, k, hv, he⟩ := u.settleFut_bound u.pid (homeDie l) slot x w0 w1 3 (hq ▸ hk)
      have tmo : exec (.xFtmo d a b g) s = .next (s.finish .x 1 (.ok ((u.settleFut u.pid (homeDie l) slot x w0 w1 3).status d 0))) := ftmo
      rw [he] at tmo
      refine ⟨_, _, tmo, ?_, rfl, rfl, rfl, rfl, State.setSlot_slot ..⟩
      rw [State.status_cx]; exact congrArg (Ctx.setG · d 0) hv.cx

end Sys2Proof.Proofs
end

section
/-! Waits and bindings (R43, R45, R46, R288, R289). -/

namespace Sys2Proof.Machine
open Sys2Proof Sys2Proof.Claims

variable {s t u v : State}

/-- A relaxed load is an access. -/
theorem State.loadRlx_access {e : Eng} {acc : Nat} {va : Word} {n : Nat} {bs : List Byte} (h : s.load e acc va n .rlx = .ok (bs, t)) : Access s.cur.cell s t := by
  unfold State.load at h
  split at h
  · cases h
  next l v hv =>
  unfold State.loadAt at h
  dsimp only at h
  split at h
  · cases h
  · obtain ⟨-, rfl⟩ := Prod.mk.inj (Except.ok.inj h)
    exact ((State.check_access hv).trans_cur (v.drainTo_access e l)).trans (State.homeRead_access _ _ _)

theorem State.load_misaligned {e : Eng} {acc : Nat} {va : Word} {n : Nat} {ord : Ord} (h : va.toNat % n ≠ 0) : s.load e acc va n ord = s.trap (whyOf 5 acc va) := by
  rw [State.load, State.check, if_pos h]; rfl

/-- What fwait does with a live future. -/
def waitBody (d : RegG) (desc : Word) (s : State) (f : Fut) (x : FSlot) : Act State :=
  if fSt f.w0 = 1 then s.futTrap f.va
  else .ok ((s.awaitFut s.pid f x (.cont (contOf desc s.cx.fmode))).1.status d (s.awaitFut s.pid f x (.cont (contOf desc s.cx.fmode))).2)

/-- What fbind does with a live future. -/
def bindBody (d : RegG) (q : Word) (s : State) (f : Fut) (x : FSlot) : Act State :=
  if 2 ≤ fSt f.w0 then s.futTrap f.va
  else match x.kind with
    | .barrier .. => .ok (s.status d 0)
    | .future va w dl _ reply inj => .ok ((s.setSlot f.die (fSlot f.w0) { x with kind := .future va w dl (if q = 0 then none else some q) reply inj }).status d 0)

theorem bindBody_pending (d : RegG) (q : Word) (s : State) {f : Fut} {x : FSlot} {va : Word} {w : Waiter} {dl : Option Nat} {b : Option Word}
    {re : Option (Word × Nat)} {inj : Option Inject} (hk : x.kind = .future va w dl b re inj) (h : f.w0 % 4 < 2) :
    bindBody d q s f x = .ok ((s.setSlot f.die (fSlot f.w0) { x with kind := .future va w dl (if q = 0 then none else some q) re inj }).status d 0) := by
  rw [bindBody, if_neg (by rw [fSt_eq]; omega), hk]

/-! A waiter that comes to a future (R43, R289). -/

section
variable {pid : Nat} {f : Fut} {x : FSlot} {c : Cont} {va : Word} {w : Waiter} {dl : Option Nat} {q : Option Word} {re : Option (Word × Nat)}

theorem State.awaitFut_registers {inj : Option Inject} (hk : x.kind = .future va w dl q re inj) (h : f.w0 % 4 = 0) (wtr : Waiter) :
    s.awaitFut pid f x wtr = ((s.putW0 f.loc.pa (fSlot f.w0 * 65536 + fGen f.w0 * 4 + 1)).setSlot f.die (fSlot f.w0)
      { x with kind := .future va wtr dl q re inj }, 0) := by
  rw [State.awaitFut, hk, ← mkWord0_eq f.w0 (by decide)]
  dsimp only
  rw [if_pos ((fSt_eq _).trans h)]

/-- What a waiter finds at a future that is resolved or timed out. -/
def State.awaitEnd (s : State) (pid : Nat) (f : Fut) (x : FSlot) (va : Word) (dl : Option Nat) (q : Option Word) (re : Option (Word × Nat)) (wtr : Waiter) :
    Option Inject → State
  | none => s.releaseWaiter pid f.die (fSlot f.w0) va f.w0 f.w1 0 wtr
  | some i =>
    if i.wait_ = [] then s.releaseWaiter pid f.die (fSlot f.w0) va f.w0 f.w1 i.done wtr
    else s.setSlot f.die (fSlot f.w0) { x with kind := .future va .none dl q re (some { i with wait_ := i.wait_ ++ [wtr] }) }

theorem State.awaitFut_ended {inj : Option Inject} (hk : x.kind = .future va w dl q re inj) (h : 2 ≤ f.w0 % 4) (wtr : Waiter) :
    s.awaitFut pid f x wtr = (s.awaitEnd pid f x va dl q re wtr inj, if f.w0 % 4 = 2 then 1 else 2) := by
  rw [State.awaitFut, hk]
  dsimp only
  rw [if_neg (by rw [fSt_eq]; omega), fSt_eq]
  cases inj with
  | none => rfl
  | some i =>
    by_cases hw : i.wait_ = []
    · have he : i.ended = true := List.isEmpty_iff.2 hw
      rw [State.awaitEnd, if_pos hw]; dsimp only; rw [if_pos he]
    · have he : ¬i.ended = true := fun e => hw (List.isEmpty_iff.1 e)
      rw [State.awaitEnd, if_neg hw]; dsimp only; rw [if_neg he]

theorem State.awaitEnd_cx (s : State) (pid : Nat) (f : Fut) (x : FSlot) (va : Word) (dl : Option Nat) (q : Option Word) (re : Option (Word × Nat)) (c : Cont)
    (inj : Option Inject) : (s.awaitEnd pid f x va dl q re (.cont c) inj).cx = s.cx ∧ (s.awaitEnd pid f x va dl q re (.cont c) inj).mem = s.mem := by
  cases inj with
  | none => exact ⟨rfl, rfl⟩
  | some i => rw [State.awaitEnd]; split <;> exact ⟨rfl, rfl⟩
end

end Sys2Proof.Machine

namespace Sys2Proof.Proofs
open Sys2Proof Sys2Proof.Machine Sys2Proof.Claims

/-- A wait on a future and the binding of its token queue (R45, R46, R288). -/
theorem futureWaits : Claims.FutureWaits := by
  unfold Claims.FutureWaits
  intro s d a b g l o u hg hs hr va w0 w1 f st gen slot desc c trapIn passed
  obtain ⟨hobj, ha, hslot⟩ := hr
  have hu := State.object_access hobj
  obtain ⟨v, hpass⟩ := State.object_check hobj
  have fwait := (exec_xFwait d a b g s).trans (congrArg Host.Outcome.next (xRun_settled hg hs (by simp)))
  have fbind := (exec_xFbind d a b g s).trans (congrArg Host.Outcome.next (xRun_settled hg hs (by simp)))
  dsimp only at fwait fbind
  have hst : fSt (Fut.of l (s.cx.gr a) o).w0 = st := fSt_eq _
  have wait_ : s.descBad desc = none → exec (.xFwait d a b g) s = .next (s.finish .x 1 (s.futOp d a (waitBody d desc))) := fun hgood => by
    rw [hpass] at fwait; dsimp only at fwait
    rw [hgood] at fwait; exact fwait
  have bind_ : desc = 0 → exec (.xFbind d a b g) s = .next (s.finish .x 1 (s.futOp d a (bindBody d desc))) := fun h0 => by
    rw [hpass] at fbind; dsimp only at fbind
    rw [if_pos h0] at fbind; exact fbind
  refine ⟨fun k p v hbad hp => ?_, fun hh => ⟨fun hgood => ?_, fun h0 => ?_⟩, fun hh hl => ⟨fun hgood => ?_, fun h0 => ?_⟩,
    fun x w dl q re inj hh hl hk => ⟨fun hgood => ⟨fun h => ?_, fun h => ?_, fun h => ?_⟩, fun h0 h => ?_, fun h0 h => ?_⟩, fun p v hmis hp => ?_, 
    fun hd p v t h0 hp hload => ⟨fun hbad => ?_, fun l' o' y hbad hobj' => ?_⟩⟩
  · rw [show s.check .x 3 .readWrite (s.cx.gr a) 16 = _ from hp] at fwait
    dsimp only at fwait
    rw [hbad] at fwait
    exact fwait.trans (congrArg Host.Outcome.next (finish_refuseWait s v 1 _ k))
  · exact (wait_ hgood).trans (by rw [State.futOp_stale hobj hh]; rfl)
  · exact (bind_ h0).trans (by rw [State.futOp_stale hobj hh]; rfl)
  · exact (wait_ hgood).trans (by rw [State.futOp_dead hobj hh hl, finish_futTrap])
  · exact (bind_ h0).trans (by rw [State.futOp_dead hobj hh hl, finish_futTrap])
  · have r := wait_ hgood
    rw [State.futOp_live hobj hh hl, waitBody, if_neg (by rw [hst, h]; decide), contOf_eq, State.awaitFut_registers hk h] at r
    have hm := u.putBytes_onlyMemory l.pa (leBytes 8 (slot * 65536 + gen * 4 + 1))
    have hw := u.putW0_wroteBytes (slot * 65536 + gen * 4 + 1) ha hslot
    refine ⟨_, r, ?_, State.setSlot_slot .., wroteBytes_status _ _ (wroteBytes_of_latest hw fun _ => rfl)⟩
    rw [State.status_cx]; exact congrArg (Ctx.setG · d 0) hm.cx
  · have r := wait_ hgood
    rw [State.futOp_live hobj hh hl, waitBody, if_pos (hst.trans h), finish_futTrap] at r
    exact r
  · have r := wait_ hgood
    rw [State.futOp_live hobj hh hl, waitBody, if_neg (by rw [hst]; omega), contOf_eq, State.awaitFut_ended hk h] at r
    obtain ⟨hcx, hmem⟩ := u.awaitEnd_cx u.pid f x va dl q re c inj
    refine ⟨_, r, ?_, hmem, ?_⟩
    · rw [State.status_cx, apply_ite (BitVec.ofNat 64)]; exact congrArg (Ctx.setG · d _) hcx
    · cases inj with
      | none => exact State.sendCont_adds u ..
      | some j =>
        refine ⟨fun he => ?_, fun he => ?_⟩
        · rw [State.awaitEnd, if_pos he]; exact State.sendCont_adds u ..
        · rw [State.awaitEnd, if_neg he]; exact ⟨rfl, State.setSlot_slot ..⟩
  · have r := bind_ h0
    rw [State.futOp_live hobj hh hl, bindBody_pending d desc u hk h, if_pos h0] at r
    exact ⟨_, r, State.status_cx _ _ _, State.setSlot_slot ..⟩
  · have r := bind_ h0
    rw [State.futOp_live hobj hh hl, bindBody, if_pos (hst.symm ▸ h), finish_futTrap] at r
    exact r
  · rw [show s.check .x 3 .readWrite (s.cx.gr a) 16 = _ from hp] at fbind; dsimp only at fbind
    rw [if_neg (fun e => hmis (by rw [show desc = 0 from e]; rfl)), State.load_misaligned hmis] at fbind
    exact fbind
  · have ht : Access s.cur.cell s t := (State.check_access hp).trans_cur (State.loadRlx_access hload)
    rw [show s.check .x 3 .readWrite (s.cx.gr a) 16 = _ from hp] at fbind; dsimp only at fbind
    rw [if_neg h0, show v.load .x 3 (s.cx.gr b) 64 .rlx = _ from hload] at fbind; dsimp only at fbind
    rw [if_pos hbad, ht.gr, finish_futTrap] at fbind
    exact fbind
  · intro w0'
    have ht : Access s.cur.cell s t := (State.check_access hp).trans_cur (State.loadRlx_access hload)
    have r : exec (.xFbind d a b g) s = .next (s.finish .x 1 (t.futOp d a (bindBody d desc))) := by
      rw [show s.check .x 3 .readWrite (s.cx.gr a) 16 = _ from hp] at fbind; dsimp only at fbind
      rw [if_neg h0, show v.load .x 3 (s.cx.gr b) 64 .rlx = _ from hload] at fbind; dsimp only at fbind
      rw [if_neg (by rw [hbad]; decide)] at fbind
      exact fbind
    have hobj'' : t.object .x (t.cx.gr a) 16 = .ok (l', o', y) := by rw [ht.gr]; exact hobj'
    refine ⟨fun hh => ?_, fun x w dl q re inj hh hl hk => ⟨fun h => ?_, fun h => ?_⟩⟩
    · rw [State.futOp_stale hobj'' hh] at r; exact r
    · rw [State.futOp_live hobj'' hh (by rw [ht.gr]; exact hl), bindBody_pending d desc y hk h, if_neg h0] at r
      exact ⟨_, r, State.status_cx _ _ _, State.setSlot_slot ..⟩
    · rw [State.futOp_live hobj'' hh (by rw [ht.gr]; exact hl), bindBody, if_pos (by rw [fSt_eq]; exact h), ht.gr, finish_futTrap] at r
      exact r

/-- Settles O59: an operation under a handle is stale, dead or live, and settling releases the waiter or starts the injection. -/
theorem futuresOfX : Obligations.FuturesOfX := ⟨futureOperations, futureWaits⟩

end Sys2Proof.Proofs
end

section
/-! Tasks: the walk's parcel, the local queue and a named queue (R29 to R33, R277 to R280). -/

namespace Sys2Proof.Machine
open Sys2Proof Sys2Proof.Claims

variable {s t u v : State} {b a : RegG} {g : GuardP} {all : List RegG}

/-- TYPE and CHAN in the header bits that a task parcel is built from (R277). -/
theorem taskHdr_fields (hint : Nat) {chan typ : Nat} (hc : chan < 64) (ht : typ < 256) :
    nbits 24 8 (hint % 65536 + chan * 2 ^ 16 + typ * 2 ^ 24) % 256 = typ ∧ nbits 16 8 (hint % 65536 + chan * 2 ^ 16 + typ * 2 ^ 24) % 256 = chan := by
  constructor <;> (rw [nbits]; omega)

/-- tspawn of a task that a cell of the grid may take: it waits for a slot, or the task leaves on its walk (R30, R277). -/
theorem tspawn_leaves (va : RegV) (hg : guardOn s.cx g) (hs : settled s.cx all) (ha : ∀ r ∈ [a], r ∈ all) :
    let w := (s.cx.gr a).toNat
    let hx := nbits 0 8 w
    let hy := nbits 8 8 w
    let hint := hy * (s.part s.pid).gridW + hx
    nbits 32 8 w < 0xF0 → hx < (s.part s.pid).gridW → hy < (s.part s.pid).gridH → (s.part s.pid).kindOf hint = 1 →
      (8 ≤ s.cx.out.length → runs (.xTspawn va a g) s s)
      ∧ (s.cx.out.length < 8 → ∃ (t : State) (f : TaskFlight), runs (.xTspawn va a g) s (t.retire .x 1) ∧ t.tasks = s.rel.tasks ++ [f]
        ∧ f.id = s.rel.serial ∧ t.cx.out = s.rel.cx.out ++ [f.id] ∧ f.at_ = s.rel.cl.lcell.toNat ∧ f.hint = hint ∧ f.rad = nbits 16 4 w
        ∧ f.any = decide (nbits 23 1 w = 1) ∧ f.steps = 0 ∧ (vecBytes f.parcel).drop 8 = (vecBytes (s.rel.cx.vr va)).drop 8
        ∧ hType (f.parcel.setWidth 64) = nbits 32 8 w ∧ hChan (f.parcel.setWidth 64) = nbits 24 6 w) := by
  intro w hx hy hint htype hhx hhy hkind
  have r := (exec_xTspawn va a g s).trans (congrArg Host.Outcome.next (xRun_settled hg hs ha))
  have hchan : nbits 24 6 w < 64 := nbits_lt 24 6 w
  extract_lets -underBinder +onlyGivenNames w' p hint' h at r
  rw [if_neg (not_le.2 htype), if_neg (by rintro (e | e | e); exact not_lt.2 e hhx; exact not_lt.2 e hhy; exact e hkind)] at r
  refine ⟨fun hfull => ?_, fun hfree => ?_⟩
  · rw [if_pos (show Config.outSlots ≤ s.cx.out.length from hfull)] at r; exact r
  · rw [if_neg (show ¬Config.outSlots ≤ s.cx.out.length from not_le.2 hfree)] at r
    refine ⟨_, _, r, rfl, rfl, ?_, rfl, rfl, rfl, rfl, rfl, payload_mkParcel _ (length_payload _), ?_, ?_⟩
    · exact congrArg Ctx.out (State.setCx_cx s.rel _)
    · refine (congrArg hType (parcelHdr_mkParcel _ _)).trans ?_
      rw [State.sendHdr, mkHdr_type]; exact (taskHdr_fields hint hchan (nbits_lt 32 8 w)).1
    · refine (congrArg hChan (parcelHdr_mkParcel _ _)).trans ?_
      rw [State.sendHdr, mkHdr_chan]; exact (taskHdr_fields hint hchan (nbits_lt 32 8 w)).2

/-! The local queue (R32, R278 to R280). -/

@[simp] theorem State.setCl_cl (s : State) (k : Cell) : (s.setCl k).cl = k := by rw [State.cl, State.setCl, State.setCell_cell]; exact if_pos rfl
/-- A cell that keeps its contexts keeps the running one. -/
theorem State.setCl_cx (s : State) {k : Cell} (h : k.ctxs = s.cl.ctxs) : (s.setCl k).cx = s.cx := by
  rw [State.cx, State.ctx, State.setCl, State.setCell_cell, if_pos (show s.cur.cell = (s.setCell s.cur.cell k).cur.cell from rfl)]
  rw [Cell.ctx, h]; rfl
theorem State.setCx_cl (s : State) (x : Ctx) : (s.setCx x).cl = s.cl.setCtx s.cur.ctx x := by
  rw [State.cl, State.setCx, State.setCtx, State.setCell_cell]; exact if_pos rfl
@[simp] theorem State.status_cl (s : State) (d : RegG) (n : Nat) : (s.status d n).cl = s.cl.setCtx s.cur.ctx (s.cx.setG d (BitVec.ofNat 64 n)) := s.setCx_cl _
theorem State.status_taskq (s : State) (d : RegG) (n : Nat) : (s.status d n).cl.taskq = s.cl.taskq := by rw [State.status_cl]; rfl

theorem tqenq_local (va : RegV) (hg : guardOn s.cx g) (hs : settled s.cx all) (ha : ∀ r ∈ [b, a], r ∈ all) (h0 : s.cx.gr a = 0) :
    (0xF0 ≤ hType (parcelHdr (s.ownParcel (s.cx.vr va))) ∨ s.cl.accepts (s.ownParcel (s.cx.vr va)) = false → runs (.xTqenq b va a g) s (answers s b 2))
    ∧ (hType (parcelHdr (s.ownParcel (s.cx.vr va))) < 0xF0 → s.cl.accepts (s.ownParcel (s.cx.vr va)) = true →
      (64 ≤ s.cl.taskq.length → runs (.xTqenq b va a g) s (answers s b 1))
      ∧ (s.cl.taskq.length < 64 → ∃ t : State, runs (.xTqenq b va a g) s (t.retire .x 1) ∧ t.cx = s.rel.cx.setG b 0
        ∧ t.cl.taskq = s.rel.cl.taskq ++ [s.ownParcel (s.cx.vr va)])) := by
  have r := (exec_xTqenq b va a g s).trans (congrArg Host.Outcome.next (xRun_settled hg hs ha))
  extract_lets -underBinder +onlyGivenNames p typ at r
  rw [if_pos h0] at r
  refine ⟨fun hbad => ?_, fun htype hacc => ⟨fun hfull => ?_, fun hroom => ?_⟩⟩
  · rw [if_pos (hbad.imp_right fun e => by rw [show s.cl.accepts p = false from e]; rfl)] at r; exact r
  · rw [if_neg (by rintro (e | e); exact not_le.2 htype e; rw [show s.cl.accepts p = true from hacc] at e; cases e),
      if_pos (show Config.localTasks ≤ s.cl.taskq.length from hfull)] at r
    exact r
  · rw [if_neg (by rintro (e | e); exact not_le.2 htype e; rw [show s.cl.accepts p = true from hacc] at e; cases e),
      if_neg (show ¬Config.localTasks ≤ s.cl.taskq.length from not_le.2 hroom)] at r
    refine ⟨_, r, ?_, ?_⟩
    · rw [State.status_cx, State.setCl_cx]; rfl; rfl
    · rw [State.status_taskq, State.setCl_cl]

theorem State.localTask_own {p : Vec} {rest : List Vec} (h : s.cl.taskq = p :: rest) : s.localTask = some (s.cur.cell, 0, p) := by
  unfold State.localTask; dsimp only; rw [h]

theorem tqdeq_local (va : RegV) (hg : guardOn s.cx g) (hs : settled s.cx all) (ha : ∀ r ∈ [b, a], r ∈ all) (h0 : s.cx.gr a = 0) :
    (∀ p rest, s.cl.taskq = p :: rest → s.modeClash p = false → ∃ t : State, runs (.xTqdeq b va a g) s (t.retire .x 1) ∧ t.cl.taskq = rest
      ∧ t.cx.vr va = withDest p s.cl.lcell.toNat ∧ t.cx.gr b = 0 ∧ (∀ r, r ≠ b → t.cx.gr r = s.cx.gr r) ∧ t.mem = s.mem)
    ∧ (∀ p rest, s.cl.taskq = p :: rest → s.modeClash p = true →
        runs (.xTqdeq b va a g) s (s.raise s.cur.cell s.cur.ctx .x ⟨0x21, 6, 0xFF, 0, 0, 0⟩ 0 0))
    ∧ (s.localTask = none → runs (.xTqdeq b va a g) s (answers s b 1)) := by
  have r := (exec_xTqdeq b va a g s).trans (congrArg Host.Outcome.next (xRun_settled hg hs ha))
  rw [if_pos h0] at r
  refine ⟨fun p rest hq hmode => ?_, fun p rest hq hmode => ?_, fun hno => ?_⟩
  · rw [State.localTask_own hq] at r
    dsimp only at r
    rw [if_neg (by rw [hmode]; decide)] at r
    have hacq : Access s.cur.cell s (s.acq .x) := s.acquire_access _ _ _
    have hcl : ∀ {α : Type} (f : Cell → α), (∀ k, f k.core = f k) → f (s.acq .x).cl = f s.cl := fun f hf => hacq.of_cl f hf
    have hgr : ∀ r, (s.acq .x).cx.gr r = s.cx.gr r := hacq.gr
    let k := { (s.acq .x).cl with taskq := (s.acq .x).cl.taskq.eraseIdx 0 }
    let y := (s.acq .x).setCl k
    have hy : y.cx = (s.acq .x).cx := State.setCl_cx _ rfl
    have hk : y.cl = k := State.setCl_cl _ _
    let z := y.setCx (y.cx.setV va (withDest p y.cl.lcell.toNat))
    have hz : z.cx = y.cx.setV va (withDest p y.cl.lcell.toNat) := State.setCx_cx _ _
    have hzb : (z.status b 0).cx = z.cx.setG b 0 := State.status_cx _ _ _
    refine ⟨z.status b 0, r, ?_, ?_, ?_, fun q hne => ?_, rfl⟩
    · rw [State.status_taskq, State.setCx_cl, hk]
      show (s.acq .x).cl.taskq.eraseIdx 0 = rest
      rw [hcl (·.taskq) fun _ => rfl, hq]; rfl
    · rw [hzb, hz, hk, Ctx.vr, Ctx.setG_v, ← Ctx.vr, Ctx.setV_vr, if_pos rfl]
      exact congrArg (fun l : BitVec 16 => withDest p l.toNat) (hcl (·.lcell) fun _ => rfl)
    · rw [hzb, Ctx.setG_gr]
      by_cases hb : b = 0
      · rw [hb, if_neg (by simp), Ctx.gr_zero]
      · rw [if_pos ⟨rfl, hb⟩]
    · rw [hzb, Ctx.setG_gr, if_neg (fun e => hne e.1), hz, Ctx.gr, Ctx.setV_g, ← Ctx.gr, hy, hgr]
  · rw [State.localTask_own hq] at r
    dsimp only at r
    rw [if_pos hmode] at r
    exact r
  · rw [hno] at r; exact r

/-! A named queue (R33, R279, R280). -/

theorem tqenq_named (va : RegV) (hg : guardOn s.cx g) (hs : settled s.cx all) (ha : ∀ r ∈ [b, a], r ∈ all) (h0 : s.cx.gr a ≠ 0) {l : Loc} {q : List Byte}
    (hr : reaches s a 64 l q u) :
    (0xF0 ≤ hType (parcelHdr (s.ownParcel (s.cx.vr va))) ∨ tqInvalid q = true → runs (.xTqenq b va a g) s (answers u b 2))
    ∧ (hType (parcelHdr (s.ownParcel (s.cx.vr va))) < 0xF0 → tqInvalid q = false →
      (2 ^ bnat q 8 1 ≤ tqCount q → runs (.xTqenq b va a g) s (answers u b 1))
      ∧ (tqCount q < 2 ^ bnat q 8 1 → ∀ e w, u.check .x 3 .readWrite (tqEntry q (bnat q 20 4)) 64 = .ok (e, w) → e.pa % 64 = 0 → e.pa / 64 ≠ l.pa / 64 →
        w.slotPages (e.pa / 64) = [] → w.slotPages (l.pa / 64) = [] →
        ∃ t : State, runs (.xTqenq b va a g) s (t.retire .x 1) ∧ t.cx = w.cx.setG b 0
          ∧ ∀ x, t.latest x = if e.pa ≤ x ∧ x < e.pa + 64 then (vecBytes (s.ownParcel (s.cx.vr va))).getD (x - e.pa) 0
              else if l.pa + 20 ≤ x ∧ x < l.pa + 24 then (leBytes 4 (bnat q 20 4 + 1)).getD (x - (l.pa + 20)) 0 else w.latest x)) := by
  obtain ⟨hobj, hal, -⟩ := hr
  have r := (exec_xTqenq b va a g s).trans (congrArg Host.Outcome.next (xRun_settled hg hs ha))
  extract_lets -underBinder +onlyGivenNames p typ at r
  rw [if_neg h0, hobj] at r
  dsimp -zeta only at r
  refine ⟨fun hbad => ?_, fun htype hvalid => ⟨fun hfull => ?_, fun hroom e w he hea hne hse hsl => ?_⟩⟩
  · rw [if_pos hbad] at r; exact r
  · rw [if_neg (by rintro (e | e); exact not_le.2 htype e; rw [hvalid] at e; cases e), if_pos hfull] at r
    exact r
  · rw [if_neg (by rintro (e | e); exact not_le.2 htype e; rw [hvalid] at e; cases e), if_neg (not_le.2 hroom), he] at r
    have lp : (vecBytes p).length = 64 := length_vecBytes _
    have ln : (leBytes 4 (bnat q 20 4 + 1)).length = 4 := length_leBytes _ _
    have m1 : OnlyMemory w (w.putBytes e.pa (vecBytes p)) := w.putBytes_onlyMemory _ _
    have h1 := w.putBytes_wroteBytes e.pa (vecBytes p) (by omega) hse
    have h2 := (w.putBytes e.pa (vecBytes p)).putBytes_wroteBytes (l.pa + 20) (leBytes 4 (bnat q 20 4 + 1)) (by omega)
      (by rw [m1.slotPages, show (l.pa + 20) / 64 = l.pa / 64 by omega]; exact hsl)
    have m2 := m1.trans (State.putBytes_onlyMemory (w.putBytes e.pa (vecBytes p)) (l.pa + 20) (leBytes 4 (bnat q 20 4 + 1)))
    refine ⟨_, r, ?_, fun x => ?_⟩
    · rw [State.status_cx]; exact congrArg (Ctx.setG · b 0) m2.cx
    · rw [State.status_latest]
      refine (h2 x).trans ?_
      rw [h1 x, lp, ln]
      by_cases hx : e.pa ≤ x ∧ x < e.pa + 64
      · rw [if_neg (by omega), if_pos hx, if_pos hx]
      · rw [if_neg hx, if_neg hx]

theorem tqdeq_named (va : RegV) (hg : guardOn s.cx g) (hs : settled s.cx all) (ha : ∀ r ∈ [b, a], r ∈ all) (h0 : s.cx.gr a ≠ 0) {l : Loc} {q : List Byte}
    (hr : reaches s a 64 l q u) :
    (tqInvalid q = true → runs (.xTqdeq b va a g) s (answers u b 2))
    ∧ (tqInvalid q = false → tqCount q = 0 → runs (.xTqdeq b va a g) s (answers u b 1))
    ∧ (tqInvalid q = false → tqCount q ≠ 0 → ∀ e w, u.check .x 3 .readWrite (tqEntry q (bnat q 16 4)) 64 = .ok (e, w) → e.pa % 64 = 0 →
        w.poisoned (e.pa / 64) = false → w.slotPages (l.pa / 64) = [] → w.modeClash (vecOf (bytesAt w e.pa 64)) = false →
        ∃ t : State, runs (.xTqdeq b va a g) s (t.retire .x 1) ∧ t.cx = (w.cx.setV va (vecOf (bytesAt w e.pa 64))).setG b 0
          ∧ wroteBytes w t (l.pa + 16) (leBytes 4 (bnat q 16 4 + 1))) := by
  obtain ⟨hobj, hal, -⟩ := hr
  have r := (exec_xTqdeq b va a g s).trans (congrArg Host.Outcome.next (xRun_settled hg hs ha))
  rw [if_neg h0, hobj] at r
  dsimp -zeta only at r
  refine ⟨fun hbad => ?_, fun hvalid hempty => ?_, fun hvalid hsome e w he hea hpois hsl hmode => ?_⟩
  · rw [if_pos hbad] at r; exact r
  · rw [if_neg (by rw [hvalid]; decide), if_pos hempty] at r; exact r
  · rw [if_neg (by rw [hvalid]; decide), if_neg hsome, he] at r
    have hread : OnlyMemory w (w.homeRead e.pa 64).1 := w.homeRead_onlyMemory _ _
    have hbytes : (w.homeRead e.pa 64).2.1 = bytesAt w e.pa 64 := w.homeRead_bytes _ _
    have hclean : (w.homeRead e.pa 64).2.2 = false := (w.homeRead_poison _ _ (by decide) (by omega)).trans hpois
    have ln : (leBytes 4 (bnat q 16 4 + 1)).length = 4 := length_leBytes _ _
    dsimp -zeta only at r
    extract_lets -underBinder +onlyGivenNames h at r
    rw [if_neg (show ¬h.2.2 = true by rw [show h.2.2 = false from hclean]; decide)] at r
    extract_lets -underBinder +onlyGivenNames p at r
    rw [show p = vecOf (bytesAt w e.pa 64) from congrArg vecOf hbytes, if_neg (by rw [hmode]; decide)] at r
    have hput := h.1.putBytes_onlyMemory (l.pa + 16) (leBytes 4 (bnat q 16 4 + 1))
    have hw := h.1.putBytes_wroteBytes (l.pa + 16) (leBytes 4 (bnat q 16 4 + 1)) (by omega)
      (by rw [hread.slotPages, show (l.pa + 16) / 64 = l.pa / 64 by omega]; exact hsl)
    have hlat : ∀ x, h.1.latest x = w.latest x := w.homeRead_latest e.pa 64
    generalize h.1.putBytes (l.pa + 16) (leBytes 4 (bnat q 16 4 + 1)) = t at r hput hw
    have hput' : wroteBytes w t (l.pa + 16) (leBytes 4 (bnat q 16 4 + 1)) := fun x => by rw [← hlat]; exact hw x
    refine ⟨_, r, ?_, wroteBytes_status b 0 (wroteBytes_of_latest hput' fun _ => rfl)⟩
    rw [State.status_cx, State.setCx_cx]
    exact congrArg (fun y : Ctx => (y.setV va (vecOf (bytesAt w e.pa 64))).setG b 0) (hput.cx.trans hread.cx)

end Sys2Proof.Machine

namespace Sys2Proof.Proofs
open Sys2Proof Sys2Proof.Machine Sys2Proof.Claims

/-- Settles O11: a task leaves on its walk, and the local and a named queue each take and give tasks. -/
theorem taskQueues : Obligations.TaskQueues := by
  unfold Obligations.TaskQueues
  intro s b a v g hg hs
  refine ⟨tspawn_leaves v hg hs (by simp), fun h0 => ?_, fun h0 l q u hr => ?_⟩
  · obtain ⟨h1, h2⟩ := tqenq_local (b := b) v hg hs (by simp) h0
    exact ⟨h1, h2, tqdeq_local v hg hs (by simp) h0⟩
  · obtain ⟨h1, h2⟩ := tqenq_named (b := b) v hg hs (by simp) h0 hr
    exact ⟨h1, h2, tqdeq_named v hg hs (by simp) h0 hr⟩

end Sys2Proof.Proofs
end

section
/-! The handler table (R18 to R20, R274 to R276, R338). -/

namespace Sys2Proof.Machine
open Sys2Proof Sys2Proof.Claims

variable {s t u v : State}

/-- A status, where no loop ends. -/
theorem answers_goes (s : State) (d : RegG) (n : Nat) (h : noLoop s.cx .x) : (s.status d n).retire .x 1 = xGoes s (s.cx.setG d (BitVec.ofNat 64 n)) 1 := by
  rw [State.retire_plain _ _ _ (fun k hk => by simpa using h k hk), State.status_cx, State.status, State.setCx_setCx]; rfl

/-! Free values in the mailboxes and frames of a cell (R19). -/

/-- From s to t nothing of the contexts changed, and of a cell's channels only mailboxes. -/
structure TableKept (cell : Nat) (s t : State) : Prop where
  chan : ∀ k, t.chan cell k = { s.chan cell k with mailbox := (t.chan cell k).mailbox }
  cur : t.cur = s.cur
  ctx : ∀ c k, t.ctx c k = s.ctx c k

namespace TableKept
variable {cell : Nat}

theorem refl (s : State) : TableKept cell s s := ⟨fun _ => rfl, rfl, fun _ _ => rfl⟩
theorem trans (h : TableKept cell s t) (g : TableKept cell t u) : TableKept cell s u :=
  ⟨fun k => by rw [g.chan k, h.chan k], g.cur.trans h.cur, fun c k => (g.ctx c k).trans (h.ctx c k)⟩
theorem foldl {β : Type} (f : State → β → State) (l : List β) (s : State) (hf : ∀ t b, TableKept cell t (f t b)) : TableKept cell s (l.foldl f s) :=
  foldl_keeps (fun t => TableKept cell s t) f l s (refl s) fun t b ht => ht.trans (hf t b)
theorem cx (h : TableKept cell s t) : t.cx = s.cx := by rw [State.cx, State.cx, h.cur, h.ctx]

end TableKept

/-- The bytes of a cell's store become free values; its channels and contexts stay. -/
theorem State.freeStore_tableKept (s : State) (cell off n : Nat) : TableKept cell s (s.freeStore cell off n) := by
  have hcell : ∀ m, (s.freeStore cell off n).cell m = if cell = m then (s.cell cell).rawWrite off
      ((List.range n).map fun i => (vecBytes (Config.freeBits (s.free + i / 64))).getD (i % 64) 0) else s.cell m := fun m => State.setCell_cell ..
  refine ⟨fun k => ?_, rfl, fun c k => ?_⟩
  · rw [State.chan, hcell, if_pos rfl]; rfl
  · rw [State.ctx, hcell]; split
    · next h => rw [← h]; rfl
    · rfl

theorem State.spoilFrames_tableKept (s : State) (cell chan : Nat) : TableKept cell s (s.spoilFrames cell chan) := by
  refine .foldl _ _ _ fun t c => ?_
  dsimp only
  split
  · split
    · exact t.freeStore_tableKept ..
    · exact .refl t
  · exact .refl t

/-- New parcels in a mailbox. -/
theorem State.setMailbox_tableKept (s : State) (cell chan : Nat) (mb : List Vec) : TableKept cell s (s.setChan cell chan { s.chan cell chan with mailbox := mb }) := by
  refine ⟨fun k => ?_, rfl, fun c k => ?_⟩
  · rw [State.chan, State.setChan, State.setCell_cell, if_pos rfl, Cell.setChan_chan]; split
    · next h => rw [← h]
    · rfl
  · rw [State.ctx, State.setChan, State.setCell_cell]; split
    · next h => rw [← h]; rfl
    · rfl

theorem State.spoilClashes_tableKept (s : State) (cell : Nat) : TableKept cell s (s.spoilClashes cell) := by
  refine .foldl _ _ _ fun t c => ?_
  extract_lets h w
  have hw : TableKept cell t w := (t.setMailbox_tableKept cell c.1 _).trans ⟨fun _ => rfl, rfl, fun _ _ => rfl⟩
  exact hw.trans (w.spoilFrames_tableKept _ _)

/-! The mask bits (R275). -/

/-- One channel of a set has its entry changed. -/
def maskOne (p : Nat → Bool) (f : BitVec 256 → BitVec 256) (k : Cell) (c : Nat) : Cell :=
  if p c then k.setChan c { k.chan c with entry := f (k.chan c).entry } else k

theorem foldl_maskOne (p : Nat → Bool) (f : BitVec 256 → BitVec 256) (k : Cell) (n : Nat) :
    ((List.range n).foldl (maskOne p f) k).ctxs = k.ctxs ∧ ∀ j, ((List.range n).foldl (maskOne p f) k).chan j
      = if j < n ∧ p j = true then { k.chan j with entry := f (k.chan j).entry } else k.chan j := by
  induction n with
  | zero => exact ⟨rfl, fun j => by simp⟩
  | succ n ih =>
    obtain ⟨hx, hc⟩ := ih
    rw [List.range_succ, List.foldl_append, List.foldl_cons, List.foldl_nil]
    generalize (List.range n).foldl (maskOne p f) k = m at hx hc
    have hn : m.chan n = k.chan n := by rw [hc, if_neg (by omega)]
    unfold maskOne
    split
    · next hp =>
      refine ⟨hx, fun j => ?_⟩
      rw [Cell.setChan_chan, hn]
      by_cases hj : n = j
      · rw [if_pos hj, if_pos ⟨by omega, hj ▸ hp⟩, hj]
      · rw [if_neg hj, hc]; simp only [show j < n + 1 ↔ j < n by omega]
    · next hp =>
      refine ⟨hx, fun j => ?_⟩
      rw [hc]
      by_cases hj : n = j
      · rw [if_neg (by omega), if_neg (fun e => hp (hj ▸ e.2))]
      · simp only [show j < n + 1 ↔ j < n by omega]

theorem State.setMasks_table (s : State) (set : Word) (on : Bool) (f : BitVec 256 → BitVec 256) (hf : ∀ e, f e = if on then e ||| 2 else e &&& ~~~2#256) :
    (s.setMasks set on).cx = s.cx ∧ ∀ k < 64, (s.setMasks set on).cl.chan k =
      { s.cl.chan k with entry := if set.getLsbD k = true ∧ (s.cx.kmode = true ∨ s.cl.kchan.getLsbD k = false) then f (s.cl.chan k).entry else (s.cl.chan k).entry } := by
  obtain ⟨hx, hc⟩ := foldl_maskOne (fun c => set.getLsbD c && !s.guarded c) f s.cl 64
  have hm : s.setMasks set on = s.setCl ((List.range 64).foldl (maskOne (fun c => set.getLsbD c && !s.guarded c) f) s.cl) := by
    obtain rfl : f = fun e => if on then e ||| 2 else e &&& ~~~2#256 := funext hf
    rfl
  rw [hm]
  refine ⟨State.setCl_cx _ hx, fun k hk => ?_⟩
  rw [State.setCl_cl, hc k]
  have hp : (set.getLsbD k && !s.guarded k) = true ↔ set.getLsbD k = true ∧ (s.cx.kmode = true ∨ s.cl.kchan.getLsbD k = false) := by
    rw [State.guarded]; cases set.getLsbD k <;> cases s.cx.kmode <;> cases s.cl.kchan.getLsbD k <;> decide
  by_cases h : set.getLsbD k = true ∧ (s.cx.kmode = true ∨ s.cl.kchan.getLsbD k = false)
  · rw [if_pos ⟨hk, hp.2 h⟩, if_pos h]
  · rw [if_neg (fun e => h (hp.1 e.2)), if_neg h]

/-! Binding (R20, R274). -/

/-- A new entry replaces a channel's: it and its state are read back, and no other channel's, nor any context. -/
theorem State.bindChan_binds (s : State) (cell chan : Nat) (e : BitVec 256) :
    let t := s.bindChan cell chan e
    t.cur = s.cur ∧ (∀ c k, t.ctx c k = s.ctx c k) ∧ ((t.chan cell chan).entry = e ∧ (t.chan cell chan).skip = 0 ∧ (t.chan cell chan).boost = 0
      ∧ (t.chan cell chan).st = if entBnd e then .idle else .unbound)
    ∧ ∀ k, k ≠ chan → (t.chan cell k).entry = (s.chan cell k).entry ∧ (t.chan cell k).st = (s.chan cell k).st := by
  intro t
  let v := s.setChan cell chan ((s.chan cell chan).bind e)
  have hv : ∀ k, v.chan cell k = if chan = k then (s.chan cell chan).bind e else s.chan cell k := fun k => by
    show (s.setChan cell chan _).chan cell k = _
    rw [State.chan, State.setChan, State.setCell_cell, if_pos rfl, Cell.setChan_chan]; rfl
  have hx : ∀ c k, v.ctx c k = s.ctx c k := fun c k => by
    show (s.setChan cell chan _).ctx c k = _
    rw [State.ctx, State.setChan, State.setCell_cell]; split
    · next h => rw [← h]; rfl
    · rfl
  have ht : TableKept cell v t := by
    show TableKept cell v (if _ then _ else _)
    split
    · exact v.spoilClashes_tableKept cell
    · exact .refl v
  have hc := hv chan
  rw [if_pos rfl] at hc
  refine ⟨ht.cur, fun c k => (ht.ctx c k).trans (hx c k), ⟨?_, ?_, ?_, ?_⟩, fun k hk => ⟨?_, ?_⟩⟩
  · rw [ht.chan, hc]; rfl
  · rw [ht.chan, hc]; rfl
  · rw [ht.chan, hc]; rfl
  · rw [ht.chan, hc]; rfl
  · rw [ht.chan, hv, if_neg (Ne.symm hk)]
  · rw [ht.chan, hv, if_neg (Ne.symm hk)]

/-- Without an overlap only the channel itself changes. -/
theorem State.bindChan_alone (s : State) (cell chan : Nat) {e : BitVec 256} (h : (((s.cell cell).setChan chan ((s.chan cell chan).bind e)).mailClash chan) = false)
    (ha : entActor e = false) : s.bindChan cell chan e = s.setChan cell chan ((s.chan cell chan).bind e) := by
  have hk : (s.setChan cell chan ((s.chan cell chan).bind e)).cell cell = (s.cell cell).setChan chan ((s.chan cell chan).bind e) := by
    rw [State.setChan, State.setCell_cell, if_pos rfl]
  unfold State.bindChan
  extract_lets v k
  rw [show k = _ from hk, h, ha, Bool.false_and, Bool.or_false, Bool.and_false, if_neg (by decide)]

/-! Actors (R18, R276). -/

theorem ebits_eq (e : BitVec 256) (lo n : Nat) : ebits e lo n = (e.extractLsb' lo n).toNat := (extract_toNat ..).symm

/-- The bits that an actor frame takes in an entry, and their values (R18). -/
def frameMask : BitVec 256 := BitVec.ofNat 256 (32 + (2 ^ 13 - 1) * 2 ^ 128 + (2 ^ 10 - 1) * 2 ^ 141)
def frameBits (act : Bool) (afb afs : Nat) : BitVec 256 := BitVec.ofNat 256 (32 * act.toNat + afb * 2 ^ 128 + afs * 2 ^ 141)

theorem withFrame_field (e : BitVec 256) (act : Bool) (afb afs : Nat) {lo n : Nat} (h : lo + n < 256) :
    ebits (withFrame e act afb afs) lo n
      = ((e.extractLsb' lo n &&& ~~~(frameMask.extractLsb' lo n)) ||| (frameBits act afb afs).extractLsb' lo n).toNat := by
  rw [ebits_eq, show withFrame e act afb afs = (e &&& ~~~frameMask) ||| frameBits act afb afs from rfl, BitVec.extractLsb'_or, BitVec.extractLsb'_and,
    BitVec.extractLsb'_not_of_lt h]

section
variable (e : BitVec 256) (act : Bool) {afb afs : Nat} {lo n : Nat} (h : lo + n < 256)
include h

/-- A field of the frame is as it is given. -/
theorem withFrame_in (hm : frameMask.extractLsb' lo n = BitVec.allOnes n) : ebits (withFrame e act afb afs) lo n = ebits (frameBits act afb afs) lo n := by
  rw [withFrame_field _ _ _ _ h, hm, BitVec.not_allOnes, BitVec.and_zero, BitVec.zero_or, ebits_eq]
/-- A field outside it stays. -/
theorem withFrame_out (hm : frameMask.extractLsb' lo n = 0#n) (hz : ebits (frameBits act afb afs) lo n = 0) : ebits (withFrame e act afb afs) lo n = ebits e lo n := by
  have hz' : (frameBits act afb afs).extractLsb' lo n = 0#n := BitVec.eq_of_toNat_eq ((ebits_eq ..).symm.trans hz)
  rw [withFrame_field _ _ _ _ h, hm, hz', BitVec.or_zero, ebits_eq]
  congr 1
  simp
end

theorem frameBits_toNat (act : Bool) {afb afs : Nat} (hb : afb < 2 ^ 13) (hs : afs < 2 ^ 10) :
    (frameBits act afb afs).toNat = 32 * act.toNat + afb * 2 ^ 128 + afs * 2 ^ 141 := by
  have := act.toNat_lt
  rw [frameBits, BitVec.toNat_ofNat]; omega

/-- The fields of an entry that takes an actor frame (R18, R276). -/
theorem withFrame_fields (e : BitVec 256) (act : Bool) {afb afs : Nat} (hb : afb < 2 ^ 13) (hs : afs < 2 ^ 10) :
    entAct (withFrame e act afb afs) = act ∧ entAfb (withFrame e act afb afs) = afb ∧ entAfs (withFrame e act afb afs) = afs
      ∧ entType (withFrame e act afb afs) = entType e ∧ entEntry (withFrame e act afb afs) = entEntry e := by
  have hn := frameBits_toNat act hb hs
  have hact := act.toNat_lt
  refine ⟨?_, ?_, ?_, ?_, ?_⟩
  · rw [entAct, withFrame_in e act (by decide) (by decide), ebits, hn, nbits, show (32 * act.toNat + afb * 2 ^ 128 + afs * 2 ^ 141) / 2 ^ 5 % 2 ^ 1 = act.toNat by omega]
    cases act <;> rfl
  · rw [entAfb, withFrame_in e act (by decide) (by decide), ebits, hn, nbits]; omega
  · rw [entAfs, withFrame_in e act (by decide) (by decide), ebits, hn, nbits]; omega
  · rw [entType, withFrame_out e act (by decide) (by decide) (by rw [ebits, hn, nbits]; omega)]; rfl
  · rw [entEntry, withFrame_out e act (by decide) (by decide) (by rw [ebits, hn, nbits]; omega)]; rfl

theorem entBnd_eq (e : BitVec 256) : entBnd e = e.getLsbD 0 := by
  rw [entBnd, ebits, nbits, BitVec.getLsbD, Nat.testBit_zero, pow_zero, Nat.div_one, pow_one]

theorem guarded_iff (s : State) (c : Nat) : s.guarded c = true ↔ s.cx.kmode = false ∧ s.cl.kchan.getLsbD c = true := by
  rw [State.guarded, Bool.and_eq_true, Bool.not_eq_true']

theorem entActor_of_hset {e : BitVec 256} (h : entBound e = true) (hok : ¬(entBnd e = true ∧ (entInvalid e = true ∨ entAct e = true))) : entActor e = false := by
  have hb : entBnd e = true := (Bool.and_eq_true_iff.1 h).1
  have ha : entAct e = false := Bool.eq_false_iff.2 fun e' => hok ⟨hb, .inr e'⟩
  rw [entActor, ha, Bool.and_false]

/-- hset of an image that it takes (R50, R274). -/
theorem State.bindChan_status (u : State) (d : RegG) (c : Nat) {img : BitVec 256} (hok : ¬(entBnd img = true ∧ (entInvalid img = true ∨ entAct img = true))) :
    let t := (u.bindChan u.cur.cell c img).status d 0
    t.cx = u.cx.setG d 0
    ∧ (∀ k, k ≠ c → (t.cl.chan k).entry = (u.cl.chan k).entry ∧ (t.cl.chan k).st = (u.cl.chan k).st)
    ∧ (t.cl.chan c).entry = img ∧ (t.cl.chan c).skip = 0 ∧ (t.cl.chan c).boost = 0
    ∧ (t.cl.chan c).st = (if img.getLsbD 0 then .idle else .unbound)
    ∧ (entBound img = true → (u.cl.setChan c ((u.cl.chan c).bind img)).mailClash c = false →
        (t.cl.chan c).mailbox = (u.cl.chan c).mailbox ∧ (∀ k, k ≠ c → t.cl.chan k = u.cl.chan k) ∧ t.cl.store = u.cl.store) := by
  intro t
  obtain ⟨hcur, hctx, ⟨he, hsk, hbo, hst⟩, hrest⟩ := u.bindChan_binds u.cur.cell c img
  have hchan : ∀ k, t.cl.chan k = (u.bindChan u.cur.cell c img).chan u.cur.cell k := fun k => by
    rw [State.status_cl, Cell.setCtx_chan, State.cl, hcur]; rfl
  refine ⟨?_, fun k hk => ?_, ?_, ?_, ?_, ?_, fun hb hm => ?_⟩
  · rw [State.status_cx, State.cx, hcur, hctx]; rfl
  · rw [hchan]; exact hrest k hk
  · rw [hchan, he]
  · rw [hchan, hsk]
  · rw [hchan, hbo]
  · rw [hchan, hst, entBnd_eq]
  · have hone := u.bindChan_alone u.cur.cell c hm (entActor_of_hset hb hok)
    have hcl : t.cl = (u.cl.setChan c ((u.cl.chan c).bind img)).setCtx u.cur.ctx (u.cx.setG d 0) := by
      have hcx : (u.bindChan u.cur.cell c img).cx = u.cx := by rw [State.cx, hcur, hctx]; rfl
      have hcell : (u.bindChan u.cur.cell c img).cl = u.cl.setChan c ((u.cl.chan c).bind img) := by
        rw [State.cl, hcur, hone, State.setChan, State.setCell_cell, if_pos rfl]; rfl
      rw [State.status_cl, hcx, hcur, hcell]; rfl
    rw [hcl]
    refine ⟨?_, fun k hk => ?_, rfl⟩
    · rw [Cell.setCtx_chan, Cell.setChan_chan, if_pos rfl]; rfl
    · rw [Cell.setCtx_chan, Cell.setChan_chan, if_neg (Ne.symm hk)]

/-- abind of a frame that it takes (R276). -/
theorem State.setFrame_status (s : State) (d : RegG) (c : Nat) (act : Bool) {afb afs : Nat} (hb : afb < 2 ^ 13) (hs : afs < 2 ^ 10) :
    let t := (s.setCl (s.cl.setChan c { s.cl.chan c with entry := withFrame (s.cl.chan c).entry act afb afs })).status d 0
    t.cx = s.cx.setG d 0 ∧ (∀ k, k ≠ c → t.cl.chan k = s.cl.chan k) ∧ entAct (t.cl.chan c).entry = act ∧ entAfb (t.cl.chan c).entry = afb
      ∧ entAfs (t.cl.chan c).entry = afs ∧ entType (t.cl.chan c).entry = entType (s.cl.chan c).entry
      ∧ entEntry (t.cl.chan c).entry = entEntry (s.cl.chan c).entry ∧ (t.cl.chan c).st = (s.cl.chan c).st := by
  intro t
  obtain ⟨h1, h2, h3, h4, h5⟩ := withFrame_fields (s.cl.chan c).entry act hb hs
  have hk : ∀ k, t.cl.chan k = if c = k then { s.cl.chan c with entry := withFrame (s.cl.chan c).entry act afb afs } else s.cl.chan k := fun k => by
    rw [State.status_cl, Cell.setCtx_chan, State.setCl_cl, Cell.setChan_chan]
  refine ⟨?_, fun k hne => ?_, ?_⟩
  · rw [State.status_cx, State.setCl_cx]; rfl; rfl
  · rw [hk, if_neg (Ne.symm hne)]
  · rw [hk, if_pos rfl]; exact ⟨h1, h2, h3, h4, h5, rfl⟩

end Sys2Proof.Machine

namespace Sys2Proof.Proofs
open Sys2Proof Sys2Proof.Machine Sys2Proof.Claims

/-- Settles O10: an instruction on the table answers by the first of its conditions, and changes the entry of one channel or the mask bits of a set. -/
theorem handlerTable : Obligations.HandlerTable := by
  unfold Obligations.HandlerTable
  intro s d a b g hg hs c ch guardedChan
  have hset := (exec_xHset d a b g s).trans (congrArg Host.Outcome.next (xRun_settled hg hs (by simp)))
  have abind := (exec_xAbind d a b g s).trans (congrArg Host.Outcome.next (xRun_settled hg hs (by simp)))
  have hmask := (exec_xHmask a g s).trans (congrArg Host.Outcome.next (xRun_settled hg hs (by simp)))
  have hunmask := (exec_xHunmask a g s).trans (congrArg Host.Outcome.next (xRun_settled hg hs (by simp)))
  extract_lets -underBinder +onlyGivenNames k x afb afs off n at abind
  refine ⟨fun hc hl => ?_, fun hc hp => ?_, fun hc hp => ⟨fun bs u hload => ?_, fun hub hl => ?_, fun hbd hrun hl => ?_, fun hbd hrun => ?_⟩, ?_, ?_⟩
  · rw [if_pos hc, State.finish_ok, answers_goes s d 3 hl] at hset abind
    exact ⟨hset, abind⟩
  · rw [if_neg (not_lt.2 hc), if_pos ((guarded_iff s c).2 hp)] at hset abind
    exact List.forall_mem_cons.2 ⟨hset, List.forall_mem_singleton.2 abind⟩
  · rw [if_neg (not_lt.2 hc), if_neg (fun e => hp ((guarded_iff s c).1 e)), hload] at hset
    intro img
    dsimp only at hset
    refine ⟨fun h => ?_, fun h hb h2 => ?_, fun h hok => ?_⟩
    · rw [if_pos h] at hset; exact hset
    · rw [if_neg h, if_pos ⟨hb, h2⟩] at hset; exact hset
    · rw [if_neg h, if_neg hok] at hset; exact ⟨_, hset, u.bindChan_status d c hok⟩
  · rw [if_neg (not_lt.2 hc), if_neg (fun e => hp ((guarded_iff s c).1 e)), if_pos (by rw [show entBound x.entry = false from hub]; rfl), State.finish_ok,
      answers_goes s d 3 hl] at abind
    exact abind
  · rw [if_neg (not_lt.2 hc), if_neg (fun e => hp ((guarded_iff s c).1 e)), if_neg (by rw [show entBound x.entry = true from hbd]; decide),
      if_pos (show x.st = .running from hrun), State.finish_ok, answers_goes s d 1 hl] at abind
    exact abind
  · rw [if_neg (not_lt.2 hc), if_neg (fun e => hp ((guarded_iff s c).1 e)), if_neg (by rw [show entBound x.entry = true from hbd]; decide),
      if_neg (show ¬x.st = .running from hrun)] at abind
    have hafb : ((s.cx.gr a).setWidth 13).toNat = afb := setWidth_toNat ..
    have hafs : ((s.cx.gr a).extractLsb' 16 10).toNat = afs := extract_toNat ..
    have hzero : (s.cx.gr a).setWidth 13 = 0 ↔ afb = 0 := by rw [← hafb]; exact ⟨fun e => by rw [e]; rfl, fun e => BitVec.eq_of_toNat_eq e⟩
    intro fb fs n'
    have hb : afb < 2 ^ 13 := nbits_lt 0 13 _
    have hs' : afs < 2 ^ 10 := nbits_lt 16 10 _
    have hn : n' = off + n := by show 64 * fb.toNat + 64 * (fs.toNat + 1) = _; rw [hafb, hafs]
    rw [hafb, hafs, hn]
    refine ⟨fun h0 hbad hl => ?_, fun hok => ?_⟩
    · rw [if_neg (fun e => h0 (hzero.2 e)), if_pos (show Config.storeBytes < off + n ∨ Config.launchArea < off + n ∨ k.mailHit off n = true from hbad),
        State.finish_ok, answers_goes s d 2 hl] at abind
      exact abind
    · by_cases h0 : afb = 0
      · rw [if_pos h0] at abind
        obtain ⟨hcx, hrest, h1, h2, -, h4, h5, h6⟩ := s.setFrame_status d c false (afb := 0) (afs := 0) (by decide) (by decide)
        refine ⟨_, abind, hcx, hrest, ?_, h2.trans h0.symm, fun e => absurd (hzero.2 h0) e, h4, h5, h6⟩
        rw [h1, decide_eq_true (hzero.2 h0)]; rfl
      · have hne : fb ≠ 0 := fun e => h0 (hzero.1 e)
        rw [if_neg h0, if_neg (show ¬(Config.storeBytes < off + n ∨ Config.launchArea < off + n ∨ k.mailHit off n = true) from hok.resolve_left hne)] at abind
        obtain ⟨hcx, hrest, h1, h2, h3, h4, h5, h6⟩ := s.setFrame_status d c true hb hs'
        refine ⟨_, abind, hcx, hrest, ?_, h2, fun _ => h3, h4, h5, h6⟩
        rw [h1, decide_eq_false hne]; rfl
  · obtain ⟨hcx, hch⟩ := s.setMasks_table (s.cx.gr a) true (· ||| 2) fun _ => rfl
    exact ⟨_, hmask, hcx, hch⟩
  · obtain ⟨hcx, hch⟩ := s.setMasks_table (s.cx.gr a) false (· &&& ~~~2) fun _ => rfl
    exact ⟨_, hunmask, hcx, hch⟩

end Sys2Proof.Proofs
end

section
/-! The worklist (R35 to R41, R144, R282 to R285). -/

namespace Sys2Proof.Machine
open Sys2Proof Sys2Proof.Claims

variable {s t u v : State}

/-! A write of the device. -/

theorem State.devWrite_onlyMemory (s : State) (pid : Nat) (kmode : Bool) (va : Word) (bs : List Byte) : OnlyMemory s (s.devWrite pid kmode va bs).1 := by
  have h := s.devPlaces_onlyMemory pid kmode .write va bs.length
  unfold State.devWrite
  split
  · next e => rw [e] at h; exact h
  · next t ls e =>
    rw [e] at h
    exact h.trans (foldl_keeps (fun a : State × List Byte => OnlyMemory t a.1) _ ls (t, bs) (.refl t) fun a l ha => ha.trans (State.putBytes_onlyMemory _ _ _))

theorem State.spillWrite_onlyMemory (s : State) (cell : Nat) : OnlyMemory s (s.spillWrite cell) := by
  unfold State.spillWrite
  dsimp only
  split
  · exact .refl s
  · exact (s.devWrite_onlyMemory _ _ _ _).trans (State.took_onlyMemory _)

/-! The task that a pop takes (R37). -/

/-- The least of a number and those of a list. -/
theorem foldl_min_spec {α : Type} (f : α → Nat) (l : List α) (a : Nat) :
    l.foldl (fun m u => min m (f u)) a ≤ a ∧ (∀ u ∈ l, l.foldl (fun m u => min m (f u)) a ≤ f u)
      ∧ (l.foldl (fun m u => min m (f u)) a = a ∨ ∃ u ∈ l, l.foldl (fun m u => min m (f u)) a = f u) := by
  induction l generalizing a with
  | nil => simp
  | cons b l ih =>
    obtain ⟨h1, h2, h3⟩ := ih (min a (f b))
    rw [List.foldl_cons]
    refine ⟨h1.trans (min_le_left _ _), fun u hu => ?_, ?_⟩
    · rcases List.mem_cons.1 hu with rfl | hu
      · exact h1.trans (min_le_right _ _)
      · exact h2 u hu
    · rcases h3 with h3 | ⟨u, hu, h3⟩
      · rcases min_choice a (f b) with h | h
        · exact .inl (h3.trans h)
        · exact .inr ⟨b, List.mem_cons_self, h3.trans h⟩
      · exact .inr ⟨u, List.mem_cons_of_mem _ hu, h3⟩

theorem Cell.popPlace_none (k : Cell) (free : Nat) (h : ∀ t ∈ k.buckets, k.fview + k.dview < t.key.toNat) : k.popPlace free = none := by
  have hel : (k.buckets.zipIdx).filter (fun t => k.eligible t.1.key) = [] := by
    rw [List.filter_eq_nil_iff]
    intro t ht he
    have := h t.1 (List.fst_mem_of_mem_zipIdx ht)
    have := of_decide_eq_true he
    omega
  unfold Cell.popPlace
  dsimp only
  rw [hel]

/-- With a task that is eligible the pop takes one of lowest key. -/
theorem Cell.popPlace_some (k : Cell) (free : Nat) (h : ∃ t ∈ k.buckets, t.key.toNat ≤ k.fview + k.dview) :
    ∃ n e, k.popPlace free = some n ∧ k.buckets[n]? = some e ∧ ∀ u ∈ k.buckets, e.key.toNat ≤ u.key.toNat := by
  let el := (k.buckets.zipIdx).filter fun t => k.eligible t.1.key
  have hmem : ∀ x, x ∈ el ↔ k.buckets[x.2]? = some x.1 ∧ x.1.key.toNat ≤ k.fview + k.dview := fun x => by
    rw [List.mem_filter, List.mem_zipIdx_iff_getElem?, Cell.eligible, decide_eq_true_iff]
  have hin : ∀ u ∈ k.buckets, u.key.toNat ≤ k.fview + k.dview → ∃ i, (u, i) ∈ el := fun u hu hk => by
    obtain ⟨i, hi⟩ := List.mem_iff_getElem?.1 hu
    exact ⟨i, (hmem (u, i)).2 ⟨hi, hk⟩⟩
  rcases hel : el with _ | ⟨x, rest⟩
  · obtain ⟨t, ht, hk⟩ := h
    obtain ⟨i, hi⟩ := hin t ht hk
    rw [hel] at hi; cases hi
  let low := rest.foldl (fun m u => min m u.1.key.toNat) x.1.key.toNat
  obtain ⟨hx, hrest, hat⟩ := foldl_min_spec (fun u : Task × Nat => u.1.key.toNat) rest x.1.key.toNat
  have hlow : ∀ y ∈ el, low ≤ y.1.key.toNat := fun y hy => by
    rw [hel] at hy
    rcases List.mem_cons.1 hy with rfl | hy
    · exact hx
    · exact hrest y hy
  obtain ⟨y, hy, hylow⟩ : ∃ y ∈ el, y.1.key.toNat = low := by
    rw [hel]
    rcases hat with hat | ⟨u, hu, hat⟩
    · exact ⟨x, List.mem_cons_self, hat.symm⟩
    · exact ⟨u, List.mem_cons_of_mem _ hu, hat.symm⟩
  let same := el.filter fun u => u.1.key.toNat = low
  have hpos : 0 < same.length := List.length_pos_of_mem (List.mem_filter.2 ⟨hy, decide_eq_true hylow⟩)
  have hj : Config.freeNat free % same.length < same.length := Nat.mod_lt _ hpos
  have hz : same[Config.freeNat free % same.length] ∈ same := List.getElem_mem hj
  generalize hzd : same[Config.freeNat free % same.length] = z at hz
  obtain ⟨hzel, hzlow⟩ := List.mem_filter.1 hz
  replace hzlow := of_decide_eq_true hzlow
  obtain ⟨hget, hkey⟩ := (hmem z).1 hzel
  refine ⟨z.2, z.1, ?_, hget, fun u hu => ?_⟩
  · unfold Cell.popPlace
    dsimp only
    rw [show (k.buckets.zipIdx).filter (fun t => k.eligible t.1.key) = x :: rest from hel]
    dsimp only
    rw [← hel]
    show (same[Config.freeNat free % same.length]?).map _ = _
    rw [List.getElem?_eq_getElem hj, hzd]; rfl
  · by_cases hk : u.key.toNat ≤ k.fview + k.dview
    · obtain ⟨i, hi⟩ := hin u hu hk
      exact hzlow.le.trans (hlow _ hi)
    · omega

/-! A push (R39, R144, R282). -/

/-- The end of a push: the context's stores are performed, X acquires, and the push is counted. -/
def State.pushEnd (y : State) (n : Nat) : State :=
  (y.acqrel .x).setPart (y.acqrel .x).pid { (y.acqrel .x).part (y.acqrel .x).pid with pushes := n, epoch := true, quiet := none }

/-- The running context once its stores are performed and X has acquired. -/
abbrev State.synced (s : State) : Ctx := { s.cx with sb := [], ex := { s.cx.ex with horizon := s.now } }

theorem State.pushEnd_spec (y : State) (n : Nat) :
    (y.pushEnd n).cl.buckets = y.cl.buckets ∧ (y.pushEnd n).cl.spill = y.cl.spill ∧ ((y.pushEnd n).part y.pid).pushes = n ∧ (y.pushEnd n).cx = y.synced
      ∧ ((∀ e ∈ y.cx.sb, y.slotPages e.line = []) → allPerformed y (y.pushEnd n)) := by
  have h := y.acqrel_access .x
  refine ⟨h.of_cl (·.buckets) fun _ => rfl, h.of_cl (·.spill) fun _ => rfl, ?_, y.acqrel_cx, fun hs => y.acqrel_allPerformed hs⟩
  rw [State.pushEnd, State.setPart_part, if_pos h.pid]

theorem Cell.pushTask_bucket (k : Cell) (room : Nat) (t : Task) (h : k.buckets.length < 256) : k.pushTask room t = some { k with buckets := k.buckets ++ [t] } :=
  if_pos h
theorem Cell.pushTask_spill (k : Cell) (room : Nat) (t : Task) (h : 256 ≤ k.buckets.length) (hs : k.spill.length < room) :
    k.pushTask room t = some { k with spill := k.spill ++ [t] } := (if_neg (not_lt.2 h)).trans (if_pos hs)
theorem Cell.pushTask_full (k : Cell) (room : Nat) (t : Task) (h : 256 ≤ k.buckets.length) (hs : room ≤ k.spill.length) : k.pushTask room t = none :=
  (if_neg (not_lt.2 h)).trans (if_neg (not_lt.2 hs))

/-- What the cell's tasks leave unchanged. Without a spilled task no byte of memory changes. -/
theorem State.setWork_kept (s : State) {k : Cell} (hx : k.ctxs = s.cl.ctxs) (ht : k.tag = s.cl.tag) :
    let y := s.setWork s.cur.cell k
    y.cl = k ∧ y.cx = s.cx ∧ y.parts = s.parts ∧ y.pid = s.pid ∧ y.now = s.now
      ∧ (k.spill = s.cl.spill → y.slotPages = s.slotPages ∧ ∀ x, y.latest x = s.latest x) := by
  intro y
  have hy : OnlyMemory (s.setCl k) y := by
    show OnlyMemory _ (if _ then _ else _)
    split
    · exact .refl _
    · exact State.spillWrite_onlyMemory _ _
  have hcl : y.cl = (s.setCl k).cl := by rw [State.cl, State.cell, hy.cells, hy.cur]; rfl
  rw [State.setCl_cl] at hcl
  refine ⟨hcl, hy.cx.trans (State.setCl_cx _ hx), hy.parts, ?_, hy.now, fun h => ?_⟩
  · rw [State.pid, hcl, ht]; rfl
  · have he : y = s.setCl k := if_pos h
    rw [he]; exact ⟨rfl, fun _ => rfl⟩

section
variable {d a b : RegG} {g : GuardP} {all : List RegG}

/-- The key of a push lies in the window of the cell (R36, R37). -/
abbrev inWindow (s : State) (key : BitVec 32) : Prop := s.cl.fview ≤ key.toNat ∧ key.toNat < s.cl.fview + 64

theorem not_outside {key : BitVec 32} (h : inWindow s key) : ¬(key.toNat < s.cl.fview ∨ s.cl.fview + 64 ≤ key.toNat) := by
  obtain ⟨h1, h2⟩ := h
  omega

theorem wlpush_refused (hg : guardOn s.cx g) (hs : settled s.cx all) (hsub : ∀ r ∈ [a, b], r ∈ all) (h : ¬inWindow s ((s.cx.gr a).setWidth 32)) :
    runs (.xWlpush a b g) s (s.raise s.cur.cell s.cur.ctx .x ⟨0x27, 6, 0xFF, 0, ((s.cx.gr a).setWidth 32).setWidth 64, 0⟩ 0 0) := by
  have push := (exec_xWlpush a b g s).trans (congrArg Host.Outcome.next (xRun_settled hg hs hsub))
  extract_lets -underBinder +onlyGivenNames key k at push
  rw [if_pos (by by_contra e; exact h ⟨not_lt.1 fun h' => e (.inl h'), not_le.1 fun h' => e (.inr h')⟩)] at push
  exact push

theorem wlpush_full (hg : guardOn s.cx g) (hs : settled s.cx all) (hsub : ∀ r ∈ [a, b], r ∈ all) (h : inWindow s ((s.cx.gr a).setWidth 32))
    (hk : s.cl.pushTask (s.part s.pid).spillRoom ⟨(s.cx.gr a).setWidth 32, s.cx.gr b⟩ = none) : runs (.xWlpush a b g) s s := by
  have push := (exec_xWlpush a b g s).trans (congrArg Host.Outcome.next (xRun_settled hg hs hsub))
  extract_lets -underBinder +onlyGivenNames key k at push
  rw [if_neg (not_outside h)] at push
  extract_lets -underBinder +onlyGivenNames p at push
  rw [show k.pushTask p.spillRoom ⟨key, s.cx.gr b⟩ = none from hk] at push
  exact push

/-- A push that the cell takes. -/
theorem wlpush_takes (hg : guardOn s.cx g) (hs : settled s.cx all) (hsub : ∀ r ∈ [a, b], r ∈ all) (h : inWindow s ((s.cx.gr a).setWidth 32)) {k' : Cell}
    (hk : s.cl.pushTask (s.part s.pid).spillRoom ⟨(s.cx.gr a).setWidth 32, s.cx.gr b⟩ = some k') (hx : k'.ctxs = s.cl.ctxs) (ht : k'.tag = s.cl.tag) :
    ∃ t : State, runs (.xWlpush a b g) s (t.retire .x 1) ∧ t.cl.buckets = k'.buckets ∧ t.cl.spill = k'.spill
      ∧ (t.part s.pid).pushes = (s.part s.pid).pushes + 1 ∧ t.cx = s.synced
      ∧ (k'.spill = s.cl.spill → (∀ e ∈ s.cx.sb, s.slotPages e.line = []) → allPerformed s t) := by
  have push := (exec_xWlpush a b g s).trans (congrArg Host.Outcome.next (xRun_settled hg hs hsub))
  extract_lets -underBinder +onlyGivenNames key k at push
  rw [if_neg (not_outside h)] at push
  extract_lets -underBinder +onlyGivenNames p at push
  rw [show k.pushTask p.spillRoom ⟨key, s.cx.gr b⟩ = some k' from hk] at push
  have run : exec (.xWlpush a b g) s = .next (((s.setWork s.cur.cell k').pushEnd ((s.part s.pid).pushes + 1)).retire .x 1) := push
  obtain ⟨hcl, hcx, -, hpid, hnow, hmem⟩ := s.setWork_kept hx ht
  obtain ⟨h1, h2, h3, h4, h5⟩ := (s.setWork s.cur.cell k').pushEnd_spec ((s.part s.pid).pushes + 1)
  refine ⟨_, run, by rw [h1, hcl], by rw [h2, hcl], hpid ▸ h3, by rw [h4, State.synced, hcx, hnow], fun hsp hsb => ?_⟩
  obtain ⟨hpages, hlat⟩ := hmem hsp
  obtain ⟨hempty, hdone⟩ := h5 (by rw [hcx, hpages]; exact hsb)
  exact ⟨hempty, fun x => by rw [hdone x, hcx, hlat]⟩

/-! A pop (R37, R38, R283). -/

theorem wlpop_none (hg : guardOn s.cx g) (hs : settled s.cx all) (hsub : ∀ r ∈ [d, b], r ∈ all)
    (h : ∀ t ∈ s.cl.buckets, s.cl.fview + s.cl.dview < t.key.toNat) : ∃ t : State, runs (.xWlpop d b g) s (t.retire .x 1)
      ∧ t.cx = s.cx.setG b (BitVec.allOnes 64) ∧ t.cl.wake = false ∧ t.cl.buckets = s.cl.buckets := by
  have pop := (exec_xWlpop d b g s).trans (congrArg Host.Outcome.next (xRun_settled hg hs hsub))
  extract_lets -underBinder +onlyGivenNames k at pop
  rw [k.popPlace_none s.free h] at pop
  have hcx : (s.setCl { k with wake := false }).cx = s.cx := State.setCl_cx _ rfl
  refine ⟨_, pop, by rw [State.setCx_cx, hcx], ?_, ?_⟩
  · rw [State.setCx_cl, State.setCl_cl]; rfl
  · rw [State.setCx_cl, State.setCl_cl]; rfl

theorem wlpop_takes (hg : guardOn s.cx g) (hs : settled s.cx all) (hsub : ∀ r ∈ [d, b], r ∈ all)
    (h : ∃ t ∈ s.cl.buckets, t.key.toNat ≤ s.cl.fview + s.cl.dview) : ∃ (n : Nat) (e : Task) (t : State), s.cl.buckets[n]? = some e
      ∧ (∀ u ∈ s.cl.buckets, e.key.toNat ≤ u.key.toNat) ∧ runs (.xWlpop d b g) s (t.retire .x 1) ∧ t.cl.buckets = s.cl.buckets.eraseIdx n
      ∧ t.cx = { (s.synced.setG d e.value).setG b (e.key.setWidth 64) with popped := s.cx.popped ++ [e.key.toNat] }
      ∧ ((∀ e ∈ s.cx.sb, s.slotPages e.line = []) → allPerformed s t) := by
  have pop := (exec_xWlpop d b g s).trans (congrArg Host.Outcome.next (xRun_settled hg hs hsub))
  extract_lets -underBinder +onlyGivenNames k at pop
  obtain ⟨n, e, hn, he, hlow⟩ := k.popPlace_some s.free h
  rw [hn, Option.bind_some, he] at pop
  let y := (s.setCl { k with buckets := k.buckets.eraseIdx n }).took
  have hcx : y.cx = s.cx := State.setCl_cx _ rfl
  have hcl : y.cl = { k with buckets := k.buckets.eraseIdx n } := State.setCl_cl _ _
  have hz : (y.acqrel .x).cx = s.synced := by rw [y.acqrel_cx, hcx]; rfl
  have hb : (y.acqrel .x).cl.buckets = y.cl.buckets := (y.acqrel_access .x).of_cl (·.buckets) fun _ => rfl
  refine ⟨n, e, _, he, hlow, pop, ?_, ?_, fun hsb => ?_⟩
  · rw [State.setCx_cl]; exact hb.trans (congrArg Cell.buckets hcl)
  · rw [State.setCx_cx, hz]; rfl
  · obtain ⟨hempty, hdone⟩ := y.acqrel_allPerformed (by rw [hcx]; exact hsb)
    refine ⟨?_, fun x => (hdone x).trans (by rw [hcx]; rfl)⟩
    rw [State.setCx_cx, hz]; simp

end

end Sys2Proof.Machine

namespace Sys2Proof.Proofs
open Sys2Proof Sys2Proof.Machine Sys2Proof.Claims

/-- Settles O13: a push goes where the cell has room, a pop takes a lowest eligible key, and both synchronise the context. -/
theorem worklistOperations : Obligations.WorklistOperations := by
  unfold Obligations.WorklistOperations
  intro s d a b g hg hs key ok synced
  have bound := (exec_xWlbound a b g s).trans (congrArg Host.Outcome.next (xRun_settled hg hs (by simp)))
  have term := (exec_xWlterm a g s).trans (congrArg Host.Outcome.next (xRun_settled hg hs (by simp)))
  have hab : ∀ r ∈ [a, b], r ∈ [d, a, b] := by simp
  refine ⟨wlpush_refused hg hs hab, fun h hroom => ?_, fun h hfull hroom => ?_,
    fun h hfull hspill => wlpush_full hg hs hab h (s.cl.pushTask_full _ _ hfull hspill), wlpop_none hg hs (by simp), wlpop_takes hg hs (by simp),
    ⟨_, bound, rfl, ?_, ?_⟩, ⟨_, term, rfl, ?_⟩⟩
  · obtain ⟨t, hr, h1, h2, h3, h4, h5⟩ := wlpush_takes hg hs hab h (s.cl.pushTask_bucket _ _ hroom) rfl rfl
    exact ⟨t, hr, h1, h2, h3, h4, h5 rfl⟩
  · obtain ⟨t, hr, h1, h2, h3, h4, -⟩ := wlpush_takes hg hs hab h (s.cl.pushTask_spill _ _ hfull hroom) rfl rfl
    exact ⟨t, hr, h2, h1, h3, h4⟩
  · rw [State.setPart_part, if_pos rfl]
  · rw [State.setPart_part, if_pos rfl]; rfl
  · rw [State.setPart_part, if_pos rfl]; rfl

end Sys2Proof.Proofs
end

section
/-! A trap of an engine (R26, R339, R343), and the delivery of its record into a fault buffer (R382 to R384). -/

namespace Sys2Proof.Machine
open Sys2Proof Sys2Proof.Claims

variable {s t u : State}

/-! The fault buffer. -/

/-- A fault buffer header that is there is read by an access to memory, and one that is not leaves the cells. -/
theorem State.fbHeader_frame (s : State) (pid : Nat) :
    (s.fbHeader pid).1.cells = s.cells ∧ ((s.fbHeader pid).2 ≠ none → OnlyMemory s (s.fbHeader pid).1) := by
  unfold State.fbHeader
  extract_lets -underBinder va
  have m := s.xlateDev_onlyMemory pid true .readWrite va
  split
  · exact ⟨rfl, fun h => absurd rfl h⟩
  · split
    · next z hz => rw [hz] at m; exact ⟨m.cells, fun h => absurd rfl h⟩
    · next l z hz =>
      rw [hz] at m
      split
      · exact ⟨m.cells, fun h => absurd rfl h⟩
      · extract_lets b h
        split
        · exact ⟨m.cells, fun h => absurd rfl h⟩
        · refine ⟨m.cells, fun _ => ?_⟩
          rw [hz]; dsimp only
          rw [if_neg ‹_›, if_neg ‹_›]; exact m

/-- From s to t bytes of the coherent memory are written, and parcels leave (R383, R384). -/
structure RingPut (s t : State) (ws : List (Nat × List Byte)) (ps : List Vec) : Prop where
  cells : t.cells = s.cells
  wrote : wrotePlaces s t ws
  sends : t.flights.map (fun f => f.parcel) = s.flights.map (fun f => f.parcel) ++ ps
  events : t.hypEvents = s.hypEvents

theorem OnlyMemory.hypEvents (h : OnlyMemory s t) : t.hypEvents = s.hypEvents := show t.rest.hypEvents = s.rest.hypEvents from congrArg State.hypEvents h.rest

/-- One write is a write at one place. -/
theorem wrotePlaces_of_wroteBytes {pa : Nat} {bs : List Byte} (h : wroteBytes s t pa bs) : wrotePlaces s t [(pa, bs)] := by
  refine ⟨fun w hw i hi => ?_, fun x hx => ?_⟩
  · rw [List.mem_singleton.1 hw] at hi ⊢
    rw [h, if_pos (by dsimp only at hi ⊢; omega), Nat.add_sub_cancel_left]
  · rw [h, if_neg (hx (pa, bs) (List.mem_singleton.2 rfl))]

/-- Two writes that do not overlap are writes at two places. -/
theorem wrotePlaces_two {pa qa : Nat} {bs cs : List Byte} (h : wroteBytes s t pa bs) (g : wroteBytes t u qa cs)
    (hd : pa + bs.length ≤ qa ∨ qa + cs.length ≤ pa) : wrotePlaces s u [(pa, bs), (qa, cs)] := by
  refine ⟨fun w hw i hi => ?_, fun x hx => ?_⟩
  · rcases List.mem_cons.1 hw with rfl | hw
    · dsimp only at hi ⊢
      rw [g, if_neg (by omega), h, if_pos (by omega), Nat.add_sub_cancel_left]
    · rw [List.mem_singleton.1 hw] at hi ⊢
      rw [g, if_pos (by dsimp only at hi ⊢; omega), Nat.add_sub_cancel_left]
  · rw [g, if_neg (hx (qa, cs) (by simp)), h, if_neg (hx (pa, bs) (by simp))]

theorem State.statusParcel_flights (s : State) (pid : Nat) (h : FbHdr) :
    (s.statusParcel pid h).flights.map (fun f => f.parcel) = s.flights.map (fun f => f.parcel) ++ [statusOf pid h h.tail h.held h.ovf] := by
  rw [statusOf, State.statusParcel]
  generalize mkParcel _ _ = p
  exact adds_launchFlight s p pid .status

/-- A status parcel goes where the header says, which keeps its place as its counts move (R384). -/
theorem statusOf_counts (pid : Nat) (h : FbHdr) (tail held ovf seq t d o : Nat) :
    statusOf pid { h with tail := tail, held := held, ovf := ovf, seq := seq } t d o = statusOf pid h t d o := rfl

/-- A hold that the header of a fault buffer counts (R383). -/
theorem State.countHold_put (s : State) (pid : Nat) (h : FbHdr) (ha : h.pa % 64 = 0) (hs : s.slotPages (h.pa / 64) = []) :
    RingPut s (s.countHold pid h) [(h.pa + 24, leBytes 4 ((h.held + 1) % 2 ^ 32) ++ leBytes 4 ((h.ovf + 1) % 2 ^ 32))]
      [statusOf pid h h.tail ((h.held + 1) % 2 ^ 32) ((h.ovf + 1) % 2 ^ 32)] := by
  unfold State.countHold
  extract_lets h'
  have m := s.putBytes_onlyMemory (h.pa + 24) (leBytes 4 h'.held ++ leBytes 4 h'.ovf)
  have w := s.putBytes_wroteBytes (h.pa + 24) (leBytes 4 h'.held ++ leBytes 4 h'.ovf) (by simp [length_leBytes]; omega)
    (by rw [show (h.pa + 24) / 64 = h.pa / 64 by omega]; exact hs)
  generalize s.putBytes (h.pa + 24) (leBytes 4 h'.held ++ leBytes 4 h'.ovf) = b at m w ⊢
  refine ⟨m.cells, wrotePlaces_of_wroteBytes (wroteBytes_of_latest w fun _ => rfl), ?_, m.hypEvents⟩
  rw [State.statusParcel_flights, m.flights, statusOf_counts]

/-- A record that has not been held, numbered by SEQ (R382, R383). -/
theorem stampRecord_new (r : Record) (seq : Nat) : stampRecord r seq false = (vecBytes r).take 40 ++ leBytes 8 seq ++ (vecBytes r).drop 48 := by
  have hl : 56 < (vecBytes r).length := by rw [length_vecBytes]; decide
  have hd : (vecBytes r).drop 48 = bslice (vecBytes r) 48 8 ++ (vecBytes r).drop 56 := by
    rw [bslice, length_vecBytes, show 8 - (64 - 48) = 0 from rfl, List.replicate_zero, List.append_nil, ← List.drop_drop (i := 8) (j := 48), List.take_append_drop]
  rw [hd, List.drop_eq_getElem_cons hl]
  simp [stampRecord, hl]

theorem length_stampRecord (r : Record) (seq : Nat) : (stampRecord r seq false).length = 64 := by
  simp [stampRecord_new, length_vecBytes, length_leBytes]

/-- A record that its ring has no room for (R383). -/
theorem State.ringPut_full (s : State) (pid : Nat) (h : FbHdr) (r : Record) (hf : 2 ^ h.logn ≤ (h.tail + 2 ^ 32 - h.head) % 2 ^ 32) :
    s.ringPut pid h r false = (s, false) := by
  rw [State.ringPut, if_pos hf]

/-- A record whose place in the ring has no translation (R383). -/
theorem State.ringPut_fault {s z : State} {pid : Nat} {h : FbHdr} {r : Record} {j : Why} (hf : (h.tail + 2 ^ 32 - h.head) % 2 ^ 32 < 2 ^ h.logn)
    (hz : s.xlateDev pid true .write (h.ring + BitVec.ofNat 64 (64 * (h.tail % 2 ^ h.logn))) = .error (j, z)) :
    s.ringPut pid h r false = (z.hypEvent (.ringFault pid), false) := by
  rw [State.ringPut, if_neg (by omega), hz]

/-- A record that enters its ring (R383, R384). -/
theorem State.ringPut_room {s z : State} {pid : Nat} {h : FbHdr} {r : Record} {l : Loc} (hf : (h.tail + 2 ^ 32 - h.head) % 2 ^ 32 < 2 ^ h.logn)
    (hz : s.xlateDev pid true .write (h.ring + BitVec.ofNat 64 (64 * (h.tail % 2 ^ h.logn))) = .ok (l, z)) (ha : h.pa % 64 = 0) (hl : l.pa % 64 = 0)
    (hne : l.pa ≠ h.pa) (hsl : z.slotPages (l.pa / 64) = []) (hsh : z.slotPages (h.pa / 64) = []) :
    (s.ringPut pid h r false).2 = true ∧ RingPut z (s.ringPut pid h r false).1
      [(l.pa, (vecBytes r).take 40 ++ leBytes 8 h.seq ++ (vecBytes r).drop 48),
        (h.pa + 20, leBytes 4 ((h.tail + 1) % 2 ^ 32) ++ leBytes 4 h.held ++ leBytes 4 h.ovf ++ leBytes 8 ((h.seq + 1) % 2 ^ 64))]
      (if h.tail = h.head then [statusOf pid h ((h.tail + 1) % 2 ^ 32) h.held h.ovf] else []) := by
  rw [State.ringPut, if_neg (by omega), hz]
  dsimp only
  rw [← stampRecord_new]
  have m1 := z.putBytes_onlyMemory l.pa (stampRecord r h.seq false)
  have w1 := z.putBytes_wroteBytes l.pa (stampRecord r h.seq false) (by rw [length_stampRecord]; omega) hsl
  generalize z.putBytes l.pa (stampRecord r h.seq false) = a at m1 w1 ⊢
  rw [if_neg Bool.false_ne_true]
  generalize hbs : leBytes 4 ((h.tail + 1) % 2 ^ 32) ++ leBytes 4 h.held ++ leBytes 4 h.ovf ++ leBytes 8 ((h.seq + 1) % 2 ^ 64) = bs
  have hlen : bs.length = 20 := by simp [← hbs, length_leBytes]
  have m := m1.trans (a.putBytes_onlyMemory (h.pa + 20) bs)
  have w2 := a.putBytes_wroteBytes (h.pa + 20) bs (by omega) (by rw [show (h.pa + 20) / 64 = h.pa / 64 by omega, m1.slotPages]; exact hsh)
  generalize a.putBytes (h.pa + 20) bs = b at m w2 ⊢
  have w := wrotePlaces_two w1 w2 (by rw [length_stampRecord]; omega)
  refine ⟨rfl, ?_⟩
  split
  · exact ⟨m.cells, w, by rw [State.statusParcel_flights, m.flights, statusOf_counts], m.hypEvents⟩
  · exact ⟨m.cells, w, by rw [m.flights, List.append_nil], m.hypEvents⟩

/-! A trap (R339, R343). -/

/-- A context that an engine's trap stops. -/
def Ctx.trapped (x : Ctx) (e : Eng) (w : Why) : Ctx :=
  { x with st := .suspended }.setEng e
    { x.eng e with
      st := .faulted, code := BitVec.ofNat 8 w.code, joining := false, waited := none
      two := match (x.eng e).line with
        | some l => l.1 == lineSlot (x.eng e).pc && twoAt l.2 e (x.eng e).pc
        | none => false }
/-- A context whose engine keeps a record in its pending-fault register. -/
def Ctx.holding (y : Ctx) (e : Eng) (r : Record) : Ctx := y.setEng e { y.eng e with held := some r }
/-- A context keeps the record of an engine. -/
def State.holdEng (c k : Nat) (e : Eng) (r : Record) (s : State) : State := s.setCtx c k ((s.ctx c k).holding e r)
/-- The record of an engine's trap (R382). -/
def State.trapRecord (s : State) (c k : Nat) (e : Eng) (w : Why) : Record :=
  let x := s.ctx c k
  mkRecord w.code (engNo e) k x.chan (s.cell c).lcell.toNat w.acc w.level w.va ((x.eng e).pc.setWidth 64) w.detail x.phdr s.time 0 w.cause


theorem Ctx.trapped_kmode (x : Ctx) (e : Eng) (w : Why) : (x.trapped e w).kmode = x.kmode := Ctx.setEng_kmode ..
theorem Ctx.trapped_inv (x : Ctx) (e : Eng) (w : Why) : (x.trapped e w).inv = x.inv := Ctx.setEng_inv ..
theorem Ctx.trapped_chan (x : Ctx) (e : Eng) (w : Why) : (x.trapped e w).chan = x.chan := Ctx.setEng_chan ..
theorem Ctx.trapped_phdr (x : Ctx) (e : Eng) (w : Why) : (x.trapped e w).phdr = x.phdr := Ctx.setEng_phdr ..

/-- What a trap that is no service request does. -/
theorem State.raise_eq (s : State) (c k : Nat) (e : Eng) (w : Why) (arg : Word) (reg : RegG) (hw : w.code < 0x20 ∨ 0x27 < w.code) :
    s.raise c k e w arg reg =
      if w.code = 2 ∧ ((s.ctx c k).trapped e w).sharers e ≠ [] then s.setCtx c k ((s.ctx c k).trapped e w)
      else if (s.ctx c k).kmode = true then
        { s.setCtx c k ((s.ctx c k).trapped e w) with
          hypFaults := s.hypFaults ++ [⟨(s.cell c).tag, c, k, (s.ctx c k).inv, e, BitVec.ofNat 8 w.code, arg, reg⟩] }
      else (s.setCtx c k ((s.ctx c k).trapped e w)).deliver (s.cell c).tag (s.trapRecord c k e w) (State.holdEng c k e (s.trapRecord c k e w)) := by
  have htwo : ∀ l : Option (Slot × BitVec 256), (l.map fun l => l.1 == lineSlot ((s.ctx c k).eng e).pc && twoAt l.2 e ((s.ctx c k).eng e).pc).getD false
      = match l with
        | some l => l.1 == lineSlot ((s.ctx c k).eng e).pc && twoAt l.2 e ((s.ctx c k).eng e).pc
        | none => false := fun l => by
    cases l <;> rfl
  unfold State.raise
  rw [if_neg (by omega)]
  extract_lets -underBinder x q pid two x1 s1 r
  have hx1 : x1 = (s.ctx c k).trapped e w := by
    unfold Ctx.trapped; rw [← htwo]
  have hl : (s1.cell c).lcell = (s.cell c).lcell := by
    unfold s1 State.setCtx; rw [State.setCell_cell, if_pos rfl]; rfl
  have hr : r = s.trapRecord c k e w := by
    unfold r State.trapRecord
    rw [hx1, Ctx.trapped_chan, Ctx.trapped_phdr, hl]; rfl
  clear_value r
  subst hr
  unfold s1
  clear_value x1
  subst hx1
  rw [Ctx.trapped_kmode, Ctx.trapped_inv]
  simp only [List.isEmpty_iff, Bool.not_eq_true', Bool.eq_false_iff, ne_eq]
  rfl

/-- A context that is set twice holds what was set last. -/
theorem State.setCtx_setCtx (s : State) (c k : Nat) (x y : Ctx) : (s.setCtx c k x).setCtx c k y = s.setCtx c k y := by
  simp [State.setCtx, State.setCell, State.cell, Cell.setCtx]

theorem State.holdEng_ctx {c k : Nat} {e : Eng} {r : Record} {y : Ctx} (h : u.ctx c k = y) : State.holdEng c k e r u = u.setCtx c k (y.holding e r) := by
  rw [State.holdEng, h]

theorem ctx_of_cells (h : t.cells = s.cells) (c k : Nat) : t.ctx c k = s.ctx c k := by simp only [State.ctx, State.cell, h]

/-- A trap in U mode whose fault buffer header is not there (R383). -/
theorem State.deliver_noHeader {pid : Nat} {r : Record} {hold : State → State} {v : State} (h : s.fbHeader pid = (v, none)) : s.deliver pid r hold = hold v := by
  rw [State.deliver, h]

/-- A record without room in its ring, or whose place has no translation, is held (R383). -/
theorem State.deliver_held {pid : Nat} {r : Record} {hold : State → State} {v z : State} {h : FbHdr} (hv : s.fbHeader pid = (v, some h))
    (hz : v.ringPut pid h r false = (z, false)) : s.deliver pid r hold = hold (z.countHold pid h) := by
  rw [State.deliver, hv]; dsimp only; rw [hz]

/-- A record that enters its ring (R383). -/
theorem State.deliver_put {pid : Nat} {r : Record} {hold : State → State} {v : State} {h : FbHdr} (hv : s.fbHeader pid = (v, some h))
    (hz : (v.ringPut pid h r false).2 = true) : s.deliver pid r hold = (v.ringPut pid h r false).1 := by
  rw [State.deliver, hv]; dsimp only
  generalize v.ringPut pid h r false = q at hz ⊢
  obtain ⟨z, b⟩ := q
  rw [show b = true from hz]

/-- A record that is held and counted (R383). -/
theorem holdEng_counted {c k : Nat} {e : Eng} {r : Record} {y : Ctx} {pid : Nat} {h : FbHdr} (hz : u.ctx c k = y) (ha : h.pa % 64 = 0)
    (hs : u.slotPages (h.pa / 64) = []) :
    let t := State.holdEng c k e r (u.countHold pid h)
    (t.ctx c k = y.holding e r
      ∧ wrotePlaces u t [(h.pa + 24, leBytes 4 ((h.held + 1) % 2 ^ 32) ++ leBytes 4 ((h.ovf + 1) % 2 ^ 32))]
      ∧ t.flights.map (fun f => f.parcel)
        = u.flights.map (fun f => f.parcel) ++ [statusOf pid h h.tail ((h.held + 1) % 2 ^ 32) ((h.ovf + 1) % 2 ^ 32)])
    ∧ t.hypEvents = u.hypEvents := by
  have p := u.countHold_put pid h ha hs
  generalize u.countHold pid h = b at p ⊢
  rw [State.holdEng_ctx ((ctx_of_cells p.cells c k).trans hz)]
  exact ⟨⟨State.setCtx_ctx_self .., p.wrote, p.sends⟩, p.events⟩

end Sys2Proof.Machine

namespace Sys2Proof.Proofs
open Sys2Proof Sys2Proof.Machine Sys2Proof.Claims

/-- Settles O3: a trap that is no service request stops its engine, and its record goes to Belvedere's queue, or by way of the fault buffer's header
into the ring or the engine's pending-fault register. -/
theorem trapStopsEngine : Obligations.TrapStopsEngine := by
  unfold Obligations.TrapStopsEngine
  intro s c k e w arg reg hw x pid y r held
  have hraise := s.raise_eq c k e w arg reg hw
  have hx : (s.setCtx c k y).ctx c k = y := State.setCtx_ctx_self ..
  refine ⟨fun h2 hsh => hraise.trans (if_pos ⟨h2, hsh⟩), fun hno => ?_⟩
  rw [if_neg (fun h => h.2 (hno h.1))] at hraise
  have hU : x.kmode = false → s.raise c k e w arg reg = (s.setCtx c k y).deliver pid r (State.holdEng c k e r) := fun hk =>
    hraise.trans (if_neg (by rw [show (s.ctx c k).kmode = false from hk]; decide))
  refine ⟨fun hk => hraise.trans (if_pos hk), ?_⟩
  clear_value r y
  refine ⟨fun hk hf => ?_, fun hk v hv => ?_, fun hk h v hv ha => ?_⟩
  · rw [hU hk, State.deliver_none (s.setCtx c k y) pid r _ hf]
    exact (State.holdEng_ctx hx).trans (State.setCtx_setCtx ..)
  · have hc := (s.setCtx c k y).fbHeader_frame pid
    rw [hv] at hc
    rw [hU hk, State.deliver_noHeader hv]
    exact State.holdEng_ctx ((ctx_of_cells hc.1 c k).trans hx)
  · rw [hU hk]
    intro t slot counts
    have m := ((s.setCtx c k y).fbHeader_frame pid).2
    rw [hv] at m
    have hvx : v.ctx c k = y := (ctx_of_cells (m (by simp)).cells c k).trans hx
    refine ⟨fun hfull hs => ?_, fun hroom => ⟨fun j z hz hs => ?_, fun l z hz hl hne hsl hs => ?_⟩⟩
    · have ht : t = _ := State.deliver_held hv (v.ringPut_full pid h r hfull)
      have := holdEng_counted (e := e) (r := r) (pid := pid) hvx ha hs
      rwa [← ht] at this
    · have ht : t = _ := State.deliver_held hv (State.ringPut_fault hroom hz)
      have mz := v.xlateDev_onlyMemory pid true .write slot
      rw [hz] at mz
      have := holdEng_counted (u := z.hypEvent (.ringFault pid)) (e := e) (r := r) (pid := pid) ((ctx_of_cells mz.cells c k).trans hvx) ha hs
      rwa [← ht] at this
    · obtain ⟨hok, p⟩ := State.ringPut_room (r := r) hroom hz ha hl hne hsl hs
      have ht : t = _ := State.deliver_put hv hok
      have mz := v.xlateDev_onlyMemory pid true .write slot
      rw [hz] at mz
      rw [← ht] at p
      exact ⟨(ctx_of_cells (p.cells.trans mz.cells) c k).trans hvx, p.wrote, p.sends⟩

end Sys2Proof.Proofs
end

section
/-! The turn of an engine (R53, R168, R172 to R174). -/

namespace Sys2Proof.Machine
open Sys2Proof Sys2Proof.Claims

variable {s t u v z : State} {cell ctx : Nat} {e : Eng} {rest : List Turn} {b : BitVec 256}

theorem Ctx.setEng_setEng (x : Ctx) (e : Eng) (c d : EngC) : (x.setEng e c).setEng e d = x.setEng e d := by cases e <;> rfl

/-- A step whose turn is known. -/
theorem step_done (h : s.serveHeld.ready = .done t) : step s = .next t := by rw [step, h]
theorem step_run {i : Instr} (h : s.serveHeld.ready = .run i t) : step s = exec i t := by rw [step, h]

theorem State.turn_agenda {x : Turn} (h : s.agenda = x :: rest) : s.turn = (x, { s with agenda := rest }) := by rw [State.turn, h]

/-- The turn of an engine that the agenda names. -/
theorem ready_engine (h : s.serveHeld.agenda = .engine cell ctx e :: rest) : s.serveHeld.ready = (turnOf s rest ⟨cell, ctx, 0⟩).engineTurn cell ctx e := by
  rw [State.ready, State.turn_agenda h]; rfl

theorem State.isTaken_none (h : (s.ctx cell ctx).taken = none) : s.isTaken cell ctx = false := by rw [State.isTaken, h]

/-- A turn whose fetch ends it. -/
theorem step_fetch (ha : s.serveHeld.agenda = .engine cell ctx e :: rest) (hm : ((turnOf s rest ⟨cell, ctx, 0⟩).ctx cell ctx).moves e = true)
    (ht : ((turnOf s rest ⟨cell, ctx, 0⟩).ctx cell ctx).taken = none) (hf : (turnOf s rest ⟨cell, ctx, 0⟩).takeLine cell ctx e = (t, none)) :
    step s = .next t := by
  refine step_done ?_
  rw [ready_engine ha, State.engineTurn, hm, State.isTaken_none ht, if_neg (by simp), State.fetch, hf]

/-- A turn whose fetch comes to a lane: its word is privileged, or is an instruction, or none. -/
theorem step_lane (ha : s.serveHeld.agenda = .engine cell ctx e :: rest) (hm : ((turnOf s rest ⟨cell, ctx, 0⟩).ctx cell ctx).moves e = true)
    (ht : ((turnOf s rest ⟨cell, ctx, 0⟩).ctx cell ctx).taken = none) {k : Nat} (hf : (turnOf s rest ⟨cell, ctx, 0⟩).fetch cell ctx e = (t, some (b, k)))
    (hc : e = .m → (t.cell cell).claim = some ctx) :
    (e = .x → privilegedX (laneWord b k) = true → (t.ctx cell ctx).kmode = false → step s = .next (t.raise cell ctx e ⟨4, 6, 0xFF, 0, 0, 0⟩ 0 0))
    ∧ ((e = .x → privilegedX (laneWord b k) = true → (t.ctx cell ctx).kmode = true) →
      (∀ i, decodeEng e (laneWord b k) (extWord b e k) = some i → step s = exec i t)
      ∧ (decodeEng e (laneWord b k) (extWord b e k) = none → step s = .next (t.raise cell ctx e ⟨1, 6, 0xFF, 0, 0, 0⟩ 0 0))) := by
  have hr := ready_engine ha
  rw [State.engineTurn, hm, State.isTaken_none ht, if_neg (by simp), hf] at hr
  dsimp only at hr
  rw [if_neg (fun h => h.2 (hc h.1))] at hr
  refine ⟨fun hx hp hk => step_done (hr.trans (if_pos ⟨hx, hp, by simp [hk]⟩)), fun hno => ?_⟩
  rw [if_neg (fun h => by simpa [hno h.1 h.2.1] using h.2.2)] at hr
  refine ⟨fun i hi => ?_, fun hn => ?_⟩
  · rw [hi] at hr; exact step_run hr
  · rw [hn] at hr; exact step_done hr

/-- A line that an engine holds. -/
theorem State.takeLine_held (h : ((v.ctx cell ctx).eng e).line = some (lineSlot ((v.ctx cell ctx).eng e).pc, b)) :
    v.takeLine cell ctx e = (v, some b) := by
  unfold State.takeLine; dsimp only; rw [h, Option.filter_some, if_pos (beq_self_eq_true _)]

section
variable (hmiss : ∀ l, ((v.ctx cell ctx).eng e).line = some l → l.1 ≠ lineSlot ((v.ctx cell ctx).eng e).pc)
include hmiss

theorem filter_missed : ((v.ctx cell ctx).eng e).line.filter (fun l => l.1 == lineSlot ((v.ctx cell ctx).eng e).pc) = none := by
  rw [Option.filter_eq_none_iff]
  intro l hl; simpa using hmiss l hl

theorem State.takeLine_fault {w : Why} (h : v.fetchLine cell (v.ctx cell ctx).kmode ((v.ctx cell ctx).eng e).pc = .error (.fault w, t)) :
    v.takeLine cell ctx e = (t.raise cell ctx e w 0 0, none) := by
  unfold State.takeLine; dsimp only; rw [filter_missed hmiss]; dsimp only; rw [h]

theorem State.takeLine_pending {pa : Nat} (h : v.fetchLine cell (v.ctx cell ctx).kmode ((v.ctx cell ctx).eng e).pc = .error (.pending pa, t)) :
    v.takeLine cell ctx e = ({ t with cur := ⟨cell, ctx, t.cur.core⟩ }.noteLate e false pa, none) := by
  unfold State.takeLine; dsimp only; rw [filter_missed hmiss]; dsimp only; rw [h]

/-- A line that an engine fetches. -/
theorem State.takeLine_fetched (h : v.fetchLine cell (v.ctx cell ctx).kmode ((v.ctx cell ctx).eng e).pc = .ok (b, t)) :
    (∀ u, (t.tileCame cell ctx e).checkLate cell ctx e b = (u, none) → v.takeLine cell ctx e = (u, none))
    ∧ ∀ u, (t.tileCame cell ctx e).checkLate cell ctx e b = (u, some b) →
      (headerOk b = true → v.takeLine cell ctx e = (u.haveLine cell ctx e b, some b))
      ∧ (headerOk b = false → v.takeLine cell ctx e = (u.raise cell ctx e ⟨2, 6, 0xFF, 0, 0, 0⟩ 0 0, none)) := by
  unfold State.takeLine; dsimp only; rw [filter_missed hmiss]; dsimp only; rw [h]; dsimp only
  refine ⟨fun u hu => by rw [hu], fun u hu => ⟨fun hh => ?_, fun hh => ?_⟩⟩
  · rw [hu]; dsimp only; rw [if_pos hh]
  · rw [hu]; dsimp only; rw [if_neg (by simp [hh])]

end

/-! The check of a branch that came late (R173). -/

theorem State.checkLate_bad {r : Unchecked} (h : lateFails ((z.ctx cell ctx).eng e) e b r) :
    z.checkLate cell ctx e b = ((z.setCtx cell ctx ((z.ctx cell ctx).undoBranch e r)).raise cell ctx e (whyTarget r.target) 0 0, none) := by
  obtain ⟨hu, hl, hb⟩ := h
  unfold State.checkLate; dsimp only; rw [hu]; dsimp only
  rw [if_neg]
  simpa [hl, targetOk] using hb

/-- An engine whose branch need not be checked, or went to one of its own lanes, has its line with the check over. -/
theorem State.checkLate_good (h : ∀ r, ¬lateFails ((z.ctx cell ctx).eng e) e b r) :
    ∃ w, z.checkLate cell ctx e b = (w, some b) ∧ (let x := z.ctx cell ctx
      let y := x.setEng e { x.eng e with unchecked := none }
      w.haveLine cell ctx e b = (z.setCtx cell ctx y).setCtx cell ctx (y.setEng e { x.eng e with line := some (lineSlot (x.eng e).pc, b), waited := none, unchecked := none })) := by
  unfold State.checkLate; dsimp only
  cases hu : ((z.ctx cell ctx).eng e).unchecked with
  | none =>
    refine ⟨z, rfl, ?_⟩
    rw [State.haveLine, State.setCtx_setCtx, Ctx.setEng_setEng, ← hu]
  | some r =>
    refine ⟨_, if_pos ?_, ?_⟩
    · by_contra hn
      rw [not_or, not_not] at hn
      exact h r ⟨hu, hn.1, by simpa [targetOk] using hn.2⟩
    · rw [State.haveLine, State.setCtx_ctx_self, Ctx.setEng_eng_self]

/-- An engine that has its line takes it. -/
theorem State.takeLine_hasLine (h : hasLine v u cell ctx e b) : v.takeLine cell ctx e = (u, some b) := by
  rcases h with ⟨hl, rfl⟩ | ⟨z, ⟨hmiss, t, ht, rfl⟩, hok, hgood, rfl⟩
  · exact State.takeLine_held hl
  · obtain ⟨w, hw, hline⟩ := State.checkLate_good hgood
    rw [((State.takeLine_fetched hmiss ht).2 w hw).1 hok, hline]

/-- An engine that no join holds up comes to its next lane. -/
theorem State.fetch_lane {k : Nat} (h : v.takeLine cell ctx e = (u, some b)) (hp : passes u cell ctx e b)
    (hk : firstLane b e (((u.ctx cell ctx).eng e).pc.toNat % 8) = some k) : v.fetch cell ctx e = (atLane u cell ctx e k, some (b, k)) := by
  have hj : ((u.ctx cell ctx).mustJoin e b && (firstLane b e 1).isSome) = false := by
    rcases hp with hp | hp | hp <;> simp [Ctx.mustJoin, hp]
  rw [State.fetch, h]; dsimp only
  rw [hj, if_neg Bool.false_ne_true, hk]; rfl

theorem atLane_kmode (u : State) (cell ctx : Nat) (e : Eng) (k : Nat) : ((atLane u cell ctx e k).ctx cell ctx).kmode = (u.ctx cell ctx).kmode := by
  rw [atLane, State.setCtx_ctx_self, Ctx.setEng_kmode]
theorem atLane_claim (u : State) (cell ctx : Nat) (e : Eng) (k : Nat) : ((atLane u cell ctx e k).cell cell).claim = (u.cell cell).claim := by
  rw [atLane, State.setCtx, State.setCell_cell, if_pos rfl, Cell.setCtx_claim]

/-! The turn of a hart (R302), of the device, and what the homes hold (R388). -/

/-- The exceptions of the standard causes (R299; log 8). -/
theorem excepts_eq (s : State) (cause : Nat) (tval : Word) (h : cause < 2 ^ 63) : s.setHx (s.hx.take ⟨cause, tval, none⟩ s.hx.pc) = excepts s cause tval none := by
  have hd : ∀ a b, s.hx.delegates a b cause = (mget 0 s.hx.csrs a).getLsbD cause := fun a b => by
    rw [Hart.delegates, if_neg (by omega), Nat.mod_eq_of_lt h]
  have hv : s.hx.mode.virt = true ↔ s.hx.mode = .vs ∨ s.hx.mode = .vu := by cases s.hx.mode <;> simp [HartMode.virt]
  have hto : s.hx.trapTo cause = exceptTo s.hx cause := by
    simp only [Hart.trapTo, exceptTo, hd, hv, Bool.not_eq_true']
  unfold excepts Hart.take
  dsimp only
  rw [hto]
  have hm : exceptTo s.hx cause = .m ∨ exceptTo s.hx cause = .vs ∨ exceptTo s.hx cause = .s := by
    unfold exceptTo; split
    · exact .inl rfl
    · split
      · exact .inr (.inl rfl)
      · exact .inr (.inr rfl)
  rcases hm with hm | hm | hm
  · rw [hm]; rfl
  · rw [hm]; rfl
  · rw [hm]; simp only [Hart.noteVirt, if_true, hv]; rfl

/-- No held request is there to be performed. -/
theorem State.serveHeld_none (s : State) (h : ∀ a ∈ s.asks, a.conflict = false) : s.serveHeld = s := by
  have hone : s.serveOne = s := by
    rw [State.serveOne, List.find?_eq_none.2 (fun a ha => by simp [h a ha])]
  unfold State.serveHeld
  generalize s.asks = l
  induction l with
  | nil => rfl
  | cons a l ih => rw [List.foldl_cons, hone, ih]

end Sys2Proof.Machine
end

section
/-! What the work of an ending invocation changes (R24, R71, R108, R268, R426): its stores, streams and records, beside memory. -/

namespace Sys2Proof.Machine
open Sys2Proof Sys2Proof.Claims

variable {s t u v : State}

/-! Maps. -/

theorem mfind_map {α β : Type} (m : SMap α) (f : α → β) (k : Nat) : mfind (m.map fun e => (e.1, f e.2)) k = (mfind m k).map f := by
  induction m with
  | nil => rfl
  | cons e m ih => obtain ⟨j, v⟩ := e; simp only [List.map_cons, mfind]; split <;> simp [ih]

theorem mget_map {α β : Type} (m : SMap α) (f : α → β) (d : α) (k : Nat) : mget (f d) (m.map fun e => (e.1, f e.2)) k = f (mget d m k) := by
  rw [mget, mget, mfind_map, Option.getD_map]

theorem mfind_mem {α : Type} {m : SMap α} {k : Nat} {v : α} (h : mfind m k = some v) : (k, v) ∈ m := by
  induction m with
  | nil => cases h
  | cons e m ih =>
    obtain ⟨j, w⟩ := e
    rw [mfind] at h
    split at h
    · next hj => rw [hj, Option.some.inj h]; exact List.mem_cons_self
    · exact List.mem_cons_of_mem _ (ih h)

/-- A map in which one value is replaced holds an entry of a sort as before, when the new value and the old one, or both the new one and the default, are
of it or not. -/
theorem any_mput {α : Type} (m : SMap α) (d : α) (k : Nat) (v : α) (P : Nat × α → Bool) (h : P (k, v) = P (k, mget d m k)) (hd : P (k, d) = false) :
    (mput m k v).any P = m.any P := by
  induction m with
  | nil => simp [mput, h, mget, mfind, hd]
  | cons e m ih =>
    obtain ⟨j, w⟩ := e
    simp only [mput]
    have hother : j ≠ k → mget d ((j, w) :: m) k = mget d m k := fun hj => by simp [mget, mfind, hj]
    split
    · next hlt =>
      rw [hother (by omega)] at h
      rw [List.any_cons, h, mget]
      cases hf : mfind m k with
      | none => simp [hd]
      | some x =>
        rw [Option.getD_some]
        cases hp : P (k, x) with
        | false => rfl
        | true => 
          have : m.any P = true := List.any_eq_true.2 ⟨_, mfind_mem hf, hp⟩
          simp [this]
    · split
      · next hk => subst hk; rw [List.any_cons, List.any_cons, h]; simp [mget, mfind]
      · next hk => rw [List.any_cons, List.any_cons, ih ((hother (Ne.symm hk)) ▸ h)]

/-! Accesses of streams (R69, R105, R108, R109). -/

theorem State.snoopE_onlyMemory (s : State) (line : Nat) : OnlyMemory s (s.snoopE line) := by
  unfold State.snoopE; dsimp only; split
  · exact (State.setDir_onlyMemory ..).trans (State.snooped_onlyMemory _ _ _ _ fun p => by simp [onlySnoops])
  · exact .refl s

theorem State.throughRdc_onlyMemory (s : State) (cell : Nat) (l : Loc) : OnlyMemory s (s.throughRdc cell l) := by
  unfold State.throughRdc; dsimp only; split
  · exact .refl s
  · exact (((s.snoopRead_onlyMemory _).trans (State.snoopE_onlyMemory ..)).trans (State.setDir_onlyMemory ..)).trans (State.allocIn_onlyMemory ..)

theorem State.l1Choice_onlyMemory (s : State) (hits : List L1Line) : OnlyMemory s (s.l1Choice hits).1 := by
  unfold State.l1Choice; split
  · exact .refl s
  · exact s.took_onlyMemory

theorem State.weakRead_access (s : State) (cell ctx : Nat) (e : Eng) (l : Loc) (n : Nat) : Access cell s (s.weakRead cell ctx e l n).1 := by
  unfold State.weakRead
  extract_lets c x line off own onto
  have h := (s.l1Choice_onlyMemory (c.l1Hits s.cycle.toNat (x.eng e).horizon line)).access (n := cell)
  split
  · next he => rw [he] at h; exact h
  · next u he =>
    rw [he] at h
    extract_lets r w fill k
    have hw : Access cell s w := ((h.trans (State.homeRead_access ..)).trans (State.throughRdc_onlyMemory ..).access).trans (State.allocIn_onlyMemory ..).access
    split
    · exact hw
    · exact (hw.trans (Access.setCell w cell { k with l1 := capInsert Config.l1Lines w.free k.l1 fill } rfl fun _ => rfl)).trans (State.took_access _)

theorem State.readPlace_access (s : State) (cell ctx : Nat) (strong : Bool) (pl : Place) (pa n : Nat) : Access cell s (s.readPlace cell ctx strong pl pa n).1 := by
  refine foldl_keeps (fun acc : State × List Byte × Bool => Access cell s acc.1) _ _ _ (.refl s) fun acc c hacc => hacc.trans ?_
  show Access cell acc.1 (if strong then _ else _ : State × List Byte × Bool).1
  split
  · exact (State.drainFor_access ..).trans (State.homeRead_access ..)
  · exact State.weakRead_access ..

theorem State.dropL1_access (s : State) (cell line : Nat) : Access cell s (s.dropL1 cell line) := Access.setCell s cell _ rfl fun _ => rfl
theorem State.dropWritten_access (s : State) (cell : Nat) (ws : List (Nat × Byte)) : Access cell s (s.dropWritten cell ws) :=
  .foldl _ _ s fun t l => t.dropL1_access cell l
theorem State.homeScatter_access {cell : Nat} (s : State) (ws : List (Nat × Byte)) : Access cell s (s.homeScatter ws) :=
  .foldl _ _ s fun t l => (t.homeWrite_onlyMemory l _).access

theorem State.bufferWrites_access (s : State) (cell ctx line bank : Nat) (ws : List (Nat × Byte)) : Access cell s (s.bufferWrites cell ctx line bank ws) := by
  unfold State.bufferWrites
  extract_lets put
  have hput : ∀ z w, put z = some w → Access cell z w := fun z w h => by
    obtain ⟨sb, -, rfl⟩ := Option.map_eq_some_iff.1 h
    exact Access.setCtx z cell ctx _ rfl
  split
  · next h => exact hput _ _ h
  · split
    · exact .refl s
    · next e _ _ =>
      have he := s.drainEntry_access cell ctx e
      cases hp : put (s.drainEntry cell ctx e) with
      | none => exact .refl s
      | some w => exact he.trans (hput _ _ hp)

theorem State.bufferScatter_access (s : State) (cell ctx : Nat) (ps : List Piece) (ws : List (Nat × Byte)) : Access cell s (s.bufferScatter cell ctx ps ws) :=
  .foldl _ _ s fun t _ => t.bufferWrites_access ..

/-- The places of a group are found by accesses (R243). -/
theorem State.groupPieces_access (s : State) (cell : Nat) (kmode : Bool) (need : Need) (chan : Nat) (cellKind : Bool) (align : Nat) (va : Word) (len : Nat) :
    Access cell s (s.groupPieces cell kmode need chan cellKind align va len).left := by
  unfold State.groupPieces
  split
  · exact .refl s
  split
  · split <;> exact .refl s
  refine foldl_keeps (fun acc : XRes (List Piece) => Access cell s acc.left) _ _ _ (.refl s) fun acc c hacc => ?_
  match acc, hacc with
  | .error w, hacc => exact hacc
  | .ok (ps, z), hacc =>
    replace hacc : Access cell s z := hacc
    have hx := hacc.trans (z.xlate_access cell kmode need c.1)
    dsimp only
    split
    · next h => rw [h] at hx; exact hx
    · next h => rw [h] at hx; exact Access.trans hx (State.allocIn_onlyMemory ..).access

theorem State.closeScale_access (s : State) (cell ctx : Nat) (d : BitVec 256) (a : GroupAt) : Access cell s (s.closeScale cell ctx d a).left := by
  unfold State.closeScale
  extract_lets va
  split
  · exact .refl s
  split
  · exact .refl s
  have hx := s.xlate_access cell (s.ctx cell ctx).kmode .read va
  split
  · next h => rw [h] at hx; exact hx
  next l z h =>
  rw [h] at hx
  replace hx : Access cell s z := hx
  have hr : Access cell s ((z.allocIn (homeBank l) (z.cell cell).tag).scaleAt cell ctx l).1 :=
    (hx.trans (State.allocIn_onlyMemory ..).access).trans (State.readPlace_access ..)
  split
  · exact hx
  · exact hx
  · dsimp only; split <;> exact hr
  · dsimp only; split <;> exact hr

theorem State.closePieces_access (s : State) (cell ctx : Nat) (d : BitVec 256) (a : GroupAt) : Access cell s (s.closePieces cell ctx d a).left := by
  unfold State.closePieces
  have hp := s.groupPieces_access cell (s.ctx cell ctx).kmode .write (s.ctx cell ctx).chan (dCellKind d) (tyBits (dFmt d) / 8) a.addr a.len
  split
  · next h => rw [h] at hp; exact hp
  next ps z h =>
  rw [h] at hp
  have hc := Access.trans hp (z.closeScale_access cell ctx d a)
  split
  · next h => rw [h] at hc; exact hc
  · next h => rw [h] at hc; exact hc

/-! The frame. -/

theorem entBound_zero : entBound 0 = false := by decide

/-- A context but for its store buffer, streams, tickets and escalated records, and its engines' horizons. -/
def Ctx.husk (x : Ctx) : Ctx := { x.core with streams := [], esc := [], done := [] }
/-- A cell but for its store and what it caches, its matrix unit, its channels and its contexts. -/
def Cell.husk (k : Cell) : Cell := { k.core with store := [], cpoison := [], pgate := 0, chans := [], mu := Matrix.reset }
/-- The state but for the cells, parcels in flight, Belvedere's events, and what an access to memory may change. -/
def State.husk (s : State) : State := { s.core with flights := [], serial := 0, hypEvents := [] }

/-- No other cell's unit holds the port of a cell's matrix unit any more. -/
def Cell.unport (k : Cell) : Cell := { k with mu := { k.mu with portBy := none } }
/-- A cell that another cell's invocation leaves as it was, but for the port of its matrix unit. -/
def Spared (k k' : Cell) : Prop := k' = k ∨ k' = k.unport
theorem Spared.trans {a b c : Cell} (h : Spared a b) (g : Spared b c) : Spared a c := by
  rcases h with rfl | rfl <;> rcases g with rfl | rfl
  exacts [.inl rfl, .inr rfl, .inr rfl, .inr rfl]

/-- From s to t the work of ending invocations of cell n went on: beside memory, parcels left, buffers, streams, matrix units and the cell's store changed,
and the parcels of its mailboxes may be others. -/
structure Winds (n : Nat) (s t : State) : Prop where
  rest : t.husk = s.husk
  cell : ∀ c, (t.cell c).husk = (s.cell c).husk
  ctx : ∀ c k, (t.ctx c k).husk = (s.ctx c k).husk
  chan : ∀ c k, ∃ mb, mb.length = (s.chan c k).mailbox.length ∧ t.chan c k = { s.chan c k with mailbox := mb }
  entries : ∀ c (P : Nat → BitVec 256 → Bool), (∀ n, P n 0 = false) → (t.cell c).chans.any (fun e => P e.1 e.2.entry) = (s.cell c).chans.any fun e => P e.1 e.2.entry
  other : ∀ c, c ≠ n → Spared (s.cell c) (t.cell c)
  tags : Entered s t
  flights : ∀ f ∈ t.flights, f ∈ s.flights ∨ f.leg = .way

namespace Winds

variable {s t u : State} {n : Nat}

theorem refl (s : State) : Winds n s s := ⟨rfl, fun _ => rfl, fun _ _ => rfl, fun _ _ => ⟨_, rfl, rfl⟩, fun _ _ _ => rfl, fun _ _ => .inl rfl,
  .of_cells rfl, fun _ h => .inl h⟩
theorem trans (h : Winds n s t) (g : Winds n t u) : Winds n s u := by
  refine ⟨g.rest.trans h.rest, fun c => (g.cell c).trans (h.cell c), fun c k => (g.ctx c k).trans (h.ctx c k), fun c k => ?_,
    fun c P hP => (g.entries c P hP).trans (h.entries c P hP), fun c hc => (h.other c hc).trans (g.other c hc),
    h.tags.trans g.tags fun c => by have e := congrArg Cell.tag (h.cell c); exact e, fun f hf => (g.flights f hf).elim (h.flights f) .inr⟩
  obtain ⟨mb, hl, hm⟩ := h.chan c k
  obtain ⟨nb, gl, gm⟩ := g.chan c k
  exact ⟨nb, by rw [gl, hm, ← hl], by rw [gm, hm]⟩

theorem foldl {β : Type} (f : State → β → State) (l : List β) (s : State) (hf : ∀ t b, Winds n t (f t b)) : Winds n s (l.foldl f s) :=
  foldl_keeps (fun t => Winds n s t) f l s (refl s) fun t b ht => ht.trans (hf t b)

/-- What only parcels in flight, events and free values tell apart. -/
theorem of_cells (hr : t.husk = s.husk) (hc : t.cells = s.cells) (hf : ∀ f ∈ t.flights, f ∈ s.flights ∨ f.leg = .way) : Winds n s t := by
  have hcell : ∀ c, t.cell c = s.cell c := fun c => by rw [State.cell, State.cell, hc]
  exact ⟨hr, fun c => by rw [hcell], fun c k => by rw [State.ctx, State.ctx, hcell], fun c k => ⟨_, rfl, by rw [State.chan, State.chan, hcell]⟩,
    fun c P _ => by rw [hcell], fun c _ => .inl (hcell c), .of_cells hc, hf⟩

theorem of_access (h : Access n s t) : Winds n s t := by
  have hch : ∀ c, (t.cell c).chans = (s.cell c).chans := h.of_cell (·.chans) fun _ => rfl
  refine ⟨congrArg (fun z : State => { z with flights := [], serial := 0, hypEvents := [] }) h.core, h.of_cell Cell.husk fun _ => rfl,
    h.of_ctx Ctx.husk fun _ => rfl, fun c k => ⟨_, rfl, ?_⟩, fun c P _ => by rw [hch], fun c hc => .inl (h.other c hc), h.tags,
    fun f hf => .inl (h.flights ▸ hf)⟩
  rw [State.chan, State.chan, Cell.chan, Cell.chan, hch]

theorem of_onlyMemory (h : OnlyMemory s t) : Winds n s t := of_access h.access

/-- An update of one cell that keeps its husk and its channels, and its contexts' husks. -/
theorem setCell (s : State) (n : Nat) (k : Cell) (hk : k.husk = (s.cell n).husk) (hc : k.chans = (s.cell n).chans) (hx : ∀ j, (k.ctx j).husk = (s.ctx n j).husk) :
    Winds n s (s.setCell n k) := by
  refine ⟨rfl, fun c => ?_, fun c j => ?_, fun c j => ⟨_, rfl, ?_⟩, fun c P _ => ?_, fun c hc => .inl (by rw [State.setCell_cell, if_neg (Ne.symm hc)]),
    .setCell s n k (by have e := congrArg Cell.tag hk; exact e), fun _ h => .inl h⟩
  · rw [State.setCell_cell]; split
    · next h => rw [hk, h]
    · rfl
  · rw [State.ctx, State.setCell_cell]; split
    · next h => rw [hx, h]
    · rfl
  · rw [State.chan, State.chan, State.setCell_cell]; split
    · next h => rw [Cell.chan, Cell.chan, hc, h]
    · rfl
  · rw [State.setCell_cell]; split
    · next h => rw [hc, h]
    · rfl

/-- An update of one context that keeps its husk. -/
theorem setCtx (s : State) (n j : Nat) (x : Ctx) (hx : x.husk = (s.ctx n j).husk) : Winds n s (s.setCtx n j x) := by
  refine setCell s n _ rfl rfl fun i => ?_
  rw [Cell.setCtx_ctx]; split
  · next h => rw [hx, h]
  · rfl

/-- An update of the mailboxes of one cell. -/
theorem setChans (s : State) (n : Nat) (m : SMap Chan)
    (hm : ∀ j, ∃ mb, mb.length = (s.chan n j).mailbox.length ∧ mget Chan.reset m j = { s.chan n j with mailbox := mb })
    (he : ∀ P : Nat → BitVec 256 → Bool, (∀ i, P i 0 = false) → m.any (fun e => P e.1 e.2.entry) = (s.cell n).chans.any fun e => P e.1 e.2.entry) :
    Winds n s (s.setCell n { s.cell n with chans := m }) := by
  refine ⟨rfl, fun c => ?_, fun c j => ?_, fun c j => ?_, fun c P hP => ?_, fun c hc => .inl (by rw [State.setCell_cell, if_neg (Ne.symm hc)]),
    .setCell s n _ rfl, fun _ h => .inl h⟩
  · rw [State.setCell_cell]; split
    · next h => rw [← h]; rfl
    · rfl
  · rw [State.ctx, State.setCell_cell]; split
    · next h => rw [← h]; rfl
    · rfl
  · show ∃ mb, _ ∧ ((s.setCell n _).cell c).chan j = _
    rw [State.setCell_cell]; split
    · next h => rw [← h]; exact hm j
    · exact ⟨_, rfl, rfl⟩
  · rw [State.setCell_cell]; split
    · next h => rw [← h]; exact he P hP
    · rfl

/-! What stays. -/

theorem cur (h : Winds n s t) : t.cur = s.cur := show t.husk.cur = s.husk.cur from congrArg State.cur h.rest
theorem time (h : Winds n s t) : t.time = s.time := show t.husk.time = s.husk.time from congrArg State.time h.rest
theorem cycle (h : Winds n s t) : t.cycle = s.cycle := show t.husk.cycle = s.husk.cycle from congrArg State.cycle h.rest
theorem hypFaults (h : Winds n s t) : t.hypFaults = s.hypFaults := show t.husk.hypFaults = s.husk.hypFaults from congrArg State.hypFaults h.rest
theorem parts (h : Winds n s t) : t.parts = s.parts := show t.husk.parts = s.husk.parts from congrArg State.parts h.rest
theorem part (h : Winds n s t) (p : Nat) : t.part p = s.part p := by rw [State.part, h.parts]; rfl
theorem of_cell {α : Type} (h : Winds n s t) (f : Cell → α) (hf : ∀ k, f k.husk = f k) (c : Nat) : f (t.cell c) = f (s.cell c) := by
  rw [← hf, h.cell, hf]
theorem of_ctx {α : Type} (h : Winds n s t) (f : Ctx → α) (hf : ∀ x, f x.husk = f x) (c k : Nat) : f (t.ctx c k) = f (s.ctx c k) := by
  rw [← hf, h.ctx, hf]
theorem of_chan {α : Type} (h : Winds n s t) (f : Chan → α) (hf : ∀ x mb, mb.length = x.mailbox.length → f { x with mailbox := mb } = f x) (c k : Nat) :
    f (t.chan c k) = f (s.chan c k) := by
  obtain ⟨mb, hl, hm⟩ := h.chan c k
  rw [hm, hf _ _ hl]

end Winds

/-! Free values in a cell's store and mailboxes (R7, R19). -/

theorem State.freeStore_winds (s : State) (cell off n : Nat) : Winds cell s (s.freeStore cell off n) := by
  unfold State.freeStore
  extract_lets bs
  have h : Winds cell s (s.setCell cell ((s.cell cell).rawWrite off bs)) := Winds.setCell s cell _ rfl rfl fun _ => rfl
  exact h.trans (.of_onlyMemory (State.tookMany_onlyMemory ..))

theorem State.spoilFrames_winds (s : State) (cell chan : Nat) : Winds cell s (s.spoilFrames cell chan) := by
  refine .foldl _ _ _ fun t c => ?_
  dsimp only
  split
  · split
    · exact t.freeStore_winds ..
    · exact .refl t
  · exact .refl t

/-- As many new parcels in a mailbox. -/
theorem State.setMailbox_winds (s : State) (cell chan : Nat) (mb : List Vec) (h : mb.length = (s.chan cell chan).mailbox.length) :
    Winds cell s (s.setChan cell chan { s.chan cell chan with mailbox := mb }) := by
  refine Winds.setChans s cell _ (fun j => ?_) fun P hP => any_mput _ Chan.reset _ _ _ rfl (hP _)
  rw [mget_mput]; split
  · next hj => subst hj; exact ⟨mb, h, rfl⟩
  · exact ⟨_, rfl, rfl⟩

theorem State.spoilClashes_winds (s : State) (cell : Nat) : Winds cell s (s.spoilClashes cell) := by
  refine .foldl _ _ _ fun t c => ?_
  extract_lets h w
  have hw : Winds cell t w := (t.setMailbox_winds cell c.1 _ (by simp [h])).trans (.of_onlyMemory (State.tookMany_onlyMemory ..))
  exact hw.trans (w.spoilFrames_winds _ _)

theorem State.spoilMail_winds (s : State) (cell off n : Nat) : Winds cell s (s.spoilMail cell off n) := by
  unfold State.spoilMail
  extract_lets k hit spoil k'
  split
  · have hspoil : ∀ c : Chan, ∃ mb, mb.length = c.mailbox.length ∧ (if hit c then spoil c else c) = { c with mailbox := mb } := fun c => by
      split
      · exact ⟨_, by simp, rfl⟩
      · exact ⟨_, rfl, rfl⟩
    have h : Winds cell s (s.setCell cell k') := by
      refine Winds.setChans s cell _ (fun j => ?_) fun P hP => ?_
      · obtain ⟨mb, hl, hm⟩ := hspoil (s.chan cell j)
        refine ⟨mb, hl, ?_⟩
        rw [← hm]
        exact mget_map k.chans (fun c => if hit c then spoil c else c) Chan.reset j
      · rw [List.any_map]
        refine List.any_congr rfl fun e => ?_
        obtain ⟨mb, -, hm⟩ := hspoil e.2
        simp only [Function.comp, hm]
    exact h.trans (.of_onlyMemory (State.tookMany_onlyMemory (s.setCell cell k') 1024))
  · exact .refl s

theorem State.spoilWritten_winds (s : State) (cell : Nat) (ws : List (Nat × Byte)) : Winds cell s (s.spoilWritten cell ws) :=
  .foldl _ _ s fun t i => t.spoilMail_winds cell (64 * i) 64

/-! Store groups (R69, R105, R108, R426). -/

theorem State.writeGroup_winds (s : State) (cell ctx : Nat) (cellKind rel : Bool) (g : Group) (e : Entry) : Winds cell s (s.writeGroup cell ctx cellKind rel g e) := by
  unfold State.writeGroup
  extract_lets ws k
  split
  · have hk : k.husk = (s.cell cell).husk ∧ k.chans = (s.cell cell).chans ∧ k.ctxs = (s.cell cell).ctxs :=
      foldl_keeps (fun k : Cell => k.husk = (s.cell cell).husk ∧ k.chans = (s.cell cell).chans ∧ k.ctxs = (s.cell cell).ctxs) _ _ _ ⟨rfl, rfl, rfl⟩
        fun k p h => h
    obtain ⟨hh, hc, hx⟩ := hk
    refine (Winds.setCell s cell (k.scatter ws) hh hc fun j => ?_).trans (State.spoilWritten_winds ..)
    exact congrArg (fun m => (mget Ctx.reset m j).husk) hx
  split
  · exact .of_access (((s.drainCtx_access cell ctx).trans (State.dropWritten_access ..)).trans (State.homeScatter_access ..))
  · exact .of_access (State.bufferScatter_access ..)

/-! The fault buffer (R381 to R384). -/

theorem State.hypEvent_winds {n : Nat} (s : State) (e : HypEvent) : Winds n s (s.hypEvent e) := .of_cells rfl rfl fun _ h => .inl h
theorem State.launchFlight_winds {n : Nat} (s : State) (p : Vec) (part : Nat) (o : Origin) : Winds n s (s.launchFlight p part o) := .of_cells rfl rfl fun f h =>
  (List.mem_append.1 h).imp id fun h => by rw [List.mem_singleton.1 h]

theorem State.fbHeader_winds {n : Nat} (s : State) (pid : Nat) : Winds n s (s.fbHeader pid).1 := by
  unfold State.fbHeader
  extract_lets -underBinder va
  have m := s.xlateDev_onlyMemory pid true .readWrite va
  split
  · exact .refl s
  · split
    · next hz => rw [hz] at m; exact (Winds.of_onlyMemory m).trans (State.hypEvent_winds ..)
    · next hz =>
      rw [hz] at m
      replace m := Winds.of_onlyMemory (n := n) m
      split
      · exact m.trans (State.hypEvent_winds ..)
      · extract_lets b h
        split <;> exact m

theorem State.ringPut_winds {n : Nat} (s : State) (pid : Nat) (h : FbHdr) (r : Record) (held : Bool) : Winds n s (s.ringPut pid h r held).1 := by
  unfold State.ringPut
  split
  · exact .refl s
  have m := s.xlateDev_onlyMemory pid true .write (h.ring + BitVec.ofNat 64 (64 * (h.tail % 2 ^ h.logn)))
  split
  · next hz => rw [hz] at m; exact (Winds.of_onlyMemory m).trans (State.hypEvent_winds ..)
  · next l z hz =>
    rw [hz] at m
    extract_lets a h' b
    have hb : Winds n s b := .of_onlyMemory ((m.trans (State.putBytes_onlyMemory z _ _)).trans (State.putBytes_onlyMemory a _ _))
    show Winds n s (if _ then _ else _)
    split
    · exact hb.trans (State.launchFlight_winds ..)
    · exact hb

theorem State.countHold_winds {n : Nat} (s : State) (pid : Nat) (h : FbHdr) : Winds n s (s.countHold pid h) :=
  (Winds.of_onlyMemory (State.putBytes_onlyMemory s _ _)).trans (State.launchFlight_winds ..)

/-- A delivery changes what its hold does, at most. -/
theorem State.deliver_winds {n : Nat} (s : State) (pid : Nat) (r : Record) (hold : State → State) (hh : ∀ t, Winds n t (hold t)) : Winds n s (s.deliver pid r hold) := by
  have hf := s.fbHeader_winds (n := n) pid
  unfold State.deliver
  split
  · next h => rw [h] at hf; exact hf.trans (hh _)
  · next v h hv =>
    rw [hv] at hf
    have hr := hf.trans (v.ringPut_winds pid h r false)
    split
    · next hz => rw [hz] at hr; exact hr
    · next hz => rw [hz] at hr; exact (hr.trans (State.countHold_winds ..)).trans (hh _)

theorem State.holdEsc_winds (cell ctx : Nat) (r : Record) (s : State) : Winds cell s (State.holdEsc cell ctx r s) := Winds.setCtx s cell ctx _ rfl
theorem State.lateStore_winds (s : State) (cell ctx : Nat) (w : Why) (i : Nat) : Winds cell s (s.lateStore cell ctx w i) :=
  s.deliver_winds _ _ _ (State.holdEsc_winds cell ctx _)

/-! The end of streams and of the claim (R71, R268). -/

theorem State.closeEntry_winds (s : State) (cell ctx : Nat) (st : StreamNo) : Winds cell s (s.closeEntry cell ctx st true) := by
  unfold State.closeEntry
  extract_lets -underBinder x t
  split
  · exact .refl s
  next e rest _ =>
  extract_lets -underBinder a
  have hp := s.closePieces_access cell ctx t.desc a
  split
  · next w z hz =>
    rw [hz] at hp
    extract_lets y
    have hy : Winds cell z y := Winds.setCtx z cell ctx _ rfl
    exact ((Winds.of_access hp).trans hy).trans (y.lateStore_winds cell ctx _ _)
  · next ps waits z hz =>
    rw [hz] at hp
    rw [Bool.not_true, Bool.and_false, if_neg Bool.false_ne_true]
    extract_lets y w
    have hy : Winds cell s y := (Winds.of_access hp).trans (by
      unfold y; split
      · exact .of_access (State.acquire_access ..)
      · exact .refl z)
    have hw : Winds cell y w := State.writeGroup_winds ..
    exact (hy.trans hw).trans (Winds.setCtx w cell ctx _ rfl)

theorem State.flushStreams_winds (s : State) (cell ctx : Nat) : Winds cell s (s.flushStreams cell ctx) := by
  unfold State.flushStreams
  extract_lets x all u v
  have hu : Winds cell s u := .foldl _ _ s fun t g => State.writeGroup_winds ..
  have hv : Winds cell u v := .foldl _ _ u fun t g => by
    split
    · exact .foldl _ _ t fun z _ => State.closeEntry_winds ..
    · exact .refl t
  exact (hu.trans hv).trans (Winds.setCtx v cell ctx _ rfl)

theorem State.settleDone_winds (s : State) (cell ctx : Nat) : Winds cell s (s.settleDone cell ctx) := Winds.setCtx s cell ctx _ rfl

/-- An update of every cell that keeps its husk, its channels and its contexts. -/
theorem Winds.mapCells {n : Nat} (s : State) (f : Cell → Cell) (h0 : f Cell.reset = Cell.reset) (hh : ∀ k, (f k).husk = k.husk) (hc : ∀ k, (f k).chans = k.chans)
    (hx : ∀ k, (f k).ctxs = k.ctxs) (hs : ∀ k, Spared k (f k)) : Winds n s { s with cells := s.cells.map fun e => (e.1, f e.2) } := by
  have hcell : ∀ c, State.cell { s with cells := s.cells.map fun e => (e.1, f e.2) } c = f (s.cell c) := fun c => by
    rw [State.cell, State.cell, ← mget_map s.cells f Cell.reset c, h0]
  refine ⟨rfl, fun c => by rw [hcell, hh], fun c k => ?_, fun c k => ⟨_, rfl, ?_⟩, fun c P _ => by rw [hcell, hc], fun c _ => hcell c ▸ hs _, fun e he => ?_, fun _ h => .inl h⟩
  · rw [State.ctx, hcell, Cell.ctx, hx]; rfl
  · rw [State.chan, hcell, Cell.chan, hc]; rfl
  · obtain ⟨f, hf, rfl⟩ := List.mem_map.1 he
    exact .inr ⟨f, hf, rfl, by have e := congrArg Cell.tag (hh f.2); exact e.symm⟩

theorem State.abandonFor_winds (s : State) (cell ctx : Nat) : Winds cell s (s.abandonFor cell ctx) := by
  unfold State.abandonFor
  extract_lets k mine m m1 m2 u
  have h1 : Winds cell s (s.setCell cell { k with mu := m2 }) := Winds.setCell s cell _ rfl rfl fun _ => rfl
  have h2 : Winds cell s u := (h1.trans (.of_onlyMemory (State.tookMany_onlyMemory _ 512))).trans (State.settleDone_winds _ cell ctx)
  split
  · refine h2.trans (Winds.mapCells u (fun e => if e.mu.portBy = some cell then { e with mu := { e.mu with portBy := none } } else e) rfl ?_ ?_ ?_ fun e => ?_)
    case refine_4 => dsimp only; split; exacts [.inr rfl, .inl rfl]
    all_goals intro e; dsimp only; split <;> rfl
  · exact h2

/-! The end of an invocation (R24). -/

theorem State.setChan_ctx (s : State) (n k c j : Nat) (x : Chan) : (s.setChan n k x).ctx c j = s.ctx c j := by
  rw [State.ctx, State.setChan, State.setCell_cell]; split
  · next h => subst h; rfl
  · rfl
theorem State.setChan_chan (s : State) (n k c j : Nat) (x : Chan) : (s.setChan n k x).chan c j = if n = c ∧ k = j then x else s.chan c j := by
  rw [State.chan, State.setChan, State.setCell_cell]
  by_cases h : n = c
  · subst h; rw [if_pos rfl, Cell.setChan_chan]; simp only [true_and]; rfl
  · rw [if_neg h, if_neg (fun e => h e.1)]; rfl
theorem State.setCtx_chans (s : State) (n k c : Nat) (x : Ctx) : ((s.setCtx n k x).cell c).chans = (s.cell c).chans := by
  rw [State.setCtx, State.setCell_cell]; split
  · next h => subst h; rfl
  · rfl
theorem State.setCtx_chan (s : State) (n k c j : Nat) (x : Ctx) : (s.setCtx n k x).chan c j = s.chan c j := by
  rw [State.chan, State.setCtx, State.setCell_cell]; split
  · next h => subst h; rfl
  · rfl

/-- A context gives up its claim, and waits for none (R268, R293). -/
def State.unclaim (s : State) (cell ctx : Nat) : State :=
  s.setCell cell { s.cell cell with
    claim := if (s.cell cell).claim = some ctx then none else (s.cell cell).claim
    claimQ := (s.cell cell).claimQ.filter fun c => c != ctx }

/-- A context that its invocation leaves. -/
def Ctx.left (x : Ctx) : Ctx :=
  let y := { x with
    ex := x.ex.idle, ea := x.ea.idle, em := x.em.idle
    fifos := [], pend := [], verdicts := [], popped := [], mpoison := false, wdcnt := 0, taken := none }
  { y with st := y.rest }

/-- The partition of a cell keeps what a context holds back, and counts the tasks it popped (R36, R344, R383). -/
def State.partLeft (s : State) (cell ctx : Nat) : State :=
  let pid := (s.cell cell).tag
  let t := s.keepHeld cell ctx
  t.setPart pid { t.part pid with pops := (t.part pid).pops + (s.ctx cell ctx).popped.length }

/-- An invocation leaves its channel and its context (R20, R24). -/
def State.leaveCtx (s : State) (cell ctx : Nat) : State :=
  let x := s.ctx cell ctx
  let c := s.chan cell x.chan
  (s.setChan cell x.chan { c with st := if c.mailbox.isEmpty then .idle else .runnable }).setCtx cell ctx x.left

theorem State.endInvocation_eq (s : State) (cell ctx : Nat) (forced : Bool) :
    s.endInvocation cell ctx forced = (((((if forced && (s.cell cell).claim == some ctx then s.abandonFor cell ctx else s).unclaim cell ctx).flushStreams cell ctx).drainCtx
      cell ctx).partLeft cell ctx).leaveCtx cell ctx := by
  have h : s.endClaim cell ctx forced = (if forced && (s.cell cell).claim == some ctx then s.abandonFor cell ctx else s).unclaim cell ctx := by
    unfold State.endClaim
    generalize (if forced && (s.cell cell).claim == some ctx then s.abandonFor cell ctx else s) = a
    rfl
  unfold State.endInvocation
  rw [h]
  generalize (State.drainCtx _ cell ctx) = b
  rfl

theorem State.endInvocation_winds (s : State) (cell ctx : Nat) (forced : Bool) : ∃ a b, Winds cell s a ∧ Winds cell (a.unclaim cell ctx) b
    ∧ (b.ctx cell ctx).streams = [] ∧ (b.ctx cell ctx).sb = [] ∧ s.endInvocation cell ctx forced = (b.partLeft cell ctx).leaveCtx cell ctx := by
  rw [State.endInvocation_eq]
  have ha : Winds cell s (if forced && (s.cell cell).claim == some ctx then s.abandonFor cell ctx else s) := by
    split
    · exact s.abandonFor_winds cell ctx
    · exact .refl s
  refine ⟨_, _, ha, ?_, ?_, ?_, rfl⟩
  · exact (State.flushStreams_winds ..).trans (.of_access (State.drainCtx_access ..))
  · rw [(State.drainCtx_access _ cell ctx).of_ctx (·.streams) (fun _ => rfl), State.flushStreams, State.setCtx_ctx_self]
  · rw [State.drainCtx_ctx, if_pos ⟨rfl, rfl⟩]

section
variable (s : State) (cell ctx : Nat)
theorem State.unclaim_cur : (s.unclaim cell ctx).cur = s.cur := rfl
theorem State.unclaim_time : (s.unclaim cell ctx).time = s.time := rfl
theorem State.unclaim_cycle : (s.unclaim cell ctx).cycle = s.cycle := rfl
theorem State.partLeft_cur : (s.partLeft cell ctx).cur = s.cur := rfl
theorem State.partLeft_time : (s.partLeft cell ctx).time = s.time := rfl
theorem State.partLeft_cycle : (s.partLeft cell ctx).cycle = s.cycle := rfl
theorem State.leaveCtx_cur : (s.leaveCtx cell ctx).cur = s.cur := rfl
theorem State.leaveCtx_time : (s.leaveCtx cell ctx).time = s.time := rfl
theorem State.leaveCtx_cycle : (s.leaveCtx cell ctx).cycle = s.cycle := rfl
theorem State.unclaim_hypFaults : (s.unclaim cell ctx).hypFaults = s.hypFaults := rfl
theorem State.partLeft_hypFaults : (s.partLeft cell ctx).hypFaults = s.hypFaults := rfl
theorem State.leaveCtx_hypFaults : (s.leaveCtx cell ctx).hypFaults = s.hypFaults := rfl
end

theorem State.unclaim_cell (s : State) (cell ctx c : Nat) : (s.unclaim cell ctx).cell c = if cell = c then { s.cell cell with
    claim := if (s.cell cell).claim = some ctx then none else (s.cell cell).claim
    claimQ := (s.cell cell).claimQ.filter fun c => c != ctx } else s.cell c := State.setCell_cell ..

/-- What a cell has beside its claim stays when a context gives its claim up. -/
theorem State.unclaim_of_cell {α : Type} (s : State) (cell ctx : Nat) (f : Cell → α) (hf : ∀ k c q, f { k with claim := c, claimQ := q } = f k) (c : Nat) :
    f ((s.unclaim cell ctx).cell c) = f (s.cell c) := by
  rw [State.unclaim_cell]; split
  · next h => rw [hf, h]
  · rfl
theorem State.unclaim_ctx (s : State) (cell ctx c k : Nat) : (s.unclaim cell ctx).ctx c k = s.ctx c k := s.unclaim_of_cell cell ctx (·.ctx k) (fun _ _ _ => rfl) c
theorem State.unclaim_chan (s : State) (cell ctx c k : Nat) : (s.unclaim cell ctx).chan c k = s.chan c k := s.unclaim_of_cell cell ctx (·.chan k) (fun _ _ _ => rfl) c
theorem State.unclaim_claim (s : State) (cell ctx : Nat) : ((s.unclaim cell ctx).cell cell).claim ≠ some ctx ∧ ctx ∉ ((s.unclaim cell ctx).cell cell).claimQ := by
  rw [State.unclaim_cell, if_pos rfl]
  refine ⟨?_, fun h => by simpa using (List.mem_filter.1 h).2⟩
  dsimp only; split
  · exact fun h => by cases h
  · next h => exact h

/-- What a partition has beside its held records and its count of tasks popped stays. -/
theorem State.partLeft_part (s : State) (cell ctx p : Nat) :
    ∃ rs n, (s.partLeft cell ctx).part p = { s.part p with heldDev := (s.part p).heldDev ++ rs, pops := (s.part p).pops + n } := by
  have hk : ∀ q, (s.keepHeld cell ctx).part q = if (s.cell cell).tag = q then { s.part (s.cell cell).tag with heldDev := (s.part (s.cell cell).tag).heldDev
      ++ ((s.ctx cell ctx).ex.held.toList ++ (s.ctx cell ctx).ea.held.toList ++ (s.ctx cell ctx).em.held.toList) } else s.part q := fun q => State.setPart_part ..
  unfold State.partLeft
  dsimp only
  rw [State.setPart_part, hk]; split
  · next hp => subst hp; rw [if_pos rfl]; exact ⟨_, _, rfl⟩
  · next hp => rw [hk, if_neg hp]; exact ⟨[], 0, by rw [List.append_nil, Nat.add_zero]⟩

section
variable (s : State) (cell ctx : Nat)

theorem State.leaveCtx_cell (c : Nat) : ∃ xs cs, (s.leaveCtx cell ctx).cell c = { s.cell c with chans := cs, ctxs := xs } := by
  unfold State.leaveCtx State.setCtx State.setChan
  dsimp only
  rw [State.setCell_cell]; split
  · next h => subst h; rw [State.setCell_cell, if_pos rfl]; exact ⟨_, _, rfl⟩
  · rw [State.setCell_cell]; split
    · next h => subst h; exact ⟨_, _, rfl⟩
    · exact ⟨_, _, rfl⟩

theorem State.leaveCtx_other {c : Nat} (h : c ≠ cell) : (s.leaveCtx cell ctx).cell c = s.cell c := by
  unfold State.leaveCtx State.setCtx State.setChan
  dsimp only
  rw [State.setCell_cell, if_neg (Ne.symm h), State.setCell_cell, if_neg (Ne.symm h)]

theorem State.leaveCtx_tags : Entered s (s.leaveCtx cell ctx) := by
  unfold State.leaveCtx State.setCtx State.setChan
  dsimp only
  refine (Entered.setCell s cell ((s.cell cell).setChan _ _) rfl).trans (.setCell _ cell _ rfl) fun c => ?_
  rw [State.setCell_cell]; split
  · next h => rw [← h]; rfl
  · rfl

theorem State.leaveCtx_ctx (c k : Nat) : (s.leaveCtx cell ctx).ctx c k = if cell = c ∧ ctx = k then (s.ctx cell ctx).left else s.ctx c k := by
  unfold State.leaveCtx
  dsimp only
  rw [State.setCtx_ctx, State.setChan_ctx]

theorem State.leaveCtx_chan (c k : Nat) : (s.leaveCtx cell ctx).chan c k = if cell = c ∧ (s.ctx cell ctx).chan = k then
    { s.chan cell (s.ctx cell ctx).chan with st := if (s.chan cell (s.ctx cell ctx).chan).mailbox.isEmpty then .idle else .runnable } else s.chan c k := by
  unfold State.leaveCtx
  rw [State.setCtx_chan, State.setChan_chan]

/-- The entries of a cell's handler table stay. -/
theorem State.setChan_entries (s : State) (n k : Nat) (x : Chan) (hx : x.entry = (s.chan n k).entry) (c : Nat) (P : Nat → BitVec 256 → Bool)
    (hP : ∀ i, P i 0 = false) : ((s.setChan n k x).cell c).chans.any (fun e => P e.1 e.2.entry) = (s.cell c).chans.any fun e => P e.1 e.2.entry := by
  rw [State.setChan, State.setCell_cell]; split
  · next h =>
    subst h
    exact any_mput _ Chan.reset _ _ _ (congrArg (P k) hx) (hP _)
  · rfl

theorem State.leaveCtx_entries (c : Nat) (P : Nat → BitVec 256 → Bool) (hP : ∀ i, P i 0 = false) :
    ((s.leaveCtx cell ctx).cell c).chans.any (fun e => P e.1 e.2.entry) = (s.cell c).chans.any fun e => P e.1 e.2.entry := by
  unfold State.leaveCtx
  rw [State.setCtx_chans]
  exact State.setChan_entries s cell _ _ (by rfl) c P hP

end

/-- What the end of an invocation leaves as it was. -/
structure Ends (s t : State) (cell ctx : Nat) : Prop where
  husk : { t.husk with parts := [] } = { s.husk with parts := [] }
  other : ∀ c, c ≠ cell → Spared (s.cell c) (t.cell c)
  tags : Entered s t
  flights : ∀ f ∈ t.flights, f ∈ s.flights ∨ f.leg = .way
  ended : ended s t cell ctx
  cur : t.cur = s.cur
  time : t.time = s.time
  cycle : t.cycle = s.cycle
  hypFaults : t.hypFaults = s.hypFaults
  part : ∀ p, ∃ rs n, t.part p = { s.part p with heldDev := (s.part p).heldDev ++ rs, pops := (s.part p).pops + n }
  ctx : ∀ c k, ¬(c = cell ∧ k = ctx) → (t.ctx c k).husk = (s.ctx c k).husk
  cell : ∀ c, ∃ f q, { (t.cell c).husk with claim := f, claimQ := q } = (s.cell c).husk
  chan : ∀ c k, ∃ mb st, mb.length = (s.chan c k).mailbox.length ∧ t.chan c k = { s.chan c k with mailbox := mb, st := st }
  entries : ∀ c (P : Nat → BitVec 256 → Bool), (∀ n, P n 0 = false) → (t.cell c).chans.any (fun e => P e.1 e.2.entry) = (s.cell c).chans.any fun e => P e.1 e.2.entry

/-- A context that its invocation has left is free, or waits with its trap parcel or its records (R24, R27). -/
theorem Ctx.left_st (x : Ctx) : x.left.st = if x.left.trap = none ∧ x.left.esc = [] then .free else .trapPending := by
  show (if x.trap.isSome || !x.esc.isEmpty then CtxSt.trapPending else .free) = if x.trap = none ∧ x.esc = [] then .free else .trapPending
  cases x.trap <;> cases x.esc <;> rfl

theorem State.endInvocation_ends (s : State) (cell ctx : Nat) (forced : Bool) : Ends s (s.endInvocation cell ctx forced) cell ctx := by
  obtain ⟨a, b, ha, hb, hstr, hsb, he⟩ := s.endInvocation_winds cell ctx forced
  rw [he]
  have hx : ∀ c k, ((b.partLeft cell ctx).ctx c k).husk = (s.ctx c k).husk := fun c k =>
    (hb.ctx c k).trans ((congrArg Ctx.husk (a.unclaim_ctx ..)).trans (ha.ctx c k))
  have hch : ∀ c k, ∃ mb, mb.length = (s.chan c k).mailbox.length ∧ (b.partLeft cell ctx).chan c k = { s.chan c k with mailbox := mb } := fun c k => by
    obtain ⟨mb, hl, hm⟩ := ha.chan c k
    obtain ⟨nb, gl, gm⟩ := hb.chan c k
    rw [a.unclaim_chan, hm] at gl gm
    exact ⟨nb, gl.trans hl, gm⟩
  have hp : ∀ p, b.part p = s.part p := fun p => (hb.part p).trans (ha.part p)
  have hcur : ((b.partLeft cell ctx).leaveCtx cell ctx).cur = s.cur := by
    rw [State.leaveCtx_cur, State.partLeft_cur, hb.cur, State.unclaim_cur, ha.cur]
  have htime : ((b.partLeft cell ctx).leaveCtx cell ctx).time = s.time := by
    rw [State.leaveCtx_time, State.partLeft_time, hb.time, State.unclaim_time, ha.time]
  have hcycle : ((b.partLeft cell ctx).leaveCtx cell ctx).cycle = s.cycle := by
    rw [State.leaveCtx_cycle, State.partLeft_cycle, hb.cycle, State.unclaim_cycle, ha.cycle]
  have hfaults : ((b.partLeft cell ctx).leaveCtx cell ctx).hypFaults = s.hypFaults := by
    rw [State.leaveCtx_hypFaults, State.partLeft_hypFaults, hb.hypFaults, State.unclaim_hypFaults, ha.hypFaults]
  have hlast : ((b.partLeft cell ctx).ctx cell ctx).streams = [] ∧ ((b.partLeft cell ctx).ctx cell ctx).sb = [] := ⟨hstr, hsb⟩
  have hclaim : ((b.partLeft cell ctx).cell cell).claim ≠ some ctx ∧ ctx ∉ ((b.partLeft cell ctx).cell cell).claimQ := by
    have h1 : (b.cell cell).claim = _ := hb.of_cell (·.claim) (fun _ => rfl) cell
    have h2 : (b.cell cell).claimQ = _ := hb.of_cell (·.claimQ) (fun _ => rfl) cell
    show (b.cell cell).claim ≠ some ctx ∧ ctx ∉ (b.cell cell).claimQ
    rw [h1, h2]; exact a.unclaim_claim cell ctx
  have hhusk : ∀ c, ∃ f q, { ((b.partLeft cell ctx).cell c).husk with claim := f, claimQ := q } = (s.cell c).husk := fun c => by
    refine ⟨(s.cell c).claim, (s.cell c).claimQ, ?_⟩
    show { (b.cell c).husk with claim := (s.cell c).claim, claimQ := (s.cell c).claimQ } = _
    rw [hb.cell c]
    have hu := a.unclaim_of_cell cell ctx (fun k => { k.husk with claim := (s.cell c).claim, claimQ := (s.cell c).claimQ }) (fun _ _ _ => rfl) c
    refine hu.trans ?_
    dsimp only; rw [ha.cell c]; rfl
  have hent : ∀ c (P : Nat → BitVec 256 → Bool), (∀ n, P n 0 = false) →
      ((b.partLeft cell ctx).cell c).chans.any (fun e => P e.1 e.2.entry) = (s.cell c).chans.any fun e => P e.1 e.2.entry := fun c P hP =>
    ((hb.entries c P hP).trans (a.unclaim_of_cell cell ctx (fun k => k.chans.any fun e => P e.1 e.2.entry) (fun _ _ _ => rfl) c)).trans (ha.entries c P hP)
  have hpart := b.partLeft_part cell ctx
  have hother : ∀ c, c ≠ cell → Spared (s.cell c) ((b.partLeft cell ctx).cell c) := fun c hc => by
    have hu : (a.unclaim cell ctx).cell c = a.cell c := by rw [State.unclaim_cell, if_neg (Ne.symm hc)]
    exact (ha.other c hc).trans (hu ▸ hb.other c hc)
  have htags : Entered s (b.partLeft cell ctx) := by
    have hat : ∀ c, (a.cell c).tag = (s.cell c).tag := fun c => ha.of_cell (·.tag) (fun _ => rfl) c
    have hut : ∀ c, ((a.unclaim cell ctx).cell c).tag = (a.cell c).tag := a.unclaim_of_cell cell ctx (·.tag) fun _ _ _ => rfl
    have hu : Entered a (a.unclaim cell ctx) := .setCell a cell _ rfl
    exact (ha.tags.trans hu hat).trans hb.tags fun c => (hut c).trans (hat c)
  have hflights : ∀ f ∈ (b.partLeft cell ctx).flights, f ∈ s.flights ∨ f.leg = .way := fun f hf => (hb.flights f hf).elim (ha.flights f) .inr
  have hrest : { (b.partLeft cell ctx).husk with parts := [] } = { s.husk with parts := [] } :=
    (congrArg (fun z : State => { z with parts := [] }) hb.rest).trans (congrArg (fun z : State => { z with parts := [] }) ha.rest)
  generalize b.partLeft cell ctx = v at *
  have hvtag : ∀ c, (v.cell c).tag = (s.cell c).tag := fun c => by
    obtain ⟨f, q, h⟩ := hhusk c
    have e := congrArg Cell.tag h; exact e
  have hvx : ∀ {α : Type} (f : Ctx → α), (∀ x, f x.husk = f x) → f (v.ctx cell ctx) = f (s.ctx cell ctx) := fun f hf => by rw [← hf, hx, hf]
  refine ⟨hrest, fun c hc => ?_, htags.trans (v.leaveCtx_tags cell ctx) hvtag, hflights, ?_, hcur, htime, hcycle, hfaults, fun p => ?_, fun c k hck => ?_, fun c => ?_, fun c k => ?_, fun c P hP => ?_⟩
  · rw [State.leaveCtx_other _ _ _ hc]; exact hother c hc
  · have hchan : (v.ctx cell ctx).chan = (s.ctx cell ctx).chan := hvx (·.chan) fun _ => rfl
    have hy : (v.leaveCtx cell ctx).ctx cell ctx = (v.ctx cell ctx).left := by rw [State.leaveCtx_ctx, if_pos ⟨rfl, rfl⟩]
    obtain ⟨xs, cs, hc⟩ := v.leaveCtx_cell cell ctx cell
    unfold Claims.ended
    dsimp only
    rw [hy, hc]
    refine ⟨Ctx.left_st _, hvx (·.trap) fun _ => rfl, hlast.1, rfl, rfl, hlast.2, rfl, rfl, rfl, hclaim.1, hclaim.2, ?_⟩
    rw [State.leaveCtx_chan, hchan, if_pos ⟨rfl, rfl⟩]
    obtain ⟨mb, hl, hm⟩ := hch cell (s.ctx cell ctx).chan
    rw [hm]; dsimp only
    simp only [List.isEmpty_iff, List.eq_nil_iff_length_eq_zero, hl]
  · obtain ⟨rs, n, h⟩ := hpart p
    exact ⟨rs, n, h.trans (by rw [hp])⟩
  · rw [State.leaveCtx_ctx, if_neg fun h => hck ⟨h.1.symm, h.2.symm⟩]; exact hx c k
  · obtain ⟨xs, cs, hc⟩ := v.leaveCtx_cell cell ctx c
    rw [hc]; exact hhusk c
  · rw [State.leaveCtx_chan]; split
    · next h =>
      obtain ⟨rfl, rfl⟩ := h
      obtain ⟨mb, hl, hm⟩ := hch cell (v.ctx cell ctx).chan
      exact ⟨mb, _, hl, by rw [hm]⟩
    · obtain ⟨mb, hl, hm⟩ := hch c k
      exact ⟨mb, _, hl, hm⟩
  · exact (v.leaveCtx_entries cell ctx c P hP).trans (hent c P hP)

end Sys2Proof.Machine
end

section
/-! Traps that end invocations (R26, R27, R36), and the turn of the clock (R25, R44). -/

namespace Sys2Proof.Machine
open Sys2Proof Sys2Proof.Claims

variable {s t u v : State}

/-- From s to t no time passed, and no invocation started. -/
structure Calm (s t : State) : Prop where
  time : t.time = s.time
  cycle : t.cycle = s.cycle
  starts : ∀ c k, (t.ctx c k).st = .running → (s.ctx c k).st = .running

namespace Calm

variable {s t u : State}

theorem refl (s : State) : Calm s s := ⟨rfl, rfl, fun _ _ h => h⟩
theorem trans (h : Calm s t) (g : Calm t u) : Calm s u :=
  ⟨g.time.trans h.time, g.cycle.trans h.cycle, fun c k e => h.starts c k (g.starts c k e)⟩
theorem foldl {β : Type} (f : State → β → State) (l : List β) (s : State) (hf : ∀ t b, Calm t (f t b)) : Calm s (l.foldl f s) :=
  foldl_keeps (fun t => Calm s t) f l s (refl s) fun t b ht => ht.trans (hf t b)
theorem of_winds {n : Nat} (h : Winds n s t) : Calm s t :=
  ⟨h.time, h.cycle, fun c k e => (h.of_ctx (·.st) (fun _ => rfl) c k).symm.trans e⟩
theorem of_cells (ht : t.time = s.time) (hy : t.cycle = s.cycle) (hc : t.cells = s.cells) : Calm s t :=
  ⟨ht, hy, fun c k e => by rwa [ctx_of_cells hc] at e⟩
theorem setCtx (s : State) (n j : Nat) (x : Ctx) (hx : x.st = .running → (s.ctx n j).st = .running) : Calm s (s.setCtx n j x) := by
  refine ⟨rfl, rfl, fun c k e => ?_⟩
  rw [State.setCtx_ctx] at e; split at e
  · next h => obtain ⟨rfl, rfl⟩ := h; exact hx e
  · exact e

end Calm

/-! The trap parcel (R26, R27). -/

/-- A context at rest shows whether something of it still waits (R27). -/
theorem Ctx.rest_ne_running (x : Ctx) : x.rest ≠ .running := by unfold Ctx.rest; split <;> exact fun h => by cases h

theorem State.reRest_calm (s : State) (cell ctx : Nat) : Calm s (s.reRest cell ctx) := by
  unfold State.reRest; dsimp only; split
  · exact Calm.setCtx s cell ctx _ fun h => absurd h (Ctx.rest_ne_running _)
  · exact .refl s

/-- A parcel that enters a mailbox (R19, R20). -/
theorem State.enqueue_winds (s : State) (cell chan : Nat) (p : Vec) : Winds cell (s.setChan cell chan ((s.chan cell chan).enqueue p)) (s.enqueue cell chan p) := by
  unfold State.enqueue; dsimp only; split
  · exact State.spoilClashes_winds ..
  · exact .refl _

theorem State.setChan_calm (s : State) (n k : Nat) (x : Chan) : Calm s (s.setChan n k x) := ⟨rfl, rfl, fun c j h => by rwa [State.setChan_ctx] at h⟩

theorem State.enqueue_calm (s : State) (cell chan : Nat) (p : Vec) : Calm s (s.enqueue cell chan p) :=
  (s.setChan_calm ..).trans (.of_winds (s.enqueue_winds cell chan p))

theorem State.escalate_calm (s : State) (t : TrapInfo) (code : Nat) (detail : Word) : Calm s (s.escalate t code detail) :=
  (Calm.of_winds (s.deliver_winds _ _ _ (State.holdEsc_winds t.cell t.ctx _))).trans (State.reRest_calm ..)

theorem State.sendTrap_calm (s : State) (t : TrapInfo) (code : Nat) (detail : Word) : Calm s (s.sendTrap t code detail) := by
  unfold State.sendTrap
  extract_lets k p
  split
  · exact .of_cells rfl rfl rfl
  split
  · exact s.escalate_calm t code detail
  split
  · exact s.enqueue_calm ..
  split
  · exact s.escalate_calm t code detail
  · exact Calm.trans (Calm.setCtx s t.cell t.ctx { k.ctx t.ctx with trap := some p } fun h => h) (State.reRest_calm ..)

theorem Ends.calm {cell ctx : Nat} (h : Ends s t cell ctx) : Calm s t := by
  refine ⟨h.time, h.cycle, fun c k e => ?_⟩
  by_cases hc : c = cell ∧ k = ctx
  · obtain ⟨rfl, rfl⟩ := hc
    rw [h.ended.1] at e
    split at e <;> cases e
  · exact (congrArg Ctx.st (h.ctx c k hc)).symm.trans e

/-- An invocation has ended. -/
theorem Ends.stopped {cell ctx : Nat} (h : Ends s t cell ctx) : (t.ctx cell ctx).st ≠ .running := fun e => by
  rw [h.ended.1] at e
  split at e <;> cases e

theorem State.serviceTrap_calm (s : State) (cell ctx code : Nat) (detail : Word) :
    Calm s (s.serviceTrap cell ctx code detail) ∧ ((s.serviceTrap cell ctx code detail).ctx cell ctx).st ≠ .running := by
  have h := s.endInvocation_ends cell ctx true
  have hs := State.sendTrap_calm (s.endInvocation cell ctx true) (s.trapInfo cell ctx) code detail
  exact ⟨h.calm.trans hs, fun e => h.stopped (hs.starts _ _ e)⟩

/-! Futures that time out (R43, R44). -/

theorem State.releaseWaiter_calm (s : State) (pid die slot : Nat) (va : Word) (w0 w1 tokens : Nat) (x : Waiter) :
    Calm s (s.releaseWaiter pid die slot va w0 w1 tokens x) := by
  refine .of_cells ?_ ?_ (s.releaseWaiter_frame pid die slot va w0 w1 tokens x).1
  all_goals
    cases x with
    | none => rfl
    | cont c => rfl
    | hart core => unfold State.releaseWaiter; dsimp only; split <;> rfl

theorem State.settleFut_calm (s : State) (pid die n : Nat) (x : FSlot) (w0 w1 st : Nat) : Calm s (s.settleFut pid die n x w0 w1 st) := by
  unfold State.settleFut
  split
  · exact .refl s
  extract_lets w0' u
  have hu : Calm s u := .of_winds (n := 0) (.of_onlyMemory (s.putBytes_onlyMemory _ _))
  have hq : ∀ q, Calm u (if st = 2 then u.replyCount pid (BitVec.ofNat 64 w1) else u.templateCount pid q).1 := fun q => by
    split
    · exact .of_winds (n := 0) (.of_onlyMemory (u.replyCount_onlyMemory pid _))
    · exact .of_winds (n := 0) (.of_onlyMemory (u.templateCount_onlyMemory pid q))
  split
  · refine Calm.trans (hu.trans ?_) (State.releaseWaiter_calm ..)
    exact .of_cells rfl rfl rfl
  · exact (hu.trans (hq _)).trans (.of_cells rfl rfl rfl)

theorem State.expire_calm (s : State) (die slot : Nat) : Calm s (s.expire die slot) := by
  unfold State.expire
  split
  · split
    · dsimp only; split
      · exact s.settleFut_calm ..
      · exact .refl s
    · exact .refl s
    · exact .refl s
  · exact .refl s

theorem State.expireLate_calm (s : State) : Calm s s.expireLate := by
  refine .foldl _ _ s fun t d => .foldl _ _ t fun u x => ?_
  split
  · split
    · exact u.expire_calm ..
    · exact .refl u
  · exact .refl u

/-- A fold whose steps change nothing. -/
theorem foldl_eq_self {α β : Type} (f : α → β → α) (l : List β) (a : α) (h : ∀ b ∈ l, f a b = a) : l.foldl f a = a := by
  induction l with
  | nil => rfl
  | cons b l ih => rw [List.foldl_cons, h b List.mem_cons_self, ih fun c hc => h c (List.mem_cons_of_mem _ hc)]

/-- No deadline has passed by as much as it may (R44). -/
theorem State.expireLate_none (s : State) (h : ∀ d ∈ s.futs, ∀ x ∈ d.2, ∀ va w dl q re inj, x.2.kind = .future va w (some dl) q re inj → s.time.toNat < dl + 1000) :
    s.expireLate = s := by
  refine foldl_eq_self _ _ _ fun d hd => foldl_eq_self _ _ _ fun x hx => ?_
  split
  · next va w dl q re inj hk =>
    rw [if_neg]
    cases dl with
    | none => exact Bool.false_ne_true
    | some dl => simpa [late] using h d hd x hx va w dl q re inj hk
  · rfl

/-! The clock (R25). -/

/-- The watchdogs of a cell move on. -/
def Cell.tick (k : Cell) (n : Nat) : Cell := { k with ctxs := k.ctxs.map fun f => (f.1, f.2.tick n) }

theorem State.tickAll_ctx (s : State) (n c k : Nat) : (s.tickAll n).ctx c k = (s.ctx c k).tick n := by
  have hc : (s.tickAll n).cell c = (s.cell c).tick n := mget_map s.cells (fun k => k.tick n) Cell.reset c
  rw [State.ctx, hc]
  exact mget_map (s.cell c).ctxs (fun x => x.tick n) Ctx.reset k

theorem Ctx.tick_st (x : Ctx) (n : Nat) : (x.tick n).st = x.st := by unfold Ctx.tick; split <;> rfl
theorem Ctx.tick_limit (x : Ctx) (n : Nat) : (x.tick n).limit = x.limit := by unfold Ctx.tick; split <;> rfl
theorem Ctx.tick_wdcnt (x : Ctx) (n : Nat) : (x.tick n).wdcnt = if x.st = .running then x.wdcnt + n else x.wdcnt := by unfold Ctx.tick; split <;> rfl

/-- A running context whose watchdog has reached its limit is overdue (R25). -/
theorem State.mem_overdue (s : State) (c k : Nat) (h : (s.ctx c k).st = .running) (hl : (s.ctx c k).limit ≤ (s.ctx c k).wdcnt) : (c, k) ∈ s.overdue := by
  have hx : ∃ x, mfind (s.cell c).ctxs k = some x ∧ s.ctx c k = x := by
    unfold State.ctx Cell.ctx mget at *
    cases hm : mfind (s.cell c).ctxs k with
    | none => rw [hm] at h; cases h
    | some x => exact ⟨x, rfl, rfl⟩
  obtain ⟨x, hx, hxe⟩ := hx
  have hc : ∃ e, mfind s.cells c = some e ∧ s.cell c = e := by
    unfold State.cell mget at *
    cases hm : mfind s.cells c with
    | none => rw [hm] at hx; cases hx
    | some e => exact ⟨e, rfl, rfl⟩
  obtain ⟨e, he, hce⟩ := hc
  refine List.mem_flatMap.2 ⟨(c, e), mfind_mem he, List.mem_map.2 ⟨(k, x), List.mem_filter.2 ⟨?_, ?_⟩, rfl⟩⟩
  · rw [hce] at hx; exact mfind_mem hx
  · rw [hxe] at h hl; simp [h, hl]

/-- Every overdue invocation has ended (R25). -/
theorem foldl_serviceTrap (l : List (Nat × Nat)) (s : State) (code : Nat) (d : Word) :
    Calm s (l.foldl (fun s c => s.serviceTrap c.1 c.2 code d) s)
      ∧ ∀ c ∈ l, ((l.foldl (fun s c => s.serviceTrap c.1 c.2 code d) s).ctx c.1 c.2).st ≠ .running := by
  induction l generalizing s with
  | nil => exact ⟨.refl s, fun c h => absurd h List.not_mem_nil⟩
  | cons x l ih =>
    obtain ⟨hone, hstop⟩ := s.serviceTrap_calm x.1 x.2 code d
    obtain ⟨hrest, hmem⟩ := ih (s.serviceTrap x.1 x.2 code d)
    refine ⟨hone.trans hrest, fun c hc => ?_⟩
    rcases List.mem_cons.1 hc with rfl | hc
    · exact fun e => hstop (hrest.starts _ _ e)
    · exact hmem c hc

/-- The clock turns (R9, R25, R409). -/
theorem State.clockTurn_spec (s : State) (n : Nat) :
    Calm (s.tickAll n) (s.clockTurn n)
      ∧ (∀ c k, (s.ctx c k).st = .running → (s.ctx c k).limit ≤ (s.ctx c k).wdcnt + n → ((s.clockTurn n).ctx c k).st ≠ .running)
      ∧ ((∀ e ∈ s.cells, ∀ f ∈ e.2.ctxs, f.2.st = .running → f.2.wdcnt + n < f.2.limit) →
        (∀ d ∈ s.futs, ∀ x ∈ d.2, ∀ va w dl q re inj, x.2.kind = .future va w (some dl) q re inj → (s.tickAll n).time.toNat < dl + 1000) →
        s.clockTurn n = s.tickAll n) := by
  obtain ⟨hc, hstop⟩ := foldl_serviceTrap (s.tickAll n).overdue (s.tickAll n) 0x20 0
  have he := State.expireLate_calm ((s.tickAll n).overdue.foldl (fun s c => s.serviceTrap c.1 c.2 0x20 0) (s.tickAll n))
  refine ⟨hc.trans he, fun c k hr hl e => ?_, fun hno hf => ?_⟩
  · refine hstop (c, k) ((s.tickAll n).mem_overdue c k ?_ ?_) (he.starts c k e)
    · rw [State.tickAll_ctx, Ctx.tick_st, hr]
    · rw [State.tickAll_ctx, Ctx.tick_limit, Ctx.tick_wdcnt, if_pos hr]; exact hl
  · have hnone : (s.tickAll n).overdue = [] := by
      refine List.flatMap_eq_nil_iff.2 fun e hmem => ?_
      obtain ⟨d, hd, rfl⟩ := List.mem_map.1 hmem
      rw [List.map_eq_nil_iff, List.filter_eq_nil_iff]
      intro f hmf
      obtain ⟨g, hg, rfl⟩ := List.mem_map.1 hmf
      simp only [Ctx.tick_st, Ctx.tick_limit, Ctx.tick_wdcnt, Bool.and_eq_true, beq_iff_eq, decide_eq_true_eq, not_and, not_le]
      intro hr; rw [if_pos hr]; exact hno d hd g hg hr
    unfold State.clockTurn; dsimp only
    rw [hnone]
    exact State.expireLate_none _ hf

end Sys2Proof.Machine

namespace Sys2Proof.Proofs
open Sys2Proof Sys2Proof.Machine Sys2Proof.Claims

/-- The turn of an engine runs the instruction in its next lane, or takes its trap. -/
theorem laneRuns (s u : State) (cell ctx : Nat) (e : Eng) (rest : List Turn) (b : BitVec 256) (k : Nat) (h : comesTo s u cell ctx e rest b k) :
    let w := laneWord b k
    let t := atLane u cell ctx e k
    (∀ i, decodeEng e w (extWord b e k) = some i → (e = .x → privilegedX w = true → (u.ctx cell ctx).kmode = true) → step s = exec i t)
    ∧ (e = .x → privilegedX w = true → (u.ctx cell ctx).kmode = false → step s = .next (t.raise cell ctx e ⟨4, 6, 0xFF, 0, 0, 0⟩ 0 0))
    ∧ (decodeEng e w (extWord b e k) = none → (e = .x → privilegedX w = true → (u.ctx cell ctx).kmode = true) →
        step s = .next (t.raise cell ctx e ⟨1, 6, 0xFF, 0, 0, 0⟩ 0 0)) := by
  obtain ⟨ha, hm, ht, hl, hp, hk, hc⟩ := h
  have hs := step_lane ha hm ht (State.fetch_lane (State.takeLine_hasLine hl) hp hk) fun he => (atLane_claim u cell ctx e k).trans (hc he)
  rw [atLane_kmode] at hs
  exact ⟨fun i hi hno => (hs.2 hno).1 i hi, hs.1, fun hn hno => (hs.2 hno).2 hn⟩

/-- An engine that does not have its line fetches it, or stops there. -/
theorem lineFetched (s : State) (cell ctx : Nat) (e : Eng) (rest : List Turn) (b : BitVec 256) :
    let v := turnOf s rest ⟨cell, ctx, 0⟩
    let c := (v.ctx cell ctx).eng e
    s.serveHeld.agenda = .engine cell ctx e :: rest → (v.ctx cell ctx).moves e = true → (v.ctx cell ctx).taken = none →
    (∀ z, fetches v z cell ctx e b →
      let x := z.ctx cell ctx
      (∀ r, lateFails (x.eng e) e b r →
        let y := r.link.elim x fun w => x.setG 31 w
        step s = .next ((z.setCtx cell ctx (y.setEng e { x.eng e with pc := r.src, line := r.line, passed := r.passed, unchecked := none })).raise cell ctx e
          ⟨3, 6, 0xFF, slotAddr r.target, 0, 0⟩ 0 0))
      ∧ (headerOk b = false → (x.eng e).unchecked = none → step s = .next (z.raise cell ctx e ⟨2, 6, 0xFF, 0, 0, 0⟩ 0 0)))
    ∧ ((∀ l, c.line = some l → l.1 ≠ lineSlot c.pc) → ∀ w,
      (∀ y, v.fetchLine cell (v.ctx cell ctx).kmode c.pc = .error (.fault y, w) → step s = .next (w.raise cell ctx e y 0 0))
      ∧ ∀ pa, v.fetchLine cell (v.ctx cell ctx).kmode c.pc = .error (.pending pa, w) →
          step s = .next ({ w with cur := ⟨cell, ctx, w.cur.core⟩ }.noteLate e false pa)) := by
  intro v c ha hm ht
  refine ⟨fun z hz => ?_, fun hmiss w => ⟨fun y hy => step_fetch ha hm ht (State.takeLine_fault hmiss hy), fun pa hpa => step_fetch ha hm ht (State.takeLine_pending hmiss hpa)⟩⟩
  obtain ⟨hmiss, w, hw, rfl⟩ := hz
  obtain ⟨hbad, hgood⟩ := State.takeLine_fetched hmiss hw
  refine ⟨fun r hr => step_fetch ha hm ht (hbad _ (State.checkLate_bad hr)), fun hh hu => step_fetch ha hm ht ?_⟩
  refine (hgood (w.tileCame cell ctx e) ?_).2 hh
  unfold State.checkLate; dsimp only; rw [hu]

/-- The turn of a hart runs its Xenx instruction, or the standard machine's. -/
theorem hartRuns (s u : State) (core : Nat) (rest : List Turn) (w : BitVec 32) :
    let v := turnOf s rest ⟨0, 0, core⟩
    s.serveHeld.agenda = .hart core :: rest → core < 128 → v.hx.moves = true →
    (∀ e, v.hartFetch = .error e → step s = .next (v.hartEnd (.error e)))
    ∧ (v.hartFetch = .ok (w, u) →
      (customWord w = true → ∀ i, rawH w.toNat = some i → step s = exec i u)
      ∧ (customWord w = true → rawH w.toNat = none → step s = .next (excepts u 2 (w.setWidth 64) none))
      ∧ (customWord w = false → step s = .next (u.hartEnd (u.rvWord w.toNat)))) := by
  intro v ha hcore hm
  have hr : s.serveHeld.ready = v.hartTurn := by rw [State.ready, State.turn_agenda ha]; rfl
  have hgo : ¬(Config.cores ≤ v.cur.core ∨ !v.hx.moves) := fun h => h.elim (fun h => absurd h (Nat.not_le.2 hcore)) fun h => by rw [hm] at h; cases h
  rw [State.hartTurn, if_neg hgo] at hr
  refine ⟨fun e he => ?_, fun hf => ?_⟩
  · rw [he] at hr; exact step_done hr
  rw [hf] at hr; dsimp only at hr
  refine ⟨fun hw i hi => ?_, fun hw hn => ?_, fun hw => ?_⟩
  · rw [if_pos hw, hi] at hr; exact step_run hr
  · rw [if_pos hw, hn] at hr
    exact (step_done hr).trans (congrArg Host.Outcome.next (excepts_eq u 2 _ (by decide)))
  · rw [if_neg (by rw [hw]; decide)] at hr; exact step_done hr

/-- The turn of the clock. -/
theorem clockTurns (s' : State) (rest : List Turn) (n : Nat) :
    let s := s'.serveHeld
    s.agenda = .clock n :: rest → ∃ t, step s' = .next t
    ∧ let now := s.time + BitVec.ofNat 64 ((10 * n + s.timeRem) / s.freq)
      t.cycle = s.cycle + BitVec.ofNat 64 n ∧ t.time = now
      ∧ (∀ c k, (s.ctx c k).st = .running → (s.ctx c k).limit ≤ (s.ctx c k).wdcnt + n → (t.ctx c k).st ≠ .running)
      ∧ ((∀ e ∈ s.cells, ∀ f ∈ e.2.ctxs, f.2.st = .running → f.2.wdcnt + n < f.2.limit) →
        (∀ d ∈ s.futs, ∀ x ∈ d.2, ∀ va w dl q re inj, x.2.kind = .future va w (some dl) q re inj → now.toNat < dl + 1000) →
        t.mem = s.mem ∧ ∀ c k, (t.ctx c k).wdcnt = if (s.ctx c k).st = .running then (s.ctx c k).wdcnt + n else (s.ctx c k).wdcnt) := by
  intro s ha
  have hr : s.ready = .done (State.clockTurn { s with agenda := rest, now := s.now + 1 } n) := by rw [State.ready, State.turn_agenda ha]
  obtain ⟨hcalm, hstop, hsame⟩ := State.clockTurn_spec { s with agenda := rest, now := s.now + 1 } n
  refine ⟨_, step_done hr, hcalm.cycle, hcalm.time, hstop, fun h1 h2 => ?_⟩
  rw [hsame h1 h2]
  refine ⟨rfl, fun c k => ?_⟩
  rw [State.tickAll_ctx, Ctx.tick_wdcnt]; rfl

/-- Settles O44: the turn that the agenda names comes to an instruction, which runs, or to the trap that it stops at. -/
theorem stepRunsDecoded : Obligations.StepRunsDecoded := by
  unfold Obligations.StepRunsDecoded
  refine ⟨laneRuns, lineFetched, hartRuns, fun s rest i ha hi => step_run ?_, State.serveHeld_none, clockTurns⟩
  rw [State.ready, State.turn_agenda ha]
  exact if_pos hi

end Sys2Proof.Proofs
end

section
/-! Parcels at their destination (R13 to R16, R20, R355 to R359). -/

namespace Sys2Proof.Machine
open Sys2Proof Sys2Proof.Claims

variable {s t u v : State}

/-! A parcel that enters a mailbox (R19, R20). -/

/-- The state but for the cells and the free values. -/
def State.bare (s : State) : State := { s with cells := [], free := 0 }

theorem State.spoilClashes_bare (s : State) (cell : Nat) : (s.spoilClashes cell).bare = s.bare := by
  refine foldl_keeps (fun t : State => t.bare = s.bare) _ _ _ rfl fun t c ht => ?_
  refine foldl_keeps (fun u : State => u.bare = s.bare) _ _ _ ht fun u d hu => ?_
  dsimp only
  split
  · split
    · exact hu
    · exact hu
  · exact hu

theorem State.enqueue_bare (s : State) (cell chan : Nat) (p : Vec) : (s.enqueue cell chan p).bare = s.bare := by
  unfold State.enqueue; dsimp only; split
  · exact State.spoilClashes_bare ..
  · rfl

theorem State.enqueue_flights (s : State) (cell chan : Nat) (p : Vec) : (s.enqueue cell chan p).flights = s.flights :=
  show (s.enqueue cell chan p).bare.flights = s.bare.flights from congrArg State.flights (s.enqueue_bare cell chan p)
theorem State.enqueue_verdicts (s : State) (cell chan : Nat) (p : Vec) : (s.enqueue cell chan p).verdicts = s.verdicts :=
  show (s.enqueue cell chan p).bare.verdicts = s.bare.verdicts from congrArg State.verdicts (s.enqueue_bare cell chan p)

/-- Whether mailbox regions overlap is a matter of the entries alone (R19). -/
theorem State.mailClash_of_entries {cell : Nat} (he : ∀ P : Nat → BitVec 256 → Bool, (∀ n, P n 0 = false) →
    (t.cell cell).chans.any (fun e => P e.1 e.2.entry) = (s.cell cell).chans.any fun e => P e.1 e.2.entry)
    (c : Nat) (hc : (t.chan cell c).entry = (s.chan cell c).entry) : (t.cell cell).mailClash c = (s.cell cell).mailClash c := by
  unfold Cell.mailClash
  rw [show ((t.cell cell).chan c).entry = ((s.cell cell).chan c).entry from hc]
  exact he (fun n e => entBound e
    && ((n != c && meets _ _ (64 * entMbb e) (64 * entMbd e)) || (entAct e && meets _ _ (entFrame e).1 (entFrame e).2))) fun n => by rw [entBound_zero]; rfl

/-- A channel takes a parcel (R19, R20). -/
theorem State.enqueue_takes (s : State) (cell c : Nat) (p : Vec) :
    mailboxTakes s (s.enqueue cell c p) cell c p ∧ ((s.enqueue cell c p).chan cell c).deferred = (s.chan cell c).deferred := by
  have hw := s.enqueue_winds cell c p
  have hself : (s.setChan cell c ((s.chan cell c).enqueue p)).chan cell c = (s.chan cell c).enqueue p := by rw [State.setChan_chan, if_pos ⟨rfl, rfl⟩]
  refine ⟨⟨fun hno => ?_, fun _ => ?_⟩, ?_⟩
  · have he : s.enqueue cell c p = s.setChan cell c ((s.chan cell c).enqueue p) := by
      unfold State.enqueue; dsimp only; rw [if_neg (by rw [hno]; exact Bool.false_ne_true)]
    rw [he]
    exact ⟨hself, fun k hk => by rw [State.setChan_chan, if_neg fun h => hk h.2.symm]⟩
  · refine ⟨(hw.of_chan (·.mailbox.length) (fun _ _ h => h) cell c).trans ?_, (hw.of_chan (·.st) (fun _ _ _ => rfl) cell c).trans ?_⟩
    · rw [hself]; simp [Chan.enqueue]
    · rw [hself]; rfl
  · exact (hw.of_chan (·.deferred) (fun _ _ _ => rfl) cell c).trans (by rw [hself]; rfl)

/-! Flights. -/

section
variable (s : State) (f : Flight)

theorem State.endFlight_ends (status : Nat) : flightEnds s (s.endFlight f status) f status := by
  unfold State.endFlight State.answerFlight flightEnds
  simp only [Bool.not_eq_true']
  split <;> simp

theorem State.endFlight_cells (status : Nat) : (s.endFlight f status).cells = s.cells := by
  unfold State.endFlight State.answerFlight; split <;> rfl

theorem State.deferFlight_deferred (leg : Leg) : flightDeferred s (s.deferFlight f leg) f leg ∧ (s.deferFlight f leg).cells = s.cells := by
  unfold State.deferFlight State.setFlight State.answerFlight flightDeferred
  dsimp only
  simp only [Bool.not_eq_true', beq_iff_eq, or_true, true_and]
  cases f.told <;> cases f.from_.hears <;> simp

theorem State.setFlight_flights : (s.setFlight f).flights = s.flights.map fun g => if g.id = f.id then f else g := by
  simp [State.setFlight]

end

theorem chan_of_cells (h : t.cells = s.cells) (c k : Nat) : t.chan c k = s.chan c k := by simp only [State.chan, State.cell, h]
theorem cell_of_cells (h : t.cells = s.cells) (c : Nat) : t.cell c = s.cell c := by simp only [State.cell, h]

/-- A mailbox takes a parcel also where only what is no cell changes afterwards. -/
theorem mailboxTakes_of_cells {cell c : Nat} {p : Vec} (h : mailboxTakes s t cell c p) (hc : u.cells = t.cells) : mailboxTakes s u cell c p := by
  unfold mailboxTakes at h ⊢
  simp only [chan_of_cells hc]; exact h

/-- A flight ends in a state that holds the flights and verdicts of s. -/
theorem flightEnds_from {f : Flight} {k : Nat} (h : flightEnds t u f k) (hf : t.flights = s.flights) (hv : t.verdicts = s.verdicts) : flightEnds s u f k := by
  unfold flightEnds at h ⊢; rw [← hf, ← hv]; exact h
theorem flightDeferred_from {f : Flight} {l : Leg} (h : flightDeferred t u f l) (hf : t.flights = s.flights) (hv : t.verdicts = s.verdicts) :
    flightDeferred s u f l := by
  unfold flightDeferred at h ⊢; rw [← hf, ← hv]; exact h

/-! Arrival at a cell (R20, R355). -/

section
variable (s : State) (f : Flight) (cell : Nat)

theorem State.eject_dropped (b : Bool) (h : hPart (parcelHdr f.parcel) ≠ (s.cell cell).tag) : s.eject f cell b = s.dropFlight f cell := by
  rw [State.eject, if_pos h]

theorem State.dropFlight_drops : (s.dropFlight f cell).hypEvents = s.hypEvents ++ [.dropped (parcelHdr f.parcel) cell] ∧ (s.dropFlight f cell).cells = s.cells
    ∧ (s.dropFlight f cell).flights = (s.flights.filter fun g => g.id != f.id)
    ∧ (s.dropFlight f cell).verdicts = s.verdicts ++ if f.from_.software then [⟨f.id, f.sent, f.from_, f.src, 4, f.told⟩] else [] := by
  unfold State.dropFlight
  extract_lets t
  cases hs : f.from_.software with
  | false => exact ⟨rfl, rfl, rfl, by simp [t, State.hypEvent]⟩
  | true => exact ⟨rfl, rfl, rfl, rfl⟩

variable (h : hPart (parcelHdr f.parcel) = (s.cell cell).tag)
include h

/-- A parcel that the channel accepts (R20). -/
theorem State.eject_accepted (ha : (s.cell cell).answer (hChan (parcelHdr f.parcel)) (hType (parcelHdr f.parcel)) = 0) :
    mailboxTakes s (s.eject f cell false) cell (hChan (parcelHdr f.parcel)) f.parcel ∧ flightEnds s (s.eject f cell false) f 0 := by
  have he : s.eject f cell false = (s.enqueue cell (hChan (parcelHdr f.parcel)) f.parcel).endFlight f 0 := by
    rw [State.eject, if_neg (not_not.2 h), if_neg Bool.false_ne_true, ha]; rfl
  rw [he]
  exact ⟨mailboxTakes_of_cells (s.enqueue_takes cell _ _).1 (State.endFlight_cells ..),
    flightEnds_from (State.endFlight_ends ..) (s.enqueue_flights ..) (s.enqueue_verdicts ..)⟩

/-- A parcel that the channel refuses (R20). -/
theorem State.eject_refused {n : Nat} (ha : (s.cell cell).answer (hChan (parcelHdr f.parcel)) (hType (parcelHdr f.parcel)) = n) (hn : n = 2 ∨ n = 3) :
    s.eject f cell false = s.endFlight f n := by
  rw [State.eject, if_neg (not_not.2 h), if_neg Bool.false_ne_true, ha]
  rcases hn with rfl | rfl <;> rfl

/-- A parcel that the channel defers, or an earlier deferred one holds back (R16). -/
theorem State.eject_deferred (b : Bool) (ha : b = true ∨ (s.cell cell).answer (hChan (parcelHdr f.parcel)) (hType (parcelHdr f.parcel)) = 5) :
    flightDeferred s (s.eject f cell b) f (.deferred cell (hChan (parcelHdr f.parcel)))
      ∧ ((s.eject f cell b).chan cell (hChan (parcelHdr f.parcel))).deferred = (s.chan cell (hChan (parcelHdr f.parcel))).deferred ++ [f.id] := by
  have h5 : (if b = true then 5 else (s.cell cell).answer (hChan (parcelHdr f.parcel)) (hType (parcelHdr f.parcel))) = 5 := by
    split
    · rfl
    · next hb => exact ha.resolve_left hb
  rw [State.eject, if_neg (not_not.2 h), h5]
  dsimp only
  obtain ⟨hd, hc⟩ := State.deferFlight_deferred (s.setChan cell (hChan (parcelHdr f.parcel))
    { s.chan cell (hChan (parcelHdr f.parcel)) with deferred := (s.chan cell (hChan (parcelHdr f.parcel))).deferred ++ [f.id] }) f (.deferred cell (hChan (parcelHdr f.parcel)))
  refine ⟨flightDeferred_from hd rfl rfl, ?_⟩
  refine (congrArg Chan.deferred (chan_of_cells hc cell _)).trans ?_
  rw [State.setChan_chan, if_pos ⟨rfl, rfl⟩]

end

/-! PARCEL_ARRIVE (R16, R357): a flight that no earlier one holds back, by the entry of its destination. -/

section
variable {n : Nat} {f : Flight} {e : BitVec 32} (hf : s.flights[n]? = some f) (hgo : ¬(f.leg ≠ .way ∨ s.heldBack n f = true))
include hf hgo

theorem arrive_nowhere (hr : (s.part f.part).resolve (hDest (parcelHdr f.parcel)) = none
    ∨ ∃ e, (s.part f.part).resolve (hDest (parcelHdr f.parcel)) = some e ∧ (entKind e = 0 ∨ entKind e = 3)) :
    execEvParcelArrive n s = .next (if (s.laneBefore n f).isEmpty then s.endFlight f 4 else s) := by
  unfold execEvParcelArrive
  rw [hf]; dsimp only
  rw [if_neg hgo]
  rcases hr with hr | ⟨e, hr, hk | hk⟩
  · rw [hr]
  · rw [hr]; dsimp only; rw [hk]; rfl
  · rw [hr]; dsimp only; rw [hk]; rfl

variable (hr : (s.part f.part).resolve (hDest (parcelHdr f.parcel)) = some e)
include hr

theorem arrive_gateway (hk : entKind e = 2) :
    execEvParcelArrive n s = .next (if (s.laneBefore n f).isEmpty then s.setFlight { f with leg := .gateway } else s) := by
  unfold execEvParcelArrive
  rw [hf]; dsimp only
  rw [if_neg hgo, hr]; dsimp only; rw [hk]; rfl

variable (hk : entKind e = 1)
include hk

theorem arrive_evicted (he : entEvict e = true) : execEvParcelArrive n s = .next (s.deferFlight f .evicted) := by
  unfold execEvParcelArrive
  rw [hf]; dsimp only
  rw [if_neg hgo, hr]; dsimp only; rw [hk]; exact congrArg Host.Outcome.next (if_pos he)

theorem arrive_cell (he : entEvict e = false) : execEvParcelArrive n s = .next
    (if (s.laneBefore n f).all fun g => g.leg == .deferred (entCell e) (hChan (parcelHdr f.parcel)) then s.eject f (entCell e) (!(s.laneBefore n f).isEmpty) else s) := by
  unfold execEvParcelArrive
  rw [hf]; dsimp only
  rw [if_neg hgo, hr]; dsimp only; rw [hk]; exact congrArg Host.Outcome.next (if_neg (by rw [he]; exact Bool.false_ne_true))

end

/-! Forwarding (R358, R359). -/

/-- A bucket that is refilled. -/
theorem Filter.refill_spec (x : Filter) (time : Nat) : (x.refill time).entry = x.entry ∧ (x.refill time).tokens = bucketAt x time ∧ (x.refill time).since = time := by
  unfold Filter.refill bucketAt
  simp only [extract_toNat]
  split
  · next h => exact ⟨rfl, (Nat.min_eq_left h).symm, rfl⟩
  · next h => exact ⟨rfl, (Nat.min_eq_right (Nat.le_of_lt (Nat.lt_of_not_le h))).symm, rfl⟩

/-- The fields that a gateway writes, in their places. -/
theorem forwardNew_eq (dp dl rs : Nat) : BitVec.ofNat 64 (dl % 65536 + rs % 65536 * 2 ^ 32 + dp % 32 * 2 ^ 48)
    = 0#11 ++ BitVec.ofNat 5 dp ++ BitVec.ofNat 16 rs ++ 0#16 ++ BitVec.ofNat 16 dl := by
  apply BitVec.eq_of_toNat_eq
  simp only [append_toNat, BitVec.toNat_ofNat]; omega

/-- The bits that a gateway writes. -/
theorem forwardMask_bit (i : Nat) (hi : i < 64) : (0x001FFFFF0000FFFF#64).getLsbD i = (decide (i < 16) || (decide (32 ≤ i) && decide (i < 53))) := by
  have h : ∀ j : Fin 64, (0x001FFFFF0000FFFF#64).getLsbD j = (decide (j.val < 16) || (decide (32 ≤ j.val) && decide (j.val < 53))) := by decide
  exact h ⟨i, hi⟩

theorem forwardHdr_bit (h : Word) (dp dl rs i : Nat) (hi : i < 64) : (forwardHdr h dp dl rs).getLsbD i =
    if i < 16 then dl.testBit i else if i < 32 then h.getLsbD i else if i < 48 then rs.testBit (i - 32) else if i < 53 then dp.testBit (i - 48) else h.getLsbD i := by
  rw [forwardHdr, forwardNew_eq, BitVec.getLsbD_or, BitVec.getLsbD_and, BitVec.getLsbD_not, forwardMask_bit i hi]
  simp only [BitVec.getLsbD_append, BitVec.getLsbD_ofNat]
  by_cases h16 : i < 16
  · simp [h16]
  by_cases h32 : i < 32
  · simp [h16, h32, show ¬32 ≤ i by omega, show i - 16 < 16 by omega]
    omega
  by_cases h48 : i < 48
  · simp [h16, h32, h48, hi, show i < 53 by omega, show 32 ≤ i by omega, show ¬i - 16 < 16 by omega, show i - 16 - 16 = i - 32 by omega, show i - 32 < 16 by omega]
  by_cases h53 : i < 53
  · simp [h16, h32, h48, h53, hi, show 32 ≤ i by omega, show ¬i - 16 < 16 by omega, show ¬i - 16 - 16 < 16 by omega, show i - 16 - 16 - 16 = i - 48 by omega, show i - 48 < 5 by omega]
  · simp [h16, h32, h48, h53, hi, show ¬i - 16 < 16 by omega, show ¬i - 16 - 16 < 16 by omega, show ¬i - 16 - 16 - 16 < 5 by omega]

/-- What a gateway writes into a header, and what it leaves (R359). -/
theorem forwardHdr_fields (h : Word) (dp dl rs : Nat) :
    hDest (forwardHdr h dp dl rs) = dl % 2 ^ 16 ∧ hSrc (forwardHdr h dp dl rs) = rs % 2 ^ 16 ∧ hPart (forwardHdr h dp dl rs) = dp % 2 ^ 5
      ∧ hChan (forwardHdr h dp dl rs) = hChan h ∧ hType (forwardHdr h dp dl rs) = hType h := by
  have field : ∀ (lo n : Nat) (x : BitVec n), lo + n ≤ 64 → (∀ i < n, (forwardHdr h dp dl rs).getLsbD (lo + i) = x.getLsbD i) →
      nbits lo n (forwardHdr h dp dl rs).toNat = x.toNat := fun lo n x _ hx => by
    rw [← extract_toNat]
    congr 1
    apply BitVec.eq_of_getLsbD_eq
    intro i hi
    rw [BitVec.getLsbD_extractLsb', hx i hi]; simp [hi]
  refine ⟨?_, ?_, ?_, ?_, ?_⟩
  · refine (field 0 16 (BitVec.ofNat 16 dl) (by decide) fun i hi => ?_).trans (BitVec.toNat_ofNat ..)
    rw [forwardHdr_bit _ _ _ _ _ (by omega), if_pos (by omega), BitVec.getLsbD_ofNat]; simp [hi]
  · refine (field 32 16 (BitVec.ofNat 16 rs) (by decide) fun i hi => ?_).trans (BitVec.toNat_ofNat ..)
    rw [forwardHdr_bit _ _ _ _ _ (by omega), if_neg (by omega), if_neg (by omega), if_pos (by omega), BitVec.getLsbD_ofNat]; simp [hi]
  · refine (field 48 5 (BitVec.ofNat 5 dp) (by decide) fun i hi => ?_).trans (BitVec.toNat_ofNat ..)
    rw [forwardHdr_bit _ _ _ _ _ (by omega), if_neg (by omega), if_neg (by omega), if_neg (by omega), if_pos (by omega), BitVec.getLsbD_ofNat]; simp [hi]
  · refine (field 16 8 (h.extractLsb' 16 8) (by decide) fun i hi => ?_).trans (extract_toNat ..)
    rw [forwardHdr_bit _ _ _ _ _ (by omega), if_neg (by omega), if_pos (by omega)]; simp [hi]
  · refine (field 24 8 (h.extractLsb' 24 8) (by decide) fun i hi => ?_).trans (extract_toNat ..)
    rw [forwardHdr_bit _ _ _ _ _ (by omega), if_neg (by omega), if_pos (by omega)]; simp [hi]

end Sys2Proof.Machine

namespace Sys2Proof.Proofs
open Sys2Proof Sys2Proof.Machine Sys2Proof.Claims

/-- PARCEL_ARRIVE. -/
theorem parcelArrives (s : State) (n : Nat) (f : Flight) (hf : s.flights[n]? = some f) (hleg : f.leg = .way) :
    let i : Instr := .evParcelArrive n
    let h := parcelHdr f.parcel
    let r := (s.part f.part).resolve (hDest h)
    let lane := s.laneBefore n f
    ((∃ g ∈ lane, g.leg.blocks = true) → runs i s s)
    ∧ ((∀ g ∈ lane, g.leg.blocks = false) →
      (r = none ∨ (∃ e, r = some e ∧ (entKind e = 0 ∨ entKind e = 3)) →
        (lane = [] → ∃ t, runs i s t ∧ flightEnds s t f 4) ∧ (lane ≠ [] → runs i s s))
      ∧ (∀ e, r = some e → entKind e = 2 → (lane = [] → ∃ t, runs i s t
          ∧ t.flights = s.flights.map fun g => if g.id = f.id then { f with leg := .gateway } else g) ∧ (lane ≠ [] → runs i s s))
      ∧ (∀ e, r = some e → entKind e = 1 → entEvict e = true → ∃ t, runs i s t ∧ flightDeferred s t f .evicted)
      ∧ ∀ e, r = some e → entKind e = 1 → entEvict e = false →
        let cell := entCell e
        let k := s.cell cell
        let c := hChan h
        ((∃ g ∈ lane, g.leg ≠ .deferred cell c) → runs i s s)
        ∧ ((∀ g ∈ lane, g.leg = .deferred cell c) →
          (hPart h ≠ k.tag → ∃ t, runs i s t ∧ t.hypEvents = s.hypEvents ++ [.dropped h cell] ∧ t.cells = s.cells
            ∧ t.flights = (s.flights.filter fun g => g.id != f.id)
            ∧ t.verdicts = s.verdicts ++ if f.from_.software then [⟨f.id, f.sent, f.from_, f.src, 4, f.told⟩] else [])
          ∧ (hPart h = k.tag →
            (lane = [] → k.answer c (hType h) = 0 → ∃ t, runs i s t ∧ mailboxTakes s t cell c f.parcel ∧ flightEnds s t f 0)
            ∧ (lane = [] → k.answer c (hType h) = 2 ∨ k.answer c (hType h) = 3 →
                ∃ t, runs i s t ∧ flightEnds s t f (k.answer c (hType h)) ∧ t.cells = s.cells)
            ∧ (lane ≠ [] ∨ k.answer c (hType h) = 5 → ∃ t, runs i s t ∧ flightDeferred s t f (.deferred cell c)
                ∧ (t.chan cell c).deferred = (s.chan cell c).deferred ++ [f.id])))) := by
  intro i h r lane
  have run : ∀ t, execEvParcelArrive n s = .next t → runs i s t := fun t ht => ht
  have hheld : s.heldBack n f = lane.any fun g => g.leg.blocks := rfl
  refine ⟨fun ⟨g, hg, hb⟩ => run s ?_, fun hfree => ?_⟩
  · unfold execEvParcelArrive
    rw [hf]; dsimp only
    rw [if_pos (.inr (hheld.trans (List.any_eq_true.2 ⟨g, hg, hb⟩)))]
  have hgo : ¬(f.leg ≠ .way ∨ s.heldBack n f = true) := by
    rintro (h | h)
    · exact h hleg
    · obtain ⟨g, hg, hb⟩ := List.any_eq_true.1 (hheld.symm.trans h)
      rw [hfree g hg] at hb; cases hb
  have hend : r = none ∨ (∃ e, r = some e ∧ (entKind e = 0 ∨ entKind e = 3)) → runs i s (if lane.isEmpty then s.endFlight f 4 else s) :=
    arrive_nowhere hf hgo
  refine ⟨fun hr => ⟨fun hl => ⟨_, ?_, State.endFlight_ends s f 4⟩, fun hl => ?_⟩,
    fun e hr hk => ⟨fun hl => ⟨_, ?_, State.setFlight_flights s { f with leg := .gateway }⟩, fun hl => ?_⟩,
    fun e hr hk he => ⟨_, arrive_evicted hf hgo hr hk he, (State.deferFlight_deferred s f .evicted).1⟩, fun e hr hk he => ?_⟩
  · have := hend hr; rwa [hl] at this
  · have := hend hr; rwa [if_neg (by simpa using hl)] at this
  · have : runs i s _ := arrive_gateway hf hgo hr hk
    rwa [show s.laneBefore n f = [] from hl] at this
  · have : runs i s _ := arrive_gateway hf hgo hr hk
    rwa [if_neg (by simpa using hl)] at this
  · intro cell k c
    have hcell : runs i s _ := arrive_cell hf hgo hr hk he
    refine ⟨fun ⟨g, hg, hne⟩ => ?_, fun hall => ?_⟩
    · rwa [if_neg fun hall => hne (by simpa using List.all_eq_true.1 hall g hg)] at hcell
    rw [if_pos (List.all_eq_true.2 fun g hg => by simpa using hall g hg)] at hcell
    refine ⟨fun hp => ?_, fun hp => ⟨fun hl ha => ?_, fun hl ha => ?_, fun hd => ?_⟩⟩
    · rw [s.eject_dropped f cell _ hp] at hcell
      exact ⟨_, hcell, s.dropFlight_drops f cell⟩
    · rw [show s.laneBefore n f = [] from hl] at hcell
      exact ⟨_, hcell, s.eject_accepted f cell hp ha⟩
    · rw [show s.laneBefore n f = [] from hl] at hcell
      rw [show s.eject f (entCell e) (!([] : List Flight).isEmpty) = _ from s.eject_refused f cell hp rfl ha] at hcell
      exact ⟨_, hcell, State.endFlight_ends .., State.endFlight_cells ..⟩
    · exact ⟨_, hcell, s.eject_deferred f cell hp _ (hd.imp_left fun hl => by simpa using hl)⟩

end Sys2Proof.Proofs
end

section
/-! Deferred parcels, gateways and verdicts (R13 to R16, R273, R358, R359). -/

namespace Sys2Proof.Machine
open Sys2Proof Sys2Proof.Claims

variable {s t u v : State}

theorem mailClash_setChan {cell c : Nat} (x : Chan) (hx : x.entry = (s.chan cell c).entry) (k : Nat) :
    ((s.setChan cell c x).cell cell).mailClash k = (s.cell cell).mailClash k := by
  refine State.mailClash_of_entries (fun P hP => s.setChan_entries cell c x hx cell P hP) k ?_
  rw [State.setChan_chan]; split
  · next h => rw [hx, ← h.2]
  · rfl

/-! Outbound slots and the context that waits (R14, R15). -/

/-- Where an issuer stands is a matter of the partitions and of the cells' tags. -/
theorem issuerCell_of {i : Issuer} (hp : (t.part i.part).resolve i.lcell = (s.part i.part).resolve i.lcell) (ht : ∀ c, (t.cell c).tag = (s.cell c).tag) :
    t.issuerCell i = s.issuerCell i := by
  simp only [State.issuerCell, hp, ht]

/-- The outbound slot of a parcel frees (R15). -/
theorem State.freeSlotOf_frees {i : Issuer} {cell : Nat} (h : s.issuerCell i = some cell) (id : Nat) :
    s.freeSlotOf i id = s.setCtx cell i.ctx { s.ctx cell i.ctx with out := (s.ctx cell i.ctx).out.filter fun n => n != id } := by
  rw [State.freeSlotOf, h]

theorem State.setCtx_tag (s : State) (n k c : Nat) (x : Ctx) : ((s.setCtx n k x).cell c).tag = (s.cell c).tag := by
  rw [State.setCtx, State.setCell_cell]; split
  · next h => subst h; rfl
  · rfl

section
variable {i : Issuer} {cell : Nat} (h : s.issuerCell i = some cell) (id : Nat)
include h

theorem State.freeSlotOf_ctx : (s.freeSlotOf i id).ctx cell i.ctx = { s.ctx cell i.ctx with out := (s.ctx cell i.ctx).out.filter fun n => n != id } := by
  rw [State.freeSlotOf_frees h, State.setCtx_ctx_self]

theorem State.freeSlotOf_issuerCell : (s.freeSlotOf i id).issuerCell i = some cell := by
  rw [State.freeSlotOf_frees h]
  refine Eq.trans (issuerCell_of (s := s) ?_ fun c => ?_) h
  · rfl
  · exact State.setCtx_tag ..

theorem State.freeSlotOf_stillRuns : (s.freeSlotOf i id).stillRuns cell i = s.stillRuns cell i := by
  rw [State.stillRuns, State.freeSlotOf_ctx h]; rfl

theorem State.freeSlotOf_verdicts : (s.freeSlotOf i id).verdicts = s.verdicts := by
  rw [State.freeSlotOf_frees h]; rfl

end

/-- A late refusal of an invocation that still runs (R14, R425). -/
theorem State.refusalTrap_running {i : Issuer} {cell status : Nat} {hdr : Word} (h : s.issuerCell i = some cell) (hr : s.stillRuns cell i = true) :
    s.refusalTrap i status hdr = s.serviceTrap cell i.ctx (if status = 2 then 0x23 else 0x24) hdr := by
  rw [State.refusalTrap, h]; dsimp only; rw [if_pos hr]; rfl

/-- The first verdict of a sendnb (R14). -/
theorem State.nbVerdict_gives {i : Issuer} {cell id status : Nat} {r : RegG} (h : s.issuerCell i = some cell) (hr : s.stillRuns cell i = true)
    (hp : (s.ctx cell i.ctx).pend.find? (fun e => e.1 == id) = some (id, r)) :
    ((s.nbVerdict i id status).ctx cell i.ctx).gr r = (if r = 0 then 0 else BitVec.ofNat 64 status)
      ∧ ((s.nbVerdict i id status).ctx cell i.ctx).pend = (s.ctx cell i.ctx).pend.filter fun e => e.1 != id := by
  unfold State.nbVerdict
  rw [h]; dsimp only
  rw [if_pos hr, State.setCtx_ctx_self, hp]
  refine ⟨?_, rfl⟩
  show ((s.ctx cell i.ctx).setG r (BitVec.ofNat 64 status)).gr r = _
  rw [Ctx.setG_gr]
  by_cases h0 : r = 0
  · rw [if_neg (fun h => h.2 h0), if_pos h0, h0]; rfl
  · rw [if_pos ⟨rfl, h0⟩, if_neg h0]

/-- A hart whose instruction gives rd the value 0 (R302, R303). -/
theorem Hart.gives_zero (h : Hart) (rd : RegX) : ((h.setX rd 0).retire).xr rd = 0 ∧ ((h.setX rd 0).retire).pc = h.pc + 4
    ∧ ((h.setX rd 0).retire).sending = h.sending ∧ ((h.setX rd 0).retire).out = h.out := by
  unfold Hart.setX
  split
  · next h0 => exact ⟨if_pos h0, rfl, rfl, rfl⟩
  · next h0 => exact ⟨(if_neg h0).trans (mget_mput_self ..), rfl, rfl, rfl⟩

/-! GATEWAY_FORWARD (R359): a flight at a gateway, by the entry of its destination and the filter that it meets. -/

/-- The bits of KIND 10. -/
theorem kind_gateway (e : BitVec 32) : nbits 30 2 e.toNat = 2 ↔ e.extractLsb' 30 2 = 2 := by
  rw [← extract_toNat]; exact ⟨fun h => BitVec.eq_of_toNat_eq h, fun h => by rw [h]; rfl⟩

section
variable {n : Nat} {f : Flight} (hf : s.flights[n]? = some f) (hleg : f.leg = .gateway)
include hf hleg

theorem gateway_gone (hr : (s.part f.part).resolve (hDest (parcelHdr f.parcel)) = none
    ∨ ∃ e, (s.part f.part).resolve (hDest (parcelHdr f.parcel)) = some e ∧ e.extractLsb' 30 2 ≠ 2) :
    execEvGatewayForward n s = .next (s.setFlight { f with leg := .way }) := by
  have hnone : ((s.part f.part).resolve (hDest (parcelHdr f.parcel))).filter (fun e => nbits 30 2 e.toNat = 2) = none := by
    rcases hr with hr | ⟨e, hr, hne⟩
    · rw [hr]; rfl
    · rw [hr, Option.filter_some, if_neg (by simpa [kind_gateway] using hne)]
  unfold execEvGatewayForward
  rw [hf]; dsimp only
  rw [if_neg (not_not.2 hleg), hnone]

variable {e : BitVec 32} (hr : (s.part f.part).resolve (hDest (parcelHdr f.parcel)) = some e) (hk : e.extractLsb' 30 2 = 2)
include hr hk

omit hf hleg in
theorem gateway_resolves : ((s.part f.part).resolve (hDest (parcelHdr f.parcel))).filter (fun e => nbits 30 2 e.toNat = 2) = some e := by
  rw [hr, Option.filter_some, if_pos (by simpa [kind_gateway] using hk)]

theorem gateway_drops (hh : s.filters.find? (fun x => filterHit x.2.entry f.part (nbits 16 5 e.toNat) (hChan (parcelHdr f.parcel))) = none) :
    execEvGatewayForward n s = .next (State.endFlight { s with gwDrops := s.gwDrops + 1 } f 4) := by
  unfold execEvGatewayForward
  rw [hf]; dsimp only
  rw [if_neg (not_not.2 hleg), gateway_resolves hr hk]; dsimp only
  rw [hh]

variable {k : Nat} {x : Filter} (hh : s.filters.find? (fun x => filterHit x.2.entry f.part (nbits 16 5 e.toNat) (hChan (parcelHdr f.parcel))) = some (k, x))
include hh

theorem gateway_defers (hb : bucketAt x s.time.toNat = 0) :
    execEvGatewayForward n s = .next (State.deferFlight { s with filters := mput s.filters k (x.refill s.time.toNat) } f .gateway) := by
  unfold execEvGatewayForward
  rw [hf]; dsimp only
  rw [if_neg (not_not.2 hleg), gateway_resolves hr hk]; dsimp only
  rw [hh]; dsimp only
  rw [if_pos (by rw [(x.refill_spec _).2.1, hb]; decide)]

theorem gateway_passes (hb : bucketAt x s.time.toNat ≠ 0) :
    execEvGatewayForward n s = .next (State.setFlight
      { s with filters := mput s.filters k { x.refill s.time.toNat with tokens := (x.refill s.time.toNat).tokens - 1 } }
      { f with
        parcel := withHdr f.parcel (forwardHdr (parcelHdr f.parcel) (nbits 16 5 e.toNat) (nbits 0 16 e.toNat) (nbits 32 16 (x.refill s.time.toNat).entry.toNat))
        part := nbits 16 5 e.toNat, leg := .way }) := by
  unfold execEvGatewayForward
  rw [hf]; dsimp only
  rw [if_neg (not_not.2 hleg), gateway_resolves hr hk]; dsimp only
  rw [hh]; dsimp only
  rw [if_neg (by rw [(x.refill_spec _).2.1]; omega)]

end

end Sys2Proof.Machine

namespace Sys2Proof.Proofs
open Sys2Proof Sys2Proof.Machine Sys2Proof.Claims

/-- DEFERRED_PARCEL_RETRY. -/
theorem deferredRetries (s : State) (cell c id : Nat) (rest : List Nat) (f : Flight) (hd : (s.chan cell c).deferred = id :: rest)
    (hf : s.flights.find? (fun f => f.id == id && f.leg == .deferred cell c) = some f) :
    let i : Instr := .evDeferredParcelRetry cell c
    let ent := (s.chan cell c).entry
    let typ := hType (parcelHdr f.parcel)
    (entBound ent = false → ∃ t, runs i s t ∧ flightEnds s t f 3 ∧ (t.chan cell c).deferred = rest)
    ∧ (entBound ent = true → typ ≠ entType ent → ∃ t, runs i s t ∧ flightEnds s t f 2 ∧ (t.chan cell c).deferred = rest)
    ∧ (entBound ent = true → typ = entType ent → (s.chan cell c).mailbox.length < entMbd ent →
        ∃ t, runs i s t ∧ flightEnds s t f 0 ∧ (t.chan cell c).deferred = rest ∧ (t.chan cell c).mailbox.length = (s.chan cell c).mailbox.length + 1
          ∧ ((s.cell cell).mailClash c = false → (t.chan cell c).mailbox = (s.chan cell c).mailbox ++ [f.parcel]))
    ∧ (entBound ent = true → typ = entType ent → entMbd ent ≤ (s.chan cell c).mailbox.length → runs i s s) := by
  intro i ent typ
  let t := s.setChan cell c { s.chan cell c with deferred := rest }
  have ht : t.chan cell c = { s.chan cell c with deferred := rest } := by unfold t; rw [State.setChan_chan, if_pos ⟨rfl, rfl⟩]
  have run : runs i s (if !entBound ent then t.endFlight f 3 else if typ ≠ entType ent then t.endFlight f 2
      else if (s.chan cell c).mailbox.length < entMbd ent then (t.enqueue cell c f.parcel).endFlight f 0 else s) := by
    show execEvDeferredParcelRetry cell c s = _
    unfold execEvDeferredParcelRetry
    dsimp only
    rw [hd]; dsimp only
    rw [hf]
  have hends : ∀ k, flightEnds s (t.endFlight f k) f k ∧ ((t.endFlight f k).chan cell c).deferred = rest := fun k =>
    ⟨flightEnds_from (State.endFlight_ends ..) rfl rfl, by rw [chan_of_cells (State.endFlight_cells ..), ht]⟩
  refine ⟨fun hb => ⟨_, ?_, hends 3⟩, fun hb hty => ⟨_, ?_, hends 2⟩, fun hb hty hroom => ⟨(t.enqueue cell c f.parcel).endFlight f 0, ?_, ?_, ?_, ?_, fun hno => ?_⟩, fun hb hty hfull => ?_⟩
  · rwa [hb, if_pos (by decide)] at run
  · rwa [hb, if_neg (by decide), if_pos hty] at run
  · rwa [hb, if_neg (by decide), if_neg (not_not.2 hty), if_pos hroom] at run
  · exact flightEnds_from (State.endFlight_ends ..) (t.enqueue_flights ..) (t.enqueue_verdicts ..)
  · rw [chan_of_cells (State.endFlight_cells ..), (t.enqueue_takes cell c f.parcel).2, ht]
  · rw [chan_of_cells (State.endFlight_cells ..)]
    obtain ⟨⟨hclear, hclash⟩, -⟩ := t.enqueue_takes cell c f.parcel
    cases hm : (t.cell cell).mailClash c with
    | false => rw [(hclear hm).1, ht]; simp
    | true => rw [(hclash hm).1, ht]
  · rw [chan_of_cells (State.endFlight_cells ..)]
    obtain ⟨⟨hclear, -⟩, -⟩ := t.enqueue_takes cell c f.parcel
    rw [(hclear ((mailClash_setChan _ (by rfl) c).trans hno)).1, ht]
  · rwa [hb, if_neg (by decide), if_neg (not_not.2 hty), if_neg (by omega)] at run

/-- GATEWAY_FORWARD. -/
theorem gatewayForwards (s : State) (n : Nat) (f : Flight) (hf : s.flights[n]? = some f) (hleg : f.leg = .gateway) :
    let i : Instr := .evGatewayForward n
    let r := (s.part f.part).resolve (hDest (parcelHdr f.parcel))
    (r = none ∨ (∃ e, r = some e ∧ e.extractLsb' 30 2 ≠ 2) → ∃ t, runs i s t
        ∧ t.flights = s.flights.map fun g => if g.id = f.id then { f with leg := .way } else g)
    ∧ ∀ e, r = some e → e.extractLsb' 30 2 = 2 →
      let hit := s.filters.find? fun x => filterHit x.2.entry f.part (e.extractLsb' 16 5).toNat (hChan (parcelHdr f.parcel))
      (hit = none → ∃ t, runs i s t ∧ t.gwDrops = s.gwDrops + 1 ∧ flightEnds s t f 4)
      ∧ (∀ k x, hit = some (k, x) → bucketAt x s.time.toNat = 0 → ∃ t, runs i s t ∧ flightDeferred s t f .gateway)
      ∧ ∀ k x, hit = some (k, x) → bucketAt x s.time.toNat ≠ 0 → ∃ t p, runs i s t
          ∧ (mget Filter.reset t.filters k).entry = x.entry ∧ (mget Filter.reset t.filters k).tokens = bucketAt x s.time.toNat - 1
          ∧ t.flights = s.flights.map (fun g => if g.id = f.id then { f with parcel := p, part := (e.extractLsb' 16 5).toNat, leg := .way } else g)
          ∧ hDest (parcelHdr p) = (e.setWidth 16).toNat ∧ hSrc (parcelHdr p) = (x.entry.extractLsb' 32 16).toNat ∧ hPart (parcelHdr p) = (e.extractLsb' 16 5).toNat
          ∧ hChan (parcelHdr p) = hChan (parcelHdr f.parcel) ∧ hType (parcelHdr p) = hType (parcelHdr f.parcel) ∧ (vecBytes p).drop 8 = (vecBytes f.parcel).drop 8 := by
  intro i r
  refine ⟨fun hr => ⟨s.setFlight { f with leg := .way }, gateway_gone hf hleg hr, State.setFlight_flights s { f with leg := .way }⟩, fun e hr hk => ?_⟩
  rw [extract_toNat]
  refine ⟨fun hh => ⟨_, gateway_drops hf hleg hr hk hh, ?_, flightEnds_from (State.endFlight_ends ..) rfl rfl⟩,
    fun k x hh hb => ⟨_, gateway_defers hf hleg hr hk hh hb, flightDeferred_from (State.deferFlight_deferred ..).1 rfl rfl⟩,
    fun k x hh hb => ⟨_, _, gateway_passes hf hleg hr hk hh hb, ?_, ?_, State.setFlight_flights _ _, ?_⟩⟩
  · unfold State.endFlight State.answerFlight; split <;> rfl
  · show (mget Filter.reset (mput s.filters k _) k).entry = _
    rw [mget_mput_self]; exact (x.refill_spec _).1
  · show (mget Filter.reset (mput s.filters k _) k).tokens = _
    rw [mget_mput_self]; exact congrArg (· - 1) (x.refill_spec _).2.1
  · rw [(x.refill_spec _).1]
    obtain ⟨hdest, hsrc, hpart, hchan, htype⟩ := forwardHdr_fields (parcelHdr f.parcel) (nbits 16 5 e.toNat) (nbits 0 16 e.toNat) (nbits 32 16 x.entry.toNat)
    rw [withHdr, parcelHdr_mkParcel, hdest, hsrc, hpart, setWidth_toNat, extract_toNat]
    refine ⟨Nat.mod_eq_of_lt (nbits_lt 0 16 _), Nat.mod_eq_of_lt (nbits_lt 32 16 _), Nat.mod_eq_of_lt (nbits_lt 16 5 _), hchan, htype, ?_⟩
    exact payload_mkParcel _ (length_payload _)

/-- VERDICT_RETURN. -/
theorem verdictReturns (s : State) (n : Nat) (v : Verdict) (hv : s.verdicts[n]? = some v) :
    (∀ i cell, v.from_ = .ctx i ∨ (∃ k, v.from_ = .parked i k) → s.issuerCell i = some cell → s.issuerAway i = false → v.status = 0 →
      ∃ t, runs (.evVerdictReturn n) s t ∧ t.verdicts = s.verdicts.eraseIdx n ∧ (v.from_ = .ctx i → (t.ctx cell i.ctx).out = (s.ctx cell i.ctx).out.filter fun m => m != v.flight))
    ∧ (∀ i cell, v.from_ = .ctx i → s.issuerCell i = some cell → s.issuerAway i = false → v.status ≠ 0 → v.status ≠ 5 → s.stillRuns cell i = true →
      ∃ u : State, runs (.evVerdictReturn n) s (u.serviceTrap cell i.ctx (if v.status = 2 then 0x23 else 0x24) v.sent)
        ∧ (u.ctx cell i.ctx).out = (s.ctx cell i.ctx).out.filter fun m => m != v.flight)
    ∧ (∀ i cell r, v.from_ = .nb i → s.issuerCell i = some cell → s.issuerAway i = false → v.told = false → s.stillRuns cell i = true →
        (s.ctx cell i.ctx).pend.find? (fun e => e.1 == v.flight) = some (v.flight, r) →
      ∃ t, runs (.evVerdictReturn n) s t ∧ (t.ctx cell i.ctx).gr r = (if r = 0 then 0 else BitVec.ofNat 64 v.status)
        ∧ (t.ctx cell i.ctx).pend = (s.ctx cell i.ctx).pend.filter fun e => e.1 != v.flight)
    ∧ (∀ core rd va, v.from_ = .hart core → v.told = false → (s.hart core).sending = some (v.flight, rd, va) → v.status = 0 →
      ∃ t, runs (.evVerdictReturn n) s t ∧ (t.hart core).xr rd = 0 ∧ (t.hart core).pc = (s.hart core).pc + 4 ∧ (t.hart core).sending = none
        ∧ (t.hart core).out = (s.hart core).out.filter fun m => m != v.flight)
    ∧ ∀ a l c d k, v.from_ = .future a l c d k → v.status ≠ 0 → v.status ≠ 5 → runs (.evVerdictReturn n) s
      ({ s with verdicts := s.verdicts.eraseIdx n }.escalateDev v.part (if v.status = 2 then 0x23 else 0x24) l.toNat c.toNat a) := by
  have run : (v.from_.issuer?.map fun i => s.issuerAway i) ≠ some true → runs (.evVerdictReturn n) s (State.applyVerdict { s with verdicts := s.verdicts.eraseIdx n } v) :=
    fun ha => by
      show execEvVerdictReturn n s = _
      unfold execEvVerdictReturn
      rw [hv]; dsimp only
      rw [if_neg ha]
  have here : ∀ i : Issuer, v.from_.issuer? = some i → s.issuerAway i = false → (v.from_.issuer?.map fun i => s.issuerAway i) ≠ some true := fun i hi ha => by
    rw [hi, Option.map_some, ha]; decide
  generalize hu : ({ s with verdicts := s.verdicts.eraseIdx n } : State) = u at run ⊢
  have huc : ∀ c k, u.ctx c k = s.ctx c k := fun c k => by rw [← hu]; rfl
  have hui : ∀ i, u.issuerCell i = s.issuerCell i := fun i => by rw [← hu]; rfl
  have hur : ∀ c i, u.stillRuns c i = s.stillRuns c i := fun c i => by rw [← hu]; rfl
  have huv : u.verdicts = s.verdicts.eraseIdx n := by rw [← hu]
  have huh : ∀ c, u.hart c = s.hart c := fun c => by rw [← hu]; rfl
  refine ⟨fun i cell hfrom hi ha h0 => ?_, fun i cell hfrom hi ha h0 h5 hruns => ?_, fun i cell r hfrom hi ha htold hruns hp => ?_, fun core rd va hfrom htold hs h0 => ?_,
    fun a l c d k hfrom h0 h5 => ?_⟩
  · have hbad : ¬(v.status ≠ 0 ∧ v.status ≠ 5) := fun h => h.1 h0
    have hiu : u.issuerCell i = some cell := (hui i).trans hi
    rcases hfrom with hfrom | ⟨k, hfrom⟩
    · have r := run (here i (by rw [hfrom]; rfl) ha)
      unfold State.applyVerdict at r
      rw [hfrom] at r; dsimp only at r
      rw [if_neg hbad, if_neg (by rw [h0]; decide)] at r
      exact ⟨_, r, (State.freeSlotOf_verdicts hiu _).trans huv, fun _ => by rw [State.freeSlotOf_ctx hiu, huc]⟩
    · have r := run (here i (by rw [hfrom]; rfl) ha)
      unfold State.applyVerdict at r
      rw [hfrom] at r; dsimp only at r
      rw [if_neg hbad] at r
      exact ⟨_, r, huv, fun h => by rw [hfrom] at h; cases h⟩
  · have hiu : u.issuerCell i = some cell := (hui i).trans hi
    have r := run (here i (by rw [hfrom]; rfl) ha)
    unfold State.applyVerdict at r
    rw [hfrom] at r; dsimp only at r
    rw [if_pos ⟨h0, h5⟩, if_neg h5, State.refusalTrap_running (State.freeSlotOf_issuerCell hiu _) ((State.freeSlotOf_stillRuns hiu _).trans ((hur _ _).trans hruns))] at r
    exact ⟨_, r, by rw [State.freeSlotOf_ctx hiu, huc]⟩
  · have hiu : u.issuerCell i = some cell := (hui i).trans hi
    have r' := run (here i (by rw [hfrom]; rfl) ha)
    unfold State.applyVerdict at r'
    rw [hfrom] at r'; dsimp only at r'
    rw [if_neg (by rw [htold]; exact Bool.false_ne_true)] at r'
    refine ⟨_, r', ?_⟩
    split
    · rw [← huc] at hp ⊢
      exact State.nbVerdict_gives hiu ((hur _ _).trans hruns) hp
    · have hx := State.freeSlotOf_ctx hiu v.flight
      have hg := State.nbVerdict_gives (s := u.freeSlotOf i v.flight) (status := v.status) (r := r) (State.freeSlotOf_issuerCell hiu v.flight)
        ((State.freeSlotOf_stillRuns hiu _).trans ((hur _ _).trans hruns)) (by rw [hx, huc]; exact hp)
      rw [hx, huc] at hg
      exact hg
  · have r := run (by rw [hfrom]; simp [Origin.issuer?])
    unfold State.applyVerdict at r
    rw [hfrom] at r; dsimp only at r
    unfold State.hartVerdict at r; dsimp only at r
    rw [if_neg (by rw [htold]; exact Bool.false_ne_true), huh, hs] at r; dsimp only at r
    rw [if_neg (not_not.2 rfl), if_neg (by rw [h0]; decide), if_pos h0] at r
    refine ⟨_, r, ?_⟩
    rw [State.setHart_hart, if_pos rfl]
    exact Hart.gives_zero _ rd
  · have r := run (by rw [hfrom]; simp [Origin.issuer?])
    unfold State.applyVerdict at r
    rw [hfrom] at r; dsimp only at r
    rwa [if_pos ⟨h0, h5⟩] at r

/-- Settles O24: each flight, deferred parcel, gateway and verdict does what its destination or its sender says. -/
theorem parcelDelivery : Obligations.ParcelDelivery := by
  unfold Obligations.ParcelDelivery
  refine ⟨parcelArrives, deferredRetries, gatewayForwards, fun s n x hx => ?_, fun s n x hn => ?_, verdictReturns⟩
  · refine ⟨{ s with filters := mput s.filters n (x.refill s.time.toNat) }, ?_, ?_⟩
    · show execEvFilterBucketRefill n s = _
      unfold execEvFilterBucketRefill
      rw [hx]
    · show (mget Filter.reset (mput s.filters n (x.refill s.time.toNat)) n).entry = _ ∧ _
      rw [mget_mput_self]; exact x.refill_spec _
  · refine ⟨{ s with filters := mput s.filters n ⟨x, nbits 48 16 x.toNat, s.time.toNat, 0⟩ }, congrArg Host.Outcome.next (if_neg (by omega)), ?_⟩
    show mget Filter.reset (mput s.filters n _) n = _
    rw [mget_mput_self, extract_toNat]

end Sys2Proof.Proofs
end

section
/-! Selection and dispatch (R21, R22). -/

namespace Sys2Proof.Machine
open Sys2Proof Sys2Proof.Claims

variable {s t u v : State}

/-! The choice of a channel (R21). -/

/-- A channel that may be selected. -/
theorem Cell.mem_candidates (k : Cell) (d : Nat) : d ∈ k.candidates ↔ d < 64 ∧ (k.chan d).st = .runnable ∧ entMsk (k.chan d).entry = false := by
  simp [Cell.candidates]

theorem le_foldl_max (l : List Nat) (a x : Nat) (h : x ∈ l ∨ x ≤ a) : x ≤ l.foldl max a := by
  induction l generalizing a with
  | nil => exact h.resolve_left List.not_mem_nil
  | cons b l ih =>
    refine ih _ ?_
    rcases h with h | h
    · rcases List.mem_cons.1 h with rfl | h
      · exact .inr (Nat.le_max_right _ _)
      · exact .inl h
    · exact .inr (h.trans (Nat.le_max_left _ _))

/-- The channel that a cell chooses is the first of the highest level behind the one chosen last at that level. -/
theorem Cell.choose_spec (k : Cell) (c top : Nat) (h : k.choose = some (c, top)) :
    let may := fun d => (k.chan d).st = .runnable ∧ entMsk (k.chan d).entry = false
    may c ∧ (k.chan c).level = top ∧ (∀ d < 64, may d → (k.chan d).level ≤ top)
      ∧ ∃ i < 64, c = (mget 63 k.rr top + 1 + i) % 64 ∧ ∀ j < i, let d := (mget 63 k.rr top + 1 + j) % 64
        ¬(may d ∧ (k.chan d).level = top) := by
  intro may
  obtain ⟨c', hfind, heq⟩ := Option.map_eq_some_iff.1 h
  obtain ⟨rfl, rfl⟩ := Prod.mk.inj heq
  generalize htop : (k.candidates.map fun c => (k.chan c).level).foldl max 0 = top at hfind ⊢
  obtain ⟨hp, as, bs, hl, hno⟩ := List.find?_eq_some_iff_append.1 hfind
  simp only [Bool.and_eq_true, List.contains_iff_mem, beq_iff_eq, Cell.mem_candidates] at hp
  refine ⟨hp.1.2, hp.2, fun d hd hm => ?_, as.length, ?_, ?_, fun j hj => ?_⟩
  · rw [← htop]
    exact le_foldl_max _ _ _ (.inl (List.mem_map.2 ⟨d, (k.mem_candidates d).2 ⟨hd, hm⟩, rfl⟩))
  · have := congrArg List.length hl
    simp only [List.length_map, List.length_range, List.length_append, List.length_cons] at this; omega
  · have hi : ((List.range 64).map fun i => (mget 63 k.rr top + 1 + i) % 64)[as.length]? = some c' := by
      rw [hl, List.getElem?_append_right (Nat.le_refl _), Nat.sub_self]; rfl
    rw [List.getElem?_map, Option.map_eq_some_iff] at hi
    obtain ⟨n, hn, hc⟩ := hi
    rw [List.getElem?_eq_some_iff] at hn
    obtain ⟨hlt, hn⟩ := hn
    rw [List.getElem_range] at hn
    rw [← hc, hn]
  · have hi : ((List.range 64).map fun i => (mget 63 k.rr top + 1 + i) % 64)[j]? = some (as[j]) := by
      rw [hl, List.getElem?_append_left hj, List.getElem?_eq_getElem hj]
    rw [List.getElem?_map, Option.map_eq_some_iff] at hi
    obtain ⟨n, hn, hc⟩ := hi
    rw [List.getElem?_eq_some_iff] at hn
    obtain ⟨hlt, hn⟩ := hn
    rw [List.getElem_range] at hn
    subst hn
    intro d hd
    have := hno (as[j]) (List.getElem_mem hj)
    rw [← hc, Bool.not_eq_true', Bool.and_eq_false_iff] at this
    rcases this with h | h
    · rw [List.contains_iff_mem.2 ((k.mem_candidates _).2 ⟨Nat.mod_lt _ (by decide), hd.1⟩)] at h; cases h
    · exact ne_of_beq_false h hd.2

/-! Registers at a dispatch (R7, R22). -/

theorem mfind_map_range {α : Type} (f : Nat → α) (l : List Nat) (k : Nat) (hk : k ∈ l) : mfind (l.map fun r => (r, f r)) k = some (f k) := by
  induction l with
  | nil => cases hk
  | cons a l ih =>
    simp only [List.map_cons, mfind]
    split
    · next h => rw [h]
    · next h => exact ih ((List.mem_cons.1 hk).resolve_left fun e => h e.symm)

theorem mget_map_range {α : Type} (d : α) (f : Nat → α) (n k : Nat) (hk : k < n) : mget d ((List.range n).map fun r => (r, f r)) k = f k := by
  rw [mget, mfind_map_range f _ _ (List.mem_range.2 hk)]; rfl

/-- A register holds zero at a dispatch, or what it held at an earlier one. -/
theorem heldValue_mem {α : Type} (n r : Nat) (past : List Files) (zero : α) (get : Files → α) :
    heldValue n r past zero get = zero ∨ ∃ f ∈ past, heldValue n r past zero get = get f := by
  have h : heldValue n r past zero get ∈ zero :: past.map get := by
    unfold heldValue
    have hlt : Config.freeReg n r % (zero :: past.map get).length < (zero :: past.map get).length := Nat.mod_lt _ (by simp)
    dsimp only
    rw [List.getD_eq_getElem?_getD, List.getElem?_eq_getElem hlt]
    exact List.getElem_mem hlt
  rcases List.mem_cons.1 h with h | h
  · exact .inl h
  · obtain ⟨f, hf, he⟩ := List.mem_map.1 h
    exact .inr ⟨f, hf, he.symm⟩

section
variable (x : Ctx) (n : Nat)

theorem Ctx.scramble_gr (r : RegG) : (x.scramble n).gr r = 0 ∨ ∃ f ∈ x.files :: x.past, (x.scramble n).gr r = mget 0 f.g r.toNat := by
  unfold Ctx.gr
  split
  · exact .inl rfl
  · have : mget 0 (x.scramble n).g r.toNat = _ := mget_map_range 0 _ 32 r.toNat r.isLt
    rw [this]; exact heldValue_mem ..

theorem Ctx.scramble_vr (r : RegV) : (x.scramble n).vr r = 0 ∨ ∃ f ∈ x.files :: x.past, (x.scramble n).vr r = mget 0 f.v r.toNat := by
  have : mget 0 (x.scramble n).v r.toNat = _ := mget_map_range 0 _ 32 r.toNat r.isLt
  rw [Ctx.vr, this]; exact heldValue_mem ..

theorem Ctx.scramble_loopOf (e : Eng) (k : Nat) (hk : k < 4) : (x.scramble n).loopOf e k = LoopC.reset
    ∨ ∃ f ∈ x.files :: x.past, (x.scramble n).loopOf e k = mget LoopC.reset f.loops (4 * engNo e + k) := by
  have he : 4 * engNo e + k < 12 := by cases e <;> simp [engNo] <;> omega
  have : mget LoopC.reset (x.scramble n).loops (4 * engNo e + k) = _ := mget_map_range LoopC.reset _ 12 _ he
  rw [Ctx.loopOf, this]; exact heldValue_mem ..

end

/-! The entry line (R22). -/

theorem lineSlot_toNat (p : Slot) : (lineSlot p).toNat = p.toNat / 8 * 8 := by
  have h : lineSlot p = (p >>> 3) <<< 3 := by
    apply BitVec.eq_of_getLsbD_eq
    intro i hi
    have hmask : ∀ j : Fin 55, (~~~7 : Slot).getLsbD j = !decide (j.val < 3) := by decide
    rw [lineSlot, BitVec.getLsbD_and, hmask ⟨i, hi⟩, BitVec.getLsbD_shiftLeft, BitVec.getLsbD_ushiftRight]
    by_cases h3 : i < 3
    · simp [h3]
    · simp only [h3, hi, decide_true, decide_false, Bool.not_false, Bool.and_true, Bool.true_and]
      rw [show 3 + (i - 3) = i by omega]
  rw [h, BitVec.toNat_shiftLeft, BitVec.toNat_ushiftRight, Nat.shiftLeft_eq, Nat.shiftRight_eq_div_pow]
  have := p.isLt
  omega

theorem firstLane_lt {b : BitVec 256} {e : Eng} {n k : Nat} (h : firstLane b e n = some k) : k < 8 := by
  have := List.mem_of_find?_eq_some h
  simp at this; omega

/-- X starts in the entry line (R22). -/
theorem startEng_x (b : Option (BitVec 256)) (entry : Slot) (now : Nat) :
    (startEng b .x entry now).st = .running ∧ (entry.toNat % 8 = 0 → lineSlot (startEng b .x entry now).pc = entry) := by
  have hline : ∀ k < 8, entry.toNat % 8 = 0 → lineSlot (entry + BitVec.ofNat 55 k) = entry := fun k hk h => by
    apply BitVec.eq_of_toNat_eq
    have := entry.isLt
    rw [lineSlot_toNat, BitVec.toNat_add, BitVec.toNat_ofNat]; omega
  cases b with
  | none => exact ⟨rfl, hline 0 (by decide)⟩
  | some b =>
    refine ⟨rfl, hline _ ?_⟩
    cases hf : firstLane b .x 1 with
    | none => decide
    | some k => exact firstLane_lt hf

/-- The state that the fetch of a line leaves. -/
def lineLeft : Except (NoLine × State) (BitVec 256 × State) → State
  | .error e => e.2
  | .ok r => r.2

theorem State.fetchLine_access (s : State) (cell : Nat) (kmode : Bool) (slot : Slot) : Access cell s (lineLeft (s.fetchLine cell kmode slot)) := by
  unfold State.fetchLine
  extract_lets c ls
  have hx := s.xlate_access cell kmode .fetch (slotAddr ls)
  split
  · exact .refl s
  split
  · next w u e => rw [e] at hx; exact hx
  next l u e =>
  rw [e] at hx
  replace hx : Access cell s u := hx
  have hr : Access cell s (((u.homeRead l.pa 32).1.throughRdc cell l).allocIn (homeBank l) c.tag) :=
    ((hx.trans (u.homeRead_access l.pa 32)).trans (State.throughRdc_onlyMemory ..).access).trans (State.allocIn_onlyMemory ..).access
  have hfill : ∀ (v : State) (is : List ILine), Access cell v (v.setCell cell { v.cell cell with istore := is }).took := fun v is =>
    (Access.setCell v cell { v.cell cell with istore := is } rfl fun _ => rfl).trans (State.took_access _)
  extract_lets poison r v bits c' keep
  split
  · exact hx
  · exact hx
  all_goals
    split
    · exact hr
    · exact hr.trans (hfill _ _)

theorem State.entryLine_access (s : State) (cell : Nat) (kmode : Bool) (entry : Slot) : Access cell s (s.entryLine cell kmode entry).1 := by
  have h := s.fetchLine_access cell kmode entry
  unfold State.entryLine
  split
  · next e => rw [e] at h; exact h
  · next e => rw [e] at h; exact h

/-- The context, the channels and the turn that a dispatch leaves, and when it traps (R22, R23). -/
theorem State.dispatch_spec (s : State) (cell c ctx : Nat) (p : Vec) :
    let h := parcelHdr p
    let ent := (s.chan cell c).entry
    let old := s.ctx cell ctx
    ∃ t, s.dispatch cell c ctx p = (if 0x40 ≤ hType h ∧ hType h ≤ 0x7F ∧ hF8m h ≠ old.fmode then t.serviceTrap cell ctx 0x21 0 else t)
      ∧ (∀ k, t.chan cell k = s.chan cell k) ∧ (t.cell cell).rr = (s.cell cell).rr
      ∧ (let x := t.ctx cell ctx
        x.st = .running ∧ x.chan = c ∧ x.phdr = h ∧ x.kmode = (s.cell cell).kchan.getLsbD c ∧ x.limit = (s.cell cell).wdlim ∧ x.wdcnt = 0 ∧ x.vr 0 = p
          ∧ x.gr 1 = h ∧ x.gr 2 = BitVec.ofNat 64 (if entAct ent then 64 * entAfb ent else 0) ∧ x.gr 3 = (s.cell cell).lcell.setWidth 64
          ∧ x.streams = [] ∧ x.fifos = [] ∧ x.ex.st = .running ∧ (entEntry ent % 8 = 0 → lineSlot x.ex.pc = BitVec.ofNat 55 (entEntry ent))
          ∧ x.xfid = (if hCmpl h then (p >>> 64).setWidth 16 else old.xfid)
          ∧ (∀ r, r ≠ 1 → r ≠ 2 → r ≠ 3 → x.gr r = 0 ∨ ∃ f ∈ old.files :: old.past, x.gr r = mget 0 f.g r.toNat)
          ∧ (∀ r, r ≠ 0 → x.vr r = 0 ∨ ∃ f ∈ old.files :: old.past, x.vr r = mget 0 f.v r.toNat)
          ∧ ∀ e k, k < 4 → x.loopOf e k = LoopC.reset ∨ ∃ f ∈ old.files :: old.past, x.loopOf e k = mget LoopC.reset f.loops (4 * engNo e + k)) := by
  intro h ent old
  unfold State.dispatch
  extract_lets k ent' kmode entry frame
  have ha := s.entryLine_access cell kmode entry
  generalize s.entryLine cell kmode entry = r at ha ⊢
  obtain ⟨u, line⟩ := r
  dsimp -zeta only
  extract_lets x0 x1 x2 w
  replace ha : Access cell s u := ha
  have hfiles : (u.ctx cell ctx).files = old.files := ha.of_ctx Ctx.files (fun _ => rfl) cell ctx
  have hpast : (u.ctx cell ctx).past = old.past := ha.of_ctx (·.past) (fun _ => rfl) cell ctx
  have hfm : x2.fmode = old.fmode := by
    simp only [x2, Ctx.setG_fmode]; exact ha.of_ctx (·.fmode) (fun _ => rfl) cell ctx
  have hw : w.ctx cell ctx = x2 := by
    show (u.setCtx cell ctx x2).ctx cell ctx = x2
    rw [State.setCtx_ctx, if_pos ⟨rfl, rfl⟩]
  have hst := startEng_x line entry u.now
  refine ⟨w, by rw [hfm], fun j => ?_, ?_, ?_⟩
  · show (u.setCtx cell ctx x2).chan cell j = _
    rw [State.setCtx_chan]; exact ha.of_cell (·.chan j) (fun _ => rfl) cell
  · show ((u.setCtx cell ctx x2).cell cell).rr = _
    rw [State.setCtx, State.setCell_cell, if_pos rfl]
    exact ha.of_cell (·.rr) (fun _ => rfl) cell
  rw [hw]
  have hgr : ∀ r, x2.gr r = if r = 3 then zext k.lcell else if r = 2 then BitVec.ofNat 64 frame else if r = 1 then h else x0.gr r := fun r => by
    have h1 : (x1.setV 0 p).gr r = x0.gr r := rfl
    simp only [x2, Ctx.setG_gr, h1]
    simp
  have hvr : ∀ r, x2.vr r = if r = 0 then p else x0.vr r := fun r => by
    simp only [x2, Ctx.vr, Ctx.setG_v]
    exact Ctx.setV_vr x1 0 r p
  have hloop : ∀ e j, x2.loopOf e j = x0.loopOf e j := fun e j => by
    simp only [x2, Ctx.loopOf, Ctx.setG_loops]; rfl
  have hxf : x2.xfid = (if hCmpl h then (p >>> 64).setWidth 16 else old.xfid) := by
    have : (u.ctx cell ctx).xfid = old.xfid := ha.of_ctx (·.xfid) (fun _ => rfl) cell ctx
    simp only [x2, Ctx.setG_xfid]
    rw [← this]; rfl
  have hex : x2.ex = startEng line .x entry u.now := by simp only [x2, Ctx.setG_ex]; rfl
  rw [← hfiles, ← hpast]
  refine ⟨by simp only [x2, Ctx.setG_st]; rfl, by simp only [x2, Ctx.setG_chan]; rfl, by simp only [x2, Ctx.setG_phdr]; rfl,
    by simp only [x2, Ctx.setG_kmode]; rfl, by simp only [x2, Ctx.setG_limit]; rfl, by simp only [x2, Ctx.setG_wdcnt]; rfl,
    hvr 0, hgr 1, hgr 2, hgr 3, by simp only [x2, Ctx.setG_streams]; rfl, by simp only [x2, Ctx.setG_fifos]; rfl,
    by rw [hex]; exact hst.1, fun he => ?_, hxf, fun r h1 h2 h3 => ?_, fun r h0 => ?_, fun e j hj => ?_⟩
  · rw [hex]
    refine hst.2 ?_
    rw [BitVec.toNat_ofNat]
    have : entEntry ent' % 8 = 0 := he
    omega
  · rw [hgr, if_neg h3, if_neg h2, if_neg h1]; exact Ctx.scramble_gr _ _ r
  · rw [hvr, if_neg h0]; exact Ctx.scramble_vr _ _ r
  · rw [hloop]; exact Ctx.scramble_loopOf _ _ e j hj

end Sys2Proof.Machine
end

section
/-! Selection, the end of invocations, and the traps of R26 and R339. -/

namespace Sys2Proof.Machine
open Sys2Proof Sys2Proof.Claims

variable {s t u v : State} {cell ctx : Nat}

/-! Selection (R21). -/

/-- Candidates that were not chosen only count it. -/
theorem Cell.foldl_skipped (k : Cell) (c : Nat) (l : List Nat) :
    let k' := l.foldl (fun k d => if d = c then k else k.setChan d (k.chan d).skipped) k
    { k' with chans := k.chans } = k ∧ k'.chan c = k.chan c := by
  refine foldl_keeps (fun k' : Cell => { k' with chans := k.chans } = k ∧ k'.chan c = k.chan c) _ _ _ ⟨rfl, rfl⟩ fun k' d h => ?_
  obtain ⟨hk, hc⟩ := h
  split
  · exact ⟨hk, hc⟩
  · next hd => exact ⟨hk, by rw [Cell.setChan_chan, if_neg hd, hc]⟩

section
variable {c top : Nat} (hf : (s.cell cell).freeCtx = some ctx) (hc : (s.cell cell).choose = some (c, top)) (hs : (s.cell cell).select = true)
include hf hc hs

theorem select_waits {pa : Nat} (hm : (s.chan cell c).mailbox ≠ []) (hp : s.entryPending cell c = some pa) :
    execEvChannelSelect cell s = .next (s.entryWaits cell c pa) := by
  obtain ⟨p, rest, hm⟩ := List.exists_cons_of_ne_nil hm
  unfold execEvChannelSelect
  dsimp only
  rw [hf, hc]
  dsimp only
  rw [show ((s.cell cell).chan c).mailbox = p :: rest from hm, hs]
  dsimp only
  rw [if_neg (by decide), hp]

end

/-- Nothing is selected without a free context or a candidate, or while selection is off (R21, R395). -/
theorem select_none (h : (s.cell cell).freeCtx = none ∨ (s.cell cell).choose = none ∨ (s.cell cell).select = false) :
    execEvChannelSelect cell s = .next s := by
  unfold execEvChannelSelect
  dsimp only
  cases hf : (s.cell cell).freeCtx with
  | none => rfl
  | some ctx => cases hc : (s.cell cell).choose with
    | none => rfl
    | some r =>
      obtain ⟨c, top⟩ := r
      have hs : (s.cell cell).select = false := by simpa [hf, hc] using h
      dsimp only
      split
      · rfl
      · rw [hs]; rfl

/-- A selection is a dispatch on a state in which the channel runs, its parcel is taken, and the turn is its (R21, R22). -/
theorem select_state {c top : Nat} {p : Vec} {rest : List Vec} (hf : (s.cell cell).freeCtx = some ctx)
    (hc : (s.cell cell).choose = some (c, top)) (hm : (s.chan cell c).mailbox = p :: rest) (hs : (s.cell cell).select = true)
    (hp : s.entryPending cell c = none) :
    ∃ u : State, execEvChannelSelect cell s = .next (u.dispatch cell c ctx p) ∧ u.ctx cell ctx = s.ctx cell ctx ∧ mget 63 (u.cell cell).rr top = c
      ∧ (u.cell cell).kchan = (s.cell cell).kchan ∧ (u.cell cell).wdlim = (s.cell cell).wdlim ∧ (u.cell cell).lcell = (s.cell cell).lcell
      ∧ u.chan cell c = { (s.chan cell c).dequeue with st := .running, skip := 0, boost := 0, waited := none } := by
  obtain ⟨hk, hkc⟩ := (s.cell cell).foldl_skipped c (s.cell cell).candidates
  unfold execEvChannelSelect
  dsimp only
  rw [hf, hc]
  dsimp only
  rw [show ((s.cell cell).chan c).mailbox = p :: rest from hm, hs]
  dsimp only
  rw [if_neg (by decide), hp]
  dsimp only at hk hkc ⊢
  generalize (s.cell cell).candidates.foldl _ _ = k at hk hkc ⊢
  have hcell : ∀ k, (s.setCell cell k).cell cell = k := fun k => by rw [State.setCell_cell, if_pos rfl]
  have hx : k.ctx ctx = (s.cell cell).ctx ctx := by
    have h := congrArg (fun z : Cell => z.ctx ctx) hk
    exact h
  have hkc' : k.kchan = (s.cell cell).kchan := by have h := congrArg Cell.kchan hk; exact h
  have hwd : k.wdlim = (s.cell cell).wdlim := by have h := congrArg Cell.wdlim hk; exact h
  have hlc : k.lcell = (s.cell cell).lcell := by have h := congrArg Cell.lcell hk; exact h
  refine ⟨_, rfl, ?_, ?_, ?_, ?_, ?_, ?_⟩
  · rw [State.ctx, hcell]; exact hx
  · rw [hcell]; exact mget_mput_self ..
  · rw [hcell]; exact hkc'
  · rw [hcell]; exact hwd
  · rw [hcell]; exact hlc
  · rw [State.chan, hcell]
    refine (Cell.setChan_chan k c c _).trans ?_
    rw [if_pos rfl, hkc]; rfl

/-! Trap parcels (R26, R27). -/

/-- The parcel of a trap says its code, its context and its channel (R26). -/
theorem State.trapParcel_says (s : State) (t : TrapInfo) (code : Nat) (detail : Word) :
    let p := s.trapParcel t code detail
    hType (parcelHdr p) = 0xFE ∧ hChan (parcelHdr p) = 63 ∧ (vecBytes p).getD 8 0 = BitVec.ofNat 8 code ∧ (vecBytes p).getD 9 0 = BitVec.ofNat 8 t.ctx
      ∧ (vecBytes p).getD 10 0 = BitVec.ofNat 8 t.chan := by
  unfold State.trapParcel
  dsimp only
  rw [parcelHdr_mkParcel, mkHdr_type, mkHdr_chan]
  refine ⟨rfl, rfl, ?_⟩
  have hlen : ∀ (h : Word) (b : List Byte), (leBytes 8 h.toNat ++ b.take 56).length ≤ 64 := fun h b => by
    rw [List.length_append, length_leBytes, List.length_take]; omega
  rw [mkParcel, vecBytes_vecOf_le (hlen _ _)]
  simp [leBytes]

/-- The invocation has ended, and its trap goes where R26 sends it. -/
theorem Ends.room (h : Ends s u cell ctx) (c : Nat) : (u.chan cell c).room = (s.chan cell c).room := by
  obtain ⟨mb, st, hl, hc⟩ := h.chan cell c
  rw [hc, Chan.room, Chan.room, hl]

theorem Ends.takesTraps (h : Ends s u cell ctx) : (u.cell cell).takesTraps = (s.cell cell).takesTraps := by
  obtain ⟨mb, st, -, hc⟩ := h.chan cell 63
  have : ((u.cell cell).chan 63).entry = ((s.cell cell).chan 63).entry := by rw [show (u.cell cell).chan 63 = _ from hc]; rfl
  rw [Cell.takesTraps, Cell.takesTraps, this]

theorem Ends.mailClash (h : Ends s u cell ctx) (c : Nat) : (u.cell cell).mailClash c = (s.cell cell).mailClash c := by
  obtain ⟨mb, st, -, hc⟩ := h.chan cell c
  exact State.mailClash_of_entries (h.entries cell) c (by rw [hc])

theorem Ends.of_cell (h : Ends s u cell ctx) {α : Type} (f : Cell → α) (hf : ∀ k c q, f { k.husk with claim := c, claimQ := q } = f k) (c : Nat) :
    f (u.cell c) = f (s.cell c) := by
  obtain ⟨a, q, hc⟩ := h.cell c
  rw [← hf (u.cell c) a q, hc]
  exact hf (s.cell c) (s.cell c).claim (s.cell c).claimQ

theorem Ends.rests (h : Ends s u cell ctx) : (u.ctx cell ctx).st = .free ∨ (u.ctx cell ctx).st = .trapPending := by
  rw [h.ended.1]; split
  · exact .inl rfl
  · exact .inr rfl

/-- A context at rest shows what of it waits. -/
theorem State.reRest_eq (h : (s.ctx cell ctx).st = .free ∨ (s.ctx cell ctx).st = .trapPending) :
    s.reRest cell ctx = s.setCtx cell ctx { s.ctx cell ctx with st := (s.ctx cell ctx).rest } := by
  unfold State.reRest; exact if_pos h

section
variable (h : Ends s u cell ctx) {i : TrapInfo} (hi : i.cell = cell ∧ i.ctx = ctx ∧ i.kmode = false) (code : Nat) (detail : Word)
include h hi

/-- A trap that channel 63 takes (R26). -/
theorem Ends.trap_sent (h63 : i.chan ≠ 63) (ht : (s.cell cell).takesTraps = true) (hr : (s.chan cell 63).room = true) :
    u.sendTrap i code detail = u.enqueue cell 63 (u.trapParcel i code detail) := by
  obtain ⟨hcell, hctx, hk⟩ := hi
  rw [← h.takesTraps] at ht
  rw [← h.room 63] at hr
  unfold State.sendTrap
  dsimp only
  rw [hcell, hctx, hk, ht]
  rw [if_neg (by decide), if_neg (by simp [h63])]
  exact if_pos hr

/-- One that waits in the pending-trap slot for room (R27). -/
theorem Ends.trap_waits (h63 : i.chan ≠ 63) (ht : (s.cell cell).takesTraps = true) (hr : (s.chan cell 63).room = false)
    (htrap : (s.ctx cell ctx).trap = none) :
    u.sendTrap i code detail = (u.setCtx cell ctx { u.ctx cell ctx with trap := some (u.trapParcel i code detail) }).reRest cell ctx := by
  obtain ⟨hcell, hctx, hk⟩ := hi
  rw [← h.takesTraps] at ht
  rw [← h.room 63] at hr
  have hx : ((u.cell cell).ctx ctx).trap = none := h.ended.2.1.trans htrap
  unfold State.sendTrap
  dsimp only
  rw [hcell, hctx, hk, ht]
  rw [if_neg (by decide), if_neg (by simp [h63]), if_neg (by rw [show ((u.cell cell).chan 63).room = false from hr]; decide), if_neg (by rw [hx]; decide)]
  rfl

/-- One that escalates (R26). -/
theorem Ends.trap_escalates (hno : i.chan = 63 ∨ (s.cell cell).takesTraps = false) :
    u.sendTrap i code detail = u.escalate i code detail := by
  obtain ⟨hcell, hctx, hk⟩ := hi
  rw [← h.takesTraps] at hno
  unfold State.sendTrap
  dsimp only
  rw [hcell, hk, if_neg (by decide), if_pos (by rcases hno with h | h <;> simp [h])]

end

/-- A context with a trap parcel or a record that waits is Trap-pending when it is at rest (R27). -/
theorem Ctx.rest_pending (x : Ctx) (h : x.trap ≠ none ∨ x.esc ≠ []) : x.rest = .trapPending := by
  unfold Ctx.rest
  rcases h with h | h
  · cases hx : x.trap with
    | none => exact absurd hx h
    | some p => rfl
  · cases hx : x.esc with
    | nil => exact absurd hx h
    | cons r rs => simp

/-- An escalation with no fault buffer leaves the record with the context (R26, R383). -/
theorem State.escalate_none {pid : Nat} (r : Record) (hb : (u.part pid).fbhdr = 0) (hr : (u.ctx cell ctx).st = .free ∨ (u.ctx cell ctx).st = .trapPending) :
    ∃ t, (u.deliver pid r (State.holdEsc cell ctx r)).reRest cell ctx = t ∧ (t.ctx cell ctx).esc = (u.ctx cell ctx).esc ++ [r] ∧ (t.ctx cell ctx).st = .trapPending := by
  refine ⟨_, rfl, ?_⟩
  have hx : (State.holdEsc cell ctx r u).ctx cell ctx = { u.ctx cell ctx with esc := (u.ctx cell ctx).esc ++ [r] } := by
    rw [State.holdEsc, State.setCtx_ctx, if_pos ⟨rfl, rfl⟩]
  rw [State.deliver_none _ _ _ _ hb, State.reRest_eq (by rw [hx]; exact hr), State.setCtx_ctx, if_pos ⟨rfl, rfl⟩, hx]
  exact ⟨rfl, Ctx.rest_pending _ (.inr (by simp))⟩

/-- WATCHDOG_EXPIRY of an invocation whose channel takes trap parcels (R25 to R27). -/
theorem watchdogSends (s : State) (cell ctx : Nat) (hk : (s.ctx cell ctx).kmode = false) (h63 : (s.ctx cell ctx).chan ≠ 63)
    (ht : (s.cell cell).takesTraps = true) :
    ((s.chan cell 63).room = true → (s.cell cell).mailClash 63 = false → ∃ p ms, ((s.serviceTrap cell ctx 0x20 0).chan cell 63).mailbox = ms ++ [p]
        ∧ ms.length = (s.chan cell 63).mailbox.length ∧ hType (parcelHdr p) = 0xFE ∧ hChan (parcelHdr p) = 63
        ∧ (vecBytes p).getD 8 0 = 0x20 ∧ (vecBytes p).getD 9 0 = BitVec.ofNat 8 ctx ∧ (vecBytes p).getD 10 0 = BitVec.ofNat 8 (s.ctx cell ctx).chan)
      ∧ ((s.chan cell 63).room = false → (s.ctx cell ctx).trap = none → ∃ p, ((s.serviceTrap cell ctx 0x20 0).ctx cell ctx).trap = some p
        ∧ ((s.serviceTrap cell ctx 0x20 0).ctx cell ctx).st = .trapPending ∧ hType (parcelHdr p) = 0xFE ∧ (vecBytes p).getD 8 0 = 0x20) := by
  have h := s.endInvocation_ends cell ctx true
  have hi : (s.trapInfo cell ctx).cell = cell ∧ (s.trapInfo cell ctx).ctx = ctx ∧ (s.trapInfo cell ctx).kmode = false := ⟨rfl, rfl, hk⟩
  unfold State.serviceTrap
  dsimp only
  generalize s.endInvocation cell ctx true = u at h ⊢
  obtain ⟨htype, hchan, h8, h9, h10⟩ := u.trapParcel_says (s.trapInfo cell ctx) 0x20 0
  refine ⟨fun hr hno => ?_, fun hr hx => ?_⟩
  · rw [h.trap_sent hi _ _ h63 ht hr]
    have hm := ((u.enqueue_takes cell 63 (u.trapParcel (s.trapInfo cell ctx) 0x20 0)).1.1 ((h.mailClash 63).trans hno)).1
    obtain ⟨mb, st, hl, hc⟩ := h.chan cell 63
    exact ⟨_, _, (congrArg Chan.mailbox hm), by rw [hc]; exact hl, htype, hchan, h8, h9, h10⟩
  · rw [h.trap_waits hi _ _ h63 ht hr hx]
    rw [State.reRest_eq (by rw [State.setCtx_ctx, if_pos ⟨rfl, rfl⟩]; exact h.rests), State.setCtx_ctx, if_pos ⟨rfl, rfl⟩, State.setCtx_ctx, if_pos ⟨rfl, rfl⟩]
    refine ⟨u.trapParcel (s.trapInfo cell ctx) 0x20 0, rfl, ?_, htype, h8⟩
    exact Ctx.rest_pending { u.ctx cell ctx with trap := some (u.trapParcel (s.trapInfo cell ctx) 0x20 0) } (.inl (Option.some_ne_none _))

/-- WATCHDOG_EXPIRY of an invocation whose trap escalates (R25, R26). -/
theorem watchdogEscalates (s : State) (cell ctx : Nat) (hk : (s.ctx cell ctx).kmode = false)
    (hno : (s.ctx cell ctx).chan = 63 ∨ (s.cell cell).takesTraps = false) :
    let u := s.endInvocation cell ctx true
    let x := s.ctx cell ctx
    let r := mkRecord 0x20 0 ctx x.chan (s.cell cell).lcell.toNat 6 0xFF 0 (x.ex.pc.setWidth 64) 0 x.phdr s.time 1 0
    s.serviceTrap cell ctx 0x20 0 = (u.deliver (s.cell cell).tag r (State.holdEsc cell ctx r)).reRest cell ctx := by
  have h := s.endInvocation_ends cell ctx true
  have hi : (s.trapInfo cell ctx).cell = cell ∧ (s.trapInfo cell ctx).ctx = ctx ∧ (s.trapInfo cell ctx).kmode = false := ⟨rfl, rfl, hk⟩
  intro u x r
  unfold State.serviceTrap
  dsimp only
  rw [h.trap_escalates hi _ _ hno]
  have htag : (u.cell cell).tag = (s.cell cell).tag := h.of_cell (·.tag) (fun _ _ _ => rfl) cell
  have hl : (u.cell cell).lcell = (s.cell cell).lcell := h.of_cell (·.lcell) (fun _ _ _ => rfl) cell
  have hr : u.escRecord (s.trapInfo cell ctx) 0x20 0 = r := by
    unfold State.escRecord
    rw [show (s.trapInfo cell ctx).cell = cell from rfl, hl, h.time]
    rfl
  unfold State.escalate
  rw [hr, show (s.trapInfo cell ctx).cell = cell from rfl, htag]
  rfl

/-- PENDING_TRAP_RETRY (R27). -/
theorem pendingTrapRetries (s : State) (cell ctx : Nat) (p : Vec) (hx : (s.ctx cell ctx).trap = some p) (he : (s.ctx cell ctx).esc = [])
    (hs : (s.ctx cell ctx).st = .trapPending) (ht : (s.cell cell).takesTraps = true) :
    ((s.chan cell 63).room = true → ∃ t, runs (.evPendingTrapRetry cell ctx) s t ∧ mailboxTakes s t cell 63 p ∧ (t.ctx cell ctx).trap = none ∧ (t.ctx cell ctx).st = .free)
    ∧ ((s.chan cell 63).room = false → runs (.evPendingTrapRetry cell ctx) s s) := by
  have hexec : execEvPendingTrapRetry cell ctx s = .next (if (s.chan cell 63).room then
      ((s.setCtx cell ctx { s.ctx cell ctx with trap := none }).reRest cell ctx).enqueue cell 63 p else s) := by
    unfold execEvPendingTrapRetry
    dsimp only
    rw [show ((s.cell cell).ctx ctx).trap = some p from hx]
    dsimp only
    rw [ht, if_neg (by decide)]
    rfl
  refine ⟨fun hr => ⟨_, hexec.trans (congrArg Host.Outcome.next (if_pos hr)), ?_⟩,
    fun hr => hexec.trans (congrArg Host.Outcome.next (if_neg (by rw [hr]; decide)))⟩
  have hrest : (s.setCtx cell ctx { s.ctx cell ctx with trap := none }).reRest cell ctx = s.setCtx cell ctx { s.ctx cell ctx with trap := none, st := .free } := by
    have h1 : (s.setCtx cell ctx { s.ctx cell ctx with trap := none }).ctx cell ctx = { s.ctx cell ctx with trap := none } := by
      rw [State.setCtx_ctx, if_pos ⟨rfl, rfl⟩]
    rw [State.reRest_eq (by rw [h1]; exact .inr hs), State.setCtx_setCtx, h1]
    have h2 : Ctx.rest { s.ctx cell ctx with trap := none } = .free := by unfold Ctx.rest; rw [he]; rfl
    rw [h2]
  rw [hrest]
  have hv : (s.setCtx cell ctx { s.ctx cell ctx with trap := none, st := .free }).ctx cell ctx = { s.ctx cell ctx with trap := none, st := .free } := by
    rw [State.setCtx_ctx, if_pos ⟨rfl, rfl⟩]
  have hch : ∀ k, (s.setCtx cell ctx { s.ctx cell ctx with trap := none, st := .free }).chan cell k = s.chan cell k := fun k => State.setCtx_chan ..
  have hcl : ((s.setCtx cell ctx { s.ctx cell ctx with trap := none, st := .free }).cell cell).mailClash 63 = (s.cell cell).mailClash 63 :=
    State.mailClash_of_entries (fun P _ => by rw [State.setCtx_chans]) 63 (by rw [hch])
  generalize s.setCtx cell ctx { s.ctx cell ctx with trap := none, st := .free } = v at hv hch hcl ⊢
  have htake := (v.enqueue_takes cell 63 p).1
  have hctx : ∀ {α : Type} (f : Ctx → α), (∀ x, f x.husk = f x) → f ((v.enqueue cell 63 p).ctx cell ctx) = f (v.ctx cell ctx) := fun f hf =>
    ((v.enqueue_winds cell 63 p).of_ctx f hf cell ctx).trans (by rw [State.setChan_ctx])
  refine ⟨?_, (hctx (·.trap) fun _ => rfl).trans (by rw [hv]), (hctx (·.st) fun _ => rfl).trans (by rw [hv])⟩
  unfold mailboxTakes at htake ⊢
  simp only [hch, hcl] at htake
  exact htake

/-- The n-th K-mode trap, f, is taken from Belvedere's queue and recorded with its code (R361). -/
def State.recorded (s : State) (n : Nat) (f : HypFault) : State :=
  (s.popHyp n).setPart f.part { s.part f.part with kevents := (s.part f.part).kevents ++ [f.code] }

theorem State.recorded_part (s : State) (n : Nat) (f : HypFault) : ((s.recorded n f).part f.part).kevents = (s.part f.part).kevents ++ [f.code] := by
  rw [State.recorded, State.setPart_part, if_pos rfl]

/-- KMODE_TRAP of a trap that is no service request (R339, R361). -/
theorem kmodeTraps (s : State) (n : Nat) (f : HypFault) (hf : s.hypFaults[n]? = some f) :
    (s.hypAway f = true → runs (.evKmodeTrap n) s s)
    ∧ (s.hypAway f = false → f.code ≠ 0x30 → ∃ t, runs (.evKmodeTrap n) s t ∧ t.hypFaults = s.hypFaults.eraseIdx n
      ∧ (t.part f.part).kevents = (s.part f.part).kevents ++ [f.code]
      ∧ (f.code.toNat < 0x20 ∨ 0x27 < f.code.toNat → (s.ctx f.cell f.ctx).st = .suspended → (s.ctx f.cell f.ctx).inv = f.inv →
          ((s.ctx f.cell f.ctx).eng f.eng).st = .faulted → ended s t f.cell f.ctx)) := by
  have hu := s.recorded_part n f
  refine ⟨fun ha => ?_, fun ha hc => ⟨if (s.recorded n f).hypLive f then (s.recorded n f).endInvocation f.cell f.ctx true else s.recorded n f, ?_, ?_⟩⟩
  · show execEvKmodeTrap n s = _
    unfold execEvKmodeTrap; rw [hf]; dsimp only; rw [if_pos ha]
  · show execEvKmodeTrap n s = _
    unfold execEvKmodeTrap; rw [hf]; dsimp only; rw [if_neg (by rw [ha]; decide), if_neg hc]; rfl
  · have h := (s.recorded n f).endInvocation_ends f.cell f.ctx true
    cases hl : (s.recorded n f).hypLive f with
    | true =>
      rw [if_pos rfl]
      obtain ⟨rs, m, hp⟩ := h.part f.part
      exact ⟨h.hypFaults, by rw [hp]; exact hu, fun _ _ _ _ => h.ended⟩
    | false =>
      refine ⟨rfl, hu, fun h1 h2 h3 h4 => ?_⟩
      have hlive : (s.recorded n f).hypLive f = true := by
        show (f.stops && (s.ctx f.cell f.ctx).st == .suspended && (s.ctx f.cell f.ctx).inv == f.inv && ((s.ctx f.cell f.ctx).eng f.eng).st == .faulted) = true
        rw [h2, h3, h4, HypFault.stops]
        simpa using h1
      rw [hlive] at hl; cases hl

/-- Settles O25. -/
theorem invocations : Obligations.Invocations := by
  unfold Obligations.Invocations
  refine ⟨fun k c top h => k.choose_spec c top h, fun s cell ctx c top pa hf hc hm hs hp => ?_, fun s cell ctx c top p rest hf hc hm hs hp => ?_,
    fun s cell h => ?_, fun s cell ctx h => ?_, fun s cell ctx hr hl => ?_, pendingTrapRetries, kmodeTraps⟩
  · have he := select_waits hf hc hs hm hp
    refine ⟨fun h => he.trans ?_, fun h => he.trans ?_⟩
    · rw [State.entryWaits, if_pos h]
    · rw [State.entryWaits, if_neg h]
  · obtain ⟨u, he, hctx, hrr, hkc, hwd, hlc, hchan⟩ := select_state hf hc hm hs hp
    obtain ⟨t, ht, htc, htr, hx⟩ := u.dispatch_spec cell c ctx p
    rw [hctx, hkc, hwd, hlc, hchan] at hx
    rw [hctx] at ht
    intro i h ent old wrongMode
    have hrun : runs i s (if wrongMode then t.serviceTrap cell ctx 0x21 0 else t) := he.trans (congrArg Host.Outcome.next ht)
    refine ⟨t, fun hw => by rwa [if_neg hw] at hrun, fun hw => by rwa [if_pos hw] at hrun, ?_, ?_, ?_, ?_, ?_, hx⟩
    · rw [htc, hchan]
      show (s.chan cell c).mailbox.drop 1 = rest
      rw [hm]; rfl
    · rw [htc, hchan]
    · rw [htc, hchan]
    · rw [htc, hchan]
    · rw [htr, hrr]
  · exact select_none h
  · exact ⟨_, congrArg Host.Outcome.next (if_pos h), (s.endInvocation_ends cell ctx false).ended⟩
  · have hrun : runs (.evWatchdogExpiry cell ctx) s (s.serviceTrap cell ctx 0x20 0) := congrArg Host.Outcome.next (if_pos ⟨hr, hl⟩)
    refine ⟨hrun, fun hk h63 ht => ?_, fun hk hno => ?_⟩
    · obtain ⟨hsent, hwait⟩ := watchdogSends s cell ctx hk h63 ht
      exact ⟨fun h1 h2 => ⟨_, (hsent h1 h2).choose, (hsent h1 h2).choose_spec.choose, hrun, (hsent h1 h2).choose_spec.choose_spec⟩,
        fun h1 h2 => ⟨_, (hwait h1 h2).choose, hrun, (hwait h1 h2).choose_spec⟩⟩
    · have h := s.endInvocation_ends cell ctx true
      have heq := watchdogEscalates s cell ctx hk hno
      intro u x r
      have hrun' := hrun
      rw [heq] at hrun'
      refine ⟨h.ended, hrun', fun hb => ?_⟩
      obtain ⟨rs, m, hp⟩ := h.part (s.cell cell).tag
      obtain ⟨t, ht, hesc, hst⟩ := State.escalate_none (u := u) (cell := cell) (ctx := ctx) r (pid := (s.cell cell).tag) (by rw [hp]; exact hb) h.rests
      exact ⟨t, ht ▸ hrun', hesc, hst⟩

end Sys2Proof.Machine
end

section
/-! The walk of a task over its partition's grid (R29, R357). -/

namespace Sys2Proof.Machine
open Sys2Proof Sys2Proof.Claims

/-! Coordinates of a grid of w columns. -/

section
variable {w l m hint : Nat}

theorem grid_ext (hx : l % w = m % w) (hy : l / w = m / w) : l = m := by
  rw [← Nat.div_add_mod l w, ← Nat.div_add_mod m w, hx, hy]

theorem grid_coords {x y : Nat} (h : l = y * w + x) (hx : x < w) : l % w = x ∧ l / w = y := by
  subst h
  rw [Nat.mul_add_mod', Nat.mod_eq_of_lt hx, Nat.add_comm, Nat.add_mul_div_right _ _ (by omega), Nat.div_eq_of_lt hx]
  exact ⟨rfl, Nat.zero_add y⟩

theorem grid_right (h : l % w + 1 < w) : (l + 1) % w = l % w + 1 ∧ (l + 1) / w = l / w :=
  grid_coords (by rw [← Nat.add_assoc, Nat.div_add_mod']) h

theorem grid_left (hw : 0 < w) (h : 0 < l % w) : (l - 1) % w = l % w - 1 ∧ (l - 1) / w = l / w := by
  have := Nat.div_add_mod' l w
  have := Nat.mod_lt l hw
  exact grid_coords (by omega) (by omega)

theorem grid_down (hw : 0 < w) : (l + w) % w = l % w ∧ (l + w) / w = l / w + 1 := ⟨Nat.add_mod_right l w, Nat.add_div_right l hw⟩

theorem grid_up (hw : 0 < w) (h : 0 < l / w) : (l - w) % w = l % w ∧ (l - w) / w = l / w - 1 := by
  have hle : w ≤ l := (Nat.div_pos_iff.1 h).2
  have hd := grid_down (l := l - w) hw
  rw [Nat.sub_add_cancel hle] at hd
  omega

theorem grid_row {h : Nat} (hl : l < w * h) : l / w < h := Nat.div_lt_of_lt_mul hl

/-! One step towards a hint. -/

/-- The number of steps between two positions. -/
def gridDist (w a b : Nat) : Nat := (a % w - b % w) + (b % w - a % w) + ((a / w - b / w) + (b / w - a / w))

theorem toward_self : toward w hint hint = hint := by unfold toward; simp

theorem toward_nearer (hw : 0 < w) (h : l ≠ hint) : gridDist w (toward w hint l) hint + 1 = gridDist w l hint := by
  have hlt := Nat.mod_lt hint hw
  have hext : l % w = hint % w → l / w ≠ hint / w := fun hx hy => h (grid_ext hx hy)
  have hr := grid_right (w := w) (l := l)
  have hl := grid_left (w := w) (l := l) hw
  have hd := grid_down (w := w) (l := l) hw
  have hu := grid_up (w := w) (l := l) hw
  unfold toward gridDist
  generalize l / w = y, hint / w = b, l % w = x, hint % w = a at *
  split
  · rw [(hr (by omega)).1, (hr (by omega)).2]; omega
  split
  · rw [(hl (by omega)).1, (hl (by omega)).2]; omega
  split
  · rw [hd.1, hd.2]; omega
  split
  · rw [(hu (by omega)).1, (hu (by omega)).2]; omega
  · exact absurd (by omega) (hext (by omega))

theorem toward_ne (hw : 0 < w) (h : l ≠ hint) : toward w hint l ≠ l := fun e => by
  have := toward_nearer hw h
  rw [e] at this; omega

/-- Over the whole grid a walk takes fewer steps than its columns and rows (R29). -/
theorem gridDist_lt {h : Nat} (hl : l < w * h) (hh : hint < w * h) : gridDist w l hint ≤ w + h := by
  have hw : 0 < w := Nat.pos_of_ne_zero fun e => by simp [e] at hl
  have := Nat.mod_lt l hw; have := Nat.mod_lt hint hw
  have := grid_row hl; have := grid_row hh
  unfold gridDist
  generalize l / w = y, hint / w = b at *
  omega

end

/-! A walk to its hint. -/

theorem Part.stepTo_succ (p : Part) (hint f l : Nat) : p.stepTo hint (f + 1) l =
    if toward p.gridW hint l = l ∨ (p.walkAt (toward p.gridW hint l)).isSome then toward p.gridW hint l else p.stepTo hint f (toward p.gridW hint l) := rfl

theorem Part.stepTo_hint (p : Part) (hint f : Nat) : p.stepTo hint f hint = hint := by
  cases f with
  | zero => rfl
  | succ f => rw [Part.stepTo_succ, toward_self, if_pos (.inl rfl)]

/-- A walk without ANY moves on to the next cell on its way to its hint, or to the hint (R29, R357). -/
theorem Part.stepTo_spec (p : Part) (hint : Nat) (hw : 0 < p.gridW) (f l : Nat) (hf : gridDist p.gridW l hint ≤ f) (hl : l ≠ hint) :
    ∃ k, 0 < k ∧ p.stepTo hint f l = (toward p.gridW hint)^[k] l ∧ (p.stepTo hint f l = hint ∨ p.walkAt (p.stepTo hint f l) ≠ none)
      ∧ ∀ j, 0 < j → j < k → (toward p.gridW hint)^[j] l ≠ hint ∧ p.walkAt ((toward p.gridW hint)^[j] l) = none := by
  induction f generalizing l with
  | zero => have := toward_nearer hw hl; omega
  | succ f ih =>
    have hd := toward_nearer hw hl
    rw [Part.stepTo_succ]
    by_cases hs : p.walkAt (toward p.gridW hint l) = none
    · rw [if_neg (by simp [hs, toward_ne hw hl])]
      by_cases hn : toward p.gridW hint l = hint
      · rw [hn, Part.stepTo_hint]
        exact ⟨1, Nat.one_pos, hn.symm, .inl rfl, fun j h0 h1 => by omega⟩
      · obtain ⟨k, hk, he, hstop, hbefore⟩ := ih _ (by omega) hn
        refine ⟨k + 1, Nat.succ_pos k, he, hstop, fun j h0 h1 => ?_⟩
        obtain ⟨j, rfl⟩ := Nat.exists_eq_succ_of_ne_zero h0.ne'
        rcases Nat.eq_zero_or_pos j with rfl | hj
        · exact ⟨hn, hs⟩
        · exact hbefore j hj (by omega)
    · rw [if_pos (.inr (Option.isSome_iff_ne_none.2 hs))]
      exact ⟨1, Nat.one_pos, rfl, .inr hs, fun j h0 h1 => by omega⟩

/-! A walk with ANY. -/

/-- The positions beside one, in rising order. -/
def Part.near (p : Part) (l : Nat) : List Nat :=
  (if 0 < l / p.gridW then [l - p.gridW] else []) ++ (if 0 < l % p.gridW then [l - 1] else [])
    ++ (if l % p.gridW + 1 < p.gridW then [l + 1] else []) ++ if l / p.gridW + 1 < p.gridH then [l + p.gridW] else []

theorem State.shallowest_eq (s : State) (pid l : Nat) : s.shallowest pid l =
    match (((s.part pid).near l).filter fun n => ((s.part pid).walkAt n).isSome).map fun n => (mget 0 (s.heardAt pid l) n, n) with
    | [] => none
    | d :: ds => some (ds.foldl (fun a b => if b.1 < a.1 then b else a) d).2 := rfl

theorem Part.mem_near (p : Part) (l m : Nat) : m ∈ p.near l ↔ (0 < l / p.gridW ∧ m = l - p.gridW) ∨ (0 < l % p.gridW ∧ m = l - 1)
    ∨ (l % p.gridW + 1 < p.gridW ∧ m = l + 1) ∨ (l / p.gridW + 1 < p.gridH ∧ m = l + p.gridW) := by
  unfold Part.near
  simp only [List.mem_append, or_assoc]
  refine or_congr ?_ (or_congr ?_ (or_congr ?_ ?_)) <;> split <;> simp [*]

theorem Part.mem_near_iff (p : Part) (l m : Nat) (hl : l < p.gridW * p.gridH) : m ∈ p.near l ↔ beside p.gridW p.gridH l m := by
  have hw : 0 < p.gridW := Nat.pos_of_ne_zero fun e => by simp [e] at hl
  have hrow := grid_row hl
  have hx := Nat.mod_lt l hw
  have hin : ∀ n, n / p.gridW < p.gridH → n < p.gridW * p.gridH := fun n h => by
    rw [Nat.mul_comm]; exact (Nat.div_lt_iff_lt_mul hw).1 h
  have hr := grid_right (w := p.gridW) (l := l)
  have hl' := grid_left (w := p.gridW) (l := l) hw
  have hd := grid_down (w := p.gridW) (l := l) hw
  have hu := grid_up (w := p.gridW) (l := l) hw
  rw [p.mem_near]
  unfold beside
  constructor
  · rintro (⟨h, rfl⟩ | ⟨h, rfl⟩ | ⟨h, rfl⟩ | ⟨h, rfl⟩)
    · refine ⟨hin _ ?_, .inl ⟨(hu h).1, .inl ?_⟩⟩ <;> rw [(hu h).2] <;> omega
    · refine ⟨hin _ ?_, .inr ⟨(hl' h).2, .inl ?_⟩⟩
      · rw [(hl' h).2]; exact hrow
      · rw [(hl' h).1]; omega
    · refine ⟨hin _ ?_, .inr ⟨(hr h).2, .inr (hr h).1.symm⟩⟩
      rw [(hr h).2]; exact hrow
    · exact ⟨hin _ (hd.2 ▸ h), .inl ⟨hd.1, .inr hd.2.symm⟩⟩
  · rintro ⟨hm, ⟨hx, h | h⟩ | ⟨hy, h | h⟩⟩
    · have h0 : 0 < l / p.gridW := h ▸ Nat.succ_pos _
      refine .inl ⟨h0, grid_ext (w := p.gridW) (hx.trans (hu h0).1.symm) ?_⟩
      rw [(hu h0).2, ← h]; rfl
    · exact .inr (.inr (.inr ⟨h ▸ grid_row hm, grid_ext (w := p.gridW) (hx.trans hd.1.symm) (h.symm.trans hd.2.symm)⟩))
    · have h0 : 0 < l % p.gridW := h ▸ Nat.succ_pos _
      refine .inr (.inl ⟨h0, grid_ext (w := p.gridW) ?_ (hy.trans (hl' h0).2.symm)⟩)
      rw [(hl' h0).1, ← h]; rfl
    · have h0 : l % p.gridW + 1 < p.gridW := h ▸ Nat.mod_lt m hw
      exact .inr (.inr (.inl ⟨h0, grid_ext (w := p.gridW) (h.symm.trans (hr h0).1.symm) (hy.trans (hr h0).2.symm)⟩))

theorem Part.near_rises (p : Part) (l : Nat) : (p.near l).Pairwise (· < ·) := by
  unfold Part.near
  rcases Nat.eq_zero_or_pos p.gridW with hw | hw
  · rw [hw, Nat.div_zero, Nat.mod_zero, if_neg (Nat.lt_irrefl 0), List.nil_append, if_neg (Nat.not_lt_zero _), List.append_nil]
    split <;> split <;> simp
    omega
  have := Nat.div_add_mod' l p.gridW
  have hle : 0 < l / p.gridW → p.gridW ≤ l := fun h => (Nat.div_pos_iff.1 h).2
  have hx := Nat.mod_lt l hw
  have hx' := Nat.mod_le l p.gridW
  split <;> split <;> split <;> split <;> simp <;> omega

/-- The first of the lowest of a list of numbered depths that rises in its numbers. -/
theorem foldl_lowest (ds : List (Nat × Nat)) (d : Nat × Nat) (h : (d :: ds).Pairwise fun a b => a.2 < b.2) :
    let r := ds.foldl (fun a b => if b.1 < a.1 then b else a) d
    r ∈ d :: ds ∧ ∀ b ∈ d :: ds, r.1 < b.1 ∨ (r.1 = b.1 ∧ r.2 ≤ b.2) := by
  induction ds generalizing d with
  | nil => simp
  | cons b ds ih =>
    obtain ⟨hd, hb, hds⟩ : (∀ a ∈ b :: ds, d.2 < a.2) ∧ (∀ a ∈ ds, b.2 < a.2) ∧ ds.Pairwise fun a b => a.2 < b.2 :=
      ⟨(List.pairwise_cons.1 h).1, List.pairwise_cons.1 (List.pairwise_cons.1 h).2⟩
    rw [List.foldl_cons]
    by_cases hlt : b.1 < d.1
    · rw [if_pos hlt]
      obtain ⟨hr, hlow⟩ := ih b (List.pairwise_cons.2 ⟨hb, hds⟩)
      refine ⟨List.mem_cons_of_mem _ hr, fun a ha => ?_⟩
      rcases List.mem_cons.1 ha with rfl | ha
      · have := hlow b List.mem_cons_self; omega
      · exact hlow a ha
    · rw [if_neg hlt]
      obtain ⟨hr, hlow⟩ := ih d (List.pairwise_cons.2 ⟨fun a ha => hd a (List.mem_cons_of_mem _ ha), hds⟩)
      refine ⟨?_, fun a ha => ?_⟩
      · rcases List.mem_cons.1 hr with h | h
        · rw [h]; exact List.mem_cons_self
        · exact List.mem_cons_of_mem _ (List.mem_cons_of_mem _ h)
      · have h0 := hlow d List.mem_cons_self
        rcases List.mem_cons.1 ha with rfl | ha
        · exact h0
        rcases List.mem_cons.1 ha with rfl | ha
        · have := hd a List.mem_cons_self; omega
        · exact hlow a (List.mem_cons_of_mem _ ha)

theorem advertised_eq (s : State) (pid l m : Nat) :
    advertised s pid l m = if ((s.part pid).walkAt m).isSome then some (mget 0 (s.heardAt pid l) m) else none := by
  unfold advertised State.heardAt
  cases (s.part pid).walkAt m with
  | none => rfl
  | some a => cases (s.part pid).walkAt l with
    | none => rfl
    | some b => cases b <;> rfl

/-- A walk with ANY moves on to the shallowest neighbour, ties to the lower number (R29). -/
theorem State.shallowest_spec (s : State) (pid l : Nat) (hl : l < (s.part pid).gridW * (s.part pid).gridH) :
    let p := s.part pid
    let next := (s.shallowest pid l).getD l
    ((∀ m, beside p.gridW p.gridH l m → advertised s pid l m = none) → next = l)
    ∧ ((∃ m, beside p.gridW p.gridH l m ∧ advertised s pid l m ≠ none) → beside p.gridW p.gridH l next ∧ ∃ d, advertised s pid l next = some d
        ∧ ∀ m e, beside p.gridW p.gridH l m → advertised s pid l m = some e → d < e ∨ (d = e ∧ next ≤ m)) := by
  intro p next
  have hmem : ∀ m, beside p.gridW p.gridH l m ↔ m ∈ p.near l := fun m => (p.mem_near_iff l m hl).symm
  simp only [advertised_eq, hmem]
  have hnext : next = (s.shallowest pid l).getD l := rfl
  rw [State.shallowest_eq] at hnext
  have hrise : ((((s.part pid).near l).filter fun n => ((s.part pid).walkAt n).isSome).map fun n => (mget 0 (s.heardAt pid l) n, n)).Pairwise
      fun a b => a.2 < b.2 := List.pairwise_map.2 ((p.near_rises l).filter _)
  have hin : ∀ b, b ∈ ((((s.part pid).near l).filter fun n => ((s.part pid).walkAt n).isSome).map fun n => (mget 0 (s.heardAt pid l) n, n)) ↔
      ∃ n, n ∈ p.near l ∧ (p.walkAt n).isSome ∧ b = (mget 0 (s.heardAt pid l) n, n) := fun b => by
    simp only [List.mem_map, List.mem_filter, and_assoc, eq_comm]; rfl
  generalize ((((s.part pid).near l).filter fun n => ((s.part pid).walkAt n).isSome).map fun n => (mget 0 (s.heardAt pid l) n, n)) = ds at hnext hrise hin
  cases ds with
  | nil =>
    refine ⟨fun _ => hnext, fun ⟨m, hm, hs⟩ => ?_⟩
    split at hs
    · next h => exact absurd ((hin _).2 ⟨m, hm, h, rfl⟩) List.not_mem_nil
    · exact absurd rfl hs
  | cons d ds =>
    obtain ⟨hr, hlow⟩ := foldl_lowest ds d hrise
    obtain ⟨n, hn, hsome, he⟩ := (hin _).1 hr
    have hnn : next = n := hnext.trans (congrArg Prod.snd he)
    rw [he] at hlow
    refine ⟨fun hno => ?_, fun _ => ?_⟩
    · have := hno n hn
      rw [if_pos hsome] at this; cases this
    · rw [hnn]
      refine ⟨hn, _, if_pos hsome, fun m e hm hadv => ?_⟩
      split at hadv
      · next h =>
        cases hadv
        exact hlow _ ((hin _).2 ⟨m, hm, h, rfl⟩)
      · cases hadv

/-- A task that walks on (R29, R357). -/
theorem State.walkOn_walks (s : State) (t : TaskFlight) (hend : ¬t.atEnd (s.part t.part) = true)
    (ha : t.at_ < (s.part t.part).gridW * (s.part t.part).gridH) (hh : t.hint < (s.part t.part).gridW * (s.part t.part).gridH) :
    ∃ next, walksTo s t next
      ∧ (s.walkOn t).tasks = s.tasks.map fun x => if x.id = t.id then { t with at_ := next, steps := t.steps + 1 } else x := by
  refine ⟨if t.any then (s.shallowest t.part t.at_).getD t.at_ else (s.part t.part).stepTo t.hint ((s.part t.part).gridW + (s.part t.part).gridH) t.at_,
    ⟨fun hany => ?_, fun hany => ?_⟩, ?_⟩
  · rw [if_pos hany]; exact s.shallowest_spec t.part t.at_ ha
  · rw [if_neg (by rw [hany]; decide)]
    refine Part.stepTo_spec _ _ (Nat.pos_of_ne_zero fun e => by simp [e] at ha) _ _ (gridDist_lt ha hh) fun e => hend ?_
    unfold TaskFlight.atEnd; simp [hany, e]
  · unfold State.walkOn State.setTask; simp only [beq_iff_eq]

end Sys2Proof.Machine
end

section
/-! Tasks that arrive, and the local queue (R29 to R31, R278). -/

namespace Sys2Proof.Machine
open Sys2Proof Sys2Proof.Claims

variable {s u v : State} {t : TaskFlight} {n cell : Nat}

/-! A task leaves its sender (R15). -/

/-- A freed slot changes one context alone. -/
theorem State.freeSlotOf_of_cell {α : Type} (f : Cell → α) (hf : ∀ (k : Cell) xs, f { k with ctxs := xs } = f k) (s : State) (i : Issuer) (id c : Nat) :
    f ((s.freeSlotOf i id).cell c) = f (s.cell c) := by
  unfold State.freeSlotOf
  split
  · rw [State.setCtx, State.setCell_cell]; split
    · next h => subst h; exact hf _ _
    · rfl
  · rfl

theorem State.dropTask_of_cell {α : Type} (f : Cell → α) (hf : ∀ (k : Cell) xs, f { k with ctxs := xs } = f k) (s : State) (t : TaskFlight) (c : Nat) :
    f ((s.dropTask t).cell c) = f (s.cell c) := State.freeSlotOf_of_cell f hf _ _ _ _

theorem State.dropTask_hypEvents : (s.dropTask t).hypEvents = s.hypEvents := by
  unfold State.dropTask State.freeSlotOf; split <;> rfl

/-- A task leaves, on a state that has the tasks, the issuers and their slots of s. -/
theorem State.dropTask_leaves (ht : v.tasks = s.tasks) (hi : v.issuerCell t.issuer = s.issuerCell t.issuer)
    (ho : ∀ c, (v.ctx c t.issuer.ctx).out = (s.ctx c t.issuer.ctx).out) : taskLeaves s (v.dropTask t) t := by
  refine ⟨?_, fun c hc => ?_⟩
  · unfold State.dropTask State.freeSlotOf
    rw [← ht]; split <;> rfl
  · have h : ({ v with tasks := v.tasks.filter fun u => u.id != t.id } : State).issuerCell t.issuer = some c := hi.trans hc
    unfold State.dropTask
    rw [State.freeSlotOf_ctx h]
    exact congrArg (List.filter _) (ho c)

theorem State.refuseTask_refused (i : Instr) (status : Nat) (h : runs i s (s.refuseTask t status)) : taskRefused s i t status :=
  ⟨s.dropTask t, State.dropTask_leaves rfl rfl fun _ => rfl, State.dropTask_hypEvents, h⟩

theorem mailboxTakes_congr {c : Nat} {p : Vec} (h : mailboxTakes s u cell c p) (hc : ∀ k, v.chan cell k = u.chan cell k) : mailboxTakes s v cell c p := by
  unfold mailboxTakes at h ⊢
  simpa only [hc] using h

/-! Arrival (R29, R278, R355, R357). -/

section
variable (ht : s.tasks[n]? = some t)
include ht

theorem task_away (ha : s.issuerAway t.issuer = true) : execEvTaskParcelArrive n s = .next s := by
  unfold execEvTaskParcelArrive; rw [ht]; dsimp only; rw [if_pos ha]

variable (ha : s.issuerAway t.issuer = false)
include ha

theorem task_noCell (hw : (s.part t.part).walkAt t.at_ = none) :
    execEvTaskParcelArrive n s = .next (if t.atEnd (s.part t.part) then s.refuseTask t 4 else s.walkOn t) := by
  unfold execEvTaskParcelArrive; rw [ht]; dsimp only; rw [ha, hw]; rfl

theorem task_evicted (hw : (s.part t.part).walkAt t.at_ = some none) :
    execEvTaskParcelArrive n s = .next (if t.atEnd (s.part t.part) then s.setTask { t with waits := true } else s.walkOn t) := by
  unfold execEvTaskParcelArrive; rw [ht]; dsimp only; rw [ha, hw]; rfl

variable (hw : (s.part t.part).walkAt t.at_ = some (some cell))
include hw

theorem task_wrongPart (hp : (s.cell cell).tag ≠ t.part) :
    execEvTaskParcelArrive n s = .next ((s.hypEvent (.dropped (parcelHdr t.parcel) cell)).refuseTask t 4) := by
  unfold execEvTaskParcelArrive; rw [ht]; dsimp only; rw [ha, hw]
  exact congrArg Host.Outcome.next (if_pos hp)

theorem task_atCell (hp : (s.cell cell).tag = t.part) : execEvTaskParcelArrive n s = .next (
    if !t.waits && t.near (s.part t.part).gridW && (s.cell cell).takesTask t.parcel then
      (s.enqueue cell (hChan (parcelHdr t.parcel)) (withDest t.parcel t.at_)).dropTask t
    else if t.atEnd (s.part t.part) then s.queueTask t cell else s.walkOn t) := by
  unfold execEvTaskParcelArrive; rw [ht]; dsimp only; rw [ha, hw]
  exact congrArg Host.Outcome.next (if_neg (not_not.2 hp))

end

/-! The end of a walk (R29, R31, R278). -/

theorem State.queueTask_refuses (h : (s.cell cell).accepts t.parcel = false) :
    s.queueTask t cell = s.refuseTask t ((s.cell cell).refusesTask t.parcel) := by
  unfold State.queueTask; dsimp only; rw [h]; rfl

theorem State.queueTask_waits (h : (s.cell cell).accepts t.parcel = true) (hl : 64 ≤ (s.cell cell).taskq.length) :
    s.queueTask t cell = s.setTask { t with waits := true } := by
  unfold State.queueTask; dsimp only; rw [h]; exact if_pos hl

theorem State.queueTask_joins (h : (s.cell cell).accepts t.parcel = true) (hl : (s.cell cell).taskq.length < 64) :
    s.queueTask t cell = (s.setCell cell { s.cell cell with taskq := (s.cell cell).taskq ++ [t.parcel] }).dropTask t := by
  unfold State.queueTask; dsimp only; rw [h]; exact if_neg (not_le.2 hl)

theorem State.enqueue_tasks (s : State) (cell chan : Nat) (p : Vec) : (s.enqueue cell chan p).tasks = s.tasks :=
  show (s.enqueue cell chan p).bare.tasks = s.bare.tasks from congrArg State.tasks (s.enqueue_bare cell chan p)

/-- An enqueue keeps the issuers and the outbound slots. -/
theorem State.enqueue_issuers (s : State) (cell c : Nat) (p : Vec) (i : Issuer) : (s.enqueue cell c p).issuerCell i = s.issuerCell i
    ∧ ∀ a k, ((s.enqueue cell c p).ctx a k).out = (s.ctx a k).out := by
  have hw := s.enqueue_winds cell c p
  refine ⟨issuerCell_of (by rw [hw.part]; rfl) fun a => ?_, fun a k => ?_⟩
  · refine (hw.of_cell (·.tag) (fun _ => rfl) a).trans ?_
    rw [State.setChan, State.setCell_cell]; split
    · next h => subst h; rfl
    · rfl
  · exact (hw.of_ctx (·.out) (fun _ => rfl) a k).trans (by rw [State.setChan_ctx])

/-- TASK_PARCEL_ARRIVE (R29, R30, R278, R355, R357). -/
theorem taskArrives (s : State) (n : Nat) (t : TaskFlight) (ht : s.tasks[n]? = some t) :
    let i : Instr := .evTaskParcelArrive n
    let p := s.part t.part
    let ends := t.atEnd p = true
    let goes := t.at_ < p.gridW * p.gridH → t.hint < p.gridW * p.gridH → ∃ u next, runs i s u ∧ walksTo s t next
        ∧ u.tasks = s.tasks.map fun x => if x.id = t.id then { t with at_ := next, steps := t.steps + 1 } else x
    let stays := ∃ u, runs i s u ∧ u.tasks = s.tasks.map fun x => if x.id = t.id then { t with waits := true } else x
    (s.issuerAway t.issuer = true → runs i s s)
    ∧ (s.issuerAway t.issuer = false →
      (p.walkAt t.at_ = none → (ends → taskRefused s i t 4) ∧ (¬ends → goes))
      ∧ (p.walkAt t.at_ = some none → (ends → stays) ∧ (¬ends → goes))
      ∧ ∀ cell, p.walkAt t.at_ = some (some cell) →
        let k := s.cell cell
        let c := hChan (parcelHdr t.parcel)
        let take := t.waits = false ∧ t.near p.gridW = true ∧ k.takesTask t.parcel = true
        (k.tag ≠ t.part → ∃ u : State, taskLeaves s u t ∧ u.hypEvents = s.hypEvents ++ [.dropped (parcelHdr t.parcel) cell]
          ∧ runs i s (u.refusalTrap t.issuer 4 (parcelHdr t.parcel)))
        ∧ (k.tag = t.part →
          (take → ∃ u, runs i s u ∧ mailboxTakes s u cell c (withDest t.parcel t.at_) ∧ taskLeaves s u t)
          ∧ (¬take → ends → k.accepts t.parcel = false → taskRefused s i t (if 63 < c ∨ entBound (k.chan c).entry = false then 3 else 2))
          ∧ (¬take → ends → k.accepts t.parcel = true →
            (k.taskq.length < 64 → ∃ u, runs i s u ∧ (u.cell cell).taskq = k.taskq ++ [t.parcel] ∧ taskLeaves s u t) ∧ (64 ≤ k.taskq.length → stays))
          ∧ (¬take → ¬ends → goes))) := by
  intro i p ends goes stays
  have hgoes : ¬ends → runs i s (s.walkOn t) → goes := fun he hr ha hh => by
    obtain ⟨next, hn, hts⟩ := s.walkOn_walks t he ha hh
    exact ⟨_, next, hr, hn, hts⟩
  have hstays : runs i s (s.setTask { t with waits := true }) → stays := fun hr => ⟨_, hr, by unfold State.setTask; simp only [beq_iff_eq]⟩
  refine ⟨fun ha => task_away ht ha, fun ha => ⟨fun hw => ?_, fun hw => ?_, fun cell hw => ?_⟩⟩
  · have hr := task_noCell ht ha hw
    exact ⟨fun he => State.refuseTask_refused i 4 (by rwa [if_pos he] at hr), fun he => hgoes he (by rwa [if_neg he] at hr)⟩
  · have hr := task_evicted ht ha hw
    exact ⟨fun he => hstays (by rwa [if_pos he] at hr), fun he => hgoes he (by rwa [if_neg he] at hr)⟩
  · intro k c take
    refine ⟨fun hp => ⟨(s.hypEvent (.dropped (parcelHdr t.parcel) cell)).dropTask t, ?_, State.dropTask_hypEvents, task_wrongPart ht ha hw hp⟩, fun hp => ?_⟩
    · exact State.dropTask_leaves (by rfl) (issuerCell_of rfl fun _ => rfl) fun _ => rfl
    have hr := task_atCell ht ha hw hp
    have htake : (!t.waits && t.near (s.part t.part).gridW && (s.cell cell).takesTask t.parcel) = true ↔ take := by
      simp only [Bool.and_eq_true, Bool.not_eq_true', and_assoc]; rfl
    have hq : ¬take → ends → runs i s (s.queueTask t cell) := fun h1 h2 => by
      rwa [if_neg (htake.not.2 h1), if_pos h2] at hr
    refine ⟨fun h => ?_, fun h he hacc => ?_, fun h he hacc => ?_, fun h he => hgoes he (by rwa [if_neg (htake.not.2 h), if_neg he] at hr)⟩
    · rw [if_pos (htake.2 h)] at hr
      obtain ⟨hi, ho⟩ := s.enqueue_issuers cell c (withDest t.parcel t.at_) t.issuer
      refine ⟨_, hr, mailboxTakes_congr (s.enqueue_takes cell c _).1 fun k => ?_, State.dropTask_leaves ?_ hi fun a => ho a _⟩
      · exact State.dropTask_of_cell (·.chan k) (fun _ _ => rfl) _ _ _
      · exact s.enqueue_tasks cell c _
    · have := State.refuseTask_refused i _ (State.queueTask_refuses hacc ▸ hq h he)
      unfold Cell.refusesTask at this
      simpa only [Bool.not_eq_true'] using this
    · refine ⟨fun hlt => ?_, fun hge => hstays (State.queueTask_waits hacc hge ▸ hq h he)⟩
      have hcell : ∀ {α : Type} (f : Cell → α), (∀ (k : Cell) q, f { k with taskq := q } = f k) → ∀ a,
          f ((s.setCell cell { s.cell cell with taskq := (s.cell cell).taskq ++ [t.parcel] }).cell a) = f (s.cell a) := fun f hf a => by
        rw [State.setCell_cell]; split
        · next h => subst h; exact hf _ _
        · rfl
      refine ⟨_, State.queueTask_joins hacc hlt ▸ hq h he, ?_, ?_⟩
      · refine (State.dropTask_of_cell (·.taskq) (fun _ _ => rfl) _ _ _).trans ?_
        rw [State.setCell_cell, if_pos rfl]
      · exact State.dropTask_leaves (by rfl) (issuerCell_of rfl fun a => hcell (·.tag) (fun _ _ => rfl) a)
          fun a => hcell (fun k => (k.ctx t.issuer.ctx).out) (fun _ _ => rfl) a

/-! The local queue (R30, R31, R278). -/

theorem lfind_none {α : Type} {f : α → Bool} {l : List α} (h : ∀ a ∈ l, f a = false) : lfind f l = none := by
  induction l with
  | nil => rfl
  | cons a l ih =>
    rw [lfind, if_neg (by rw [h a List.mem_cons_self]; decide), ih fun b hb => h b (List.mem_cons_of_mem _ hb)]; rfl

/-- TASK_QUEUE_TO_MAILBOX. -/
theorem queueToMailbox (s : State) (cell : Nat) :
    (∀ n p, lfind (s.cell cell).takesTask (s.cell cell).taskq = some (n, p) → ∃ t, runs (.evTaskQueueToMailbox cell) s t
        ∧ (t.cell cell).taskq = (s.cell cell).taskq.eraseIdx n ∧ mailboxTakes s t cell (hChan (parcelHdr p)) (withDest p (s.cell cell).lcell.toNat))
      ∧ ((∀ p ∈ (s.cell cell).taskq, (s.cell cell).takesTask p = false) → runs (.evTaskQueueToMailbox cell) s s) := by
  refine ⟨fun n p hf => ?_, fun hno => ?_⟩
  · have hcell : (s.setCell cell { s.cell cell with taskq := (s.cell cell).taskq.eraseIdx n }).cell cell = { s.cell cell with taskq := (s.cell cell).taskq.eraseIdx n } := by
      rw [State.setCell_cell, if_pos rfl]
    refine ⟨(s.setCell cell { s.cell cell with taskq := (s.cell cell).taskq.eraseIdx n }).enqueue cell (hChan (parcelHdr p)) (withDest p (s.cell cell).lcell.toNat),
      ?_, ?_, ?_⟩
    · show execEvTaskQueueToMailbox cell s = _
      unfold execEvTaskQueueToMailbox
      dsimp only
      rw [hf]
    · refine ((State.enqueue_winds _ cell _ _).of_cell (·.taskq) (fun _ => rfl) cell).trans ?_
      dsimp only
      rw [State.setChan, State.setCell_cell, if_pos rfl]
      exact congrArg Cell.taskq hcell
    · have := (State.enqueue_takes (s.setCell cell { s.cell cell with taskq := (s.cell cell).taskq.eraseIdx n }) cell (hChan (parcelHdr p))
        (withDest p (s.cell cell).lcell.toNat)).1
      unfold mailboxTakes State.chan at this ⊢
      rw [hcell] at this
      exact this
  · show execEvTaskQueueToMailbox cell s = _
    unfold execEvTaskQueueToMailbox
    dsimp only
    rw [lfind_none hno]

end Sys2Proof.Machine
end

section
/-! Balancing of tasks (R31, R40, R278, R355). -/

namespace Sys2Proof.Machine
open Sys2Proof Sys2Proof.Claims

variable {s u v : State} {cell : Nat}

/-! An update of each of a list of cells. -/

section
variable {β : Type} (g : β → Nat) (f : β → Cell → Cell)

/-- Each of a list of cells is updated. -/
def State.updateCells (s : State) (l : List β) : State := l.foldl (fun s n => s.setCell (g n) (f n (s.cell (g n)))) s

theorem State.updateCells_rest (s : State) (l : List β) : { s.updateCells g f l with cells := s.cells } = s :=
  foldl_keeps (fun t : State => { t with cells := s.cells } = s) _ l s rfl fun _ _ h => h

/-- What the update keeps of a cell. -/
theorem State.updateCells_keeps {α : Type} (P : Cell → α) (hP : ∀ n k, P (f n k) = P k) (s : State) (l : List β) (c : Nat) :
    P ((s.updateCells g f l).cell c) = P (s.cell c) := by
  refine foldl_keeps (fun t : State => P (t.cell c) = P (s.cell c)) _ l s rfl fun t n h => ?_
  rw [State.setCell_cell]; split
  · next e => rw [hP, e, h]
  · exact h

theorem State.updateCells_other (s : State) (l : List β) (c : Nat) (h : ∀ n ∈ l, g n ≠ c) : (s.updateCells g f l).cell c = s.cell c := by
  induction l generalizing s with
  | nil => rfl
  | cons a l ih =>
    refine (ih _ fun n hn => h n (List.mem_cons_of_mem _ hn)).trans ?_
    rw [State.setCell_cell, if_neg (h a List.mem_cons_self)]

/-- What every update gives, each of the cells has. -/
theorem State.updateCells_gives (Q : Cell → Prop) (hQ : ∀ n k, Q (f n k)) (s : State) (l : List β) (n : β) (hn : n ∈ l) :
    Q ((s.updateCells g f l).cell (g n)) := by
  induction l generalizing s with
  | nil => cases hn
  | cons a l ih =>
    rcases List.mem_cons.1 hn with rfl | hn
    · refine foldl_keeps (fun t : State => Q (t.cell (g n))) _ l _ ?_ fun t m h => ?_
      · rw [State.setCell_cell, if_pos rfl]; exact hQ _ _
      · rw [State.setCell_cell]; split
        · exact hQ _ _
        · exact h
    · exact ih _ hn

end

/-! Queue depths and the tasks that move (R31). -/

theorem State.advertise_eq (s : State) (cell : Nat) : s.advertise cell =
    s.updateCells Prod.snd (fun _ k => k.hear (s.cell cell).lcell.toNat (s.cell cell).taskq.length)
      (s.neighbours (s.cell cell).tag (s.cell cell).lcell.toNat) := rfl

/-- Tasks leave a cell's queue, the newest of several equal ones first, towards a neighbour. -/
def State.moveTasks (s : State) (cell dst : Nat) (ok : List Vec) : State :=
  let k := s.cell cell
  if ok.isEmpty then s
  else { s.setCell cell { k with taskq := ok.foldl (fun (q : List Vec) p => (q.reverse.erase p).reverse) k.taskq } with
    transfers := s.transfers ++ [⟨k.tag, cell, dst, ok.reverse, []⟩] }

/-- One neighbour's part of a balance interval: the newest tasks that it accepts move to it when its queue is shallower. -/
def State.pushTasks (cell : Nat) (s : State) (n : Nat × Nat) : State :=
  let k := s.cell cell
  let theirs := mget 0 k.heard n.1
  if theirs + (s.part k.tag).threshold < k.taskq.length then
    s.moveTasks cell n.2 ((k.taskq.reverse.filter (s.cell n.2).accepts).take (min 4 ((k.taskq.length - theirs) / 2)))
  else s

theorem balanceInterval_eq (cell : Nat) (s : State) : execEvTaskBalanceInterval cell s =
    .next (((s.advertise cell).neighbours (s.cell cell).tag (s.cell cell).lcell.toNat).foldl (State.pushTasks cell) (s.advertise cell)) := by
  unfold execEvTaskBalanceInterval
  dsimp only
  congr 2

theorem State.moveTasks_none (dst : Nat) : s.moveTasks cell dst [] = s := rfl

theorem State.moveTasks_cell (s : State) (cell dst : Nat) {ok : List Vec} (h : ok ≠ []) (c : Nat) : (s.moveTasks cell dst ok).cell c =
    if cell = c then { s.cell cell with taskq := ok.foldl (fun (q : List Vec) p => (q.reverse.erase p).reverse) (s.cell cell).taskq } else s.cell c := by
  unfold State.moveTasks
  dsimp only
  rw [if_neg (by simpa using h)]
  exact State.setCell_cell ..

theorem State.moveTasks_transfers (s : State) (cell dst : Nat) {ok : List Vec} (h : ok ≠ []) :
    (s.moveTasks cell dst ok).transfers = s.transfers ++ [⟨(s.cell cell).tag, cell, dst, ok.reverse, []⟩] := by
  unfold State.moveTasks
  dsimp only
  rw [if_neg (by simpa using h)]

theorem State.moveTasks_heard (s : State) (dst : Nat) (ok : List Vec) (c : Nat) : ((s.moveTasks cell dst ok).cell c).heard = (s.cell c).heard := by
  by_cases h : ok = []
  · rw [h]; rfl
  · rw [State.moveTasks_cell s cell dst h]; split
    · next h => subst h; rfl
    · rfl

theorem State.pushTasks_heard (s : State) (n : Nat × Nat) (c : Nat) : ((s.pushTasks cell n).cell c).heard = (s.cell c).heard := by
  unfold State.pushTasks
  dsimp only
  split
  · exact State.moveTasks_heard ..
  · rfl

theorem State.pushTasks_none (n : Nat × Nat)
    (h : (s.cell cell).taskq.length ≤ mget 0 (s.cell cell).heard n.1 + (s.part (s.cell cell).tag).threshold) : s.pushTasks cell n = s :=
  if_neg (not_lt.2 h)

/-- Tasks leave a queue, the newest of several equal ones first. -/
theorem foldl_eraseLast (ok q : List Vec) : ok.foldl (fun (q : List Vec) p => (q.reverse.erase p).reverse) q = (q.reverse.diff ok).reverse := by
  induction ok generalizing q with
  | nil => simp
  | cons p ok ih => rw [List.foldl_cons, ih, List.reverse_reverse, List.diff_cons]

/-- The tasks that stay and those that leave are the queue's. -/
theorem eraseLast_splits (ok q : List Vec) (h : ok.Sublist q.reverse) :
    (((q.reverse.diff ok).reverse) ++ ok.reverse).Perm q ∧ (q.reverse.diff ok).reverse.Sublist q := by
  have hp := List.subperm_append_diff_self_of_count_le (l₁ := ok) (l₂ := q.reverse) fun x _ => h.count_le x
  have hs := (List.diff_sublist q.reverse ok).reverse
  rw [List.reverse_reverse] at hs
  refine ⟨?_, hs⟩
  rw [← List.reverse_append]
  exact (List.reverse_perm _).trans (hp.trans (List.reverse_perm _))

/-- The newest tasks that the neighbour accepts move, at most 4 and at most half the difference (R31). -/
theorem State.pushTasks_some (n : Nat × Nat) (k : Cell) (hk : s.cell cell = k)
    (h : mget 0 k.heard n.1 + (s.part k.tag).threshold < k.taskq.length) :
    let m := (((k.taskq.filter (s.cell n.2).accepts).reverse).take (min 4 ((k.taskq.length - mget 0 k.heard n.1) / 2))).reverse
    (s.pushTasks cell n).transfers = s.transfers ++ (if m = [] then [] else [⟨k.tag, cell, n.2, m, []⟩])
        ∧ (((s.pushTasks cell n).cell cell).taskq ++ m).Perm k.taskq ∧ ((s.pushTasks cell n).cell cell).taskq.Sublist k.taskq := by
  subst hk
  have ht : s.pushTasks cell n = _ := if_pos h
  rw [ht, List.filter_reverse]
  have hsub : (((s.cell cell).taskq.filter (s.cell n.2).accepts).reverse.take (min 4 (((s.cell cell).taskq.length - mget 0 (s.cell cell).heard n.1) / 2))).Sublist
      (s.cell cell).taskq.reverse := (List.take_sublist _ _).trans List.filter_sublist.reverse
  generalize ((s.cell cell).taskq.filter (s.cell n.2).accepts).reverse.take _ = ok at hsub ⊢
  dsimp only
  by_cases hm : ok = []
  · subst hm
    rw [State.moveTasks_none, List.reverse_nil, if_pos rfl, List.append_nil, List.append_nil]
    exact ⟨rfl, .refl _, .refl _⟩
  · rw [State.moveTasks_transfers _ _ _ hm, State.moveTasks_cell _ _ _ hm, if_pos rfl, if_neg (by simpa using hm), foldl_eraseLast]
    exact ⟨rfl, eraseLast_splits ok _ hsub⟩

/-- TASK_BALANCE_INTERVAL (R31, R278). -/
theorem tasksBalance (s : State) (cell : Nat) :
    let k := s.cell cell
    let near := s.neighbours k.tag k.lcell.toNat
    (∃ t, runs (.evTaskBalanceInterval cell) s t ∧ (∀ n ∈ near, n.2 ≠ cell → mget 0 (t.cell n.2).heard k.lcell.toNat = k.taskq.length)
      ∧ ((∀ n ∈ near, n.2 ≠ cell ∧ k.taskq.length ≤ mget 0 k.heard n.1 + (s.part k.tag).threshold) → (t.cell cell).taskq = k.taskq ∧ t.transfers = s.transfers))
    ∧ ∀ l d, near = [(l, d)] → d ≠ cell → mget 0 k.heard l + (s.part k.tag).threshold < k.taskq.length →
      let m := (((k.taskq.filter (s.cell d).accepts).reverse).take (min 4 ((k.taskq.length - mget 0 k.heard l) / 2))).reverse
      ∃ t, runs (.evTaskBalanceInterval cell) s t ∧ t.transfers = s.transfers ++ (if m = [] then [] else [⟨k.tag, cell, d, m, []⟩])
        ∧ ((t.cell cell).taskq ++ m).Perm k.taskq ∧ (t.cell cell).taskq.Sublist k.taskq := by
  intro k near
  have hadv := s.advertise_eq cell
  have hrest : { s.advertise cell with cells := s.cells } = s := by rw [hadv]; exact State.updateCells_rest ..
  have hpart : ∀ p, (s.advertise cell).part p = s.part p := fun p => by
    have h := congrArg (fun z : State => z.part p) hrest; exact h
  have htr : (s.advertise cell).transfers = s.transfers := by have h := congrArg State.transfers hrest; exact h
  have hrun : runs (.evTaskBalanceInterval cell) s (near.foldl (State.pushTasks cell) (s.advertise cell)) := by
    have h := balanceInterval_eq cell s
    rw [State.neighbours, hpart] at h
    exact h
  have hown : (∀ n ∈ near, n.2 ≠ cell) → (s.advertise cell).cell cell = k := fun h => by rw [hadv]; exact State.updateCells_other _ _ _ _ _ h
  refine ⟨⟨_, hrun, fun n hn _ => ?_, fun h => ?_⟩, fun l d hnear hd hlt => ?_⟩
  · refine foldl_keeps (fun t : State => mget 0 (t.cell n.2).heard k.lcell.toNat = k.taskq.length) _ _ _ ?_ fun t m ht => ?_
    · rw [hadv]
      exact State.updateCells_gives Prod.snd _ (fun z => mget 0 z.heard k.lcell.toNat = k.taskq.length) (fun m z => by
        unfold Cell.hear; rw [mget_mset, if_pos rfl]) s near n hn
    · rw [State.pushTasks_heard]; exact ht
  · have hc := hown fun n hn => (h n hn).1
    have hstay : near.foldl (State.pushTasks cell) (s.advertise cell) = s.advertise cell := foldl_eq_self _ _ _ fun n hn =>
      State.pushTasks_none n (by rw [hc, hpart]; exact (h n hn).2)
    exact ⟨by rw [hstay, hc], by rw [hstay, htr]⟩
  · rw [hnear] at hrun
    have hc := hown fun n hn => by rw [hnear] at hn; rw [List.mem_singleton.1 hn]; exact hd
    have hacc : ((s.advertise cell).cell d).accepts = (s.cell d).accepts := by
      rw [hadv]; exact State.updateCells_keeps Prod.snd (fun _ z => z.hear (s.cell cell).lcell.toNat (s.cell cell).taskq.length) Cell.accepts (fun _ _ => rfl) s near d
    have h := State.pushTasks_some (s := s.advertise cell) (cell := cell) (l, d) k hc (by rw [hpart]; exact hlt)
    rw [htr, hacc] at h
    exact ⟨_, hrun, h⟩

/-! A transfer that arrives (R31, R40, R278, R355). -/

theorem State.foldl_hypEvent (s : State) (f : Vec → HypEvent) (l : List Vec) :
    (l.foldl (fun s p => s.hypEvent (f p)) s).cells = s.cells ∧ (l.foldl (fun s p => s.hypEvent (f p)) s).hypEvents = s.hypEvents ++ l.map f := by
  induction l generalizing s with
  | nil => simp
  | cons p l ih =>
    rw [List.foldl_cons, (ih _).1, (ih _).2]
    exact ⟨rfl, by simp [State.hypEvent]⟩

theorem State.cell_transfers (s : State) (ts : List Transfer) (c : Nat) : ({ s with transfers := ts } : State).cell c = s.cell c := rfl

/-- BALANCE_TRANSFER_ARRIVE. -/
theorem transferArrives (s : State) (n : Nat) (x : Transfer) (hx : s.transfers[n]? = some x) :
    let k := s.cell x.dst
    let mine := x.tasks.filter fun p => decide (x.dst = x.from_) || k.accepts p
    let back := x.tasks.filter fun p => !(decide (x.dst = x.from_) || k.accepts p)
    let a := 64 - k.taskq.length
    let b := 256 - k.buckets.length
    (x.dst ∉ (s.part x.part).cellsOf → runs (.evBalanceTransferArrive n) s s)
    ∧ (x.dst ∈ (s.part x.part).cellsOf → k.tag ≠ x.part → ∃ t, runs (.evBalanceTransferArrive n) s t ∧ t.cells = s.cells
      ∧ t.hypEvents = s.hypEvents ++ x.tasks.map (fun p => .dropped (parcelHdr p) x.dst)
      ∧ t.transfers = s.transfers.take n ++ (if x.work = [] then [] else [{ x with tasks := [] }]) ++ s.transfers.drop (n + 1))
    ∧ (x.dst ∈ (s.part x.part).cellsOf → k.tag = x.part → ∃ t, runs (.evBalanceTransferArrive n) s t
      ∧ (t.cell x.dst).taskq = k.taskq ++ mine.take a ∧ (t.cell x.dst).buckets = k.buckets ++ x.work.take b
      ∧ t.transfers = s.transfers.take n ++ (if mine.drop a = [] ∧ x.work.drop b = [] then [] else [⟨x.part, x.from_, x.dst, mine.drop a, x.work.drop b⟩])
          ++ (if back = [] then [] else [⟨x.part, x.from_, x.from_, back, []⟩]) ++ s.transfers.drop (n + 1)) := by
  intro k mine back a b
  have hrun : x.dst ∈ (s.part x.part).cellsOf → runs (.evBalanceTransferArrive n) s
      { (s.takeTransfer x).1 with transfers := s.transfers.take n ++ (s.takeTransfer x).2 ++ s.transfers.drop (n + 1) } := fun h => by
    show execEvBalanceTransferArrive n s = _
    unfold execEvBalanceTransferArrive
    rw [hx]; dsimp only
    rw [List.contains_iff_mem.2 h]; rfl
  refine ⟨fun h => ?_, fun h hp => ⟨_, hrun h, ?_⟩, fun h hp => ⟨_, hrun h, ?_⟩⟩
  · show execEvBalanceTransferArrive n s = _
    unfold execEvBalanceTransferArrive
    rw [hx]; dsimp only
    rw [if_pos (by rw [Bool.not_eq_true', ← Bool.not_eq_true, List.contains_iff_mem]; exact h)]
  · rw [show s.takeTransfer x = s.ejectTransfer x from if_pos hp]
    obtain ⟨h1, h2⟩ := s.foldl_hypEvent (fun p => .dropped (parcelHdr p) x.dst) x.tasks
    refine ⟨h1, h2, ?_⟩
    unfold State.ejectTransfer
    simp only [List.isEmpty_iff]
  · have ht : s.takeTransfer x = (s.setCell x.dst { k with taskq := k.taskq ++ mine.take a, buckets := k.buckets ++ x.work.take b },
        (if (mine.drop a).isEmpty && (x.work.drop b).isEmpty then [] else [⟨x.part, x.from_, x.dst, mine.drop a, x.work.drop b⟩])
          ++ if back.isEmpty then [] else [⟨x.part, x.from_, x.from_, back, []⟩]) := if_neg (not_not.2 hp)
    rw [ht]
    rw [State.cell_transfers, State.setCell_cell, if_pos rfl]
    refine ⟨rfl, rfl, ?_⟩
    simp only [List.isEmpty_iff, Bool.and_eq_true, List.append_assoc]

end Sys2Proof.Machine
end

section
/-! The worklist's balancing, reductions, wake parcels and spill region (R35, R37 to R41). -/

namespace Sys2Proof.Machine
open Sys2Proof Sys2Proof.Claims

variable {s u v : State} {cell : Nat}

/-! The lowest keys. -/

theorem lfind_some {α : Type} {f : α → Bool} {l : List α} {n : Nat} {a : α} (h : lfind f l = some (n, a)) : l[n]? = some a ∧ f a = true := by
  induction l generalizing n with
  | nil => cases h
  | cons b l ih =>
    rw [lfind] at h
    split at h
    · next hb => cases h; exact ⟨rfl, hb⟩
    · obtain ⟨⟨m, c⟩, hm, he⟩ := Option.map_eq_some_iff.1 h
      cases he
      exact ih hm

theorem lfind_exists {α : Type} {f : α → Bool} {l : List α} (h : ∃ a ∈ l, f a = true) : ∃ r, lfind f l = some r := by
  cases hf : lfind f l with
  | some r => exact ⟨r, rfl⟩
  | none =>
    exfalso
    obtain ⟨a, ha, hfa⟩ := h
    induction l with
    | nil => cases ha
    | cons b l ih =>
      rw [lfind] at hf
      split at hf
      · cases hf
      · next hb =>
        rcases List.mem_cons.1 ha with rfl | ha
        · exact hb hfa
        · exact ih (Option.map_eq_none_iff.1 hf) ha

theorem minOf_spec {l : List Nat} {m : Nat} (h : minOf l = some m) : m ∈ l ∧ ∀ x ∈ l, m ≤ x := by
  cases l with
  | nil => cases h
  | cons a t =>
    obtain ⟨h1, h2, h3⟩ := foldl_min_spec (fun x : Nat => x) t a
    obtain rfl : t.foldl min a = m := Option.some.inj h
    refine ⟨?_, fun x hx => ?_⟩
    · rcases h3 with h | ⟨u, hu, h⟩
      · rw [show t.foldl min a = a from h]; exact List.mem_cons_self
      · rw [show t.foldl min a = u from h]; exact List.mem_cons_of_mem _ hu
    · rcases List.mem_cons.1 hx with rfl | hx
      · exact h1
      · exact h2 x hx

theorem lowestAt_spec {l : List Task} (h : l ≠ []) : ∃ i t, lowestAt l = some (i, t) ∧ l[i]? = some t ∧ ∀ y ∈ l, t.key.toNat ≤ y.key.toNat := by
  obtain ⟨a, l', rfl⟩ := List.exists_cons_of_ne_nil h
  have hm : minOf ((a :: l').map fun t => t.key.toNat) = some ((l'.map fun t => t.key.toNat).foldl min a.key.toNat) := rfl
  obtain ⟨hin, hlow⟩ := minOf_spec hm
  obtain ⟨b, hb, hk⟩ := List.mem_map.1 hin
  obtain ⟨⟨i, t⟩, hf⟩ := lfind_exists (f := fun t : Task => t.key.toNat == (l'.map fun t => t.key.toNat).foldl min a.key.toNat) ⟨b, hb, by simpa using hk⟩
  obtain ⟨hi, ht⟩ := lfind_some hf
  refine ⟨i, t, ?_, hi, fun y hy => ?_⟩
  · rw [lowestAt, hm]; exact hf
  · rw [eq_of_beq ht]; exact hlow _ (List.mem_map.2 ⟨y, hy, rfl⟩)

/-- The tasks taken are lowest ones; they and the rest are the list (R40). -/
theorem takeLowest_spec (n : Nat) (l : List Task) : (n ≤ l.length → (takeLowest n l).1.length = n) ∧ ((takeLowest n l).2 ++ (takeLowest n l).1).Perm l
    ∧ ∀ x ∈ (takeLowest n l).1, ∀ y ∈ (takeLowest n l).2, x.key.toNat ≤ y.key.toNat := by
  induction n generalizing l with
  | zero => exact ⟨fun _ => rfl, by simp [takeLowest], fun x hx => absurd hx List.not_mem_nil⟩
  | succ n ih =>
    by_cases hl : l = []
    · subst hl
      exact ⟨fun h => absurd h (by simp), .refl _, fun x hx => absurd hx List.not_mem_nil⟩
    · obtain ⟨i, t, hlow, hi, hmin⟩ := lowestAt_spec hl
      obtain ⟨hlt, hti⟩ := List.getElem?_eq_some_iff.1 hi
      obtain ⟨h1, h2, h3⟩ := ih (l.eraseIdx i)
      have he : takeLowest (n + 1) l = (t :: (takeLowest n (l.eraseIdx i)).1, (takeLowest n (l.eraseIdx i)).2) := by
        rw [takeLowest, hlow]
      rw [he]
      refine ⟨fun h => ?_, ?_, fun x hx y hy => ?_⟩
      · rw [List.length_cons, h1 (by rw [List.length_eraseIdx_of_lt hlt]; omega)]
      · refine List.perm_middle.trans ((h2.cons t).trans ?_)
        rw [← hti]; exact List.getElem_cons_eraseIdx_perm hlt
      · rcases List.mem_cons.1 hx with rfl | hx
        · exact hmin y (List.mem_of_mem_eraseIdx (h2.mem_iff.1 (List.mem_append_left _ hy)))
        · exact h3 x hx y hy

theorem State.setBuckets_buckets (s : State) (cell : Nat) (b : List Task) (ts : List Transfer) :
    (({ s.setCell cell { s.cell cell with buckets := b } with transfers := ts } : State).cell cell).buckets = b := by
  rw [State.cell_transfers, State.setCell_cell, if_pos rfl]

/-- WORKLIST_BALANCE_INTERVAL (R40), for a cell with one neighbour. -/
theorem worklistBalances (s : State) (cell d l : Nat) (hn : s.neighbours (s.cell cell).tag (s.cell cell).lcell.toNat = [(l, d)]) :
    let mine := (s.cell cell).eligibleCount
    let theirs := (s.cell d).eligibleCount
    (mine ≤ theirs + (s.part (s.cell cell).tag).threshold → runs (.evWorklistBalanceInterval cell) s s)
    ∧ (theirs + (s.part (s.cell cell).tag).threshold < mine → ∃ t m, runs (.evWorklistBalanceInterval cell) s t
        ∧ t.transfers = s.transfers ++ [⟨(s.cell cell).tag, cell, d, [], m⟩] ∧ m.length = min 4 ((mine - theirs) / 2)
        ∧ ((t.cell cell).buckets ++ m).Perm (s.cell cell).buckets ∧ ∀ x ∈ m, ∀ y ∈ (t.cell cell).buckets, x.key.toNat ≤ y.key.toNat) := by
  intro mine theirs
  refine ⟨fun h => ?_, fun h => ?_⟩
  · show execEvWorklistBalanceInterval cell s = _
    unfold execEvWorklistBalanceInterval
    dsimp only
    rw [hn, List.foldl_cons, List.foldl_nil, if_neg (not_lt.2 h)]
  · obtain ⟨h1, h2, h3⟩ := takeLowest_spec (min 4 ((mine - theirs) / 2)) (s.cell cell).buckets
    have hle : mine ≤ (s.cell cell).buckets.length := List.length_filter_le _ _
    refine ⟨{ s.setCell cell { s.cell cell with buckets := (takeLowest (min 4 ((mine - theirs) / 2)) (s.cell cell).buckets).2 } with
      transfers := s.transfers ++ [⟨(s.cell cell).tag, cell, d, [], (takeLowest (min 4 ((mine - theirs) / 2)) (s.cell cell).buckets).1⟩] },
      _, ?_, rfl, h1 (by omega), ?_, ?_⟩
    · show execEvWorklistBalanceInterval cell s = _
      unfold execEvWorklistBalanceInterval
      dsimp only
      rw [hn, List.foldl_cons, List.foldl_nil, if_pos h]
    · rw [State.setBuckets_buckets]; exact h2
    · simp only [State.setBuckets_buckets]; exact h3

/-! Reductions (R35, R37, R41). -/

/-- A reduction brings the views of a partition's cells up to date. -/
def State.reduced (s : State) (pid : Nat) : State :=
  s.updateCells id (fun _ k => { k with fview := (minOf (s.floorKeys pid)).getD (s.part pid).floor, dview := (s.part pid).delta, wview := (s.part pid).wakeChan })
    (s.part pid).cellsOf

theorem State.reduced_rest (s : State) (pid : Nat) : { s.reduced pid with cells := s.cells } = s := State.updateCells_rest ..
theorem State.reduced_views (s : State) (pid c : Nat) (hc : c ∈ (s.part pid).cellsOf) : ((s.reduced pid).cell c).dview = (s.part pid).delta
    ∧ ((s.reduced pid).cell c).wview = (s.part pid).wakeChan ∧ ((s.reduced pid).cell c).fview = (minOf (s.floorKeys pid)).getD (s.part pid).floor :=
  State.updateCells_gives id _ (fun k => k.dview = (s.part pid).delta ∧ k.wview = (s.part pid).wakeChan
    ∧ k.fview = (minOf (s.floorKeys pid)).getD (s.part pid).floor) (fun _ _ => ⟨rfl, rfl, rfl⟩) s _ c hc

/-- A partition after a reduction, by what is known of its quiet time and of its epoch. -/
def State.reducedPart (s : State) (pid : Nat) (quiet : Option (Nat × Nat)) (epoch : Bool) : Part :=
  { s.part pid with floor := (minOf (s.floorKeys pid)).getD (s.part pid).floor, quiet := quiet, epoch := epoch }

/-- The parcel of a partition's termination (R41). -/
def termParcel (pid : Nat) (l : BitVec 16) (c : Nat) : Vec := mkParcel (mkHdr 0 false false (64 ≤ c) pid 0xFFFF 0xFC (c % 64) l.toNat) []

section
variable (s : State) (pid : Nat)

theorem reduction_busy (h : s.floorKeys pid ≠ [] ∨ (s.part pid).pushes ≠ (s.part pid).pops) :
    execEvWorklistReduction pid s = .next ((s.reduced pid).setPart pid (s.reducedPart pid none (s.part pid).epoch)) := by
  unfold execEvWorklistReduction
  dsimp only
  rw [if_pos (by simpa using h)]
  rfl

variable (hk : s.floorKeys pid = []) (he : (s.part pid).pushes = (s.part pid).pops)
include hk he

theorem reduction_first (hq : (s.part pid).quiet = none) : execEvWorklistReduction pid s =
    .next ((s.reduced pid).setPart pid (s.reducedPart pid (some (s.cycle.toNat, (s.part pid).pushes)) (s.part pid).epoch)) := by
  have hcy : (s.reduced pid).cycle = s.cycle := by have h := congrArg State.cycle (s.reduced_rest pid); exact h
  unfold execEvWorklistReduction
  dsimp only
  rw [if_neg (by simp [hk, he]), hq]
  rw [← hcy]
  rfl

theorem reduction_waits {cyc n : Nat} (hq : (s.part pid).quiet = some (cyc, n)) (hno : ¬(n = (s.part pid).pushes ∧ cyc + 256 ≤ s.cycle.toNat)) :
    execEvWorklistReduction pid s = .next ((s.reduced pid).setPart pid (s.reducedPart pid (s.part pid).quiet (s.part pid).epoch)) := by
  have hcy : (s.reduced pid).cycle = s.cycle := by have h := congrArg State.cycle (s.reduced_rest pid); exact h
  unfold execEvWorklistReduction
  dsimp only
  rw [if_neg (by simp [hk, he]), hq]
  rw [← hcy] at hno
  exact congrArg Host.Outcome.next ((if_neg hno).trans rfl)

section
variable {cyc : Nat} (hq : (s.part pid).quiet = some (cyc, (s.part pid).pushes)) (hc : cyc + 256 ≤ s.cycle.toNat)
include hq hc

theorem reduction_ends (hno : (s.part pid).term = none ∨ (s.part pid).epoch = false) :
    execEvWorklistReduction pid s = .next ((s.reduced pid).setPart pid (s.reducedPart pid none false)) := by
  have hcy : (s.reduced pid).cycle = s.cycle := by have h := congrArg State.cycle (s.reduced_rest pid); exact h
  unfold execEvWorklistReduction
  dsimp only
  rw [if_neg (by simp [hk, he]), hq]
  rw [← hcy] at hc
  refine congrArg Host.Outcome.next ((if_pos ⟨rfl, hc⟩).trans ?_)
  split
  · next h1 h2 => exact absurd hno (by simp only [h1, h2]; simp)
  · rfl

theorem reduction_sends {l : BitVec 16} {c : Nat} (ht : (s.part pid).term = some (l, c)) (hep : (s.part pid).epoch = true) :
    execEvWorklistReduction pid s = .next (((s.reduced pid).setPart pid (s.reducedPart pid none false)).launchFlight
      (termParcel pid l c) pid (.term l (BitVec.ofNat 8 (c % 64)))) := by
  have hcy : (s.reduced pid).cycle = s.cycle := by have h := congrArg State.cycle (s.reduced_rest pid); exact h
  unfold execEvWorklistReduction
  dsimp only
  rw [if_neg (by simp [hk, he]), hq]
  rw [← hcy] at hc
  refine congrArg Host.Outcome.next ((if_pos ⟨rfl, hc⟩).trans ?_)
  split
  · next h1 _ =>
    obtain ⟨rfl, rfl⟩ := Prod.mk.inj (Option.some.inj (ht.symm.trans h1))
    rfl
  · next h => exact (h l c ht hep).elim

end

end

/-- A reduction's views, and what it knows of the partition's quiet time and epoch. -/
structure Reduces (s t : State) (pid : Nat) (quiet : Option (Nat × Nat)) (epoch : Bool) : Prop where
  part : t.part pid = s.reducedPart pid quiet epoch
  cells : t.cells = (s.reduced pid).cells

theorem State.reduced_reduces (s : State) (pid : Nat) (quiet : Option (Nat × Nat)) (epoch : Bool) :
    Reduces s ((s.reduced pid).setPart pid (s.reducedPart pid quiet epoch)) pid quiet epoch :=
  ⟨by rw [State.setPart_part, if_pos rfl], rfl⟩

theorem Reduces.views {t : State} {pid : Nat} {quiet : Option (Nat × Nat)} {epoch : Bool} (h : Reduces s t pid quiet epoch) (c : Nat)
    (hc : c ∈ (s.part pid).cellsOf) : (t.cell c).dview = (s.part pid).delta ∧ (t.cell c).wview = (s.part pid).wakeChan
      ∧ (t.cell c).fview = (minOf (s.floorKeys pid)).getD (s.part pid).floor := by
  rw [cell_of_cells h.cells]; exact s.reduced_views pid c hc

/-- WORKLIST_REDUCTION (R35, R37, R41). -/
theorem worklistReduces (s : State) (pid : Nat) :
    let keys := s.floorKeys pid
    let p := s.part pid
    ∃ t, runs (.evWorklistReduction pid) s t ∧ (t.part pid).floor = (minOf keys).getD p.floor
      ∧ (∀ c ∈ p.cellsOf, (t.cell c).dview = p.delta ∧ (t.cell c).wview = p.wakeChan ∧ (t.cell c).fview = (minOf keys).getD p.floor)
      ∧ (keys ≠ [] ∨ p.pushes ≠ p.pops → (t.part pid).quiet = none)
      ∧ (keys = [] → p.pushes = p.pops → p.quiet = none → (t.part pid).quiet = some (s.cycle.toNat, p.pushes))
      ∧ ∀ cyc l c, keys = [] → p.pushes = p.pops → p.quiet = some (cyc, p.pushes) →
          cyc + 256 ≤ s.cycle.toNat → p.term = some (l, c) → p.epoch = true → (t.part pid).epoch = false ∧ ∃ f, t.flights = s.flights ++ [f]
            ∧ hType (parcelHdr f.parcel) = 0xFC ∧ hDest (parcelHdr f.parcel) = l.toNat ∧ hChan (parcelHdr f.parcel) = c % 64 ∧ f.from_ = .term l (BitVec.ofNat 8 (c % 64)) := by
  intro keys p
  by_cases hbusy : keys ≠ [] ∨ p.pushes ≠ p.pops
  · have h := s.reduced_reduces pid none p.epoch
    exact ⟨_, reduction_busy s pid hbusy, by rw [h.part]; rfl, h.views, fun _ => by rw [h.part]; rfl, fun h1 h2 _ => absurd hbusy (by simp [h1, h2]),
      fun cyc l c h1 h2 _ _ _ _ => absurd hbusy (by simp [h1, h2])⟩
  obtain ⟨hk, he⟩ : keys = [] ∧ p.pushes = p.pops := by
    simpa [not_or, Classical.not_not] using hbusy
  cases hq : p.quiet with
  | none =>
    have h := s.reduced_reduces pid (some (s.cycle.toNat, p.pushes)) p.epoch
    exact ⟨_, reduction_first s pid hk he hq, by rw [h.part]; rfl, h.views, fun h' => absurd h' hbusy, fun _ _ _ => by rw [h.part]; rfl,
      fun cyc l c _ _ h1 => by cases h1⟩
  | some r =>
    obtain ⟨cyc, n⟩ := r
    by_cases hlong : n = p.pushes ∧ cyc + 256 ≤ s.cycle.toNat
    · obtain ⟨rfl, hc⟩ := hlong
      have h := s.reduced_reduces pid none false
      by_cases hs : p.term = none ∨ p.epoch = false
      · refine ⟨_, reduction_ends s pid hk he hq hc hs, by rw [h.part]; rfl, h.views, fun h' => absurd h' hbusy, fun _ _ h1 => (by cases h1),
          fun _ l c _ _ _ _ h1 h2 => absurd hs (by simp [h1, h2])⟩
      · obtain ⟨⟨⟨l, c⟩, ht⟩, hep⟩ : (∃ r, p.term = some r) ∧ p.epoch = true := by
          simpa [not_or, Option.ne_none_iff_exists'] using hs
        have hf : (s.reduced pid).flights = s.flights := by have h := congrArg State.flights (s.reduced_rest pid); exact h
        have h' : Reduces s (((s.reduced pid).setPart pid (s.reducedPart pid none false)).launchFlight (termParcel pid l c) pid
          (.term l (BitVec.ofNat 8 (c % 64)))) pid none false := ⟨h.part, rfl⟩
        refine ⟨_, reduction_sends s pid hk he hq hc ht hep, by rw [h'.part]; rfl, h'.views, fun h' => absurd h' hbusy, fun _ _ h1 => (by cases h1),
          fun _ l' c' _ _ _ _ h1 _ => ?_⟩
        obtain ⟨rfl, rfl⟩ : l = l' ∧ c = c' := by simpa [ht] using h1
        refine ⟨by rw [h'.part]; rfl, _, congrArg (· ++ _) hf, ?_⟩
        have hl := l.isLt
        dsimp only
        rw [termParcel, parcelHdr_mkParcel, mkHdr_type, mkHdr_dest, mkHdr_chan]
        exact ⟨rfl, Nat.mod_eq_of_lt hl, by omega, rfl⟩
    · have h := s.reduced_reduces pid p.quiet p.epoch
      refine ⟨_, reduction_waits s pid hk he hq hlong, by rw [h.part]; rfl, h.views, fun h' => absurd h' hbusy, fun _ _ h1 => (by cases h1),
        fun cyc' l c _ _ h1 h2 => ?_⟩
      cases h1
      exact absurd ⟨rfl, h2⟩ hlong

/-! Wake parcels and the spill region (R38, R39). -/

/-- WAKE_PARCEL. -/
theorem wakeParcels (s : State) (cell c : Nat) (hw : (s.cell cell).wview = some c) (hno : (s.cell cell).wake = false)
    (h : ∃ t ∈ (s.cell cell).buckets, (s.cell cell).eligible t.key = true) :
      ∃ t f, runs (.evWakeParcel cell) s t ∧ (t.cell cell).wake = true ∧ t.flights = s.flights ++ [f] ∧ hType (parcelHdr f.parcel) = 0xFD
        ∧ hDest (parcelHdr f.parcel) = (s.cell cell).lcell.toNat ∧ hChan (parcelHdr f.parcel) = c % 64 := by
  have hrun : execEvWakeParcel cell s = .next ((s.setCell cell { s.cell cell with wake := true }).launchFlight
      (mkParcel (mkHdr 0 false false (64 ≤ c) (s.cell cell).tag 0xFFFF 0xFD (c % 64) (s.cell cell).lcell.toNat) []) (s.cell cell).tag
        (.wake (s.cell cell).lcell (BitVec.ofNat 8 (c % 64)))) := by
    unfold execEvWakeParcel
    dsimp only
    rw [hw]
    dsimp only
    rw [if_pos (by rw [hno, List.any_eq_true.2 h]; rfl)]
  refine ⟨_, _, hrun, ?_, rfl, ?_⟩
  · show ((s.setCell cell _).cell cell).wake = true
    rw [State.setCell_cell, if_pos rfl]
  · have hl := (s.cell cell).lcell.isLt
    dsimp only
    rw [parcelHdr_mkParcel, mkHdr_type, mkHdr_dest, mkHdr_chan]
    exact ⟨rfl, Nat.mod_eq_of_lt hl, by omega⟩

theorem State.setWork_cell (s : State) (cell : Nat) (k : Cell) : (s.setWork cell k).cell cell = k := by
  have h : (s.setWork cell k).cells = (s.setCell cell k).cells := by
    unfold State.setWork
    dsimp only
    split
    · rfl
    · exact (State.spillWrite_onlyMemory _ _).cells
  rw [cell_of_cells h, State.setCell_cell, if_pos rfl]

/-- SPILL_RETURN. -/
theorem spillReturns (s : State) (cell n : Nat) (t : Task) (hl : lowestAt (s.cell cell).spill = some (n, t)) :
    let k := s.cell cell
    (k.buckets.length < 256 → ∃ u, runs (.evSpillReturn cell) s u ∧ (u.cell cell).spill = k.spill.eraseIdx n ∧ (u.cell cell).buckets = k.buckets ++ [t])
    ∧ ∀ m v, 256 ≤ k.buckets.length → highestAt k.buckets = some (m, v) →
      (k.eligible t.key = true → k.eligible v.key = false → ∃ u, runs (.evSpillReturn cell) s u ∧ (u.cell cell).spill = k.spill.eraseIdx n ++ [v]
        ∧ (u.cell cell).buckets = k.buckets.eraseIdx m ++ [t])
      ∧ (k.eligible t.key = false ∨ k.eligible v.key = true → runs (.evSpillReturn cell) s s) := by
  intro k
  refine ⟨fun hlt => ⟨s.setWork cell { k with spill := k.spill.eraseIdx n, buckets := k.buckets ++ [t] }, ?_, ?_⟩, fun m v hge hh => ⟨fun h1 h2 =>
    ⟨s.setWork cell { k with spill := k.spill.eraseIdx n ++ [v], buckets := k.buckets.eraseIdx m ++ [t] }, ?_, ?_⟩, fun h => ?_⟩⟩
  · show execEvSpillReturn cell s = _
    unfold execEvSpillReturn
    dsimp only
    rw [hl]
    exact congrArg Host.Outcome.next (if_pos hlt)
  · rw [State.setWork_cell]; exact ⟨rfl, rfl⟩
  · show execEvSpillReturn cell s = _
    unfold execEvSpillReturn
    dsimp only
    rw [hl, hh]
    refine congrArg Host.Outcome.next ((if_neg (not_lt.2 hge)).trans (if_pos ?_))
    rw [show (s.cell cell).eligible t.key = true from h1, show (s.cell cell).eligible v.key = false from h2]; rfl
  · rw [State.setWork_cell]; exact ⟨rfl, rfl⟩
  · show execEvSpillReturn cell s = _
    unfold execEvSpillReturn
    dsimp only
    rw [hl, hh]
    refine congrArg Host.Outcome.next ((if_neg (not_lt.2 hge)).trans (if_neg ?_))
    rcases h with h | h
    · rw [show (s.cell cell).eligible t.key = false from h]; simp
    · rw [show (s.cell cell).eligible v.key = true from h]; simp

/-- Settles O26. -/
theorem tasksAndWorklist : Obligations.TasksAndWorklist := by
  unfold Obligations.TasksAndWorklist
  exact ⟨taskArrives, queueToMailbox, tasksBalance, transferArrives, worklistBalances, worklistReduces, wakeParcels, spillReturns⟩

end Sys2Proof.Machine
end

section
/-! Deadlines and injections (R43 to R46, R289). -/

namespace Sys2Proof.Machine
open Sys2Proof Sys2Proof.Claims

variable {s t u v z : State}

/-! A deadline (R43, R44). -/

/-- FUTURE_DEADLINE. -/
theorem deadlineExpires (s : State) (die slot : Nat) (x : FSlot) (va : Word) (w : Waiter) (d : Nat) (q : Option Word) (re : Option (Word × Nat)) (inj : Option Inject)
    (hx : s.slot die slot = some x) (hk : x.kind = .future va w (some d) q re inj) :
    let i : Instr := .evFutureDeadline die slot
    let w0 := s.latestNat x.pa 8
    let w1 := s.latestNat (x.pa + 8) 8
    let w0' := slot % 65536 * 65536 + nbits 2 14 w0 * 4 + 3
    (s.time.toNat < d ∨ 2 ≤ w0 % 4 → runs i s s)
    ∧ (d ≤ s.time.toNat → w0 % 4 < 2 → s.slotPages (x.pa / 64) = [] → x.pa % 16 = 0 →
      (q = none → ∃ t, runs i s t ∧ wroteBytes s t x.pa (leBytes 8 w0') ∧ releases s t die slot x.part va w0' w1 0 [w]
        ∧ t.slot die slot = some { x with kind := .future va .none none none re none })
      ∧ ∀ b u hd, q = some b → (s.putBytes x.pa (leBytes 8 w0')).devRead x.part false b 64 = (u, some (hd, false)) →
        ∃ t, runs i s t ∧ t.mem = u.mem ∧ t.flights = s.flights
          ∧ t.slot die slot = some { x with kind := .future va .none none (some b) re (some ⟨b, none, bnat hd 20 4, 0, [w]⟩) }) := by
  intro i w0 w1 w0'
  have hexp : s.expire die slot = if d ≤ s.time.toNat ∧ fSt w0 < 2 then s.settleFut x.part die slot x w0 w1 3 else s := by
    unfold State.expire
    rw [hx]; dsimp only
    rw [hk]; rfl
  have hw0 : mkWord0 slot (fGen w0) 3 = w0' := by
    have : nbits 2 14 w0 < 2 ^ 14 := nbits_lt ..
    show slot % 65536 * 65536 + nbits 2 14 w0 % 16384 * 4 + 3 % 4 = _
    rw [Nat.mod_eq_of_lt (show nbits 2 14 w0 < 16384 from this)]
  refine ⟨fun h => ?_, fun hd hst hp ha => ?_⟩
  · refine congrArg Host.Outcome.next (hexp.trans (if_neg ?_))
    rw [fSt_eq]; omega
  · have hrun : runs i s (s.settleFut x.part die slot x w0 w1 3) :=
      congrArg Host.Outcome.next (hexp.trans (if_pos ⟨hd, by rw [fSt_eq]; exact hst⟩))
    refine ⟨fun hq => ?_, fun b u hdr hq hr => ?_⟩
    · subst hq
      obtain ⟨-, hslot, hrel, hlat⟩ := s.settleFut_releases x.part die slot x w0 w1 3 hk
      rw [hw0] at hrel hlat
      exact ⟨_, hrun, wroteBytes_of_latest (s.putW0_wroteBytes w0' ha hp) hlat, hrel, hslot⟩
    · subst hq
      have hset : s.settleFut x.part die slot x w0 w1 3 =
          u.setSlot die slot { x with kind := .future va .none none (some b) re (some ⟨b, none, bnat hdr 20 4, 0, [w]⟩) } := by
        unfold State.settleFut
        rw [hk]; dsimp only
        rw [if_neg (by decide), hw0, State.templateCount, show (s.putW0 x.pa w0').devRead x.part false b 64 = _ from hr]
        rfl
      have hmem : OnlyMemory s u := (s.putBytes_onlyMemory _ _).trans (by
        have h := State.devRead_onlyMemory (s.putBytes x.pa (leBytes 8 w0')) x.part false b 64
        rwa [hr] at h)
      refine ⟨_, hrun, ?_, ?_, ?_⟩
      · rw [hset]; rfl
      · rw [hset]; exact hmem.flights
      · rw [hset, State.setSlot_slot]

theorem State.setSlot_mem (s : State) (die n : Nat) (x : FSlot) : (s.setSlot die n x).mem = s.mem := rfl

/-! One token of an injection (R46). -/

theorem State.tokenAt_onlyMemory (s : State) (pid : Nat) (i : Inject) (hd : List Byte) (k : Nat) : OnlyMemory s (s.tokenAt pid i hd k).1 := by
  unfold State.tokenAt
  split
  · exact .refl s
  · next buf _ =>
    have h := s.devRead_onlyMemory pid false (buf + BitVec.ofNat 64 (4 + 4 * k)) 4
    split <;> exact h.of_fst ‹_›

/-- One token moves from its source to the ring: the state, how many have moved, and whether one could not. -/
def injectStep (pid : Nat) (i : Inject) (hd : List Byte) (acc : State × Nat × Bool) (k : Nat) : State × Nat × Bool :=
  if acc.2.2 then acc
  else match acc.1.tokenAt pid i hd (i.done + k) with
    | (s, none) => (s, acc.2.1, true)
    | (s, some t) =>
      match s.devWrite pid false (BitVec.ofNat 64 (bnat hd 0 8 + 4 * ((bnat hd 16 4 + k) % bnat hd 8 4))) (leBytes 4 t) with
      | (u, true) => (u, acc.2.1 + 1, false)
      | (u, false) => (u, acc.2.1, true)

theorem injectStep_spec (pid : Nat) (i : Inject) (hd : List Byte) (acc : State × Nat × Bool) (k : Nat) :
    OnlyMemory acc.1 (injectStep pid i hd acc k).1 ∧ (injectStep pid i hd acc k).2.1 ≤ acc.2.1 + 1 := by
  unfold injectStep
  have ht := acc.1.tokenAt_onlyMemory pid i hd (i.done + k)
  split
  · exact ⟨.refl _, Nat.le_succ _⟩
  split
  · next e => rw [e] at ht; exact ⟨ht, Nat.le_succ _⟩
  · next v tok e =>
    rw [e] at ht
    have hw := v.devWrite_onlyMemory pid false (BitVec.ofNat 64 (bnat hd 0 8 + 4 * ((bnat hd 16 4 + k) % bnat hd 8 4))) (leBytes 4 tok)
    split
    · next e => rw [e] at hw; exact ⟨ht.trans hw, Nat.le_refl _⟩
    · next e => rw [e] at hw; exact ⟨ht.trans hw, Nat.le_succ _⟩

/-- A token that is read and written counts. -/
theorem injectStep_moves {pid : Nat} {i : Inject} {hd : List Byte} {n k tok : Nat} (ht : u.tokenAt pid i hd (i.done + k) = (v, some tok))
    (hw : v.devWrite pid false (BitVec.ofNat 64 (bnat hd 0 8 + 4 * ((bnat hd 16 4 + k) % bnat hd 8 4))) (leBytes 4 tok) = (z, true)) :
    injectStep pid i hd (u, n, false) k = (z, n + 1, false) := by
  unfold injectStep
  rw [if_neg Bool.false_ne_true, ht]; dsimp only
  rw [hw]

/-- Some tokens move, at most as many as there are turns. -/
theorem foldl_injectStep (pid : Nat) (i : Inject) (hd : List Byte) (m : Nat) (s : State) :
    OnlyMemory s ((List.range m).foldl (injectStep pid i hd) (s, 0, false)).1 ∧ ((List.range m).foldl (injectStep pid i hd) (s, 0, false)).2.1 ≤ m := by
  induction m with
  | zero => exact ⟨.refl s, Nat.le_refl _⟩
  | succ m ih =>
    rw [List.range_succ, List.foldl_append, List.foldl_cons, List.foldl_nil]
    obtain ⟨h1, h2⟩ := injectStep_spec pid i hd ((List.range m).foldl (injectStep pid i hd) (s, 0, false)) m
    exact ⟨ih.1.trans h1, by omega⟩

/-- All of the tokens move when each can be read and written. -/
theorem foldl_injectStep_all (pid : Nat) (i : Inject) (hd : List Byte) (m : Nat) (zs : Nat → State)
    (h : ∀ k < m, ∃ v tok, (zs k).tokenAt pid i hd (i.done + k) = (v, some tok)
      ∧ v.devWrite pid false (BitVec.ofNat 64 (bnat hd 0 8 + 4 * ((bnat hd 16 4 + k) % bnat hd 8 4))) (leBytes 4 tok) = (zs (k + 1), true)) :
    (List.range m).foldl (injectStep pid i hd) (zs 0, 0, false) = (zs m, m, false) := by
  induction m with
  | zero => rfl
  | succ m ih =>
    obtain ⟨v, tok, ht, hw⟩ := h m (Nat.lt_succ_self m)
    rw [List.range_succ, List.foldl_append, List.foldl_cons, List.foldl_nil, ih fun k hk => h k (Nat.lt_succ_of_lt hk), injectStep_moves ht hw]

/-- A token of the template, or of the reply buffer. -/
theorem State.tokenAt_some {pid : Nat} {i : Inject} {hd : List Byte} {k tok : Nat}
    (h : (i.src = none ∧ v = u ∧ tok = bnat hd (24 + 4 * k) 4)
      ∨ ∃ buf b, i.src = some buf ∧ u.devRead pid false (buf + BitVec.ofNat 64 (4 + 4 * k)) 4 = (v, some (b, false)) ∧ tok = leNat b) :
    u.tokenAt pid i hd k = (v, some tok) := by
  unfold State.tokenAt
  rcases h with ⟨hs, rfl, rfl⟩ | ⟨buf, b, hs, hr, rfl⟩
  · rw [hs]
  · rw [hs]; dsimp only; rw [hr]

/-! The end of an injection (R289). -/

theorem State.endInject_kept (s : State) (pid die n : Nat) (va : Word) (w0 w1 : Nat) (i : Inject) :
    (s.endInject pid die n va w0 w1 i).futs = s.futs ∧ (s.endInject pid die n va w0 w1 i).mem = s.mem := by
  refine foldl_keeps (fun t : State => t.futs = s.futs ∧ t.mem = s.mem) _ _ _ ⟨rfl, rfl⟩ fun t w h => ?_
  cases w with
  | none => exact h
  | cont c => exact h
  | hart core => unfold State.releaseWaiter; dsimp only; split <;> exact h

section
variable {die slot : Nat} {x : FSlot} {va : Word} {w : Waiter} {dl : Option Nat} {q : Option Word} {re : Option (Word × Nat)}

/-- An injection ends: its slot keeps the count of tokens, and its waiters are released. -/
def State.finishInject (s : State) (die slot : Nat) (x : FSlot) (va : Word) (w : Waiter) (dl : Option Nat) (q : Option Word) (re : Option (Word × Nat))
    (ws : Nat × Nat) (i : Inject) : State :=
  (s.setSlot die slot { x with kind := .future va w dl q re (some { i with left := 0, wait_ := [] }) }).endInject x.part die slot va ws.1 ws.2 i

theorem State.finishInject_spec (s : State) (ws : Nat × Nat) (i : Inject) :
    let t := s.finishInject die slot x va w dl q re ws i
    t.slot die slot = some { x with kind := .future va w dl q re (some { i with left := 0, wait_ := [] }) }
      ∧ releases s t die slot x.part va ws.1 ws.2 i.done i.wait_ ∧ t.mem = s.mem := by
  intro t
  obtain ⟨hf, hm⟩ := (s.setSlot die slot { x with kind := .future va w dl q re (some { i with left := 0, wait_ := [] }) }).endInject_kept x.part die slot va ws.1 ws.2 i
  exact ⟨(State.slot_of_futs hf die slot).trans (by rw [State.setSlot_slot]), releases_from (State.endInject_releases ..) rfl rfl, hm⟩

/-- The tokens that the ring has room for. -/
def ringRoom (hd : List Byte) : Nat := bnat hd 8 4 - (bnat hd 16 4 + 2 ^ 32 - bnat hd 12 4) % 2 ^ 32

/-- After tokens have moved TAIL rises by their number; the injection ends at a token that could not move, and with the last one. -/
def State.injected (die slot : Nat) (x : FSlot) (va : Word) (w : Waiter) (dl : Option Nat) (q : Option Word) (re : Option (Word × Nat)) (ws : Nat × Nat)
    (i : Inject) (hd : List Byte) (r : State × Nat × Bool) : State :=
  let i' := { i with left := i.left - r.2.1, done := i.done + r.2.1 }
  let z := (r.1.devWrite x.part false (i.queue + 16) (leBytes 4 (bnat hd 16 4 + r.2.1))).1
  if r.2.2 || i'.left = 0 then z.finishInject die slot x va w dl q re ws i' else z.setSlot die slot { x with kind := .future va w dl q re (some i') }

variable (hx : s.slot die slot = some x) {i : Inject} (hk : x.kind = .future va w dl q re (some i))
include hx hk

theorem injection_over (h : i.left = 0) : execEvTokenInjection die slot s = .next (s.finishInject die slot x va w dl q re (s.words x.pa) i) := by
  unfold execEvTokenInjection
  rw [hx]; dsimp only
  rw [hk]; dsimp only
  rw [if_pos h]; rfl

theorem injection_unread (h : i.left ≠ 0)
    (hr : s.devRead x.part false i.queue 64 = (u, none) ∨ ∃ b, s.devRead x.part false i.queue 64 = (u, some (b, true))) :
    execEvTokenInjection die slot s = .next (u.finishInject die slot x va w dl q re (s.words x.pa) i) := by
  unfold execEvTokenInjection
  rw [hx]; dsimp only
  rw [hk]; dsimp only
  rw [if_neg h]
  rcases hr with hr | ⟨b, hr⟩
  · rw [hr]; rfl
  · rw [hr]; rfl

theorem injection_moves {hd : List Byte} (h : i.left ≠ 0) (hr : s.devRead x.part false i.queue 64 = (u, some (hd, false))) :
    execEvTokenInjection die slot s = .next (State.injected die slot x va w dl q re (s.words x.pa) i hd
      ((List.range (min (ringRoom hd) i.left)).foldl (injectStep x.part i hd) (u, 0, false))) := by
  unfold execEvTokenInjection
  rw [hx]; dsimp only
  rw [hk]; dsimp only
  rw [if_neg h, hr]
  rfl

end

/-- TOKEN_INJECTION (R46, R289). -/
theorem tokensInject (s : State) (die slot : Nat) (x : FSlot) (va : Word) (w : Waiter) (dl : Option Nat) (q : Option Word) (re : Option (Word × Nat)) (j : Inject)
    (hx : s.slot die slot = some x) (hk : x.kind = .future va w dl q re (some j)) :
    let i : Instr := .evTokenInjection die slot
    let holds := fun (t : State) (k : Inject) => t.slot die slot = some { x with kind := .future va w dl q re (some k) }
    let done := fun (u t : State) (n : Nat) => holds t { j with left := 0, done := n, wait_ := [] }
      ∧ releases u t die slot x.part va (s.latestNat x.pa 8) (s.latestNat (x.pa + 8) 8) n j.wait_
    (j.left = 0 → ∃ t, runs i s t ∧ done s t j.done)
    ∧ (j.left ≠ 0 →
      (∀ u, (s.devRead x.part false j.queue 64 = (u, none) ∨ ∃ b, s.devRead x.part false j.queue 64 = (u, some (b, true))) → ∃ t, runs i s t ∧ done u t j.done)
      ∧ ∀ u hd, s.devRead x.part false j.queue 64 = (u, some (hd, false)) →
        let cap := bnat hd 8 4
        let tail := bnat hd 16 4
        let used := (tail + 2 ^ 32 - bnat hd 12 4) % 2 ^ 32
        (∃ t n, runs i s t ∧ n ≤ min (cap - used) j.left ∧ (holds t { j with left := j.left - n, done := j.done + n } ∧ t.flights = s.flights ∧ n < j.left
          ∨ done u t (j.done + n)))
        ∧ (cap ≤ used → ∃ t, runs i s t ∧ holds t j ∧ t.flights = s.flights)
        ∧ (∀ v tok z, j.left = 1 → used < cap →
          (j.src = none ∧ v = u ∧ tok = bnat hd (24 + 4 * j.done) 4 ∨ (∃ buf b, j.src = some buf ∧ u.devRead x.part false (buf + BitVec.ofNat 64 (4 + 4 * j.done)) 4 = (v, some (b, false)) ∧ tok = leNat b)) →
          v.devWrite x.part false (BitVec.ofNat 64 (bnat hd 0 8 + 4 * (tail % cap))) (leBytes 4 tok) = (z, true) →
          ∃ t, runs i s t ∧ done z t (j.done + 1) ∧ t.mem = (z.devWrite x.part false (j.queue + 16) (leBytes 4 (tail + 1))).1.mem)
        ∧ ∀ zs : Nat → State, let m := min (cap - used) j.left
          zs 0 = u → (∀ k < m, ∃ v tok, (j.src = none ∧ v = zs k ∧ tok = bnat hd (24 + 4 * (j.done + k)) 4
              ∨ ∃ buf b, j.src = some buf ∧ (zs k).devRead x.part false (buf + BitVec.ofNat 64 (4 + 4 * (j.done + k))) 4 = (v, some (b, false)) ∧ tok = leNat b)
            ∧ v.devWrite x.part false (BitVec.ofNat 64 (bnat hd 0 8 + 4 * ((tail + k) % cap))) (leBytes 4 tok) = (zs (k + 1), true)) →
          ∃ t, runs i s t ∧ t.mem = ((zs m).devWrite x.part false (j.queue + 16) (leBytes 4 (tail + m))).1.mem
            ∧ (m < j.left → holds t { j with left := j.left - m, done := j.done + m } ∧ t.flights = s.flights) ∧ (m = j.left → done (zs m) t (j.done + m))) := by
  intro i holds done
  have hfinish : ∀ (v u : State) (k : Inject), k.queue = j.queue → k.src = j.src → k.wait_ = j.wait_ → v.flights = u.flights → v.harts = u.harts →
      done u (v.finishInject die slot x va w dl q re (s.words x.pa) k) k.done := fun v u k h1 h2 h3 hf hh => by
    obtain ⟨hslot, hrel, -⟩ := v.finishInject_spec (die := die) (slot := slot) (x := x) (va := va) (w := w) (dl := dl) (q := q) (re := re) (s.words x.pa) k
    refine ⟨hslot.trans ?_, ?_⟩
    · rw [h1, h2]
    · rw [← h3]; exact releases_from hrel hf hh
  refine ⟨fun h => ⟨_, injection_over hx hk h, hfinish s s j rfl rfl rfl rfl rfl⟩, fun h => ⟨fun u hr => ⟨_, injection_unread hx hk h hr, hfinish u u j rfl rfl rfl rfl rfl⟩, fun u hd hr => ?_⟩⟩
  intro cap tail used
  have hrun := injection_moves hx hk h hr
  have hu : OnlyMemory s u := by
    have h := s.devRead_onlyMemory x.part false j.queue 64
    rwa [hr] at h
  have htail : ∀ (v : State) (n : Nat), OnlyMemory v (v.devWrite x.part false (j.queue + 16) (leBytes 4 (bnat hd 16 4 + n))).1 := fun v n => v.devWrite_onlyMemory ..
  have hends : ∀ (v : State) (n : Nat) (bad : Bool), (bad || j.left - n = 0) = true → State.injected die slot x va w dl q re (s.words x.pa) j hd (v, n, bad) =
      (v.devWrite x.part false (j.queue + 16) (leBytes 4 (tail + n))).1.finishInject die slot x va w dl q re (s.words x.pa) { j with left := j.left - n, done := j.done + n } :=
    fun v n bad hb => if_pos hb
  have hgoes : ∀ (v : State) (n : Nat), ¬j.left - n = 0 → State.injected die slot x va w dl q re (s.words x.pa) j hd (v, n, false) =
      (v.devWrite x.part false (j.queue + 16) (leBytes 4 (tail + n))).1.setSlot die slot { x with kind := .future va w dl q re (some { j with left := j.left - n, done := j.done + n }) } :=
    fun v n hb => if_neg (by simpa using hb)
  have hall : ∀ zs : Nat → State, zs 0 = u → (∀ k < min (cap - used) j.left, ∃ v tok, (j.src = none ∧ v = zs k ∧ tok = bnat hd (24 + 4 * (j.done + k)) 4
              ∨ ∃ buf b, j.src = some buf ∧ (zs k).devRead x.part false (buf + BitVec.ofNat 64 (4 + 4 * (j.done + k))) 4 = (v, some (b, false)) ∧ tok = leNat b)
            ∧ v.devWrite x.part false (BitVec.ofNat 64 (bnat hd 0 8 + 4 * ((tail + k) % cap))) (leBytes 4 tok) = (zs (k + 1), true)) →
      runs i s (State.injected die slot x va w dl q re (s.words x.pa) j hd (zs (min (cap - used) j.left), min (cap - used) j.left, false)) := fun zs h0 hz => by
    have hfold := foldl_injectStep_all x.part j hd (min (cap - used) j.left) zs fun k hk => by
      obtain ⟨v, tok, ht, hw⟩ := hz k hk
      exact ⟨v, tok, State.tokenAt_some ht, hw⟩
    rw [h0] at hfold
    rw [show ringRoom hd = cap - used from rfl, hfold] at hrun
    exact hrun
  have hset : ∀ (v : State) (n : Nat) (k : Inject), OnlyMemory u v →
      ((v.devWrite x.part false (j.queue + 16) (leBytes 4 (tail + n))).1.setSlot die slot { x with kind := .future va w dl q re (some k) }).flights = s.flights :=
    fun v n k hv => ((hu.trans hv).trans (htail v n)).flights
  have hends' : ∀ (v : State) (n : Nat) (bad : Bool), OnlyMemory u v → (bad || j.left - n = 0) = true →
      done u (State.injected die slot x va w dl q re (s.words x.pa) j hd (v, n, bad)) (j.done + n) := fun v n bad hv hb => by
    rw [hends v n bad hb]
    exact hfinish _ u { j with left := j.left - n, done := j.done + n } rfl rfl rfl (hv.trans (htail v n)).flights (hv.trans (htail v n)).harts
  have hends'' : ∀ (v : State) (n : Nat), j.left - n = 0 →
      done v (State.injected die slot x va w dl q re (s.words x.pa) j hd (v, n, false)) (j.done + n)
        ∧ (State.injected die slot x va w dl q re (s.words x.pa) j hd (v, n, false)).mem = (v.devWrite x.part false (j.queue + 16) (leBytes 4 (tail + n))).1.mem :=
    fun v n hb => by
    rw [hends v n false (by simpa using hb)]
    exact ⟨hfinish _ v { j with left := j.left - n, done := j.done + n } rfl rfl rfl (htail v n).flights (htail v n).harts, (State.finishInject_spec ..).2.2⟩
  refine ⟨?_, fun hfull => ?_, fun v tok z h1 hroom ht hw => ?_, fun zs => ?_⟩
  · obtain ⟨hv, hn⟩ := foldl_injectStep x.part j hd (min (ringRoom hd) j.left) u
    generalize (List.range (min (ringRoom hd) j.left)).foldl (injectStep x.part j hd) (u, 0, false) = r at hrun hv hn
    obtain ⟨v, n, bad⟩ := r
    refine ⟨_, n, hrun, hn, ?_⟩
    by_cases hb : (bad || j.left - n = 0) = true
    · exact .inr (hends' v n bad hv hb)
    · obtain ⟨rfl, hl⟩ : bad = false ∧ ¬j.left - n = 0 := by simpa using hb
      refine .inl ?_
      rw [hgoes v n hl]
      exact ⟨State.setSlot_slot .., hset v n _ hv, by omega⟩
  · have hroom : ringRoom hd = 0 := Nat.sub_eq_zero_of_le hfull
    rw [hroom, Nat.zero_min] at hrun
    refine ⟨_, hrun, ?_⟩
    rw [show (List.range 0).foldl (injectStep x.part j hd) (u, 0, false) = (u, 0, false) from rfl, hgoes u 0 h]
    exact ⟨State.setSlot_slot .., hset u 0 _ (.refl u)⟩
  · have hm : min (cap - used) j.left = 1 := by omega
    have hstep : injectStep x.part j hd (u, 0, false) 0 = (z, 1, false) := injectStep_moves (State.tokenAt_some
      (ht.imp (fun ⟨a, b, c⟩ => ⟨a, b, c⟩) fun ⟨a, b, c⟩ => ⟨a, b, c⟩)) hw
    rw [show ringRoom hd = cap - used from rfl, hm, List.range_one, List.foldl_cons, List.foldl_nil, hstep] at hrun
    have hz := hends'' z 1 (by omega)
    exact ⟨State.injected die slot x va w dl q re (s.words x.pa) j hd (z, 1, false), hrun, hz⟩
  · intro m h0 hz
    refine ⟨_, hall zs h0 hz, ?_⟩
    by_cases hm : m = j.left
    · obtain ⟨h1, h2⟩ := hends'' (zs m) m (by omega)
      exact ⟨h2, fun hlt => absurd hm (Nat.ne_of_lt hlt), fun _ => h1⟩
    · have hle : m ≤ j.left := Nat.min_le_right _ _
      have hv : OnlyMemory u (zs m) := by
        have hfold := foldl_injectStep_all x.part j hd m zs fun k hk => by
          obtain ⟨v, tok, ht, hw⟩ := hz k hk
          exact ⟨v, tok, State.tokenAt_some ht, hw⟩
        have h := (foldl_injectStep x.part j hd m (zs 0)).1
        rw [hfold] at h
        exact h0 ▸ h
      rw [hgoes (zs m) m (by omega)]
      exact ⟨State.setSlot_mem .., fun _ => ⟨State.setSlot_slot .., hset _ m _ hv⟩, fun h => absurd h hm⟩

end Sys2Proof.Machine
end

section
/-! Submissions (R48, R49). -/

namespace Sys2Proof.Machine
open Sys2Proof Sys2Proof.Claims

variable {s t u v w : State}

/-! The checks of a record and of its image (R49). -/

theorem lrHeaderOk_iff (r : List Byte) : lrHeaderOk r = true ↔ bnat r 0 2 = 1 ∧ bnat r 3 1 < 32 ∧ bnat r 4 4 = 0 ∧ bnat r 29 3 = 0 ∧ bnat r 96 32 = 0
    ∧ bnat r 28 1 ≤ 2 ∧ ∀ i < 8, levelClean (bnat r (32 + 8 * i) 8) = true := by
  unfold lrHeaderOk lrFlags lrNpar lrLevelWord
  simp only [Bool.and_eq_true, decide_eq_true_eq, List.all_eq_true, List.mem_range, and_assoc]

theorem mem_imageEntries (h : List Byte) (e : Nat × BitVec 256) :
    e ∈ imageEntries h ↔ e.1 < 64 ∧ e.2 = BitVec.ofNat 256 (bnat h (32 * e.1) 32) ∧ entBnd e.2 = true := by
  unfold imageEntries
  simp only [List.mem_filter, List.mem_map, List.mem_range]
  constructor
  · rintro ⟨⟨c, hc, rfl⟩, hb⟩; exact ⟨hc, rfl, hb⟩
  · rintro ⟨h1, h2, h3⟩; exact ⟨⟨e.1, h1, by rw [← h2]⟩, h3⟩

theorem entInvalid_bnd {e : BitVec 256} (h : entInvalid e = true) : entBnd e = true := by
  unfold entInvalid at h
  exact (Bool.and_eq_true_iff.1 h).1

theorem image_invalid_iff (h : List Byte) : ((imageEntries h).any fun e => entInvalid e.2) = true ↔ ∃ c < 64, entInvalid (BitVec.ofNat 256 (bnat h (32 * c) 32)) = true := by
  simp only [List.any_eq_true, mem_imageEntries]
  constructor
  · rintro ⟨e, ⟨h1, h2, -⟩, h3⟩; exact ⟨e.1, h1, h2 ▸ h3⟩
  · rintro ⟨c, h1, h2⟩; exact ⟨(c, _), ⟨h1, rfl, entInvalid_bnd h2⟩, h2⟩

theorem image_kernel_iff (h : List Byte) (user : Bool) (region : List (Nat × Nat × Nat)) (f : Nat → Word) :
    (user && region.any fun c => (imageEntries h).any fun e => (f c.1).getLsbD e.1) = true
      ↔ user = true ∧ ∃ p ∈ region, ∃ c < 64, entBnd (BitVec.ofNat 256 (bnat h (32 * c) 32)) = true ∧ (f p.1).getLsbD c = true := by
  simp only [Bool.and_eq_true, List.any_eq_true, mem_imageEntries]
  refine and_congr_right fun _ => exists_congr fun p => and_congr_right fun _ => ?_
  constructor
  · rintro ⟨e, ⟨h1, h2, h3⟩, h4⟩; exact ⟨e.1, h1, h2 ▸ h3, h4⟩
  · rintro ⟨c, h1, h2, h3⟩; exact ⟨(c, _), ⟨h1, rfl, h2⟩, h3⟩

/-! A submission is judged (R49). -/

/-- What a submission comes to: its status, which the record and the image decide, and the launch that status 0 accepts. -/
structure Judged (s : State) (pid : Nat) (a : Word) (user : Bool) (q : State × Nat × Option Launch) : Prop where
  status : submitStatus s pid a user q.2.1
  launches : q.1.launches = s.launches
  statuses : q.1.statuses = s.statuses
  refused : q.2.2 = none → q.2.1 ≠ 0
  accepted : ∀ l, q.2.2 = some l → q.2.1 = 0 ∧ ∃ u r, s.devRead pid (!user) a 256 = (u, some (r, false))
    ∧ l.part = pid ∧ l.rec_ = BitVec.ofNat 2048 (leNat r) ∧ l.fresh = true
    ∧ l.todo = (lrRegion (s.part pid).gridW r).flatMap fun c => l.image.map fun e => (c.1, e.1)

theorem Judged.refuse {pid : Nat} {a : Word} {user : Bool} {k : Nat} (hs : submitStatus s pid a user k) (hk : k ≠ 0) (hm : OnlyMemory s v) :
    Judged s pid a user (v, k, none) :=
  ⟨hs, show v.rest.launches = s.rest.launches from congrArg State.launches hm.rest, show v.rest.statuses = s.rest.statuses from congrArg State.statuses hm.rest,
    fun _ => hk, fun l h => by cases h⟩

theorem State.devRead_left {pid : Nat} {kmode : Bool} {va : Word} {n : Nat} {o : Option (List Byte × Bool)} (h : s.devRead pid kmode va n = (u, o)) : OnlyMemory s u := by
  have := s.devRead_onlyMemory pid kmode va n
  rwa [h] at this

/-- Submissions are judged in the order of R49. -/
theorem State.judgeLaunch_judged (s : State) (pid : Nat) (a : Word) (user : Bool) : Judged s pid a user (s.judgeLaunch pid a user) := by
  unfold State.judgeLaunch
  dsimp only
  by_cases h0 : a.toNat % 64 = 0
  case neg => rw [if_pos h0]; exact .refuse (.inl ⟨h0, rfl⟩) (by decide) (.refl s)
  rw [if_neg (not_not.2 h0)]
  rcases hr : s.devRead pid (!user) a 256 with ⟨u, _ | ⟨r, _ | _⟩⟩
  · exact .refuse (.inr ⟨h0, .inl ⟨u, .inl hr, rfl⟩⟩) (by decide) (State.devRead_left hr)
  swap
  · exact .refuse (.inr ⟨h0, .inl ⟨u, .inr ⟨r, hr⟩, rfl⟩⟩) (by decide) (State.devRead_left hr)
  have hu := State.devRead_left hr
  have p0 := fun (k : Nat) h => (show submitStatus s pid a user k from .inr ⟨h0, .inr ⟨u, r, hr, h⟩⟩)
  dsimp only at p0 ⊢
  by_cases h1 : lrHeaderOk r = true
  case neg => rw [if_pos (by simpa using h1)]; exact .refuse (p0 1 (.inl ⟨fun h => h1 ((lrHeaderOk_iff r).2 h), rfl⟩)) (by decide) hu
  rw [if_neg (by simp [h1])]
  have p1 := fun (k : Nat) h => p0 k (.inr ⟨(lrHeaderOk_iff r).1 h1, h⟩)
  by_cases h2 : lrNlev r = 0 ∨ 8 < lrNlev r ∨ (!levelsOk none ⟨lrW r, lrH r, 4⟩ (lrLevels r)) = true
  · rw [if_pos h2]
    refine .refuse (p1 2 (.inl ⟨fun ⟨ha, hb, hc⟩ => ?_, rfl⟩)) (by decide) hu
    rcases h2 with h | h | h
    · exact absurd ha (by rw [show bnat r 2 1 = 0 from h]; decide)
    · exact absurd hb (Nat.not_le.2 h)
    · rw [show levelsOk none ⟨lrW r, lrH r, 4⟩ (lrLevels r) = true from hc] at h; cases h
  rw [if_neg h2]
  have hlev : 1 ≤ bnat r 2 1 ∧ bnat r 2 1 ≤ 8 ∧ levelsOk none ⟨bnat r 26 1, bnat r 27 1, 4⟩ (lrLevels r) = true := by
    simp only [not_or, Bool.not_eq_true', Bool.not_eq_false] at h2
    exact ⟨Nat.pos_of_ne_zero h2.1, Nat.not_lt.1 h2.2.1, h2.2.2⟩
  have p2 := fun (k : Nat) h => p1 k (.inr ⟨hlev, h⟩)
  by_cases h3 : (s.part pid).rectOk (lrX0 r) (lrY0 r) (lrW r) (lrH r) = true
  case neg => rw [if_pos (by simpa using h3)]; exact .refuse (p2 3 (.inl ⟨h3, rfl⟩)) (by decide) hu
  rw [if_neg (by simp [h3])]
  have p3 := fun (k : Nat) h => p2 k (.inr ⟨h3, h⟩)
  by_cases h4 : (lrCode r).toNat % 32 ≠ 0 ∨ (lrHtab r).toNat % 32 ≠ 0
  · rw [if_pos h4]; exact .refuse (p3 4 (.inl ⟨h4, rfl⟩)) (by decide) hu
  rw [if_neg h4]
  obtain ⟨hc, hh⟩ : (lrCode r).toNat % 32 = 0 ∧ (lrHtab r).toNat % 32 = 0 := by simpa [not_or] using h4
  have p4 := fun (k : Nat) h => p3 k (.inr ⟨hc, hh, h⟩)
  have hx := u.xlateDev_onlyMemory pid (!user) .fetch (lrCode r)
  rcases hxe : u.xlateDev pid (!user) .fetch (lrCode r) with e | ⟨l, v⟩
  · rw [hxe] at hx
    exact .refuse (p4 4 (.inl ⟨⟨e, hxe⟩, rfl⟩)) (by decide) (hu.trans hx)
  rw [hxe] at hx
  have hv : OnlyMemory s v := hu.trans hx
  dsimp only
  rcases hi : v.devRead pid (!user) (lrHtab r) 2048 with ⟨w, _ | ⟨h, _ | _⟩⟩
  · exact .refuse (p4 4 (.inr ⟨l, v, hxe, .inl ⟨⟨w, .inl hi⟩, rfl⟩⟩)) (by decide) (hv.trans (State.devRead_left hi))
  swap
  · exact .refuse (p4 4 (.inr ⟨l, v, hxe, .inl ⟨⟨w, .inr ⟨h, hi⟩⟩, rfl⟩⟩)) (by decide) (hv.trans (State.devRead_left hi))
  have hw : OnlyMemory s w := hv.trans (State.devRead_left hi)
  have p5 := fun (k : Nat) h' => p4 k (.inr ⟨l, v, hxe, .inr ⟨w, h, hi, h'⟩⟩)
  dsimp only at p5 ⊢
  by_cases h6 : ((imageEntries h).any fun e => entInvalid e.2) = true
  · rw [if_pos h6]; exact .refuse (p5 6 (.inl ⟨(image_invalid_iff h).1 h6, rfl⟩)) (by decide) hw
  rw [if_neg h6]
  have p6 := fun (k : Nat) h' => p5 k (.inr ⟨fun hno => h6 ((image_invalid_iff h).2 hno), h'⟩)
  by_cases h7 : (user && (lrRegion (s.part pid).gridW r).any fun c => (imageEntries h).any fun e => (w.kchanAt pid c.1).getLsbD e.1) = true
  · rw [if_pos h7]; exact .refuse (p6 7 (.inl ⟨(image_kernel_iff h user _ _).1 h7, rfl⟩)) (by decide) hw
  rw [if_neg h7]
  have p7 := fun (k : Nat) h' => p6 k (.inr ⟨fun hno => h7 ((image_kernel_iff h user _ _).2 hno), h'⟩)
  have hpar : ((List.range (lrNpar r)).any (w.lrParcelBad pid r (imageEntries h))) = true ↔ ∃ i < bnat r 28 1, w.lrParcelBad pid r (imageEntries h) i = true := by
    simp only [List.any_eq_true, List.mem_range]; rfl
  by_cases h8 : (List.range (lrNpar r)).any (w.lrParcelBad pid r (imageEntries h)) = true
  · rw [if_pos h8]; exact .refuse (p7 5 (.inl ⟨hpar.1 h8, rfl⟩)) (by decide) hw
  rw [if_neg h8]
  exact ⟨p7 0 (.inr ⟨fun hno => h8 (hpar.2 hno), rfl⟩), show w.rest.launches = s.rest.launches from congrArg State.launches hw.rest,
    show w.rest.statuses = s.rest.statuses from congrArg State.statuses hw.rest, fun h => (by cases h),
    fun l hl => (by cases hl; exact ⟨rfl, u, r, hr, rfl, rfl, rfl, rfl⟩)⟩

/-- LAUNCH_SUBMIT (R49). -/
theorem launchSubmits (s : State) (pid addr : Nat) (user : Bool) : ∃ t k, runs (.evLaunchSubmit pid addr user) s t ∧ submitStatus s pid (BitVec.ofNat 64 addr) user k
      ∧ t.statuses = s.statuses ++ [(pid, BitVec.ofNat 64 addr, k)] ∧ (k ≠ 0 → t.launches = s.launches)
      ∧ (k = 0 → ∃ l u r, t.launches = s.launches ++ [l] ∧ s.devRead pid (!user) (BitVec.ofNat 64 addr) 256 = (u, some (r, false))
          ∧ l.part = pid ∧ l.rec_ = BitVec.ofNat 2048 (leNat r) ∧ l.fresh = true
          ∧ l.todo = (lrRegion (s.part pid).gridW r).flatMap fun c => l.image.map fun e => (c.1, e.1)) := by
  have hj := s.judgeLaunch_judged pid (BitVec.ofNat 64 addr) user
  have hrun : runs (.evLaunchSubmit pid addr user) s { (s.submit pid (BitVec.ofNat 64 addr) user).1 with
      statuses := (s.submit pid (BitVec.ofNat 64 addr) user).1.statuses ++ [(pid, BitVec.ofNat 64 addr, (s.submit pid (BitVec.ofNat 64 addr) user).2)] } := rfl
  rcases hq : s.judgeLaunch pid (BitVec.ofNat 64 addr) user with ⟨v, k, _ | l⟩
  · have hsub : s.submit pid (BitVec.ofNat 64 addr) user = (v, k) := by unfold State.submit; rw [hq]
    rw [hq] at hj
    rw [hsub] at hrun
    exact ⟨_, k, hrun, hj.status, congrArg (· ++ _) hj.statuses, fun _ => hj.launches, fun h => absurd h (hj.refused rfl)⟩
  · have hsub : s.submit pid (BitVec.ofNat 64 addr) user = ({ v with launches := v.launches ++ [l] }, k) := by unfold State.submit; rw [hq]
    rw [hq] at hj
    rw [hsub] at hrun
    obtain ⟨h0, u, r, hrest⟩ := hj.accepted l rfl
    exact ⟨_, k, hrun, hj.status, congrArg (· ++ _) hj.statuses, fun h => absurd h0 h, fun _ => ⟨l, u, r, congrArg (· ++ _) hj.launches, hrest⟩⟩

/-! The levels of a launch (R49). -/

/-- A level below another in the table has a lower domain and no higher scope. -/
def Level.below (a b : Level) : Prop := b.dom < a.dom ∧ b.scope ≤ a.scope

theorem levelsOk_spec (ls : List Level) (prev : Option Level) (g : Group3) (h : levelsOk prev g ls = true) :
    (∀ p, prev = some p → ∀ l ∈ ls, p.below l) ∧ ls.Pairwise Level.below
      ∧ ∀ l ∈ ls, leastScope l.dom ≤ l.scope ∧ l.ext ≠ 0 ∧ (5 ≤ l.dom → l.ext = 1) := by
  induction ls generalizing prev g with
  | nil => exact ⟨fun _ _ _ h => absurd h List.not_mem_nil, .nil, fun _ h => absurd h List.not_mem_nil⟩
  | cons l ls ih =>
    unfold levelsOk at h
    simp only [Bool.and_eq_true, decide_eq_true_eq] at h
    obtain ⟨⟨⟨hfall, -⟩, hleast⟩, htile⟩ := h
    cases ht : l.tile g with
    | none => rw [ht] at htile; cases htile
    | some g' =>
      rw [ht] at htile
      obtain ⟨hbelow, hpair, hall⟩ := ih (some l) g' htile
      have hext : l.ext ≠ 0 := fun h0 => by
        unfold Level.tile at ht
        rw [if_pos h0] at ht; cases ht
      have hone : 5 ≤ l.dom → l.ext = 1 := fun h5 => by
        unfold Level.tile at ht
        rw [if_neg hext] at ht
        obtain ⟨d, hd⟩ := Nat.exists_eq_add_of_le' h5
        rw [hd] at ht
        by_contra hne
        dsimp only at ht
        rw [if_neg hne] at ht
        cases ht
      refine ⟨fun p hp m hm => ?_, List.pairwise_cons.2 ⟨hbelow l rfl, hpair⟩, fun m hm => ?_⟩
      · subst hp
        have hpl : p.below l := by simpa [Level.below] using hfall
        rcases List.mem_cons.1 hm with rfl | hm
        · exact hpl
        · have := hbelow l rfl m hm
          exact ⟨this.1.trans hpl.1, this.2.trans hpl.2⟩
      · rcases List.mem_cons.1 hm with rfl | hm
        · exact ⟨hleast, hext, hone⟩
        · exact hall m hm

end Sys2Proof.Machine
end

section
/-! Launches that proceed (R50, R51). -/

namespace Sys2Proof.Machine
open Sys2Proof Sys2Proof.Claims

variable {s t u v w : State} {l : Launch}

/-! The cells of a launch. -/

theorem State.launchAt_of (s : State) (l : Launch) (c : Nat × Nat) {e : BitVec 32} (hr : (s.part l.part).resolve c.1 = some e) (hk : entKind e = 1)
    (he : entEvict e = false) : s.launchAt l c = some (entCell e) := by
  rw [State.launchAt, hr]
  simp [hk, he]

theorem launchAt_of_parts (h : t.parts = s.parts) (l : Launch) (c : Nat × Nat) : t.launchAt l c = s.launchAt l c := by
  rw [State.launchAt, State.launchAt, State.part, State.part, h]

theorem bnat_lt (b : List Byte) (lo n : Nat) : bnat b lo n < 256 ^ n := by
  refine (leNat_lt _).trans_le (Nat.pow_le_pow_right (by decide) ?_)
  exact List.length_take_le _ _

/-! The entry that a launch writes (R50). -/

/-- The bits of ENTRY. -/
def entryMask : BitVec 256 := BitVec.ofNat 256 ((2 ^ 55 - 1) * 2 ^ 64)

theorem entryMask_bit (b : Nat) (hb : b < 256) : entryMask.getLsbD b = (decide (64 ≤ b) && decide (b < 119)) := by
  rw [entryMask, BitVec.getLsbD_ofNat, Nat.testBit_mul_two_pow, Nat.testBit_two_pow_sub_one, decide_eq_true hb, Bool.true_and]
  by_cases h : 64 ≤ b
  · simp only [h, decide_true, Bool.true_and, decide_eq_decide]; omega
  · simp [h]

theorem launchEntry_bit (e : BitVec 256) (code : Word) (b : Nat) (hb : b < 256) : (launchEntry e code).getLsbD b =
    if 64 ≤ b ∧ b < 119 then ((entEntry e + code.toNat / 4) % 2 ^ 55).testBit (b - 64) else e.getLsbD b := by
  have hm := entryMask_bit b hb
  have hlt : (entEntry e + code.toNat / 4) % 2 ^ 55 < 2 ^ 55 := Nat.mod_lt _ (by decide)
  unfold launchEntry
  dsimp only
  rw [show BitVec.ofNat 256 ((2 ^ 55 - 1) * 2 ^ 64) = entryMask from rfl, BitVec.getLsbD_or, BitVec.getLsbD_and, BitVec.getLsbD_not, hm, BitVec.getLsbD_ofNat,
    Nat.testBit_mul_two_pow, decide_eq_true hb]
  generalize (entEntry e + code.toNat / 4) % 2 ^ 55 = n at hlt ⊢
  by_cases h1 : 64 ≤ b
  · by_cases h2 : b < 119
    · simp [h1, h2]
    · have : n.testBit (b - 64) = false := Nat.testBit_lt_two_pow (hlt.trans_le (Nat.pow_le_pow_right (by decide) (by omega)))
      simp [h1, h2, this]
  · simp [h1]

theorem launchEntry_entry (e : BitVec 256) (code : Word) : entEntry (launchEntry e code) = (entEntry e + code.toNat / 4) % 2 ^ 55 := by
  have h : (launchEntry e code).extractLsb' 64 55 = BitVec.ofNat 55 (entEntry e + code.toNat / 4) := by
    apply BitVec.eq_of_getLsbD_eq
    intro i hi
    rw [BitVec.getLsbD_extractLsb', launchEntry_bit _ _ _ (by omega), if_pos (by omega), BitVec.getLsbD_ofNat, Nat.testBit_mod_two_pow, Nat.add_sub_cancel_left]
    simp [hi]
  rw [entEntry, ebits_eq, h, BitVec.toNat_ofNat]

theorem launchEntry_bnd (e : BitVec 256) (code : Word) : entBnd (launchEntry e code) = entBnd e := by
  have h : (launchEntry e code).extractLsb' 0 1 = e.extractLsb' 0 1 := by
    apply BitVec.eq_of_getLsbD_eq
    intro i hi
    rw [BitVec.getLsbD_extractLsb', BitVec.getLsbD_extractLsb', launchEntry_bit _ _ _ (by omega), if_neg (by omega)]
  rw [entBnd, entBnd, ebits_eq, ebits_eq, h]

/-! Binding (R50). -/

/-- What a launch sets of a channel. -/
def Chan.bound (c : Chan) : BitVec 256 × ChanSt × Nat × Nat := (c.entry, c.st, c.skip, c.boost)

theorem Winds.bound {n : Nat} (h : Winds n s t) (c k : Nat) : (t.chan c k).bound = (s.chan c k).bound := h.of_chan Chan.bound (fun _ _ _ => rfl) c k

theorem State.bindChan_winds (s : State) (cell chan : Nat) (e : BitVec 256) :
    Winds cell (s.setChan cell chan ((s.chan cell chan).bind e)) (s.bindChan cell chan e) := by
  unfold State.bindChan
  dsimp only
  split
  · exact State.spoilClashes_winds ..
  · exact .refl _

theorem State.bindChan_bare (s : State) (cell chan : Nat) (e : BitVec 256) : (s.bindChan cell chan e).bare = s.bare := by
  unfold State.bindChan
  dsimp only
  split
  · exact State.spoilClashes_bare ..
  · rfl

/-- One entry of a launch is written. -/
def State.bindOne (s : State) (l : Launch) (c : Nat × Nat) (n : Nat) : State :=
  let s := s.bindChan n c.2 (launchEntry (mget 0 l.image c.2) (lrCode l.record))
  s.setChan n c.2 { s.chan n c.2 with placed := s.placedIn l c.1 }

theorem State.bindOne_bare (s : State) (l : Launch) (c : Nat × Nat) (n : Nat) : (s.bindOne l c n).bare = s.bare := s.bindChan_bare n c.2 _

/-- The channel of the entry is bound; others stay as they were. -/
theorem State.bindOne_bound (s : State) (l : Launch) (c : Nat × Nat) (n m d : Nat) : ((s.bindOne l c n).chan m d).bound =
    if n = m ∧ c.2 = d then ((s.chan m d).bind (launchEntry (mget 0 l.image c.2) (lrCode l.record))).bound else (s.chan m d).bound := by
  have hw := s.bindChan_winds n c.2 (launchEntry (mget 0 l.image c.2) (lrCode l.record))
  unfold State.bindOne
  dsimp only
  rw [State.setChan_chan]
  split
  · next h =>
    obtain ⟨rfl, rfl⟩ := h
    refine (hw.bound n c.2).trans ?_
    rw [State.setChan_chan, if_pos ⟨rfl, rfl⟩]
  · next h =>
    refine (hw.bound m d).trans ?_
    rw [State.setChan_chan, if_neg h]

theorem State.launchBind_eq (s : State) (l : Launch) : s.launchBind l = l.todo.foldl (fun s c => (s.launchAt l c).elim s (s.bindOne l c)) s := by
  unfold State.launchBind
  congr 1
  funext s c
  cases s.launchAt l c <;> rfl

/-- A fold over the entries binds each of their channels, when no two are the same one. -/
theorem foldl_bindOne (l : Launch) (cs : List (Nat × Nat)) (s : State) (place : Nat × Nat → Option Nat) (hp : ∀ (t : State) c, t.bare = s.bare → t.launchAt l c = place c)
    (hno : (cs.map fun c => (place c).map fun n => (n, c.2)).Nodup) :
    let t := cs.foldl (fun s c => (s.launchAt l c).elim s (s.bindOne l c)) s
    t.bare = s.bare ∧ (∀ m d, (∀ c ∈ cs, (place c).map (fun n => (n, c.2)) ≠ some (m, d)) → (t.chan m d).bound = (s.chan m d).bound)
      ∧ ∀ c ∈ cs, ∀ n, place c = some n → (t.chan n c.2).bound =
        (launchEntry (mget 0 l.image c.2) (lrCode l.record), if entBnd (mget 0 l.image c.2) then .idle else .unbound, 0, 0) := by
  induction cs generalizing s with
  | nil => exact ⟨rfl, fun _ _ _ => rfl, fun c hc => absurd hc List.not_mem_nil⟩
  | cons a cs ih =>
    rw [List.map_cons, List.nodup_cons] at hno
    obtain ⟨ha, hno⟩ := hno
    rw [List.foldl_cons, hp s a rfl]
    have hv : ((place a).elim s (s.bindOne l a)).bare = s.bare := by
      cases place a with
      | none => rfl
      | some n => exact s.bindOne_bare l a n
    obtain ⟨h1, h2, h3⟩ := ih ((place a).elim s (s.bindOne l a)) (fun t c ht => hp t c (ht.trans hv)) hno
    have hstep : ∀ m d, (place a).map (fun n => (n, a.2)) ≠ some (m, d) → (((place a).elim s (s.bindOne l a)).chan m d).bound = (s.chan m d).bound := fun m d h => by
      cases hpa : place a with
      | none => rfl
      | some n =>
        rw [hpa] at h
        refine (s.bindOne_bound l a n m d).trans (if_neg fun he => h ?_)
        rw [← he.1, ← he.2]; rfl
    refine ⟨h1.trans hv, fun m d h => ?_, fun c hc n hn => ?_⟩
    · exact (h2 m d fun c hc => h c (List.mem_cons_of_mem _ hc)).trans (hstep m d (h a List.mem_cons_self))
    · rcases List.mem_cons.1 hc with rfl | hc
      · refine (h2 n c.2 fun b hb he => ha (List.mem_map.2 ⟨b, hb, ?_⟩)).trans ?_
        · rw [he, hn]; rfl
        · rw [hn]
          refine (s.bindOne_bound l c n n c.2).trans ((if_pos ⟨rfl, rfl⟩).trans ?_)
          show (launchEntry _ _, (if entBnd (launchEntry _ _) then ChanSt.idle else .unbound), 0, 0) = _
          rw [launchEntry_bnd]
      · exact h3 c hc n hn

/-! Launch areas (R51). -/

theorem length_bslice (b : List Byte) (lo n : Nat) : (bslice b lo n).length = n := by
  simp only [bslice, List.length_append, List.length_take, List.length_drop, List.length_replicate]
  omega

theorem bslice_getD (b : List Byte) (n j : Nat) (h : j < n) : (bslice b 0 n).getD j 0 = b.getD j 0 := by
  rw [bslice, List.drop_zero, List.getD_eq_getElem?_getD, List.getD_eq_getElem?_getD]
  by_cases hb : j < b.length
  · rw [List.getElem?_append_left (by rw [List.length_take]; omega), List.getElem?_take_of_lt h]
  · rw [List.getElem?_append_right (by rw [List.length_take]; omega), List.getElem?_eq_none (l := b) (by omega), List.length_take, List.getElem?_replicate]
    split <;> rfl

theorem mget_foldl_mset (ws : List (Nat × Byte)) (m : SMap Byte) (y : Nat) :
    mget 0 (ws.foldl (fun m w => mset 0 m w.1 w.2) m) y = (written ws y).getD (mget 0 m y) := by
  induction ws generalizing m with
  | nil => rfl
  | cons w ws ih =>
    rw [List.foldl_cons, ih, written, mget_mset]
    cases written ws y with
    | some b => rfl
    | none => dsimp only; split <;> rfl

theorem State.spoilMail_cell (s : State) (cell off n d : Nat) : ∃ chs, (s.spoilMail cell off n).cell d = { s.cell d with chans := chs }
    ∧ (cell ≠ d → chs = (s.cell d).chans) := by
  unfold State.spoilMail
  dsimp only
  split
  · rw [show ∀ (t : State) f, State.cell { t with free := f } d = t.cell d from fun _ _ => rfl, State.setCell_cell]
    split
    · next h => subst h; exact ⟨_, rfl, fun h => absurd rfl h⟩
    · exact ⟨_, rfl, fun _ => rfl⟩
  · exact ⟨_, rfl, fun _ => rfl⟩

theorem State.spoilMail_bare (s : State) (cell off n : Nat) : (s.spoilMail cell off n).bare = s.bare := by
  unfold State.spoilMail
  dsimp only
  split <;> rfl

theorem State.storeWrite_bare (s : State) (cell off : Nat) (bs : List Byte) : (s.storeWrite cell off bs).bare = s.bare := State.spoilMail_bare _ _ _ _

theorem State.storeWrite_bound (s : State) (cell off : Nat) (bs : List Byte) (m d : Nat) : ((s.storeWrite cell off bs).chan m d).bound = (s.chan m d).bound := by
  refine ((State.spoilMail_winds _ _ _ _).bound m d).trans (Winds.bound (n := cell) ?_ m d)
  exact Winds.setCell s cell _ rfl rfl fun _ => rfl

theorem State.storeWrite_other (s : State) {cell d : Nat} (off : Nat) (bs : List Byte) (h : cell ≠ d) : (s.storeWrite cell off bs).cell d = s.cell d := by
  obtain ⟨chs, hc, hs⟩ := State.spoilMail_cell (s.setCell cell { ((s.cell cell).wakeFor off bs.length).rawWrite off bs with
    cpoison := ((granules off bs.length).filter fun g => off ≤ 64 * g && 64 * g + 64 ≤ off + bs.length).foldl (fun m g => mdel m g)
      (((s.cell cell).wakeFor off bs.length).rawWrite off bs).cpoison }) cell off bs.length d
  refine hc.trans ?_
  rw [hs h, State.setCell_cell, if_neg h]

theorem State.storeWrite_own (s : State) (cell off : Nat) (bs : List Byte) : ((s.storeWrite cell off bs).cell cell).istore = (s.cell cell).istore
    ∧ (∀ k, (s.storeWrite cell off bs).ctx cell k = s.ctx cell k)
    ∧ ∀ y, mget 0 ((s.storeWrite cell off bs).cell cell).store y = if off ≤ y ∧ y < off + bs.length then bs.getD (y - off) 0 else mget 0 (s.cell cell).store y := by
  obtain ⟨chs, hc, -⟩ := State.spoilMail_cell (s.setCell cell { ((s.cell cell).wakeFor off bs.length).rawWrite off bs with
    cpoison := ((granules off bs.length).filter fun g => off ≤ 64 * g && 64 * g + 64 ≤ off + bs.length).foldl (fun m g => mdel m g)
      (((s.cell cell).wakeFor off bs.length).rawWrite off bs).cpoison }) cell off bs.length cell
  replace hc : (s.storeWrite cell off bs).cell cell = _ := hc
  rw [State.setCell_cell, if_pos rfl] at hc
  refine ⟨by rw [hc]; rfl, fun k => by rw [State.ctx, hc]; rfl, fun y => ?_⟩
  rw [hc]
  refine (mget_foldl_mset _ _ y).trans ?_
  rw [written_addrBytes]
  split <;> rfl

/-- The area of a launch at a cell of its region: the cell's group indices, then the record. -/
def launchAreaBytes (l : Launch) (c : Nat × Nat × Nat × Nat) : List Byte :=
  bslice ((groupIndices ⟨lrW l.record, lrH l.record, 4⟩ c.2.2.1 c.2.2.2 (lrLevels l.record)).flatMap fun i => leBytes 2 i) 0 32 ++ l.record

theorem launchAreaBytes_getD (l : Launch) (c : Nat × Nat × Nat × Nat) (j : Nat) : (launchAreaBytes l c).getD j 0 = if j < 32 then
    ((groupIndices ⟨lrW l.record, lrH l.record, 4⟩ c.2.2.1 c.2.2.2 (lrLevels l.record)).flatMap fun i => leBytes 2 i).getD j 0 else l.record.getD (j - 32) 0 := by
  rw [launchAreaBytes, List.getD_eq_getElem?_getD]
  split
  · next h => rw [List.getElem?_append_left (by rw [length_bslice]; exact h), ← List.getD_eq_getElem?_getD, bslice_getD _ _ _ h]
  · next h => rw [List.getElem?_append_right (by rw [length_bslice]; omega), ← List.getD_eq_getElem?_getD, length_bslice]

theorem launchAreaBytes_length (l : Launch) (c : Nat × Nat × Nat × Nat) : (launchAreaBytes l c).length = 288 := by
  rw [launchAreaBytes, List.length_append, length_bslice, Launch.record, length_leBytes]

/-- The contexts of a cell take the mode of a launch. -/
def Cell.withMode (k : Cell) (f8 : Bool) : Cell := [0, 1, 2, 3].foldl (fun (k : Cell) x => k.setCtx x { k.ctx x with fmode := f8 }) k

theorem Cell.withMode_fmode (k : Cell) (f8 : Bool) (x : Nat) (h : x < 4) : ((k.withMode f8).ctx x).fmode = f8 := by
  rw [Cell.withMode]
  simp only [List.foldl_cons, List.foldl_nil, Cell.setCtx_ctx]
  interval_cases x <;> simp

/-- A cell with an empty instruction store. -/
def Cell.noLines (k : Cell) : Cell := { k with istore := [] }

theorem Cell.noLines_ctx (k : Cell) (x : Nat) : k.noLines.ctx x = k.ctx x := rfl
theorem Cell.noLines_chan (k : Cell) (x : Nat) : k.noLines.chan x = k.chan x := rfl
theorem Cell.withMode_chan (k : Cell) (f8 : Bool) (x : Nat) : (k.withMode f8).chan x = k.chan x :=
  foldl_keeps (fun z : Cell => z.chan x = k.chan x) _ _ k rfl fun z y h => (Cell.setCtx_chan z y x _).trans h

/-- A cell of a launch before its area is written. -/
def Cell.prepared (k : Cell) (f8 : Bool) : Cell := (k.withMode f8).noLines

theorem Cell.prepared_istore (k : Cell) (f8 : Bool) : (k.prepared f8).istore = [] := rfl
theorem Cell.prepared_ctx (k : Cell) (f8 : Bool) (x : Nat) : (k.prepared f8).ctx x = (k.withMode f8).ctx x := (k.withMode f8).noLines_ctx x
theorem Cell.prepared_chan (k : Cell) (f8 : Bool) (x : Nat) : (k.prepared f8).chan x = k.chan x :=
  ((k.withMode f8).noLines_chan x).trans (k.withMode_chan f8 x)

/-- What a launch leaves of a cell of its region (R50, R51). -/
structure Launched (l : Launch) (c : Nat × Nat × Nat × Nat) (k : Cell) : Prop where
  istore : k.istore = []
  mode : ∀ x < 4, (k.ctx x).fmode = lrF8 l.record
  area : ∀ j < 288, mget 0 k.store (Config.launchArea + j) = (launchAreaBytes l c).getD j 0

theorem State.launchCell_eq (s : State) (l : Launch) (c : Nat × Nat × Nat × Nat) : s.launchCell l c =
    (s.setCell c.1 ((s.cell c.1).prepared (lrF8 l.record))).storeWrite c.1 Config.launchArea (launchAreaBytes l c) := rfl

theorem State.launchCell_launched (s : State) (l : Launch) (c : Nat × Nat × Nat × Nat) : Launched l c ((s.launchCell l c).cell c.1) := by
  rw [State.launchCell_eq]
  obtain ⟨hi, hx, hst⟩ := (s.setCell c.1 ((s.cell c.1).prepared (lrF8 l.record))).storeWrite_own c.1 Config.launchArea (launchAreaBytes l c)
  refine ⟨hi.trans ?_, fun x h => (congrArg Ctx.fmode (hx x)).trans ?_, fun j h => (hst _).trans ?_⟩
  · rw [State.setCell_cell, if_pos rfl, Cell.prepared_istore]
  · rw [State.ctx, State.setCell_cell, if_pos rfl, Cell.prepared_ctx, Cell.withMode_fmode _ _ x h]
  · rw [launchAreaBytes_length, if_pos (by omega), Nat.add_sub_cancel_left]

theorem State.launchCell_other (s : State) (l : Launch) {c : Nat × Nat × Nat × Nat} {d : Nat} (h : c.1 ≠ d) : (s.launchCell l c).cell d = s.cell d := by
  rw [State.launchCell_eq, State.storeWrite_other _ _ _ h, State.setCell_cell, if_neg h]

theorem State.launchCell_bare (s : State) (l : Launch) (c : Nat × Nat × Nat × Nat) : (s.launchCell l c).bare = s.bare := State.storeWrite_bare _ _ _ _

theorem State.launchCell_bound (s : State) (l : Launch) (c : Nat × Nat × Nat × Nat) (m d : Nat) : ((s.launchCell l c).chan m d).bound = (s.chan m d).bound := by
  rw [State.launchCell_eq, State.storeWrite_bound, State.chan, State.setCell_cell]
  split
  · next h => rw [← h, Cell.prepared_chan]; rfl
  · rfl

/-- The cells of a launch, one after another. -/
theorem foldl_launchCell (l : Launch) (cs : List (Nat × Nat × Nat × Nat)) (s : State) (hno : (cs.map fun c => c.1).Nodup) :
    let t := cs.foldl (fun s c => s.launchCell l c) s
    t.bare = s.bare ∧ (∀ m d, (t.chan m d).bound = (s.chan m d).bound) ∧ ∀ c ∈ cs, Launched l c (t.cell c.1) := by
  refine ⟨foldl_keeps (fun t : State => t.bare = s.bare) _ cs s rfl fun t c h => (t.launchCell_bare l c).trans h,
    fun m d => foldl_keeps (fun t : State => (t.chan m d).bound = (s.chan m d).bound) _ cs s rfl fun t c h => (t.launchCell_bound l c m d).trans h, ?_⟩
  induction cs generalizing s with
  | nil => exact fun c hc => absurd hc List.not_mem_nil
  | cons a cs ih =>
    rw [List.map_cons, List.nodup_cons] at hno
    obtain ⟨ha, hno⟩ := hno
    intro c hc
    rcases List.mem_cons.1 hc with rfl | hc
    · refine List.foldlRecOn (motive := fun t : State => Launched l c (t.cell c.1)) cs _ (s.launchCell_launched l c) fun t ht b hb => ?_
      rw [State.launchCell_other t l fun e => ha (List.mem_map.2 ⟨b, hb, e⟩)]
      exact ht
    · exact ih _ hno c hc

/-! The initial parcels. -/

/-- An initial parcel of a launch. -/
def launchParcel (l : Launch) (i : Nat) : Vec :=
  let h := bnat l.record (128 + 64 * i) 4
  mkParcel (mkHdr 0 false false (lrF8 l.record) l.part 0xFFFF (nbits 24 8 h) (nbits 16 8 h) (nbits 0 16 h)) ((bslice l.record (128 + 64 * i) 64).drop 8)

theorem bnat_bslice (b : List Byte) (lo n k : Nat) (h : k ≤ n) : bnat (bslice b lo n) 0 k = bnat b lo k := by
  rw [bnat, bnat, bslice, List.drop_zero, List.take_append, leNat_append, List.take_take, Nat.min_eq_left h, List.take_replicate]
  rw [show List.replicate _ (0 : Byte) = zeros _ from rfl, leNat_zeros, Nat.mul_zero, Nat.add_zero]

theorem State.launchParcels_eq (s : State) (l : Launch) : s.launchParcels l =
    (List.range (lrNpar l.record)).foldl (fun s i => s.launchFlight (launchParcel l i) l.part .launch) s := by
  unfold State.launchParcels launchParcel
  simp only [lrParcel, bnat_bslice _ _ _ _ (show 4 ≤ 64 by decide)]

theorem State.launchFlight_cells (s : State) (p : Vec) (part : Nat) (o : Origin) : (s.launchFlight p part o).cells = s.cells := rfl
theorem State.launchFlight_launches (s : State) (p : Vec) (part : Nat) (o : Origin) : (s.launchFlight p part o).launches = s.launches := rfl

/-- Parcels leave, and nothing else changes. -/
theorem foldl_launchFlight (p : Nat → Vec) (part : Nat) (o : Origin) (ns : List Nat) (s : State) :
    (ns.foldl (fun s i => s.launchFlight (p i) part o) s).cells = s.cells ∧ (ns.foldl (fun s i => s.launchFlight (p i) part o) s).launches = s.launches
      ∧ adds s (ns.foldl (fun s i => s.launchFlight (p i) part o) s) (ns.map p) := by
  induction ns generalizing s with
  | nil => exact ⟨rfl, rfl, adds_of_flights rfl⟩
  | cons n ns ih =>
    obtain ⟨hc, hl, ha⟩ := ih (s.launchFlight (p n) part o)
    exact ⟨hc.trans (State.launchFlight_cells ..), hl.trans (State.launchFlight_launches ..), adds_trans (adds_launchFlight s (p n) part o) ha⟩

theorem State.launchParcels_cells (s : State) (l : Launch) : (s.launchParcels l).cells = s.cells := by
  rw [State.launchParcels_eq]; exact (foldl_launchFlight ..).1

theorem State.launchParcels_launches (s : State) (l : Launch) : (s.launchParcels l).launches = s.launches := by
  rw [State.launchParcels_eq]; exact (foldl_launchFlight ..).2.1

theorem State.launchParcels_adds (s : State) (l : Launch) : adds s (s.launchParcels l) ((List.range (lrNpar l.record)).map (launchParcel l)) := by
  rw [State.launchParcels_eq]; exact (foldl_launchFlight ..).2.2

end Sys2Proof.Machine
end

section
/-! A launch waits and proceeds (R50), and the settlement of O27. -/

namespace Sys2Proof.Machine
open Sys2Proof Sys2Proof.Claims

variable {s t u : State} {l : Launch} {n : Nat}

/-- An entry of a launch whose cell is no evicted one, with its channel. -/
def State.present (s : State) (l : Launch) (c : Nat × Nat) : Prop := ∃ e, (s.part l.part).resolve c.1 = some e ∧ entKind e = 1 ∧ entEvict e = false

/-- The physical cell and the channel that an entry of a launch names. -/
def State.placeOf (s : State) (l : Launch) (c : Nat × Nat) : Option (Nat × Nat) := ((s.part l.part).resolve c.1).map fun e => (entCell e, c.2)

/-- The channel of an entry is Runnable or Running. -/
def State.busyAt (s : State) (l : Launch) (c : Nat × Nat) : Prop :=
  ∃ k d, s.placeOf l c = some (k, d) ∧ ((s.chan k d).st = .runnable ∨ (s.chan k d).st = .running)

theorem State.present_place {c : Nat × Nat} (h : s.present l c) : ∃ k, s.launchAt l c = some k ∧ s.placeOf l c = some (k, c.2) := by
  obtain ⟨e, hr, hk, he⟩ := h
  exact ⟨entCell e, s.launchAt_of l c hr hk he, by rw [State.placeOf, hr]; rfl⟩

theorem State.placeOf_eq {c : Nat × Nat} (h : s.present l c) : s.placeOf l c = (s.launchAt l c).map fun k => (k, c.2) := by
  obtain ⟨k, ha, hp⟩ := s.present_place h
  rw [ha, hp]; rfl

/-- A launch is ready when none of its channels is busy. -/
theorem State.launchReady_iff (h : ∀ c ∈ l.todo, s.present l c) : s.launchReady l = true ↔ ∀ c ∈ l.todo, ¬s.busyAt l c := by
  rw [State.launchReady, List.all_eq_true]
  refine forall₂_congr fun c hc => ?_
  obtain ⟨k, ha, hp⟩ := s.present_place (h c hc)
  rw [ha, State.busyAt, hp]
  simp only [Option.some.injEq, Prod.mk.injEq]
  constructor
  · rintro hst ⟨k', d', ⟨rfl, rfl⟩, hb⟩
    rcases hb with hb | hb <;> simp [hb] at hst
  · intro hb
    simp only [Bool.and_eq_true, bne_iff_ne]
    exact ⟨fun e => hb ⟨k, c.2, ⟨rfl, rfl⟩, .inl e⟩, fun e => hb ⟨k, c.2, ⟨rfl, rfl⟩, .inr e⟩⟩

theorem launchProceeds_held (hl : s.launches[n]? = some l) (hf : l.fresh = true) (h : s.tokensReady l = false ∨ s.launchBehind l = true) :
    runs (.evLaunchProceed n) s s := by
  show execEvLaunchProceed n s = _
  unfold execEvLaunchProceed
  rw [hl]
  refine congrArg Host.Outcome.next (if_pos ?_)
  rw [hf]
  rcases h with h | h <;> rw [h]
  · rfl
  · simp

/-- The state in which a launch waits for its channels. -/
def State.launchWaits (s : State) (n : Nat) (l : Launch) : State := { s with launches := s.launches.set n { l with fresh := false } }

/-- The state after steps 2 to 6 of R50. -/
def State.launched (s : State) (n : Nat) (l : Launch) (cs : List (Nat × Nat × Nat × Nat)) : State :=
  let u := cs.foldl (fun s c => s.launchCell l c) (s.launchBind l)
  { u with launches := u.launches.eraseIdx n }.launchParcels l

theorem launchProceeds_runs (hl : s.launches[n]? = some l) (hf : l.fresh = true → s.tokensReady l = true ∧ s.launchBehind l = false) :
    (s.launchReady l = false → runs (.evLaunchProceed n) s (s.launchWaits n l))
    ∧ ∀ cs, s.launchCells l = some cs → s.launchReady l = true → runs (.evLaunchProceed n) s (s.launched n l cs) := by
  have hg : ¬(l.fresh && (!s.tokensReady l || s.launchBehind l)) = true := by
    cases hfr : l.fresh with
    | false => exact Bool.false_ne_true
    | true => obtain ⟨h1, h2⟩ := hf hfr; rw [h1, h2]; exact Bool.false_ne_true
  refine ⟨fun hr => ?_, fun cs hcs hr => ?_⟩
  · show execEvLaunchProceed n s = _
    unfold execEvLaunchProceed
    rw [hl]
    refine congrArg Host.Outcome.next ((if_neg hg).trans ?_)
    rw [hr]
    cases s.launchCells l <;> rfl
  · show execEvLaunchProceed n s = _
    unfold execEvLaunchProceed
    rw [hl]
    refine congrArg Host.Outcome.next ((if_neg hg).trans ?_)
    rw [hcs, hr]
    rfl

theorem launches_of_bare (h : t.bare = s.bare) : t.launches = s.launches := by have h := congrArg State.launches h; exact h
theorem flights_of_bare (h : t.bare = s.bare) : t.flights = s.flights := by have h := congrArg State.flights h; exact h
theorem parts_of_bare (h : t.bare = s.bare) : t.parts = s.parts := by have h := congrArg State.parts h; exact h

/-- What a launch that proceeds leaves. -/
theorem State.launched_spec (s : State) (n : Nat) (cs : List (Nat × Nat × Nat × Nat)) (hp : ∀ c ∈ l.todo, s.present l c) (hno : (l.todo.map (s.placeOf l)).Nodup)
    (hcs : (cs.map fun c => c.1).Nodup) : (s.launched n l cs).launches = s.launches.eraseIdx n
      ∧ (∀ c ∈ l.todo, ∀ k d, s.placeOf l c = some (k, d) → ((s.launched n l cs).chan k d).bound =
          (launchEntry (mget 0 l.image c.2) (lrCode l.record), if entBnd (mget 0 l.image c.2) then .idle else .unbound, 0, 0))
      ∧ adds s (s.launched n l cs) ((List.range (lrNpar l.record)).map (launchParcel l)) ∧ ∀ c ∈ cs, Launched l c ((s.launched n l cs).cell c.1) := by
  have hmap : l.todo.map (s.placeOf l) = l.todo.map fun c => (s.launchAt l c).map fun k => (k, c.2) :=
    List.map_congr_left fun c hc => State.placeOf_eq (hp c hc)
  obtain ⟨hbb, -, hbc⟩ := foldl_bindOne l l.todo s (s.launchAt l) (fun t c ht => launchAt_of_parts (parts_of_bare ht) l c) (hmap ▸ hno)
  rw [← State.launchBind_eq] at hbb hbc
  obtain ⟨hcb, hcc, hcl⟩ := foldl_launchCell l cs (s.launchBind l) hcs
  have hl : (s.launched n l cs) = { cs.foldl (fun (s : State) c => s.launchCell l c) (s.launchBind l) with
    launches := (cs.foldl (fun (s : State) c => s.launchCell l c) (s.launchBind l)).launches.eraseIdx n }.launchParcels l := rfl
  generalize cs.foldl (fun (s : State) c => s.launchCell l c) (s.launchBind l) = v at hcb hcc hcl hl
  have hvb : v.bare = s.bare := hcb.trans hbb
  have hcells : (s.launched n l cs).cells = v.cells := by rw [hl, State.launchParcels_cells]
  refine ⟨?_, fun c hc k d hk => ?_, ?_, fun c hc => ?_⟩
  · rw [hl, State.launchParcels_launches]
    exact congrArg (List.eraseIdx · n) (launches_of_bare hvb)
  · obtain ⟨k', ha, hpl⟩ := s.present_place (hp c hc)
    rw [hpl, Option.some.injEq, Prod.mk.injEq] at hk
    obtain ⟨rfl, rfl⟩ := hk
    rw [chan_of_cells hcells, hcc]
    exact hbc c hc _ ha
  · rw [hl]
    exact adds_from (State.launchParcels_adds _ l) (show v.flights = s.flights from flights_of_bare hvb)
  · rw [cell_of_cells hcells]
    exact hcl c hc

theorem launchProceeds (s : State) (n : Nat) (l : Launch) (hl : s.launches[n]? = some l) :
    let i : Instr := .evLaunchProceed n
    (l.fresh = true → (s.tokensReady l = false ∨ s.launchBehind l = true) → runs i s s)
    ∧ ((l.fresh = true → s.tokensReady l = true ∧ s.launchBehind l = false) →
      let place := fun (c : Nat × Nat) => ((s.part l.part).resolve c.1).map fun e => (entCell e, c.2)
      let busy := fun (c : Nat × Nat) => ∃ k d, place c = some (k, d) ∧ ((s.chan k d).st = .runnable ∨ (s.chan k d).st = .running)
      (∀ c ∈ l.todo, ∃ e, (s.part l.part).resolve c.1 = some e ∧ entKind e = 1 ∧ entEvict e = false) → (l.todo.map place).Nodup →
      ((∃ c ∈ l.todo, busy c) → runs i s { s with launches := s.launches.set n { l with fresh := false } })
      ∧ ∀ cs, (∀ c ∈ l.todo, ¬busy c) → s.launchCells l = some cs → (cs.map fun c => c.1).Nodup → ∃ t, runs i s t ∧ t.launches = s.launches.eraseIdx n
        ∧ (∀ c ∈ l.todo, ∀ k d, place c = some (k, d) → let e := mget 0 l.image c.2
            entEntry (t.chan k d).entry = (entEntry e + bnat l.record 8 8 / 4) % 2 ^ 55 ∧ (∀ b < 256, b < 64 ∨ 119 ≤ b → (t.chan k d).entry.getLsbD b = e.getLsbD b)
              ∧ (t.chan k d).skip = 0 ∧ (t.chan k d).boost = 0 ∧ (t.chan k d).st = if entBnd e then .idle else .unbound)
        ∧ adds s t ((List.range (bnat l.record 28 1)).map fun i => let h := bnat l.record (128 + 64 * i) 4
            mkParcel (mkHdr 0 false false (lrF8 l.record) l.part 0xFFFF (nbits 24 8 h) (nbits 16 8 h) (nbits 0 16 h)) ((bslice l.record (128 + 64 * i) 64).drop 8))
        ∧ ∀ c ∈ cs, (t.cell c.1).istore = [] ∧ (∀ k < 4, (t.ctx c.1 k).fmode = lrF8 l.record)
          ∧ let ix := (groupIndices ⟨bnat l.record 26 1, bnat l.record 27 1, 4⟩ c.2.2.1 c.2.2.2 (lrLevels l.record)).flatMap fun i => leBytes 2 i
            ∀ j < 288, mget 0 (t.cell c.1).store (0x5FEE0 + j) = if j < 32 then ix.getD j 0 else l.record.getD (j - 32) 0) := by
  refine ⟨launchProceeds_held hl, fun hf hp hno => ⟨fun hb => ?_, fun cs hb hcs hnc => ?_⟩⟩
  · obtain ⟨c, hc, hb⟩ := hb
    refine (launchProceeds_runs hl hf).1 (Bool.eq_false_iff.2 fun hr => (State.launchReady_iff hp).1 hr c hc hb)
  · obtain ⟨hla, hch, had, hce⟩ := s.launched_spec n cs hp hno hnc
    refine ⟨_, (launchProceeds_runs hl hf).2 cs hcs ((State.launchReady_iff hp).2 hb), hla, fun c hc k d hk => ?_, had, fun c hc => ?_⟩
    · have hbd := hch c hc k d hk
      simp only [Chan.bound, Prod.mk.injEq] at hbd
      obtain ⟨he, hst, hsk, hbo⟩ := hbd
      refine ⟨?_, fun b hb hr => ?_, hsk, hbo, hst⟩
      · rw [he, launchEntry_entry, lrCode, BitVec.toNat_ofNat, Nat.mod_eq_of_lt (b := 2 ^ 64) (bnat_lt l.record 8 8)]
      · rw [he, launchEntry_bit _ _ _ hb, if_neg (by omega)]
    · obtain ⟨hi, hm, har⟩ := hce c hc
      exact ⟨hi, hm, fun j hj => (har j hj).trans (launchAreaBytes_getD l c j)⟩

/-- Settles O27: the deadline of a future, the injection of tokens, the submission of a launch, its levels, and its start. -/
theorem futuresAndLaunches : Obligations.FuturesAndLaunches := by
  unfold Obligations.FuturesAndLaunches
  exact ⟨deadlineExpires, tokensInject, launchSubmits, fun g ls h => (levelsOk_spec ls none g h).2, launchProceeds⟩

end Sys2Proof.Machine
end

section
/-! What the end of invocations and a scrub leave of the state (R391 to R395). -/

namespace Sys2Proof.Machine
open Sys2Proof Sys2Proof.Claims

variable {s t u : State} {cells : List Nat}

/-! The frame. -/

/-- A partition but for its held records and its counts of tasks popped and of tokens. -/
def Part.face (p : Part) : Part := { p with heldDev := [], pops := 0, tokenSeq := 0 }

theorem Part.st_of_face {p q : Part} (h : p.face = q.face) : p.st = q.st := by have e := congrArg Part.st h; exact e
theorem Part.table_of_face {p q : Part} (h : p.face = q.face) : p.table = q.table := by have e := congrArg Part.table h; exact e
theorem Part.seg_of_face {p q : Part} (h : p.face = q.face) : p.seg = q.seg := by have e := congrArg Part.seg h; exact e
theorem Part.sched_of_face {p q : Part} (h : p.face = q.face) : p.sched = q.sched := by have e := congrArg Part.sched h; exact e

/-- The state but for the cells, the partitions, what leaves the device or its memory, and the log of tokens. -/
def State.bedrock (s : State) : State := { s.husk with parts := [], tokens := [], scrubSeq := 0 }

/-- From s to t invocations of some cells ended, or those cells were scrubbed. -/
structure Keeps (cells : List Nat) (s t : State) : Prop where
  bedrock : t.bedrock = s.bedrock
  face : ∀ p, (t.part p).face = (s.part p).face
  flights : ∀ f ∈ t.flights, f ∈ s.flights ∨ f.leg = .way
  tags : Entered s t
  cell : ∀ c, (t.cell c).tag = (s.cell c).tag ∧ (t.cell c).lcell = (s.cell c).lcell
  other : ∀ c, c ∉ cells → Spared (s.cell c) (t.cell c)

namespace Keeps

theorem refl (s : State) : Keeps cells s s := ⟨rfl, fun _ => rfl, fun _ h => .inl h, .of_cells rfl, fun _ => ⟨rfl, rfl⟩, fun _ _ => .inl rfl⟩

theorem trans (h : Keeps cells s t) (g : Keeps cells t u) : Keeps cells s u :=
  ⟨g.bedrock.trans h.bedrock, fun p => (g.face p).trans (h.face p), fun f hf => (g.flights f hf).elim (h.flights f) .inr, h.tags.trans g.tags fun c => (h.cell c).1,
    fun c => ⟨(g.cell c).1.trans (h.cell c).1, (g.cell c).2.trans (h.cell c).2⟩, fun c hc => (h.other c hc).trans (g.other c hc)⟩

theorem foldl {β : Type} (f : State → β → State) (l : List β) (s : State) (hf : ∀ t, ∀ b ∈ l, Keeps cells t (f t b)) : Keeps cells s (l.foldl f s) :=
  List.foldlRecOn (motive := fun t => Keeps cells s t) l f (refl s) fun t ht b hb => ht.trans (hf t b hb)

theorem of_access {n : Nat} (h : Access n s t) (hn : n ∈ cells) : Keeps cells s t := by
  refine ⟨congrArg (fun z : State => { z with flights := [], serial := 0, hypEvents := [], parts := [], tokens := [], scrubSeq := 0 }) h.core,
    fun p => by rw [h.part], fun f hf => .inl (h.flights ▸ hf), h.tags, fun c => ⟨h.of_cell (·.tag) (fun _ => rfl) c, h.of_cell (·.lcell) (fun _ => rfl) c⟩, fun c hc => ?_⟩
  exact .inl (h.other c fun e => hc (e ▸ hn))

theorem of_onlyMemory (h : OnlyMemory s t) : Keeps cells s t := by
  refine ⟨congrArg (fun z : State => { z with cells := [], l2tlbs := [], flights := [], serial := 0, hypEvents := [], parts := [], tokens := [], scrubSeq := 0 }) h.rest,
    fun p => ?_, fun f hf => .inl ((h.access (n := 0)).flights ▸ hf), .of_cells h.cells, fun c => ?_, fun c _ => .inl (cell_of_cells h.cells c)⟩
  · rw [(h.access (n := 0)).part]
  · rw [cell_of_cells h.cells]; exact ⟨rfl, rfl⟩

theorem of_ends {c k : Nat} (h : Ends s t c k) (hc : c ∈ cells) : Keeps cells s t := by
  refine ⟨congrArg (fun z : State => { z with tokens := [], scrubSeq := 0 }) h.husk, fun p => ?_, h.flights, h.tags, fun d => ?_, fun d hd => h.other d fun e => hd (e ▸ hc)⟩
  · obtain ⟨rs, n, e⟩ := h.part p
    rw [e]; rfl
  · obtain ⟨f, q, e⟩ := h.cell d
    have e1 := congrArg Cell.tag e
    have e2 := congrArg Cell.lcell e
    exact ⟨e1, e2⟩

section
variable (h : Keeps cells s t)
include h
theorem copies : t.copies = s.copies := by have e := congrArg State.copies h.bedrock; exact e
theorem tasks : t.tasks = s.tasks := by have e := congrArg State.tasks h.bedrock; exact e
theorem transfers : t.transfers = s.transfers := by have e := congrArg State.transfers h.bedrock; exact e
theorem launches : t.launches = s.launches := by have e := congrArg State.launches h.bedrock; exact e
theorem hypFaults : t.hypFaults = s.hypFaults := by have e := congrArg State.hypFaults h.bedrock; exact e
theorem futs : t.futs = s.futs := by have e := congrArg State.futs h.bedrock; exact e
theorem parks : t.parks = s.parks := by have e := congrArg State.parks h.bedrock; exact e
theorem sets : t.sets = s.sets := by have e := congrArg State.sets h.bedrock; exact e
theorem keys : t.keys = s.keys := by have e := congrArg State.keys h.bedrock; exact e
theorem gibs : t.gibs = s.gibs := by have e := congrArg State.gibs h.bedrock; exact e
theorem harts : t.harts = s.harts := by have e := congrArg State.harts h.bedrock; exact e
theorem vfs : t.vfs = s.vfs := by have e := congrArg State.vfs h.bedrock; exact e
theorem seg (p : Nat) : (t.part p).seg = (s.part p).seg := Part.seg_of_face (h.face p)
end

end Keeps

/-! Invocations of cells end. -/

/-- The invocations of some cells end, by force (R345). -/
def State.endAll (s : State) (cells : List Nat) : State :=
  cells.foldl (fun s c => [0, 1, 2, 3].foldl (fun s x =>
    if (s.ctx c x).st = .running ∨ (s.ctx c x).st = .suspended then s.endInvocation c x true else s) s) s

theorem State.endAll_keeps (s : State) (cells : List Nat) : Keeps cells s (s.endAll cells) := by
  refine .foldl _ _ s fun t c hc => .foldl _ _ t fun u x _ => ?_
  split
  · exact .of_ends (u.endInvocation_ends c x true) hc
  · exact .refl u

theorem idleCell_ctx {k : Cell} (h : idleCell k) (x : Nat) : (k.ctx x).st ≠ .running ∧ (k.ctx x).st ≠ .suspended := by
  rw [Cell.ctx, mget]
  cases hf : mfind k.ctxs x with
  | none => exact ⟨fun h => (by cases h), fun h => (by cases h)⟩
  | some y => exact h _ (mfind_mem hf)

theorem State.endAll_idle (s : State) (h : ∀ c ∈ cells, idleCell (s.cell c)) : s.endAll cells = s :=
  foldl_eq_self _ _ s fun c hc => foldl_eq_self _ _ s fun x _ => if_neg fun hst => by
    obtain ⟨h1, h2⟩ := idleCell_ctx (h c hc) x
    exact hst.elim h1 h2

/-! The scrub (R394). -/

theorem Cell.scrub_scrubbed (k : Cell) : scrubbed k.scrub :=
  ⟨rfl, rfl, rfl, rfl, rfl, rfl, rfl, rfl, rfl, rfl, rfl, rfl, rfl, rfl, rfl, rfl, rfl, rfl, rfl, rfl, rfl, rfl⟩

theorem Spared.scrubbed {k k' : Cell} (h : Spared k k') (hk : Claims.scrubbed k) : Claims.scrubbed k' := by
  rcases h with rfl | rfl
  · exact hk
  · obtain ⟨h1, h2, h3, h4, h5, h6, h7, h8, h9, h10, h11, h12, h⟩ := hk
    exact ⟨h1, h2, h3, h4, h5, h6, h7, h8, h9, h10, h11, by rw [Cell.unport, h12]; rfl, h⟩

/-- The stores of a cell's contexts are performed. -/
def State.drainCell (s : State) (cell : Nat) : State := [0, 1, 2, 3].foldl (fun s x => s.drainCtx cell x) s

/-- The entries of a cell's partition leave the shared TLB. -/
def State.dropL2 (s : State) (cell : Nat) : State :=
  { s with l2tlbs := mput s.l2tlbs (tlbGroup cell) ((mget [] s.l2tlbs (tlbGroup cell)).filter fun e => e.part != (s.cell cell).tag) }

/-- What comes before a cell is cleared. -/
def State.beforeScrub (s : State) (cell : Nat) : State := (s.drainCell cell).dropL2 cell

theorem State.dropL2_access {n : Nat} (s : State) (cell : Nat) : Access n s (s.dropL2 cell) := ⟨rfl, fun _ => rfl, fun _ _ => rfl, fun _ _ => rfl, .of_cells rfl⟩

theorem State.beforeScrub_access (s : State) (cell : Nat) : Access cell s (s.beforeScrub cell) := by
  have h : Access cell s (s.drainCell cell) := .foldl _ _ s fun t x => t.drainCtx_access cell x
  exact h.trans (State.dropL2_access _ cell)

theorem State.scrubCell_eq (s : State) (cell : Nat) : s.scrubCell cell = (s.beforeScrub cell).setCell cell ((s.beforeScrub cell).cell cell).scrub := by
  unfold State.scrubCell State.beforeScrub State.drainCell
  generalize List.foldl _ s [0, 1, 2, 3] = a
  rfl

theorem State.scrubCell_keeps (s : State) {cell : Nat} (hc : cell ∈ cells) : Keeps cells s (s.scrubCell cell) := by
  refine (Keeps.of_access (s.beforeScrub_access cell) hc).trans ?_
  rw [State.scrubCell_eq]
  generalize s.beforeScrub cell = t
  refine ⟨rfl, fun _ => rfl, fun _ h => .inl h, .setCell t cell _ rfl, fun d => ?_, fun d hd => .inl ?_⟩
  · rw [State.setCell_cell]; split
    · next h => subst h; exact ⟨rfl, rfl⟩
    · exact ⟨rfl, rfl⟩
  · rw [State.setCell_cell, if_neg fun e : cell = d => hd (e ▸ hc)]

theorem State.scrubCell_scrubs (s : State) (cell c : Nat) (h : c = cell ∨ scrubbed (s.cell c)) : scrubbed ((s.scrubCell cell).cell c) := by
  rw [State.scrubCell_eq, State.setCell_cell]
  split
  · exact Cell.scrub_scrubbed _
  · next hn => rw [(s.beforeScrub_access cell).other c (Ne.symm hn)]; exact h.resolve_left (Ne.symm hn)

theorem State.scrubCells_keeps (s : State) (cells : List Nat) : Keeps cells s (cells.foldl State.scrubCell s) :=
  .foldl _ _ s fun t _ hc => t.scrubCell_keeps hc

theorem State.scrubCells_scrubs (s : State) (cells : List Nat) (c : Nat) (h : c ∈ cells ∨ scrubbed (s.cell c)) : scrubbed ((cells.foldl State.scrubCell s).cell c) := by
  induction cells generalizing s with
  | nil => exact h.resolve_left List.not_mem_nil
  | cons a cells ih =>
    rw [List.foldl_cons]
    refine ih (s.scrubCell a) ?_
    rcases h with h | h
    · rcases List.mem_cons.1 h with rfl | h
      · exact .inr (s.scrubCell_scrubs _ _ (.inl rfl))
      · exact .inl h
    · exact .inr (s.scrubCell_scrubs a c (.inr h))

/-! The token (R395). -/

/-- A token is logged. -/
def State.logToken (s : State) (part kind : Nat) (cells logical : List Nat) : State :=
  let seq := s.scrubSeq + 1
  let s := { s with scrubSeq := seq, tokens := s.tokens ++ [(⟨part, cells, seq, tokenBytes part kind seq s.time.toNat cells.length logical⟩ : Token)] }
  s.setPart part { s.part part with tokenSeq := seq }

theorem State.putToken_onlyMemory (s : State) (part kind : Nat) (cells logical : List Nat) : OnlyMemory (s.logToken part kind cells logical) (s.putToken part kind cells logical) := by
  unfold State.putToken
  extract_lets seq bytes a b slot
  split
  · exact .refl _
  · exact State.devWrite_onlyMemory ..

theorem State.logToken_keeps (s : State) (part kind : Nat) (cells logical own : List Nat) : Keeps own s (s.logToken part kind cells logical) := by
  refine ⟨rfl, fun p => ?_, fun _ h => .inl h, .of_cells rfl, fun _ => ⟨rfl, rfl⟩, fun _ _ => .inl rfl⟩
  unfold State.logToken
  extract_lets seq a
  rw [State.setPart_part]
  split
  · next h => subst h; rfl
  · rfl

theorem State.putToken_keeps (s : State) (part kind : Nat) (cells logical own : List Nat) : Keeps own s (s.putToken part kind cells logical) :=
  (s.logToken_keeps ..).trans (.of_onlyMemory (s.putToken_onlyMemory ..))

theorem State.putToken_cells (s : State) (part kind : Nat) (cells logical : List Nat) : (s.putToken part kind cells logical).cells = s.cells :=
  (s.putToken_onlyMemory ..).cells

theorem OnlyMemory.tokens (h : OnlyMemory s t) : t.tokens = s.tokens := by have e := congrArg State.tokens h.rest; exact e
theorem OnlyMemory.scrubSeq (h : OnlyMemory s t) : t.scrubSeq = s.scrubSeq := by have e := congrArg State.scrubSeq h.rest; exact e

theorem State.putToken_logs (s : State) (part kind : Nat) (cells logical : List Nat) : (s.putToken part kind cells logical).scrubSeq = s.scrubSeq + 1
    ∧ ∃ k : Token, (s.putToken part kind cells logical).tokens = s.tokens ++ [k] ∧ k.part = part ∧ k.cells = cells ∧ k.seq = s.scrubSeq + 1 :=
  ⟨(s.putToken_onlyMemory ..).scrubSeq, _, (s.putToken_onlyMemory ..).tokens, rfl, rfl, rfl⟩

theorem Access.tokens {n : Nat} (h : Access n s t) : t.tokens = s.tokens := by have e := congrArg State.tokens h.core; exact e
theorem Access.scrubSeq {n : Nat} (h : Access n s t) : t.scrubSeq = s.scrubSeq := by have e := congrArg State.scrubSeq h.core; exact e

theorem State.scrubCell_log (s : State) (cell : Nat) : (s.scrubCell cell).tokens = s.tokens ∧ (s.scrubCell cell).scrubSeq = s.scrubSeq := by
  have h := s.beforeScrub_access cell
  rw [State.scrubCell_eq, ← h.tokens, ← h.scrubSeq]
  generalize s.beforeScrub cell = t
  exact ⟨rfl, rfl⟩

theorem State.scrubCells_log (s : State) (cells : List Nat) : (cells.foldl State.scrubCell s).tokens = s.tokens ∧ (cells.foldl State.scrubCell s).scrubSeq = s.scrubSeq :=
  foldl_keeps (fun t : State => t.tokens = s.tokens ∧ t.scrubSeq = s.scrubSeq) _ _ s ⟨rfl, rfl⟩ fun t c h =>
    ⟨(t.scrubCell_log c).1.trans h.1, (t.scrubCell_log c).2.trans h.2⟩

theorem State.scrubSet_keeps (s : State) (cells : List Nat) (part kind : Nat) (logical : List Nat) : Keeps cells s (s.scrubSet cells part kind logical) :=
  (s.scrubCells_keeps cells).trans (State.putToken_keeps ..)

theorem State.scrubSet_scrubs (s : State) (cells : List Nat) (part kind : Nat) (logical : List Nat) {c : Nat} (h : c ∈ cells) : scrubbed ((s.scrubSet cells part kind logical).cell c) := by
  rw [State.scrubSet, cell_of_cells (State.putToken_cells ..)]
  exact s.scrubCells_scrubs cells c (.inl h)

theorem State.scrubSet_logs (s : State) (cells : List Nat) (part kind : Nat) (logical : List Nat) : (s.scrubSet cells part kind logical).scrubSeq = s.scrubSeq + 1
    ∧ ∃ k : Token, (s.scrubSet cells part kind logical).tokens = s.tokens ++ [k] ∧ k.part = part ∧ k.cells = cells ∧ k.seq = s.scrubSeq + 1 := by
  obtain ⟨ht, hn⟩ := s.scrubCells_log cells
  have h := (cells.foldl State.scrubCell s).putToken_logs part kind cells logical
  rw [ht, hn] at h
  exact h

/-! Banks (R391). -/

theorem State.bankScrub_onlyMemory (s : State) (bank : Nat) : OnlyMemory s (s.bankScrub bank) := by
  unfold State.bankScrub
  extract_lets u agent
  split <;> exact .silent rfl rfl

theorem State.banksOf_onlyMemory (s : State) (pid : Nat) : OnlyMemory s (s.banksOf pid) :=
  .foldl _ _ s fun t _ => t.bankScrub_onlyMemory _

end Sys2Proof.Machine
end

section
/-! The end of a partition (R391 to R394). -/

namespace Sys2Proof.Machine
open Sys2Proof Sys2Proof.Claims

variable {s t u : State} {cells : List Nat} {pid : Nat}

/-! Memory keys (R393). -/

theorem State.giveUp_onlyMemory (s : State) (line : Nat) : OnlyMemory s (s.giveUp line) :=
  ((s.tellInv_onlyMemory line none).trans (State.collect_onlyMemory ..)).trans (State.setDir_onlyMemory ..)

/-- Blocks stand under other keys. -/
def State.withGibs (s : State) (g : SMap Nat) : State := { s with gibs := g }

theorem mget_foldl_gibs (bs : List Nat) (m : SMap Nat) (id b : Nat) : mget 0 (bs.foldl (fun m b => mset 0 m b id) m) b = if b ∈ bs then id else mget 0 m b := by
  induction bs generalizing m with
  | nil => simp
  | cons a bs ih =>
    rw [List.foldl_cons, ih, mget_mset]
    by_cases hb : b ∈ bs
    · simp [hb]
    · by_cases ha : a = b
      · simp [ha]
      · simp [hb, ha, Ne.symm ha]

/-- What agents hold of blocks that come under another key is given up. -/
def State.gain (s : State) (blocks : List Nat) (id : Nat) : State :=
  let gained := blocks.filter fun b => mget 0 s.gibs b != id
  s.dir.foldl (fun s e => if gained.contains (e.1 / 2 ^ 24) then s.giveUp e.1 else s) s

theorem State.gain_onlyMemory (s : State) (blocks : List Nat) (id : Nat) : OnlyMemory s (s.gain blocks id) :=
  .foldl _ _ s fun t e => by
    split
    · exact t.giveUp_onlyMemory _
    · exact .refl t

theorem State.setKeys_eq (s : State) (blocks : List Nat) (id : Nat) : s.setKeys blocks id =
    (s.gain blocks id).withGibs ((blocks.filter fun b => mget 0 s.gibs b != id).foldl (fun m b => mset 0 m b id) (s.gain blocks id).gibs) := rfl

theorem OnlyMemory.gibs (h : OnlyMemory s t) : t.gibs = s.gibs := by have e := congrArg State.gibs h.rest; exact e

/-- The blocks come under the key, and others stay. -/
theorem State.setKeys_gibs (s : State) (blocks : List Nat) (id b : Nat) : mget 0 (s.setKeys blocks id).gibs b = if b ∈ blocks then id else mget 0 s.gibs b := by
  rw [State.setKeys_eq]
  refine (mget_foldl_gibs _ _ _ _).trans ?_
  rw [(s.gain_onlyMemory blocks id).gibs]
  by_cases hb : b ∈ blocks
  · rw [if_pos hb]
    split
    · rfl
    · next hn => simpa [hb] using hn
  · rw [if_neg hb, if_neg fun h => hb (List.mem_filter.1 h).1]

/-! A list of cells under a map. -/

theorem mget_mapKeys {α : Type} (d : α) (m : SMap α) (f : Nat → α → α) (k : Nat) :
    mget d (m.map fun e => (e.1, f e.1 e.2)) k = (mfind m k).elim d (f k) := by
  rw [mget]
  induction m with
  | nil => rfl
  | cons a m ih =>
    obtain ⟨j, v⟩ := a
    rw [List.map_cons, mfind, mfind]
    split
    · next h => rw [h]; rfl
    · exact ih

/-! The end of a partition. -/

/-- A cell that belongs to no partition any more, as a scrub leaves it. -/
def Gone (k : Cell) : Prop := k.tag = 31 ∧ k.lcell = 0xFFFF ∧ scrubbed k

theorem Spared.gone {k k' : Cell} (h : Spared k k') (hk : Gone k) : Gone k' := by
  obtain ⟨h1, h2, h3⟩ := hk
  refine ⟨?_, ?_, h.scrubbed h3⟩
  · rcases h with rfl | rfl <;> exact h1
  · rcases h with rfl | rfl <;> exact h2

/-- A parcel no longer waits at a channel or with an evicted cell. -/
def Leg.loose (l : Leg) : Prop := l = .way ∨ l = .gateway ∨ l = .image

theorem Leg.freed_loose (l : Leg) : l.freed.loose := by
  cases l
  exacts [.inl rfl, .inl rfl, .inl rfl, .inr (.inl rfl), .inr (.inr rfl)]

/-- The cells whose entry names a partition. -/
def State.cellsOf (s : State) (pid : Nat) : List Nat := (s.cells.filter fun e => e.2.tag = pid).map fun e => e.1

theorem State.mem_cellsOf {c : Nat} : c ∈ s.cellsOf pid ↔ ∃ e ∈ s.cells, e.1 = c ∧ e.2.tag = pid := by
  simp only [State.cellsOf, List.mem_map, List.mem_filter, decide_eq_true_eq]
  exact ⟨fun ⟨e, ⟨he, ht⟩, hc⟩ => ⟨e, he, hc, ht⟩, fun ⟨e, he, hc, ht⟩ => ⟨e, ⟨he, ht⟩, hc⟩⟩

/-- The last step of the end of a partition: its key is retired, its slices end and its cells are nobody's. -/
def State.retirePart (s : State) (pid : Nat) (cells : List Nat) : State :=
  { s with
    keys := mput s.keys pid (mget 0 s.keys pid + 1)
    sets := s.sets.map fun e => (e.1, e.2.drop pid)
    cells := s.cells.map fun e => (e.1, if cells.contains e.1 then { e.2 with tag := 31, lcell := 0xFFFF, select := true } else e.2) }

/-- The invocations of a partition's cells end, and its traffic goes. -/
def State.endTraffic (s : State) (pid : Nat) : State := (s.endAll (s.cellsOf pid)).dropTraffic pid

/-- A partition's cells and banks are scrubbed. -/
def State.scrubPart (s : State) (pid : Nat) (cells : List Nat) : State := (s.scrubSet cells pid 2 ((s.part pid).logicalOf cells)).banksOf pid

theorem State.endPart_eq (s : State) (pid : Nat) : s.endPart pid =
    (((s.endTraffic pid).scrubPart pid (s.cellsOf pid)).disown (segBlocks ((s.endTraffic pid).part pid).seg)).retirePart pid (s.cellsOf pid) := rfl

/-- What the end of a partition leaves. -/
structure PartEnds (pid : Nat) (s t : State) : Prop where
  keys : ∀ q, mget 0 t.keys q = if pid = q then mget 0 s.keys q + 1 else mget 0 s.keys q
  gibs : ∀ b, mget 0 t.gibs b = if b ∈ segBlocks (s.part pid).seg then 0 else mget 0 s.gibs b
  face : ∀ p, p ≠ pid → (t.part p).face = (s.part p).face
  copies : ∀ x ∈ t.copies, x ∈ s.copies ∧ x.part ≠ pid
  tasks : ∀ x ∈ t.tasks, x ∈ s.tasks ∧ x.part ≠ pid
  transfers : ∀ x ∈ t.transfers, x ∈ s.transfers ∧ x.part ≠ pid
  launches : ∀ x ∈ t.launches, x ∈ s.launches ∧ x.part ≠ pid
  hypFaults : ∀ x ∈ t.hypFaults, x ∈ s.hypFaults ∧ x.part ≠ pid
  futs : ∀ d ∈ t.futs, ∀ x ∈ d.2, x.2.part ≠ pid ∧ ∃ e ∈ s.futs, x ∈ e.2
  parks : ∀ d ∈ t.parks, ∀ q ∈ d.2, q.part ≠ pid ∧ ∃ e ∈ s.parks, q ∈ e.2
  sets : ∀ d ∈ t.sets, ∀ o ∈ d.2.order, o.1 ≠ pid ∧ ∃ e ∈ s.sets, o ∈ e.2.order
  flights : ∀ f ∈ t.flights, f.leg.loose ∨ f.part ≠ pid ∧ ∃ g ∈ s.flights, g.part = f.part ∧ g.leg = f.leg
  own : ∀ c ∈ s.cellsOf pid, Gone (t.cell c)
  other : ∀ c, c ∉ s.cellsOf pid → Spared (s.cell c) (t.cell c)
  tags : ∀ e ∈ t.cells, e.2.tag = 31 ∨ e.2.tag = (s.cell e.1).tag ∨ ∃ f ∈ s.cells, f.1 = e.1 ∧ f.2.tag = e.2.tag

/-! The traffic that goes. -/

theorem SliceSet.mem_drop {x : SliceSet} {o : Nat × Nat} (h : o ∈ (x.drop pid).order) : o ∈ x.order ∧ o.1 ≠ pid := by
  have hd : (x.drop pid).order = x.order.filter fun o => o.1 != pid := by
    unfold SliceSet.drop
    dsimp only
    split <;> rfl
  rw [hd, List.mem_filter] at h
  exact ⟨h.1, by simpa using h.2⟩

theorem mem_filter_part {α : Type} {l : List α} {f : α → Nat} {x : α} (h : x ∈ l.filter fun x => f x != pid) : x ∈ l ∧ f x ≠ pid :=
  ⟨(List.mem_filter.1 h).1, by simpa using (List.mem_filter.1 h).2⟩

theorem State.dropTraffic_flights (s : State) (pid : Nat) {f : Flight} (h : f ∈ (s.dropTraffic pid).flights) :
    f.leg.loose ∨ f.part ≠ pid ∧ ∃ g ∈ s.flights, g.part = f.part ∧ g.leg = f.leg := by
  obtain ⟨g, hg, rfl⟩ := List.mem_map.1 h
  replace hg := (List.mem_filter.1 hg).1
  dsimp only
  by_cases hp : g.part = pid
  · refine .inl ?_
    split <;> exact Leg.freed_loose _
  · refine .inr ?_
    split <;> exact ⟨hp, g, hg, rfl, rfl⟩

/-- What a slot table keeps of other partitions. -/
theorem mem_filtered {α : Type} {m : SMap (List α)} {f : α → Nat} {d : Nat × List α} (h : d ∈ m.map fun e => (e.1, e.2.filter fun x => f x != pid)) {x : α}
    (hx : x ∈ d.2) : f x ≠ pid ∧ ∃ e ∈ m, x ∈ e.2 := by
  obtain ⟨e, he, rfl⟩ := List.mem_map.1 h
  obtain ⟨h1, h2⟩ := mem_filter_part hx
  exact ⟨h2, e, he, h1⟩

theorem State.retirePart_cell (s : State) (pid : Nat) (cells : List Nat) (c : Nat) : (s.retirePart pid cells).cell c = (mfind s.cells c).elim Cell.reset fun k =>
    if cells.contains c then { k with tag := 31, lcell := 0xFFFF, select := true } else k :=
  mget_mapKeys Cell.reset s.cells (fun n k => if cells.contains n then { k with tag := 31, lcell := 0xFFFF, select := true } else k) c

theorem scrubbed_retired {k : Cell} (h : scrubbed k) : Gone { k with tag := 31, lcell := 0xFFFF, select := true } := ⟨rfl, rfl, h⟩
theorem gone_reset : Gone Cell.reset := ⟨rfl, rfl, Cell.scrub_scrubbed Cell.reset⟩

theorem State.retirePart_own (s : State) (pid : Nat) {c : Nat} (h : c ∈ cells) (hs : scrubbed (s.cell c)) : Gone ((s.retirePart pid cells).cell c) := by
  rw [State.retirePart_cell]
  rw [State.cell, mget] at hs
  cases hf : mfind s.cells c with
  | none => exact gone_reset
  | some k =>
    rw [hf] at hs
    rw [Option.elim_some, if_pos (List.contains_iff_mem.2 h)]
    exact scrubbed_retired hs

theorem State.retirePart_other (s : State) (pid : Nat) {c : Nat} (h : c ∉ cells) : (s.retirePart pid cells).cell c = s.cell c := by
  rw [State.retirePart_cell, State.cell, mget]
  cases mfind s.cells c with
  | none => rfl
  | some k => rw [Option.elim_some, if_neg (fun hc => h (List.contains_iff_mem.1 hc))]; rfl

theorem State.retirePart_tags (s : State) (pid : Nat) (e : Nat × Cell) (he : e ∈ (s.retirePart pid cells).cells) :
    e.2.tag = 31 ∨ ∃ f ∈ s.cells, f.1 = e.1 ∧ f.2.tag = e.2.tag := by
  obtain ⟨f, hf, rfl⟩ := List.mem_map.1 he
  dsimp only
  split
  · exact .inl rfl
  · exact .inr ⟨f, hf, rfl, rfl⟩

theorem State.scrubPart_keeps (s : State) (pid : Nat) (cells : List Nat) : Keeps cells s (s.scrubPart pid cells) :=
  (s.scrubSet_keeps ..).trans (.of_onlyMemory (State.banksOf_onlyMemory ..))

theorem State.scrubPart_scrubs (s : State) (pid : Nat) {c : Nat} (h : c ∈ cells) : scrubbed ((s.scrubPart pid cells).cell c) := by
  rw [State.scrubPart, cell_of_cells (State.banksOf_onlyMemory ..).cells]
  exact s.scrubSet_scrubs _ _ _ _ h

theorem State.endPart_ends (s : State) (pid : Nat) : PartEnds pid s (s.endPart pid) ∧ (s.endPart pid).harts = s.harts ∧ (s.endPart pid).vfs = s.vfs
    ∧ ((s.endPart pid).part pid).face = (s.part pid).face := by
  rw [State.endPart_eq]
  have h1 := s.endAll_keeps (s.cellsOf pid)
  have h2 := (s.endTraffic pid).scrubPart_keeps pid (s.cellsOf pid)
  have hscr : ∀ c ∈ s.cellsOf pid, scrubbed (((s.endTraffic pid).scrubPart pid (s.cellsOf pid)).cell c) := fun c hc => State.scrubPart_scrubs _ _ hc
  have hseg : ((s.endTraffic pid).part pid).seg = (s.part pid).seg := h1.seg pid
  rw [hseg]
  generalize (s.endTraffic pid).scrubPart pid (s.cellsOf pid) = b at h2 hscr
  have hm := b.gain_onlyMemory (segBlocks (s.part pid).seg) 0
  have hg := b.setKeys_gibs (segBlocks (s.part pid).seg) 0
  have h3 : Keeps (s.cellsOf pid) (s.endTraffic pid) (b.gain (segBlocks (s.part pid).seg) 0) := h2.trans (.of_onlyMemory hm)
  have hflights : ∀ f ∈ (s.endTraffic pid).flights, f.leg.loose ∨ f.part ≠ pid ∧ ∃ g ∈ s.flights, g.part = f.part ∧ g.leg = f.leg := fun f hf => by
    rcases State.dropTraffic_flights _ _ hf with h | ⟨hp, g, hgm, e1, e2⟩
    · exact .inl h
    · rcases h1.flights g hgm with hgs | hw
      · exact .inr ⟨hp, g, hgs, e1, e2⟩
      · exact .inl (.inl (e2 ▸ hw))
  rw [State.disown, State.setKeys_eq]
  rw [State.setKeys_eq] at hg
  replace hscr : ∀ c ∈ s.cellsOf pid, scrubbed ((b.gain (segBlocks (s.part pid).seg) 0).cell c) := fun c hc => by rw [cell_of_cells hm.cells]; exact hscr c hc
  generalize b.gain (segBlocks (s.part pid).seg) 0 = v at h3 hg hscr
  generalize ((segBlocks (s.part pid).seg).filter _).foldl _ _ = gs at hg ⊢
  have hk : v.keys = s.keys := h3.keys.trans h1.keys
  have hgibs : b.gibs = s.gibs := h2.gibs.trans h1.gibs
  refine ⟨⟨fun q => ?_, fun n => ?_, fun p _ => (h3.face p).trans (h1.face p), fun x hx => ?_, fun x hx => ?_, fun x hx => ?_, fun x hx => ?_, fun x hx => ?_,
    fun d hd x hx => ?_, fun d hd x hx => ?_, fun d hd o ho => ?_, fun f hf => ?_, fun c hc => ?_, fun c hc => ?_, fun e he => ?_⟩, h3.harts.trans h1.harts,
    h3.vfs.trans h1.vfs, (h3.face pid).trans (h1.face pid)⟩
  · show mget 0 (mput v.keys pid (mget 0 v.keys pid + 1)) q = _
    rw [hk, mget_mput]
    split
    · next h => rw [h]
    · rfl
  · exact (hg n).trans (by rw [hgibs])
  · rw [← h1.copies]; exact mem_filter_part (f := Copy.part) (show x ∈ (s.endTraffic pid).copies from h3.copies ▸ hx)
  · rw [← h1.tasks]; exact mem_filter_part (f := TaskFlight.part) (show x ∈ (s.endTraffic pid).tasks from h3.tasks ▸ hx)
  · rw [← h1.transfers]; exact mem_filter_part (f := Transfer.part) (show x ∈ (s.endTraffic pid).transfers from h3.transfers ▸ hx)
  · rw [← h1.launches]; exact mem_filter_part (f := Launch.part) (show x ∈ (s.endTraffic pid).launches from h3.launches ▸ hx)
  · rw [← h1.hypFaults]; exact mem_filter_part (f := HypFault.part) (show x ∈ (s.endTraffic pid).hypFaults from h3.hypFaults ▸ hx)
  · rw [← h1.futs]; exact mem_filtered (f := fun x : Nat × FSlot => x.2.part) (show d ∈ (s.endTraffic pid).futs from h3.futs ▸ hd) hx
  · rw [← h1.parks]; exact mem_filtered (f := Parked.part) (show d ∈ (s.endTraffic pid).parks from h3.parks ▸ hd) hx
  · obtain ⟨e, he, rfl⟩ := List.mem_map.1 (show d ∈ v.sets.map fun e => (e.1, e.2.drop pid) from hd)
    obtain ⟨ho, hne⟩ := SliceSet.mem_drop ho
    have hs : v.sets = s.sets := h3.sets.trans h1.sets
    exact ⟨hne, e, hs ▸ he, ho⟩
  · rcases h3.flights f hf with hf | hf
    · exact hflights f hf
    · exact .inl (.inl hf)
  · exact State.retirePart_own _ _ hc (hscr c hc)
  · rw [State.retirePart_other _ _ hc]
    exact (h1.other c hc).trans (h3.other c hc)
  · rcases State.retirePart_tags _ _ e he with he | he
    · exact .inl he
    · obtain ⟨f, hf, e1, e2⟩ := he
      have htags : Entered s v := h1.tags.trans h3.tags fun c => (h1.cell c).1
      rw [← e1, ← e2]
      exact .inr (htags f hf)

end Sys2Proof.Machine
end

section
/-! Partitions that are killed (R391, R392). -/

namespace Sys2Proof.Machine
open Sys2Proof Sys2Proof.Claims

variable {s t u : State} {p q pid : Nat}

theorem State.cell_listed {c : Nat} (h : (s.cell c).tag ≠ 31) : (c, s.cell c) ∈ s.cells := by
  rw [State.cell, mget] at h ⊢
  cases hf : mfind s.cells c with
  | none => rw [hf] at h; exact absurd rfl h
  | some k => exact mfind_mem hf

/-- Nothing of a partition is under way any more, but what others wait to hear of. -/
structure Silent (p : Nat) (t : State) : Prop where
  copies : ∀ x ∈ t.copies, x.part ≠ p
  tasks : ∀ x ∈ t.tasks, x.part ≠ p
  transfers : ∀ x ∈ t.transfers, x.part ≠ p
  launches : ∀ x ∈ t.launches, x.part ≠ p
  hypFaults : ∀ x ∈ t.hypFaults, x.part ≠ p
  futs : ∀ d ∈ t.futs, ∀ x ∈ d.2, x.2.part ≠ p
  parks : ∀ d ∈ t.parks, ∀ q ∈ d.2, q.part ≠ p
  flights : ∀ f ∈ t.flights, f.part = p → f.leg.loose
  sets : ∀ e ∈ t.sets, ∀ o ∈ e.2.order, o.1 ≠ p

/-- Partition p of s is over in t. -/
structure Over (p : Nat) (s t : State) : Prop where
  cells : p < 24 → ∀ c, (s.cell c).tag = p ∨ Gone (s.cell c) → Gone (t.cell c)
  keys : mget 0 t.keys p = mget 0 s.keys p + 1
  gibs : ∀ b ∈ segBlocks (s.part p).seg, mget 0 t.gibs b = 0
  silent : Silent p t

theorem Over.finished (h : Over p s t) : finished s t p := by
  obtain ⟨hc, hk, hg, hs⟩ := h
  exact ⟨fun hp c ht => hc hp c (.inl ht), hk, hg, hs.copies, hs.tasks, hs.transfers, hs.launches, hs.hypFaults, hs.futs, hs.parks, hs.flights, hs.sets⟩

namespace PartEnds

variable (h : PartEnds pid s t)
include h

theorem silent : Silent pid t :=
  ⟨fun x hx => (h.copies x hx).2, fun x hx => (h.tasks x hx).2, fun x hx => (h.transfers x hx).2, fun x hx => (h.launches x hx).2,
    fun x hx => (h.hypFaults x hx).2, fun d hd x hx => (h.futs d hd x hx).1, fun d hd x hx => (h.parks d hd x hx).1,
    fun f hf hp => (h.flights f hf).elim id fun hn => absurd hp hn.1, fun d hd o ho => (h.sets d hd o ho).1⟩

/-- A silent partition stays silent while another one ends. -/
theorem silent_of (g : Silent p s) : Silent p t := by
  refine ⟨fun x hx => g.copies x (h.copies x hx).1, fun x hx => g.tasks x (h.tasks x hx).1, fun x hx => g.transfers x (h.transfers x hx).1,
    fun x hx => g.launches x (h.launches x hx).1, fun x hx => g.hypFaults x (h.hypFaults x hx).1, fun d hd x hx => ?_, fun d hd x hx => ?_, fun f hf hp => ?_,
    fun d hd o ho => ?_⟩
  · obtain ⟨-, e, he, hxe⟩ := h.futs d hd x hx; exact g.futs e he x hxe
  · obtain ⟨-, e, he, hxe⟩ := h.parks d hd x hx; exact g.parks e he x hxe
  · rcases h.flights f hf with hl | ⟨-, f', hf', e1, e2⟩
    · exact hl
    · rw [← e2]; exact g.flights f' hf' (e1.trans hp)
  · obtain ⟨-, e, he, hoe⟩ := h.sets d hd o ho; exact g.sets e he o hoe

theorem gone {c : Nat} (g : Gone (s.cell c)) : Gone (t.cell c) := by
  by_cases hc : c ∈ s.cellsOf pid
  · exact h.own c hc
  · exact (h.other c hc).gone g

theorem isOver : Over pid s t := by
  refine ⟨fun hp c hc => ?_, by rw [h.keys, if_pos rfl], fun b hb => by rw [h.gibs, if_pos hb], h.silent⟩
  rcases hc with hc | hc
  · exact h.own c (State.mem_cellsOf.2 ⟨_, State.cell_listed (by omega), rfl, hc⟩)
  · exact h.gone hc

theorem seg (hp : p ≠ pid) : (t.part p).seg = (s.part p).seg := Part.seg_of_face (h.face p hp)

/-- What was over stays so while another partition ends. -/
theorem over_of (hp : p ≠ pid) (g : Over p u s) : Over p u t := by
  refine ⟨fun hlt c hc => h.gone (g.cells hlt c hc), ?_, fun b hb => ?_, h.silent_of g.silent⟩
  · rw [h.keys, if_neg (Ne.symm hp), g.keys]
  · rw [h.gibs, g.gibs b hb, ite_self]

/-- What is over after another partition has ended is over. -/
theorem of_over (hp : p ≠ pid) (g : Over p t u) : Over p s u := by
  refine ⟨fun hlt c hc => g.cells hlt c ?_, ?_, fun b hb => g.gibs b (by rw [h.seg hp]; exact hb), g.silent⟩
  · by_cases hm : c ∈ s.cellsOf pid
    · exact .inr (h.own c hm)
    · have hs := h.other c hm
      refine hc.imp (fun e => ?_) hs.gone
      rcases hs with hs | hs <;> rw [hs] <;> exact e
  · rw [g.keys, h.keys, if_neg (Ne.symm hp)]

end PartEnds

/-! A kill. -/

/-- The cores of a partition stop. -/
def State.stopCores (s : State) (pid : Nat) : State :=
  { s with harts := s.harts.map fun e => (e.1, if e.2.part = some pid then { e.2 with stopped := true } else e.2) }

/-- A partition is marked failed. -/
def State.failPart (s : State) (pid : Nat) : State :=
  s.setPart pid { s.part pid with st := .failed, table := (s.part pid).table.map fun _ => 0, sched := none }

theorem State.kill_eq (s : State) (pid : Nat) : s.kill pid = ((s.endPart pid).stopCores pid).failPart pid := rfl

theorem State.failPart_part (s : State) (pid q : Nat) : (s.failPart pid).part q =
    if pid = q then { s.part pid with st := .failed, table := (s.part pid).table.map fun _ => 0, sched := none } else s.part q := State.setPart_part ..

theorem State.kill_ends (s : State) (pid : Nat) : PartEnds pid s (s.kill pid) := by
  have h := (s.endPart_ends pid).1
  rw [State.kill_eq]
  generalize s.endPart pid = t at h
  refine ⟨h.keys, h.gibs, fun p hp => ?_, h.copies, h.tasks, h.transfers, h.launches, h.hypFaults, h.futs, h.parks, h.sets, h.flights, h.own, h.other, h.tags⟩
  rw [State.failPart_part, if_neg (Ne.symm hp)]
  exact h.face p hp

/-- A core whose partition is killed stops, and no other does. -/
def Hart.stopFor (pid : Nat) (x : Hart) : Hart := if x.part = some pid then { x with stopped := true } else x

theorem Hart.stopFor_part (pid : Nat) (x : Hart) : (x.stopFor pid).part = x.part := by
  unfold Hart.stopFor; split <;> rfl
theorem Hart.stopFor_stopped (pid : Nat) (x : Hart) : (x.stopFor pid).stopped = (x.stopped || decide (x.part = some pid)) := by
  unfold Hart.stopFor; split
  · next h => simp [h]
  · next h => simp [h]

theorem State.stopCores_harts (s : State) (pid : Nat) : ((s.stopCores pid).failPart pid).harts = s.harts.map fun e => (e.1, e.2.stopFor pid) := rfl
theorem State.stopCores_part (s : State) (pid q : Nat) : (s.stopCores pid).part q = s.part q := rfl

theorem State.kill_harts (s : State) (pid : Nat) : (s.kill pid).harts = s.harts.map fun e => (e.1, e.2.stopFor pid) := by
  have hh := (s.endPart_ends pid).2.1
  rw [State.kill_eq, State.stopCores_harts, hh]

theorem State.kill_hart (s : State) (pid n : Nat) : (s.kill pid).hart n = (s.hart n).stopFor pid := by
  rw [State.hart, State.kill_harts]
  exact mget_map s.harts (Hart.stopFor pid) Hart.reset n

/-- A killed partition's state. -/
structure Dead (p : Nat) (s t : State) : Prop where
  st : (t.part p).st = .failed
  table : (t.part p).table = (s.part p).table.map fun _ => 0
  sched : (t.part p).sched = none
  harts : ∀ h ∈ t.harts, h.2.part = some p → h.2.stopped = true

theorem State.kill_dead (s : State) (pid : Nat) : Dead pid s (s.kill pid) := by
  have hf := (s.endPart_ends pid).2.2.2
  have hp : (s.kill pid).part pid = { (s.endPart pid).part pid with st := .failed, table := ((s.endPart pid).part pid).table.map fun _ => 0, sched := none } := by
    rw [State.kill_eq, State.failPart_part, if_pos rfl, State.stopCores_part]
  refine ⟨by rw [hp], ?_, by rw [hp], fun h hh he => ?_⟩
  · rw [hp]
    exact congrArg (List.map fun _ => 0) (Part.table_of_face hf)
  · rw [State.kill_harts] at hh
    obtain ⟨x, -, rfl⟩ := List.mem_map.1 hh
    dsimp only at he ⊢
    rw [Hart.stopFor_part] at he
    rw [Hart.stopFor_stopped, decide_eq_true he, Bool.or_true]

theorem Dead.kill (h : Dead p s t) (hp : p ≠ pid) : Dead p s (t.kill pid) := by
  have hf := (t.kill_ends pid).face p hp
  refine ⟨(Part.st_of_face hf).trans h.st, (Part.table_of_face hf).trans h.table, (Part.sched_of_face hf).trans h.sched, fun x hx he => ?_⟩
  rw [State.kill_harts] at hx
  obtain ⟨y, hy, rfl⟩ := List.mem_map.1 hx
  dsimp only at he ⊢
  rw [Hart.stopFor_part] at he
  rw [Hart.stopFor_stopped, h.harts y hy he, Bool.true_or]

theorem Dead.of_kill (h : Dead p (s.kill pid) t) (hp : p ≠ pid) : Dead p s t := by
  have e := Part.table_of_face ((s.kill_ends pid).face p hp)
  exact ⟨h.st, h.table.trans (congrArg (List.map fun _ => 0) e), h.sched, h.harts⟩

/-- Partitions are killed one after another. -/
theorem foldl_kill (pids : List Nat) (s : State) (hn : pids.Nodup) (hp : ∀ p ∈ pids, p < 24) :
    (∀ p ∈ pids, Over p s (pids.foldl State.kill s) ∧ Dead p s (pids.foldl State.kill s))
    ∧ (∀ q, q ∉ pids → ((pids.foldl State.kill s).part q).face = (s.part q).face ∧ mget 0 (pids.foldl State.kill s).keys q = mget 0 s.keys q)
    ∧ (∀ c, (∀ e ∈ s.cells, e.1 = c → e.2.tag ∉ pids) → Spared (s.cell c) ((pids.foldl State.kill s).cell c))
    ∧ ∀ n, (∀ p ∈ pids, (s.hart n).part ≠ some p) → ((pids.foldl State.kill s).hart n).stopped = (s.hart n).stopped := by
  induction pids generalizing s with
  | nil => exact ⟨fun _ h => absurd h List.not_mem_nil, fun _ _ => ⟨rfl, rfl⟩, fun _ _ => .inl rfl, fun _ _ => rfl⟩
  | cons a pids ih =>
    obtain ⟨ha, hn⟩ := List.nodup_cons.1 hn
    rw [List.foldl_cons]
    have hk := s.kill_ends a
    obtain ⟨h1, h2, h3, h4⟩ := ih (s.kill a) hn fun p h => hp p (List.mem_cons_of_mem _ h)
    have hne : ∀ q ∈ pids, q ≠ a := fun q hq e => ha (e ▸ hq)
    refine ⟨fun p hm => ?_, fun q hq => ?_, fun c hc => ?_, fun n hh => ?_⟩
    · rcases List.mem_cons.1 hm with rfl | hm
      · refine List.foldlRecOn (motive := fun t => Over p s t ∧ Dead p s t) pids _ ⟨hk.isOver, s.kill_dead p⟩ fun t ht b hb => ?_
        exact ⟨(t.kill_ends b).over_of (hne b hb).symm ht.1, ht.2.kill (hne b hb).symm⟩
      · obtain ⟨ho, hd⟩ := h1 p hm
        exact ⟨hk.of_over (hne p hm) ho, hd.of_kill (hne p hm)⟩
    · obtain ⟨hqa, hq⟩ := not_or.1 (fun h => hq (List.mem_cons.2 h))
      obtain ⟨hf, hkeys⟩ := h2 q hq
      exact ⟨hf.trans (hk.face q hqa), hkeys.trans (by rw [hk.keys, if_neg (Ne.symm hqa)])⟩
    · have hca : c ∉ s.cellsOf a := fun hm => by
        obtain ⟨e, he, hec, ht⟩ := State.mem_cellsOf.1 hm
        exact hc e he hec (ht ▸ List.mem_cons_self)
      have h31 : 31 ∉ pids := fun h => by have := hp 31 (List.mem_cons_of_mem _ h); omega
      refine (hk.other c hca).trans (h3 c fun e he hec hm => ?_)
      rcases hk.tags e he with ht | ht | ⟨f, hf, e1, e2⟩
      · exact h31 (ht ▸ hm)
      · by_cases h : (s.cell e.1).tag = 31
        · exact h31 (h ▸ ht ▸ hm)
        · exact hc _ (State.cell_listed h) hec (List.mem_cons_of_mem _ (ht ▸ hm))
      · exact hc f hf (e1.trans hec) (List.mem_cons_of_mem _ (e2 ▸ hm))
    · have hpart : ((s.kill a).hart n).part = (s.hart n).part := by rw [State.kill_hart, Hart.stopFor_part]
      rw [h4 n fun p hp' => by rw [hpart]; exact hh p (List.mem_cons_of_mem _ hp'), State.kill_hart, Hart.stopFor_stopped,
        decide_eq_false (hh a List.mem_cons_self), Bool.or_false]

end Sys2Proof.Machine
end

section
/-! Tag parity errors, banks, cells and functions (R354, R391, R394, R400). -/

namespace Sys2Proof.Machine
open Sys2Proof Sys2Proof.Claims

variable {s t u : State} {p q pid : Nat} {cells : List Nat}

/-! A frame around what ends. -/

theorem Silent.of_keeps (h : Keeps cells s t) (g : Silent p s) : Silent p t := by
  refine ⟨h.copies ▸ g.copies, h.tasks ▸ g.tasks, h.transfers ▸ g.transfers, h.launches ▸ g.launches, h.hypFaults ▸ g.hypFaults, h.futs ▸ g.futs, h.parks ▸ g.parks,
    fun f hf hp => ?_, h.sets ▸ g.sets⟩
  rcases h.flights f hf with hf | hf
  · exact g.flights f hf hp
  · exact .inl hf

theorem OnlyMemory.keeps (h : OnlyMemory s t) : Keeps [] s t := .of_onlyMemory h
theorem OnlyMemory.part (h : OnlyMemory s t) (p : Nat) : t.part p = s.part p := by rw [State.part, h.parts]; rfl
theorem OnlyMemory.hart (h : OnlyMemory s t) (n : Nat) : t.hart n = s.hart n := by rw [State.hart, h.harts]; rfl

/-- Accesses to memory before the end of a partition. -/
theorem Over.after (h : OnlyMemory s u) (g : Over p u t) : Over p s t :=
  ⟨fun hp c hc => g.cells hp c (by rw [cell_of_cells h.cells]; exact hc), by rw [g.keys, h.keeps.keys], fun b hb => g.gibs b (by rw [h.part]; exact hb), g.silent⟩

/-- Accesses to memory after the end of a partition. -/
theorem Over.before (h : OnlyMemory t u) (g : Over p s t) : Over p s u :=
  ⟨fun hp c hc => by rw [cell_of_cells h.cells]; exact g.cells hp c hc, by rw [h.keeps.keys, g.keys], fun b hb => by rw [h.gibs]; exact g.gibs b hb,
    g.silent.of_keeps h.keeps⟩

theorem Spared.keeps {k k' : Cell} (h : Spared k k') : k'.tag = k.tag ∧ k'.lcell = k.lcell ∧ k'.chans = k.chans ∧ k'.ctxs = k.ctxs := by
  rcases h with rfl | rfl <;> exact ⟨rfl, rfl, rfl, rfl⟩

/-! Banks (R391). -/

theorem State.bankScrub_av (s : State) (bank b : Nat) : mget 0 (s.bankScrub bank).av b = if bank = b then 0 else mget 0 s.av b := by
  have h : (s.bankScrub bank).av = mdel s.av bank := by
    unfold State.bankScrub
    extract_lets u agent
    split <;> rfl
  rw [h, mget, mfind_mdel]
  split <;> rfl

theorem State.bankScrub_dir (s : State) (bank : Nat) (h : bank < 768 ∨ 1024 ≤ bank) : (s.bankScrub bank).dir = s.dir := by
  unfold State.bankScrub
  extract_lets u agent
  rw [if_neg (by omega)]

theorem State.bankScrub_memByte (s : State) (bank x : Nat) : (s.bankScrub bank).memByte x = s.memByte x := by
  unfold State.bankScrub
  extract_lets u agent
  split <;> rfl

theorem bankScrubs (s : State) (bank : Nat) : ∃ t, runs (.evBankScrub bank) s t ∧ (bank < 768 ∨ 1024 ≤ bank → t.dir = s.dir) ∧ (∀ x, t.memByte x = s.memByte x)
      ∧ mget 0 t.av bank = 0 ∧ (∀ b, b ≠ bank → mget 0 t.av b = mget 0 s.av b) ∧ t.parts = s.parts ∧ t.cells = s.cells := by
  have hm := s.bankScrub_onlyMemory bank
  exact ⟨s.bankScrub bank, rfl, s.bankScrub_dir bank, s.bankScrub_memByte bank, by rw [State.bankScrub_av, if_pos rfl],
    fun b hb => by rw [State.bankScrub_av, if_neg (Ne.symm hb)], hm.parts, hm.cells⟩

/-! Lines that are discarded (R391). -/

theorem State.dropCopy_onlyMemory (s : State) (agent line : Nat) : OnlyMemory s (s.dropCopy agent line) := by
  unfold State.dropCopy
  extract_lets d own u
  have hu : OnlyMemory s u := by
    unfold u; split
    · exact s.collect_onlyMemory line
    · exact .refl s
  exact hu.trans (State.setDir_onlyMemory ..)

theorem State.discardSet_onlyMemory (s : State) (bank set : Nat) (pids : List Nat) : OnlyMemory s (s.discardSet bank set pids) := by
  unfold State.discardSet
  split
  · refine .foldl _ _ s fun t e => ?_
    split
    · exact t.dropCopy_onlyMemory _ _
    · exact .refl t
  · exact .foldl _ _ s fun t n => ((t.setDir_onlyMemory n _).trans (State.memPut_onlyMemory ..)).trans (State.took_onlyMemory _)

/-- The partitions that a bank holds. -/
def State.heldBy (s : State) (bank : Nat) : List Nat := (List.range 24).filter fun p => (mget 0 s.av bank).getLsbD p

theorem State.heldBy_nodup (s : State) (bank : Nat) : (s.heldBy bank).Nodup := List.nodup_range.filter _
theorem State.heldBy_lt (s : State) (bank : Nat) : ∀ p ∈ s.heldBy bank, p < 24 := fun _ h => List.mem_range.1 (List.mem_filter.1 h).1
theorem State.heldBy_nil (s : State) (bank : Nat) (h : mget 0 s.av bank = 0) : s.heldBy bank = [] := by
  rw [State.heldBy, h]
  exact List.filter_eq_nil_iff.2 fun p _ => by simp

/-- The partitions of a list are killed around accesses to memory. -/
theorem kills_between (h : OnlyMemory s u) (pids : List Nat) (hn : pids.Nodup) (hp : ∀ p ∈ pids, p < 24) (g : OnlyMemory (pids.foldl State.kill u) t) :
    (∀ p ∈ pids, finished s t p ∧ (t.part p).st = .failed ∧ (t.part p).table = ((s.part p).table.map fun _ => 0) ∧ (t.part p).sched = none
      ∧ ∀ h ∈ t.harts, h.2.part = some p → h.2.stopped = true)
    ∧ survives s t pids ∧ ∀ n, (∀ p ∈ pids, (s.hart n).part ≠ some p) → (t.hart n).stopped = (s.hart n).stopped := by
  obtain ⟨h1, h2, h3, h4⟩ := foldl_kill pids u hn hp
  generalize pids.foldl State.kill u = v at h1 h2 h3 h4 g
  refine ⟨fun p hm => ?_, ⟨fun q hq => ?_, fun c hc => ?_⟩, fun n hh => ?_⟩
  · obtain ⟨ho, hd⟩ := h1 p hm
    refine ⟨((ho.before g).after h).finished, ?_⟩
    rw [g.part, ← h.part p, g.harts]
    exact ⟨hd.st, hd.table, hd.sched, hd.harts⟩
  · obtain ⟨hf, hk⟩ := h2 q hq
    rw [g.part, ← h.part q, g.keeps.keys, ← h.keeps.keys]
    exact ⟨Part.st_of_face hf, Part.table_of_face hf, Part.seg_of_face hf, hk⟩
  · rw [cell_of_cells g.cells, ← cell_of_cells h.cells]
    exact (h3 c (h.cells ▸ hc)).keeps
  · rw [g.hart, ← h.hart n]
    exact h4 n fun p hp => by rw [h.hart]; exact hh p hp

theorem parityKills (s : State) (bank set : Nat) : let held := (List.range 24).filter fun p => (mget 0 s.av bank).getLsbD p
    ∃ t, runs (.evTagParityError ⟨bank, set⟩) s t ∧ mget 0 t.av bank = 0 ∧ (mget 0 s.av bank = 0 → t.parts = s.parts ∧ t.cells = s.cells)
      ∧ (∀ p ∈ held, finished s t p ∧ (t.part p).st = .failed ∧ (t.part p).table = ((s.part p).table.map fun _ => 0) ∧ (t.part p).sched = none
        ∧ ∀ h ∈ t.harts, h.2.part = some p → h.2.stopped = true)
      ∧ survives s t held ∧ ∀ n, (∀ p ∈ held, (s.hart n).part ≠ some p) → (t.hart n).stopped = (s.hart n).stopped := by
  have hd := s.discardSet_onlyMemory bank set (s.heldBy bank)
  have hb := ((s.heldBy bank).foldl State.kill (s.discardSet bank set (s.heldBy bank))).bankScrub_onlyMemory bank
  refine ⟨((s.heldBy bank).foldl State.kill (s.discardSet bank set (s.heldBy bank))).bankScrub bank, rfl, by rw [State.bankScrub_av, if_pos rfl], fun h0 => ?_,
    kills_between hd (s.heldBy bank) (s.heldBy_nodup bank) (s.heldBy_lt bank) hb⟩
  rw [s.heldBy_nil bank h0] at hd hb ⊢
  exact ⟨hb.parts.trans hd.parts, hb.cells.trans hd.cells⟩

/-! Cells, functions and segments of functions. -/

theorem cellAssigns (s : State) (cell part lcell : Nat) (kchan : BitVec 64) (hc : cell < 1536) (hp : part < 24 ∨ part = 31) (hk : (s.cell cell).clean = true) :
    ∃ t, runs (.evCellAssign cell part lcell kchan) s t
      ∧ t.cell cell = { s.cell cell with
          tag := part, lcell := BitVec.ofNat 16 (if part = 31 then 0xFFFF else lcell), kchan := kchan, fview := (s.part part).floor
          heard := [], select := true }
      ∧ ∀ c, c ≠ cell → t.cell c = s.cell c := by
  refine ⟨_, congrArg Host.Outcome.next (if_neg ?_), ?_, fun c hn => ?_⟩
  · rintro (h | h | h)
    · exact absurd hc (not_lt.2 h)
    · omega
    · rw [hk] at h; cases h
  · rw [State.setCell_cell, if_pos rfl]
  · rw [State.setCell_cell, if_neg (Ne.symm hn)]

theorem vfAssigns (s : State) (vf part : Nat) (hv : vf < 384) (hm : (s.vfs.filter fun e => e.1 != vf && e.2.part == some part).length < 16) :
    ∃ t, runs (.evVfAssign vf part) s t ∧ (t.fn (.vf vf)).part = if part < 24 then some part else none := by
  refine ⟨_, congrArg Host.Outcome.next (if_neg ?_), ?_⟩
  · rintro (h | ⟨-, h⟩)
    · exact absurd hv (not_lt.2 h)
    · omega
  · show (mget Fn.reset (mput s.vfs vf _) vf).part = _
    rw [mget_mput_self]

theorem vfSegment (s : State) (vf part : Nat) (g : Segment) (hv : vf < 384) (hg : segOk g = true) : ∃ t, runs (.evSegmentUpdate (some vf) part g) s t ∧ (t.fn (.vf vf)).seg = g := by
  refine ⟨_, congrArg Host.Outcome.next (if_neg ?_), ?_⟩
  · rintro (h | h)
    · exact absurd hv (not_lt.2 h)
    · rw [hg] at h; cases h
  · show (mget Fn.reset (mput s.vfs vf _) vf).seg = _
    rw [mget_mput_self]

/-! SCRUB (R394, R395). -/

theorem idleCells_iff (s : State) (cells : List Nat) : (cells.all fun c => (s.cell c).ctxs.all fun x => x.2.st != .running && x.2.st != .suspended) = true ↔ ∀ c ∈ cells, idleCell (s.cell c) := by
  simp [idleCell, List.all_eq_true]

/-- What SCRUB does to cells that it may scrub. -/
def State.scrubNow (s : State) (cells : List Nat) (part kind : Nat) : State :=
  let s := (s.endAll cells).scrubSet cells part kind (((s.endAll cells).part part).logicalOf cells)
  if kind = 2 then s.banksOf part else s

theorem scrubs (s : State) (cells : List Nat) (part kind : Nat) (hk : kind ≤ 2) (hc : ∀ c ∈ cells, c < 1536) :
      (kind ≠ 2 → (∃ c ∈ cells, ¬idleCell (s.cell c)) → runs (.evScrub cells part kind) s s)
      ∧ ((∀ c ∈ cells, idleCell (s.cell c)) → ∃ t, runs (.evScrub cells part kind) s t
        ∧ (∀ c ∈ cells, scrubbed (t.cell c) ∧ (t.cell c).tag = (s.cell c).tag ∧ (t.cell c).lcell = (s.cell c).lcell)
        ∧ t.scrubSeq = s.scrubSeq + 1 ∧ ∃ k, t.tokens = s.tokens ++ [k] ∧ k.part = part ∧ k.cells = cells ∧ k.seq = s.scrubSeq + 1) := by
  have hany : (cells.any fun c => decide (Config.cells ≤ c)) = false := List.any_eq_false.2 fun c h => by
    have h1 := hc c h
    have h2 : Config.cells = 1536 := rfl
    simp; omega
  have hk2 : decide (2 < kind) = false := decide_eq_false (by omega)
  refine ⟨fun h2 hex => ?_, fun hidle => ⟨s.scrubNow cells part kind, ?_, ?_⟩⟩
  · show execEvScrub cells part kind s = _
    unfold execEvScrub
    refine congrArg Host.Outcome.next (if_pos ?_)
    have hi : (cells.all fun c => (s.cell c).ctxs.all fun x => x.2.st != .running && x.2.st != .suspended) = false := Bool.eq_false_iff.2 fun h => by
      obtain ⟨c, hm, hn⟩ := hex
      exact hn ((idleCells_iff s cells).1 h c hm)
    rw [hi, decide_eq_true h2, Bool.not_false, Bool.and_true, Bool.or_true]
  · show execEvScrub cells part kind s = _
    unfold execEvScrub
    refine congrArg Host.Outcome.next (if_neg ?_)
    rw [(idleCells_iff s cells).2 hidle, hany, hk2]
    simp
  · rw [State.scrubNow, State.endAll_idle s hidle]
    have hs := fun {c} (h : c ∈ cells) => s.scrubSet_scrubs cells part kind ((s.part part).logicalOf cells) h
    have hkp := s.scrubSet_keeps cells part kind ((s.part part).logicalOf cells)
    have hl := s.scrubSet_logs cells part kind ((s.part part).logicalOf cells)
    generalize s.scrubSet cells part kind ((s.part part).logicalOf cells) = v at hs hkp hl
    have hm : OnlyMemory v (if kind = 2 then v.banksOf part else v) := by
      split
      · exact v.banksOf_onlyMemory part
      · exact .refl v
    rw [hm.tokens, hm.scrubSeq]
    exact ⟨fun c h => by rw [cell_of_cells hm.cells]; exact ⟨hs h, hkp.cell c⟩, hl⟩

end Sys2Proof.Machine
end

section
/-! Application cores are scrubbed, and partitions are destroyed (R296, R391, R393, R394). -/

namespace Sys2Proof.Machine
open Sys2Proof Sys2Proof.Claims

variable {s t u : State} {p pid core : Nat}

/-! Folds. -/

/-- What each step keeps, and the step of one member gives, a fold gives. -/
theorem foldl_gives {α β : Type} (P : α → Prop) (f : α → β → α) {l : List β} (a : α) {b : β} (hb : b ∈ l) (hf : ∀ a b, P a → P (f a b)) (h : ∀ a, P (f a b)) : P (l.foldl f a) := by
  induction l generalizing a with
  | nil => exact absurd hb List.not_mem_nil
  | cons c l ih =>
    rcases List.mem_cons.1 hb with rfl | hb
    · exact foldl_keeps P f l _ (h a) hf
    · exact ih _ hb

/-! What the scrub of a core changes. -/

/-- From s to t memory changed, slots lost waiters, and harts changed. -/
structure CoreScrubbed (s t : State) : Prop where
  rest : { t.rest with futs := [], harts := [] } = { s.rest with futs := [], harts := [] }
  slots : ∀ d ∈ t.futs, ∀ x ∈ d.2, ∃ e ∈ s.futs, ∃ y ∈ e.2, y.2.part = x.2.part

namespace CoreScrubbed

theorem of_futs (hr : { t.rest with futs := [], harts := [] } = { s.rest with futs := [], harts := [] }) (hf : t.futs = s.futs) : CoreScrubbed s t :=
  ⟨hr, fun d hd x hx => ⟨d, hf ▸ hd, x, hx, rfl⟩⟩
theorem refl (s : State) : CoreScrubbed s s := of_futs rfl rfl
theorem trans (h : CoreScrubbed s t) (g : CoreScrubbed t u) : CoreScrubbed s u := by
  refine ⟨g.rest.trans h.rest, fun d hd x hx => ?_⟩
  obtain ⟨e, he, y, hy, ep⟩ := g.slots d hd x hx
  obtain ⟨e', he', z, hz, eq⟩ := h.slots e he y hy
  exact ⟨e', he', z, hz, eq.trans ep⟩
theorem of_onlyMemory (h : OnlyMemory s t) : CoreScrubbed s t := of_futs (congrArg (fun z : State => { z with futs := [], harts := [] }) h.rest) h.futs

section
variable (h : CoreScrubbed s t)
include h
theorem cells : t.cells = s.cells := by have e := congrArg State.cells h.rest; exact e
theorem parts : t.parts = s.parts := by have e := congrArg State.parts h.rest; exact e
theorem keys : t.keys = s.keys := by have e := congrArg State.keys h.rest; exact e
theorem gibs : t.gibs = s.gibs := by have e := congrArg State.gibs h.rest; exact e

theorem silent (g : Silent p s) : Silent p t := by
  have e1 : t.copies = s.copies := by have e := congrArg State.copies h.rest; exact e
  have e2 : t.tasks = s.tasks := by have e := congrArg State.tasks h.rest; exact e
  have e3 : t.transfers = s.transfers := by have e := congrArg State.transfers h.rest; exact e
  have e4 : t.launches = s.launches := by have e := congrArg State.launches h.rest; exact e
  have e5 : t.hypFaults = s.hypFaults := by have e := congrArg State.hypFaults h.rest; exact e
  have e6 : t.parks = s.parks := by have e := congrArg State.parks h.rest; exact e
  have e7 : t.flights = s.flights := by have e := congrArg State.flights h.rest; exact e
  have e8 : t.sets = s.sets := by have e := congrArg State.sets h.rest; exact e
  refine ⟨e1 ▸ g.copies, e2 ▸ g.tasks, e3 ▸ g.transfers, e4 ▸ g.launches, e5 ▸ g.hypFaults, fun d hd x hx => ?_, e6 ▸ g.parks, e7 ▸ g.flights, e8 ▸ g.sets⟩
  obtain ⟨e, he, y, hy, ep⟩ := h.slots d hd x hx
  exact ep ▸ g.futs e he y hy

theorem isOver (g : Over p u s) : Over p u t :=
  ⟨fun hp c hc => by rw [cell_of_cells h.cells]; exact g.cells hp c hc, by rw [h.keys, g.keys], fun b hb => by rw [h.gibs]; exact g.gibs b hb, h.silent g.silent⟩
end

end CoreScrubbed

/-! Waiters that are withdrawn. -/

theorem FSlot.without_part (x : FSlot) (core : Nat) : (x.without core).part = x.part := by
  unfold FSlot.without; split <;> rfl

theorem State.setSlot_slots (s : State) (die n : Nat) (x : FSlot) : ∀ d ∈ (s.setSlot die n x).futs, ∀ y ∈ d.2, y.2.part = x.part ∨ ∃ e ∈ s.futs, y ∈ e.2 := by
  intro d hd y hy
  rcases mem_mput _ _ _ _ hd with rfl | hd
  · rcases mem_mput _ _ _ _ hy with rfl | hy
    · exact .inl rfl
    · rw [mget] at hy
      cases hm : mfind s.futs die with
      | none => rw [hm] at hy; exact absurd hy List.not_mem_nil
      | some m => rw [hm] at hy; exact .inr ⟨_, mfind_mem hm, hy⟩
  · exact .inr ⟨d, hd, hy⟩

theorem State.setSlot_scrubs (s : State) (die n : Nat) (x : FSlot) (hx : ∃ e ∈ u.futs, ∃ y ∈ e.2, y.2.part = x.part) (h : CoreScrubbed u s) :
    CoreScrubbed u (s.setSlot die n x) := by
  refine ⟨h.rest, fun d hd y hy => ?_⟩
  rcases s.setSlot_slots die n x d hd y hy with e | ⟨e, he, hye⟩
  · rw [e]; exact hx
  · exact h.slots e he y hye

theorem State.unwaitSlot_scrubs (s : State) (core die n : Nat) (x : FSlot) (hx : ∃ e ∈ u.futs, ∃ y ∈ e.2, y.2.part = x.part) (h : CoreScrubbed u s) :
    CoreScrubbed u (s.unwaitSlot core die n x) := by
  have h1 : CoreScrubbed u (s.setSlot die n (x.without core)) := State.setSlot_scrubs s die n _ (by rw [FSlot.without_part]; exact hx) h
  unfold State.unwaitSlot
  extract_lets -underBinder v
  split
  · split
    · exact h1
    · exact State.setSlot_scrubs _ die n _ (by rw [FSlot.without_part]; exact hx) (h1.trans (.of_onlyMemory (State.putBytes_onlyMemory v _ _)))
  · exact h1

theorem State.unwait_scrubs (s : State) (core : Nat) : CoreScrubbed s (s.unwait core) :=
  List.foldlRecOn (motive := fun t => CoreScrubbed s t) s.futs _ (.refl s) fun _ ht d hd =>
    List.foldlRecOn (motive := fun t => CoreScrubbed s t) d.2 _ ht fun v hv x hx => State.unwaitSlot_scrubs v core d.1 x.1 x.2 ⟨d, hd, x, hx, rfl⟩ hv

theorem State.unwait_harts (s : State) (core : Nat) : (s.unwait core).harts = s.harts := by
  refine foldl_keeps (fun t : State => t.harts = s.harts) _ _ s rfl fun t d ht => foldl_keeps (fun t : State => t.harts = s.harts) _ _ t ht fun v x hv => ?_
  unfold State.unwaitSlot
  extract_lets -underBinder w
  split
  · split
    · exact hv
    · exact (State.putBytes_onlyMemory w _ _).harts.trans hv
  · exact hv

/-- What a core held of lines is given up. -/
def State.dropCopies (s : State) (core : Nat) : State := s.dir.foldl (fun s e => if e.2.agents.contains core then s.dropCopy core e.1 else s) s

theorem State.dropCopies_onlyMemory (s : State) (core : Nat) : OnlyMemory s (s.dropCopies core) :=
  .foldl _ _ s fun t e => by
    split
    · exact t.dropCopy_onlyMemory core e.1
    · exact .refl t

/-- The core's reservations and requests end. -/
def State.endCore (s : State) (core : Nat) : State := { s with resvs := s.resvs.filter fun e => e.1 != core, asks := s.asks.filter fun a => a.agent != core }

theorem State.scrubCore_eq (s : State) (core : Nat) (h : Hart) : s.scrubCore core h = (((s.dropCopies core).unwait core).endCore core).setHart core h := rfl

theorem State.scrubCore_scrubs (s : State) (core : Nat) (h : Hart) : CoreScrubbed s (s.scrubCore core h) := by
  have h1 := (CoreScrubbed.of_onlyMemory (s.dropCopies_onlyMemory core)).trans (State.unwait_scrubs _ core)
  rw [State.scrubCore_eq]
  generalize (s.dropCopies core).unwait core = v at h1
  exact h1.trans (.of_futs rfl rfl)

theorem State.scrubCore_hart (s : State) (core : Nat) (h : Hart) (c : Nat) : (s.scrubCore core h).hart c = if core = c then h else s.hart c := by
  have hh : ((s.dropCopies core).unwait core).harts = s.harts := (State.unwait_harts _ core).trans (s.dropCopies_onlyMemory core).harts
  rw [State.scrubCore_eq]
  generalize (s.dropCopies core).unwait core = v at hh
  show mget Hart.reset (mput v.harts core h) c = _
  rw [mget_mput, hh]
  rfl

/-! Copies that a core gives up. -/

theorem State.dropCopy_dirOf (s : State) (agent line m : Nat) : (s.dropCopy agent line).dirOf m = if line = m then
    ⟨if ((s.dirOf line).owner.map fun o => o.1) == some agent then none else (s.dirOf line).owner, (s.dirOf line).sharers.filter fun a => a != agent⟩ else s.dirOf m := by
  unfold State.dropCopy
  extract_lets d own v
  rw [State.setDir_dirOf]
  have hv : v.dirOf m = s.dirOf m := by
    unfold v; split
    · exact s.collect_dirOf line m
    · rfl
  rw [hv]

theorem State.dropCopy_latest (s : State) (agent line x : Nat) : (s.dropCopy agent line).latest x = s.latest x := by
  have hd := s.dropCopy_dirOf agent line (x / 64)
  by_cases hown : ((s.dirOf line).owner.map fun o => o.1) == some agent
  · have hm : (s.dropCopy agent line).memByte x = (s.collect line).memByte x := by
      unfold State.dropCopy
      extract_lets d own v
      show v.memByte x = _
      exact congrArg (State.memByte · x) (if_pos hown)
    rw [if_pos hown] at hd
    by_cases hl : line = x / 64
    · rw [if_pos hl] at hd
      rw [State.latest_clean _ x (by rw [hd]; rfl), hm, State.collect_memByte, if_pos hl.symm]
    · rw [if_neg hl] at hd
      rw [State.latest, State.latest, hd, hm, State.collect_memByte, if_neg (Ne.symm hl)]
  · have hm : (s.dropCopy agent line).memByte x = s.memByte x := by
      unfold State.dropCopy
      extract_lets d own v
      show v.memByte x = _
      exact congrArg (State.memByte · x) (if_neg hown)
    have hdirty : ((s.dropCopy agent line).dirOf (x / 64)).dirty = (s.dirOf (x / 64)).dirty := by
      rw [hd, if_neg hown]
      split
      · next h => rw [← h]; rfl
      · rfl
    rw [State.latest, State.latest, hdirty, hm]

/-- A core holds no line. -/
def State.lacks (s : State) (core : Nat) : Prop := ∀ line, core ∉ (s.dirOf line).agents

theorem State.dropCopy_agents (s : State) (agent line : Nat) : agent ∉ ((s.dropCopy agent line).dirOf line).agents := by
  rw [State.dropCopy_dirOf, if_pos rfl, DirE.agents]
  intro h
  rcases List.mem_append.1 h with h | h
  · dsimp only at h
    split at h
    · simp at h
    · next hn =>
      rw [Option.mem_toList] at h
      exact hn (by rw [h]; simp)
  · simp at h

theorem State.dropCopy_keeps (s : State) (agent line m : Nat) (h : agent ∉ (s.dirOf m).agents) : agent ∉ ((s.dropCopy agent line).dirOf m).agents := by
  by_cases hl : line = m
  · subst hl; exact s.dropCopy_agents agent line
  · rw [State.dropCopy_dirOf, if_neg hl]; exact h

theorem State.dropCopies_lacks (s : State) (core : Nat) : (s.dropCopies core).lacks core := by
  intro line
  have hkeep : ∀ (t : State) (e : Nat × DirE), core ∉ (t.dirOf line).agents → core ∉ ((if e.2.agents.contains core then t.dropCopy core e.1 else t).dirOf line).agents := fun t e h => by
    split
    · exact t.dropCopy_keeps core e.1 line h
    · exact h
  by_cases hin : core ∈ (s.dirOf line).agents
  · have hm : (line, s.dirOf line) ∈ s.dir := by
      rw [State.dirOf, mget] at hin ⊢
      cases hf : mfind s.dir line with
      | none => rw [hf] at hin; exact absurd hin List.not_mem_nil
      | some d => exact mfind_mem hf
    refine foldl_gives (fun t : State => core ∉ (t.dirOf line).agents) _ s hm hkeep fun t => ?_
    rw [if_pos (List.contains_iff_mem.2 hin)]
    exact t.dropCopy_agents core line
  · exact foldl_keeps (fun t : State => core ∉ (t.dirOf line).agents) _ _ s hin hkeep

theorem State.snoopWrite_lacks (h : s.lacks core) (line : Nat) : (s.snoopWrite line).lacks core := by
  intro m
  rw [State.snoopWrite, State.setDir_dirOf]
  split
  · intro hm
    have hs : core ∈ (s.dirOf line).sharers := by
      simp only [DirE.agents, Option.map_none, Option.toList_none, List.nil_append] at hm
      exact (List.mem_filter.1 hm).1
    exact h line (List.mem_append_right _ hs)
  · rw [State.collect_dirOf, State.tellInv_dirOf]; exact h m

theorem State.homeWrite_lacks (h : s.lacks core) (line : Nat) (ws : List (Nat × Byte)) : (s.homeWrite line ws).lacks core := by
  have h1 : (s.lineWrite line ws).lacks core := by
    have h0 : ((s.snoopWrite line).memPut ws).lacks core := fun m => by rw [State.memPut_dirOf]; exact s.snoopWrite_lacks h line m
    unfold State.lineWrite
    dsimp only
    split <;> exact h0
  refine foldl_keeps (fun t : State => t.lacks core) _ _ _ h1 fun t p ht m => ?_
  rw [show ∀ (z : State) n, (z.tookMany n).dirOf m = z.dirOf m from fun _ _ => rfl, State.memPut_dirOf]
  exact ht m

theorem State.homePut_lacks (h : s.lacks core) (n pa : Nat) (bs : List Byte) : (s.homePut n pa bs).lacks core := by
  induction n generalizing s pa bs with
  | zero => exact h
  | succ n ih => cases bs with
    | nil => exact h
    | cons b bs => exact ih (s.homeWrite_lacks h _ _) _ _

theorem State.unwait_lacks (h : s.lacks core) : (s.unwait core).lacks core := by
  refine foldl_keeps (fun t : State => t.lacks core) _ _ s h fun t d ht => foldl_keeps (fun t : State => t.lacks core) _ _ t ht fun v x hv => ?_
  unfold State.unwaitSlot
  extract_lets -underBinder w
  have hw : w.lacks core := hv
  split
  · split
    · exact hw
    · exact w.homePut_lacks hw _ _ _
  · exact hw

/-- Nobody waits as a core: nothing is withdrawn. -/
theorem State.unwait_latest (s : State) (core x : Nat)
    (h : ∀ d ∈ s.futs, ∀ y ∈ d.2, ∀ va w dl q re inj, y.2.kind = .future va w dl q re inj → w ≠ .hart core) : (s.unwait core).latest x = s.latest x := by
  refine List.foldlRecOn (motive := fun t : State => t.latest x = s.latest x) s.futs _ rfl fun t ht d hd =>
    List.foldlRecOn (motive := fun t : State => t.latest x = s.latest x) d.2 _ ht fun v hv y hy => ?_
  unfold State.unwaitSlot
  extract_lets -underBinder w
  have hw : w.latest x = s.latest x := hv
  split
  · next va wt dl q re inj hk => rw [if_pos (.inl (h d hd y hy va wt dl q re inj hk))]; exact hw
  · exact hw

theorem coreAssigns (s : State) (core part : Nat) (hc : core < 128) :
    ∃ t, runs (.evCoreAssign core part) s t ∧ t.hart core = { Hart.reset with part := if part < 24 then some part else none }
      ∧ (∀ c, c ≠ core → (t.hart c).part = (s.hart c).part ∧ (t.hart c).pc = (s.hart c).pc) ∧ (∀ a ∈ t.asks, a.agent ≠ core) ∧ (∀ e ∈ t.resvs, e.1 ≠ core)
      ∧ (∀ line, core ∉ (t.dirOf line).agents)
      ∧ ((∀ d ∈ s.futs, ∀ x ∈ d.2, ∀ va w dl q re inj, x.2.kind = .future va w dl q re inj → w ≠ .hart core) → ∀ x, t.latest x = s.latest x) := by
  have hh := s.scrubCore_hart core { Hart.reset with part := if part < 24 then some part else none }
  have hlack := State.unwait_lacks (s.dropCopies_lacks core)
  have hlat : (∀ d ∈ s.futs, ∀ x ∈ d.2, ∀ va w dl q re inj, x.2.kind = .future va w dl q re inj → w ≠ .hart core) →
      ∀ x, ((s.dropCopies core).unwait core).latest x = s.latest x := fun h x => by
    rw [State.unwait_latest _ core x (by rw [(s.dropCopies_onlyMemory core).futs]; exact h)]
    refine foldl_keeps (fun t : State => t.latest x = s.latest x) _ _ s rfl fun t e ht => ?_
    split
    · exact (t.dropCopy_latest core e.1 x).trans ht
    · exact ht
  refine ⟨s.scrubCore core { Hart.reset with part := if part < 24 then some part else none }, congrArg Host.Outcome.next (if_neg (not_le.2 hc)), ?_, fun c hn => ?_, ?_⟩
  · rw [hh, if_pos rfl]
  · rw [hh, if_neg (Ne.symm hn)]; exact ⟨rfl, rfl⟩
  · rw [State.scrubCore_eq]
    generalize (s.dropCopies core).unwait core = v at hlack hlat
    refine ⟨fun a ha => ?_, fun e he => ?_, hlack, hlat⟩
    · simpa using (List.mem_filter.1 (show a ∈ v.asks.filter fun a => a.agent != core from ha)).2
    · simpa using (List.mem_filter.1 (show e ∈ v.resvs.filter fun e => e.1 != core from he)).2

end Sys2Proof.Machine
end

section
/-! Partitions are created and destroyed, their segments change (R354, R356, R374, R375, R393), and the settlement of O34. -/

namespace Sys2Proof.Machine
open Sys2Proof Sys2Proof.Claims

variable {s t u : State} {p pid : Nat}

/-! Destruction. -/

/-- The cores of a partition are scrubbed and nobody's. -/
def State.freeCores (s : State) (part : Nat) : State := s.harts.foldl (fun s e => if e.2.part = some part then s.scrubCore e.1 Hart.reset else s) s

/-- The functions of a partition are nobody's. -/
def State.freeFns (s : State) (part : Nat) : State := { s with vfs := s.vfs.map fun e => (e.1, if e.2.part = some part then Fn.reset else e.2) }

/-- The slot of a partition is free; its count of tokens goes on. -/
def State.clearPart (s : State) (part : Nat) : State := s.setPart part { Part.reset with tokenSeq := (s.part part).tokenSeq }

theorem State.freeCores_scrubs (s : State) (part : Nat) : CoreScrubbed s (s.freeCores part) :=
  foldl_keeps (fun t : State => CoreScrubbed s t) _ _ s (.refl s) fun t e ht => by
    split
    · exact ht.trans (t.scrubCore_scrubs e.1 Hart.reset)
    · exact ht

theorem State.freeCores_hart (s : State) (part c : Nat) : ((s.freeCores part).hart c).part ≠ some part := by
  have hreset : Hart.reset.part ≠ some part := fun h => by cases h
  have hkeep : ∀ (t : State) (e : Nat × Hart), (t.hart c).part ≠ some part →
      ((if e.2.part = some part then t.scrubCore e.1 Hart.reset else t).hart c).part ≠ some part := fun t e h => by
    split
    · rw [State.scrubCore_hart]
      split
      · exact hreset
      · exact h
    · exact h
  by_cases hp : (s.hart c).part = some part
  · have hm : (c, s.hart c) ∈ s.harts := by
      rw [State.hart, mget] at hp ⊢
      cases hf : mfind s.harts c with
      | none => rw [hf] at hp; exact absurd hp hreset
      | some h => exact mfind_mem hf
    refine foldl_gives (fun t : State => (t.hart c).part ≠ some part) _ s hm hkeep fun t => ?_
    rw [if_pos hp, State.scrubCore_hart, if_pos rfl]
    exact hreset
  · exact foldl_keeps (fun t : State => (t.hart c).part ≠ some part) _ _ s hp hkeep

theorem State.freeFns_vfs (s : State) (part : Nat) : ∀ f ∈ (s.freeFns part).vfs, f.2.part ≠ some part := fun f hf h => by
  obtain ⟨x, -, rfl⟩ := List.mem_map.1 hf
  dsimp only at h
  split at h
  · cases h
  · next hn => exact hn h

theorem State.clearPart_part (s : State) (part q : Nat) : (s.clearPart part).part q = if part = q then { Part.reset with tokenSeq := (s.part part).tokenSeq } else s.part q :=
  State.setPart_part ..

/-- What is left of functions and of a partition's slot touches nothing else. -/
theorem Over.clear (g : Over p u s) : Over p u ((s.freeFns pid).clearPart pid) :=
  ⟨g.cells, g.keys, g.gibs, ⟨g.silent.copies, g.silent.tasks, g.silent.transfers, g.silent.launches, g.silent.hypFaults, g.silent.futs, g.silent.parks, g.silent.flights,
    g.silent.sets⟩⟩

theorem partitionDestroys (s : State) (part : Nat) (hst : (s.part part).st ≠ .absent) : ∃ t, runs (.evPartitionDestroy part) s t ∧ (t.part part).st = .absent ∧ finished s t part
      ∧ (∀ core, (t.hart core).part ≠ some part) ∧ (∀ f ∈ t.vfs, f.2.part ≠ some part) ∧ survives s t [part] := by
  have he := (s.endPart_ends part).1
  have hc := (s.endPart part).freeCores_scrubs part
  have hh := (s.endPart part).freeCores_hart part
  have hrun : runs (.evPartitionDestroy part) s ((((s.endPart part).freeCores part).freeFns part).clearPart part) := congrArg Host.Outcome.next (if_neg hst)
  generalize (s.endPart part).freeCores part = v at hc hh hrun
  generalize s.endPart part = w at he hc
  refine ⟨_, hrun, ?_, (hc.isOver he.isOver).clear.finished, hh, State.freeFns_vfs v part, fun q hq => ?_, fun c hcell => ?_⟩
  · rw [State.clearPart_part, if_pos rfl]; rfl
  · have hne : q ≠ part := fun e => hq (List.mem_singleton.2 e)
    have hf := he.face q hne
    rw [State.clearPart_part, if_neg (Ne.symm hne)]
    have hp : (v.freeFns part).part q = w.part q := by
      show mget Part.reset v.parts q = _
      rw [hc.parts]; rfl
    rw [hp]
    refine ⟨Part.st_of_face hf, Part.table_of_face hf, Part.seg_of_face hf, ?_⟩
    show mget 0 v.keys q = _
    rw [hc.keys, he.keys, if_neg (Ne.symm hne)]
  · have hs := he.other c fun hm => by
      obtain ⟨e, hes, hec, ht⟩ := State.mem_cellsOf.1 hm
      exact hcell e hes hec (List.mem_singleton.2 ht)
    have hv : ((v.freeFns part).clearPart part).cell c = w.cell c := cell_of_cells hc.cells c
    rw [hv]
    exact hs.keeps

/-! Creation. -/

/-- A slice schedule takes a partition, whose images are kept. -/
theorem State.joinSet_spec (s : State) (part : Nat) (cells : List Nat) (images : List (Nat × Image)) :
    (s.joinSet part cells images).parts = s.parts ∧ (s.joinSet part cells images).cells = s.cells ∧ (s.joinSet part cells images).gibs = s.gibs
      ∧ (s.joinSet part cells images).tokens = s.tokens ∧ (s.joinSet part cells images).scrubSeq = s.scrubSeq
      ∧ (cells ≠ [] → ∃ n, (∃ len, (part, len) ∈ ((s.joinSet part cells images).sliceSet n).order) ∧ mget [] ((s.joinSet part cells images).sliceSet n).images part = images) := by
  unfold State.joinSet
  split
  · next h => exact ⟨rfl, rfl, rfl, rfl, rfl, fun hn => absurd (List.isEmpty_iff.1 h) hn⟩
  extract_lets len
  split
  · next n st _ =>
    refine ⟨rfl, rfl, rfl, rfl, rfl, fun _ => ⟨n, ?_⟩⟩
    have hs : ∀ x, State.sliceSet { s with sets := mput s.sets n x } n = x := fun x => mget_mput_self _ _ _ _
    rw [show ∀ z : State, z.took.sliceSet n = z.sliceSet n from fun _ => rfl, hs]
    exact ⟨⟨len, List.mem_append_right _ (List.mem_singleton.2 rfl)⟩, mget_mput_self _ _ _ _⟩
  · next first st _ _ =>
    refine ⟨rfl, rfl, rfl, rfl, rfl, fun _ => ⟨s.serial, ?_⟩⟩
    have hs : State.sliceSet { s with sets := mput s.sets s.serial st } s.serial = st := mget_mput_self _ _ _ _
    rw [show ∀ z : State, z.bump.took.took.sliceSet s.serial = z.sliceSet s.serial from fun _ => rfl, hs]
    refine ⟨⟨len, List.mem_append_right _ (List.mem_singleton.2 rfl)⟩, ?_⟩
    show (mfind [(part, images)] part).getD [] = images
    rw [mfind, if_pos rfl]; rfl

/-- The evicted positions of a table. -/
def cfgAway (cfg : PartCfg) : List (Nat × BitVec 32) := (cfg.table.mapIdx fun l e => (l, e)).filter fun e => entKind e.2 = 1 && entEvict e.2

theorem mem_cfgAway {cfg : PartCfg} {l : Nat} {e : BitVec 32} (hl : cfg.table[l]? = some e) (hk : e.extractLsb' 30 2 = 1) (hv : e.getLsbD 29 = true) : (l, e) ∈ cfgAway cfg := by
  refine List.mem_filter.2 ⟨List.mem_mapIdx.2 ?_, ?_⟩
  · obtain ⟨h, hget⟩ := List.getElem?_eq_some_iff.1 hl
    exact ⟨l, h, by rw [hget]⟩
  · have hkind : entKind e = 1 := by
      rw [entKind, ← extract_toNat, hk]; rfl
    simp [hkind, entEvict, hv]

/-- A partition as its configuration makes it. -/
def cfgPart (cfg : PartCfg) : Part :=
  { Part.reset with
    st := .running, gridW := cfg.gridW, gridH := cfg.gridH, table := cfg.table, seg := cfg.seg, slices := cfg.slices, jobs := cfg.jobs
    ring := cfg.ring, epoch := true }

/-- The partition's slot and its memory. -/
def State.foundPart (s : State) (part : Nat) (cfg : PartCfg) : State := (s.setPart part (cfgPart cfg)).ownMemory part

theorem State.foundPart_part (s : State) (part : Nat) (cfg : PartCfg) : (s.foundPart part cfg).part part = cfgPart cfg := by
  rw [State.foundPart, State.ownMemory, State.setKeys_eq]
  show (State.gain _ _ _).part part = _
  rw [(State.gain_onlyMemory _ _ _).part, State.setPart_part, if_pos rfl]

theorem State.foundPart_gibs (s : State) (part : Nat) (cfg : PartCfg) {b : Nat} (hb : b ∈ segBlocks cfg.seg) : mget 0 (s.foundPart part cfg).gibs b = s.keyId part := by
  have hp : (s.setPart part (cfgPart cfg)).part part = cfgPart cfg := by rw [State.setPart_part, if_pos rfl]
  rw [State.foundPart, State.ownMemory, State.setKeys_gibs, hp]
  exact if_pos hb

theorem State.foundPart_log (s : State) (part : Nat) (cfg : PartCfg) : (s.foundPart part cfg).tokens = s.tokens ∧ (s.foundPart part cfg).scrubSeq = s.scrubSeq := by
  rw [State.foundPart, State.ownMemory, State.setKeys_eq]
  have h := State.gain_onlyMemory (s.setPart part (cfgPart cfg)) (segBlocks ((s.setPart part (cfgPart cfg)).part part).seg) ((s.setPart part (cfgPart cfg)).keyId part)
  exact ⟨h.tokens, h.scrubSeq⟩

theorem partitionCreates (s : State) (part : Nat) (cfg : PartCfg) (hup : s.hostUp = true) (hp : part < 24) (hst : (s.part part).st = .absent) (hcfg : s.cfgOk part cfg = true) :
      ∃ t, runs (.evPartitionCreate part cfg) s t ∧ (t.part part).st = .running ∧ (t.part part).table = cfg.table ∧ (t.part part).seg = cfg.seg
        ∧ (t.part part).threshold = 4 ∧ (t.part part).grace = 1000000 ∧ (t.part part).epoch = true ∧ (t.part part).floor = 0
        ∧ (∀ c ∈ tableCells cfg.table false, scrubbed (t.cell c)) ∧ (∀ b ∈ segBlocks cfg.seg, mget 0 t.gibs b = s.keyId part)
        ∧ t.scrubSeq = s.scrubSeq + 1 ∧ (∃ k, t.tokens = s.tokens ++ [k] ∧ k.part = part ∧ k.cells = tableCells cfg.table false)
        ∧ (tableCells cfg.table true ≠ [] → ∃ n, (∃ len, (part, len) ∈ (t.sliceSet n).order)
          ∧ ∀ l e, cfg.table[l]? = some e → e.extractLsb' 30 2 = 1 → e.getLsbD 29 = true → ∃ i, (l, i) ∈ mget [] (t.sliceSet n).images part
            ∧ i.lcell = BitVec.ofNat 16 l ∧ i.kchan = cfg.kchans.getD l 0 ∧ i.chans = [] ∧ i.saved = []) := by
  have hg : ¬(!s.hostUp || 24 ≤ part || (s.part part).st ≠ .absent || !s.cfgOk part cfg) = true := by
    simp [hup, hst, hcfg, hp]
  let own := tableCells cfg.table false
  let images := (cfgAway cfg).map fun e => (e.1, Image.fresh e.1 (cfg.kchans.getD e.1 0))
  have hrun : runs (.evPartitionCreate part cfg) s (((s.foundPart part cfg).scrubSet own part 1 ((cfgPart cfg).logicalOf own)).joinSet part (tableCells cfg.table true) images) :=
    congrArg Host.Outcome.next (if_neg hg)
  have hpart := s.foundPart_part part cfg
  have hgibs := fun {b} hb => s.foundPart_gibs part cfg (b := b) hb
  obtain ⟨htok, hseq⟩ := s.foundPart_log part cfg
  generalize s.foundPart part cfg = u at hrun hpart hgibs htok hseq
  have hk := u.scrubSet_keeps own part 1 ((cfgPart cfg).logicalOf own)
  have hs := fun {c} h => u.scrubSet_scrubs own part 1 ((cfgPart cfg).logicalOf own) (c := c) h
  obtain ⟨hsq, k, hkt, hkp, hkc, -⟩ := u.scrubSet_logs own part 1 ((cfgPart cfg).logicalOf own)
  generalize u.scrubSet own part 1 ((cfgPart cfg).logicalOf own) = v at hrun hk hs hsq hkt
  obtain ⟨j1, j2, j3, j4, j5, j6⟩ := v.joinSet_spec part (tableCells cfg.table true) images
  have hface : ((v.joinSet part (tableCells cfg.table true) images).part part).face = (cfgPart cfg).face := by
    rw [State.part, j1, ← hpart]; exact hk.face part
  generalize v.joinSet part (tableCells cfg.table true) images = w at hrun j1 j2 j3 j4 j5 j6 hface
  refine ⟨w, hrun, Part.st_of_face hface, Part.table_of_face hface, Part.seg_of_face hface, ?_, ?_, ?_, ?_, fun c hc => ?_, fun b hb => ?_, ?_, ⟨k, ?_, hkp, hkc⟩, fun hn => ?_⟩
  · have e := congrArg Part.threshold hface; exact e
  · have e := congrArg Part.grace hface; exact e
  · have e := congrArg Part.epoch hface; exact e
  · have e := congrArg Part.floor hface; exact e
  · rw [cell_of_cells j2]; exact hs hc
  · rw [j3, hk.gibs]; exact hgibs hb
  · rw [j5, hsq, hseq]
  · rw [j4, hkt, htok]
  · obtain ⟨n, hord, himg⟩ := j6 hn
    refine ⟨n, hord, fun l e hl h1 h2 => ⟨Image.fresh l (cfg.kchans.getD l 0), ?_, rfl, rfl, rfl, rfl⟩⟩
    rw [himg]
    exact List.mem_map.2 ⟨(l, e), mem_cfgAway hl h1 h2, rfl⟩

/-! Segments (R375). -/

theorem State.stagePage_onlyMemory (s : State) (pid : Nat) (need : Need) (lodge : Bool) (va : Word) : OnlyMemory s (s.stagePage pid need lodge va).1 := by
  have h := s.translate_onlyMemory pid none false need true va
  unfold State.stagePage
  split <;> next e => rw [e] at h; exact h

theorem State.stagePages_onlyMemory (s : State) (pid : Nat) (g : Stager) : OnlyMemory s (s.stagePages pid g).1 := by
  refine foldl_keeps (fun r : State × SMap Nat => OnlyMemory s r.1) _ _ _ (.refl s) fun r n hr =>
    foldl_keeps (fun r : State × SMap Nat => OnlyMemory s r.1) _ _ r hr fun r v hr => ?_
  have h := hr.trans (r.1.stagePage_onlyMemory pid .write false v)
  split <;> next e => rw [e] at h; exact h

/-- Translations that are read again change no cell, key or segment. -/
theorem State.restage_spec (s : State) (pid : Nat) : (s.restage pid).cells = s.cells ∧ (s.restage pid).gibs = s.gibs ∧ ((s.restage pid).part pid).seg = (s.part pid).seg := by
  unfold State.restage
  split
  · exact ⟨rfl, rfl, rfl⟩
  next g hg =>
  split
  · exact ⟨rfl, rfl, rfl⟩
  have h := s.stagePages_onlyMemory pid g
  generalize s.stagePages pid g = r at h
  refine ⟨h.cells, h.gibs, ?_⟩
  dsimp only
  rw [State.setPart_part, if_pos rfl, h.part]

theorem OnlyMemory.keyId (h : OnlyMemory s t) (pid : Nat) : t.keyId pid = s.keyId pid := by rw [State.keyId, State.keyId, h.keeps.keys]

theorem State.setKeys_cells (s : State) (blocks : List Nat) (id : Nat) : (s.setKeys blocks id).cells = s.cells := by
  rw [State.setKeys_eq]; exact (s.gain_onlyMemory blocks id).cells
theorem State.setKeys_part (s : State) (blocks : List Nat) (id p : Nat) : (s.setKeys blocks id).part p = s.part p := by
  rw [State.setKeys_eq]; exact (s.gain_onlyMemory blocks id).part p
theorem State.setKeys_keyId (s : State) (blocks : List Nat) (id p : Nat) : (s.setKeys blocks id).keyId p = s.keyId p := by
  rw [State.setKeys_eq]; exact (s.gain_onlyMemory blocks id).keyId p

/-- The blocks of an old segment that a new one does not cover. -/
def lostBlocks (old seg : Segment) : List Nat := (segBlocks old).filter fun b => !(segBlocks seg).contains b

/-- What a device holds of the old translations follows, and the new segment stands in the partition. -/
def State.slotsMoved (s : State) (pid : Nat) (seg : Segment) : State :=
  let old := (s.part pid).seg
  let slot := fun (x : Nat × FSlot) => if x.2.part = pid then (Machine.moveTo old seg x.2.pa).map fun pa => (x.1, { x.2 with pa := pa }) else some x
  let park := fun (q : Parked) => if q.part = pid then (Machine.moveTo old seg q.ctr).map fun c => { q with ctr := c } else some q
  let s : State := { s with
    futs := s.futs.map fun e => (e.1, e.2.filterMap slot)
    parks := s.parks.map fun e => (e.1, e.2.filterMap park)
    resvs := s.resvs.filter fun e => (s.hart e.1).part != some pid }
  s.setPart pid { s.part pid with seg := seg }

theorem State.moveSegment_eq (s : State) (pid : Nat) (seg : Segment) : s.moveSegment pid seg =
    (((s.slotsMoved pid seg).disown (lostBlocks (s.part pid).seg seg)).ownMemory pid).restage pid := rfl

theorem State.slotsMoved_seg (s : State) (pid : Nat) (seg : Segment) : ((s.slotsMoved pid seg).part pid).seg = seg := by
  have h : (s.slotsMoved pid seg).part pid = { s.part pid with seg := seg } := (State.setPart_part ..).trans (if_pos rfl)
  rw [h]

theorem State.moveSegment_spec (s : State) (pid : Nat) (g : Segment) : ((s.moveSegment pid g).part pid).seg = g ∧ (s.moveSegment pid g).cells = s.cells
      ∧ (∀ b ∈ segBlocks g, mget 0 (s.moveSegment pid g).gibs b = s.keyId pid) ∧ ∀ b ∈ segBlocks (s.part pid).seg, b ∉ segBlocks g → mget 0 (s.moveSegment pid g).gibs b = 0 := by
  have hseg := s.slotsMoved_seg pid g
  have hcells : (s.slotsMoved pid g).cells = s.cells := rfl
  have hkey : (s.slotsMoved pid g).keyId pid = s.keyId pid := rfl
  rw [State.moveSegment_eq]
  generalize s.slotsMoved pid g = v at hseg hcells hkey
  obtain ⟨r1, r2, r3⟩ := State.restage_spec ((v.disown (lostBlocks (s.part pid).seg g)).ownMemory pid) pid
  rw [r1, r2, r3, State.ownMemory, State.disown, State.setKeys_part, State.setKeys_part, State.setKeys_cells, State.setKeys_cells, State.setKeys_keyId, hseg, hkey]
  refine ⟨rfl, hcells, fun b hb => ?_, fun b hb hn => ?_⟩
  · rw [State.setKeys_gibs, if_pos hb]
  · rw [State.setKeys_gibs, if_neg hn, State.setKeys_gibs, if_pos]
    exact List.mem_filter.2 ⟨hb, by simpa using hn⟩

theorem segmentUpdates (s : State) (part : Nat) (g : Segment) (hst : (s.part part).st ≠ .absent) (hok : segOk g = true) (hfree : s.segFree part g = true) :
      let inv := s.invalidate (s.part part).cellsOf (s.part part).cellsOf (fun e => e.part == part) (fun c => c.part == part)
      (s.saving (s.part part).cellsOf = true → runs (.evSegmentUpdate none part g) s s)
      ∧ (s.saving (s.part part).cellsOf = false → (∀ y, inv = .error y → runs (.evSegmentUpdate none part g) s s)
        ∧ ∀ u, inv = .ok u → ∃ t, runs (.evSegmentUpdate none part g) s t ∧ (t.part part).seg = g ∧ t.cells = u.cells
          ∧ (∀ b ∈ segBlocks g, mget 0 t.gibs b = u.keyId part) ∧ ∀ b ∈ segBlocks (u.part part).seg, b ∉ segBlocks g → mget 0 t.gibs b = 0) := by
  intro inv
  have hgo : s.saving (s.part part).cellsOf = false →
      exec (.evSegmentUpdate none part g) s = .next (match inv with | .ok t => t.moveSegment part g | .error _ => s) := fun hs => by
    refine congrArg Host.Outcome.next (if_neg ?_)
    rintro (h | h | h | h)
    · exact hst h
    · rw [hok] at h; cases h
    · rw [hfree] at h; cases h
    · rw [hs] at h; cases h
  refine ⟨fun hs => congrArg Host.Outcome.next (if_pos (.inr (.inr (.inr hs)))), fun hs => ⟨fun y hy => ?_, fun u hu => ?_⟩⟩
  · exact (hgo hs).trans (by rw [hy])
  · exact ⟨u.moveSegment part g, (hgo hs).trans (by rw [hu]), u.moveSegment_spec part g⟩

/-- Settles O34: assignments, scrubs, creation and destruction of partitions, segments and kills. -/
theorem partitions : Obligations.Partitions := by
  unfold Obligations.Partitions
  exact ⟨cellAssigns, coreAssigns, vfAssigns, scrubs, partitionCreates, partitionDestroys, bankScrubs, vfSegment, segmentUpdates, parityKills⟩

end Sys2Proof.Machine
end

section
/-! Scalar instructions of X: what retires, what a guard that is off does, and what such an instruction leaves as it was (R57, R174, R186, R207). -/

namespace Sys2Proof.Machine
open Sys2Proof Sys2Proof.Claims

variable {s t : State}

/-! Retirement where no loop ends. -/

/-- A context that keeps its engine's loops and program counter retires behind its lanes, where no loop ends at the old one. -/
theorem Ctx.retire_past {x y : Ctx} {e : Eng} (len : Nat) (h : noLoop x e) (hl : y.loops = x.loops) (he : (y.eng e).pc = (x.eng e).pc) :
    y.retire e len = Claims.past y e len := by
  refine Ctx.retire_plain y e len fun k hk => ?_
  have := h k hk
  rwa [Ctx.loopOf, hl, he]

/-- The running context is replaced, and its engine retires where no loop ends. -/
theorem retire_goes {y : Ctx} {e : Eng} (len : Nat) (h : noLoop s.cx e) (hl : y.loops = s.cx.loops) (he : (y.eng e).pc = (s.cx.eng e).pc) :
    (s.setCx y).retire e len = s.setCx (Claims.past y e len) := by
  rw [State.retire, State.setCx_cx, State.setCx_setCx, Ctx.retire_past len h hl he]

theorem retire_past (e : Eng) (len : Nat) (h : noLoop s.cx e) : s.retire e len = s.setCx (Claims.past s.cx e len) :=
  congrArg s.setCx (Ctx.retire_past len h rfl rfl)

/-! Guards that are off (R57). -/

/-- An instruction of X under a guard runs a body, or sets its program counter, only while its guard is on. -/
theorem xGuard_runs {i : Instr} {g : GuardP} {len : Nat} (h : xGuard i = some (g, len)) (s : State) :
    (∃ rs body, exec i s = .next (s.xRun g rs len body)) ∨ ∃ rs body, exec i s = .next (s.xFlow g rs len body) := by
  cases i <;> cases h
  case xDone | xJmp | xCall | xJmpr | xRet | xLoop | xMclaim | xSys | xEbrk => exact .inr ⟨_, _, by rfl⟩
  all_goals exact .inl ⟨_, _, by rfl⟩

/-- A privileged instruction checks its mode before its guard (R174, R337); ctxsave sets its program counter itself. -/
theorem privGuard_runs {i : Instr} {g : GuardP} {len : Nat} (h : privGuard i = some (g, len)) (s : State) :
    len = 1 ∧ ((∃ rs body, exec i s = .next (s.xPriv g rs body)) ∨ ∃ rs body, exec i s =
      .next (if !s.cx.kmode then s.raise s.cur.cell s.cur.ctx .x ⟨4, 6, 0xFF, 0, 0, 0⟩ 0 0 else s.xFlow g rs 1 body)) := by
  cases i <;> cases h
  case xCtxsave => exact ⟨rfl, .inr ⟨_, _, by rfl⟩⟩
  all_goals exact ⟨rfl, .inl ⟨_, _, by rfl⟩⟩

theorem aGuard_runs {i : Instr} {q : GuardQ} {len : Nat} (h : aGuard i = some (q, len)) (s : State) :
    (∃ body, exec i s = .next (s.aRun q len body)) ∨ ∃ body, exec i s = .next (s.aFlow q len body) := by
  cases i <;> cases h
  case aDone | aJmp | aLoop | aLd | aSt | aGath | aScat => exact .inr ⟨_, by rfl⟩
  all_goals exact .inl ⟨_, by rfl⟩

/-- Settles O1: a guard that is off lets nothing of the body run, and the instruction retires. -/
theorem falseGuardRetires : Obligations.FalseGuardRetires := by
  unfold Obligations.FalseGuardRetires
  have off : ∀ {s : State} {g : GuardP}, ¬guardOn s.cx g → (s.cx.guard g).getLsbD 0 = false := fun h => Bool.eq_false_iff.2 h
  refine ⟨fun s i g len hi hg hl => ?_, fun s i g len hi hk hg hl => ?_, fun s i q len hi hq hl => ?_⟩
  · have hr := retire_past .x len hl
    rcases xGuard_runs hi s with ⟨rs, body, h⟩ | ⟨rs, body, h⟩
    · exact h.trans (congrArg _ ((s.xRun_off g rs len body (off hg)).trans hr))
    · exact h.trans (congrArg _ ((s.xFlow_off g rs len body (off hg)).trans hr))
  · obtain ⟨rfl, ⟨rs, body, h⟩ | ⟨rs, body, h⟩⟩ := privGuard_runs hi s
    · exact h.trans (congrArg _ ((s.xPriv_k g rs body hk).trans ((s.xRun_off g rs 1 body (off hg)).trans (retire_past .x 1 hl))))
    · rw [hk] at h
      exact h.trans (congrArg _ ((s.xFlow_off g rs 1 body (off hg)).trans (retire_past .x 1 hl)))
  · have hr := retire_past .a len hl
    rcases aGuard_runs hi s with ⟨body, h⟩ | ⟨body, h⟩
    · exact h.trans (congrArg _ ((s.aRun_off q len body hq).trans hr))
    · exact h.trans (congrArg _ ((s.aFlow_off q len body hq).trans hr))

/-- Settles O16: the mode is checked first, so the guard decides nothing. -/
theorem privilegedInUserTraps : Obligations.PrivilegedInUserTraps := by
  unfold Obligations.PrivilegedInUserTraps
  intro s i g len hi hk
  obtain ⟨-, ⟨rs, body, h⟩ | ⟨rs, body, h⟩⟩ := privGuard_runs hi s
  · exact h.trans (by rw [State.xPriv, hk]; rfl)
  · exact h.trans (by rw [hk]; rfl)

/-! The frame of a scalar instruction. -/

/-- From x to y a scalar instruction wrote its destination, or nothing. -/
inductive Wrote (x : Ctx) : Dest → Ctx → Prop
  | nothing (d) : Wrote x d x
  | g (d w) : Wrote x (.g d) (x.setG d w)
  | p (d w) : Wrote x (.p d) (x.setP d w)
  | csr (d c v w) : Wrote x (.csr d) ((x.setCsr c v).setG d w)

/-- A scalar instruction with its destination waits, or writes and retires. -/
def Scalar (s : State) (d : Dest) (t : State) : Prop := t = s ∨ ∃ y len, Wrote s.cx d y ∧ t = s.setCx (y.retire .x len)

theorem scalar_finish {d : Dest} {y : Ctx} (len : Nat) (h : Wrote s.cx d y) : Scalar s d (s.finish .x len (.ok (s.setCx y))) :=
  .inr ⟨y, len, h, by rw [State.finish_ok, State.retire, State.setCx_cx, State.setCx_setCx]⟩

theorem scalar_xAlways {d : Dest} {y : Ctx} (rs : List RegG) (len : Nat) {body : State → Act State} (hb : body s = .ok (s.setCx y)) (h : Wrote s.cx d y) :
    Scalar s d (s.xAlways rs len body) := by
  unfold State.xAlways; split
  · exact .inl rfl
  · rw [hb]; exact scalar_finish len h

theorem scalar_xRun {d : Dest} {y : Ctx} (g : GuardP) (rs : List RegG) (len : Nat) {body : State → Act State} (hb : body s = .ok (s.setCx y))
    (h : Wrote s.cx d y) : Scalar s d (s.xRun g rs len body) := by
  unfold State.xRun; split
  · exact scalar_xAlways rs len hb h
  · exact .inr ⟨s.cx, len, .nothing d, rfl⟩

theorem scalar_xRun_ok {d : Dest} (g : GuardP) (rs : List RegG) : Scalar s d (s.xRun g rs 1 .ok) := by
  unfold State.xRun
  split_ifs
  · exact .inl rfl
  · exact .inr ⟨s.cx, 1, .nothing d, rfl⟩
  · exact .inr ⟨s.cx, 1, .nothing d, rfl⟩

theorem scalar_xTo (g : GuardP) (rs : List RegG) (len : Nat) (d : RegG) (f : Ctx → Word) : Scalar s (.g d) (s.xTo g rs len d f) :=
  scalar_xRun g _ len rfl (.g d _)
theorem scalar_xPred (pd : RegP) (f : Ctx → BitVec 16) : Scalar s (.p pd) (s.xPred pd f) := scalar_xAlways _ _ rfl (.p pd _)
theorem scalar_xToP (g : GuardP) (rs : List RegG) (pd : RegP) (f : Ctx → BitVec 16) : Scalar s (.p pd) (s.xToP g rs pd f) :=
  scalar_xRun g _ _ rfl (.p pd _)

/-- A scalar instruction of X waits, or retires with what it wrote into its destination. -/
theorem xDest_scalar {i : Instr} {d : Dest} (h : xDest s i = some d) : ∃ t, exec i s = .next t ∧ Scalar s d t := by
  cases i <;> cases h
  case xCsrw | xCsrs => exact ⟨_, rfl, scalar_xRun _ _ _ rfl (.csr _ _ _ _)⟩
  case xCmp | xCmpi => exact ⟨_, rfl, scalar_xToP _ _ _ _⟩
  case xNop => exact ⟨_, rfl, scalar_xRun_ok _ _⟩
  case xCsrr => exact ⟨_, rfl, scalar_xRun _ _ _ rfl (.g _ _)⟩
  case xPfrom => exact ⟨_, rfl, scalar_xAlways _ _ rfl (.p _ _)⟩
  case xPand | xPor | xPxor | xPandn | xPmov | xPany | xPall | xPseti => exact ⟨_, rfl, scalar_xPred _ _⟩
  case xPto | xPcnt => exact ⟨_, rfl, scalar_xAlways _ _ rfl (.g _ _)⟩
  all_goals exact ⟨_, rfl, scalar_xTo _ _ _ _ _⟩

/-- A state that differs in its running context alone. -/
theorem onlyCx_setCx (s : State) (z : Ctx) : onlyCx s (s.setCx z) := by
  refine ⟨rfl, fun c => ?_, fun c k h => ?_, fun _ => rfl⟩
  · rw [State.setCx, State.setCtx, State.setCell_cell]; split
    · next h => rw [← h]; rfl
    · rfl
  · exact (State.setCx_ctx s c k z).trans (if_neg fun e => h (Prod.ext e.1.symm e.2.symm))

theorem onlyCx_refl (s : State) : onlyCx s s := ⟨rfl, fun _ => rfl, fun _ _ _ => rfl, fun _ => rfl⟩

/-- A write of a CSR changes fmode or late. -/
theorem Ctx.setCsr_eq (x : Ctx) (c : Csr) (w : Word) : x.setCsr c w = { x with fmode := (x.setCsr c w).fmode, late := (x.setCsr c w).late } := by
  cases c <;> rfl

theorem Ctx.setCsr_takes (x : Ctx) (c : Csr) (w : Word) : x.setCsr c w = csrTakes x c w := by cases c <;> rfl

theorem sameRest_trans {x y z : Ctx} (h : sameRest x y) (g : sameRest y z) : sameRest x z := by
  unfold sameRest at *
  simp_all only [and_self]

namespace Wrote
variable {x y : Ctx} {d : Dest}

theorem sameRest (h : Wrote x d y) : sameRest x y := by
  cases h with
  | nothing d => simp [Claims.sameRest]
  | g d w => simp [Claims.sameRest]
  | p d w => simp [Claims.sameRest]
  | csr d c v w => rw [x.setCsr_eq c v]; simp [Claims.sameRest]

theorem loops (h : Wrote x d y) : y.loops = x.loops := by
  cases h with
  | nothing d => rfl
  | g d w => simp
  | p d w => simp
  | csr d c v w => rw [x.setCsr_eq c v]; simp

theorem sameBut (h : Wrote x d y) : sameBut d x y := by
  cases h with
  | nothing d => cases d <;> simp [Claims.sameBut]
  | g d w => exact ⟨fun r hr => by rw [Ctx.setG_gr, if_neg fun h => hr h.1], fun r => by simp [Ctx.pr], by simp, by simp⟩
  | p d w => exact ⟨fun r => by simp [Ctx.gr], fun r hr => by rw [Ctx.setP_pr, if_neg fun h => hr h.1], by simp, by simp⟩
  | csr d c v w =>
    rw [x.setCsr_eq c v]
    exact ⟨fun r hr => by rw [Ctx.setG_gr, if_neg fun h => hr h.1]; rfl, fun r => by simp [Ctx.pr]⟩

end Wrote

/-- The frame of retirement: X's loop counters, and X's program counter with what belongs to it. -/
theorem Ctx.retire_sameRest (x : Ctx) (len : Nat) : sameRest x (x.retire .x len) := by
  obtain ⟨l, c, h, hst, hcode, hheld, hhor, -, -⟩ := x.retire_frame .x len
  rw [h]
  simpa [sameRest, Ctx.setEng] using (⟨hst, hcode, hheld, hhor⟩ : c.st = x.ex.st ∧ c.code = x.ex.code ∧ c.held = x.ex.held ∧ c.horizon = x.ex.horizon)

theorem Ctx.retire_sameBut {x y : Ctx} {d : Dest} (len : Nat) (h : sameBut d x y) : sameBut d x (y.retire .x len) := by
  obtain ⟨l, c, e, -⟩ := y.retire_frame .x len
  rw [e]
  cases d <;> exact h

theorem Ctx.retire_loopOf (x : Ctx) (len : Nat) {e : Eng} (he : e ≠ .x) (k : Nat) : (x.retire .x len).loopOf e k = x.loopOf e k := by
  obtain ⟨l, c, h, -, -, -, -, -, hl⟩ := x.retire_frame .x len
  rw [h]
  have h1 : 1 ≤ engNo e := by cases e with
    | x => exact absurd rfl he
    | a => exact le_refl 1
    | m => exact Nat.le_succ 1
  exact hl _ fun j hj => by rw [show engNo .x = 0 from rfl]; omega

/-- Settles O2: an instruction that waits changes nothing; one that executes, or whose guard is off, writes at most its destination and retires. -/
theorem xScalarFrame : Obligations.XScalarFrame := by
  unfold Obligations.XScalarFrame
  intro s t i d hd hrun
  obtain ⟨u, hu, hs⟩ := xDest_scalar hd
  obtain rfl : u = t := by rw [runs, hu] at hrun; exact Host.Outcome.next.inj hrun
  rcases hs with rfl | ⟨y, len, hw, rfl⟩
  · exact ⟨onlyCx_refl _, (Wrote.nothing d).sameBut, (Wrote.nothing d).sameRest, fun _ _ _ => rfl⟩
  · rw [State.setCx_cx]
    exact ⟨onlyCx_setCx s _, Ctx.retire_sameBut len hw.sameBut, sameRest_trans hw.sameRest (y.retire_sameRest len),
      fun e k he => by rw [Ctx.retire_loopOf _ _ he, Ctx.loopOf, hw.loops]; rfl⟩

end Sys2Proof.Machine
end

section
/-! The CSRs (R62, R64, R201) and the token FIFOs (R72, R133, R208). -/

namespace Sys2Proof.Machine
open Sys2Proof Sys2Proof.Claims

variable {s : State}

/-- A body that writes the running context and moves nothing of X's control runs, and X goes past its lanes. -/
theorem xRun_goes {g : GuardP} {rs all : List RegG} {len : Nat} {body : State → Act State} {y : Ctx} (h : xReady s g all) (hsub : ∀ r ∈ rs, r ∈ all)
    (hb : body s = .ok (s.setCx y)) (hl : y.loops = s.cx.loops) (he : y.ex.pc = s.cx.ex.pc) : s.xRun g rs len body = xGoes s y len := by
  obtain ⟨hg, hs, hn⟩ := h
  rw [xRun_settled hg hs hsub, hb, State.finish_ok]
  exact retire_goes len hn hl he

theorem csrWriteReturnsOld : CsrWriteReturnsOld := by
  intro s d a c g h
  have goes : ∀ w, (((csrTakes s.cx c w).setG d (s.csr c)).loops = s.cx.loops) ∧ ((csrTakes s.cx c w).setG d (s.csr c)).ex.pc = s.cx.ex.pc := fun w => by
    cases c <;> simp [csrTakes]
  exact ⟨congrArg _ (xRun_goes h (fun _ hr => hr) (by rw [Ctx.setCsr_takes]) (goes _).1 (goes _).2),
    congrArg _ (xRun_goes h (fun _ hr => hr) (by rw [Ctx.setCsr_takes]) (goes _).1 (goes _).2)⟩

/-- The bits of a number that lies in a word. -/
theorem extract_ofNat (v lo n : Nat) (h : v < 2 ^ 64) : ((BitVec.ofNat 64 v).extractLsb' lo n).toNat = v / 2 ^ lo % 2 ^ n := by
  rw [BitVec.extractLsb'_toNat, BitVec.toNat_ofNat, Nat.mod_eq_of_lt h, Nat.shiftRight_eq_div_pow]

/-- The fields of the ctx CSR (R64). -/
theorem ctxCsr_fields (s : State) : (s.csr .ctx).extractLsb' 0 2 = BitVec.ofNat 2 s.cur.ctx ∧ (s.csr .ctx).extractLsb' 8 16 = s.cl.lcell
    ∧ (s.csr .ctx).extractLsb' 24 5 = BitVec.ofNat 5 s.cl.tag ∧ (s.csr .ctx).getLsbD 29 = s.cx.kmode
    ∧ (s.csr .ctx).extractLsb' 2 6 = 0 ∧ (s.csr .ctx).extractLsb' 30 34 = 0 := by
  have hl := s.cl.lcell.isLt
  have hk := Bool.toNat_le s.cx.kmode
  have field : ∀ lo n, ((s.csr .ctx).extractLsb' lo n).toNat
      = (s.cur.ctx % 4 + s.cl.lcell.toNat * 2 ^ 8 + s.cl.tag % 32 * 2 ^ 24 + s.cx.kmode.toNat * 2 ^ 29) / 2 ^ lo % 2 ^ n := fun lo n =>
    extract_ofNat _ lo n (by omega)
  refine ⟨BitVec.eq_of_toNat_eq ?_, BitVec.eq_of_toNat_eq ?_, BitVec.eq_of_toNat_eq ?_, ?_, BitVec.eq_of_toNat_eq ?_, BitVec.eq_of_toNat_eq ?_⟩
  · rw [field, BitVec.toNat_ofNat]; omega
  · rw [field]; omega
  · rw [field, BitVec.toNat_ofNat]; omega
  · have h := field 29 1
    have : (s.csr .ctx).getLsbD 29 = ((s.csr .ctx).extractLsb' 29 1).getLsbD 0 := by simp
    rw [this, BitVec.getLsbD, h]
    cases hb : s.cx.kmode <;> simp only [Bool.toNat_true, Bool.toNat_false] <;> rw [Nat.testBit_zero] <;> simp <;> omega
  · rw [field]; change _ = 0; omega
  · rw [field]; change _ = 0; omega

/-- Settles O46: the write is the CSR's, the answer what it held; ctx holds its fields at their places. -/
theorem csrInstructions : Obligations.CsrInstructions := by
  unfold Obligations.CsrInstructions
  exact ⟨csrWriteReturnsOld, fun s => ⟨rfl, rfl, rfl, rfl, rfl, rfl, rfl, rfl, rfl, rfl, ctxCsr_fields s⟩⟩

/-! Puts and gets. -/

theorem State.fifoPut_room (f : Fifo) (w : Word) (h : (s.cx.fifo f.code).items.length < 16) :
    s.fifoPut f w = .ok (s.setCx (s.cx.setFifo f.code { s.cx.fifo f.code with items := (s.cx.fifo f.code).items ++ [w] })) := if_pos h
theorem State.fifoPut_full (f : Fifo) (w : Word) (h : 16 ≤ (s.cx.fifo f.code).items.length) : s.fifoPut f w = .error .stall := if_neg (Nat.not_lt.2 h)

theorem State.fifoGet_takes (e : Eng) (f : Fifo) (wr : Ctx → Word → Ctx) {w : Word} {rest : List Word} (h : (s.cx.fifo f.code).items = w :: rest) :
    s.fifoGet e f wr
      = .ok (s.setCx (wr ((s.cx.setEng e { s.cx.eng e with horizon := s.now }).setFifo f.code ⟨(s.cx.fifo f.code).headp + 1, rest⟩) w)) := by
  have ha : s.acquire s.cur.cell s.cur.ctx e = s.setCx (s.cx.setEng e { s.cx.eng e with horizon := s.now }) := rfl
  unfold State.fifoGet; dsimp only; rw [h]; dsimp only
  rw [ha, State.setCx_cx, State.setCx_setCx]
theorem State.fifoGet_empty (e : Eng) (f : Fifo) (wr : Ctx → Word → Ctx) (h : (s.cx.fifo f.code).items = []) : s.fifoGet e f wr = .error .stall := by
  unfold State.fifoGet; dsimp only; rw [h]

/-- A put runs as what its FIFO answers. -/
theorem puts_runs {i : Instr} {e : Eng} {f : Fifo} {w : Word} (h : puts s i e f w) : runs i s (s.finish e 1 (s.fifoPut f w)) := by
  cases h with
  | x f a g hg hs => exact congrArg _ (xRun_settled hg hs fun _ hr => hr)
  | a f b q hq hl hst => exact congrArg _ ((State.aRun_on s q 1 _ hq).trans (by simp [Ctx.groupsFly, hl, hst]))
  | m f c hc => exact congrArg _ (State.mRun_on s 1 _ hc)

theorem gets_runs {i : Instr} {e : Eng} {f : Fifo} {wr : Ctx → Word → Ctx} (h : gets s i e f wr) :
    runs i s (s.finish e 1 (s.fifoGet e f wr)) ∧ ∀ x w, (wr x w).loops = x.loops ∧ (wr x w).eng e = x.eng e := by
  cases h with
  | x d f g hg hs => exact ⟨congrArg _ (xRun_settled hg hs fun _ hr => hr), by simp⟩
  | a d f q hq => exact ⟨congrArg _ (State.aRun_on s q 1 _ hq), by simp⟩
  | m d f hc => exact ⟨congrArg _ (State.mRun_on s 1 _ hc), by simp⟩

theorem fifoPutAppends : FifoPutAppends := by
  refine ⟨fun s f b q hq hf => congrArg _ ((State.aRun_on s q 1 _ hq).trans ?_), fun s i e f w h => ⟨fun hr hn => ?_, fun hr => ?_⟩⟩
  · rw [if_pos (by simpa [Ctx.groupsFly] using hf)]; rfl
  · refine (puts_runs h).trans (congrArg _ ?_)
    rw [State.fifoPut_room f w hr, State.finish_ok]
    exact retire_goes 1 hn rfl (by simp)
  · exact (puts_runs h).trans (by rw [State.fifoPut_full f w hr]; rfl)

theorem fifoGetTakesOldest : FifoGetTakesOldest := by
  intro s i e f wr h
  obtain ⟨hrun, hwr⟩ := gets_runs h
  refine ⟨fun w rest hi hn => hrun.trans (congrArg _ ?_), fun hi => hrun.trans (by rw [State.fifoGet_empty e f wr hi]; rfl)⟩
  rw [State.fifoGet_takes e f wr hi, State.finish_ok]
  exact retire_goes 1 hn ((hwr _ _).1.trans (by cases e <;> rfl)) (by rw [(hwr _ _).2]; simp)

/-- Settles O49: a put appends while there is room, a get takes the oldest value. -/
theorem tokenFifos : Obligations.TokenFifos := by
  unfold Obligations.TokenFifos
  exact ⟨fifoPutAppends, fifoGetTakesOldest⟩

end Sys2Proof.Machine
end

section
/-! Elements of vectors, and the element-wise instructions (R56, R79, R210 to R221). -/

namespace Sys2Proof.Machine
open Sys2Proof Sys2Proof.Claims

variable {s : State}

/-! Packed elements. -/

/-- Digit k of packed digits. -/
theorem packed_digit (w : Nat) : ∀ (l : List Nat) (k : Nat), l.foldr (fun x acc => x % 2 ^ w + 2 ^ w * acc) 0 / 2 ^ (w * k) % 2 ^ w = l.getD k 0 % 2 ^ w
  | [], k => by simp
  | x :: l, 0 => by simp
  | x :: l, k + 1 => by
    rw [Nat.mul_succ, Nat.add_comm, pow_add, ← Nat.div_div_eq_div_mul, List.foldr_cons, Nat.add_mul_div_left _ _ (by positivity),
      Nat.div_eq_of_lt (Nat.mod_lt _ (by positivity)), Nat.zero_add, packed_digit w l k, List.getD_cons_succ]

theorem packed_lt (w : Nat) : ∀ l : List Nat, l.foldr (fun x acc => x % 2 ^ w + 2 ^ w * acc) 0 < 2 ^ (w * l.length)
  | [] => by simp
  | x :: l => by
    have hx : x % 2 ^ w < 2 ^ w := Nat.mod_lt _ (by positivity)
    have := Nat.mul_le_mul_left (2 ^ w) (Nat.succ_le_of_lt (packed_lt w l))
    rw [List.length_cons, Nat.mul_succ, pow_add, Nat.mul_comm (2 ^ _), List.foldr_cons]
    rw [Nat.mul_succ] at this
    omega

theorem elem_packElems {w : Nat} {l : List Nat} (h : w * l.length ≤ 512) (k : Nat) : elem w (packElems w l) k = l.getD k 0 % 2 ^ w := by
  rw [elem, nbits, packElems, BitVec.toNat_ofNat, Nat.mod_eq_of_lt ((packed_lt w l).trans_le (Nat.pow_le_pow_right (by decide) h)), packed_digit]

/-- Element k of a vector given by a function of the number. -/
theorem elem_ofFn {w k : Nat} (f : Nat → Nat) (hk : k < 512 / w) : elem w (packElems w ((List.range (512 / w)).map f)) k = f k % 2 ^ w := by
  rw [elem_packElems (by simpa using Nat.mul_div_le 512 w), List.getD_eq_getElem _ _ (by simpa using hk)]
  simp

theorem elem_lt (w : Nat) (v : Vec) (k : Nat) : elem w v k < 2 ^ w := Nat.mod_lt _ (by positivity)
@[simp] theorem elem_mod (w : Nat) (v : Vec) (k : Nat) : elem w v k % 2 ^ w = elem w v k := Nat.mod_eq_of_lt (elem_lt w v k)

theorem governs_iff (p : BitVec 16) (w k : Nat) : governs p w k ↔ govern p w k = true := by
  unfold governs govern
  split_ifs with h64 h32
  · rw [h64, show 64 * k / 32 = 2 * k by omega]
  · rw [h32, show 32 * k / 32 = k by omega]
  · rfl

theorem elem_mapElems {w k : Nat} (g : BitVec 16) (old : Vec) (f : Nat → Nat) (hk : k < 512 / w) :
    (governs g w k → elem w (mapElems w g old f) k = f k % 2 ^ w) ∧ (¬governs g w k → elem w (mapElems w g old f) k = elem w old k) := by
  rw [governs_iff, mapElems, elem_ofFn _ hk]
  exact ⟨fun h => by rw [if_pos h], fun h => by rw [if_neg h, elem_mod]⟩

/-! Instructions that execute whatever their guard holds. -/

theorem xAlways_goes {rs : List RegG} {body : State → Act State} {y : Ctx} (u : State) (hs : settled s.cx rs) (hn : noLoop s.cx .x) (hu : u.cx = s.cx)
    (hb : body s = .ok (u.setCx y)) (hl : y.loops = s.cx.loops) (he : y.ex.pc = s.cx.ex.pc) : s.xAlways rs 1 body = u.setCx (Claims.past y .x 1) := by
  rw [State.xAlways_on _ _ _ _ (Ctx.pending_false _ _ hs), hb, State.finish_ok]
  exact retire_goes 1 (hu ▸ hn) (hu ▸ hl) (hu ▸ he)

/-- An instruction writes vd and may take a free value. -/
theorem writesV {i : Instr} {rs : List RegG} {d : RegV} {v : Vec} {body : State → Act State} (hi : exec i s = .next (s.xAlways rs 1 body))
    (hs : settled s.cx rs) (hn : noLoop s.cx .x) (hb : body s = .ok (s.setCx (s.cx.setV d v)) ∨ body s = .ok (s.setCx (s.cx.setV d v)).took) :
    ∃ t, runs i s t ∧ onlyCxFree s t ∧ t.cx = Claims.past (s.cx.setV d v) .x 1 := by
  rcases hb with hb | hb
  · exact ⟨_, hi.trans (congrArg _ (xAlways_goes s hs hn rfl hb (by simp) (by simp))), onlyCx_setCx s _, State.setCx_cx _ _⟩
  · exact ⟨_, hi.trans (congrArg _ (xAlways_goes s.took hs hn rfl hb (by simp) (by simp))), onlyCx_setCx s.took _, State.setCx_cx _ _⟩

/-- What a statement says of an instruction that maps the elements of vd. -/
def MapsElements (s : State) (i : Instr) (w : Nat) (d : RegV) (g : GuardP) (f : Nat → Nat) : Prop :=
  ∃ t v, runs i s t ∧ onlyCxFree s t ∧ t.cx = Claims.past (s.cx.setV d v) .x 1
    ∧ ∀ k < 512 / w, (governs (s.cx.guard g) w k → elem w v k = f k % 2 ^ w) ∧ (¬governs (s.cx.guard g) w k → elem w v k = elem w (s.cx.vr d) k)

theorem mapsElements {i : Instr} {w : Nat} {d : RegV} {g : GuardP} {rs : List RegG} {f F : Nat → Nat} {body : State → Act State} (hs : settled s.cx rs)
    (hn : noLoop s.cx .x) (hi : exec i s = .next (s.xAlways rs 1 body))
    (hb : body s = .ok (s.setCx (s.cx.setV d (mapElems w (s.cx.guard g) (s.cx.vr d) F)))
      ∨ body s = .ok (s.setCx (s.cx.setV d (mapElems w (s.cx.guard g) (s.cx.vr d) F))).took)
    (hF : ∀ k, F k % 2 ^ w = f k % 2 ^ w) : MapsElements s i w d g f := by
  obtain ⟨t, hr, ho, hx⟩ := writesV hi hs hn hb
  exact ⟨t, _, hr, ho, hx, fun k hk => hF k ▸ elem_mapElems _ _ F hk⟩

theorem vRun_maps {i : Instr} {ty : Ty} {d : RegV} {g : GuardP} {f : Nat → Nat} {F : Ctx → Vec → Nat → Nat} (hn : noLoop s.cx .x)
    (hi : exec i s = .next (s.vRun ty d g F)) (hF : ∀ k, F s.cx (Config.freeBits s.free) k % 2 ^ tyWidth ty = f k % 2 ^ tyWidth ty) :
    MapsElements s i (tyWidth ty) d g f :=
  mapsElements (rs := []) (fun _ h => nomatch h) hn hi (.inr rfl) hF

/-! The results of single elements. -/

variable {ty : Ty}

@[simp] theorem tyIsInt_eq (ty : Ty) : tyIsInt ty = ty.isInt := by cases ty <;> rfl
theorem isInt_of_isFp (h : ty.isFp = true) : ty.isInt = false ∧ ty ≠ .t30 := by cases ty <;> simp_all [Ty.isFp, Ty.isInt]
theorem tyWidth_pos (ty : Ty) : 0 < tyWidth ty := by cases ty <;> decide

/-- The integer of w bits is what they hold modulo 2^w. -/
theorem valueOf_emod (ty : Ty) (A : Nat) : ∃ n : Int, valueOf ty A = A + 2 ^ tyWidth ty * n := by
  unfold valueOf
  split_ifs
  · exact ⟨-1, by ring⟩
  · exact ⟨0, by ring⟩

theorem arith_int (h : ty.isInt = true) (fi ff ft) (free a b d : Vec) (k : Nat) : arith ty fi ff ft free a b d k
    = wrapTo ty (fi (valueOf ty (elem (tyWidth ty) a k)) (valueOf ty (elem (tyWidth ty) b k)) (valueOf ty (elem (tyWidth ty) d k))) := by
  simp only [arith, tyIsInt_eq, h, if_true]
  rfl
theorem arith_fp (h : ty.isFp = true) (fi ff ft) (free a b d : Vec) (k : Nat) : arith ty fi ff ft free a b d k
    = (fp ty).round .rne (ff (fval ty (elem (tyWidth ty) a k)) (fval ty (elem (tyWidth ty) b k)) (fval ty (elem (tyWidth ty) d k))) := by
  simp only [arith, tyIsInt_eq, isInt_of_isFp h, if_false, Bool.false_eq_true]
  rfl
theorem arith_t30 (fi ff ft) (free a b d : Vec) (k : Nat) :
    arith .t30 fi ff ft free a b d k = ft (elem 32 free k) (elem 32 a k) (elem 32 b k) (elem 32 d k) := rfl

theorem absElem_int (h : ty.isInt = true) (A : Nat) : absElem ty A = wrapTo ty |valueOf ty A| := by
  simp only [absElem, tyIsInt_eq, h, if_true, Int.natCast_natAbs]
  rfl
theorem absElem_fp (h : ty.isFp = true) (A : Nat) : absElem ty A = A % 2 ^ (tyWidth ty - 1) := by
  simp only [absElem, tyIsInt_eq, isInt_of_isFp h, if_false, Bool.false_eq_true]

theorem negElem_int (h : ty.isInt = true) (free A : Nat) : negElem ty free A = wrapTo ty (-valueOf ty A) := by
  obtain ⟨n, hn⟩ := valueOf_emod ty A
  simp only [negElem, tyIsInt_eq, h, if_true, lowBits, wrapTo]
  rw [hn, show (-((A : Int) + 2 ^ tyWidth ty * n)) = -A + 2 ^ tyWidth ty * -n by ring, Int.add_mul_emod_self_left]
theorem negElem_fp (h : ty.isFp = true) (free A : Nat) : negElem ty free A = A ^^^ 2 ^ (tyWidth ty - 1) := by
  simp only [negElem, tyIsInt_eq, isInt_of_isFp h, if_false, Bool.false_eq_true]

/-- A number of w bits as a signed integer. -/
theorem toInt_ofNat_eq {w A : Nat} (hw : 0 < w) (h : A < 2 ^ w) : (BitVec.ofNat w A).toInt = intOf true w A := by
  have h2 : 2 ^ w = 2 * 2 ^ (w - 1) := by rw [← pow_succ', Nat.sub_add_cancel hw]
  have hc : (2 * A < 2 ^ w) ↔ ¬2 ^ (w - 1) ≤ A := by omega
  rw [BitVec.toInt_eq_toNat_cond, BitVec.toNat_ofNat, Nat.mod_eq_of_lt h, intOf]
  by_cases hA : 2 ^ (w - 1) ≤ A
  · rw [if_neg fun h' => hc.1 h' hA, if_pos (by simpa using hA)]
    push_cast; rfl
  · rw [if_pos (hc.2 hA), if_neg (by simpa using hA)]

theorem lowBits_sra {w A : Nat} (hw : 0 < w) (h : A < 2 ^ w) (n : Nat) :
    lowBits w (intOf true w A / 2 ^ n) = ((BitVec.ofNat w A).sshiftRight n).toNat := by
  rw [BitVec.sshiftRight, BitVec.toNat_ofInt, toInt_ofNat_eq hw h, Int.shiftRight_eq_div_pow, lowBits]
  push_cast; rfl

/-- Settles O4: each instruction maps its element function over vd, and the element function is the statement's modulo 2^w. -/
theorem vectorElementResult : Obligations.VectorElementResult := by
  unfold Obligations.VectorElementResult
  intro s i w d g rs f h hs hn
  change MapsElements s i w d g f
  cases h with
  | addI _ _ _ _ _ h | subI _ _ _ _ _ h | mulI _ _ _ _ _ h | minI _ _ _ _ _ h | maxI _ _ _ _ _ h | maddI _ _ _ _ _ h | msubI _ _ _ _ _ h
  | nmaddI _ _ _ _ _ h => exact vRun_maps hn rfl fun k => by rw [arith_int h]
  | addF _ _ _ _ _ h | subF _ _ _ _ _ h | mulF _ _ _ _ _ h | minF _ _ _ _ _ h | maxF _ _ _ _ _ h | maddF _ _ _ _ _ h | msubF _ _ _ _ _ h
  | nmaddF _ _ _ _ _ h => exact vRun_maps hn rfl fun k => by rw [arith_fp h]
  | addT | subT | mulT => exact vRun_maps (ty := .t30) hn rfl fun k => by rw [arith_t30]
  | negT => exact vRun_maps (ty := .t30) hn rfl fun k => rfl
  | absI _ _ _ _ h => exact vRun_maps hn rfl fun k => by rw [absElem_int h]
  | absF _ _ _ _ h => exact vRun_maps hn rfl fun k => by rw [absElem_fp h]
  | negI _ _ _ _ h => exact vRun_maps hn rfl fun k => by rw [negElem_int h]
  | negF _ _ _ _ h => exact vRun_maps hn rfl fun k => by rw [negElem_fp h]
  | and | or | xor | perm | recip | rsqrt | exp2 | log2 | shr => exact vRun_maps hn rfl fun k => rfl
  | shl => exact vRun_maps hn rfl fun k => (Nat.mod_mod _ _).symm
  | sra => exact vRun_maps hn rfl fun k => congrArg (· % _) (lowBits_sra (tyWidth_pos _) (elem_lt _ _ _) _)
  | bcst | ins | cvt => exact mapsElements hs hn rfl (.inl rfl) fun k => rfl

end Sys2Proof.Machine
end

section
/-! Vector compares, extracts, quantisation, reductions, and the stream ports (R70, R91, R215 to R222). -/

namespace Sys2Proof.Machine
open Sys2Proof Sys2Proof.Claims

variable {s : State} {ty : Ty}

/-! Streams. -/

theorem onlyCx_of_goes (y : Ctx) (len : Nat) : onlyCx s (xGoes s y len) := onlyCx_setCx s _

theorem State.takeEntry_none {cell ctx : Nat} {st : StreamNo} (h : ((s.ctx cell ctx).stream st).entries = []) : s.takeEntry cell ctx st = none := by
  simp only [State.takeEntry, h]

/-- A context whose stream st goes on behind its entry at HEAD. -/
def afterHead (x : Ctx) (st : StreamNo) (rest : List Entry) : Ctx :=
  x.setStream st { x.stream st with entries := rest, head := (x.stream st).head + 1 }

theorem State.takeEntry_head {st : StreamNo} {e : Entry} {rest : List Entry} (h : (s.cx.stream st).entries = e :: rest)
    (hk : dKind (s.cx.stream st).desc ≠ 5) : s.takeEntry s.cur.cell s.cur.ctx st = some (e, s.setCx (afterHead s.cx st rest)) := by
  change ((s.ctx s.cur.cell s.cur.ctx).stream st).entries = _ at h
  simp only [State.takeEntry, h]
  exact if_neg hk

/-- The context after a vpop: the entry at HEAD is gone, vd is v, and g[a] the scale. -/
def popped (x : Ctx) (st : StreamNo) (rest : List Entry) (d : RegV) (v : Vec) (a : RegG) (sc : ScaleW) : Ctx :=
  let x := (afterHead x st rest).setV d v
  if a = 0 then x else x.setG a (scaleBits sc)

theorem popped_loops (x : Ctx) (st : StreamNo) (rest : List Entry) (d : RegV) (v : Vec) (a : RegG) (sc : ScaleW) :
    (popped x st rest d v a sc).loops = x.loops ∧ (popped x st rest d v a sc).ex = x.ex := by
  unfold popped afterHead; split <;> simp

theorem popped_eq (x : Ctx) (st : StreamNo) (rest : List Entry) (d : RegV) (v : Vec) (a : RegG) (sc : ScaleW) :
    popped x st rest d v a sc = (let x := (x.setStream st { x.stream st with entries := rest, head := (x.stream st).head + 1 }).setV d v
      if a = 0 then x else x.setG a (match sc with | .word w => w.setWidth 64 | _ => 0)) := by
  cases sc <;> rfl

/-- The elements of a mapped vector. -/
theorem hasElems_mapElems (g : BitVec 16) (old : Vec) (f : Nat → Nat) :
    hasElems (mapElems 32 g old f) 32 fun k => if g.getLsbD k then f k % 2 ^ 32 else elem 32 old k := by
  intro k hk
  obtain ⟨on, off⟩ := elem_mapElems g old f hk
  dsimp only
  split
  · next h => exact on h
  · next h => exact off h

theorem vectorPopTakesEntry : VectorPopTakesEntry := by
  intro s d st a g hs hl hk
  refine ⟨fun e rest he hp hb hn => ?_, fun he => congrArg Host.Outcome.next ?_⟩
  · have hv := hasElems_mapElems (s.cx.guard g) (s.cx.vr d) fun k => vlane e.data k
    have hy := fun v => popped_loops s.cx st rest d v a e.scale
    refine ⟨_, _, congrArg Host.Outcome.next (xAlways_goes s hs hn rfl (y := popped s.cx st rest d _ a e.scale) ?_ (hy _).1 (by rw [(hy _).2])),
      onlyCx_of_goes _ 1, (State.setCx_cx _ _).trans (congrArg (Claims.past · .x 1) (popped_eq _ _ _ _ _ _ _)),
      fun k hk => (hv k hk).trans (by dsimp only [vlane]; rw [elem_mod])⟩
    rw [if_neg (by simp [hl]), State.takeEntry_head he hk]
    dsimp only
    rw [if_neg (by simp [hp, hb]), State.setCx_cx, State.setCx_setCx]
    rfl
  · rw [State.xAlways_on _ _ _ _ (Ctx.pending_false _ _ hs), if_neg (by simp [hl]), State.takeEntry_none he]; rfl

theorem vectorPushAppendsEntry : VectorPushAppendsEntry := by
  intro s st a g
  have runs_on : ∀ body, s.xAlways [] 1 body = s.finish .x 1 (body s) := fun body => State.xAlways_on _ _ _ _ rfl
  refine ⟨fun hs hf hn => congrArg Host.Outcome.next ?_, fun hs hf => congrArg Host.Outcome.next ?_, fun hs => congrArg Host.Outcome.next ?_⟩
  · exact xAlways_goes s (fun _ h => nomatch h) hn rfl (by rw [if_neg (by simp [hs]), if_neg (by omega)]) (by simp) (by simp)
  · rw [runs_on, if_neg (by simp [hs]), if_pos hf]; rfl
  · rw [runs_on, if_pos (by simp [hs])]; rfl

/-- Settles O52: the entry at HEAD is taken, and one of va is appended at TAIL. -/
theorem streamPorts : Obligations.StreamPorts := by
  unfold Obligations.StreamPorts
  exact ⟨vectorPopTakesEntry, vectorPushAppendsEntry⟩

end Sys2Proof.Machine
end

section
/-! Vector compares, extracts, quantisation and reductions (R56, R91, R215, R217, R219, R220). -/

namespace Sys2Proof.Machine
open Sys2Proof Sys2Proof.Claims

variable {s : State} {ty : Ty}

/-! vcmp. -/

/-- Bit i of a number given by its bits. -/
theorem testBit_packed : ∀ (l : List Bool) (i : Nat), (l.foldr (fun (b : Bool) n => b.toNat + 2 * n) 0).testBit i = l.getD i false
  | [], i => by simp
  | b :: l, 0 => by cases b <;> simp [Nat.testBit_zero]
  | b :: l, i + 1 => by
    have h : (b.toNat + 2 * l.foldr (fun (b : Bool) n => b.toNat + 2 * n) 0) / 2 = l.foldr (fun (b : Bool) n => b.toNat + 2 * n) 0 := by
      have := Bool.toNat_le b
      omega
    rw [List.foldr_cons, Nat.testBit_succ, h, testBit_packed l i, List.getD_cons_succ]

theorem getLsbD_packed {w i : Nat} (f : Nat → Bool) (hi : i < w) :
    (BitVec.ofNat w (((List.range w).map f).foldr (fun (b : Bool) n => b.toNat + 2 * n) 0)).getLsbD i = f i := by
  rw [BitVec.getLsbD_ofNat, testBit_packed, List.getD_eq_getElem _ _ (by simpa using hi)]
  simp [hi]

/-- A condition of vcmp holds of the order of two elements. -/
theorem vcondHolds_iff (c : VCond) (ty : Ty) (A B : Nat) : vcondHolds c (elemCmp ty A B) = true ↔ vcondition c ty A B := by
  have hv : ∀ A, intOf (tySigned ty) (tyWidth ty) A = valueOf ty A := fun _ => rfl
  unfold elemCmp vcondition
  rw [tyIsInt_eq]
  cases hi : ty.isInt with
  | true =>
    simp only [hv, if_true]
    generalize valueOf ty A = a
    generalize valueOf ty B = b
    cases c <;> simp [vcondHolds, compare_lt_iff_lt, compare_gt_iff_gt, le_iff_lt_or_eq, @eq_comm _ b a]
  | false =>
    simp only [Bool.false_eq_true, if_false]
    cases c <;> simp [vcondHolds, fval, fp]

/-- The elements of a lane that holds several (R56). -/
theorem laneElems_iff {w : Nat} (hw : w = 8 ∨ w = 16 ∨ w = 32) {i : Nat} (hi : i < 16) (P : Nat → Prop) :
    (∀ j < 32 / w, P (i * (32 / w) + j)) ↔ ∀ k < 512 / w, w * k / 32 = i → P k := by
  have split : ∀ k, w * k / 32 = i → k - i * (32 / w) < 32 / w ∧ k = i * (32 / w) + (k - i * (32 / w)) := by
    rcases hw with rfl | rfl | rfl <;> omega
  have join : ∀ j < 32 / w, i * (32 / w) + j < 512 / w ∧ w * (i * (32 / w) + j) / 32 = i := by
    rcases hw with rfl | rfl | rfl <;> omega
  exact ⟨fun h k _ hc => (split k hc).2 ▸ h _ (split k hc).1, fun h j hj => h _ (join j hj).1 (join j hj).2⟩

/-- The bit of a lane is 1 when every element of the lane, or the element the lane is a half of, satisfies the condition (R56). -/
theorem cmpLane_iff (c : VCond) (ty : Ty) (a b : Vec) {i : Nat} (hi : i < 16) : cmpLane c ty a b i = true ↔
    ∀ k < 512 / tyWidth ty, tyWidth ty * k / 32 = (if tyWidth ty = 64 then 2 * (i / 2) else i) →
      vcondition c ty (elem (tyWidth ty) a k) (elem (tyWidth ty) b k) := by
  have hw : tyWidth ty = 64 ∨ tyWidth ty = 8 ∨ tyWidth ty = 16 ∨ tyWidth ty = 32 := by cases ty <;> simp [tyWidth, tyBits, Ty.code]
  unfold cmpLane
  dsimp only
  rcases hw with h | h
  · rw [if_pos h, if_pos h, vcondHolds_iff, h]
    refine ⟨fun hk k hlt hc => ?_, fun hk => hk _ (by omega) (by omega)⟩
    rwa [show k = i / 2 by omega]
  · have h64 : ¬tyWidth ty = 64 := by omega
    rw [if_neg h64, if_neg h64, ← laneElems_iff h hi fun k => vcondition c ty (elem (tyWidth ty) a k) (elem (tyWidth ty) b k)]
    simp only [List.all_eq_true, List.mem_range, vcondHolds_iff]

theorem vectorCompareResult : VectorCompareResult := by
  intro s c ty pd a b g hn
  refine ⟨_, _, congrArg Host.Outcome.next (xAlways_goes s (fun _ h => nomatch h) hn rfl rfl (by simp) (by simp)), onlyCx_of_goes _ 1,
    State.setCx_cx _ _, fun i hi => ?_⟩
  intro lane
  have hl : (if tyWidth ty = 64 then i / 2 * 2 else i) = lane := by simp only [lane, Nat.mul_comm]
  rw [getLsbD_packed _ hi]
  simp only [hl]
  exact ⟨fun h => by rw [if_pos h]; exact cmpLane_iff c ty _ _ hi, fun h => by rw [if_neg (by simp [h])]⟩

/-! vext and vqnt. -/

theorem tyWidth_le (ty : Ty) : tyWidth ty ≤ 64 := by cases ty <;> decide

theorem tySigned_iff (ty : Ty) : tySigned ty = true ↔ ty = .i8 ∨ ty = .i16 ∨ ty = .i32 ∨ ty = .i64 := by cases ty <;> simp [tySigned]

/-- The integer an element holds, as a word: sign-extended when its type is signed. -/
theorem ofInt_intOf (ty : Ty) {A : Nat} (h : A < 2 ^ tyWidth ty) : BitVec.ofInt 64 (intOf (tySigned ty) (tyWidth ty) A)
    = if ty = .i8 ∨ ty = .i16 ∨ ty = .i32 ∨ ty = .i64 then (BitVec.ofNat (tyWidth ty) A).signExtend 64 else (BitVec.ofNat (tyWidth ty) A).setWidth 64 := by
  by_cases hs : tySigned ty = true
  · rw [if_pos ((tySigned_iff ty).1 hs), hs, BitVec.signExtend, toInt_ofNat_eq (tyWidth_pos ty) h]
  · rw [if_neg fun h => hs ((tySigned_iff ty).2 h), Bool.eq_false_iff.2 hs]
    have hA : A < 2 ^ 64 := h.trans_le (Nat.pow_le_pow_right (by decide) (tyWidth_le ty))
    refine BitVec.eq_of_toNat_eq ?_
    rw [BitVec.toNat_setWidth, BitVec.toNat_ofNat, Nat.mod_eq_of_lt h]
    exact congrArg BitVec.toNat (BitVec.ofInt_natCast 64 A)

theorem vectorExtractResult : VectorExtractResult := by
  intro s ty d a b g h
  refine congrArg Host.Outcome.next ((xRun_goes h (fun _ hr => hr) rfl (by simp) (by simp)).trans ?_)
  exact congrArg (fun w => xGoes s (s.cx.setG d w) 1) (ofInt_intOf ty (elem_lt _ _ _))

theorem quantise_nan {x : Fl} (rnd : Rnd) (h : x.isNan = true) : quantise rnd x = 0 := by
  cases x with
  | nan => rfl
  | inf | fin => cases h

theorem vectorQuantiseResult : VectorQuantiseResult := by
  intro s rnd d a b g hn
  refine ⟨_, _, congrArg Host.Outcome.next (xAlways_goes s (fun _ h => nomatch h) hn rfl rfl (by simp) (by simp)), onlyCx_of_goes _ 1,
    State.setCx_cx _ _, fun k hk => ?_⟩
  intro x
  rw [show List.range 64 = List.range (512 / 8) from rfl, elem_ofFn _ hk]
  refine ⟨fun h16 hg => ?_, fun h => by rw [if_neg (by simpa using fun h16 => by simpa [Nat.not_le.2 h16] using h), elem_mod]⟩
  rw [if_pos (by simp [h16, hg])]
  change quantise rnd x % 256 = _ ∧ _
  exact ⟨rfl, fun h => congrArg (· % 256) (quantise_nan rnd h), congrArg (quantise rnd · % 256), congrArg (quantise rnd · % 256)⟩

/-! The tree of a reduction (R91). -/

section Tree
variable {α : Type} {f : α → α → α}

/-- A level of the tree keeps the fold of an associative operation. -/
theorem pairUp_foldr (hf : ∀ a b c, f (f a b) c = f a (f b c)) (e : α) : ∀ l : List α, (pairUp f l).foldr f e = l.foldr f e
  | [] => rfl
  | [_] => rfl
  | a :: b :: t => by simp only [pairUp, List.foldr_cons, hf, pairUp_foldr hf e t]

theorem pairUp_length : ∀ l : List α, (pairUp f l).length = (l.length + 1) / 2
  | [] => by simp [pairUp]
  | [_] => by simp [pairUp]
  | a :: b :: t => by simp only [pairUp, List.length_cons, pairUp_length t]; omega

/-- A level keeps what holds of every element and of what f makes of two. -/
theorem pairUp_all {P : α → Prop} (hf : ∀ a b, P a → P b → P (f a b)) : ∀ l : List α, (∀ a ∈ l, P a) → ∀ a ∈ pairUp f l, P a
  | [], h => h
  | [_], h => h
  | a :: b :: t, h => by
    simp only [List.mem_cons, forall_eq_or_imp] at h
    simp only [pairUp, List.mem_cons, forall_eq_or_imp]
    exact ⟨hf a b h.1 h.2.1, pairUp_all hf t h.2.2⟩

theorem treeReduce_eq (f : α → α → α) (l : List α) :
    treeReduce f l = pairUp f (pairUp f (pairUp f (pairUp f (pairUp f (pairUp f l))))) := rfl

/-- The top of a tree over at most 64 values is their fold from an identity of theirs. -/
theorem treeTop_eq {P : α → Prop} (ha : ∀ a b c, f (f a b) c = f a (f b c)) (hP : ∀ a b, P a → P b → P (f a b)) {d e : α} (he : ∀ a, P a → f a e = a)
    {l : List α} (h0 : 0 < l.length) (hl : l.length ≤ 64) (h : ∀ a ∈ l, P a) : treeTop d f l = l.foldr f e := by
  have hfold : (treeReduce f l).foldr f e = l.foldr f e := by simp only [treeReduce_eq, pairUp_foldr ha]
  have hlen : (treeReduce f l).length = 1 := by simp only [treeReduce_eq, pairUp_length]; omega
  have hall : ∀ a ∈ treeReduce f l, P a := by
    rw [treeReduce_eq]
    exact pairUp_all hP _ (pairUp_all hP _ (pairUp_all hP _ (pairUp_all hP _ (pairUp_all hP _ (pairUp_all hP _ h)))))
  obtain ⟨a, h1⟩ := List.length_eq_one_iff.1 hlen
  rw [h1] at hall hfold
  rw [treeTop, h1, ← hfold]
  exact (he a (hall a (by simp))).symm

/-- Masked elements that enter a fold as its identity do not count. -/
theorem foldr_masked {β : Type} {e : α} (he : ∀ l : List α, f e (l.foldr f e) = l.foldr f e) (p : β → Bool) (v : β → α) :
    ∀ l : List β, (l.map fun k => if p k then v k else e).foldr f e = ((l.filter p).map v).foldr f e
  | [] => rfl
  | k :: l => by
    cases hk : p k with
    | true => simp [hk, foldr_masked he p v l]
    | false => simpa [hk, foldr_masked he p v l] using he _

end Tree

/-- The elements a predicate enables. -/
theorem enabledOf_eq (p : BitVec 16) (w : Nat) : enabledOf p w = (List.range (512 / w)).filter fun k => govern p w k := by
  refine List.filter_congr fun k _ => ?_
  rw [Bool.eq_iff_iff, decide_eq_true_iff, governs_iff]

theorem tyElems (ty : Ty) : 0 < 512 / tyWidth ty ∧ 512 / tyWidth ty ≤ 64 := by cases ty <;> decide

/-- The tree over the elements of a vector, masked ones entering as the identity, folds the enabled ones. -/
theorem treeTop_enabled {f : Int → Int → Int} (P : Int → Prop) (ha : ∀ a b c, f (f a b) c = f a (f b c)) (hP : ∀ a b, P a → P b → P (f a b)) {e : Int}
    (he : ∀ a, P a → f a e = a) (hm : ∀ l : List Int, f e (l.foldr f e) = l.foldr f e) (h1 : P e) (p : BitVec 16) (ty : Ty) {v : Nat → Int}
    (hv : ∀ k, P (v k)) : treeTop 0 f ((List.range (512 / tyWidth ty)).map fun k => if govern p (tyWidth ty) k then v k else e)
      = ((enabledOf p (tyWidth ty)).map v).foldr f e := by
  obtain ⟨h0, h64⟩ := tyElems ty
  rw [treeTop_eq ha hP he (by simpa using h0) (by simpa using h64) (fun a h => ?_), enabledOf_eq]
  · exact foldr_masked hm _ _ _
  · obtain ⟨k, -, rfl⟩ := List.mem_map.1 h
    split
    · exact hv k
    · exact h1

theorem le_foldr_max (e : Int) (l : List Int) : e ≤ l.foldr max e := by
  induction l with
  | nil => exact le_refl e
  | cons a l ih => exact ih.trans (le_max_right _ _)
theorem foldr_min_le (e : Int) (l : List Int) : l.foldr min e ≤ e := by
  induction l with
  | nil => exact le_refl e
  | cons a l ih => exact (min_le_right _ _).trans ih

/-- The integer of an element lies in its type's range. -/
theorem valueOf_range (ty : Ty) {A : Nat} (h : A < 2 ^ tyWidth ty) : tyMin ty ≤ valueOf ty A ∧ valueOf ty A ≤ tyMax ty := by
  have h2 : (2 : Int) ^ tyWidth ty = 2 * 2 ^ (tyWidth ty - 1) := by rw [← pow_succ', Nat.sub_add_cancel (tyWidth_pos ty)]
  have hA : (A : Int) < 2 ^ tyWidth ty := by exact_mod_cast h
  have hc : 2 ^ (tyWidth ty - 1) ≤ A ↔ (2 : Int) ^ (tyWidth ty - 1) ≤ A := by norm_cast
  unfold tyMin tyMax valueOf
  cases tySigned ty with
  | true =>
    simp only [Bool.true_and, decide_eq_true_eq, hc, if_true]
    split_ifs <;> omega
  | false => simp; omega

theorem wrapTo_mod (ty : Ty) (v : Int) : wrapTo ty v % 2 ^ tyWidth ty = wrapTo ty v := by
  refine Nat.mod_eq_of_lt ?_
  have := Int.emod_lt_of_pos v (show (0 : Int) < 2 ^ tyWidth ty by positivity)
  have := Int.emod_nonneg v (show (2 : Int) ^ tyWidth ty ≠ 0 by positivity)
  unfold wrapTo
  zify
  rwa [Int.toNat_of_nonneg this]

/-- The tree of an integer reduction is the reduction of the enabled elements. -/
theorem reduce_int {op : RedOp} (hop : op ≠ .argmax) (h : ty.isInt = true) (f8 : Bool) (p : BitVec 16) (v free : Vec) :
    reduce op ty f8 p v free = wrapTo ty (redInt op ty p v) := by
  have hv := fun k => valueOf_range ty (elem_lt (tyWidth ty) v k)
  unfold reduce
  dsimp only
  rw [tyIsInt_eq, if_pos h]
  refine congrArg (lowBits (tyWidth ty)) ?_
  cases op with
  | argmax => exact absurd rfl hop
  | sum => exact (treeTop_enabled (fun _ => True) add_assoc (fun _ _ _ _ => trivial) (fun a _ => add_zero a) (fun l => zero_add _) trivial p ty
      fun _ => trivial).trans List.sum_eq_foldr.symm
  | max => exact (treeTop_enabled (tyMin ty ≤ ·) max_assoc (fun a b ha _ => ha.trans (le_max_left a b)) (fun a ha => max_eq_left ha)
      (fun l => max_eq_right (le_foldr_max _ l)) (le_refl _) p ty fun k => (hv k).1).trans List.foldl_eq_foldr.symm
  | min => exact (treeTop_enabled (· ≤ tyMax ty) min_assoc (fun a b ha _ => (min_le_left a b).trans ha) (fun a ha => min_eq_left ha)
      (fun l => min_eq_right (foldr_min_le _ l)) (le_refl _) p ty fun k => (hv k).2).trans List.foldl_eq_foldr.symm

/-! argmax. -/

section Argmax
variable {better : Nat → Nat → Bool} {n : Nat}

theorem foldl_best_fixed : ∀ t : List Nat, (∀ j ∈ t, better j n = false) → t.foldl (fun best k => if better k best then k else best) n = n
  | [], _ => rfl
  | j :: t, h => by
    rw [List.foldl_cons, if_neg (by simp [h j List.mem_cons_self])]
    exact foldl_best_fixed t fun i hi => h i (List.mem_cons_of_mem _ hi)

/-- In a rising list, an element that beats what stands before it and that nothing beats is the best. -/
theorem foldl_best : ∀ (t : List Nat) (b : Nat), t.Pairwise (· < ·) → n ∈ t → better n b = true → (∀ j ∈ t, j < n → better n j = true) →
    (∀ j ∈ t, better j n = false) → t.foldl (fun best k => if better k best then k else best) b = n
  | [], _, _, h, _, _, _ => nomatch h
  | j :: t, b, hs, hn, hb, hlt, hbest => by
    obtain ⟨hj, hs⟩ := List.pairwise_cons.1 hs
    have hbest' := fun i hi => hbest i (List.mem_cons_of_mem j hi)
    rw [List.foldl_cons]
    rcases List.mem_cons.1 hn with rfl | hn
    · rw [if_pos hb]
      exact foldl_best_fixed t hbest'
    · refine foldl_best t _ hs hn ?_ (fun i hi => hlt i (List.mem_cons_of_mem j hi)) hbest'
      split
      · exact hlt j List.mem_cons_self (hj n hn)
      · exact hb

theorem argmax_eq {l : List Nat} (hs : l.Pairwise (· < ·)) (hn : n ∈ l) (hlt : ∀ j ∈ l, j < n → better n j = true)
    (hbest : ∀ j ∈ l, better j n = false) : argmax better l = n := by
  cases l with
  | nil => cases hn
  | cons j t =>
    obtain ⟨hj, hs⟩ := List.pairwise_cons.1 hs
    have hbest' := fun i hi => hbest i (List.mem_cons_of_mem j hi)
    rcases List.mem_cons.1 hn with rfl | hn
    · exact foldl_best_fixed t hbest'
    · exact foldl_best t j hs hn (hlt j List.mem_cons_self (hj n hn)) (fun i hi => hlt i (List.mem_cons_of_mem j hi)) hbest'

theorem foldl_best_lt {m : Nat} : ∀ (t : List Nat) (b : Nat), b < m → (∀ j ∈ t, j < m) → t.foldl (fun best k => if better k best then k else best) b < m
  | [], _, hb, _ => hb
  | j :: t, b, hb, h => by
    rw [List.foldl_cons]
    refine foldl_best_lt t _ ?_ fun i hi => h i (List.mem_cons_of_mem j hi)
    split
    · exact h j List.mem_cons_self
    · exact hb

theorem argmax_lt {l : List Nat} (h : ∀ j ∈ l, j < 64) : argmax better l < 2 ^ 32 := by
  cases l with
  | nil => exact (by decide : 0xFFFFFFFF < 2 ^ 32)
  | cons j t => exact (foldl_best_lt t j (h j List.mem_cons_self) fun i hi => h i (List.mem_cons_of_mem j hi)).trans (by decide)

end Argmax

theorem enabledOf_sorted (p : BitVec 16) (w : Nat) : (enabledOf p w).Pairwise (· < ·) := List.pairwise_lt_range.filter _

theorem enabledOf_lt {p : BitVec 16} {k : Nat} (h : k ∈ enabledOf p (tyWidth ty)) : k < 64 :=
  (List.mem_range.1 (List.mem_of_mem_filter h)).trans_le (tyElems ty).2

theorem elemAbove_int (h : ty.isInt = true) (f8 : Bool) (A B : Nat) : elemAbove ty f8 A B = decide (valueOf ty B < valueOf ty A) := by
  unfold elemAbove
  rw [tyIsInt_eq, if_pos h]
  rfl

theorem elemAbove_fp (h : ty.isInt = false) (f8 : Bool) (A B : Nat) : elemAbove ty f8 A B
    = if ((fmtOf ty f8).decode B).isNan then false else if ((fmtOf ty f8).decode A).isNan then true
      else ((fmtOf ty f8).decode B).cmp ((fmtOf ty f8).decode A) == some .lt := by
  unfold elemAbove
  rw [tyIsInt_eq, if_neg (by simp [h])]

/-- The vector of vred: element 0 is the result. -/
def reduced (w : Nat) (old : Vec) (r : Nat) : Vec :=
  packElems w ((List.range (512 / w)).map fun k => (if k = 0 then some r else none).getD (elem w old k))

theorem elem_reduced (ty : Ty) (old : Vec) (r : Nat) : elem (tyWidth ty) (reduced (tyWidth ty) old r) 0 = r % 2 ^ tyWidth ty
    ∧ ∀ k < 512 / tyWidth ty, k ≠ 0 → elem (tyWidth ty) (reduced (tyWidth ty) old r) k = elem (tyWidth ty) old k := by
  refine ⟨elem_ofFn _ (tyElems ty).1, fun k hk h0 => ?_⟩
  rw [reduced, elem_ofFn _ hk, if_neg h0]
  exact elem_mod _ _ _

/-- The vector of an argmax: lane 0 is the index, and lane 1 its upper half when elements are 64 bits wide. -/
def argmaxed (w : Nat) (old : Vec) (i : Nat) : Vec :=
  packElems 32 ((List.range (512 / 32)).map fun k => (if k = 0 then some i else if k = 1 ∧ w = 64 then some 0 else none).getD (elem 32 old k))

theorem elem_argmaxed (w : Nat) (old : Vec) {i : Nat} (hi : i < 2 ^ 32) : elem 32 (argmaxed w old i) 0 = i ∧ (w = 64 → elem 32 (argmaxed w old i) 1 = 0)
    ∧ ∀ k < 16, 2 ≤ k ∨ (k = 1 ∧ w ≠ 64) → elem 32 (argmaxed w old i) k = elem 32 old k := by
  refine ⟨(elem_ofFn _ (by decide)).trans (Nat.mod_eq_of_lt hi), fun hw => ?_, fun k hk h => ?_⟩
  · rw [argmaxed, elem_ofFn _ (by decide), if_neg (by decide), if_pos ⟨rfl, hw⟩]
    rfl
  · rw [argmaxed, elem_ofFn _ hk, if_neg (by omega), if_neg (by omega)]
    exact elem_mod _ _ _

theorem vectorReduceResult : VectorReduceResult := by
  intro s ty d a g hn w A en
  refine ⟨fun op hop => ?_, ?_⟩
  · generalize hr : reduce op ty s.cx.fmode (s.cx.guard g) (s.cx.vr a) (Config.freeBits s.free) = r
    obtain ⟨h0, hk⟩ := elem_reduced ty (s.cx.vr d) r
    obtain ⟨t, hrun, ho, hx⟩ : ∃ t, runs (.xVred op ty d a g) s t ∧ onlyCxFree s t ∧ t.cx = Claims.past (s.cx.setV d (reduced w (s.cx.vr d) r)) .x 1 := by
      cases op with
      | argmax => exact absurd rfl hop
      | sum | max | min => exact writesV rfl (fun _ h => nomatch h) hn (.inr (by rw [← hr]; rfl))
    exact ⟨t, _, hrun, ho, hx, hk, fun hi => by rw [h0, ← hr, reduce_int hop hi, wrapTo_mod], fun _ => h0⟩
  · have hi : argmax (fun k j => elemAbove ty s.cx.fmode (A k) (A j)) en < 2 ^ 32 := argmax_lt fun j hj => enabledOf_lt hj
    obtain ⟨h0, h1, hk⟩ := elem_argmaxed w (s.cx.vr d) hi
    obtain ⟨t, hr, ho, hx⟩ : ∃ t, runs (.xVred .argmax ty d a g) s t ∧ onlyCxFree s t ∧ t.cx = Claims.past (s.cx.setV d (argmaxed w (s.cx.vr d)
        (argmax (fun k j => elemAbove ty s.cx.fmode (A k) (A j)) en))) .x 1 := by
      have := writesV (s := s) (i := .xVred .argmax ty d a g) rfl (fun _ h => nomatch h) hn (.inr rfl)
      rwa [← enabledOf_eq] at this
    refine ⟨t, _, hr, ho, hx, hk, h1, fun he => by rw [h0, he]; rfl, h0, fun hint n hn hmax hlt => ?_, fun hfp n hn hnan hfirst => ?_⟩
    · rw [h0]
      exact argmax_eq (enabledOf_sorted _ _) hn (fun j hj hjn => by rw [elemAbove_int hint, decide_eq_true_iff]; exact hlt j hj hjn)
        fun j hj => by rw [elemAbove_int hint, decide_eq_false_iff_not, not_lt]; exact hmax j hj
    · rw [h0]
      exact argmax_eq (enabledOf_sorted _ _) hn (fun j hj hjn => by rw [elemAbove_fp hfp, if_neg (by simp [hfirst j hj hjn]), if_pos hnan])
        fun j hj => by rw [elemAbove_fp hfp, if_pos hnan]

/-- Settles O51: bits, elements and registers of vcmp, vext, vqnt and vred. -/
theorem vectorOtherResults : Obligations.VectorOtherResults := by
  unfold Obligations.VectorOtherResults
  exact ⟨vectorCompareResult, vectorExtractResult, vectorQuantiseResult, vectorReduceResult⟩

end Sys2Proof.Machine
end

section
/-! Timelines and the issue of copies (R61, R114 to R117, R239, R240, R247). -/

namespace Sys2Proof.Machine
open Sys2Proof Sys2Proof.Claims

variable {s t u : State}

theorem timelineWaitAcquires : TimelineWaitAcquires := by
  intro s k a g h
  have hg := h
  obtain ⟨hon, hs, hn⟩ := h
  refine ⟨fun hd => congrArg Host.Outcome.next (xRun_goes hg (fun _ hr => hr) ?_ rfl rfl), fun hd => congrArg Host.Outcome.next ?_⟩
  · rw [if_neg (by rw [BitVec.ult_iff_lt, BitVec.lt_def]; omega)]; rfl
  · rw [xRun_settled hon hs fun _ hr => hr, if_pos (by rw [BitVec.ult_iff_lt, BitVec.lt_def]; omega)]; rfl

/-- The translation of the pages of a copy is an access. -/
theorem State.cpTranslate_access {need : Need} {pages : List (Nat × Word)} {m : SMap (Nat × Place)} (h : s.cpTranslate need pages = .ok (m, u)) :
    Access s.cur.cell s u := by
  refine foldl_keeps (fun r : Act (SMap (Nat × Place) × State) => ∀ m u, r = .ok (m, u) → Access s.cur.cell s u) _ pages _ ?_ (fun r c hr m u h => ?_) m u h
  · intro m u h
    cases h
    exact .refl s
  · cases r with
    | error e => cases h
    | ok p =>
      have ht := hr p.1 p.2 rfl
      have ha := p.2.xlateBy_access none p.2.cur.cell p.2.cx.kmode need c.2
      dsimp only at h
      cases hx : p.2.xlateBy none p.2.cur.cell p.2.cx.kmode need c.2 with
      | error w => rw [hx] at h; cases h
      | ok l =>
        rw [hx] at h ha
        cases h
        exact ht.trans_cur ha

/-- A copy that is issued: its pages are translated, its timeline's next ticket is taken, and it joins the copies. -/
theorem State.copyIssue_takes {e : Eng} {va : Word} {b : List Byte} {k : Word} (hl : s.load e 1 va 64 .weak = .ok (b, t))
    (h : s.copyIssue e va = .ok (k, u)) : ∃ v c, Access t.cur.cell t v ∧ k = v.cx.issueOf (cpTl b) + 1 ∧ u.cx = { v.cx with issue := mput v.cx.issue (cpTl b) k }
      ∧ u.copies = v.copies ++ [c] ∧ c.ticket = k ∧ c.tl = cpTl b ∧ c.todo = [(0, cpBytes b)] ∧ c.block = vecOf b := by
  unfold State.copyIssue at h
  rw [hl] at h
  dsimp only at h
  cases hi : cpInvalid (t.part t.pid) b with
  | true => rw [if_pos hi] at h; cases h
  | false =>
    rw [if_neg (by simp [hi])] at h
    by_cases hc : Config.maxCopies ≤ t.copiesOf t.cur.cell t.cur.ctx
    · rw [if_pos hc] at h; cases h
    rw [if_neg hc] at h
    cases hr : t.cpTranslate .read (if cpSslab b then [] else cpPages b false) with
    | error w => rw [hr] at h; cases h
    | ok p =>
      rw [hr] at h
      dsimp only at h
      cases hw : p.2.cpTranslate .write (if cpDslab b then [] else cpPages b true) with
      | error w => rw [hw] at h; cases h
      | ok q =>
        rw [hw] at h
        cases h
        exact ⟨q.2, _, (State.cpTranslate_access hr).trans_cur (State.cpTranslate_access hw), rfl, State.setCx_cx q.2 _, rfl, rfl, rfl, rfl, rfl⟩

theorem copyIssueTakesTicket : CopyIssueTakesTicket := by
  intro s
  refine ⟨fun d a g hg hs => ?_, fun d b q hq => ?_, fun e va b t hl => ⟨fun hi => ?_, fun hi hc => ?_, fun k u h => ?_⟩⟩
  · have hr := fun body => xRun_settled (len := 1) (body := body) hg hs fun _ hr => hr
    exact ⟨fun k u h => congrArg Host.Outcome.next ((hr _).trans (by rw [h]; rfl)), fun h => congrArg Host.Outcome.next ((hr _).trans (by rw [h]; rfl))⟩
  · have hr := fun body => State.aRun_on s q 1 body hq
    exact ⟨fun k u hb hl h => congrArg Host.Outcome.next ((hr _).trans (by rw [hb, hl, h]; rfl)),
      fun h => congrArg Host.Outcome.next ((hr _).trans (by rw [if_pos (by simpa using h)]; rfl))⟩
  · unfold State.copyIssue
    rw [hl]
    exact if_pos hi
  · unfold State.copyIssue
    rw [hl]
    exact (if_neg (by simp [hi])).trans (if_pos hc)
  · obtain ⟨v, c, hv, hk, hx, hcs, h1, h2, h3, h4⟩ := State.copyIssue_takes hl h
    refine ⟨hk.trans ?_, ?_, c, hcs.trans ?_, h1, h2, h3, h4⟩
    · rw [hv.of_cx (·.issueOf (cpTl b)) fun _ => rfl]
    · rw [hx, Ctx.issueOf, mget_mput_self]
    · have hc : v.copies = t.copies := show v.core.copies = t.core.copies from congrArg State.copies hv.core
      rw [hc]

/-- Settles O57: a wait compares DONE with its ticket; a copy that is issued takes the next ticket. -/
theorem timelinesAndCopies : Obligations.TimelinesAndCopies := by
  unfold Obligations.TimelinesAndCopies
  exact ⟨timelineWaitAcquires, copyIssueTakesTicket⟩

end Sys2Proof.Machine
end

section
/-! Loads (R107, R108, R130, R134, R231, R234) and the trap of an address that is not aligned (R74). -/

namespace Sys2Proof.Machine
open Sys2Proof Sys2Proof.Claims

variable {s t u : State}

/-! Reads write no byte of memory. -/

@[simp] theorem State.snoopRead_memByte (s : State) (line x : Nat) : (s.snoopRead line).memByte x = s.memByte x := by
  unfold State.snoopRead
  split
  · exact State.snooped_memByte _ _ _ _ x
  · rfl
@[simp] theorem State.snoopE_memByte (s : State) (line x : Nat) : (s.snoopE line).memByte x = s.memByte x := by
  unfold State.snoopE
  dsimp only
  split
  · exact State.snooped_memByte _ _ _ _ x
  · rfl
@[simp] theorem State.allocIn_memByte (s : State) (b p x : Nat) : (s.allocIn b p).memByte x = s.memByte x := by
  unfold State.allocIn; split <;> rfl
theorem State.allocIn_eq (s : State) (b p : Nat) : ∃ av, s.allocIn b p = { s with av := av } := by
  unfold State.allocIn
  split
  · exact ⟨_, rfl⟩
  · exact ⟨s.av, rfl⟩
@[simp] theorem State.homeRead_memByte (s : State) (pa n x : Nat) : (s.homeRead pa n).1.memByte x = s.memByte x := by simp [State.homeRead]
@[simp] theorem State.throughRdc_memByte (s : State) (cell : Nat) (l : Loc) (x : Nat) : (s.throughRdc cell l).memByte x = s.memByte x := by
  unfold State.throughRdc
  split
  · rfl
  · exact (State.allocIn_memByte _ _ _ x).trans (((s.snoopRead _).snoopE_memByte _ x).trans (s.snoopRead_memByte _ x))
theorem State.weakRead_memByte (s : State) (cell ctx : Nat) (e : Eng) (l : Loc) (n x : Nat) : (s.weakRead cell ctx e l n).1.memByte x = s.memByte x := by
  unfold State.weakRead
  extract_lets c y line off own onto
  have hc : (s.l1Choice (c.l1Hits s.cycle.toNat (y.eng e).horizon line)).1.memByte x = s.memByte x := by unfold State.l1Choice; split <;> rfl
  split
  · next h => rw [h] at hc; exact hc
  · next u h =>
    rw [h] at hc
    have hr : (((u.homeRead (64 * line) 64).1.throughRdc cell l).allocIn (homeBank l) c.tag).memByte x = s.memByte x := by simpa using hc
    dsimp only
    split
    · exact hr
    · exact hr

/-! What a weak load gives. -/

theorem State.l1Choice_cases (s : State) (hits : List L1Line) : (∃ h ∈ hits, (s.l1Choice hits).2 = some h)
    ∨ (s.l1Choice hits).2 = none ∧ ((s.l1Choice hits).1 = s ∨ (s.l1Choice hits).1 = s.took) := by
  unfold State.l1Choice
  split
  · exact .inr ⟨rfl, .inl rfl⟩
  · cases h : hits[s.pick (hits.length + 1)]? with
    | none => exact .inr ⟨rfl, .inr rfl⟩
    | some k => exact .inl ⟨k, List.mem_of_getElem? h, rfl⟩

/-- A weak load hits an L1 copy that may serve it, or reads its line at the home (R107, R134; log 5). -/
theorem State.weakRead_cases (s : State) (cell ctx : Nat) (e : Eng) (l : Loc) (n : Nat) :
    (∃ h ∈ (s.cell cell).l1Hits s.cycle.toNat ((s.ctx cell ctx).eng e).horizon (l.pa / 64),
        (s.weakRead cell ctx e l n).2 = (bslice (overAll (sbOf (s.ctx cell ctx).sb (l.pa / 64)) (vecBytes h.data)) (l.pa % 64) n, false))
      ∨ (s.weakRead cell ctx e l n).2 = (bslice (overAll (sbOf (s.ctx cell ctx).sb (l.pa / 64)) (bytesAt s (64 * (l.pa / 64)) 64)) (l.pa % 64) n,
          s.poisoned (l.pa / 64) && !sbCovers (sbOf (s.ctx cell ctx).sb (l.pa / 64)) (l.pa % 64) n) := by
  unfold State.weakRead
  extract_lets c y line off own onto
  rcases s.l1Choice_cases (c.l1Hits s.cycle.toNat (y.eng e).horizon line) with ⟨h, hh, hc⟩ | ⟨hc, hs⟩
  · refine .inl ⟨h, hh, ?_⟩
    split
    · next u k he => rw [he] at hc; cases hc; rfl
    · next u he => rw [he] at hc; cases hc
  · refine .inr ?_
    split
    · next u k he => rw [he] at hc; cases hc
    · next u he =>
      rw [he] at hs
      have hb : (u.homeRead (64 * line) 64).2.1 = bytesAt s (64 * line) 64 := by rcases hs with rfl | rfl <;> rfl
      have hp : (u.homeRead (64 * line) 64).2.2 = s.poisoned line := by
        rw [State.homeRead_poison u (64 * line) 64 (by omega) (by omega), Nat.mul_div_cancel_left line (by decide)]
        rcases hs with rfl | rfl <;> rfl
      dsimp only
      rw [hb, hp]
      cases s.poisoned line <;> rfl

theorem State.weakRead_length (s : State) (cell ctx : Nat) (e : Eng) (l : Loc) (n : Nat) : (s.weakRead cell ctx e l n).2.1.length = n := by
  rcases s.weakRead_cases cell ctx e l n with ⟨h, -, hb⟩ | hb <;> (rw [hb]; exact length_bslice _ _ _)

/-- A weak load gives as many bytes as it is to read. -/
theorem State.load_weak_length {e : Eng} {acc : Nat} {va : Word} {n : Nat} {b : List Byte} (h : s.load e acc va n .weak = .ok (b, u)) : b.length = n := by
  unfold State.load at h
  split at h
  · cases h
  · next l t _ =>
    have hl := t.weakRead_length t.cur.cell t.cur.ctx e l n
    dsimp only [State.loadAt] at h
    split at h
    · cases h
    · cases h
      exact hl

/-! The buffered stores that come before a strong load. -/

theorem sbNeeded_none {p : SbLine → Bool} : ∀ l : List SbLine, (∀ e ∈ l, p e = false) → sbNeeded p l [] = []
  | [], _ => rfl
  | e :: l, h => by
    rw [sbNeeded, h e List.mem_cons_self]
    exact sbNeeded_none l fun f hf => h f (List.mem_cons_of_mem e hf)

/-- No buffered store precedes a strong access of X. -/
theorem State.drainTo_x {l : Loc} (h : ∀ e ∈ s.cx.sb, e.line ≠ l.pa / 64 ∧ (e.ord = .weak ∨ e.bank ≠ homeBank l)) : s.drainTo .x l = s := by
  have hp : ∀ e ∈ (s.ctx s.cur.cell s.cur.ctx).sb.reverse, (e.line == l.pa / 64 || (e.ord != .weak && e.bank == homeBank l)) = false := fun e he => by
    obtain ⟨h1, h2⟩ := h e (List.mem_reverse.1 he)
    rcases h2 with h2 | h2 <;> simp [h1, h2]
  rw [State.drainTo, if_pos rfl, State.drainBank, State.drainFor, sbNeeded_none _ hp]
  rfl

/-! Loaded numbers. -/

theorem widen_loaded {n v : Nat} (hn : 0 < n) (h8 : n ≤ 8) (hv : v < 2 ^ (8 * n)) (sx : Bool) : widen n sx v = loaded n sx v := by
  cases sx with
  | false => rfl
  | true =>
    have hle : 2 ^ (8 * n) ≤ 2 ^ 64 := Nat.pow_le_pow_right (by decide) (by omega)
    rw [loaded, if_pos rfl, BitVec.signExtend, toInt_ofNat_eq (by omega) hv, widen, intOf]
    split_ifs with h
    · refine BitVec.eq_of_toNat_eq ?_
      have hz : ((2 ^ 64 + v - 2 ^ (8 * n) : Nat) : Int) = (v : Int) - 2 ^ (8 * n) + 2 ^ 64 := by
        rw [Nat.cast_sub (hle.trans (Nat.le_add_right _ _))]; push_cast; ring
      rw [← BitVec.ofInt_natCast, hz, BitVec.toNat_ofInt, BitVec.toNat_ofInt]
      push_cast
      rw [Int.add_emod_right]
    · exact (BitVec.ofInt_natCast 64 v).symm

theorem leNat_lt_pow {b : List Byte} {n : Nat} (h : b.length = n) : leNat b < 2 ^ (8 * n) := by
  rw [← h, pow_mul]; exact leNat_lt b

/-! ld. -/

/-- X's instruction of loads runs. -/
theorem xLd_runs {d a : RegG} (hs : settled s.cx [d, a]) (sz : BitVec 2) (sx : Bool) (ord : Sys2Proof.Ord) (sc : Scope) (imm : BitVec 7) :
    runs (.xLd d a sz sx ord sc imm) s (s.finish .x 1 ((s.load .x 1 (ldAddr s a sz imm) (2 ^ sz.toNat) ord).map
      fun r => r.2.setCx (r.2.cx.setG d (widen (2 ^ sz.toNat) sx (leNat r.1))))) :=
  congrArg Host.Outcome.next (State.xAlways_on _ _ _ _ (Ctx.pending_false _ _ hs))

theorem Access.noLoop {n : Nat} (h : Access n s t) (hn : noLoop s.cx .x) : noLoop t.cx .x := fun k hk => by
  have hp : t.cx.ex.pc = s.cx.ex.pc := h.of_cx (·.ex.pc) fun _ => rfl
  have hl : t.cx.loopOf .x k = s.cx.loopOf .x k := h.of_cx (·.loopOf .x k) fun _ => rfl
  change (t.cx.loopOf .x k).count = 0 ∨ (t.cx.loopOf .x k).last ≠ t.cx.ex.pc
  rw [hl, hp]
  exact hn k hk

/-- A general register after a write to it: g0 reads 0 (R55). -/
theorem Ctx.setG_gr_own (x : Ctx) (d : RegG) (w : Word) : (x.setG d w).gr d = if d = 0 then 0 else w := by
  rw [Ctx.setG_gr]
  split_ifs with h1 h2 h2
  · exact absurd h2 h1.2
  · rfl
  · rw [h2]; rfl
  · exact absurd ⟨rfl, h2⟩ h1

/-- A load writes its destination, and X goes past it. -/
theorem tookValue_of {n : Nat} (h : Access n s t) (hn : noLoop s.cx .x) (d : RegG) (v : Word) :
    tookValue s ((t.setCx (t.cx.setG d v)).retire .x 1) d v ∧ (∀ x, ((t.setCx (t.cx.setG d v)).retire .x 1).memByte x = t.memByte x)
      ∧ ((t.setCx (t.cx.setG d v)).retire .x 1).cx.ex.horizon = t.cx.ex.horizon := by
  rw [retire_goes 1 (h.noLoop hn) (by simp) (by simp)]
  have hg : ∀ r, (Claims.past (t.cx.setG d v) .x 1).gr r = (t.cx.setG d v).gr r := fun _ => rfl
  rw [tookValue, State.setCx_cx]
  refine ⟨⟨?_, fun r hr => ?_, ?_⟩, fun x => rfl, by simp [Claims.past, Ctx.eng, Ctx.setEng]⟩
  · rw [hg, Ctx.setG_gr_own]
  · rw [hg, Ctx.setG_gr, if_neg fun e => hr e.1, h.gr]
  · have hp : t.cx.ex.pc = s.cx.ex.pc := h.of_cx (·.ex.pc) fun _ => rfl
    rw [← hp]
    simp [Claims.past, Ctx.eng, Ctx.setEng]

theorem State.load_homed {va : Word} {n : Nat} {l : Loc} (h : homed s .read va n l t) (e : Eng) (acc : Nat) (ord : Sys2Proof.Ord) :
    s.load e acc va n ord = (t.allocIn (homeBank l) t.pid).loadAt e acc va l n ord := by
  rw [State.load, State.check_homed h]

/-- A strong load behind no buffered store reads its home. -/
theorem State.loadAt_strong {ord : Sys2Proof.Ord} (ho : ord = .rlx ∨ ord = .acq) (va : Word) {l : Loc} {n : Nat} (hn : 0 < n) (ha : l.pa % 64 + n ≤ 64)
    (hf : ∀ e ∈ s.cx.sb, e.line ≠ l.pa / 64 ∧ (e.ord = .weak ∨ e.bank ≠ homeBank l)) : s.loadAt .x 1 va l n ord
      = if s.poisoned (l.pa / 64) then (s.homeRead l.pa n).1.trap ⟨0x13, 1, 0xFF, va, 0, 0⟩
        else .ok (bytesAt s l.pa n, if ordAcq ord then (s.homeRead l.pa n).1.acq .x else (s.homeRead l.pa n).1) := by
  rw [← s.homeRead_poison l.pa n hn ha]
  rcases ho with rfl | rfl <;> (rw [State.loadAt, State.drainTo_x hf]; rfl)

theorem State.loadAt_weak (va : Word) (l : Loc) (n : Nat) : s.loadAt .x 1 va l n .weak
    = if (s.weakRead s.cur.cell s.cur.ctx .x l n).2.2 then (s.weakRead s.cur.cell s.cur.ctx .x l n).1.trap ⟨0x13, 1, 0xFF, va, 0, 0⟩
      else .ok ((s.weakRead s.cur.cell s.cur.ctx .x l n).2.1, (s.weakRead s.cur.cell s.cur.ctx .x l n).1) := rfl

/-- n bytes at a multiple of n stand in one line. -/
theorem size_in_line (sz : BitVec 2) {pa : Nat} (h : pa % 2 ^ sz.toNat = 0) : 0 < 2 ^ sz.toNat ∧ 2 ^ sz.toNat ≤ 8 ∧ pa % 64 + 2 ^ sz.toNat ≤ 64 := by
  have hz : sz.toNat = 0 ∨ sz.toNat = 1 ∨ sz.toNat = 2 ∨ sz.toNat = 3 := by have := sz.isLt; omega
  rcases hz with hz | hz | hz | hz <;> rw [hz] at h ⊢ <;> omega

@[simp] theorem length_bytesAt (s : State) (pa n : Nat) : (bytesAt s pa n).length = n := by simp [bytesAt]

/-- A load that gives bytes in state u, an access away from t, writes them extended into its destination. -/
theorem load_took {i : Instr} {n m : Nat} {sx : Bool} {d : RegG} {bs : List Byte} {r : Act (List Byte × State)}
    (hrun : runs i s (s.finish .x 1 (r.map fun r => r.2.setCx (r.2.cx.setG d (widen n sx (leNat r.1)))))) (hr : r = .ok (bs, u)) (hu : Access m t u)
    (hn : noLoop t.cx .x) (h0 : 0 < n) (h8 : n ≤ 8) (hl : bs.length = n) :
    ∃ v, runs i s v ∧ tookValue t v d (loaded n sx (leNat bs)) ∧ (∀ x, v.memByte x = u.memByte x) ∧ v.cx.ex.horizon = u.cx.ex.horizon := by
  rw [hr] at hrun
  rw [← widen_loaded h0 h8 (leNat_lt_pow hl)]
  exact ⟨_, hrun, tookValue_of hu hn d _⟩

theorem State.acq_horizon (s : State) : (s.acq .x).cx.ex.horizon = s.now := by
  have h : (s.acq .x).cx = s.cx.setEng .x { s.cx.eng .x with horizon := s.now } := State.setCx_cx s _
  rw [h]; rfl

theorem State.countLate_onlyMemory (s : State) (p : Nat) : OnlyMemory s (s.countLate p) := by
  unfold State.countLate
  split
  · exact .refl s
  · next g _ =>
    have hx := s.xlateDev_onlyMemory p false .readWrite (g.hdr + 48)
    split
    · next z h => rw [h] at hx; exact hx
    · next l z h => rw [h] at hx; exact hx.trans (State.putBytes_onlyMemory _ _ _)

/-- A load that meets a pending staging slot waits there (R124). -/
theorem State.noteLate_waits (s : State) (pa : Nat) : (s.noteLate .x false pa).cx.ex.pc = s.cx.ex.pc ∧ (s.noteLate .x false pa).cx.ex.waited = some pa
    ∧ ∀ r, (s.noteLate .x false pa).cx.gr r = s.cx.gr r := by
  unfold State.noteLate
  dsimp only
  split
  · next h => exact ⟨rfl, h, fun _ => rfl⟩
  · rw [(State.countLate_onlyMemory _ _).cx, Bool.false_and, if_neg (by decide), State.setCx_cx]
    exact ⟨rfl, rfl, fun _ => rfl⟩

theorem loadGivesBytes : LoadGivesBytes := by
  intro s t d a sz sx ord sc imm l hs i va n line own hits first
  have hrun := xLd_runs hs sz sx ord sc imm
  refine ⟨fun hh hn => ?_, fun src step hal hx hst => ?_⟩
  · obtain ⟨hn0, hn8, hin⟩ := size_in_line sz hh.2.2.1
    obtain ⟨av, hav⟩ := t.allocIn_eq (homeBank l) t.pid
    rw [State.load_homed hh, hav] at hrun
    let w : State := { t with av := av }
    have hw : Access t.cur.cell t w := OnlyMemory.access (.silent rfl rfl)
    have hhome := hw.trans (w.homeRead_access l.pa n)
    have hweak := hw.trans (w.weakRead_access t.cur.cell t.cur.ctx .x l n)
    have hmem := w.weakRead_memByte t.cur.cell t.cur.ctx .x l n
    refine ⟨fun ho hf hp => ?_, fun ho hf hp => ?_, fun ho hc => ?_, fun ho hp hc h0 => ?_⟩
    · have hr := (State.loadAt_strong (s := w) ho va hn0 hin hf).trans (if_neg (Bool.eq_false_iff.1 hp))
      rcases ho with rfl | rfl
      · obtain ⟨u, h1, h2, h3, -⟩ := load_took hrun hr hhome hn hn0 hn8 (length_bytesAt _ _ _)
        exact ⟨u, h1, h2, fun x => (h3 x).trans (State.homeRead_memByte _ _ _ x), nofun⟩
      · obtain ⟨u, h1, h2, h3, h4⟩ := load_took hrun hr (hhome.trans_cur (State.acq_access _ .x)) hn hn0 hn8 (length_bytesAt _ _ _)
        exact ⟨u, h1, h2, fun x => (h3 x).trans (State.homeRead_memByte _ _ _ x), fun _ => h4.trans ((State.acq_horizon _).trans hhome.now)⟩
    · have hr := (State.loadAt_strong (s := w) ho va hn0 hin hf).trans (if_pos hp)
      rw [hr] at hrun
      exact ⟨_, hrun, State.homeRead_memByte _ _ _⟩
    · subst ho
      rcases w.weakRead_cases t.cur.cell t.cur.ctx .x l n with ⟨h, hh, hb⟩ | hb
      · have hr := (w.loadAt_weak va l n).trans (if_neg (Bool.eq_false_iff.1 (congrArg Prod.snd hb)))
        obtain ⟨u, h1, h2, h3, -⟩ := load_took hrun hr hweak hn hn0 hn8 (by rw [hb]; exact length_bslice _ _ _)
        exact ⟨u, _, h1, .inr ⟨h, hh, rfl⟩, by rw [hb] at h2; exact h2, fun x => (h3 x).trans (hmem x)⟩
      · have hf : (t.poisoned line && !sbCovers own (l.pa % 64) n) = false := by rcases hc with hc | hc <;> simp [hc]
        have hr := (w.loadAt_weak va l n).trans (if_neg (Bool.eq_false_iff.1 ((congrArg Prod.snd hb).trans hf)))
        obtain ⟨u, h1, h2, h3, -⟩ := load_took hrun hr hweak hn hn0 hn8 (by rw [hb]; exact length_bslice _ _ _)
        exact ⟨u, _, h1, .inl rfl, by rw [hb] at h2; exact h2, fun x => (h3 x).trans (hmem x)⟩
    · subst ho
      rcases w.weakRead_cases t.cur.cell t.cur.ctx .x l n with ⟨h, hh, -⟩ | hb
      · exact absurd (h0 ▸ hh : h ∈ []) List.not_mem_nil
      · have hf : (t.poisoned line && !sbCovers own (l.pa % 64) n) = true := by simp [hp, hc]
        have hr := (w.loadAt_weak va l n).trans (if_pos ((congrArg Prod.snd hb).trans hf))
        rw [hr] at hrun
        exact ⟨_, hrun, hmem⟩
  · have hc : s.check .x 1 .read va n = .error (.late false l.pa t) := by
      unfold State.check
      rw [if_neg (by omega), hx]
      dsimp only
      rw [if_pos (by rfl), hst]
    rw [State.load, hc] at hrun
    exact ⟨_, hrun, State.noteLate_waits _ _⟩

theorem State.store_misaligned {va : Word} {bs : List Byte} (h : va.toNat % bs.length ≠ 0) (e : Eng) (ord : Sys2Proof.Ord) :
    s.store e va bs ord = s.trap (whyOf 5 2 va) := by rw [State.store, State.check, if_pos h]; rfl

theorem misalignedAccessTraps : MisalignedAccessTraps := by
  intro s d a sz sx ord sc imm hs h
  have hld := xLd_runs hs sz sx ord sc imm
  rw [State.load_misaligned h] at hld
  have hst := State.store_misaligned (s := s) (va := ldAddr s a sz imm) (bs := leBytes (2 ^ sz.toNat) (s.cx.gr d).toNat)
    (by rw [length_leBytes]; exact h) .x ord
  exact ⟨hld, congrArg Host.Outcome.next
    ((State.xAlways_on _ _ _ _ (Ctx.pending_false _ _ hs)).trans (congrArg (s.finish .x 1) hst))⟩

/-- Settles O55: a strong load reads its home, a weak one the L1 or the home with its context's own bytes over it. -/
theorem loadsAndAlignment : Obligations.LoadsAndAlignment := by
  unfold Obligations.LoadsAndAlignment
  exact ⟨loadGivesBytes, misalignedAccessTraps⟩

end Sys2Proof.Machine
end

section
/-! The Trellis automaton and its masks (R65, R225 to R229). -/

namespace Sys2Proof.Machine
open Sys2Proof Sys2Proof.Claims

variable {s t u : State} {x : Ctx} {i v : Nat}

/-! The registers (R65). -/

theorem gstWord_toNat (n d : Nat) : (gstWord n d).toNat = n % 256 + d % 16 * 256 + 4096 := by
  rw [gstWord, BitVec.toNat_ofNat]; omega

theorem gstWord_fields (x : Ctx) (n d : Nat) (h : x.gst = gstWord n d) : x.gValid = true ∧ x.gState = n % 256 ∧ x.gDepth = d % 16 := by
  have ht := gstWord_toNat n d
  refine ⟨?_, ?_, ?_⟩
  · rw [Ctx.gValid, h, BitVec.getLsbD, ht, Nat.testBit_eq_decide_div_mod_eq, decide_eq_true_iff]; omega
  · rw [Ctx.gState, h, ht, nbits]; omega
  · rw [Ctx.gDepth, h, ht, nbits]; omega

theorem gDepth_lt (x : Ctx) : x.gDepth < 16 := Nat.mod_lt _ (by decide)

/-- The stack with one entry set (R65). -/
theorem gstkSet_entry (w : Word) {i j : Nat} (hi : i < 8) (hj : j < 8) (v : Nat) :
    nbits (8 * j) 8 (gstkSet w i v).toNat = if j = i then v % 256 else nbits (8 * j) 8 w.toNat := by
  have hw := w.isLt
  rw [gstkSet, BitVec.toNat_ofNat]
  generalize w.toNat = n at hw ⊢
  interval_cases i <;> interval_cases j <;> simp [nbits] <;> omega

/-- The automaton after a move to state n at depth d. -/
theorem trellisAt_move {y : Ctx} {n d : Nat} (hn : n < 256) (hd : d < 16) (h : y.gst = gstWord n d) (hs : ∀ j < 8, y.gStack j = if j = i then v else x.gStack j)
    (h1 : y.gtt = x.gtt) (h2 : y.gmt = x.gmt) (h3 : y.gdim = x.gdim) : trellisAt x y n d i v := by
  obtain ⟨hv, hst, hdp⟩ := gstWord_fields y n d h
  exact ⟨hv, hst.trans (Nat.mod_eq_of_lt hn), hdp.trans (Nat.mod_eq_of_lt hd), hs, h1, h2, h3⟩

/-- A move that keeps the stack. -/
theorem trellisAt_still {n d : Nat} (hn : n < 256) (hd : d < 16) : trellisAt x { x with gst := gstWord n d } n d 8 0 := by
  refine trellisAt_move hn hd rfl (fun j hj => ?_) rfl rfl rfl
  simp only [Nat.ne_of_lt hj, if_false, Ctx.gStack]

/-! gload and gstore. -/

theorem blockOk_depth {b : List Byte} (h : blockOk b = true) : bnat b 23 1 ≤ 8 := by
  simp only [blockOk, Bool.and_eq_true, decide_eq_true_eq] at h
  exact h.1.1.2

theorem gdim_fields {v n m : Nat} (hv : v < 2 ^ 24) (hn : n < 256) (hm : m < 256) :
    nbits 0 24 (BitVec.ofNat 64 (v + n * 2 ^ 32 + m * 2 ^ 40)).toNat = v ∧ nbits 32 8 (BitVec.ofNat 64 (v + n * 2 ^ 32 + m * 2 ^ 40)).toNat = n
      ∧ nbits 40 8 (BitVec.ofNat 64 (v + n * 2 ^ 32 + m * 2 ^ 40)).toNat = m := by
  rw [BitVec.toNat_ofNat, Nat.mod_eq_of_lt (by omega)]
  unfold nbits
  omega

/-- The registers that a valid block loads (R225, R226). -/
def loadedBlock (x : Ctx) (b : List Byte) : Ctx :=
  { x with
    gst := gstWord (bnat b 22 1) (bnat b 23 1), gstk := BitVec.ofNat 64 (bnat b 24 8)
    gtt := BitVec.ofNat 64 (bnat b 0 8), gmt := BitVec.ofNat 64 (bnat b 8 8)
    gdim := BitVec.ofNat 64 (bnat b 16 3 + bnat b 20 1 * 2 ^ 32 + bnat b 21 1 * 2 ^ 40) }

theorem trellisBlockMoves : TrellisBlockMoves := by
  intro s a g
  refine ⟨fun d b u hg hs hl => ?_, fun u hg hs hst => congrArg Host.Outcome.next ?_⟩
  · have hrun : runs (.xGload d a g) s (s.finish .x 1 ((s.load .x 1 (s.cx.gr a) 64 .weak).map fun r =>
        r.2.setCx ((if blockOk r.1 then loadedBlock r.2.cx r.1 else { r.2.cx with gst := r.2.cx.gst &&& ~~~4096#64 }).setG d (if blockOk r.1 then 0 else 1)))) :=
      congrArg Host.Outcome.next (xRun_settled hg hs fun _ hr => hr)
    rw [hl] at hrun
    refine ⟨_, hrun, onlyCx_setCx u _, fun hb => ?_, fun hb => ?_⟩
    · dsimp only
      rw [State.setCx_cx, if_pos hb, if_pos hb]
      obtain ⟨h1, h2, h3⟩ := gstWord_fields ((loadedBlock u.cx b).setG d 0) (bnat b 22 1) (bnat b 23 1) (by simp [loadedBlock])
      obtain ⟨h4, h5, h6⟩ := gdim_fields (v := bnat b 16 3) (n := bnat b 20 1) (m := bnat b 21 1) (bnat_lt _ _ _) (bnat_lt _ _ _) (bnat_lt _ _ _)
      have hd := blockOk_depth hb
      refine ⟨?_, h1, h2.trans (Nat.mod_eq_of_lt (bnat_lt _ _ _)), h3.trans (Nat.mod_eq_of_lt (by omega)), by simp [loadedBlock], by simp [loadedBlock],
        by simp [loadedBlock], ?_, ?_, ?_⟩
      · rw [Ctx.setG_gr_own, ite_self]
      · rw [Ctx.gVocab, Ctx.setG_gdim]; exact h4
      · rw [Ctx.gNst, Ctx.setG_gdim]; exact h5
      · rw [Ctx.gNsym, Ctx.setG_gdim]; exact h6
    · dsimp only
      rw [State.setCx_cx, if_neg (Bool.eq_false_iff.1 hb), if_neg (Bool.eq_false_iff.1 hb)]
      refine ⟨?_, ?_, by simp, by simp, by simp, by simp, by simp⟩
      · rw [Ctx.setG_gr_own]
      · simp [Ctx.gValid]
  · rw [xRun_settled hg hs fun _ hr => hr]
    exact congrArg (s.finish .x 1) hst

/-! gstep: what each entry does (R227). -/

section Move
variable {e : Nat}

/-- What the model checks of an entry of 32 bits. -/
theorem trBad_iff (he : e < 2 ^ 32) : (nbits 19 13 e ≠ 0 ∨ x.gNst < nbits 0 8 e ∨ ((nbits 8 2 e = 1 ∨ nbits 8 2 e = 2) ∧ x.gNsym ≤ nbits 10 8 e)) ↔ trBad x e := by
  have h1 : nbits 19 13 e = e / 2 ^ 19 := by unfold nbits; omega
  have h2 : nbits 0 8 e = trNext e := by unfold nbits trNext; omega
  rw [h1, h2]
  rfl

theorem gMove_bad (he : e < 2 ^ 32) (h : trBad x e) : gMove x e = .ok (3, x) := if_pos ((trBad_iff he).2 h)

/-- The status of a move: 2 when it ends in a final state with an empty stack. -/
def moveStatus (e : Nat) (y : Ctx) : Nat := if trFinal e = true ∧ y.gDepth = 0 then 2 else 0

/-- An entry that names a move, by its action. -/
theorem gMove_good (he : e < 2 ^ 32) (h : ¬trBad x e) : gMove x e = match trAct e with
    | 0 => .ok (moveStatus e { x with gst := gstWord (trNext e) x.gDepth }, { x with gst := gstWord (trNext e) x.gDepth })
    | 1 =>
      if x.gDepth = 8 then .error 0x25
      else .ok (moveStatus e { x with gst := gstWord (trNext e) (x.gDepth + 1), gstk := gstkSet x.gstk x.gDepth (trSym e) },
        { x with gst := gstWord (trNext e) (x.gDepth + 1), gstk := gstkSet x.gstk x.gDepth (trSym e) })
    | 2 =>
      if x.gDepth = 0 then .error 0x26
      else if x.gStack (x.gDepth - 1) ≠ trSym e then .ok (1, x)
      else .ok (moveStatus e { x with gst := gstWord (trNext e) (x.gDepth - 1), gstk := gstkSet x.gstk (x.gDepth - 1) 0 },
        { x with gst := gstWord (trNext e) (x.gDepth - 1), gstk := gstkSet x.gstk (x.gDepth - 1) 0 })
    | _ => .ok (1, x) := by
  have h0 : nbits 0 8 e = trNext e := by unfold nbits trNext; omega
  have h1 : ∀ y : Ctx, (if nbits 18 1 e = 1 ∧ y.gDepth = 0 then 2 else 0) = moveStatus e y := fun y => by
    simp only [moveStatus, trFinal, nbits, decide_eq_true_eq, pow_one]
  have h2 : nbits 8 2 e = trAct e := rfl
  have h3 : nbits 10 8 e = trSym e := rfl
  unfold gMove
  dsimp only
  rw [if_neg (fun hb => h ((trBad_iff he).1 hb))]
  simp only [h0, h1, h2, h3] <;> rfl

/-- What a move that raises no trap leaves: the status and the automaton. -/
theorem gMove_ok {st : Nat} {y : Ctx} (he : e < 2 ^ 32) (hm : gMove x e = .ok (st, y)) :
    (trBad x e → st = 3 ∧ y = x)
    ∧ (¬trBad x e → trAct e = 3 ∨ (trAct e = 2 ∧ x.gStack (x.gDepth - 1) ≠ trSym e) → st = 1 ∧ y = x)
    ∧ (¬trBad x e → trAct e = 0 → st = moveStatus e y ∧ y = { x with gst := gstWord (trNext e) x.gDepth })
    ∧ (¬trBad x e → trAct e = 1 →
        st = moveStatus e y ∧ y = { x with gst := gstWord (trNext e) (x.gDepth + 1), gstk := gstkSet x.gstk x.gDepth (trSym e) })
    ∧ (¬trBad x e → trAct e = 2 → x.gStack (x.gDepth - 1) = trSym e →
        st = moveStatus e y ∧ y = { x with gst := gstWord (trNext e) (x.gDepth - 1), gstk := gstkSet x.gstk (x.gDepth - 1) 0 }) := by
  refine ⟨fun h => ?_, fun h ha => ?_, fun h ha => ?_, fun h ha => ?_, fun h ha hs => ?_⟩
  · rw [gMove_bad he h] at hm; cases hm; exact ⟨rfl, rfl⟩
  · rw [gMove_good he h] at hm
    rcases ha with ha | ⟨ha, hs⟩ <;> simp only [ha] at hm
    · cases hm; exact ⟨rfl, rfl⟩
    · rw [if_pos hs] at hm
      split at hm <;> cases hm
      exact ⟨rfl, rfl⟩
  · rw [gMove_good he h] at hm; simp only [ha] at hm
    cases hm; exact ⟨rfl, rfl⟩
  · rw [gMove_good he h] at hm; simp only [ha] at hm
    split at hm <;> cases hm
    exact ⟨rfl, rfl⟩
  · rw [gMove_good he h] at hm; simp only [ha] at hm
    rw [if_neg (not_not.2 hs)] at hm
    split at hm <;> cases hm
    exact ⟨rfl, rfl⟩

/-- A move raises a trap at a push onto a full stack and at a pop of an empty one. -/
theorem gMove_error {code : Nat} (he : e < 2 ^ 32) (hm : gMove x e = .error code) :
    ¬trBad x e ∧ (trAct e = 1 ∧ x.gDepth = 8 ∨ trAct e = 2 ∧ x.gDepth = 0) := by
  have h : ¬trBad x e := fun h => by rw [gMove_bad he h] at hm; cases hm
  refine ⟨h, ?_⟩
  rw [gMove_good he h] at hm
  split at hm
  · cases hm
  · next ha =>
    split at hm
    · next hd => exact .inl ⟨ha, hd⟩
    · cases hm
  · next ha =>
    split at hm
    · next hd => exact .inr ⟨ha, hd⟩
    · split at hm <;> cases hm
  · cases hm

theorem status_gr (y : Ctx) (d : RegG) (e : Nat) : (y.setG d (BitVec.ofNat 64 (moveStatus e y))).gr d
    = if d ≠ 0 ∧ trFinal e = true ∧ y.gDepth = 0 then 2 else 0 := by
  rw [Ctx.setG_gr_own, moveStatus]
  by_cases hd : d = 0
  · rw [if_pos hd, if_neg fun h => h.1 hd]
  · by_cases h : trFinal e = true ∧ y.gDepth = 0
    · rw [if_neg hd, if_pos h, if_pos ⟨hd, h⟩]; rfl
    · rw [if_neg hd, if_neg h, if_neg fun hh => h hh.2]; rfl

end Move

/-- The Trellis registers after a write to a general one. -/
theorem trellisKept_setG (x : Ctx) (d : RegG) (w : Word) : trellisKept x (x.setG d w) := by simp [trellisKept]

theorem trellisAt_setG {y : Ctx} {n d i v : Nat} (h : trellisAt x y n d i v) (r : RegG) (w : Word) : trellisAt x (y.setG r w) n d i v := by
  obtain ⟨h1, h2, h3, h4, h5, h6, h7⟩ := h
  exact ⟨by rwa [Ctx.gValid, Ctx.setG_gst], by rwa [Ctx.gState, Ctx.setG_gst], by rwa [Ctx.gDepth, Ctx.setG_gst],
    fun j hj => by rw [Ctx.gStack, Ctx.setG_gstk]; exact h4 j hj, by rwa [Ctx.setG_gtt], by rwa [Ctx.setG_gmt], by rwa [Ctx.setG_gdim]⟩

/-- A valid automaton's instruction runs its body. -/
theorem gRun_valid {g : GuardP} {rs all : List RegG} (hg : guardOn s.cx g) (hs : settled s.cx all) (hsub : ∀ r ∈ rs, r ∈ all) (hv : s.cx.gValid = true)
    (body : State → Act State) : s.gRun g rs body = s.finish .x 1 (body s) := by
  rw [State.gRun, xRun_settled hg hs hsub, if_pos hv]

theorem trellisStep : TrellisStep := by
  intro s d a g hg hs hv
  refine ⟨fun ht hn => congrArg Host.Outcome.next ?_, fun b u ht hl => ?_⟩
  · rw [gRun_valid hg hs (fun _ hr => hr) hv, if_pos ht, State.finish_ok]
    exact retire_goes 1 hn (by simp) (by simp)
  · intro e x
    have he : e < 2 ^ 32 := leNat_lt_pow (State.load_weak_length hl)
    have hrun : runs (.xGstep d a g) s (s.finish .x 1 (match gMove x e with
        | .error code => u.trap (whyOf code 6 0)
        | .ok (st, y) => .ok (u.setCx (y.setG d (BitVec.ofNat 64 st))))) := by
      refine congrArg Host.Outcome.next ((gRun_valid hg hs (fun _ hr => hr) hv _).trans ?_)
      rw [if_neg (Nat.not_le.2 ht), hl] <;> rfl
    cases hm : gMove x e with
    | error code =>
      obtain ⟨hb, hcase⟩ := gMove_error he hm
      refine ⟨fun _ ha h8 => ?_, fun _ ha h0 => ?_, fun hn => absurd ⟨hb, hcase⟩ hn⟩
      · have := hm
        rw [gMove_good he hb] at this
        simp only [ha, if_pos h8] at this
        cases this
        rw [hm] at hrun
        exact hrun
      · have := hm
        rw [gMove_good he hb] at this
        simp only [ha, if_pos h0] at this
        cases this
        rw [hm] at hrun
        exact hrun
    | ok p =>
      obtain ⟨st, y⟩ := p
      rw [hm] at hrun
      obtain ⟨bad, stay, move, push, pop⟩ := gMove_ok he hm
      have hd := gDepth_lt x
      have hnx : trNext e < 256 := Nat.mod_lt _ (by decide)
      have hsym : trSym e % 256 = trSym e := Nat.mod_mod _ _
      refine ⟨fun h ha h8 => ?_, fun h ha h0 => ?_, fun _ => ⟨_, hrun, onlyCx_setCx u _, ?_⟩⟩
      · rw [gMove_good he h] at hm
        simp only [ha, if_pos h8] at hm
        cases hm
      · rw [gMove_good he h] at hm
        simp only [ha, if_pos h0] at hm
        cases hm
      rw [State.setCx_cx]
      refine ⟨fun h => ?_, fun h ha => ?_, fun h ha _ => ?_, fun h ha h8 => ?_, fun h ha h0 h8 hs => ?_⟩
      · obtain ⟨rfl, rfl⟩ := bad h
        exact ⟨trellisKept_setG _ _ _, Ctx.setG_gr_own _ _ _⟩
      · obtain ⟨rfl, rfl⟩ := stay h ha
        exact ⟨trellisKept_setG _ _ _, Ctx.setG_gr_own _ _ _⟩
      · obtain ⟨rfl, hy⟩ := move h ha
        have at_ : trellisAt x y (trNext e) x.gDepth 8 0 := by
          subst hy
          exact trellisAt_still hnx hd
        refine ⟨trellisAt_setG at_ _ _, ?_⟩
        rw [status_gr, at_.2.2.1]
      · obtain ⟨rfl, hy⟩ := push h ha
        have at_ : trellisAt x y (trNext e) (x.gDepth + 1) x.gDepth (trSym e) := by
          subst hy
          exact trellisAt_move hnx (by omega) rfl (fun j hj => (gstkSet_entry _ h8 hj _).trans (by rw [hsym]; rfl)) rfl rfl rfl
        refine ⟨trellisAt_setG at_ _ _, ?_⟩
        rw [status_gr, at_.2.2.1, if_neg (by omega)]
      · obtain ⟨rfl, hy⟩ := pop h ha hs
        have at_ : trellisAt x y (trNext e) (x.gDepth - 1) (x.gDepth - 1) 0 := by
          subst hy
          exact trellisAt_move hnx (by omega) rfl (fun j hj => gstkSet_entry _ (by omega) hj _) rfl rfl rfl
        refine ⟨trellisAt_setG at_ _ _, ?_⟩
        have h1 : x.gDepth - 1 = 0 ↔ x.gDepth = 1 := by omega
        simp only [status_gr, at_.2.2.1, h1]

/-! Masks (R228, R229). -/

theorem written_append (ws vs : List (Nat × Byte)) (y : Nat) : written (ws ++ vs) y = (written vs y).or (written ws y) := by
  induction ws with
  | nil => simp [written]
  | cons w t ih =>
    rw [List.cons_append, written, ih, written]
    cases written vs y <;> rfl

/-- Groups of four bytes written at multiples of 4. -/
theorem written_groups {bs : List Byte} (h : bs.length = 4) (off y : Nat) (ms : List Nat) : written (ms.flatMap fun m => addrBytes (off + 4 * m) bs) y
    = if off ≤ y ∧ (y - off) / 4 ∈ ms then some (bs.getD ((y - off) % 4) 0) else none := by
  induction ms with
  | nil => simp [written]
  | cons m ms ih =>
    rw [List.flatMap_cons, written_append, ih, written_addrBytes, h]
    by_cases hm : off ≤ y ∧ (y - off) / 4 ∈ ms
    · have hm' : off ≤ y ∧ (y - off) / 4 ∈ m :: ms := ⟨hm.1, List.mem_cons_of_mem m hm.2⟩
      rw [if_pos hm, if_pos hm', Option.some_or]
    · rw [if_neg hm, Option.none_or]
      by_cases hy : off + 4 * m ≤ y ∧ y < off + 4 * m + 4
      · rw [if_pos hy, if_pos ⟨by omega, List.mem_cons.2 (.inl (by omega))⟩, show y - (off + 4 * m) = (y - off) % 4 by omega]
      · rw [if_neg hy, if_neg]
        rintro ⟨h1, h2⟩
        rcases List.mem_cons.1 h2 with h2 | h2
        · omega
        · exact hm ⟨h1, h2⟩

/-- The bytes that a mask segment writes (R229). -/
theorem written_maskWrites (off : Nat) (v : Vec) (y : Nat) : written (maskWrites off v) y
    = if off ≤ y ∧ y < off + 2048 ∧ v.getLsbD ((y - off) / 4) = false then some ((leBytes 4 0xFF800000).getD ((y - off) % 4) 0) else none := by
  rw [maskWrites, written_groups (length_leBytes 4 _)]
  refine if_congr ?_ rfl rfl
  simp only [List.mem_filter, List.mem_range, Bool.not_eq_true']
  constructor
  · rintro ⟨h1, h2, h3⟩
    exact ⟨h1, by omega, h3⟩
  · rintro ⟨h1, h2, h3⟩
    exact ⟨h1, by omega, h3⟩

theorem gRun_invalid {g : GuardP} {rs all : List RegG} (hg : guardOn s.cx g) (hs : settled s.cx all) (hsub : ∀ r ∈ rs, r ∈ all) (hv : s.cx.gValid = false)
    (body : State → Act State) : s.gRun g rs body = s.raise s.cur.cell s.cur.ctx .x whyIllegal 0 0 := by
  rw [State.gRun, xRun_settled hg hs hsub, if_neg (by simp [hv])]
  rfl

theorem State.storeCheck_passes {acc : Nat} {off : Word} {n align : Nat} (ha : off.toNat % align = 0) (h : s.cl.storeOk s.cx.chan off.toNat n = true) :
    s.storeCheck acc off n align false = .ok s := by
  rw [State.storeCheck, if_neg (by simp [ha]), if_neg (by simp [h]), if_neg (by simp)]

/-- A spoiled mailbox leaves the running context and the store's bytes. -/
theorem State.spoilMail_cl (s : State) (cell off n : Nat) : (s.spoilMail cell off n).cx = s.cx ∧ (s.spoilMail cell off n).cl.store = s.cl.store := by
  have hc : (s.spoilMail cell off n).cur = s.cur := by have := congrArg State.cur (State.spoilMail_bare s cell off n); exact this
  obtain ⟨chs, h, -⟩ := s.spoilMail_cell cell off n s.cur.cell
  rw [State.cx, State.ctx, State.cl, hc, h]
  exact ⟨rfl, rfl⟩

theorem Cell.scatter_store (k : Cell) (ws : List (Nat × Byte)) : (k.scatter ws).store = ws.foldl (fun m w => mset 0 m w.1 w.2) k.store := rfl
theorem Cell.wakeFor_store (k : Cell) (off n : Nat) : (k.wakeFor off n).store = k.store := rfl

/-- The state after gmask has rewritten the logits at an offset (R229). -/
def State.masked (s : State) (off : Nat) (v : Vec) : State :=
  (s.setCl ((s.cl.wakeFor off 2048).scatter (maskWrites off v))).spoilMail s.cur.cell off 2048

theorem State.masked_mem (s : State) (off : Nat) (v : Vec) : (s.masked off v).mem = s.mem := State.spoilMail_mem _ _ _ _
theorem State.masked_cx (s : State) (off : Nat) (v : Vec) : (s.masked off v).cx = s.cx := (State.spoilMail_cl _ _ _ _).1.trans (State.setCl_cx s rfl)
theorem State.masked_store (s : State) (off : Nat) (v : Vec) (n : Nat) : mget 0 (s.masked off v).cl.store n
    = (written (maskWrites off v) n).getD (mget 0 s.cl.store n) := by
  rw [State.masked, (State.spoilMail_cl _ _ _ _).2, State.setCl_cl, Cell.scatter_store, mget_foldl_mset, Cell.wakeFor_store]

theorem trellisMasks : TrellisMasks := by
  intro s d a b g hg hs
  have hsub : ∀ r ∈ [d, a], r ∈ [d, a, b] := by simp
  have hsub1 : ∀ r ∈ [d], r ∈ [d, a, b] := by simp
  refine ⟨fun hv i hi => ?_, fun hv => ⟨fun v u ha hok hn hseg => ?_, fun ha hok hn hl => congrArg Host.Outcome.next ?_, fun n first u hr => ⟨?_, ?_⟩⟩⟩
  · simp only [List.mem_cons, List.not_mem_nil, or_false] at hi
    rcases hi with rfl | rfl | rfl | rfl
    · exact congrArg Host.Outcome.next (gRun_invalid hg hs hsub hv _)
    · exact congrArg Host.Outcome.next (gRun_invalid hg hs (fun _ h => h) hv _)
    · exact congrArg Host.Outcome.next (gRun_invalid hg hs hsub1 hv _)
    · exact congrArg Host.Outcome.next (gRun_invalid hg hs hsub1 hv _)
  · have hrun : runs (.xGmask d a b g) s (s.finish .x 1 (.ok ((u.masked (s.cx.gr a).toNat v).setCx
        ((u.masked (s.cx.gr a).toNat v).cx.setG d (BitVec.ofNat 64 (segTokens v).length))))) := by
      refine congrArg Host.Outcome.next ((gRun_valid hg hs (fun _ h => h) hv _).trans ?_)
      dsimp only
      rw [State.storeCheck_passes ha hok]
      dsimp only
      rw [if_neg (Nat.not_le.2 hn), hseg]
      rfl
    refine ⟨_, hrun, State.masked_mem _ _ _, ?_, ?_, fun n => ?_⟩
    · rw [State.setCx_cx, State.masked_cx]
      exact trellisKept_setG _ _ _
    · rw [State.setCx_cx]
      exact Ctx.setG_gr_own _ _ _
    · rw [State.setCx_cl]
      refine (State.masked_store _ _ _ n).trans ?_
      rw [written_maskWrites]
      split <;> rfl
  · rw [gRun_valid hg hs (fun _ h => h) hv]
    dsimp only
    rw [State.storeCheck_passes ha hok]
    dsimp only
    rw [if_pos hn, State.finish_ok]
    exact retire_goes 1 hl (by simp) (by simp)
  · refine congrArg Host.Outcome.next ((gRun_valid hg hs hsub1 hv _).trans ?_)
    rw [hr]; rfl
  · refine congrArg Host.Outcome.next ((gRun_valid hg hs hsub1 hv _).trans ?_)
    rw [hr]; rfl

/-- Settles O54: the block's moves, the steps of the automaton, and the masks. -/
theorem trellisOperations : Obligations.TrellisOperations := by
  unfold Obligations.TrellisOperations
  exact ⟨trellisBlockMoves, trellisStep, trellisMasks⟩

end Sys2Proof.Machine
end

section
/-! Streams open, close and issue groups (R66 to R71, R242 to R246). -/

namespace Sys2Proof.Machine
open Sys2Proof Sys2Proof.Claims

variable {s t u : State}

/-! Opening and closing. -/

/-- A has an acquire load in flight. -/
theorem acqFly_iff (x : Ctx) : x.acqFly = true ↔ ∃ e ∈ x.streams, ∃ f ∈ e.2.flying, f.acq = true ∧ f.store = false := by
  simp only [Ctx.acqFly, Ctx.flying, List.any_eq_true, List.mem_flatMap, Bool.and_eq_true, Bool.not_eq_true']
  constructor
  · rintro ⟨f, ⟨e, he, hf⟩, h⟩; exact ⟨e, he, f, hf, h⟩
  · rintro ⟨e, he, f, hf, h⟩; exact ⟨f, ⟨e, he, hf⟩, h⟩

theorem State.storeLoad_misaligned {off : Word} {n align : Nat} (h : off.toNat % align ≠ 0) : s.storeLoad off n align = s.trap (whyOf 5 1 0) := by
  rw [State.storeLoad, State.storeCheck, if_pos h]
  rfl

/-- Another stream has groups in flight, or closes with entries to write (log 22). -/
theorem others_iff (x : Ctx) (st : StreamNo) : (x.closingOther st || x.streams.any fun e => e.1 != st.toNat && !e.2.flying.isEmpty) = true ↔
    ∃ e ∈ x.streams, e.1 ≠ st.toNat ∧ (e.2.dropping ≠ [] ∨ e.2.loads ≠ [] ∨ e.2.stores ≠ [] ∨ (e.2.st = .closing ∧ e.2.entries ≠ [])) := by
  have fly : ∀ t : Stream, t.flying.isEmpty = false ↔ t.dropping ≠ [] ∨ t.loads ≠ [] ∨ t.stores ≠ [] := fun t => by
    simp only [Stream.flying, Stream.loadsFly, List.isEmpty_eq_false_iff, ne_eq, List.append_eq_nil_iff, List.map_eq_nil_iff]
    tauto
  simp only [Ctx.closingOther, Stream.closingBusy, Bool.or_eq_true, List.any_eq_true, Bool.and_eq_true, bne_iff_ne, beq_iff_eq, Bool.not_eq_true', fly,
    List.isEmpty_eq_false_iff]
  constructor
  · rintro (⟨e, he, h1, h2, h3⟩ | ⟨e, he, h1, h2⟩)
    · exact ⟨e, he, h1, by tauto⟩
    · exact ⟨e, he, h1, by tauto⟩
  · rintro ⟨e, he, h1, h2⟩
    by_cases hc : e.2.st = .closing ∧ e.2.entries ≠ []
    · exact .inl ⟨e, he, h1, hc.1, .inl hc.2⟩
    · exact .inr ⟨e, he, h1, by tauto⟩

theorem dLoadKind_of_store {d : BitVec 256} (h : dStoreKind d = true) : dLoadKind d = false := by
  simp only [dStoreKind, dLoadKind, Bool.or_eq_true, decide_eq_true_eq, Bool.or_eq_false_iff, decide_eq_false_iff_not] at *
  omega

theorem isLoad_iff {t : Stream} : t.isLoad = true ↔ t.st = .opened ∧ dLoadKind t.desc = true := by simp [Stream.isLoad]
theorem isStore_iff {t : Stream} : t.isStore = true ↔ t.st = .opened ∧ dStoreKind t.desc = true := by simp [Stream.isStore]

/-- A store stream that begins to close. -/
theorem Stream.settle_closing (t : Stream) : { t with st := .closing }.settle
    = if t.entries = [] ∧ t.stores = [] then closedStream t else { t with st := .closing } := by
  rw [Stream.settle]
  refine if_congr ?_ rfl rfl
  simp [List.isEmpty_iff]

theorem streamsOpenClose : StreamsOpenClose := by
  intro s st b imm q hq off x flies acquires
  have hopen : ∀ body, s.aRun q 1 body = s.finish .a 1 (body s) := fun body => s.aRun_on q 1 body hq
  have hacq := acqFly_iff s.cx
  have noHit : ∀ {u : State} {d : BitVec 256}, dKind d ≠ 5 ∨ u.landingHit d = false → ¬(dKind d = 5 ∧ u.landingHit d = true) := fun h h' => by
    rcases h with h | h
    · exact h h'.1
    · rw [h] at h'; cases h'.2
  refine ⟨fun h => congrArg Host.Outcome.next ?_, fun h ha => congrArg Host.Outcome.next ?_, fun h bs u hl => ⟨fun hd => congrArg Host.Outcome.next ?_,
    fun hd h5 hh => congrArg Host.Outcome.next ?_, fun hd h5 => ⟨fun hst => congrArg Host.Outcome.next ?_, fun hst => congrArg Host.Outcome.next ?_,
    fun hst => congrArg Host.Outcome.next ?_⟩⟩, fun h => congrArg Host.Outcome.next ?_, fun h => congrArg Host.Outcome.next ?_, fun h hf => congrArg Host.Outcome.next ?_,
    fun h hf => congrArg Host.Outcome.next ?_⟩
  · rw [hopen, if_pos (hacq.2 h)]; rfl
  · rw [hopen, if_neg (mt hacq.1 h), State.storeLoad_misaligned ha]; rfl
  · rw [hopen, if_neg (mt hacq.1 h), hl]
    exact congrArg (s.finish .a 1) (if_pos hd)
  · rw [hopen, if_neg (mt hacq.1 h), hl]
    exact congrArg (s.finish .a 1) ((if_neg (Bool.eq_false_iff.1 hd)).trans (if_pos ⟨h5, hh⟩))
  · rw [hopen, if_neg (mt hacq.1 h), hl]
    dsimp only
    rw [if_neg (Bool.eq_false_iff.1 hd), if_neg (noHit h5), hst]
    rfl
  · rw [hopen, if_neg (mt hacq.1 h), hl]
    dsimp only
    rw [if_neg (Bool.eq_false_iff.1 hd), if_neg (noHit h5), hst]
    rfl
  · rw [hopen, if_neg (mt hacq.1 h), hl]
    dsimp only
    rw [if_neg (Bool.eq_false_iff.1 hd), if_neg (noHit h5), hst]
    rfl
  · rw [hopen]
    exact congrArg (s.finish .a 1) (if_pos h)
  · obtain ⟨hst, hk⟩ := isLoad_iff.1 h
    rw [hopen]
    exact congrArg (s.finish .a 1) ((if_neg (not_not.2 hst)).trans (if_pos hk))
  · obtain ⟨hst, hk⟩ := isStore_iff.1 h
    have ho : ¬(s.cx.closingOther st || s.cx.streams.any fun e => e.1 != st.toNat && !e.2.flying.isEmpty) = true := fun ho => by
      obtain ⟨e, he, h1, h2⟩ := (others_iff _ _).1 ho
      exact hf e he h1 h2
    rw [hopen]
    dsimp only
    rw [if_neg (not_not.2 hst), if_neg (Bool.eq_false_iff.1 (dLoadKind_of_store hk)), if_neg ho, Stream.settle_closing]
    rfl
  · obtain ⟨hst, hk⟩ := isStore_iff.1 h
    rw [hopen]
    exact congrArg (s.finish .a 1) ((if_neg (not_not.2 hst)).trans ((if_neg (Bool.eq_false_iff.1 (dLoadKind_of_store hk))).trans (if_pos ((others_iff _ _).2 hf))))

/-! The issue of groups. -/

/-- A context whose stream st went on by f, and whose b[M] counts one group more. -/
def stepped (x : Ctx) (st : StreamNo) (b : RegB) (f : Stream → Stream) : Ctx :=
  ((x.setStream st (f (x.stream st))).setB b (x.br b + 1)).setEng .a { x.ea with waited := none }

theorem stepped_stream (x : Ctx) (st k : StreamNo) (b : RegB) (f : Stream → Stream) : (stepped x st b f).stream k = if k = st then f (x.stream st) else x.stream k :=
  Ctx.setStream_stream x st k _
theorem stepped_br (x : Ctx) (st : StreamNo) (b r : RegB) (f : Stream → Stream) : (stepped x st b f).br r = if r = b then x.br b + 1 else x.br r :=
  Ctx.setB_br (x.setStream st (f (x.stream st))) b r _

/-- An instruction whose stream went on issues its group, and goes to the next or retires (R244). -/
theorem nextGroup_issued (u : State) (st : StreamNo) (b : RegB) (n : Nat) (f : Stream → Stream) :
    groupIssued u ((u.setCx (u.cx.setStream st (f (u.cx.stream st)))).nextGroup b n) st b n f := by
  refine ⟨u.setCx (stepped u.cx st b f), ?_, ?_, rfl, fun k hk => ?_, fun r hr => ?_, ?_⟩
  · rw [State.setCx_cx, stepped_stream, if_pos rfl]
  · rw [State.setCx_cx, stepped_br, if_pos rfl]
  · rw [State.setCx_cx, stepped_stream, if_neg hk]
  · rw [State.setCx_cx, stepped_br, if_neg hr]
  · unfold State.nextGroup
    dsimp only
    rw [State.setCx_cx, State.setCx_setCx]
    rfl

variable {st si : StreamNo} {b : RegB} {n : Nat} {ps : List Piece} {w : State} {x : Stream} {i : Word} {a : GroupAt} {r : Act State}

/-- The read of a group is issued once its pieces and its row's scale pass their checks (R243, R244). -/
theorem State.issueLoad_issues (hx : s.cx.stream st = x) (hi : s.cx.br b = i) (ha : groupAt x.desc i.toNat = a)
    (hp : s.groupPieces s.cur.cell s.cx.kmode .read s.cx.chan (dCellKind x.desc) (tyBits (dFmt x.desc) / 8) a.addr a.len = .ok (ps, u))
    (hr : u.groupReads (dCellKind x.desc) ps (fun _ => a.addr) i = .ok w) :
    (dScBase x.desc = 0 ∨ a.p ≠ 0 → ∃ z, s.issueLoad st b n = .ok z ∧ groupIssued w z st b n fun t =>
        { t with loads := t.loads ++ [⟨ps, none, dScBase x.desc != 0 && a.p != 0, w.now⟩], next := t.next + 1 })
    ∧ ∀ l y, dScBase x.desc ≠ 0 → a.p = 0 → w.scalePlace (scaleVa x.desc a.row) i = .ok (l, y) → ∃ z, s.issueLoad st b n = .ok z
        ∧ groupIssued y z st b n fun t => { t with loads := t.loads ++ [⟨ps, some (l.pa, l.place), false, y.now⟩], next := t.next + 1 } := by
  unfold State.issueLoad
  dsimp only
  rw [hx, hi, ha, hp]
  dsimp only
  rw [hr]
  dsimp only
  refine ⟨fun h => ?_, fun l y h1 h2 hy => ?_⟩
  · rw [if_neg (by rintro ⟨h1, h2⟩; exact h.elim h1 fun h => h h2)]
    exact ⟨_, rfl, nextGroup_issued w st b n fun t => { t with loads := t.loads ++ [⟨ps, none, dScBase x.desc != 0 && a.p != 0, w.now⟩], next := t.next + 1 }⟩
  · have hc : (dScBase x.desc != 0 && a.p != 0) = false := by simp [h2]
    rw [if_pos ⟨h1, h2⟩, hy, hc]
    exact ⟨_, rfl, nextGroup_issued y st b n fun t => { t with loads := t.loads ++ [⟨ps, some (l.pa, l.place), false, y.now⟩], next := t.next + 1 }⟩

/-- Checks of a read change at most A's horizon. -/
theorem State.groupReads_access {ck : Bool} {va : Piece → Word} (h : s.groupReads ck ps va i = .ok w) : Access s.cur.cell s w := by
  unfold State.groupReads at h
  dsimp only at h
  split at h
  · cases h
  · split at h
    · cases h
    · cases h
      split
      · exact State.acq_access _ _
      · exact .refl s

theorem State.scalePlace_access {va : Word} {l : Loc} (h : s.scalePlace va i = .ok (l, u)) : Access s.cur.cell s u := by
  unfold State.scalePlace at h
  split at h
  · cases h
  · have hx := s.xlate_access s.cur.cell s.cx.kmode .read va
    split at h
    · cases h
    · next l' v e =>
      rw [e] at hx
      cases hg : v.groupReads false [⟨l'.pa, 4, 0, l'.place⟩] (fun _ => va) i with
      | error w => rw [hg] at h; cases h
      | ok w =>
        rw [hg] at h
        cases h
        exact (hx.trans_cur (State.groupReads_access hg)).trans (State.allocIn_onlyMemory _ _ _).access

/-- The entry at HEAD leaves with its group (R68, R244). -/
def storeStep (ps : List Piece) (now : Nat) (e : Entry) (rest : List Entry) (t : Stream) : Stream :=
  { t with entries := rest, stores := t.stores ++ [(⟨ps, none, false, now⟩, e)], next := t.next + 1, head := t.head + 1 }

/-- A gather's group joins those in flight (R245). -/
def loadStep (ps : List Piece) (now : Nat) (t : Stream) : Stream := { t with loads := t.loads ++ [⟨ps, none, false, now⟩], next := t.next + 1 }

theorem State.issueStore_eq {e : Entry} {rest : List Entry} (h : (s.cx.stream st).entries = e :: rest) :
    s.issueStore st ps = s.setCx (s.cx.setStream st (storeStep ps s.now e rest (s.cx.stream st))) := by
  unfold State.issueStore
  dsimp only
  rw [h]
  rfl

theorem State.storeScale_ok {v : State} {d : BitVec 256} (h : if dScBase d = 0 ∨ a.p ≠ 0 then v = u
      else ∃ l y, u.scalePlace (scaleVa d a.row) i = .ok (l, y) ∧ (y.scaleAt y.cur.cell y.cur.ctx l).1 = v) : u.storeScale d a i = .ok v := by
  unfold State.storeScale
  split_ifs at h ⊢
  · rw [h]
  · obtain ⟨l, y, hy, rfl⟩ := h
    rw [hy, ← (State.scalePlace_access hy).cur]
    rfl

/-- The index entry at HEAD is taken. -/
def indexTaken (x : Stream) (rest : List Entry) : Stream := { x with entries := rest, head := x.head + 1 }

theorem State.takeIndex_eq {e : Entry} {rest : List Entry} (h : (s.cx.stream si).entries = e :: rest) :
    s.takeIndex si = s.setCx (s.cx.setStream si (indexTaken (s.cx.stream si) rest)) := by
  unfold State.takeIndex
  dsimp only
  rw [h]
  rfl

section Indexed
variable {need : Need} {k : State → Vec → List Piece → Act State} {e : Entry} {rest : List Entry}

theorem State.indexed_empty (h : (s.cx.stream si).entries = []) : s.indexed need st si b k = .error .stall := by
  unfold State.indexed; dsimp only; rw [h]
theorem State.indexed_poison (h : (s.cx.stream si).entries = e :: rest) (hp : e.poison = true) :
    s.indexed need st si b k = s.trap ⟨0x13, 4, 0xFF, 0, s.cx.br b, 0⟩ := by
  unfold State.indexed; dsimp only; rw [h]; exact if_pos hp
theorem State.indexed_ok (h : (s.cx.stream si).entries = e :: rest) (hp : e.poison = false)
    (hps : s.elemPieces need (s.cx.stream st).desc e.data (s.cx.br b) = .ok (ps, u)) : s.indexed need st si b k = k u e.data ps := by
  unfold State.indexed; dsimp only; rw [h]; dsimp only; rw [if_neg (by simp [hp]), hps]

end Indexed

/-! Which groups issue, wait or are illegal. -/

theorem neither {p r : Prop} [Decidable p] [Decidable r] (hp : ¬p) (hr : ¬r) : (!(decide p || decide r)) = true := by simp [hp, hr]
theorem not_neither {p r : Prop} [Decidable p] [Decidable r] (h : p ∨ r) : ¬(!(decide p || decide r)) = true := by simpa [or_iff_not_imp_left] using h

section Runs
variable {q : GuardQ} {k : BitVec 14} {m : BitVec 10}

theorem aLd_runs (hq : s.cx.qr q = true) (hx : s.cx.stream st = x) (h : (if k = 0 ∨ x.st ≠ .opened ∨ !(dKind x.desc = 1 || dKind x.desc = 3) then s.illegal
      else if dDepth x.desc ≤ x.ahead then .error .stall else s.issueLoad st b k.toNat) = r) : runs (.aLd st b k q) s (s.settle .a r) := by
  subst hx h
  exact congrArg Host.Outcome.next (s.aFlow_on q 1 _ hq)

theorem aSt_runs (hq : s.cx.qr q = true) (hx : s.cx.stream st = x) (hi : s.cx.br b = i) (ha : groupAt x.desc i.toNat = a)
    (h : (if k = 0 ∨ !x.isStore then s.illegal
      else if x.entries.isEmpty then .error .stall
      else match s.groupPieces s.cur.cell s.cx.kmode .write s.cx.chan (dCellKind x.desc) (tyBits (dFmt x.desc) / 8) a.addr a.len with
        | .error (w, s) => s.trap (groupWhy w i)
        | .ok (ps, s) => (s.storeScale x.desc a i).map fun s => (s.issueStore st ps).nextGroup b k.toNat) = r) : runs (.aSt st b k q) s (s.settle .a r) := by
  subst hx hi ha h
  exact congrArg Host.Outcome.next (s.aFlow_on q 1 _ hq)

theorem aPref_illegal (hq : s.cx.qr q = true) (hx : s.cx.stream st = x) (h : k = 0 ∨ x.st ≠ .opened ∨ (!(dKind x.desc = 1 || dKind x.desc = 2)) = true) :
    runs (.aPref st b k q) s (s.raise s.cur.cell s.cur.ctx .a whyIllegal 0 0) := by
  subst hx
  exact congrArg Host.Outcome.next ((s.aRun_on q 1 _ hq).trans (congrArg (s.finish .a 1) (if_pos h)))

theorem aGath_runs (hq : s.cx.qr q = true) (hx : s.cx.stream st = x)
    (h : (if m = 0 ∨ si = st ∨ !(s.cx.stream si).indexOk ∨ !(x.st == .opened && (dKind x.desc == 1 || dKind x.desc == 3) && dataOk x.desc) then s.illegal
      else if dDepth x.desc ≤ x.ahead then .error .stall
      else s.indexed .read st si b fun s idx ps =>
        (s.groupReads (dCellKind x.desc) ps (fun p => elemVa x.desc idx (p.off * 8 / tyBits (dFmt x.desc))) (s.cx.br b)).map fun s =>
          let s := s.takeIndex si
          let t := s.cx.stream st
          (s.setCx (s.cx.setStream st { t with loads := t.loads ++ [⟨ps, none, false, s.now⟩], next := t.next + 1 })).nextGroup b m.toNat) = r) :
    runs (.aGath st b si m q) s (s.settle .a r) := by
  subst hx h
  exact congrArg Host.Outcome.next (s.aFlow_on q 1 _ hq)

theorem aScat_runs (hq : s.cx.qr q = true) (hx : s.cx.stream st = x)
    (h : (if m = 0 ∨ si = st ∨ !(s.cx.stream si).indexOk ∨ !x.isStore ∨ !dataOk x.desc then s.illegal
      else if x.entries.isEmpty then .error .stall
      else s.indexed .write st si b fun s _ ps => .ok (((s.takeIndex si).issueStore st ps).nextGroup b m.toNat)) = r) :
    runs (.aScat st b si m q) s (s.settle .a r) := by
  subst hx h
  exact congrArg Host.Outcome.next (s.aFlow_on q 1 _ hq)

end Runs

/-! a.pref: speculative reads (R246, R380). -/

/-- A state in which memory was read at most. -/
structure Peeks (s t : State) : Prop where
  only : OnlyMemory s t
  latest : ∀ x, t.latest x = s.latest x

namespace Peeks

theorem refl (s : State) : Peeks s s := ⟨.refl s, fun _ => rfl⟩
theorem trans (h : Peeks s t) (g : Peeks t u) : Peeks s u := ⟨h.only.trans g.only, fun x => (g.latest x).trans (h.latest x)⟩
theorem took (s : State) : Peeks s s.took := ⟨s.took_onlyMemory, fun _ => rfl⟩
theorem snoopRead (s : State) (line : Nat) : Peeks s (s.snoopRead line) := ⟨s.snoopRead_onlyMemory line, s.snoopRead_latest line⟩
theorem allocIn (s : State) (b p : Nat) : Peeks s (s.allocIn b p) := ⟨s.allocIn_onlyMemory b p, s.allocIn_latest b p⟩
/-- A line read by an agent of its home. -/
theorem read (s : State) (line b p : Nat) : Peeks s ((s.snoopRead line).allocIn b p) := (snoopRead s line).trans (allocIn _ b p)

theorem readTable (s : State) (pid : Nat) (g : Segment) (ia level : Nat) : Peeks s (s.readTable pid g ia level).left := by
  unfold State.readTable
  split
  · exact refl s
  · dsimp only
    split <;> exact read s _ _ _

theorem walkLevel (s : State) (pid : Nat) (g : Segment) (va t level : Nat) : Peeks s (s.walkLevel pid g va t level).left := by
  have h := readTable s pid g (t + 8 * if level = 4 then nbits 48 9 va else nbits (9 * level + 12) 9 va) level
  unfold State.walkLevel
  dsimp only
  split
  · next e => rw [e] at h; exact h
  · next e =>
    rw [e] at h
    repeat' split
    all_goals exact h

theorem walk (s : State) (pid : Nat) (g : Segment) (va level t : Nat) : Peeks s (s.walk pid g va level t).left := by
  induction level generalizing s t with
  | zero =>
    have h := walkLevel s pid g va t 0
    unfold State.walk
    split <;> next e => rw [e] at h; exact h
  | succ l ih =>
    have h := walkLevel s pid g va t (l + 1)
    unfold State.walk
    split
    · next e => rw [e] at h; exact h
    · next e => rw [e] at h; exact h
    · next e => rw [e] at h; exact h.trans (ih _ _)

/-- A directory entry that names the same dirty data changes no byte. -/
theorem setDir {line : Nat} {d : DirE} (h : d.dirty = (s.dirOf line).dirty) : Peeks s (s.setDir line d) := by
  refine ⟨State.setDir_onlyMemory .., fun x => ?_⟩
  have hd : ((s.setDir line d).dirOf (x / 64)).dirty = (s.dirOf (x / 64)).dirty := by
    rw [State.setDir_dirOf]
    split
    · next e => rw [h, e]
    · rfl
  rw [State.latest, hd]
  rfl
theorem snooped (s : State) (line a : Nat) (p : Nat) : Peeks s (s.snooped line a fun q => .biSnpData q p) :=
  ⟨State.snooped_onlyMemory _ _ _ _ fun q => by simp [onlySnoops], fun x => by simp only [State.latest, State.snooped_dirOf, State.snooped_memByte]⟩
theorem snoopE (s : State) (line : Nat) : Peeks s (s.snoopE line) := by
  unfold State.snoopE
  dsimp only
  split
  · next e => exact (setDir (by simp [DirE.dirty, e])).trans (snooped _ _ _ _)
  · exact refl s
theorem throughRdc (s : State) (cell : Nat) (l : Loc) : Peeks s (s.throughRdc cell l) := by
  unfold State.throughRdc
  split
  · exact refl s
  · exact ((snoopRead s _).trans (snoopE _ _)).trans ((Peeks.setDir (d := ⟨_, if _ then _ else _⟩) rfl).trans (allocIn _ _ _))

/-- A speculative first touch records nothing (R377). -/
theorem firstTouch (s : State) (pa own : Nat) : (s.firstTouch true pa own).1 = s := by
  unfold State.firstTouch
  dsimp only
  split
  · rfl
  · split <;> rfl

theorem placement (s : State) (pid : Nat) (p : Part) (cell : Option Nat) (level code pp vbase : Nat) :
    Peeks s (s.placement pid p cell true level code pp vbase).left := by
  unfold State.placement
  split
  · exact refl s
  extract_lets bad tab
  split
  · exact refl s
  split
  · exact refl s
  extract_lets t b kind n ids restZero ftva
  have ht : Peeks s t := read s _ _ _
  clear_value t b kind n ids ftva
  split
  · exact ht
  split
  · exact ht
  split
  · exact ht
  split
  · split
    · exact ht
    split
    · exact ht
    extract_lets u
    have hu : Peeks s u := ht.trans (allocIn t _ _)
    clear_value u
    split
    · exact hu
    split
    · exact hu
    have hf := firstTouch u
    split
    · next e => rw [← hf, e] at hu; exact hu
    · next e =>
      rw [← hf, e] at hu
      split
      · exact hu
      · split <;> exact hu
  · exact ht

theorem translate (s : State) (pid : Nat) (cell : Option Nat) (kmode : Bool) (need : Need) (va : Word) :
    Peeks s (s.translate pid cell kmode need true va).left := by
  unfold State.translate
  extract_lets p v root t
  have ht : Peeks s t := by unfold t; split; exact refl s; exact took s
  clear_value t root p
  split
  · exact refl s
  split
  · exact ht
  have hwalk := ht.trans (walk t pid p.seg v 4 (nbits 12 40 root * 4096))
  split
  · next e => rw [e] at hwalk; exact hwalk
  next level pa en u e =>
  rw [e] at hwalk
  replace hwalk : Peeks s u := hwalk
  split
  · exact hwalk
  extract_lets ia perm w
  have hw : Peeks s w := hwalk
  clear_value w perm ia
  split
  · exact hwalk
  split
  · exact hwalk
  split
  · exact hw
  split
  · exact hw
  extract_lets placed
  have hp : Peeks s placed.left := by unfold placed; split; exact hw; exact hw.trans (placement w _ _ _ _ _ _ _)
  clear_value placed
  split <;> exact hp

end Peeks

/-- What a prefetch leaves: the running context and the bytes of memory. -/
structure Prefetched (s t : State) : Prop where
  cx : t.cx = s.cx
  cur : t.cur = s.cur
  latest : ∀ x, t.latest x = s.latest x

namespace Prefetched

theorem refl (s : State) : Prefetched s s := ⟨rfl, rfl, fun _ => rfl⟩
theorem trans (h : Prefetched s t) (g : Prefetched t u) : Prefetched s u := ⟨g.cx.trans h.cx, g.cur.trans h.cur, fun x => (g.latest x).trans (h.latest x)⟩
theorem of_peeks (h : Peeks s t) : Prefetched s t := ⟨h.only.cx, h.only.cur, h.latest⟩
theorem foldl {β : Type} (f : State → β → State) (l : List β) (s : State) (hf : ∀ t b, Prefetched t (f t b)) : Prefetched s (l.foldl f s) :=
  foldl_keeps (fun t => Prefetched s t) f l s (refl s) fun t b ht => ht.trans (hf t b)

/-- A dropped access is counted in its cell (R341, R380). -/
theorem dropOne (s : State) (cell : Nat) : Prefetched s (s.setCell cell (s.cell cell).dropOne) := by
  refine ⟨?_, rfl, fun x => rfl⟩
  rw [State.cx, State.ctx, State.setCell_cell]
  split
  · next h =>
    replace h : cell = s.cur.cell := h
    subst h
    rfl
  · rfl

/-- The speculative requests of a page (R246, R380). -/
theorem prefetch (s : State) (cell : Nat) (kmode : Bool) (va : Word) (n : Nat) : Prefetched s (s.prefetch cell kmode va n) := by
  have h := Peeks.translate s (s.cell cell).tag (some cell) kmode .read va
  unfold State.prefetch
  dsimp only
  split
  · next e =>
    rw [e] at h
    exact (of_peeks h).trans (foldl _ _ _ fun t c => of_peeks ((Peeks.read t _ _ _).trans (Peeks.throughRdc _ _ _)))
  · next e => rw [e] at h; exact (of_peeks h).trans (dropOne _ cell)
  · next e => rw [e] at h; exact (of_peeks h).trans (dropOne _ cell)

/-- The groups of one a.pref (R246). -/
theorem groups (s : State) (b : RegB) (d : BitVec 256) (n : Nat) : Prefetched s ((List.range n).foldl
    (fun s i =>
      let a := groupAt d ((s.cx.br b).toNat + i)
      if a.addr.toNat % (tyBits (dFmt d) / 8) ≠ 0 then s.setCl s.cl.dropOne
      else (pageCuts 2 a.addr a.len).foldl (fun s c => s.prefetch s.cur.cell s.cx.kmode c.1 c.2) s) s) :=
  foldl _ _ _ fun t i => by
    dsimp only
    split
    · exact dropOne t t.cur.cell
    · exact foldl _ _ _ fun u c => prefetch u _ _ _ _

end Prefetched

/-- What a gather or a scatter needs of its streams (R245). -/
theorem gath_legal {m : BitVec 10} (h0 : m ≠ 0) (hne : si ≠ st) (hok : (s.cx.stream si).indexOk = true) (hd : dataOk x.desc = true) (ho : x.st = .opened)
    (hk : dKind x.desc = 1 ∨ dKind x.desc = 3) :
    ¬(m = 0 ∨ si = st ∨ (!(s.cx.stream si).indexOk) = true ∨ (!(x.st == .opened && (dKind x.desc == 1 || dKind x.desc == 3) && dataOk x.desc)) = true) := by
  simp only [hok, hd, ho, beq_self_eq_true, Bool.true_and, Bool.and_true, Bool.not_true, Bool.not_eq_true', Bool.or_eq_false_iff, beq_eq_false_iff_ne]
  rintro (h | h | h | h)
  · exact h0 h
  · exact hne h
  · cases h
  · exact hk.elim h.1 h.2

theorem scat_legal {m : BitVec 10} (h0 : m ≠ 0) (hne : si ≠ st) (hok : (s.cx.stream si).indexOk = true) (hd : dataOk x.desc = true) (ho : x.isStore = true) :
    ¬(m = 0 ∨ si = st ∨ (!(s.cx.stream si).indexOk) = true ∨ (!x.isStore) = true ∨ (!dataOk x.desc) = true) := by
  simp only [hok, hd, ho, Bool.not_true]
  rintro (h | h | h | h | h)
  · exact h0 h
  · exact hne h
  all_goals cases h

theorem nonempty_of {α : Type} {l : List α} {y : α} {ys : List α} (h : l = y :: ys) : ¬l.isEmpty = true := by rw [h]; exact Bool.false_ne_true

section Issues
variable {q : GuardQ} {k : BitVec 14} {m : BitVec 10} {e y : Entry} {rest more : List Entry} {v : State}

theorem aSt_issues (hq : s.cx.qr q = true) (hx : s.cx.stream st = x) (hi : s.cx.br b = i) (ha : groupAt x.desc i.toNat = a) (hc : ¬(k = 0 ∨ (!x.isStore) = true))
    (he : x.entries = e :: rest)
    (hp : s.groupPieces s.cur.cell s.cx.kmode .write s.cx.chan (dCellKind x.desc) (tyBits (dFmt x.desc) / 8) a.addr a.len = .ok (ps, u))
    (hv : u.storeScale x.desc a i = .ok v) (hvx : v.cx.stream st = x) :
    ∃ z, runs (.aSt st b k q) s z ∧ groupIssued v z st b k.toNat (storeStep ps v.now e rest) := by
  refine ⟨_, aSt_runs hq hx hi ha (r := .ok ((v.issueStore st ps).nextGroup b k.toNat)) ?_, ?_⟩
  · rw [if_neg hc, if_neg (nonempty_of he), hp]
    dsimp only
    rw [hv]
    rfl
  · rw [State.settle_ok, State.issueStore_eq (hvx ▸ he)]
    exact nextGroup_issued v st b k.toNat _

/-- The index entry has gone, and the pieces it named are a load group of the data stream. -/
theorem aGath_issues (hq : s.cx.qr q = true) (hx : s.cx.stream st = x) (hi : s.cx.br b = i)
    (hc : ¬(m = 0 ∨ si = st ∨ (!(s.cx.stream si).indexOk) = true ∨ (!(x.st == .opened && (dKind x.desc == 1 || dKind x.desc == 3) && dataOk x.desc)) = true))
    (hd : x.ahead < dDepth x.desc) (he : (s.cx.stream si).entries = e :: rest) (hpo : e.poison = false) (hps : s.elemPieces .read x.desc e.data i = .ok (ps, u))
    (hr : u.groupReads (dCellKind x.desc) ps (fun p => elemVa x.desc e.data (p.off * 8 / tyBits (dFmt x.desc))) (u.cx.br b) = .ok w)
    (hw : w.cx.stream si = s.cx.stream si) :
    ∃ z, runs (.aGath st b si m q) s z ∧ groupIssued (w.setCx (w.cx.setStream si (indexTaken (s.cx.stream si) rest))) z st b m.toNat (loadStep ps w.now) := by
  subst hx hi
  refine ⟨_, aGath_runs hq rfl (r := .ok (((w.takeIndex si).setCx ((w.takeIndex si).cx.setStream st
    (loadStep ps (w.takeIndex si).now ((w.takeIndex si).cx.stream st)))).nextGroup b m.toNat))
    ((if_neg hc).trans ((if_neg (Nat.not_le.2 hd)).trans ((State.indexed_ok he hpo hps).trans ?_))), ?_⟩
  · dsimp only
    rw [hr]
    rfl
  · rw [State.settle_ok, State.takeIndex_eq (hw ▸ he), hw]
    exact nextGroup_issued _ st b m.toNat (loadStep ps w.now)

/-- The index entry has gone, and the entry at HEAD of the data stream leaves to the pieces it named. -/
theorem aScat_issues (hq : s.cx.qr q = true) (hx : s.cx.stream st = x) (hi : s.cx.br b = i)
    (hc : ¬(m = 0 ∨ si = st ∨ (!(s.cx.stream si).indexOk) = true ∨ (!x.isStore) = true ∨ (!dataOk x.desc) = true))
    (he : (s.cx.stream si).entries = e :: rest) (hpo : e.poison = false) (hy : x.entries = y :: more) (hps : s.elemPieces .write x.desc e.data i = .ok (ps, u))
    (hu : u.cx.streams = s.cx.streams) :
    ∃ z, runs (.aScat st b si m q) s z ∧ groupIssued (u.setCx (u.cx.setStream si (indexTaken (s.cx.stream si) rest))) z st b m.toNat (storeStep ps u.now y more) := by
  subst hx hi
  have hsi : u.cx.stream si = s.cx.stream si := congrArg (fun m => mget Stream.reset m si.toNat) hu
  have hst : u.cx.stream st = s.cx.stream st := congrArg (fun m => mget Stream.reset m st.toNat) hu
  have hne : ¬si = st := fun h => hc (.inr (.inl h))
  have hent : ((u.setCx (u.cx.setStream si (indexTaken (s.cx.stream si) rest))).cx.stream st).entries = y :: more := by
    rw [State.setCx_cx, Ctx.setStream_stream, if_neg (Ne.symm hne), hst, hy]
  refine ⟨_, aScat_runs hq rfl ((if_neg hc).trans ((if_neg (nonempty_of hy)).trans ((State.indexed_ok he hpo hps).trans rfl))), ?_⟩
  rw [State.settle_ok, State.takeIndex_eq (hsi ▸ he), hsi, State.issueStore_eq hent]
  exact nextGroup_issued _ st b m.toNat _

end Issues

theorem streamGroupsIssue : StreamGroupsIssue := by
  intro s st si b n m q hq t d i at_ illegal
  have notStore : t.st ≠ .opened → t.isStore = false := fun h => by
    refine Bool.eq_false_iff.2 fun hs => h (isStore_iff.1 hs).1
  have legal : n ≠ 0 → t.isStore = true → ¬(n = 0 ∨ (!t.isStore) = true) := fun h0 hs h => by
    rcases h with h | h
    · exact h0 h
    · rw [hs] at h; cases h
  refine ⟨fun h j hj => ?_, fun h1 h3 => ?_, fun h => ?_, fun h1 h2 => ?_, fun h0 ho hk => ?_, fun h0 ho => ⟨fun he => ?_, fun e rest ps u v he hp hv hvt => ?_⟩,
    fun h j hj => ?_, fun h0 hne hok hdata => ⟨fun e rest ho hk hd he hpo => ?_, fun ho hk h => ?_, fun ho h => ?_, fun e rest ho hne' he hpo => ?_⟩,
    fun h0 hne hok hdata e rest he hpo => ⟨fun ho hk hd ps u w hps hr hw => ?_, fun ho y more ps u hy hps hu => ?_⟩, fun h0 ho hk => ?_⟩
  · simp only [List.mem_cons, List.not_mem_nil, or_false] at hj
    rcases hj with rfl | rfl | rfl
    · exact aLd_runs hq rfl (if_pos (h.imp_right .inl))
    · exact aSt_runs hq rfl rfl rfl (if_pos (h.imp_right fun h => by rw [notStore h]; rfl))
    · exact aPref_illegal hq rfl (h.imp_right .inl)
  · exact aLd_runs hq rfl (if_pos (.inr (.inr (neither h1 h3))))
  · exact aSt_runs hq rfl rfl rfl (if_pos (.inr (by rw [Bool.not_eq_true', Bool.eq_false_iff]; exact fun hs => by have := (isStore_iff.1 hs).2; rw [h] at this; cases this)))
  · exact aPref_illegal hq rfl (.inr (.inr (neither h1 h2)))
  · have hc : ¬(n = 0 ∨ t.st ≠ .opened ∨ (!(dKind d = 1 || dKind d = 3)) = true) := by
      rintro (h | h | h)
      · exact h0 h
      · exact h ho
      · exact not_neither hk h
    refine ⟨fun hd => aLd_runs hq rfl ((if_neg hc).trans (if_pos hd)), fun ps u w hd hp hr => ?_⟩
    have hrun : ∀ {z}, s.issueLoad st b n.toNat = .ok z → runs (.aLd st b n q) s z := fun hz =>
      aLd_runs hq rfl ((if_neg hc).trans ((if_neg (Nat.not_le.2 hd)).trans hz))
    obtain ⟨h1, h2⟩ := State.issueLoad_issues (st := st) (b := b) (n := n.toNat) rfl rfl rfl hp hr
    exact ⟨fun h => (h1 h).imp fun z hz => ⟨hrun hz.1, hz.2⟩, fun l y hs hp0 hy => (h2 l y hs hp0 hy).imp fun z hz => ⟨hrun hz.1, hz.2⟩⟩
  · exact aSt_runs hq rfl rfl rfl ((if_neg (legal h0 ho)).trans (if_pos (List.isEmpty_iff.2 he)))
  · exact aSt_issues hq rfl rfl rfl (legal h0 ho) he hp (State.storeScale_ok hv) hvt
  · simp only [List.mem_cons, List.not_mem_nil, or_false] at hj
    rcases hj with rfl | rfl
    · refine aGath_runs hq rfl (if_pos (h.imp_right (.imp_right (.imp (fun h => by rw [h]; rfl) fun h => ?_))))
      rcases h with h | h
      · rw [show dataOk (s.cx.stream st).desc = false from h, Bool.and_false]; rfl
      · rw [beq_eq_false_iff_ne.2 (show (s.cx.stream st).st ≠ .opened from h)]; rfl
    · refine aScat_runs hq rfl (if_pos (h.imp_right (.imp_right (.imp (fun h => by rw [h]; rfl) fun h => ?_))))
      rcases h with h | h
      · exact .inr (by rw [h]; rfl)
      · exact .inl (by rw [notStore h]; rfl)
  · exact aGath_runs hq rfl ((if_neg (gath_legal h0 hne hok hdata ho hk)).trans ((if_neg (Nat.not_le.2 hd)).trans (State.indexed_poison he hpo)))
  · refine aGath_runs hq rfl (r := .error .stall) ((if_neg (gath_legal h0 hne hok hdata ho hk)).trans ?_)
    split
    · rfl
    · next hd => exact State.indexed_empty (h.resolve_left hd)
  · refine aScat_runs hq rfl (r := .error .stall) ((if_neg (scat_legal h0 hne hok hdata ho)).trans ?_)
    split
    · rfl
    · next hd => exact State.indexed_empty (h.resolve_left fun h => hd (List.isEmpty_iff.2 h))
  · exact aScat_runs hq rfl ((if_neg (scat_legal h0 hne hok hdata ho)).trans ((if_neg fun h => hne' (List.isEmpty_iff.1 h)).trans (State.indexed_poison he hpo)))
  · exact aGath_issues hq rfl rfl (gath_legal h0 hne hok hdata ho hk) hd he hpo hps hr hw
  · exact aScat_issues hq rfl rfl (scat_legal h0 hne hok hdata ho) he hpo hy hps hu
  · have hz := Prefetched.groups s b (s.cx.stream st).desc n.toNat
    refine ⟨_, congrArg Host.Outcome.next ((s.aRun_on q 1 _ hq).trans (congrArg (s.finish .a 1) (if_neg ?_))), hz.cx, hz.latest⟩
    rintro (h | h | h)
    · exact h0 h
    · exact h ho
    · exact not_neither hk h

/-- Settles O60: opening and closing a stream, and the groups that a.ld, a.st, a.gath, a.scat and a.pref issue. -/
theorem streams : Obligations.Streams := ⟨streamsOpenClose, streamGroupsIssue⟩

end Sys2Proof.Machine
end

section
/-! tlbinv and cinv (R54, R230, R346, R347, R368). -/

namespace Sys2Proof.Machine
open Sys2Proof Sys2Proof.Claims

variable {s t u : State} {cells : List Nat} {gone : TlbE → Bool}

/-! The buffered stores of several contexts. -/

/-- The buffered stores of some contexts, cell and number, are performed in turn. -/
def State.drainList (s : State) (l : List (Nat × Nat)) : State := l.foldl (fun s p => s.drainCtx p.1 p.2) s

/-- The contexts of some cells. -/
def ctxsOf (cells : List Nat) : List (Nat × Nat) := cells.flatMap fun c => [(c, 0), (c, 1), (c, 2), (c, 3)]

theorem mem_ctxsOf {c k : Nat} : (c, k) ∈ ctxsOf cells ↔ c ∈ cells ∧ k < 4 := by
  simp only [ctxsOf, List.mem_flatMap, List.mem_cons, Prod.mk.injEq, List.not_mem_nil, or_false]
  constructor
  · rintro ⟨d, hd, h⟩
    rcases h with ⟨rfl, rfl⟩ | ⟨rfl, rfl⟩ | ⟨rfl, rfl⟩ | ⟨rfl, rfl⟩ <;> exact ⟨hd, by omega⟩
  · rintro ⟨hc, hk⟩
    exact ⟨c, hc, by omega⟩

theorem State.drainCells_eq (s : State) (cells : List Nat) : s.drainCells cells = s.drainList (ctxsOf cells) := by
  unfold State.drainCells State.drainList ctxsOf
  rw [List.foldl_flatMap]
  rfl

theorem State.drainList_sb (s : State) (l : List (Nat × Nat)) (c k : Nat) :
    ((s.drainList l).ctx c k).sb = if (c, k) ∈ l then [] else (s.ctx c k).sb := by
  induction l generalizing s with
  | nil => rfl
  | cons p l ih =>
    have hsb : ((s.drainCtx p.1 p.2).ctx c k).sb = if (c, k) = p then [] else (s.ctx c k).sb := by
      rw [State.drainCtx_ctx]
      simp only [Prod.ext_iff, eq_comm (a := c), eq_comm (a := k)]
      split <;> rfl
    refine (ih _).trans ?_
    simp only [hsb, List.mem_cons]
    split_ifs <;> tauto

/-- A store leaves the instruction TLBs. -/
theorem State.drainEntry_itlb (s : State) (cell ctx c : Nat) (e : SbLine) : ((s.drainEntry cell ctx e).cell c).itlb = (s.cell c).itlb := by
  unfold State.drainEntry
  extract_lets x s1 s2
  have h := ((s2.homeWrite_onlyMemory e.line e.writes).trans (State.allocIn_onlyMemory _ e.bank (s2.cell cell).tag)).cells
  rw [cell_of_cells h]
  have put : ∀ (u : State) (z : Cell), z.itlb = (u.cell cell).itlb → ((u.setCell cell z).cell c).itlb = (u.cell c).itlb := fun u z hz => by
    rw [State.setCell_cell]
    split
    · next h => rw [hz, h]
    · rfl
  exact (put s1 ((s1.cell cell).l1Update e) rfl).trans (put s _ rfl)

theorem State.drainList_itlb (s : State) (l : List (Nat × Nat)) (c : Nat) : ((s.drainList l).cell c).itlb = (s.cell c).itlb :=
  foldl_keeps (fun t : State => (t.cell c).itlb = (s.cell c).itlb) _ l s rfl fun t _ h =>
    (foldl_keeps (fun u : State => (u.cell c).itlb = (t.cell c).itlb) _ _ t rfl fun u e h => (u.drainEntry_itlb _ _ c e).trans h).trans h

theorem State.drainList_cur (s : State) (l : List (Nat × Nat)) : (s.drainList l).cur = s.cur :=
  foldl_keeps (fun t : State => t.cur = s.cur) _ l s rfl fun t p h => (t.drainCtx_access p.1 p.2).cur.trans h

/-- Each byte is as before, where no buffer covers it, or that of a buffer that covers it. -/
theorem State.drainList_latest (s : State) (l : List (Nat × Nat)) (h : ∀ p ∈ l, ∀ e ∈ (s.ctx p.1 p.2).sb, s.slotPages e.line = []) (x : Nat) :
    ((s.drainList l).latest x = s.latest x ∧ ∀ p ∈ l, buffered (s.ctx p.1 p.2).sb x = none)
      ∨ ∃ p ∈ l, buffered (s.ctx p.1 p.2).sb x = some ((s.drainList l).latest x) := by
  induction l generalizing s with
  | nil => exact .inl ⟨rfl, fun p hp => absurd hp List.not_mem_nil⟩
  | cons p l ih =>
    have hctx := s.drainCtx_ctx p.1 p.2
    have hlatest := s.drainCtx_latest p.1 p.2 (h p List.mem_cons_self) x
    have hslots := (s.drainCtx_access p.1 p.2).slotPages
    rw [State.drainList, List.foldl_cons, ← State.drainList]
    rcases ih (s.drainCtx p.1 p.2) fun q hq e he => by
      rw [hslots]
      rw [hctx] at he
      split at he
      · exact absurd he List.not_mem_nil
      · exact h q (List.mem_cons_of_mem _ hq) e he with ⟨h1, h2⟩ | ⟨q, hq, hb⟩
    · rw [h1, hlatest]
      cases hp : buffered (s.ctx p.1 p.2).sb x with
      | some v => exact .inr ⟨p, List.mem_cons_self, hp⟩
      | none =>
        refine .inl ⟨rfl, fun q hq => ?_⟩
        rcases List.mem_cons.1 hq with rfl | hq
        · exact hp
        · have := h2 q hq
          rw [hctx] at this
          split at this
          · next e => rw [← e.1, ← e.2]; exact hp
          · exact this
    · rw [hctx] at hb
      split at hb
      · exact absurd hb (by simp [buffered])
      · exact .inr ⟨q, List.mem_cons_of_mem _ hq, hb⟩

theorem State.drainCells_performed (s : State) (cells : List Nat) : storesPerformed s (s.drainCells cells) cells := by
  rw [State.drainCells_eq]
  refine ⟨fun c hc k hk => by rw [State.drainList_sb, if_pos (mem_ctxsOf.2 ⟨hc, hk⟩)], fun h x => ?_⟩
  rcases s.drainList_latest (ctxsOf cells) (fun p hp => h p.1 (mem_ctxsOf.1 hp).1 p.2 (mem_ctxsOf.1 hp).2) x with ⟨h1, h2⟩ | ⟨p, hp, hb⟩
  · exact .inl ⟨h1, fun c hc k hk => h2 (c, k) (mem_ctxsOf.2 ⟨hc, hk⟩)⟩
  · exact .inr ⟨p.1, (mem_ctxsOf.1 hp).1, p.2, (mem_ctxsOf.1 hp).2, hb⟩

/-- What comes after changes no context and no byte. -/
theorem performed_after (h : storesPerformed s t cells) (hx : ∀ c k, (u.ctx c k).sb = (t.ctx c k).sb) (hl : ∀ x, u.latest x = t.latest x) :
    storesPerformed s u cells := by
  refine ⟨fun c hc k hk => (hx c k).trans (h.1 c hc k hk), fun hs x => ?_⟩
  rw [hl]
  exact h.2 hs x

/-! The TLBs. -/

/-- A cell's TLBs and its group's lose entries. -/
def State.dropTlb (s : State) (gone : TlbE → Bool) (c : Nat) : State :=
  let k := s.cell c
  let s := s.setCell c { k with itlb := keepTlb gone k.itlb, dtlb := keepTlb gone k.dtlb }
  { s with l2tlbs := mput s.l2tlbs (tlbGroup c) (keepTlb gone (mget [] s.l2tlbs (tlbGroup c))) }

theorem State.dropTlb_cell (s : State) (c d : Nat) :
    (s.dropTlb gone c).cell d = if c = d then { s.cell d with itlb := keepTlb gone (s.cell d).itlb, dtlb := keepTlb gone (s.cell d).dtlb } else s.cell d := by
  refine (s.setCell_cell c d _).trans ?_
  split
  · next h => rw [h]
  · rfl
theorem State.dropTlb_ctx (s : State) (c d k : Nat) : (s.dropTlb gone c).ctx d k = s.ctx d k := by
  rw [State.ctx, State.dropTlb_cell]
  split <;> rfl
theorem State.dropTlb_l2 (s : State) (c d : Nat) :
    mget [] (s.dropTlb gone c).l2tlbs d = if tlbGroup c = d then keepTlb gone (mget [] s.l2tlbs d) else mget [] s.l2tlbs d := by
  refine (mget_mput _ _ _ _ _).trans ?_
  split
  · next h => rw [h]; rfl
  · rfl

/-- The entries that serve a cell. -/
def State.tlbsOf (s : State) (c : Nat) : List TlbE := (s.cell c).itlb ++ (s.cell c).dtlb ++ mget [] s.l2tlbs (tlbGroup c)

theorem mem_keepTlb {e : TlbE} {l : List TlbE} : e ∈ keepTlb gone l ↔ e ∈ l ∧ gone e = false := by simp [keepTlb]

theorem State.dropTlb_mem (s : State) (c d : Nat) (e : TlbE) (h : e ∈ (s.dropTlb gone c).tlbsOf d) : e ∈ s.tlbsOf d ∧ (c = d → gone e = false) := by
  simp only [State.tlbsOf, State.dropTlb_cell, State.dropTlb_l2, List.mem_append] at h ⊢
  by_cases hc : c = d
  · subst hc
    simp only [if_pos, mem_keepTlb] at h
    exact ⟨by tauto, fun _ => by tauto⟩
  · refine ⟨?_, fun e => absurd e hc⟩
    simp only [if_neg hc] at h
    split at h
    · rw [mem_keepTlb] at h
      tauto
    · exact h

theorem State.dropTlbs_mem (s : State) (cells : List Nat) (d : Nat) (e : TlbE) (h : e ∈ (s.dropTlbs cells gone).tlbsOf d) :
    e ∈ s.tlbsOf d ∧ (d ∈ cells → gone e = false) := by
  induction cells generalizing s with
  | nil => exact ⟨h, fun hd => absurd hd List.not_mem_nil⟩
  | cons c cells ih =>
    obtain ⟨h1, h2⟩ := ih (s.dropTlb gone c) h
    obtain ⟨h3, h4⟩ := s.dropTlb_mem c d e h1
    exact ⟨h3, fun hd => (List.mem_cons.1 hd).elim (fun hd => h4 hd.symm) h2⟩

theorem State.dropTlbs_one (s : State) (c : Nat) : (s.dropTlbs [c] gone).cell c = { s.cell c with itlb := keepTlb gone (s.cell c).itlb, dtlb := keepTlb gone (s.cell c).dtlb } :=
  (s.dropTlb_cell c c).trans (if_pos rfl)

theorem State.dropTlbs_ctx (s : State) (cells : List Nat) (c k : Nat) : (s.dropTlbs cells gone).ctx c k = s.ctx c k :=
  foldl_keeps (fun t : State => t.ctx c k = s.ctx c k) _ cells s rfl fun t d h => (t.dropTlb_ctx d c k).trans h
theorem State.dropTlbs_latest (s : State) (cells : List Nat) (x : Nat) : (s.dropTlbs cells gone).latest x = s.latest x :=
  foldl_keeps (fun t : State => t.latest x = s.latest x) _ cells s rfl fun _ _ h => h
theorem State.dropTlbs_cur (s : State) (cells : List Nat) : (s.dropTlbs cells gone).cur = s.cur :=
  foldl_keeps (fun t : State => t.cur = s.cur) _ cells s rfl fun _ _ h => h

/-! The stager's translations are read again: speculative reads (R380). -/

theorem State.stagePage_peeks (s : State) (pid : Nat) (need : Need) (lodge : Bool) (va : Word) : Peeks s (s.stagePage pid need lodge va).1 := by
  have h := Peeks.translate s pid none false need va
  unfold State.stagePage
  split <;> next e => rw [e] at h; exact h

theorem State.stagePages_peeks (s : State) (pid : Nat) (g : Stager) : Peeks s (s.stagePages pid g).1 := by
  unfold State.stagePages
  refine foldl_keeps (fun r : State × SMap Nat => Peeks s r.1) _ _ _ (.refl s) fun r n h => foldl_keeps (fun r : State × SMap Nat => Peeks s r.1) _ _ _ h fun r v h => ?_
  have hp := h.trans (r.1.stagePage_peeks pid .write false v)
  split <;> next e => rw [e] at hp; exact hp

/-- All that the stager's reading leaves. -/
theorem State.restage_keeps (s : State) (pid : Nat) : (s.restage pid).cells = s.cells ∧ (s.restage pid).l2tlbs = s.l2tlbs ∧ (∀ x, (s.restage pid).latest x = s.latest x)
    ∧ ((s.restage pid).part pid).s1olds = (s.part pid).s1olds ∧ ((s.restage pid).part pid).ploldl = (s.part pid).ploldl := by
  unfold State.restage
  split
  · exact ⟨rfl, rfl, fun _ => rfl, rfl, rfl⟩
  next g _ =>
  split
  · exact ⟨rfl, rfl, fun _ => rfl, rfl, rfl⟩
  have h := s.stagePages_peeks pid g
  generalize s.stagePages pid g = r at h ⊢
  obtain ⟨hm, hl⟩ := h
  have hp : r.1.part pid = s.part pid := by rw [State.part, hm.parts]; rfl
  refine ⟨hm.cells, by have e := congrArg State.l2tlbs hm.rest; exact e, hl, ?_, ?_⟩ <;> simp [State.setPart_part, hp]

/-! Which invalidations wait. -/

section Invalidate
variable {users : List Nat} {copyUses : Copy → Bool}

/-- What the groups and the saves of a cell hold. -/
def State.usesTlb (s : State) (c : Nat) : Prop := (s.cell c).groupsFly = true ∨ ∃ k < 4, (s.ctx c k).taken ≠ none ∧ s.isTaken c k = true

theorem State.usesTlb_iff (s : State) (c : Nat) : ((s.cell c).groupsFly || s.savesAt c) = true ↔ s.usesTlb c := by
  have taken : ∀ k, s.isTaken c k = true → (s.ctx c k).taken ≠ none := fun k h e => by simp [State.isTaken, e] at h
  rw [Bool.or_eq_true, State.usesTlb, State.savesAt, List.any_eq_true]
  refine or_congr_right ⟨fun ⟨k, hk, h⟩ => ⟨k, by simp only [List.mem_cons, List.not_mem_nil, or_false] at hk; omega, taken k h, h⟩, fun ⟨k, hk, _, h⟩ => ⟨k, ?_, h⟩⟩
  simp only [List.mem_cons, List.not_mem_nil, or_false]; omega

theorem State.invalidate_waits (h : (∃ c ∈ users, s.usesTlb c) ∨ ∃ c ∈ s.copies, copyUses c = true) : s.invalidate users cells gone copyUses = .error .stall := by
  refine if_pos ?_
  rw [Bool.or_eq_true, List.any_eq_true, List.any_eq_true]
  exact h.imp_left fun ⟨c, hc, h⟩ => ⟨c, hc, (s.usesTlb_iff c).2 h⟩

theorem State.invalidate_goes (h : ∀ c ∈ users, ¬s.usesTlb c) (hc : ∀ c ∈ s.copies, copyUses c = false) :
    s.invalidate users cells gone copyUses = .ok ((s.drainCells users).dropTlbs cells gone) := by
  refine if_neg ?_
  rw [Bool.or_eq_true, List.any_eq_true, List.any_eq_true]
  rintro (⟨c, hc, h'⟩ | ⟨c, h1, h2⟩)
  · exact h c hc ((s.usesTlb_iff c).1 h')
  · rw [hc c h1] at h2; cases h2

theorem State.invalidated_performed (s : State) : storesPerformed s ((s.drainCells users).dropTlbs cells gone) users :=
  performed_after (s.drainCells_performed users) (fun c k => by rw [State.dropTlbs_ctx]) (State.dropTlbs_latest _ _)

end Invalidate

/-- Settles O19: what each invalidation waits for, drops and performs. -/
theorem invalidations : Obligations.Invalidations := by
  unfold Obligations.Invalidations
  intro s a g ⟨hk, hg, hs⟩ uses quiet near all
  have run : ∀ {i rs} {body : State → Act State}, exec i s = .next (s.xPriv g rs body) → (∀ r ∈ rs, r ∈ [a]) → exec i s = .next (s.finish .x 1 (body s)) := fun he hr =>
    he.trans (congrArg _ ((s.xPriv_k g _ _ hk).trans (xRun_settled hg hs hr)))
  have goes : ∀ {i t r}, exec i s = .next (s.finish .x 1 r) → r = .ok t → runs i s (t.retire .x 1) := fun h e => by rw [e] at h; exact h
  have waits : ∀ {i r}, exec i s = .next (s.finish .x 1 r) → r = .error .stall → runs i s s := fun h e => by rw [e] at h; exact h
  have none : ∀ r ∈ ([] : List RegG), r ∈ [a] := fun r hr => absurd hr List.not_mem_nil
  have hall := run (i := .xTlbinvAll g) rfl none
  have hva := run (i := .xTlbinvVa a g) rfl fun _ h => h
  have hpart := run (i := .xTlbinvPart g) rfl none
  refine ⟨fun hq hc => ?_, fun h => waits hall (State.invalidate_waits (h.imp_right ?_)), fun hq hc => ⟨?_, ?_⟩, fun h => ⟨?_, ?_⟩, ?_, ?_, ?_⟩
  · have hcur : ((s.drainCells near).dropTlbs [s.cur.cell] fun e => e.part == s.pid).cur = s.cur :=
      (State.dropTlbs_cur _ _).trans (by rw [State.drainCells_eq, State.drainList_cur])
    refine ⟨_, goes hall (State.invalidate_goes hq fun c h => ?_), fun e he => ?_, fun e he hp => ?_, State.invalidated_performed s⟩
    · simpa [imp_iff_not_or] using hc c h
    · rw [State.cl, hcur] at he
      simpa using (State.dropTlbs_mem _ _ _ _ he).2 List.mem_cons_self
    · rw [State.cl, hcur, State.dropTlbs_one, mem_keepTlb, State.drainCells_eq, State.drainList_itlb]
      exact ⟨he, beq_eq_false_iff_ne.2 hp⟩
  · rintro ⟨c, hc, h1, h2⟩
    exact ⟨c, hc, by simp [h1, h2]⟩
  · have hr := State.restage_keeps ((s.drainCells all).dropTlbs all fun e => e.part == s.pid && e.vbase ≤ (s.cx.gr a).toNat && (s.cx.gr a).toNat < e.vbase + e.size) s.pid
    obtain ⟨hcells, hl2, hlat, -, -⟩ := hr
    refine ⟨_, goes hva (congrArg (Except.map fun t : State => t.restage s.pid) (State.invalidate_goes hq fun c h => beq_eq_false_iff_ne.2 (hc c h))),
      performed_after (State.invalidated_performed s) (fun c k => by rw [State.ctx, cell_of_cells hcells]; rfl) hlat, fun c hc e he => ?_⟩
    rw [hl2, cell_of_cells hcells] at he
    simpa using (State.dropTlbs_mem _ _ _ _ he).2 hc
  · obtain ⟨hcells, hl2, hlat, hs1, hpl⟩ := State.restage_keeps (((s.drainCells all).dropTlbs all fun e => e.part == s.pid).setPart s.pid
      { ((s.drainCells all).dropTlbs all fun e => e.part == s.pid).part s.pid with s1olds := [], ploldl := [] }) s.pid
    refine ⟨_, goes hpart (congrArg (Except.map fun t : State => (t.setPart s.pid { t.part s.pid with s1olds := [], ploldl := [] }).restage s.pid)
      (State.invalidate_goes hq fun c h => beq_eq_false_iff_ne.2 (hc c h))), ?_, ?_,
      performed_after (State.invalidated_performed s) (fun c k => by rw [State.ctx, cell_of_cells hcells]; rfl) hlat, fun c hc e he => ?_⟩
    · refine hs1.trans ?_
      rw [State.setPart_part, if_pos rfl]
    · refine hpl.trans ?_
      rw [State.setPart_part, if_pos rfl]
    · rw [hl2, cell_of_cells hcells] at he
      simpa using (State.dropTlbs_mem _ _ _ _ he).2 hc
  · exact waits hva (congrArg (Except.map fun t : State => t.restage s.pid) (State.invalidate_waits (h.imp_right fun ⟨c, hc, h⟩ => ⟨c, hc, beq_iff_eq.2 h⟩)))
  · exact waits hpart (congrArg (Except.map fun t : State => (t.setPart s.pid { t.part s.pid with s1olds := [], ploldl := [] }).restage s.pid)
      (State.invalidate_waits (h.imp_right fun ⟨c, hc, h⟩ => ⟨c, hc, beq_iff_eq.2 h⟩)))
  · refine ⟨_, goes (run rfl none) rfl, ?_, ?_, ?_, ?_⟩
    · rw [State.setCl_cl]
    · rw [State.setCl_cl]
    · exact State.setCl_cx s rfl
    · rw [State.setCl_cl]
  · exact ⟨_, goes (run rfl none) rfl, s.drainCells_performed _⟩
  · refine ⟨_, goes (run rfl none) rfl, by rw [State.setCl_cl], fun h => ⟨?_, fun x => s.drainCtx_latest _ _ h x⟩⟩
    rw [State.setCl_cx, s.rel_cx]
    rfl

end Sys2Proof.Machine
end

section
/-! LINE_FETCH and JOIN_RENDEZVOUS (R53, R54, R73, R124, R168, R171, R173). -/

namespace Sys2Proof.Machine
open Sys2Proof Sys2Proof.Claims

variable {s t u v z : State} {cell ctx : Nat} {e : Eng} {b : BitVec 256} {l : Slot}

/-! The fetch of a line. -/

theorem State.fetchLine_of_lineOf {km : Bool} {p : Slot} (h : lineOf s cell km p b u) : s.fetchLine cell km p = .ok (b, u) := by
  rcases h with ⟨l, h1, rfl, rfl⟩ | ⟨-, h⟩
  · unfold State.fetchLine
    dsimp only
    rw [h1]
  · exact h

section Missed
variable {km : Bool} {p : Slot} {m : Loc} (hm : (s.cell cell).istoreHit km (lineSlot p) = none)
include hm

theorem State.fetchLine_fault {w : Why} (hx : s.xlate cell km .fetch (slotAddr (lineSlot p)) = .error (w, u)) :
    s.fetchLine cell km p = .error (.fault { w with acc := 0 }, u) := by
  unfold State.fetchLine
  dsimp only
  rw [hm]
  dsimp only
  rw [hx]

variable (hx : s.xlate cell km .fetch (slotAddr (lineSlot p)) = .ok (m, u))
include hx

theorem State.fetchLine_pending {src step : Nat} (hst : u.stageAt (s.cell cell).tag m.pa = some (.pending src step)) :
    s.fetchLine cell km p = .error (.pending m.pa, u) := by
  unfold State.fetchLine
  dsimp only
  rw [hm]
  dsimp only
  rw [hx]
  dsimp only
  rw [hst]

theorem State.fetchLine_poison (hst : u.stageAt (s.cell cell).tag m.pa = none) (hp : u.poisoned (m.pa / 64) = true) :
    ∃ v, s.fetchLine cell km p = .error (.fault (whyOf 0x13 0 (slotAddr (lineSlot p))), v) := by
  have hr : (u.homeRead m.pa 32).2.2 = true := by simp [State.homeRead, hp]
  unfold State.fetchLine
  dsimp only
  rw [hm]
  dsimp only
  rw [hx]
  dsimp only
  rw [hst]
  exact ⟨_, if_pos hr⟩

/-- A line in memory. -/
theorem State.fetchLine_home (hst : u.stageAt (s.cell cell).tag m.pa = none) (hp : u.poisoned (m.pa / 64) = false) (ha : m.pa % 32 = 0) :
    ∃ v, s.fetchLine cell km p = .ok (BitVec.ofNat 256 (leNat (bytesAt u m.pa 32)), v) ∧ ∀ x, v.memByte x = u.memByte x := by
  have hr : (u.homeRead m.pa 32).2.2 = false := by
    simp only [State.homeRead, show (m.pa + 32 - 1) / 64 = m.pa / 64 by omega, hp, Bool.or_false]
  have hv : ∀ x, (((u.homeRead m.pa 32).1.throughRdc cell m).allocIn (homeBank m) (s.cell cell).tag).memByte x = u.memByte x := fun x => by simp
  unfold State.fetchLine
  dsimp only
  rw [hm]
  dsimp only
  rw [hx]
  dsimp only
  rw [hst]
  exact ⟨_, if_neg (by rw [hr]; exact Bool.false_ne_true), hv⟩

end Missed

/-! An engine that waited for a tile acquires (R124). -/

theorem State.tileCame_idle (h : ((u.ctx cell ctx).eng e).waited = none) : u.tileCame cell ctx e = u := by
  rw [State.tileCame, h]
  rfl
theorem State.tileCame_waited (h : ((u.ctx cell ctx).eng e).waited ≠ none) :
    ((u.tileCame cell ctx e).ctx cell ctx).eng e = { (u.ctx cell ctx).eng e with horizon := u.now } := by
  rw [State.tileCame, if_pos (Option.isSome_iff_ne_none.2 h), State.acquire, State.setCtx_ctx_self, Ctx.setEng_eng_self]
theorem State.tileCame_mem (u : State) (cell ctx : Nat) (e : Eng) : (u.tileCame cell ctx e).mem = u.mem := by
  unfold State.tileCame
  split <;> rfl

/-! The check of a target that comes late (R173). -/

theorem Ctx.setEng_gr (x : Ctx) (e : Eng) (c : EngC) (r : RegG) : (x.setEng e c).gr r = x.gr r := by cases e <;> rfl

theorem Ctx.undoBranch_eng (x : Ctx) (e : Eng) (r : Unchecked) :
    (x.undoBranch e r).eng e = { x.eng e with pc := r.src, line := r.line, passed := r.passed, unchecked := none } := Ctx.setEng_eng_self _ e _
/-- The link of a call that is undone has its old value again. -/
theorem Ctx.undoBranch_gr (x : Ctx) (e : Eng) (r : Unchecked) : (∀ old, r.link = some old → (x.undoBranch e r).gr 31 = old)
    ∧ ∀ d, d ≠ 31 ∨ r.link = none → (x.undoBranch e r).gr d = x.gr d := by
  unfold Ctx.undoBranch
  simp only [Ctx.setEng_gr, Ctx.putLink]
  refine ⟨fun old h => ?_, fun d h => ?_⟩
  · rw [h, Option.elim_some, Ctx.setG_gr, if_pos ⟨rfl, by decide⟩]
  · cases hl : r.link with
    | none => rfl
    | some w => rw [Option.elim_some, Ctx.setG_gr, if_neg fun e => h.resolve_right (by rw [hl]; exact Option.some_ne_none w) e.1]

/-- An engine whose check is over. -/
theorem State.checkLate_passes (h : ∀ r, ¬lateFails ((z.ctx cell ctx).eng e) e b r) : ∃ w, z.checkLate cell ctx e b = (w, some b)
    ∧ (w.ctx cell ctx).eng e = { (z.ctx cell ctx).eng e with unchecked := none } ∧ w.mem = z.mem ∧ ∀ x, (w.ctx cell ctx).gr x = (z.ctx cell ctx).gr x := by
  unfold State.checkLate
  dsimp only
  cases hu : ((z.ctx cell ctx).eng e).unchecked with
  | none => exact ⟨z, rfl, by rw [← hu], rfl, fun _ => rfl⟩
  | some r =>
    refine ⟨_, if_pos ?_, ?_, rfl, fun x => ?_⟩
    · by_contra hn
      rw [not_or, not_not] at hn
      exact h r ⟨hu, hn.1, by simpa [targetOk] using hn.2⟩
    · rw [State.setCtx_ctx_self, Ctx.setEng_eng_self]
    · rw [State.setCtx_ctx_self, Ctx.setEng_gr]

/-- An engine that has its line. -/
theorem State.haveLine_eng (w : State) (cell ctx : Nat) (e : Eng) (b : BitVec 256) :
    ((w.haveLine cell ctx e b).ctx cell ctx).eng e = { (w.ctx cell ctx).eng e with line := some (lineSlot ((w.ctx cell ctx).eng e).pc, b), waited := none } := by
  rw [State.haveLine, State.setCtx_ctx_self, Ctx.setEng_eng_self]
theorem State.haveLine_gr (w : State) (cell ctx : Nat) (e : Eng) (b : BitVec 256) (x : RegG) :
    ((w.haveLine cell ctx e b).ctx cell ctx).gr x = (w.ctx cell ctx).gr x := by
  rw [State.haveLine, State.setCtx_ctx_self, Ctx.setEng_gr]

/-- An engine that meets a pending staging slot waits there. -/
theorem State.noteLate_keeps (s : State) (e : Eng) (pa : Nat) : ((s.noteLate e false pa).cx.eng e).waited = some pa
    ∧ ((s.noteLate e false pa).cx.eng e).line = (s.cx.eng e).line ∧ ((s.noteLate e false pa).cx.eng e).pc = (s.cx.eng e).pc ∧ (s.noteLate e false pa).cur = s.cur := by
  unfold State.noteLate
  dsimp only
  split
  · next h => exact ⟨h, rfl, rfl, rfl⟩
  · have hm := State.countLate_onlyMemory (s.setCx (s.cx.setEng e { s.cx.eng e with waited := some pa })) s.pid
    rw [Bool.false_and, if_neg Bool.false_ne_true, hm.cx, State.setCx_cx, Ctx.setEng_eng_self]
    exact ⟨rfl, rfl, rfl, hm.cur⟩

/-! The rendezvous (R73, R171). -/

/-- The place of an engine in the list of the three. -/
theorem mem_engs (e : Eng) : e ∈ [Eng.x, .a, .m] := by cases e <;> simp

/-- The first answer of elements that all answer alike. -/
theorem findSome?_const {α β : Type} {f : α → Option β} {w : Option β} : ∀ {l : List α}, (∀ a ∈ l, f a = w) → l ≠ [] → l.findSome? f = w
  | [], _, h => absurd rfl h
  | a :: l, hall, _ => by
    rw [List.findSome?_cons, hall a List.mem_cons_self]
    cases w with
    | some v => rfl
    | none => exact List.findSome?_eq_none_iff.2 fun c hc => hall c (List.mem_cons_of_mem _ hc)

theorem EngC.joinsAt_iff {c : EngC} : c.joinsAt l = true ↔ c.st = .running ∧ c.joining = true ∧ lineSlot c.pc = l := by
  simp [EngC.joinsAt, and_assoc]

/-- Every engine with lanes in a line waits at it. -/
def Ctx.allAt (x : Ctx) (b : BitVec 256) (l : Slot) : Bool := [Eng.x, .a, .m].all fun f => (firstLane b f 1).isNone || (x.eng f).joinsAt l

theorem Ctx.allAt_iff {x : Ctx} : x.allAt b l = true ↔ ∀ e, (firstLane b e 1).isSome = true → (x.eng e).joinsAt l = true := by
  have one : ∀ e, ((firstLane b e 1).isNone || (x.eng e).joinsAt l) = true ↔ ((firstLane b e 1).isSome = true → (x.eng e).joinsAt l = true) := fun e => by
    cases firstLane b e 1 <;> simp
  rw [Ctx.allAt, List.all_eq_true]
  exact ⟨fun h e => (one e).1 (h e (mem_engs e)), fun h e _ => (one e).2 (h e)⟩

/-- The line at which every engine that waits, waits. -/
theorem Ctx.meeting_eq {x : Ctx} (he : ∃ e, (x.eng e).joinsAt l = true)
    (h : ∀ e, (x.eng e).st = .running → (x.eng e).joining = true → (x.eng e).joinsAt l = true ∧ (x.eng e).line = some (l, b)) :
    x.meeting = if x.allAt b l then some l else none := by
  refine findSome?_const (fun e hm => ?_) ?_
  · obtain ⟨-, hr⟩ := List.mem_filter.1 hm
    rw [Bool.and_eq_true, beq_iff_eq] at hr
    obtain ⟨hj, hl⟩ := h e hr.1 hr.2
    have hat : (l == lineSlot (x.eng e).pc && x.allAt b l) = x.allAt b l := by rw [(EngC.joinsAt_iff.1 hj).2.2, beq_self_eq_true, Bool.true_and]
    rw [hl, ← hat]
    rfl
  · obtain ⟨e, he⟩ := he
    obtain ⟨h1, h2, -⟩ := EngC.joinsAt_iff.1 he
    exact List.ne_nil_of_mem (List.mem_filter.2 ⟨mem_engs e, by rw [h1, h2]; rfl⟩)

theorem Ctx.joinWaits_iff {x : Ctx} : x.joinWaits = true ↔ x.ea.st = .running ∧ x.ea.joining = true ∧ (x.loadsFly = true ∨ x.storesFly = true) := by
  simp [Ctx.joinWaits, and_assoc]

/-- Settles O23: an engine has its line or its fault; a rendezvous releases those that have met. -/
theorem linesAndJoins : Obligations.LinesAndJoins := by
  unfold Obligations.LinesAndJoins
  constructor
  · intro s cell ctx e hmv htk i c km hmiss
    have hrun : ∀ {t}, (s.takeLine cell ctx e).1 = t → runs i s t := fun h => by
      refine congrArg Host.Outcome.next ?_
      rw [hmv, State.isTaken_none htk]
      exact h
    refine ⟨fun b u hb => ?_, fun u => State.tileCame_idle, fun u => State.tileCame_waited, fun hn => ⟨fun w u hx => ?_, fun l u hx => ⟨fun hst hp ha => ?_, fun hst hp => ?_, fun src step hst => ?_⟩⟩⟩
    · intro v c wrong
      obtain ⟨hbad, hgood⟩ := State.takeLine_fetched hmiss (State.fetchLine_of_lineOf hb)
      have hmem : v.mem = u.mem := State.tileCame_mem ..
      refine ⟨fun r hr hw => ?_, fun hno => ?_⟩
      · obtain ⟨hlink, hkeep⟩ := (v.ctx cell ctx).undoBranch_gr e r
        refine ⟨_, hrun (congrArg Prod.fst (hbad _ (State.checkLate_bad ⟨hr, hw⟩))), ?_, hmem, ?_, ?_⟩ <;> rw [State.setCtx_ctx_self]
        · exact Ctx.undoBranch_eng _ _ _
        · exact hlink
        · exact hkeep
      · obtain ⟨w, hw, heng, hm, hgr⟩ := State.checkLate_passes fun r (hf : lateFails ((v.ctx cell ctx).eng e) e b r) => hno r hf.1 hf.2
        obtain ⟨hok, hill⟩ := hgood w hw
        refine ⟨fun hh => ⟨w, hrun (congrArg Prod.fst (hill hh)), heng, hm.trans hmem, hgr⟩,
          fun hh => ⟨_, hrun (congrArg Prod.fst (hok hh)), hm.trans hmem, fun x => (w.haveLine_gr cell ctx e b x).trans (hgr x), ?_⟩⟩
        rw [State.haveLine_eng, heng]
    · exact hrun (congrArg Prod.fst (State.takeLine_fault hmiss (State.fetchLine_fault hn hx)))
    · exact (State.fetchLine_home hn hx hst hp ha).imp fun v hv => ⟨.inr ⟨hn, hv.1⟩, hv.2⟩
    · obtain ⟨v, hv⟩ := State.fetchLine_poison hn hx hst hp
      exact ⟨v, hrun (congrArg Prod.fst (State.takeLine_fault hmiss hv))⟩
    · have hk := State.noteLate_keeps { u with cur := ⟨cell, ctx, u.cur.core⟩ } e l.pa
      refine ⟨_, hrun (congrArg Prod.fst (State.takeLine_pending hmiss (State.fetchLine_pending hn hx hst))), ?_⟩
      obtain ⟨h1, h2, h3, h4⟩ := hk
      rw [State.cx, h4] at h1 h2 h3
      exact ⟨h1, h2, h3⟩
  · intro s cell ctx l b htk x flying he hj
    have hrun : ∀ {t}, (match x.meeting with
        | some l => if s.isTaken cell ctx || x.joinWaits then s
          else s.setCtx cell ctx { x with ex := x.ex.release l s.now, ea := x.ea.release l s.now, em := x.em.release l s.now }
        | none => s) = t → runs (.evJoinRendezvous cell ctx) s t := fun h => congrArg Host.Outcome.next h
    rw [State.isTaken_none htk, Bool.false_or, Ctx.meeting_eq he hj] at hrun
    refine ⟨fun hall hfly => ?_, fun h => ?_⟩
    · rw [if_pos (Ctx.allAt_iff.2 hall)] at hrun
      refine ⟨_, hrun (if_neg fun h => hfly (Ctx.joinWaits_iff.1 h)), fun e => ?_⟩
      rw [State.setCtx_ctx_self]
      cases e <;> rfl
    · refine hrun ?_
      rcases h with ⟨e, h1, h2⟩ | h
      · rw [if_neg fun h => by rw [Ctx.allAt_iff.1 h e h1] at h2; cases h2]
      · split
        · exact if_pos (Ctx.joinWaits_iff.2 h)
        · rfl

end Sys2Proof.Machine
end

section
/-! The end of a slice and the eviction of a quiet set (R362, R364, R366). -/

namespace Sys2Proof.Machine
open Sys2Proof Sys2Proof.Claims

variable {s t u v : State} {cells mine : List Nat}

/-! Selection stops (R364 step 1). -/

/-- Selection stops on a cell. -/
def State.deselect (s : State) (c : Nat) : State := s.setCell c { s.cell c with select := false }

theorem State.deselect_cell (s : State) (c d : Nat) : (s.deselect c).cell d = if c = d then { s.cell d with select := false } else s.cell d := by
  rw [State.deselect, State.setCell_cell]
  split
  · next h => rw [h]
  · rfl

theorem State.deselects (s : State) (cells : List Nat) : (∀ c ∈ cells, ((cells.foldl State.deselect s).cell c).select = false)
    ∧ (∀ c, ((cells.foldl State.deselect s).cell c).ctxs = (s.cell c).ctxs) := by
  induction cells generalizing s with
  | nil => exact ⟨fun _ h => absurd h List.not_mem_nil, fun _ => rfl⟩
  | cons d cells ih =>
    obtain ⟨h1, h2⟩ := ih (s.deselect d)
    refine ⟨fun c hc => ?_, fun c => (h2 c).trans ?_⟩
    · rcases List.mem_cons.1 hc with rfl | hc
      · refine foldl_keeps (fun t : State => (t.cell c).select = false) State.deselect cells (s.deselect c) ?_ fun t d h => ?_
        · rw [State.deselect_cell, if_pos rfl]
        · rw [State.deselect_cell]
          split
          · rfl
          · exact h
      · exact h1 c hc
    · rw [State.deselect_cell]
      split <;> rfl

@[simp] theorem State.setSlice_cell (s : State) (n : Nat) (x : SliceSet) (c : Nat) : (s.setSlice n x).cell c = s.cell c := rfl
@[simp] theorem State.setSlice_part (s : State) (n : Nat) (x : SliceSet) (p : Nat) : (s.setSlice n x).part p = s.part p := rfl
@[simp] theorem State.setSlice_flights (s : State) (n : Nat) (x : SliceSet) : (s.setSlice n x).flights = s.flights := rfl
@[simp] theorem State.setSlice_transfers (s : State) (n : Nat) (x : SliceSet) : (s.setSlice n x).transfers = s.transfers := rfl
@[simp] theorem State.setSlice_scrubSeq (s : State) (n : Nat) (x : SliceSet) : (s.setSlice n x).scrubSeq = s.scrubSeq := rfl
theorem State.setSlice_sliceSet (s : State) (n : Nat) (x : SliceSet) : (s.setSlice n x).sliceSet n = x := by simp [State.setSlice, State.sliceSet]

/-! What balancing has on its way is saved with the cells (R362, R366). -/

/-- A cell but for its tasks. -/
def Cell.unqueued (k : Cell) : Cell := { k with taskq := [], buckets := [], spill := [] }

/-- From s to t nothing changed but memory, the tasks of cells, the transfers, and what Belvedere is told. -/
structure Queued (s t : State) : Prop where
  cell : ∀ c, (t.cell c).unqueued = (s.cell c).unqueued
  parts : t.parts = s.parts
  flights : t.flights = s.flights
  scrubSeq : t.scrubSeq = s.scrubSeq

namespace Queued

theorem refl (s : State) : Queued s s := ⟨fun _ => rfl, rfl, rfl, rfl⟩
theorem trans (h : Queued s t) (g : Queued t u) : Queued s u :=
  ⟨fun c => (g.cell c).trans (h.cell c), g.parts.trans h.parts, g.flights.trans h.flights, g.scrubSeq.trans h.scrubSeq⟩
theorem of_onlyMemory (h : OnlyMemory s t) : Queued s t := ⟨fun c => by rw [cell_of_cells h.cells], h.parts, h.flights, h.scrubSeq⟩
theorem transfers (s : State) (l : List Transfer) : Queued s { s with transfers := l } := ⟨fun _ => rfl, rfl, rfl, rfl⟩
theorem setCell (s : State) (c : Nat) (k : Cell) (h : k.unqueued = (s.cell c).unqueued) : Queued s (s.setCell c k) := by
  refine ⟨fun d => ?_, rfl, rfl, rfl⟩
  rw [State.setCell_cell]
  split
  · next e => rw [h, e]
  · rfl
theorem foldl {β : Type} (f : State → β → State) (l : List β) (s : State) (hf : ∀ t b, Queued t (f t b)) : Queued s (l.foldl f s) :=
  foldl_keeps (fun t => Queued s t) f l s (refl s) fun t b ht => ht.trans (hf t b)

/-- What a cell holds beside its tasks. -/
theorem of_cell {α : Type} (h : Queued s t) (f : Cell → α) (hf : ∀ k, f k.unqueued = f k) (c : Nat) : f (t.cell c) = f (s.cell c) := by rw [← hf, h.cell, hf]

theorem takeTransfer (s : State) (x : Transfer) : Queued s (s.takeTransfer x).1 := by
  unfold State.takeTransfer
  dsimp only
  split
  · exact foldl _ _ s fun t p => ⟨fun _ => rfl, rfl, rfl, rfl⟩
  · exact setCell s x.dst _ rfl

theorem takeTransfers (s : State) (cells : List Nat) : Queued s (s.takeTransfers cells) := by
  refine .trans (foldl_keeps (fun a : State × List Transfer => Queued s a.1) _ s.transfers (s, []) (.refl s) fun a x h => ?_) (transfers _ _)
  split
  · exact h.trans (takeTransfer ..)
  · exact h

theorem spillTransfers (s : State) (cells : List Nat) : Queued s (s.spillTransfers cells) :=
  (transfers s _).trans (foldl _ _ _ fun t x => setCell t x.dst _ rfl)

theorem settleTransfers (s : State) (cells : List Nat) : Queued s (s.settleTransfers cells) :=
  ((takeTransfers s cells).trans (takeTransfers _ cells)).trans (spillTransfers _ cells)

end Queued

/-- The transfers left, once those to some cells are saved with them. -/
theorem State.spillTransfers_left (s : State) (cells : List Nat) : ∀ x ∈ (s.spillTransfers cells).transfers, x.dst ∈ cells → x.part = (s.cell x.dst).tag → x.work = [] := by
  have hleft : ∀ (l : List Transfer) (t : State), (l.foldl (fun (s : State) t => s.setCell t.dst { s.cell t.dst with spill := (s.cell t.dst).spill ++ t.work }) t).transfers = t.transfers :=
    fun l t => foldl_keeps (fun u : State => u.transfers = t.transfers) _ l t rfl fun _ _ h => h
  unfold State.spillTransfers
  dsimp only
  rw [hleft]
  intro x hx hd hp
  obtain ⟨y, -, hy⟩ := List.mem_map.1 (List.mem_filter.1 hx).1
  split at hy
  · rw [← hy]
  · next hn =>
    subst hy
    exact absurd (by rw [List.contains_iff_mem.2 hd, hp, beq_self_eq_true]; rfl) hn

/-- With nothing on its way to some cells their tasks stay. -/
theorem State.settleTransfers_none (h : ∀ x ∈ s.transfers, x.dst ∉ cells) (c : Nat) : (s.settleTransfers cells).cell c = s.cell c := by
  have hno : ∀ x ∈ s.transfers, cells.contains x.dst = false := fun x hx => by rw [← Bool.not_eq_true, List.contains_iff_mem]; exact h x hx
  have htake : s.takeTransfers cells = s := by
    have hfold : ∀ (l : List Transfer) (acc : List Transfer), (∀ x ∈ l, cells.contains x.dst = false) → l.foldl
        (fun (acc : State × List Transfer) t => if cells.contains t.dst then let q := acc.1.takeTransfer t; (q.1, acc.2 ++ q.2) else (acc.1, acc.2 ++ [t])) (s, acc)
          = (s, acc ++ l) := by
      intro l
      induction l with
      | nil => intro acc _; rw [List.append_nil]; rfl
      | cons x l ih =>
        intro acc hl
        rw [List.foldl_cons, hl x List.mem_cons_self]
        exact (ih _ fun y hy => hl y (List.mem_cons_of_mem _ hy)).trans (by rw [List.append_assoc]; rfl)
    unfold State.takeTransfers
    rw [hfold _ _ hno]
    rfl
  have hspill : (s.transfers.filter fun t => cells.contains t.dst && (s.cell t.dst).tag == t.part) = [] := by
    rw [List.filter_eq_nil_iff]
    intro x hx
    rw [hno x hx]
    exact Bool.false_ne_true
  rw [State.settleTransfers, htake, htake, State.spillTransfers]
  dsimp only
  rw [hspill]
  rfl

/-! The images and the scrub (R364 steps 4 to 7, R366). -/

/-- The state from which the images are taken. -/
def State.settled (s : State) (mine : List Nat) : State := mine.foldl State.spillWrite (s.settleTransfers mine)
/-- The parcels that the contexts of some cells have on their way. -/
def State.heldOut (s : State) (mine : List Nat) : List Nat := mine.flatMap fun c => (s.cell c).ctxs.flatMap fun x => x.2.out
/-- Parcels of some numbers wait in images. -/
def held (out : List Nat) (fs : List Flight) : List Flight := fs.map fun f => if f.id ∈ out then { f with leg := .image, told := true } else f
/-- A cell whose channels defer no held parcel. -/
def Cell.released (k : Cell) (out : List Nat) : Cell :=
  { k with chans := k.chans.map fun c => (c.1, { c.2 with deferred := c.2.deferred.filter fun id => decide (id ∉ out) }) }

theorem State.spillWrites_onlyMemory (s : State) (mine : List Nat) : OnlyMemory s (mine.foldl State.spillWrite s) :=
  foldl_keeps (fun t => OnlyMemory s t) _ mine s (.refl s) fun t c h => h.trans (t.spillWrite_onlyMemory c)
theorem State.settled_queued (s : State) (mine : List Nat) : Queued s (s.settled mine) :=
  (Queued.settleTransfers s mine).trans (.of_onlyMemory (State.spillWrites_onlyMemory _ mine))
theorem State.settled_heldOut (s : State) (mine l : List Nat) : (s.settled mine).heldOut l = s.heldOut l := by
  have h := (s.settled_queued mine).of_cell (·.ctxs) fun _ => rfl
  simp only [State.heldOut, h]

theorem not_contains (out : List Nat) (id : Nat) : (!out.contains id) = decide (id ∉ out) := by
  rw [List.contains_eq_mem, decide_not]
theorem State.holdFlights_flights (s : State) (out : List Nat) : (s.holdFlights out).flights = held out s.flights := by
  simp only [State.holdFlights, held, List.contains_iff_mem]
theorem State.holdFlights_cell (s : State) (out : List Nat) (c : Nat) : (s.holdFlights out).cell c = (s.cell c).released out := by
  have hmap : ∀ l : SMap Cell, mget Cell.reset (l.map fun e => (e.1, e.2.released out)) c = (mget Cell.reset l c).released out := fun l => by
    exact mget_map l (fun k => k.released out) Cell.reset c
  rw [State.cell, State.holdFlights]
  simp only [not_contains]
  exact hmap _

/-- What the images are taken from: the tasks on their way are in the cells, and the held parcels at no channel. -/
def State.readied (s : State) (mine : List Nat) : State := (s.settled mine).holdFlights ((s.settled mine).heldOut mine)

theorem State.readied_cell (s : State) (mine : List Nat) (c : Nat) : (s.readied mine).cell c = ((s.settled mine).cell c).released (s.heldOut mine) := by
  rw [State.readied, State.holdFlights_cell, State.settled_heldOut]
theorem State.readied_flights (s : State) (mine : List Nat) : (s.readied mine).flights = held (s.heldOut mine) s.flights := by
  rw [State.readied, State.holdFlights_flights, State.settled_heldOut, (s.settled_queued mine).flights]
theorem State.readied_part (s : State) (mine : List Nat) (p : Nat) : (s.readied mine).part p = s.part p :=
  congrArg (fun m => mget Part.reset m p) (s.settled_queued mine).parts

/-- The image of a cell of a set (R366). -/
def State.imageAt (s : State) (mine : List Nat) (st : SliceSet) (pid c : Nat) : Image :=
  ((s.readied mine).cell c).image c ((s.readied mine).part pid).spillRoom ((st.saved.filter fun x => x.1 / 4 == c).map fun x => (x.1 % 4, x.2))
/-- The images of a set. -/
def State.imagesOf (s : State) (mine : List Nat) (st : SliceSet) (pid : Nat) : List (Nat × Image) :=
  mine.map fun c => (((s.readied mine).cell c).lcell.toNat, s.imageAt mine st pid c)

/-- The outgoing partition is marked and its positions take EVICT; no follow-on command waits for its cells any more. -/
def State.marked (s : State) (mine cells : List Nat) (pid : Nat) : State :=
  let t := s.setPart pid { (s.part pid).evict cells with st := .preempted }
  { t with copies := t.copies.map fun c => { c with accept := c.accept.filter fun k => !mine.contains k } }

theorem State.evictSet_eq (s : State) (n : Nat) (st : SliceSet) :
    let pid := st.at_ st.resident
    let next := st.at_ (st.resident + 1)
    let mine := st.cells.filter fun c => (s.cell c).tag = pid
    let all_ := mput st.images pid (s.imagesOf mine st pid)
    s.evictSet n st = (((s.readied mine).marked mine st.cells pid).scrubSet st.cells next 0 ((mget [] all_ next).map fun i => i.1)).setSlice n
      { st with stopping := none, yielded := false, saved := [], empty := true, images := all_ } := rfl

theorem Access.transfers {n : Nat} (h : Access n s t) : t.transfers = s.transfers := by have e := congrArg State.transfers h.core; exact e
theorem OnlyMemory.transfers (h : OnlyMemory s t) : t.transfers = s.transfers := by have e := congrArg State.transfers h.rest; exact e

/-- What a scrub leaves of what is under way. -/
theorem State.scrubSet_traffic (s : State) (cells : List Nat) (part kind : Nat) (logical : List Nat) :
    (s.scrubSet cells part kind logical).flights = s.flights ∧ (s.scrubSet cells part kind logical).transfers = s.transfers := by
  have one : ∀ (t : State) (c : Nat), (t.scrubCell c).flights = t.flights ∧ (t.scrubCell c).transfers = t.transfers := fun t c => by
    have h := t.beforeScrub_access c
    rw [State.scrubCell_eq, ← h.flights, ← h.transfers]
    generalize t.beforeScrub c = u
    exact ⟨rfl, rfl⟩
  have all : (cells.foldl State.scrubCell s).flights = s.flights ∧ (cells.foldl State.scrubCell s).transfers = s.transfers :=
    foldl_keeps (fun t : State => t.flights = s.flights ∧ t.transfers = s.transfers) State.scrubCell cells s ⟨rfl, rfl⟩ fun t c h =>
      ⟨(one t c).1.trans h.1, (one t c).2.trans h.2⟩
  have hp := (cells.foldl State.scrubCell s).putToken_onlyMemory part kind cells logical
  exact ⟨hp.flights.trans all.1, hp.transfers.trans all.2⟩

theorem evict_table (p : Part) (cells : List Nat) :
    (p.evict cells).table = p.table.map fun e => if e.extractLsb' 30 2 = 1 ∧ (e.setWidth 11).toNat ∈ cells then e ||| 0x20000000 else e := by
  have kind : ∀ e : BitVec 32, entKind e = 1 ↔ e.extractLsb' 30 2 = 1 := fun e => by
    rw [entKind, ← extract_toNat]
    exact ⟨fun h => BitVec.eq_of_toNat_eq h, fun h => by rw [h]; rfl⟩
  unfold Part.evict
  refine List.map_congr_left fun e _ => ?_
  rw [show entCell e = (e.setWidth 11).toNat from (setWidth_toNat e 11).symm]
  simp only [kind, List.contains_iff_mem]

theorem State.marked_part (s : State) (mine cells : List Nat) (pid : Nat) : (s.marked mine cells pid).part pid = { (s.part pid).evict cells with st := .preempted } :=
  (s.setPart_part pid pid _).trans (if_pos rfl)
theorem State.marked_flights (s : State) (mine cells : List Nat) (pid : Nat) : (s.marked mine cells pid).flights = s.flights := rfl
theorem State.marked_transfers (s : State) (mine cells : List Nat) (pid : Nat) : (s.marked mine cells pid).transfers = s.transfers := rfl
theorem State.marked_scrubSeq (s : State) (mine cells : List Nat) (pid : Nat) : (s.marked mine cells pid).scrubSeq = s.scrubSeq := rfl
theorem State.marked_cell (s : State) (mine cells : List Nat) (pid c : Nat) : (s.marked mine cells pid).cell c = s.cell c := rfl
theorem State.readied_transfers (s : State) (mine : List Nat) : (s.readied mine).transfers = (s.settled mine).transfers := rfl
theorem State.readied_scrubSeq (s : State) (mine : List Nat) : (s.readied mine).scrubSeq = s.scrubSeq := (s.settled_queued mine).scrubSeq

/-- The set is evicted: its cells are scrubbed, and what has to wait waits. -/
theorem State.evictSet_frame (s : State) (n : Nat) (st : SliceSet) :
    let pid := st.at_ st.resident
    let mine := st.cells.filter fun c => (s.cell c).tag = pid
    let t := s.evictSet n st
    (∀ c ∈ st.cells, scrubbed (t.cell c) ∧ (t.cell c).tag = (s.cell c).tag) ∧ t.scrubSeq = s.scrubSeq + 1 ∧ (t.part pid).st = .preempted
      ∧ (t.part pid).table = ((s.part pid).evict st.cells).table ∧ t.flights = held (s.heldOut mine) s.flights ∧ t.transfers = (s.settled mine).transfers := by
  intro pid mine t
  have ht := s.evictSet_eq n st
  extract_lets next all_ at ht
  rw [show t = _ from ht]
  generalize ((mget [] all_ next).map fun i => i.1) = logical
  have hk := ((s.readied mine).marked mine st.cells pid).scrubSet_keeps st.cells next 0 logical
  have htr := ((s.readied mine).marked mine st.cells pid).scrubSet_traffic st.cells next 0 logical
  have hpart := (s.readied mine).marked_part mine st.cells pid
  rw [s.readied_part] at hpart
  simp only [State.setSlice_cell, State.setSlice_part, State.setSlice_flights, State.setSlice_transfers, State.setSlice_scrubSeq]
  refine ⟨fun c hc => ⟨State.scrubSet_scrubs _ _ _ _ _ hc, (hk.cell c).1.trans ?_⟩, (State.scrubSet_logs ..).1.trans ?_, (Part.st_of_face (hk.face pid)).trans ?_,
    (Part.table_of_face (hk.face pid)).trans ?_, htr.1.trans ?_, htr.2.trans ?_⟩
  · rw [State.marked_cell, State.readied_cell]
    exact (s.settled_queued mine).of_cell (·.tag) (fun _ => rfl) c
  · rw [State.marked_scrubSeq, State.readied_scrubSeq]
  · rw [hpart]
  · rw [hpart]
  · rw [State.marked_flights, State.readied_flights]
  · rw [State.marked_transfers, State.readied_transfers]

/-- An image i of cell number c, which was k, holds what R366 names. -/
def Pictures (i : Image) (k : Cell) (c : Nat) (out : List Nat) (saved : SMap (Ctx × Bool)) : Prop :=
  i.from_ = c ∧ i.lcell = k.lcell ∧ i.kchan = k.kchan ∧ i.rr = k.rr ∧ i.frames = k.bytesIn k.frames ∧ i.area = k.bytesIn [areaRange]
    ∧ i.poison = (k.cpoison.filter fun e => (areaRange :: k.frames).any fun r => meets (64 * e.1) 64 r.1 r.2)
    ∧ i.chans = (k.chans.map fun x => (x.1, { x.2 with deferred := x.2.deferred.filter fun id => decide (id ∉ out) }))
    ∧ i.fmodes = (k.ctxs.map fun x => (x.1, x.2.fmode)) ∧ i.issues = (k.ctxs.map fun x => (x.1, x.2.issue)) ∧ i.dones = (k.ctxs.map fun x => (x.1, x.2.done))
    ∧ i.traps = (k.ctxs.map fun x => (x.1, x.2.trap)) ∧ i.escs = (k.ctxs.map fun x => (x.1, x.2.esc)) ∧ i.outs = (k.ctxs.map fun x => (x.1, x.2.out))
    ∧ i.saved = saved ∧ i.wake = k.wake

theorem Cell.released_frames (k : Cell) (out : List Nat) : (k.released out).frames = k.frames := by
  simp only [Cell.frames, Cell.released, List.filter_map, List.map_map]
  rfl

/-- It is taken of the cell but for its tasks. -/
theorem Cell.image_pictures (k : Cell) (out : List Nat) (c room : Nat) (saved : SMap (Ctx × Bool)) :
    Pictures ((k.released out).image c room saved) k.unqueued c out saved := by
  have hframes : (k.released out).frames = k.unqueued.frames := k.released_frames out
  refine ⟨rfl, rfl, rfl, rfl, ?_, rfl, ?_, rfl, rfl, rfl, rfl, rfl, rfl, rfl, rfl, rfl⟩ <;> rw [← hframes] <;> rfl

theorem State.imageAt_pictures (s : State) (mine : List Nat) (st : SliceSet) (pid c : Nat) : Pictures (s.imageAt mine st pid c) (s.cell c) c (s.heldOut mine)
    ((st.saved.filter fun x => x.1 / 4 == c).map fun x => (x.1 % 4, x.2)) := by
  have h := ((s.settled mine).cell c).image_pictures (s.heldOut mine) c ((s.readied mine).part pid).spillRoom
    ((st.saved.filter fun x => x.1 / 4 == c).map fun x => (x.1 % 4, x.2))
  rw [(s.settled_queued mine).cell c, ← s.readied_cell] at h
  exact h

/-- Its tasks, when none is on its way to the set (R364 step 5). -/
theorem State.imageAt_tasks (s : State) (mine : List Nat) (st : SliceSet) (pid c : Nat) (h : ∀ x ∈ s.transfers, x.dst ∉ mine) :
    let k := s.cell c
    let i := s.imageAt mine st pid c
    i.taskq = k.taskq ∧ i.spill ++ i.work = k.spill ++ k.buckets ∧ (i.work = [] ∨ (s.part pid).spillRoom ≤ i.spill.length) := by
  intro k i
  have hcell : (s.settled mine).cell c = k := (cell_of_cells (State.spillWrites_onlyMemory _ mine).cells c).trans (State.settleTransfers_none h c)
  have hi : i = (k.released (s.heldOut mine)).image c (s.part pid).spillRoom ((st.saved.filter fun x => x.1 / 4 == c).map fun x => (x.1 % 4, x.2)) := by
    rw [← hcell, ← s.readied_cell, ← s.readied_part mine]
    rfl
  rw [hi]
  refine ⟨rfl, ?_, ?_⟩
  · show (k.spill ++ k.buckets.take _) ++ k.buckets.drop _ = _
    rw [List.append_assoc, List.take_append_drop]
  · show k.buckets.drop _ = [] ∨ _ ≤ (k.spill ++ k.buckets.take _).length
    rw [List.drop_eq_nil_iff, List.length_append, List.length_take]
    show _ ≤ (s.part pid).spillRoom - k.spill.length ∨ _ ≤ _ + min ((s.part pid).spillRoom - k.spill.length) _
    omega

/-! SLICE_END (R364). -/

section SliceEnd
variable {n : Nat} {st : SliceSet} (hst : s.sliceSet n = st) (he : st.empty = false)
include hst he

/-- Selection on a set goes on. -/
theorem sliceEnd_goesOn (hs : st.stopping = none) (h : st.order.length < 2 ∨ s.sliceOver st = false) : runs (.evSliceEnd n) s s := by
  subst hst
  refine congrArg Host.Outcome.next ?_
  dsimp only
  rw [hs]
  split
  · rfl
  · next hc =>
    have hlen : ¬(s.sliceSet n).order.length < 2 := fun hl => hc (by rw [decide_eq_true (show (s.sliceSet n).order.length ≤ 1 by omega)]; simp)
    rw [h.resolve_left hlen]
    rfl

theorem sliceEnd_stops (hs : st.stopping = none) (h2 : 2 ≤ st.order.length) (ho : s.sliceOver st = true) : ∃ t, runs (.evSliceEnd n) s t
    ∧ (∀ c ∈ st.cells, (t.cell c).select = false) ∧ t.sliceSet n = { st with stopping := some s.time.toNat } ∧ ∀ c x, t.ctx c x = s.ctx c x := by
  subst hst
  obtain ⟨h3, h4⟩ := s.deselects (s.sliceSet n).cells
  have htime : ((s.sliceSet n).cells.foldl State.deselect s).time = s.time := foldl_keeps (fun t : State => t.time = s.time) _ _ s rfl fun _ _ h => h
  have hc : ¬((s.sliceSet n).empty || (s.sliceSet n).order.isEmpty || (decide ((s.sliceSet n).order.length ≤ 1) && (s.sliceSet n).stopping.isNone)) = true := by
    rw [he, decide_eq_false (by omega), Bool.false_and, Bool.or_false, Bool.false_or, List.isEmpty_iff]
    exact fun h => by rw [h] at h2; simp at h2
  refine ⟨((s.sliceSet n).cells.foldl State.deselect s).setSlice n { s.sliceSet n with stopping := some ((s.sliceSet n).cells.foldl State.deselect s).time.toNat },
    congrArg Host.Outcome.next ((if_neg hc).trans ?_), h3, ?_, fun c x => ?_⟩
  · rw [hs]
    exact if_pos ho
  · rw [State.setSlice_sliceSet, htime]
  · rw [State.ctx, State.setSlice_cell, Cell.ctx, h4]
    rfl

theorem sliceEnd_stopping {at_ : Nat} (ho : st.order ≠ []) (hs : st.stopping = some at_) : runs (.evSliceEnd n) s (if s.setQuiet st then s.evictSet n st else s) := by
  subst hst
  refine congrArg Host.Outcome.next ((if_neg ?_).trans ?_)
  · rw [he, hs, Option.isNone_some, Bool.and_false, Bool.or_false, Bool.false_or, List.isEmpty_iff]
    exact ho
  · rw [hs]

end SliceEnd

/-- An eviction that waits for no transfer (R364 to R366). -/
theorem sliceEnd_evicts (s : State) (n : Nat) (st : SliceSet) :
    let pid := st.at_ st.resident
    let mine := st.cells.filter fun c => (s.cell c).tag = pid
    let held := mine.flatMap fun c => (s.cell c).ctxs.flatMap fun x => x.2.out
    let room := (s.part pid).spillRoom
    let t := s.evictSet n st
    (t.sliceSet n).empty = true ∧ (t.sliceSet n).stopping = none ∧ (t.sliceSet n).saved = []
        ∧ (∀ c ∈ st.cells, scrubbed (t.cell c) ∧ (t.cell c).tag = (s.cell c).tag)
        ∧ t.scrubSeq = s.scrubSeq + 1
        ∧ (t.part pid).st = .preempted
        ∧ (t.part pid).table = ((s.part pid).table.map fun e => if e.extractLsb' 30 2 = 1 ∧ (e.setWidth 11).toNat ∈ st.cells then e ||| 0x20000000 else e)
        ∧ t.flights = (s.flights.map fun f => if f.id ∈ held then { f with leg := .image, told := true } else f)
        ∧ (∀ x ∈ t.transfers, x.dst ∈ mine → x.part = pid → x.work = [])
        ∧ ∀ c ∈ mine, let k := s.cell c
          ∃ i, (k.lcell.toNat, i) ∈ mget [] (t.sliceSet n).images pid ∧ Pictures i k c held ((st.saved.filter fun x => x.1 / 4 == c).map fun x => (x.1 % 4, x.2))
            ∧ ((∀ x ∈ s.transfers, x.dst ∉ mine) → i.taskq = k.taskq ∧ i.spill ++ i.work = k.spill ++ k.buckets
              ∧ (i.work = [] ∨ room ≤ i.spill.length)) := by
  intro pid mine held room t
  obtain ⟨hcells, hseq, hstate, htable, hflights, htransfers⟩ := s.evictSet_frame n st
  have hset : t.sliceSet n = { st with stopping := none, yielded := false, saved := [], empty := true, images := mput st.images pid (s.imagesOf mine st pid) } := by
    rw [show t = _ from s.evictSet_eq n st, State.setSlice_sliceSet]
  rw [hset]
  refine ⟨rfl, rfl, rfl, hcells, hseq, hstate, htable.trans (evict_table _ _), hflights, fun x hx hd hp => ?_,
    fun c hc => ⟨s.imageAt mine st pid c, ?_, s.imageAt_pictures mine st pid c, s.imageAt_tasks mine st pid c⟩⟩
  · rw [htransfers, State.settled, (State.spillWrites_onlyMemory _ _).transfers] at hx
    refine State.spillTransfers_left _ _ x hx hd ?_
    have htag : (((s.takeTransfers mine).takeTransfers mine).cell x.dst).tag = (s.cell x.dst).tag :=
      ((Queued.takeTransfers s mine).trans (.takeTransfers _ mine)).of_cell (·.tag) (fun _ => rfl) _
    rw [htag, hp]
    exact (of_decide_eq_true (List.mem_filter.1 hd).2).symm
  · rw [mget_mput_self]
    refine List.mem_map.2 ⟨c, hc, ?_⟩
    have hl : ((s.readied mine).cell c).lcell = (s.cell c).lcell := by
      rw [s.readied_cell]
      exact (s.settled_queued mine).of_cell (·.lcell) (fun _ => rfl) c
    rw [hl]

end Sys2Proof.Machine
end

section
/-! The restore of a partition's images (R364, R366), and a save by Belvedere (R365). -/

namespace Sys2Proof.Machine
open Sys2Proof Sys2Proof.Claims

variable {s t u v : State} {pid : Nat}

/-! A count of held records. -/

/-- From s to t nothing changed but memory and what Belvedere is told. -/
def Told (s t : State) : Prop := OnlyMemory s { t with hypEvents := s.hypEvents }

namespace Told

theorem refl (s : State) : Told s s := OnlyMemory.refl s
theorem trans (h : Told s t) (g : Told t u) : Told s u := by
  obtain ⟨m, hm, hout⟩ := h.heard
  obtain ⟨m', hm', hout'⟩ := g.heard
  refine ⟨?_, m ++ m', onlySnoops_append hm hm', ?_⟩
  · exact (congrArg (fun z : State => { z with hypEvents := s.hypEvents }) g.rest).trans h.rest
  · show u.hostOut = _
    rw [show u.hostOut = t.hostOut ++ m' from hout', show t.hostOut = s.hostOut ++ m from hout, List.append_assoc]
theorem of_onlyMemory (h : OnlyMemory s t) : Told s t := by
  rw [Told, ← h.hypEvents]
  exact h
theorem hypEvent (s : State) (e : HypEvent) : Told s (s.hypEvent e) := OnlyMemory.refl s
theorem foldl {β : Type} (f : State → β → State) (l : List β) (s : State) (hf : ∀ t b, Told t (f t b)) : Told s (l.foldl f s) :=
  foldl_keeps (fun t => Told s t) f l s (refl s) fun t b ht => ht.trans (hf t b)

/-- It is an access but for what Belvedere is told. -/
theorem only (h : Told s t) : OnlyMemory s { t with hypEvents := s.hypEvents } := h
theorem cells (h : Told s t) : t.cells = s.cells := h.only.cells
theorem parts (h : Told s t) : t.parts = s.parts := h.only.parts
theorem flights (h : Told s t) : t.flights = s.flights := h.only.flights
theorem time (h : Told s t) : t.time = s.time := by have e := congrArg State.time h.only.rest; exact e

theorem fbHeader (s : State) (pid : Nat) : Told s (s.fbHeader pid).1 := by
  unfold State.fbHeader
  extract_lets -underBinder va
  have m := s.xlateDev_onlyMemory pid true .readWrite va
  split
  · exact refl s
  · split
    · next hz => rw [hz] at m; exact (of_onlyMemory m).trans (hypEvent ..)
    · next hz =>
      rw [hz] at m
      replace m := of_onlyMemory m
      split
      · exact m.trans (hypEvent ..)
      · extract_lets b h
        split <;> exact m

theorem adjustHeld (s : State) (pid : Nat) (up : Bool) : Told s (s.adjustHeld pid up) := by
  have h := fbHeader s pid
  unfold State.adjustHeld
  split
  · next e => rw [e] at h; exact h
  · next e => rw [e] at h; exact h.trans (of_onlyMemory (State.putBytes_onlyMemory _ _ _))

theorem adjustAll {β : Type} (s : State) (l : List β) (pid : Nat) (up : Bool) : Told s (l.foldl (fun s _ => s.adjustHeld pid up) s) :=
  foldl _ l s fun t _ => adjustHeld t pid up

end Told

/-! One image is loaded. -/

/-- Where a parcel goes when an image is loaded into a cell: a held one takes its slot again, a deferred one waits there (R366). -/
def Image.leads (i : Image) (cell : Nat) (f : Flight) : Flight :=
  if (i.outs.flatMap fun o => o.2).contains f.id then { f with leg := .way }
  else match i.chans.find? fun c => c.2.deferred.contains f.id with
    | some c => if f.leg = .image then f else { f with leg := .deferred cell c.1 }
    | none => f

/-- From s to t image i of a partition's logical cell l was loaded into cell c. -/
structure Loaded (pid l : Nat) (i : Image) (c : Nat) (s t : State) : Prop where
  here : ∃ now floor k, t.cell c = i.cell pid now floor k
  other : ∀ d, d ≠ c → t.cell d = s.cell d
  table : (t.part pid).table = (s.part pid).table.set l (BitVec.ofNat 32 (0x40000000 + c))
  flights : t.flights = s.flights.map (i.leads c)
  time : t.time = s.time

theorem State.loadImage_loaded (s : State) (pid l : Nat) (i : Image) (c old new : Nat) : Loaded pid l i c s (((s.took).loadImage pid l i c).follow pid old new) := by
  let p := s.part pid
  let b := (s.took.setPart pid { p with table := p.table.set l (BitVec.ofNat 32 (0x40000000 + c)) }).setCell c (i.cell pid s.now p.floor (s.cell c))
  let w : State := { b with flights := b.flights.map (i.leads c) }
  have h : Told w ((s.took).loadImage pid l i c) := Told.foldl _ i.saved w fun t x => Told.adjustAll t _ pid true
  have hcell : ∀ d, (((s.took).loadImage pid l i c).follow pid old new).cell d = if c = d then i.cell pid s.now p.floor (s.cell c) else s.cell d := fun d =>
    (cell_of_cells h.cells d).trans (State.setCell_cell _ c d _)
  have hpart : (((s.took).loadImage pid l i c).follow pid old new).part pid = { p with table := p.table.set l (BitVec.ofNat 32 (0x40000000 + c)) } := by
    refine (congrArg (fun m => mget Part.reset m pid) h.parts).trans ((State.setPart_part s.took pid pid _).trans (if_pos rfl))
  exact ⟨⟨s.now, p.floor, s.cell c, (hcell c).trans (if_pos rfl)⟩, fun d hd => (hcell d).trans (if_neg hd.symm), congrArg Part.table hpart, h.flights, h.time⟩

/-! The images one after the other. -/

/-- From one state to another images were loaded in turn, each into its cell. -/
inductive Loads (pid : Nat) : State → List ((Nat × Image) × Nat) → State → Prop
  | nil (s : State) : Loads pid s [] s
  | cons {s t u : State} {i : Nat × Image} {c : Nat} {ps : List ((Nat × Image) × Nat)} (h : Loaded pid i.1 i.2 c s t) (hr : Loads pid t ps u) : Loads pid s ((i, c) :: ps) u

namespace Loads

variable {ps : List ((Nat × Image) × Nat)}

theorem time (h : Loads pid s ps t) : t.time = s.time := by
  induction h with
  | nil s => rfl
  | cons h _ ih => exact ih.trans h.time

theorem other (h : Loads pid s ps t) (d : Nat) (hd : ∀ p ∈ ps, p.2 ≠ d) : t.cell d = s.cell d := by
  induction h with
  | nil s => rfl
  | cons h _ ih => exact (ih fun p hp => hd p (List.mem_cons_of_mem _ hp)).trans (h.other d (hd _ List.mem_cons_self).symm)

/-- Each cell holds its image, since no two images take one cell. -/
theorem here (h : Loads pid s ps t) (hn : (ps.map fun p => p.2).Nodup) : ∀ p ∈ ps, ∃ now floor k, t.cell p.2 = p.1.2.cell pid now floor k := by
  induction h with
  | nil s => exact fun p hp => absurd hp List.not_mem_nil
  | cons h hr ih =>
    rw [List.map_cons, List.nodup_cons] at hn
    intro p hp
    rcases List.mem_cons.1 hp with rfl | hp
    · obtain ⟨now, floor, k, hk⟩ := h.here
      refine ⟨now, floor, k, (hr.other _ fun q hq e => hn.1 ?_).trans hk⟩
      exact e ▸ List.mem_map_of_mem hq
    · exact ih hn.2 p hp

theorem table_other (h : Loads pid s ps t) (l : Nat) (hl : ∀ p ∈ ps, p.1.1 ≠ l) : (t.part pid).table[l]? = (s.part pid).table[l]? := by
  induction h with
  | nil s => rfl
  | cons h _ ih =>
    rw [ih fun p hp => hl p (List.mem_cons_of_mem _ hp), h.table]
    exact List.getElem?_set_ne (hl _ List.mem_cons_self)

/-- Each position of the table names its cell, since no two images are of one position. -/
theorem table_here (h : Loads pid s ps t) (hn : (ps.map fun p => p.1.1).Nodup) :
    ∀ p ∈ ps, p.1.1 < (s.part pid).table.length → (t.part pid).table[p.1.1]? = some (BitVec.ofNat 32 (0x40000000 + p.2)) := by
  induction h with
  | nil s => exact fun p hp => absurd hp List.not_mem_nil
  | cons h hr ih =>
    rw [List.map_cons, List.nodup_cons] at hn
    intro p hp hlen
    rcases List.mem_cons.1 hp with rfl | hp
    · rw [hr.table_other _ fun q hq e => hn.1 (List.mem_map.2 ⟨q, hq, e⟩), h.table]
      exact List.getElem?_set_self hlen
    · exact ih hn.2 p hp (by rw [h.table, List.length_set]; exact hlen)

end Loads

/-! Where the parcels of the images go (R366). -/

namespace Image

variable {i : Image} {c : Nat} {f : Flight}

theorem leads_held (h : ∃ o ∈ i.outs, f.id ∈ o.2) : i.leads c f = { f with leg := .way } :=
  if_pos (List.contains_iff_mem.2 (List.mem_flatMap.2 h))

/-- A parcel that an image neither holds nor defers. -/
theorem leads_other (h : ¬∃ o ∈ i.outs, f.id ∈ o.2) (hd : ∀ x ∈ i.chans, f.id ∉ x.2.deferred) : i.leads c f = f := by
  have hnone : i.chans.find? (fun x => x.2.deferred.contains f.id) = none := by
    rw [List.find?_eq_none]
    exact fun x hx => by rw [List.contains_iff_mem]; exact hd x hx
  refine (if_neg fun hc => h (List.mem_flatMap.1 (List.contains_iff_mem.1 hc))).trans ?_
  rw [hnone]

end Image

namespace Loads

variable {ps : List ((Nat × Image) × Nat)} {f : Flight}

/-- A parcel on its way that no image defers stays so. -/
theorem flight_stays (h : Loads pid s ps t) (hf : { f with leg := .way } ∈ s.flights) (hd : ∀ p ∈ ps, ∀ c ∈ p.1.2.chans, f.id ∉ c.2.deferred) :
    { f with leg := .way } ∈ t.flights := by
  induction h with
  | nil s => exact hf
  | @cons s t u i c ps h _ ih =>
    refine ih ?_ fun p hp => hd p (List.mem_cons_of_mem _ hp)
    rw [h.flights]
    refine List.mem_map.2 ⟨_, hf, ?_⟩
    by_cases ho : ∃ o ∈ i.2.outs, f.id ∈ o.2
    · exact Image.leads_held (f := { f with leg := .way }) ho
    · exact Image.leads_other (f := { f with leg := .way }) ho (hd _ List.mem_cons_self)

/-- A held parcel is on its way again. -/
theorem flight_again (h : Loads pid s ps t) (hf : f ∈ s.flights) (ho : ∃ p ∈ ps, ∃ o ∈ p.1.2.outs, f.id ∈ o.2)
    (hd : ∀ p ∈ ps, ∀ c ∈ p.1.2.chans, f.id ∉ c.2.deferred) : { f with leg := .way } ∈ t.flights := by
  induction h with
  | nil s => obtain ⟨p, hp, -⟩ := ho; exact absurd hp List.not_mem_nil
  | @cons s t u i c ps h hr ih =>
    have hrest := fun p hp => hd p (List.mem_cons_of_mem _ hp)
    by_cases hi : ∃ o ∈ i.2.outs, f.id ∈ o.2
    · refine hr.flight_stays ?_ hrest
      rw [h.flights]
      exact List.mem_map.2 ⟨f, hf, Image.leads_held hi⟩
    · refine ih ?_ ?_ hrest
      · rw [h.flights]
        exact List.mem_map.2 ⟨f, hf, Image.leads_other hi (hd _ List.mem_cons_self)⟩
      · obtain ⟨p, hp, hpo⟩ := ho
        rcases List.mem_cons.1 hp with rfl | hp
        · exact absurd hpo hi
        · exact ⟨p, hp, hpo⟩

end Loads

/-! A free cell for each image. -/

/-- An image is loaded into one of the cells that are left. -/
def loadNext (pid : Nat) (acc : State × List Nat × List (Nat × Nat)) (i : Nat × Image) : State × List Nat × List (Nat × Nat) :=
  let n := acc.1.pick (max 1 acc.2.1.length)
  match acc.2.1[n]? with
  | some c => (((acc.1.took).loadImage pid i.1 i.2 c).follow pid i.2.from_ (4096 + c), acc.2.1.eraseIdx n, acc.2.2 ++ [(4096 + c, c)])
  | none => acc

theorem loadNext_takes (pid : Nat) (s : State) (free : List Nat) (ms : List (Nat × Nat)) (i : Nat × Image) (h : free ≠ []) : ∃ c rest t,
    loadNext pid (s, free, ms) i = (t, rest, ms ++ [(4096 + c, c)]) ∧ (c :: rest).Perm free ∧ Loaded pid i.1 i.2 c s t := by
  have hlen : 0 < free.length := List.length_pos_iff.2 h
  have hn : s.pick (max 1 free.length) < free.length := by
    rw [max_eq_right hlen]
    exact Nat.mod_lt _ hlen
  refine ⟨_, _, _, ?_, List.getElem_cons_eraseIdx_perm hn, s.loadImage_loaded pid i.1 i.2 _ i.2.from_ (4096 + free[s.pick (max 1 free.length)])⟩
  unfold loadNext
  dsimp only
  rw [List.getElem?_eq_getElem hn]

/-- With as many free cells as images each image is loaded into one of its own. -/
theorem loadNext_loads (pid : Nat) (images : List (Nat × Image)) (s : State) (free : List Nat) (ms : List (Nat × Nat)) (h : images.length ≤ free.length) :
    ∃ cs, cs.length = images.length ∧ (images.foldl (loadNext pid) (s, free, ms)).2.2 = ms ++ cs.map (fun c => (4096 + c, c)) ∧ (∀ c ∈ cs, c ∈ free)
      ∧ (free.Nodup → cs.Nodup) ∧ Loads pid s (images.zip cs) (images.foldl (loadNext pid) (s, free, ms)).1 := by
  induction images generalizing s free ms with
  | nil => exact ⟨[], rfl, (List.append_nil _).symm, fun _ h => absurd h List.not_mem_nil, fun _ => List.nodup_nil, .nil s⟩
  | cons i images ih =>
    obtain ⟨c, rest, t, hstep, hperm, hload⟩ := loadNext_takes pid s free ms i (by rintro rfl; simp at h)
    have hlen := hperm.length_eq
    rw [List.length_cons] at h hlen
    obtain ⟨cs, h1, h2, h3, h4, h5⟩ := ih t rest (ms ++ [(4096 + c, c)]) (by omega)
    rw [List.foldl_cons, hstep]
    refine ⟨c :: cs, by rw [List.length_cons, List.length_cons, h1], ?_, fun d hd => ?_, fun hn => ?_, .cons hload h5⟩
    · rw [h2, List.append_assoc]
      rfl
    · rcases List.mem_cons.1 hd with rfl | hd
      · exact hperm.subset List.mem_cons_self
      · exact hperm.subset (List.mem_cons_of_mem _ (h3 d hd))
    · obtain ⟨hc, hr⟩ := List.nodup_cons.1 (hperm.nodup_iff.2 hn)
      exact List.nodup_cons.2 ⟨fun h => hc (h3 c h), h4 hr⟩

theorem State.loadImages_eq (s : State) (pid : Nat) (free : List Nat) (images : List (Nat × Image)) : s.loadImages pid free images =
    ((images.foldl (loadNext pid) (s, free, [])).2.2.foldl (fun s m => s.follow pid m.1 m.2) (images.foldl (loadNext pid) (s, free, [])).1,
      (images.foldl (loadNext pid) (s, free, [])).2.2.map fun m => m.2) := rfl

/-- What following old places leaves. -/
theorem State.follows (s : State) (pid : Nat) (ms : List (Nat × Nat)) : let t := ms.foldl (fun s m => s.follow pid m.1 m.2) s
    t.cells = s.cells ∧ t.parts = s.parts ∧ t.flights = s.flights ∧ t.time = s.time :=
  foldl_keeps (fun t : State => t.cells = s.cells ∧ t.parts = s.parts ∧ t.flights = s.flights ∧ t.time = s.time) _ ms s ⟨rfl, rfl, rfl, rfl⟩ fun _ _ h => h

/-! What a restored cell holds. -/

theorem written_cases (ws : List (Nat × Byte)) (a : Nat) : (written ws a = none ∧ ∀ e ∈ ws, e.1 ≠ a) ∨ ∃ e ∈ ws, e.1 = a ∧ written ws a = some e.2 := by
  induction ws with
  | nil => exact .inl ⟨rfl, fun e h => absurd h List.not_mem_nil⟩
  | cons w ws ih =>
    rw [written]
    rcases ih with ⟨h, hn⟩ | ⟨e, he, ha, h⟩
    · rw [h]
      by_cases hw : w.1 = a
      · exact .inr ⟨w, List.mem_cons_self, hw, if_pos hw⟩
      · exact .inl ⟨if_neg hw, fun e he => (List.mem_cons.1 he).elim (fun h => h ▸ hw) (hn e)⟩
    · rw [h]
      exact .inr ⟨e, List.mem_cons_of_mem _ he, ha, rfl⟩

theorem Image.cell_store (i : Image) (pid now floor : Nat) (k : Cell) (a : Nat) :
    mget 0 (i.cell pid now floor k).store a = (written (i.frames ++ i.area) a).getD 0 := mget_foldl_mset (i.frames ++ i.area) [] a
theorem Image.cell_ctx (i : Image) (pid now floor : Nat) (k : Cell) (m : Nat) (hm : m < 4) : (i.cell pid now floor k).ctx m = i.ctx now m :=
  mget_map_range Ctx.reset (i.ctx now) 4 m hm

theorem Ctx.rest_eq (x : Ctx) : x.rest = if x.trap = none ∧ x.esc = [] then .free else .trapPending := by
  unfold Ctx.rest
  cases x.trap <;> cases x.esc <;> rfl

/-! SLICE_RESTORE (R364). -/

/-- What a restored cell holds of its image (R366). -/
def Holds (k : Cell) (pid : Nat) (i : Image) : Prop :=
  k.tag = pid ∧ k.lcell = i.lcell ∧ k.kchan = i.kchan ∧ k.chans = i.chans ∧ k.select = true ∧ k.rr = i.rr ∧ k.taskq = i.taskq
    ∧ k.buckets = i.work ∧ k.spill = i.spill ∧ k.wake = i.wake ∧ k.cpoison = i.poison ∧ k.l1 = [] ∧ k.istore = [] ∧ k.mu = Matrix.reset
    ∧ (∀ e ∈ i.frames ++ i.area, (∀ f ∈ i.frames ++ i.area, f.1 = e.1 → f.2 = e.2) → mget 0 k.store e.1 = e.2)
    ∧ (∀ a, (∀ e ∈ i.frames ++ i.area, e.1 ≠ a) → mget 0 k.store a = 0)
    ∧ (∀ m < 4, let y := k.ctx m
      y.out = mget [] i.outs m ∧ y.esc = mget [] i.escs m
      ∧ (mfind i.saved m = none → y.fmode = mget false i.fmodes m ∧ y.issue = mget [] i.issues m ∧ y.done = mget [] i.dones m ∧ y.trap = mget none i.traps m
        ∧ y.st = (if y.trap = none ∧ y.esc = [] then .free else .trapPending))
      ∧ ∀ x q, mfind i.saved m = some (x, q) → y.st = x.st ∧ y.g = x.g ∧ y.v = x.v ∧ y.p = x.p ∧ y.b = x.b ∧ y.streams = x.streams ∧ y.fifos = x.fifos
        ∧ y.inv = x.inv ∧ y.wdcnt = x.wdcnt ∧ (∀ e, (y.eng e).pc = (x.eng e).pc ∧ (y.eng e).st = (x.eng e).st ∧ (y.eng e).code = (x.eng e).code
          ∧ (y.eng e).held = (x.eng e).held) ∧ y.sb = [] ∧ (q = true → m ∈ k.claimQ))

theorem Image.cell_holds (i : Image) (pid now floor : Nat) (k : Cell) : Holds (i.cell pid now floor k) pid i := by
  refine ⟨rfl, rfl, rfl, rfl, rfl, rfl, rfl, rfl, rfl, rfl, rfl, rfl, rfl, rfl, fun e he hsame => ?_, fun a ha => ?_, fun m hm => ?_⟩
  · rw [Image.cell_store]
    rcases written_cases (i.frames ++ i.area) e.1 with ⟨-, hn⟩ | ⟨f, hf, h1, h2⟩
    · exact absurd rfl (hn e he)
    · rw [h2, hsame f hf h1]
      rfl
  · rw [Image.cell_store]
    rcases written_cases (i.frames ++ i.area) a with ⟨h, -⟩ | ⟨f, hf, h1, -⟩
    · rw [h]
      rfl
    · exact absurd h1 (ha f hf)
  · rw [Image.cell_ctx i pid now floor k m hm]
    unfold Image.ctx
    cases hs : mfind i.saved m with
    | none => exact ⟨rfl, rfl, fun _ => ⟨rfl, rfl, rfl, rfl, Ctx.rest_eq _⟩, fun x q h => by cases h⟩
    | some y =>
      refine ⟨rfl, rfl, fun h => (by cases h), fun x q h => ?_⟩
      rw [Option.some.injEq] at h
      subst h
      refine ⟨rfl, rfl, rfl, rfl, rfl, rfl, rfl, rfl, rfl, fun e => by cases e <;> exact ⟨rfl, rfl, rfl, rfl⟩, rfl, fun hq => ?_⟩
      refine List.mem_filter.2 ⟨by simp; omega, ?_⟩
      rw [hs]
      exact hq

/-- Parcels that waited for an evicted cell of a partition are on their way again. -/
def State.resend (s : State) (pid : Nat) : State :=
  { s with flights := s.flights.map fun f => if f.leg = .evicted ∧ f.part = pid then { f with leg := .way } else f }

/-- A set whose partition pid, in place r of its order, is resident on the cells q holds beside the state. -/
def State.resident (n : Nat) (st : SliceSet) (r pid : Nat) (q : State × List Nat) : State :=
  let s := q.1.resend pid
  let s := s.setPart pid { s.part pid with st := .running }
  s.setSlice n { st with
    cells := st.cells ++ q.2.filter fun c => !st.cells.contains c
    resident := r, since := s.time.toNat, yielded := false, empty := false, images := mdel st.images pid }

/-- The state after a restore (R364). -/
def State.restored (s : State) (n : Nat) (st : SliceSet) : State :=
  let r := (st.resident + 1) % st.order.length
  let pid := st.at_ r
  State.resident n st r pid (s.loadImages pid (s.freeCells st) (mget [] st.images pid))

theorem sliceRestore_runs {n : Nat} {st : SliceSet} (hst : s.sliceSet n = st) (he : st.empty = true) (ho : st.order ≠ []) :
    runs (.evSliceRestore n) s (if (s.freeCells st).length < (mget [] st.images (st.at_ ((st.resident + 1) % st.order.length))).length then s else s.restored n st) := by
  subst hst
  refine congrArg Host.Outcome.next (if_neg ?_)
  rw [he, Bool.not_true, Bool.false_or, List.isEmpty_iff]
  exact ho

/-- What a restore leaves (R364, R366). -/
theorem State.restored_spec (s : State) (n : Nat) (st : SliceSet) :
    let r := (st.resident + 1) % st.order.length
    let pid := st.at_ r
    let images := mget [] st.images pid
    let t := s.restored n st
    images.length ≤ (s.freeCells st).length → (t.sliceSet n).empty = false ∧ (t.sliceSet n).resident = r
      ∧ (t.sliceSet n).since = s.time.toNat ∧ (t.part pid).st = .running ∧ (∀ f ∈ t.flights, ¬(f.leg = .evicted ∧ f.part = pid))
      ∧ (∀ f ∈ s.flights, (∃ x ∈ images, ∃ o ∈ x.2.outs, f.id ∈ o.2) → (∀ x ∈ images, ∀ c ∈ x.2.chans, f.id ∉ c.2.deferred) → { f with leg := .way } ∈ t.flights)
      ∧ ((s.freeCells st).Nodup → (images.map fun x => x.1).Nodup → ∃ place : Nat → Nat, (∀ i < images.length, ∀ j < images.length, place i = place j → i = j)
        ∧ (∀ l, (∀ x ∈ images, x.1 ≠ l) → (t.part pid).table[l]? = (s.part pid).table[l]?)
        ∧ ∀ (j l : Nat) (i : Image), images[j]? = some (l, i) → let c := place j
          c ∈ s.freeCells st ∧ (l < (s.part pid).table.length → (t.part pid).table[l]? = some (BitVec.ofNat 32 (0x40000000 + c))) ∧ c ∈ (t.sliceSet n).cells
          ∧ Holds (t.cell c) pid i) := by
  intro r pid images t hlen
  obtain ⟨cs, hcs, hms, hfree, hnodup, hload⟩ := loadNext_loads pid images s (s.freeCells st) [] hlen
  rw [List.nil_append] at hms
  generalize hw : images.foldl (loadNext pid) (s, s.freeCells st, []) = w at hms hload
  obtain ⟨hcells, hparts, hflights, htime⟩ := w.1.follows pid w.2.2
  generalize hz : w.2.2.foldl (fun s m => s.follow pid m.1 m.2) w.1 = z at hcells hparts hflights htime
  have hq : s.loadImages pid (s.freeCells st) images = (z, cs) := by
    rw [State.loadImages_eq, hw, hz, hms, List.map_map]
    exact congrArg (Prod.mk z) (List.map_id cs)
  have htime' : z.time = s.time := htime.trans hload.time
  have hpart : z.part pid = w.1.part pid := congrArg (fun m => mget Part.reset m pid) hparts
  have ht : t = State.resident n st r pid (z, cs) := congrArg (State.resident n st r pid) hq
  have hset := congrArg (fun t : State => t.sliceSet n) ht
  rw [State.resident, State.setSlice_sliceSet] at hset
  have htp : t.part pid = { z.part pid with st := .running } := by
    rw [ht, State.resident, State.setSlice_part, State.setPart_part, if_pos rfl]
    rfl
  have htf : t.flights = z.flights.map fun f => if f.leg = .evicted ∧ f.part = pid then { f with leg := .way } else f := by rw [ht]; rfl
  have htc : ∀ c, t.cell c = w.1.cell c := fun c => (congrArg (fun t : State => t.cell c) ht).trans (cell_of_cells hcells c)
  have hfst : (images.zip cs).map (fun p => p.1) = images := List.map_fst_zip (by omega)
  have hsnd : (images.zip cs).map (fun p => p.2) = cs := List.map_snd_zip (by omega)
  have hin : ∀ p ∈ images.zip cs, p.1 ∈ images := fun p hp => (List.of_mem_zip hp).1
  rw [hset]
  refine ⟨rfl, rfl, congrArg BitVec.toNat htime', by rw [htp], fun f hf he => ?_, fun f hf ho hd => ?_, fun hn hl => ⟨fun j => cs.getD j 0, fun i hi j hj h => ?_, fun l hno => ?_, fun j l i hj => ?_⟩⟩
  · rw [htf] at hf
    obtain ⟨g, -, hg⟩ := List.mem_map.1 hf
    split at hg
    · rw [← hg] at he
      exact absurd he.1 (by simp)
    · next h => exact h (hg ▸ he)
  · have hagain : { f with leg := .way } ∈ w.1.flights := hload.flight_again hf (by
      obtain ⟨x, hx, hxo⟩ := ho
      rw [← hfst] at hx
      obtain ⟨p, hp, rfl⟩ := List.mem_map.1 hx
      exact ⟨p, hp, hxo⟩) fun p hp => hd _ (hin p hp)
    rw [htf, hflights]
    exact List.mem_map.2 ⟨_, hagain, if_neg fun h => by cases h.1⟩
  · dsimp only at h
    rw [List.getD_eq_getElem _ _ (hcs ▸ hi), List.getD_eq_getElem _ _ (hcs ▸ hj)] at h
    exact (hnodup hn).getElem_inj_iff.1 h
  · rw [htp, hpart]
    exact hload.table_other l fun p hp => hno _ (hin p hp)
  · obtain ⟨hlt, hji⟩ := List.getElem?_eq_some_iff.1 hj
    have hjc : j < cs.length := hcs ▸ hlt
    have hmem : ((l, i), cs[j]) ∈ images.zip cs := by
      refine List.mem_iff_getElem.2 ⟨j, by rw [List.length_zip]; omega, ?_⟩
      rw [List.getElem_zip, hji]
    have hc : cs.getD j 0 = cs[j] := List.getD_eq_getElem _ _ hjc
    dsimp only
    rw [hc]
    refine ⟨hfree _ (List.getElem_mem hjc), fun hlen => ?_, ?_, ?_⟩
    · rw [htp, hpart]
      exact hload.table_here (by
        rw [← hfst, List.map_map] at hl
        exact hl) _ hmem hlen
    · rw [List.mem_append]
      by_cases hin : cs[j] ∈ st.cells
      · exact .inl hin
      · exact .inr (List.mem_filter.2 ⟨List.getElem_mem hjc, by rw [Bool.not_eq_true', ← Bool.not_eq_true, List.contains_iff_mem]; exact hin⟩)
    · obtain ⟨now, floor, k, hk⟩ := hload.here (by rw [hsnd]; exact hnodup hn) _ hmem
      rw [htc, hk]
      exact Image.cell_holds i pid now floor k

/-! GRACE_EXPIRY (R365). -/

/-- A saved context's place: the claim is given up, and it holds no invocation (R349). -/
def State.parked (s : State) (cell ctx : Nat) (claimed : Bool) : State :=
  let k := s.cell cell
  let x := k.ctx ctx
  let s := s.setCell cell { k with claim := if claimed then none else k.claim, claimQ := k.claimQ.filter fun c => c != ctx }
  let x' := { x with
    ex := x.ex.idle, ea := x.ea.idle, em := x.em.idle, streams := [], fifos := [], pend := [], popped := [], mpoison := false, wdcnt := 0
    trap := none, taken := none }
  s.setCtx cell ctx { x' with st := x'.rest }

theorem State.parked_ctx (s : State) (cell ctx : Nat) (claimed : Bool) : ((s.parked cell ctx claimed).ctx cell ctx).esc = (s.ctx cell ctx).esc
    ∧ ((s.parked cell ctx claimed).ctx cell ctx).st = if (s.ctx cell ctx).esc = [] then .free else .trapPending := by
  unfold State.parked
  rw [State.setCtx_ctx_self]
  refine ⟨rfl, (Ctx.rest_eq _).trans ?_⟩
  simp only [true_and]
  rfl
theorem State.parked_claim (s : State) (cell ctx : Nat) : ((s.parked cell ctx true).cell cell).claim = none := by
  unfold State.parked
  simp only [State.setCtx, State.setCell_cell, if_true]
  rfl

theorem State.parked_latest (s : State) (cell ctx : Nat) (claimed : Bool) (a : Nat) : (s.parked cell ctx claimed).latest a = s.latest a := rfl
theorem State.setSlice_latest (s : State) (n : Nat) (x : SliceSet) (a : Nat) : (s.setSlice n x).latest a = s.latest a := rfl

section Grace
variable {cell ctx n at_ : Nat} {st : SliceSet} (hf : s.sets.find? (fun e => e.2.cells.contains cell && e.2.stopping.isSome) = some (n, st)) (hs : st.stopping = some at_)
include hf hs

/-- A context within its grace time stays. -/
theorem graceExpiry_waits (h : s.time.toNat ≤ at_ + (s.part (s.cell cell).tag).grace) : runs (.evGraceExpiry cell ctx) s s := by
  refine congrArg Host.Outcome.next ?_
  dsimp only
  rw [hf]
  exact if_pos (.inr (.inl (by rw [hs]; exact h)))

/-- Belvedere saves a context that is quiet. -/
theorem graceExpiry_saves (hsus : (s.ctx cell ctx).st = .suspended) (ht : (s.ctx cell ctx).taken = none) (hq : s.quiet cell ctx = true)
    (hc : (s.cell cell).claim = some ctx → (s.cell cell).mu.pipeL = none ∧ (s.cell cell).mu.pipeC = none)
    (h : at_ + (s.part (s.cell cell).tag).grace < s.time.toNat) :
    let tag := (s.cell cell).tag
    let w := (heldRecords (s.ctx cell ctx)).foldl (fun s _ => s.adjustHeld tag false) (s.drainCtx cell ctx)
    runs (.evGraceExpiry cell ctx) s ((w.parked cell ctx (decide ((s.cell cell).claim = some ctx))).setSlice n
      { st with saved := mput st.saved (4 * cell + ctx) ({ w.ctx cell ctx with taken := none, esc := [] }, decide ((s.cell cell).claim = some ctx)) }) := by
  intro tag w
  have hgo : ¬((s.ctx cell ctx).st ≠ .suspended ∨ s.time.toNat ≤ st.stopping.getD 0 + (s.part tag).grace ∨ s.isTaken cell ctx = true ∨ (!s.quiet cell ctx) = true
      ∨ (decide ((s.cell cell).claim = some ctx) && ((s.cell cell).mu.pipeL.isSome || (s.cell cell).mu.pipeC.isSome)) = true) := by
    rw [hs, Option.getD_some, State.isTaken_none ht, hq, Bool.and_eq_true, decide_eq_true_eq]
    rintro (h1 | h1 | h1 | h1 | ⟨h1, h2⟩)
    · exact h1 hsus
    · exact absurd h1 (Nat.not_le.2 h)
    · cases h1
    · cases h1
    · rw [(hc h1).1, (hc h1).2] at h2
      cases h2
  refine congrArg Host.Outcome.next ?_
  dsimp only
  rw [hf]
  refine (if_neg hgo).trans ?_
  simp only [State.parked, decide_eq_true_eq]
  rfl

end Grace

/-- Settles O33: stopping, eviction, restore, and the save of a context past its grace time. -/
theorem timeSlices : Obligations.TimeSlices := by
  unfold Obligations.TimeSlices
  refine ⟨fun s n he hs => ⟨sliceEnd_stops rfl he hs, sliceEnd_goesOn rfl he hs⟩, fun s n at_ he ho hs => ?_, fun s n he ho => ?_,
    fun s cell ctx n st at_ hf hs hsus ht hq => ?_⟩
  · intro st pid mine held room
    have hrun := sliceEnd_stopping rfl he ho hs
    refine ⟨fun h => ?_, fun h => ?_⟩
    · rwa [h, if_neg Bool.false_ne_true] at hrun
    · rw [if_pos h] at hrun
      obtain ⟨h1, h2, h3, h4, h5, h6, h7, h8, h9, himages⟩ := sliceEnd_evicts s n st
      refine ⟨_, hrun, h1, h2, h3, h4, h5, h6, h7, h8, h9, fun c hc => ?_⟩
      obtain ⟨i, hi, hp, htasks⟩ := himages c hc
      obtain ⟨p1, p2, p3, p4, p5, p6, p7, p8, p9, p10, p11, p12, p13, p14, p15, p16⟩ := hp
      exact ⟨i, hi, p1, p2, p3, p4, p5, p6, p7, p8, p9, p10, p11, p12, p13, p14, p15, p16, htasks⟩
  · intro st r pid images
    have hrun := sliceRestore_runs rfl he ho
    refine ⟨fun h => ?_, fun h => ?_⟩
    · rwa [if_pos h] at hrun
    · rw [if_neg (Nat.not_lt.2 h)] at hrun
      exact ⟨_, hrun, s.restored_spec n st h⟩
  · intro claims x0 hc
    have hclaim : claims = true ↔ (s.cell cell).claim = some ctx := decide_eq_true_iff
    refine ⟨graceExpiry_waits hf hs, fun h => ?_⟩
    have hrun := graceExpiry_saves hf hs hsus ht hq (fun e => hc (hclaim.2 e)) h
    extract_lets tag w at hrun
    have hw : w.ctx cell ctx = { x0 with sb := [] } :=
      (congrArg (fun k : Cell => k.ctx ctx) (cell_of_cells (Told.adjustAll (s.drainCtx cell ctx) (heldRecords x0) tag false).cells cell)).trans
        ((s.drainCtx_ctx cell ctx cell ctx).trans (if_pos ⟨rfl, rfl⟩))
    obtain ⟨hesc, hst⟩ := w.parked_ctx cell ctx claims
    rw [hw] at hesc hst
    refine ⟨_, hrun, hst, hesc, fun hcl => ?_, fun a => (State.setSlice_latest ..).trans (State.parked_latest ..), { w.ctx cell ctx with taken := none, esc := [] }, ?_, ?_⟩
    · have := w.parked_claim cell ctx
      rw [← hcl] at this
      exact this
    · rw [State.setSlice_sliceSet, mfind_mput, if_pos rfl]
    · rw [hw]
      exact ⟨hsus, rfl, rfl, rfl, rfl, rfl, rfl, rfl, rfl, rfl, rfl, rfl⟩

end Sys2Proof.Machine
end

section
/-! What a context sees of memory: its buffered stores over the coherent memory; drains and reads keep it (R105, R107 to R109, R131). -/

namespace Sys2Proof.Machine
open Sys2Proof Sys2Proof.Claims

variable {s t u v : State} {cell ctx : Nat} {e : SbLine} {sb : List SbLine}

/-- The byte that a context sees at an address (R108). -/
def State.sees (s : State) (cell ctx x : Nat) : Byte := (buffered (s.ctx cell ctx).sb x).getD (s.latest x)

/-! Which buffered entries must leave. -/

/-- The entries that leave when those that p names do, of a buffer given oldest first. -/
def needed (p : SbLine → Bool) : List SbLine → List SbLine
  | [] => []
  | f :: l => if p f || (needed p l).any f.before then f :: needed p l else needed p l

theorem sbNeeded_append (p : SbLine → Bool) (l m acc : List SbLine) : sbNeeded p (l ++ m) acc = sbNeeded p m (sbNeeded p l acc) := by
  induction l generalizing acc with
  | nil => rfl
  | cons f l ih =>
    rw [List.cons_append, sbNeeded, sbNeeded]
    exact ih _

theorem sbNeeded_reverse (p : SbLine → Bool) (l : List SbLine) : sbNeeded p l.reverse [] = needed p l := by
  induction l with
  | nil => rfl
  | cons f l ih =>
    rw [List.reverse_cons, sbNeeded_append, ih]
    rfl

theorem State.drainFor_eq (s : State) (cell ctx : Nat) (p : SbLine → Bool) :
    s.drainFor cell ctx p = (needed p (s.ctx cell ctx).sb).foldl (fun s e => s.drainEntry cell ctx e) s := by
  rw [State.drainFor, sbNeeded_reverse]

theorem SbLine.before_line {f : SbLine} (h : f.before e = false) : f.line ≠ e.line := fun hl => by simp [SbLine.before, hl] at h

/-! A byte under a buffer. -/

theorem buffered_append (a b : List SbLine) (x : Nat) : buffered (a ++ b) x = (buffered b x).or (buffered a x) := by
  induction a with
  | nil => rw [List.nil_append, show buffered [] x = none from rfl, Option.or_none]
  | cons e a ih => rw [List.cons_append, buffered_cons, ih, buffered_cons, Option.or_assoc]

theorem buffered_none {x : Nat} (h : ∀ e ∈ sb, e.line ≠ x / 64) : buffered sb x = none := by
  induction sb with
  | nil => rfl
  | cons e sb ih =>
    rw [buffered_cons, ih fun f hf => h f (List.mem_cons_of_mem _ hf), SbLine.byteAt, if_neg fun he => h e List.mem_cons_self he.1]
    rfl

/-- An entry leaves behind no older one of its line: what the context sees stays. -/
theorem State.drainEntry_sees {a b : List SbLine} (hsb : (s.ctx cell ctx).sb = a ++ e :: b) (hs : s.slotPages e.line = []) (ha : ∀ f ∈ a, f.line ≠ e.line) (x : Nat) :
    ((s.drainEntry cell ctx e).ctx cell ctx).sb = a ++ b ∧ (s.drainEntry cell ctx e).sees cell ctx x = s.sees cell ctx x := by
  have herase : ((s.drainEntry cell ctx e).ctx cell ctx).sb = a ++ b := by
    rw [State.drainEntry_ctx, if_pos ⟨rfl, rfl⟩]
    dsimp only
    rw [hsb, List.erase_append_right _ fun h => ha e h rfl, List.erase_cons_head]
  refine ⟨herase, ?_⟩
  rw [State.sees, State.sees, herase, hsb, s.drainEntry_latest cell ctx e hs, buffered_append, buffered_append, buffered_cons]
  cases hx : e.byteAt x with
  | none => rw [Option.or_none]; rfl
  | some w =>
    have hl : e.line = x / 64 := by
      by_contra hn
      rw [SbLine.byteAt, if_neg fun h => hn h.1] at hx
      cases hx
    have hnone : buffered a x = none := buffered_none fun f hf => hl ▸ ha f hf
    rw [hnone]
    cases buffered b x <;> rfl

/-- The entries that must leave do, behind kept ones k: what the context sees stays, and no entry that p names is left. -/
theorem drains_needed (p : SbLine → Bool) (sb k : List SbLine) (s : State) (hsb : (s.ctx cell ctx).sb = k ++ sb) (hs : ∀ e ∈ sb, s.slotPages e.line = [])
    (hk : ∀ f ∈ k, p f = false ∧ ∀ e ∈ needed p sb, f.before e = false) :
    let t := (needed p sb).foldl (fun s e => s.drainEntry cell ctx e) s
    (∀ x, t.sees cell ctx x = s.sees cell ctx x) ∧ (∀ e ∈ (t.ctx cell ctx).sb, p e = false) ∧ (∀ e ∈ (t.ctx cell ctx).sb, e ∈ k ++ sb) := by
  induction sb generalizing k s with
  | nil =>
    refine ⟨fun x => rfl, fun e he => ?_, fun e he => ?_⟩
    · rw [needed, List.foldl_nil, hsb, List.append_nil] at he
      exact (hk e he).1
    · rwa [needed, List.foldl_nil, hsb] at he
  | cons f sb ih =>
    by_cases hf : (p f || (needed p sb).any f.before) = true
    · have hn : needed p (f :: sb) = f :: needed p sb := by rw [needed, if_pos hf]
      rw [hn] at hk ⊢
      have hold : ∀ g ∈ k, g.line ≠ f.line := fun g hg => SbLine.before_line ((hk g hg).2 f List.mem_cons_self)
      have hd := fun x => s.drainEntry_sees (cell := cell) (ctx := ctx) hsb (hs f List.mem_cons_self) hold x
      obtain ⟨h1, h2, h3⟩ := ih k (s.drainEntry cell ctx f) (hd 0).1 (fun e he => by rw [(s.drainEntry_access cell ctx f).slotPages]; exact hs e (List.mem_cons_of_mem _ he))
        fun g hg => ⟨(hk g hg).1, fun e he => (hk g hg).2 e (List.mem_cons_of_mem _ he)⟩
      rw [List.foldl_cons]
      exact ⟨fun x => (h1 x).trans (hd x).2, h2, fun e he => (List.mem_append.1 (h3 e he)).elim (List.mem_append_left _) fun h => List.mem_append_right _ (List.mem_cons_of_mem _ h)⟩
    · have hn : needed p (f :: sb) = needed p sb := by rw [needed, if_neg hf]
      rw [hn] at hk ⊢
      rw [Bool.not_eq_true, Bool.or_eq_false_iff, List.any_eq_false] at hf
      obtain ⟨h1, h2, h3⟩ := ih (k ++ [f]) s (by rw [hsb, List.append_assoc]; rfl) (fun e he => hs e (List.mem_cons_of_mem _ he)) fun g hg => by
        rcases List.mem_append.1 hg with hg | hg
        · exact hk g hg
        · rw [List.mem_singleton.1 hg]
          exact ⟨hf.1, fun e he => by rw [← Bool.not_eq_true]; exact hf.2 e he⟩
      exact ⟨h1, h2, fun e he => by simpa [or_assoc] using h3 e he⟩

/-- A drain for some entries: none of them is left, and the context sees what it saw. -/
theorem State.drainFor_sees (s : State) (cell ctx : Nat) (p : SbLine → Bool) (hs : ∀ e ∈ (s.ctx cell ctx).sb, s.slotPages e.line = []) :
    (∀ x, (s.drainFor cell ctx p).sees cell ctx x = s.sees cell ctx x) ∧ (∀ e ∈ ((s.drainFor cell ctx p).ctx cell ctx).sb, p e = false)
      ∧ ∀ e ∈ ((s.drainFor cell ctx p).ctx cell ctx).sb, e ∈ (s.ctx cell ctx).sb := by
  rw [State.drainFor_eq]
  exact drains_needed p _ [] s rfl hs fun f hf => absurd hf List.not_mem_nil

/-- With nothing buffered there is nothing to drain. -/
theorem State.drainFor_nil {p : SbLine → Bool} (h : (s.ctx cell ctx).sb = []) : s.drainFor cell ctx p = s := by
  rw [State.drainFor_eq, h]
  rfl

/-- The stores to a line performed, the home has what the context sees there. -/
theorem State.drainLine_home (s : State) (cell ctx line : Nat) (hs : ∀ e ∈ (s.ctx cell ctx).sb, s.slotPages e.line = []) (x : Nat) (hx : x / 64 = line) :
    (s.drainLine cell ctx line).latest x = s.sees cell ctx x := by
  obtain ⟨h1, h2, -⟩ := s.drainFor_sees cell ctx (fun e => e.line == line) hs
  rw [← h1 x, State.sees, buffered_none fun e he => by rw [hx]; exact beq_eq_false_iff_ne.1 (h2 e he)]
  rfl

/-! The bytes of a line under a buffer. -/

theorem SbLine.overlay_getD (f : SbLine) (b : List Byte) (line o : Nat) (hl : f.line = line) (ho : o < 64) :
    (f.overlay b).getD o 0 = (f.byteAt (64 * line + o)).getD (b.getD o 0) := by
  have hx : (64 * line + o) / 64 = line ∧ (64 * line + o) % 64 = o := by omega
  rw [SbLine.overlay, List.getD_eq_getElem?_getD, List.getElem?_map, List.getElem?_range ho, SbLine.byteAt, hx.1, hx.2, hl]
  simp only [Option.map_some, Option.getD_some, true_and]
  split <;> rfl

theorem overAll_getD (sb : List SbLine) (b : List Byte) (line o : Nat) (ho : o < 64) :
    (overAll (sbOf sb line) b).getD o 0 = (buffered sb (64 * line + o)).getD (b.getD o 0) := by
  induction sb generalizing b with
  | nil => rfl
  | cons f sb ih =>
    rw [sbOf, List.filter_cons]
    by_cases hl : f.line = line
    · rw [if_pos (beq_iff_eq.2 hl), overAll, List.foldl_cons]
      refine (ih (f.overlay b)).trans ?_
      rw [f.overlay_getD b line o hl ho, buffered_cons]
      cases buffered sb (64 * line + o) <;> rfl
    · rw [if_neg (by rw [beq_iff_eq]; exact hl)]
      refine (ih b).trans ?_
      have hx : (64 * line + o) / 64 = line := by omega
      rw [buffered_cons, SbLine.byteAt, if_neg fun h => hl (h.1.trans hx), Option.or_none]

theorem bytesAt_getD (s : State) (pa n j : Nat) (h : j < n) : (bytesAt s pa n).getD j 0 = s.latest (pa + j) := by
  rw [bytesAt, List.getD_eq_getElem?_getD, List.getElem?_map, List.getElem?_range h]
  rfl

/-- The bytes of a line that a context sees. -/
theorem bslice_overAll (s : State) (cell ctx pa n : Nat) (h : pa % 64 + n ≤ 64) :
    bslice (overAll (sbOf (s.ctx cell ctx).sb (pa / 64)) (bytesAt s (64 * (pa / 64)) 64)) (pa % 64) n = (List.range n).map fun j => s.sees cell ctx (pa + j) := by
  have hlen : (overAll (sbOf (s.ctx cell ctx).sb (pa / 64)) (bytesAt s (64 * (pa / 64)) 64)).length = 64 := by
    refine foldl_keeps (fun b : List Byte => b.length = 64) _ _ _ (length_bytesAt s _ 64) fun b f _ => ?_
    rw [SbLine.overlay, List.length_map, List.length_range]
  refine List.ext_getElem (by rw [length_bslice, List.length_map, List.length_range]) fun j h1 h2 => ?_
  rw [length_bslice] at h1
  have hj : pa % 64 + j < 64 := by omega
  have hsum : 64 * (pa / 64) + (pa % 64 + j) = pa + j := by omega
  have hget := overAll_getD (s.ctx cell ctx).sb (bytesAt s (64 * (pa / 64)) 64) (pa / 64) (pa % 64 + j) hj
  rw [hsum, bytesAt_getD s _ _ _ hj, hsum] at hget
  rw [List.getElem_map, List.getElem_range]
  refine Eq.trans ?_ hget
  rw [← List.getD_eq_getElem (d := 0), bslice, hlen, show n - (64 - pa % 64) = 0 by omega, List.replicate_zero, List.append_nil,
    List.getD_eq_getElem?_getD, List.getElem?_take, if_pos h1, List.getElem?_drop, List.getD_eq_getElem?_getD]

/-- No byte is covered without entries. -/
theorem sbCovers_nil {off n : Nat} (hn : 0 < n) (ho : off + n ≤ 64) : sbCovers [] off n = false := by
  have hpos : 0 < 2 ^ n - 1 := Nat.sub_pos_of_lt (Nat.one_lt_two_pow (by omega))
  have hlt : (2 ^ n - 1) * 2 ^ off < 2 ^ 64 := by
    calc (2 ^ n - 1) * 2 ^ off < 2 ^ n * 2 ^ off := Nat.mul_lt_mul_of_pos_right (Nat.sub_lt (Nat.two_pow_pos n) Nat.one_pos) (Nat.two_pow_pos off)
      _ = 2 ^ (n + off) := (pow_add 2 n off).symm
      _ ≤ 2 ^ 64 := Nat.pow_le_pow_right (by decide) (by omega)
  have hmask : byteMask off n ≠ 0 := fun h => by
    have := congrArg BitVec.toNat h
    rw [byteMask, BitVec.toNat_ofNat, Nat.mod_eq_of_lt hlt] at this
    exact absurd this (Nat.mul_pos hpos (Nat.two_pow_pos off)).ne'
  have hand : (0 : BitVec 64) &&& byteMask off n = 0 := BitVec.zero_and
  rw [sbCovers, List.foldl_nil, hand, beq_eq_false_iff_ne]
  exact hmask.symm

/-! A read keeps what is seen. -/

/-- The L1 copies that may serve A at a line. -/
def State.hits (s : State) (cell ctx line : Nat) : List L1Line := (s.cell cell).l1Hits s.cycle.toNat (s.ctx cell ctx).ea.horizon line

/-- From s to t a context read memory: it sees the same. -/
structure Reads (cell ctx : Nat) (s t : State) : Prop where
  access : Access cell s t
  sees : ∀ x, t.sees cell ctx x = s.sees cell ctx x
  left : ∀ e ∈ (t.ctx cell ctx).sb, e ∈ (s.ctx cell ctx).sb
  poisoned : (s.ctx cell ctx).sb = [] → ∀ n, t.poisoned n = s.poisoned n

namespace Reads

theorem refl (s : State) : Reads cell ctx s s := ⟨.refl s, fun _ => rfl, fun _ h => h, fun _ _ => rfl⟩
theorem nil (h : Reads cell ctx s t) (hs : (s.ctx cell ctx).sb = []) : (t.ctx cell ctx).sb = [] :=
  List.eq_nil_iff_forall_not_mem.2 fun e he => by
    have := h.left e he
    rw [hs] at this
    exact absurd this List.not_mem_nil
theorem trans (h : Reads cell ctx s t) (g : Reads cell ctx t u) : Reads cell ctx s u :=
  ⟨h.access.trans g.access, fun x => (g.sees x).trans (h.sees x), fun e he => h.left e (g.left e he), fun hs n => (g.poisoned (h.nil hs) n).trans (h.poisoned hs n)⟩
/-- The entries left lie in no staging slot. -/
theorem slots (h : Reads cell ctx s t) (hs : ∀ e ∈ (s.ctx cell ctx).sb, s.slotPages e.line = []) : ∀ e ∈ (t.ctx cell ctx).sb, t.slotPages e.line = [] := fun e he => by
  rw [h.access.slotPages]
  exact hs e (h.left e he)

end Reads

/-- From s to t memory was read, and no line's mark was touched. -/
structure Looks (s t : State) : Prop where
  peeks : Peeks s t
  poison : t.poison = s.poison

namespace Looks

theorem trans (h : Looks s t) (g : Looks t u) : Looks s u := ⟨h.peeks.trans g.peeks, g.poison.trans h.poison⟩
theorem snooped (s : State) (line a p : Nat) : Looks s (s.snooped line a fun q => .biSnpData q p) :=
  ⟨.snooped s line a p, (congrArg State.poison (s.snooped_eq line a _)).trans rfl⟩
theorem snoopRead (s : State) (line : Nat) : Looks s (s.snoopRead line) := by
  refine ⟨.snoopRead s line, ?_⟩
  unfold State.snoopRead
  split
  · exact (snooped _ _ _ _).poison
  · rfl
theorem snoopE (s : State) (line : Nat) : Looks s (s.snoopE line) := by
  refine ⟨.snoopE s line, ?_⟩
  unfold State.snoopE
  dsimp only
  split
  · exact (snooped _ _ _ _).poison
  · rfl
theorem allocIn (s : State) (b p : Nat) : Looks s (s.allocIn b p) := by
  refine ⟨.allocIn s b p, ?_⟩
  unfold State.allocIn
  split <;> rfl
theorem throughRdc (s : State) (cell : Nat) (l : Loc) : Looks s (s.throughRdc cell l) := by
  refine ⟨.throughRdc s cell l, ?_⟩
  unfold State.throughRdc
  split
  · rfl
  · exact (allocIn _ _ _).poison.trans ((snoopE _ _).poison.trans (snoopRead _ _).poison)
theorem homeRead (s : State) (pa n : Nat) : Looks s (s.homeRead pa n).1 := (snoopRead s _).trans (snoopRead _ _)

theorem sameCtx (h : Looks s t) (c k : Nat) : t.ctx c k = s.ctx c k := by rw [State.ctx, cell_of_cells h.peeks.only.cells]; rfl
theorem reads (h : Looks s t) : Reads cell ctx s t :=
  ⟨h.peeks.only.access, fun x => by rw [State.sees, State.sees, h.sameCtx, h.peeks.latest], fun e he => by rwa [h.sameCtx] at he, fun _ n => by rw [State.poisoned, h.poison]; rfl⟩
theorem hits (h : Looks s t) (line : Nat) : t.hits cell ctx line = s.hits cell ctx line := by
  rw [State.hits, State.hits, h.sameCtx, cell_of_cells h.peeks.only.cells, show t.cycle = s.cycle by have e := congrArg State.cycle h.peeks.only.rest; exact e]

end Looks

/-! A read of one line by A. -/

theorem mem_capInsert {α : Type} {cap free : Nat} {l : List α} {a b : α} (h : b ∈ capInsert cap free l a) : b = a ∨ b ∈ l := by
  unfold capInsert at h
  split at h
  · exact List.mem_cons.1 h
  · exact (List.mem_or_eq_of_mem_set h).symm

/-- A line fills a cell's L1 (R107). -/
def State.fillL1 (w : State) (cell : Nat) (f : L1Line) : State :=
  (w.setCell cell { w.cell cell with l1 := capInsert Config.l1Lines w.free (w.cell cell).l1 f }).took

theorem State.fillL1_cell (w : State) (cell : Nat) (f : L1Line) : (w.fillL1 cell f).cell cell = { w.cell cell with l1 := capInsert Config.l1Lines w.free (w.cell cell).l1 f } :=
  (State.setCell_cell w cell cell _).trans (if_pos rfl)
theorem State.fillL1_ctx (w : State) (cell : Nat) (f : L1Line) (k : Nat) : (w.fillL1 cell f).ctx cell k = w.ctx cell k := by
  rw [State.ctx, State.fillL1_cell]
  rfl
theorem State.fillL1_reads (w : State) (cell ctx : Nat) (f : L1Line) : Reads cell ctx w (w.fillL1 cell f) := by
  refine ⟨(Access.setCell w cell { w.cell cell with l1 := capInsert Config.l1Lines w.free (w.cell cell).l1 f } rfl fun _ => rfl).trans (State.took_access _), fun x => ?_, fun e he => ?_, fun _ _ => rfl⟩
  · rw [State.sees, State.fillL1_ctx]
    rfl
  · rwa [State.fillL1_ctx] at he
/-- It serves no other line. -/
theorem State.fillL1_hits (w : State) (cell ctx : Nat) (f : L1Line) {line : Nat} (hl : line ≠ f.line) (h : w.hits cell ctx line = []) : (w.fillL1 cell f).hits cell ctx line = [] := by
  rw [State.hits, State.fillL1_cell, State.fillL1_ctx, Cell.l1Hits, List.filter_eq_nil_iff]
  intro k hk
  rcases mem_capInsert hk with rfl | hk
  · rw [beq_eq_false_iff_ne.2 hl.symm]
    simp
  · rw [State.hits, Cell.l1Hits, List.filter_eq_nil_iff] at h
    exact h k hk

/-- A weak read that no L1 copy serves: the home's line under the buffer, which fills the L1 (R107, R108). -/
theorem State.weakRead_misses (s : State) (cell ctx : Nat) (l : Loc) (n : Nat) (hh : s.hits cell ctx (l.pa / 64) = []) :
    (s.weakRead cell ctx .a l n).2 = (bslice (overAll (sbOf (s.ctx cell ctx).sb (l.pa / 64)) (bytesAt s (64 * (l.pa / 64)) 64)) (l.pa % 64) n,
          s.poisoned (l.pa / 64) && !sbCovers (sbOf (s.ctx cell ctx).sb (l.pa / 64)) (l.pa % 64) n)
      ∧ Reads cell ctx s (s.weakRead cell ctx .a l n).1
      ∧ ∀ line, line ≠ l.pa / 64 → s.hits cell ctx line = [] → (s.weakRead cell ctx .a l n).1.hits cell ctx line = [] := by
  refine ⟨?_, ?_⟩
  · rcases s.weakRead_cases cell ctx .a l n with ⟨k, hk, -⟩ | h
    · rw [show (s.cell cell).l1Hits s.cycle.toNat ((s.ctx cell ctx).eng .a).horizon (l.pa / 64) = [] from hh] at hk
      exact absurd hk List.not_mem_nil
    · exact h
  · unfold State.weakRead
    extract_lets c y line off own onto
    rw [show c.l1Hits s.cycle.toNat (y.eng .a).horizon line = [] from hh, State.l1Choice]
    dsimp only
    have hr : Looks s (((s.homeRead (64 * line) 64).1.throughRdc cell l).allocIn (homeBank l) c.tag) :=
      ((Looks.homeRead s _ _).trans (Looks.throughRdc _ cell l)).trans (Looks.allocIn _ _ _)
    generalize ((s.homeRead (64 * line) 64).1.throughRdc cell l).allocIn (homeBank l) c.tag = w at hr ⊢
    split
    · exact ⟨hr.reads, fun m _ hm => (hr.hits m).trans hm⟩
    · exact ⟨hr.reads.trans (w.fillL1_reads cell ctx _), fun m hne hm => w.fillL1_hits cell ctx _ hne ((hr.hits m).trans hm)⟩

/-- What a read of A of some bytes is to give: those that its context sees, with whether one is poisoned when nothing is buffered. -/
structure Gives (cell ctx pa n : Nat) (s : State) (r : State × List Byte × Bool) : Prop where
  bytes : r.2.1 = (List.range n).map fun j => s.sees cell ctx (pa + j)
  poison : (s.ctx cell ctx).sb = [] → (r.2.2 = true ↔ ∃ j < n, s.poisoned ((pa + j) / 64) = true)
  reads : Reads cell ctx s r.1

/-- One part of a read, in one line (R109, R130, R145). -/
def State.readCut (s : State) (cell ctx : Nat) (strong : Bool) (pl : Place) (pa n : Nat) : State × List Byte × Bool :=
  if strong then (s.drainLine cell ctx (pa / 64)).homeRead pa n else s.weakRead cell ctx .a ⟨pa, pl⟩ n

theorem one_line {p : Nat → Bool} {pa n : Nat} (hn : 0 < n) (h : pa % 64 + n ≤ 64) : (∃ j < n, p ((pa + j) / 64) = true) ↔ p (pa / 64) = true := by
  constructor
  · rintro ⟨j, hj, hp⟩
    rwa [show (pa + j) / 64 = pa / 64 by omega] at hp
  · exact fun hp => ⟨0, hn, hp⟩

theorem State.readCut_gives {strong : Bool} {pl : Place} {pa n : Nat} (hn : 0 < n) (h : pa % 64 + n ≤ 64) (hs : ∀ b ∈ (s.ctx cell ctx).sb, s.slotPages b.line = [])
    (hh : strong = true ∨ s.hits cell ctx (pa / 64) = []) : Gives cell ctx pa n s (s.readCut cell ctx strong pl pa n)
      ∧ (strong = false → ∀ line, line ≠ pa / 64 → s.hits cell ctx line = [] → (s.readCut cell ctx strong pl pa n).1.hits cell ctx line = []) := by
  cases strong with
  | true =>
    refine ⟨?_, fun h => by cases h⟩
    obtain ⟨h1, h2, h3⟩ := s.drainFor_sees cell ctx (fun e => e.line == pa / 64) hs
    have hd : Reads cell ctx s (s.drainLine cell ctx (pa / 64)) :=
      ⟨s.drainFor_access cell ctx _, h1, h3, fun hn n => by rw [State.drainLine, State.drainFor_nil hn]⟩
    refine ⟨List.map_congr_left fun j hj => ?_, fun hnil => ?_, hd.trans (Looks.homeRead _ pa n).reads⟩
    · exact s.drainLine_home cell ctx (pa / 64) hs (pa + j) (by have := List.mem_range.1 hj; omega)
    · rw [one_line hn h]
      show (State.homeRead _ pa n).2.2 = true ↔ _
      rw [State.homeRead_poison _ pa n hn h, hd.poisoned hnil]
  | false =>
    obtain ⟨h1, h2, h3⟩ := s.weakRead_misses cell ctx ⟨pa, pl⟩ n (hh.resolve_left Bool.false_ne_true)
    refine ⟨⟨?_, fun hnil => ?_, h2⟩, fun _ => h3⟩
    · rw [← bslice_overAll s cell ctx pa n h]
      exact congrArg Prod.fst h1
    · rw [one_line hn h]
      have hp := congrArg Prod.snd h1
      rw [hnil] at hp
      refine (iff_of_eq (congrArg (· = true) hp)).trans ?_
      rw [show sbOf [] (pa / 64) = [] from rfl, sbCovers_nil hn h, Bool.not_false, Bool.and_true]

/-- A read of A at a place, which lies in one line or two. -/
theorem State.readPlace_gives {strong : Bool} {pl : Place} {pa n : Nat} (hn : 0 < n) (h : n ≤ 64) (hs : ∀ b ∈ (s.ctx cell ctx).sb, s.slotPages b.line = [])
    (hh : strong = true ∨ ∀ j < n, s.hits cell ctx ((pa + j) / 64) = []) : Gives cell ctx pa n s (s.readPlace cell ctx strong pl pa n) := by
  by_cases hfit : pa % 64 + n ≤ 64
  · have hc := (s.readCut_gives (pl := pl) hn hfit hs (hh.imp_right fun h => h 0 hn)).1
    have hcut : lineCuts pa n = [(pa, n)] := if_pos hfit
    have hr : s.readPlace cell ctx strong pl pa n = s.readCut cell ctx strong pl pa n := by
      rw [State.readPlace, hcut]
      rfl
    rw [hr]
    exact hc
  · obtain ⟨m, hm⟩ : ∃ m, m = 64 - pa % 64 := ⟨_, rfl⟩
    obtain ⟨hc, hh'⟩ := s.readCut_gives (strong := strong) (pl := pl) (pa := pa) (n := m) (by omega) (by omega) hs (hh.imp_right fun h => h 0 hn)
    have hd := (State.readCut_gives (s := (s.readCut cell ctx strong pl pa m).1) (strong := strong) (pl := pl) (pa := pa + m) (n := n - m) (by omega) (by omega)
      (hc.reads.slots hs) (by
        cases strong with
        | true => exact .inl rfl
        | false => exact .inr (hh' rfl _ (by omega) ((hh.resolve_left Bool.false_ne_true) m (by omega))))).1
    have hcut : lineCuts pa n = [(pa, m), (pa + m, n - m)] := by rw [hm]; exact if_neg hfit
    have hr : s.readPlace cell ctx strong pl pa n = (((s.readCut cell ctx strong pl pa m).1.readCut cell ctx strong pl (pa + m) (n - m)).1,
        (s.readCut cell ctx strong pl pa m).2.1 ++ ((s.readCut cell ctx strong pl pa m).1.readCut cell ctx strong pl (pa + m) (n - m)).2.1,
        (s.readCut cell ctx strong pl pa m).2.2 || ((s.readCut cell ctx strong pl pa m).1.readCut cell ctx strong pl (pa + m) (n - m)).2.2) := by
      rw [State.readPlace, hcut]
      rfl
    rw [hr]
    refine ⟨?_, fun hnil => ?_, hc.reads.trans hd.reads⟩
    · dsimp only
      rw [hc.bytes, hd.bytes, show n = m + (n - m) by omega, List.range_add, List.map_append, List.map_map, show m + (n - m) - m = n - m by omega]
      refine congrArg _ (List.map_congr_left fun j _ => ?_)
      rw [hc.reads.sees, Nat.add_assoc]
      rfl
    · dsimp only
      rw [Bool.or_eq_true, hc.poison hnil, hd.poison (hc.reads.nil hnil)]
      simp only [hc.reads.poisoned hnil]
      constructor
      · rintro (⟨j, hj, hp⟩ | ⟨j, hj, hp⟩)
        · exact ⟨j, by omega, hp⟩
        · exact ⟨m + j, by omega, by rwa [← Nat.add_assoc]⟩
      · rintro ⟨j, hj, hp⟩
        by_cases hjm : j < m
        · exact .inl ⟨j, hjm, hp⟩
        · exact .inr ⟨j - m, by omega, by rwa [show pa + m + (j - m) = pa + j by omega]⟩

end Sys2Proof.Machine
end

section
/-! A load group lands (R68, R69, R130, R145, R243). -/

namespace Sys2Proof.Machine
open Sys2Proof Sys2Proof.Claims

variable {s t u v : State} {cell ctx : Nat} {g : Group} {p : Piece}

/-! The bytes of a group. -/

/-- One piece of a load group. -/
def State.readPiece (s : State) (cell ctx : Nat) (cellKind strong : Bool) (p : Piece) : State × List Byte × Bool :=
  if cellKind then ((s.storeRead cell p.addr p.len).1, (s.storeRead cell p.addr p.len).2, (s.cell cell).storePoison p.addr p.len)
  else s.readPlace cell ctx strong p.place p.addr p.len

theorem State.groupBytes_eq (s : State) (cell ctx : Nat) (cellKind strong : Bool) (g : Group) : s.groupBytes cell ctx cellKind strong g =
    g.pieces.foldl (fun acc p => ((acc.1.readPiece cell ctx cellKind strong p).1,
      acc.2.1.take p.off ++ (acc.1.readPiece cell ctx cellKind strong p).2.1 ++ acc.2.1.drop (p.off + p.len), acc.2.2 || (acc.1.readPiece cell ctx cellKind strong p).2.2))
      (s, zeros 64, false) := by
  cases cellKind <;> rfl

theorem State.groupBytes_one (s : State) (cell ctx : Nat) (cellKind strong : Bool) (hg : g.pieces = [p]) :
    (s.groupBytes cell ctx cellKind strong g).2 = ((zeros 64).take p.off ++ (s.readPiece cell ctx cellKind strong p).2.1 ++ (zeros 64).drop (p.off + p.len),
      (s.readPiece cell ctx cellKind strong p).2.2) := by
  rw [State.groupBytes_eq, hg]
  rfl

/-- Bytes in their place in an entry. -/
theorem placed_getD {b : List Byte} {off n j : Nat} (hb : b.length = n) (h : off + n ≤ 64) (hj : j < n) :
    (vecBytes (vecOf ((zeros 64).take off ++ b ++ (zeros 64).drop (off + n)))).getD (off + j) 0 = b.getD j 0 := by
  have hz : (zeros 64).length = 64 := List.length_replicate
  have hoff : ((zeros 64).take off).length = off := by rw [List.length_take, hz]; omega
  rw [vecBytes_vecOf (by rw [List.length_append, List.length_append, hoff, hb, List.length_drop, hz]; omega), List.append_assoc,
    List.getD_append_right _ _ _ _ (by omega), hoff, Nat.add_sub_cancel_left, List.getD_append _ _ _ _ (by omega)]

theorem map_range_getD (f : Nat → Byte) {n j : Nat} (h : j < n) : ((List.range n).map f).getD j 0 = f j := by
  rw [List.getD_eq_getElem?_getD, List.getElem?_map, List.getElem?_range h]
  rfl

/-- The cell store outside every mailbox. -/
theorem State.storeRead_bytes (s : State) (cell off n : Nat) (h : (s.cell cell).mailHit off n = false) : (s.storeRead cell off n).2 = (s.cell cell).rawRead off n := by
  unfold State.storeRead
  have hk : ((s.cell cell).wakeFor off n).mailHit off n = false := h
  dsimp only
  rw [if_neg (by rw [hk]; exact Bool.false_ne_true)]
  rfl

/-! What a read leaves for the next. -/

/-- From s to t a context with nothing buffered read without filling the L1: it sees, and the L1 serves it, the same. -/
structure Rested (cell ctx : Nat) (s t : State) : Prop where
  latest : ∀ x, t.latest x = s.latest x
  sb : (t.ctx cell ctx).sb = []
  poisoned : ∀ n, t.poisoned n = s.poisoned n
  hits : ∀ n, t.hits cell ctx n = s.hits cell ctx n

namespace Rested

theorem refl (h : (s.ctx cell ctx).sb = []) : Rested cell ctx s s := ⟨fun _ => rfl, h, fun _ => rfl, fun _ => rfl⟩
theorem trans (h : Rested cell ctx s t) (g : Rested cell ctx t u) : Rested cell ctx s u :=
  ⟨fun x => (g.latest x).trans (h.latest x), g.sb, fun n => (g.poisoned n).trans (h.poisoned n), fun n => (g.hits n).trans (h.hits n)⟩
theorem of_looks (h : Looks s t) (hs : (s.ctx cell ctx).sb = []) : Rested cell ctx s t :=
  ⟨h.peeks.latest, by rw [h.sameCtx]; exact hs, fun n => by rw [State.poisoned, h.poison]; rfl, h.hits⟩

theorem storeRead (hs : (s.ctx cell ctx).sb = []) (off n : Nat) : Rested cell ctx s (s.storeRead cell off n).1 := by
  have hset : Rested cell ctx s (s.setCell cell ((s.cell cell).wakeFor off n)) := by
    have hcell : (s.setCell cell ((s.cell cell).wakeFor off n)).cell cell = (s.cell cell).wakeFor off n := (s.setCell_cell cell cell _).trans (if_pos rfl)
    refine ⟨fun _ => rfl, ?_, fun _ => rfl, fun m => ?_⟩
    · rw [State.ctx, hcell]
      exact hs
    · rw [State.hits, State.ctx, hcell]
      rfl
  unfold State.storeRead
  dsimp only
  split
  · exact ⟨hset.latest, hset.sb, hset.poisoned, hset.hits⟩
  · exact hset

theorem readPlace (hs : (s.ctx cell ctx).sb = []) (pl : Place) (pa n : Nat) : Rested cell ctx s (s.readPlace cell ctx true pl pa n).1 := by
  unfold State.readPlace
  refine foldl_keeps (fun a : State × List Byte × Bool => Rested cell ctx s a.1) _ _ _ (refl hs) fun a c ha => ?_
  have hd : a.1.drainLine cell ctx (c.1 / 64) = a.1 := State.drainFor_nil ha.sb
  show Rested cell ctx s ((a.1.drainLine cell ctx (c.1 / 64)).homeRead c.1 c.2).1
  rw [hd]
  exact ha.trans (of_looks (Looks.homeRead _ _ _) ha.sb)

/-- A load group of the cell store or a strong one. -/
theorem groupBytes {cellKind strong : Bool} (h : cellKind = true ∨ strong = true) (hs : (s.ctx cell ctx).sb = []) (g : Group) :
    Rested cell ctx s (s.groupBytes cell ctx cellKind strong g).1 := by
  rw [State.groupBytes_eq]
  refine foldl_keeps (fun a : State × List Byte × Bool => Rested cell ctx s a.1) _ _ _ (refl hs) fun a p ha => ha.trans ?_
  show Rested cell ctx a.1 (a.1.readPiece cell ctx cellKind strong p).1
  unfold State.readPiece
  cases cellKind with
  | true => exact storeRead ha.sb _ _
  | false =>
    rw [h.resolve_left Bool.false_ne_true]
    exact readPlace ha.sb _ _ _

/-- A weak read of 4 bytes of one line that no L1 copy serves (R69). -/
theorem scale (h : Rested cell ctx s t) {l : Loc} (hl : l.pa % 64 + 4 ≤ 64) (hh : s.hits cell ctx (l.pa / 64) = []) :
    (t.scaleAt cell ctx l).2 = if s.poisoned (l.pa / 64) then .bad else .word (BitVec.ofNat 32 (leNat (bytesAt s l.pa 4))) := by
  have hg := State.readPlace_gives (s := t) (cell := cell) (ctx := ctx) (strong := false) (pl := l.place) (pa := l.pa) (n := 4) (by decide) (by decide)
    (fun b hb => by rw [h.sb] at hb; exact absurd hb List.not_mem_nil) (.inr fun j hj => by
      rw [show (l.pa + j) / 64 = l.pa / 64 by omega, h.hits]
      exact hh)
  have hb : (t.readPlace cell ctx false l.place l.pa 4).2.1 = bytesAt s l.pa 4 := by
    rw [hg.bytes]
    refine List.map_congr_left fun j _ => ?_
    rw [State.sees, h.sb, ← h.latest]
    rfl
  have hp : (t.readPlace cell ctx false l.place l.pa 4).2.2 = s.poisoned (l.pa / 64) := by
    rw [Bool.eq_iff_iff, hg.poison h.sb, one_line (by decide) hl, h.poisoned]
  unfold State.scaleAt
  dsimp only
  rw [hb, hp]

end Rested

/-! The landing. -/

theorem State.readPiece_now (s : State) (cell ctx : Nat) (cellKind strong : Bool) (p : Piece) : (s.readPiece cell ctx cellKind strong p).1.now = s.now := by
  unfold State.readPiece
  split
  · unfold State.storeRead
    dsimp only
    split <;> rfl
  · have e := congrArg State.now (s.readPlace_access cell ctx strong p.place p.addr p.len).core
    exact e

theorem State.groupBytes_now (s : State) (cell ctx : Nat) (cellKind strong : Bool) (g : Group) : (s.groupBytes cell ctx cellKind strong g).1.now = s.now := by
  rw [State.groupBytes_eq]
  exact foldl_keeps (fun a : State × List Byte × Bool => a.1.now = s.now) _ _ _ rfl fun a p ha => (a.1.readPiece_now cell ctx cellKind strong p).trans ha

/-- An acquire load moves A's horizon to now (R69, R135). -/
theorem State.performLoad_horizon (s : State) (cell ctx : Nat) {f : Flying} (hf : f.acq = true) : ((s.performLoad cell ctx f).1.ctx cell ctx).ea.horizon = s.now := by
  have hnow := s.groupBytes_now cell ctx f.cell f.acq f.group
  unfold State.performLoad
  extract_lets r sc
  have hsc : sc.1.now = s.now := by
    unfold sc
    split
    · next l _ =>
      have e := congrArg State.now (r.1.readPlace_access cell ctx false l.2 l.1 4).core
      exact Eq.trans e hnow
    · exact hnow
  rw [if_pos hf]
  simpa [State.acquire, Ctx.setEng] using hsc

/-- The entry that a load group becomes. -/
def State.landedEntry (s : State) (cell ctx : Nat) (st : StreamNo) (f : Flying) : Entry :=
  let r := s.performLoad cell ctx f
  Entry.ofBytes r.2.1 (r.2.2.2.getD (if f.group.carry then ((s.ctx cell ctx).stream st).rowScale else .absent)) r.2.2.1

/-- The stream that a landed load group leaves. -/
def State.landedStream (s : State) (cell ctx : Nat) (st : StreamNo) (f : Flying) : Stream :=
  let t := (s.ctx cell ctx).stream st
  let e := s.landedEntry cell ctx st f
  if t.dropping = [] then { t with loads := t.loads.drop 1, entries := t.entries ++ [e], tail := t.tail + 1, rowScale := e.scale }
  else { t with dropping := t.dropping.drop 1 }

variable {st : StreamNo} {f : Flying} {rest : List Flying}

/-- The state after a load group has landed. -/
def State.landed (s : State) (cell ctx : Nat) (st : StreamNo) (f : Flying) : State :=
  (s.performLoad cell ctx f).1.setCtx cell ctx (((s.performLoad cell ctx f).1.ctx cell ctx).setStream st (s.landedStream cell ctx st f))

theorem State.landed_stream (s : State) (cell ctx : Nat) (st : StreamNo) (f : Flying) : ((s.landed cell ctx st f).ctx cell ctx).stream st = s.landedStream cell ctx st f := by
  rw [State.landed, State.setCtx_ctx, if_pos ⟨rfl, rfl⟩, Ctx.setStream_stream, if_pos rfl]
theorem State.landed_horizon (s : State) (cell ctx : Nat) (st : StreamNo) (hf : f.acq = true) : ((s.landed cell ctx st f).ctx cell ctx).ea.horizon = s.now := by
  rw [State.landed, State.setCtx_ctx, if_pos ⟨rfl, rfl⟩]
  exact s.performLoad_horizon cell ctx hf

/-- The oldest load group of a stream lands (R68, R71). -/
theorem State.landGroup_eq (hf : ((s.ctx cell ctx).stream st).loadsFly = f :: rest) (hw : (s.ctx cell ctx).mustWait st f = false) :
    s.landGroup cell ctx st = some (s.landed cell ctx st f) := by
  unfold State.landGroup State.landed State.landedStream State.landedEntry
  dsimp only
  rw [hf]
  dsimp only
  rw [hw, if_neg Bool.false_ne_true]
  cases hd : ((s.ctx cell ctx).stream st).dropping with
  | cons a l => rfl
  | nil =>
    cases hsc : (s.performLoad cell ctx f).2.2.2 <;> rfl

theorem State.landGroup_waits (hf : ((s.ctx cell ctx).stream st).loadsFly = f :: rest) (hw : (s.ctx cell ctx).mustWait st f = true) : s.landGroup cell ctx st = none := by
  unfold State.landGroup
  dsimp only
  rw [hf]
  exact if_pos hw

/-- The bytes of a group of one piece in their place (R243). -/
theorem State.landedEntry_one (s : State) (cell ctx : Nat) (st : StreamNo) (hg : f.group.pieces = [p]) (hl : p.off + p.len ≤ 64)
    (hn : (s.readPiece cell ctx f.cell f.acq p).2.1.length = p.len) :
    (∀ j < p.len, (vecBytes (s.landedEntry cell ctx st f).data).getD (p.off + j) 0 = (s.readPiece cell ctx f.cell f.acq p).2.1.getD j 0)
      ∧ (s.landedEntry cell ctx st f).poison = (s.readPiece cell ctx f.cell f.acq p).2.2 := by
  have h := s.groupBytes_one cell ctx f.cell f.acq hg
  have hp := congrArg Prod.snd h
  refine ⟨fun j hj => ?_, hp⟩
  show (vecBytes (vecOf (s.groupBytes cell ctx f.cell f.acq f.group).2.1)).getD (p.off + j) 0 = _
  rw [congrArg Prod.fst h]
  exact placed_getD hn hl hj

/-- From the cell store, outside every mailbox (R104). -/
theorem State.landedEntry_cell (s : State) (cell ctx : Nat) (st : StreamNo) (hg : f.group.pieces = [p]) (hl : p.off + p.len ≤ 64) (hc : f.cell = true)
    (hm : (s.cell cell).mailHit p.addr p.len = false) :
    (∀ j < p.len, (vecBytes (s.landedEntry cell ctx st f).data).getD (p.off + j) 0 = mget 0 (s.cell cell).store (p.addr + j))
      ∧ (s.landedEntry cell ctx st f).poison = (s.cell cell).storePoison p.addr p.len := by
  have hr : (s.readPiece cell ctx f.cell f.acq p).2 = ((s.cell cell).rawRead p.addr p.len, (s.cell cell).storePoison p.addr p.len) := by
    rw [State.readPiece, if_pos hc, s.storeRead_bytes cell _ _ hm]
  have h := s.landedEntry_one cell ctx st hg hl (by rw [hr]; simp [Cell.rawRead])
  rw [hr] at h
  exact ⟨fun j hj => (h.1 j hj).trans (map_range_getD _ hj), h.2⟩

/-- From memory: what the context sees (R107 to R109, R130). -/
theorem State.landedEntry_memory (s : State) (cell ctx : Nat) (st : StreamNo) (hg : f.group.pieces = [p]) (hl : p.off + p.len ≤ 64) (h0 : 0 < p.len) (hc : f.cell = false)
    (hs : ∀ b ∈ (s.ctx cell ctx).sb, s.slotPages b.line = []) (hh : f.acq = true ∨ ∀ j < p.len, s.hits cell ctx ((p.addr + j) / 64) = []) :
    (∀ j < p.len, (vecBytes (s.landedEntry cell ctx st f).data).getD (p.off + j) 0 = s.sees cell ctx (p.addr + j))
      ∧ ((s.ctx cell ctx).sb = [] → ((s.landedEntry cell ctx st f).poison = true ↔ ∃ j < p.len, s.poisoned ((p.addr + j) / 64) = true)) := by
  have hg' := State.readPlace_gives (pl := p.place) h0 (by omega) hs hh
  have hr : s.readPiece cell ctx f.cell f.acq p = s.readPlace cell ctx f.acq p.place p.addr p.len := by
    rw [State.readPiece, hc, if_neg Bool.false_ne_true]
  have h := s.landedEntry_one cell ctx st hg hl (by rw [hr, hg'.bytes]; simp)
  rw [hr, hg'.bytes] at h
  exact ⟨fun j hj => (h.1 j hj).trans (map_range_getD _ hj), fun hn => by rw [h.2]; exact hg'.poison hn⟩

/-- A group past the first of its row carries the stream's scale (R243). -/
theorem State.landedEntry_carries (s : State) (cell ctx : Nat) (st : StreamNo) (hg : f.group.scale = none) :
    (s.landedEntry cell ctx st f).scale = if f.group.carry then ((s.ctx cell ctx).stream st).rowScale else .absent := by
  unfold State.landedEntry State.performLoad
  dsimp only
  rw [hg]
  rfl

/-- The first group of its row reads the row's scale (R69). -/
theorem State.landedEntry_reads (s : State) (cell ctx : Nat) (st : StreamNo) {l : Nat × Place} (hg : f.group.scale = some l) (hl : l.1 % 64 + 4 ≤ 64)
    (hk : f.cell = true ∨ f.acq = true) (hs : (s.ctx cell ctx).sb = []) (hh : s.hits cell ctx (l.1 / 64) = []) :
    (s.landedEntry cell ctx st f).scale = if s.poisoned (l.1 / 64) then .bad else .word (BitVec.ofNat 32 (leNat (bytesAt s l.1 4))) := by
  have h := (Rested.groupBytes hk hs f.group).scale (l := ⟨l.1, l.2⟩) hl hh
  unfold State.landedEntry State.performLoad
  dsimp only
  rw [hg]
  exact h

/-- STREAM_GROUP_LAND (R68, R71): a group that must wait changes nothing, another lands. -/
theorem streamGroupLand_waits (hf : ((s.ctx cell ctx).stream st).loadsFly = f :: rest) (hw : (s.ctx cell ctx).mustWait st f = true) :
    runs (.evStreamGroupLand cell ctx st) s s :=
  congrArg Host.Outcome.next (by rw [State.landGroup_waits hf hw]; rfl)
theorem streamGroupLand_lands (hf : ((s.ctx cell ctx).stream st).loadsFly = f :: rest) (hw : (s.ctx cell ctx).mustWait st f = false) :
    runs (.evStreamGroupLand cell ctx st) s (s.landed cell ctx st f) :=
  congrArg Host.Outcome.next (by rw [State.landGroup_eq hf hw]; rfl)

end Sys2Proof.Machine
end

section
/-! An entry is written over a piece of its stream: into the cell store, as a release, or into the store buffer (R69, R105, R108, R145, R222, R389). -/

namespace Sys2Proof.Machine
open Sys2Proof Sys2Proof.Claims

variable {s t : State} {cell ctx : Nat} {e : Entry} {p : Piece} {ws : List (Nat × Byte)}

/-! The writes of a piece. -/

theorem addrBytes_map (pa n : Nat) (f : Nat → Byte) : addrBytes pa ((List.range n).map f) = (List.range n).map fun i => (pa + i, f i) := by
  induction n generalizing pa f with
  | zero => rfl
  | succ n ih =>
    rw [List.range_succ_eq_map, List.map_cons, List.map_cons, List.map_map, List.map_map, addrBytes, ih]
    refine congrArg₂ List.cons rfl (List.map_congr_left fun i _ => ?_)
    rw [Function.comp_apply, Function.comp_apply, Nat.add_assoc, Nat.add_comm 1 i]

/-- The bytes of an entry that lie in a piece. -/
def pieceBytes (e : Entry) (p : Piece) : List Byte := (List.range p.len).map fun i => (vecBytes e.data).getD (p.off + i) 0
/-- The lane flag that a byte of a piece goes by. -/
def pieceLane (e : Entry) (p : Piece) (y : Nat) : Bool := e.lanes.getLsbD ((p.off + (y - p.addr)) / 4)

theorem length_pieceBytes (e : Entry) (p : Piece) : (pieceBytes e p).length = p.len := by rw [pieceBytes, List.length_map, List.length_range]

theorem pieceWrites_eq (e : Entry) (p : Piece) : pieceWrites e p = (addrBytes p.addr (pieceBytes e p)).filter fun w => pieceLane e p w.1 := by
  rw [pieceBytes, addrBytes_map, List.filter_map, pieceWrites]
  refine congrArg _ (List.filter_congr fun i _ => ?_)
  rw [Function.comp_apply, pieceLane, Nat.add_sub_cancel_left]

theorem written_pieceWrites (e : Entry) (p : Piece) (y : Nat) : written (pieceWrites e p) y =
    if p.addr ≤ y ∧ y < p.addr + p.len ∧ pieceLane e p y = true then some ((vecBytes e.data).getD (p.off + (y - p.addr)) 0) else none := by
  rw [pieceWrites_eq, written_filter, written_addrBytes, length_pieceBytes]
  by_cases hy : p.addr ≤ y ∧ y < p.addr + p.len
  · rw [if_pos hy, pieceBytes, map_range_getD _ (by omega)]
    simp only [hy.1, hy.2, true_and]
  · rw [if_neg hy, ite_self, if_neg fun h => hy ⟨h.1, h.2.1⟩]

theorem mem_pieceWrites {w : Nat × Byte} (h : w ∈ pieceWrites e p) : p.addr ≤ w.1 ∧ w.1 < p.addr + p.len := by
  rw [pieceWrites_eq] at h
  have := mem_addrBytes (List.mem_of_mem_filter h)
  rwa [length_pieceBytes] at this

/-- The lines of some writes. -/
def linesOf (ws : List (Nat × Byte)) : List Nat := (ws.map fun w => w.1 / 64).eraseDups
/-- The writes of one line. -/
def ofLine (ws : List (Nat × Byte)) (l : Nat) : List (Nat × Byte) := ws.filter fun w => w.1 / 64 = l

theorem mem_linesOf {l : Nat} : l ∈ linesOf ws ↔ ∃ w ∈ ws, w.1 / 64 = l := by rw [linesOf, List.mem_eraseDups, List.mem_map]
theorem ofLine_line (l : Nat) : ∀ w ∈ ofLine ws l, w.1 / 64 = l := fun _ hw => of_decide_eq_true (List.mem_filter.1 hw).2
theorem written_ofLine (l y : Nat) : written (ofLine ws l) y = if y / 64 = l then written ws y else none := by
  rw [ofLine, written_filter (fun a => decide (a / 64 = l))]
  simp only [decide_eq_true_eq]
theorem written_none {y : Nat} (h : y / 64 ∉ linesOf ws) : written ws y = none := by
  have hn : ∀ w ∈ ws, w.1 ≠ y := fun _ hw hy => h (mem_linesOf.2 ⟨_, hw, by rw [hy]⟩)
  clear h
  induction ws with
  | nil => rfl
  | cons w t ih => rw [written, ih fun v hv => hn v (List.mem_cons_of_mem _ hv), if_neg (hn w List.mem_cons_self)]

/-- Numbers that are one of two leave two at most once their repeats are dropped. -/
theorem length_eraseDups_le_two {l : List Nat} {a b : Nat} (h : ∀ x ∈ l, x = a ∨ x = b) : l.eraseDups.length ≤ 2 := by
  cases l with
  | nil => simp
  | cons x l =>
    rw [List.eraseDups_cons, List.length_cons]
    generalize hm : (l.filter fun y => !y == x) = m
    have hne : ∀ y ∈ m, (y = a ∨ y = b) ∧ y ≠ x := fun y hy => by
      rw [← hm, List.mem_filter] at hy
      exact ⟨h y (List.mem_cons_of_mem _ hy.1), by simpa using hy.2⟩
    cases m with
    | nil => simp
    | cons y m =>
      have hx := h x List.mem_cons_self
      have hy := hne y List.mem_cons_self
      have hm' : (m.filter fun z => !z == y) = [] := List.filter_eq_nil_iff.2 fun z hz => by
        have := hne z (List.mem_cons_of_mem _ hz)
        have hzy : z = y := by omega
        simp [hzy]
      rw [List.eraseDups_cons, hm']
      simp

/-- A piece of an entry lies in one line or two. -/
theorem linesOf_piece (e : Entry) (hl : p.len ≤ 64) : (linesOf (pieceWrites e p)).length ≤ 2 :=
  length_eraseDups_le_two (a := p.addr / 64) (b := p.addr / 64 + 1) fun x hx => by
    obtain ⟨w, hw, rfl⟩ := List.mem_map.1 hx
    have := mem_pieceWrites hw
    omega

/-- A piece that is a whole line, with every lane. -/
def wholeLine (p : Piece) (e : Entry) : Prop := p.addr % 64 = 0 ∧ p.off = 0 ∧ p.len = 64 ∧ e.lanes = 0xFFFF

theorem pieceWrites_whole (h : wholeLine p e) : pieceWrites e p = addrBytes p.addr (pieceBytes e p) := by
  obtain ⟨ha, ho, hn, hl⟩ := h
  rw [pieceWrites_eq, List.filter_eq_self]
  intro w hw
  have hw := mem_addrBytes hw
  rw [length_pieceBytes, hn] at hw
  have hlane : ∀ k < 16, (0xFFFF : BitVec 16).getLsbD k = true := by decide
  rw [pieceLane, hl]
  exact hlane _ (by omega)

/-- Its writes are those of its line, which they fill. -/
theorem whole_ofLine (h : wholeLine p e) : p.addr / 64 ∈ linesOf (pieceWrites e p) ∧ fullLine (ofLine (pieceWrites e p) (p.addr / 64)) = true := by
  have hlen : (pieceBytes e p).length = 64 := (length_pieceBytes e p).trans h.2.2.1
  rw [pieceWrites_whole h]
  have hall : ∀ w ∈ addrBytes p.addr (pieceBytes e p), w.1 / 64 = p.addr / 64 := fun w hw => by
    have hw := mem_addrBytes hw
    have := h.1
    omega
  refine ⟨?_, ?_⟩
  · cases hb : pieceBytes e p with
    | nil => rw [hb] at hlen; cases hlen
    | cons b bs => exact mem_linesOf.2 ⟨(p.addr, b), List.mem_cons_self, rfl⟩
  · rw [ofLine, List.filter_eq_self.2 fun w hw => decide_eq_true (hall w hw)]
    exact fullLine_addrBytes h.1 hlen

/-! Into the cell store. -/

theorem State.spoilWritten_cell (s : State) (cell : Nat) (ws : List (Nat × Byte)) :
    ((s.spoilWritten cell ws).cell cell).store = (s.cell cell).store ∧ ((s.spoilWritten cell ws).cell cell).cpoison = (s.cell cell).cpoison
      ∧ ∀ y, (s.spoilWritten cell ws).latest y = s.latest y := by
  refine foldl_keeps (fun t : State => (t.cell cell).store = (s.cell cell).store ∧ (t.cell cell).cpoison = (s.cell cell).cpoison ∧ ∀ y, t.latest y = s.latest y) _ _ _
    ⟨rfl, rfl, fun _ => rfl⟩ fun t i ⟨h1, h2, h3⟩ => ?_
  obtain ⟨chs, hc, -⟩ := t.spoilMail_cell cell (64 * i) 64 cell
  rw [hc]
  refine ⟨h1, h2, fun y => Eq.trans ?_ (h3 y)⟩
  unfold State.spoilMail
  dsimp only
  split <;> rfl

theorem mget_foldl_mdel {l : List Nat} {k : Nat} (m : SMap Bool) (h : k ∈ l) : mget false (l.foldl (fun m g => mdel m g) m) k = false := by
  have keeps : ∀ (l : List Nat) (m : SMap Bool), mget false m k = false → mget false (l.foldl (fun m g => mdel m g) m) k = false := fun l m hm =>
    foldl_keeps (fun m : SMap Bool => mget false m k = false) _ _ _ hm fun m g hm => by
      rw [mget, mfind_mdel]
      split
      · rfl
      · exact hm
  induction l generalizing m with
  | nil => exact absurd h List.not_mem_nil
  | cons g l ih =>
    rw [List.foldl_cons]
    rcases List.mem_cons.1 h with rfl | h
    · exact keeps l _ (by rw [mget, mfind_mdel, if_pos rfl]; rfl)
    · exact ih _ h

/-- A granule written whole loses its poison mark (R389). -/
theorem Cell.scatter_cpoison (k : Cell) {g : Nat} (hg : g ∈ linesOf ws) (hf : fullLine (ofLine ws g) = true) : mget false (k.scatter ws).cpoison g = false :=
  mget_foldl_mdel _ (List.mem_filter.2 ⟨hg, hf⟩)

/-! As a release. -/

theorem State.dropWritten_sb (s : State) (cell ctx : Nat) (ws : List (Nat × Byte)) :
    ((s.dropWritten cell ws).ctx cell ctx).sb = (s.ctx cell ctx).sb ∧ (∀ y, (s.dropWritten cell ws).latest y = s.latest y)
      ∧ ∀ n, (s.dropWritten cell ws).poisoned n = s.poisoned n := by
  refine foldl_keeps (fun t : State => (t.ctx cell ctx).sb = (s.ctx cell ctx).sb ∧ (∀ y, t.latest y = s.latest y) ∧ ∀ n, t.poisoned n = s.poisoned n) _ _ _
    ⟨rfl, fun _ => rfl, fun _ => rfl⟩ fun t l ⟨h1, h2, h3⟩ => ⟨Eq.trans ?_ h1, h2, h3⟩
  rw [State.ctx, State.dropL1, State.setCell_cell, if_pos rfl]
  rfl

theorem State.homeScatter_ctx (s : State) (ws : List (Nat × Byte)) (c k : Nat) : (s.homeScatter ws).ctx c k = s.ctx c k :=
  foldl_keeps (fun t : State => t.ctx c k = s.ctx c k) _ _ _ rfl fun t l ht => by
    rw [State.ctx, cell_of_cells (t.homeWrite_onlyMemory l _).cells]
    exact ht

/-- Writes of some lines performed at their homes. -/
theorem homeWrites (ls : List Nat) (s : State) (hs : ∀ l ∈ ls, s.slotPages l = []) :
    let t := ls.foldl (fun s l => s.homeWrite l (ofLine ws l)) s
    (∀ y, t.latest y = if y / 64 ∈ ls then (written ws y).getD (s.latest y) else s.latest y)
      ∧ ∀ n, t.poisoned n = if n ∈ ls ∧ fullLine (ofLine ws n) = true then false else s.poisoned n := by
  induction ls generalizing s with
  | nil => exact ⟨fun y => by simp, fun n => by simp⟩
  | cons l ls ih =>
    have hl := hs l List.mem_cons_self
    obtain ⟨h1, h2⟩ := ih (s.homeWrite l (ofLine ws l)) fun m hm => by
      rw [((s.homeWrite_onlyMemory l (ofLine ws l)).access (n := 0)).slotPages]
      exact hs m (List.mem_cons_of_mem _ hm)
    refine ⟨fun y => ?_, fun n => ?_⟩
    · rw [List.foldl_cons, h1, State.latest_homeWrite s l _ y hl (ofLine_line l), written_ofLine]
      by_cases hy : y / 64 = l
      · rw [if_pos hy, if_pos (List.mem_cons.2 (.inl hy))]
        cases written ws y <;> simp
      · rw [if_neg hy, Option.getD_none]
        simp [hy]
    · rw [List.foldl_cons, h2, State.poisoned_homeWrite s l _ n hl]
      by_cases hn : n = l
      · subst hn
        by_cases hf : fullLine (ofLine ws n) = true <;> simp [hf]
      · simp [hn, Ne.symm hn]

theorem State.homeScatter_latest (s : State) (hs : ∀ l ∈ linesOf ws, s.slotPages l = []) (y : Nat) : (s.homeScatter ws).latest y = (written ws y).getD (s.latest y) := by
  refine ((homeWrites (ws := ws) (linesOf ws) s hs).1 y).trans ?_
  split
  · rfl
  · next h => rw [written_none h]; rfl

theorem State.homeScatter_poisoned (s : State) (hs : ∀ l ∈ linesOf ws, s.slotPages l = []) {n : Nat} (hn : n ∈ linesOf ws) (hf : fullLine (ofLine ws n) = true) :
    (s.homeScatter ws).poisoned n = false :=
  ((homeWrites (ws := ws) (linesOf ws) s hs).2 n).trans (if_pos ⟨hn, hf⟩)

/-! Into the store buffer. -/

theorem SbLine.take_line (f : SbLine) (ws : List (Nat × Byte)) : (f.take ws).line = f.line := rfl

theorem foldl_set_getD (ws : List (Nat × Byte)) (b : List Byte) (x : Nat) (hb : b.length = 64) (hw : ∀ w ∈ ws, w.1 / 64 = x / 64) :
    (ws.foldl (fun b w => b.set (w.1 % 64) w.2) b).length = 64
      ∧ (ws.foldl (fun b w => b.set (w.1 % 64) w.2) b).getD (x % 64) 0 = (written ws x).getD (b.getD (x % 64) 0) := by
  induction ws generalizing b with
  | nil => exact ⟨hb, rfl⟩
  | cons w ws ih =>
    obtain ⟨h1, h2⟩ := ih (b.set (w.1 % 64) w.2) (by rw [List.length_set, hb]) fun v hv => hw v (List.mem_cons_of_mem _ hv)
    refine ⟨h1, ?_⟩
    rw [List.foldl_cons, h2, written]
    cases written ws x with
    | some v => rfl
    | none =>
      have hx : w.1 % 64 = x % 64 ↔ w.1 = x := by
        have := hw w List.mem_cons_self
        omega
      rw [Option.getD_none, List.getD_eq_getElem?_getD, List.getElem?_set]
      by_cases h : w.1 = x
      · rw [if_pos (hx.2 h), if_pos (by omega), if_pos h]
        rfl
      · rw [if_neg fun g => h (hx.1 g), if_neg h, ← List.getD_eq_getElem?_getD]
        rfl

theorem foldl_mask_bit (ws : List (Nat × Byte)) (m : BitVec 64) (x : Nat) (hw : ∀ w ∈ ws, w.1 / 64 = x / 64) :
    (ws.foldl (fun m w => m ||| 1#64 <<< (w.1 % 64)) m).getLsbD (x % 64) = (m.getLsbD (x % 64) || (written ws x).isSome) := by
  induction ws generalizing m with
  | nil => simp [written]
  | cons w ws ih =>
    rw [List.foldl_cons, ih _ fun v hv => hw v (List.mem_cons_of_mem _ hv), written]
    have hx : x % 64 = w.1 % 64 ↔ w.1 = x := by
      have := hw w List.mem_cons_self
      omega
    have hbit : (1#64 <<< (w.1 % 64)).getLsbD (x % 64) = decide (w.1 = x) := by
      rw [BitVec.getLsbD_shiftLeft]
      have h64 : x % 64 < 64 := Nat.mod_lt _ (by decide)
      by_cases h : w.1 = x
      · rw [hx.2 h]
        simp [h, Nat.mod_lt]
      · have : x % 64 ≠ w.1 % 64 := fun g => h (hx.1 g)
        simp [h]
        omega
    rw [BitVec.getLsbD_or, hbit]
    cases written ws x with
    | some v => simp
    | none => by_cases h : w.1 = x <;> simp [h]

/-- An entry that takes writes of its line gives them over what it held. -/
theorem SbLine.take_byteAt (f : SbLine) (ws : List (Nat × Byte)) (hw : ∀ w ∈ ws, w.1 / 64 = f.line) (x : Nat) : (f.take ws).byteAt x = (written ws x).or (f.byteAt x) := by
  by_cases hl : f.line = x / 64
  · have hw' : ∀ w ∈ ws, w.1 / 64 = x / 64 := fun w h => (hw w h).trans hl
    obtain ⟨hlen, hget⟩ := foldl_set_getD ws (vecBytes f.data) x (length_vecBytes _) hw'
    rw [SbLine.byteAt, SbLine.take_line, SbLine.take, vecBytes_vecOf hlen, hget, foldl_mask_bit ws f.mask x hw', SbLine.byteAt]
    cases written ws x <;> simp [hl]
  · rw [SbLine.byteAt, if_neg fun h => hl h.1, SbLine.byteAt, if_neg fun h => hl h.1, written_none fun h => ?_]
    · rfl
    · obtain ⟨w, hm, hx⟩ := mem_linesOf.1 h
      exact hl ((hw w hm).symm.trans hx)

/-- Weak writes of one line enter a buffer with room: they are what it gives over what it gave (R108). -/
theorem sbPut_weak {sb : List SbLine} (line bank : Nat) (hw : ∀ w ∈ ws, w.1 / 64 = line) (hroom : sb.length < Config.storeBuffer) :
    ∃ sb', sbPut sb line bank ws .weak = some sb' ∧ sb'.length ≤ sb.length + 1 ∧ ∀ x, buffered sb' x = (written ws x).or (buffered sb x) := by
  have fresh : ∀ x, buffered (sb ++ [(SbLine.mk line 0 0 .weak bank).take ws]) x = (written ws x).or (buffered sb x) := fun x => by
    rw [buffered_append, buffered_cons, SbLine.take_byteAt _ ws hw x, show buffered [] x = none from rfl, SbLine.byteAt]
    simp
  unfold sbPut
  dsimp only
  rw [if_pos hroom]
  split
  · next f hf =>
    split
    · obtain ⟨hline, as, bs, hsplit, has⟩ := List.find?_eq_some_iff_append.1 hf
      have hline : f.line = line := beq_iff_eq.1 hline
      have has' : ∀ a ∈ as.reverse, a.line ≠ line := fun a ha h => by
        have := has a (List.mem_reverse.1 ha)
        simp [h] at this
      have hidx : sb.reverse.findIdx (fun a => a.line == line) = as.length := by
        rw [hsplit, List.findIdx_append, List.findIdx_eq_length_of_false fun a ha => ?_, if_neg (Nat.lt_irrefl _), List.findIdx_cons, beq_iff_eq.2 hline]
        · exact Nat.zero_add _
        · simpa using has a ha
      have hsb : sb = bs.reverse ++ f :: as.reverse := by
        rw [← List.reverse_reverse sb, hsplit]
        simp
      have hset : (sb.reverse.set as.length (f.take ws)).reverse = bs.reverse ++ f.take ws :: as.reverse := by
        rw [hsplit, List.set_append_right _ _ (Nat.le_refl _), Nat.sub_self, List.set_cons_zero]
        simp
      refine ⟨_, rfl, ?_, fun x => ?_⟩
      · rw [List.length_reverse, List.length_set, List.length_reverse]
        omega
      · rw [hidx, hset]
        conv_rhs => rw [hsb]
        rw [buffered_append, buffered_cons, buffered_append, buffered_cons, f.take_byteAt ws (fun w h => (hw w h).trans hline.symm)]
        by_cases hx : x / 64 = line
        · rw [buffered_none fun a ha => by rw [hx]; exact has' a ha]
          cases written ws x <;> rfl
        · rw [written_none fun h => by
            obtain ⟨w, hm, hy⟩ := mem_linesOf.1 h
            exact hx (hy.symm.trans (hw w hm))]
          rfl
    · exact ⟨_, rfl, by simp, fresh⟩
  · exact ⟨_, rfl, by simp, fresh⟩

theorem State.bufferWrites_room (s : State) (cell ctx line bank : Nat) (hw : ∀ w ∈ ws, w.1 / 64 = line) (hroom : (s.ctx cell ctx).sb.length < Config.storeBuffer) :
    ((s.bufferWrites cell ctx line bank ws).ctx cell ctx).sb.length ≤ (s.ctx cell ctx).sb.length + 1
      ∧ (∀ x, buffered ((s.bufferWrites cell ctx line bank ws).ctx cell ctx).sb x = (written ws x).or (buffered (s.ctx cell ctx).sb x))
      ∧ ∀ y, (s.bufferWrites cell ctx line bank ws).latest y = s.latest y := by
  obtain ⟨sb, hput, hlen, hbuf⟩ := sbPut_weak line bank hw hroom
  have h : s.bufferWrites cell ctx line bank ws = s.setCtx cell ctx { s.ctx cell ctx with sb := sb } := by
    unfold State.bufferWrites
    dsimp only
    rw [hput]
    rfl
  rw [h, State.setCtx_ctx, if_pos ⟨rfl, rfl⟩]
  exact ⟨hlen, hbuf, fun _ => rfl⟩

theorem bufferLines (bank : Nat → Nat) (ls : List Nat) (s : State) (hroom : (s.ctx cell ctx).sb.length + ls.length ≤ Config.storeBuffer) :
    let t := ls.foldl (fun s l => s.bufferWrites cell ctx l (bank l) (ofLine ws l)) s
    (∀ x, buffered (t.ctx cell ctx).sb x = if x / 64 ∈ ls then (written ws x).or (buffered (s.ctx cell ctx).sb x) else buffered (s.ctx cell ctx).sb x)
      ∧ ∀ y, t.latest y = s.latest y := by
  induction ls generalizing s with
  | nil => exact ⟨fun x => by simp, fun _ => rfl⟩
  | cons l ls ih =>
    rw [List.length_cons] at hroom
    obtain ⟨h1, h2, h3⟩ := s.bufferWrites_room cell ctx l (bank l) (ofLine_line (ws := ws) l) (by omega)
    obtain ⟨g1, g2⟩ := ih (s.bufferWrites cell ctx l (bank l) (ofLine ws l)) (by omega)
    refine ⟨fun x => ?_, fun y => (g2 y).trans (h3 y)⟩
    rw [List.foldl_cons, g1, h2, written_ofLine]
    by_cases hx : x / 64 = l
    · rw [if_pos hx, if_pos (List.mem_cons.2 (.inl hx))]
      cases written ws x <;> simp
    · rw [if_neg hx, Option.none_or]
      simp [hx]

theorem State.bufferScatter_room (s : State) (cell ctx : Nat) (ps : List Piece) (hroom : (s.ctx cell ctx).sb.length + (linesOf ws).length ≤ Config.storeBuffer) :
    (∀ x, buffered ((s.bufferScatter cell ctx ps ws).ctx cell ctx).sb x = (written ws x).or (buffered (s.ctx cell ctx).sb x))
      ∧ ∀ y, (s.bufferScatter cell ctx ps ws).latest y = s.latest y := by
  obtain ⟨h1, h2⟩ := bufferLines (ws := ws) (bankOf ps) (linesOf ws) s hroom
  refine ⟨fun x => (h1 x).trans ?_, h2⟩
  split
  · rfl
  · next h => rw [written_none h, Option.none_or]

/-! A group of one piece. -/

theorem State.writeGroup_one (s : State) (cell ctx : Nat) (ck rel : Bool) {g : Group} (hg : g.pieces = [p]) (e : Entry) : s.writeGroup cell ctx ck rel g e =
    if ck then (s.setCell cell (((s.cell cell).wakeFor p.addr p.len).scatter (pieceWrites e p))).spoilWritten cell (pieceWrites e p)
    else if rel then ((s.drainCtx cell ctx).dropWritten cell (pieceWrites e p)).homeScatter (pieceWrites e p)
    else s.bufferScatter cell ctx [p] (pieceWrites e p) := by
  unfold State.writeGroup
  rw [hg, List.flatMap_singleton]
  rfl

/-- What a piece's bytes read after they are written over some. -/
theorem written_gives (e : Entry) (p : Piece) (y : Nat) (old : Byte) : (written (pieceWrites e p) y).getD old =
    if p.addr ≤ y ∧ y < p.addr + p.len ∧ e.lanes.getLsbD ((p.off + (y - p.addr)) / 4) = true then (vecBytes e.data).getD (p.off + (y - p.addr)) 0 else old := by
  rw [written_pieceWrites, pieceLane]
  split <;> rfl

/-- A store group of one piece is written (R69, R105, R108, R145, R389). -/
theorem pieceWritten_writeGroup (s : State) (cell ctx : Nat) (ck rel : Bool) {g : Group} (hg : g.pieces = [p]) (e : Entry) :
    pieceWritten s (s.writeGroup cell ctx ck rel g e) cell ctx ck rel p e := by
  intro hfit
  dsimp only
  rw [s.writeGroup_one cell ctx ck rel hg e]
  refine ⟨fun hc => ?_, fun hc hr hsb hsl => ?_, fun hc hr hlen => ?_⟩
  · rw [if_pos hc]
    obtain ⟨hst, hcp, hla⟩ := State.spoilWritten_cell (s.setCell cell (((s.cell cell).wakeFor p.addr p.len).scatter (pieceWrites e p))) cell (pieceWrites e p)
    rw [hst, hcp, State.setCell_cell, if_pos rfl]
    refine ⟨fun y => ?_, fun y => (hla y).trans rfl, fun hw => ?_⟩
    · rw [Cell.scatter_store, mget_foldl_mset, written_gives, Cell.wakeFor_store]
    · exact Cell.scatter_cpoison _ (whole_ofLine hw).1 (whole_ofLine hw).2
  · rw [hc, if_neg Bool.false_ne_true, if_pos hr]
    obtain ⟨hb, hla, -⟩ := (s.drainCtx cell ctx).dropWritten_sb cell ctx (pieceWrites e p)
    have hsl' : ∀ l ∈ linesOf (pieceWrites e p), ((s.drainCtx cell ctx).dropWritten cell (pieceWrites e p)).slotPages l = [] := fun l hl => by
      obtain ⟨w, hw, rfl⟩ := mem_linesOf.1 hl
      rw [((s.drainCtx_access cell ctx).trans (State.dropWritten_access _ cell (pieceWrites e p))).slotPages]
      exact hsl w.1 (mem_pieceWrites hw).1 (mem_pieceWrites hw).2
    refine ⟨?_, fun y => ?_, fun hw => State.homeScatter_poisoned _ hsl' (whole_ofLine hw).1 (whole_ofLine hw).2⟩
    · rw [State.homeScatter_ctx, hb, State.drainCtx_ctx, if_pos ⟨rfl, rfl⟩]
    · rw [State.homeScatter_latest _ hsl', written_gives, hla, State.drainCtx_latest s cell ctx hsb]
  · rw [hc, hr, if_neg Bool.false_ne_true, if_neg Bool.false_ne_true]
    have hlines := linesOf_piece (p := p) e (by omega)
    obtain ⟨hb, hla⟩ := s.bufferScatter_room (ws := pieceWrites e p) cell ctx [p] (by
      have : Config.storeBuffer = 16 := rfl
      omega)
    refine ⟨hla, fun y => ?_⟩
    rw [hb]
    refine Eq.trans ?_ (written_gives e p y _)
    cases written (pieceWrites e p) y <;> rfl

end Sys2Proof.Machine
end

section
/-! A store group is written; a closing stream writes its entries (R69, R71, R426). -/

namespace Sys2Proof.Machine
open Sys2Proof Sys2Proof.Claims

variable {s t u v w : State} {cell ctx : Nat} {st : StreamNo} {e : Entry} {p : Piece}

/-! What a change of streams keeps. -/

/-- From s to t a context's buffer, its cell's store and the coherent memory stayed. -/
structure SameData (cell ctx : Nat) (s t : State) : Prop where
  sb : (t.ctx cell ctx).sb = (s.ctx cell ctx).sb
  store : (t.cell cell).store = (s.cell cell).store
  cpoison : (t.cell cell).cpoison = (s.cell cell).cpoison
  latest : ∀ y, t.latest y = s.latest y
  poisoned : ∀ n, t.poisoned n = s.poisoned n
  slotPages : ∀ n, t.slotPages n = s.slotPages n

namespace SameData

theorem refl (s : State) : SameData cell ctx s s := ⟨rfl, rfl, rfl, fun _ => rfl, fun _ => rfl, fun _ => rfl⟩
theorem trans (h : SameData cell ctx s t) (g : SameData cell ctx t u) : SameData cell ctx s u :=
  ⟨g.sb.trans h.sb, g.store.trans h.store, g.cpoison.trans h.cpoison, fun y => (g.latest y).trans (h.latest y), fun n => (g.poisoned n).trans (h.poisoned n),
    fun n => (g.slotPages n).trans (h.slotPages n)⟩
theorem symm (h : SameData cell ctx s t) : SameData cell ctx t s :=
  ⟨h.sb.symm, h.store.symm, h.cpoison.symm, fun y => (h.latest y).symm, fun n => (h.poisoned n).symm, fun n => (h.slotPages n).symm⟩
theorem setCtx (s : State) {x : Ctx} (hx : x.sb = (s.ctx cell ctx).sb) : SameData cell ctx s (s.setCtx cell ctx x) := by
  have hcell : (s.setCtx cell ctx x).cell cell = (s.cell cell).setCtx ctx x := (State.setCell_cell s cell cell _).trans (if_pos rfl)
  refine ⟨?_, by rw [hcell]; rfl, by rw [hcell]; rfl, fun _ => rfl, fun _ => rfl, fun _ => rfl⟩
  rw [State.setCtx_ctx, if_pos ⟨rfl, rfl⟩, hx]

/-- What a piece's writing says, it says of states with the same data. -/
theorem pieceWritten (hs : SameData cell ctx s t) (hu : SameData cell ctx u v) {ck rel : Bool} (h : Claims.pieceWritten s u cell ctx ck rel p e) :
    Claims.pieceWritten t v cell ctx ck rel p e := by
  intro hfit
  simp only [hs.sb, hs.store, hs.latest, hs.slotPages, hu.sb, hu.store, hu.cpoison, hu.latest, hu.poisoned]
  exact h hfit

end SameData

/-! The stream that a written group leaves. -/

theorem Stream.settle_eq (t : Stream) : t.settle = if t.st = .closing ∧ t.entries = [] ∧ t.stores = [] then closedStream t else t := by
  rw [Stream.settle]
  refine if_congr ?_ rfl rfl
  rw [List.isEmpty_iff, List.isEmpty_iff]

/-- A state with one stream set. -/
def State.setStream (s : State) (cell ctx : Nat) (st : StreamNo) (t : Stream) : State := s.setCtx cell ctx ((s.ctx cell ctx).setStream st t)

theorem State.setStream_stream (s : State) (cell ctx : Nat) (st : StreamNo) (t : Stream) : ((s.setStream cell ctx st t).ctx cell ctx).stream st = t := by
  rw [State.setStream, State.setCtx_ctx, if_pos ⟨rfl, rfl⟩, Ctx.setStream_stream, if_pos rfl]
theorem State.setStream_same (s : State) (cell ctx : Nat) (st : StreamNo) (t : Stream) : SameData cell ctx s (s.setStream cell ctx st t) := SameData.setCtx s rfl

/-- A closing stream after a step, closed when nothing is left. -/
def State.closedUp (s : State) (cell ctx : Nat) (st : StreamNo) : State := s.setStream cell ctx st ((s.ctx cell ctx).stream st).settle

/-! The step of an issued group. -/

variable {g : Group} {rest : List (Group × Entry)}

theorem storeWritten_waits (hst : ((s.ctx cell ctx).stream st).stores = (g, e) :: rest)
    (hw : (s.ctx cell ctx).mustWait st ⟨dCellKind ((s.ctx cell ctx).stream st).desc, true, dStrong ((s.ctx cell ctx).stream st).desc, g⟩ = true) :
    runs (.evStoreGroupWritten cell ctx st) s s := by
  refine congrArg Host.Outcome.next ?_
  unfold State.storeWritten
  dsimp only
  rw [hst]
  dsimp only
  rw [if_pos hw]
  rfl

theorem storeWritten_issued (hst : ((s.ctx cell ctx).stream st).stores = (g, e) :: rest)
    (hw : (s.ctx cell ctx).mustWait st ⟨dCellKind ((s.ctx cell ctx).stream st).desc, true, dStrong ((s.ctx cell ctx).stream st).desc, g⟩ = false) :
    runs (.evStoreGroupWritten cell ctx st) s
      ((s.writeGroup cell ctx (dCellKind ((s.ctx cell ctx).stream st).desc) (dStrong ((s.ctx cell ctx).stream st).desc) g e).setStream cell ctx st
        { (s.ctx cell ctx).stream st with stores := rest }.settle) := by
  refine congrArg Host.Outcome.next ?_
  unfold State.storeWritten
  dsimp only
  rw [hst]
  dsimp only
  rw [hw, if_neg Bool.false_ne_true]
  rfl

theorem storeWritten_idle (hst : ((s.ctx cell ctx).stream st).stores = []) (hc : ((s.ctx cell ctx).stream st).st ≠ .closing) :
    runs (.evStoreGroupWritten cell ctx st) s s := by
  refine congrArg Host.Outcome.next ?_
  unfold State.storeWritten
  dsimp only
  rw [hst]
  dsimp only
  rw [if_neg hc]
  rfl

theorem storeWritten_closes (hst : ((s.ctx cell ctx).stream st).stores = []) (hc : ((s.ctx cell ctx).stream st).st = .closing) :
    runs (.evStoreGroupWritten cell ctx st) s ((s.closeEntry cell ctx st false).closedUp cell ctx st) := by
  refine congrArg Host.Outcome.next ?_
  unfold State.storeWritten
  dsimp only
  rw [hst]
  dsimp only
  rw [if_pos hc]
  rfl

/-! The entries of a closing stream. -/

variable {es : List Entry} {ps : List Piece} {why : Why}

/-- The group at which a closing stream writes next (log 14). -/
abbrev nextGroup (t : Stream) : GroupAt := groupAt t.desc t.next.toNat

theorem State.scaleWaits_stream (s : State) (cell ctx : Nat) (st : StreamNo) :
    ((s.scaleWaits cell ctx st).ctx cell ctx).stream st = { (s.ctx cell ctx).stream st with waiting := true } := by
  unfold State.scaleWaits
  dsimp only
  split
  · next h => rw [← h]
  · rw [ctx_of_cells (State.countLate_onlyMemory _ _).cells, State.setCtx_ctx, if_pos ⟨rfl, rfl⟩]
    exact (Ctx.setStream_stream _ _ _ _).trans (if_pos rfl)

theorem closeEntry_waits (he : ((s.ctx cell ctx).stream st).entries = e :: es)
    (hp : s.closePieces cell ctx ((s.ctx cell ctx).stream st).desc (nextGroup ((s.ctx cell ctx).stream st)) = .ok ((ps, true), v)) :
    s.closeEntry cell ctx st false = v.scaleWaits cell ctx st := by
  unfold State.closeEntry
  dsimp only
  rw [he]
  dsimp only
  rw [hp]
  rfl

/-- The state in which a closing stream's entry is written: A has acquired when the scale was waited for. -/
def State.tookScale (v : State) (cell ctx : Nat) (waited : Bool) : State := if waited then v.acquire cell ctx .a else v

theorem State.tookScale_same (v : State) (cell ctx : Nat) (waited : Bool) : SameData cell ctx v (v.tookScale cell ctx waited) := by
  unfold State.tookScale
  split
  · exact SameData.setCtx v rfl
  · exact .refl v

theorem closeEntry_writes (he : ((s.ctx cell ctx).stream st).entries = e :: es)
    (hp : s.closePieces cell ctx ((s.ctx cell ctx).stream st).desc (nextGroup ((s.ctx cell ctx).stream st)) = .ok ((ps, false), v)) :
    let t := (s.ctx cell ctx).stream st
    let z := v.tookScale cell ctx t.waiting
    s.closeEntry cell ctx st false = (z.writeGroup cell ctx (dCellKind t.desc) (dStrong t.desc) ⟨ps, none, false, z.now⟩ e).setStream cell ctx st
      { t with entries := es, head := t.head + 1, next := t.next + 1, waiting := false } := by
  unfold State.closeEntry
  dsimp only
  rw [he]
  dsimp only
  rw [hp]
  rfl

theorem closeEntry_faults (he : ((s.ctx cell ctx).stream st).entries = e :: es)
    (hp : s.closePieces cell ctx ((s.ctx cell ctx).stream st).desc (nextGroup ((s.ctx cell ctx).stream st)) = .error (why, v)) :
    let t := (s.ctx cell ctx).stream st
    s.closeEntry cell ctx st false = (v.setStream cell ctx st { t with entries := [] }).lateStore cell ctx { why with va := (nextGroup t).addr } t.next.toNat := by
  unfold State.closeEntry
  dsimp only
  rw [he]
  dsimp only
  rw [hp]
  rfl

/-! The record of a late store. -/

/-- A delivery leaves the cells, but for what its hold does. -/
theorem State.deliver_keeps (s : State) (pid : Nat) (r : Record) (hold : State → State) :
    ∃ v : State, v.cells = s.cells ∧ (s.deliver pid r hold = v ∨ s.deliver pid r hold = hold v) := by
  have hf := (Told.fbHeader s pid).cells
  unfold State.deliver
  split
  · next z h => exact ⟨z, by rw [h] at hf; exact hf, .inr rfl⟩
  · next z h hz =>
    rw [hz] at hf
    have hr : (z.ringPut pid h r false).1.cells = z.cells := by
      unfold State.ringPut
      split
      · rfl
      have m := z.xlateDev_onlyMemory pid true .write (h.ring + BitVec.ofNat 64 (64 * (h.tail % 2 ^ h.logn)))
      split
      · next hy => rw [hy] at m; exact m.cells
      · next l y hy =>
        rw [hy] at m
        have hput : ∀ (y : State) a b c d, ((y.putBytes a b).putBytes c d).cells = y.cells := fun y a b c d =>
          ((State.putBytes_onlyMemory y a b).trans (State.putBytes_onlyMemory _ c d)).cells
        dsimp only
        split
        · exact (hput _ _ _ _ _).trans m.cells
        · exact (hput _ _ _ _ _).trans m.cells
    split
    · next y hy => exact ⟨y, by rw [hy] at hr; exact hr.trans hf, .inl rfl⟩
    · next y hy =>
      rw [hy] at hr
      exact ⟨y.countHold pid h, ((State.putBytes_onlyMemory y _ _).cells.trans hr).trans hf, .inr rfl⟩

theorem State.lateStore_stream (s : State) (cell ctx : Nat) (w : Why) (i : Nat) : ((s.lateStore cell ctx w i).ctx cell ctx).stream st = (s.ctx cell ctx).stream st := by
  obtain ⟨v, hv, h | h⟩ := s.deliver_keeps (s.cell cell).tag (mkRecord w.code 1 ctx (s.ctx cell ctx).chan (s.cell cell).lcell.toNat 4 w.level w.va (zext (s.ctx cell ctx).ea.pc)
    (BitVec.ofNat 64 i) (s.ctx cell ctx).phdr s.time 1 w.cause) (State.holdEsc cell ctx (mkRecord w.code 1 ctx (s.ctx cell ctx).chan (s.cell cell).lcell.toNat 4 w.level w.va
    (zext (s.ctx cell ctx).ea.pc) (BitVec.ofNat 64 i) (s.ctx cell ctx).phdr s.time 1 w.cause))
  · rw [show s.lateStore cell ctx w i = v from h, ctx_of_cells hv]
  · rw [show s.lateStore cell ctx w i = _ from h, State.holdEsc, State.setCtx_ctx, if_pos ⟨rfl, rfl⟩, ctx_of_cells hv]
    rfl

/-- Without a fault buffer the context holds the record (R383). -/
theorem State.lateStore_esc (s : State) (cell ctx : Nat) (w : Why) (i : Nat) (h : (s.part (s.cell cell).tag).fbhdr = 0) : ((s.lateStore cell ctx w i).ctx cell ctx).esc =
    (s.ctx cell ctx).esc ++ [mkRecord w.code 1 ctx (s.ctx cell ctx).chan (s.cell cell).lcell.toNat 4 w.level w.va (zext (s.ctx cell ctx).ea.pc) (BitVec.ofNat 64 i)
      (s.ctx cell ctx).phdr s.time 1 w.cause] := by
  unfold State.lateStore
  dsimp only
  rw [State.deliver_none _ _ _ _ h, State.holdEsc, State.setCtx_ctx, if_pos ⟨rfl, rfl⟩]

/-- The record of a closing stream's fault, by what the context held before. -/
theorem State.lateStore_setStream_esc (h : Access cell s v) (st : StreamNo) (t : Stream) (w : Why) (i : Nat) (hb : (s.part (s.cell cell).tag).fbhdr = 0) :
    (((v.setStream cell ctx st t).lateStore cell ctx w i).ctx cell ctx).esc =
      (s.ctx cell ctx).esc ++ [mkRecord w.code 1 ctx (s.ctx cell ctx).chan (s.cell cell).lcell.toNat 4 w.level w.va (zext (s.ctx cell ctx).ea.pc) (BitVec.ofNat 64 i)
        (s.ctx cell ctx).phdr s.time 1 w.cause] := by
  have hcell : (v.setStream cell ctx st t).cell cell = (v.cell cell).setCtx ctx ((v.ctx cell ctx).setStream st t) := (State.setCell_cell v cell cell _).trans (if_pos rfl)
  have hctx : (v.setStream cell ctx st t).ctx cell ctx = (v.ctx cell ctx).setStream st t := (State.setCtx_ctx v cell ctx cell ctx _).trans (if_pos ⟨rfl, rfl⟩)
  have htag : (v.cell cell).tag = (s.cell cell).tag := h.of_cell (·.tag) (fun _ => rfl) cell
  have hlcell : (v.cell cell).lcell = (s.cell cell).lcell := h.of_cell (·.lcell) (fun _ => rfl) cell
  have htime : v.time = s.time := by have e := congrArg State.time h.core; exact e
  have hesc : (v.ctx cell ctx).esc = (s.ctx cell ctx).esc := h.of_ctx (·.esc) (fun _ => rfl) cell ctx
  have hchan : (v.ctx cell ctx).chan = (s.ctx cell ctx).chan := h.of_ctx (·.chan) (fun _ => rfl) cell ctx
  have hphdr : (v.ctx cell ctx).phdr = (s.ctx cell ctx).phdr := h.of_ctx (·.phdr) (fun _ => rfl) cell ctx
  have hpc : (v.ctx cell ctx).ea.pc = (s.ctx cell ctx).ea.pc := h.of_ctx (·.ea.pc) (fun _ => rfl) cell ctx
  have hfb : ((v.setStream cell ctx st t).part ((v.setStream cell ctx st t).cell cell).tag).fbhdr = 0 := by
    rw [hcell]
    show (v.part (v.cell cell).tag).fbhdr = 0
    rw [h.part, htag, hb]
  rw [State.lateStore_esc _ _ _ _ _ hfb, hctx, hcell]
  show (v.ctx cell ctx).esc ++ [mkRecord w.code 1 ctx (v.ctx cell ctx).chan (v.cell cell).lcell.toNat 4 w.level w.va (zext (v.ctx cell ctx).ea.pc) (BitVec.ofNat 64 i)
    (v.ctx cell ctx).phdr v.time 1 w.cause] = _
  rw [hesc, hchan, hlcell, hpc, hphdr, htime]

end Sys2Proof.Machine
end

section
/-! A copy-landing stream takes a landed group (R68, R69, R427); a buffered entry drains (R108, R131, R142); a lease ends (R107). -/

namespace Sys2Proof.Machine
open Sys2Proof Sys2Proof.Claims

variable {s u v z : State} {cell ctx n : Nat} {st : StreamNo} {sc : ScaleW}

/-! The group that a copy-landing stream takes. -/

/-- From s to t the cell's store and its channels stayed. -/
structure SameStore (cell : Nat) (s t : State) : Prop where
  store : (t.cell cell).store = (s.cell cell).store
  cpoison : (t.cell cell).cpoison = (s.cell cell).cpoison
  chans : (t.cell cell).chans = (s.cell cell).chans

namespace SameStore

theorem refl (s : State) : SameStore cell s s := ⟨rfl, rfl, rfl⟩
theorem trans {t : State} (h : SameStore cell s t) (g : SameStore cell t u) : SameStore cell s u := ⟨g.store.trans h.store, g.cpoison.trans h.cpoison, g.chans.trans h.chans⟩
theorem of_access {t : State} {n : Nat} (h : Access n s t) : SameStore cell s t :=
  ⟨h.of_cell (·.store) (fun _ => rfl) cell, h.of_cell (·.cpoison) (fun _ => rfl) cell, h.of_cell (·.chans) (fun _ => rfl) cell⟩
theorem dropOne (s : State) (cell : Nat) : SameStore cell s (s.setCell cell (s.cell cell).dropOne) := by
  have h : (s.setCell cell (s.cell cell).dropOne).cell cell = (s.cell cell).dropOne := (State.setCell_cell s cell cell _).trans (if_pos rfl)
  exact ⟨by rw [h]; rfl, by rw [h]; rfl, by rw [h]; rfl⟩
theorem mailHit (h : SameStore cell s u) (off n : Nat) : (u.cell cell).mailHit off n = (s.cell cell).mailHit off n := by
  unfold Cell.mailHit
  rw [h.chans]
theorem rawRead (h : SameStore cell s u) (off n : Nat) : (u.cell cell).rawRead off n = (s.cell cell).rawRead off n := by
  unfold Cell.rawRead
  rw [h.store]
theorem storePoison (h : SameStore cell s u) (off n : Nat) : (u.cell cell).storePoison off n = (s.cell cell).storePoison off n := by
  unfold Cell.storePoison
  rw [h.cpoison]

end SameStore

/-- The group that a copy-landing stream takes next, which may be taken. -/
structure Takeable (s : State) (cell ctx : Nat) (st : StreamNo) : Prop where
  opened : ((s.ctx cell ctx).stream st).st = .opened
  kind : dKind ((s.ctx cell ctx).stream st).desc = 5
  room : ((s.ctx cell ctx).stream st).fill < dDepth ((s.ctx cell ctx).stream st).desc
  more : ((s.ctx cell ctx).stream st).issued < dRows ((s.ctx cell ctx).stream st).desc * dGroups ((s.ctx cell ctx).stream st).desc

/-- The group that a stream issues next. -/
abbrev issuedGroup (t : Stream) : GroupAt := groupAt t.desc t.issued

/-- All granules of the group have landed. -/
def State.hasLanded (s : State) (cell ctx : Nat) (st : StreamNo) : Bool :=
  (granules (issuedGroup ((s.ctx cell ctx).stream st)).addr.toNat (issuedGroup ((s.ctx cell ctx).stream st)).len).all fun g => mget false (s.cell cell).landed g

/-- The scale that the group takes, if it need not wait, and the state after. -/
def State.landingTakes (s : State) (cell ctx : Nat) (t : Stream) : State × Option ScaleW :=
  if dScBase t.desc = 0 then (s, some .absent)
  else if (issuedGroup t).p = 0 then s.landingScale cell ctx (scaleVa t.desc (issuedGroup t).row) else (s, some t.rowScale)

/-- The stream with the group taken. -/
def State.takenStream (s : State) (cell ctx : Nat) (st : StreamNo) (sc : ScaleW) : Stream :=
  let t := (s.ctx cell ctx).stream st
  let a := issuedGroup t
  { t with
    issued := t.issued + 1, next := t.next + 1, tail := t.tail + 1, rowScale := sc, waiting := false
    entries := t.entries ++ [⟨vecOf ((s.cell cell).rawRead a.addr.toNat a.len), 0xFFFF, sc, (s.cell cell).storePoison a.addr.toNat a.len⟩] }

theorem copyLanding_waits (h : s.hasLanded cell ctx st = false) : runs (.evCopyLandingGroupIssue cell ctx st) s s := by
  refine congrArg Host.Outcome.next (if_pos ?_)
  refine .inr (.inr (.inr (.inr ?_)))
  show (!s.hasLanded cell ctx st) = true
  rw [h]
  rfl

/-- Nothing keeps it from being taken. -/
theorem Takeable.not_skips (h : Takeable s cell ctx st) (hl : s.hasLanded cell ctx st = true) :
    let t := (s.ctx cell ctx).stream st
    ¬(t.st ≠ .opened ∨ dKind t.desc ≠ 5 ∨ dDepth t.desc ≤ t.fill ∨ dRows t.desc * dGroups t.desc ≤ t.issued
      ∨ (!(granules (issuedGroup t).addr.toNat (issuedGroup t).len).all fun g => mget false (s.cell cell).landed g) = true) := by
  intro t
  rintro (g | g | g | g | g)
  · exact g h.opened
  · exact g h.kind
  · exact absurd h.room (Nat.not_lt.2 g)
  · exact absurd h.more (Nat.not_lt.2 g)
  · exact absurd hl (by rw [State.hasLanded, Bool.not_eq_true, ← Bool.not_eq_true']; exact g)

theorem copyLanding_scaleWaits (h : Takeable s cell ctx st) (hl : s.hasLanded cell ctx st = true)
    (hz : s.landingTakes cell ctx ((s.ctx cell ctx).stream st) = (z, none)) : runs (.evCopyLandingGroupIssue cell ctx st) s (z.scaleWaits cell ctx st) := by
  refine congrArg Host.Outcome.next ((if_neg (h.not_skips hl)).trans ?_)
  unfold State.landingTakes at hz
  rw [hz]

theorem copyLanding_issues (h : Takeable s cell ctx st) (hl : s.hasLanded cell ctx st = true) (hm : (s.cell cell).mailHit (issuedGroup ((s.ctx cell ctx).stream st)).addr.toNat
      (issuedGroup ((s.ctx cell ctx).stream st)).len = false)
    (hz : s.landingTakes cell ctx ((s.ctx cell ctx).stream st) = (z, some sc)) (hs : SameStore cell s z) :
    ∃ u, runs (.evCopyLandingGroupIssue cell ctx st) s u ∧ (u.ctx cell ctx).stream st = s.takenStream cell ctx st sc := by
  generalize ha : issuedGroup ((s.ctx cell ctx).stream st) = a at hm
  let w := z.tookScale cell ctx ((s.ctx cell ctx).stream st).waiting
  have hw : SameStore cell s w := hs.trans (by
    unfold w State.tookScale
    split
    · exact .of_access (State.acquire_access ..)
    · exact .refl z)
  have hbytes : (w.storeRead cell a.addr.toNat a.len).2 = (s.cell cell).rawRead a.addr.toNat a.len :=
    (w.storeRead_bytes cell _ _ ((hw.mailHit _ _).trans hm)).trans (hw.rawRead _ _)
  have hstream : s.takenStream cell ctx st sc = { (s.ctx cell ctx).stream st with
      next := ((s.ctx cell ctx).stream st).next + 1, tail := ((s.ctx cell ctx).stream st).tail + 1, issued := ((s.ctx cell ctx).stream st).issued + 1, rowScale := sc, waiting := false
      entries := ((s.ctx cell ctx).stream st).entries ++ [Entry.ofBytes (w.storeRead cell a.addr.toNat a.len).2 sc ((w.cell cell).storePoison a.addr.toNat a.len)] } := by
    rw [hbytes, hw.storePoison, ← ha]
    rfl
  refine ⟨(w.storeRead cell a.addr.toNat a.len).1.setStream cell ctx st (s.takenStream cell ctx st sc), congrArg Host.Outcome.next ?_, State.setStream_stream _ _ _ _ _⟩
  rw [hstream]
  refine (if_neg (h.not_skips hl)).trans ?_
  unfold State.landingTakes at hz
  rw [hz, ← ha]
  rfl

/-! The scale that it takes. -/

variable {t : Stream} {l : Loc}

theorem landingTakes_read (hb : dScBase t.desc ≠ 0) (hp : (issuedGroup t).p = 0) :
    s.landingTakes cell ctx t = s.landingScale cell ctx (scaleVa t.desc (issuedGroup t).row) := by
  rw [State.landingTakes, if_neg hb, if_pos hp]

theorem landingScale_misaligned {va : Word} (h : va.toNat % 4 ≠ 0) : s.landingScale cell ctx va = (s.setCell cell (s.cell cell).dropOne, some .bad) :=
  if_pos h

theorem landingScale_faults {va : Word} {w : Why × State} (ha : va.toNat % 4 = 0) (h : s.xlateDev (s.cell cell).tag false .read va = .error w) :
    s.landingScale cell ctx va = (w.2.setCell cell (w.2.cell cell).dropOne, some .bad) := by
  refine (if_neg (not_not.2 ha)).trans ?_
  rw [h]

theorem landingScale_failed {va : Word} {m : Nat} (ha : va.toNat % 4 = 0) (h : s.xlateDev (s.cell cell).tag false .read va = .ok (l, v))
    (hl : v.stageAt (s.cell cell).tag l.pa = some (.failed m)) : s.landingScale cell ctx va = (v, some .bad) := by
  refine (if_neg (not_not.2 ha)).trans ?_
  rw [h]
  dsimp only
  rw [hl]

theorem landingScale_pending {va : Word} {a m : Nat} (ha : va.toNat % 4 = 0) (h : s.xlateDev (s.cell cell).tag false .read va = .ok (l, v))
    (hl : v.stageAt (s.cell cell).tag l.pa = some (.pending a m)) : s.landingScale cell ctx va = (v, none) := by
  refine (if_neg (not_not.2 ha)).trans ?_
  rw [h]
  dsimp only
  rw [hl]

theorem landingScale_reads {va : Word} (ha : va.toNat % 4 = 0) (h : s.xlateDev (s.cell cell).tag false .read va = .ok (l, v))
    (hl : v.stageAt (s.cell cell).tag l.pa = none) : s.landingScale cell ctx va =
      (((v.allocIn (homeBank l) (s.cell cell).tag).scaleAt cell ctx l).1, some ((v.allocIn (homeBank l) (s.cell cell).tag).scaleAt cell ctx l).2) := by
  refine (if_neg (not_not.2 ha)).trans ?_
  rw [h]
  dsimp only
  rw [hl]

/-- A scale read that no L1 copy and no buffered store serves (R69, R107). -/
theorem landingScale_word {va : Word} (h : s.xlateDev (s.cell cell).tag false .read va = .ok (l, v)) (ha : l.pa % 4 = 0) (hs : (s.ctx cell ctx).sb = [])
    (hh : s.hits cell ctx (l.pa / 64) = []) : ((v.allocIn (homeBank l) (s.cell cell).tag).scaleAt cell ctx l).2 =
      if v.poisoned (l.pa / 64) then .bad else .word (BitVec.ofNat 32 (leNat (bytesAt v l.pa 4))) := by
  have m := s.xlateDev_onlyMemory (s.cell cell).tag false .read va
  rw [h] at m
  replace m : OnlyMemory s v := m
  have hcell := cell_of_cells m.cells
  have hcycle : v.cycle = s.cycle := by have e := congrArg State.cycle m.rest; exact e
  refine (Rested.of_looks (Looks.allocIn v (homeBank l) (s.cell cell).tag) ?_).scale (by omega) ?_
  · rw [ctx_of_cells m.cells, hs]
  · rw [State.hits, hcell, ctx_of_cells m.cells, hcycle]
    exact hh

/-! A buffered entry drains. -/

theorem sbMayLeave_iff {sb : List SbLine} {e : SbLine} (h : sb[n]? = some e) :
    sbMayLeave sb n = true ↔ ∀ f ∈ sb.take n, f.line ≠ e.line ∧ e.ord ≠ .rel ∧ (f.ord = .weak ∨ e.ord = .weak ∨ f.bank ≠ e.bank) := by
  rw [sbMayLeave, h, List.all_eq_true]
  refine forall₂_congr fun f _ => ?_
  simp only [SbLine.before, Bool.not_eq_true', Bool.or_eq_false_iff, Bool.and_eq_false_iff, beq_eq_false_iff_ne, bne_eq_false_iff_eq]
  tauto

theorem storeBufferDrain_stays {e : SbLine} (h : (s.ctx cell ctx).sb[n]? = some e) (hm : sbMayLeave (s.ctx cell ctx).sb n = false) :
    runs (.evStoreBufferDrain cell ctx n) s s := by
  refine congrArg Host.Outcome.next ?_
  dsimp only
  rw [h]
  exact if_neg (Bool.eq_false_iff.1 hm)

theorem storeBufferDrain_leaves {e : SbLine} (h : (s.ctx cell ctx).sb[n]? = some e) (hm : sbMayLeave (s.ctx cell ctx).sb n = true) :
    runs (.evStoreBufferDrain cell ctx n) s (s.drainEntry cell ctx e) := by
  refine congrArg Host.Outcome.next ?_
  dsimp only
  rw [h]
  exact if_pos hm

/-! A lease ends. -/

theorem leaseExpiry_drops {l : L1Line} (h : (s.cell cell).l1[n]? = some l) (hl : l.upto ≤ s.cycle.toNat) :
    runs (.evL1LeaseExpiry cell n) s (s.setCell cell { s.cell cell with l1 := (s.cell cell).l1.eraseIdx n }) := by
  refine congrArg Host.Outcome.next ?_
  dsimp only
  rw [h]
  exact if_pos hl

theorem leaseExpiry_keeps {l : L1Line} (h : (s.cell cell).l1[n]? = some l) (hl : s.cycle.toNat < l.upto) : runs (.evL1LeaseExpiry cell n) s s := by
  refine congrArg Host.Outcome.next ?_
  dsimp only
  rw [h]
  exact if_neg (Nat.not_le.2 hl)

end Sys2Proof.Machine
end

section
/-! Streams move (R68 to R71, R105 to R109, R243, R426). -/

namespace Sys2Proof.Machine
open Sys2Proof Sys2Proof.Claims

variable {s v : State} {cell ctx : Nat} {st : StreamNo} {e : Entry} {es : List Entry} {ps : List Piece} {why : Why}

/-- A closing stream's group whose scale read waits (R124). -/
theorem closing_waits (hst : ((s.ctx cell ctx).stream st).stores = []) (hc : ((s.ctx cell ctx).stream st).st = .closing)
    (he : ((s.ctx cell ctx).stream st).entries = e :: es)
    (hp : s.closePieces cell ctx ((s.ctx cell ctx).stream st).desc (nextGroup ((s.ctx cell ctx).stream st)) = .ok ((ps, true), v)) :
    ∃ u, runs (.evStoreGroupWritten cell ctx st) s u ∧ (u.ctx cell ctx).stream st = { (s.ctx cell ctx).stream st with waiting := true } := by
  have hv : (v.ctx cell ctx).stream st = (s.ctx cell ctx).stream st := by
    have ha := s.closePieces_access cell ctx ((s.ctx cell ctx).stream st).desc (nextGroup ((s.ctx cell ctx).stream st))
    rw [hp] at ha
    exact ha.of_ctx (fun x => x.stream st) (fun _ => rfl) cell ctx
  refine ⟨_, storeWritten_closes hst hc, ?_⟩
  rw [State.closedUp, State.setStream_stream, closeEntry_waits he hp, State.scaleWaits_stream, hv, Stream.settle_eq, if_neg]
  rintro ⟨-, h, -⟩
  rw [show _ = e :: es from he] at h
  cases h

/-- A closing stream's entry is written at the group numbered NEXT (R71). -/
theorem closing_writes (hst : ((s.ctx cell ctx).stream st).stores = []) (hc : ((s.ctx cell ctx).stream st).st = .closing)
    (he : ((s.ctx cell ctx).stream st).entries = e :: es)
    (hp : s.closePieces cell ctx ((s.ctx cell ctx).stream st).desc (nextGroup ((s.ctx cell ctx).stream st)) = .ok ((ps, false), v)) :
    let t := (s.ctx cell ctx).stream st
    ∃ u, runs (.evStoreGroupWritten cell ctx st) s u ∧ (∀ p, ps = [p] → pieceWritten v u cell ctx (dCellKind t.desc) (dStrong t.desc) p e)
      ∧ (u.ctx cell ctx).stream st = if es = [] then closedStream t else { t with entries := es, head := t.head + 1, next := t.next + 1, waiting := false } := by
  intro t
  refine ⟨_, storeWritten_closes hst hc, fun p hps => ?_, ?_⟩
  · rw [closeEntry_writes he hp, State.closedUp]
    exact SameData.pieceWritten ((v.tookScale_same cell ctx t.waiting).symm) ((State.setStream_same _ cell ctx st _).trans (State.setStream_same _ cell ctx st _))
      (pieceWritten_writeGroup _ cell ctx _ _ hps e)
  · rw [State.closedUp, State.setStream_stream, closeEntry_writes he hp, State.setStream_stream, Stream.settle_eq]
    by_cases hes : es = []
    · rw [if_pos hes, if_pos ⟨hc, hes, hst⟩]
      rfl
    · rw [if_neg hes, if_neg fun h => hes h.2.1]

/-- A closing stream's group that faults ends it with a record (R426). -/
theorem closing_faults (hst : ((s.ctx cell ctx).stream st).stores = []) (hc : ((s.ctx cell ctx).stream st).st = .closing)
    (he : ((s.ctx cell ctx).stream st).entries = e :: es)
    (hp : s.closePieces cell ctx ((s.ctx cell ctx).stream st).desc (nextGroup ((s.ctx cell ctx).stream st)) = .error (why, v)) :
    let x := s.ctx cell ctx
    let t := x.stream st
    ∃ u, runs (.evStoreGroupWritten cell ctx st) s u ∧ (u.ctx cell ctx).stream st = closedStream t
      ∧ ((s.part (s.cell cell).tag).fbhdr = 0 → (u.ctx cell ctx).esc = x.esc ++ [mkRecord why.code 1 ctx x.chan (s.cell cell).lcell.toNat 4 why.level (nextGroup t).addr
          (x.ea.pc.setWidth 64) (BitVec.ofNat 64 t.next.toNat) x.phdr s.time 1 why.cause]) := by
  intro x t
  have ha : Access cell s v := by
    have ha := s.closePieces_access cell ctx t.desc (nextGroup t)
    rw [hp] at ha
    exact ha
  refine ⟨_, storeWritten_closes hst hc, ?_, fun hb => ?_⟩
  · rw [State.closedUp, State.setStream_stream, closeEntry_faults he hp, State.lateStore_stream, State.setStream_stream, Stream.settle_eq, if_pos ⟨hc, rfl, hst⟩]
    rfl
  · rw [State.closedUp, State.setStream, State.setCtx_ctx, if_pos ⟨rfl, rfl⟩, closeEntry_faults he hp]
    exact State.lateStore_setStream_esc ha st _ _ _ hb

/-- Settles O29: what a read gives is what its context sees through its buffer, and what a group's writing leaves is its writes over the cell store,
over the homes behind the buffer, or over the buffer. -/
theorem streamsMove : Obligations.StreamsMove := by
  unfold Obligations.StreamsMove
  refine ⟨fun s cell ctx st f rest hf => ?_, fun s cell ctx st => ?_, fun s cell ctx st => ?_, fun s cell ctx n e he => ?_, fun s cell n l hl => ?_⟩
  · intro i x t quietHits
    refine ⟨streamGroupLand_waits hf, fun hw => ?_⟩
    have hrun := streamGroupLand_lands hf hw
    have hstream := s.landed_stream cell ctx st f
    refine ⟨fun hd => ⟨_, hrun, by rw [hstream, State.landedStream, if_neg hd], s.landed_horizon cell ctx st⟩, fun hd => ?_⟩
    refine ⟨_, s.landedEntry cell ctx st f, hrun, s.landed_horizon cell ctx st, rfl, by rw [hstream, State.landedStream, if_pos hd], fun p hg hl h0 => ?_,
      s.landedEntry_carries cell ctx st, fun pa pl hsc hpa hk hsb hq => s.landedEntry_reads cell ctx st hsc hpa hk hsb hq⟩
    exact ⟨fun hc hm => s.landedEntry_cell cell ctx st hg hl hc hm, fun hc hs hq => s.landedEntry_memory cell ctx st hg hl h0 hc hs hq⟩
  · intro i x t ck rel
    refine ⟨fun g e rest hst => ⟨storeWritten_waits hst, fun hw => ⟨_, storeWritten_issued hst hw, ?_, fun p hg => ?_⟩⟩, storeWritten_idle, fun e rest hst hc he => ?_⟩
    · rw [State.setStream_stream, Stream.settle_eq]
      exact if_congr (and_congr_right fun _ => and_comm) rfl rfl
    · exact SameData.pieceWritten (.refl s) (State.setStream_same _ cell ctx st _) (pieceWritten_writeGroup s cell ctx ck rel hg e)
    · intro a
      refine ⟨fun ps v hp => closing_waits hst hc he hp, fun ps v hp => ?_, fun w v hp => closing_faults hst hc he hp⟩
      obtain ⟨u, hu, hpiece, hs⟩ := closing_writes hst hc he hp
      exact ⟨u, hu, hpiece, fun h => hs.trans (if_neg h), fun h => hs.trans (if_pos h)⟩
  · intro t i a landed ho hk hf hi
    have htake : Takeable s cell ctx st := ⟨ho, hk, hf, hi⟩
    have hland : s.hasLanded cell ctx st = true ↔ landed := List.all_eq_true
    refine ⟨fun h => copyLanding_waits (by rw [← Bool.not_eq_true, hland]; exact h), fun h hm => ?_⟩
    have takes : ∀ {z : State} {sc : ScaleW}, s.landingTakes cell ctx t = (z, some sc) → SameStore cell s z →
        ∃ u, runs i s u ∧ (u.ctx cell ctx).stream st = s.takenStream cell ctx st sc := fun hz hs => copyLanding_issues htake (hland.2 h) hm hz hs
    refine ⟨fun hb => takes (if_pos hb) (.refl s), fun hb hp => takes ((if_neg hb).trans (if_neg hp)) (.refl s), fun hb hp hal => ?_, fun hb hp hal => ⟨fun w hx => ?_, fun l v hx => ?_⟩⟩
    · exact takes ((landingTakes_read hb hp).trans (landingScale_misaligned hal)) (.dropOne s cell)
    · have m := s.xlateDev_onlyMemory (s.cell cell).tag false .read (scaleVa t.desc a.row)
      rw [hx] at m
      exact takes ((landingTakes_read hb hp).trans (landingScale_faults hal hx)) ((SameStore.of_access (m.access (n := cell))).trans (.dropOne w.2 cell))
    · have m : OnlyMemory s v := by
        have m := s.xlateDev_onlyMemory (s.cell cell).tag false .read (scaleVa t.desc a.row)
        rw [hx] at m
        exact m
      refine ⟨fun k hst => takes ((landingTakes_read hb hp).trans (landingScale_failed hal hx hst)) (.of_access (m.access (n := cell))), fun p k hst => ?_, fun hst hpa hsb hq => ?_⟩
      · refine ⟨_, copyLanding_scaleWaits htake (hland.2 h) ((landingTakes_read hb hp).trans (landingScale_pending hal hx hst)), ?_⟩
        rw [State.scaleWaits_stream, ctx_of_cells m.cells]
      · rw [← landingScale_word (ctx := ctx) hx hpa hsb hq]
        exact takes ((landingTakes_read hb hp).trans (landingScale_reads hal hx hst))
          (.of_access ((m.access.trans (State.allocIn_onlyMemory v _ _).access).trans (State.readPlace_access _ cell ctx false l.place l.pa 4)))
  · intro i may
    have hmay : sbMayLeave (s.ctx cell ctx).sb n = true ↔ may := sbMayLeave_iff he
    refine ⟨fun h => storeBufferDrain_stays he (by rw [← Bool.not_eq_true, hmay]; exact h), fun h hs => ⟨_, storeBufferDrain_leaves he (hmay.2 h), ?_, fun x => ?_⟩⟩
    · rw [State.drainEntry_ctx, if_pos ⟨rfl, rfl⟩]
    · rw [s.drainEntry_latest cell ctx e hs, SbLine.byteAt, apply_ite (Option.getD · (s.latest x))]
      exact if_congr (and_congr_left' eq_comm) rfl rfl
  · exact ⟨fun h => ⟨_, leaseExpiry_drops hl h, by rw [State.setCell_cell, if_pos rfl], rfl⟩, leaseExpiry_keeps hl⟩

end Sys2Proof.Machine
end
